-- ==== Sys2Proof/Word.lean ====
section
/-! DEFINITION. The word types, the sparse map type and the small vocabularies that instructions and events share. -/

namespace Sys2Proof

/-- A 64-bit register value (R98). -/
abbrev Word := BitVec 64
/-- A byte (R6). -/
abbrev Byte := BitVec 8

/-- Sparse data by key: keys strictly rising, no entry equal to the default of its key. -/
abbrev SMap (α : Type) := List (Nat × α)

/-- The agent that makes a register write (R275): who may write is each register's own rule. -/
inductive Agent where
  /-- the host of PCI Express port `p`, by a management write (R422, R423): the owner while the cube is owned by the port (R427) -/
  | port (p : Nat)
  /-- the island controller (R19) -/
  | island
  /-- a traveller of the given level and partition on the given steward -/
  | steward (id level part : Nat)
  /-- any other agent -/
  | other
deriving DecidableEq, Repr

/-- A change of the stripe map (R336, R340): the 32 bytes of entry `i`, or the 16 bytes of the header and the 256 member halves of set
`i`. -/
inductive MapChange where
  | entry (i : Nat) (v : BitVec 256)
  | set (i : Nat) (header : BitVec 128) (halves : List (BitVec 16))
deriving DecidableEq, Repr

end Sys2Proof
end

