-- ==== Sys2Proof/Machine/Legal.lean ====
section
/-! DEFINITION. What makes the fields of a decoded word legal (R50, R56): destinations, indices, scopes and classes. -/

namespace Sys2Proof.Machine

/-- A register field that may be written: g0 to g23 and zr (R50). -/
def destOk (d : BitVec 5) : Bool := decide (d.toNat < 25)
/-- A ring index (R56); the field has three bits, so every value names a ring. -/
def ringOk (_n : BitVec 3) : Bool := true
/-- A FENCE scope, 0 to 4 (R302). -/
def scopeOk (c : BitVec 5) : Bool := decide (c.toNat < 5)
/-- A FENCEX class, 0 to 6 (R302). -/
def classOk (c : BitVec 5) : Bool := decide (c.toNat < 7)
/-- The body length of VLOOP, 1 to 16 (R56). -/
def bodyOk (l : BitVec 5) : Bool := decide (1 ≤ l.toNat) && decide (l.toNat ≤ 16)

/-- The pairing of operation and type of a vector function `f` of major `m` (R57, R199, R204 to R207, R212, R215). -/
def pairOk (m f : Nat) : Bool :=
  let op := f / 8
  let ty := f % 8
  match m with
  | 0x30 =>
    if op = 29 then ty == 0 || ty == 1 || ty == 4 || ty == 5
    else if op = 19 ∨ op = 20 then decide (4 ≤ ty)
    else if (5 ≤ op ∧ op ≤ 15) ∨ op = 27 then decide (ty < 4)
    else decide (op ≤ 28)
  | 0x31 => f / 16 != f % 16
  | 0x32 => decide (op < 5) || (decide (op < 8) && decide (ty < 4))
  | 0x33 => decide (op < 9) || (op == 9 && decide (ty < 4))
  | 0x34 => decide (op < 8) && decide (4 ≤ ty) && decide (ty < 7)
  | 0x36 => decide (op < 6) && (ty == 2 || ty == 3 || ty == 6 || ty == 7)
  | 0x37 => decide (f < 3)
  | _ => false

end Sys2Proof.Machine
end

