-- ==== Sys2Proof/Syntax.lean ====
section
/-! DEFINITION. The instruction set: one constructor for each row of the opcode table, 300 instruction words
(chapter 03, R48 to R58) and 168 events (rows without a word, the steps of the agents that are no instruction
stream). A word constructor holds the fields of its row, W first; an event constructor holds the operands of the event. -/

namespace Sys2Proof

/-- The rows of the opcode table, in its order. -/
inductive Instr where
  /-- ADD, R101. -/
  | add (w : BitVec 3) (d : BitVec 5) (a : BitVec 5) (b : BitVec 5)
  /-- SUB, R101. -/
  | sub (w : BitVec 3) (d : BitVec 5) (a : BitVec 5) (b : BitVec 5)
  /-- AND, R101. -/
  | and (w : BitVec 3) (d : BitVec 5) (a : BitVec 5) (b : BitVec 5)
  /-- OR, R101. -/
  | or (w : BitVec 3) (d : BitVec 5) (a : BitVec 5) (b : BitVec 5)
  /-- XOR, R101. -/
  | xor (w : BitVec 3) (d : BitVec 5) (a : BitVec 5) (b : BitVec 5)
  /-- ANDN, R101. -/
  | andn (w : BitVec 3) (d : BitVec 5) (a : BitVec 5) (b : BitVec 5)
  /-- ORN, R101. -/
  | orn (w : BitVec 3) (d : BitVec 5) (a : BitVec 5) (b : BitVec 5)
  /-- XNOR, R101. -/
  | xnor (w : BitVec 3) (d : BitVec 5) (a : BitVec 5) (b : BitVec 5)
  /-- SLL, R101. -/
  | sll (w : BitVec 3) (d : BitVec 5) (a : BitVec 5) (b : BitVec 5)
  /-- SRL, R101. -/
  | srl (w : BitVec 3) (d : BitVec 5) (a : BitVec 5) (b : BitVec 5)
  /-- SRA, R101. -/
  | sra (w : BitVec 3) (d : BitVec 5) (a : BitVec 5) (b : BitVec 5)
  /-- ROL, R101. -/
  | rol (w : BitVec 3) (d : BitVec 5) (a : BitVec 5) (b : BitVec 5)
  /-- ROR, R101. -/
  | ror (w : BitVec 3) (d : BitVec 5) (a : BitVec 5) (b : BitVec 5)
  /-- SLT, R101. -/
  | slt (w : BitVec 3) (d : BitVec 5) (a : BitVec 5) (b : BitVec 5)
  /-- SLTU, R101. -/
  | sltu (w : BitVec 3) (d : BitVec 5) (a : BitVec 5) (b : BitVec 5)
  /-- MIN, R101. -/
  | min (w : BitVec 3) (d : BitVec 5) (a : BitVec 5) (b : BitVec 5)
  /-- MAX, R101. -/
  | max (w : BitVec 3) (d : BitVec 5) (a : BitVec 5) (b : BitVec 5)
  /-- MINU, R101. -/
  | minu (w : BitVec 3) (d : BitVec 5) (a : BitVec 5) (b : BitVec 5)
  /-- MAXU, R101. -/
  | maxu (w : BitVec 3) (d : BitVec 5) (a : BitVec 5) (b : BitVec 5)
  /-- SEQ, R101. -/
  | seq (w : BitVec 3) (d : BitVec 5) (a : BitVec 5) (b : BitVec 5)
  /-- SNE, R101. -/
  | sne (w : BitVec 3) (d : BitVec 5) (a : BitVec 5) (b : BitVec 5)
  /-- ADDW, R101. -/
  | addw (w : BitVec 3) (d : BitVec 5) (a : BitVec 5) (b : BitVec 5)
  /-- SUBW, R101. -/
  | subw (w : BitVec 3) (d : BitVec 5) (a : BitVec 5) (b : BitVec 5)
  /-- SLLW, R101. -/
  | sllw (w : BitVec 3) (d : BitVec 5) (a : BitVec 5) (b : BitVec 5)
  /-- SRLW, R101. -/
  | srlw (w : BitVec 3) (d : BitVec 5) (a : BitVec 5) (b : BitVec 5)
  /-- SRAW, R101. -/
  | sraw (w : BitVec 3) (d : BitVec 5) (a : BitVec 5) (b : BitVec 5)
  /-- CLZ, R101. -/
  | clz (w : BitVec 3) (d : BitVec 5) (a : BitVec 5)
  /-- CTZ, R101. -/
  | ctz (w : BitVec 3) (d : BitVec 5) (a : BitVec 5)
  /-- POPC, R101. -/
  | popc (w : BitVec 3) (d : BitVec 5) (a : BitVec 5)
  /-- BREV, R101. -/
  | brev (w : BitVec 3) (d : BitVec 5) (a : BitVec 5)
  /-- BSWAP, R101. -/
  | bswap (w : BitVec 3) (d : BitVec 5) (a : BitVec 5)
  /-- SEXT, R101. -/
  | sext (w : BitVec 3) (d : BitVec 5) (a : BitVec 5) (b : BitVec 5)
  /-- MUL, R102. -/
  | mul (w : BitVec 3) (d : BitVec 5) (a : BitVec 5) (b : BitVec 5)
  /-- MULH, R102. -/
  | mulh (w : BitVec 3) (d : BitVec 5) (a : BitVec 5) (b : BitVec 5)
  /-- MULHU, R102. -/
  | mulhu (w : BitVec 3) (d : BitVec 5) (a : BitVec 5) (b : BitVec 5)
  /-- MULW, R102. -/
  | mulw (w : BitVec 3) (d : BitVec 5) (a : BitVec 5) (b : BitVec 5)
  /-- DIV, R103. -/
  | div (w : BitVec 3) (d : BitVec 5) (a : BitVec 5) (b : BitVec 5)
  /-- DIVU, R103. -/
  | divu (w : BitVec 3) (d : BitVec 5) (a : BitVec 5) (b : BitVec 5)
  /-- REM, R103. -/
  | rem (w : BitVec 3) (d : BitVec 5) (a : BitVec 5) (b : BitVec 5)
  /-- REMU, R103. -/
  | remu (w : BitVec 3) (d : BitVec 5) (a : BitVec 5) (b : BitVec 5)
  /-- BILV2, R102. -/
  | bilv2 (w : BitVec 3) (d : BitVec 5) (a : BitVec 5) (b : BitVec 5)
  /-- BILV3, R102. -/
  | bilv3 (w : BitVec 3) (d : BitVec 5) (a : BitVec 5) (b : BitVec 5)
  /-- BDIL3, R102. -/
  | bdil3 (w : BitVec 3) (d : BitVec 5) (a : BitVec 5) (b : BitVec 5)
  /-- EXTU, R102. -/
  | extu (w : BitVec 3) (d : BitVec 5) (a : BitVec 5) (b : BitVec 5)
  /-- EXTS, R102. -/
  | exts (w : BitVec 3) (d : BitVec 5) (a : BitVec 5) (b : BitVec 5)
  /-- INS, R102. -/
  | ins (w : BitVec 3) (d : BitVec 5) (a : BitVec 5) (b : BitVec 5)
  /-- ADDI, R104. -/
  | addi (w : BitVec 3) (d : BitVec 5) (a : BitVec 5) (i : BitVec 13)
  /-- ANDI, R104. -/
  | andi (w : BitVec 3) (d : BitVec 5) (a : BitVec 5) (i : BitVec 13)
  /-- ORI, R104. -/
  | ori (w : BitVec 3) (d : BitVec 5) (a : BitVec 5) (i : BitVec 13)
  /-- XORI, R104. -/
  | xori (w : BitVec 3) (d : BitVec 5) (a : BitVec 5) (i : BitVec 13)
  /-- SLTI, R104. -/
  | slti (w : BitVec 3) (d : BitVec 5) (a : BitVec 5) (i : BitVec 13)
  /-- SLTIU, R104. -/
  | sltiu (w : BitVec 3) (d : BitVec 5) (a : BitVec 5) (i : BitVec 13)
  /-- SLLI, R105. -/
  | slli (w : BitVec 3) (d : BitVec 5) (a : BitVec 5) (h : BitVec 6)
  /-- SRLI, R105. -/
  | srli (w : BitVec 3) (d : BitVec 5) (a : BitVec 5) (h : BitVec 6)
  /-- SRAI, R105. -/
  | srai (w : BitVec 3) (d : BitVec 5) (a : BitVec 5) (h : BitVec 6)
  /-- RORI, R105. -/
  | rori (w : BitVec 3) (d : BitVec 5) (a : BitVec 5) (h : BitVec 6)
  /-- HIMM, R106. -/
  | himm (w : BitVec 3) (d : BitVec 5) (i : BitVec 18)
  /-- PCHI, R106. -/
  | pchi (w : BitVec 3) (d : BitVec 5) (i : BitVec 18)
  /-- FADD, R108. -/
  | fadd (w : BitVec 3) (d : BitVec 5) (a : BitVec 5) (b : BitVec 5) (t : BitVec 1)
  /-- FSUB, R108. -/
  | fsub (w : BitVec 3) (d : BitVec 5) (a : BitVec 5) (b : BitVec 5) (t : BitVec 1)
  /-- FMUL, R108. -/
  | fmul (w : BitVec 3) (d : BitVec 5) (a : BitVec 5) (b : BitVec 5) (t : BitVec 1)
  /-- FDIV, R108. -/
  | fdiv (w : BitVec 3) (d : BitVec 5) (a : BitVec 5) (b : BitVec 5) (t : BitVec 1)
  /-- FSQRT, R108. -/
  | fsqrt (w : BitVec 3) (d : BitVec 5) (a : BitVec 5) (t : BitVec 1)
  /-- FMIN, R109. -/
  | fmin (w : BitVec 3) (d : BitVec 5) (a : BitVec 5) (b : BitVec 5) (t : BitVec 1)
  /-- FMAX, R109. -/
  | fmax (w : BitVec 3) (d : BitVec 5) (a : BitVec 5) (b : BitVec 5) (t : BitVec 1)
  /-- FEQ, R109. -/
  | feq (w : BitVec 3) (d : BitVec 5) (a : BitVec 5) (b : BitVec 5) (t : BitVec 1)
  /-- FLT, R109. -/
  | flt (w : BitVec 3) (d : BitVec 5) (a : BitVec 5) (b : BitVec 5) (t : BitVec 1)
  /-- FLE, R109. -/
  | fle (w : BitVec 3) (d : BitVec 5) (a : BitVec 5) (b : BitVec 5) (t : BitVec 1)
  /-- FCLASS, R110. -/
  | fclass (w : BitVec 3) (d : BitVec 5) (a : BitVec 5) (t : BitVec 1)
  /-- FCVTI, R38. -/
  | fcvti (w : BitVec 3) (d : BitVec 5) (a : BitVec 5) (t : BitVec 1)
  /-- FCVTU, R38. -/
  | fcvtu (w : BitVec 3) (d : BitVec 5) (a : BitVec 5) (t : BitVec 1)
  /-- FCVTF, R38. -/
  | fcvtf (w : BitVec 3) (d : BitVec 5) (a : BitVec 5) (t : BitVec 1)
  /-- FCVTFU, R38. -/
  | fcvtfu (w : BitVec 3) (d : BitVec 5) (a : BitVec 5) (t : BitVec 1)
  /-- FCVTW, R38. -/
  | fcvtw (w : BitVec 3) (d : BitVec 5) (a : BitVec 5) (t : BitVec 1)
  /-- FNEG, R108. -/
  | fneg (w : BitVec 3) (d : BitVec 5) (a : BitVec 5) (t : BitVec 1)
  /-- FABS, R108. -/
  | fabs (w : BitVec 3) (d : BitVec 5) (a : BitVec 5) (t : BitVec 1)
  /-- FMAS, R111. -/
  | fmas (w : BitVec 3) (d : BitVec 5) (a : BitVec 5) (b : BitVec 5)
  /-- FMAD, R111. -/
  | fmad (w : BitVec 3) (d : BitVec 5) (a : BitVec 5) (b : BitVec 5)
  /-- FNMAS, R111. -/
  | fnmas (w : BitVec 3) (d : BitVec 5) (a : BitVec 5) (b : BitVec 5)
  /-- FNMAD, R111. -/
  | fnmad (w : BitVec 3) (d : BitVec 5) (a : BitVec 5) (b : BitVec 5)
  /-- FMSS, R111. -/
  | fmss (w : BitVec 3) (d : BitVec 5) (a : BitVec 5) (b : BitVec 5)
  /-- FMSD, R111. -/
  | fmsd (w : BitVec 3) (d : BitVec 5) (a : BitVec 5) (b : BitVec 5)
  /-- COPY, R183. -/
  | copy (w : BitVec 3) (d : BitVec 5) (a : BitVec 5) (b : BitVec 5)
  /-- COPY2D, R184. -/
  | copy2d (w : BitVec 3) (d : BitVec 5) (a : BitVec 5) (b : BitVec 5)
  /-- WINCOPY, R184. -/
  | wincopy (w : BitVec 3) (d : BitVec 5) (a : BitVec 5)
  /-- PUTX, R185. -/
  | putx (w : BitVec 3) (d : BitVec 5) (a : BitVec 5) (b : BitVec 5)
  /-- GETX, R185. -/
  | getx (w : BitVec 3) (d : BitVec 5) (a : BitVec 5) (b : BitVec 5)
  /-- MCAST, R413. -/
  | mcast (w : BitVec 3) (d : BitVec 5) (a : BitVec 5) (b : BitVec 5)
  /-- NRED, R412. -/
  | nred (w : BitVec 3) (d : BitVec 5) (a : BitVec 5) (b : BitVec 5)
  /-- CWAIT, R186. -/
  | cwait (w : BitVec 3) (a : BitVec 5)
  /-- RINIT, R181. -/
  | rinit (w : BitVec 3) (n : BitVec 3) (a : BitVec 5)
  /-- RPUSH, R181. -/
  | rpush (w : BitVec 3) (n : BitVec 3)
  /-- RPOP, R181. -/
  | rpop (w : BitVec 3) (n : BitVec 3)
  /-- RSTAT, R181. -/
  | rstat (w : BitVec 3) (n : BitVec 3) (a : BitVec 5)
  /-- RWAITD, R181. -/
  | rwaitd (w : BitVec 3) (n : BitVec 3) (a : BitVec 5)
  /-- RWAITS, R181. -/
  | rwaits (w : BitVec 3) (n : BitVec 3) (a : BitVec 5)
  /-- LD, R112. -/
  | ld (w : BitVec 3) (d : BitVec 5) (a : BitVec 5) (i : BitVec 13)
  /-- LW, R112. -/
  | lw (w : BitVec 3) (d : BitVec 5) (a : BitVec 5) (i : BitVec 13)
  /-- LWU, R112. -/
  | lwu (w : BitVec 3) (d : BitVec 5) (a : BitVec 5) (i : BitVec 13)
  /-- LH, R112. -/
  | lh (w : BitVec 3) (d : BitVec 5) (a : BitVec 5) (i : BitVec 13)
  /-- LHU, R112. -/
  | lhu (w : BitVec 3) (d : BitVec 5) (a : BitVec 5) (i : BitVec 13)
  /-- LB, R112. -/
  | lb (w : BitVec 3) (d : BitVec 5) (a : BitVec 5) (i : BitVec 13)
  /-- LBU, R112. -/
  | lbu (w : BitVec 3) (d : BitVec 5) (a : BitVec 5) (i : BitVec 13)
  /-- LFE, R118. -/
  | lfe (w : BitVec 3) (d : BitVec 5) (a : BitVec 5) (c : BitVec 1) (z : BitVec 2) (o : BitVec 10)
  /-- SD, R116. -/
  | sd (w : BitVec 3) (rs : BitVec 5) (a : BitVec 5) (i : BitVec 13)
  /-- SW, R116. -/
  | sw (w : BitVec 3) (rs : BitVec 5) (a : BitVec 5) (i : BitVec 13)
  /-- SH, R116. -/
  | sh (w : BitVec 3) (rs : BitVec 5) (a : BitVec 5) (i : BitVec 13)
  /-- SB, R116. -/
  | sb (w : BitVec 3) (rs : BitVec 5) (a : BitVec 5) (i : BitVec 13)
  /-- SFE, R119. -/
  | sfe (w : BitVec 3) (rs : BitVec 5) (a : BitVec 5) (f : BitVec 1) (z : BitVec 2) (o : BitVec 10)
  /-- ENQ, R174. -/
  | enq (w : BitVec 3) (a : BitVec 5) (b : BitVec 5)
  /-- DEQ, R174. -/
  | deq (w : BitVec 3) (d : BitVec 5) (a : BitVec 5) (b : BitVec 5)
  /-- QSTAT, R174. -/
  | qstat (w : BitVec 3) (d : BitVec 5) (b : BitVec 5)
  /-- LAUNCH, R175. -/
  | launch (w : BitVec 3) (a : BitVec 5)
  /-- CDONE, R176. -/
  | cdone (w : BitVec 3) (d : BitVec 5) (a : BitVec 5) (b : BitVec 5)
  /-- CCHK, R173. -/
  | cchk (w : BitVec 3) (d : BitVec 5) (a : BitVec 5)
  /-- CANCEL, R145. -/
  | cancel (w : BitVec 3) (a : BitVec 5)
  /-- TRAP, R371. -/
  | trap (w : BitVec 3) (a : BitVec 5)
  /-- ERET, R373. -/
  | eret (w : BitVec 3) (a : BitVec 5)
  /-- BRK, R371. -/
  | brk (w : BitVec 3)
  /-- WFM, R372. -/
  | wfm (w : BitVec 3) (d : BitVec 5)
  /-- SEAL, R374. -/
  | seal (w : BitVec 3) (a : BitVec 5)
  /-- RESTART, R373. -/
  | restart (w : BitVec 3)
  /-- PURSEADD, R375. -/
  | purseadd (w : BitVec 3) (d : BitVec 5) (a : BitVec 5) (b : BitVec 5)
  /-- CSRR, R357. -/
  | csrr (w : BitVec 3) (d : BitVec 5) (n : BitVec 11)
  /-- CSRW, R357. -/
  | csrw (w : BitVec 3) (d : BitVec 5) (a : BitVec 5) (n : BitVec 11)
  /-- CSRS, R357. -/
  | csrs (w : BitVec 3) (d : BitVec 5) (a : BitVec 5) (n : BitVec 11)
  /-- CSRC, R357. -/
  | csrc (w : BitVec 3) (d : BitVec 5) (a : BitVec 5) (n : BitVec 11)
  /-- BEQ, R121. -/
  | beq (w : BitVec 3) (a : BitVec 5) (b : BitVec 5) (o : BitVec 13)
  /-- BNE, R121. -/
  | bne (w : BitVec 3) (a : BitVec 5) (b : BitVec 5) (o : BitVec 13)
  /-- BLT, R121. -/
  | blt (w : BitVec 3) (a : BitVec 5) (b : BitVec 5) (o : BitVec 13)
  /-- BGE, R121. -/
  | bge (w : BitVec 3) (a : BitVec 5) (b : BitVec 5) (o : BitVec 13)
  /-- BLTU, R121. -/
  | bltu (w : BitVec 3) (a : BitVec 5) (b : BitVec 5) (o : BitVec 13)
  /-- BGEU, R121. -/
  | bgeu (w : BitVec 3) (a : BitVec 5) (b : BitVec 5) (o : BitVec 13)
  /-- JAL, R122. -/
  | jal (w : BitVec 3) (o : BitVec 23)
  /-- JALR, R122. -/
  | jalr (w : BitVec 3) (d : BitVec 5) (a : BitVec 5) (i : BitVec 13)
  /-- PBR_ANY, R123. -/
  | pbrAny (w : BitVec 3) (o : BitVec 20)
  /-- PBR_NONE, R123. -/
  | pbrNone (w : BitVec 3) (o : BitVec 20)
  /-- PBR_ALL, R123. -/
  | pbrAll (w : BitVec 3) (o : BitVec 20)
  /-- PBR_NALL, R123. -/
  | pbrNall (w : BitVec 3) (o : BitVec 20)
  /-- PWHILE, R97. -/
  | pwhile (w : BitVec 3) (a : BitVec 5) (b : BitVec 5) (z : BitVec 2)
  /-- PSETALL, R97. -/
  | psetall (w : BitVec 3) (z : BitVec 2)
  /-- PCLEAR, R97. -/
  | pclear (w : BitVec 3) (z : BitVec 2)
  /-- PNOT, R97. -/
  | pnot (w : BitVec 3) (z : BitVec 2)
  /-- PLOAD, R97. -/
  | pload (w : BitVec 3) (a : BitVec 5) (z : BitVec 2)
  /-- PSTORE, R97. -/
  | pstore (w : BitVec 3) (a : BitVec 5) (z : BitVec 2)
  /-- PCOUNT, R97. -/
  | pcount (w : BitVec 3) (d : BitVec 5) (z : BitVec 2)
  /-- PFIRST, R97. -/
  | pfirst (w : BitVec 3) (d : BitVec 5) (z : BitVec 2)
  /-- PANDM, R97. -/
  | pandm (w : BitVec 3) (a : BitVec 5) (z : BitVec 2)
  /-- PORM, R97. -/
  | porm (w : BitVec 3) (a : BitVec 5) (z : BitVec 2)
  /-- PGET, R97. -/
  | pget (w : BitVec 3) (d : BitVec 5) (a : BitVec 5) (z : BitVec 2)
  /-- PPUT, R97. -/
  | pput (w : BitVec 3) (a : BitVec 5) (b : BitVec 5) (z : BitVec 2)
  /-- END, R88. -/
  | endT (w : BitVec 3)
  /-- YIELD, R89. -/
  | yield (w : BitVec 3)
  /-- GOTO, R90. -/
  | goto (w : BitVec 3) (a : BitVec 5)
  /-- SPAWN, R91. -/
  | spawn (w : BitVec 3) (d : BitVec 5) (a : BitVec 5)
  /-- SPAWNAT, R93. -/
  | spawnat (w : BitVec 3) (a : BitVec 5) (b : BitVec 5)
  /-- PUSHT, R92. -/
  | pusht (w : BitVec 3) (d : BitVec 5) (a : BitVec 5)
  /-- POPT, R92. -/
  | popt (w : BitVec 3) (d : BitVec 5) (a : BitVec 5)
  /-- WAKE, R94. -/
  | wake (w : BitVec 3) (a : BitVec 5) (b : BitVec 5)
  /-- PARK, R94. -/
  | park (w : BitVec 3)
  /-- HOMEOF, R95. -/
  | homeof (w : BitVec 3) (d : BitVec 5) (a : BitVec 5)
  /-- CUBEOF, R95. -/
  | cubeof (w : BitVec 3) (d : BitVec 5)
  /-- VQUERY, R95. -/
  | vquery (w : BitVec 3) (d : BitVec 5)
  /-- RDCYC, R95. -/
  | rdcyc (w : BitVec 3) (d : BitVec 5)
  /-- RDPURSE, R95. -/
  | rdpurse (w : BitVec 3) (d : BitVec 5)
  /-- RDFARE, R95. -/
  | rdfare (w : BitVec 3) (d : BitVec 5)
  /-- RDFRM, R95. -/
  | rdfrm (w : BitVec 3) (d : BitVec 5)
  /-- WRFRM, R35. -/
  | wrfrm (w : BitVec 3) (d : BitVec 5) (a : BitVec 5)
  /-- RDFLAGS, R95. -/
  | rdflags (w : BitVec 3) (d : BitVec 5) (b : BitVec 5)
  /-- VADD, R200. -/
  | vadd (w : BitVec 3) (d : BitVec 5) (a : BitVec 5) (b : BitVec 5) (t : BitVec 3)
  /-- VSUB, R200. -/
  | vsub (w : BitVec 3) (d : BitVec 5) (a : BitVec 5) (b : BitVec 5) (t : BitVec 3)
  /-- VMUL, R200. -/
  | vmul (w : BitVec 3) (d : BitVec 5) (a : BitVec 5) (b : BitVec 5) (t : BitVec 3)
  /-- VMIN, R200. -/
  | vmin (w : BitVec 3) (d : BitVec 5) (a : BitVec 5) (b : BitVec 5) (t : BitVec 3)
  /-- VMAX, R200. -/
  | vmax (w : BitVec 3) (d : BitVec 5) (a : BitVec 5) (b : BitVec 5) (t : BitVec 3)
  /-- VMINU, R200. -/
  | vminu (w : BitVec 3) (d : BitVec 5) (a : BitVec 5) (b : BitVec 5) (t : BitVec 3)
  /-- VMAXU, R200. -/
  | vmaxu (w : BitVec 3) (d : BitVec 5) (a : BitVec 5) (b : BitVec 5) (t : BitVec 3)
  /-- VAND, R200. -/
  | vand (w : BitVec 3) (d : BitVec 5) (a : BitVec 5) (b : BitVec 5) (t : BitVec 3)
  /-- VOR, R200. -/
  | vor (w : BitVec 3) (d : BitVec 5) (a : BitVec 5) (b : BitVec 5) (t : BitVec 3)
  /-- VXOR, R200. -/
  | vxor (w : BitVec 3) (d : BitVec 5) (a : BitVec 5) (b : BitVec 5) (t : BitVec 3)
  /-- VSLL, R200. -/
  | vsll (w : BitVec 3) (d : BitVec 5) (a : BitVec 5) (b : BitVec 5) (t : BitVec 3)
  /-- VSRL, R200. -/
  | vsrl (w : BitVec 3) (d : BitVec 5) (a : BitVec 5) (b : BitVec 5) (t : BitVec 3)
  /-- VSRA, R200. -/
  | vsra (w : BitVec 3) (d : BitVec 5) (a : BitVec 5) (b : BitVec 5) (t : BitVec 3)
  /-- VADDS, R200. -/
  | vadds (w : BitVec 3) (d : BitVec 5) (a : BitVec 5) (b : BitVec 5) (t : BitVec 3)
  /-- VSUBS, R200. -/
  | vsubs (w : BitVec 3) (d : BitVec 5) (a : BitVec 5) (b : BitVec 5) (t : BitVec 3)
  /-- VMULH, R200. -/
  | vmulh (w : BitVec 3) (d : BitVec 5) (a : BitVec 5) (b : BitVec 5) (t : BitVec 3)
  /-- VABSD, R200. -/
  | vabsd (w : BitVec 3) (d : BitVec 5) (a : BitVec 5) (b : BitVec 5) (t : BitVec 3)
  /-- VFMA, R201. -/
  | vfma (w : BitVec 3) (d : BitVec 5) (a : BitVec 5) (b : BitVec 5) (t : BitVec 3)
  /-- VFMS, R201. -/
  | vfms (w : BitVec 3) (d : BitVec 5) (a : BitVec 5) (b : BitVec 5) (t : BitVec 3)
  /-- VDIV, R201. -/
  | vdiv (w : BitVec 3) (d : BitVec 5) (a : BitVec 5) (b : BitVec 5) (t : BitVec 3)
  /-- VSQRT, R201. -/
  | vsqrt (w : BitVec 3) (d : BitVec 5) (a : BitVec 5) (t : BitVec 3)
  /-- VNEG, R200. -/
  | vneg (w : BitVec 3) (d : BitVec 5) (a : BitVec 5) (t : BitVec 3)
  /-- VABS, R200. -/
  | vabs (w : BitVec 3) (d : BitVec 5) (a : BitVec 5) (t : BitVec 3)
  /-- VCMPEQ, R202. -/
  | vcmpeq (w : BitVec 3) (d : BitVec 5) (a : BitVec 5) (b : BitVec 5) (t : BitVec 3)
  /-- VCMPNE, R202. -/
  | vcmpne (w : BitVec 3) (d : BitVec 5) (a : BitVec 5) (b : BitVec 5) (t : BitVec 3)
  /-- VCMPLT, R202. -/
  | vcmplt (w : BitVec 3) (d : BitVec 5) (a : BitVec 5) (b : BitVec 5) (t : BitVec 3)
  /-- VCMPLE, R202. -/
  | vcmple (w : BitVec 3) (d : BitVec 5) (a : BitVec 5) (b : BitVec 5) (t : BitVec 3)
  /-- VCMPLTU, R202. -/
  | vcmpltu (w : BitVec 3) (d : BitVec 5) (a : BitVec 5) (b : BitVec 5) (t : BitVec 3)
  /-- VSEL, R202. -/
  | vsel (w : BitVec 3) (d : BitVec 5) (a : BitVec 5) (b : BitVec 5) (t : BitVec 3)
  /-- VDOT, R203. -/
  | vdot (w : BitVec 3) (d : BitVec 5) (a : BitVec 5) (b : BitVec 5) (t : BitVec 3)
  /-- VCONV, R204. -/
  | vconv (w : BitVec 3) (d : BitVec 5) (a : BitVec 5) (e : BitVec 4) (rs : BitVec 4)
  /-- VRSUM, R205. -/
  | vrsum (w : BitVec 3) (d : BitVec 5) (a : BitVec 5) (t : BitVec 3)
  /-- VRMAX, R205. -/
  | vrmax (w : BitVec 3) (d : BitVec 5) (a : BitVec 5) (t : BitVec 3)
  /-- VRMIN, R205. -/
  | vrmin (w : BitVec 3) (d : BitVec 5) (a : BitVec 5) (t : BitVec 3)
  /-- VRMAXI, R45. -/
  | vrmaxi (w : BitVec 3) (d : BitVec 5) (a : BitVec 5) (t : BitVec 3)
  /-- VRMINI, R45. -/
  | vrmini (w : BitVec 3) (d : BitVec 5) (a : BitVec 5) (t : BitVec 3)
  /-- VRAND, R205. -/
  | vrand (w : BitVec 3) (d : BitVec 5) (a : BitVec 5) (t : BitVec 3)
  /-- VROR, R205. -/
  | vror (w : BitVec 3) (d : BitVec 5) (a : BitVec 5) (t : BitVec 3)
  /-- VRXOR, R205. -/
  | vrxor (w : BitVec 3) (d : BitVec 5) (a : BitVec 5) (t : BitVec 3)
  /-- VBCAST, R206. -/
  | vbcast (w : BitVec 3) (d : BitVec 5) (a : BitVec 5) (t : BitVec 3)
  /-- VSHUF, R206. -/
  | vshuf (w : BitVec 3) (d : BitVec 5) (a : BitVec 5) (b : BitVec 5) (t : BitVec 3)
  /-- VSLUP, R206. -/
  | vslup (w : BitVec 3) (d : BitVec 5) (a : BitVec 5) (b : BitVec 5) (t : BitVec 3)
  /-- VSLDN, R206. -/
  | vsldn (w : BitVec 3) (d : BitVec 5) (a : BitVec 5) (b : BitVec 5) (t : BitVec 3)
  /-- VZIP, R206. -/
  | vzip (w : BitVec 3) (d : BitVec 5) (a : BitVec 5) (b : BitVec 5) (t : BitVec 3)
  /-- VUZP, R206. -/
  | vuzp (w : BitVec 3) (d : BitVec 5) (a : BitVec 5) (b : BitVec 5) (t : BitVec 3)
  /-- VCMPR, R206. -/
  | vcmpr (w : BitVec 3) (d : BitVec 5) (a : BitVec 5) (t : BitVec 3)
  /-- VEXPD, R206. -/
  | vexpd (w : BitVec 3) (d : BitVec 5) (a : BitVec 5) (t : BitVec 3)
  /-- VMOV, R206. -/
  | vmov (w : BitVec 3) (d : BitVec 5) (a : BitVec 5) (t : BitVec 3)
  /-- VIOTA, R206. -/
  | viota (w : BitVec 3) (d : BitVec 5) (a : BitVec 5) (t : BitVec 3)
  /-- VEXP2, R207. -/
  | vexp2 (w : BitVec 3) (d : BitVec 5) (a : BitVec 5) (t : BitVec 3)
  /-- VLOG2, R207. -/
  | vlog2 (w : BitVec 3) (d : BitVec 5) (a : BitVec 5) (t : BitVec 3)
  /-- VRSQRT, R207. -/
  | vrsqrt (w : BitVec 3) (d : BitVec 5) (a : BitVec 5) (t : BitVec 3)
  /-- VRCP, R207. -/
  | vrcp (w : BitVec 3) (d : BitVec 5) (a : BitVec 5) (t : BitVec 3)
  /-- VSIN, R207. -/
  | vsin (w : BitVec 3) (d : BitVec 5) (a : BitVec 5) (t : BitVec 3)
  /-- VCOS, R207. -/
  | vcos (w : BitVec 3) (d : BitVec 5) (a : BitVec 5) (t : BitVec 3)
  /-- VTANH, R207. -/
  | vtanh (w : BitVec 3) (d : BitVec 5) (a : BitVec 5) (t : BitVec 3)
  /-- VSIGM, R207. -/
  | vsigm (w : BitVec 3) (d : BitVec 5) (a : BitVec 5) (t : BitVec 3)
  /-- VLOOP, R209. -/
  | vloop (w : BitVec 3) (l : BitVec 5) (a : BitVec 5) (b : BitVec 5)
  /-- VSYNC, R211. -/
  | vsync (w : BitVec 3)
  /-- VGATHER, R213. -/
  | vgather (w : BitVec 3) (d : BitVec 5) (a : BitVec 5) (b : BitVec 5) (t : BitVec 3)
  /-- VSCATTER, R213. -/
  | vscatter (w : BitVec 3) (d : BitVec 5) (a : BitVec 5) (b : BitVec 5) (t : BitVec 3)
  /-- VAMOADD, R214. -/
  | vamoadd (w : BitVec 3) (d : BitVec 5) (a : BitVec 5) (b : BitVec 5) (t : BitVec 3)
  /-- VAMOMAX, R214. -/
  | vamomax (w : BitVec 3) (d : BitVec 5) (a : BitVec 5) (b : BitVec 5) (t : BitVec 3)
  /-- VAMOMIN, R214. -/
  | vamomin (w : BitVec 3) (d : BitVec 5) (a : BitVec 5) (b : BitVec 5) (t : BitVec 3)
  /-- VREDADD, R214. -/
  | vredadd (w : BitVec 3) (d : BitVec 5) (a : BitVec 5) (b : BitVec 5) (t : BitVec 3)
  /-- VMXPACK, R216. -/
  | vmxpack (w : BitVec 3) (d : BitVec 5) (a : BitVec 5) (b : BitVec 5)
  /-- VMXUNPK, R217. -/
  | vmxunpk (w : BitVec 3) (d : BitVec 5) (a : BitVec 5) (b : BitVec 5)
  /-- VSCALE, R218. -/
  | vscale (w : BitVec 3) (d : BitVec 5) (a : BitVec 5) (b : BitVec 5)
  /-- MACQ, R235. -/
  | macq (w : BitVec 3) (d : BitVec 5) (a : BitVec 5)
  /-- MREL, R236. -/
  | mrel (w : BitVec 3) (d : BitVec 5)
  /-- MMA, R238. -/
  | mma (w : BitVec 3) (d : BitVec 5) (a : BitVec 5) (b : BitVec 5)
  /-- MMR, R239. -/
  | mmr (w : BitVec 3) (d : BitVec 5) (a : BitVec 5) (b : BitVec 5)
  /-- MZERO, R237. -/
  | mzero (w : BitVec 3) (d : BitVec 5)
  /-- MLDC, R240. -/
  | mldc (w : BitVec 3) (d : BitVec 5) (a : BitVec 5) (b : BitVec 5)
  /-- MSTC, R240. -/
  | mstc (w : BitVec 3) (d : BitVec 5) (a : BitVec 5) (b : BitVec 5)
  /-- MSYNC, R241. -/
  | msync (w : BitVec 3)
  /-- MADDC, R240. -/
  | maddc (w : BitVec 3) (d : BitVec 5) (a : BitVec 5) (b : BitVec 5)
  /-- MSTAT, R242. -/
  | mstat (w : BitVec 3) (d : BitVec 5) (a : BitVec 5) (b : BitVec 5)
  /-- DRD, R258. -/
  | drd (w : BitVec 3) (a : BitVec 5) (b : BitVec 5)
  /-- DWR, R258. -/
  | dwr (w : BitVec 3) (a : BitVec 5) (b : BitVec 5)
  /-- DPUSH, R259. -/
  | dpush (w : BitVec 3) (d : BitVec 5) (a : BitVec 5) (b : BitVec 5)
  /-- DPULL, R259. -/
  | dpull (w : BitVec 3) (d : BitVec 5) (a : BitVec 5) (b : BitVec 5)
  /-- AQPUT, R260. -/
  | aqput (w : BitVec 3) (a : BitVec 5) (b : BitVec 5)
  /-- XQGET, R260. -/
  | xqget (w : BitVec 3) (d : BitVec 5) (a : BitVec 5)
  /-- DPREF, R260. -/
  | dpref (w : BitVec 3) (a : BitVec 5) (b : BitVec 5)
  /-- BSEL, R260. -/
  | bsel (w : BitVec 3) (a : BitVec 5) (b : BitVec 5)
  /-- AQGET, R263. -/
  | aqget (w : BitVec 3) (d : BitVec 5) (a : BitVec 5)
  /-- XQPUT, R263. -/
  | xqput (w : BitVec 3) (a : BitVec 5) (b : BitVec 5)
  /-- BMAC, R265. -/
  | bmac (w : BitVec 3) (d : BitVec 5) (a : BitVec 5) (b : BitVec 5)
  /-- BRED, R266. -/
  | bred (w : BitVec 3) (d : BitVec 5) (a : BitVec 5) (b : BitVec 5)
  /-- BCLONE, R268. -/
  | bclone (w : BitVec 3) (d : BitVec 5) (a : BitVec 5) (b : BitVec 5)
  /-- BFILL, R268. -/
  | bfill (w : BitVec 3) (d : BitVec 5) (a : BitVec 5) (b : BitVec 5)
  /-- BSYNC, R268. -/
  | bsync (w : BitVec 3)
  /-- AMOADD, R285. -/
  | amoadd (w : BitVec 3) (d : BitVec 5) (a : BitVec 5) (b : BitVec 5) (z : BitVec 1)
  /-- AMOAND, R285. -/
  | amoand (w : BitVec 3) (d : BitVec 5) (a : BitVec 5) (b : BitVec 5) (z : BitVec 1)
  /-- AMOOR, R285. -/
  | amoor (w : BitVec 3) (d : BitVec 5) (a : BitVec 5) (b : BitVec 5) (z : BitVec 1)
  /-- AMOXOR, R285. -/
  | amoxor (w : BitVec 3) (d : BitVec 5) (a : BitVec 5) (b : BitVec 5) (z : BitVec 1)
  /-- AMOMIN, R285. -/
  | amomin (w : BitVec 3) (d : BitVec 5) (a : BitVec 5) (b : BitVec 5) (z : BitVec 1)
  /-- AMOMAX, R285. -/
  | amomax (w : BitVec 3) (d : BitVec 5) (a : BitVec 5) (b : BitVec 5) (z : BitVec 1)
  /-- AMOMINU, R285. -/
  | amominu (w : BitVec 3) (d : BitVec 5) (a : BitVec 5) (b : BitVec 5) (z : BitVec 1)
  /-- AMOMAXU, R285. -/
  | amomaxu (w : BitVec 3) (d : BitVec 5) (a : BitVec 5) (b : BitVec 5) (z : BitVec 1)
  /-- AMOSWAP, R285. -/
  | amoswap (w : BitVec 3) (d : BitVec 5) (a : BitVec 5) (b : BitVec 5) (z : BitVec 1)
  /-- AMOCAS, R285. -/
  | amocas (w : BitVec 3) (d : BitVec 5) (a : BitVec 5) (b : BitVec 5) (z : BitVec 1)
  /-- AMOFADD, R285. -/
  | amofadd (w : BitVec 3) (d : BitVec 5) (a : BitVec 5) (b : BitVec 5) (z : BitVec 1)
  /-- RSV, R286. -/
  | rsv (w : BitVec 3) (d : BitVec 5) (a : BitVec 5) (z : BitVec 1)
  /-- RLS, R286. -/
  | rls (w : BitVec 3) (a : BitVec 5) (b : BitVec 5) (z : BitVec 1)
  /-- LDAQ, R289. -/
  | ldaq (w : BitVec 3) (d : BitVec 5) (a : BitVec 5) (p : BitVec 2) (z : BitVec 1)
  /-- STRL, R299. -/
  | strl (w : BitVec 3) (a : BitVec 5) (b : BitVec 5) (p : BitVec 2) (z : BitVec 1)
  /-- REDADD, R290. -/
  | redadd (w : BitVec 3) (a : BitVec 5) (b : BitVec 5) (z : BitVec 1)
  /-- REDAND, R290. -/
  | redand (w : BitVec 3) (a : BitVec 5) (b : BitVec 5) (z : BitVec 1)
  /-- REDOR, R290. -/
  | redor (w : BitVec 3) (a : BitVec 5) (b : BitVec 5) (z : BitVec 1)
  /-- REDXOR, R290. -/
  | redxor (w : BitVec 3) (a : BitVec 5) (b : BitVec 5) (z : BitVec 1)
  /-- REDMIN, R290. -/
  | redmin (w : BitVec 3) (a : BitVec 5) (b : BitVec 5) (z : BitVec 1)
  /-- REDMAX, R290. -/
  | redmax (w : BitVec 3) (a : BitVec 5) (b : BitVec 5) (z : BitVec 1)
  /-- REDMINU, R290. -/
  | redminu (w : BitVec 3) (a : BitVec 5) (b : BitVec 5) (z : BitVec 1)
  /-- REDMAXU, R290. -/
  | redmaxu (w : BitVec 3) (a : BitVec 5) (b : BitVec 5) (z : BitVec 1)
  /-- REDFADD, R290. -/
  | redfadd (w : BitVec 3) (a : BitVec 5) (b : BitVec 5) (z : BitVec 1)
  /-- FENCE, R303. -/
  | fence (w : BitVec 3) (c : BitVec 5)
  /-- FENCEX, R304. -/
  | fencex (w : BitVec 3) (x : BitVec 5) (y : BitVec 5)
  /-- IFENCE, R305. -/
  | ifence (w : BitVec 3)
  /-- QFENCE, R306. -/
  | qfence (w : BitVec 3)
  /-- DRAIN, R307. -/
  | drain (w : BitVec 3)
  /-- ACKS, R307. -/
  | acks (w : BitVec 3) (d : BitVec 5)
  /-- BINIT, R315. -/
  | binit (w : BitVec 3) (n : BitVec 5) (a : BitVec 5)
  /-- BARRIVE, R316. -/
  | barrive (w : BitVec 3) (n : BitVec 5) (a : BitVec 5)
  /-- BEXPECT, R316. -/
  | bexpect (w : BitVec 3) (n : BitVec 5) (a : BitVec 5)
  /-- BWAIT, R317. -/
  | bwait (w : BitVec 3) (n : BitVec 5) (a : BitVec 5)
  /-- BTEST, R317. -/
  | btest (w : BitVec 3) (n : BitVec 5) (a : BitVec 5) (b : BitVec 5)
  /-- BINV, R315. -/
  | binv (w : BitVec 3) (n : BitVec 5)
  /-- LANTERN, R324. -/
  | lantern (w : BitVec 3) (d : BitVec 5) (a : BitVec 5)
  /-- PHASE, R324. -/
  | phase (w : BitVec 3) (d : BitVec 5) (a : BitVec 5)
  /-- WAYSTATION_POWER_ON, R22. -/
  | waystationPowerOn
  /-- IMAGE_VERIFICATION_COMPLETE, R428. -/
  | imageVerificationComplete
  /-- BOOT_TIMEOUT, R22. -/
  | bootTimeout
  /-- WAYSTATION_RESET, R418. -/
  | waystationReset
  /-- MEMORY_RAIL_GOOD, R22. -/
  | memoryRailGood
  /-- MEMORY_ZEROING_COMPLETE, R22. -/
  | memoryZeroingComplete
  /-- SELF_REFRESH_REQUEST, R22. -/
  | selfRefreshRequest
  /-- SELF_REFRESH_ENTRY, R22. -/
  | selfRefreshEntry
  /-- SELF_REFRESH_EXIT, R22. -/
  | selfRefreshExit
  /-- MEMORY_RESET, R22. -/
  | memoryReset
  /-- COMPUTE_RAIL_GOOD, R22. -/
  | computeRailGood
  /-- COMPUTE_RESET_RELEASE, R22. -/
  | computeResetRelease
  /-- BRINGUP_COMPLETE, R22. -/
  | bringupComplete
  /-- QUIESCE_REQUEST, R22. -/
  | quiesceRequest
  /-- QUIESCE_RESUME, R22. -/
  | quiesceResume
  /-- COMPUTE_RESET, R22. -/
  | computeReset
  /-- COMPUTE_RAIL_OFF, R22. -/
  | computeRailOff
  /-- CHANNEL_CACHE_WRITEBACK_COMPLETE, R280. -/
  | channelCacheWritebackComplete
  /-- DISPATCHER_HEARTBEAT, R389. -/
  | dispatcherHeartbeat
  /-- DOMAIN_WATCHDOG_EXPIRY, R389. -/
  | domainWatchdogExpiry
  /-- TRAVELLER_SWITCH_IN, R76. -/
  | travellerSwitchIn (core : Nat) (x : Bool)
  /-- DEQUE_TASK_START, R76. -/
  | dequeTaskStart (core : Nat)
  /-- PARK_WAIT_COMPLETE, R74. -/
  | parkWaitComplete (core : Nat) (slot : Nat)
  /-- STORE_BUFFER_DRAIN, R116. -/
  | storeBufferDrain (core : Nat) (x : Bool)
  /-- TRAVELLER_ARRIVAL, R77. -/
  | travellerArrival (k : Nat)
  /-- HELD_ARRIVAL_ADMIT, R77. -/
  | heldArrivalAdmit (core : Nat)
  /-- MIGRATION_ACK, R74. -/
  | migrationAck (core : Nat) (slot : Nat)
  /-- MIGRATION_BOUNCE, R81. -/
  | migrationBounce (k : Nat)
  /-- TASK_PACKET_ARRIVAL, R93. -/
  | taskPacketArrival (k : Nat)
  /-- WAKE_DELIVERY, R94. -/
  | wakeDelivery (k : Nat)
  /-- STEAL_REQUEST_SEND, R157. -/
  | stealRequestSend (core : Nat)
  /-- STEAL_REQUEST_SERVE, R158. -/
  | stealRequestServe (k : Nat)
  /-- STEAL_REPLY, R158. -/
  | stealReply (k : Nat)
  /-- STEAL_BACKOFF_EXPIRY, R158. -/
  | stealBackoffExpiry (core : Nat)
  /-- PREEMPTION_TAKEN, R152. -/
  | preemptionTaken (core : Nat)
  /-- TRAVELLER_SPILL, R369. -/
  | travellerSpill (core : Nat) (slot : Nat)
  /-- SPILL_AREA_ADMIT, R352. -/
  | spillAreaAdmit (p : Nat)
  /-- STRAND_NOTICE, R366. -/
  | strandNotice (ctx : Nat)
  /-- CANCEL_TAKEN, R146. -/
  | cancelTaken (core : Nat) (x : Bool)
  /-- ENGINE_FAULT_DELIVERY, R196. -/
  | engineFaultDelivery (core : Nat) (x : Bool)
  /-- MACHINE_CHECK, R383. -/
  | machineCheck (core : Nat) (unit : Nat) (slot : Nat) (regs : BitVec 24)
  /-- SEAL_COMPLETE, R384. -/
  | sealComplete (core : Nat)
  /-- DEBUG_HALT_TAKEN, R392. -/
  | debugHaltTaken (core : Nat) (x : Bool)
  /-- ADDRESS_MATCH_HALT, R390. -/
  | addressMatchHalt (core : Nat) (x : Bool)
  /-- SUBMISSION_ENTRY_FETCH, R169. -/
  | submissionEntryFetch (p : Nat)
  /-- LAUNCH_PLACEMENT, R149. -/
  | launchPlacement (p : Nat)
  /-- QUAD_GATE, R153. -/
  | quadGate (q : Nat)
  /-- QUAD_WAKE_COMPLETE, R153. -/
  | quadWakeComplete (q : Nat)
  /-- SELF_TEST_DRAIN_START, R163. -/
  | selfTestDrainStart
  /-- SELF_TEST_START, R163. -/
  | selfTestStart
  /-- SELF_TEST_DEFER, R163. -/
  | selfTestDefer
  /-- SELF_TEST_COMPLETE, R163. -/
  | selfTestComplete (fails : BitVec 16)
  /-- CORE_SCRUB, R154. -/
  | coreScrub (core : Nat)
  /-- CORE_MOVE_COMPLETE, R154. -/
  | coreMoveComplete (core : Nat)
  /-- GROUP_WATCHDOG_EXPIRY, R161. -/
  | groupWatchdogExpiry (p : Nat) (entry : Nat)
  /-- HELD_POST_WRITE, R170. -/
  | heldPostWrite (p : Nat) (q : Nat)
  /-- ENQUEUE_COPY_ACCEPT, R171. -/
  | enqueueCopyAccept (core : Nat)
  /-- DOORBELL_SET_TAIL, R424. -/
  | doorbellSetTail (port : Nat) (vf : Nat) (v : BitVec 64)
  /-- DOORBELL_SET_HEAD, R424. -/
  | doorbellSetHead (port : Nat) (vf : Nat) (v : BitVec 64)
  /-- FUNCTION_LEVEL_RESET, R425. -/
  | functionLevelReset (port : Nat) (vf : Nat)
  /-- PORT_HOT_RESET, R425. -/
  | portHotReset (port : Nat)
  /-- SEQUENCER_EMIT, R210. -/
  | sequencerEmit (core : Nat)
  /-- VECTOR_COMMAND_START, R194. -/
  | vectorCommandStart (core : Nat)
  /-- VECTOR_COMMAND_COMPLETE, R190. -/
  | vectorCommandComplete (core : Nat)
  /-- MATRIX_GRANT, R232. -/
  | matrixGrant (q : Nat)
  /-- MATRIX_COMMAND_COMPLETE, R238. -/
  | matrixCommandComplete (core : Nat)
  /-- ROTATION_WRITE_APPLY, R239. -/
  | rotationWriteApply (k : Nat)
  /-- COURIER_COMMAND_START, R182. -/
  | courierCommandStart (core : Nat)
  /-- COURIER_COMMAND_COMPLETE, R182. -/
  | courierCommandComplete (core : Nat) (k : Nat)
  /-- COURIER_FAULT, R182. -/
  | courierFault (core : Nat) (k : Nat)
  /-- ENGINE_WRITE_ARRIVAL, R180. -/
  | engineWriteArrival (k : Nat)
  /-- STREAM_RECORD_START, R256. -/
  | streamRecordStart (core : Nat)
  /-- STREAM_RECORD_COMPLETE, R258. -/
  | streamRecordComplete (core : Nat) (k : Nat)
  /-- STREAM_RECORD_FAULT, R261. -/
  | streamRecordFault (core : Nat) (k : Nat)
  /-- BSEL_APPLY, R260. -/
  | bselApply (core : Nat)
  /-- BANK_COMMAND_COMPLETE, R265. -/
  | bankCommandComplete (core : Nat) (k : Nat)
  /-- ROW_SPARE_COMPLETE, R345. -/
  | rowSpareComplete (ch : Nat) (bank : Nat) (row : Nat)
  /-- SCRUB_PASS, R279. -/
  | scrubPass (ch : Nat)
  /-- X_TRAVELLER_GO, R252. -/
  | xTravellerGo (core : Nat) (steward : Nat) (v : BitVec 64)
  /-- X_TRAVELLER_STOP, R252. -/
  | xTravellerStop (core : Nat) (steward : Nat)
  /-- X_TRAVELLER_STOP_COMPLETE, R252. -/
  | xTravellerStopComplete (core : Nat)
  /-- LM_BOUNDARY_STAGE, R128. -/
  | lmBoundaryStage (agent : Agent) (core : Nat) (which : Nat) (v : BitVec 64)
  /-- LMDTB_COMMIT, R128. -/
  | lmdtbCommit (agent : Agent) (core : Nat) (v : BitVec 64)
  /-- IMAGE_LOAD, R133. -/
  | imageLoad (agent : Agent) (cores : List Nat) (image : List Byte)
  /-- RESERVATION_GRANT, R284. -/
  | reservationGrant (pa : Nat)
  /-- RESERVATION_RELEASE_APPLY, R284. -/
  | reservationReleaseApply (k : Nat)
  /-- RED_APPLY, R290. -/
  | redApply (core : Nat) (x : Bool)
  /-- BARRIER_EVENT_APPLY, R310. -/
  | barrierEventApply (k : Nat)
  /-- REMOTE_BARRIER_EVENT, R316. -/
  | remoteBarrierEvent (k : Nat)
  /-- WALK_COMPLETE, R331. -/
  | walkComplete (k : Nat)
  /-- PTROOT_WRITE, R334. -/
  | ptrootWrite (agent : Agent) (p : Nat) (v : BitVec 64)
  /-- XLINV_GO, R335. -/
  | xlinvGo (agent : Agent) (v : BitVec 64)
  /-- XLINV_COMPLETE, R335. -/
  | xlinvComplete
  /-- MAP_CHANGE_ISSUE, R340. -/
  | mapChangeIssue (agent : Agent) (c : MapChange)
  /-- MAP_CHANGE_SEQUENCE, R340. -/
  | mapChangeSequence (k : Nat)
  /-- MAP_CHANGE_APPLY, R340. -/
  | mapChangeApply (k : Nat)
  /-- RESTRIPE_GRANULE_COPY, R341. -/
  | restripeGranuleCopy (e : Nat)
  /-- RESTRIPE_COPY_ACK, R341. -/
  | restripeCopyAck (e : Nat)
  /-- CUBE_LOSS_TIMER, R404. -/
  | cubeLossTimer (cube : Nat)
  /-- METER_FLUSH_TIMER, R358. -/
  | meterFlushTimer (m : Nat)
  /-- LEAKAGE_TICK, R365. -/
  | leakageTick
  /-- REFRESH_ROW, R365. -/
  | refreshRow (ch : Nat)
  /-- KCORR_UPDATE, R361. -/
  | kcorrUpdate (measured : List Int)
  /-- PURSE_ADD_WRITE, R363. -/
  | purseAddWrite (agent : Agent) (ctx : Nat) (v : BitVec 64)
  /-- PARTCFG_WRITE, R350. -/
  | partcfgWrite (agent : Agent) (p : Nat) (v : BitVec 64)
  /-- CARVE_GO, R350. -/
  | carveGo (agent : Agent) (v : BitVec 64)
  /-- CARVE_STOP, R350. -/
  | carveStop (agent : Agent) (v : BitVec 64)
  /-- OWNDAT_WRITE, R351. -/
  | owndatWrite (agent : Agent) (v : BitVec 64)
  /-- HALLDAT_READ, R351. -/
  | halldatRead (agent : Agent)
  /-- HALLDAT_WRITE, R351. -/
  | halldatWrite (agent : Agent) (v : BitVec 64)
  /-- HCCFG_WRITE, R282. -/
  | hccfgWrite (agent : Agent) (p : Nat) (v : BitVec 64)
  /-- RESPG_WRITE, R365. -/
  | respgWrite (agent : Agent) (ch : Nat) (j : Nat) (v : BitVec 64)
  /-- LANTERN_SLOT_WRITE, R320. -/
  | lanternSlotWrite (agent : Agent) (k : Nat) (half : Nat) (v : BitVec 64)
  /-- PLAN_ENABLE, R411. -/
  | planEnable (agent : Agent) (v : BitVec 64)
  /-- DBG_HALT_TRAVELLER, R391. -/
  | dbgHaltTraveller
  /-- DBG_RESUME_TRAVELLER, R394. -/
  | dbgResumeTraveller
  /-- DBG_HALT_LAUNCH, R391. -/
  | dbgHaltLaunch
  /-- DBG_RESUME_LAUNCH, R394. -/
  | dbgResumeLaunch
  /-- LINK_RETRAIN, R399. -/
  | linkRetrain (l : Nat)
  /-- LINK_TRAIN_COMPLETE, R399. -/
  | linkTrainComplete (l : Nat) (good : BitVec 9)
  /-- LINK_TRAIN_TIMEOUT, R399. -/
  | linkTrainTimeout (l : Nat)
  /-- LANE_FAILURE, R399. -/
  | laneFailure (l : Nat) (lane : Nat)
  /-- LINK_SILENCE_TIMEOUT, R399. -/
  | linkSilenceTimeout (l : Nat)
  /-- LINK_REPLAY, R397. -/
  | linkReplay (l : Nat)
  /-- ROUTE_UPDATE, R404. -/
  | routeUpdate (cube : Nat) (es : List (Nat × Nat × Nat))
  /-- HEARTBEAT_SEND, R404. -/
  | heartbeatSend
  /-- PACKET_TRANSIT, R402. -/
  | packetTransit (k : Nat)
  /-- PACKET_RECEIVE, R416. -/
  | packetReceive (k : Nat)
  /-- CONNECTION_FETCH_COMPLETE, R410. -/
  | connectionFetchComplete (k : Nat)
  /-- E2E_RETRY_TIMEOUT, R407. -/
  | e2eRetryTimeout (k : Nat)
  /-- NAK_RETRY_RESEND, R407. -/
  | nakRetryResend (k : Nat)
  /-- NAK_ABSENT_RECEIVE, R407. -/
  | nakAbsentReceive (k : Nat)
  /-- ACKNOWLEDGEMENT_RECEIVE, R307. -/
  | acknowledgementReceive (k : Nat)
  /-- MESSAGE_COUNT_EXPIRY, R408. -/
  | messageCountExpiry (k : Nat)
  /-- ARRIVAL_FILTER_EXPIRY, R419. -/
  | arrivalFilterExpiry (k : Nat)
  /-- BOUNCE_RESEND, R417. -/
  | bounceResend (k : Nat)
  /-- REDUCE_CONTRIBUTION_ARRIVAL, R412. -/
  | reduceContributionArrival (k : Nat)
  /-- MULTICAST_RECEIVE, R413. -/
  | multicastReceive (k : Nat)
  /-- PLAN_ABORT, R414. -/
  | planAbort (k : Nat)
  /-- ESCORT_COMPARE, R388. -/
  | escortCompare (k : Nat)
  /-- ESCORT_TIMEOUT, R388. -/
  | escortTimeout (k : Nat)
  /-- LANTERN_ROUND_START, R321. -/
  | lanternRoundStart (k : Nat)
  /-- LANTERN_PROBE_ARRIVAL, R321. -/
  | lanternProbeArrival (k : Nat)
  /-- LANTERN_PROBE_RELEASE, R321. -/
  | lanternProbeRelease (k : Nat)
  /-- LANTERN_PROBE_RETURN, R321. -/
  | lanternProbeReturn (k : Nat)
  /-- LANTERN_TIMEOUT, R321. -/
  | lanternTimeout (k : Nat)
  /-- LANTERN_DONE_MESSAGE, R322. -/
  | lanternDoneMessage (k : Nat)
  /-- TRAP_MESSAGE_ARRIVAL, R372. -/
  | trapMessageArrival (k : Nat)
  /-- TRAP_MESSAGE_SPILL_RETURN, R379. -/
  | trapMessageSpillReturn (p : Nat)
  /-- MANAGEMENT_READ, R423. -/
  | managementRead (port : Nat)
  /-- MANAGEMENT_WRITE, R423. -/
  | managementWrite (port : Nat)
  /-- MANAGEMENT_REPLY, R423. -/
  | managementReply (port : Nat)
  /-- CLAIM, R427. -/
  | claim (port : Nat)
  /-- HANDOVER, R427. -/
  | handover (port : Nat)
  /-- UNLOCK, R427. -/
  | unlock (port : Nat)
  /-- REKEY, R427. -/
  | rekey (port : Nat)
  /-- SWITCH, R428. -/
  | switch (port : Nat)
  /-- FWCHUNK, R428. -/
  | fwchunk (port : Nat)
  /-- ATTEST_READ, R429. -/
  | attestRead (port : Nat)
  /-- ALARM, R430. -/
  | alarm (src : Nat)
  /-- THERMAL_READING, R434. -/
  | thermalReading (sensor : Nat) (temp : Int)
  /-- THERMAL_SHUTDOWN_TIMER, R434. -/
  | thermalShutdownTimer
  /-- REGISTER_WRITE, R11. -/
  | registerWrite (agent : Agent) (block : Nat) (off : Nat) (v : BitVec 64)
  /-- WAYSTATION_RAIL_OFF, R22. -/
  | waystationRailOff
  /-- SPILLED_TRAVELLER_PLACEMENT, R370. -/
  | spilledTravellerPlacement (p : Nat)
  /-- PLAN_DISABLE, R414. -/
  | planDisable (agent : Agent) (v : BitVec 64)
  /-- OWNDAT_APPLY_COMPLETE, R351. -/
  | owndatApplyComplete
  /-- PSTRUCT_READ, R350. -/
  | pstructRead (p : Nat)
deriving DecidableEq, Repr

end Sys2Proof
end

