-- ==== Sys2Proof/WellFormed.lean ====
section
/-! DEFINITION. Well-formed instructions: the field values that the encoding admits and the rules R50, R56 and R57 call legal.
An ill-formed word decodes and traps ILLEGAL when it issues (R59). An event has no fields of a word. -/

namespace Sys2Proof

open Sys2Proof.Machine

/-- The fields of an instruction are legal. -/
def Instr.wf : Instr → Bool
  | .add _ d _ _ | .sub _ d _ _ | .and _ d _ _ | .or _ d _ _ | .xor _ d _ _ | .andn _ d _ _ | .orn _ d _ _ | .xnor _ d _ _ |
    .sll _ d _ _ | .srl _ d _ _ | .sra _ d _ _ | .rol _ d _ _ | .ror _ d _ _ | .slt _ d _ _ | .sltu _ d _ _ | .min _ d _ _ |
    .max _ d _ _ | .minu _ d _ _ | .maxu _ d _ _ | .seq _ d _ _ | .sne _ d _ _ | .addw _ d _ _ | .subw _ d _ _ |
    .sllw _ d _ _ | .srlw _ d _ _ | .sraw _ d _ _ | .clz _ d _ | .ctz _ d _ | .popc _ d _ | .brev _ d _ | .bswap _ d _ |
    .sext _ d _ _ | .mul _ d _ _ | .mulh _ d _ _ | .mulhu _ d _ _ | .mulw _ d _ _ | .div _ d _ _ | .divu _ d _ _ |
    .rem _ d _ _ | .remu _ d _ _ => destOk d
  | .bilv2 _ d _ _ | .bilv3 _ d _ _ | .bdil3 _ d _ _ | .extu _ d _ _ | .exts _ d _ _ | .ins _ d _ _ | .addi _ d _ _ |
    .andi _ d _ _ | .ori _ d _ _ | .xori _ d _ _ | .slti _ d _ _ | .sltiu _ d _ _ | .slli _ d _ _ | .srli _ d _ _ |
    .srai _ d _ _ | .rori _ d _ _ | .himm _ d _ | .pchi _ d _ | .fadd _ d _ _ _ | .fsub _ d _ _ _ | .fmul _ d _ _ _ |
    .fdiv _ d _ _ _ | .fsqrt _ d _ _ | .fmin _ d _ _ _ | .fmax _ d _ _ _ | .feq _ d _ _ _ | .flt _ d _ _ _ |
    .fle _ d _ _ _ | .fclass _ d _ _ | .fcvti _ d _ _ | .fcvtu _ d _ _ | .fcvtf _ d _ _ | .fcvtfu _ d _ _ | .fcvtw _ d _ _ |
    .fneg _ d _ _ | .fabs _ d _ _ | .fmas _ d _ _ | .fmad _ d _ _ | .fnmas _ d _ _ | .fnmad _ d _ _ => destOk d
  | .fmss _ d _ _ | .fmsd _ d _ _ | .ld _ d _ _ | .lw _ d _ _ | .lwu _ d _ _ | .lh _ d _ _ | .lhu _ d _ _ | .lb _ d _ _ |
    .lbu _ d _ _ | .lfe _ d _ _ _ _ | .deq _ d _ _ | .qstat _ d _ | .cdone _ d _ _ | .cchk _ d _ | .wfm _ d |
    .purseadd _ d _ _ | .csrr _ d _ | .csrw _ d _ _ | .csrs _ d _ _ | .csrc _ d _ _ | .jalr _ d _ _ | .pcount _ d _ |
    .pfirst _ d _ | .pget _ d _ _ | .spawn _ d _ | .pusht _ d _ | .popt _ d _ | .homeof _ d _ | .cubeof _ d | .vquery _ d |
    .rdcyc _ d | .rdpurse _ d | .rdfare _ d | .rdfrm _ d | .wrfrm _ d _ | .rdflags _ d _ | .macq _ d _ | .mstat _ d _ _ |
    .xqget _ d _ | .aqget _ d _ => destOk d
  | .amoadd _ d _ _ _ | .amoand _ d _ _ _ | .amoor _ d _ _ _ | .amoxor _ d _ _ _ | .amomin _ d _ _ _ | .amomax _ d _ _ _ |
    .amominu _ d _ _ _ | .amomaxu _ d _ _ _ | .amoswap _ d _ _ _ | .amocas _ d _ _ _ | .amofadd _ d _ _ _ | .rsv _ d _ _ |
    .ldaq _ d _ _ _ | .acks _ d | .lantern _ d _ | .phase _ d _ => destOk d
  | .copy _ _ _ _ | .copy2d _ _ _ _ | .wincopy _ _ _ | .putx _ _ _ _ | .getx _ _ _ _ | .mcast _ _ _ _ | .nred _ _ _ _ |
    .cwait _ _ | .rinit _ _ _ | .rpush _ _ | .rpop _ _ | .rwaitd _ _ _ | .rwaits _ _ _ | .sd _ _ _ _ | .sw _ _ _ _ |
    .sh _ _ _ _ | .sb _ _ _ _ | .sfe _ _ _ _ _ _ | .enq _ _ _ | .launch _ _ | .cancel _ _ | .trap _ _ | .eret _ _ | .brk _ |
    .seal _ _ | .restart _ | .beq _ _ _ _ | .bne _ _ _ _ | .blt _ _ _ _ | .bge _ _ _ _ | .bltu _ _ _ _ | .bgeu _ _ _ _ |
    .jal _ _ | .pbrAny _ _ | .pbrNone _ _ | .pbrAll _ _ | .pbrNall _ _ | .pwhile _ _ _ _ | .psetall _ _ | .pclear _ _ => true
  | .pnot _ _ | .pload _ _ _ | .pstore _ _ _ | .pandm _ _ _ | .porm _ _ _ | .pput _ _ _ _ | .endT _ | .yield _ | .goto _ _ |
    .spawnat _ _ _ | .wake _ _ _ | .park _ | .vsync _ | .vmxpack _ _ _ _ | .vmxunpk _ _ _ _ | .vscale _ _ _ _ | .mrel _ _ |
    .mma _ _ _ _ | .mmr _ _ _ _ | .mzero _ _ | .mldc _ _ _ _ | .mstc _ _ _ _ | .msync _ | .maddc _ _ _ _ | .drd _ _ _ |
    .dwr _ _ _ | .dpush _ _ _ _ | .dpull _ _ _ _ | .aqput _ _ _ | .dpref _ _ _ | .bsel _ _ _ | .xqput _ _ _ |
    .bmac _ _ _ _ | .bred _ _ _ _ | .bclone _ _ _ _ | .bfill _ _ _ _ | .bsync _ | .rls _ _ _ _ | .strl _ _ _ _ _ |
    .redadd _ _ _ _ => true
  | .redand _ _ _ _ | .redor _ _ _ _ | .redxor _ _ _ _ | .redmin _ _ _ _ | .redmax _ _ _ _ | .redminu _ _ _ _ |
    .redmaxu _ _ _ _ | .redfadd _ _ _ _ | .ifence _ | .qfence _ | .drain _ | .binit _ _ _ | .barrive _ _ _ |
    .bexpect _ _ _ | .bwait _ _ _ | .binv _ _ | .waystationPowerOn | .imageVerificationComplete | .bootTimeout |
    .waystationReset | .memoryRailGood | .memoryZeroingComplete | .selfRefreshRequest | .selfRefreshEntry |
    .selfRefreshExit | .memoryReset | .computeRailGood | .computeResetRelease | .bringupComplete | .quiesceRequest |
    .quiesceResume | .computeReset | .computeRailOff | .channelCacheWritebackComplete | .dispatcherHeartbeat |
    .domainWatchdogExpiry | .travellerSwitchIn _ _ | .dequeTaskStart _ | .parkWaitComplete _ _ |
    .storeBufferDrain _ _ => true
  | .travellerArrival _ | .heldArrivalAdmit _ | .migrationAck _ _ | .migrationBounce _ | .taskPacketArrival _ |
    .wakeDelivery _ | .stealRequestSend _ | .stealRequestServe _ | .stealReply _ | .stealBackoffExpiry _ |
    .preemptionTaken _ | .travellerSpill _ _ | .spillAreaAdmit _ | .strandNotice _ | .cancelTaken _ _ |
    .engineFaultDelivery _ _ | .machineCheck _ _ _ _ | .sealComplete _ | .debugHaltTaken _ _ | .addressMatchHalt _ _ |
    .submissionEntryFetch _ | .launchPlacement _ | .quadGate _ | .quadWakeComplete _ | .selfTestDrainStart |
    .selfTestStart | .selfTestDefer | .selfTestComplete _ | .coreScrub _ | .coreMoveComplete _ | .groupWatchdogExpiry _ _ |
    .heldPostWrite _ _ | .enqueueCopyAccept _ | .doorbellSetTail _ _ _ | .doorbellSetHead _ _ _ | .functionLevelReset _ _ |
    .portHotReset _ | .sequencerEmit _ | .vectorCommandStart _ | .vectorCommandComplete _ => true
  | .matrixGrant _ | .matrixCommandComplete _ | .rotationWriteApply _ | .courierCommandStart _ |
    .courierCommandComplete _ _ | .courierFault _ _ | .engineWriteArrival _ | .streamRecordStart _ |
    .streamRecordComplete _ _ | .streamRecordFault _ _ | .bselApply _ | .bankCommandComplete _ _ | .rowSpareComplete _ _ _ |
    .scrubPass _ | .xTravellerGo _ _ _ | .xTravellerStop _ _ | .xTravellerStopComplete _ | .lmBoundaryStage _ _ _ _ |
    .lmdtbCommit _ _ _ | .imageLoad _ _ _ | .reservationGrant _ | .reservationReleaseApply _ | .redApply _ _ |
    .barrierEventApply _ | .remoteBarrierEvent _ | .walkComplete _ | .ptrootWrite _ _ _ | .xlinvGo _ _ | .xlinvComplete |
    .mapChangeIssue _ _ | .mapChangeSequence _ | .mapChangeApply _ | .restripeGranuleCopy _ | .restripeCopyAck _ |
    .cubeLossTimer _ | .meterFlushTimer _ | .leakageTick | .refreshRow _ | .kcorrUpdate _ | .purseAddWrite _ _ _ => true
  | .partcfgWrite _ _ _ | .carveGo _ _ | .carveStop _ _ | .owndatWrite _ _ | .halldatRead _ | .halldatWrite _ _ |
    .hccfgWrite _ _ _ | .respgWrite _ _ _ _ | .lanternSlotWrite _ _ _ _ | .planEnable _ _ | .dbgHaltTraveller |
    .dbgResumeTraveller | .dbgHaltLaunch | .dbgResumeLaunch | .linkRetrain _ | .linkTrainComplete _ _ |
    .linkTrainTimeout _ | .laneFailure _ _ | .linkSilenceTimeout _ | .linkReplay _ | .routeUpdate _ _ | .heartbeatSend |
    .packetTransit _ | .packetReceive _ | .connectionFetchComplete _ | .e2eRetryTimeout _ | .nakRetryResend _ |
    .nakAbsentReceive _ | .acknowledgementReceive _ | .messageCountExpiry _ | .arrivalFilterExpiry _ | .bounceResend _ |
    .reduceContributionArrival _ | .multicastReceive _ | .planAbort _ | .escortCompare _ | .escortTimeout _ |
    .lanternRoundStart _ | .lanternProbeArrival _ | .lanternProbeRelease _ => true
  | .lanternProbeReturn _ | .lanternTimeout _ | .lanternDoneMessage _ | .trapMessageArrival _ | .trapMessageSpillReturn _ |
    .managementRead _ | .managementWrite _ | .managementReply _ | .claim _ | .handover _ | .unlock _ | .rekey _ |
    .switch _ | .fwchunk _ | .attestRead _ | .alarm _ | .thermalReading _ _ | .thermalShutdownTimer |
    .registerWrite _ _ _ _ | .waystationRailOff | .spilledTravellerPlacement _ | .planDisable _ _ | .owndatApplyComplete |
    .pstructRead _ => true
  | .rstat _ _ a | .btest _ _ a _ => destOk a
  | .vadd _ _ _ _ t => pairOk 48 (0 + t.toNat)
  | .vsub _ _ _ _ t => pairOk 48 (8 + t.toNat)
  | .vmul _ _ _ _ t => pairOk 48 (16 + t.toNat)
  | .vmin _ _ _ _ t => pairOk 48 (24 + t.toNat)
  | .vmax _ _ _ _ t => pairOk 48 (32 + t.toNat)
  | .vminu _ _ _ _ t => pairOk 48 (40 + t.toNat)
  | .vmaxu _ _ _ _ t => pairOk 48 (48 + t.toNat)
  | .vand _ _ _ _ t => pairOk 48 (56 + t.toNat)
  | .vor _ _ _ _ t => pairOk 48 (64 + t.toNat)
  | .vxor _ _ _ _ t => pairOk 48 (72 + t.toNat)
  | .vsll _ _ _ _ t => pairOk 48 (80 + t.toNat)
  | .vsrl _ _ _ _ t => pairOk 48 (88 + t.toNat)
  | .vsra _ _ _ _ t => pairOk 48 (96 + t.toNat)
  | .vadds _ _ _ _ t => pairOk 48 (104 + t.toNat)
  | .vsubs _ _ _ _ t => pairOk 48 (112 + t.toNat)
  | .vmulh _ _ _ _ t => pairOk 48 (120 + t.toNat)
  | .vabsd _ _ _ _ t => pairOk 48 (128 + t.toNat)
  | .vfma _ _ _ _ t => pairOk 48 (136 + t.toNat)
  | .vfms _ _ _ _ t => pairOk 48 (144 + t.toNat)
  | .vdiv _ _ _ _ t => pairOk 48 (152 + t.toNat)
  | .vsqrt _ _ _ t => pairOk 48 (160 + t.toNat)
  | .vneg _ _ _ t => pairOk 48 (168 + t.toNat)
  | .vabs _ _ _ t => pairOk 48 (176 + t.toNat)
  | .vcmpeq _ _ _ _ t => pairOk 48 (184 + t.toNat)
  | .vcmpne _ _ _ _ t => pairOk 48 (192 + t.toNat)
  | .vcmplt _ _ _ _ t => pairOk 48 (200 + t.toNat)
  | .vcmple _ _ _ _ t => pairOk 48 (208 + t.toNat)
  | .vcmpltu _ _ _ _ t => pairOk 48 (216 + t.toNat)
  | .vsel _ _ _ _ t => pairOk 48 (224 + t.toNat)
  | .vdot _ _ _ _ t => pairOk 48 (232 + t.toNat)
  | .vconv _ _ _ e rs => pairOk 49 (16 * e.toNat + rs.toNat)
  | .vrsum _ _ _ t => pairOk 50 (0 + t.toNat)
  | .vrmax _ _ _ t => pairOk 50 (8 + t.toNat)
  | .vrmin _ _ _ t => pairOk 50 (16 + t.toNat)
  | .vrmaxi _ _ _ t => pairOk 50 (24 + t.toNat)
  | .vrmini _ _ _ t => pairOk 50 (32 + t.toNat)
  | .vrand _ _ _ t => pairOk 50 (40 + t.toNat)
  | .vror _ _ _ t => pairOk 50 (48 + t.toNat)
  | .vrxor _ _ _ t => pairOk 50 (56 + t.toNat)
  | .vbcast _ _ _ t => pairOk 51 (0 + t.toNat)
  | .vshuf _ _ _ _ t => pairOk 51 (8 + t.toNat)
  | .vslup _ _ _ _ t => pairOk 51 (16 + t.toNat)
  | .vsldn _ _ _ _ t => pairOk 51 (24 + t.toNat)
  | .vzip _ _ _ _ t => pairOk 51 (32 + t.toNat)
  | .vuzp _ _ _ _ t => pairOk 51 (40 + t.toNat)
  | .vcmpr _ _ _ t => pairOk 51 (48 + t.toNat)
  | .vexpd _ _ _ t => pairOk 51 (56 + t.toNat)
  | .vmov _ _ _ t => pairOk 51 (64 + t.toNat)
  | .viota _ _ _ t => pairOk 51 (72 + t.toNat)
  | .vexp2 _ _ _ t => pairOk 52 (0 + t.toNat)
  | .vlog2 _ _ _ t => pairOk 52 (8 + t.toNat)
  | .vrsqrt _ _ _ t => pairOk 52 (16 + t.toNat)
  | .vrcp _ _ _ t => pairOk 52 (24 + t.toNat)
  | .vsin _ _ _ t => pairOk 52 (32 + t.toNat)
  | .vcos _ _ _ t => pairOk 52 (40 + t.toNat)
  | .vtanh _ _ _ t => pairOk 52 (48 + t.toNat)
  | .vsigm _ _ _ t => pairOk 52 (56 + t.toNat)
  | .vloop _ l _ _ => bodyOk l
  | .vgather _ _ _ _ t => pairOk 54 (0 + t.toNat)
  | .vscatter _ _ _ _ t => pairOk 54 (8 + t.toNat)
  | .vamoadd _ _ _ _ t => pairOk 54 (16 + t.toNat)
  | .vamomax _ _ _ _ t => pairOk 54 (24 + t.toNat)
  | .vamomin _ _ _ _ t => pairOk 54 (32 + t.toNat)
  | .vredadd _ _ _ _ t => pairOk 54 (40 + t.toNat)
  | .fence _ c => scopeOk c
  | .fencex _ x y => classOk x && classOk y

end Sys2Proof
end

