-- ==== Sys2Proof/Decode.lean ====
section
/-! DEFINITION. Decoding a 32-bit word by the opcode map (R48, R49, R56, R57), and the encoder beside it.
A word is handled as the number of its bits; a field is read by division. Every value the map does not assign
is rejected by name. -/

namespace Sys2Proof

/-- Why a word is no form of the opcode map (R56, R57). -/
inductive DecodeError where
  /-- fewer than four bytes -/
  | short
  /-- a major opcode that the map does not assign -/
  | major (m : Nat)
  /-- a function value that the major does not assign -/
  | function (m f : Nat)
  /-- a field that the instruction does not use, or a fixed field, is not as the map states -/
  | fixedField (m f : Nat)
deriving DecidableEq, Repr

/-- Bits [lo + len - 1 : lo] of word `n`. -/
def fld (n lo len : Nat) : BitVec len := BitVec.ofNat len (n / 2 ^ lo)
/-- The same bits as a number. -/
def bitsAt (n lo len : Nat) : Nat := n / 2 ^ lo % 2 ^ len
/-- `i` when every fixed field is as stated. -/
def fixedIf (m f : Nat) (c : Bool) (i : Instr) : Except DecodeError Instr :=
  if c then .ok i else .error (.fixedField m f)

/-- Major 0x01: the operation is bits [7:0]. -/
def decodeAlu (n : Nat) : Except DecodeError Instr :=
  match bitsAt n 0 8 with
  | 0 => .ok (.add (fld n 29 3) (fld n 18 5) (fld n 13 5) (fld n 8 5))
  | 1 => .ok (.sub (fld n 29 3) (fld n 18 5) (fld n 13 5) (fld n 8 5))
  | 2 => .ok (.and (fld n 29 3) (fld n 18 5) (fld n 13 5) (fld n 8 5))
  | 3 => .ok (.or (fld n 29 3) (fld n 18 5) (fld n 13 5) (fld n 8 5))
  | 4 => .ok (.xor (fld n 29 3) (fld n 18 5) (fld n 13 5) (fld n 8 5))
  | 5 => .ok (.andn (fld n 29 3) (fld n 18 5) (fld n 13 5) (fld n 8 5))
  | 6 => .ok (.orn (fld n 29 3) (fld n 18 5) (fld n 13 5) (fld n 8 5))
  | 7 => .ok (.xnor (fld n 29 3) (fld n 18 5) (fld n 13 5) (fld n 8 5))
  | 8 => .ok (.sll (fld n 29 3) (fld n 18 5) (fld n 13 5) (fld n 8 5))
  | 9 => .ok (.srl (fld n 29 3) (fld n 18 5) (fld n 13 5) (fld n 8 5))
  | 10 => .ok (.sra (fld n 29 3) (fld n 18 5) (fld n 13 5) (fld n 8 5))
  | 11 => .ok (.rol (fld n 29 3) (fld n 18 5) (fld n 13 5) (fld n 8 5))
  | 12 => .ok (.ror (fld n 29 3) (fld n 18 5) (fld n 13 5) (fld n 8 5))
  | 13 => .ok (.slt (fld n 29 3) (fld n 18 5) (fld n 13 5) (fld n 8 5))
  | 14 => .ok (.sltu (fld n 29 3) (fld n 18 5) (fld n 13 5) (fld n 8 5))
  | 15 => .ok (.min (fld n 29 3) (fld n 18 5) (fld n 13 5) (fld n 8 5))
  | 16 => .ok (.max (fld n 29 3) (fld n 18 5) (fld n 13 5) (fld n 8 5))
  | 17 => .ok (.minu (fld n 29 3) (fld n 18 5) (fld n 13 5) (fld n 8 5))
  | 18 => .ok (.maxu (fld n 29 3) (fld n 18 5) (fld n 13 5) (fld n 8 5))
  | 19 => .ok (.seq (fld n 29 3) (fld n 18 5) (fld n 13 5) (fld n 8 5))
  | 20 => .ok (.sne (fld n 29 3) (fld n 18 5) (fld n 13 5) (fld n 8 5))
  | 21 => .ok (.addw (fld n 29 3) (fld n 18 5) (fld n 13 5) (fld n 8 5))
  | 22 => .ok (.subw (fld n 29 3) (fld n 18 5) (fld n 13 5) (fld n 8 5))
  | 23 => .ok (.sllw (fld n 29 3) (fld n 18 5) (fld n 13 5) (fld n 8 5))
  | 24 => .ok (.srlw (fld n 29 3) (fld n 18 5) (fld n 13 5) (fld n 8 5))
  | 25 => .ok (.sraw (fld n 29 3) (fld n 18 5) (fld n 13 5) (fld n 8 5))
  | 26 => fixedIf 1 26 (bitsAt n 8 5 == 0) (.clz (fld n 29 3) (fld n 18 5) (fld n 13 5))
  | 27 => fixedIf 1 27 (bitsAt n 8 5 == 0) (.ctz (fld n 29 3) (fld n 18 5) (fld n 13 5))
  | 28 => fixedIf 1 28 (bitsAt n 8 5 == 0) (.popc (fld n 29 3) (fld n 18 5) (fld n 13 5))
  | 29 => fixedIf 1 29 (bitsAt n 8 5 == 0) (.brev (fld n 29 3) (fld n 18 5) (fld n 13 5))
  | 30 => fixedIf 1 30 (bitsAt n 8 5 == 0) (.bswap (fld n 29 3) (fld n 18 5) (fld n 13 5))
  | 31 => .ok (.sext (fld n 29 3) (fld n 18 5) (fld n 13 5) (fld n 8 5))
  | f => .error (.function 1 f)

/-- Major 0x02: the operation is bits [7:0]. -/
def decodeMulBit (n : Nat) : Except DecodeError Instr :=
  match bitsAt n 0 8 with
  | 0 => .ok (.mul (fld n 29 3) (fld n 18 5) (fld n 13 5) (fld n 8 5))
  | 1 => .ok (.mulh (fld n 29 3) (fld n 18 5) (fld n 13 5) (fld n 8 5))
  | 2 => .ok (.mulhu (fld n 29 3) (fld n 18 5) (fld n 13 5) (fld n 8 5))
  | 3 => .ok (.mulw (fld n 29 3) (fld n 18 5) (fld n 13 5) (fld n 8 5))
  | 4 => .ok (.div (fld n 29 3) (fld n 18 5) (fld n 13 5) (fld n 8 5))
  | 5 => .ok (.divu (fld n 29 3) (fld n 18 5) (fld n 13 5) (fld n 8 5))
  | 6 => .ok (.rem (fld n 29 3) (fld n 18 5) (fld n 13 5) (fld n 8 5))
  | 7 => .ok (.remu (fld n 29 3) (fld n 18 5) (fld n 13 5) (fld n 8 5))
  | 8 => .ok (.bilv2 (fld n 29 3) (fld n 18 5) (fld n 13 5) (fld n 8 5))
  | 9 => .ok (.bilv3 (fld n 29 3) (fld n 18 5) (fld n 13 5) (fld n 8 5))
  | 10 => .ok (.bdil3 (fld n 29 3) (fld n 18 5) (fld n 13 5) (fld n 8 5))
  | 11 => .ok (.extu (fld n 29 3) (fld n 18 5) (fld n 13 5) (fld n 8 5))
  | 12 => .ok (.exts (fld n 29 3) (fld n 18 5) (fld n 13 5) (fld n 8 5))
  | 13 => .ok (.ins (fld n 29 3) (fld n 18 5) (fld n 13 5) (fld n 8 5))
  | f => .error (.function 2 f)

/-- Major 0x09: the operation is bits [12:11]. -/
def decodeShi (n : Nat) : Except DecodeError Instr :=
  match bitsAt n 11 2 with
  | 0 => fixedIf 9 0 (bitsAt n 6 5 == 0) (.slli (fld n 29 3) (fld n 18 5) (fld n 13 5) (fld n 0 6))
  | 1 => fixedIf 9 1 (bitsAt n 6 5 == 0) (.srli (fld n 29 3) (fld n 18 5) (fld n 13 5) (fld n 0 6))
  | 2 => fixedIf 9 2 (bitsAt n 6 5 == 0) (.srai (fld n 29 3) (fld n 18 5) (fld n 13 5) (fld n 0 6))
  | 3 => fixedIf 9 3 (bitsAt n 6 5 == 0) (.rori (fld n 29 3) (fld n 18 5) (fld n 13 5) (fld n 0 6))
  | f => .error (.function 9 f)

/-- Major 0x0C: the operation is bits [5:0]. -/
def decodeFpu (n : Nat) : Except DecodeError Instr :=
  match bitsAt n 0 6 with
  | 0 => fixedIf 12 0 (bitsAt n 7 1 == 0) (.fadd (fld n 29 3) (fld n 18 5) (fld n 13 5) (fld n 8 5) (fld n 6 1))
  | 1 => fixedIf 12 1 (bitsAt n 7 1 == 0) (.fsub (fld n 29 3) (fld n 18 5) (fld n 13 5) (fld n 8 5) (fld n 6 1))
  | 2 => fixedIf 12 2 (bitsAt n 7 1 == 0) (.fmul (fld n 29 3) (fld n 18 5) (fld n 13 5) (fld n 8 5) (fld n 6 1))
  | 3 => fixedIf 12 3 (bitsAt n 7 1 == 0) (.fdiv (fld n 29 3) (fld n 18 5) (fld n 13 5) (fld n 8 5) (fld n 6 1))
  | 4 => fixedIf 12 4 (bitsAt n 7 6 == 0) (.fsqrt (fld n 29 3) (fld n 18 5) (fld n 13 5) (fld n 6 1))
  | 5 => fixedIf 12 5 (bitsAt n 7 1 == 0) (.fmin (fld n 29 3) (fld n 18 5) (fld n 13 5) (fld n 8 5) (fld n 6 1))
  | 6 => fixedIf 12 6 (bitsAt n 7 1 == 0) (.fmax (fld n 29 3) (fld n 18 5) (fld n 13 5) (fld n 8 5) (fld n 6 1))
  | 7 => fixedIf 12 7 (bitsAt n 7 1 == 0) (.feq (fld n 29 3) (fld n 18 5) (fld n 13 5) (fld n 8 5) (fld n 6 1))
  | 8 => fixedIf 12 8 (bitsAt n 7 1 == 0) (.flt (fld n 29 3) (fld n 18 5) (fld n 13 5) (fld n 8 5) (fld n 6 1))
  | 9 => fixedIf 12 9 (bitsAt n 7 1 == 0) (.fle (fld n 29 3) (fld n 18 5) (fld n 13 5) (fld n 8 5) (fld n 6 1))
  | 10 => fixedIf 12 10 (bitsAt n 7 6 == 0) (.fclass (fld n 29 3) (fld n 18 5) (fld n 13 5) (fld n 6 1))
  | 11 => fixedIf 12 11 (bitsAt n 7 6 == 0) (.fcvti (fld n 29 3) (fld n 18 5) (fld n 13 5) (fld n 6 1))
  | 12 => fixedIf 12 12 (bitsAt n 7 6 == 0) (.fcvtu (fld n 29 3) (fld n 18 5) (fld n 13 5) (fld n 6 1))
  | 13 => fixedIf 12 13 (bitsAt n 7 6 == 0) (.fcvtf (fld n 29 3) (fld n 18 5) (fld n 13 5) (fld n 6 1))
  | 14 => fixedIf 12 14 (bitsAt n 7 6 == 0) (.fcvtfu (fld n 29 3) (fld n 18 5) (fld n 13 5) (fld n 6 1))
  | 15 => fixedIf 12 15 (bitsAt n 7 6 == 0) (.fcvtw (fld n 29 3) (fld n 18 5) (fld n 13 5) (fld n 6 1))
  | 16 => fixedIf 12 16 (bitsAt n 7 6 == 0) (.fneg (fld n 29 3) (fld n 18 5) (fld n 13 5) (fld n 6 1))
  | 17 => fixedIf 12 17 (bitsAt n 7 6 == 0) (.fabs (fld n 29 3) (fld n 18 5) (fld n 13 5) (fld n 6 1))
  | f => .error (.function 12 f)

/-- Major 0x0D: the operation is bits [7:0]. -/
def decodeFma (n : Nat) : Except DecodeError Instr :=
  match bitsAt n 0 8 with
  | 0 => .ok (.fmas (fld n 29 3) (fld n 18 5) (fld n 13 5) (fld n 8 5))
  | 1 => .ok (.fmad (fld n 29 3) (fld n 18 5) (fld n 13 5) (fld n 8 5))
  | 2 => .ok (.fnmas (fld n 29 3) (fld n 18 5) (fld n 13 5) (fld n 8 5))
  | 3 => .ok (.fnmad (fld n 29 3) (fld n 18 5) (fld n 13 5) (fld n 8 5))
  | 4 => .ok (.fmss (fld n 29 3) (fld n 18 5) (fld n 13 5) (fld n 8 5))
  | 5 => .ok (.fmsd (fld n 29 3) (fld n 18 5) (fld n 13 5) (fld n 8 5))
  | f => .error (.function 13 f)

/-- Major 0x0E: the operation is bits [7:0]. -/
def decodeCpy (n : Nat) : Except DecodeError Instr :=
  match bitsAt n 0 8 with
  | 0 => .ok (.copy (fld n 29 3) (fld n 18 5) (fld n 13 5) (fld n 8 5))
  | 1 => .ok (.copy2d (fld n 29 3) (fld n 18 5) (fld n 13 5) (fld n 8 5))
  | 2 => fixedIf 14 2 (bitsAt n 8 5 == 0) (.wincopy (fld n 29 3) (fld n 18 5) (fld n 13 5))
  | 3 => .ok (.putx (fld n 29 3) (fld n 18 5) (fld n 13 5) (fld n 8 5))
  | 4 => .ok (.getx (fld n 29 3) (fld n 18 5) (fld n 13 5) (fld n 8 5))
  | 5 => .ok (.mcast (fld n 29 3) (fld n 18 5) (fld n 13 5) (fld n 8 5))
  | 6 => .ok (.nred (fld n 29 3) (fld n 18 5) (fld n 13 5) (fld n 8 5))
  | 7 => fixedIf 14 7 (bitsAt n 8 5 == 0 && bitsAt n 18 5 == 0) (.cwait (fld n 29 3) (fld n 13 5))
  | f => .error (.function 14 f)

/-- Major 0x0F: the operation is bits [7:0]. -/
def decodeRing (n : Nat) : Except DecodeError Instr :=
  match bitsAt n 0 8 with
  | 0 => fixedIf 15 0 (bitsAt n 8 5 == 0 && bitsAt n 21 2 == 0) (.rinit (fld n 29 3) (fld n 18 3) (fld n 13 5))
  | 1 => fixedIf 15 1 (bitsAt n 8 10 == 0 && bitsAt n 21 2 == 0) (.rpush (fld n 29 3) (fld n 18 3))
  | 2 => fixedIf 15 2 (bitsAt n 8 10 == 0 && bitsAt n 21 2 == 0) (.rpop (fld n 29 3) (fld n 18 3))
  | 3 => fixedIf 15 3 (bitsAt n 8 5 == 0 && bitsAt n 21 2 == 0) (.rstat (fld n 29 3) (fld n 18 3) (fld n 13 5))
  | 4 => fixedIf 15 4 (bitsAt n 8 5 == 0 && bitsAt n 21 2 == 0) (.rwaitd (fld n 29 3) (fld n 18 3) (fld n 13 5))
  | 5 => fixedIf 15 5 (bitsAt n 8 5 == 0 && bitsAt n 21 2 == 0) (.rwaits (fld n 29 3) (fld n 18 3) (fld n 13 5))
  | f => .error (.function 15 f)

/-- Major 0x1D: the operation is bits [7:0]. -/
def decodeQue (n : Nat) : Except DecodeError Instr :=
  match bitsAt n 0 8 with
  | 0 => fixedIf 29 0 (bitsAt n 18 5 == 0) (.enq (fld n 29 3) (fld n 13 5) (fld n 8 5))
  | 1 => .ok (.deq (fld n 29 3) (fld n 18 5) (fld n 13 5) (fld n 8 5))
  | 2 => fixedIf 29 2 (bitsAt n 13 5 == 0) (.qstat (fld n 29 3) (fld n 18 5) (fld n 8 5))
  | 3 => fixedIf 29 3 (bitsAt n 8 5 == 0 && bitsAt n 18 5 == 0) (.launch (fld n 29 3) (fld n 13 5))
  | 4 => .ok (.cdone (fld n 29 3) (fld n 18 5) (fld n 13 5) (fld n 8 5))
  | 5 => fixedIf 29 5 (bitsAt n 8 5 == 0) (.cchk (fld n 29 3) (fld n 18 5) (fld n 13 5))
  | 6 => fixedIf 29 6 (bitsAt n 8 5 == 0 && bitsAt n 18 5 == 0) (.cancel (fld n 29 3) (fld n 13 5))
  | f => .error (.function 29 f)

/-- Major 0x1E: the operation is bits [7:0]. -/
def decodeSys (n : Nat) : Except DecodeError Instr :=
  match bitsAt n 0 8 with
  | 0 => fixedIf 30 0 (bitsAt n 8 5 == 0 && bitsAt n 18 5 == 0) (.trap (fld n 29 3) (fld n 13 5))
  | 1 => fixedIf 30 1 (bitsAt n 8 5 == 0 && bitsAt n 18 5 == 0) (.eret (fld n 29 3) (fld n 13 5))
  | 2 => fixedIf 30 2 (bitsAt n 8 15 == 0) (.brk (fld n 29 3))
  | 3 => fixedIf 30 3 (bitsAt n 8 10 == 0) (.wfm (fld n 29 3) (fld n 18 5))
  | 4 => fixedIf 30 4 (bitsAt n 8 5 == 0 && bitsAt n 18 5 == 0) (.seal (fld n 29 3) (fld n 13 5))
  | 5 => fixedIf 30 5 (bitsAt n 8 15 == 0) (.restart (fld n 29 3))
  | 6 => .ok (.purseadd (fld n 29 3) (fld n 18 5) (fld n 13 5) (fld n 8 5))
  | f => .error (.function 30 f)

/-- Major 0x1F: the operation is bits [12:11]. -/
def decodeCsr (n : Nat) : Except DecodeError Instr :=
  match bitsAt n 11 2 with
  | 0 => fixedIf 31 0 (bitsAt n 13 5 == 0) (.csrr (fld n 29 3) (fld n 18 5) (fld n 0 11))
  | 1 => .ok (.csrw (fld n 29 3) (fld n 18 5) (fld n 13 5) (fld n 0 11))
  | 2 => .ok (.csrs (fld n 29 3) (fld n 18 5) (fld n 13 5) (fld n 0 11))
  | 3 => .ok (.csrc (fld n 29 3) (fld n 18 5) (fld n 13 5) (fld n 0 11))
  | f => .error (.function 31 f)

/-- Major 0x28: the operation is bits [22:20]. -/
def decodePbr (n : Nat) : Except DecodeError Instr :=
  match bitsAt n 20 3 with
  | 0 => .ok (.pbrAny (fld n 29 3) (fld n 0 20))
  | 1 => .ok (.pbrNone (fld n 29 3) (fld n 0 20))
  | 2 => .ok (.pbrAll (fld n 29 3) (fld n 0 20))
  | 3 => .ok (.pbrNall (fld n 29 3) (fld n 0 20))
  | f => .error (.function 40 f)

/-- Major 0x29: the operation is bits [7:3]. -/
def decodePred (n : Nat) : Except DecodeError Instr :=
  match bitsAt n 3 5 with
  | 0 => fixedIf 41 0 (bitsAt n 2 1 == 0 && bitsAt n 18 5 == 0) (.pwhile (fld n 29 3) (fld n 13 5) (fld n 8 5) (fld n 0 2))
  | 1 => fixedIf 41 1 (bitsAt n 2 1 == 0 && bitsAt n 8 15 == 0) (.psetall (fld n 29 3) (fld n 0 2))
  | 2 => fixedIf 41 2 (bitsAt n 2 1 == 0 && bitsAt n 8 15 == 0) (.pclear (fld n 29 3) (fld n 0 2))
  | 3 => fixedIf 41 3 (bitsAt n 2 1 == 0 && bitsAt n 8 15 == 0) (.pnot (fld n 29 3) (fld n 0 2))
  | 4 => fixedIf 41 4 (bitsAt n 2 1 == 0 && bitsAt n 8 5 == 0 && bitsAt n 18 5 == 0) (.pload (fld n 29 3) (fld n 13 5) (fld n 0 2))
  | 5 => fixedIf 41 5 (bitsAt n 2 1 == 0 && bitsAt n 8 5 == 0 && bitsAt n 18 5 == 0) (.pstore (fld n 29 3) (fld n 13 5) (fld n 0 2))
  | 6 => fixedIf 41 6 (bitsAt n 2 1 == 0 && bitsAt n 8 10 == 0) (.pcount (fld n 29 3) (fld n 18 5) (fld n 0 2))
  | 7 => fixedIf 41 7 (bitsAt n 2 1 == 0 && bitsAt n 8 10 == 0) (.pfirst (fld n 29 3) (fld n 18 5) (fld n 0 2))
  | 8 => fixedIf 41 8 (bitsAt n 2 1 == 0 && bitsAt n 8 5 == 0 && bitsAt n 18 5 == 0) (.pandm (fld n 29 3) (fld n 13 5) (fld n 0 2))
  | 9 => fixedIf 41 9 (bitsAt n 2 1 == 0 && bitsAt n 8 5 == 0 && bitsAt n 18 5 == 0) (.porm (fld n 29 3) (fld n 13 5) (fld n 0 2))
  | 10 => fixedIf 41 10 (bitsAt n 2 1 == 0 && bitsAt n 8 5 == 0) (.pget (fld n 29 3) (fld n 18 5) (fld n 13 5) (fld n 0 2))
  | 11 => fixedIf 41 11 (bitsAt n 2 1 == 0 && bitsAt n 18 5 == 0) (.pput (fld n 29 3) (fld n 13 5) (fld n 8 5) (fld n 0 2))
  | f => .error (.function 41 f)

/-- Major 0x2A: the operation is bits [7:0]. -/
def decodeTask (n : Nat) : Except DecodeError Instr :=
  match bitsAt n 0 8 with
  | 0 => fixedIf 42 0 (bitsAt n 8 15 == 0) (.endT (fld n 29 3))
  | 1 => fixedIf 42 1 (bitsAt n 8 15 == 0) (.yield (fld n 29 3))
  | 2 => fixedIf 42 2 (bitsAt n 8 5 == 0 && bitsAt n 18 5 == 0) (.goto (fld n 29 3) (fld n 13 5))
  | 3 => fixedIf 42 3 (bitsAt n 8 5 == 0) (.spawn (fld n 29 3) (fld n 18 5) (fld n 13 5))
  | 4 => fixedIf 42 4 (bitsAt n 18 5 == 0) (.spawnat (fld n 29 3) (fld n 13 5) (fld n 8 5))
  | 5 => fixedIf 42 5 (bitsAt n 8 5 == 0) (.pusht (fld n 29 3) (fld n 18 5) (fld n 13 5))
  | 6 => fixedIf 42 6 (bitsAt n 8 5 == 0) (.popt (fld n 29 3) (fld n 18 5) (fld n 13 5))
  | 7 => fixedIf 42 7 (bitsAt n 18 5 == 0) (.wake (fld n 29 3) (fld n 13 5) (fld n 8 5))
  | 8 => fixedIf 42 8 (bitsAt n 8 15 == 0) (.park (fld n 29 3))
  | f => .error (.function 42 f)

/-- Major 0x2B: the operation is bits [7:0]. -/
def decodeInfo (n : Nat) : Except DecodeError Instr :=
  match bitsAt n 0 8 with
  | 0 => fixedIf 43 0 (bitsAt n 8 5 == 0) (.homeof (fld n 29 3) (fld n 18 5) (fld n 13 5))
  | 1 => fixedIf 43 1 (bitsAt n 8 10 == 0) (.cubeof (fld n 29 3) (fld n 18 5))
  | 2 => fixedIf 43 2 (bitsAt n 8 10 == 0) (.vquery (fld n 29 3) (fld n 18 5))
  | 3 => fixedIf 43 3 (bitsAt n 8 10 == 0) (.rdcyc (fld n 29 3) (fld n 18 5))
  | 4 => fixedIf 43 4 (bitsAt n 8 10 == 0) (.rdpurse (fld n 29 3) (fld n 18 5))
  | 5 => fixedIf 43 5 (bitsAt n 8 10 == 0) (.rdfare (fld n 29 3) (fld n 18 5))
  | 6 => fixedIf 43 6 (bitsAt n 8 10 == 0) (.rdfrm (fld n 29 3) (fld n 18 5))
  | 7 => fixedIf 43 7 (bitsAt n 8 5 == 0) (.wrfrm (fld n 29 3) (fld n 18 5) (fld n 13 5))
  | 8 => fixedIf 43 8 (bitsAt n 13 5 == 0) (.rdflags (fld n 29 3) (fld n 18 5) (fld n 8 5))
  | f => .error (.function 43 f)

/-- Major 0x30: the operation is bits [7:3]. -/
def decodeVarith (n : Nat) : Except DecodeError Instr :=
  match bitsAt n 3 5 with
  | 0 => .ok (.vadd (fld n 29 3) (fld n 18 5) (fld n 13 5) (fld n 8 5) (fld n 0 3))
  | 1 => .ok (.vsub (fld n 29 3) (fld n 18 5) (fld n 13 5) (fld n 8 5) (fld n 0 3))
  | 2 => .ok (.vmul (fld n 29 3) (fld n 18 5) (fld n 13 5) (fld n 8 5) (fld n 0 3))
  | 3 => .ok (.vmin (fld n 29 3) (fld n 18 5) (fld n 13 5) (fld n 8 5) (fld n 0 3))
  | 4 => .ok (.vmax (fld n 29 3) (fld n 18 5) (fld n 13 5) (fld n 8 5) (fld n 0 3))
  | 5 => .ok (.vminu (fld n 29 3) (fld n 18 5) (fld n 13 5) (fld n 8 5) (fld n 0 3))
  | 6 => .ok (.vmaxu (fld n 29 3) (fld n 18 5) (fld n 13 5) (fld n 8 5) (fld n 0 3))
  | 7 => .ok (.vand (fld n 29 3) (fld n 18 5) (fld n 13 5) (fld n 8 5) (fld n 0 3))
  | 8 => .ok (.vor (fld n 29 3) (fld n 18 5) (fld n 13 5) (fld n 8 5) (fld n 0 3))
  | 9 => .ok (.vxor (fld n 29 3) (fld n 18 5) (fld n 13 5) (fld n 8 5) (fld n 0 3))
  | 10 => .ok (.vsll (fld n 29 3) (fld n 18 5) (fld n 13 5) (fld n 8 5) (fld n 0 3))
  | 11 => .ok (.vsrl (fld n 29 3) (fld n 18 5) (fld n 13 5) (fld n 8 5) (fld n 0 3))
  | 12 => .ok (.vsra (fld n 29 3) (fld n 18 5) (fld n 13 5) (fld n 8 5) (fld n 0 3))
  | 13 => .ok (.vadds (fld n 29 3) (fld n 18 5) (fld n 13 5) (fld n 8 5) (fld n 0 3))
  | 14 => .ok (.vsubs (fld n 29 3) (fld n 18 5) (fld n 13 5) (fld n 8 5) (fld n 0 3))
  | 15 => .ok (.vmulh (fld n 29 3) (fld n 18 5) (fld n 13 5) (fld n 8 5) (fld n 0 3))
  | 16 => .ok (.vabsd (fld n 29 3) (fld n 18 5) (fld n 13 5) (fld n 8 5) (fld n 0 3))
  | 17 => .ok (.vfma (fld n 29 3) (fld n 18 5) (fld n 13 5) (fld n 8 5) (fld n 0 3))
  | 18 => .ok (.vfms (fld n 29 3) (fld n 18 5) (fld n 13 5) (fld n 8 5) (fld n 0 3))
  | 19 => .ok (.vdiv (fld n 29 3) (fld n 18 5) (fld n 13 5) (fld n 8 5) (fld n 0 3))
  | 20 => fixedIf 48 20 (bitsAt n 8 5 == 0) (.vsqrt (fld n 29 3) (fld n 18 5) (fld n 13 5) (fld n 0 3))
  | 21 => fixedIf 48 21 (bitsAt n 8 5 == 0) (.vneg (fld n 29 3) (fld n 18 5) (fld n 13 5) (fld n 0 3))
  | 22 => fixedIf 48 22 (bitsAt n 8 5 == 0) (.vabs (fld n 29 3) (fld n 18 5) (fld n 13 5) (fld n 0 3))
  | 23 => .ok (.vcmpeq (fld n 29 3) (fld n 18 5) (fld n 13 5) (fld n 8 5) (fld n 0 3))
  | 24 => .ok (.vcmpne (fld n 29 3) (fld n 18 5) (fld n 13 5) (fld n 8 5) (fld n 0 3))
  | 25 => .ok (.vcmplt (fld n 29 3) (fld n 18 5) (fld n 13 5) (fld n 8 5) (fld n 0 3))
  | 26 => .ok (.vcmple (fld n 29 3) (fld n 18 5) (fld n 13 5) (fld n 8 5) (fld n 0 3))
  | 27 => .ok (.vcmpltu (fld n 29 3) (fld n 18 5) (fld n 13 5) (fld n 8 5) (fld n 0 3))
  | 28 => .ok (.vsel (fld n 29 3) (fld n 18 5) (fld n 13 5) (fld n 8 5) (fld n 0 3))
  | 29 => .ok (.vdot (fld n 29 3) (fld n 18 5) (fld n 13 5) (fld n 8 5) (fld n 0 3))
  | f => .error (.function 48 f)

/-- Major 0x32: the operation is bits [7:3]. -/
def decodeVred (n : Nat) : Except DecodeError Instr :=
  match bitsAt n 3 5 with
  | 0 => fixedIf 50 0 (bitsAt n 8 5 == 0) (.vrsum (fld n 29 3) (fld n 18 5) (fld n 13 5) (fld n 0 3))
  | 1 => fixedIf 50 1 (bitsAt n 8 5 == 0) (.vrmax (fld n 29 3) (fld n 18 5) (fld n 13 5) (fld n 0 3))
  | 2 => fixedIf 50 2 (bitsAt n 8 5 == 0) (.vrmin (fld n 29 3) (fld n 18 5) (fld n 13 5) (fld n 0 3))
  | 3 => fixedIf 50 3 (bitsAt n 8 5 == 0) (.vrmaxi (fld n 29 3) (fld n 18 5) (fld n 13 5) (fld n 0 3))
  | 4 => fixedIf 50 4 (bitsAt n 8 5 == 0) (.vrmini (fld n 29 3) (fld n 18 5) (fld n 13 5) (fld n 0 3))
  | 5 => fixedIf 50 5 (bitsAt n 8 5 == 0) (.vrand (fld n 29 3) (fld n 18 5) (fld n 13 5) (fld n 0 3))
  | 6 => fixedIf 50 6 (bitsAt n 8 5 == 0) (.vror (fld n 29 3) (fld n 18 5) (fld n 13 5) (fld n 0 3))
  | 7 => fixedIf 50 7 (bitsAt n 8 5 == 0) (.vrxor (fld n 29 3) (fld n 18 5) (fld n 13 5) (fld n 0 3))
  | f => .error (.function 50 f)

/-- Major 0x33: the operation is bits [7:3]. -/
def decodeVperm (n : Nat) : Except DecodeError Instr :=
  match bitsAt n 3 5 with
  | 0 => fixedIf 51 0 (bitsAt n 8 5 == 0) (.vbcast (fld n 29 3) (fld n 18 5) (fld n 13 5) (fld n 0 3))
  | 1 => .ok (.vshuf (fld n 29 3) (fld n 18 5) (fld n 13 5) (fld n 8 5) (fld n 0 3))
  | 2 => .ok (.vslup (fld n 29 3) (fld n 18 5) (fld n 13 5) (fld n 8 5) (fld n 0 3))
  | 3 => .ok (.vsldn (fld n 29 3) (fld n 18 5) (fld n 13 5) (fld n 8 5) (fld n 0 3))
  | 4 => .ok (.vzip (fld n 29 3) (fld n 18 5) (fld n 13 5) (fld n 8 5) (fld n 0 3))
  | 5 => .ok (.vuzp (fld n 29 3) (fld n 18 5) (fld n 13 5) (fld n 8 5) (fld n 0 3))
  | 6 => fixedIf 51 6 (bitsAt n 8 5 == 0) (.vcmpr (fld n 29 3) (fld n 18 5) (fld n 13 5) (fld n 0 3))
  | 7 => fixedIf 51 7 (bitsAt n 8 5 == 0) (.vexpd (fld n 29 3) (fld n 18 5) (fld n 13 5) (fld n 0 3))
  | 8 => fixedIf 51 8 (bitsAt n 8 5 == 0) (.vmov (fld n 29 3) (fld n 18 5) (fld n 13 5) (fld n 0 3))
  | 9 => fixedIf 51 9 (bitsAt n 8 5 == 0) (.viota (fld n 29 3) (fld n 18 5) (fld n 13 5) (fld n 0 3))
  | f => .error (.function 51 f)

/-- Major 0x34: the operation is bits [7:3]. -/
def decodeVsfu (n : Nat) : Except DecodeError Instr :=
  match bitsAt n 3 5 with
  | 0 => fixedIf 52 0 (bitsAt n 8 5 == 0) (.vexp2 (fld n 29 3) (fld n 18 5) (fld n 13 5) (fld n 0 3))
  | 1 => fixedIf 52 1 (bitsAt n 8 5 == 0) (.vlog2 (fld n 29 3) (fld n 18 5) (fld n 13 5) (fld n 0 3))
  | 2 => fixedIf 52 2 (bitsAt n 8 5 == 0) (.vrsqrt (fld n 29 3) (fld n 18 5) (fld n 13 5) (fld n 0 3))
  | 3 => fixedIf 52 3 (bitsAt n 8 5 == 0) (.vrcp (fld n 29 3) (fld n 18 5) (fld n 13 5) (fld n 0 3))
  | 4 => fixedIf 52 4 (bitsAt n 8 5 == 0) (.vsin (fld n 29 3) (fld n 18 5) (fld n 13 5) (fld n 0 3))
  | 5 => fixedIf 52 5 (bitsAt n 8 5 == 0) (.vcos (fld n 29 3) (fld n 18 5) (fld n 13 5) (fld n 0 3))
  | 6 => fixedIf 52 6 (bitsAt n 8 5 == 0) (.vtanh (fld n 29 3) (fld n 18 5) (fld n 13 5) (fld n 0 3))
  | 7 => fixedIf 52 7 (bitsAt n 8 5 == 0) (.vsigm (fld n 29 3) (fld n 18 5) (fld n 13 5) (fld n 0 3))
  | f => .error (.function 52 f)

/-- Major 0x35: the operation is bits [7:0]. -/
def decodeVseq (n : Nat) : Except DecodeError Instr :=
  match bitsAt n 0 8 with
  | 0 => .ok (.vloop (fld n 29 3) (fld n 18 5) (fld n 13 5) (fld n 8 5))
  | 1 => fixedIf 53 1 (bitsAt n 8 15 == 0) (.vsync (fld n 29 3))
  | f => .error (.function 53 f)

/-- Major 0x36: the operation is bits [7:3]. -/
def decodeVmem (n : Nat) : Except DecodeError Instr :=
  match bitsAt n 3 5 with
  | 0 => .ok (.vgather (fld n 29 3) (fld n 18 5) (fld n 13 5) (fld n 8 5) (fld n 0 3))
  | 1 => .ok (.vscatter (fld n 29 3) (fld n 18 5) (fld n 13 5) (fld n 8 5) (fld n 0 3))
  | 2 => .ok (.vamoadd (fld n 29 3) (fld n 18 5) (fld n 13 5) (fld n 8 5) (fld n 0 3))
  | 3 => .ok (.vamomax (fld n 29 3) (fld n 18 5) (fld n 13 5) (fld n 8 5) (fld n 0 3))
  | 4 => .ok (.vamomin (fld n 29 3) (fld n 18 5) (fld n 13 5) (fld n 8 5) (fld n 0 3))
  | 5 => .ok (.vredadd (fld n 29 3) (fld n 18 5) (fld n 13 5) (fld n 8 5) (fld n 0 3))
  | f => .error (.function 54 f)

/-- Major 0x37: the operation is bits [7:0]. -/
def decodeVmx (n : Nat) : Except DecodeError Instr :=
  match bitsAt n 0 8 with
  | 0 => .ok (.vmxpack (fld n 29 3) (fld n 18 5) (fld n 13 5) (fld n 8 5))
  | 1 => .ok (.vmxunpk (fld n 29 3) (fld n 18 5) (fld n 13 5) (fld n 8 5))
  | 2 => .ok (.vscale (fld n 29 3) (fld n 18 5) (fld n 13 5) (fld n 8 5))
  | f => .error (.function 55 f)

/-- Major 0x38: the operation is bits [7:0]. -/
noncomputable def decodeCoach (n : Nat) : Except DecodeError Instr :=
  match bitsAt n 0 8 with
  | 0 => fixedIf 56 0 (bitsAt n 8 5 == 0) (.macq (fld n 29 3) (fld n 18 5) (fld n 13 5))
  | 1 => fixedIf 56 1 (bitsAt n 8 10 == 0) (.mrel (fld n 29 3) (fld n 18 5))
  | 2 => .ok (.mma (fld n 29 3) (fld n 18 5) (fld n 13 5) (fld n 8 5))
  | 3 => .ok (.mmr (fld n 29 3) (fld n 18 5) (fld n 13 5) (fld n 8 5))
  | 4 => fixedIf 56 4 (bitsAt n 8 10 == 0) (.mzero (fld n 29 3) (fld n 18 5))
  | 5 => .ok (.mldc (fld n 29 3) (fld n 18 5) (fld n 13 5) (fld n 8 5))
  | 6 => .ok (.mstc (fld n 29 3) (fld n 18 5) (fld n 13 5) (fld n 8 5))
  | 7 => fixedIf 56 7 (bitsAt n 8 15 == 0) (.msync (fld n 29 3))
  | 8 => .ok (.maddc (fld n 29 3) (fld n 18 5) (fld n 13 5) (fld n 8 5))
  | 9 => .ok (.mstat (fld n 29 3) (fld n 18 5) (fld n 13 5) (fld n 8 5))
  | f => .error (.function 56 f)

/-- Major 0x39: the operation is bits [7:0]. -/
noncomputable def decodeCha (n : Nat) : Except DecodeError Instr :=
  match bitsAt n 0 8 with
  | 0 => fixedIf 57 0 (bitsAt n 18 5 == 0) (.drd (fld n 29 3) (fld n 13 5) (fld n 8 5))
  | 1 => fixedIf 57 1 (bitsAt n 18 5 == 0) (.dwr (fld n 29 3) (fld n 13 5) (fld n 8 5))
  | 2 => .ok (.dpush (fld n 29 3) (fld n 18 5) (fld n 13 5) (fld n 8 5))
  | 3 => .ok (.dpull (fld n 29 3) (fld n 18 5) (fld n 13 5) (fld n 8 5))
  | 4 => fixedIf 57 4 (bitsAt n 18 5 == 0) (.aqput (fld n 29 3) (fld n 13 5) (fld n 8 5))
  | 5 => fixedIf 57 5 (bitsAt n 8 5 == 0) (.xqget (fld n 29 3) (fld n 18 5) (fld n 13 5))
  | 6 => fixedIf 57 6 (bitsAt n 18 5 == 0) (.dpref (fld n 29 3) (fld n 13 5) (fld n 8 5))
  | 7 => fixedIf 57 7 (bitsAt n 18 5 == 0) (.bsel (fld n 29 3) (fld n 13 5) (fld n 8 5))
  | f => .error (.function 57 f)

/-- Major 0x3A: the operation is bits [7:0]. -/
noncomputable def decodeChx (n : Nat) : Except DecodeError Instr :=
  match bitsAt n 0 8 with
  | 0 => fixedIf 58 0 (bitsAt n 8 5 == 0) (.aqget (fld n 29 3) (fld n 18 5) (fld n 13 5))
  | 1 => fixedIf 58 1 (bitsAt n 18 5 == 0) (.xqput (fld n 29 3) (fld n 13 5) (fld n 8 5))
  | 2 => .ok (.bmac (fld n 29 3) (fld n 18 5) (fld n 13 5) (fld n 8 5))
  | 3 => .ok (.bred (fld n 29 3) (fld n 18 5) (fld n 13 5) (fld n 8 5))
  | 4 => .ok (.bclone (fld n 29 3) (fld n 18 5) (fld n 13 5) (fld n 8 5))
  | 5 => .ok (.bfill (fld n 29 3) (fld n 18 5) (fld n 13 5) (fld n 8 5))
  | 6 => fixedIf 58 6 (bitsAt n 8 15 == 0) (.bsync (fld n 29 3))
  | f => .error (.function 58 f)

/-- Major 0x3B: the operation is bits [4:0]. -/
noncomputable def decodeAtom (n : Nat) : Except DecodeError Instr :=
  match bitsAt n 0 5 with
  | 0 => fixedIf 59 0 (bitsAt n 6 2 == 0) (.amoadd (fld n 29 3) (fld n 18 5) (fld n 13 5) (fld n 8 5) (fld n 5 1))
  | 1 => fixedIf 59 1 (bitsAt n 6 2 == 0) (.amoand (fld n 29 3) (fld n 18 5) (fld n 13 5) (fld n 8 5) (fld n 5 1))
  | 2 => fixedIf 59 2 (bitsAt n 6 2 == 0) (.amoor (fld n 29 3) (fld n 18 5) (fld n 13 5) (fld n 8 5) (fld n 5 1))
  | 3 => fixedIf 59 3 (bitsAt n 6 2 == 0) (.amoxor (fld n 29 3) (fld n 18 5) (fld n 13 5) (fld n 8 5) (fld n 5 1))
  | 4 => fixedIf 59 4 (bitsAt n 6 2 == 0) (.amomin (fld n 29 3) (fld n 18 5) (fld n 13 5) (fld n 8 5) (fld n 5 1))
  | 5 => fixedIf 59 5 (bitsAt n 6 2 == 0) (.amomax (fld n 29 3) (fld n 18 5) (fld n 13 5) (fld n 8 5) (fld n 5 1))
  | 6 => fixedIf 59 6 (bitsAt n 6 2 == 0) (.amominu (fld n 29 3) (fld n 18 5) (fld n 13 5) (fld n 8 5) (fld n 5 1))
  | 7 => fixedIf 59 7 (bitsAt n 6 2 == 0) (.amomaxu (fld n 29 3) (fld n 18 5) (fld n 13 5) (fld n 8 5) (fld n 5 1))
  | 8 => fixedIf 59 8 (bitsAt n 6 2 == 0) (.amoswap (fld n 29 3) (fld n 18 5) (fld n 13 5) (fld n 8 5) (fld n 5 1))
  | 9 => fixedIf 59 9 (bitsAt n 6 2 == 0) (.amocas (fld n 29 3) (fld n 18 5) (fld n 13 5) (fld n 8 5) (fld n 5 1))
  | 10 => fixedIf 59 10 (bitsAt n 6 2 == 0) (.amofadd (fld n 29 3) (fld n 18 5) (fld n 13 5) (fld n 8 5) (fld n 5 1))
  | 11 => fixedIf 59 11 (bitsAt n 6 7 == 0) (.rsv (fld n 29 3) (fld n 18 5) (fld n 13 5) (fld n 5 1))
  | 12 => fixedIf 59 12 (bitsAt n 6 2 == 0 && bitsAt n 18 5 == 0) (.rls (fld n 29 3) (fld n 13 5) (fld n 8 5) (fld n 5 1))
  | 13 => fixedIf 59 13 (bitsAt n 8 5 == 0) (.ldaq (fld n 29 3) (fld n 18 5) (fld n 13 5) (fld n 6 2) (fld n 5 1))
  | 14 => fixedIf 59 14 (bitsAt n 18 5 == 0) (.strl (fld n 29 3) (fld n 13 5) (fld n 8 5) (fld n 6 2) (fld n 5 1))
  | f => .error (.function 59 f)

/-- Major 0x3C: the operation is bits [4:0]. -/
noncomputable def decodeRed (n : Nat) : Except DecodeError Instr :=
  match bitsAt n 0 5 with
  | 0 => fixedIf 60 0 (bitsAt n 6 2 == 0 && bitsAt n 18 5 == 0) (.redadd (fld n 29 3) (fld n 13 5) (fld n 8 5) (fld n 5 1))
  | 1 => fixedIf 60 1 (bitsAt n 6 2 == 0 && bitsAt n 18 5 == 0) (.redand (fld n 29 3) (fld n 13 5) (fld n 8 5) (fld n 5 1))
  | 2 => fixedIf 60 2 (bitsAt n 6 2 == 0 && bitsAt n 18 5 == 0) (.redor (fld n 29 3) (fld n 13 5) (fld n 8 5) (fld n 5 1))
  | 3 => fixedIf 60 3 (bitsAt n 6 2 == 0 && bitsAt n 18 5 == 0) (.redxor (fld n 29 3) (fld n 13 5) (fld n 8 5) (fld n 5 1))
  | 4 => fixedIf 60 4 (bitsAt n 6 2 == 0 && bitsAt n 18 5 == 0) (.redmin (fld n 29 3) (fld n 13 5) (fld n 8 5) (fld n 5 1))
  | 5 => fixedIf 60 5 (bitsAt n 6 2 == 0 && bitsAt n 18 5 == 0) (.redmax (fld n 29 3) (fld n 13 5) (fld n 8 5) (fld n 5 1))
  | 6 => fixedIf 60 6 (bitsAt n 6 2 == 0 && bitsAt n 18 5 == 0) (.redminu (fld n 29 3) (fld n 13 5) (fld n 8 5) (fld n 5 1))
  | 7 => fixedIf 60 7 (bitsAt n 6 2 == 0 && bitsAt n 18 5 == 0) (.redmaxu (fld n 29 3) (fld n 13 5) (fld n 8 5) (fld n 5 1))
  | 8 => fixedIf 60 8 (bitsAt n 6 2 == 0 && bitsAt n 18 5 == 0) (.redfadd (fld n 29 3) (fld n 13 5) (fld n 8 5) (fld n 5 1))
  | f => .error (.function 60 f)

/-- Major 0x3D: the operation is bits [7:0]. -/
noncomputable def decodeFence (n : Nat) : Except DecodeError Instr :=
  match bitsAt n 0 8 with
  | 0 => fixedIf 61 0 (bitsAt n 8 5 == 0 && bitsAt n 18 5 == 0) (.fence (fld n 29 3) (fld n 13 5))
  | 1 => fixedIf 61 1 (bitsAt n 18 5 == 0) (.fencex (fld n 29 3) (fld n 13 5) (fld n 8 5))
  | 2 => fixedIf 61 2 (bitsAt n 8 15 == 0) (.ifence (fld n 29 3))
  | 3 => fixedIf 61 3 (bitsAt n 8 15 == 0) (.qfence (fld n 29 3))
  | 4 => fixedIf 61 4 (bitsAt n 8 15 == 0) (.drain (fld n 29 3))
  | 5 => fixedIf 61 5 (bitsAt n 8 10 == 0) (.acks (fld n 29 3) (fld n 18 5))
  | f => .error (.function 61 f)

/-- Major 0x3E: the operation is bits [7:0]. -/
noncomputable def decodeBar (n : Nat) : Except DecodeError Instr :=
  match bitsAt n 0 8 with
  | 0 => fixedIf 62 0 (bitsAt n 8 5 == 0) (.binit (fld n 29 3) (fld n 18 5) (fld n 13 5))
  | 1 => fixedIf 62 1 (bitsAt n 8 5 == 0) (.barrive (fld n 29 3) (fld n 18 5) (fld n 13 5))
  | 2 => fixedIf 62 2 (bitsAt n 8 5 == 0) (.bexpect (fld n 29 3) (fld n 18 5) (fld n 13 5))
  | 3 => fixedIf 62 3 (bitsAt n 8 5 == 0) (.bwait (fld n 29 3) (fld n 18 5) (fld n 13 5))
  | 4 => .ok (.btest (fld n 29 3) (fld n 18 5) (fld n 13 5) (fld n 8 5))
  | 5 => fixedIf 62 5 (bitsAt n 8 10 == 0) (.binv (fld n 29 3) (fld n 18 5))
  | 6 => fixedIf 62 6 (bitsAt n 8 5 == 0) (.lantern (fld n 29 3) (fld n 18 5) (fld n 13 5))
  | 7 => fixedIf 62 7 (bitsAt n 8 5 == 0) (.phase (fld n 29 3) (fld n 18 5) (fld n 13 5))
  | f => .error (.function 62 f)

/-- Decode word `n` by its major opcode, bits [28:23]. -/
noncomputable def decodeWord (n : Nat) : Except DecodeError Instr :=
  match bitsAt n 23 6 with
  | 1 => decodeAlu n
  | 2 => decodeMulBit n
  | 3 => .ok (.addi (fld n 29 3) (fld n 18 5) (fld n 13 5) (fld n 0 13))
  | 4 => .ok (.andi (fld n 29 3) (fld n 18 5) (fld n 13 5) (fld n 0 13))
  | 5 => .ok (.ori (fld n 29 3) (fld n 18 5) (fld n 13 5) (fld n 0 13))
  | 6 => .ok (.xori (fld n 29 3) (fld n 18 5) (fld n 13 5) (fld n 0 13))
  | 7 => .ok (.slti (fld n 29 3) (fld n 18 5) (fld n 13 5) (fld n 0 13))
  | 8 => .ok (.sltiu (fld n 29 3) (fld n 18 5) (fld n 13 5) (fld n 0 13))
  | 9 => decodeShi n
  | 10 => .ok (.himm (fld n 29 3) (fld n 18 5) (fld n 0 18))
  | 11 => .ok (.pchi (fld n 29 3) (fld n 18 5) (fld n 0 18))
  | 12 => decodeFpu n
  | 13 => decodeFma n
  | 14 => decodeCpy n
  | 15 => decodeRing n
  | 16 => .ok (.ld (fld n 29 3) (fld n 18 5) (fld n 13 5) (fld n 0 13))
  | 17 => .ok (.lw (fld n 29 3) (fld n 18 5) (fld n 13 5) (fld n 0 13))
  | 18 => .ok (.lwu (fld n 29 3) (fld n 18 5) (fld n 13 5) (fld n 0 13))
  | 19 => .ok (.lh (fld n 29 3) (fld n 18 5) (fld n 13 5) (fld n 0 13))
  | 20 => .ok (.lhu (fld n 29 3) (fld n 18 5) (fld n 13 5) (fld n 0 13))
  | 21 => .ok (.lb (fld n 29 3) (fld n 18 5) (fld n 13 5) (fld n 0 13))
  | 22 => .ok (.lbu (fld n 29 3) (fld n 18 5) (fld n 13 5) (fld n 0 13))
  | 23 => .ok (.lfe (fld n 29 3) (fld n 18 5) (fld n 13 5) (fld n 12 1) (fld n 10 2) (fld n 0 10))
  | 24 => .ok (.sd (fld n 29 3) (fld n 18 5) (fld n 13 5) (fld n 0 13))
  | 25 => .ok (.sw (fld n 29 3) (fld n 18 5) (fld n 13 5) (fld n 0 13))
  | 26 => .ok (.sh (fld n 29 3) (fld n 18 5) (fld n 13 5) (fld n 0 13))
  | 27 => .ok (.sb (fld n 29 3) (fld n 18 5) (fld n 13 5) (fld n 0 13))
  | 28 => .ok (.sfe (fld n 29 3) (fld n 18 5) (fld n 13 5) (fld n 12 1) (fld n 10 2) (fld n 0 10))
  | 29 => decodeQue n
  | 30 => decodeSys n
  | 31 => decodeCsr n
  | 32 => .ok (.beq (fld n 29 3) (fld n 18 5) (fld n 13 5) (fld n 0 13))
  | 33 => .ok (.bne (fld n 29 3) (fld n 18 5) (fld n 13 5) (fld n 0 13))
  | 34 => .ok (.blt (fld n 29 3) (fld n 18 5) (fld n 13 5) (fld n 0 13))
  | 35 => .ok (.bge (fld n 29 3) (fld n 18 5) (fld n 13 5) (fld n 0 13))
  | 36 => .ok (.bltu (fld n 29 3) (fld n 18 5) (fld n 13 5) (fld n 0 13))
  | 37 => .ok (.bgeu (fld n 29 3) (fld n 18 5) (fld n 13 5) (fld n 0 13))
  | 38 => .ok (.jal (fld n 29 3) (fld n 0 23))
  | 39 => .ok (.jalr (fld n 29 3) (fld n 18 5) (fld n 13 5) (fld n 0 13))
  | 40 => decodePbr n
  | 41 => decodePred n
  | 42 => decodeTask n
  | 43 => decodeInfo n
  | 48 => decodeVarith n
  | 49 => fixedIf 49 0 (bitsAt n 8 5 == 0) (.vconv (fld n 29 3) (fld n 18 5) (fld n 13 5) (fld n 4 4) (fld n 0 4))
  | 50 => decodeVred n
  | 51 => decodeVperm n
  | 52 => decodeVsfu n
  | 53 => decodeVseq n
  | 54 => decodeVmem n
  | 55 => decodeVmx n
  | 56 => decodeCoach n
  | 57 => decodeCha n
  | 58 => decodeChx n
  | 59 => decodeAtom n
  | 60 => decodeRed n
  | 61 => decodeFence n
  | 62 => decodeBar n
  | m => .error (.major m)

/-- The word of four bytes, little-endian (R48). -/
def wordOfBytes (b0 b1 b2 b3 : Byte) : Nat :=
  b0.toNat + 2 ^ 8 * b1.toNat + 2 ^ 16 * b2.toNat + 2 ^ 24 * b3.toNat

/-- Decode the first instruction of a list of bytes and give the rest of the list. -/
noncomputable def decode : List Byte → Except DecodeError (Instr × List Byte)
  | b0 :: b1 :: b2 :: b3 :: rest => (decodeWord (wordOfBytes b0 b1 b2 b3)).map (fun i => (i, rest))
  | _ => .error .short

/-- The four bytes of a word, little-endian. -/
def bytesOfWord (n : Nat) : List Byte :=
  [BitVec.ofNat 8 n, BitVec.ofNat 8 (n / 2 ^ 8), BitVec.ofNat 8 (n / 2 ^ 16), BitVec.ofNat 8 (n / 2 ^ 24)]

/-- The instruction that the decoder reads from a word numbered as the opcode table numbers it. -/
noncomputable def decodeTableWord (_nbits w : Nat) : Option Instr :=
  match decode (bytesOfWord w) with
  | .ok (i, _) => some i
  | .error _ => none

/-- Place field `v` at bit `lo` of a word. -/
def plc {k : Nat} (lo : Nat) (v : BitVec k) (acc : Nat) : Nat := 2 ^ lo * v.toNat + acc

/-- The word of an instruction; an event has none. -/
def encode : Instr → Option Nat
  | .add w d a b => some ((plc 29 w (plc 18 d (plc 13 a (plc 8 b 0x800000)))))
  | .sub w d a b => some ((plc 29 w (plc 18 d (plc 13 a (plc 8 b 0x800001)))))
  | .and w d a b => some ((plc 29 w (plc 18 d (plc 13 a (plc 8 b 0x800002)))))
  | .or w d a b => some ((plc 29 w (plc 18 d (plc 13 a (plc 8 b 0x800003)))))
  | .xor w d a b => some ((plc 29 w (plc 18 d (plc 13 a (plc 8 b 0x800004)))))
  | .andn w d a b => some ((plc 29 w (plc 18 d (plc 13 a (plc 8 b 0x800005)))))
  | .orn w d a b => some ((plc 29 w (plc 18 d (plc 13 a (plc 8 b 0x800006)))))
  | .xnor w d a b => some ((plc 29 w (plc 18 d (plc 13 a (plc 8 b 0x800007)))))
  | .sll w d a b => some ((plc 29 w (plc 18 d (plc 13 a (plc 8 b 0x800008)))))
  | .srl w d a b => some ((plc 29 w (plc 18 d (plc 13 a (plc 8 b 0x800009)))))
  | .sra w d a b => some ((plc 29 w (plc 18 d (plc 13 a (plc 8 b 0x80000A)))))
  | .rol w d a b => some ((plc 29 w (plc 18 d (plc 13 a (plc 8 b 0x80000B)))))
  | .ror w d a b => some ((plc 29 w (plc 18 d (plc 13 a (plc 8 b 0x80000C)))))
  | .slt w d a b => some ((plc 29 w (plc 18 d (plc 13 a (plc 8 b 0x80000D)))))
  | .sltu w d a b => some ((plc 29 w (plc 18 d (plc 13 a (plc 8 b 0x80000E)))))
  | .min w d a b => some ((plc 29 w (plc 18 d (plc 13 a (plc 8 b 0x80000F)))))
  | .max w d a b => some ((plc 29 w (plc 18 d (plc 13 a (plc 8 b 0x800010)))))
  | .minu w d a b => some ((plc 29 w (plc 18 d (plc 13 a (plc 8 b 0x800011)))))
  | .maxu w d a b => some ((plc 29 w (plc 18 d (plc 13 a (plc 8 b 0x800012)))))
  | .seq w d a b => some ((plc 29 w (plc 18 d (plc 13 a (plc 8 b 0x800013)))))
  | .sne w d a b => some ((plc 29 w (plc 18 d (plc 13 a (plc 8 b 0x800014)))))
  | .addw w d a b => some ((plc 29 w (plc 18 d (plc 13 a (plc 8 b 0x800015)))))
  | .subw w d a b => some ((plc 29 w (plc 18 d (plc 13 a (plc 8 b 0x800016)))))
  | .sllw w d a b => some ((plc 29 w (plc 18 d (plc 13 a (plc 8 b 0x800017)))))
  | .srlw w d a b => some ((plc 29 w (plc 18 d (plc 13 a (plc 8 b 0x800018)))))
  | .sraw w d a b => some ((plc 29 w (plc 18 d (plc 13 a (plc 8 b 0x800019)))))
  | .clz w d a => some ((plc 29 w (plc 18 d (plc 13 a 0x80001A))))
  | .ctz w d a => some ((plc 29 w (plc 18 d (plc 13 a 0x80001B))))
  | .popc w d a => some ((plc 29 w (plc 18 d (plc 13 a 0x80001C))))
  | .brev w d a => some ((plc 29 w (plc 18 d (plc 13 a 0x80001D))))
  | .bswap w d a => some ((plc 29 w (plc 18 d (plc 13 a 0x80001E))))
  | .sext w d a b => some ((plc 29 w (plc 18 d (plc 13 a (plc 8 b 0x80001F)))))
  | .mul w d a b => some ((plc 29 w (plc 18 d (plc 13 a (plc 8 b 0x1000000)))))
  | .mulh w d a b => some ((plc 29 w (plc 18 d (plc 13 a (plc 8 b 0x1000001)))))
  | .mulhu w d a b => some ((plc 29 w (plc 18 d (plc 13 a (plc 8 b 0x1000002)))))
  | .mulw w d a b => some ((plc 29 w (plc 18 d (plc 13 a (plc 8 b 0x1000003)))))
  | .div w d a b => some ((plc 29 w (plc 18 d (plc 13 a (plc 8 b 0x1000004)))))
  | .divu w d a b => some ((plc 29 w (plc 18 d (plc 13 a (plc 8 b 0x1000005)))))
  | .rem w d a b => some ((plc 29 w (plc 18 d (plc 13 a (plc 8 b 0x1000006)))))
  | .remu w d a b => some ((plc 29 w (plc 18 d (plc 13 a (plc 8 b 0x1000007)))))
  | .bilv2 w d a b => some ((plc 29 w (plc 18 d (plc 13 a (plc 8 b 0x1000008)))))
  | .bilv3 w d a b => some ((plc 29 w (plc 18 d (plc 13 a (plc 8 b 0x1000009)))))
  | .bdil3 w d a b => some ((plc 29 w (plc 18 d (plc 13 a (plc 8 b 0x100000A)))))
  | .extu w d a b => some ((plc 29 w (plc 18 d (plc 13 a (plc 8 b 0x100000B)))))
  | .exts w d a b => some ((plc 29 w (plc 18 d (plc 13 a (plc 8 b 0x100000C)))))
  | .ins w d a b => some ((plc 29 w (plc 18 d (plc 13 a (plc 8 b 0x100000D)))))
  | .addi w d a i => some ((plc 29 w (plc 18 d (plc 13 a (plc 0 i 0x1800000)))))
  | .andi w d a i => some ((plc 29 w (plc 18 d (plc 13 a (plc 0 i 0x2000000)))))
  | .ori w d a i => some ((plc 29 w (plc 18 d (plc 13 a (plc 0 i 0x2800000)))))
  | .xori w d a i => some ((plc 29 w (plc 18 d (plc 13 a (plc 0 i 0x3000000)))))
  | .slti w d a i => some ((plc 29 w (plc 18 d (plc 13 a (plc 0 i 0x3800000)))))
  | .sltiu w d a i => some ((plc 29 w (plc 18 d (plc 13 a (plc 0 i 0x4000000)))))
  | .slli w d a h => some ((plc 29 w (plc 18 d (plc 13 a (plc 0 h 0x4800000)))))
  | .srli w d a h => some ((plc 29 w (plc 18 d (plc 13 a (plc 0 h 0x4800800)))))
  | .srai w d a h => some ((plc 29 w (plc 18 d (plc 13 a (plc 0 h 0x4801000)))))
  | .rori w d a h => some ((plc 29 w (plc 18 d (plc 13 a (plc 0 h 0x4801800)))))
  | .himm w d i => some ((plc 29 w (plc 18 d (plc 0 i 0x5000000))))
  | .pchi w d i => some ((plc 29 w (plc 18 d (plc 0 i 0x5800000))))
  | .fadd w d a b t => some ((plc 29 w (plc 18 d (plc 13 a (plc 8 b (plc 6 t 0x6000000))))))
  | .fsub w d a b t => some ((plc 29 w (plc 18 d (plc 13 a (plc 8 b (plc 6 t 0x6000001))))))
  | .fmul w d a b t => some ((plc 29 w (plc 18 d (plc 13 a (plc 8 b (plc 6 t 0x6000002))))))
  | .fdiv w d a b t => some ((plc 29 w (plc 18 d (plc 13 a (plc 8 b (plc 6 t 0x6000003))))))
  | .fsqrt w d a t => some ((plc 29 w (plc 18 d (plc 13 a (plc 6 t 0x6000004)))))
  | .fmin w d a b t => some ((plc 29 w (plc 18 d (plc 13 a (plc 8 b (plc 6 t 0x6000005))))))
  | .fmax w d a b t => some ((plc 29 w (plc 18 d (plc 13 a (plc 8 b (plc 6 t 0x6000006))))))
  | .feq w d a b t => some ((plc 29 w (plc 18 d (plc 13 a (plc 8 b (plc 6 t 0x6000007))))))
  | .flt w d a b t => some ((plc 29 w (plc 18 d (plc 13 a (plc 8 b (plc 6 t 0x6000008))))))
  | .fle w d a b t => some ((plc 29 w (plc 18 d (plc 13 a (plc 8 b (plc 6 t 0x6000009))))))
  | .fclass w d a t => some ((plc 29 w (plc 18 d (plc 13 a (plc 6 t 0x600000A)))))
  | .fcvti w d a t => some ((plc 29 w (plc 18 d (plc 13 a (plc 6 t 0x600000B)))))
  | .fcvtu w d a t => some ((plc 29 w (plc 18 d (plc 13 a (plc 6 t 0x600000C)))))
  | .fcvtf w d a t => some ((plc 29 w (plc 18 d (plc 13 a (plc 6 t 0x600000D)))))
  | .fcvtfu w d a t => some ((plc 29 w (plc 18 d (plc 13 a (plc 6 t 0x600000E)))))
  | .fcvtw w d a t => some ((plc 29 w (plc 18 d (plc 13 a (plc 6 t 0x600000F)))))
  | .fneg w d a t => some ((plc 29 w (plc 18 d (plc 13 a (plc 6 t 0x6000010)))))
  | .fabs w d a t => some ((plc 29 w (plc 18 d (plc 13 a (plc 6 t 0x6000011)))))
  | .fmas w d a b => some ((plc 29 w (plc 18 d (plc 13 a (plc 8 b 0x6800000)))))
  | .fmad w d a b => some ((plc 29 w (plc 18 d (plc 13 a (plc 8 b 0x6800001)))))
  | .fnmas w d a b => some ((plc 29 w (plc 18 d (plc 13 a (plc 8 b 0x6800002)))))
  | .fnmad w d a b => some ((plc 29 w (plc 18 d (plc 13 a (plc 8 b 0x6800003)))))
  | .fmss w d a b => some ((plc 29 w (plc 18 d (plc 13 a (plc 8 b 0x6800004)))))
  | .fmsd w d a b => some ((plc 29 w (plc 18 d (plc 13 a (plc 8 b 0x6800005)))))
  | .copy w d a b => some ((plc 29 w (plc 18 d (plc 13 a (plc 8 b 0x7000000)))))
  | .copy2d w d a b => some ((plc 29 w (plc 18 d (plc 13 a (plc 8 b 0x7000001)))))
  | .wincopy w d a => some ((plc 29 w (plc 18 d (plc 13 a 0x7000002))))
  | .putx w d a b => some ((plc 29 w (plc 18 d (plc 13 a (plc 8 b 0x7000003)))))
  | .getx w d a b => some ((plc 29 w (plc 18 d (plc 13 a (plc 8 b 0x7000004)))))
  | .mcast w d a b => some ((plc 29 w (plc 18 d (plc 13 a (plc 8 b 0x7000005)))))
  | .nred w d a b => some ((plc 29 w (plc 18 d (plc 13 a (plc 8 b 0x7000006)))))
  | .cwait w a => some ((plc 29 w (plc 13 a 0x7000007)))
  | .rinit w n a => some ((plc 29 w (plc 18 n (plc 13 a 0x7800000))))
  | .rpush w n => some ((plc 29 w (plc 18 n 0x7800001)))
  | .rpop w n => some ((plc 29 w (plc 18 n 0x7800002)))
  | .rstat w n a => some ((plc 29 w (plc 18 n (plc 13 a 0x7800003))))
  | .rwaitd w n a => some ((plc 29 w (plc 18 n (plc 13 a 0x7800004))))
  | .rwaits w n a => some ((plc 29 w (plc 18 n (plc 13 a 0x7800005))))
  | .ld w d a i => some ((plc 29 w (plc 18 d (plc 13 a (plc 0 i 0x8000000)))))
  | .lw w d a i => some ((plc 29 w (plc 18 d (plc 13 a (plc 0 i 0x8800000)))))
  | .lwu w d a i => some ((plc 29 w (plc 18 d (plc 13 a (plc 0 i 0x9000000)))))
  | .lh w d a i => some ((plc 29 w (plc 18 d (plc 13 a (plc 0 i 0x9800000)))))
  | .lhu w d a i => some ((plc 29 w (plc 18 d (plc 13 a (plc 0 i 0xA000000)))))
  | .lb w d a i => some ((plc 29 w (plc 18 d (plc 13 a (plc 0 i 0xA800000)))))
  | .lbu w d a i => some ((plc 29 w (plc 18 d (plc 13 a (plc 0 i 0xB000000)))))
  | .lfe w d a c z o => some ((plc 29 w (plc 18 d (plc 13 a (plc 12 c (plc 10 z (plc 0 o 0xB800000)))))))
  | .sd w rs a i => some ((plc 29 w (plc 18 rs (plc 13 a (plc 0 i 0xC000000)))))
  | .sw w rs a i => some ((plc 29 w (plc 18 rs (plc 13 a (plc 0 i 0xC800000)))))
  | .sh w rs a i => some ((plc 29 w (plc 18 rs (plc 13 a (plc 0 i 0xD000000)))))
  | .sb w rs a i => some ((plc 29 w (plc 18 rs (plc 13 a (plc 0 i 0xD800000)))))
  | .sfe w rs a f z o => some ((plc 29 w (plc 18 rs (plc 13 a (plc 12 f (plc 10 z (plc 0 o 0xE000000)))))))
  | .enq w a b => some ((plc 29 w (plc 13 a (plc 8 b 0xE800000))))
  | .deq w d a b => some ((plc 29 w (plc 18 d (plc 13 a (plc 8 b 0xE800001)))))
  | .qstat w d b => some ((plc 29 w (plc 18 d (plc 8 b 0xE800002))))
  | .launch w a => some ((plc 29 w (plc 13 a 0xE800003)))
  | .cdone w d a b => some ((plc 29 w (plc 18 d (plc 13 a (plc 8 b 0xE800004)))))
  | .cchk w d a => some ((plc 29 w (plc 18 d (plc 13 a 0xE800005))))
  | .cancel w a => some ((plc 29 w (plc 13 a 0xE800006)))
  | .trap w a => some ((plc 29 w (plc 13 a 0xF000000)))
  | .eret w a => some ((plc 29 w (plc 13 a 0xF000001)))
  | .brk w => some ((plc 29 w 0xF000002))
  | .wfm w d => some ((plc 29 w (plc 18 d 0xF000003)))
  | .seal w a => some ((plc 29 w (plc 13 a 0xF000004)))
  | .restart w => some ((plc 29 w 0xF000005))
  | .purseadd w d a b => some ((plc 29 w (plc 18 d (plc 13 a (plc 8 b 0xF000006)))))
  | .csrr w d n => some ((plc 29 w (plc 18 d (plc 0 n 0xF800000))))
  | .csrw w d a n => some ((plc 29 w (plc 18 d (plc 13 a (plc 0 n 0xF800800)))))
  | .csrs w d a n => some ((plc 29 w (plc 18 d (plc 13 a (plc 0 n 0xF801000)))))
  | .csrc w d a n => some ((plc 29 w (plc 18 d (plc 13 a (plc 0 n 0xF801800)))))
  | .beq w a b o => some ((plc 29 w (plc 18 a (plc 13 b (plc 0 o 0x10000000)))))
  | .bne w a b o => some ((plc 29 w (plc 18 a (plc 13 b (plc 0 o 0x10800000)))))
  | .blt w a b o => some ((plc 29 w (plc 18 a (plc 13 b (plc 0 o 0x11000000)))))
  | .bge w a b o => some ((plc 29 w (plc 18 a (plc 13 b (plc 0 o 0x11800000)))))
  | .bltu w a b o => some ((plc 29 w (plc 18 a (plc 13 b (plc 0 o 0x12000000)))))
  | .bgeu w a b o => some ((plc 29 w (plc 18 a (plc 13 b (plc 0 o 0x12800000)))))
  | .jal w o => some ((plc 29 w (plc 0 o 0x13000000)))
  | .jalr w d a i => some ((plc 29 w (plc 18 d (plc 13 a (plc 0 i 0x13800000)))))
  | .pbrAny w o => some ((plc 29 w (plc 0 o 0x14000000)))
  | .pbrNone w o => some ((plc 29 w (plc 0 o 0x14100000)))
  | .pbrAll w o => some ((plc 29 w (plc 0 o 0x14200000)))
  | .pbrNall w o => some ((plc 29 w (plc 0 o 0x14300000)))
  | .pwhile w a b z => some ((plc 29 w (plc 13 a (plc 8 b (plc 0 z 0x14800000)))))
  | .psetall w z => some ((plc 29 w (plc 0 z 0x14800008)))
  | .pclear w z => some ((plc 29 w (plc 0 z 0x14800010)))
  | .pnot w z => some ((plc 29 w (plc 0 z 0x14800018)))
  | .pload w a z => some ((plc 29 w (plc 13 a (plc 0 z 0x14800020))))
  | .pstore w a z => some ((plc 29 w (plc 13 a (plc 0 z 0x14800028))))
  | .pcount w d z => some ((plc 29 w (plc 18 d (plc 0 z 0x14800030))))
  | .pfirst w d z => some ((plc 29 w (plc 18 d (plc 0 z 0x14800038))))
  | .pandm w a z => some ((plc 29 w (plc 13 a (plc 0 z 0x14800040))))
  | .porm w a z => some ((plc 29 w (plc 13 a (plc 0 z 0x14800048))))
  | .pget w d a z => some ((plc 29 w (plc 18 d (plc 13 a (plc 0 z 0x14800050)))))
  | .pput w a b z => some ((plc 29 w (plc 13 a (plc 8 b (plc 0 z 0x14800058)))))
  | .endT w => some ((plc 29 w 0x15000000))
  | .yield w => some ((plc 29 w 0x15000001))
  | .goto w a => some ((plc 29 w (plc 13 a 0x15000002)))
  | .spawn w d a => some ((plc 29 w (plc 18 d (plc 13 a 0x15000003))))
  | .spawnat w a b => some ((plc 29 w (plc 13 a (plc 8 b 0x15000004))))
  | .pusht w d a => some ((plc 29 w (plc 18 d (plc 13 a 0x15000005))))
  | .popt w d a => some ((plc 29 w (plc 18 d (plc 13 a 0x15000006))))
  | .wake w a b => some ((plc 29 w (plc 13 a (plc 8 b 0x15000007))))
  | .park w => some ((plc 29 w 0x15000008))
  | .homeof w d a => some ((plc 29 w (plc 18 d (plc 13 a 0x15800000))))
  | .cubeof w d => some ((plc 29 w (plc 18 d 0x15800001)))
  | .vquery w d => some ((plc 29 w (plc 18 d 0x15800002)))
  | .rdcyc w d => some ((plc 29 w (plc 18 d 0x15800003)))
  | .rdpurse w d => some ((plc 29 w (plc 18 d 0x15800004)))
  | .rdfare w d => some ((plc 29 w (plc 18 d 0x15800005)))
  | .rdfrm w d => some ((plc 29 w (plc 18 d 0x15800006)))
  | .wrfrm w d a => some ((plc 29 w (plc 18 d (plc 13 a 0x15800007))))
  | .rdflags w d b => some ((plc 29 w (plc 18 d (plc 8 b 0x15800008))))
  | .vadd w d a b t => some ((plc 29 w (plc 18 d (plc 13 a (plc 8 b (plc 0 t 0x18000000))))))
  | .vsub w d a b t => some ((plc 29 w (plc 18 d (plc 13 a (plc 8 b (plc 0 t 0x18000008))))))
  | .vmul w d a b t => some ((plc 29 w (plc 18 d (plc 13 a (plc 8 b (plc 0 t 0x18000010))))))
  | .vmin w d a b t => some ((plc 29 w (plc 18 d (plc 13 a (plc 8 b (plc 0 t 0x18000018))))))
  | .vmax w d a b t => some ((plc 29 w (plc 18 d (plc 13 a (plc 8 b (plc 0 t 0x18000020))))))
  | .vminu w d a b t => some ((plc 29 w (plc 18 d (plc 13 a (plc 8 b (plc 0 t 0x18000028))))))
  | .vmaxu w d a b t => some ((plc 29 w (plc 18 d (plc 13 a (plc 8 b (plc 0 t 0x18000030))))))
  | .vand w d a b t => some ((plc 29 w (plc 18 d (plc 13 a (plc 8 b (plc 0 t 0x18000038))))))
  | .vor w d a b t => some ((plc 29 w (plc 18 d (plc 13 a (plc 8 b (plc 0 t 0x18000040))))))
  | .vxor w d a b t => some ((plc 29 w (plc 18 d (plc 13 a (plc 8 b (plc 0 t 0x18000048))))))
  | .vsll w d a b t => some ((plc 29 w (plc 18 d (plc 13 a (plc 8 b (plc 0 t 0x18000050))))))
  | .vsrl w d a b t => some ((plc 29 w (plc 18 d (plc 13 a (plc 8 b (plc 0 t 0x18000058))))))
  | .vsra w d a b t => some ((plc 29 w (plc 18 d (plc 13 a (plc 8 b (plc 0 t 0x18000060))))))
  | .vadds w d a b t => some ((plc 29 w (plc 18 d (plc 13 a (plc 8 b (plc 0 t 0x18000068))))))
  | .vsubs w d a b t => some ((plc 29 w (plc 18 d (plc 13 a (plc 8 b (plc 0 t 0x18000070))))))
  | .vmulh w d a b t => some ((plc 29 w (plc 18 d (plc 13 a (plc 8 b (plc 0 t 0x18000078))))))
  | .vabsd w d a b t => some ((plc 29 w (plc 18 d (plc 13 a (plc 8 b (plc 0 t 0x18000080))))))
  | .vfma w d a b t => some ((plc 29 w (plc 18 d (plc 13 a (plc 8 b (plc 0 t 0x18000088))))))
  | .vfms w d a b t => some ((plc 29 w (plc 18 d (plc 13 a (plc 8 b (plc 0 t 0x18000090))))))
  | .vdiv w d a b t => some ((plc 29 w (plc 18 d (plc 13 a (plc 8 b (plc 0 t 0x18000098))))))
  | .vsqrt w d a t => some ((plc 29 w (plc 18 d (plc 13 a (plc 0 t 0x180000A0)))))
  | .vneg w d a t => some ((plc 29 w (plc 18 d (plc 13 a (plc 0 t 0x180000A8)))))
  | .vabs w d a t => some ((plc 29 w (plc 18 d (plc 13 a (plc 0 t 0x180000B0)))))
  | .vcmpeq w d a b t => some ((plc 29 w (plc 18 d (plc 13 a (plc 8 b (plc 0 t 0x180000B8))))))
  | .vcmpne w d a b t => some ((plc 29 w (plc 18 d (plc 13 a (plc 8 b (plc 0 t 0x180000C0))))))
  | .vcmplt w d a b t => some ((plc 29 w (plc 18 d (plc 13 a (plc 8 b (plc 0 t 0x180000C8))))))
  | .vcmple w d a b t => some ((plc 29 w (plc 18 d (plc 13 a (plc 8 b (plc 0 t 0x180000D0))))))
  | .vcmpltu w d a b t => some ((plc 29 w (plc 18 d (plc 13 a (plc 8 b (plc 0 t 0x180000D8))))))
  | .vsel w d a b t => some ((plc 29 w (plc 18 d (plc 13 a (plc 8 b (plc 0 t 0x180000E0))))))
  | .vdot w d a b t => some ((plc 29 w (plc 18 d (plc 13 a (plc 8 b (plc 0 t 0x180000E8))))))
  | .vconv w d a e rs => some ((plc 29 w (plc 18 d (plc 13 a (plc 4 e (plc 0 rs 0x18800000))))))
  | .vrsum w d a t => some ((plc 29 w (plc 18 d (plc 13 a (plc 0 t 0x19000000)))))
  | .vrmax w d a t => some ((plc 29 w (plc 18 d (plc 13 a (plc 0 t 0x19000008)))))
  | .vrmin w d a t => some ((plc 29 w (plc 18 d (plc 13 a (plc 0 t 0x19000010)))))
  | .vrmaxi w d a t => some ((plc 29 w (plc 18 d (plc 13 a (plc 0 t 0x19000018)))))
  | .vrmini w d a t => some ((plc 29 w (plc 18 d (plc 13 a (plc 0 t 0x19000020)))))
  | .vrand w d a t => some ((plc 29 w (plc 18 d (plc 13 a (plc 0 t 0x19000028)))))
  | .vror w d a t => some ((plc 29 w (plc 18 d (plc 13 a (plc 0 t 0x19000030)))))
  | .vrxor w d a t => some ((plc 29 w (plc 18 d (plc 13 a (plc 0 t 0x19000038)))))
  | .vbcast w d a t => some ((plc 29 w (plc 18 d (plc 13 a (plc 0 t 0x19800000)))))
  | .vshuf w d a b t => some ((plc 29 w (plc 18 d (plc 13 a (plc 8 b (plc 0 t 0x19800008))))))
  | .vslup w d a b t => some ((plc 29 w (plc 18 d (plc 13 a (plc 8 b (plc 0 t 0x19800010))))))
  | .vsldn w d a b t => some ((plc 29 w (plc 18 d (plc 13 a (plc 8 b (plc 0 t 0x19800018))))))
  | .vzip w d a b t => some ((plc 29 w (plc 18 d (plc 13 a (plc 8 b (plc 0 t 0x19800020))))))
  | .vuzp w d a b t => some ((plc 29 w (plc 18 d (plc 13 a (plc 8 b (plc 0 t 0x19800028))))))
  | .vcmpr w d a t => some ((plc 29 w (plc 18 d (plc 13 a (plc 0 t 0x19800030)))))
  | .vexpd w d a t => some ((plc 29 w (plc 18 d (plc 13 a (plc 0 t 0x19800038)))))
  | .vmov w d a t => some ((plc 29 w (plc 18 d (plc 13 a (plc 0 t 0x19800040)))))
  | .viota w d a t => some ((plc 29 w (plc 18 d (plc 13 a (plc 0 t 0x19800048)))))
  | .vexp2 w d a t => some ((plc 29 w (plc 18 d (plc 13 a (plc 0 t 0x1A000000)))))
  | .vlog2 w d a t => some ((plc 29 w (plc 18 d (plc 13 a (plc 0 t 0x1A000008)))))
  | .vrsqrt w d a t => some ((plc 29 w (plc 18 d (plc 13 a (plc 0 t 0x1A000010)))))
  | .vrcp w d a t => some ((plc 29 w (plc 18 d (plc 13 a (plc 0 t 0x1A000018)))))
  | .vsin w d a t => some ((plc 29 w (plc 18 d (plc 13 a (plc 0 t 0x1A000020)))))
  | .vcos w d a t => some ((plc 29 w (plc 18 d (plc 13 a (plc 0 t 0x1A000028)))))
  | .vtanh w d a t => some ((plc 29 w (plc 18 d (plc 13 a (plc 0 t 0x1A000030)))))
  | .vsigm w d a t => some ((plc 29 w (plc 18 d (plc 13 a (plc 0 t 0x1A000038)))))
  | .vloop w l a b => some ((plc 29 w (plc 18 l (plc 13 a (plc 8 b 0x1A800000)))))
  | .vsync w => some ((plc 29 w 0x1A800001))
  | .vgather w d a b t => some ((plc 29 w (plc 18 d (plc 13 a (plc 8 b (plc 0 t 0x1B000000))))))
  | .vscatter w d a b t => some ((plc 29 w (plc 18 d (plc 13 a (plc 8 b (plc 0 t 0x1B000008))))))
  | .vamoadd w d a b t => some ((plc 29 w (plc 18 d (plc 13 a (plc 8 b (plc 0 t 0x1B000010))))))
  | .vamomax w d a b t => some ((plc 29 w (plc 18 d (plc 13 a (plc 8 b (plc 0 t 0x1B000018))))))
  | .vamomin w d a b t => some ((plc 29 w (plc 18 d (plc 13 a (plc 8 b (plc 0 t 0x1B000020))))))
  | .vredadd w d a b t => some ((plc 29 w (plc 18 d (plc 13 a (plc 8 b (plc 0 t 0x1B000028))))))
  | .vmxpack w d a b => some ((plc 29 w (plc 18 d (plc 13 a (plc 8 b 0x1B800000)))))
  | .vmxunpk w d a b => some ((plc 29 w (plc 18 d (plc 13 a (plc 8 b 0x1B800001)))))
  | .vscale w d a b => some ((plc 29 w (plc 18 d (plc 13 a (plc 8 b 0x1B800002)))))
  | .macq w d a => some ((plc 29 w (plc 18 d (plc 13 a 0x1C000000))))
  | .mrel w d => some ((plc 29 w (plc 18 d 0x1C000001)))
  | .mma w d a b => some ((plc 29 w (plc 18 d (plc 13 a (plc 8 b 0x1C000002)))))
  | .mmr w d a b => some ((plc 29 w (plc 18 d (plc 13 a (plc 8 b 0x1C000003)))))
  | .mzero w d => some ((plc 29 w (plc 18 d 0x1C000004)))
  | .mldc w d a b => some ((plc 29 w (plc 18 d (plc 13 a (plc 8 b 0x1C000005)))))
  | .mstc w d a b => some ((plc 29 w (plc 18 d (plc 13 a (plc 8 b 0x1C000006)))))
  | .msync w => some ((plc 29 w 0x1C000007))
  | .maddc w d a b => some ((plc 29 w (plc 18 d (plc 13 a (plc 8 b 0x1C000008)))))
  | .mstat w d a b => some ((plc 29 w (plc 18 d (plc 13 a (plc 8 b 0x1C000009)))))
  | .drd w a b => some ((plc 29 w (plc 13 a (plc 8 b 0x1C800000))))
  | .dwr w a b => some ((plc 29 w (plc 13 a (plc 8 b 0x1C800001))))
  | .dpush w d a b => some ((plc 29 w (plc 18 d (plc 13 a (plc 8 b 0x1C800002)))))
  | .dpull w d a b => some ((plc 29 w (plc 18 d (plc 13 a (plc 8 b 0x1C800003)))))
  | .aqput w a b => some ((plc 29 w (plc 13 a (plc 8 b 0x1C800004))))
  | .xqget w d a => some ((plc 29 w (plc 18 d (plc 13 a 0x1C800005))))
  | .dpref w a b => some ((plc 29 w (plc 13 a (plc 8 b 0x1C800006))))
  | .bsel w a b => some ((plc 29 w (plc 13 a (plc 8 b 0x1C800007))))
  | .aqget w d a => some ((plc 29 w (plc 18 d (plc 13 a 0x1D000000))))
  | .xqput w a b => some ((plc 29 w (plc 13 a (plc 8 b 0x1D000001))))
  | .bmac w d a b => some ((plc 29 w (plc 18 d (plc 13 a (plc 8 b 0x1D000002)))))
  | .bred w d a b => some ((plc 29 w (plc 18 d (plc 13 a (plc 8 b 0x1D000003)))))
  | .bclone w d a b => some ((plc 29 w (plc 18 d (plc 13 a (plc 8 b 0x1D000004)))))
  | .bfill w d a b => some ((plc 29 w (plc 18 d (plc 13 a (plc 8 b 0x1D000005)))))
  | .bsync w => some ((plc 29 w 0x1D000006))
  | .amoadd w d a b z => some ((plc 29 w (plc 18 d (plc 13 a (plc 8 b (plc 5 z 0x1D800000))))))
  | .amoand w d a b z => some ((plc 29 w (plc 18 d (plc 13 a (plc 8 b (plc 5 z 0x1D800001))))))
  | .amoor w d a b z => some ((plc 29 w (plc 18 d (plc 13 a (plc 8 b (plc 5 z 0x1D800002))))))
  | .amoxor w d a b z => some ((plc 29 w (plc 18 d (plc 13 a (plc 8 b (plc 5 z 0x1D800003))))))
  | .amomin w d a b z => some ((plc 29 w (plc 18 d (plc 13 a (plc 8 b (plc 5 z 0x1D800004))))))
  | .amomax w d a b z => some ((plc 29 w (plc 18 d (plc 13 a (plc 8 b (plc 5 z 0x1D800005))))))
  | .amominu w d a b z => some ((plc 29 w (plc 18 d (plc 13 a (plc 8 b (plc 5 z 0x1D800006))))))
  | .amomaxu w d a b z => some ((plc 29 w (plc 18 d (plc 13 a (plc 8 b (plc 5 z 0x1D800007))))))
  | .amoswap w d a b z => some ((plc 29 w (plc 18 d (plc 13 a (plc 8 b (plc 5 z 0x1D800008))))))
  | .amocas w d a b z => some ((plc 29 w (plc 18 d (plc 13 a (plc 8 b (plc 5 z 0x1D800009))))))
  | .amofadd w d a b z => some ((plc 29 w (plc 18 d (plc 13 a (plc 8 b (plc 5 z 0x1D80000A))))))
  | .rsv w d a z => some ((plc 29 w (plc 18 d (plc 13 a (plc 5 z 0x1D80000B)))))
  | .rls w a b z => some ((plc 29 w (plc 13 a (plc 8 b (plc 5 z 0x1D80000C)))))
  | .ldaq w d a p z => some ((plc 29 w (plc 18 d (plc 13 a (plc 6 p (plc 5 z 0x1D80000D))))))
  | .strl w a b p z => some ((plc 29 w (plc 13 a (plc 8 b (plc 6 p (plc 5 z 0x1D80000E))))))
  | .redadd w a b z => some ((plc 29 w (plc 13 a (plc 8 b (plc 5 z 0x1E000000)))))
  | .redand w a b z => some ((plc 29 w (plc 13 a (plc 8 b (plc 5 z 0x1E000001)))))
  | .redor w a b z => some ((plc 29 w (plc 13 a (plc 8 b (plc 5 z 0x1E000002)))))
  | .redxor w a b z => some ((plc 29 w (plc 13 a (plc 8 b (plc 5 z 0x1E000003)))))
  | .redmin w a b z => some ((plc 29 w (plc 13 a (plc 8 b (plc 5 z 0x1E000004)))))
  | .redmax w a b z => some ((plc 29 w (plc 13 a (plc 8 b (plc 5 z 0x1E000005)))))
  | .redminu w a b z => some ((plc 29 w (plc 13 a (plc 8 b (plc 5 z 0x1E000006)))))
  | .redmaxu w a b z => some ((plc 29 w (plc 13 a (plc 8 b (plc 5 z 0x1E000007)))))
  | .redfadd w a b z => some ((plc 29 w (plc 13 a (plc 8 b (plc 5 z 0x1E000008)))))
  | .fence w c => some ((plc 29 w (plc 13 c 0x1E800000)))
  | .fencex w x y => some ((plc 29 w (plc 13 x (plc 8 y 0x1E800001))))
  | .ifence w => some ((plc 29 w 0x1E800002))
  | .qfence w => some ((plc 29 w 0x1E800003))
  | .drain w => some ((plc 29 w 0x1E800004))
  | .acks w d => some ((plc 29 w (plc 18 d 0x1E800005)))
  | .binit w n a => some ((plc 29 w (plc 18 n (plc 13 a 0x1F000000))))
  | .barrive w n a => some ((plc 29 w (plc 18 n (plc 13 a 0x1F000001))))
  | .bexpect w n a => some ((plc 29 w (plc 18 n (plc 13 a 0x1F000002))))
  | .bwait w n a => some ((plc 29 w (plc 18 n (plc 13 a 0x1F000003))))
  | .btest w n a b => some ((plc 29 w (plc 18 n (plc 13 a (plc 8 b 0x1F000004)))))
  | .binv w n => some ((plc 29 w (plc 18 n 0x1F000005)))
  | .lantern w d a => some ((plc 29 w (plc 18 d (plc 13 a 0x1F000006))))
  | .phase w d a => some ((plc 29 w (plc 18 d (plc 13 a 0x1F000007))))
  | .waystationPowerOn => none
  | .imageVerificationComplete => none
  | .bootTimeout => none
  | .waystationReset => none
  | .memoryRailGood => none
  | .memoryZeroingComplete => none
  | .selfRefreshRequest => none
  | .selfRefreshEntry => none
  | .selfRefreshExit => none
  | .memoryReset => none
  | .computeRailGood => none
  | .computeResetRelease => none
  | .bringupComplete => none
  | .quiesceRequest => none
  | .quiesceResume => none
  | .computeReset => none
  | .computeRailOff => none
  | .channelCacheWritebackComplete => none
  | .dispatcherHeartbeat => none
  | .domainWatchdogExpiry => none
  | .travellerSwitchIn _ _ => none
  | .dequeTaskStart _ => none
  | .parkWaitComplete _ _ => none
  | .storeBufferDrain _ _ => none
  | .travellerArrival _ => none
  | .heldArrivalAdmit _ => none
  | .migrationAck _ _ => none
  | .migrationBounce _ => none
  | .taskPacketArrival _ => none
  | .wakeDelivery _ => none
  | .stealRequestSend _ => none
  | .stealRequestServe _ => none
  | .stealReply _ => none
  | .stealBackoffExpiry _ => none
  | .preemptionTaken _ => none
  | .travellerSpill _ _ => none
  | .spillAreaAdmit _ => none
  | .strandNotice _ => none
  | .cancelTaken _ _ => none
  | .engineFaultDelivery _ _ => none
  | .machineCheck _ _ _ _ => none
  | .sealComplete _ => none
  | .debugHaltTaken _ _ => none
  | .addressMatchHalt _ _ => none
  | .submissionEntryFetch _ => none
  | .launchPlacement _ => none
  | .quadGate _ => none
  | .quadWakeComplete _ => none
  | .selfTestDrainStart => none
  | .selfTestStart => none
  | .selfTestDefer => none
  | .selfTestComplete _ => none
  | .coreScrub _ => none
  | .coreMoveComplete _ => none
  | .groupWatchdogExpiry _ _ => none
  | .heldPostWrite _ _ => none
  | .enqueueCopyAccept _ => none
  | .doorbellSetTail _ _ _ => none
  | .doorbellSetHead _ _ _ => none
  | .functionLevelReset _ _ => none
  | .portHotReset _ => none
  | .sequencerEmit _ => none
  | .vectorCommandStart _ => none
  | .vectorCommandComplete _ => none
  | .matrixGrant _ => none
  | .matrixCommandComplete _ => none
  | .rotationWriteApply _ => none
  | .courierCommandStart _ => none
  | .courierCommandComplete _ _ => none
  | .courierFault _ _ => none
  | .engineWriteArrival _ => none
  | .streamRecordStart _ => none
  | .streamRecordComplete _ _ => none
  | .streamRecordFault _ _ => none
  | .bselApply _ => none
  | .bankCommandComplete _ _ => none
  | .rowSpareComplete _ _ _ => none
  | .scrubPass _ => none
  | .xTravellerGo _ _ _ => none
  | .xTravellerStop _ _ => none
  | .xTravellerStopComplete _ => none
  | .lmBoundaryStage _ _ _ _ => none
  | .lmdtbCommit _ _ _ => none
  | .imageLoad _ _ _ => none
  | .reservationGrant _ => none
  | .reservationReleaseApply _ => none
  | .redApply _ _ => none
  | .barrierEventApply _ => none
  | .remoteBarrierEvent _ => none
  | .walkComplete _ => none
  | .ptrootWrite _ _ _ => none
  | .xlinvGo _ _ => none
  | .xlinvComplete => none
  | .mapChangeIssue _ _ => none
  | .mapChangeSequence _ => none
  | .mapChangeApply _ => none
  | .restripeGranuleCopy _ => none
  | .restripeCopyAck _ => none
  | .cubeLossTimer _ => none
  | .meterFlushTimer _ => none
  | .leakageTick => none
  | .refreshRow _ => none
  | .kcorrUpdate _ => none
  | .purseAddWrite _ _ _ => none
  | .partcfgWrite _ _ _ => none
  | .carveGo _ _ => none
  | .carveStop _ _ => none
  | .owndatWrite _ _ => none
  | .halldatRead _ => none
  | .halldatWrite _ _ => none
  | .hccfgWrite _ _ _ => none
  | .respgWrite _ _ _ _ => none
  | .lanternSlotWrite _ _ _ _ => none
  | .planEnable _ _ => none
  | .dbgHaltTraveller => none
  | .dbgResumeTraveller => none
  | .dbgHaltLaunch => none
  | .dbgResumeLaunch => none
  | .linkRetrain _ => none
  | .linkTrainComplete _ _ => none
  | .linkTrainTimeout _ => none
  | .laneFailure _ _ => none
  | .linkSilenceTimeout _ => none
  | .linkReplay _ => none
  | .routeUpdate _ _ => none
  | .heartbeatSend => none
  | .packetTransit _ => none
  | .packetReceive _ => none
  | .connectionFetchComplete _ => none
  | .e2eRetryTimeout _ => none
  | .nakRetryResend _ => none
  | .nakAbsentReceive _ => none
  | .acknowledgementReceive _ => none
  | .messageCountExpiry _ => none
  | .arrivalFilterExpiry _ => none
  | .bounceResend _ => none
  | .reduceContributionArrival _ => none
  | .multicastReceive _ => none
  | .planAbort _ => none
  | .escortCompare _ => none
  | .escortTimeout _ => none
  | .lanternRoundStart _ => none
  | .lanternProbeArrival _ => none
  | .lanternProbeRelease _ => none
  | .lanternProbeReturn _ => none
  | .lanternTimeout _ => none
  | .lanternDoneMessage _ => none
  | .trapMessageArrival _ => none
  | .trapMessageSpillReturn _ => none
  | .managementRead _ => none
  | .managementWrite _ => none
  | .managementReply _ => none
  | .claim _ => none
  | .handover _ => none
  | .unlock _ => none
  | .rekey _ => none
  | .switch _ => none
  | .fwchunk _ => none
  | .attestRead _ => none
  | .alarm _ => none
  | .thermalReading _ _ => none
  | .thermalShutdownTimer => none
  | .registerWrite _ _ _ _ => none
  | .waystationRailOff => none
  | .spilledTravellerPlacement _ => none
  | .planDisable _ _ => none
  | .owndatApplyComplete => none
  | .pstructRead _ => none

end Sys2Proof
end

