-- ==== Sys2Proof/Machine/State.lean ====
section
/-! DEFINITION. The state of one cube as plain data, the faults, the refusals and the state after reset. -/

namespace Sys2Proof.Machine

/-! ## Domains (R20) -/

inductive WsState where | off | boot | forward | serve | full
deriving DecidableEq, Repr
inductive MemState where | off | selfRefresh | on
deriving DecidableEq, Repr
inductive CompState where | off | reset | bringup | run | quiesce | hung
deriving DecidableEq, Repr

/-! ## Traps (R376, R378) -/

/-- The causes of R376. -/
inductive Cause where
  | illegal | priv | stallshort | align | xlate | perm | poison | sealed | accheld | nomigrate | ring
  | barrier | engine | brk | swtrap | watchdog | neterr | cancel | escort | bounds | mcheck
deriving DecidableEq, Repr

/-- A cause with its subcause and the value TADDR holds. -/
structure TrapInfo where
  cause : Cause
  sub : Nat := 0
  addr : Word := 0
deriving DecidableEq, Repr

/-- A task as the deque entry or the task packet captures it (R83, R84). -/
structure Task where
  entry : Word
  args : List Word
  cix : Nat
  urg : Bool
  lc : Nat
  ex0 : Nat
  ex1 : Nat
  ex2 : Nat
  ecx : Nat
  frm : Byte
  esc : Bool
  rst : Bool
  lslot : Nat
  /-- model's own: the cube whose completion table `lslot` indexes -/
  lcube : Nat := 0
  part : Nat
  key : Word
  /-- core and cube of the spawner, and the address SPAWNAT named (R93, R376) -/
  scoreOf : Nat
  scube : Nat
  saddr : Word := 0
  /-- model's own: of a task that a copy of an escorted pair pushed, the tid of the pair and the number of its push (R386) -/
  mate : Option (Nat × Nat) := none
  /-- model's own: the twin pushed it -/
  twin : Bool := false
deriving DecidableEq, Repr

/-- A trap message (R378). -/
structure TrapMsg where
  info : TrapInfo
  /-- KIND = 1: the task record -/
  task : Option Task
  esc : Bool
  score : Bool
  part : Nat
  core : Nat
  slot : Nat
  tid : Nat
  lslot : Nat
  trpc : Word
  cyc : Nat
deriving DecidableEq, Repr

/-! ## Travellers (R70 to R75) -/

/-- The 32-byte header (R73). -/
structure Header where
  key : Word := 0
  fare : Word := 0
  pmask : BitVec 24 := 0
  bcore : Nat := 0
  bcube : Nat := 0
  lslot : Nat := 0
  /-- model's own: the cube whose completion table `lslot` indexes (R139) -/
  lcube : Nat := 0
  part : Nat := 0
  ocore : Nat := 0
  ocube : Nat := 0
deriving DecidableEq, Repr

/-- What a completed wait gives the parked instruction when it next runs (R74, R438). -/
inductive Reply where
  /-- the wait is over and this value was obtained -/
  | value (v : Word) (poisoned : Bool)
  /-- the instruction starts again, as after a translation walk -/
  | again
  /-- the instruction takes this trap -/
  | trap (t : TrapInfo)
deriving DecidableEq, Repr

/-- What a parked traveller waits for (R74). -/
inductive Cond where
  /-- `size` bytes at a physical address, `sync` when poison found there traps (R113, R115, R289) -/
  | load (pa size : Nat) (sync : Bool) (va : Word)
  /-- a full granule (R118); `clear` is C -/
  | granule (pa size : Nat) (clear : Bool) (va : Word)
  /-- a reservation grant of the double (R284) -/
  | grant (pa : Nat) (va : Word)
  /-- room in a port queue for the release of a far double whose value `v` has been granted (R24, R284) -/
  | grantRoom (pa : Nat) (va v : Word)
  /-- the home's answer to an STRL that has left for it (R289) -/
  | stored (va : Word)
  /-- DRAM at `pa` is served; the instruction then starts again (R23) -/
  | served (pa : Nat)
  /-- DRAM at `pa` is served for the RLS of the double; the RLS then starts again (R23, R286) -/
  | release (pa : Nat) (va : Word)
  /-- phase `ph` of barrier `b` of this core has completed (R317) -/
  | phase (b : Nat) (ph : Nat)
  /-- the data stages or the free stages of a ring (R181) -/
  | ringData (r n : Nat)
  | ringSpace (r n : Nat)
  /-- every vector, matrix, stream, bank or courier command of the traveller has completed -/
  | vecDone
  | matDone
  | bankDone
  | chanDone
  /-- the courier commands with tag class: all of class COURIER, NET or one record's sequence number (R186, R304) -/
  | courierDone (which : Nat)
  /-- every command of the traveller on every engine has completed (R88) -/
  | allDone
  /-- OUTS is zero (R307) -/
  | outsZero
  /-- every ENQ and LAUNCH copy has been accepted (R306) -/
  | copies
  /-- every transfer to or from host memory is performed (R303, R304) -/
  | hostDone
  /-- no command of a path class is outstanding (R304) -/
  | pathDone (cls : Nat)
  /-- earlier CORE-path accesses are performed at NETWORK scope (R299, R303) -/
  | performed
  /-- OUTS is zero and every copy accepted before a move; the instruction then starts again (R294) -/
  | settled
  /-- room in the engine queue of the kind 0 coach, 1 courier, 2 stream (R178) -/
  | engineRoom (kind : Nat)
  /-- a WAKE (R94) -/
  | wake
  /-- a translation walk of the page of `va` (R331) -/
  | walk (va : Word)
  /-- a queue operation's reply: the copy index or the DEQ of queue `q` (R173) -/
  | deq (p q pa : Nat)
  | queueStat (p q : Nat)
  /-- the hall's answer to CDONE and CCHK (R173, R176) -/
  | cdone (p e : Nat) (v : Word)
  | cchk (p e : Nat)
  /-- the purse table's answer to PURSEADD (R375) -/
  | purse (x : Nat) (v : Word)
  /-- a completion entry operation at its home (R176) -/
  | reply (v : Word)
  /-- a trap message of the traveller's partition (R372) -/
  | message
  /-- the seal of a core is complete (R374) -/
  | sealDone (core : Nat)
  /-- every matrix command of the traveller that names a bank of the handle has completed (R236, R242) -/
  | banks (n : Nat)
  /-- entries of the activation queue or of the export queue (R260, R263) -/
  | aqData
  | aqRoom
  | xqData
  | xqRoom
  /-- the island's reply about a lantern slot, and the end of a phase entry (R324) -/
  | lantern (p k : Nat)
  | phaseEnd (p e : Nat)
  /-- a waystation port queue has room (R24) -/
  | port
deriving DecidableEq, Repr

/-- A parked instruction: its word, what it waits for and what it was given. -/
structure Wait where
  word : Nat
  cond : Cond
  reply : Option Reply := none
deriving DecidableEq, Repr

/-- A held reservation (R286). -/
structure Resv where
  pa : Nat
  size : Nat
  va : Word
deriving DecidableEq, Repr

/-- An event not yet taken at an issue (R381). -/
inductive Pending where
  | cancel | watchdog | strand | preempt | halt | escort (addr : Word) | engine (t : TrapInfo)
  /-- a trap that the home of an SFE found after the SFE had left its store buffer (R385) -/
  | late (t : TrapInfo)
deriving DecidableEq, Repr

/-- Traveller states (R72). -/
inductive TState where
  | free | ready | running | parked | migrating | stranded | halted | trapped | ended
deriving DecidableEq, Repr

/-- Where a MIGRATING traveller goes (R78). -/
structure Move where
  core : Nat
  cube : Nat
  addr : Word
  /-- the destination's acknowledgement has come -/
  acked : Bool := false
deriving DecidableEq, Repr

/-- What a core keeps for a workspace slot beside the 256 bytes of the workspace (R73, R286, R307, R356, R394). -/
structure Slot where
  /-- a traveller has been created in the slot -/
  used : Bool := false
  hdr : Header := {}
  outs : Nat := 0
  failed : List Word := []
  sbo : Option Bool := none
  wait : Option Wait := none
  resv : Option Resv := none
  /-- a reservation that the seal of its home has made void: its RLS traps SEALED (R287) -/
  voided : Option Resv := none
  pending : List Pending := []
  /-- the privilege level (R353) -/
  lvl : Nat := 0
  /-- the matched word issues once (R390) -/
  noMatch : Bool := false
  /-- the state before a halt with its REASON, and whether the halt was hard (R72, R392, R394) -/
  halted : Option ((TState × Nat) × Bool) := none
  /-- it has taken a pre-emption and leaves the core when nothing of it is left there (R152) -/
  leaving : Bool := false
  move : Option Move := none
  heldWakes : Nat := 0
  /-- workspace and header as created, for RESTART (R74) -/
  birth : Option (List Byte × Header) := none
  /-- the current trap message of a steward traveller (R372) -/
  msg : Option TrapMsg := none
  /-- the traveller is a copy of an escorted pair; the twin is so marked, and so is a task created on a twin's core (R386) -/
  pair : Bool := false
  twin : Bool := false
  /-- model's own: the pushes of an escorted copy, and the push that created it (R386) -/
  kids : Nat := 0
  mate : Option (Nat × Nat) := none
  /-- the request that an escorted copy waits with has been compared (R387) -/
  passed : Bool := false
  /-- the trap this traveller took (R377), kept while it is TRAPPED -/
  trap : Option TrapInfo := none
deriving DecidableEq, Repr

/-- A fixed-latency register write that is not yet readable (R52, R55): what the register held before it. Of `reg` 32 and above:
flags `reg - 32` of an instruction whose result is not yet readable (R47). -/
structure PendWrite where
  reg : Nat
  old : Word
  oldPoison : Bool
  ready : Nat
deriving DecidableEq, Repr

/-- What a store-buffer entry does at its target (R116, R119, R290, R299). -/
inductive SbOp where
  /-- a plain store -/
  | store
  /-- an SFE, with F -/
  | sfe (f : Bool)
  /-- an STRL whose traveller waits for the home's answer (R289) -/
  | strl
  /-- a RED with its function number -/
  | red (f : Nat)
  /-- a barrier event of barrier `b` of core `core` (R316): kind 0 arrival, 1 expectation -/
  | bar (core b kind n : Nat)
  /-- a system-register store of a steward (R275) -/
  | sysreg (block off level part : Nat)
  /-- a WAKE of traveller `tid` on core `core` (R94) -/
  | wake (tid core : Nat)
deriving DecidableEq, Repr

/-- A store-buffer entry. -/
structure SbEntry where
  slot : Nat
  op : SbOp
  va : Word
  /-- physical address on this cube; `none` where the target is no storage of this cube -/
  pa : Option Nat
  size : Nat
  val : Word
  poison : Bool
  /-- the target is another core's window -/
  window : Bool
  /-- counted in OUTS (R307) -/
  counted : Bool
  /-- network address and cube of another cube's target (stewards) -/
  net : Option (Nat × Nat) := none
  /-- compared with the partner's (R387) -/
  matched : Bool := false
  /-- its packet has left; it stays until the other cube's home has answered (R290) -/
  sent : Bool := false
deriving DecidableEq, Repr

/-- One issue stream: a compute core, a steward, or the A- or X-stream of a channel core (R248). -/
structure Stream where
  run : Option Nat := none
  pc : Word := 0
  nextIssue : Nat := 0
  pend : List PendWrite := []
  sb : List SbEntry := []
  /-- fetched words, the first at the pc (R135) -/
  fbuf : List (BitVec 32) := []
deriving DecidableEq, Repr

/-! ## Engines (R177) -/

/-- A command record: the word, the pc, the captured register values and FRM, and its progress (R177, R256). -/
structure Rec where
  word : Nat
  pc : Word
  slot : Nat
  tid : Nat
  /-- captured values of the register fields 22:18, 17:13, 12:8 -/
  d : Word
  a : Word
  b : Word
  p : BitVec 256
  frm : Byte
  key : Word
  ecx : Nat
  part : Nat
  /-- captured memory operands: descriptor, shape, address table (R224) -/
  mem : List Byte
  seq : Nat
  /-- 0 pending, 1 stopped or pending, 2 done, 3 faulted -/
  st : Nat := 0
  active : Bool := false
  prog : Nat := 0
  fault : Option TrapInfo := none
  /-- iteration tag of a sequencer record, lanes done of a vector memory command -/
  iter : Nat := 0
  /-- entries reserved in the export queue by a bank command (R264) -/
  xq : List Nat := []
  /-- rings it names (R181) -/
  rings : List Nat := []
  /-- captured bank set (R264) -/
  bset : List Nat := []
  /-- compared with the partner's (R387) -/
  matched : Bool := false
deriving DecidableEq, Repr

/-- A loop in a core's sequencer (R208 to R210). -/
structure Sequencer where
  slot : Nat
  tid : Nat
  body : List Rec
  /-- strides of each body record: three addends -/
  strides : List (Word × Word × Word)
  count : Nat
  iter : Nat := 0
  pos : Nat := 0
deriving DecidableEq, Repr

/-- A core barrier (R309). -/
structure Barrier where
  pcnt : Nat := 0
  arr : Nat := 0
  exp : Nat := 0
  v : Bool := false
  rb : Bool := false
  err : Bool := false
  pend : Int := 0
  /-- slots parked in BWAIT, in the order they parked (R310) -/
  waiters : List Nat := []
deriving DecidableEq, Repr

/-- A ring register (R179). -/
structure Ring where
  init : Bool := false
  base : Nat := 0
  ssize : Nat := 0
  nst : Nat := 0
  pi : Nat := 0
  ci : Nat := 0
  /-- bytes arrived by stage -/
  arrived : List Nat := []
deriving DecidableEq, Repr

/-- An ENQ or LAUNCH copy in the enqueue buffer (R171). -/
structure Copy where
  slot : Nat
  part : Nat
  queue : Nat
  bytes : List Byte
  /-- the launch record read at issue (R175) -/
  record : Option (List Byte)
  ecx : Nat
  level : Nat
  /-- arrival order at a full queue's home; 0 before it arrives -/
  stamp : Nat := 0
  /-- store-buffer entries that precede it and have not left (R171) -/
  ahead : Nat := 0
  /-- compared with the partner's (R387) -/
  matched : Bool := false
deriving DecidableEq, Repr

/-- A translation cache entry (R330). -/
structure TlbEntry where
  part : Nat
  va : Nat
  level : Nat
  oa : Nat
  rd : Bool
  wr : Bool
  nm : Bool
deriving DecidableEq, Repr

/-- An entry of the walker's pointer cache (R331): the table of level `level` for the addresses of partition `part` whose upper bits,
those that the levels before it index, are `key`. -/
structure Pointer where
  part : Nat
  level : Nat
  key : Nat
  oa : Nat
deriving DecidableEq, Repr

/-- A steal in progress (R157, R158). -/
structure Steal where
  pos : Nat := 0
  waiting : Bool := false
  backoff : Bool := false
deriving DecidableEq, Repr

/-- A core of any kind. -/
structure Core where
  urgQ : List (Nat × Nat) := []
  normQ : List (Nat × Nat) := []
  deque : List Task := []
  steal : Steal := {}
  lmwsb : Nat := 0
  lmrgb : Nat := 0
  lmdtb : Nat := 0
  stWsb : Nat := 0
  stRgb : Nat := 0
  lmErr : Bool := false
  barriers : SMap Barrier := []
  rings : SMap Ring := []
  coachQ : List Rec := []
  courierQ : List Rec := []
  coachSeq : Nat := 0
  courierSeq : Nat := 0
  seqr : Option Sequencer := none
  enqBuf : List Copy := []
  tlb : List TlbEntry := []
  /-- model's own: pages, by partition, whose walks for an engine of the core have failed; the engine meets the fault next (R331) -/
  walkErr : List (Nat × Nat) := []
  /-- assignment (R350 COREPART) -/
  part : Nat := 0
  asg : Bool := false
  rsv : Bool := false
  move : Bool := false
  /-- CSEAL (R382) -/
  sealCause : Nat := 0
  isSealed : Bool := false
  sealing : Bool := false
  /-- the unit a machine check reports (R383) -/
  sealSub : Nat := 0
  /-- level of the image loaded on a steward (R353) -/
  level : Nat := 0
  hardHalt : Bool := false
deriving DecidableEq, Repr

/-- Sixty-four bytes with poison by granule, and a side word (R255). -/
structure QEntry where
  bytes : List (Byte × Bool)
  side : Word
deriving DecidableEq, Repr

/-- An AQ entry: data, or a BSEL with its register, MASK and LAYER (R255, R260). -/
inductive AqEntry where
  | data (e : QEntry)
  | bsel (n : Nat) (mask : BitVec 32) (layer : Nat)
deriving DecidableEq, Repr

/-- An XQ entry: delivered, or reserved by a bank command under number `key` (R264). -/
structure XqEntry where
  key : Nat
  entry : Option QEntry
deriving DecidableEq, Repr

/-- The parts a channel core has beside a core (R250 to R268). -/
structure Channel where
  aq : List AqEntry := []
  xq : List XqEntry := []
  xqNext : Nat := 0
  /-- AQ producers and XQ consumers not finished, in issue order: a record's sequence number (true) or a slot (R256) -/
  aqProd : List (Bool × Nat) := []
  xqCons : List (Bool × Nat) := []
  bmask : SMap (BitVec 32) := []
  blayer : SMap Nat := []
  streamQ : List Rec := []
  streamSeq : Nat := 0
  bankCmds : List Rec := []
  xentry : Nat := 0
  xecx : Nat := 0
  xarg : Nat := 0
  xerr : Bool := false
  errCnt : Nat := 0
  chelog : Word := 0
  goSteward : Option Nat := none
  stopping : Bool := false
  /-- row sparing (R345): rows in copy, spares used by bank, remapped rows, retired rows, corrected counts -/
  copyingRows : List Nat := []
  spUsed : SMap Nat := []
  remapped : List Nat := []
  retired : List Nat := []
  corrected : SMap Nat := []
deriving DecidableEq, Repr

/-- A quad (R153, R163, R232, R219). -/
structure Quad where
  gated : Bool := false
  waking : Bool := false
  draining : Bool := false
  testing : Bool := false
  hole : Bool := false
  /-- holder (core, slot, tid) of each accumulator bank, and its status byte -/
  holders : SMap (Nat × Nat × Nat) := []
  bankStatus : SMap Byte := []
  vlast : Nat := 3
  mlast : Nat := 3
deriving DecidableEq, Repr

/-! ## Partitions -/

/-- A launch accepted by the dispatcher (R144, R147, R175). -/
structure Launch where
  record : List Byte
  gates : List Nat
  /-- GRAPH, PHASE and JOB; the first non-zero of them counts the launch (R141, R142) -/
  names : List Nat
  owner : Nat
  notify : Nat
  urg : Bool
  ecx : Nat
  /-- order of acceptance -/
  seq : Nat
  /-- completion queue and TAG -/
  cq : Nat
  tag : Nat
deriving DecidableEq, Repr

/-- A traveller away from any slot: in a packet or in the spill area (R81, R369). -/
structure Packed where
  bytes : List Byte
  hdr : Header
  seqr : Option Sequencer
  lvl : Nat
  birth : Option (List Byte × Header)
  /-- origin slot, for the acknowledgement -/
  oslot : Nat
  /-- destination -/
  dcore : Nat
  dcube : Nat
  addr : Word
  ready : Bool
  /-- items of R381 not yet taken -/
  pending : List Pending := []
  /-- the parked instruction and the reply it was given and has not yet taken (R438) -/
  wait : Option Wait := none
  pair : Bool := false
  twin : Bool := false
  kids : Nat := 0
  mate : Option (Nat × Nat) := none
  /-- why it is in the spill area: 0 stranded, 1 a borrower (R152), 2 quiesced (R22), 3 created again (R380) -/
  why : Nat := 0
deriving DecidableEq, Repr

/-- What travels between the cores of the cube (R81, R93, R94, R158). -/
inductive Flight where
  /-- a migrating traveller, origin core and slot -/
  | traveller (t : Packed) (ocore oslot : Nat)
  | bounce (t : Packed) (ocore oslot : Nat)
  | task (t : Task) (core : Nat) (ackTo : Option (Nat × Nat))
  | wake (tid core : Nat) (ackTo : Option (Nat × Nat))
  | stealReq (thief victim : Nat)
  | stealRep (thief : Nat) (t : Option Task)
deriving DecidableEq, Repr

/-- What a partition's spill area holds, or what waits for room in it (R352). -/
inductive SpillItem where
  | traveller (t : Packed)
  | post (q : Nat) (bytes : List Byte)
  | message (st : Nat) (m : TrapMsg)
  /-- the turn of an arrival that waits on its way, and of a trap message that stays at its core -/
  | arrival (f : Flight)
  | notice (st : Nat) (m : TrapMsg)
deriving DecidableEq, Repr

/-- A launch that has its rectangle (R138, R149): its entry, its origin and the indices of the travellers not yet created, which
wait for the quads that wake (R153). -/
structure Placement where
  launch : Launch
  entry : Nat
  x : Nat
  y : Nat
  left : List Nat
deriving DecidableEq, Repr

/-- A core move not yet made (R154, R350): the assignment to come, and whether the scrub has begun. -/
structure CoreMove where
  core : Nat
  part : Nat
  asg : Bool
  rsv : Bool
  scrubbed : Bool := false
deriving DecidableEq, Repr

/-- A partition of the cube. -/
structure Part where
  /-- launches waiting for a gate, then the urgent and the normal lists (R147) -/
  waiting : List Launch := []
  urgent : List Launch := []
  normal : List Launch := []
  placed : List Placement := []
  /-- a queue of accepted LAUNCH copies the dispatcher takes (R175) -/
  intake : List Copy := []
  /-- TAG of each launch entry (R170) and placement rectangle X, Y, W, H (R139) -/
  tags : SMap Nat := []
  rects : SMap (Nat × Nat × Nat × Nat) := []
  /-- the launch of each launch entry that has been placed: its names, its gate and its class (R145, R152) -/
  running : SMap Launch := []
  spill : List SpillItem := []
  /-- items waiting for room (R352) -/
  spillWait : List SpillItem := []
  spfull : Bool := false
  nextTurn : Nat := 0
  launchSeq : Nat := 0
  copySeq : Nat := 0
  memKey : Bool := false
  keyErased : Bool := false
deriving DecidableEq, Repr

/-- A purse entry (R362). -/
structure Purse where
  purse : Int := 0
  spent : Word := 0
  frac : Nat := 0
  en : Bool := false
  str : Bool := false
deriving DecidableEq, Repr

/-- A flush of a meter that the purse table has not taken yet (R358, R364): meter, context, units, and the cycle it came in. -/
structure Flush where
  meter : Nat
  ctx : Nat
  units : Nat
  cycle : Nat
deriving DecidableEq, Repr

/-! ## Requests under way -/

/-- A translation walk requested (R331): partition, virtual address, the core that fills its cache, and the requesters. -/
structure Walk where
  part : Nat
  va : Nat
  fills : List Nat
  waiters : List (Nat × Nat)
deriving DecidableEq, Repr

/-- A request queued at the home of a reserved double (R284). A steward of another cube stands as core
8192 x (cube + 1) + its core, and its message number as the slot. -/
structure ResvReq where
  core : Nat
  slot : Nat
  granted : Bool := false
  /-- the cycle in which it reached the home -/
  since : Nat := 0
deriving DecidableEq, Repr

/-- An arrival, an expectation or a byte arrival on its way to a barrier (R310, R316). -/
structure BarEvent where
  core : Nat
  bar : Nat
  /-- 0 arrival, 1 expectation, 2 byte arrival -/
  kind : Nat
  n : Int
  /-- issuing core, slot and cube -/
  src : Nat × Nat × Nat
  /-- the cycle in which it left its store buffer -/
  since : Nat := 0
deriving DecidableEq, Repr

/-! ## The waystation (chapter 18) -/

/-- What a packet carries beside its header (R406). -/
inductive Payload where
  | data (bs : List (Byte × Bool))
  | traveller (t : Packed)
  | task (t : Task)
  /-- a read of `n` bytes -/
  | read (n : Nat)
  /-- a ring pop of ring `r` (R259) -/
  | ringPop (r : Nat)
  /-- a barrier event: kind and amount (R316) -/
  | bar (b kind : Nat) (n : Int)
  /-- a steward's reservation request, release or RED (R284, R290): 0 request, 1 release, 2 + f RED -/
  | atomic (op size : Nat) (v : Word)
  /-- a response: 0 data, 1 acknowledgement, 2 NAK-RETRY, 3 NAK-ABSENT, 4 refusal with a cause code -/
  | resp (code cause : Nat) (bs : List (Byte × Bool))
  | mgmt (write : Bool) (port : Nat) (v : Word)
  /-- a map change on its way to the sequencer, or numbered by it (R340) -/
  | change (num : Option Nat) (issuer : Nat) (c : MapChange)
  | changeAck (num : Nat) (ok : Bool)
  | cursor (entry cursor : Nat)
  /-- a granule of a restriping entry on its way to its new cube, and the bytes (R341) -/
  | granule (entry g : Nat) (bs : List (Byte × Bool))
  /-- a route update: the usable links of a cube, each with its number, role and peer (R404) -/
  | route (cube : Nat) (edges : List (Nat × Nat × Nat))
  | heartbeat
  | abort (part plan inst cause : Nat)
  /-- a lantern probe: slot, round, count and colour (black) (R321) -/
  | probe (part k round : Nat) (count : Int) (black : Bool)
  | lanternDone (part k : Nat)
  /-- model's own: a count of a launch entry of the cube the packet goes to grows or falls by one (R85, R139) -/
  | count (part entry : Nat) (up : Bool)
  /-- a wake that follows its traveller to another cube (R94) -/
  | wake (tid core : Nat)
  /-- a held traveller has taken a slot: its origin core, slot and tid (R74, R77) -/
  | arrived (core slot tid : Nat)
deriving DecidableEq, Repr

/-- A packet (R405). -/
structure Packet where
  scube : Nat
  dcube : Nat
  cls : Nat
  kind : Nat
  ecx : Nat
  spart : Nat
  tryNo : Nat := 0
  esc : Bool := false
  seq : Nat := 0
  msgid : Nat := 0
  off : Nat := 0
  total : Nat := 0
  addr : Nat := 0
  ehash : Nat := 0
  score : Nat := 0x1FFF
  inst : Nat := 0
  plan : Nat := 0
  bix : Nat := 0
  ben : Bool := false
  /-- model's own: the plan node it goes to, and the node that sent it (R412, R413); of a traveller or task packet, `node` is
  its origin slot, and of a steward's access `child` is its level -/
  node : Nat := 0
  child : Nat := 0
  payload : Payload
  /-- model's own: accepted by the receiving window, and waiting here for its turn -/
  taken : Bool := false
  /-- model's own: the link it came in by, 16 once charged there; of a packet of this cube, the link it last left by -/
  via : Nat := 16
  /-- the virtual channel of classes OC-S and OC-M, and of an adaptive class once it has `escaped` (R403) -/
  vc : Nat := 0
  escaped : Bool := false
  /-- model's own: the dragonfly group it goes through before its own (R402) -/
  mid : Option Nat := none
  /-- model's own: a cube has forwarded it to the granule's new home (R342) -/
  fwd : Bool := false
deriving DecidableEq, Repr

/-- A write of an engine on its way to its target on this cube (R180, R190, R239). -/
structure EngWrite where
  /-- physical address of the first byte -/
  pa : Nat
  /-- bytes with their poison -/
  bytes : List (Byte × Bool)
  /-- core, engine (0 coach, 1 courier, 2 stream queue, 3 the network) and sequence number of the command -/
  src : Nat × Nat × Nat
  /-- barrier of the target core whose PEND falls by the bytes (R182) -/
  bar : Option Nat
  /-- a rotation write (R239) -/
  rot : Bool := false
  /-- it waits for a complete stage to be consumed (R180) -/
  held : Bool := false
  /-- compared with the partner's (R387) -/
  matched : Bool := false
  /-- the packet of another cube that is acknowledged when the write has been applied (R295) -/
  ack : Option Packet := none
deriving DecidableEq, Repr

/-- A packet sent and not acknowledged (R407), with the traveller or command that waits for it. -/
structure Sent where
  pkt : Packet
  naks : Nat := 0
  /-- a NAK-RETRY has come and the resend has not left -/
  nak : Bool := false
  /-- the core and slot that the acknowledgement goes to -/
  who : Option (Nat × Nat) := none
  /-- the acknowledgement decrements OUTS -/
  counted : Bool := false
  /-- sequence number of the courier command or stream record that waits for it -/
  cmd : Option Nat := none
  /-- compared with the partner's, and the other copy with its command, which is answered too (R387) -/
  matched : Bool := false
  also : Option ((Nat × Nat) × Option Nat) := none
  /-- the cubes of the route it left by (R404) -/
  path : List Nat := []
  /-- its message has been counted as sent (R319) -/
  again : Bool := false
  /-- the offset in its command of the bytes it asks for -/
  pos : Nat := 0
deriving DecidableEq, Repr

/-- A link (R397 to R399). -/
structure Link where
  state : Nat := 0
  spused : Bool := false
  splane : Nat := 0
  bad : BitVec 9 := 0
  lreplay : Nat := 0
  role : Nat := 7
  peer : Nat := 0
  pport : Nat := 0
  replay : List Packet := []
deriving DecidableEq, Repr

/-- A contribution to position `pos` of a reduce node, as far as it has been accepted (R412): elements with their poison. -/
structure Contrib where
  part : Nat
  plan : Nat
  node : Nat
  pos : Nat
  inst : Nat
  vals : List (Nat × Bool)
  rd : Nat
  bix : Nat
  ben : Bool
deriving DecidableEq, Repr

/-- A multicast copy taken at a node (R413): the packet it came in, the messages and offsets of the copies sent on that are not
acknowledged, and the cause code of a refusal (0: none). -/
structure Mcast where
  pkt : Packet
  waiting : List (Nat × Nat)
  cause : Nat
deriving DecidableEq, Repr

/-- A lantern slot (R320). `out` is set at the leader while a probe of its round is outstanding; `probe` is the sum and the
colour (black) of a probe held here (R321). -/
structure Lantern where
  entry : Nat := 0
  next : Nat := 0
  lead : Bool := false
  en : Bool := false
  round : Nat := 0
  black : Bool := false
  done : Bool := false
  tmo : Nat := 0
  probe : Option (Int × Bool) := none
  out : Bool := false
deriving DecidableEq, Repr

/-- An operation of an escorted copy that leaves its core (R387). -/
inductive EscWhat where
  /-- the entry at the head of its store buffer -/
  | entry (e : SbEntry)
  /-- the access it waits for -/
  | request
  /-- a traveller or task packet, kept here until it is forwarded -/
  | flight (f : Flight)
  /-- a copy in its enqueue buffer -/
  | copy (q : Copy)
  /-- a packet in the port queue -/
  | packet (x : Sent)
  /-- a write of one of its engines -/
  | write (w : EngWrite)
  /-- a gather or an atomic vector command, by sequence number -/
  | command (seq : Nat)
  /-- the next 4,096 bytes of a courier's copy, by sequence number -/
  | block (seq : Nat)
deriving DecidableEq, Repr

/-- An escorted message that waits for its partner's (R387, R388): the copy's core, slot and tid, the hash and the
destination address. -/
structure EscMsg where
  core : Nat
  slot : Nat
  tid : Nat
  hash : Nat
  addr : Word
  what : EscWhat
deriving DecidableEq, Repr

/-- The island's network state. -/
structure Net where
  inbox : List Packet := []
  /-- packets that have left, with the link they took -/
  outbox : List (Nat × Packet) := []
  portQ : List Sent := []
  /-- packets of the waystation itself that wait for room in the retry buffer or for a changed path (R404, R407) -/
  sendQ : List Sent := []
  retry : List Sent := []
  seqs : SMap Nat := []
  msgid : Nat := 0
  /-- sequence numbers accepted, by source x 4 + class (R407) -/
  windows : SMap (List Nat) := []
  winBase : SMap Nat := []
  /-- model's own: how each accepted request of a window was answered, for its duplicates: SEQ, code and cause (R407) -/
  answers : SMap (List (Nat × Nat × Nat)) := []
  /-- model's own: forwarded requests answered here: source, MSGID, OFF, code and cause (R342, R407) -/
  fwdSeen : List (Nat × Nat × Nat × Nat × Nat) := []
  /-- bytes counted, by source x 2^32 + MSGID (R408) -/
  counts : SMap Nat := []
  conns : List Nat := []
  fetching : List Nat := []
  missBuf : List Packet := []
  /-- the arrival filter: source, MSGID and how the message was answered: 0 arrived, 1 held, 2 bounced (R419) -/
  filter : List (Nat × Nat × Nat) := []
  kept : List Packet := []
  links : SMap Link := []
  /-- the usable links of each cube by the last route update it sent, and the cycle of each cube's last heartbeat (R404) -/
  graph : SMap (List (Nat × Nat × Nat)) := []
  heard : SMap Nat := []
  /-- the link peers each cube has had by the route updates of both ends, and the cycle since which every link to a cube has been
  down (R404) -/
  peers : SMap (List Nat) := []
  away : SMap Nat := []
  nodes : SMap Word := []
  edges : SMap Word := []
  plans : SMap (BitVec 128) := []
  leaf : SMap Nat := []
  /-- CUR of each node: (partition x 64 + plan) x 64 + node (R412) -/
  nodeCur : SMap Nat := []
  contribs : List Contrib := []
  mcasts : List Mcast := []
  /-- the messages of the copies that a multicast message of several packets is sent on in, edge by edge (R408, R413) -/
  copies : SMap (List Nat) := []
  lanterns : SMap Lantern := []
  /-- SENT - RECV counts by partition (R319) -/
  sent : SMap Nat := []
  recv : SMap Nat := []
  /-- map changes issued here and not yet numbered, the sequencer's next number, changes applied so far (R340) -/
  mapIssued : List MapChange := []
  mapNext : Nat := 0
  mapApplied : Nat := 0
  /-- sequenced changes not acknowledged everywhere: number, issuing cube, cubes left -/
  mapAcks : List (Nat × Nat × List Nat) := []
  /-- escorted messages waiting for their partner, in order (R387, R388) -/
  escort : List EscMsg := []
  /-- the waystation's cache for ownership checks, most recently used first: a leaf that maps each page to itself, its key space x 2^24 +
  page, for the partition that owns it (R330) -/
  owners : List TlbEntry := []
  /-- the walker's cache of pointer entries, most recently used first (R331) -/
  pointers : List Pointer := []
deriving DecidableEq, Repr

/-! ## Host, firmware and alarms (chapter 19) -/

/-- A PCI Express port's PF registers (R422, R423, R426). -/
structure Port where
  mgaddr : Word := 0
  mgdata : Word := 0
  mgwr : Bool := false
  mgbusy : Bool := false
  mgstatus : Nat := 0
  nonce : Word := 0
  authBusy : Bool := false
  authStatus : Nat := 0
  authbuf : List Host.Cell := []
  /-- MSI-X vectors sent and not yet taken: function and vector (R425) -/
  msix : List (Nat × Nat) := []
  /-- virtual functions that the SR-IOV capability does not enable (R421) -/
  vfsOff : List Nat := []
  /-- model's own: the cycle of the last GO of AUTHCTL (R427), and whether an alarm has come since (R431) -/
  authAt : Nat := 0
  alarmed : Bool := false
deriving DecidableEq, Repr

/-- Firmware, ownership and alarms. -/
structure Fw where
  /-- bytes of the two firmware slots: slot x 2^24 + offset -/
  bytes : List Host.Cell := []
  active : Nat := 0
  /-- the slot that is active from the next waystation reset on (R428) -/
  next : Nat := 0
  /-- the vendor steward image of the retained storage (R428) -/
  vendor : List Byte := []
  /-- the image loaded on each steward: its security version and its SHA-384 digest (R429) -/
  images : SMap (Nat × List Byte) := []
  /-- the owner credential: an ECDSA P-384 public key and an LMS public key (R426) -/
  credEc : List Byte := []
  credLms : List Byte := []
  minsvn : Nat := 0
  owner : Nat := 0
  lmsIndex : Nat := 0
  identity : Nat := 0
  erased : Bool := false
  locked : Bool := false
  src : Nat := 0
  /-- cycles at which authentication failures were counted (R430) -/
  failTimes : List Nat := []
  /-- ports whose signed command is in progress, in the order of their GO writes (R427) -/
  authQ : List Nat := []
  capped : Bool := false
  hotDie : Bool := false
  /-- towers whose refresh rate is doubled (R434) -/
  hotTowers : List Nat := []
  /-- model's own: cycles that passed before the cycle counter last started again (R430) -/
  past : Nat := 0
  /-- model's own: what the last image load answered, the result of R132 and the launch table after relocation (R133) -/
  loaded : Nat × List Byte := (0, [])
deriving DecidableEq, Repr

/-- A register write on its way to its block as a CORE-path store or a management write (R275, R357). -/
structure RegWrite where
  agent : Agent
  block : Nat
  off : Nat
  v : Word
  /-- the packet that is answered once the owner check has been made (R423) -/
  ack : Option Packet := none
deriving DecidableEq, Repr

/-! ## The state -/

/-- A stripe-map entry (R336), its change in progress (R341): granules moved above the cursor, being copied. -/
structure Stripe where
  base : Nat := 0
  size : Nat := 0
  oset : Nat := 0
  olb : Nat := 0
  nset : Nat := 0
  nlb : Nat := 0
  gran : Nat := 0
  hash : Nat := 0
  state : Nat := 0
  cursor : Nat := 0
  copying : List Nat := []
  moved : List Nat := []
deriving DecidableEq, Repr

/-- An access that an invalidation in progress waits for, since it was issued before it (R335). -/
inductive Issued where
  /-- the `n` oldest entries of the store buffer of stream `key` -/
  | stores (key n : Nat)
  /-- what traveller `tid` of a slot waits for -/
  | wait (c sl tid : Nat) (w : Wait)
  /-- the migration of traveller `tid` from a slot -/
  | move (c sl tid : Nat)
  /-- the traveller that has moved to a slot, whose instruction at `pc` has still to be translated again there (R333) -/
  | arrived (c sl tid : Nat) (pc : Word)
  /-- a write of an engine's command to physical address `pa` -/
  | write (src : Nat × Nat × Nat) (pa : Nat)
  /-- a bank command by its sequence number -/
  | bank (c seq : Nat)
  /-- a packet by its message and offset -/
  | packet (msgid off : Nat)
deriving DecidableEq, Repr

/-- A line of a channel cache (R280, R281): line address, dirty, owner context; the list order is the use order. -/
structure CLine where
  line : Nat
  dirty : Bool
  owner : Nat
deriving DecidableEq, Repr

/-- The state of one cube. Model's own fields (no rule names them): `agenda`, `cur`, `free`. -/
structure State where
  /-- the cycle counter (R95) -/
  cycle : Nat
  ws : WsState
  memDom : MemState
  comp : CompState
  /-- the cores have stopped for QUIESCE (R22) -/
  still : Bool
  imgOk : Bool
  zeroing : Bool
  srReq : Bool
  ccFlush : Bool
  /-- bytes of DRAM, hall and every local SRAM, by physical address -/
  mem : List Host.Cell
  /-- granules whose full bit is set (R278), poisoned granules, 8-byte halves with an unfound uncorrectable error and with an
  unfound correctable one (R279) -/
  full : List Nat
  poison : List Nat
  latent : List Nat
  softErr : List Nat
  /-- accumulator banks (R219) by quad, bank and byte -/
  accMem : List Host.Cell
  /-- host memory by port and address (R167) -/
  hostMem : List Host.Cell
  ccache : SMap (List CLine)
  streams : SMap Stream
  slots : SMap Slot
  cores : SMap Core
  channels : SMap Channel
  quads : SMap Quad
  parts : SMap Part
  purses : SMap Purse
  /-- units accumulated by meter: (context, units), most recently used first (R358) -/
  meters : SMap (List (Nat × Nat))
  /-- flushes that the purse table has not taken (R364) -/
  flushes : List Flush
  /-- units charged by meter since the last correction (R361) -/
  metered : SMap Nat
  /-- contexts whose stranding the cores have not yet been told, and those they have (R366) -/
  strandNotice : List Nat
  stranded : List Nat
  /-- stranded travellers (core, slot) in the order they stopped (R370) -/
  strandOrder : List (Nat × Nat)
  /-- TVEC by steward x 32 + partition, and DBGCTL by partition (R354, R355) -/
  tvec : SMap Word
  dbgctl : SMap Word
  /-- system registers without a home of their own, by block x 65536 + offset (R275) -/
  regs : SMap Word
  /-- requests by reserved double, the head first; granted when the head holds it (R284) -/
  resvQ : SMap (List ResvReq)
  /-- LFE requests by granule in arrival order (R120) -/
  granWait : SMap (List (Nat × Nat))
  walks : List Walk
  /-- trap messages on their way and at each steward (R372, R379) -/
  msgFlight : List (Nat × TrapMsg)
  tmsgs : SMap (List TrapMsg)
  flights : List Flight
  /-- held arrivals by core, in order of arrival (R77) -/
  held : List (Nat × Flight)
  engWrites : List EngWrite
  barEvents : List BarEvent
  stripe : SMap Stripe
  sets : SMap (List (BitVec 16))
  /-- page assignment (R351): space x 2^24 + page, to partition + 1 -/
  pages : SMap Nat
  ownPending : List Nat
  net : Net
  ports : SMap Port
  fw : Fw
  regWrites : List RegWrite
  /-- HUNG watchdog: a heartbeat has come since the last expiry check (R389) -/
  heartbeat : Bool
  /-- the cluster under drain or test, and whether the test runs (R163) -/
  testing : Option (Nat × Bool)
  /-- clusters that machine checks have put at the head of the self-test schedule (R383) -/
  testFirst : List Nat
  /-- quads retired by physical column, in the island's retained storage (R15, R16) -/
  colRetired : SMap Nat
  /-- core moves not yet made (R154, R350) -/
  moves : List CoreMove
  /-- invalidations in progress and waiting (R335) -/
  xlinvQ : List Word
  /-- accesses that the invalidation in progress still waits for (R335) -/
  xlinvOut : List Issued
  /-- model's own: events due, the stream that issues, the counter of free values -/
  agenda : List Instr
  cur : Nat
  free : Nat
  /-- model's own: the last issue was held (R116), so an internal event comes first -/
  stalled : Bool
deriving DecidableEq, Repr

/-- The state after reset. -/
def State.reset : State where
  cycle := 0
  ws := .boot
  memDom := .off
  comp := .off
  still := false
  imgOk := false
  zeroing := false
  srReq := false
  ccFlush := false
  mem := []
  full := []
  poison := []
  latent := []
  softErr := []
  accMem := []
  hostMem := []
  ccache := []
  streams := []
  slots := []
  cores := []
  channels := []
  quads := []
  parts := []
  purses := []
  meters := []
  flushes := []
  metered := []
  strandNotice := []
  stranded := []
  strandOrder := []
  tvec := []
  dbgctl := []
  regs := []
  resvQ := []
  granWait := []
  walks := []
  msgFlight := []
  tmsgs := []
  flights := []
  held := []
  engWrites := []
  barEvents := []
  stripe := []
  sets := []
  pages := []
  ownPending := []
  net := {}
  ports := []
  fw := {}
  regWrites := []
  heartbeat := false
  testing := none
  testFirst := []
  colRetired := []
  moves := []
  xlinvQ := []
  xlinvOut := []
  agenda := []
  cur := 0
  free := 0
  stalled := false

/-! ## Faults and refusals -/

/-- Why a step stops. -/
inductive Fault where
  /-- `exec` of an instruction word where no traveller is RUNNING on the chosen stream: no issue exists there (R52, R74).
  Safe: the hardware issues nothing either. -/
  | noTraveller
deriving DecidableEq, Repr

/-- Why an instruction has no meaning. -/
inductive Refusal where
  /-- an instruction that has no meaning yet. Safe. -/
  | notModelled (mnemonic : String)
deriving DecidableEq, Repr

/-- What an instruction or an event answers. -/
abbrev Result := Host.Outcome State Fault Refusal

end Sys2Proof.Machine
end

