-- ==== Sys2Proof/Machine/Map.lean ====
section
/-! DEFINITION. Sparse maps in canonical form, and memory as one: bytes by physical address, little-endian (R6). -/

namespace Sys2Proof.Machine

/-- The entry of key `k`. -/
def lookup {α : Type} : SMap α → Nat → Option α
  | [], _ => none
  | (k', v) :: m, k => if k' = k then some v else lookup m k

/-- Enter `v` at `k`, keys kept rising. -/
def insertAt {α : Type} : SMap α → Nat → α → SMap α
  | [], k, v => [(k, v)]
  | (k', v') :: m, k, v =>
    if k < k' then (k, v) :: (k', v') :: m
    else if k' = k then (k, v) :: m
    else (k', v') :: insertAt m k v

/-- Remove every entry of `k`. -/
def removeAt {α : Type} : SMap α → Nat → SMap α
  | [], _ => []
  | (k', v') :: m, k => if k' = k then removeAt m k else (k', v') :: removeAt m k

/-- Read with default `d`. -/
def mget {α : Type} (d : α) (m : SMap α) (k : Nat) : α := (lookup m k).getD d

/-- Write, keeping entries equal to the default out. -/
def mput {α : Type} [DecidableEq α] (d : α) (m : SMap α) (k : Nat) (v : α) : SMap α :=
  if v = d then removeAt m k else insertAt m k v

/-- Keys strictly rising from above `lo`, no entry equal to the default. -/
def mwfFrom {α : Type} [DecidableEq α] (d : α) : Option Nat → SMap α → Bool
  | _, [] => true
  | lo, (k, v) :: m => (match lo with | none => true | some l => decide (l < k)) && decide (v ≠ d) && mwfFrom d (some k) m

/-- The canonical form of a byte memory: addresses strictly rising and no entry equal to 0, what an unlisted address
reads as (R22 for DRAM; assumption 6 for SRAM and the hall). -/
def Memory.wf (m : List Host.Cell) : Bool := mwfFrom (0 : Byte) none m

/-- One byte. -/
def rdByte (m : List Host.Cell) (a : Nat) : Byte := mget 0 m a
/-- Write one byte. -/
def wrByte (m : List Host.Cell) (a : Nat) (b : Byte) : List Host.Cell := mput 0 m a b

/-- `n` bytes from `a` as a number, little-endian. -/
def rdN (m : List Host.Cell) (a : Nat) : Nat → Nat
  | 0 => 0
  | n + 1 => (rdByte m a).toNat + 256 * rdN m (a + 1) n

/-- The low `n` bytes of `v` at `a`, little-endian. -/
def wrN (m : List Host.Cell) (a : Nat) : Nat → Nat → List Host.Cell
  | 0, _ => m
  | n + 1, v => wrN (wrByte m a (BitVec.ofNat 8 v)) (a + 1) n (v / 256)

/-- `n` bytes from `a` as a list. -/
def rdBytes (m : List Host.Cell) (a : Nat) : Nat → List Byte
  | 0 => []
  | n + 1 => rdByte m a :: rdBytes m (a + 1) n

/-- A list of bytes at `a`. -/
def wrBytes (m : List Host.Cell) (a : Nat) : List Byte → List Host.Cell
  | [] => m
  | b :: bs => wrBytes (wrByte m a b) (a + 1) bs

/-- The number whose little-endian bytes are given. -/
def leNat : List Byte → Nat
  | [] => 0
  | b :: bs => b.toNat + 256 * leNat bs

/-- `n` little-endian bytes of a number. -/
def leBytes : Nat → Nat → List Byte
  | 0, _ => []
  | n + 1, v => BitVec.ofNat 8 v :: leBytes n (v / 256)

/-- Bits [hi:lo] of a number as a number. -/
def bitsOf (v hi lo : Nat) : Nat := v / 2 ^ lo % 2 ^ (hi + 1 - lo)

/-- Number `v` with bits [hi:lo] replaced by `x`. -/
def setBits (v hi lo x : Nat) : Nat :=
  v % 2 ^ lo + 2 ^ lo * (x % 2 ^ (hi + 1 - lo)) + 2 ^ (hi + 1) * (v / 2 ^ (hi + 1))

/-- Sorted insertion into a set of numbers. -/
def setIns (k : Nat) : List Nat → List Nat
  | [] => [k]
  | x :: xs => if k < x then k :: x :: xs else if k = x then x :: xs else x :: setIns k xs

def setDel (k : Nat) : List Nat → List Nat
  | [] => []
  | x :: xs => if k = x then xs else x :: setDel k xs

/-- The granules (R6) that `n` bytes from `pa` meet. -/
def granules (pa n : Nat) : List Nat :=
  if n = 0 then [] else (List.range ((pa + n - 1) / 16 - pa / 16 + 1)).map (· + pa / 16)

end Sys2Proof.Machine
end

