-- ==== Sys2Proof/Machine/Layout.lean ====
section
/-! DEFINITION. Identifiers and physical addresses (R9, R14, R273, R274), and the records kept by core, slot, stream,
channel, quad and partition, with their values at reset. -/

namespace Sys2Proof.Machine

/-- Core kinds by identifier (R9). -/
inductive Kind where | compute | channel | steward | absent
deriving DecidableEq, Repr

def kindOf (c : Nat) : Kind :=
  if c < 5120 then .compute
  else if 6144 ≤ c ∧ c ≤ 6207 then .channel
  else if 6400 ≤ c ∧ c ≤ 6479 then .steward
  else .absent

/-- The twin of a compute core (R386). -/
def twinCore (c : Nat) : Nat := c / 64 * 64 + (c % 64 + 32) % 64
/-- Quad of a compute core (R9). -/
def quadOf (c : Nat) : Nat := c / 64 / 2 * 32 + c % 64 / 2
/-- Cluster of a compute core (R9). -/
def clusterOf (c : Nat) : Nat := c / 64 / 8 * 8 + c % 64 / 8
/-- Cluster of a quad (R9). -/
def clusterOfQuad (q : Nat) : Nat := q / 32 / 4 * 8 + q % 32 / 4
/-- The four cores of a quad, ascending. -/
def coresOfQuad (q : Nat) : List Nat :=
  let x := q % 32 * 2
  let y := q / 32 * 2
  [y * 64 + x, y * 64 + x + 1, (y + 1) * 64 + x, (y + 1) * 64 + x + 1]
/-- The cluster a core belongs to: a steward belongs to the cluster it supervises. -/
def clusterOfCore (c : Nat) : Nat := match kindOf c with
  | .steward => c - 6400
  | _ => clusterOf c
def stewardOf (cluster : Nat) : Nat := 6400 + cluster

/-- Bytes of local SRAM (R14, R131). -/
def sramSize (c : Nat) : Nat := match kindOf c with
  | .channel => 0x100000
  | .absent => 0
  | _ => 0x40000
/-- First local alias address (R130, R272). -/
def aliasBase (c : Nat) : Nat := match kindOf c with
  | .channel => 0x00FFFFFFFFF00000
  | _ => 0x00FFFFFFFFFC0000
/-- Window base (R273). -/
def windowBase (c : Nat) : Nat := match kindOf c with
  | .channel => 0x00FFFF0060000000 + (c - 6144) * 2 ^ 20
  | _ => 0x00FFFF0000000000 + c * 2 ^ 18

/-! Physical addresses: DRAM below 2^41, the hall from 2^53, local SRAM from 2^54. -/
def dramPa (ch o : Nat) : Nat := ch * 2 ^ 35 + o
def hallBase : Nat := 2 ^ 53
def hallPa (h : Nat) : Nat := hallBase + h
def sramBase (c : Nat) : Nat := 2 ^ 54 + c * 2 ^ 28
def sramPa (c off : Nat) : Nat := sramBase c + off
def hallSize : Nat := 192 * 2 ^ 20
/-- The owner of a physical address: a core, the hall or a channel. -/
inductive Home where | core (c off : Nat) | hall (h : Nat) | dram (ch o : Nat)
deriving DecidableEq, Repr
def homeOf (pa : Nat) : Home :=
  if 2 ^ 54 ≤ pa then .core ((pa - 2 ^ 54) / 2 ^ 28) ((pa - 2 ^ 54) % 2 ^ 28)
  else if 2 ^ 53 ≤ pa then .hall (pa - 2 ^ 53)
  else .dram (pa / 2 ^ 35) (pa % 2 ^ 35)

/-! System-register blocks (R275). -/
def islandBlk : Nat := 0x1F02
def dispBlk : Nat := 0x1F00
def hallBlk : Nat := 0x1F01
def regKey (block off : Nat) : Nat := block * 65536 + off

/-- Typical base fares (R360; assumption 9). -/
def typicalFares : List Nat :=
  [48, 96, 640, 80, 128, 480, 960, 320, 240, 1600, 960, 2400, 160, 640, 3200, 1800, 450, 225, 113, 56, 28, 14, 8, 4, 4,
   7500, 8500, 8, 25600, 32000, 16000, 8000, 48000, 320, 192000, 19200, 1200]

/-- Reset values of the system registers that have no home of their own; every other one resets to 0. -/
def regReset (key : Nat) : Word :=
  let blk := key / 65536
  let off := key % 65536
  if blk = islandBlk then
    if 0xA200 ≤ off ∧ off < 0xA200 + 8 * 37 ∧ off % 8 = 0 then BitVec.ofNat 64 (typicalFares.getD ((off - 0xA200) / 8) 0)
    else if 0xC000 ≤ off ∧ off < 0xC000 + 8 * 1388 ∧ off % 8 = 0 then 0x8000
    else if off = 0xF000 then 100
    else if off = 0xF818 then 0x0856
    else if off = 0xF828 then 3600
    else if off = 0x0008 then BitVec.ofNat 64 (200 * 2 ^ 20)
    else if 0x7000 ≤ off ∧ off < 0x7000 + 8 * 64 ∧ off % 8 = 0 then BitVec.ofNat 64 (128 * 2 ^ 32)
    else 0
  else if blk = dispBlk then
    (if off = 0 then BitVec.ofNat 64 (900 + 50 * 65536) else if off = 8 then BitVec.ofNat 64 (32 * 2 ^ 32) else 0)
  else if blk = hallBlk then (if 0x1000 ≤ off ∧ off < 0xD000 ∧ (off - 0x1000) % 0x800 / 8 ≤ 128 ∧ off % 8 = 0 then 0x00FFFFFF00000000 else 0)
  else 0

/-- Read a register double. -/
def getReg (s : State) (block off : Nat) : Word := (lookup s.regs (regKey block off)).getD (regReset (regKey block off))
/-- Write a register double, keeping reset values out of the list. -/
def putReg (s : State) (block off : Nat) (v : Word) : State :=
  { s with regs := if v = regReset (regKey block off) then removeAt s.regs (regKey block off)
                   else insertAt s.regs (regKey block off) v }
/-- A field [hi:lo] of a register double. -/
def regField (s : State) (block off hi lo : Nat) : Nat := bitsOf (getReg s block off).toNat hi lo
def putField (s : State) (block off hi lo v : Nat) : State :=
  putReg s block off (BitVec.ofNat 64 (setBits (getReg s block off).toNat hi lo v))

/-! Records with a default by key. -/

/-- A core at reset (R127). -/
def coreReset (c : Nat) : Core := match kindOf c with
  | .channel => { lmwsb := 0xC0000, lmrgb := 0xC4000, lmdtb := 0xD0000, stWsb := 0xC0000, stRgb := 0xC4000 }
  | .absent => {}
  | _ => { lmwsb := 0x10000, lmrgb := 0x20000, lmdtb := 0x30000, stWsb := 0x10000, stRgb := 0x20000 }

def core (s : State) (c : Nat) : Core := mget (coreReset c) s.cores c
def putCore (s : State) (c : Nat) (k : Core) : State := { s with cores := mput (coreReset c) s.cores c k }
def updCore (s : State) (c : Nat) (f : Core → Core) : State := putCore s c (f (core s c))

def slotKey (c sl : Nat) : Nat := c * 256 + sl
def slot (s : State) (c sl : Nat) : Slot := mget {} s.slots (slotKey c sl)
def putSlot (s : State) (c sl : Nat) (k : Slot) : State := { s with slots := mput {} s.slots (slotKey c sl) k }
def updSlot (s : State) (c sl : Nat) (f : Slot → Slot) : State := putSlot s c sl (f (slot s c sl))

def streamKey (c : Nat) (x : Bool) : Nat := 2 * c + (if x then 1 else 0)
def stream (s : State) (c : Nat) (x : Bool) : Stream := mget {} s.streams (streamKey c x)
def putStream (s : State) (c : Nat) (x : Bool) (k : Stream) : State := { s with streams := mput {} s.streams (streamKey c x) k }
def updStream (s : State) (c : Nat) (x : Bool) (f : Stream → Stream) : State := putStream s c x (f (stream s c x))

/-- The channel part of channel core `c`. -/
def chan (s : State) (c : Nat) : Channel := mget {} s.channels c
def putChan (s : State) (c : Nat) (k : Channel) : State := { s with channels := mput {} s.channels c k }
def updChan (s : State) (c : Nat) (f : Channel → Channel) : State := putChan s c (f (chan s c))

def quad (s : State) (q : Nat) : Quad := mget {} s.quads q
/-- The core lies in a hole of the logical grid (R16). -/
def inHole (s : State) (c : Nat) : Bool := kindOf c == .compute && (quad s (quadOf c)).hole
def putQuad (s : State) (q : Nat) (k : Quad) : State := { s with quads := mput {} s.quads q k }
def updQuad (s : State) (q : Nat) (f : Quad → Quad) : State := putQuad s q (f (quad s q))

def part (s : State) (p : Nat) : Part := mget {} s.parts p
def putPart (s : State) (p : Nat) (k : Part) : State := { s with parts := mput {} s.parts p k }
def updPart (s : State) (p : Nat) (f : Part → Part) : State := putPart s p (f (part s p))

def purse (s : State) (x : Nat) : Purse := mget {} s.purses x
def putPurse (s : State) (x : Nat) (k : Purse) : State := { s with purses := mput {} s.purses x k }

/-- CUBEID (R401). -/
def cubeId (s : State) : Nat := regField s islandBlk 0x0010 11 0
/-- The cube's identifier is in force (R401). -/
def cubeValid (s : State) : Bool := regField s islandBlk 0x0010 12 12 == 1
/-- The tenant of a partition (R349). -/
def tenant (s : State) (p : Nat) : Nat := regField s islandBlk (0x9000 + 8 * p) 8 1

/-- Slots a core has (R129). -/
def slotCount (s : State) (c : Nat) : Nat := ((core s c).lmrgb - (core s c).lmwsb) / 256

/-- Regions of a local SRAM (R126). -/
inductive Region where | code | workspace | ring | data | beyond
deriving DecidableEq, Repr
def regionOf (s : State) (c off : Nat) : Region :=
  if sramSize c ≤ off then .beyond
  else if off < (core s c).lmwsb then .code
  else if off < (core s c).lmrgb then .workspace
  else if off < (core s c).lmdtb then .ring
  else .data

/-- Whether the granules of physical address `pa` have full bits (R278). -/
def hasFull (s : State) (pa : Nat) : Bool := match homeOf pa with
  | .core c off => kindOf c != .steward && (regionOf s c off == .ring || regionOf s c off == .data)
  | _ => false

end Sys2Proof.Machine
end

