-- ==== Sys2Proof/Machine/Ops.lean ====
section
/-! DEFINITION. The workspace (R70 to R73), charging (R358 to R363), the run queue, taking a trap (R376 to R379), the
return from one, parking (R74) and the issue of an instruction (R52, R54, R55, R59). -/

namespace Sys2Proof.Machine

/-! ## The workspace: its home is local SRAM (R70) -/

/-- Physical address of byte 0 of the workspace of slot `sl` of core `c`. -/
def wsPa (s : State) (c sl : Nat) : Nat := sramPa c ((core s c).lmwsb + 256 * sl)

/-- `n` bytes at workspace offset `o`. -/
def wsRd (s : State) (c sl o n : Nat) : Nat := rdN s.mem (wsPa s c sl + o) n
def wsWr (s : State) (c sl o n v : Nat) : State := { s with mem := wrN s.mem (wsPa s c sl + o) n v }

def TState.code : TState → Nat
  | .free => 0 | .ready => 1 | .running => 2 | .parked => 3 | .migrating => 4 | .stranded => 5 | .halted => 6
  | .trapped => 7 | .ended => 8

/-- STATUS.STATE (R72); the reserved codes are never written and read as FREE. -/
def TState.ofCode : Nat → TState
  | 1 => .ready | 2 => .running | 3 => .parked | 4 => .migrating | 5 => .stranded | 6 => .halted | 7 => .trapped
  | 8 => .ended | _ => .free

def status (s : State) (c sl : Nat) : Nat := wsRd s c sl 0xFE 2
/-- The state of a slot; one in which no traveller has been created since reset, a map commit or a scrub is FREE, whatever its
bytes hold (R129). -/
def stateOf (s : State) (c sl : Nat) : TState := if (slot s c sl).used then TState.ofCode (status s c sl % 16) else .free
/-- Set STATE and REASON, keeping the other STATUS bits. -/
def setState (s : State) (c sl : Nat) (st : TState) (reason : Nat := 0) : State :=
  wsWr s c sl 0xFE 2 (status s c sl / 256 * 256 + reason % 16 * 16 + st.code)
def statusBit (s : State) (c sl k : Nat) : Bool := status s c sl / 2 ^ k % 2 == 1
def setStatusBit (s : State) (c sl k : Nat) (b : Bool) : State :=
  wsWr s c sl 0xFE 2 (setBits (status s c sl) k k (if b then 1 else 0))
/-- REASON (R72). -/
def reasonOf (s : State) (c sl : Nat) : Nat := status s c sl / 16 % 16

def tidOf (s : State) (c sl : Nat) : Nat := wsRd s c sl 0xF8 4
def ecxOf (s : State) (c sl : Nat) : Nat := wsRd s c sl 0xFC 1
def holdOf (s : State) (c sl : Nat) : Nat := wsRd s c sl 0xFD 1
def frmOf (s : State) (c sl : Nat) : Nat := wsRd s c sl 0xF7 1
def flagsOf (s : State) (c sl : Nat) : Nat := wsRd s c sl 0xF6 1
def predOf (s : State) (c sl : Nat) : BitVec 256 := BitVec.ofNat 256 (wsRd s c sl 200 32)
def setPred (s : State) (c sl : Nat) (p : BitVec 256) : State := wsWr s c sl 200 32 p.toNat
/-- OR flags into FLAGS (R34, R47). -/
def orFlags (s : State) (c sl f : Nat) : State := if f = 0 then s else wsWr s c sl 0xF6 1 (flagsOf s c sl ||| f)
def savedPc (s : State) (c sl : Nat) : Word := BitVec.ofNat 64 (wsRd s c sl 192 8)
def savePc (s : State) (c sl : Nat) (pc : Word) : State := wsWr s c sl 192 8 pc.toNat

/-- The value a register field names (R50), from the workspace. -/
def regValue (s : State) (c sl v : Nat) : Word :=
  if v < 24 then BitVec.ofNat 64 (wsRd s c sl (8 * v) 8)
  else if v = 25 then BitVec.ofNat 64 (wsRd s c sl 0xE8 4)
  else if v = 26 then BitVec.ofNat 64 (wsRd s c sl 0xF0 2)
  else if v = 27 then BitVec.ofNat 64 (wsRd s c sl 0xF2 2)
  else if v = 28 then BitVec.ofNat 64 (wsRd s c sl 0xF4 2)
  else if v = 29 then BitVec.ofNat 64 (wsRd s c sl 0xEC 4)
  else if v = 30 then BitVec.ofNat 64 (aliasBase c + (core s c).lmwsb + 256 * sl)
  else if v = 31 then BitVec.ofNat 64 (tidOf s c sl)
  else 0

/-- The PMASK bit of a register field (R73); only g0 to g23 have one. -/
def isPoisoned (s : State) (c sl v : Nat) : Bool := v < 24 && (slot s c sl).hdr.pmask.getLsbD v

def setPoison (s : State) (c sl v : Nat) (b : Bool) : State :=
  let bit : BitVec 24 := BitVec.ofNat 24 (2 ^ v)
  updSlot s c sl fun k =>
    { k with hdr := { k.hdr with pmask := if b then k.hdr.pmask ||| bit else k.hdr.pmask &&& ~~~bit } }

/-- Travellers created on the cube: (core, slot), ascending. -/
def liveSlots (s : State) : List (Nat × Nat) :=
  s.slots.filterMap fun (k, v) => if v.used then some (k / 256, k % 256) else none

/-- Slots of core `c` in which a traveller has been created and has not ended. -/
def slotsOf (s : State) (c : Nat) : List Nat :=
  (liveSlots s).filterMap fun (c', sl) =>
    if c' = c ∧ stateOf s c sl ≠ .free ∧ stateOf s c sl ≠ .ended then some sl else none

/-- The slot R74 chooses for a new traveller: the lowest FREE, else the lowest ENDED; slot 0 of a channel core
belongs to the X-stream (R248). -/
def freeSlot (s : State) (c : Nat) : Option Nat :=
  let ks := (List.range (slotCount s c)).drop (if kindOf c = .channel then 1 else 0)
  match ks.find? (fun k => stateOf s c k = .free) with
  | some k => some k
  | none => ks.find? (fun k => stateOf s c k = .ended)

/-! ## Meters and purses -/

/-- The meter of a core's instructions (R358); a steward's is the first quad of its cluster (assumption 13). -/
def meterOf (c : Nat) : Nat := match kindOf c with
  | .compute => quadOf c
  | .channel => 1280 + (c - 6144)
  | .steward => (c - 6400) / 8 * 4 * 32 + (c - 6400) % 8 * 4
  | .absent => 0

/-- The fare of class `k` at meter `m` (R360); a number above 36 names no class and costs nothing. -/
def fareOf (s : State) (k m : Nat) : Nat :=
  if 36 < k then 0 else regField s islandBlk (0xA200 + 8 * k) 31 0 * regField s islandBlk (0xC000 + 8 * m) 15 0 / 32768

/-- After an operation on a purse that can only take from it: the context strands at or below zero (R363). -/
def strandCheck (s : State) (x : Nat) : State :=
  if (purse s x).purse ≤ 0 ∧ (purse s x).str = false then
    { putPurse s x { purse s x with str := true } with strandNotice := s.strandNotice ++ [x] }
  else s

/-- A flush of `u` units for context `x` (R363). -/
def flushPurse (s : State) (x u : Nat) : State :=
  let e := purse s x
  if x = 0 then putPurse s 0 { e with spent := e.spent + BitVec.ofNat 64 (u / 16000000) }
  else
    let t := e.frac + u
    strandCheck (putPurse s x { e with purse := e.purse - (t / 16000000 : Nat),
                                       spent := e.spent + BitVec.ofNat 64 (t / 16000000), frac := t % 16000000 }) x

/-- The context a charge goes to (R362, R365, R366): context 0 when `x` is not enabled, or when it is stranded and
the charge is one that a stranded context does not bear. -/
def chargeTo (s : State) (x : Nat) (shared : Bool) : Nat :=
  if x = 0 then 0 else if (purse s x).en = false then 0 else if shared && (purse s x).str then 0 else x

/-- Pages of partition `p` resident in channel `ch` (R365). -/
def respgOf (s : State) (ch p : Nat) : Nat :=
  let v := (getReg s islandBlk (0xA400 + 96 * ch + 8 * (p / 2))).toNat
  if p % 2 = 0 then bitsOf v 16 0 else bitsOf v 48 32

/-- The number under which a channel's meter accumulates refresh, beside its contexts. -/
def refreshCtx : Nat := 256

/-- The refresh fares of channel `ch` are split among the tenants of its partitions; context 0 bears the rest (R365). -/
def splitRefresh (s : State) (ch e : Nat) : State :=
  let r := (List.range 24).foldl (fun (a : State × Nat) p =>
    let u := e * respgOf s ch p / 65536
    if u = 0 then a else (flushPurse a.1 (chargeTo a.1 (tenant s p) true) u, a.2 - u)) (s, e)
  flushPurse r.1 0 r.2

/-- One accumulation of a meter goes to the purse table (R358, R365). -/
def flushMeter (s : State) (m x u : Nat) : State := if x = refreshCtx then splitRefresh s (m - 1280) u else flushPurse s x u

/-- The flush after those of an earlier cycle and those of one cycle with a meter id no higher (R364). -/
def insertFlush (f : Flush) : List Flush → List Flush
  | [] => [f]
  | g :: gs => if g.cycle < f.cycle ∨ (g.cycle = f.cycle ∧ g.meter ≤ f.meter) then g :: insertFlush f gs else f :: g :: gs

/-- A meter flushes `u` units of context `x`: the purse table takes them after the additions of the cycle (R364). -/
def queueFlush (s : State) (m x u : Nat) : State :=
  { s with flushes := insertFlush { meter := m, ctx := x, units := u, cycle := s.cycle } s.flushes }

/-- The purse table takes the flushes that came before cycle `t`, in order (R364). -/
def takeFlushes (s : State) (t : Nat) : State :=
  let l := s.flushes
  (l.filter fun f => decide (f.cycle < t)).foldl (fun s f => flushMeter s f.meter f.ctx f.units)
    { s with flushes := l.filter fun f => !decide (f.cycle < t) }

/-- Accumulate `u` units of context `x` at meter `m`, flushing by R358. Refresh takes none of the 8 places of contexts, and is flushed
only with the meter (R365). -/
def meterAdd (s : State) (m x u : Nat) : State :=
  let s := { s with metered := mput 0 s.metered m (mget 0 s.metered m + u) }
  let l : List (Nat × Nat) := mget [] s.meters m
  let had := (l.find? (fun e => e.1 = x)).map (·.2)
  let rest := l.filter (fun e => e.1 ≠ x)
  let real := rest.filter fun e => e.1 ≠ refreshCtx
  let evict := had.isNone && x != refreshCtx && decide (8 ≤ real.length)
  let s1 := match evict, real.getLast? with
    | true, some e => queueFlush s m e.1 e.2
    | _, _ => s
  let rest := if evict then rest.filter fun e => some e ≠ real.getLast? else rest
  let t := had.getD 0 + u
  if 8000000 ≤ t ∧ x ≠ refreshCtx then { queueFlush s1 m x t with meters := mput [] s1.meters m rest }
  else { s1 with meters := mput [] s1.meters m ((x, t) :: rest) }

/-- Charge `n` units of fare class `k` at meter `m` to context `x` (R359, R360). -/
def charge (s : State) (m k n x : Nat) (shared : Bool := false) : State :=
  meterAdd s m (chargeTo s x shared) (fareOf s k m * n)

/-- Charge for a traveller at meter `m`: the meter, and the FARE field of its header (R359). -/
def chargeTravAt (s : State) (c sl m k n : Nat) : State :=
  updSlot (charge s m k n (ecxOf s c sl) ((slot s c sl).lvl != 0)) c sl
    fun v => { v with hdr := { v.hdr with fare := v.hdr.fare + BitVec.ofNat 64 (fareOf s k m * n) } }

/-- The meter of the hall bank that hall offset or line address `h` lies in (R277, R358). -/
def hallMeter (h : Nat) : Nat := 1344 + h / 256 % 768 / 32

/-- Charge for a traveller at the meter of its core. -/
def chargeTrav (s : State) (c sl k n : Nat) : State := chargeTravAt s c sl (meterOf c) k n

/-! ## Run queue (R76, R155) -/

/-- Append a slot's pointer to the tail of its class. -/
def enqueue (s : State) (c sl : Nat) : State :=
  updCore s c fun k => if statusBit s c sl 9 then { k with urgQ := k.urgQ ++ [(sl, 0)] } else { k with normQ := k.normQ ++ [(sl, 0)] }

/-- READY at the tail of its class (R74). -/
def makeReady (s : State) (c sl : Nat) : State := enqueue (setState s c sl .ready) c sl

/-- The stream a slot of a core issues on: the X traveller lies in slot 0 (R252). -/
def xOf (s : State) (c sl : Nat) : Bool := kindOf c == .channel && (stream s c true).run == some sl

/-- A pending entry that holds flags (R47). -/
def PendWrite.isFlags (w : PendWrite) : Bool := decide (32 ≤ w.reg)

/-- The workspace bytes that a pending entry writes, from the workspace's start (R55, R70). -/
def PendWrite.place (w : PendWrite) : Nat × Nat := if w.isFlags then (0xF6, 1) else (8 * w.reg, 8)

/-- The pending flags of stream (c, x) that `f` takes are set in FLAGS of its traveller in slot `sl` (R47). -/
def settleFlags (s : State) (c : Nat) (x : Bool) (sl : Nat) (f : PendWrite → Bool) : State :=
  let k := stream s c x
  let due (w : PendWrite) : Bool := w.isFlags && f w
  match k.pend.filter due with
  | [] => s
  | ws => ws.foldl (fun s w => orFlags s c sl (w.reg - 32)) (putStream s c x { k with pend := k.pend.filter fun w => !due w })

/-- The traveller of stream (c, x) is switched out: every fixed-latency write finishes, W is discharged, the fetch
buffer is emptied and the pc saved (R54, R135). -/
def switchOut (s : State) (c : Nat) (x : Bool) (pc : Word) : State :=
  match (stream s c x).run with
  | none => s
  | some sl => updStream (savePc (settleFlags s c x sl fun _ => true) c sl pc) c x fun k => { k with run := none, pend := [], fbuf := [], nextIssue := 0 }

/-! ## Escorted pairs (R386 to R388) -/

/-- The other copy of an escorted traveller: it carries the same tid. -/
def partnerOf (s : State) (c sl : Nat) : Option (Nat × Nat) :=
  if (slot s c sl).pair then
    (liveSlots s).find? fun e => e ≠ (c, sl) && tidOf s e.1 e.2 == tidOf s c sl && (slot s e.1 e.2).pair
      && stateOf s e.1 e.2 ≠ .free && stateOf s e.1 e.2 ≠ .ended
  else none

/-- Core `c` is a twin core: a twin, or a task that a twin created, lives there (R386). -/
def isTwinCore (s : State) (c : Nat) : Bool := kindOf c == .compute && (slotsOf s c).any fun sl => (slot s c sl).twin
/-- Core `c` is a primary core. -/
def isPrimaryCore (s : State) (c : Nat) : Bool :=
  kindOf c == .compute && (slotsOf s c).any fun sl => (slot s c sl).pair && !(slot s c sl).twin
/-- The core as which core `c` addresses: its primary's for a twin core (assumption 57). -/
def addressCore (s : State) (c : Nat) : Nat := if isTwinCore s c then twinCore c else c

/-- Where a write of another core to `pa` is applied as well: the twin core's window, when `pa` lies in a primary core's (R387). -/
def mirrorOf (s : State) (pa : Nat) : Option Nat := match homeOf pa with
  | .core w off => if isPrimaryCore s w then some (sramPa (twinCore w) off) else none
  | _ => none

/-- One byte of CRC-64 with the ECMA-182 polynomial, most significant bit first. -/
def crcByte (r : BitVec 64) (b : Byte) : BitVec 64 :=
  (List.range 8).foldl (fun r _ => if r.getLsbD 63 then (r <<< 1) ^^^ 0x42F0E1EBA9EA3693 else r <<< 1) (r ^^^ (b.setWidth 64 <<< 56))
/-- The hash of an escorted message (R387). -/
def escHash (addr : Word) (kind ecx tid : Nat) (payload : List Byte) : Nat :=
  ((leBytes 8 addr.toNat ++ leBytes 1 kind ++ leBytes 4 payload.length ++ leBytes 1 ecx ++ leBytes 4 tid ++ payload).foldl crcByte 0).toNat

/-- A message of copy (c, sl) travels to the common router (R387 steps 1 and 2); one that is on its way already stays. -/
def escSend (s : State) (c sl kind : Nat) (addr : Word) (payload : List Byte) (what : EscWhat) : State :=
  let m : EscMsg := { core := c, slot := sl, tid := tidOf s c sl, hash := escHash addr kind (ecxOf s c sl) (tidOf s c sl) payload,
                      addr := addr, what := what }
  if s.net.escort.any (fun q => q.core == c && q.slot == sl && q.what == what) then s
  else { s with net := { s.net with escort := s.net.escort ++ [m] } }

/-- Messages of a copy that ends or starts again are dropped. -/
def escPurge (s : State) (c sl : Nat) : State :=
  { s with net := { s.net with escort := s.net.escort.filter fun q => !(q.core == c && q.slot == sl) } }

/-- What core `c` waits for lies beyond the core (R387). -/
def Cond.remote (c : Nat) : Cond → Bool
  | .load pa _ _ _ | .granule pa _ _ _ | .grant pa _ | .release pa _ => (match homeOf pa with | .core w _ => w != c | _ => true)
  | .deq _ _ _ | .queueStat _ _ | .cdone _ _ _ | .cchk _ _ | .lantern _ _ => true
  | _ => false

/-! ## Replies -/

/-- Fill the reply of a traveller that waits and has none. -/
def fillReply (s : State) (c sl : Nat) (r : Reply) : State :=
  match (slot s c sl).wait with
  | some w => if w.reply.isNone then updSlot s c sl fun k => { k with wait := some { w with reply := some r }, passed := false } else s
  | none => s

/-- The reply to a traveller; the reply to an access of an escorted pair beyond its core goes to both copies (R387). -/
def setReply (s : State) (c sl : Nat) (r : Reply) : State :=
  match (slot s c sl).wait, partnerOf s c sl with
  | some w, some (d, k) =>
    let far (c : Nat) (v : Option Wait) : Bool := (v.map fun v => v.cond.remote c).getD false
    if w.cond.remote c && far d (slot s d k).wait then fillReply (fillReply s c sl r) d k r else fillReply s c sl r
  | _, _ => fillReply s c sl r

/-- The wait of a parked traveller whose reply has come is over: READY (R74). -/
def readyIfReplied (s : State) (c sl : Nat) : State :=
  match (slot s c sl).wait with
  | some w => if w.reply.isSome ∧ stateOf s c sl = .parked then makeReady s c sl else s
  | none => s

/-- An operation that OUTS counts has been acknowledged (R307). -/
def ackOuts (s : State) (c sl : Nat) : State := updSlot s c sl fun k => { k with outs := k.outs - 1 }

/-! ## Traps (R376 to R379) -/

def Cause.code : Cause → Nat
  | .illegal => 1 | .priv => 2 | .stallshort => 3 | .align => 4 | .xlate => 5 | .perm => 6 | .poison => 7
  | .sealed => 8 | .accheld => 9 | .nomigrate => 0xA | .ring => 0xB | .barrier => 0xC | .engine => 0xD
  | .brk => 0xE | .swtrap => 0xF | .watchdog => 0x10 | .neterr => 0x11 | .cancel => 0x12 | .escort => 0x13
  | .bounds => 0x14 | .mcheck => 0xFF

/-- Compute cores assigned to partition `p`, ascending. -/
def coresOfPart (s : State) (p : Nat) : List Nat :=
  s.cores.filterMap fun (c, k) => if kindOf c = .compute ∧ k.asg ∧ k.part = p then some c else none

/-- The steward that a trap message goes to (R379). -/
def trapSteward (s : State) (c p : Nat) (x : Bool) : Nat :=
  let last := ((chan s c).goSteward).getD 6400
  match kindOf c with
  | .compute => stewardOf (clusterOf c)
  | .channel =>
    if x then last
    else match (coresOfPart s p).map clusterOf with
      | [] => last
      | k :: ks => stewardOf (ks.foldl min k)
  | _ => c

/-- The message of a traveller's trap (R378). -/
def trapMsgOf (s : State) (c sl : Nat) (t : TrapInfo) (pc : Word) : TrapMsg :=
  { info := t, task := none, esc := statusBit s c sl 10, score := (core s c).isSealed, part := (slot s c sl).hdr.part, core := c, slot := sl,
    tid := tidOf s c sl, lslot := (slot s c sl).hdr.lslot, trpc := pc, cyc := s.cycle }

/-- Send a trap message to a steward. -/
def sendMsg (s : State) (st : Nat) (m : TrapMsg) : State := { s with msgFlight := s.msgFlight ++ [(st, m)] }

/-- Take a trap at stream (c, x), slot `sl`, pc `pc`: the traveller becomes TRAPPED with its pc at the instruction,
and one message goes to its steward. Workspace, header, banks, reservation and records stay (R377). -/
def takeTrap (s : State) (c : Nat) (x : Bool) (sl : Nat) (pc : Word) (t : TrapInfo) : State :=
  let s := switchOut s c x pc
  let s := updSlot (setState s c sl .trapped) c sl fun k => { k with wait := none, trap := some t }
  sendMsg s (trapSteward s c (slot s c sl).hdr.part x) (trapMsgOf s c sl t pc)

/-- Resume a TRAPPED traveller at `pc` (R373, ERET with ACT = 0): READY at the tail of its class. -/
def resumeTrapped (s : State) (c sl : Nat) (pc : Word) : State :=
  makeReady (updSlot (savePc s c sl pc) c sl fun k => { k with trap := none }) c sl

/-! ## Issue -/

/-- Where and when an instruction issues. -/
structure Ctx where
  c : Nat
  x : Bool
  sl : Nat
  pc : Word
  /-- the issue cycle (R52) -/
  t : Nat
  reply : Option Reply
deriving DecidableEq, Repr

/-- The RUNNING traveller of the chosen stream, if there is one. -/
def ctxOf (s : State) : Option Ctx :=
  let c := s.cur / 2
  let x := s.cur % 2 == 1
  let k := stream s c x
  match k.run with
  | none => none
  | some sl => some { c := c, x := x, sl := sl, pc := k.pc, t := max s.cycle k.nextIssue,
                      reply := ((slot s c sl).wait).bind (·.reply) }

/-- What the body of an instruction answers. -/
inductive Act where
  /-- it retires and the next word follows -/
  | next (s : State)
  /-- it retires and control goes to `pc` (R52, R135) -/
  | jump (s : State) (pc : Word)
  /-- a trap at this instruction; the state is the one it traps from (R377) -/
  | trap (t : TrapInfo)
  /-- a trap after reads that found errors: the state holds what they found, and nothing else of the instruction (R279, R377) -/
  | trapIn (s : State) (t : TrapInfo)
  /-- it parks with a reason code of R72 -/
  | park (reason : Nat) (cond : Cond) (s : State)
  /-- issue is held in this cycle (R116, R305); the state is after one step of what it waits for. It parks instead while that is
  DRAM and the memory domain is not ON (R23) -/
  | hold (s : State)
  /-- the traveller left the RUNNING state by the instruction's own effect -/
  | leave (s : State)

/-- What the issue of an instruction needs to know before its body (R59). -/
structure Issue where
  /-- the instruction word -/
  word : Nat
  /-- the encoding, the pairing of operation and type and the destination are legal (R50, R56, R57) -/
  legal : Bool := true
  /-- it rounds or converts under FRM (R35) -/
  rounds : Bool := false
  /-- the privilege level it needs (R353) -/
  level : Nat := 0
  /-- register fields it reads, in the order they are checked -/
  reads : List Nat := []
  /-- those of them whose poison traps (R87, R99, R301) -/
  sync : List Nat := []
  /-- fare class (R360) -/
  fare : Nat := 0

/-- The stream accepts the word's major (R58) and its TASK function: the X-stream refuses five (R250), and SPAWN, PUSHT
and POPT need a deque (R86). -/
def accepted (c : Nat) (x : Bool) (word : Nat) : Bool :=
  let m := word / 2 ^ 23 % 64
  let deque := m == 0x2A && (word % 256 == 3 || word % 256 == 5 || word % 256 == 6)
  match kindOf c with
  | .compute => m != 0x39 && m != 0x3A
  | .channel =>
    if x then
      !(m == 0x0E || m == 0x0F || (0x30 ≤ m && m ≤ 0x39) || m == 0x1D || m == 0x3B || m == 0x3C
        || (m == 0x2A && 2 ≤ word % 256 && word % 256 ≤ 6))
    else !(deque || m == 0x0E || m == 0x0F || (0x30 ≤ m && m ≤ 0x38) || m == 0x3A)
  | .steward => !(deque || m == 0x0E || m == 0x0F || (0x30 ≤ m && m ≤ 0x3A))
  | .absent => false

/-- FRM holds an illegal value (R35). -/
def frmIllegal (f : Nat) : Bool := decide (6 ≤ f % 8) || decide (16 ≤ f)

/-- Checking is in force (R356). -/
def checking (s : State) (c sl : Nat) : Bool :=
  ((slot s c sl).sbo).getD (regField s islandBlk (0x9000 + 8 * (slot s c sl).hdr.part) 9 9 == 1)

/-- The oldest pending write of register `r` that is not readable at cycle `t` (R52). -/
def pendOf (k : Stream) (r t : Nat) : Option PendWrite := k.pend.find? fun w => w.reg == r && decide (t < w.ready)

/-- The value register field `r` yields to an instruction issued in the context (R50, R55). -/
def Ctx.rd (x : Ctx) (s : State) (r : Nat) : Word :=
  match pendOf (stream s x.c x.x) r x.t with
  | some w => w.old
  | none => regValue s x.c x.sl r

/-- Whether that value is poisoned. -/
def Ctx.poisoned (x : Ctx) (s : State) (r : Nat) : Bool :=
  match pendOf (stream s x.c x.x) r x.t with
  | some w => w.oldPoison
  | none => isPoisoned s x.c x.sl r

/-- TADDR of a poisoned register (R376). -/
def poisonReg (r : Nat) : TrapInfo := { cause := .poison, addr := BitVec.ofNat 64 (2 ^ 63 + r) }

/-- The trap of R59 steps 1 to 4, if any. -/
def issueTrap (i : Issue) (x : Ctx) (s : State) : Option TrapInfo :=
  if !i.legal || !accepted x.c x.x i.word || (i.rounds && frmIllegal (frmOf s x.c x.sl)) then
    some { cause := .illegal, addr := BitVec.ofNat 64 i.word }
  else if (slot s x.c x.sl).lvl < i.level then some { cause := .priv, addr := BitVec.ofNat 64 i.word }
  else match (if checking s x.c x.sl then i.reads.find? (fun r => (pendOf (stream s x.c x.x) r x.t).isSome) else none) with
    | some r => some { cause := .stallshort, addr := BitVec.ofNat 64 r }
    | none => (i.sync.find? (fun r => x.poisoned s r)).map poisonReg

/-- Write register field `r` (R50, R52 to R55). Latency 0 is an interlocked result. g0 to g23 take the value and the
poison bit; a write to zr is discarded. -/
def Ctx.wr (x : Ctx) (s : State) (r : Nat) (v : Word) (lat : Nat := 0) (poisoned : Bool := false) : State :=
  if r < 24 then
    let k := stream s x.c x.x
    let older := (k.pend.filter (fun w => w.reg == r)).map (·.ready)
    let ready := older.foldl max (x.t + lat)
    let pend := if lat = 0 then k.pend.filter (fun w => w.reg != r)
      else if x.t + 1 < ready then
        k.pend ++ [{ reg := r, old := regValue s x.c x.sl r, oldPoison := isPoisoned s x.c x.sl r, ready := ready }]
      else k.pend
    setPoison (wsWr (putStream s x.c x.x { k with pend := pend }) x.c x.sl (8 * r) 8 v.toNat) x.c x.sl r poisoned
  else s

/-- A wait after which the instruction starts again. -/
def Cond.restarts : Cond → Bool
  | .walk _ | .settled | .port | .served _ | .release _ _ | .engineRoom _ | .performed | .copies | .hostDone | .pathDone _ | .allDone | .outsZero => true
  | .vecDone | .matDone | .bankDone | .courierDone _ | .banks _ => true
  | .aqData | .aqRoom | .xqData | .xqRoom | .message => true
  | _ => false

/-- The fare of an instruction is charged when it first issues (R359): not again when a parked one completes, and not
when it parks only to start again. -/
def chargeIssue (k : Nat) (x : Ctx) (s : State) : State :=
  match x.reply with
  | none | some .again => chargeTrav s x.c x.sl k 1
  | _ => s

/-- A traveller leaves the RUNNING state by its own instruction, which retires: its fare, its saved pc. -/
def retireOut (x : Ctx) (s : State) (pc : Word) (fare : Nat := 0) : State :=
  let s := updSlot (chargeIssue fare x s) x.c x.sl fun k => { k with wait := none, noMatch := false }
  switchOut s x.c x.x pc

/-- The instruction retires: a wait and a suppressed match are over, `pc` and the next issue cycle are set (R52). After a wait nothing
of W is left: the next instruction issues at once (R54). -/
def retire (i : Issue) (x : Ctx) (s : State) (pc : Word) (taken : Bool) : State :=
  let s := updSlot (chargeIssue i.fare x s) x.c x.sl fun k => { k with wait := none, noMatch := false }
  updStream s x.c x.x fun k =>
    { k with pc := pc, nextIssue := if x.reply.isSome then x.t else max (x.t + 1 + i.word / 2 ^ 29 % 8) (if taken then x.t + 2 else 0),
             pend := k.pend.filter (fun w => w.isFlags || decide (x.t + 1 < w.ready)),
             fbuf := if taken then [] else k.fbuf.drop 1 }

/-- Park the traveller (R74, R54): the core takes its next traveller at its next step. -/
def doPark (i : Issue) (x : Ctx) (s : State) (reason : Nat) (cond : Cond) : State :=
  let s := switchOut (if cond.restarts then s else chargeIssue i.fare x s) x.c x.x x.pc
  updSlot (setState s x.c x.sl .parked reason) x.c x.sl fun k => { k with wait := some { word := i.word, cond := cond } }

/-- The DRAM place that the oldest entry of the stream's store buffer waits for while the memory domain is not ON (R23). -/
def dramHeld (s : State) (x : Ctx) : Option Nat :=
  if s.memDom = .on then none
  else match (stream s x.c x.x).sb with
    | { pa := some pa, .. } :: _ => (match homeOf pa with | .dram _ _ => some pa | _ => none)
    | _ => none

/-- The same state in cycle `t`. -/
def atCycle (s : State) (t : Nat) : State := { s with cycle := t }

/-- The flags of every stream that are due by now are in FLAGS (R47, R100). -/
def settleDue (s : State) : State :=
  s.streams.foldl (fun s e => match e.2.run with
    | some sl => settleFlags s (e.1 / 2) (e.1 % 2 == 1) sl fun w => decide (w.ready ≤ s.cycle)
    | none => s) s

/-- The state in which an instruction acts: its cycle is the issue cycle, and the flags that are due are in FLAGS (R47, R52). -/
def now (s : State) (x : Ctx) : State := settleFlags (atCycle s x.t) x.c x.x x.sl fun w => decide (w.ready ≤ x.t)

/-- Issue an instruction: the checks of R59 in order, then its body. A parked instruction that runs again skips the
checks and sees its reply; a reply that is a trap is taken here. -/
def issue (i : Issue) (s : State) (body : Ctx → State → Act) : Host.Outcome State Fault Refusal :=
  match ctxOf s with
  | none => .fault .noTraveller
  | some x =>
    let s := now s x
    match x.reply, (if x.reply.isNone then issueTrap i x s else none) with
    | some (.trap t), _ => .next (takeTrap s x.c x.x x.sl x.pc t)
    | _, some t => .next (takeTrap s x.c x.x x.sl x.pc t)
    | _, none =>
      match body x s with
      | .next s' => .next (retire i x s' (x.pc + 4) false)
      | .jump s' pc => .next (retire i x s' pc true)
      | .trap t => .next (takeTrap s x.c x.x x.sl x.pc t)
      | .trapIn s' t => .next (takeTrap s' x.c x.x x.sl x.pc t)
      | .park reason cond s' => .next (doPark i x s' reason cond)
      | .hold s' => (match dramHeld s' x with
        | some pa => .next (doPark i x s' 6 (.served pa))
        | none => .next { updStream s' x.c x.x fun k => { k with nextIssue := x.t + 1 } with stalled := true })
      | .leave s' => .next s'

/-- The value a completed wait gave. -/
def Ctx.got (x : Ctx) : Option (Word × Bool) := match x.reply with
  | some (.value v p) => some (v, p)
  | _ => none

end Sys2Proof.Machine
end

