-- ==== Sys2Proof/Machine/Operands.lean ====
section
/-! DEFINITION. The operand forms (R49, R51): the word of an instruction from its fields, immediates, effective addresses
and targets; register results with the poison rule of R99. -/

namespace Sys2Proof.Machine

/-- The word of a 3R form: the constant bits and the fields W, rd, ra, rb (R48, R49). -/
def word3 (m : Nat) (w : BitVec 3) (d a b : BitVec 5 := 0) : Nat :=
  m + w.toNat * 2 ^ 29 + d.toNat * 2 ^ 18 + a.toNat * 2 ^ 13 + b.toNat * 2 ^ 8
/-- The word of an RI, SI or BR form. -/
def wordI (m : Nat) (w : BitVec 3) (d a : BitVec 5) (i : BitVec 13) : Nat :=
  m + w.toNat * 2 ^ 29 + d.toNat * 2 ^ 18 + a.toNat * 2 ^ 13 + i.toNat

/-- A signed immediate as a register value (R49). -/
def simm {n : Nat} (i : BitVec n) : Word := i.signExtend 64
/-- The immediate of a UI form (R49, R106). -/
def uimm (i : BitVec 18) : Word := i.signExtend 64 <<< 14
/-- The target of a BR, JF or PB form: pc + 4 x offset (R49). -/
def target {n : Nat} (pc : Word) (o : BitVec n) : Word := pc + (o.signExtend 64 <<< 2)

/-- The field value of a register operand. -/
abbrev rn (r : BitVec 5) : Nat := r.toNat

/-- Any of the register fields is poisoned (R99). -/
def Ctx.anyPoison (x : Ctx) (s : State) (rs : List Nat) : Bool := rs.any (fun r => x.poisoned s r)

/-- A register result computed from the register fields `rs`: 0 and poison when one of them is poisoned (R99). -/
def Ctx.wrFrom (x : Ctx) (s : State) (rs : List Nat) (d : BitVec 5) (v : Word) (lat : Nat) : State :=
  if x.anyPoison s rs then x.wr s (rn d) 0 lat true else x.wr s (rn d) v lat

/-- A 64-bit word from bits by position. -/
def ofBits (f : Nat → Bool) : Word := BitVec.ofNat 64 ((List.range 64).foldl (fun n i => if f i then n + 2 ^ i else n) 0)

/-- The low 32 bits sign-extended (R98). -/
def sx32 (v : Word) : Word := (v.truncate 32 : BitVec 32).signExtend 64
/-- 1 or 0. -/
def flag01 (b : Bool) : Word := if b then 1 else 0

end Sys2Proof.Machine
end

