-- ==== Sys2Proof/Machine/Alu.lean ====
section
/-! DEFINITION. ALU, register-immediate, shift and high-immediate instructions (R101, R104 to R106). -/

namespace Sys2Proof.Machine

/-- An integer instruction of two register operands (R98, R99). -/
def int3 (m : Nat) (w : BitVec 3) (d a b : BitVec 5) (s : State) (lat fare : Nat) (f : Word → Word → Word) : Result :=
  issue { word := word3 m w d a b, legal := destOk d, reads := [rn a, rn b], fare := fare } s fun x s =>
    .next (x.wrFrom s [rn a, rn b] d (f (x.rd s (rn a)) (x.rd s (rn b))) lat)

/-- An integer instruction of one register operand. -/
def int2 (m : Nat) (w : BitVec 3) (d a : BitVec 5) (s : State) (f : Word → Word) : Result :=
  issue { word := word3 m w d a, legal := destOk d, reads := [rn a] } s fun x s =>
    .next (x.wrFrom s [rn a] d (f (x.rd s (rn a))) 1)

/-- A register-immediate instruction (R104). -/
def intI (m : Nat) (w : BitVec 3) (d a : BitVec 5) (i : BitVec 13) (s : State) (f : Word → Word) : Result :=
  issue { word := wordI m w d a i, legal := destOk d, reads := [rn a] } s fun x s =>
    .next (x.wrFrom s [rn a] d (f (x.rd s (rn a))) 1)

def smin (a b : Word) : Word := if b.slt a then b else a
def smax (a b : Word) : Word := if a.slt b then b else a
def umin (a b : Word) : Word := if b.ult a then b else a
def umax (a b : Word) : Word := if a.ult b then b else a
/-- The amount of a 64-bit shift or rotate (R101). -/
def sh6 (b : Word) : Nat := b.toNat % 64
def sh5 (b : Word) : Nat := b.toNat % 32
def sllW (a : Word) (n : Nat) : Word := a <<< n
def srlW (a : Word) (n : Nat) : Word := a >>> n
def sraW (a : Word) (n : Nat) : Word := a.sshiftRight n
def rorW (a : Word) (n : Nat) : Word := a >>> n ||| a <<< (64 - n)
def low32 (a : Word) : BitVec 32 := a.truncate 32

/-- Leading zero bits below bit `n`. -/
def clzFrom (a : Word) : Nat → Nat
  | 0 => 0
  | n + 1 => if a.getLsbD n then 0 else 1 + clzFrom a n
/-- Trailing zero bits from bit `i`, `n` bits left. -/
def ctzFrom (a : Word) (i : Nat) : Nat → Nat
  | 0 => 0
  | n + 1 => if a.getLsbD i then 0 else 1 + ctzFrom a (i + 1) n
def popcount (a : Word) : Nat := ((List.range 64).filter (fun i => a.getLsbD i)).length
def bytesRev (a : Word) : Word := BitVec.ofNat 64 (leNat (leBytes 8 a.toNat).reverse)
/-- SignExtend(a, n + 1) (R101 SEXT). -/
def sextBit (a : Word) (n : Nat) : Word := (a <<< (63 - n)).sshiftRight (63 - n)

def execAdd (w : BitVec 3) (d a b : BitVec 5) (s : State) : Result := int3 0x00800000 w d a b s 1 0 fun a b => a + b
def execSub (w : BitVec 3) (d a b : BitVec 5) (s : State) : Result := int3 0x00800001 w d a b s 1 0 fun a b => a - b
def execAnd (w : BitVec 3) (d a b : BitVec 5) (s : State) : Result := int3 0x00800002 w d a b s 1 0 fun a b => a &&& b
def execOr (w : BitVec 3) (d a b : BitVec 5) (s : State) : Result := int3 0x00800003 w d a b s 1 0 fun a b => a ||| b
def execXor (w : BitVec 3) (d a b : BitVec 5) (s : State) : Result := int3 0x00800004 w d a b s 1 0 fun a b => a ^^^ b
def execAndn (w : BitVec 3) (d a b : BitVec 5) (s : State) : Result := int3 0x00800005 w d a b s 1 0 fun a b => a &&& ~~~b
def execOrn (w : BitVec 3) (d a b : BitVec 5) (s : State) : Result := int3 0x00800006 w d a b s 1 0 fun a b => a ||| ~~~b
def execXnor (w : BitVec 3) (d a b : BitVec 5) (s : State) : Result := int3 0x00800007 w d a b s 1 0 fun a b => ~~~(a ^^^ b)
def execSll (w : BitVec 3) (d a b : BitVec 5) (s : State) : Result := int3 0x00800008 w d a b s 1 0 fun a b => sllW a (sh6 b)
def execSrl (w : BitVec 3) (d a b : BitVec 5) (s : State) : Result := int3 0x00800009 w d a b s 1 0 fun a b => srlW a (sh6 b)
def execSra (w : BitVec 3) (d a b : BitVec 5) (s : State) : Result := int3 0x0080000A w d a b s 1 0 fun a b => sraW a (sh6 b)
def execRol (w : BitVec 3) (d a b : BitVec 5) (s : State) : Result :=
  int3 0x0080000B w d a b s 1 0 fun a b => rorW a ((64 - sh6 b) % 64)
def execRor (w : BitVec 3) (d a b : BitVec 5) (s : State) : Result := int3 0x0080000C w d a b s 1 0 fun a b => rorW a (sh6 b)
def execSlt (w : BitVec 3) (d a b : BitVec 5) (s : State) : Result := int3 0x0080000D w d a b s 1 0 fun a b => flag01 (a.slt b)
def execSltu (w : BitVec 3) (d a b : BitVec 5) (s : State) : Result := int3 0x0080000E w d a b s 1 0 fun a b => flag01 (a.ult b)
def execMin (w : BitVec 3) (d a b : BitVec 5) (s : State) : Result := int3 0x0080000F w d a b s 1 0 smin
def execMax (w : BitVec 3) (d a b : BitVec 5) (s : State) : Result := int3 0x00800010 w d a b s 1 0 smax
def execMinu (w : BitVec 3) (d a b : BitVec 5) (s : State) : Result := int3 0x00800011 w d a b s 1 0 umin
def execMaxu (w : BitVec 3) (d a b : BitVec 5) (s : State) : Result := int3 0x00800012 w d a b s 1 0 umax
def execSeq (w : BitVec 3) (d a b : BitVec 5) (s : State) : Result := int3 0x00800013 w d a b s 1 0 fun a b => flag01 (a == b)
def execSne (w : BitVec 3) (d a b : BitVec 5) (s : State) : Result := int3 0x00800014 w d a b s 1 0 fun a b => flag01 (a != b)
def execAddw (w : BitVec 3) (d a b : BitVec 5) (s : State) : Result := int3 0x00800015 w d a b s 1 0 fun a b => sx32 (a + b)
def execSubw (w : BitVec 3) (d a b : BitVec 5) (s : State) : Result := int3 0x00800016 w d a b s 1 0 fun a b => sx32 (a - b)
def execSllw (w : BitVec 3) (d a b : BitVec 5) (s : State) : Result :=
  int3 0x00800017 w d a b s 1 0 fun a b => (low32 a <<< sh5 b).signExtend 64
def execSrlw (w : BitVec 3) (d a b : BitVec 5) (s : State) : Result :=
  int3 0x00800018 w d a b s 1 0 fun a b => (low32 a >>> sh5 b).signExtend 64
def execSraw (w : BitVec 3) (d a b : BitVec 5) (s : State) : Result :=
  int3 0x00800019 w d a b s 1 0 fun a b => ((low32 a).sshiftRight (sh5 b)).signExtend 64
def execClz (w : BitVec 3) (d a : BitVec 5) (s : State) : Result :=
  int2 0x0080001A w d a s fun a => BitVec.ofNat 64 (clzFrom a 64)
def execCtz (w : BitVec 3) (d a : BitVec 5) (s : State) : Result :=
  int2 0x0080001B w d a s fun a => BitVec.ofNat 64 (ctzFrom a 0 64)
def execPopc (w : BitVec 3) (d a : BitVec 5) (s : State) : Result := int2 0x0080001C w d a s fun a => BitVec.ofNat 64 (popcount a)
def execBrev (w : BitVec 3) (d a : BitVec 5) (s : State) : Result := int2 0x0080001D w d a s fun a => a.reverse
def execBswap (w : BitVec 3) (d a : BitVec 5) (s : State) : Result := int2 0x0080001E w d a s bytesRev
def execSext (w : BitVec 3) (d a b : BitVec 5) (s : State) : Result := int3 0x0080001F w d a b s 1 0 fun a b => sextBit a (sh6 b)

def execAddi (w : BitVec 3) (d a : BitVec 5) (i : BitVec 13) (s : State) : Result := intI 0x01800000 w d a i s fun a => a + simm i
def execAndi (w : BitVec 3) (d a : BitVec 5) (i : BitVec 13) (s : State) : Result := intI 0x02000000 w d a i s fun a => a &&& simm i
def execOri (w : BitVec 3) (d a : BitVec 5) (i : BitVec 13) (s : State) : Result := intI 0x02800000 w d a i s fun a => a ||| simm i
def execXori (w : BitVec 3) (d a : BitVec 5) (i : BitVec 13) (s : State) : Result := intI 0x03000000 w d a i s fun a => a ^^^ simm i
def execSlti (w : BitVec 3) (d a : BitVec 5) (i : BitVec 13) (s : State) : Result :=
  intI 0x03800000 w d a i s fun a => flag01 (a.slt (simm i))
def execSltiu (w : BitVec 3) (d a : BitVec 5) (i : BitVec 13) (s : State) : Result :=
  intI 0x04000000 w d a i s fun a => flag01 (a.ult (simm i))

/-- SHI: the shift amount as the immediate field (R105). -/
def shImm (op : Nat) (h : BitVec 6) : BitVec 13 := BitVec.ofNat 13 (op * 2 ^ 11 + h.toNat)
def execSlli (w : BitVec 3) (d a : BitVec 5) (h : BitVec 6) (s : State) : Result :=
  intI 0x04800000 w d a (shImm 0 h) s fun a => sllW a h.toNat
def execSrli (w : BitVec 3) (d a : BitVec 5) (h : BitVec 6) (s : State) : Result :=
  intI 0x04800000 w d a (shImm 1 h) s fun a => srlW a h.toNat
def execSrai (w : BitVec 3) (d a : BitVec 5) (h : BitVec 6) (s : State) : Result :=
  intI 0x04800000 w d a (shImm 2 h) s fun a => sraW a h.toNat
def execRori (w : BitVec 3) (d a : BitVec 5) (h : BitVec 6) (s : State) : Result :=
  intI 0x04800000 w d a (shImm 3 h) s fun a => rorW a h.toNat

/-- HIMM (R106). -/
def execHimm (w : BitVec 3) (d : BitVec 5) (i : BitVec 18) (s : State) : Result :=
  issue { word := word3 0x05000000 w d + i.toNat, legal := destOk d } s fun x s => .next (x.wr s (rn d) (uimm i) 1)
/-- PCHI (R106). -/
def execPchi (w : BitVec 3) (d : BitVec 5) (i : BitVec 18) (s : State) : Result :=
  issue { word := word3 0x05800000 w d + i.toNat, legal := destOk d } s fun x s => .next (x.wr s (rn d) (x.pc + uimm i) 1)

end Sys2Proof.Machine
end

