-- ==== Sys2Proof/Config.lean ====
section
/-! DEFINITION. The values the spec leaves open: constants without a body, applied to what they depend on. Nothing can be
proved of their values (see the assumption log). -/

namespace Sys2Proof.Config

/-- A fresh traveller identifier, by the counter of free values (R70: otherwise unspecified). -/
opaque freshTid : Nat → BitVec 32
/-- A fresh command nonce of a port (R426). -/
opaque nonce : Nat → BitVec 64
/-- The CUBEUID, 16 bytes fixed at manufacture (R426, R429). -/
opaque cubeUid : BitVec 128
/-- The ECDSA P-384 verdict on a public key, a message and a signature (R426: FIPS 186-5). -/
opaque ecdsaOk : List Byte → List Byte → List Byte → Bool
/-- The LMS verdict on a public key, a message and a signature (R426: RFC 8554). -/
opaque lmsOk : List Byte → List Byte → List Byte → Bool
/-- The SHA-384 digest (R428, R429). -/
opaque sha384 : List Byte → List Byte
/-- Both vendor signatures of a firmware image verify (R428). -/
opaque imageSigned : List (Nat × Byte) → Bool
/-- The security version an image carries (R428: its place in the image is not given). -/
opaque imageSvn : List (Nat × Byte) → Nat
/-- Both vendor signatures of a steward image verify (R428). -/
opaque stewardImageSigned : List Byte → Bool
/-- The public key that REKEY generates (R427), by the counter of free values. -/
opaque identityKey : Nat → List Byte
/-- The attestation report (R429: its layout and its signatures are not given): of the CUBEUID, the security version and digest of each
loaded image, OWNSTAT and the nonce, signed with leaf `n` of identity `i`. -/
opaque attestReport : BitVec 128 → List (Nat × List Byte) → Nat → BitVec 64 → (n i : Nat) → List Byte
/-- The package power averaged over the last 1 ms, in W, by the cycle (R433: measured). -/
opaque power : Nat → BitVec 12
/-- Idle cycles or delayed activations have been inserted in the last 1 ms to keep the package limit, by the cycle and the limit (R433). -/
opaque capped : Nat → Nat → Bool
/-- How many words beyond the one that issues the fetch buffer has read by then (R135), by the counter of free values. -/
opaque fetchAhead : Nat → Fin 8
/-- An on-die port queue holds one packet more than this (R24: its depth is not given). -/
opaque portSpare : Nat
/-- Which refusal a multicast with several refusals reports (R413: not defined), by the counter of free values. -/
opaque mcastPick : Nat → Bool
/-- The quads that fail the scan of bring-up (R432), one bit for each quad of the 1,280, by the counter of free values. -/
opaque scanFails : Nat → BitVec 1280

/-- A double of an error record whose format the spec does not give (R389, R430, R434), by the counter of free values. -/
opaque recordBits : Nat → BitVec 64
/-- The correction of a meter that charged nothing in a second (R361 divides by its charge), by the counter of free values. -/
opaque kcorrFree : Nat → BitVec 16
/-- Workspace fields of a handler traveller that no rule gives (R372): its g0, ix, lc, extents and class, by the
counter of free values. -/
opaque handlerWord : Nat → BitVec 64
/-- A request to another cube had been served before its withdrawal reached it (R438: the homes settle it), by the counter of free
values. -/
opaque farServed : Nat → Bool
/-- Flits queued for a link, by the cycle and the link's number (R402: the queues of the links are timing). -/
opaque queuedFlits : Nat → Nat → Nat
/-- A translation of another cube maps into the range of a stripe-map entry (R339: a waystation cannot see the tables of the others), by
the number of the change. -/
opaque mappedElsewhere : Nat → Bool
/-- Leaves of the identity's LMS tree (R429: its height is not given). -/
opaque lmsLeaves : Nat

end Sys2Proof.Config
end

