-- ==== Sys2Proof/Machine/Mem.lean ====
section
/-! DEFINITION. Storage: poison, latent errors and full bits (R278, R279), the read-only workspace bytes (R71), retired
rows (R346), the channel cache's lines (R280, R281), the error log and the trap log (R267, R395, R396), the stripe map
(R336, R337). -/

namespace Sys2Proof.Machine

/-! ## Logs -/

/-- Write a 16-byte record of the error log at the next place (R396). -/
def writeRecord (s : State) (lo hi : Word) : State :=
  let n := regField s islandBlk 0xF010 45 40
  let s := putReg (putReg s islandBlk (0xF400 + 16 * n) lo) islandBlk (0xF400 + 16 * n + 8) hi
  putField s islandBlk 0xF010 45 40 ((n + 1) % 64)

/-- The record of an uncorrectable error, which is counted (R279, R396). -/
def errorRecord (s : State) (lo hi : Word) : State :=
  let s := writeRecord s lo hi
  putField s islandBlk 0xF010 39 24 (min 65535 (regField s islandBlk 0xF010 39 24 + 1))

/-- Count a corrected error (R279, R396). -/
def correctedError (s : State) : State :=
  putField s islandBlk 0xF010 23 0 (min (2 ^ 24 - 1) (regField s islandBlk 0xF010 23 0 + 1))

/-- Bank, row and segment of a channel offset (R253). -/
def bankOf (o : Nat) : Nat := o / 2 ^ 15 % 16 * 32 + o / 2 ^ 10 % 32
def rowOf (o : Nat) : Nat := o / 2 ^ 22 % 8192
def segOf (o : Nat) : Nat := o / 2 ^ 19 % 8
/-- A row of a channel: bank x 8192 + row. -/
def rowKey (o : Nat) : Nat := bankOf o * 8192 + rowOf o

/-- `n` bytes at `pa`, whole doubles, have fresh check bits, and the granules among them no poison (R279). -/
def freshBytes (s : State) (pa n : Nat) : State :=
  let within (lo len : Nat) : Bool := decide (pa ≤ lo) && decide (lo + len ≤ pa + n)
  { s with latent := s.latent.filter fun h => !within (h * 8) 8
           softErr := s.softErr.filter fun h => !within (h * 8) 8
           poison := s.poison.filter fun g => !within (g * 16) 16 }

/-! ## The stripe map (R336, R337) -/

/-- What the stripe map gives for a network DRAM address. -/
structure Place where
  cube : Nat
  ch : Nat
  off : Nat
  /-- cube-local offset L -/
  loc : Nat
  dead : Bool
  /-- entry and granule number -/
  entry : Nat
  g : Nat
  lost : Bool
  rstr : Bool
deriving DecidableEq, Repr

/-- Channel and channel offset of a cube-local offset under a hash (R337). -/
def channelOf (hash l : Nat) : Nat × Nat :=
  let u := l / 2 ^ 19 % 2 ^ 22
  if hash = 2 then (l / 2 ^ 35 % 64, l % 2 ^ 35)
  else if hash = 1 then
    ((u % 64) ^^^ (u / 64 % 64) ^^^ (u / 4096 % 64) ^^^ (u / 2 ^ 18 % 16), u / 64 * 2 ^ 19 + l % 2 ^ 19)
  else (u % 64, u / 64 * 2 ^ 19 + l % 2 ^ 19)

/-- Members of a cube set. -/
def setOf (s : State) (k : Nat) : List (BitVec 16) := mget [] s.sets k

/-- Map a network DRAM address by R337; `none` when it lies in no used entry. While the entry is RESTRIPING a granule above CURSOR that has been
moved is at its new place already (R341, R342). -/
def stripePlace (s : State) (a : Nat) : Option Place :=
  match s.stripe.find? (fun e => e.2.size ≠ 0 ∧ e.2.base * 2 ^ 30 ≤ a ∧ a < (e.2.base + e.2.size) * 2 ^ 30) with
  | none => none
  | some (i, e) =>
    let off := a - e.base * 2 ^ 30
    let gb := 2 ^ (e.gran + 12)
    let g := off / gb
    let new := ((e.state = 1 ∨ e.state = 2) ∧ off < e.cursor) ∨ (e.state = 1 ∧ e.moved.contains g)
    let ms := setOf s (if new then e.nset else e.oset)
    let lb := if new then e.nlb else e.olb
    let n := max 1 ms.length
    let m := (ms.getD (g % n) 0).toNat
    let l := lb * 2 ^ 30 + g / n * gb + off % gb
    let co := channelOf e.hash l
    some { cube := m % 4096, ch := co.1, off := co.2, loc := l, dead := e.state = 2 && decide (2 ^ 15 ≤ m), entry := i, g := g,
           lost := e.state = 2, rstr := e.state = 1 }

/-! ## The trap log (R395) -/

/-- One entry of a partition's trap log (R395), whose ring lies where the stripe map puts its network address. DEDUCED (assumption 14): a ring
whose LOG2N is outside 6 to 15, or whose place is no DRAM of this cube, is not set up, and holds nothing. -/
def trapLog (s : State) (p event c cause : Nat) (addr : Word) : State :=
  let off := 0xF200 + 16 * p
  if regField s islandBlk off 59 56 < 6 then s
  else
    let n := 2 ^ regField s islandBlk off 59 56
    let head := regField s islandBlk (off + 8) 31 0
    match stripePlace s (regField s islandBlk off 55 0 + head % n * 32) with
    | none => s
    | some pl =>
      if pl.cube ≠ cubeId s then s
      else
        let pa := dramPa pl.ch pl.off
        let mem := wrN (wrN (wrN (wrN s.mem pa 8 (event + c * 256 + cause * 2 ^ 24 + addr.toNat % 2 ^ 32 * 2 ^ 32)) (pa + 8) 8
          (addr.toNat / 2 ^ 32 + s.cycle % 2 ^ 32 * 2 ^ 32)) (pa + 16) 8 (s.cycle / 2 ^ 32 % 2 ^ 32)) (pa + 24) 8 0
        let lost := regField s islandBlk (off + 8) 47 32
        putReg { freshBytes s pa 32 with mem := mem } islandBlk (off + 8)
          (BitVec.ofNat 64 ((head + 1) % 2 ^ 32 + (if n ≤ head then min 65535 (lost + 1) else lost) * 2 ^ 32))

/-- A page of this cube's DRAM (space 0) or hall (space 1) is assigned to partition `p` (R351). -/
def pageOwner (s : State) (space page : Nat) : Option Nat :=
  let v := mget 0 s.pages (space * 2 ^ 24 + page)
  if v = 0 then none else some (v - 1)

/-! ## Memory keys (R431) -/

/-- The hash of the stripe entries that use this cube: they all have one (R338). -/
def cubeHash (s : State) : Nat :=
  match s.stripe.find? (fun e => e.2.size ≠ 0 && (setOf s e.2.oset ++ setOf s e.2.nset).any (fun m => m.toNat % 4096 = cubeId s)) with
  | some (_, e) => e.hash
  | none => 0

/-- The cube-local 512 KiB page of channel `ch`, offset `o`: `channelOf` backwards. -/
def pageOfPlace (hash ch o : Nat) : Nat :=
  let hi := o / 2 ^ 19
  if hash = 2 then ch * 2 ^ 16 + hi
  else if hash = 1 then hi * 64 + (ch ^^^ (hi % 64) ^^^ (hi / 64 % 64) ^^^ (hi / 4096 % 16))
  else hi * 64 + ch

/-- The page of physical address `pa` is DRAM of a partition whose key was erased and not drawn again. -/
def keyGone (s : State) (pa : Nat) : Bool :=
  s.parts.any (fun p => p.2.keyErased) && (match homeOf pa with
  | .dram ch o => (match pageOwner s 0 (pageOfPlace (cubeHash s) ch o) with | some p => (part s p).keyErased | none => false)
  | _ => false)

/-! ## Row sparing (R345, R346) -/

/-- The row of a channel offset must be spared: the copy starts, or the row is retired when its bank has no free spare, those of the
copies under way not counted as free. The record of a retired row counts no error (R346, R396). -/
def spareRow (s : State) (ch o : Nat) : State :=
  let k := chan s (6144 + ch)
  let row := rowKey o
  let used := mget 0 k.spUsed (bankOf o) + (k.copyingRows.filter (· / 8192 == bankOf o)).length
  if k.copyingRows.contains row || k.retired.contains row then s
  else if 128 ≤ used then
    let s := putChan s (6144 + ch) { k with retired := setIns row k.retired }
    let s := putField s islandBlk (0x7000 + 8 * ch) 30 17 (min 16383 (regField s islandBlk (0x7000 + 8 * ch) 30 17 + 1))
    writeRecord s (BitVec.ofNat 64 (ch + bankOf o * 64 + rowOf o * 2 ^ 15 + 2 ^ 31)) (BitVec.ofNat 64 (o / 16 * 16))
  else putChan s (6144 + ch) { k with copyingRows := setIns row k.copyingRows }

/-- Reads of `pa` give poison and writes are discarded: its row is retired (R346) or its partition's key erased (R431). -/
def rowRetired (s : State) (pa : Nat) : Bool := keyGone s pa || (match homeOf pa with
  | .dram ch o => ((chan s (6144 + ch)).retired).contains (rowKey o)
  | _ => false)

/-! ## Reads -/

/-- A granule whose uncorrectable error a read of kind `kind` (R267) has found: it is poisoned in place and recorded. -/
def foundError (s : State) (g kind ecx : Nat) : State :=
  let s := { s with poison := setIns g s.poison, latent := s.latent.filter (fun h => h / 2 != g) }
  match homeOf (g * 16) with
  | .dram ch o =>
    let lo : Word := BitVec.ofNat 64 (ch + bankOf o * 64 + rowOf o * 2 ^ 15 + segOf o * 2 ^ 28 + 2 ^ 31 + kind * 2 ^ 32 + ecx * 2 ^ 40)
    let s := updChan s (6144 + ch) fun k => { k with chelog := lo, errCnt := min 65535 (k.errCnt + 1) }
    spareRow (errorRecord s lo (BitVec.ofNat 64 o)) ch o
  | .hall h => errorRecord s (BitVec.ofNat 64 (h / 256 % 768 + 2 ^ 13 + 2 ^ 31)) (BitVec.ofNat 64 h)
  | .core c off => errorRecord s (BitVec.ofNat 64 (c + 2 ^ 31)) (BitVec.ofNat 64 off)

/-- The correctable error of half `h` is corrected, written back and counted (R279); 16 of one row between scrubs spare it (R345). -/
def correctHalf (s : State) (h : Nat) : State :=
  let s := correctedError { s with softErr := setDel h s.softErr }
  match homeOf (h * 8) with
  | .dram ch o =>
    let k := chan s (6144 + ch)
    let cnt := mget 0 k.corrected (rowKey o) + 1
    let s := putChan s (6144 + ch) { k with corrected := mput 0 k.corrected (rowKey o) cnt }
    if 16 ≤ cnt then spareRow s ch o else s
  | _ => s

/-- The errors that a read of `n` bytes at `pa` finds (R279): correctable ones are corrected; uncorrectable ones poison their
granule. One that is poisoned already is no new finding. -/
def findErrors (s : State) (pa n kind ecx : Nat) : State :=
  if s.latent.isEmpty && s.softErr.isEmpty then s
  else (granules pa n).foldl (fun s g =>
    if s.poison.contains g then s
    else
      let s := (s.softErr.filter (· / 2 == g)).foldl correctHalf s
      if s.latent.any (fun h => h / 2 == g) then foundError s g kind ecx else s) s

/-- Whether a read of `n` bytes at `pa` delivers poison. -/
def poisonedAt (s : State) (pa n : Nat) : Bool :=
  rowRetired s pa || (granules pa n).any (fun g => s.poison.contains g)

/-- The value of `n` bytes at `pa`; a poisoned granule reads as zero (R279). -/
def valueAt (s : State) (pa n : Nat) : Nat := if poisonedAt s pa n then 0 else rdN s.mem pa n

/-- `n` bytes at `pa` as a list, each with its poison. -/
def bytesAt (s : State) (pa n : Nat) : List (Byte × Bool) :=
  (List.range n).map fun i =>
    let q := rowRetired s (pa + i) || s.poison.contains ((pa + i) / 16)
    (if q then 0 else rdByte s.mem (pa + i), q)

/-! ## Partition tables in the hall (R140, R166, R350) -/

def ctOff (s : State) (p : Nat) : Nat := regField s islandBlk (0x1100 + 32 * p) 27 0
def tsize (s : State) (p : Nat) : Nat := 2 ^ (regField s islandBlk (0x1100 + 32 * p) 35 32 + 8)
def qtOff (s : State) (p : Nat) : Nat := regField s islandBlk (0x1100 + 32 * p + 8) 27 0
def qsize (s : State) (p : Nat) : Nat := 2 ^ (regField s islandBlk (0x1100 + 32 * p + 8) 34 32 + 6)

/-- The completion entry (false) or the queue descriptor (true) of an enabled partition that hall offset `h` lies in. -/
def tableAt (s : State) (h : Nat) : Option (Nat × Bool × Nat) :=
  (List.range 24).findSome? fun p =>
    if regField s islandBlk (0x9000 + 8 * p) 0 0 = 0 then none
    else if ctOff s p ≤ h ∧ h < ctOff s p + 32 * tsize s p then some (p, false, (h - ctOff s p) / 32)
    else if qtOff s p ≤ h ∧ h < qtOff s p + 32 * qsize s p then some (p, true, (h - qtOff s p) / 32)
    else none

/-! ## Writes -/

/-- Workspace bytes that agents other than the core and its engines may write (R70, R71): g0 to g23, P, FLAGS, FRM. -/
def wsWritable (o : Nat) : Bool := o < 192 || (200 ≤ o && o < 232) || o == 0xF6 || o == 0xF7

/-- A plain write may change byte `pa`: no read-only byte of a workspace (R71), and no byte of a completion or queue table, which
only stewards, the dispatcher and the owner change (R140, R166). -/
def mayWrite (s : State) (pa : Nat) : Bool := match homeOf pa with
  | .core c off => regionOf s c off != .workspace || wsWritable ((off - (core s c).lmwsb) % 256)
  | .hall h => (tableAt s h).isNone
  | _ => true

/-- Set or clear full bits of granules that have one. -/
def setFull (s : State) (gs : List Nat) (b : Bool) : State :=
  { s with full := gs.foldl (fun f g => if hasFull s (g * 16) then (if b then setIns g f else setDel g f) else f) s.full }

/-- What the errors of the halves that a write of `n` bytes at `pa` meets become (R279): a half written whole takes fresh check
bits; the merge of a half written in part reads it and finds its error. -/
def mergeErrors (s : State) (pa n : Nat) : State :=
  let whole (h : Nat) : Bool := decide (pa ≤ h * 8) && decide (h * 8 + 8 ≤ pa + n)
  let cut (h : Nat) : Bool := !whole h && decide (pa < h * 8 + 8) && decide (h * 8 < pa + n)
  let s := (s.softErr.filter fun h => cut h && !s.poison.contains (h / 2)).foldl correctHalf s
  let s := (granules pa n).foldl (fun s g =>
    if !s.poison.contains g && s.latent.any (fun h => h / 2 == g && cut h) then foundError s g 0 0 else s) s
  { s with latent := s.latent.filter fun h => !whole h, softErr := s.softErr.filter fun h => !whole h }

/-- A write changes byte `pa`: no read-only byte, no retired row. -/
def takesByte (s : State) (pa : Nat) : Bool := mayWrite s pa && !rowRetired s pa

/-- Write bytes at `pa`, each poisoned or not (R116, R279): a poisoned byte writes 0 and marks its granule; a granule
written whole without poison loses its mark. Bytes that discard the write, read-only workspace bytes and retired rows, keep what they
hold, and mark nothing (R71). -/
def writeBytes (s : State) (pa : Nat) (bs : List (Byte × Bool)) : State :=
  let n := bs.length
  let s := if s.latent.isEmpty && s.softErr.isEmpty then s else mergeErrors s pa n
  let es := (bs.zip (List.range n)).filter fun e => takesByte s (pa + e.2)
  let inG (g : Nat) : List ((Byte × Bool) × Nat) := es.filter fun e => (pa + e.2) / 16 == g
  { s with mem := es.foldl (fun m e => wrByte m (pa + e.2) (if e.1.2 then 0 else e.1.1)) s.mem
           poison := (granules pa n).foldl (fun p g => if (inG g).any (·.1.2) then setIns g p
             else if (inG g).length = 16 then setDel g p else p) s.poison }

/-- Part of `n` bytes at `pa` lies in a retired row. -/
def meetsRetired (s : State) (pa n : Nat) : Bool := (granules pa n).any fun g => rowRetired s (g * 16)

/-- A write of an engine or a packet of partition `p` on core `c`: the part of it that meets a retired row is discarded and logged
(R346). -/
def writeNoting (s : State) (p c : Nat) (va : Word) (pa : Nat) (bs : List (Byte × Bool)) : State :=
  let s := writeBytes s pa bs
  if meetsRetired s pa bs.length then trapLog s p 1 c 0 va else s

/-- Write the low `n` bytes of a value. -/
def writeVal (s : State) (pa n v : Nat) (poisoned : Bool) : State :=
  writeBytes s pa ((leBytes n v).map fun b => (b, poisoned))

/-! ## The channel cache (R280, R281) -/

/-- Hall pages a partition uses as cache, 0 when it is off. -/
def cachePages (s : State) (p : Nat) : Nat :=
  if regField s hallBlk (0x0100 + 16 * p) 9 9 = 1 then regField s hallBlk (0x0100 + 16 * p) 8 0 else 0

/-- The lines of partition `p`. -/
def linesOf (s : State) (p : Nat) : List CLine := mget [] s.ccache p
def putLines (s : State) (p : Nat) (ls : List CLine) : State := { s with ccache := mput [] s.ccache p ls }

/-- A DRAM access at `pa` by context `x` looks up the cache of the partition that holds the channel. Answers the state
and whether it hit; `alloc` makes a miss allocate a line by R281. Outside RUN every access goes to DRAM directly. -/
def cacheAccess (s : State) (pa x : Nat) (write alloc : Bool) : State × Bool :=
  match homeOf pa with
  | .dram ch _ =>
    let k := core s (6144 + ch)
    let npg := if k.asg && s.comp == .run then cachePages s k.part else 0
    if npg = 0 then (s, false)
    else
      let line := pa / 256
      let sets := npg * 128
      let ls := linesOf s k.part
      match ls.find? (fun l => l.line = line) with
      | some l =>
        (putLines s k.part ({ l with dirty := l.dirty || write } :: ls.filter (fun l => l.line ≠ line)), true)
      | none =>
        if !alloc then (s, false)
        else
          let inSet := ls.filter (fun l => l.line % sets = line % sets)
          let cnt (o : Nat) : Nat := (ls.filter (fun l => l.owner = o)).length
          let soft (o : Nat) : Nat := regField s hallBlk (0x1000 + 0x800 * k.part + 8 * o) 55 32
          let beyond (o : Nat) : Bool := soft o != 0xFFFFFF && decide (soft o < cnt o)
          let lru (f : CLine → Bool) : Option CLine := (inSet.filter f).getLast?
          let victim := if inSet.length < 16 then none
            else match (if beyond x then lru (fun l => l.owner = x) else none) with
              | some l => some l
              | none => match lru (fun l => beyond l.owner) with
                | some l => some l
                | none => inSet.getLast?
          let ls' := match victim with
            | some v => ls.filter (fun l => l.line ≠ v.line)
            | none => ls
          let s := match victim with
            | some v => if v.dirty then charge s (1280 + v.line * 256 / 2 ^ 35) 26 4 v.owner else s
            | none => s
          (putLines s k.part ({ line := line, dirty := write, owner := x } :: ls'), false)
  | _ => (s, false)

/-- A DRAM access of traveller (c, sl) at `pa` looks up the cache, and is charged as it hits, or at fare class `k` as it misses (R280,
R281). -/
def dramAccess (s : State) (c sl pa : Nat) (write : Bool) (k : Nat) : State :=
  match cacheAccess s pa (ecxOf s c sl) write true with
  | (s, true) => chargeTravAt s c sl (hallMeter pa) 6 1
  | (s, false) => chargeTravAt s c sl (1280 + pa / 2 ^ 35) k 1

/-- An access of `n` bytes at `pa` by context `x`, line by line (R280, R281): `pay` charges each line's 64-byte units as a hit or a
miss, with the address it begins at. -/
def cacheLines (s : State) (pa n x : Nat) (write alloc : Bool) (pay : State → Bool → Nat → Nat → State) : State :=
  (List.range ((pa + n + 255) / 256 - pa / 256)).foldl (fun s i =>
    let lo := max pa ((pa / 256 + i) * 256)
    let hi := min (pa + n) ((pa / 256 + i) * 256 + 256)
    let e := cacheAccess s lo x write alloc
    pay e.1 e.2 lo ((hi + 63) / 64 - lo / 64)) s

/-- An access of `n` bytes at `pa` that neither allocates a line nor is charged: the walker's, and the dispatcher's (R280). -/
def lookUp (s : State) (pa n : Nat) (write : Bool) : State := cacheLines s pa n 0 write false fun s _ _ _ => s

/-- Dirty lines of `f` are written back: they stay cached and clean, or go when `drop` is set. -/
def cacheFlush (s : State) (p : Nat) (f : Nat → Bool) (drop : Bool) : State :=
  let ls := linesOf s p
  let ls' := if drop then ls.filter (fun l => !f l.line)
    else ls.map fun l => if f l.line then { l with dirty := false } else l
  putLines s p ls'

/-- Hall pages of a partition, ascending. -/
def hallPagesOf (s : State) (p : Nat) : List Nat :=
  (List.range 384).filter fun k => pageOwner s 1 k = some p

/-- The hall page is used as channel cache by its partition (R280). -/
def isCachePage (s : State) (p page : Nat) : Bool := ((hallPagesOf s p).take (cachePages s p)).contains page

end Sys2Proof.Machine
end

