-- ==== Sys2Proof/Machine/Sysreg.lean ====
section
/-! DEFINITION. What a read of a system register returns (R11, R275): the registers with a home in a record are composed
here from it; every other register is a double of `regs`; an offset that holds no register reads zero. -/

namespace Sys2Proof.Machine

def b2n (b : Bool) : Nat := if b then 1 else 0

def WsState.code : WsState → Nat | .off => 0 | .boot => 1 | .forward => 2 | .serve => 3 | .full => 4
def MemState.code : MemState → Nat | .off => 0 | .selfRefresh => 1 | .on => 2
def CompState.code : CompState → Nat | .off => 0 | .reset => 1 | .bringup => 2 | .run => 3 | .quiesce => 4 | .hung => 5

/-- A 64-bit two's complement encoding. -/
def enc64 (v : Int) : Word := BitVec.ofInt 64 v

def barrier (s : State) (c b : Nat) : Barrier := mget {} (core s c).barriers b
def putBarrier (s : State) (c b : Nat) (k : Barrier) : State :=
  updCore s c fun v => { v with barriers := mput {} v.barriers b k }

/-- The slots of core `c` that wait on barrier `b`, in the order they parked (R309 WT, R310). -/
def barWaiters (s : State) (c b : Nat) : List Nat :=
  ((barrier s c b).waiters).filter fun sl =>
    match (slot s c sl).wait with
    | some { word := _, cond := .phase b' _, reply := none } => b' == b
    | _ => false

/-- The low and high doubles of a barrier (R309). -/
def barrierLo (s : State) (c b : Nat) : Word :=
  let k := barrier s c b
  BitVec.ofNat 64 (k.pcnt % 65536 + k.arr % 65536 * 2 ^ 16 + k.exp % 65536 * 2 ^ 32 + b2n k.v * 2 ^ 48 + b2n k.rb * 2 ^ 49
    + b2n k.err * 2 ^ 50 + b2n (!(barWaiters s c b).isEmpty) * 2 ^ 51)
def barrierHi (s : State) (c b : Nat) : Word := BitVec.ofNat 64 ((BitVec.ofInt 40 (barrier s c b).pend).toNat)

/-- COREPART (R350). -/
def corePartReg (s : State) (c : Nat) : Word :=
  let k := core s c
  BitVec.ofNat 64 (k.part + b2n k.asg * 32 + b2n k.rsv * 64 + b2n k.move * 128)

/-- Registers of a compute core, a channel core or a steward (R127, R251, R309, R350, R378, R382). -/
def coreReg (s : State) (c off : Nat) : Word :=
  let k := core s c
  if off = 0x0100 then BitVec.ofNat 64 k.stWsb
  else if off = 0x0108 then BitVec.ofNat 64 k.stRgb
  else if off = 0x0110 then BitVec.ofNat 64 (k.lmdtb + b2n k.lmErr * 2 ^ 31)
  else if 0x0400 ≤ off ∧ off < 0x0600 then
    if off % 16 = 0 then barrierLo s c ((off - 0x0400) / 16) else barrierHi s c ((off - 0x0400) / 16)
  else if off = 0x0118 ∧ kindOf c ≠ .steward then corePartReg s c
  else if off = 0x0180 ∧ kindOf c ≠ .steward then BitVec.ofNat 64 (k.sealCause + b2n k.isSealed * 256)
  else if kindOf c = .channel then
    let h := chan s c
    if off = 0x0200 then BitVec.ofNat 64 (h.xentry + h.xecx * 2 ^ 20 + b2n h.xerr * 2 ^ 30 + h.xarg * 2 ^ 32)
    else if off = 0x0208 then
      BitVec.ofNat 64 ((stateOf s c 0).code + h.aq.length * 2 ^ 8 + h.xq.length * 2 ^ 16
        + (h.streamQ.filter (fun r => r.st != 2)).length * 2 ^ 24 + h.errCnt * 2 ^ 32)
    else if off = 0x0210 then h.chelog
    else 0
  else if kindOf c = .steward ∧ 0x1000 ≤ off then
    let sl := (off - 0x1000) / 128
    match (slot s c sl).msg with
    | none => 0
    | some m =>
      let o := (off - 0x1000) % 128 / 8
      match o with
      | 0 => BitVec.ofNat 64 (m.info.cause.code + m.info.sub * 256 + b2n m.task.isSome * 2 ^ 16 + b2n m.esc * 2 ^ 17
          + b2n m.score * 2 ^ 18 + m.part * 2 ^ 19 + m.core * 2 ^ 32 + m.slot * 2 ^ 45)
      | 1 => BitVec.ofNat 64 (m.tid + m.lslot * 2 ^ 32)
      | 2 => m.info.addr
      | 3 => m.trpc
      | 4 => BitVec.ofNat 64 m.cyc
      | 8 => match m.task with | some t => t.entry | none => 0
      | 15 => match m.task with | some t => BitVec.ofNat 64 (t.cix + b2n t.urg * 2 ^ 32) | none => 0
      | n => if n < 8 then 0 else match m.task with | some t => t.args.getD (n - 9) 0 | none => 0
  else 0

/-- DSPQMAP of a quad (R165). -/
def quadState (s : State) (q : Nat) : Nat :=
  let k := quad s q
  if k.hole then 3 else if k.draining || k.testing then 2 else if k.gated then 1 else 0

/-- DSPQMAP of a row: the states of the quads of a list, lowest first, two bits each. -/
def quadRow (s : State) : List Nat → Nat
  | [] => 0
  | q :: qs => quadState s q + 4 * quadRow s qs

/-- Bytes that spill items occupy (R352). -/
def SpillItem.space : SpillItem → Nat
  | .traveller _ => 1024 | .post _ _ => 64 | .message _ _ => 128 | .arrival _ | .notice _ _ => 0
/-- The partition of what travels between cores. -/
def Flight.part : Flight → Option Nat
  | .traveller t _ _ => some t.hdr.part
  | .bounce t _ _ => some t.hdr.part
  | .task t _ _ => some t.part
  | .stealRep _ (some t) => some t.part
  | _ => none
def spillUsed (s : State) (p : Nat) : Nat :=
  ((part s p).spill.map SpillItem.space).foldl (· + ·) 0 + 512 * (s.held.filter (fun h => h.2.part == some p)).length

def lantern (s : State) (p k : Nat) : Lantern := mget {} s.net.lanterns (p * 16 + k)
def link (s : State) (n : Nat) : Link := mget {} s.net.links n

/-- The assignment OWNDAT reports for the page OWNSEL selects (R351). -/
def owndat (s : State) : Word :=
  let sel := (getReg s islandBlk 0x1400).toNat
  let busy := b2n (!s.ownPending.isEmpty) * 64
  match pageOwner s (sel % 2) (sel / 256 % 2 ^ 23) with
  | some p => BitVec.ofNat 64 (p + 32 + busy)
  | none => BitVec.ofNat 64 busy

/-- The double PLNDAT reads through PLNSEL (R411); `hi` the upper half of a plan entry. -/
def plndat (s : State) (hi : Bool) : Word :=
  let sel := (getReg s islandBlk 0x0800).toNat
  let p := sel % 32
  let tab := sel / 2 ^ 12 % 4
  let idx := sel / 2 ^ 32 % 65536
  if 23 < p then 0
  else match tab with
    | 0 => let v : BitVec 128 := mget 0 s.net.plans (p * 64 + sel / 32 % 64)
           if hi then v.extractLsb' 64 64 else v.extractLsb' 0 64
    | 1 => if idx < 4096 ∧ hi = false then mget 0 s.net.nodes idx else 0
    | 2 => if idx < 32768 ∧ hi = false then mget 0 s.net.edges idx else 0
    | _ => 0

/-- Travellers of partition `p` that are HALTED (R391). -/
def haltedOf (s : State) (p : Nat) : List (Nat × Nat) :=
  (liveSlots s).filter fun (c, sl) => stateOf s c sl == .halted && (slot s c sl).hdr.part == p

/-- Registers of the island-controller block. -/
def islandReg (s : State) (off : Nat) : Word :=
  if off = 0 then BitVec.ofNat 64 (s.ws.code + s.memDom.code * 8 + s.comp.code * 32)
  else if 0x0100 ≤ off ∧ off < 0x0200 then
    let l := link s ((off - 0x0100) / 16)
    if off % 16 = 0 then BitVec.ofNat 64 (l.state + b2n l.spused * 8 + l.splane * 16 + l.bad.toNat * 256 + l.lreplay * 2 ^ 32)
    else BitVec.ofNat 64 (l.role + l.peer * 16 + l.pport * 2 ^ 16)
  else if off = 0x0808 then plndat s false
  else if off = 0x0810 then plndat s true
  else if off = 0x1000 then
    BitVec.ofNat 64 (setBits (getReg s islandBlk 0x1000).toNat 41 41 (b2n (!s.moves.isEmpty)))
  else if 0x1100 ≤ off ∧ off < 0x1400 ∧ off % 32 = 24 then
    let p := (off - 0x1100) / 32
    BitVec.ofNat 64 ((getReg s islandBlk off).toNat % 65536 + (spillUsed s p + 2 ^ 20 - 1) / 2 ^ 20 * 2 ^ 32 + b2n (part s p).spfull * 2 ^ 56)
  else if off = 0x1408 then owndat s
  else if off = 0x1418 then BitVec.ofNat 64 (valueAt s (hallPa ((getReg s islandBlk 0x1410).toNat % 2 ^ 28 / 8 * 8)) 8)
  else if 0x2000 ≤ off ∧ off < 0x3800 then
    let l := lantern s ((off - 0x2000) / 0x100) (off % 0x100 / 16)
    if off % 16 = 0 then
      BitVec.ofNat 64 (l.entry + l.next * 2 ^ 16 + b2n l.lead * 2 ^ 28 + b2n l.en * 2 ^ 29 + l.round * 2 ^ 32 + b2n l.black * 2 ^ 48
        + b2n l.probe.isSome * 2 ^ 49 + b2n l.done * 2 ^ 50)
    else BitVec.ofNat 64 l.tmo
  else if 0x4000 ≤ off ∧ off < 0x4180 then
    let p := (off - 0x4000) / 16
    BitVec.ofNat 64 (mget 0 (if off % 16 = 0 then s.net.sent else s.net.recv) p)
  else if off = 0x6000 then BitVec.ofNat 64 (setBits (getReg s islandBlk off).toNat 7 7 (b2n (!s.xlinvQ.isEmpty)))
  else if 0x9100 ≤ off ∧ off < 0x9100 + 32 * 129 then
    let x := (off - 0x9100) / 32
    let e := purse s x
    match off % 32 / 8 with
    | 0 => if x = 0 then 0x7FFFFFFFFFFFFFFF else enc64 e.purse
    | 1 => e.spent
    | 2 => BitVec.ofNat 64 (e.frac + b2n e.en * 2 ^ 24 + b2n e.str * 2 ^ 25)
    | _ => 0
  else if off = 0xF000 then BitVec.ofNat 64 (setBits (getReg s islandBlk off).toNat 16 16 (b2n (s.comp == .hung)))
  else if 0xF100 ≤ off ∧ off < 0xF1C0 ∧ off % 8 = 0 then
    BitVec.ofNat 64 (setBits (getReg s islandBlk off).toNat 15 0 (haltedOf s ((off - 0xF100) / 8)).length)
  else if off = 0xF800 then BitVec.ofNat 64 s.fw.owner
  else if off = 0xF820 then BitVec.ofNat 64 (s.fw.src + b2n s.fw.locked * 16 + b2n s.fw.erased * 32)
  else if off = 0xF828 then 
    let v := (getReg s islandBlk off).toNat
    BitVec.ofNat 64 (setBits (setBits v 27 16 (Config.power s.cycle).toNat) 28 28 (b2n (s.fw.capped || Config.capped s.cycle (v % 4096))))
  else getReg s islandBlk off

/-- Registers of the hall controller (R282): DIRTY and OCC are counted. -/
def hallReg (s : State) (off : Nat) : Word :=
  if 0x0100 ≤ off ∧ off < 0x0280 ∧ off % 16 = 0 then
    let p := (off - 0x0100) / 16
    BitVec.ofNat 64 (setBits (getReg s hallBlk off).toNat 63 32 ((linesOf s p).filter (·.dirty)).length)
  else if 0x1000 ≤ off ∧ off < 0xD000 ∧ (off - 0x1000) % 0x800 / 8 ≤ 128 then
    let p := (off - 0x1000) / 0x800
    let x := (off - 0x1000) % 0x800 / 8
    BitVec.ofNat 64 (setBits (getReg s hallBlk off).toNat 23 0 ((linesOf s p).filter (fun l => l.owner = x)).length)
  else getReg s hallBlk off

/-- Registers of the dispatcher (R165). -/
def dispReg (s : State) (off : Nat) : Word :=
  if 0x0100 ≤ off ∧ off < 0x0240 ∧ off % 8 = 0 then
    let qy := (off - 0x0100) / 8
    BitVec.ofNat 64 (quadRow s ((List.range 32).map fun qx => qy * 32 + qx))
  else getReg s dispBlk off

/-- What an aligned 8-byte read of a register of this cube returns (R275). -/
def sysRead (s : State) (block off : Nat) : Word :=
  if block = islandBlk then islandReg s off
  else if block = hallBlk then hallReg s off
  else if block = dispBlk then dispReg s off
  else match kindOf block with
    | .absent => 0
    | _ => coreReg s block off

/-- What a read of a register does beside its value: SPFULL counts from its last read (R350), HALLDAT reads the hall (R351). -/
def readEffect (s : State) (block off : Nat) : State :=
  if block = islandBlk ∧ off = 0x1418 then findErrors s (hallPa ((getReg s islandBlk 0x1410).toNat % 2 ^ 28 / 8 * 8)) 8 4 0
  else if block = islandBlk ∧ 0x1100 ≤ off ∧ off < 0x1400 ∧ off % 32 = 24 then updPart s ((off - 0x1100) / 32) fun k => { k with spfull := false } else s

end Sys2Proof.Machine
end

