-- ==== Sys2Proof/Machine/Barrier.lean ====
section
/-! DEFINITION. Barriers as their core holds them (R308 to R312). -/

namespace Sys2Proof.Machine

/-! ## Completion (R310) -/

/-- The completion check, after an event on a valid barrier. -/
def barCheck (s : State) (c b : Nat) : State :=
  let k := barrier s c b
  if k.arr = k.exp ∧ k.pend = 0 then
    let ws := barWaiters s c b
    let s := putBarrier s c b { k with pcnt := (k.pcnt + 1) % 65536, arr := 0, waiters := [] }
    ws.foldl (fun s sl => readyIfReplied (setReply s c sl (.value 0 false)) c sl) s
  else s

/-- An arrival with `n` on a barrier that counts for its ring, or any arrival that fits (R311). -/
def barArrive (s : State) (c b n : Nat) : State :=
  let k := barrier s c b
  barCheck (putBarrier s c b { k with arr := k.arr + n }) c b

/-- A barrier event reaches barrier `b` of core `c` (R310, R311): kind 0 an arrival, 1 an expectation, 2 a byte arrival.
Answers whether it was applied; what is discarded is logged. -/
def barEvent (s : State) (c b kind : Nat) (n : Int) : State × Bool :=
  let k := barrier s c b
  let log (s : State) : State := trapLog s (core s c).part 1 c 0x0C (BitVec.ofNat 64 b)
  let pend := k.pend + (if kind = 1 then n else if kind = 2 then -n else 0)
  if (core s c).isSealed || !k.v || k.rb then (log s, false)
  else if kind = 0 then
    if k.exp < k.arr + n.toNat then (log (putBarrier s c b { k with err := true }), false)
    else (barArrive s c b n.toNat, true)
  else if pend < -(2 ^ 39) ∨ 2 ^ 39 ≤ pend then (log (putBarrier s c b { k with err := true }), false)
  else (barCheck (putBarrier s c b { k with pend := pend }) c b, true)

def barApply (s : State) (c b kind : Nat) (n : Int) : State := (barEvent s c b kind n).1

/-- The BWAITs of a barrier have their waits completed and trap BARRIER (R311). -/
def barBreak (s : State) (c b : Nat) : State :=
  (barWaiters s c b).foldl (fun s sl =>
    readyIfReplied (setReply s c sl (.trap { cause := .barrier, addr := BitVec.ofNat 64 b })) c sl) s

end Sys2Proof.Machine
end

