-- ==== Sys2Proof/Machine/Float.lean ====
section
/-! DEFINITION. Number formats and exact arithmetic (chapter 02): values, rounding in every mode (R36, R37, R439), the
float operations with their special cases (R27, R109), conversions (R38). A rounded value is computed from an exact
dyadic number; quotients and roots carry one extra digit that stands for their non-zero remainder. -/

namespace Sys2Proof.Machine

/-- A floating-point element format (R26). -/
structure Fmt where
  eb : Nat
  mb : Nat
  bias : Nat
  /-- the all-ones exponent holds infinity and NaN -/
  ieee : Bool
  /-- E4M3: the one NaN is S.1111.111 -/
  e4m3 : Bool := false
deriving DecidableEq, Repr

def fp64 : Fmt := { eb := 11, mb := 52, bias := 1023, ieee := true }
def fp32 : Fmt := { eb := 8, mb := 23, bias := 127, ieee := true }
def bf16 : Fmt := { eb := 8, mb := 7, bias := 127, ieee := true }
def fp16 : Fmt := { eb := 5, mb := 10, bias := 15, ieee := true }
def e4m3 : Fmt := { eb := 4, mb := 3, bias := 7, ieee := false, e4m3 := true }
def e5m2 : Fmt := { eb := 5, mb := 2, bias := 15, ieee := true }
def e3m2 : Fmt := { eb := 3, mb := 2, bias := 3, ieee := false }
def e2m3 : Fmt := { eb := 2, mb := 3, bias := 1, ieee := false }
def e2m1 : Fmt := { eb := 2, mb := 1, bias := 1, ieee := false }

def Fmt.width (f : Fmt) : Nat := 1 + f.eb + f.mb
def Fmt.hasNan (f : Fmt) : Bool := f.ieee || f.e4m3
/-- Exponent of the smallest normal, of the quantum of subnormals, and of the largest finite value. -/
def Fmt.emin (f : Fmt) : Int := 1 - f.bias
def Fmt.qmin (f : Fmt) : Int := f.emin - f.mb
def Fmt.emax (f : Fmt) : Int := (2 ^ f.eb : Nat) - (if f.ieee then 2 else 1) - f.bias
/-- The largest finite significand, in units of 2^(emax - mb). -/
def Fmt.maxSig (f : Fmt) : Nat := 2 ^ (f.mb + 1) - (if f.e4m3 then 2 else 1)
def Fmt.maxBits (f : Fmt) : Nat :=
  (if f.ieee then 2 ^ f.eb - 2 else 2 ^ f.eb - 1) * 2 ^ f.mb + (f.maxSig - 2 ^ f.mb)
def Fmt.signBit (f : Fmt) (neg : Bool) : Nat := if neg then 2 ^ (f.eb + f.mb) else 0
def Fmt.infBits (f : Fmt) : Nat := (2 ^ f.eb - 1) * 2 ^ f.mb
/-- The canonical NaN (R27). -/
def Fmt.nanBits (f : Fmt) : Nat := if f.e4m3 then 0x7F else (2 ^ f.eb - 1) * 2 ^ f.mb + 2 ^ (f.mb - 1)

/-- The value of an encoding: `fin neg m e` is ± m x 2^e with m > 0. -/
inductive FVal where
  | nan (signalling : Bool)
  | inf (neg : Bool)
  | zero (neg : Bool)
  | fin (neg : Bool) (m : Nat) (e : Int)
deriving DecidableEq, Repr

def Fmt.val (f : Fmt) (bits : Nat) : FVal :=
  let neg := bits / 2 ^ (f.eb + f.mb) % 2 == 1
  let e := bits / 2 ^ f.mb % 2 ^ f.eb
  let m := bits % 2 ^ f.mb
  if f.e4m3 && e == 15 && m == 7 then .nan false
  else if f.ieee && e == 2 ^ f.eb - 1 then
    if m = 0 then .inf neg else .nan (m / 2 ^ (f.mb - 1) % 2 == 0)
  else if e = 0 then (if m = 0 then .zero neg else .fin neg m f.qmin)
  else .fin neg (2 ^ f.mb + m) ((e : Int) - f.bias - f.mb)

/-- Rounding modes (R36); stochastic rounding carries its 24-bit draw (R37). -/
inductive Rm where | rne | rtz | rup | rdn | rna | stoch (d : Nat)
deriving DecidableEq, Repr

/-- A result with the flags it raises (R34). -/
structure FRes where
  bits : Nat
  flags : Nat := 0
deriving DecidableEq, Repr

def flagNV : Nat := 1
def flagDZ : Nat := 2
def flagOF : Nat := 4
def flagUF : Nat := 8
def flagNX : Nat := 16
def flagSA : Nat := 32

/-- Whether the magnitude `m / 2^sh` (sh > 0) rounds away from zero (R36, R37). -/
def Rm.up (rm : Rm) (neg : Bool) (m sh : Nat) : Bool :=
  let lo := m / 2 ^ sh
  let r := m % 2 ^ sh
  match rm with
  | .rne => decide (2 ^ sh < 2 * r) || (2 * r == 2 ^ sh && lo % 2 == 1)
  | .rtz => false
  | .rup => !neg && r != 0
  | .rdn => neg && r != 0
  | .rna => decide (2 ^ sh ≤ 2 * r)
  | .stoch d => decide (d < r * 2 ^ 24 / 2 ^ sh)

/-- Magnitude m x 2^e in units of 2^q: the rounded count and whether it is inexact. -/
def roundTo (rm : Rm) (neg : Bool) (m : Nat) (e q : Int) : Nat × Bool :=
  if q ≤ e then (m * 2 ^ (e - q).toNat, false)
  else
    let sh := (q - e).toNat
    (m / 2 ^ sh + (if rm.up neg m sh then 1 else 0), m % 2 ^ sh != 0)

/-- The overflow result of R36, or the largest finite value where `sat` or the format has no infinity (R38). -/
def overflow (f : Fmt) (rm : Rm) (neg sat : Bool) : FRes :=
  if sat || !f.ieee then { bits := f.signBit neg + f.maxBits, flags := flagOF + flagNX + flagSA }
  else
    let toInf := match rm with | .rtz => false | .rup => !neg | .rdn => neg | _ => true
    { bits := f.signBit neg + (if toInf then f.infBits else f.maxBits), flags := flagOF + flagNX }

/-- Round ± m x 2^e, m > 0, to a format (R36, R37, R439). -/
def fround (f : Fmt) (rm : Rm) (sat : Bool) (neg : Bool) (m : Nat) (e : Int) : FRes :=
  let top : Int := e + (Nat.log2 m : Nat)
  let q := max (top - f.mb) f.qmin
  let (k, inexact) := roundTo rm neg m e q
  let (q, k) := if k = 2 ^ (f.mb + 1) then (q + 1, 2 ^ f.mb) else (q, k)
  if f.emax - f.mb < q ∨ (q = f.emax - f.mb ∧ f.maxSig < k) then overflow f rm neg sat
  else
    let tiny := decide (top < f.emin) &&
      !(decide (top = f.emin - 1) && (roundTo rm neg m e (top - f.mb)).1 == 2 ^ (f.mb + 1))
    let mag := if k < 2 ^ f.mb then k else (q - f.qmin + 1).toNat * 2 ^ f.mb + (k - 2 ^ f.mb)
    { bits := f.signBit neg + mag, flags := if inexact then flagNX + (if tiny then flagUF else 0) else 0 }

def nanRes (f : Fmt) (nv : Bool) : FRes := { bits := f.nanBits, flags := if nv then flagNV else 0 }
def zeroRes (f : Fmt) (neg : Bool) : FRes := { bits := f.signBit neg }
def infRes (f : Fmt) (neg : Bool) : FRes := { bits := f.signBit neg + f.infBits }

def FVal.isNan : FVal → Bool | .nan _ => true | _ => false
def FVal.isSnan : FVal → Bool | .nan s => s | _ => false
def FVal.negate : FVal → FVal
  | .nan s => .nan s | .inf n => .inf (!n) | .zero n => .zero (!n) | .fin n m e => .fin (!n) m e

/-- A signed dyadic number: s x 2^e. -/
def signed (neg : Bool) (m : Nat) : Int := if neg then -(m : Int) else m

/-- Round the exact sum s x 2^e of two addends that are not both zero; an exact zero takes the sign of R109. -/
def roundSum (f : Fmt) (rm : Rm) (s : Int) (e : Int) : FRes :=
  if s = 0 then zeroRes f (rm == .rdn) else fround f rm false (decide (s < 0)) s.natAbs e

/-- The exact sum of two values, rounded once (R109). -/
def faddV (f : Fmt) (rm : Rm) (a b : FVal) : FRes :=
  match a, b with
  | .nan s, .nan t => nanRes f (s || t)
  | .nan s, _ => nanRes f s
  | _, .nan t => nanRes f t
  | .inf x, .inf y => if x = y then infRes f x else nanRes f true
  | .inf x, _ => infRes f x
  | _, .inf y => infRes f y
  | .zero x, .zero y => zeroRes f (if x = y then x else rm == .rdn)
  | .zero _, .fin n m e => fround f rm false n m e
  | .fin n m e, .zero _ => fround f rm false n m e
  | .fin n m e, .fin n' m' e' =>
    let q := min e e'
    roundSum f rm (signed n m * (2 ^ (e - q).toNat : Nat) + signed n' m' * (2 ^ (e' - q).toNat : Nat)) q

def fadd (f : Fmt) (a b : Nat) (rm : Rm) : FRes := faddV f rm (f.val a) (f.val b)
def fsub (f : Fmt) (a b : Nat) (rm : Rm) : FRes := faddV f rm (f.val a) (f.val b).negate

/-- The exact product of two values; `none` is infinity times zero. -/
def mulV (a b : FVal) : Option FVal :=
  match a, b with
  | .nan s, .nan t => some (.nan (s || t))
  | .nan s, _ => some (.nan s)
  | _, .nan t => some (.nan t)
  | .inf _, .zero _ => none
  | .zero _, .inf _ => none
  | .inf x, .inf y => some (.inf (x != y))
  | .inf x, .fin n _ _ => some (.inf (x != n))
  | .fin n _ _, .inf x => some (.inf (x != n))
  | .zero x, .zero y => some (.zero (x != y))
  | .zero x, .fin n _ _ => some (.zero (x != n))
  | .fin n _ _, .zero x => some (.zero (x != n))
  | .fin n m e, .fin n' m' e' => some (.fin (n != n') (m * m') (e + e'))

/-- Round a value that is not a sum. -/
def roundV (f : Fmt) (rm : Rm) (v : FVal) : FRes :=
  match v with
  | .nan s => nanRes f s
  | .inf n => infRes f n
  | .zero n => zeroRes f n
  | .fin n m e => fround f rm false n m e

def fmul (f : Fmt) (a b : Nat) (rm : Rm) : FRes :=
  match mulV (f.val a) (f.val b) with
  | none => nanRes f true
  | some v => roundV f rm v

/-- ± (a x b) ± c rounded once (R111): a product infinity times zero is invalid whatever c is. -/
def ffma (f : Fmt) (a b c : Nat) (negP negC : Bool) (rm : Rm) : FRes :=
  let vc := if negC then (f.val c).negate else f.val c
  match mulV (f.val a) (f.val b) with
  | none => nanRes f true
  | some p => faddV f rm (if negP then p.negate else p) vc

/-- Quotient of two values (R109). -/
def fdiv (f : Fmt) (a b : Nat) (rm : Rm) : FRes :=
  match f.val a, f.val b with
  | .nan s, .nan t => nanRes f (s || t)
  | .nan s, _ => nanRes f s
  | _, .nan t => nanRes f t
  | .inf _, .inf _ => nanRes f true
  | .zero _, .zero _ => nanRes f true
  | .inf x, .zero y => infRes f (x != y)
  | .inf x, .fin n _ _ => infRes f (x != n)
  | .zero x, .inf y => zeroRes f (x != y)
  | .fin n _ _, .inf y => zeroRes f (n != y)
  | .zero x, .fin n _ _ => zeroRes f (x != n)
  | .fin n _ _, .zero y => { infRes f (n != y) with flags := flagDZ }
  | .fin n m e, .fin n' m' e' =>
    let k := 2 * f.mb + 8
    let t := m * 2 ^ k
    fround f rm false (n != n') (t / m' * 4 + (if t % m' = 0 then 0 else 1)) (e - e' - k - 2)

/-- Integer square root by digits: the largest r with r x r ≤ n, for n below 4^fuel. -/
def isqrt : Nat → Nat → Nat
  | 0, _ => 0
  | fuel + 1, n =>
    let r := 2 * isqrt fuel (n / 4)
    if (r + 1) * (r + 1) ≤ n then r + 1 else r

/-- Square root (R109). -/
def fsqrt (f : Fmt) (a : Nat) (rm : Rm) : FRes :=
  match f.val a with
  | .nan s => nanRes f s
  | .zero n => zeroRes f n
  | .inf false => infRes f false
  | .inf true => nanRes f true
  | .fin true _ _ => nanRes f true
  | .fin false m e =>
    let k := 2 * (f.mb + 4) + (if e % 2 = 0 then 0 else 1)
    let t := m * 2 ^ k
    let r := isqrt (f.mb + f.mb + 16) t
    fround f rm false false (r * 4 + (if r * r = t then 0 else 1)) ((e - k) / 2 - 2)

/-- The total order of R45 on values that are not NaN: a key that compares as the value, -0 below +0. -/
def Fmt.key (f : Fmt) (bits : Nat) : Int :=
  let mag : Nat := bits % 2 ^ (f.eb + f.mb)
  if bits / 2 ^ (f.eb + f.mb) % 2 = 1 then -(mag : Int) - 1 else mag

/-- Minimum (`mx` false) or maximum; NaN wins (R45, R109). -/
def fminmax (f : Fmt) (mx : Bool) (a b : Nat) : FRes :=
  let va := f.val a
  let vb := f.val b
  if va.isNan || vb.isNan then nanRes f (va.isSnan || vb.isSnan)
  else { bits := if (if mx then decide (f.key b ≤ f.key a) else decide (f.key a ≤ f.key b)) then a else b }

/-- Equality, less, less or equal (R109): 0 eq, 1 lt, 2 le; zeros are equal. -/
def fcmp (f : Fmt) (op : Nat) (a b : Nat) : FRes :=
  let va := f.val a
  let vb := f.val b
  let z (v : FVal) (k : Int) : Int := match v with | .zero _ => 0 | _ => if k < 0 then k else k + 1
  if va.isNan || vb.isNan then
    { bits := 0, flags := if op ≠ 0 || va.isSnan || vb.isSnan then flagNV else 0 }
  else
    let ka := z va (f.key a)
    let kb := z vb (f.key b)
    { bits := if (if op = 0 then ka == kb else if op = 1 then decide (ka < kb) else decide (ka ≤ kb)) then 1 else 0 }

/-- The class mask of R110. -/
def fclass (f : Fmt) (a : Nat) : Nat :=
  match f.val a with
  | .nan s => if s then 256 else 512
  | .inf n => if n then 1 else 128
  | .zero n => if n then 8 else 16
  | .fin n _ _ =>
    if a / 2 ^ f.mb % 2 ^ f.eb = 0 then (if n then 4 else 32) else (if n then 2 else 64)

/-- Float to integer in [lo, hi] (R38). -/
def ftoi (f : Fmt) (a : Nat) (lo hi : Int) (rm : Rm) : Int × Nat :=
  match f.val a with
  | .nan _ => (0, flagNV)
  | .inf n => (if n then lo else hi, flagNV)
  | .zero _ => (0, 0)
  | .fin n m e =>
    let (k, inexact) := roundTo rm n m e 0
    let v := signed n k
    if v < lo then (lo, flagNV) else if hi < v then (hi, flagNV) else (v, if inexact then flagNX else 0)

/-- Integer to float (R38); `sat` as for a narrowing conversion. -/
def itof (f : Fmt) (v : Int) (sat : Bool) (rm : Rm) : FRes :=
  if v = 0 then zeroRes f false else fround f rm sat (decide (v < 0)) v.natAbs 0

/-- A conversion from `src` to `dst` is narrowing (R38). -/
def narrowing (src dst : Fmt) : Bool :=
  decide (dst.mb < src.mb) || decide (dst.emax < src.emax) || decide (src.qmin < dst.qmin) || (src.ieee && !dst.ieee)
    || (src.hasNan && !dst.hasNan)

/-- Float to float (R38). -/
def fcvt (src dst : Fmt) (a : Nat) (satBit : Bool) (rm : Rm) : FRes :=
  let sat := !dst.ieee || (satBit && narrowing src dst)
  match src.val a with
  | .nan s => if dst.hasNan then nanRes dst s else { bits := 0, flags := flagNV }
  | .inf n => if sat then { bits := dst.signBit n + dst.maxBits, flags := flagSA } else infRes dst n
  | .zero n => zeroRes dst n
  | .fin n m e => fround dst rm sat n m e

/-- FNEG (op 0) and FABS (op 1) on an encoding (R109). -/
def fsign (f : Fmt) (op : Nat) (a : Nat) : FRes :=
  let v := f.val a
  let mag := a % 2 ^ (f.eb + f.mb)
  if v.isNan then nanRes f v.isSnan
  else { bits := if op = 0 ∧ a / 2 ^ (f.eb + f.mb) % 2 = 0 then f.signBit true + mag else mag }

/-! ## Draws (R37) -/

def mix64 (z : Nat) : Nat :=
  let z := (z ^^^ (z / 2 ^ 30)) * 0xBF58476D1CE4E5B9 % 2 ^ 64
  let z := (z ^^^ (z / 2 ^ 27)) * 0x94D049BB133111EB % 2 ^ 64
  z ^^^ (z / 2 ^ 31)

/-- The 24-bit draw of element `i` with encoding `x` (R37). -/
def draw (key pc i x : Nat) : Nat :=
  mix64 (key ^^^ (pc * 0x9E3779B97F4A7C15 % 2 ^ 64) ^^^ (i * 0xC2B2AE3D27D4EB4F % 2 ^ 64) ^^^ x) / 2 ^ 40

/-- FRM.RM as a mode for operations that are no conversions: stochastic acts as RNE (R36). -/
def rmOf (frm : Nat) : Rm := match frm % 8 with | 1 => .rtz | 2 => .rup | 3 => .rdn | 4 => .rna | _ => .rne
/-- FRM.RM as a mode for a conversion (R36, R37). -/
def rmConv (frm key pc i x : Nat) : Rm := if frm % 8 = 5 then .stoch (draw key pc i x) else rmOf frm
def satOf (frm : Nat) : Bool := frm / 8 % 2 == 1

end Sys2Proof.Machine
end

