-- ==== Sys2Proof/Machine/Addr.lean ====
section
/-! DEFINITION. What an effective address reaches (R272, R273, R276): the local alias, windows, translated pages (R326 to
R333), page ownership (R351), and the conditions of a migration (R78 to R80). -/

namespace Sys2Proof.Machine

/-- An effective address: bits [55:0] of a sum (R51). -/
def ea56 (v : Word) : Nat := v.toNat % 2 ^ 56

def trapAt (c : Cause) (a : Nat) (sub : Nat := 0) : TrapInfo := { cause := c, sub := sub, addr := BitVec.ofNat 64 a }

/-- What an address reaches. -/
inductive Reach where
  /-- this core's own SRAM -/
  | own (off : Nat)
  /-- another core's window -/
  | window (c off : Nat)
  | hall (h : Nat)
  /-- DRAM of this cube, served directly -/
  | dram (pa : Nat)
  /-- storage or a register of another cube, by network address (stewards) -/
  | net (a : Nat) (cube : Nat)
  /-- a system register of this cube (stewards) -/
  | sysreg (block off : Nat)
  /-- a granule on a DEAD cube (R344) -/
  | dead
  /-- the traveller moves to the core (R78) -/
  | migrate (c cube : Nat)
  /-- the translation cache misses (R331) -/
  | miss
  | trap (t : TrapInfo)
deriving DecidableEq, Repr

/-- Page size of a leaf at a level (R326). -/
def pageBits (level : Nat) : Nat := if level = 1 then 31 else if level = 2 then 25 else 19

/-- The cached translation of an address (R330). -/
def tlbFind (s : State) (c p va : Nat) : Option TlbEntry :=
  ((core s c).tlb).find? fun e => e.part = p ∧ e.va / 2 ^ pageBits e.level = va / 2 ^ pageBits e.level

/-- Use a translation: it becomes the most recently used (R330). -/
def tlbTouch (s : State) (c p va : Nat) : State :=
  match tlbFind s c p va with
  | some e => updCore s c fun k => { k with tlb := e :: k.tlb.filter (· ≠ e) }
  | none => s

/-- The core a window address names, with the offset (R273). -/
def windowCore (va : Nat) : Option (Nat × Nat) :=
  let o := va - 0x00FFFF0000000000
  if va < 0x00FFFF0000000000 ∨ 0x00FFFF0065400000 ≤ va then none
  else if 0x60000000 ≤ o ∧ o < 0x64000000 then some (6144 + (o - 0x60000000) / 2 ^ 20, o % 2 ^ 20)
  else some (o / 2 ^ 18, o % 2 ^ 18)

/-- A core of the partition outside the holes. -/
def inPartition (s : State) (c p : Nat) : Bool :=
  (core s c).asg && (core s c).part == p && !inHole s c

/-- The channel core that owns a DRAM place takes travellers of the partition (R80): on this cube it must be
assigned to it; another cube checks at arrival. -/
def migrateTo (s : State) (p va : Nat) (pl : Place) : Reach :=
  if pl.cube = cubeId s ∧ inPartition s (6144 + pl.ch) p = false then .trap (trapAt .bounds va)
  else .migrate (6144 + pl.ch) pl.cube

/-- A register block that exists and whose domain is up; a core in a hole has none (R9, R16). -/
def blockLive (s : State) (b : Nat) : Bool :=
  b == islandBlk || ((b == hallBlk || b == dispBlk || (kindOf b != .absent && !inHole s b)) && !(s.comp == .off))

/-- The reach of a translated address through its leaf, in the order of R125: XLATE, then PERM (R113, R276, R327, R329, R332, R344,
R351). A SYSREG page ends at offset 0xFFFF, and its block must exist (R274); another cube checks its own blocks. -/
def leafReach (s : State) (c p va : Nat) (e : TlbEntry) (rd wr : Bool) : Reach :=
  let na := e.oa + va % 2 ^ pageBits e.level
  let lacks := (rd && !e.rd) || (wr && !e.wr)
  match na / 2 ^ 53 with
  | 0 =>
    (match stripePlace s na with
     | none => .trap (trapAt .xlate va 4)
     | some pl =>
       let home := decide (pl.cube = cubeId s) && !pl.dead
       let stays := match kindOf c with | .steward => true | .channel => home && c == 6144 + pl.ch | _ => false
       if e.nm && !stays then .trap (trapAt .xlate va 3)
       else if lacks then .trap (trapAt .perm va)
       else if pl.dead then .dead
       else if home && decide (pageOwner s 0 (pl.loc / 2 ^ 19) ≠ some p) then .trap (trapAt .perm va)
       else if stays then (if home then .dram (dramPa pl.ch pl.off) else .net na pl.cube)
       else migrateTo s p va pl)
  | 1 =>
    let h := na % 2 ^ 28
    if lacks ∨ pageOwner s 1 (h / 2 ^ 19) ≠ some p ∨ isCachePage s p (h / 2 ^ 19) = true then .trap (trapAt .perm va) else .hall h
  | 3 =>
    let cube := na / 2 ^ 41 % 4096
    if kindOf c ≠ .steward ∨ lacks then .trap (trapAt .perm va)
    else if 0xFFFF < va % 2 ^ pageBits e.level then .trap (trapAt .bounds va)
    else if cube ≠ cubeId s then .net na cube
    else if blockLive s (na / 2 ^ 28 % 8192) = false then .trap (trapAt .bounds va)
    else .sysreg (na / 2 ^ 28 % 8192) (na % 2 ^ 28)
  | _ => .trap (trapAt .xlate va 2)

/-- The reach of an address for core `c`, stream `x`, partition `p` (R272, R276). -/
def reach (s : State) (c : Nat) (x : Bool) (p va : Nat) (rd wr : Bool) : Reach :=
  if va ≤ 0x00FFFEFFFFFFFFFF then
    if x then .trap (trapAt .bounds va)
    else match tlbFind s c p va with
      | none => .miss
      | some e => leafReach s c p va e rd wr
  else if aliasBase c ≤ va then .own (va - aliasBase c)
  else match windowCore va with
    | none => .trap (trapAt .bounds va)
    | some (w, off) =>
      let a := addressCore s c
      if w = c ∨ w = a then .own off
      else if x ∨ kindOf c = .channel ∨ kindOf w ≠ .compute ∨ clusterOf w ≠ clusterOfCore a ∨ inPartition s w p = false
          ∨ isTwinCore s w = true
        then .trap (trapAt .bounds va)
      else .window w off

/-- The physical address of a reach in this cube's storage. -/
def Reach.pa (c : Nat) : Reach → Option Nat
  | .own off => some (sramPa c off)
  | .window w off => some (sramPa w off)
  | .hall h => some (hallPa h)
  | .dram pa => some pa
  | _ => none

/-- Ask for a walk of the page of `va` (R331): it joins a walk of the same partition that covers the page. A core with 8 requests
outstanding asks when one completes (`askAgain`). -/
def askWalk (s : State) (c sl p va : Nat) : State :=
  let page := va / 2 ^ 19
  if 8 ≤ ((s.walks.flatMap (·.waiters)).filter (·.1 == c)).length then s
  else if s.walks.any (fun w => w.part = p ∧ w.va / 2 ^ 19 = page) then
    { s with walks := s.walks.map fun w => if w.part = p ∧ w.va / 2 ^ 19 = page
        then { w with fills := if w.fills.contains c then w.fills else w.fills ++ [c],
                      waiters := w.waiters ++ [(c, sl)] } else w }
  else { s with walks := s.walks ++ [{ part := p, va := va, fills := [c], waiters := [(c, sl)] }] }

/-! Command records by traveller and by path (R177, R256, R291). -/

def Rec.major (r : Rec) : Nat := r.word / 2 ^ 23 % 64
def Rec.fn (r : Rec) : Nat := r.word % 256
/-- The path class of a record (R291). -/
def Rec.path (r : Rec) : Nat :=
  if r.major = 0x38 then 2
  else if 0x30 ≤ r.major ∧ r.major ≤ 0x37 then 1
  else if r.major = 0x0E then (if r.fn ≤ 2 then 3 else 5)
  else 4

/-- Records of a traveller on every engine of its core. -/
def recsOf (s : State) (c sl : Nat) : List Rec :=
  let k := core s c
  let all := k.coachQ ++ k.courierQ ++ (if kindOf c = .channel then (chan s c).streamQ ++ (chan s c).bankCmds else [])
  all.filter fun r => r.slot = sl ∧ r.tid = tidOf s c sl
/-- The traveller's loop stands in its core's sequencer. -/
def hasLoop (s : State) (c sl : Nat) : Bool := match (core s c).seqr with
  | some q => q.slot == sl && q.tid == tidOf s c sl
  | none => false
def hasCommands (s : State) (c sl : Nat) : Bool := (recsOf s c sl).any (fun r => r.st != 2) || hasLoop s c sl
/-- A record or a loop of the traveller on path `p` is pending or active. -/
def pathBusy (s : State) (c sl p : Nat) : Bool :=
  (recsOf s c sl).any (fun r => r.path == p && (r.st == 0 || r.st == 1)) || (p == 1 && hasLoop s c sl)
/-- The oldest faulted record of the traveller that `f` takes (R186, R304). -/
def faultedRec (s : State) (c sl : Nat) (f : Rec → Bool) : Option TrapInfo :=
  ((recsOf s c sl).find? (fun r => r.st == 3 && f r)).bind (·.fault)

/-- The refusal conditions of a migration (R79). -/
def moveRefused (s : State) (c sl : Nat) : Bool :=
  decide (holdOf s c sl ≠ 0) || hasCommands s c sl || ((slot s c sl).resv).isSome

/-- Packets of travellers to other cubes that have not entered a port queue yet. -/
def leavingCube (s : State) : Nat := (s.flights.filter fun f => match f with | .traveller t _ _ => t.dcube != cubeId s | _ => false).length
/-- The port queues have room for another packet (R24). -/
def portRoom (s : State) : Bool := decide (s.net.portQ.length + leavingCube s ≤ Config.portSpare)

/-- The traveller leaves by migration (R78): the store buffer has drained; its packet carries workspace and header. A request to leave its
core is met with that (R152). -/
def pack (s : State) (c sl : Nat) (m : Move) : Packed :=
  { bytes := rdBytes s.mem (wsPa s c sl) 256, hdr := { (slot s c sl).hdr with ocore := c, ocube := cubeId s },
    seqr := none, lvl := (slot s c sl).lvl, birth := (slot s c sl).birth, oslot := sl, dcore := m.core, dcube := m.cube,
    addr := m.addr, ready := true, pending := (slot s c sl).pending.filter (· ≠ .preempt),
    wait := (slot s c sl).wait.filter (fun w => match w.reply with | some .again => false | r => r.isSome), pair := (slot s c sl).pair,
    twin := (slot s c sl).twin, kids := (slot s c sl).kids, mate := (slot s c sl).mate }

/-- Migrate from an issue (R78): R79, then the drain of the store buffer, then the packet; the slot is kept. OUTS is 0
when the traveller leaves (R294, R307). The instruction executes at the destination and is charged there. Its packet to another
cube finds room in a port queue first (R24). -/
def migrateAct (x : Ctx) (s : State) (drain : State → Ctx → Option State) (va dcore dcube : Nat) (pc : Word) : Act :=
  if moveRefused s x.c x.sl then .trap (trapAt .nomigrate va)
  else match drain s x with
    | some s' => .hold s'
    | none =>
      if (slot s x.c x.sl).outs ≠ 0 ∨ (core s x.c).enqBuf.any (fun q => q.slot = x.sl) then .park 4 .settled s
      else if dcube ≠ cubeId s ∧ portRoom s = false then .park 6 .port s
      else
        let s := chargeTravAt s x.c x.sl (if dcube = cubeId s then meterOf x.c else 1384) 31 2
        let mv : Move := { core := dcore, cube := dcube, addr := BitVec.ofNat 64 va }
        let s := updSlot (setState (retireOut x s pc 99) x.c x.sl .migrating) x.c x.sl fun k => { k with move := some mv, sbo := none }
        let f : Flight := .traveller (pack s x.c x.sl mv) x.c x.sl
        if (slot s x.c x.sl).pair then .leave (escSend s x.c x.sl 0 mv.addr (pack s x.c x.sl mv).bytes (.flight f))
        else .leave { s with flights := s.flights ++ [f] }

end Sys2Proof.Machine
end

