-- ==== Sys2Proof/Machine/Pages.lean ====
section
/-! DEFINITION. Translation tables and walks (R326 to R333), invalidation (R335), granules under copy (R341, R342), and
the translation that the dispatcher, the engines and the island use. -/

namespace Sys2Proof.Machine

/-- Index shift, index bits and the size of the next level's table, by level (R326). -/
def levelShift (l : Nat) : Nat := if l = 0 then 43 else if l = 1 then 31 else if l = 2 then 25 else 19
def levelBits (l : Nat) : Nat := if l = 0 then 13 else if l = 1 then 12 else 6
def tableSize (l : Nat) : Nat := if l = 0 then 2 ^ 17 else if l = 1 then 2 ^ 16 else 2 ^ 10

def xlateAt (va sub : Nat) : TrapInfo := trapAt .xlate va sub

/-- The physical address of a network DRAM address that the stripe map places on this cube. -/
def dramHere (s : State) (a : Nat) : Option Nat :=
  match stripePlace s a with
  | some pl => if pl.cube = cubeId s ∧ pl.dead = false then some (dramPa pl.ch pl.off) else none
  | none => none

/-- A leaf breaks R327. -/
def leafMalformed (s : State) (l oa : Nat) (nm : Bool) : Bool :=
  let space := oa / 2 ^ 53
  l = 0 || oa % 2 ^ pageBits l != 0 || !(space = 0 || space = 1 || space = 3)
    || (space = 1 && (l != 3 || oa / 2 ^ 41 % 4096 != cubeId s)) || (space != 0 && nm)

/-- A pointer breaks R327. -/
def pointerMalformed (s : State) (l oa : Nat) (rd wr : Bool) : Bool :=
  l = 3 || rd || wr || oa / 2 ^ 53 != 0 || oa % tableSize (l + 1) != 0 || (dramHere s oa).isNone

/-- The upper bits of an address that the levels before `l` index. -/
def pointerKey (l va : Nat) : Nat := va / 2 ^ levelShift (l - 1)
/-- A pointer entry becomes the most recently used of 1,024; DESIGN CHOICE (assumption 18): the least recently used leaves. -/
def keepPointer (s : State) (e : Pointer) : State := { s with net.pointers := (e :: s.net.pointers.filter (· ≠ e)).take 1024 }

/-- The walk from the table at network address `tab` of level `l`, `n` levels at most (R326 to R329). Its reads find latent errors
as any read does (R279), and the pointers it reads stay in the walker's cache (R331). -/
def walkFrom (s : State) (p va tab l : Nat) : Nat → State × Except TrapInfo TlbEntry
  | 0 => (s, .error (xlateAt va 2))
  | n + 1 =>
    match dramHere s (tab + va / 2 ^ levelShift l % 2 ^ levelBits l * 16) with
    | none => (s, .error (xlateAt va 2))
    | some pa =>
      let s := lookUp (findErrors s pa 16 4 0) pa 16 false
      if poisonedAt s pa 16 then (s, .error (xlateAt va 5))
      else
        let lo := rdN s.mem pa 8
        let hi := rdN s.mem (pa + 8) 8
        let oa := hi % 2 ^ 56
        let bit (k : Nat) : Bool := lo.testBit k
        if !bit 0 then (s, .error (xlateAt va 1))
        else if lo / 32 ≠ 0 ∨ hi / 2 ^ 56 ≠ 0 then (s, .error (xlateAt va 2))
        else if bit 1 then
          if leafMalformed s l oa (bit 4) then (s, .error (xlateAt va 2))
          else (s, .ok { part := p, va := va / 2 ^ pageBits l * 2 ^ pageBits l, level := l, oa := oa, rd := bit 2, wr := bit 3, nm := bit 4 })
        else if pointerMalformed s l oa (bit 2) (bit 3) then (s, .error (xlateAt va 2))
        else walkFrom (keepPointer s { part := p, level := l + 1, key := pointerKey (l + 1) va, oa := oa }) p va oa (l + 1) n

/-- A walk of partition `p`'s tree (R334), from the deepest table that the walker's cache knows for the address (R331). -/
def walk (s : State) (p va : Nat) : State × Except TrapInfo TlbEntry :=
  let root := getReg s islandBlk (0x5000 + 8 * p)
  let known (l : Nat) : Option Pointer := s.net.pointers.find? fun e => e.part = p ∧ e.level = l ∧ e.key = pointerKey l va
  if !root.getLsbD 63 then (s, .error (xlateAt va 1))
  else match [3, 2, 1].findSome? known with
    | some e => walkFrom (keepPointer s e) p va e.oa e.level (4 - e.level)
    | none => walkFrom s p va (root.toNat % 2 ^ 56) 0 4

/-- Entries of a core's translation cache (R330). -/
def tlbCap (c : Nat) : Nat := if kindOf c = .channel then 512 else 32

/-- Fill a core's translation cache, the least recently used entry leaving (R330). -/
def tlbFill (s : State) (c : Nat) (e : TlbEntry) : State :=
  updCore s c fun k => { k with tlb := (e :: k.tlb.filter (fun f => !(f.part == e.part && f.va == e.va && f.level == e.level))).take (tlbCap c) }

/-- The requests for pages that the leaf of walk `w` covers: they have joined it (R331). -/
def joinedTo (s : State) (w : Walk) : Except TrapInfo TlbEntry → List Walk
  | .ok e => s.walks.filter fun v => v.part == w.part && v.va / 2 ^ pageBits e.level == w.va / 2 ^ pageBits e.level
  | .error _ => []

/-- A request is answered (R331): the caches of the cores that asked are filled and every waiting traveller goes on, or takes
the trap with its own address (R329). -/
def finishWalk (s : State) (r : Except TrapInfo TlbEntry) (w : Walk) : State :=
  match r with
  | .ok e =>
    let s := w.fills.foldl (fun s c => tlbFill s c e) s
    w.waiters.foldl (fun s (c, sl) =>
      match (slot s c sl).wait with
      | some { word := iw, cond := .walk va, reply := none } =>
        if va.toNat / 2 ^ 19 = w.va / 2 ^ 19 then
          updSlot s c sl fun k => { k with wait := some { word := iw, cond := .walk va, reply := some .again } }
        else s
      | _ => s) s
  | .error t =>
    w.waiters.foldl (fun s (c, sl) =>
      if sl = 256 then updCore s c fun k => { k with walkErr := k.walkErr ++ [(w.part, w.va / 2 ^ 19)] }
      else match (slot s c sl).wait with
      | some { word := iw, cond := .walk va, reply := none } =>
        if va.toNat / 2 ^ 19 = w.va / 2 ^ 19 then
          updSlot s c sl fun k => { k with wait := some { word := iw, cond := .walk va, reply := some (.trap { t with addr := va }) } }
        else s
      | _ => s) s

/-- Remove translations from every cache of the cube and pointers from the walker's: all of partition `p`, or those of the pages that
contain `va` (R335). Walks in flight start again, so they read the new tables. -/
def invalidate (s : State) (p : Nat) (va : Option Nat) : State :=
  let pointed (e : Pointer) : Bool := e.part == p && (match va with
    | none => true
    | some v => pointerKey e.level v == e.key)
  let hit (e : TlbEntry) : Bool := e.part == p && (match va with
    | none => true
    | some v => v / 2 ^ pageBits e.level == e.va / 2 ^ pageBits e.level)
  { s with cores := s.cores.filterMap fun (c, k) =>
      let k' := { k with tlb := k.tlb.filter (fun e => !hit e) }
      if k' = coreReset c then none else some (c, k')
           net := { s.net with
             owners := s.net.owners.filter fun e => e.part ≠ p
             pointers := s.net.pointers.filter fun e => !pointed e } }

/-! ## Granules under copy (R341, R342) -/

/-- The physical 512 KiB page (channel, page) of each part of granule `g` of entry `e` at its old cube. -/
def oldParts (s : State) (e : Stripe) (g : Nat) : List (Nat × Nat) :=
  let gb := 2 ^ (e.gran + 12)
  let l := e.olb * 2 ^ 30 + g / max 1 (setOf s e.oset).length * gb
  (List.range (max 1 (gb / 2 ^ 19))).map fun k => channelOf e.hash (l + k * 2 ^ 19)

/-- An access to physical address `pa` waits for the copy of its granule (R342). -/
def copyingAt (s : State) (pa : Nat) : Bool :=
  s.stripe.any fun (_, e) => e.copying.any fun g =>
    (oldParts s e g).any fun (ch, o) => decide (dramPa ch o ≤ pa) && decide (pa < dramPa ch o + min (2 ^ (e.gran + 12)) (2 ^ 19))

/-- DRAM is served only while the memory domain is ON (R23), and not while its granule is copied (R342) or its row spared (R345). -/
def servable (s : State) (pa : Nat) : Bool := match homeOf pa with
  | .dram ch o => s.memDom == .on && !s.ccFlush && !copyingAt s pa && !((chan s (6144 + ch)).copyingRows).contains (rowKey o)
  | _ => true

/-! ## Translation for engines, the dispatcher and the island -/

/-- The model's own trap of an engine whose page must be walked for first: no rule's subcause. -/
def missTrap (va : Nat) : TrapInfo := xlateAt va 255
def isMiss (t : TrapInfo) : Bool := t.cause == .xlate && t.sub == 255

/-- The cached translation of core `c` for an engine; of a page that is not cached the trap its walk has met, or that it must be
walked for (R330, R331); `now` walks at once. -/
def translate (s : State) (c p va : Nat) (now : Bool := false) : Except TrapInfo (State × TlbEntry) :=
  match tlbFind s c p va with
  | some e => .ok (tlbTouch s c p va, e)
  | none =>
    if now || (core s c).walkErr.contains (p, va / 2 ^ 19) then match walk s p va with
      | (s, .ok e) => .ok (tlbFill s c e, e)
      | (_, .error t) => .error t
    else .error (missTrap va)

/-- An engine of core `c` asks for the walk of a page, beside the 8 requests of its core; none when it has asked, or may not yet (R331). It
stands as slot 256. -/
def engineAsk (s : State) (c p va : Nat) : Option State :=
  let asked (s : State) : Bool := s.walks.any fun w => w.part == p && w.va / 2 ^ 19 == va / 2 ^ 19 && w.waiters.contains (c, 256)
  if asked s then none else
    let t := askWalk s c 256 p va
    if asked t then some t else none

/-- An engine of core `c` takes trap `t`: its failed walk is forgotten, and an error in a table that made it fail has been found (R279,
R329). -/
def tableFound (s : State) (c p : Nat) (t : TrapInfo) : State :=
  let s := if t.cause = .xlate then updCore s c fun k => { k with walkErr := k.walkErr.filter (· ≠ (p, t.addr.toNat / 2 ^ 19)) } else s
  if t.cause = .xlate ∧ t.sub = 5 then (walk s p t.addr.toNat).1 else s

/-- Where a translated address of partition `p` lies, for an agent that does not migrate (R182, R298, R351). -/
inductive Place2 where
  | hall (h : Nat)
  | dram (pa : Nat)
  /-- another cube's DRAM: network address, cube -/
  | far (a cube : Nat)
  | dead
deriving DecidableEq, Repr

def leafPlace (s : State) (p va : Nat) (e : TlbEntry) (rd wr : Bool) : Except TrapInfo Place2 :=
  let na := e.oa + va % 2 ^ pageBits e.level
  let space := na / 2 ^ 53 % 8
  let lacks := (rd && !e.rd) || (wr && !e.wr)
  if space = 1 then
    let h := na % 2 ^ 28
    if lacks ∨ pageOwner s 1 (h / 2 ^ 19) ≠ some p ∨ isCachePage s p (h / 2 ^ 19) = true then .error (trapAt .perm va) else .ok (.hall h)
  else if space ≠ 0 then .error (trapAt .perm va)
  else match stripePlace s na with
    | none => .error (xlateAt va 4)
    | some pl =>
      if lacks then .error (trapAt .perm va)
      else if pl.dead then .ok .dead
      else if pl.cube ≠ cubeId s then .ok (.far (na % 2 ^ 53) pl.cube)
      else if pageOwner s 0 (pl.loc / 2 ^ 19) ≠ some p then .error (trapAt .perm va)
      else .ok (.dram (dramPa pl.ch pl.off))

/-- Translate for the dispatcher or the island, which keep no translation (R137, R170, R175). -/
def islandPlace (s : State) (p va : Nat) (rd wr : Bool) : Except TrapInfo Place2 :=
  if 0x00FFFEFFFFFFFFFF < va then .error (trapAt .bounds va)
  else match (walk s p va).2 with
    | .error t => .error t
    | .ok e => leafPlace s p va e rd wr

end Sys2Proof.Machine
end

