-- ==== Sys2Proof/Machine/Packet.lean ====
section
/-! DEFINITION. Topology and routes (R400 to R402), how packets of the waystation leave (R397, R405 to R407), are counted
(R319) and are answered (R406). -/

namespace Sys2Proof.Machine

/-! ## Topology (R400) -/

/-- The extents of the torus, of a dragonfly group when KIND is 1. -/
def extents (s : State) : Nat × Nat × Nat :=
  (regField s islandBlk 0x0008 4 1 + 1, regField s islandBlk 0x0008 8 5 + 1, regField s islandBlk 0x0008 12 9 + 1)
def dragonfly (s : State) : Bool := regField s islandBlk 0x0008 0 0 == 1
def groups (s : State) : Nat := regField s islandBlk 0x0008 18 13 + 1
/-- Cubes of the network. -/
def cubeCount (s : State) : Nat :=
  let e := extents s
  if dragonfly s then 64 * groups s else e.1 * e.2.1 * e.2.2
/-- Every other cube. -/
def otherCubes (s : State) : List Nat := (List.range (min 4096 (cubeCount s))).filter (· ≠ cubeId s)

/-- Steps to go in a ring of `n` from `a` to `b`, in the + direction. -/
def ringGap (n a b : Nat) : Nat := (b + n - a % n) % max 1 n

/-- The three ring gaps from cube `a` to cube `b` with their extents. -/
def gaps (s : State) (a b : Nat) : List (Nat × Nat) :=
  let e := extents s
  [(e.1, ringGap e.1 (a % e.1) (b % e.1)), (e.2.1, ringGap e.2.1 (a / e.1 % e.2.1) (b / e.1 % e.2.1)),
   (e.2.2, ringGap e.2.2 (a / (e.1 * e.2.1) % e.2.2) (b / (e.1 * e.2.1) % e.2.2))]

/-- Roles (R398) that shorten the distance, in dimension order; the first of each dimension is the one OC-S takes. -/
def rolesTo (s : State) (a b : Nat) : List Nat :=
  ((gaps s a b).zipIdx.flatMap fun e =>
    let n := e.1.1
    let d := e.1.2
    if d = 0 then [] else if 2 * d < n then [2 * e.2] else if 2 * d = n then [2 * e.2, 2 * e.2 + 1] else [2 * e.2 + 1])

/-! ## Links and routes (R402) -/

/-- A link that carries packets: UP or HALF. -/
def linkUsable (s : State) (l : Nat) : Bool :=
  let k := mget {} s.net.links l
  k.state == 2 || k.state == 3
/-- The cube next to `a` in the direction of role `r` (R398, R400). -/
def neighbour (s : State) (a r : Nat) : Nat :=
  let e := extents s
  let ring (n stride : Nat) : Nat :=
    let c := a / stride % n
    a - c * stride + (if r % 2 = 0 then (c + 1) % n else (c + n - 1) % n) * stride
  match r / 2 with
  | 0 => ring e.1 1
  | 1 => ring e.2.1 e.1
  | 2 => ring e.2.2 (e.1 * e.2.1)
  | _ => a

/-- The usable links of a cube, ascending, each with its role and peer: of this cube as they are, of another by its last route
update. One that has sent none has a link to each of its neighbours (DEDUCED, assumption 43). -/
def edges (s : State) (a : Nat) : List (Nat × Nat × Nat) :=
  if a = cubeId s then ((List.range 16).filter fun l => linkUsable s l && (mget {} s.net.links l : Link).role != 7).map fun l =>
    (l, (mget {} s.net.links l : Link).role, (mget {} s.net.links l : Link).peer)
  else (lookup s.net.graph a).getD (((List.range 6).filter fun r => neighbour s a r != a).map fun r => (r, r, neighbour s a r))

/-- The links of role `r` from `a` on the way to `d`; a GLOBAL link is the one GLOBTAB names, taken as leading to `d` when its cube
has sent no route update. -/
def edgesOf (s : State) (a r d : Nat) : List (Nat × Nat × Nat) :=
  if r = 6 then
    let l := (getReg s islandBlk (0x0200 + 8 * (d / 64))).toNat / 2 ^ 12 % 16
    if a ≠ cubeId s ∧ (lookup s.net.graph a).isNone = true then [(l, 6, d)] else (edges s a).filter fun e => e.1 == l && e.2.1 == 6
  else (edges s a).filter fun e => e.2.1 == r

/-- The cube that a packet at `a` for `d` makes for within its group: `d`, or the holder of the link to the group of `d`. -/
def groupTarget (s : State) (a d : Nat) : Nat :=
  if dragonfly s && d / 64 != a / 64 then (getReg s islandBlk (0x0200 + 8 * (d / 64))).toNat % 4096 else d

/-- The roles that shorten the way from `a` to `d`. -/
def rolesOn (s : State) (a d : Nat) : List Nat :=
  let t := groupTarget s a d
  if dragonfly s && t == a && d / 64 != a / 64 then [6] else rolesTo s a t

/-- The path of R402 from `a` to `d`, in dimension order, is usable to its end as far as this island knows. -/
def orderedUsable (s : State) (d : Nat) : Nat → Nat → Bool
  | 0, _ => false
  | n + 1, a => a == d || (match (rolesOn s a d).head? with
    | some r => (match (edgesOf s a r d).head? with
      | some e => orderedUsable s d n e.2.2
      | none => false)
    | none => false)

/-- Steps from `a` to the nearest of the cubes `last`, in the live link graph; `seen` have been reached. -/
def stepsTo (s : State) (a : Nat) : Nat → List Nat → List Nat → Option Nat
  | 0, _, _ => none
  | n + 1, seen, last =>
    if last.contains a then some 0
    else
      let next := (cubeId s :: otherCubes s).filter fun c => !seen.contains c && (edges s c).any fun e => last.contains e.2.2
      if next.isEmpty then none else (stepsTo s a n (seen ++ next) next).map (· + 1)

/-- The links by one of which the route table goes from `a` to `d`: by the path in dimension order when all of it is usable, else
by a shortest path of the live link graph, in dimension order where it can (R402). -/
def tableLinks (s : State) (a d : Nat) : List (Nat × Nat × Nat) :=
  let ordered := match (rolesOn s a d).head? with
    | some r => edgesOf s a r d
    | none => []
  if orderedUsable s d 4096 a then ordered
  else match stepsTo s a 4096 [d] [d] with
    | none => []
    | some n =>
      let closer := (edges s a).filter fun e => decide ((stepsTo s e.2.2 4096 [d] [d]).any (· < n))
      let kept := ordered.filter closer.contains
      if !kept.isEmpty then kept
      else match closer.head? with
        | some e => closer.filter fun x => x.2.1 == e.2.1
        | none => []

/-- The virtual channel of a packet on `vc`, which came to `a` by role `came`, on a link of role `r` towards `d`: two up against
dimension order or on a GLOBAL link; 1 within the pair from the wrap link of the dimension on, 0 again in the next (R403). -/
def vcOn (s : State) (vc came a r d : Nat) : Nat :=
  let pair := vc / 2 * 2 + (if r = 6 then 2 else 0) + (if (rolesOn s a d).head? = some r then 0 else 2)
  let wraps := r < 6 && (if r % 2 = 0 then decide (neighbour s a r < a) else decide (a < neighbour s a r))
  pair + (if wraps then 1 else if came / 2 = r / 2 ∧ came < 6 then vc % 2 else 0)

/-- The cubes of the route from `a` to `d`; none when there is none or it would need a virtual channel above 7 (R403). -/
def routeFrom (s : State) (d : Nat) : Nat → Nat → Nat → Nat → Option (List Nat)
  | 0, _, _, _ => none
  | n + 1, a, vc, came =>
    if a = d then some []
    else match (tableLinks s a d).head? with
      | none => none
      | some e =>
        let v := vcOn s vc came a e.2.1 d
        if 7 < v then none else (routeFrom s d n e.2.2 v e.2.1).map (e.2.2 :: ·)

/-- The route of this cube's own packets of class OC-S to `d`. -/
def pathTo (s : State) (d : Nat) : List Nat := (routeFrom s d 4096 (cubeId s) 0 7).getD []

/-- The link with the fewest queued flits, the lowest of equals (R402). -/
def leastQueued (s : State) : List Nat → Option Nat
  | [] => none
  | l :: ls => match leastQueued s ls with
    | none => some l
    | some m => if Config.queuedFlits s.cycle m < Config.queuedFlits s.cycle l then some m else some l

/-- The first of group `v` and those after it that is neither of two groups; none when there is no third. -/
def thirdGroup (s : State) (v a b : Nat) : Option Nat :=
  ((List.range 3).map fun i => (v + i) % groups s).find? fun g => g != a && g != b

/-- The group that a packet of an adaptive class goes through, chosen at its source: none for the minimal route (R402, R407). -/
def valiant (s : State) (p : Packet) : Option Nat :=
  let me := cubeId s
  if !dragonfly s || p.dcube / 64 == me / 64 || (p.cls != 1 && p.cls != 2) then none
  else
    let l := (getReg s islandBlk (0x0200 + 8 * (p.dcube / 64))).toNat / 2 ^ 12 % 16
    if p.tryNo = 0 ∧ Config.queuedFlits s.cycle l < 64 then none else thirdGroup s ((p.seq + p.tryNo) % groups s) (me / 64) (p.dcube / 64)

/-- A packet that has come to the group it goes through makes for its own from here on (R402). -/
def throughGroup (s : State) (p : Packet) : Packet := if p.mid = some (cubeId s / 64) then { p with mid := none } else p

/-- The cube whose group the packet makes for. -/
def goal (s : State) (p : Packet) : Nat := match p.mid with
  | some g => if g = cubeId s / 64 then p.dcube else g * 64
  | none => p.dcube

/-- The link a packet takes: OC-S and OC-M by the route table, of parallel links by the sum of the cubes; OC-A and OC-R a shortening
one with the fewest queued flits, at a resend the next one after the link of the last try, and with none usable the escape
channel, by the route table; `none` when there is none (R402, R403, R407). -/
def routeLink (s : State) (p : Packet) : Option Nat :=
  let me := cubeId s
  if p.dcube = me then none else
  let d := goal s p
  let table := if (routeFrom s d 4096 me p.vc 7).isNone then none else
    let ls := (tableLinks s me d).map (·.1)
    ls[(p.scube + p.dcube) % max 1 ls.length]?
  if (p.cls = 1 ∨ p.cls = 2) ∧ p.escaped = false then
    let ls := ((rolesOn s me d).flatMap fun r => (edgesOf s me r d).map (·.1))
    let ls := (List.range 16).filter ls.contains
    if ls.isEmpty then table
    else if p.scube = me ∧ p.tryNo ≠ 0 then (match ls.find? fun l => decide (p.via < l) with | some l => some l | none => ls.head?)
    else leastQueued s ls
  else table

/-- Flits of a packet (R405). -/
def Packet.plen (p : Packet) : Nat := match p.payload with
  | .data bs => bs.length
  | .resp _ _ bs => bs.length
  | .granule _ _ bs => bs.length
  | .traveller _ => 288
  | .task _ => 128
  | _ => 8
def Packet.flitCount (p : Packet) : Nat := (64 + p.plen + 255) / 256

/-- The newest packets of a list that fit in 64 flits (R397). -/
def lastFlits : Nat → List Packet → List Packet
  | _, [] => []
  | n, p :: ps => if p.flitCount ≤ n then p :: lastFlits (n - p.flitCount) ps else []

/-- The packet as it goes on link `l`, having come by a link of role `came`: its virtual channel, two up on a GLOBAL link in any class
(R403). -/
def onLink (s : State) (p : Packet) (came l : Nat) : Packet :=
  let r := (mget {} s.net.links l : Link).role
  let d := goal s p
  if p.cls = 0 ∨ p.cls = 3 ∨ p.escaped = true ∨ (rolesOn s (cubeId s) d).contains r = false then
    { p with vc := vcOn s p.vc came (cubeId s) r d % 8, escaped := p.cls == 1 || p.cls == 2 }
  else if r = 6 then { p with vc := (p.vc + 2) % 8 } else p

/-- A packet goes to its cube: to this cube's own receiver, or out on link `l`, whose replay buffer keeps it; with no route it
is discarded. -/
def sendVia (s : State) (p : Packet) (came : Nat) (l : Option Nat) : State :=
  if p.dcube = cubeId s then { s with net := { s.net with inbox := s.net.inbox ++ [p] } }
  else match l with
    | none => s
    | some l =>
      let k : Link := mget {} s.net.links l
      let p := onLink s p came l
      { s with net := { s.net with outbox := s.net.outbox ++ [(l, p)],
                                   links := mput {} s.net.links l { k with replay := (lastFlits 64 (p :: k.replay.reverse)).reverse } } }

/-- A packet of this cube with its first link: the group it goes through is chosen, and its virtual channel starts again. -/
def aimed (s : State) (p : Packet) : Packet :=
  let p := { p with mid := valiant s p, vc := 0, escaped := false }
  { p with via := (routeLink s p).getD 16 }

/-- An aimed packet leaves. -/
def leave (s : State) (p : Packet) : State := sendVia s p 7 (if p.via < 16 then some p.via else none)
def sendPkt (s : State) (p : Packet) : State := leave s (aimed s p)

/-! ## Counted messages (R319) -/

/-- A message that the lantern counts: of class OC-S or OC-A, between cubes; one that its home forwards back has crossed too
(R342). The model's own counts and the wakes that follow a traveller are none of the kinds listed. -/
def Packet.counted (p : Packet) : Bool :=
  decide (p.kind ≤ 9) && (p.scube != p.dcube || p.fwd) && (match p.payload with | .count _ _ _ | .wake _ _ => false | _ => true)

/-- A counted message of partition `p` ends here: every enabled lantern slot of it turns black. -/
def messageEnded (s : State) (q : Packet) : State :=
  if q.counted then
    let p := q.spart
    { s with net := { s.net with recv := mput 0 s.net.recv p ((mget 0 s.net.recv p + 1) % 2 ^ 64),
                                 lanterns := s.net.lanterns.map fun e => if e.1 / 16 = p ∧ e.2.en = true then (e.1, { e.2 with black := true }) else e } }
  else s

/-! ## Packets leave and answer -/

/-- The window of a packet: its source and class. -/
def winKey (q : Packet) : Nat := q.scube * 4 + q.cls

/-- How an accepted request is answered is kept for its duplicates (R407): not a NAK-RETRY, which asks for the request again. -/
def noteAnswer (s : State) (q : Packet) (code cause : Nat) : State :=
  if code = 2 then s
  else if q.fwd then
    let rest := s.net.fwdSeen.filter fun e => !(e.1 == q.scube && e.2.1 == q.msgid && e.2.2.1 == q.off)
    { s with net := { s.net with fwdSeen := (q.scube, q.msgid, q.off, code, cause) :: rest } }
  else
    let rest := (mget [] s.net.answers (winKey q)).filter fun e => e.1 != q.seq
    { s with net := { s.net with answers := mput [] s.net.answers (winKey q) ((q.seq, code, cause) :: rest) } }

/-- The answer that packet `q` was given. -/
def answerOf (s : State) (q : Packet) : Option (Nat × Nat) :=
  if q.fwd then (s.net.fwdSeen.find? fun e => e.1 == q.scube && e.2.1 == q.msgid && e.2.2.1 == q.off).map fun e => e.2.2.2
  else ((mget [] s.net.answers (winKey q)).find? fun e => e.1 == q.seq).map (·.2)

/-- The response to a packet (R406): class OC-R, KIND 10, under the same MSGID and OFF. -/
def respond (s : State) (q : Packet) (code cause : Nat) (bs : List (Byte × Bool) := []) : State :=
  sendPkt (noteAnswer s q code cause)
    { scube := cubeId s, dcube := q.scube, cls := 2, kind := 10, ecx := q.ecx, spart := q.spart, seq := q.seq,
      msgid := q.msgid, off := q.off, total := q.total, addr := q.addr, score := q.score, payload := .resp code cause bs }

/-! ## Receiving windows and messages of several packets (R407, R408) -/

/-- A packet is accepted: its number enters the window. That of a forwarded packet has entered the window of the cube that it was
sent to (R342). -/
def mark (s : State) (q : Packet) : State :=
  if q.fwd then s else
  let k := winKey q
  let hi := mget 0 s.net.winBase k
  let w := mget [] s.net.windows k
  let up := (q.seq + 2 ^ 32 - hi) % 2 ^ 32
  let hi' := if w.isEmpty then q.seq else if up < 2 ^ 31 then q.seq else hi
  let w' := (q.seq :: w.filter (· ≠ q.seq)).filter fun n => decide ((hi' + 2 ^ 32 - n) % 2 ^ 32 < 1024)
  let as := (mget [] s.net.answers k).filter fun e => w'.contains e.1
  { s with net := { s.net with windows := mput [] s.net.windows k w', winBase := mput 0 s.net.winBase k hi',
                               answers := mput [] s.net.answers k as } }

def msgKey (q : Packet) : Nat := q.scube * 2 ^ 32 + q.msgid
/-- The count that marks a message as ended here. -/
def endedMark : Nat := 2 ^ 32

/-- `n` bytes of a message are placed: at TOTAL it is complete and ends here (R319, R408). The packet of a longer message that has been
forwarded here was counted by the cube that it was sent to (R342). -/
def countBytes (s : State) (q : Packet) (n : Nat) : State :=
  if q.fwd ∧ n < q.total then s else
  let c := mget 0 s.net.counts (msgKey q) + n
  if c < endedMark ∧ q.total ≤ c then
    messageEnded { s with net := { s.net with counts := removeAt s.net.counts (msgKey q) } } q
  else { s with net := { s.net with counts := insertAt s.net.counts (msgKey q) c } }

/-- A packet is accepted, and its message refused: it ends here, once. -/
def refuse (s : State) (q : Packet) (code cause : Nat) : State :=
  let was := mget 0 s.net.counts (msgKey q)
  let s := mark (respond s q code cause) q
  if endedMark ≤ was then s
  else messageEnded { s with net := { s.net with counts := insertAt s.net.counts (msgKey q) (was + endedMark) } } q

/-- The answer of a multicast packet goes back once every copy is answered and every write of its cores applied (R413). -/
def mcastEnd (s : State) (m : Mcast) : State :=
  if m.cause = 0 then countBytes (respond s m.pkt 1 0) m.pkt m.pkt.plen else refuse s m.pkt 4 m.cause

/-- Writes of packet `q` to this cube's cores are not yet applied. -/
def ackWaits (s : State) (q : Packet) : Bool := s.engWrites.any fun w => w.ack == some q

/-- A write of packet `q` has been applied, or dropped with cause `cause`: after the last the packet is answered (R295, R408). -/
def ackWrite (s : State) (q : Packet) (cause : Nat) : State :=
  match s.net.mcasts.find? (fun m => m.pkt == q) with
  | some m =>
    let m' := { m with cause := if m.cause = 0 then cause else m.cause }
    if ackWaits s q || !m.waiting.isEmpty then { s with net := { s.net with mcasts := s.net.mcasts.map fun y => if y == m then m' else y } }
    else mcastEnd { s with net := { s.net with mcasts := s.net.mcasts.erase m } } m'
  | none =>
    if cause ≠ 0 then refuse { s with engWrites := s.engWrites.map fun w => if w.ack == some q then { w with ack := none } else w } q 4 cause
    else if ackWaits s q then s else countBytes (respond s q 1 0) q q.plen

/-! ## Packets wait and leave (R24, R404, R407) -/

/-- An OC-S packet to the same cube took another path and is not acknowledged (R404). -/
def pathHeld (s : State) (q : Packet) : Bool :=
  q.cls == 0 && s.net.retry.any fun y => y.pkt.cls == 0 && y.pkt.dcube == q.dcube && y.path != pathTo s q.dcube

/-- Fewer than 1,024 packets of the triple are unacknowledged, and the packet's copy fits in the 4 MiB retry buffer (R407; DEDUCED,
assumption 43: a copy takes its header and payload). -/
def retryRoom (s : State) (q : Packet) : Bool :=
  decide ((s.net.retry.map fun y => 64 + y.pkt.plen).foldl (· + ·) (64 + q.plen) ≤ 2 ^ 22)
    && decide ((s.net.retry.filter fun y => y.pkt.dcube == q.dcube && y.pkt.cls == q.cls).length < 1024)

/-- A packet leaves under the next SEQ of its destination and class; a packet of a class with end-to-end retry is kept
until it is acknowledged (R407). The first packet of a counted message counts it as sent, but not when it goes again (R319). -/
def transmitNow (s : State) (x : Sent) : State :=
  let key := x.pkt.dcube * 4 + x.pkt.cls
  let n := mget 0 s.net.seqs key
  let p := aimed s { x.pkt with seq := n }
  let one := p.counted && p.off == 0 && !x.again
  let s := { s with net := { s.net with seqs := mput 0 s.net.seqs key ((n + 1) % 2 ^ 32),
                                        sent := if one then mput 0 s.net.sent p.spart ((mget 0 s.net.sent p.spart + 1) % 2 ^ 64) else s.net.sent,
                                        retry := if x.pkt.cls = 2 then s.net.retry else s.net.retry ++ [{ x with pkt := p, path := if p.cls = 0 then pathTo s p.dcube else [] }] } }
  leave s p

/-- A packet of the waystation leaves, or waits behind those of its cube and class that wait (R404, R407). -/
def transmit (s : State) (x : Sent) : State :=
  if x.pkt.cls ≠ 2 ∧ (!retryRoom s x.pkt || pathHeld s x.pkt || s.net.sendQ.any fun y => y.pkt.dcube == x.pkt.dcube && y.pkt.cls == x.pkt.cls) = true then
    { s with net := { s.net with sendQ := s.net.sendQ ++ [x] } }
  else transmitNow s x

/-- A packet of the waystation itself takes the next MSGID and leaves. -/
def transmitNew (s : State) (x : Sent) : State :=
  let m := s.net.msgid
  transmit { s with net := { s.net with msgid := (m + 1) % 2 ^ 32 } } { x with pkt := { x.pkt with msgid := m } }

end Sys2Proof.Machine
end

