-- ==== Sys2Proof/Machine/Table.lean ====
section
/-! DEFINITION. The spill area (R352), the completion table (R140 to R146), queues and posts (R166 to R172). -/

namespace Sys2Proof.Machine

/-! ## Spill area (R352) -/

/-- Whether an item fits in the partition's spill area. -/
def spillFits (s : State) (p n : Nat) : Bool :=
  decide (spillUsed s p + n ≤ regField s islandBlk (0x1100 + 32 * p + 24) 15 0 * 2 ^ 20)

/-- SPFULL is set and logged (R352). -/
def spillFull (s : State) (p : Nat) : State :=
  trapLog (updPart s p fun k => { k with spfull := true }) p 3 0 0 0

/-- An item enters the spill area, or waits for room behind those that wait. -/
def spillPut (s : State) (p : Nat) (i : SpillItem) : State :=
  if (part s p).spillWait.isEmpty && spillFits s p i.space then updPart s p fun k => { k with spill := k.spill ++ [i] }
  else updPart (spillFull s p) p fun k => { k with spillWait := k.spillWait ++ [i] }

/-- Waiting items enter the area in order as room appears. -/
def spillAdmit (s : State) (p : Nat) : State :=
  match (part s p).spillWait with
  | [] => s
  | i :: is =>
    if spillFits s p i.space then updPart s p fun k => { k with spill := k.spill ++ [i], spillWait := is } else s

/-! ## The tables' 32-byte rows -/

/-- What the dispatcher reads of a row: a granule with an uncorrectable error reads as zero (R279). -/
def rowRd (s : State) (pa : Nat) : Nat :=
  if s.poison.isEmpty && s.latent.isEmpty then rdN s.mem pa 32
  else
    let half (a : Nat) : Nat := if s.poison.contains (a / 16) || s.latent.any (· / 2 == a / 16) then 0 else rdN s.mem a 16
    half pa + half (pa + 16) * 2 ^ 128

/-- Bits [hi:lo] of a row become `v`. The row is read first: that read finds its errors, and its granules keep their poison (R279). -/
def rowSet (s : State) (pa hi lo v : Nat) : State :=
  { findErrors s pa 32 4 0 with mem := wrN s.mem pa 32 (setBits (rdN s.mem pa 32) hi lo v) }

/-- A row is written whole, with fresh check bits (R279). -/
def rowPut (s : State) (pa v : Nat) : State := { freshBytes s pa 32 with mem := wrN s.mem pa 32 v }

/-! ## The completion table -/

/-- Physical address of entry `e` of partition `p`'s table. -/
def entryPa (s : State) (p e : Nat) : Nat := hallPa (ctOff s p + 32 * e)
/-- Bits [hi:lo] of a completion entry (R141). -/
def entryGet (s : State) (p e hi lo : Nat) : Nat := bitsOf (rowRd s (entryPa s p e)) hi lo
def entrySet (s : State) (p e hi lo v : Nat) : State := rowSet s (entryPa s p e) hi lo v

def eCount (s : State) (p e : Nat) : Nat := entryGet s p e 31 0
def eLevel (s : State) (p e : Nat) : Nat := entryGet s p e 34 32
def eOpen (s : State) (p e : Nat) : Bool := entryGet s p e 35 35 == 1
def eCan (s : State) (p e : Nat) : Bool := entryGet s p e 36 36 == 1
/-- STATE: 0 FREE, 1 ACTIVE, 2 ROUND, 3 DONE, 4 CANCELLED. -/
def eState (s : State) (p e : Nat) : Nat := entryGet s p e 39 37
def eParent (s : State) (p e : Nat) : Nat := entryGet s p e 95 64
def eNotify (s : State) (p e : Nat) : Nat := entryGet s p e 127 96
def eCq (s : State) (p e : Nat) : Nat := entryGet s p e 159 144

/-- A completion entry at reset: OPEN = 1 and CQ = 0xFFFF (R141). -/
def entryReset : Nat := 2 ^ 35 + 0xFFFF * 2 ^ 144
def freeEntry (s : State) (p e : Nat) : State := rowPut s (entryPa s p e) entryReset

/-- Index of an entry of the table other than 0 (R140). -/
def isEntry (s : State) (p e : Nat) : Bool := decide (0 < e) && decide (e < tsize s p)

/-! ## Queues -/

/-- Physical address of descriptor `q`. -/
def queuePa (s : State) (p q : Nat) : Nat := hallPa (qtOff s p + 32 * q)
def qGet (s : State) (p q hi lo : Nat) : Nat := bitsOf (rowRd s (queuePa s p q)) hi lo
def qSet (s : State) (p q hi lo v : Nat) : State := rowSet s (queuePa s p q) hi lo v
def qKind (s : State) (p q : Nat) : Nat := qGet s p q 1 0
def qLoc (s : State) (p q : Nat) : Bool := qGet s p q 3 3 == 1
def qPort (s : State) (p q : Nat) : Nat := qGet s p q 4 4
def qLog (s : State) (p q : Nat) : Nat := qGet s p q 12 8
def qBase (s : State) (p q : Nat) : Nat := qGet s p q 127 64
def qHead (s : State) (p q : Nat) : Nat := qGet s p q 159 128
def qTail (s : State) (p q : Nat) : Nat := qGet s p q 191 160
def qHeld (s : State) (p q : Nat) : Nat := qGet s p q 223 192
/-- The queue may be used: a queue id of the table, EN = 1 and a legal LOG2N (R167). -/
def qEnabled (s : State) (p q : Nat) : Bool :=
  decide (q < qsize s p) && qGet s p q 2 2 == 1 && decide (2 ≤ qLog s p q) && decide (qLog s p q ≤ 16)
/-- Entries the queue holds. -/
def qCount (s : State) (p q : Nat) : Nat := (qTail s p q + 2 ^ 32 - qHead s p q) % 2 ^ 32
def qFull (s : State) (p q : Nat) : Bool := decide (2 ^ qLog s p q ≤ qCount s p q)
/-- Address of the entry at index `i`. -/
def qEntry (s : State) (p q i : Nat) : Nat := qBase s p q + 64 * (i % 2 ^ qLog s p q)

def hostKey (port a : Nat) : Nat := port * 2 ^ 64 + a

/-- Where 64 bytes of a queue entry lie. -/
inductive QPlace where | host (a : Nat) | pa (a : Nat)
deriving DecidableEq, Repr

/-- The place of a queue entry: host memory, or a translated address of the partition on this cube. An entry on another
cube's DRAM is not reached (assumption 20). -/
def qPlace (s : State) (p q i : Nat) (wr : Bool) : Option QPlace :=
  let a := qEntry s p q i
  if qLoc s p q then some (.host (hostKey (qPort s p q) (a % 2 ^ 64)))
  else match islandPlace s p (a % 2 ^ 64) (!wr) wr with
    | .ok (.hall h) => some (.pa (hallPa h))
    | .ok (.dram pa) => some (.pa pa)
    | _ => none

/-- The entry's place is DRAM that is not served now (R23, R342, R345). -/
def placeWaits (s : State) : QPlace → Bool
  | .host _ => false
  | .pa a => !servable s a

/-- The read of an entry finds the errors that it meets, and looks up the channel cache (R279, R280). -/
def entryFound (s : State) : QPlace → State
  | .host _ => s
  | .pa a => lookUp (findErrors s a 64 4 0) a 64 false

def qRead (s : State) : QPlace → List (Byte × Bool)
  | .host a => (rdBytes s.hostMem a 64).map fun b => (b, false)
  | .pa a => bytesAt s a 64
def qWrite (s : State) (p : Nat) (bs : List (Byte × Bool)) : QPlace → State
  | .host a => { s with hostMem := wrBytes s.hostMem a (bs.map (·.1)) }
  | .pa a => writeNoting (lookUp s a bs.length true) p 0 (BitVec.ofNat 64 a) a bs

/-- MSI-X after a post to a host queue (R425). -/
def postIrq (s : State) (p q : Nat) : State :=
  let vf := tenant s p
  let port := qPort s p q
  let mine := decide (1 ≤ vf) && (if vf ≤ 64 then port == 0 else port == 1)
  let k := mget {} s.ports port
  { s with ports := mput {} s.ports port { k with msix := k.msix ++ [if mine then (vf, q % 16) else (0, q % 32)] } }

/-- Write a completion record at TAIL (R170), with its pass bit. -/
def postWrite (s : State) (p q : Nat) (bs : List Byte) : State :=
  let i := qTail s p q
  let ph := i / 2 ^ qLog s p q % 2 == 0
  let rec64 := setBits (leNat bs) 8 8 (if ph then 1 else 0)
  match qPlace s p q i true with
  | some pl =>
    let s := qSet (qWrite s p ((leBytes 64 rec64).map fun b => (b, false)) pl) p q 191 160 ((i + 1) % 2 ^ 32)
    if qLoc s p q then postIrq s p q else s
  | none => trapLog (qSet s p q 2 2 0) p 3 0 0 (BitVec.ofNat 64 q)

/-- The next place of queue `q` is DRAM that is not served now (R23). -/
def tailWaits (s : State) (p q : Nat) : Bool := match qPlace s p q (qTail s p q) true with
  | some pl => placeWaits s pl
  | none => false

/-- A post to queue `q` is held: the queue is full, or others are held already (R170), or its DRAM is not served (R23). -/
def postHeld (s : State) (p q : Nat) : Bool :=
  qEnabled s p q && qKind s p q == 2 && (qFull s p q || decide (0 < qHeld s p q) || tailWaits s p q)

/-- Post a completion record to queue `q` (R143, R170). -/
def postTo (s : State) (p q : Nat) (code level tag entry : Nat) : State :=
  if q = 0xFFFF then s
  else if !(qEnabled s p q && qKind s p q == 2) then trapLog s p 3 0 0 (BitVec.ofNat 64 q)
  else
    let bs := leBytes 64 (code + level * 2 ^ 16 + tag * 2 ^ 32 + entry * 2 ^ 64)
    if postHeld s p q then
      qSet (spillPut s p (.post q bs)) p q 223 192 (qHeld s p q + 1)
    else postWrite s p q bs

/-- A launch entry returns to FREE: every field has its reset value, and what the dispatcher kept of the launch goes (R143). -/
def retireEntry (s : State) (p e : Nat) : State :=
  updPart (freeEntry s p e) p fun k => { k with tags := removeAt k.tags e, rects := removeAt k.rects e, running := removeAt k.running e }

/-- The launch entry whose post a completion record is: it returns to FREE once that has been written (R143). -/
def retirePosted (s : State) (p : Nat) (bs : List Byte) : State :=
  let v := leNat bs
  let e := bitsOf v 95 64
  if bitsOf v 18 16 = 1 ∧ (bitsOf v 7 0 = 0 ∨ bitsOf v 7 0 = 0x12) ∧ isEntry s p e = true ∧ eLevel s p e = 1 ∧ (eState s p e = 3 ∨ eState s p e = 4) then
    retireEntry s p e
  else s

/-- The oldest held post of queue `q` is written once there is room (R170). DESIGN CHOICE (assumption 76): of a queue that has been disabled
meanwhile each held post is discarded and logged. -/
def heldPost (s : State) (p q : Nat) : State :=
  if qEnabled s p q && (qFull s p q || tailWaits s p q) then s
  else
    let isQ : SpillItem → Bool := fun i => match i with | .post q' _ => q' == q | _ => false
    let k := part s p
    match k.spill.find? isQ with
    | some (.post q' bs) =>
      let s := putPart s p { k with spill := k.spill.erase (.post q' bs) }
      let s := qSet s p q 223 192 (qHeld s p q - 1)
      retirePosted (if qEnabled s p q then postWrite s p q bs else trapLog s p 3 0 0 (BitVec.ofNat 64 q)) p bs
    | _ => s

/-! ## Counting -/

/-- The launch whose entry is `e`: the TAG its submission carried (R170). -/
def tagOf (s : State) (p e : Nat) : Nat := mget 0 (part s p).tags e

/-- A gate is DONE: the launches that name it become eligible in the order in which they were accepted (R144). -/
def releaseGate (s : State) (p e : Nat) : State :=
  let k := part s p
  let go := k.waiting.filter (fun l => l.gates.contains e)
  putPart s p { k with waiting := k.waiting.filter (fun l => !l.gates.contains e),
                       urgent := k.urgent ++ go.filter (·.urg), normal := k.normal ++ go.filter (fun l => !l.urg) }

/-- The entry leaves ACTIVE or ROUND: its post; a gate that enters DONE releases its launches (R144); a launch entry returns to
FREE once its post has been written (R143). Answers the entries to be decremented. -/
def finishEntry (s : State) (p e : Nat) : State × List Nat :=
  let lev := eLevel s p e
  let code := if eCan s p e then 0x12 else entryGet s p e 47 40
  let s := entrySet s p e 47 40 code
  let s := entrySet s p e 39 37 (if eCan s p e then 4 else 3)
  let up := [eParent s p e, eNotify s p e].filter (· ≠ 0)
  let held := postHeld s p (eCq s p e)
  let s := postTo s p (eCq s p e) code lev (tagOf s p e) e
  let s := if lev = 5 ∧ eCan s p e = false then releaseGate s p e else s
  (if lev = 1 ∧ held = false then retireEntry s p e else s, up)

/-- An enabled lantern slot names phase entry `e` (R322). -/
def phaseNamed (s : State) (p e : Nat) : Bool := (List.range 16).any fun k => (lantern s p k).en && (lantern s p k).entry == e

/-- R143 is applied to an ACTIVE entry. A phase that no enabled slot names leaves ROUND at once (R322). -/
def settleEntry (s : State) (p e : Nat) : State × List Nat :=
  if eState s p e = 1 ∧ eCount s p e = 0 ∧ eOpen s p e = false then
    if eCan s p e = false ∧ eLevel s p e = 3 ∧ phaseNamed s p e = true then (entrySet s p e 39 37 2, []) else finishEntry s p e
  else (s, [])

/-- Subtract 1 from each entry of a list, and from those that completions then name (R142, R143); a number that names no entry
of the table is passed over. -/
def decrementAll (s : State) (p : Nat) : Nat → List Nat → State
  | 0, _ => s
  | _ + 1, [] => s
  | n + 1, e :: es =>
    if isEntry s p e = false then decrementAll s p n es
    else if eCount s p e = 0 then decrementAll (trapLog s p 2 0 0 (BitVec.ofNat 64 e)) p n es
    else
      let r := settleEntry (entrySet s p e 31 0 (eCount s p e - 1)) p e
      decrementAll r.1 p n (es ++ r.2)

/-- Subtract 1 from counter `e` of partition `p`. -/
def decrement (s : State) (p e : Nat) : State := if e = 0 then s else decrementAll s p (4 * tsize s p) [e]

/-- Add 1 to counter `e`. -/
def increment (s : State) (p e : Nat) : State := if isEntry s p e = false then s else entrySet s p e 31 0 ((eCount s p e + 1) % 2 ^ 32)

/-- Add 1 to, or subtract 1 from, launch entry `e` of partition `p` in the table of cube `cube`: here at once, elsewhere by a packet
in the order of class OC-S (R85, R139; assumption 23). -/
def countAt (s : State) (cube p e : Nat) (up : Bool) : State :=
  if e = 0 then s
  else if cube = cubeId s then (if up then increment s p e else decrement s p e)
  else
    let q : Packet := { scube := cubeId s, dcube := cube, cls := 0, kind := 6, ecx := 0, spart := p, msgid := s.net.msgid, total := 8,
                        payload := .count p e up }
    { s with net := { s.net with portQ := s.net.portQ ++ [{ pkt := q }], msgid := (s.net.msgid + 1) % 2 ^ 32 } }

/-- A task's launch entry counts it, or counts it no more: a task that both copies of an escorted pair pushed counts once (R85, R386). -/
def countTask (s : State) (t : Task) (up : Bool) : State := if t.twin then s else countAt s t.lcube t.part t.lslot up

/-- A count for a table of cube `cube` needs room in a port queue that has none (R24). -/
def countPort (s : State) (cube e : Nat) : Bool := e != 0 && cube != cubeId s && !portRoom s

/-- Core `c` lies in its partition's reserve: the four cores of its quad all carry the partition and the mark (R151, R350). -/
def inReserve (s : State) (c : Nat) : Bool :=
  kindOf c == .compute && (coresOfQuad (quadOf c)).all fun d => (core s d).asg && (core s d).rsv && (core s d).part == (core s c).part

/-- Apply R143 to an entry whose fields an operation has changed. -/
def settle (s : State) (p e : Nat) : State :=
  let r := settleEntry s p e
  decrementAll r.1 p (4 * tsize s p) r.2

/-! ## Writes of the tables by stewards and the owner (R140 to R143, R166, R167, R351) -/

/-- Bits [hi:lo] of `old` replaced by those of `new`, for each pair of a list. -/
def mergeBits (old new : Nat) (fs : List (Nat × Nat)) : Nat := fs.foldl (fun v f => setBits v f.1 f.2 (bitsOf new f.1 f.2)) old

/-- Completion entry `e` is written as `new`: its RW fields change. A FREE entry that is given the level of a graph, phase, job or
gate is allocated, but for entry 0 (R140), and adds 1 to its parent (R142); a DONE or CANCELLED one given level 0 is freed; level 1 and the reserved levels
are not taken. An ACTIVE one is settled. -/
def entryStore (s : State) (p e new : Nat) : State :=
  let old := rdN s.mem (entryPa s p e) 32
  let lev := bitsOf new 34 32
  let st := eState s p e
  let rest := [(31, 0), (35, 35), (95, 64), (127, 96), (135, 128), (159, 144)]
  let put (v : Nat) : State := rowSet s (entryPa s p e) 255 0 v
  if st = 0 then
    let v := mergeBits old new rest
    if e ≠ 0 ∧ 2 ≤ lev ∧ lev ≤ 5 then
      let s := put (setBits (setBits v 34 32 lev) 39 37 1)
      settle (if lev ≠ 5 then increment s p (eParent s p e) else s) p e
    else put v
  else if st = 1 ∨ st = 2 then settle (put (mergeBits old new ((34, 32) :: rest))) p e
  else if lev = 0 then freeEntry s p e
  else put (mergeBits old new ((34, 32) :: rest))

/-- Queue descriptor `q` is written as `new`: HELD and the reserved bits stay. -/
def descriptorStore (s : State) (p q new : Nat) : State :=
  let v := mergeBits (rdN s.mem (queuePa s p q) 32) new [(4, 0), (12, 8), (23, 16), (127, 64), (191, 128)]
  rowSet s (queuePa s p q) 255 0 v

/-- A write of `n` bytes of `v` at hall offset `h`, which lies in a table (R140, R166). -/
def tableStore (s : State) (t : Nat × Bool × Nat) (h n v : Nat) : State :=
  let base := if t.2.1 then queuePa s t.1 t.2.2 else entryPa s t.1 t.2.2
  let o := hallPa h - base
  let new := setBits (rdN s.mem base 32) (8 * (o + n) - 1) (8 * o) v
  if t.2.1 then descriptorStore s t.1 t.2.2 new else entryStore s t.1 t.2.2 new

/-- A write to hall offset `h` by a steward, the owner or the island. -/
def hallStore (s : State) (h n v : Nat) (poisoned : Bool) : State := match tableAt s h with
  | some t => tableStore s t h n v
  | none => writeVal s (hallPa h) n v poisoned

/-! ## Cancel (R145, R146) -/

/-- A launch names one of the set in GRAPH, PHASE, JOB or its gate. -/
def Launch.namesOne (l : Launch) (set : List Nat) : Bool := (l.names ++ l.gates).any fun e => e != 0 && set.contains e

/-- Entries whose PARENT or NOTIFY reaches one of the set, and those of placed launches that name one: one step of the closure. -/
def cancelStep (s : State) (p : Nat) (set : List Nat) : List Nat :=
  (List.range (tsize s p)).filter fun e =>
    decide (e ≠ 0) && (set.contains e || ((eState s p e == 1 || eState s p e == 2) && (set.contains (eParent s p e) || set.contains (eNotify s p e)
      || (match lookup (part s p).running e with | some l => l.namesOne set | none => false))))

def cancelClosure (s : State) (p : Nat) : Nat → List Nat → List Nat
  | 0, set => set
  | n + 1, set =>
    let set' := cancelStep s p set
    if set'.length = set.length then set else cancelClosure s p n set'

/-- A header names entry `e` of partition `p` of this cube's table. -/
def Header.inLaunch (h : Header) (s : State) (p e : Nat) : Bool := h.part == p && h.lslot == e && h.lcube == cubeId s

/-- Members of a launch on the cube: travellers whose header names its entry. -/
def membersOf (s : State) (p e : Nat) : List (Nat × Nat) :=
  (liveSlots s).filter fun (c, sl) => (slot s c sl).hdr.inLaunch s p e && stateOf s c sl ≠ .free && stateOf s c sl ≠ .ended

/-- Add a pending item once (R381). -/
def addPending (s : State) (c sl : Nat) (i : Pending) : State :=
  updSlot s c sl fun k => if k.pending.contains i then k else { k with pending := k.pending ++ [i] }

/-- The request that a parked traveller sent to another cube and that is not answered: a load, a barrier event, a reservation request or
an STRL. -/
def isFarRequest (c sl : Nat) (x : Sent) : Bool :=
  x.who == some (c, sl) && x.cmd.isNone && (match x.pkt.payload with | .atomic op _ _ => op == 11 || op == 0 | _ => !x.counted && (x.pkt.kind == 3 || x.pkt.kind == 6))

/-- A request is withdrawn from the homes of this cube and from the port queue: a reservation is given up with its double
unchanged, an STRL that has not been applied is dropped and counted no more (R287, R307, R438). -/
def withdraw (s : State) (c sl : Nat) : State :=
  let mine (e : SbEntry) : Bool := e.slot == sl && e.op == .strl
  let n := ((stream s c false).sb.filter mine).length + (s.net.portQ.filter fun x => isFarRequest c sl x && x.counted).length
  let s := if n = 0 then s
    else updSlot (updStream s c false fun q => { q with sb := q.sb.filter fun e => !mine e }) c sl fun k => { k with outs := k.outs - n }
  { s with granWait := (s.granWait.map fun (g, l) => (g, l.filter (· ≠ (c, sl)))).filter (fun (_, l) => !l.isEmpty),
           resvQ := (s.resvQ.map fun (d, l) => (d, l.filter (fun r => !(r.core = c ∧ r.slot = sl)))).filter (fun (_, l) => !l.isEmpty),
           net := { s.net with portQ := s.net.portQ.filter fun x => !isFarRequest c sl x } }

/-- The parked instruction takes this trap when it runs, which it may now. -/
def trapWait (s : State) (c sl : Nat) (w : Wait) (t : TrapInfo) : State :=
  makeReady (updSlot s c sl fun k => { k with wait := some { w with reply := some (.trap t) } }) c sl

/-- The wait of a PARKED traveller whose reason `ok` takes is completed before its event: the request is withdrawn, a grant
released (R287), and the parked instruction traps with the cause when it runs, unless its request was served already; then the
trap comes at the next issue (R438). Whether another cube had served its request is for that cube to say: a free value. -/
def endWait (s : State) (c sl : Nat) (ok : Nat → Bool) (t : TrapInfo) (i : Pending) : State :=
  if stateOf s c sl = .parked ∧ ok (reasonOf s c sl) = true then
    match (slot s c sl).wait with
    | some w =>
      let grant := match w.cond with | .grant _ _ | .grantRoom _ _ _ => true | _ => false
      if w.reply.isSome && !grant then addPending s c sl i
      else if w.reply.isNone && s.net.retry.any (isFarRequest c sl) then
        let s' := { s with free := s.free + 1 }
        if Config.farServed s.free then addPending s' c sl i
        else
          let n := (s.net.retry.filter fun x => isFarRequest c sl x && x.counted).length
          let s' := updSlot s' c sl fun k => { k with outs := k.outs - n }
          trapWait { s' with net := { s'.net with retry := s'.net.retry.filter fun x => !isFarRequest c sl x } } c sl w t
      else trapWait (withdraw s c sl) c sl w t
    | none => s
  else addPending s c sl i

/-- Cancel and the group watchdog complete every wait but those for an engine or the system, REASON 4 and 6 (R146, R161). -/
def breakWait (s : State) (c sl : Nat) (t : TrapInfo) (i : Pending) : State :=
  endWait s c sl (fun r => r != 4 && r != 6) t i

/-- The trap a cancel or the group watchdog gives to a member of launch `e`. -/
def launchTrap (c : Cause) (e : Nat) : TrapInfo := { cause := c, addr := BitVec.ofNat 64 e }

/-- The tid of a traveller away from a slot. -/
def Packed.tid (t : Packed) : Nat := leNat ((t.bytes.drop 0xF8).take 4)

/-- `g` is done to every traveller that is away from a slot: on its way on the cube, at the common router, in a port queue, held for a
core, and in the spill area of its partition. -/
def Flight.onTraveller (g : Packed → Packed) : Flight → Flight
  | .traveller t a b => .traveller (g t) a b
  | .bounce t a b => .bounce (g t) a b
  | f => f
def SpillItem.onTraveller (g : Packed → Packed) : SpillItem → SpillItem
  | .traveller t => .traveller (g t)
  | .arrival f => .arrival (f.onTraveller g)
  | i => i
def Sent.onTraveller (g : Packed → Packed) (x : Sent) : Sent := match x.pkt.payload with
  | .traveller t => { x with pkt := { x.pkt with payload := .traveller (g t) } }
  | _ => x
def onAway (s : State) (g : Packed → Packed) : State :=
  { s with
    flights := s.flights.map (·.onTraveller g)
    held := s.held.map fun h => (h.1, h.2.onTraveller g)
    parts := s.parts.map fun e => (e.1, { e.2 with spill := e.2.spill.map (·.onTraveller g), spillWait := e.2.spillWait.map (·.onTraveller g) })
    net := { s.net with
      portQ := s.net.portQ.map (·.onTraveller g)
      escort := s.net.escort.map fun m => match m.what with | .flight f => { m with what := .flight (f.onTraveller g) } | _ => m } }

/-- The travellers that are away from a slot. -/
def awayOf (s : State) : List Packed :=
  let ofF (f : Flight) : Option Packed := match f with | .traveller t _ _ => some t | .bounce t _ _ => some t | _ => none
  s.flights.filterMap ofF ++ s.held.filterMap (fun h => ofF h.2)
    ++ s.parts.flatMap (fun e => (e.2.spill ++ e.2.spillWait).filterMap fun i => match i with | .traveller t => some t | _ => none)
    ++ s.net.portQ.filterMap (fun x => match x.pkt.payload with | .traveller t => some t | _ => none)
    ++ s.net.escort.filterMap (fun m => match m.what with | .flight f => ofF f | _ => none)

/-- The destination's acknowledgement is on its way to the origin slot: the move there is settled. -/
def ackMove (s : State) (oc os : Nat) : State := updSlot s oc os fun k => { k with move := k.move.map fun m => { m with acked := true } }

/-- A held traveller of another cube has taken a slot: its origin is told (R77). -/
def tellOrigin (s : State) (t : Packed) : State :=
  sendPkt s { scube := cubeId s, dcube := t.hdr.ocube, cls := 2, kind := 10, ecx := 0, spart := t.hdr.part, score := t.hdr.ocore,
              payload := .arrived t.hdr.ocore t.oslot t.tid }

/-- A traveller away from its slot takes the cancel when it next runs (R146). -/
def Packed.cancelled (t : Packed) (hit : Packed → Bool) : Packed :=
  if hit t && !t.pending.contains .cancel then { t with pending := t.pending ++ [.cancel] } else t

/-- Tasks of a launch that travel on the cube, or wait at the common router or in a port queue, go where they stand; an acknowledgement
that OUTS waits for comes (R146). -/
def dropTasks (s : State) (hit : Task → Bool) : State :=
  let ack (s : State) (w : Option (Nat × Nat)) : State := match w with | some (c, sl) => ackOuts s c sl | none => s
  let s := s.flights.foldl (fun s f => match f with | .task t _ w => if hit t then ack s w else s | _ => s) s
  let s := s.net.portQ.foldl (fun s x => match x.pkt.payload with | .task t => if hit t then ack s x.who else s | _ => s) s
  let s := s.net.escort.foldl (fun s m => match m.what with
    | .flight (.task t _ _) => if hit t then ackOuts s m.core m.slot else s
    | _ => s) s
  { s with
    cores := s.cores.filterMap (fun (c, k) =>
      let k' := { k with deque := k.deque.filter (fun t => !hit t) }
      if k' = coreReset c then none else some (c, k'))
    flights := s.flights.filterMap fun f => match f with
      | .task t _ _ => if hit t then none else some f
      | .stealRep th (some t) => if hit t then some (.stealRep th none) else some f
      | _ => some f
    held := s.held.filter fun h => match h.2 with | .task t _ _ => !hit t | _ => true
    net := { s.net with
      portQ := s.net.portQ.filter fun x => match x.pkt.payload with | .task t => !hit t | _ => true
      escort := s.net.escort.filter fun m => match m.what with | .flight (.task t _ _) => !hit t | _ => true } }

/-- The tasks of a launch on the cube that count: a task of an escorted pair once. -/
def tasksOf (s : State) (hit : Task → Bool) : List Task :=
  let ofF (f : Flight) : Option Task := match f with | .task t _ _ => some t | .stealRep _ (some t) => some t | _ => none
  (s.cores.flatMap (·.2.deque) ++ s.flights.filterMap ofF ++ s.held.filterMap (fun h => ofF h.2)
    ++ s.net.portQ.filterMap (fun x => match x.pkt.payload with | .task t => some t | _ => none)
    ++ s.net.escort.filterMap (fun m => match m.what with | .flight (.task t _ _) => if (slot s m.core m.slot).twin then none else some t | _ => none)).filter
      fun t => hit t && !t.twin

/-- The travellers held in arrival queues that `away` takes are discarded where they stand; their origin slots are free (R146). -/
def dropHeld (s : State) (away : Packed → Bool) : State × List Packed :=
  let gone := s.held.filterMap fun h => match h.2 with | .traveller t _ _ => if away t then some t else none | _ => none
  (gone.foldl (fun s t => if t.hdr.ocube = cubeId s then ackMove s t.hdr.ocore t.oslot else tellOrigin s t)
    { s with held := s.held.filter fun h => match h.2 with | .traveller t _ _ => !away t | _ => true }, gone.filter fun t => !t.twin)

/-- A placed launch is cancelled (R146): its travellers take it at their next issue, wherever on the cube they are; its tasks and what is
held in arrival queues are discarded where they stand, each subtracting 1. -/
def cancelLaunch (s : State) (p e : Nat) : State :=
  let s := (membersOf s p e).foldl (fun s (c, sl) =>
    if stateOf s c sl = .parked then breakWait s c sl (launchTrap .cancel e) .cancel else addPending s c sl .cancel) s
  let away (t : Packed) : Bool := t.hdr.inLaunch s p e
  let hit (t : Task) : Bool := t.part == p && t.lslot == e && t.lcube == cubeId s
  let n := (tasksOf s hit).length
  let r := dropHeld (dropTasks s hit) away
  (List.range (n + r.2.length)).foldl (fun s _ => decrement s p e) (onAway r.1 (·.cancelled away))

/-- A launch not yet placed is dropped: its 1 is subtracted and 0x12 posted (R146). -/
def dropLaunch (s : State) (p : Nat) (l : Launch) : State :=
  let s := postTo s p l.cq 0x12 1 l.tag 0
  decrement s p l.owner

/-- CANCEL of entry `e` (R145). -/
def cancelEntry (s : State) (p e : Nat) : State :=
  if eState s p e ≠ 1 ∧ eState s p e ≠ 2 then s
  else
    let set := cancelClosure s p (tsize s p) [e]
    let s := set.foldl (fun s e => entrySet s p e 36 36 1) s
    let k := part s p
    let hit (l : Launch) : Bool := l.namesOne set
    let gone := (k.waiting ++ k.urgent ++ k.normal).filter hit
    let s := putPart s p { k with waiting := k.waiting.filter (fun l => !hit l), urgent := k.urgent.filter (fun l => !hit l),
                                  normal := k.normal.filter (fun l => !hit l) }
    let s := gone.foldl (fun s l => dropLaunch s p l) s
    let s := set.foldl (fun s e => if eLevel s p e = 1 then cancelLaunch s p e else s) s
    set.foldl (fun s e => settle s p e) s

end Sys2Proof.Machine
end

