-- ==== Sys2Proof/Machine/Access.lean ====
section
/-! DEFINITION. The store buffer (R114, R116, R293), accesses to storage by loads and stores (R112 to R116), full/empty
accesses (R117 to R120), the RED operation at its home (R290), replies to parked travellers (R74). -/

namespace Sys2Proof.Machine

/-! ## What the store buffer gives a read (R114) -/

/-- What the stream's own store buffer gives a read of `size` bytes at `pa` (R114); a RED there must have left (R290). -/
inductive Fwd where
  | none
  | value (v : Nat) (poisoned : Bool)
  /-- it must wait until the overlapping entries have left -/
  | wait
deriving DecidableEq, Repr

def overlaps (a n b m : Nat) : Bool := decide (a < b + m) && decide (b < a + n)

/-- The same where `place` gives the address of an entry's target. -/
def forwardAt (place : SbEntry → Option Nat) (sb : List SbEntry) (pa size : Nat) : Fwd :=
  let met := sb.filter fun e => match place e with | some p => overlaps p e.size pa size | none => false
  match met.getLast? with
  | none => .none
  | some e =>
    let p := (place e).getD 0
    if met.any (fun e => match e.op with | .red _ => true | _ => false) then .wait
    else if p ≤ pa ∧ pa + size ≤ p + e.size then
      .value (if e.poison then 0 else e.val.toNat / 2 ^ (8 * (pa - p)) % 2 ^ (8 * size)) e.poison
    else .wait

/-- Entries for this cube's storage, by physical address. -/
def forward (sb : List SbEntry) (pa size : Nat) : Fwd := forwardAt (·.pa) sb pa size
/-- Entries for another cube, by network address; a register there is read only after its stores have left. -/
def forwardNet (sb : List SbEntry) (na size : Nat) : Fwd :=
  match forwardAt (fun e => e.net.map (·.1)) sb na size with
  | .value v p => if na / 2 ^ 53 = 3 then .wait else .value v p
  | f => f
/-- A store to the register is in the buffer. -/
def registerStored (sb : List SbEntry) (block off : Nat) : Bool :=
  sb.any fun e => match e.op with | .sysreg b o _ _ => b == block && o == off | _ => false

/-! ## Granules and their waiters (R118, R120) -/

/-- The core of a physical address, when it is local SRAM. -/
def coreOfPa (pa : Nat) : Option Nat := match homeOf pa with | .core c _ => some c | _ => none

/-- Serve the LFE requests waiting on granule `g` in arrival order while it is full. -/
def serveList (s : State) (g : Nat) : List (Nat × Nat) → State
  | [] => { s with granWait := removeAt s.granWait g }
  | (c, sl) :: ws =>
    match (slot s c sl).wait with
    | some { word := _, cond := .granule pa size clear va, reply := none } =>
      if s.full.contains g then
        let s := findErrors s pa size 4 (ecxOf s c sl)
        if s.poison.contains g then
          serveList (setReply s c sl (.trap (trapAt .poison (va.toNat / 16 * 16)))) g ws
        else match forward (stream s c (kindOf c == .channel && sl == 0)).sb pa size with
          | .wait => { s with granWait := insertAt s.granWait g ((c, sl) :: ws) }
          | .value _ true => serveList (setReply s c sl (.trap (trapAt .poison (va.toNat / 16 * 16)))) g ws
          | f =>
            let v := match f with | .value v _ => v | _ => rdN s.mem pa size
            let s := setReply s c sl (.value (BitVec.ofNat 64 v) false)
            let also := if coreOfPa pa = some c then [] else ((mirrorOf s (g * 16)).map (· / 16)).toList
            if clear then serveList (setFull s (g :: also) false) g ws else serveList s g ws
      else { s with granWait := insertAt s.granWait g ((c, sl) :: ws) }
    | _ => serveList s g ws

def serveGranule (s : State) (g : Nat) : State :=
  match mget [] s.granWait g with
  | [] => s
  | ws => serveList s g ws

/-- Set the full bits of the granules a write meets, and serve their waiters. -/
def fillGranules (s : State) (pa n : Nat) : State :=
  (granules pa n).foldl serveGranule (setFull s (granules pa n) true)

/-! ## Reductions and atomics (R285, R290) -/

/-- The value RED or the returning atomic `f` gives for `size` bytes: add, and, or, xor, signed and unsigned extremes,
floating add under RNE (R285, R290). -/
def redOp (f size : Nat) (old b : Nat) : Nat :=
  let m := 2 ^ (8 * size)
  let sg (v : Nat) : Int := if v < m / 2 then v else (v : Int) - m
  match f with
  | 0 => (old + b) % m
  | 1 => old &&& b
  | 2 => old ||| b
  | 3 => old ^^^ b
  | 4 => if sg old ≤ sg b then old else b
  | 5 => if sg old ≤ sg b then b else old
  | 6 => min old b
  | 7 => max old b
  | _ => (fadd (if size = 4 then fp32 else fp64) old b .rne).bits

/-! ## The store buffer -/

/-- Whether an access of another core to `pa` meets a sealed core (R385). -/
def sealedFor (s : State) (c pa : Nat) : Bool := match coreOfPa pa with
  | some w => w != c && (core s w).isSealed && c != stewardOf (clusterOf w)
  | none => false

/-- A RED at its home: a poisoned target stays so, unchanged, and the event is logged (R290). -/
def applyRed (s : State) (c : Nat) (e : SbEntry) (pa f : Nat) : State :=
  let s := findErrors s pa e.size 4 (ecxOf s c e.slot)
  if poisonedAt s pa e.size then trapLog s (slot s c e.slot).hdr.part 1 c 7 e.va
  else
    let s := writeVal s pa e.size (redOp f e.size (rdN s.mem pa e.size) (e.val.toNat % 2 ^ (8 * e.size))) false
    if e.window then fillGranules s pa e.size else s

/-! ## Packets leave through the on-die port queues (R24, R405, R406) -/

/-- The ordering class of a kind: 0 OC-S, 1 OC-A, 2 OC-R, 3 OC-M (R406). -/
def classOf (kind : Nat) : Nat :=
  if kind ≤ 5 ∨ kind = 9 then 1 else if kind ≤ 8 then 0 else if kind = 10 then 2 else 3

/-- A packet of a traveller of core `c`. -/
def packetOf (s : State) (c sl kind dcube : Nat) (payload : Payload) : Packet :=
  { scube := cubeId s, dcube := dcube, cls := classOf kind, kind := kind, ecx := ecxOf s c sl, spart := (slot s c sl).hdr.part,
    score := c, msgid := s.net.msgid, node := sl, child := (slot s c sl).lvl, payload := payload }

/-- Append a packet to the port queue and take its MSGID. -/
def post (s : State) (p : Sent) : State :=
  { s with net := { s.net with portQ := s.net.portQ ++ [p], msgid := (s.net.msgid + 1) % 2 ^ 32 } }

/-- A store, a RED or a register write of a steward to another cube (R276, R290, R298). -/
def netStore (s : State) (c : Nat) (e : SbEntry) (na cube : Nat) : State :=
  let pl : Payload := match e.op with
    | .red f => .atomic (2 + f) e.size e.val
    | .strl => .atomic 11 e.size e.val
    | _ => .data ((leBytes e.size e.val.toNat).map fun b => (b, e.poison))
  let kind := match e.op with | .red _ | .strl => 9 | _ => 4
  post s { pkt := { packetOf s c e.slot kind cube pl with addr := na, total := e.size }, who := some (c, e.slot), counted := true }

/-- A read of a steward from another cube (R276, R298). -/
def netLoad (s : State) (c sl na cube size : Nat) : State :=
  post s { pkt := { packetOf s c sl 3 cube (.read size) with addr := na, total := size }, who := some (c, sl) }

/-- A barrier event of core `c` is on its way to its barrier on this cube (R316); those of one cycle are in the order of their
cores (R120, R310). -/
def sendBar (s : State) (c sl core b kind n : Nat) : State :=
  let e : BarEvent := { core := core, bar := b, kind := kind, n := (n : Int), src := (c, sl, cubeId s), since := s.cycle }
  let later (f : BarEvent) : Bool := f.since == s.cycle && decide (c < f.src.1)
  { s with barEvents := s.barEvents.filter (fun f => !later f) ++ e :: s.barEvents.filter later }

/-- The traveller of slot `sl` issues on the X-stream of core `c`: slot 0 of a channel core (R248). -/
def onX (c sl : Nat) : Bool := kindOf c == .channel && sl == 0

/-- An event of stream (c, x) is on its way: a later store or atomic of the stream waits for it (R293, R318). -/
def barOnWay (s : State) (c : Nat) (x : Bool) : Bool :=
  s.barEvents.any fun e => e.src.1 == c && e.src.2.2 == cubeId s && onX c e.src.2.1 == x

/-- An event of traveller (c, sl) is on its way (R294). -/
def barOut (s : State) (c sl : Nat) : Bool := s.barEvents.any fun e => e.src == (c, sl, cubeId s)

/-! ## Entries leave -/

/-- The answer to an STRL that waits for it, or to both copies of an escorted pair (R289, R387). -/
def answerStore (s : State) (c sl : Nat) (r : Reply) : State :=
  let waits (s : State) (c sl : Nat) : Bool := match (slot s c sl).wait with | some { word := _, cond := .stored _, reply := none } => true | _ => false
  let one (s : State) (c sl : Nat) : State := if waits s c sl then readyIfReplied (fillReply s c sl r) c sl else s
  match partnerOf s c sl with
  | some (d, k) => one (one s c sl) d k
  | none => one s c sl

/-- An SFE, which waits for nothing (R119), meets a home that has been sealed since it issued: its traveller traps at its next issue
(R385). -/
def lateTrap (s : State) (c sl : Nat) (t : TrapInfo) : State := updSlot s c sl fun k => { k with pending := k.pending ++ [.late t] }

/-- A store of an entry at its home on this cube. -/
def storeAt (s : State) (c : Nat) (e : SbEntry) (pa : Nat) : State :=
  let s := match kindOf c, homeOf pa with
    | .steward, .hall h => hallStore s h e.size e.val.toNat e.poison
    | _, _ => writeVal s pa e.size e.val.toNat e.poison
  if e.window then fillGranules s pa e.size else s

/-- What a store-buffer entry does at `pa` (R94, R116, R119, R275, R290, R316); a wake or an arrival for a primary core
goes to its twin too (assumption 57). -/
def effectAt (s : State) (c : Nat) (e : SbEntry) (pa : Nat) : State :=
  let logged (cause : Nat) : State := trapLog s (slot s c e.slot).hdr.part 1 c cause e.va
  let s := match e.op with
    | .store => if sealedFor s c pa then logged 8
        else if rowRetired s pa then logged 0
        else storeAt s c e pa
    | .strl =>
      let s := findErrors s pa e.size 4 (ecxOf s c e.slot)
      if sealedFor s c pa then answerStore s c e.slot (.trap { cause := .sealed, sub := 1, addr := e.va })
      else if poisonedAt s pa e.size then answerStore s c e.slot (.trap { cause := .poison, addr := BitVec.ofNat 64 (e.va.toNat / 16 * 16) })
      else answerStore (storeAt s c e pa) c e.slot (.value 0 false)
    | .sfe f => if sealedFor s c pa then lateTrap s c e.slot { cause := .sealed, sub := 1, addr := e.va }
        else
          let s := writeVal s pa e.size e.val.toNat false
          if f then fillGranules s pa e.size else s
    | .red f => if sealedFor s c pa then logged 8 else applyRed s c e pa f
    | .bar core b kind n =>
      if core = c then barApply s c b kind (n : Int)
      else if isPrimaryCore s core then sendBar (sendBar s c e.slot core b kind n) c e.slot (twinCore core) b kind n
      else sendBar s c e.slot core b kind n
    | .sysreg block off level part => { s with regWrites := s.regWrites ++ [⟨.steward c level part, block, off, e.val, none⟩] }
    | .wake tid core =>
      let ws : List Flight := .wake tid core (some (c, e.slot)) :: if isPrimaryCore s core then [.wake tid (twinCore core) none] else []
      { s with flights := s.flights ++ ws }
  (granules pa e.size).foldl serveGranule s

/-- A store-buffer entry reaches its target on this cube; what is written to a primary core's window is written to its twin's
as well (R387). -/
def applyEntry (s : State) (c : Nat) (e : SbEntry) (pa : Nat) : State :=
  let s := match e.pa, homeOf pa with
    | some _, .dram _ _ => dramAccess s c e.slot pa true 26
    | _, _ => s
  let s := effectAt s c e pa
  let s := match e.window, mirrorOf s pa with
    | true, some q => effectAt s c e q
    | _, _ => s
  match e.op with
  | .bar _ _ _ _ => s
  | .wake _ _ => s
  | _ => if e.counted then ackOuts s c e.slot else s

/-- One entry less of store buffer `key` precedes an invalidation. -/
def Issued.popped (key : Nat) : Issued → Issued
  | .stores k n => .stores k (if k = key then n - 1 else n)
  | i => i

/-- The buffer after its oldest entry has left; the copies of the enqueue buffer that it preceded, those of the same stream, have
one entry less ahead (R171, R248), and so has an invalidation that waits for it (R335). -/
def popSb (s : State) (c : Nat) (x : Bool) (rest : List SbEntry) : State :=
  let s := updStream { s with xlinvOut := s.xlinvOut.map (Issued.popped (streamKey c x)) } c x fun k => { k with sb := rest }
  if ((core s c).enqBuf).isEmpty then s
  else updCore s c fun k => { k with enqBuf := k.enqBuf.map fun q => if onX c q.slot == x then { q with ahead := q.ahead - 1 } else q }

/-- A RED takes its place in the order of its double: it waits while the double is reserved (R288, R290). -/
def waitsForDouble (s : State) (e : SbEntry) : Bool := match e.op, e.pa with
  | .red _, some pa => !(mget [] s.resvQ (pa / 8 * 8)).isEmpty
  | _, _ => false

/-- The entry's target is not its own core. -/
def SbEntry.leavesCore (e : SbEntry) (c : Nat) : Bool := match e.op, e.pa with
  | .bar core _ _ _, _ => core != c
  | .wake _ _, _ => true
  | .sysreg _ _ _ _, _ => true
  | _, some pa => coreOfPa pa != some c
  | _, none => true
/-- KIND of the entry as an escorted message, and its payload (R387). -/
def SbEntry.kind (e : SbEntry) : Nat := match e.op with | .red _ | .strl => 9 | .bar _ _ _ _ => 6 | .wake _ _ => 1 | _ => 4
def SbEntry.bytes (e : SbEntry) : List Byte :=
  leBytes 8 e.val.toNat ++ leBytes 1 e.size ++ leBytes 1 (if e.poison then 1 else 0) ++ (match e.op with
    | .store => [0]
    | .strl => [6]
    | .sfe f => [1, if f then 1 else 0]
    | .red f => 2 :: leBytes 1 f
    | .bar core b kind n => 3 :: (leBytes 2 core ++ leBytes 1 b ++ leBytes 1 kind ++ leBytes 4 n)
    | .sysreg b o _ _ => 4 :: (leBytes 4 b ++ leBytes 4 o)
    | .wake tid core => 5 :: (leBytes 4 tid ++ leBytes 2 core))

/-- A RED to another cube is in the buffer until its home has applied it (R290). -/
def SbEntry.isRed (e : SbEntry) : Bool := match e.op with | .red _ => true | _ => false

/-- `t` is `s` after the oldest entry of store buffer `key` has become a packet: an invalidation that waited for the one waits for
the other (R335). -/
def followStore (s : State) (key : Nat) (t : State) : State :=
  if s.xlinvOut.any fun i => match i with | .stores k n => k == key && decide (0 < n) | _ => false then
    { t with xlinvOut := t.xlinvOut ++ (t.net.portQ.drop s.net.portQ.length).map fun x => .packet x.pkt.msgid x.pkt.off }
  else t

/-- The oldest entry of a store buffer leaves and takes its place in the order M (R116, R293). An entry for another
cube's storage leaves as a packet once the port queue has room (R24, R298); a RED's entry stays behind its packet (R290). -/
def drainOne (s : State) (c : Nat) (x : Bool) : State :=
  match (stream s c x).sb with
  | [] => s
  | e :: es =>
    if barOnWay s c x then s
    else if (slot s c e.slot).pair && !e.matched && e.leavesCore c then escSend s c e.slot e.kind e.va e.bytes (.entry e)
    else match e.net with
    | some (na, cube) =>
      if e.sent || !portRoom s then s
      else if e.isRed then netStore (updStream s c x fun k => { k with sb := { e with sent := true } :: es }) c e na cube
      else followStore s (streamKey c x) (netStore (popSb s c x es) c e na cube)
    | none =>
      let pa := e.pa.getD 0
      if e.pa.isNone || (servable s pa && !waitsForDouble s e) then applyEntry (popSb s c x es) c e pa else s

/-- The home of another cube has answered the RED at the head of a store buffer: it leaves. -/
def redAnswered (s : State) (c : Nat) (x : Bool) : State := match (stream s c x).sb with
  | e :: es => if e.sent then popSb s c x es else s
  | [] => s

/-- The entries of a traveller. -/
def sbOf (s : State) (c : Nat) (x : Bool) (sl : Nat) : List SbEntry := (stream s c x).sb.filter (fun e => e.slot = sl)

/-- One step of draining the store buffer of the issuing stream: none when no entry of the traveller is left, and no event of it is on
its way. -/
def drainStep (s : State) (x : Ctx) : Option State :=
  if (sbOf s x.c x.x x.sl).isEmpty && !barOut s x.c x.sl then none else some (drainOne s x.c x.x)

/-- One step of draining the whole store buffer of the issuing stream: the agent's earlier stores and events come first (R293,
R318). -/
def drainAll (s : State) (x : Ctx) : Option State :=
  if ((stream s x.c x.x).sb).isEmpty && !barOnWay s x.c x.x then none else some (drainOne s x.c x.x)

/-- OUTS grows by one for an operation it counts (R307). -/
def countOuts (s : State) (c sl : Nat) : State := updSlot s c sl fun k => { k with outs := k.outs + 1 }

/-- A record that OUTS counts until it completes or faults (R307): a courier command, a DPUSH, a DPULL. -/
def Rec.inOuts (r : Rec) : Bool :=
  (r.st == 0 || r.st == 1) && (r.path == 3 || r.path == 5 || (r.major == 0x39 && (r.fn == 2 || r.fn == 3)))
/-- OUTS of a traveller (R307): its messages, and its records that are counted. -/
def outsOf (s : State) (c sl : Nat) : Nat := (slot s c sl).outs + ((recsOf s c sl).filter Rec.inOuts).length

/-- The issue of a counted operation is held while OUTS is full (R307). -/
def outsFull (s : State) (c sl : Nat) : Bool := decide (65535 ≤ outsOf s c sl)

/-- Enter an operation in the store buffer: held while the buffer is full (R116) and while OUTS is full (R307). -/
def pushStore (x : Ctx) (s : State) (e : SbEntry) (charged : State → State := id) : Act :=
  if 16 ≤ (stream s x.c x.x).sb.length || (e.counted && outsFull s x.c x.sl) then .hold (drainOne s x.c x.x)
  else
    let s := updStream (charged s) x.c x.x fun k => { k with sb := k.sb ++ [e] }
    .next (if e.counted then countOuts s x.c x.sl else s)

/-! ## Loads and stores -/

/-- Charge an access that issues, at the class of what it reaches (R113, R277). A DRAM access is charged where it looks up the channel
cache (`dramAccess`, R281); a steward's is also served by the remote-access engine (R276, R360). -/
def chargeAccess (x : Ctx) (s : State) (r : Reach) : State := match r with
  | .own _ => chargeTrav s x.c x.sl 4 1
  | .window _ _ => chargeTrav s x.c x.sl 5 1
  | .hall h => chargeTravAt s x.c x.sl (hallMeter h) 6 1
  | .dram _ => if kindOf x.c = .steward then chargeTravAt s x.c x.sl 1384 36 1 else s
  | _ => chargeTrav s x.c x.sl 0 1

/-- A steward's access goes to system registers, which are reached by doubles only (R275). -/
def halfRegister (s : State) (c p va size : Nat) : Bool :=
  kindOf c == .steward && size != 8 && decide (va ≤ 0x00FFFEFFFFFFFFFF) && (match tlbFind s c p va with | some e => e.oa / 2 ^ 53 == 3 | none => false)

/-- The checks every access shares, in the order of R125: alignment, then what the address reaches. -/
def access (x : Ctx) (s : State) (va size : Nat) (rd wr : Bool) (k : State → Reach → Act) : Act :=
  let p := (slot s x.c x.sl).hdr.part
  if va % size ≠ 0 ∨ halfRegister s x.c p va size = true then .trap (trapAt .align va)
  else
    match reach s x.c x.x p va rd wr with
    | .trap t => .trap t
    | .miss => .park 6 (.walk (BitVec.ofNat 64 va)) (askWalk s x.c x.sl p va)
    | .migrate dc cube => migrateAct x s drainStep va dc cube x.pc
    | r => k (tlbTouch s x.c p va) r

/-- An access of this core's own SRAM meets a register or FLAGS of its traveller that a fixed-latency write is still to reach: it waits
(R47, R55). -/
def pendMet (x : Ctx) (s : State) (off size : Nat) : Bool :=
  (stream s x.c x.x).pend.any fun w => decide (x.t < w.ready)
    && overlaps off size ((core s x.c).lmwsb + 256 * x.sl + w.place.1) w.place.2

/-- A load of `size` bytes into register field `d`, extended by `ext` (R112 to R115); `sync` for LDAQ (R289), whose result is
interlocked (R283). DEDUCED (assumption 62): a load that the store buffer answers for an address beyond this core's SRAM is
interlocked too (R53). -/
def loadBody (x : Ctx) (s : State) (va size d : Nat) (ext : Nat → Word) (sync : Bool) : Act :=
  let poisoned := trapAt .poison (va / 16 * 16)
  match x.got with
  | some (v, p) => if p && sync then .trap poisoned else .next (x.wr s d (if p then 0 else ext v.toNat) 0 p)
  | none => access x s va size true false fun s r =>
    match r with
    | .dead => .next (x.wr (trapLog s (slot s x.c x.sl).hdr.part 1 x.c 0 (BitVec.ofNat 64 va)) d 0 0 true)
    | .net na cube =>
      match forwardNet (stream s x.c x.x).sb na size with
      | .wait => .hold (drainOne s x.c x.x)
      | .value v p => if p && sync then .trap poisoned else .next (x.wr (chargeAccess x s r) d (if p then 0 else ext v) 0 p)
      | .none =>
        if portRoom s then .park 1 (.reply (BitVec.ofNat 64 va)) (netLoad (chargeAccess x s r) x.c x.sl na cube size)
        else .park 6 .port s
    | .sysreg b o =>
      if registerStored (stream s x.c x.x).sb b o then .hold (drainOne s x.c x.x)
      else .next (x.wr (readEffect (chargeAccess x s r) b o) d (ext (sysRead s b o).toNat))
    | _ =>
      let pa := (r.pa x.c).getD 0
      let own := match r with | .own off => some off | _ => none
      let lat := if own.isSome && !sync then 3 else 0
      if (own.map (pendMet x s · size)).getD false then .hold s
      else match forward (stream s x.c x.x).sb pa size with
      | .wait => .hold (drainOne s x.c x.x)
      | .value v p => if p && sync then .trap poisoned
          else .next (x.wr (chargeAccess x s r) d (if p then 0 else ext v) lat p)
      | .none =>
        if own.isSome then
          let s := findErrors s pa size 4 (ecxOf s x.c x.sl)
          let q := poisonedAt s pa size
          if q && sync then .trapIn s poisoned
          else .next (x.wr (chargeAccess x s r) d (if q then 0 else ext (rdN s.mem pa size)) lat q)
        else .park (if servable s pa then 1 else 6) (.load pa size sync (BitVec.ofNat 64 va)) (chargeAccess x s r)

/-- The completion of a load at its home (R113, R115, R125 step 7, R385). -/
def completeLoad (s : State) (c sl pa size : Nat) (sync : Bool) (va : Word) : State :=
  if sealedFor s c pa then
    setReply s c sl (if sync then .trap { cause := .sealed, sub := 1, addr := va } else .value 0 true)
  else if !servable s pa then s
  else
    let s := match homeOf pa with
      | .dram _ _ => dramAccess s c sl pa false 25
      | _ => s
    let s := findErrors s pa size 4 (ecxOf s c sl)
    if poisonedAt s pa size then
      setReply s c sl (if sync then .trap { cause := .poison, addr := BitVec.ofNat 64 (va.toNat / 16 * 16) } else .value 0 true)
    else setReply s c sl (.value (BitVec.ofNat 64 (rdN s.mem pa size)) false)

/-- A store to the workspace region of the core itself: it takes effect after the older entries of the buffer, and waits for a pending
fixed-latency write of the same bytes, so that its value stands (R55). -/
def ownWorkspaceStore (x : Ctx) (s : State) (off size v : Nat) (poisoned : Bool) (charged : State → State) : Act :=
  match drainAll s x with
  | some s' => .hold s'
  | none =>
    if pendMet x s off size then .hold s else .next (writeVal (charged s) (sramPa x.c off) size v poisoned)

/-- A store of the low `size` bytes of `v`, the value of register field `r` (R112, R113, R116). Operations that reach
beyond this core's SRAM are counted (R307). -/
def storeBody (x : Ctx) (s : State) (va size r : Nat) (v : Word) (poisoned : Bool) (op : SbOp) : Act :=
  access x s va size false true fun s rc =>
    let ch (s : State) : State := chargeAccess x s rc
    let e : SbEntry := { slot := x.sl, op := op, va := BitVec.ofNat 64 va, pa := rc.pa x.c, size := size, val := v,
                         poison := poisoned, window := false, counted := true }
    match rc with
    | .own off =>
      if regionOf s x.c off = .workspace then ownWorkspaceStore x s off size v.toNat poisoned ch
      else pushStore x s { e with counted := false } ch
    | .window _ _ => if poisoned then .trap (poisonReg r) else pushStore x s { e with window := true } ch
    | .net na cube => pushStore x s { e with net := some (na, cube) } ch
    | .sysreg b o => pushStore x s { e with op := .sysreg b o (slot s x.c x.sl).lvl (slot s x.c x.sl).hdr.part } ch
    | .dead => .next (trapLog s (slot s x.c x.sl).hdr.part 1 x.c 0 (BitVec.ofNat 64 va))
    | _ => pushStore x s e ch

/-! ## Reads of records in local SRAM at issue -/

/-- The physical address of `n` bytes at `va` that lie in this core's local SRAM. -/
def localPlace (x : Ctx) (s : State) (va n : Nat) : Option Nat :=
  if va ≤ 0x00FFFEFFFFFFFFFF then none
  else match reach s x.c x.x (slot s x.c x.sl).hdr.part va false false with
    | .own off => if off + n ≤ sramSize x.c then some (sramPa x.c off) else none
    | _ => none

/-- The first poisoned granule of `n` bytes at `pa`, as the address of the granule (R376). -/
def poisonIn (s : State) (pa n va : Nat) : Option TrapInfo :=
  (if n = 0 then [] else granules pa n).findSome? fun g =>
    if s.poison.contains g then some (trapAt .poison (va - pa % 16 + (g - pa / 16) * 16)) else none

/-- An entry of the stream's store buffer overlaps `n` bytes at `pa`. -/
def touchesBuffer (s : State) (c : Nat) (x : Bool) (pa n : Nat) : Bool :=
  (stream s c x).sb.any fun e => match e.pa with | some p => overlaps p e.size pa n | none => false

/-- What a read of `n` bytes of local SRAM at issue waits for, after one step of it: overlapping entries of the buffer (R114), and a pending
write of bytes of the workspace (R47, R55). -/
def readStep (x : Ctx) (s : State) (pa n : Nat) : Option State :=
  if touchesBuffer s x.c x.x pa n then some (drainOne s x.c x.x)
  else if pendMet x s (pa - sramPa x.c 0) n then some s else none

/-- Read `n` bytes of local SRAM at issue as a load does; poison traps. -/
def readLocal (x : Ctx) (s : State) (pa n va : Nat) (k : State → List Byte → Act) : Act :=
  match readStep x s pa n with
  | some s' => .hold s'
  | none =>
    let s := findErrors s pa n 4 (ecxOf s x.c x.sl)
    match poisonIn s pa n va with
    | some t => .trapIn s t
    | none => k s (rdBytes s.mem pa n)

/-! ## Full/empty accesses (R117 to R119) -/

/-- The granule storage an LFE or SFE names: the data or ring region of this core or of a window of its cluster; any other
address traps BOUNDS, untranslated or not, and never migrates. -/
def fullEmptyPlace (x : Ctx) (s : State) (va : Nat) : Option Reach :=
  if va ≤ 0x00FFFEFFFFFFFFFF then none
  else match reach s x.c x.x (slot s x.c x.sl).hdr.part va true true with
    | .own off => if hasFull s (sramPa x.c off) then some (.own off) else none
    | .window w off => if hasFull s (sramPa w off) then some (.window w off) else none
    | _ => none

/-- LFE (R118). -/
def lfeBody (x : Ctx) (s : State) (va size d : Nat) (clear : Bool) : Act :=
  match x.got with
  | some (v, _) => .next (x.wr s d v)
  | none =>
    if va % size ≠ 0 then .trap (trapAt .align va)
    else match fullEmptyPlace x s va with
      | none => .trap (trapAt .bounds va)
      | some r =>
        let pa := (r.pa x.c).getD 0
        match r with
        | .own _ =>
          let s := findErrors s pa size 4 (ecxOf s x.c x.sl)
          if s.full.contains (pa / 16) then
            if s.poison.contains (pa / 16) then .trapIn s (trapAt .poison (va / 16 * 16))
            else match forward (stream s x.c x.x).sb pa size with
              | .wait => .hold (drainOne s x.c x.x)
              | .value _ true => .trap (trapAt .poison (va / 16 * 16))
              | f =>
                let v := match f with | .value v _ => v | _ => rdN s.mem pa size
                .next (x.wr (if clear then setFull (chargeAccess x s r) [pa / 16] false else chargeAccess x s r) d (BitVec.ofNat 64 v) 3)
          else .park 2 (.granule pa size clear (BitVec.ofNat 64 va))
            { chargeAccess x s r with granWait := insertAt s.granWait (pa / 16) (mget [] s.granWait (pa / 16) ++ [(x.c, x.sl)]) }
        | _ => .park 1 (.granule pa size clear (BitVec.ofNat 64 va)) (chargeAccess x s r)

/-- A window LFE request reaches the home of its granule: it traps at a sealed home, else it queues there (R118, R120). -/
def granuleArrive (s : State) (c sl pa : Nat) (va : Word) : State :=
  let ws := mget [] s.granWait (pa / 16)
  if ws.contains (c, sl) then serveGranule s (pa / 16)
  else if sealedFor s c pa then setReply s c sl (.trap { cause := .sealed, sub := 1, addr := va })
  else serveGranule { s with granWait := insertAt s.granWait (pa / 16) (ws ++ [(c, sl)]) } (pa / 16)

/-- SFE (R119). At a sealed home it traps (R385). -/
def sfeBody (x : Ctx) (s : State) (va size : Nat) (v : Word) (fill : Bool) : Act :=
  if va % size ≠ 0 then .trap (trapAt .align va)
  else match fullEmptyPlace x s va with
    | none => .trap (trapAt .bounds va)
    | some r =>
      let own := match r with | .own _ => true | _ => false
      if !own && ((r.pa x.c).map (sealedFor s x.c)).getD false then .trap (trapAt .sealed va 1)
      else pushStore x s
        { slot := x.sl, op := .sfe fill, va := BitVec.ofNat 64 va, pa := r.pa x.c, size := size, val := v, poison := false,
          window := !own, counted := !own } (chargeAccess x · r)

end Sys2Proof.Machine
end

