-- ==== Sys2Proof/Machine/Bar.lean ====
section
/-! DEFINITION. The BAR instructions (R313 to R317, R324) and the delivery of barrier events (R310, R316). -/

namespace Sys2Proof.Machine

/-- The word of a BAR form: the barrier index stands in the rd field (R313). -/
def wordB (fn : Nat) (w : BitVec 3) (n a b : BitVec 5) : Nat := word3 (0x1F000000 + fn) w n a b

def barTrap (b : Nat) : TrapInfo := { cause := .barrier, addr := BitVec.ofNat 64 b }
def illegalOf (word : Nat) : TrapInfo := { cause := .illegal, addr := BitVec.ofNat 64 word }

/-- A BAR instruction (R313). -/
def bar (fn : Nat) (w : BitVec 3) (n a b : BitVec 5) (reads : List Nat) (legal : Bool) (s : State)
    (f : Ctx → State → Act) : Result :=
  issue { word := wordB fn w n a b, legal := legal, reads := reads, sync := reads } s f

/-- BINIT (R311, R315). -/
def execBinit (w : BitVec 3) (n a : BitVec 5) (s : State) : Result :=
  bar 0 w n a 0 [rn a] true s fun x s =>
    let v := (x.rd s (rn a)).toNat
    if 65536 ≤ v then .trap (illegalOf (wordB 0 w n a 0))
    else match drainStep s x with
      | some s' => .hold s'
      | none =>
        let k := barrier s x.c n.toNat
        if v = 0 ∨ k.v = true then .trap (barTrap n.toNat)
        else .next (putBarrier s x.c n.toNat { pcnt := k.pcnt, exp := v, v := true })

/-- BINV (R311, R315). -/
def execBinv (w : BitVec 3) (n : BitVec 5) (s : State) : Result :=
  bar 5 w n 0 0 [] true s fun x s =>
    match drainStep s x with
    | some s' => .hold s'
    | none =>
      let k := barrier s x.c n.toNat
      if k.rb then .trap (barTrap n.toNat)
      else if k.v then .next (putBarrier (barBreak s x.c n.toNat) x.c n.toNat { pcnt := k.pcnt })
      else .next s

/-- Fields of the arrive word (R314). -/
def arrVal (v : Word) : Nat := v.toNat % 2 ^ 32
def arrCore (v : Word) : Nat := v.toNat / 2 ^ 32 % 2 ^ 13
def arrCube (v : Word) : Nat := v.toNat / 2 ^ 45 % 2 ^ 12
def arrRmt (v : Word) : Bool := v.getLsbD 57
/-- The reserved bits of the arrive word are zero (R314). -/
def arrOk (kind : Nat) (v : Word) : Bool :=
  v.toNat / 2 ^ 58 == 0 && (arrRmt v || (arrCore v == 0 && arrCube v == 0)) && !(kind == 0 && decide (2 ^ 16 ≤ arrVal v))
/-- Arrivals or bytes the word carries: for BARRIVE 0 means 1 (R314). -/
def arrCount (kind : Nat) (v : Word) : Nat := if kind = 0 ∧ arrVal v = 0 then 1 else arrVal v

/-- CORE-path accesses of a traveller that are not yet performed at NETWORK scope (R298). -/
def coreOutstanding (s : State) (c : Nat) (x : Bool) (sl : Nat) : Bool :=
  !(sbOf s c x sl).isEmpty || barOut s c sl
    || (s.net.portQ ++ s.net.retry).any (fun p => p.who == some (c, sl) && p.cmd.isNone && (p.pkt.kind == 4 || p.pkt.kind == 9))

/-- A barrier event on another cube (R316): every earlier CORE-path access first, then the packet and its reply. -/
def farBar (x : Ctx) (s : State) (n kind : Nat) (v : Word) : Act :=
  if coreOutstanding s x.c x.x x.sl then .park 4 .performed s
  else if portRoom s then
    .park 1 (.reply v) (post s { pkt := { packetOf s x.c x.sl 6 (arrCube v) (.bar n kind (arrCount kind v)) with
      addr := 2 ^ 54 + arrCube v * 2 ^ 41 + arrCore v * 2 ^ 28, total := 8 }, who := some (x.c, x.sl) })
  else .park 6 .port s

/-- BARRIVE and BEXPECT (R314, R316). -/
def barSend (kind : Nat) (w : BitVec 3) (n a : BitVec 5) (s : State) : Result :=
  bar (1 + kind) w n a 0 [rn a] true s fun x s =>
    if x.got.isSome then .next s
    else
      let v := x.rd s (rn a)
      let e (core : Nat) : SbEntry :=
        { slot := x.sl, op := .bar core n.toNat kind (arrCount kind v), va := v, pa := none, size := 8, val := v, poison := false,
          window := false, counted := false }
      if !arrOk kind v then .trap (illegalOf (wordB (1 + kind) w n a 0))
      else if arrRmt v = false then
        let k := barrier s x.c n.toNat
        if k.v = false ∨ k.rb = true then .trap (barTrap n.toNat) else pushStore x s (e x.c)
      else if arrCube v = cubeId s then
        if kindOf (arrCore v) = .steward ∨ kindOf (arrCore v) = .absent ∨ inPartition s (arrCore v) (slot s x.c x.sl).hdr.part = false
          then .trap { cause := .bounds, addr := BitVec.ofNat 64 (arrCore v) }
        else pushStore x s (e (arrCore v))
      else farBar x s n.toNat kind v

def execBarrive (w : BitVec 3) (n a : BitVec 5) (s : State) : Result := barSend 0 w n a s
def execBexpect (w : BitVec 3) (n a : BitVec 5) (s : State) : Result := barSend 1 w n a s

/-- Barrier `n` of this core is read after the agent's own earlier events on it have left its store buffer (R293, R318). -/
def readBarrier (x : Ctx) (s : State) (n : Nat) (k : Barrier → Act) : Act :=
  if (stream s x.c x.x).sb.any fun e => match e.op with | .bar core b _ _ => core == x.c && b == n | _ => false then .hold (drainOne s x.c x.x)
  else k (barrier s x.c n)

/-- BWAIT (R317). -/
def execBwait (w : BitVec 3) (n a : BitVec 5) (s : State) : Result :=
  bar 3 w n a 0 [rn a] true s fun x s =>
    if x.got.isSome then .next s
    else readBarrier x s n.toNat fun k =>
      let tok := (x.rd s (rn a)).toNat % 65536
      if k.v = false then .trap (barTrap n.toNat)
      else if k.pcnt ≠ tok then .next s
      else .park 3 (.phase n.toNat tok) (putBarrier s x.c n.toNat { k with waiters := k.waiters.filter (· ≠ x.sl) ++ [x.sl] })

/-- BTEST: the register is named by the ra field (R317). -/
def execBtest (w : BitVec 3) (n a b : BitVec 5) (s : State) : Result :=
  bar 4 w n a b [rn b] (destOk a) s fun x s =>
    let v := (x.rd s (rn b)).toNat
    if 2 ≤ v then .trap (illegalOf (wordB 4 w n a b))
    else readBarrier x s n.toNat fun k =>
      .next (x.wr s (rn a) (if v = 1 then BitVec.ofInt 64 k.pend else barrierLo s x.c n.toNat))

/-- LANTERN's result (R324); the count is SENT - RECV as a signed number, clamped. -/
def lanternWord (s : State) (p k : Nat) : Word :=
  let l := lantern s p k
  let c : Int := (BitVec.ofNat 64 (mget 0 s.net.sent p) - BitVec.ofNat 64 (mget 0 s.net.recv p)).toInt
  let c := max (-(2 ^ 31)) (min (2 ^ 31 - 1) c)
  BitVec.ofNat 64 (l.round + b2n l.black * 2 ^ 16 + b2n l.probe.isSome * 2 ^ 17 + b2n l.done * 2 ^ 18 + b2n l.en * 2 ^ 19
    + b2n l.lead * 2 ^ 20 + (BitVec.ofInt 32 c).toNat * 2 ^ 32)

/-- LANTERN (R324). -/
def execLantern (w : BitVec 3) (d a : BitVec 5) (s : State) : Result :=
  bar 6 w d a 0 [rn a] (destOk d) s fun x s =>
    match x.got with
    | some (v, _) => .next (x.wr s (rn d) v)
    | none =>
      let v := (x.rd s (rn a)).toNat
      if 16 ≤ v then .trap (illegalOf (wordB 6 w d a 0))
      else if s.ws = .off ∨ s.ws = .boot then .trap { cause := .neterr, addr := BitVec.ofNat 64 v }
      else .park 1 (.lantern (slot s x.c x.sl).hdr.part v) s

/-- PHASE (R324). -/
def execPhase (w : BitVec 3) (d a : BitVec 5) (s : State) : Result :=
  bar 7 w d a 0 [rn a] (destOk d) s fun x s =>
    match x.got with
    | some (v, _) => .next (x.wr s (rn d) v)
    | none =>
      let v := (x.rd s (rn a)).toNat
      let p := (slot s x.c x.sl).hdr.part
      if 2 ^ 32 ≤ v then .trap (illegalOf (wordB 7 w d a 0))
      else if isEntry s p v = false then .trap (trapAt .bounds v)
      else if eState s p v = 0 ∨ eLevel s p v ≠ 3 then .next (x.wr s (rn d) (BitVec.allOnes 64))
      else if eState s p v = 3 ∨ eState s p v = 4 then .next (x.wr s (rn d) (BitVec.ofNat 64 (entryGet s p v 47 40)))
      else .park 3 (.phaseEnd p v) s

end Sys2Proof.Machine
end

