-- ==== Sys2Proof/Machine/Create.lean ====
section
/-! DEFINITION. The creation of travellers in slots (R37, R70 to R74, R84) and their end (R88, R143). -/

namespace Sys2Proof.Machine

/-! ## Identifiers -/

/-- Every tid in use on the cube (R70). -/
def tidsInUse (s : State) : List Nat :=
  ((liveSlots s).filter (fun e => stateOf s e.1 e.2 ≠ .free ∧ stateOf s e.1 e.2 ≠ .ended)).map (fun e => tidOf s e.1 e.2)
    ++ (awayOf s).map Packed.tid

/-- The fresh tid of a traveller (R70): a free value that no live traveller carries. -/
def freshTid (s : State) : Nat :=
  let used := tidsInUse s
  let t := (Config.freshTid s.free).toNat
  (((List.range (used.length + 1)).find? (fun k => !used.contains ((t + k) % 2 ^ 32))).map (fun k => (t + k) % 2 ^ 32)).getD t
def tookTid (s : State) : State := { s with free := s.free + 1 }

/-! ## Draw keys (R37) -/

def keyLaunch (seed ix : Nat) : Nat := mix64 (seed ^^^ (ix * 0x9E3779B97F4A7C15 % 2 ^ 64))
def keyTask (kp cix : Nat) : Nat := mix64 (kp ^^^ ((cix + 1) * 0xC2B2AE3D27D4EB4F % 2 ^ 64))
def keyGo (arg entry : Nat) : Nat := mix64 (arg ^^^ ((entry + 1) * 0x9E3779B97F4A7C15 % 2 ^ 64))
def keyHandler (tid : Nat) : Nat := mix64 (tid * 0x9E3779B97F4A7C15 % 2 ^ 64)

/-! ## Workspaces -/

/-- What a new traveller starts with (R70). -/
structure Birth where
  g : List Word
  pc : Word
  ix : Nat
  lc : Nat := 0
  ex0 : Nat := 0
  ex1 : Nat := 0
  ex2 : Nat := 0
  frm : Nat := 0
  ecx : Nat
  urg : Bool := false
  esc : Bool := false
  rst : Bool := false
  lslot : Nat := 0
  /-- the cube whose table `lslot` indexes, where it is not this one -/
  lcube : Option Nat := none
  part : Nat
  bcore : Nat
  lvl : Nat := 0
deriving DecidableEq, Repr

/-- The 256 bytes of a new workspace (R70, R72), STATUS READY. -/
def birthBytes (b : Birth) (tid : Nat) : List Byte :=
  ((List.range 24).flatMap fun i => leBytes 8 (b.g.getD i 0).toNat) ++ leBytes 8 b.pc.toNat ++ leBytes 32 (2 ^ 256 - 1)
    ++ leBytes 4 b.ix ++ leBytes 4 b.lc ++ leBytes 2 b.ex0 ++ leBytes 2 b.ex1 ++ leBytes 2 b.ex2 ++ leBytes 1 0
    ++ leBytes 1 b.frm ++ leBytes 4 tid ++ leBytes 1 b.ecx ++ leBytes 1 0
    ++ leBytes 2 (1 + b2n b.urg * 2 ^ 9 + b2n b.esc * 2 ^ 10 + b2n b.rst * 2 ^ 11)

/-- Place a workspace and a header in a slot; the traveller is READY at the tail of its class (R74). -/
def place (s : State) (c sl : Nat) (bytes : List Byte) (k : Slot) : State :=
  let gs := granules (wsPa s c sl) 256
  let s := { s with mem := wrBytes s.mem (wsPa s c sl) bytes, poison := s.poison.filter (fun g => !gs.contains g) }
  putSlot s c sl { k with used := true }

/-- Create a traveller with a given tid and key. -/
def createWith (s : State) (c sl : Nat) (b : Birth) (tid key : Nat) : State :=
  let hdr : Header := { key := BitVec.ofNat 64 key, bcore := b.bcore, bcube := cubeId s, lslot := b.lslot, lcube := b.lcube.getD (cubeId s), part := b.part,
                        ocore := b.bcore, ocube := cubeId s }
  let bytes := birthBytes b tid
  enqueue (place s c sl bytes { hdr := hdr, lvl := b.lvl, birth := some (bytes, hdr) }) c sl

/-- The tid of the other copy's child of the same push, when it has started (R386). -/
def mateTid (s : State) (t : Task) : Option Nat := match t.mate with
  | none => none
  | some m => (liveSlots s).findSome? fun e =>
      if (slot s e.1 e.2).mate = some m ∧ stateOf s e.1 e.2 ≠ .free ∧ stateOf s e.1 e.2 ≠ .ended then some (tidOf s e.1 e.2) else none

/-- Create a child of a task record on core `c`, in slot `sl` (R84). The children of one push of an escorted pair are a pair: the second
takes the tid of the first (R386). -/
def createTask (s : State) (c sl : Nat) (t : Task) : State :=
  let b : Birth := { g := t.args, pc := t.entry, ix := t.cix, lc := t.lc, ex0 := t.ex0, ex1 := t.ex1, ex2 := t.ex2,
                     frm := t.frm.toNat, ecx := t.ecx, urg := t.urg, esc := t.esc, rst := t.rst, lslot := t.lslot, lcube := some t.lcube,
                     part := t.part, bcore := c }
  tookTid (updSlot (createWith s c sl b ((mateTid s t).getD (freshTid s)) (keyTask t.key.toNat t.cix)) c sl fun k =>
    { k with pair := t.mate.isSome, twin := t.twin, mate := t.mate })

/-! ## Task records (R83) -/

/-- The 64 bytes of a record and its captured fields as a task (R83, R84). -/
def taskOf (s : State) (c sl : Nat) (bs : List Byte) : Task :=
  let v := leNat bs
  { entry := BitVec.ofNat 64 v, args := (List.range 6).map (fun i => BitVec.ofNat 64 (v / 2 ^ (64 * (i + 1)))),
    cix := v / 2 ^ 448 % 2 ^ 32, urg := v.testBit 480, lc := wsRd s c sl 0xEC 4, ex0 := wsRd s c sl 0xF0 2,
    ex1 := wsRd s c sl 0xF2 2, ex2 := wsRd s c sl 0xF4 2, ecx := ecxOf s c sl, frm := BitVec.ofNat 8 (frmOf s c sl),
    esc := statusBit s c sl 10, rst := statusBit s c sl 11, lslot := (slot s c sl).hdr.lslot, lcube := (slot s c sl).hdr.lcube, part := (slot s c sl).hdr.part,
    key := (slot s c sl).hdr.key, scoreOf := c, scube := cubeId s,
    mate := if (slot s c sl).pair then some (tidOf s c sl, (slot s c sl).kids) else none, twin := (slot s c sl).twin }

/-- A record has no reserved bit set and an aligned ENTRY (R83). -/
def recordOk (bs : List Byte) : Bool := leNat bs % 4 == 0 && leNat bs / 2 ^ 481 == 0

/-- The record of a task, as POPT writes it and a trap message carries it. -/
def Task.bytes (t : Task) : List Byte :=
  leBytes 8 t.entry.toNat ++ (List.range 6).flatMap (fun i => leBytes 8 (t.args.getD i 0).toNat) ++ leBytes 4 t.cix
    ++ leBytes 4 (b2n t.urg)

/-! ## Reservations and ends -/

/-- The release of a double of another cube, by a steward: `size` bytes of `v` are written there, or none (R284, R298). -/
def farRelease (s : State) (c sl pa size : Nat) (v : Word) : State :=
  let na := pa - 2 ^ 60
  let cube := ((stripePlace s na).map (·.cube)).getD 0
  post s { pkt := { packetOf s c sl 9 cube (.atomic 1 size v) with addr := na, total := 8 }, who := some (c, sl) }

/-- Give up the reservation of a slot with its double unchanged (R287). -/
def dropResv (s : State) (c sl : Nat) : State :=
  match (slot s c sl).resv with
  | none => s
  | some r =>
    let s' := updSlot s c sl fun k => { k with resv := none }
    if 2 ^ 60 ≤ r.pa then farRelease s' c sl r.pa 0 0
    else
      let d := r.pa / 8 * 8
      { s' with resvQ := mput [] s.resvQ d ((mget [] s.resvQ d).filter fun e => !(e.core = c ∧ e.slot = sl)) }

end Sys2Proof.Machine
end

