-- ==== Sys2Proof/Machine/Atom.lean ====
section
/-! DEFINITION. Returning atomics, RSV, RLS, LDAQ, STRL and RED (R283 to R290). -/

namespace Sys2Proof.Machine

/-! ## Reservations at their home (R284, R287, R288) -/

/-- The number of the home of a double: a core, a hall bank or a channel controller. -/
def homeNo (pa : Nat) : Nat := match homeOf pa with
  | .core c _ => c
  | .hall h => 8192 + h / 256 % 768
  | .dram ch _ => 16384 + ch

/-- The double of a reservation request of traveller (c, sl) is looked up in the channel cache where it is DRAM (R280, R281). -/
def grantAccess (s : State) (c sl pa : Nat) : State := match homeOf pa with
  | .dram _ _ => dramAccess s c sl pa false 26
  | _ => s

/-- Doubles the home of `pa` holds reserved. -/
def reservedAt (s : State) (pa : Nat) : Nat :=
  (s.resvQ.filter fun (d, l) => homeNo d == homeNo pa && l.any (·.granted)).length
/-- The home of `pa` has room for a further double, and no request for one waits there (R284). -/
def homeFree (s : State) (pa : Nat) : Bool :=
  decide (reservedAt s pa < 64) && s.resvQ.all fun (d, l) => homeNo d != homeNo pa || l.isEmpty || l.any (·.granted)

/-- The packet that a reservation request of another cube's steward came in, as far as its answer needs it. -/
def farPacket (s : State) (r : ResvReq) : Packet :=
  { scube := r.core / 8192 - 1, dcube := cubeId s, cls := 1, kind := 9, ecx := 0, spart := 0, msgid := r.slot, score := r.core % 8192,
    total := 8, payload := .data [] }

/-- The head request of double `d` is a steward's of another cube: it is answered with the double's value (R284, R298). -/
def grantFar (s : State) (d : Nat) (r : ResvReq) (rest : List ResvReq) : State :=
  if r.granted || !servable s d || decide (64 ≤ reservedAt s d) then s
  else
    let s := findErrors s d 8 4 0
    if poisonedAt s d 8 then respond { s with resvQ := mput [] s.resvQ d rest } (farPacket s r) 4 7
    else respond { s with resvQ := mput [] s.resvQ d ({ r with granted := true } :: rest) } (farPacket s r) 0 0 (bytesAt s d 8)

/-- The head request of double `d` is granted when the home can: it is given the double's value, or its trap (R284, R287). -/
def grantHead (s : State) (d : Nat) : State :=
  match mget [] s.resvQ d with
  | [] => s
  | r :: rest =>
    if 8192 ≤ r.core then grantFar s d r rest else
    let drop (t : TrapInfo) : State := setReply { s with resvQ := mput [] s.resvQ d rest } r.core r.slot (.trap t)
    match (slot s r.core r.slot).wait with
    | some { word := _, cond := .grant pa va, reply := none } =>
      if r.granted || ((slot s r.core r.slot).pair && !(slot s r.core r.slot).passed && (Cond.grant pa va).remote r.core) then s
      else if sealedFor s r.core pa then drop { cause := .sealed, sub := 1, addr := va }
      else if !servable s pa || 64 ≤ reservedAt s pa then s
      else
        let s := findErrors (grantAccess s r.core r.slot pa) pa 4 4 (ecxOf s r.core r.slot)
        if poisonedAt s pa 4 then
          setReply { s with resvQ := mput [] s.resvQ d rest } r.core r.slot
            (.trap { cause := .poison, addr := BitVec.ofNat 64 (va.toNat / 16 * 16) })
        else setReply { s with resvQ := mput [] s.resvQ d ({ r with granted := true } :: rest) } r.core r.slot
            (.value (BitVec.ofNat 64 (rdN s.mem d 8)) false)
    | _ => s

/-- The home writes a release of `size` bytes at `pa`, if any, by traveller (c, sl) of context `ecx`, and forwards the double (R284
step 5). -/
def applyRelease (s : State) (c sl pa size : Nat) (v : Word) (ecx : Nat) : State :=
  let d := pa / 8 * 8
  match mget [] s.resvQ d with
  | r :: rest =>
    if r.core = c ∧ r.slot = sl ∧ r.granted then
      let s := { s with resvQ := mput [] s.resvQ d rest }
      let s := if size = 0 then s else writeVal (cacheAccess s pa ecx true true).1 pa size v.toNat false
      let s := if size = 0 then s else match homeOf pa with
        | .core w _ => if w = c then s
            else
              let s := fillGranules s pa size
              (match mirrorOf s pa with
               | some q => fillGranules (writeVal s q size v.toNat false) q size
               | none => s)
        | _ => s
      grantHead s d
    else s
  | [] => s

/-- Ask for double `d` for slot `sl` of core `c`; of an escorted pair the primary asks (R387). -/
def askDouble (s : State) (c sl d : Nat) : State :=
  if (slot s c sl).pair && (slot s c sl).twin && coreOfPa d != some c then s
  else { s with resvQ := insertAt s.resvQ d (mget [] s.resvQ d ++ [{ core := c, slot := sl, since := s.cycle }]) }

/-- The requested doubles in the order in which their head requests reached their homes (R284). -/
def resvOrder (s : State) : List Nat :=
  let at_ (e : Nat × List ResvReq) : Nat := (e.2.head?.map (·.since)).getD 0
  let add (l : List (Nat × List ResvReq)) (e : Nat × List ResvReq) : List (Nat × List ResvReq) :=
    l.filter (fun f => decide (at_ f ≤ at_ e)) ++ e :: l.filter fun f => !decide (at_ f ≤ at_ e)
  (s.resvQ.foldl add []).map (·.1)

/-! ## Instructions -/

/-- The word of an ATOM or RED form: fn = scope << 6 | size << 5 | operation (R283). -/
def wordA (m op : Nat) (w : BitVec 3) (d a b : BitVec 5) (z : BitVec 1) (sc : Nat := 0) : Nat :=
  word3 (m + op + z.toNat * 32 + sc * 64) w d a b

def asize (z : BitVec 1) : Nat := if z = 0 then 4 else 8
/-- A word result is sign-extended; AMOFADD.w and doubles are not (R283). -/
def atomExt (op : Nat) (z : BitVec 1) (v : Nat) : Word :=
  if z = 0 ∧ op ≠ 10 then (BitVec.ofNat 32 v).signExtend 64 else BitVec.ofNat 64 v

/-- What the returning atomic leaves in memory (R285). -/
def atomNew (op size old b c : Nat) : Nat :=
  let m := 2 ^ (8 * size)
  if op = 8 then b
  else if op = 9 then (if old = c % m then b else old)
  else if op = 10 then redOp 8 size old b
  else redOp op size old b

/-- The targets of ATOM and RED: data and ring regions, hall pages and DRAM (R283). -/
def atomTarget (s : State) (c : Nat) (r : Reach) : Bool := match r with
  | .own off => regionOf s c off == .data || regionOf s c off == .ring
  | .window w off => regionOf s w off == .data || regionOf s w off == .ring
  | .hall _ => true
  | .dram _ => true
  | .net a _ => a / 2 ^ 53 % 8 == 0
  | .dead => true
  | _ => false

/-- A reservation request of a steward to another cube's DRAM (R276, R298). -/
def farRequest (x : Ctx) (s : State) (na cube size : Nat) (va : Word) : Act :=
  if portRoom s then
    .park 1 (.grant (2 ^ 60 + na) va)
      (post s { pkt := { packetOf s x.c x.sl 9 cube (.atomic 0 size 0) with addr := na, total := 8 }, who := some (x.c, x.sl) })
  else .park 6 .port s

/-- Obtain the double of an access and go on with its value (R284): at once for a free double of the core's own SRAM whose home has
room, else through a park. -/
def withDouble (x : Ctx) (s : State) (va size : Nat) (k : State → Nat → Nat → Act) : Act :=
  let got (pa : Nat) (v : Word) : Act := k s pa (v.toNat / 2 ^ (8 * (pa % 8)) % 2 ^ (8 * size))
  match x.got, (slot s x.c x.sl).wait with
  | some (v, _), some { word := _, cond := .grant pa _, reply := _ } => got pa v
  | some (v, _), some { word := _, cond := .grantRoom pa _ _, reply := _ } => got pa v
  | _, _ =>
    if ((slot s x.c x.sl).resv).isSome then .trap { cause := .illegal, addr := 0 }
    else access x s va size true true fun s r =>
      if !atomTarget s x.c r then .trap (trapAt .bounds va)
      else match drainAll s x with
        | some s' => .hold s'
        | none =>
          let before := s
          let s := chargeAccess x s r
          let pa := (r.pa x.c).getD 0
          let d := pa / 8 * 8
          let queued (reason : Nat) : Act := .park reason (.grant pa (BitVec.ofNat 64 va)) (askDouble s x.c x.sl d)
          match r with
          | .dead => .trap (trapAt .poison (va / 16 * 16))
          | .net na cube => farRequest x s na cube size (BitVec.ofNat 64 va)
          | .own _ =>
            if (mget [] s.resvQ d).isEmpty && homeFree s pa then
              let s := findErrors s pa size 4 (ecxOf s x.c x.sl)
              if poisonedAt s pa size then .trapIn (findErrors before pa size 4 (ecxOf s x.c x.sl)) (trapAt .poison (va / 16 * 16))
              else k { s with resvQ := insertAt s.resvQ d [{ core := x.c, slot := x.sl, granted := true, since := s.cycle }] } pa (rdN s.mem pa size)
            else queued 3
          | _ => queued (if servable s pa then 1 else 6)

/-- The release of a granted double can leave: a port queue has room for it, or its home serves it now (R23, R24). -/
def releaseRoom (s : State) (pa : Nat) : Bool := if 2 ^ 60 ≤ pa then portRoom s else servable s pa

/-- A release goes to its home, on this cube or another. -/
def releaseTo (s : State) (c sl pa size : Nat) (v : Word) : State :=
  if 2 ^ 60 ≤ pa then farRelease s c sl pa size v else applyRelease s c sl pa size v (ecxOf s c sl)

/-- ILLEGAL causes of an instruction carry its word (R376). -/
def Act.withWord (word : Nat) : Act → Act
  | .trap t => if t.cause = .illegal then .trap { t with addr := BitVec.ofNat 64 word } else .trap t
  | a => a

/-- A returning atomic (R283 to R285). -/
def atomic (op : Nat) (w : BitVec 3) (d a b : BitVec 5) (z : BitVec 1) (s : State) : Result :=
  let word := wordA 0x1D800000 op w d a b z
  let reads := if op = 9 then [rn a, rn b, rn d] else [rn a, rn b]
  issue { word := word, legal := destOk d, reads := reads, sync := reads, fare := 7 } s fun x s =>
    let va := ea56 (x.rd s (rn a))
    (withDouble x s va (asize z) fun s pa old =>
      if !releaseRoom s pa then .park 6 (.grantRoom pa (BitVec.ofNat 64 va) (BitVec.ofNat 64 (old * 2 ^ (8 * (pa % 8))))) s
      else
        let new := atomNew op (asize z) old ((x.rd s (rn b)).toNat % 2 ^ (8 * asize z)) (x.rd s (rn d)).toNat
        .next (x.wr (releaseTo s x.c x.sl pa (asize z) (BitVec.ofNat 64 new)) (rn d) (atomExt op z old))).withWord word

def execAmoadd (w : BitVec 3) (d a b : BitVec 5) (z : BitVec 1) (s : State) : Result := atomic 0 w d a b z s
def execAmoand (w : BitVec 3) (d a b : BitVec 5) (z : BitVec 1) (s : State) : Result := atomic 1 w d a b z s
def execAmoor (w : BitVec 3) (d a b : BitVec 5) (z : BitVec 1) (s : State) : Result := atomic 2 w d a b z s
def execAmoxor (w : BitVec 3) (d a b : BitVec 5) (z : BitVec 1) (s : State) : Result := atomic 3 w d a b z s
def execAmomin (w : BitVec 3) (d a b : BitVec 5) (z : BitVec 1) (s : State) : Result := atomic 4 w d a b z s
def execAmomax (w : BitVec 3) (d a b : BitVec 5) (z : BitVec 1) (s : State) : Result := atomic 5 w d a b z s
def execAmominu (w : BitVec 3) (d a b : BitVec 5) (z : BitVec 1) (s : State) : Result := atomic 6 w d a b z s
def execAmomaxu (w : BitVec 3) (d a b : BitVec 5) (z : BitVec 1) (s : State) : Result := atomic 7 w d a b z s
def execAmoswap (w : BitVec 3) (d a b : BitVec 5) (z : BitVec 1) (s : State) : Result := atomic 8 w d a b z s
def execAmocas (w : BitVec 3) (d a b : BitVec 5) (z : BitVec 1) (s : State) : Result := atomic 9 w d a b z s
def execAmofadd (w : BitVec 3) (d a b : BitVec 5) (z : BitVec 1) (s : State) : Result := atomic 10 w d a b z s

/-- RSV (R286): the traveller keeps the reservation. -/
def execRsv (w : BitVec 3) (d a : BitVec 5) (z : BitVec 1) (s : State) : Result :=
  let word := wordA 0x1D800000 11 w d a 0 z
  issue { word := word, legal := destOk d, reads := [rn a], sync := [rn a], fare := 7 } s fun x s =>
    let va := ea56 (x.rd s (rn a))
    (withDouble x s va (asize z) fun s pa old =>
      let r : Resv := { pa := pa, size := asize z, va := BitVec.ofNat 64 va }
      .next (x.wr (updSlot s x.c x.sl fun k => { k with resv := some r, voided := none }) (rn d) (atomExt 0 z old))).withWord word

/-- What an RLS finds of its double: the reservation held, or the one that the seal of its home has made void (R287). -/
def rlsOf (k : Slot) (va : Nat) : Option (Resv × Bool) :=
  match k.resv, k.voided with
  | some r, _ => if va / 8 = r.va.toNat / 8 then some (r, false) else none
  | none, some r => if va / 8 = r.va.toNat / 8 then some (r, true) else none
  | none, none => none

/-- RLS (R286). The double is named by the effective address; its place is the reservation's. Beyond the core of an escorted copy it is
compared first (R387). -/
def execRls (w : BitVec 3) (a b : BitVec 5) (z : BitVec 1) (s : State) : Result :=
  let word := wordA 0x1D800000 12 w 0 a b z
  issue { word := word, reads := [rn a, rn b], sync := [rn a, rn b], fare := 7 } s fun x s =>
    let va := ea56 (x.rd s (rn a))
    if x.got.isSome then .next s else
    match rlsOf (slot s x.c x.sl) va with
    | none => .trap (illegalOf word)
    | some (r, void) =>
      let pa := r.pa / 8 * 8 + va % 8
      let far := decide (2 ^ 60 ≤ r.pa)
      if va % asize z ≠ 0 then .trap (trapAt .align va)
      else if void || (!far && sealedFor s x.c pa) then .trap (trapAt .sealed va 1)
      else match drainAll s x with
        | some s' => .hold s'
        | none =>
          if (slot s x.c x.sl).pair && (Cond.release pa 0).remote x.c then .park 1 (.release pa (BitVec.ofNat 64 va)) s
          else if !releaseRoom s pa then .park 6 (if far then .port else .release pa (BitVec.ofNat 64 va)) s
          else
            let rc : Reach := match homeOf r.pa with
              | .core c off => if c = x.c then .own off else .window c off
              | .hall h => .hall h
              | .dram _ _ => .dram pa
            let s := updSlot (if far then s else chargeAccess x s rc) x.c x.sl fun k => { k with resv := none }
            .next (releaseTo s x.c x.sl pa (asize z) (x.rd s (rn b)))

/-- The release of an escorted pair, whose copies have been compared: the double is the primary's to release, and both go on (R387). -/
def serveRelease (s : State) (c sl pa word : Nat) : State :=
  let free (s : State) (c sl : Nat) : State := updSlot s c sl fun k => { k with resv := none }
  let s := match partnerOf s c sl with | some e => free s e.1 e.2 | none => s
  setReply (releaseTo (chargeTrav (free s c sl) c sl 5 1) c sl pa (if word / 32 % 2 = 0 then 4 else 8) (regValue s c sl (word / 2 ^ 8 % 32)))
    c sl (.value 0 false)

/-- LDAQ (R289, R299): every scope is the order a load keeps. -/
def execLdaq (w : BitVec 3) (d a : BitVec 5) (p : BitVec 2) (z : BitVec 1) (s : State) : Result :=
  issue { word := wordA 0x1D800000 13 w d a 0 z p.toNat, legal := destOk d, reads := [rn a], sync := [rn a], fare := 7 } s fun x s =>
    loadBody x s (ea56 (x.rd s (rn a))) (asize z) (rn d) (atomExt 0 z) true

/-- An entry for its home whose traveller waits for the answer. -/
def pushWait (x : Ctx) (s : State) (e : SbEntry) (charged : State → State) (reason : Nat) : Act :=
  match pushStore x s e charged with
  | .next s' => .park reason (.stored e.va) s'
  | a => a

/-- The store of an STRL (R283, R289): it goes through the store buffer as SD does; poison at the target and a sealed home trap, found
at issue in the core's own SRAM and by the home's answer elsewhere. -/
def releaseStore (x : Ctx) (s : State) (va size r : Nat) (v : Word) : Act :=
  access x s va size false true fun s rc =>
    let ch (s : State) : State := chargeAccess x s rc
    let e : SbEntry := { slot := x.sl, op := .strl, va := BitVec.ofNat 64 va, pa := rc.pa x.c, size := size, val := v,
                         poison := false, window := false, counted := true }
    match rc with
    | .own off =>
      let g := sramPa x.c off / 16 * 16
      if touchesBuffer s x.c x.x g 16 then .hold (drainOne s x.c x.x)
      else
        let s := findErrors s (sramPa x.c off) size 4 (ecxOf s x.c x.sl)
        if poisonedAt s (sramPa x.c off) size then .trapIn s (trapAt .poison (va / 16 * 16))
        else if regionOf s x.c off = .workspace then ownWorkspaceStore x s off size v.toNat false ch
        else pushStore x s { e with op := .store, counted := false } ch
    | .window _ _ => pushWait x s { e with window := true } ch 1
    | .net na cube =>
      if na / 2 ^ 53 = 3 then pushStore x s { e with op := .store, net := some (na, cube) } ch
      else pushWait x s { e with net := some (na, cube) } ch 1
    | .dead => .trap (trapAt .poison (va / 16 * 16))
    | .sysreg _ _ => storeBody x s va size r v false .store
    | _ => pushWait x s e ch (if servable s (e.pa.getD 0) then 1 else 6)

/-- STRL (R289, R299): at NETWORK scope it waits until the earlier accesses are performed there. -/
def execStrl (w : BitVec 3) (a b : BitVec 5) (p : BitVec 2) (z : BitVec 1) (s : State) : Result :=
  issue { word := wordA 0x1D800000 14 w 0 a b z p.toNat, reads := [rn a, rn b], sync := [rn a, rn b], fare := 7 } s fun x s =>
    if x.got.isSome then .next s
    else if p = 3 ∧ coreOutstanding s x.c x.x x.sl = true then .park 4 .performed s
    else releaseStore x s (ea56 (x.rd s (rn a))) (asize z) (rn b) (x.rd s (rn b))

/-- A RED (R290): it goes through the store buffer; it needs WR alone (R329). -/
def red (op : Nat) (w : BitVec 3) (a b : BitVec 5) (z : BitVec 1) (s : State) : Result :=
  issue { word := wordA 0x1E000000 op w 0 a b z, reads := [rn a, rn b], sync := [rn a, rn b], fare := 8 } s fun x s =>
    let va := ea56 (x.rd s (rn a))
    access x s va (asize z) false true fun s r =>
      if !atomTarget s x.c r then .trap (trapAt .bounds va)
      else storeBody x s va (asize z) (rn b) (x.rd s (rn b)) false (.red op)

def execRedadd (w : BitVec 3) (a b : BitVec 5) (z : BitVec 1) (s : State) : Result := red 0 w a b z s
def execRedand (w : BitVec 3) (a b : BitVec 5) (z : BitVec 1) (s : State) : Result := red 1 w a b z s
def execRedor (w : BitVec 3) (a b : BitVec 5) (z : BitVec 1) (s : State) : Result := red 2 w a b z s
def execRedxor (w : BitVec 3) (a b : BitVec 5) (z : BitVec 1) (s : State) : Result := red 3 w a b z s
def execRedmin (w : BitVec 3) (a b : BitVec 5) (z : BitVec 1) (s : State) : Result := red 4 w a b z s
def execRedmax (w : BitVec 3) (a b : BitVec 5) (z : BitVec 1) (s : State) : Result := red 5 w a b z s
def execRedminu (w : BitVec 3) (a b : BitVec 5) (z : BitVec 1) (s : State) : Result := red 6 w a b z s
def execRedmaxu (w : BitVec 3) (a b : BitVec 5) (z : BitVec 1) (s : State) : Result := red 7 w a b z s
def execRedfadd (w : BitVec 3) (a b : BitVec 5) (z : BitVec 1) (s : State) : Result := red 8 w a b z s

end Sys2Proof.Machine
end

