-- ==== Sys2Proof/Machine/Ring.lean ====
section
/-! DEFINITION. Rings (R179 to R181), engine writes into local SRAM (R180, R190, R278) and the RING instructions. -/

namespace Sys2Proof.Machine

/-! ## Rings (R179, R180) -/

def ring (s : State) (c r : Nat) : Ring := mget {} (core s c).rings r
def putRing (s : State) (c r : Nat) (k : Ring) : State := updCore s c fun v => { v with rings := mput {} v.rings r k }

/-- Occupancy and free count (R179). -/
def Ring.occ (k : Ring) : Nat := (k.pi + 2 * k.nst - k.ci) % max 1 (2 * k.nst)
def Ring.space (k : Ring) : Nat := k.nst - k.occ
/-- The index after `i`. -/
def Ring.succ (k : Ring) (i : Nat) : Nat := (i + 1) % max 1 (2 * k.nst)
/-- Local offset of the stage of index `i`. -/
def Ring.stageOff (k : Ring) (i : Nat) : Nat := k.base + i % max 1 k.nst * k.ssize
/-- The stage that holds local offset `o`. -/
def Ring.stageOf (k : Ring) (o : Nat) : Option Nat :=
  if k.init ∧ k.base ≤ o ∧ o < k.base + k.nst * k.ssize then some ((o - k.base) / k.ssize) else none
/-- The stages from CI to PI - 1 are complete. -/
def Ring.complete (k : Ring) (st : Nat) : Bool := decide ((st + 2 * k.nst - k.ci) % max 1 k.nst < k.occ)

/-- The rings of core `c` whose stages hold local offset `o`, each with the stage. -/
def ringsAt (s : State) (c o : Nat) : List (Nat × Nat) :=
  ((core s c).rings).filterMap fun (r, k) => (k.stageOf o).map fun st => (r, st)

/-- Waits for ring `r` that its counts now meet are over (R181). -/
def ringWake (s : State) (c r : Nat) : State :=
  let k := ring s c r
  (List.range (slotCount s c)).foldl (fun s sl =>
    match (slot s c sl).wait with
    | some { word := _, cond := .ringData r' n, reply := none } =>
      if r' = r ∧ n ≤ k.occ then readyIfReplied (setReply s c sl (.value 0 false)) c sl else s
    | some { word := _, cond := .ringSpace r' n, reply := none } =>
      if r' = r ∧ n ≤ k.space then readyIfReplied (setReply s c sl (.value 0 false)) c sl else s
    | _ => s) s

/-- The granules of a stage. -/
def stageGranules (c : Nat) (k : Ring) (st : Nat) : List Nat := granules (sramPa c (k.base + st * k.ssize)) k.ssize

/-- PI advances over ready stages in index order; each arrives once on the full barrier (R180). -/
def advancePi (s : State) (c r : Nat) : Nat → State
  | 0 => s
  | n + 1 =>
    let k := ring s c r
    let st := k.pi % max 1 k.nst
    if k.init ∧ k.occ < k.nst ∧ k.ssize ≤ k.arrived.getD st 0 then
      let s := putRing s c r { k with pi := k.succ k.pi, arrived := k.arrived.set st 0 }
      advancePi (barArrive s c (16 + 2 * r) 1) c r n
    else s

/-! ## Engine writes (R180, R279, R310) -/

/-- A write at `pa` falls into a complete stage and is held (R180). -/
def ringBlocked (s : State) (pa : Nat) : Bool := match homeOf pa with
  | .core c off => (ringsAt s c off).any fun e => (ring s c e.1).complete e.2
  | _ => false

/-- The bytes of a write split at granule boundaries. -/
def pieces (pa : Nat) : Nat → List (Byte × Bool) → List (Nat × List (Byte × Bool))
  | 0, _ => []
  | _ + 1, [] => []
  | n + 1, bs => let k := 16 - pa % 16
                 (pa, bs.take k) :: pieces (pa + k) n (bs.drop k)

/-- Bytes within one granule of this cube, written for core `by_`, land: they are written, local SRAM granules become full and their
waiters are served, and an open stage of a ring counts them (R180, R278); what meets a retired row is logged (R346). -/
def landPiece (s : State) (by_ pa : Nat) (bs : List (Byte × Bool)) : State :=
  match homeOf pa with
  | .core c off =>
    let s := fillGranules (writeBytes s pa bs) pa bs.length
    (ringsAt s c off).foldl (fun s e =>
      let k := ring s c e.1
      let s := putRing s c e.1 { k with arrived := k.arrived.set e.2 (k.arrived.getD e.2 0 + bs.length) }
      ringWake (advancePi s c e.1 (2 * k.nst)) c e.1) s
  | _ => writeNoting s (core s by_).part by_ (BitVec.ofNat 64 pa) pa bs

/-- An engine write of this cube's storage lands, but for pieces that complete stages hold: those stay on their way. A
barrier of the target core loses the bytes that landed from its pending count, as one byte arrival (R310); the packet that the write
came in is answered when all of it has landed. -/
def landWrite (s : State) (w : EngWrite) : State :=
  let r := (pieces w.pa (w.bytes.length / 16 + 2) w.bytes).foldl (fun (r : State × Nat) e =>
    if ringBlocked r.1 e.1 then ({ r.1 with engWrites := r.1.engWrites ++ [{ w with pa := e.1, bytes := e.2, held := true }] }, r.2)
    else (landPiece r.1 w.src.1 e.1 e.2, r.2 + e.2.length)) (s, 0)
  let s := match w.bar, homeOf w.pa with
    | some b, .core c _ => if r.2 = 0 then r.1 else barApply r.1 c b 2 (r.2 : Int)
    | _, _ => r.1
  match w.ack with
  | some q => ackWrite s q 0
  | none => s

/-- An engine write whose target, core `d`, is sealed is discarded and logged (R239, R385). -/
def discardWrite (s : State) (d : Nat) (w : EngWrite) : State :=
  let s := trapLog s (core s d).part 1 w.src.1 8 (BitVec.ofNat 64 (aliasBase d + (w.pa - sramBase d)))
  match w.ack with
  | some q => ackWrite s q 8
  | none => s

/-- A write of another core; what lands in a primary core's window lands in its twin's as well (R387). -/
def landBoth (s : State) (w : EngWrite) : State :=
  let s := landWrite s w
  match coreOfPa w.pa, mirrorOf s w.pa with
  | some d, some q => if d = w.src.1 ∧ w.src.2.1 ≠ 3 then s else landWrite s { w with pa := q, ack := none }
  | _, _ => s

/-- The slot of the record that a write belongs to. -/
def writerOf (s : State) (w : EngWrite) : Option Nat :=
  let k := core s w.src.1
  let q := match w.src.2.1 with
    | 0 => k.coachQ
    | 1 => k.courierQ
    | 2 => (chan s w.src.1).streamQ
    | _ => []
  (q.find? fun r => r.seq == w.src.2.2).map (·.slot)

/-- The write of an escorted copy leaves its core and has not been compared (R387). -/
def mustMatch (s : State) (w : EngWrite) : Bool := match writerOf s w with
  | some sl => (slot s w.src.1 sl).pair && !w.matched && coreOfPa w.pa != some w.src.1
  | none => false

/-- It goes to the common router. A rotation write is addressed in its receiver's local SRAM. -/
def escWrite (s : State) (w : EngWrite) : State :=
  let a := match w.rot, homeOf w.pa with
    | true, .core d off => aliasBase d + off
    | _, _ => w.pa
  match writerOf s w with
  | some sl => escSend s w.src.1 sl 4 (BitVec.ofNat 64 a) (w.bytes.map (·.1) ++ w.bytes.map fun b => if b.2 then 1 else 0) (.write w)
  | none => s

/-- Writes held at core `c` whose stage is open again land (R180). -/
def releaseHeld (s : State) (c : Nat) : State :=
  let mine (w : EngWrite) : Bool := w.held && (match homeOf w.pa with | .core c' _ => c' == c && !ringBlocked s w.pa | _ => false)
  (s.engWrites.filter mine).foldl landWrite { s with engWrites := s.engWrites.filter (fun w => !mine w) }

/-- The stage at CI is consumed: empty in every granule, CI advances, the empty barrier receives an arrival, and writes
held for the stage land (R180, R181). -/
def ringPop (s : State) (c r : Nat) : State :=
  let k := ring s c r
  let s := setFull s (stageGranules c k (k.ci % max 1 k.nst)) false
  let s := barArrive (putRing s c r { k with ci := k.succ k.ci }) c (17 + 2 * r) 1
  ringWake (releaseHeld s c) c r

/-- RPUSH: the stage at PI becomes full in every granule (R181). -/
def ringPush (s : State) (c r : Nat) : State :=
  let k := ring s c r
  let st := k.pi % max 1 k.nst
  let s := putRing (setFull s (stageGranules c k st) true) c r { k with pi := k.succ k.pi, arrived := k.arrived.set st 0 }
  let s := (stageGranules c k st).foldl serveGranule s
  let s := barArrive s c (16 + 2 * r) 1
  ringWake (advancePi s c r (2 * k.nst)) c r

/-! ## The RING instructions (R181) -/

/-- A command of any traveller names ring `r` and has not completed. -/
def ringNamed (s : State) (c r : Nat) : Bool :=
  ((core s c).coachQ ++ (core s c).courierQ).any (fun q => q.st != 2 && q.rings.contains r)

def ringTrap (r : Nat) : TrapInfo := { cause := .ring, addr := BitVec.ofNat 64 r }

/-- A ring image (R179) as core `c` may load it (R181). DEDUCED (assumption 67): NST outside 1 to 128 is a bad image too. -/
def ringImage (s : State) (c : Nat) (v : Nat) : Option Ring :=
  let base := v % 2 ^ 20
  let ss := v / 2 ^ 24 % 2 ^ 20
  let nst := v / 2 ^ 48 % 256
  let pi := v / 2 ^ 64 % 256
  let ci := v / 2 ^ 72 % 256
  let k : Ring := { init := true, base := base, ssize := ss, nst := nst, pi := pi, ci := ci, arrived := List.replicate nst 0 }
  if v / 2 ^ 20 % 16 = 0 ∧ v / 2 ^ 44 % 16 = 0 ∧ v / 2 ^ 56 % 256 = 0 ∧ v / 2 ^ 80 = 0
      ∧ base % 16 = 0 ∧ ss % 16 = 0 ∧ 16 ≤ ss ∧ 1 ≤ nst ∧ nst ≤ 128 ∧ pi < 2 * nst ∧ ci < 2 * nst
      ∧ (core s c).lmrgb ≤ base ∧ base + nst * ss ≤ (core s c).lmdtb ∧ k.occ ≤ nst
  then some k else none

/-- A RING instruction (R181). -/
def ringI (fn : Nat) (w : BitVec 3) (r : BitVec 3) (a : BitVec 5) (reads : List Nat) (legal : Bool) (s : State)
    (f : Ctx → State → Act) : Result :=
  issue { word := 0x07800000 + fn + w.toNat * 2 ^ 29 + r.toNat * 2 ^ 18 + a.toNat * 2 ^ 13, legal := legal && ringOk r,
          reads := reads, sync := reads } s f

/-- An operation on an initialised ring. -/
def onRing (x : Ctx) (s : State) (r : Nat) (f : Ring → Act) : Act :=
  let k := ring s x.c r
  if k.init then f k else .trap (ringTrap r)

/-- RINIT (R181, R312); a barrier that is in RING stays as it is, since R311 has no row for it. -/
def execRinit (w : BitVec 3) (n : BitVec 3) (a : BitVec 5) (s : State) : Result :=
  ringI 0 w n a [rn a] true s fun x s =>
    let va := ea56 (x.rd s (rn a))
    let r := n.toNat
    if va % 16 ≠ 0 then .trap (trapAt .align va)
    else match localPlace x s va 16 with
      | none => .trap (trapAt .bounds va)
      | some pa => readLocal x s pa 16 va fun s bs =>
        match ringImage s x.c (leNat bs) with
        | none => .trap (ringTrap r)
        | some k =>
          if (ring s x.c r).init && ringNamed s x.c r then .trap (ringTrap r)
          else
            let gs := granules (sramPa x.c k.base) (k.nst * k.ssize)
            let s := putRing (setFull s gs false) x.c r k
            let bind (s : State) (b : Nat) : State :=
              if (barrier s x.c b).rb then s
              else
                let s := barBreak s x.c b
                putBarrier s x.c b { pcnt := (barrier s x.c b).pcnt, exp := 1, v := true, rb := true }
            .next (ringWake (releaseHeld (bind (bind s (16 + 2 * r)) (17 + 2 * r)) x.c) x.c r)

def execRpush (w : BitVec 3) (n : BitVec 3) (s : State) : Result :=
  ringI 1 w n 0 [] true s fun x s => onRing x s n.toNat fun k =>
    if k.occ = k.nst then .trap (ringTrap n.toNat) else .next (ringPush s x.c n.toNat)
def execRpop (w : BitVec 3) (n : BitVec 3) (s : State) : Result :=
  ringI 2 w n 0 [] true s fun x s => onRing x s n.toNat fun k =>
    if k.occ = 0 then .trap (ringTrap n.toNat) else .next (ringPop s x.c n.toNat)

/-- RSTAT: the register is named by the ra field. -/
def execRstat (w : BitVec 3) (n : BitVec 3) (a : BitVec 5) (s : State) : Result :=
  ringI 3 w n a [] (destOk a) s fun x s => onRing x s n.toNat fun k =>
    .next (x.wr s (rn a) (BitVec.ofNat 64 (k.pi + k.ci * 2 ^ 8 + k.occ * 2 ^ 16 + k.nst * 2 ^ 24 + k.base * 2 ^ 32 + 2 ^ 52)))

/-- A ring wait (R181). -/
def ringWait (fn : Nat) (w : BitVec 3) (n : BitVec 3) (a : BitVec 5) (s : State) (cnt : Ring → Nat) (cond : Nat → Nat → Cond) : Result :=
  ringI fn w n a [rn a] true s fun x s =>
    if x.got.isSome then .next s
    else onRing x s n.toNat fun k =>
      let v := (x.rd s (rn a)).toNat
      if v = 0 ∨ k.nst < v then .trap (ringTrap n.toNat)
      else if v ≤ cnt k then .next s else .park 3 (cond n.toNat v) s

def execRwaitd (w : BitVec 3) (n : BitVec 3) (a : BitVec 5) (s : State) : Result := ringWait 4 w n a s Ring.occ .ringData
def execRwaits (w : BitVec 3) (n : BitVec 3) (a : BitVec 5) (s : State) : Result := ringWait 5 w n a s Ring.space .ringSpace

end Sys2Proof.Machine
end

