-- ==== Sys2Proof/Machine/Engine.lean ====
section
/-! DEFINITION. Engine command queues and their records (R177, R178, R256): placing, charging, completing and faulting a
record. Queue 0 is the coach's, 1 the courier's, 2 the stream queue of a channel core. -/

namespace Sys2Proof.Machine

def engQ (s : State) (c k : Nat) : List Rec := match k with
  | 0 => (core s c).coachQ
  | 1 => (core s c).courierQ
  | _ => (chan s c).streamQ
def setEngQ (s : State) (c k : Nat) (l : List Rec) : State := match k with
  | 0 => updCore s c fun v => { v with coachQ := l }
  | 1 => updCore s c fun v => { v with courierQ := l }
  | _ => updChan s c fun v => { v with streamQ := l }
def engSeq (s : State) (c k : Nat) : Nat := match k with
  | 0 => (core s c).coachSeq
  | 1 => (core s c).courierSeq
  | _ => (chan s c).streamSeq
def setEngSeq (s : State) (c k n : Nat) : State := match k with
  | 0 => updCore s c fun v => { v with coachSeq := n }
  | 1 => updCore s c fun v => { v with courierSeq := n }
  | _ => updChan s c fun v => { v with streamSeq := n }
/-- Records a queue holds (R177, R256). -/
def engCap (k : Nat) : Nat := if k = 0 then 8 else 16

/-- A record frees its place when it is done; it stays readable until the place is reused (R177). -/
def engRoom (s : State) (c k : Nat) : Bool := decide (((engQ s c k).filter (fun r => r.st != 2)).length < engCap k)

/-- Drop the oldest done record. -/
def dropDone : List Rec → List Rec
  | [] => []
  | r :: rs => if r.st = 2 then rs else r :: dropDone rs

/-- Place a record in a queue that has room, under its queue's next sequence number. -/
def pushRec (s : State) (c k : Nat) (r : Rec) : State :=
  let l := engQ s c k
  let l := if engCap k ≤ l.length then dropDone l else l
  let n := engSeq s c k
  setEngSeq (setEngQ s c k (l ++ [{ r with seq := n }])) c k ((n + 1) % 256)

/-- Change the record of sequence number `n` that is not done. -/
def updRec (s : State) (c k n : Nat) (f : Rec → Rec) : State :=
  setEngQ s c k ((engQ s c k).map fun r => if r.seq = n ∧ r.st ≠ 2 then f r else r)

/-- The record of an instruction: its word, pc, traveller, captured values, P and FRM (R46, R177). -/
def newRec (x : Ctx) (s : State) (word : Nat) (d a b : Word) : Rec :=
  { word := word, pc := x.pc, slot := x.sl, tid := tidOf s x.c x.sl, d := d, a := a, b := b, p := predOf s x.c x.sl,
    frm := BitVec.ofNat 8 (frmOf s x.c x.sl), key := (slot s x.c x.sl).hdr.key, ecx := ecxOf s x.c x.sl,
    part := (slot s x.c x.sl).hdr.part, mem := [], seq := 0 }

/-- Enqueue a record: the traveller's earlier stores have left the store buffer, and the queue has room (R178). One that OUTS counts
is held while OUTS is full (R307). -/
def enqueueRec (x : Ctx) (s : State) (k : Nat) (r : Rec) : Act :=
  match drainStep s x with
  | some s' => .hold s'
  | none =>
    if r.inOuts && outsFull s x.c x.sl then .hold s
    else if engRoom s x.c k then .next (pushRec s x.c k r) else .park 4 (.engineRoom k) s

/-- The traveller of a record still occupies its slot. -/
def ownerHere (s : State) (c : Nat) (r : Rec) : Bool := tidOf s c r.slot == r.tid && (slot s c r.slot).used

/-- Charge `n` units of class `cls` at meter `m` for a record: to its context and its traveller's FARE (R359). -/
def chargeRec (s : State) (c : Nat) (r : Rec) (m cls n : Nat) : State :=
  let s' := charge s m cls n r.ecx ((slot s c r.slot).lvl != 0)
  if ownerHere s c r then
    updSlot s' c r.slot fun v => { v with hdr := { v.hdr with fare := v.hdr.fare + BitVec.ofNat 64 (fareOf s cls m * n) } }
  else s'

/-- Writes of a record that have not landed. -/
def writesOut (s : State) (c k n : Nat) : Bool := s.engWrites.any (fun w => w.src == (c, k, n))

/-- A record completes: it consumes stages of its input rings and is done (R180). -/
def doneRec (s : State) (c k : Nat) (r : Rec) (pops : List Nat) : State :=
  let s := pops.foldl (fun s n => ringPop s c n) s
  updRec s c k r.seq fun r => { r with st := 2, active := false }

/-- A record faults: it keeps its place, and the traveller takes the fault at its next issue; a wait whose reason `ok` takes
is completed (R186, R196, R243, R244, R438). -/
def faultRec (s : State) (c k : Nat) (r : Rec) (t : TrapInfo) (ok : Nat → Bool := fun q => q == 4) : State :=
  let s := updRec s c k r.seq fun r => { r with st := 3, active := false, fault := some t }
  if ownerHere s c r then endWait s c r.slot ok t (.engine t) else s

/-- `s'` where only core `c`'s own SRAM differs in memory, full bits and poison from `s`: what a copy does beyond its core is
its partner's to do (R387). -/
def keepOwn (s s' : State) (c : Nat) : State :=
  let lo := sramPa c 0
  let hi := lo + sramSize c
  let own (a : Nat) : Bool := decide (lo ≤ a) && decide (a < hi)
  let gran (old new : List Nat) : List Nat :=
    old.filter (fun g => decide (g * 16 < lo)) ++ new.filter (fun g => own (g * 16)) ++ old.filter fun g => decide (hi ≤ g * 16)
  { s' with
    mem := s.mem.filter (fun e => decide (e.1 < lo)) ++ s'.mem.filter (fun e => own e.1) ++ s.mem.filter fun e => decide (hi ≤ e.1)
    full := gran s.full s'.full
    poison := gran s.poison s'.poison }

end Sys2Proof.Machine
end

