-- ==== Sys2Proof/Machine/Courier.lean ====
section
/-! DEFINITION. The courier (R182 to R186): the CPY instructions, and the execution of their records in blocks of 4,096
destination bytes. -/

namespace Sys2Proof.Machine

/-! ## Ranges (R183, R184) -/

def intMod56 (v : Int) : Nat := (v % (2 ^ 56 : Int)).toNat
/-- Signed 32-bit field. -/
def s32 (v : Nat) : Int := if v % 2 ^ 32 < 2 ^ 31 then (v % 2 ^ 32 : Nat) else (v % 2 ^ 32 : Nat) - (2 ^ 32 : Int)

/-- The class of R113 that a whole range of addresses lies in, as far as the address shows it. -/
inductive RangeClass where | own (off : Nat) | window (c off : Nat) | translated
deriving DecidableEq, Repr

/-- The class of the range [lo, hi) for core `c`: `none` when it lies in no single class. -/
def rangeClass (s : State) (c p : Nat) (lo hi : Int) : Option RangeClass :=
  if lo < 0 ∨ (2 ^ 56 : Int) < hi ∨ hi ≤ lo then none
  else
    let va := lo.toNat
    let n := (hi - lo).toNat
    if va ≤ 0x00FFFEFFFFFFFFFF then (if va + n ≤ 0x00FFFF0000000000 then some .translated else none)
    else match reach s c false p va false false with
      | .own off => if off + n ≤ sramSize c then some (.own off) else none
      | .window w off => if off + n ≤ sramSize w then some (.window w off) else none
      | _ => none

/-! ## The commands' geometry -/

/-- LEN, PLAN, BIX and BEN of a length word (R183). -/
def lwLen (v : Nat) : Nat := v % 2 ^ 24
def lwPlan (v : Nat) : Nat := v / 2 ^ 24 % 64
def lwBar (v : Nat) : Option Nat := if v / 2 ^ 37 % 2 = 1 then some (v / 2 ^ 32 % 32) else none
/-- A reserved bit of a length word is set; only MCAST and NRED have PLAN. -/
def lwBad (plan : Bool) (v : Nat) : Bool :=
  v / 2 ^ 38 != 0 || v / 2 ^ 30 % 4 != 0 || (!plan && lwPlan v != 0)

/-- COPY2D shape (R184). -/
structure Shape where
  rowb : Nat
  rows : Nat
  bar : Option Nat
  sstr : Int
  dstr : Int
deriving DecidableEq, Repr
def shapeOf (v : Nat) : Shape :=
  { rowb := bitsOf v 23 0, rows := bitsOf v 47 24, bar := if bitsOf v 53 53 = 1 then some (bitsOf v 52 48) else none,
    sstr := s32 (bitsOf v 95 64), dstr := s32 (bitsOf v 127 96) }
def shapeBad (v : Nat) : Bool := bitsOf v 63 54 != 0

/-- A dimension of a window descriptor (R184). -/
structure Dim where
  text : Nat
  tstr : Int
  worg : Int
  wext : Nat
  wstep : Nat
deriving DecidableEq, Repr
def dimOf (v : Nat) : Dim :=
  { text := bitsOf v 31 0, tstr := s32 (bitsOf v 63 32), worg := s32 (bitsOf v 95 64), wext := bitsOf v 111 96, wstep := bitsOf v 127 112 }
/-- A window descriptor: TBASE, element size, barrier, dimensions. -/
structure WinDesc where
  tbase : Nat
  esz : Nat
  bar : Option Nat
  dims : List Dim
deriving DecidableEq, Repr
def winOf (v : Nat) : WinDesc :=
  { tbase := bitsOf v 55 0, esz := 2 ^ bitsOf v 65 64, bar := if bitsOf v 77 77 = 1 then some (bitsOf v 76 72) else none,
    dims := [dimOf (bitsOf v 255 128), dimOf (bitsOf v 383 256), dimOf (bitsOf v 511 384)] }
/-- A reserved bit is set, or a WSTEP is 0. -/
def winBad (v : Nat) : Bool :=
  bitsOf v 63 56 != 0 || bitsOf v 71 66 != 0 || bitsOf v 127 78 != 0 || (winOf v).dims.any (fun d => d.wstep == 0)

def WinDesc.count (w : WinDesc) : Nat := (w.dims.map (·.wext)).foldl (· * ·) 1
/-- Bytes written: the elements, rounded up to a multiple of 16. -/
def WinDesc.bytes (w : WinDesc) : Nat := (w.count * w.esz + 15) / 16 * 16
/-- The steps of dimension `d` that lie inside the tensor: the first and the last. -/
def Dim.inside (d : Dim) : Option (Int × Int) :=
  let lo : Int := max 0 (-(d.worg / d.wstep))
  let hi : Int := min (d.wext - 1) ((d.text - 1 - d.worg) / d.wstep)
  if lo ≤ hi ∧ d.worg + lo * d.wstep < d.text ∧ 0 ≤ d.worg + lo * d.wstep then some (d.worg + lo * d.wstep, d.worg + hi * d.wstep) else none
/-- The range [lo, hi) of tensor addresses that the window reads; `none` when it reads nothing. -/
def WinDesc.range (w : WinDesc) : Option (Int × Int) :=
  w.dims.foldl (fun acc d => match acc, d.inside with
    | some (lo, hi), some (t0, t1) => some (lo + min (t0 * d.tstr) (t1 * d.tstr), hi + max (t0 * d.tstr) (t1 * d.tstr))
    | _, _ => none) (some ((w.tbase : Int), (w.tbase : Int) + w.esz))

/-- The tensor address of element `n`; `none` outside the tensor. -/
def WinDesc.elem (w : WinDesc) (n : Nat) : Option Nat :=
  (w.dims.foldl (fun (acc : Option (Int × Nat)) d => match acc with
    | none => none
    | some (a, m) =>
      let t : Int := d.worg + ((m % max 1 d.wext : Nat) : Int) * (d.wstep : Int)
      if 0 ≤ t ∧ t < (d.text : Int) then some (a + t * d.tstr, m / max 1 d.wext) else none) (some ((w.tbase : Int), n))).map fun x => intMod56 x.1

/-! ## Issue -/

/-- A CPY instruction (R183): poisoned operands trap; the fares are the command's. -/
def cpyI (fn : Nat) (w : BitVec 3) (d a b : BitVec 5) (reads : List Nat) (s : State) (f : Nat → Ctx → State → Act) : Result :=
  let word := word3 (0x07000000 + fn) w d a b
  issue { word := word, reads := reads, sync := reads, fare := 99 } s (f word)

def illegalAt (word : Nat) : TrapInfo := { cause := .illegal, addr := BitVec.ofNat 64 word }

/-- Place a courier record; a command of no bytes is complete at once (R183). -/
def courierRec (x : Ctx) (s : State) (r : Rec) (total : Nat) : Act :=
  enqueueRec x s 1 (if total = 0 then { r with st := 2 } else r)

/-- The space of the leaf that maps `va` for core `c`: DRAM or hall; `none` where no valid leaf does, which faults the command. -/
def leafSpace (s : State) (c p va : Nat) : Option Nat := match translate s c p va true with
  | .ok (_, e) => some ((e.oa + va % 2 ^ pageBits e.level) / 2 ^ 53 % 8)
  | .error _ => none

/-- The pages of some runs of translated addresses, as far as they are mapped, lie in more than one space. -/
def twoSpaces (s : State) (c p : Nat) (runs : List (Nat × Nat)) : Bool :=
  match runs.flatMap fun e => (List.range ((e.1 + e.2 + 2 ^ 19 - 1) / 2 ^ 19 - e.1 / 2 ^ 19)).filterMap fun i =>
      leafSpace s c p ((e.1 / 2 ^ 19 + i) * 2 ^ 19) with
  | [] => false
  | k :: ks => ks.any (· != k)

/-- The traps of a destination range, with the runs of bytes it is made of: BOUNDS outside a single class, and with BEN outside local
SRAM and windows. -/
def dstTrap (s : State) (c p : Nat) (lo hi : Int) (runs : List (Nat × Nat)) (bar : Option Nat) : Option TrapInfo :=
  match rangeClass s c p lo hi with
  | none => some (trapAt .bounds (intMod56 lo))
  | some .translated => if bar.isSome || twoSpaces s c p runs then some (trapAt .bounds (intMod56 lo)) else none
  | some _ => none
/-- The trap of a source range: BOUNDS outside a single class. -/
def srcTrap (s : State) (c p : Nat) (lo hi : Int) (runs : List (Nat × Nat)) : Option TrapInfo := dstTrap s c p lo hi runs none

/-- The first of some addresses or amounts that is no multiple of 16 (R183). -/
def alignOf (l : List Nat) : Option TrapInfo := (l.find? (fun v => v % 16 != 0)).map (trapAt .align)

/-- COPY (R183). -/
def execCopy (w : BitVec 3) (d a b : BitVec 5) (s : State) : Result :=
  cpyI 0 w d a b [rn a, rn b, rn d] s fun word x s =>
    let dv := ea56 (x.rd s (rn d))
    let av := ea56 (x.rd s (rn a))
    let v := (x.rd s (rn b)).toNat
    let p := (slot s x.c x.sl).hdr.part
    let n := lwLen v
    if lwBad false v then .trap (illegalAt word)
    else match alignOf [dv, av, n] with
      | some t => .trap t
      | none =>
        match (if n = 0 then none else (dstTrap s x.c p dv (dv + n) [(dv, n)] (lwBar v)).or (srcTrap s x.c p av (av + n) [(av, n)])) with
        | some t => .trap t
        | none => courierRec x s (newRec x s word (x.rd s (rn d)) (x.rd s (rn a)) (x.rd s (rn b))) n

/-- COPY2D (R183, R184). -/
def execCopy2d (w : BitVec 3) (d a b : BitVec 5) (s : State) : Result :=
  cpyI 1 w d a b [rn a, rn b, rn d] s fun word x s =>
    let dv := ea56 (x.rd s (rn d))
    let av := ea56 (x.rd s (rn a))
    let va := ea56 (x.rd s (rn b))
    let p := (slot s x.c x.sl).hdr.part
    match alignOf [dv, av, va], localPlace x s va 16 with
    | some t, _ => .trap t
    | none, none => .trap (trapAt .bounds va)
    | none, some pa => readLocal x s pa 16 va fun s bs =>
      let q := shapeOf (leNat bs)
      let last : Int := q.rows - 1
      let lo (v : Nat) (st : Int) : Int := min (v : Int) (v + last * st)
      let hi (v : Nat) (st : Int) : Int := max (v : Int) (v + last * st) + q.rowb
      let rows (v : Nat) (st : Int) : List (Nat × Nat) := (List.range q.rows).map fun (i : Nat) => (intMod56 ((v : Int) + (i : Int) * st), q.rowb)
      if shapeBad (leNat bs) then .trap (illegalAt word)
      else if q.rowb % 16 ≠ 0 then .trap (trapAt .align ((dv + q.rowb) % 2 ^ 56))
      else if q.sstr % 16 ≠ 0 then .trap (trapAt .align (intMod56 (av + q.sstr)))
      else if q.dstr % 16 ≠ 0 then .trap (trapAt .align (intMod56 (dv + q.dstr)))
      else match (if q.rowb * q.rows = 0 then none
          else (dstTrap s x.c p (lo dv q.dstr) (hi dv q.dstr) (rows dv q.dstr) q.bar).or
            (srcTrap s x.c p (lo av q.sstr) (hi av q.sstr) (rows av q.sstr))) with
        | some t => .trap t
        | none => courierRec x s { newRec x s word (x.rd s (rn d)) (x.rd s (rn a)) (x.rd s (rn b)) with mem := bs } (q.rowb * q.rows)

/-- WINCOPY (R183, R184). -/
def execWincopy (w : BitVec 3) (d a : BitVec 5) (s : State) : Result :=
  cpyI 2 w d a 0 [rn a, rn d] s fun word x s =>
    let dv := ea56 (x.rd s (rn d))
    let va := ea56 (x.rd s (rn a))
    let p := (slot s x.c x.sl).hdr.part
    match alignOf [dv, va], localPlace x s va 64 with
    | some t, _ => .trap t
    | none, none => .trap (trapAt .bounds va)
    | none, some pa => readLocal x s pa 64 va fun s bs =>
      let q := winOf (leNat bs)
      if winBad (leNat bs) then .trap (illegalAt word)
      else if q.tbase % q.esz ≠ 0 then .trap (trapAt .align q.tbase)
      else match q.dims.find? (fun k => k.tstr % (q.esz : Int) != 0) with
        | some k => .trap (trapAt .align (intMod56 (q.tbase + k.tstr)))
        | none =>
          let n := q.bytes
          match (if n = 0 then none
              else (dstTrap s x.c p dv (dv + n) [(dv, n)] q.bar).or (q.range.bind fun (lo, hi) =>
                srcTrap s x.c p lo hi ((List.range q.count).filterMap fun i => (q.elem i).map fun a => (a, q.esz)))) with
          | some t => .trap t
          | none => courierRec x s { newRec x s word (x.rd s (rn d)) (x.rd s (rn a)) 0 with mem := bs } n

/-- The whole range lies in local SRAM, through the alias or the core's own window. -/
def inLocal (s : State) (c p lo n : Nat) : Bool := match rangeClass s c p lo (lo + n) with | some (.own _) => true | _ => false

/-- A PUTX with BEN writes to local SRAM or a window of the cluster (R183). -/
def benTarget (s : State) (c na : Nat) : Bool :=
  let w := na / 2 ^ 28 % 8192
  na / 2 ^ 53 % 8 == 2 && na / 2 ^ 41 % 4096 == cubeId s && kindOf w == .compute && clusterOf w == clusterOf c

/-- The network commands (R183, R185): the network side and the local side, a length word, a plan for MCAST and NRED. DESIGN CHOICE
(assumption 82): a network side whose space is none of DRAM, HALL and WINDOW traps BOUNDS at issue. -/
def netCopy (fn : Nat) (w : BitVec 3) (d a b : BitVec 5) (s : State) : Result :=
  cpyI fn w d a b [rn a, rn b, rn d] s fun word x s =>
    let dv := ea56 (x.rd s (rn d))
    let av := ea56 (x.rd s (rn a))
    let v := (x.rd s (rn b)).toNat
    let p := (slot s x.c x.sl).hdr.part
    let n := lwLen v
    let space (na : Nat) : Bool := decide (na / 2 ^ 53 % 8 ≤ 2)
    let inAlias (va : Nat) : Bool := decide (aliasBase x.c ≤ va) && decide (va + n ≤ 2 ^ 56)
    let bad : Option Nat :=
      if fn = 3 then (if !space dv || ((lwBar v).isSome && !benTarget s x.c dv) then some dv else if inLocal s x.c p av n then none else some av)
      else if fn = 4 then (if !space av then some av else if inLocal s x.c p dv n then none else some dv)
      else if !inAlias dv then some dv else if inLocal s x.c p av n then none else some av
    if lwBad (5 ≤ fn) v then .trap (illegalAt word)
    else match alignOf [dv, av, n], (if n = 0 then none else bad) with
      | some t, _ => .trap t
      | none, some q => .trap (trapAt .bounds q)
      | none, none => courierRec x s (newRec x s word (x.rd s (rn d)) (x.rd s (rn a)) (x.rd s (rn b))) n

def execPutx (w : BitVec 3) (d a b : BitVec 5) (s : State) : Result := netCopy 3 w d a b s
def execGetx (w : BitVec 3) (d a b : BitVec 5) (s : State) : Result := netCopy 4 w d a b s
def execMcast (w : BitVec 3) (d a b : BitVec 5) (s : State) : Result := netCopy 5 w d a b s
def execNred (w : BitVec 3) (d a b : BitVec 5) (s : State) : Result := netCopy 6 w d a b s

/-- The traveller's courier records whose ST is 0, 1 or 3 (R186). -/
def courierOut (s : State) (c sl : Nat) : Nat :=
  ((core s c).courierQ.filter (fun r => r.slot == sl && r.tid == tidOf s c sl && r.st != 2)).length
/-- The fault of its oldest faulted courier record. -/
def courierFaulted (s : State) (c sl : Nat) : Option TrapInfo := faultedRec s c sl fun r => r.path == 3 || r.path == 5

/-- CWAIT (R186). -/
def execCwait (w : BitVec 3) (a : BitVec 5) (s : State) : Result :=
  issue { word := word3 0x07000007 w 0 a 0, reads := [rn a], sync := [rn a] } s fun x s =>
    match courierFaulted s x.c x.sl with
    | some t => .trap t
    | none =>
      let n := (x.rd s (rn a)).toNat
      if courierOut s x.c x.sl ≤ n then .next s else .park 4 (.courierDone n) s

/-! ## Records at work -/

/-- Destination bytes of a record. -/
def cpTotal (r : Rec) : Nat := match r.fn with
  | 1 => let q := shapeOf (leNat r.mem); q.rowb * q.rows
  | 2 => (winOf (leNat r.mem)).bytes
  | _ => lwLen r.b.toNat
/-- The barrier of its arrivals. -/
def cpBar (r : Rec) : Option Nat := match r.fn with
  | 1 => (shapeOf (leNat r.mem)).bar
  | 2 => (winOf (leNat r.mem)).bar
  | _ => lwBar r.b.toNat
/-- Destination address of byte `o`. -/
def cpDst (r : Rec) (o : Nat) : Nat := match r.fn with
  | 1 => let q := shapeOf (leNat r.mem)
         intMod56 (ea56 r.d + (o / max 1 q.rowb : Nat) * q.dstr + (o % max 1 q.rowb : Nat))
  | _ => (ea56 r.d + o) % 2 ^ 56
/-- Source address of byte `o`; `none` for a byte of zero that is read nowhere. -/
def cpSrc (r : Rec) (o : Nat) : Option Nat := match r.fn with
  | 1 => let q := shapeOf (leNat r.mem)
         some (intMod56 (ea56 r.a + (o / max 1 q.rowb : Nat) * q.sstr + (o % max 1 q.rowb : Nat)))
  | 2 => let q := winOf (leNat r.mem)
         if o / q.esz < q.count then (q.elem (o / q.esz)).map (fun a => (a + o % q.esz) % 2 ^ 56) else none
  | _ => some ((ea56 r.a + o) % 2 ^ 56)

/-- A run of bytes: offset in the command, destination, source, length, and the bytes before it of the packet that it belongs to. -/
structure Run where
  off : Nat
  dst : Nat
  src : Option Nat
  len : Nat
  pk : Nat := 0
deriving DecidableEq, Repr

/-- The unit at destination `d` and source `a` follows run `k` on both sides. -/
def Run.follows (k : Run) (d : Nat) (a : Option Nat) : Bool :=
  d == (k.dst + k.len) % 2 ^ 56 && (match a, k.src with
    | some x, some y => x == (y + k.len) % 2 ^ 56
    | none, none => true
    | _, _ => false)

/-- The runs of `n` units of `u` bytes from offset `o`, after run `cur`. A packet is 2,048 bytes that follow one another on both sides, or
fewer (R408); a run of it breaks at a 4 KiB boundary of either side, where another granule may begin (R336). -/
def runsFrom (r : Rec) (u : Nat) : Nat → Nat → Run → List Run
  | 0, _, cur => [cur]
  | n + 1, o, cur =>
    let d := cpDst r o
    let a := cpSrc r o
    let more := cur.follows d a && decide (cur.pk + cur.len + u ≤ 2048)
    if more ∧ d % 4096 ≠ 0 ∧ (a.getD 1) % 4096 ≠ 0 then runsFrom r u n (o + u) { cur with len := cur.len + u }
    else cur :: runsFrom r u n (o + u) { off := o, dst := d, src := a, len := u, pk := if more then cur.pk + cur.len else 0 }

def cpRuns (r : Rec) (u n o : Nat) : List Run := match n with
  | 0 => []
  | n + 1 => runsFrom r u n (o + u) { off := o, dst := cpDst r o, src := cpSrc r o, len := u }

/-- Bytes of a unit. -/
def cpUnit (r : Rec) : Nat := if r.fn = 2 then (winOf (leNat r.mem)).esz else 16

/-- Where an address of a copy lies. -/
inductive CpPlace where
  | near (pa : Nat)
  | far (na cube : Nat)
  | dead
deriving DecidableEq, Repr

/-- Place an address of a copy of core `c` (R182, R183); a page that is not cached is walked for, `now` for bytes that have come (R331). -/
def cpPlace (s : State) (c p va : Nat) (rd wr : Bool) (now : Bool := false) : Except TrapInfo (State × CpPlace) :=
  if va ≤ 0x00FFFEFFFFFFFFFF then
    match translate s c p va now with
    | .error t => .error t
    | .ok (s, e) => match leafPlace s p va e rd wr with
      | .error t => .error t
      | .ok (.hall h) => .ok (s, .near (hallPa h))
      | .ok (.dram pa) => .ok (s, .near pa)
      | .ok (.far na cube) => .ok (s, .far na cube)
      | .ok .dead => .ok (s, .dead)
  else match reach s c false p va rd wr with
    | .own off => .ok (s, .near (sramPa c off))
    | .window w off => .ok (s, .near (sramPa w off))
    | _ => .error (trapAt .bounds va)

/-- Flits of a packet of `n` payload bytes (R405). -/
def flits (n : Nat) : Nat := (64 + n + 255) / 256

/-- What `f` gives for a packet's first `pk + n` bytes beyond what it gave for the first `pk`. -/
def grown (f : Nat → Nat) (pk n : Nat) : Nat := f (pk + n) - (if pk = 0 then 0 else f pk)

/-- Charge the access of `n` bytes at `pa` for a record of core `c`, which follow `pk` bytes of their packet (R183, R360): the hall by 64
bytes; DRAM through an on-die port, by the flits of request and response, the service, and line by line a hall access on a hit of the
channel cache or the segments on a miss (R280, R281). -/
def chargePlace (s : State) (c : Nat) (r : Rec) (pa n : Nat) (write : Bool) (pk : Nat := 0) : State :=
  let units := grown (fun n => (n + 63) / 64) pk n
  match homeOf pa with
  | .core _ _ => s
  | .hall h => chargeRec s c r (1344 + h / 256 % 768 / 32) 6 units
  | .dram ch _ =>
    let s := chargeRec s c r 1384 31 (grown flits pk n + if pk = 0 then flits 0 else 0)
    let s := chargeRec s c r 1384 36 units
    cacheLines s pa n r.ecx write true fun s hit pa n =>
      if hit then chargeRec s c r (1344 + pa / 256 % 768 / 32) 6 n else chargeRec s c r (1280 + ch) (if write then 26 else 25) n

/-- Bytes read at `pa` for core `c`: a sealed window gives poison (R385). -/
def readPlace (s : State) (c pa n ecx : Nat) : State × List (Byte × Bool) :=
  if sealedFor s c pa then (s, List.replicate n (0, true))
  else
    let s := findErrors s pa n 4 ecx
    (s, bytesAt s pa n)

/-- Post a packet under message `m`. -/
def postAs (s : State) (m : Nat) (p : Sent) : State :=
  { s with net := { s.net with portQ := s.net.portQ ++ [{ p with pkt := { p.pkt with msgid := m } }] } }
/-- A fresh message number (R405). -/
def newMsg (s : State) : State × Nat :=
  ({ s with net := { s.net with msgid := (s.net.msgid + 1) % 2 ^ 32 } }, s.net.msgid)

/-- A packet of a record of core `c`. -/
def recPacket (s : State) (c : Nat) (r : Rec) (kind cube na off total : Nat) (pl : Payload) : Sent :=
  { pkt := { scube := cubeId s, dcube := cube, cls := classOf kind, kind := kind, ecx := r.ecx, spart := r.part, score := c,
             addr := na, off := off, total := total, bix := (cpBar r).getD 0, ben := (cpBar r).isSome, payload := pl },
    who := some (c, r.slot), cmd := some r.seq }

/-- The bytes of a run go to its destination (R182, R183): an engine write on its way, a packet, or nothing on a dead cube. -/
def writeRun (s : State) (c : Nat) (r : Rec) (dva : Nat) (pl : CpPlace) (bs : List (Byte × Bool)) (pk : Nat := 0) : State :=
  match pl with
  | .near pa =>
    let bar := match homeOf pa with | .core _ _ => cpBar r | _ => none
    { chargePlace s c r pa bs.length true pk with
      engWrites := s.engWrites ++ [{ pa := pa, bytes := bs, src := (c, 1, r.seq), bar := bar }] }
  | .far na cube =>
    let m := newMsg s
    postAs m.1 m.2 (recPacket s c r 4 cube na 0 bs.length (.data bs))
  | .dead => trapLog s r.part 1 c 0 (BitVec.ofNat 64 dva)

/-- One run with its places. -/
structure Placed where
  run : Run
  src : Option CpPlace
  dst : CpPlace
deriving DecidableEq, Repr

/-- Hall and DRAM are different classes (R183). -/
def CpPlace.isHall : CpPlace → Bool | .near pa => (match homeOf pa with | .hall _ => true | _ => false) | _ => false
def CpPlace.isCore : CpPlace → Bool | .near pa => (coreOfPa pa).isSome | _ => false

/-- Place every run of a block, in order; a destination in a sealed window faults (R385). -/
def placeRuns (s : State) (c : Nat) (r : Rec) : List Run → Except TrapInfo (State × List Placed)
  | [] => .ok (s, [])
  | k :: ks =>
    let src : Except TrapInfo (State × Option CpPlace) := match k.src with
      | none => .ok (s, none)
      | some a => (cpPlace s c r.part a true false).map fun (s, p) => (s, some p)
    match src with
    | .error t => .error t
    | .ok (s, sp) =>
      match cpPlace s c r.part k.dst false true with
      | .error t => .error t
      | .ok (s, dp) =>
        let sealedDst := match dp with | .near pa => sealedFor s c pa | _ => false
        if sealedDst then .error (trapAt .sealed k.dst 1)
        else match placeRuns s c r ks with
          | .error t => .error t
          | .ok (s, l) => .ok (s, { run := k, src := sp, dst := dp } :: l)

/-- Hall on one side of a page boundary and DRAM on the other: the range lies in two classes. -/
def mixed (l : List Placed) : Option TrapInfo :=
  let bad (a b : CpPlace) : Bool := a.isHall != b.isHall
  match l with
  | [] => none
  | q :: qs =>
    match qs.find? (fun k => bad k.dst q.dst) with
    | some k => some (trapAt .bounds k.run.dst)
    | none =>
      match (q :: qs).filterMap (fun k => match k.src, k.run.src with | some p, some a => some (p, a) | _, _ => none) with
      | [] => none
      | (p, _) :: ps => (ps.find? (fun e => bad e.1 p)).map fun e => trapAt .bounds e.2

/-- Storage a block needs that cannot be served now (R23, R342, R345). -/
def blocked (s : State) (l : List Placed) : Bool :=
  let b (p : CpPlace) : Bool := match p with | .near pa => !servable s pa | _ => false
  l.any fun k => b k.dst || (match k.src with | some p => b p | none => false)

/-- Do one run: read at once and write, or ask another cube for its bytes; a read on a DEAD cube is logged (R344). -/
def doRun (s : State) (c : Nat) (r : Rec) (k : Placed) : State :=
  match k.src with
  | none => writeRun s c r k.run.dst k.dst (List.replicate k.run.len (0, false)) k.run.pk
  | some .dead => writeRun (trapLog s r.part 1 c 0 (BitVec.ofNat 64 (k.run.src.getD 0))) c r k.run.dst k.dst (List.replicate k.run.len (0, true)) k.run.pk
  | some (.near pa) =>
    let s := chargePlace s c r pa k.run.len false k.run.pk
    let e := readPlace s c pa k.run.len r.ecx
    writeRun e.1 c r k.run.dst k.dst e.2 k.run.pk
  | some (.far na cube) =>
    let m := newMsg s
    postAs m.1 m.2 { recPacket s c r 3 cube na 0 k.run.len (.read k.run.len) with pos := k.run.off }

/-- Something of a record is still under way: a write that has not landed, a packet that is not acknowledged. -/
def recOut (s : State) (c e n : Nat) : Bool :=
  writesOut s c e n || (s.net.portQ ++ s.net.retry).any fun p =>
    p.cmd == some n && (match p.who with | some (c', _) => c' == c | none => false)

/-- A courier command stands where it may stop: a COPY, COPY2D or WINCOPY at a multiple of 4,096 of its destination bytes, a network
command after the packet that has come to one; one that has only to complete goes on (R182, R366). -/
def courierAtBlock (r : Rec) : Bool :=
  decide (r.iter < cpTotal r) && (if r.fn ≤ 2 then r.iter % 4096 == 0
    else match r.bset with
      | _ :: b :: _ => decide ((b + (r.iter - b - 1) / 2048 * 2048) / 4096 < r.iter / 4096)
      | _ => r.iter == 0)

/-- Commands and records stop while their context is stranded or their core halted hard: where they may (R182, R261, R392). -/
def recStopped (s : State) (c : Nat) (r : Rec) : Bool :=
  (core s c).hardHalt || (s.stranded.contains r.ecx && (slot s c r.slot).lvl == 0)

/-- What the next action of a record comes to. -/
inductive Advance where | wait | done | fault (s : State) (t : TrapInfo) | go (s : State)

/-- The next 4,096 destination bytes of a COPY, COPY2D or WINCOPY, once those before them are written, which PROG counts (R182). -/
def copyAdvance (s : State) (c : Nat) (r : Rec) : Advance :=
  let total := cpTotal r
  if recOut s c 1 r.seq then .wait
  else if total ≤ r.iter then .done
  else
    let s := updRec s c 1 r.seq fun q => { q with prog := r.iter }
    let n := min 4096 (total - r.iter)
    match placeRuns s c r (cpRuns r (cpUnit r) (n / cpUnit r) r.iter) with
    | .error t => .fault s t
    | .ok (s', l) =>
      match mixed l with
      | some t => .fault s t
      | none =>
        if blocked s' l then .wait
        else
          let s' := updRec s' c 1 r.seq fun q => { q with iter := r.iter + n, matched := false }
          .go (l.foldl (fun s k => doRun s c r k) (chargeRec s' c r (meterOf c) 24 n))

/-- The cube of a network address (R185, R337), none when it is DEAD: HALL and WINDOW name theirs. -/
def netPlace (s : State) (na : Nat) : Except TrapInfo (Option Nat) :=
  if na / 2 ^ 53 % 8 = 0 then
    match stripePlace s na with
    | none => .error { cause := .xlate, sub := 4, addr := BitVec.ofNat 64 na }
    | some pl => if pl.dead then .ok none else .ok (some pl.cube)
  else .ok (some (na / 2 ^ 41 % 4096))

/-- Of `rest` bytes of DRAM from `na`, those that lie on cube `cube` without a break: a granule holds 4 KiB or more (R336). -/
def sameCube (s : State) (cube : Nat) : Nat → Nat → Nat → Nat
  | 0, _, _ => 0
  | n + 1, na, rest => match netPlace s na with
    | .ok (some k) =>
      let step := min rest (4096 - na % 4096)
      if k = cube ∧ 0 < rest then step + sameCube s cube n (na + step) (rest - step) else 0
    | _ => 0

/-- The length of the message that begins at `na`: what the stripe map spreads over several cubes is a message to each (DEDUCED, assumption
43). -/
def msgLen (s : State) (r : Rec) (cube na rest : Nat) : Nat :=
  if 5 ≤ r.fn ∨ na / 2 ^ 53 % 8 ≠ 0 then rest else sameCube s cube (rest / 4096 + 2) na rest

/-- The courier-copy fare of each 4,096 bytes that begin among the next `n` of a network command (R359). -/
def chargeBlocks (s : State) (c : Nat) (r : Rec) (n : Nat) : State :=
  let k := (r.iter + 4095) / 4096 * 4096
  if k < r.iter + n then chargeRec s c r (meterOf c) 24 (min 4096 (cpTotal r - k)) else s

/-- The plan of an MCAST or NRED fits (R185, R413): programmed for the partition, of the command's length and kind. -/
def planOk (s : State) (r : Rec) : Bool :=
  let v : BitVec 128 := mget 0 s.net.plans (r.part * 64 + lwPlan r.b.toNat)
  v.getLsbD 0 && v.getLsbD 1 == (r.fn == 5) && (v.toNat / 256 % 2 ^ 24 == lwLen r.b.toNat)

/-- Leaf counter of core `c` for a plan (R412). -/
def leafKey (c p plan : Nat) : Nat := (c * 32 + p) * 64 + plan

/-- The next packet of a network command (R185, R408): 2,048 bytes of its message, whose number, place in the command, length and cube
the record's `bset` holds. A read on a DEAD cube is logged (R344). -/
def netAdvance (s : State) (c : Nat) (r : Rec) : Advance :=
  let total := cpTotal r
  let bad := trapAt .bounds (ea56 r.d)
  if total ≤ r.iter then (if recOut s c 1 r.seq then .wait else .done)
  else if !portRoom s then .wait
  else if 5 ≤ r.fn ∧ planOk s r = false ∨ r.fn = 6 ∧ r.xq = [] then .fault s bad
  else
    let na := (if r.fn = 4 then ea56 r.a else ea56 r.d) + r.iter
    let lpa := sramPa c 0
    let localOf (v : Word) : Nat := match rangeClass s c r.part (ea56 v) (ea56 v + total) with
      | some (.own off) => lpa + off + r.iter
      | _ => lpa
    let under := match r.bset with | [_, b, l, _] => decide (r.iter < b + l) | _ => false
    match (if under then .ok (some (r.bset.getD 3 0)) else if 5 ≤ r.fn then .ok (some (cubeId s)) else netPlace s na) with
    | .error t => .fault s t
    | .ok none =>
      let n := min (min 2048 (total - r.iter)) (4096 - na % 4096)
      let s := trapLog (chargeBlocks s c r n) r.part 1 c 0 (BitVec.ofNat 64 na)
      let s := updRec s c 1 r.seq fun q => { q with iter := r.iter + n, bset := [0, r.iter, n] }
      if r.fn = 4 then .go { s with engWrites := s.engWrites ++ [{ pa := localOf r.d, bytes := List.replicate n (0, true), src := (c, 1, r.seq), bar := lwBar r.b.toNat }] }
      else .go s
    | .ok (some cube) =>
      let m := if under then (s, r.bset) else
        let m := newMsg s
        (m.1, [m.2, r.iter, msgLen s r cube na (total - r.iter), cube])
      let b := m.2.getD 1 0
      let len := m.2.getD 2 0
      let plan : BitVec 128 := mget 0 s.net.plans (r.part * 64 + lwPlan r.b.toNat)
      let inst := if 5 ≤ r.fn then r.xq.headD (bitsOf plan.toNat 79 64) else 0
      let n := min 2048 (b + len - r.iter)
      let s := chargeBlocks m.1 c r n
      let s := updRec s c 1 r.seq fun q => { q with iter := r.iter + n, bset := m.2, xq := if q.fn = 5 then [inst] else q.xq }
      if r.fn = 4 then .go (postAs s (m.2.headD 0) { recPacket s c r 3 cube (na - (r.iter - b)) (r.iter - b) len (.read n) with pos := r.iter })
      else
        let e := readPlace s c (localOf r.a) n r.ecx
        let kind := if r.fn = 5 then 8 else if r.fn = 6 then 7 else 4
        let q := recPacket e.1 c r kind cube (na - (r.iter - b)) (r.iter - b) len (.data e.2)
        .go (postAs e.1 (m.2.headD 0) { q with pkt := { q.pkt with plan := lwPlan r.b.toNat, inst := inst } })

/-- A record whose page is not cached holds its progress while the page is walked (R331). -/
def orWalk (c : Nat) (r : Rec) : Advance → Advance
  | .fault s t => if isMiss t then (match engineAsk s c r.part t.addr.toNat with | some u => .go u | none => .wait) else .fault s t
  | a => a

/-- The next action of the record at place `k` of core `c`'s courier queue. -/
def courierNext (s : State) (c k : Nat) : Option (Rec × Advance) :=
  match (core s c).courierQ[k]? with
  | none => none
  | some r => if r.st ≠ 1 ∨ r.active = false ∨ (recStopped s c r && courierAtBlock r) = true then none
      else some (r, orWalk c r (if r.fn ≤ 2 then copyAdvance s c r else netAdvance s c r))

/-- A courier record faults (R182): writes of it that have not landed are dropped; a network command's PROG is 0. -/
def courierFault (s : State) (c : Nat) (r : Rec) (t : TrapInfo) : State :=
  let s := tableFound { s with engWrites := s.engWrites.filter fun w => w.src ≠ (c, 1, r.seq) } c r.part t
  updRec s c 1 r.seq fun q => { q with st := 3, active := false, fault := some t, iter := if q.fn ≤ 2 then q.prog else 0, bset := [], xq := [] }

/-- An NRED that starts takes its core's instance counter for the plan, which advances (R412); one that R185 refuses takes none
(DEDUCED, assumption 84). -/
def takeInstance (s : State) (c : Nat) (r : Rec) : State :=
  if planOk s r = false then s
  else
  let key := leafKey c r.part (lwPlan r.b.toNat)
  let inst := mget 0 s.net.leaf key
  updRec { s with net := { s.net with leaf := mput 0 s.net.leaf key ((inst + 1) % 65536) } } c 1 r.seq fun q => { q with xq := [inst] }

/-- COURIER_COMMAND_START: pending records become active in queue order, up to 4 at once (R182). -/
def courierStart (s : State) (c : Nat) : State :=
  let l := (core s c).courierQ
  if 4 ≤ (l.filter (fun r => r.active)).length || (core s c).hardHalt then s
  else match l.find? (fun r => !r.active && (r.st == 0 || r.st == 1)) with
    | some r =>
      let s := updRec s c 1 r.seq fun r => { r with st := 1, active := true, iter := if r.fn ≤ 2 then r.prog else 0 }
      if r.fn = 6 then takeInstance s c r else s
    | none => s

/-- A copy of an escorted traveller reads beyond its core: the two copies read together (R387). -/
def readsTogether (s : State) (c : Nat) (r : Rec) : Bool :=
  (slot s c r.slot).pair && decide (r.fn ≤ 2) && (match rangeClass s c r.part (ea56 r.a) (ea56 r.a + 1) with | some (.own _) => false | _ => true)
/-- Its next block goes to the common router. -/
def escBlock (s : State) (c : Nat) (r : Rec) : State :=
  escSend s c r.slot 3 (BitVec.ofNat 64 (ea56 r.a))
    (leBytes 4 r.word ++ leBytes 8 r.d.toNat ++ leBytes 8 r.b.toNat ++ leBytes 8 r.iter) (.block r.seq)

/-- The record at place `k`, whose next action would give `s'`, is of an escorted copy and reads beyond its core: its block is compared, then
the primary's is done with the twin's, of which what lies beyond its core is left out (R387). -/
def courierTogether (s : State) (c k : Nat) (r : Rec) (s' : State) : State :=
  let moved (u : State) (c n : Nat) : Bool := (core u c).courierQ.any fun q => q.seq == n && q.iter != r.iter
  if !moved s' c r.seq then s'
  else if !r.matched then escBlock s c r
  else if (slot s c r.slot).twin then s
  else match (partnerOf s c r.slot).bind fun e =>
      ((core s e.1).courierQ.zipIdx.find? fun q => q.1.slot == e.2 && q.1.matched && q.1.iter == r.iter).map fun q => (e.1, q.1, q.2) with
    | none => s'
    | some (d, q, j) => match courierNext s d j with
      | some (_, .go u) =>
        if !moved u d q.seq then u
        else (match courierNext (keepOwn s u d) c k with | some (_, .go t) => t | _ => s)
      | some (_, .wait) => s
      | _ => s'

/-- COURIER_COMMAND_COMPLETE: the record at place `k` goes on by its next block or packet, and is done after the last. -/
def courierComplete (s : State) (c k : Nat) : State :=
  match courierNext s c k with
  | some (r, .done) => updRec s c 1 r.seq fun q => { q with st := 2, active := false, prog := cpTotal r, fault := none }
  | some (r, .go s') => if readsTogether s c r then courierTogether s c k r s' else s'
  | _ => s

/-- COURIER_FAULT: the record at place `k` meets a fault at its next block. -/
def courierFaultStep (s : State) (c k : Nat) : State :=
  match courierNext s c k with
  | some (r, .fault s' t) => courierFault s' c r t
  | _ => s

/-- Bytes that another cube answered for offset `off` of a record (R408): they go on to the destination. -/
def courierData (s : State) (c seq off : Nat) (bs : List (Byte × Bool)) : State :=
  match (core s c).courierQ.find? (fun r => r.seq == seq && r.st == 1) with
  | none => s
  | some r =>
    match cpPlace s c r.part (cpDst r off) false true true with
    | .ok (s, pl) => writeRun s c r (cpDst r off) pl bs
    | .error t => courierFault s c r t

/-- Courier records of a traveller resume from PROG after ERET (R186). -/
def courierResume (s : State) (c sl : Nat) : State :=
  updCore s c fun k => { k with courierQ := k.courierQ.map fun r =>
    if r.st = 3 ∧ r.slot = sl ∧ r.tid = tidOf s c sl then { r with st := 1, active := false, fault := none } else r }

end Sys2Proof.Machine
end

