-- ==== Sys2Proof/Machine/Host.lean ====
section
/-! DEFINITION. Packets of the waystation itself, the PCI Express hosts (R421 to R425), ownership (R426, R427), firmware
and identity (R428, R429) and alarms (R430, R431). -/

namespace Sys2Proof.Machine

/-! ## Owner and error records -/

/-- An agent that may write registers of the owner and the island controller (R275, R422, R427, R430). -/
def ownerOk (s : State) (a : Agent) : Bool := match a with
  | .port p => s.fw.owner == p + 1 && !s.fw.locked
  | .island => true
  | _ => false

/-- An error record whose format the spec does not give (R389, R430, R434). -/
def otherRecord (s : State) : State :=
  writeRecord { s with free := s.free + 2 } (Config.recordBits s.free) (Config.recordBits (s.free + 1))

/-! ## Alarms (R430, R431) -/

/-- Lock: management writes and signed commands other than UNLOCK are refused. -/
def alarmLock (s : State) : State := { s with fw := { s.fw with locked := true } }
/-- Erase: the memory keys of the partitions and the identity keys are gone. -/
def alarmErase (s : State) : State :=
  let s := { s with fw := { s.fw with locked := true, erased := true } }
  (List.range 24).foldl (fun s p => if (part s p).memKey then updPart s p fun k => { k with memKey := false, keyErased := true } else s) s

/-- Alarm source `src` fires; the commands in progress are told (R431). -/
def alarmFire (s : State) (src : Nat) : State :=
  if 4 ≤ src then s
  else
    let s := otherRecord s
    let s := { s with fw := { s.fw with src := s.fw.src ||| 2 ^ src },
                      ports := s.fw.authQ.foldl (fun m p => mput {} m p { (mget {} m p : Port) with alarmed := true }) s.ports }
    match regField s islandBlk 0xF818 (2 * src + 1) (2 * src) with
    | 1 => alarmLock s
    | 2 => alarmErase s
    | _ => s

/-- ALARM (R430). -/
def execAlarm (src : Nat) (s : State) : Result := .next (alarmFire s src)

/-- Cycles of 60 seconds at 2.1 GHz. -/
def failWindow : Nat := 60 * 2100000000

/-- An authentication failure is counted; source 3 alarms when AFLIM of them fall within 60 s. -/
def authFailed (s : State) : State :=
  let now := s.fw.past + s.cycle
  let l := (s.fw.failTimes.filter fun t => decide (now < t + failWindow)) ++ [now]
  let s := { s with fw := { s.fw with failTimes := l } }
  if regField s islandBlk 0xF818 15 8 ≤ l.length then alarmFire { s with fw := { s.fw with failTimes := [] } } 3 else s

/-! ## Ports -/

def port (s : State) (p : Nat) : Port := mget {} s.ports p
def updPort (s : State) (p : Nat) (f : Port → Port) : State := { s with ports := mput {} s.ports p (f (port s p)) }

/-! ## Firmware (R428) -/

/-- The cells of firmware slot `k`, by offset. -/
def fwSlot (s : State) (k : Nat) : List (Nat × Byte) :=
  (s.fw.bytes.filter fun e => e.1 / 2 ^ 24 == k).map fun e => (e.1 % 2 ^ 24, e.2)
/-- The image in a slot is valid. -/
def fwValid (s : State) (k : Nat) : Bool :=
  Config.imageSigned (fwSlot s k) && decide (s.fw.minsvn ≤ Config.imageSvn (fwSlot s k))

/-! ## Signed commands (R426, R427) -/

def authByte (s : State) (p a : Nat) : Byte := rdByte (port s p).authbuf a
def authField (s : State) (p a n : Nat) : Nat := rdN (port s p).authbuf a n
def authOp (s : State) (p : Nat) : Nat := authField s p 0 4
def authArg (s : State) (p : Nat) : Nat := authField s p 4 4

/-- ARG is one that its OP defines, OP is defined, and LLEN is in range for a signed command. -/
def authFormed (s : State) (p : Nat) : Bool :=
  let op := authOp s p
  let arg := authArg s p
  let llen := authField s p 112 4
  (match op with
   | 2 => decide (arg < 4)
   | 6 => decide (arg < 4096)
   | 1 | 3 | 4 | 5 => arg == 0
   | _ => false) && (op == 6 || (decide (1452 ≤ llen) && decide (llen ≤ 9324)))

/-- STATUS of the two signatures, ESIG and LSIG over bytes 0 to 15 and the CUBEUID, against the owner credential: 0 both verify, 2, 3,
4 by which fail. -/
def authSigs (s : State) (p : Nat) : Nat :=
  let bs := (port s p).authbuf
  let msg := rdBytes bs 0 16 ++ leBytes 16 Config.cubeUid.toNat
  match Config.ecdsaOk s.fw.credEc msg (rdBytes bs 16 96), Config.lmsOk s.fw.credLms msg (rdBytes bs 116 (authField s p 112 4)) with
  | true, true => 0
  | false, true => 2
  | true, false => 3
  | false, false => 4

/-- A command ends with a STATUS: the port's nonce is replaced, codes 1 to 4 are counted. -/
def authEnd (s : State) (p status : Nat) : State :=
  let s := updPort { s with free := s.free + 1, fw := { s.fw with authQ := s.fw.authQ.drop 1 } } p fun k =>
    { k with authBusy := false, alarmed := false, authStatus := status, nonce := Config.nonce s.free }
  if 1 ≤ status ∧ status ≤ 4 then authFailed s else s

/-- The status that ends a command before its effect, 0 when it is accepted: locked or overtaken by an alarm (R431), malformed, refused by state, nonce,
signatures. -/
def authVerdict (s : State) (p : Nat) : Nat :=
  let op := authOp s p
  if (port s p).alarmed ∨ (s.fw.locked ∧ op ≠ 3) then 6
  else if authFormed s p = false then 7
  else if op = 1 ∧ s.fw.owner ≠ 0 then 5
  else if op = 6 ∧ s.fw.owner ≠ p + 1 then 5
  else if BitVec.ofNat 64 (authField s p 8 8) ≠ (port s p).nonce then 1
  else if op = 6 then 0
  else if authSigs s p ≠ 0 then authSigs s p
  else if op = 2 ∧ s.fw.owner = 0 then 5
  else if op = 5 ∧ fwValid s (1 - s.fw.active) = false then 5
  else 0

/-- The command of operation `op` that stands first in the order of GO writes and came through port `p`: `f` is its
effect. -/
def authRun (s : State) (p op : Nat) (f : State → State) : State :=
  if s.fw.authQ.head? = some p ∧ authOp s p = op then
    let v := authVerdict s p
    authEnd (if v = 0 then f s else s) p v
  else s

/-- The owner becomes `o` (R427). -/
def setOwner (o : Nat) (s : State) : State := { s with fw := { s.fw with owner := o } }

def execClaim (p : Nat) (s : State) : Result := .next (authRun s p 1 (setOwner (p + 1)))
def execHandover (p : Nat) (s : State) : Result :=
  .next (authRun s p 2 (setOwner (if authArg s p / 2 % 2 = 1 then 0 else authArg s p % 2 + 1)))
def execUnlock (p : Nat) (s : State) : Result := .next (authRun s p 3 fun s => { s with fw := { s.fw with locked := false } })

/-- REKEY: a new identity, whose public key lies at bytes 12,288 to 12,383 of AUTHBUF. -/
def execRekey (p : Nat) (s : State) : Result :=
  .next (authRun s p 4 fun s =>
    let key := Config.identityKey s.free
    let s := { s with free := s.free + 1, fw := { s.fw with identity := s.fw.identity + 1, erased := false, lmsIndex := 0 } }
    updPort s p fun k => { k with authbuf := wrBytes k.authbuf 12288 ((List.range 96).map fun i => key.getD i 0) })

/-- SWITCH: the inactive slot is the active one from the next waystation reset on, and MINSVN is its SVN. -/
def execSwitch (p : Nat) (s : State) : Result :=
  .next (authRun s p 5 fun s =>
    let k := 1 - s.fw.active
    { s with fw := { s.fw with next := k, minsvn := Config.imageSvn (fwSlot s k) } })

/-- FWCHUNK: 4 KiB at chunk ARG of the inactive slot. -/
def execFwchunk (p : Nat) (s : State) : Result :=
  .next (authRun s p 6 fun s =>
    let data := rdBytes (port s p).authbuf 12288 4096
    { s with fw := { s.fw with bytes := wrBytes s.fw.bytes ((1 - s.fw.active) * 2 ^ 24 + authArg s p * 4096) data } })

/-- An AUTHCTL write with GO = 1: the command of AUTHBUF is in progress; one with no defined OP ends at its turn. Of GO writes of one
cycle, that of port 0 comes first (R427). -/
def authGo (s : State) (p : Nat) : State :=
  let now := s.fw.past + s.cycle
  if (port s p).authBusy then s
  else
    let q := if p = 0 ∧ s.fw.authQ = [1] ∧ (port s 1).authAt = now then [0, 1] else s.fw.authQ ++ [p]
    updPort { s with fw := { s.fw with authQ := q } } p fun k => { k with authBusy := true, authAt := now }

/-- A command with an undefined OP ends with STATUS 6 or 7. -/
def authMalformed (s : State) (p : Nat) : State :=
  if s.fw.authQ.head? = some p ∧ (authOp s p = 0 ∨ 6 < authOp s p) then authEnd s p (authVerdict s p) else s

/-- The command that stands first in the order of GO writes ends when its OP is undefined. -/
def authTurn (s : State) : State := match s.fw.authQ with
  | p :: _ => authMalformed s p
  | [] => s

/-! ## Attestation (R429) -/

/-- A management read of ATTEST through port `p`: the leaf index advances, the report of the images loaded, OWNSTAT and the requester's
nonce goes to AUTHBUF and 0 is read, or 1. -/
def attest (s : State) (p : Nat) (nonce : Word) : State × Word :=
  if s.fw.erased ∨ Config.lmsLeaves ≤ s.fw.lmsIndex then (s, 1)
  else
    let n := s.fw.lmsIndex + 1
    let image := (Config.imageSvn (fwSlot s s.fw.active), Config.sha384 ((fwSlot s s.fw.active).map (·.2)))
    let bs := (Config.attestReport Config.cubeUid (image :: s.fw.images.map (·.2)) s.fw.owner nonce n s.fw.identity).take 16384
    let s := { s with fw := { s.fw with lmsIndex := s.fw.lmsIndex + 1 } }
    (updPort s p fun k => { k with authbuf := wrBytes k.authbuf 0 bs }, 0)

def execAttestRead (p : Nat) (s : State) : Result :=
  let r := attest s p (port s p).mgdata
  .next (updPort r.1 p fun k => { k with mgdata := r.2 })

/-! ## Management accesses (R423) -/

/-- A write of MGCTL with GO = 1. An address that is no aligned SYSREG address ends it with STATUS 4. -/
def mgGo (s : State) (p : Nat) (wr : Bool) : State :=
  let k := port s p
  if k.mgbusy then s
  else
    let a := k.mgaddr.toNat
    let s := updPort s p fun k => { k with mgwr := wr }
    if a / 2 ^ 53 ≠ 3 ∨ a % 8 ≠ 0 then updPort s p fun k => { k with mgstatus := 4 }
    else
      let pkt : Packet := { scube := cubeId s, dcube := a / 2 ^ 41 % 4096, cls := 3, kind := 11, ecx := 0, spart := 0, addr := a,
                            total := 8, payload := .mgmt wr p k.mgdata }
      transmitNew (updPort s p fun k => { k with mgbusy := true }) { pkt := pkt }

def execManagementRead (p : Nat) (s : State) : Result := .next (mgGo s p false)
def execManagementWrite (p : Nat) (s : State) : Result := .next (mgGo s p true)

/-- A management access ends with a STATUS (R423). -/
def mgEnd (s : State) (p status : Nat) (data : Option Word) : State :=
  updPort s p fun k => { k with mgbusy := false, mgstatus := status, mgdata := data.getD k.mgdata }

/-! ## Doorbells and function resets (R424, R425) -/

/-- A queue is disabled, HEAD and TAIL kept (R167). -/
def disableQueue (s : State) (p q : Nat) : State := qSet s p q 2 2 0

/-- A DBELL write through `port` by function `vf` (0: the PF); a VF that is not enabled has no BAR (R421), and a partition that is not
enabled no queues (R349). -/
def doorbell (s : State) (pt vf : Nat) (v : Word) (hd : Bool) : State :=
  let q := v.toNat % 65536
  let p := v.toNat / 2 ^ 16 % 32
  let val := v.toNat / 2 ^ 32
  if 2 ≤ pt ∨ 128 < vf ∨ (port s pt).vfsOff.contains vf = true ∨ (vf ≠ 0 ∧ (decide (vf ≤ 64) != (pt == 0))) ∨ v.getLsbD 21 ≠ hd ∨ 24 ≤ p then s
  else
    let logged := trapLog s p 3 0 0 (BitVec.ofNat 64 q)
    let kindOk := if hd then qKind s p q == 2 else decide (qKind s p q ≤ 1)
    if regField s islandBlk (0x9000 + 8 * p) 0 0 ≠ 1 ∨ tenant s p ≠ vf ∨ qEnabled s p q = false ∨ kindOk = false ∨ v.toNat / 2 ^ 22 % 2 ^ 10 ≠ 0
        ∨ (qLoc s p q = true ∧ qPort s p q ≠ pt) then logged
    else if hd then
      if (val + 2 ^ 32 - qHead s p q) % 2 ^ 32 ≤ qCount s p q then qSet s p q 159 128 val else logged
    else if 2 ^ qLog s p q < (val + 2 ^ 32 - qHead s p q) % 2 ^ 32 then disableQueue logged p q
    else qSet s p q 191 160 val

def execDoorbellSetTail (pt vf : Nat) (v : BitVec 64) (s : State) : Result := .next (doorbell s pt vf v false)
def execDoorbellSetHead (pt vf : Nat) (v : BitVec 64) (s : State) : Result := .next (doorbell s pt vf v true)

/-- Disable every LOC = 1 queue of the enabled partitions that `f` takes. -/
def disableHostQueues (s : State) (f : State → Nat → Nat → Bool) : State :=
  (List.range 24).foldl (fun s p =>
    if regField s islandBlk (0x9000 + 8 * p) 0 0 = 1 then
      (List.range (qsize s p)).foldl (fun s q => if qLoc s p q && f s p q then disableQueue s p q else s) s
    else s) s

def execFunctionLevelReset (pt vf : Nat) (s : State) : Result :=
  .next (if vf = 0 ∨ (decide (vf ≤ 64) != (pt == 0)) then s else disableHostQueues s fun s p _ => tenant s p == vf)
def execPortHotReset (pt : Nat) (s : State) : Result := .next (disableHostQueues s fun s p q => qPort s p q == pt)

end Sys2Proof.Machine
end

