-- ==== Sys2Proof/Machine/Plan.lean ====
section
/-! DEFINITION. Reduce and multicast plans (R411 to R414). -/

namespace Sys2Proof.Machine

/-! ## Entries (R411) -/

def planOf (s : State) (p k : Nat) : BitVec 128 := mget 0 s.net.plans (p * 64 + k)
def putPlan (s : State) (p k : Nat) (v : BitVec 128) : State :=
  { s with net := { s.net with plans := mput 0 s.net.plans (p * 64 + k) v } }
def planField (s : State) (p k hi lo : Nat) : Nat := bitsOf (planOf s p k).toNat hi lo
def putPlanField (s : State) (p k hi lo v : Nat) : State := putPlan s p k (BitVec.ofNat 128 (setBits (planOf s p k).toNat hi lo v))
def planEn (s : State) (p k : Nat) : Bool := planField s p k 0 0 == 1
def planLen (s : State) (p k : Nat) : Nat := planField s p k 31 8
def planNodes (s : State) (p k : Nat) : Nat := planField s p k 50 44

/-- An edge: its type, cube, node or core. -/
structure Edge where
  ty : Nat
  cube : Nat
  node : Nat
  core : Nat
deriving DecidableEq, Repr
def edgeOf (v : Nat) : Edge := { ty := v % 4, cube := bitsOf v 13 2, node := bitsOf v 19 14, core := bitsOf v 26 14 }

/-- Edge `i` of the pool. -/
def poolEdge (s : State) (i : Nat) : Edge := edgeOf (mget 0 s.net.edges i).toNat

/-- Node `j` of a plan on this cube: the word of its entry, the place of its UP edge in the pool, that edge and its list. That UP
is a place in the pool is what the words of 20_programs_a.md show: node 17 has UP 544, an edge of its own. -/
def nodeWord (s : State) (p k j : Nat) : Nat := (mget 0 s.net.nodes (planField s p k 43 32 + j)).toNat
def nodeUpAt (s : State) (p k j : Nat) : Nat := nodeWord s p k j % 2 ^ 32
def nodeUp (s : State) (p k j : Nat) : Edge := poolEdge s (nodeUpAt s p k j)
def nodeBase (s : State) (p k j : Nat) : Nat := bitsOf (nodeWord s p k j) 46 32
def nodeNe (s : State) (p k j : Nat) : Nat := bitsOf (nodeWord s p k j) 53 48
def nodeEdges (s : State) (p k j : Nat) : List Edge :=
  (List.range (nodeNe s p k j)).map fun i => poolEdge s (nodeBase s p k j + i)
/-- Every node of the plan on this cube. -/
def nodesOf (s : State) (p k : Nat) : List Nat := List.range (planNodes s p k)

def curKey (p k j : Nat) : Nat := (p * 64 + k) * 64 + j
def nodeCur (s : State) (p k j : Nat) : Nat := mget 0 s.net.nodeCur (curKey p k j)
/-- CUR of a node; the plan entry shows that of its first node. -/
def setCur (s : State) (p k j v : Nat) : State :=
  let s := { s with net := { s.net with nodeCur := mput 0 s.net.nodeCur (curKey p k j) (v % 65536) } }
  if j = 0 then putPlanField s p k 79 64 (v % 65536) else s

/-- Instance `a` lies before `b`, mod 65,536. -/
def instBefore (a b : Nat) : Bool := decide (0 < (b + 65536 - a) % 65536) && decide ((b + 65536 - a) % 65536 < 32768)

/-- Cores that contribute to the plan on this cube. -/
def planCores (s : State) (p k : Nat) : List Nat :=
  (nodesOf s p k).flatMap fun j => (nodeEdges s p k j).filterMap fun e => if e.ty = 1 then some e.core else none

/-! ## Aborts (R414) -/

/-- NREDs of core `c` for an instance of the plan that have not completed. -/
def openNreds (s : State) (c p k inst : Nat) : List Rec :=
  (core s c).courierQ.filter fun r => r.fn == 6 && r.major == 0x0E && r.st == 1 && r.active && r.part == p && lwPlan r.b.toNat == k && r.xq == [inst]

/-- The fault of an aborted NRED: WATCHDOG names the launch, the others the destination. -/
def abortTrap (s : State) (c : Nat) (r : Rec) (cause : Cause) : TrapInfo :=
  if cause = .watchdog then launchTrap .watchdog (slot s c r.slot).hdr.lslot else trapAt cause (ea56 r.d)

/-- Cubes of the plan's tree that this cube's nodes name. -/
def planCubes (s : State) (p k : Nat) : List Nat :=
  (((nodesOf s p k).flatMap fun j => (nodeUp s p k j :: nodeEdges s p k j).filterMap fun e => if e.ty = 2 then some e.cube else none).eraseDups).filter (· ≠ cubeId s)

def causeOf (n : Nat) : Cause := if n = 0x10 then .watchdog else if n = 0x14 then .bounds else if n = 8 then .sealed else .neterr

/-- Instance `inst` is aborted at every node and leaf on this cube. A contribution that has left its core and is not yet accepted
is dropped by the node that it reaches, which is past the instance. -/
def abortHere (s : State) (p k inst : Nat) (cause : Nat) : State :=
  let next := (inst + 1) % 65536
  let mine (q : Packet) : Bool := q.kind == 7 && q.spart == p && q.plan == k && q.inst == inst
  let s := { s with net := { s.net with contribs := s.net.contribs.filter fun c => !(c.part == p && c.plan == k && c.inst == inst),
                                        portQ := s.net.portQ.filter (fun x => !mine x.pkt), sendQ := s.net.sendQ.filter (fun x => !mine x.pkt),
                                        retry := s.net.retry.map fun x => if mine x.pkt then { x with who := none, cmd := none } else x } }
  let s := (nodesOf s p k).foldl (fun s j => if instBefore (nodeCur s p k j) next then setCur s p k j next else s) s
  (planCores s p k).foldl (fun s c =>
    let s := (openNreds s c p k inst).foldl (fun s r => courierFault s c r (abortTrap s c r (causeOf cause))) s
    if instBefore (mget 0 s.net.leaf (leafKey c p k)) next then
      { s with net := { s.net with leaf := mput 0 s.net.leaf (leafKey c p k) next } } else s) s

/-- An abort message to another cube of the tree. -/
def sendAbort (p k inst cause : Nat) (s : State) (cube : Nat) : State :=
  transmitNew s { pkt := { scube := cubeId s, dcube := cube, cls := 3, kind := 12, ecx := 0, spart := p, payload := .abort p k inst cause } }

/-- The current instance of a reduce plan is aborted on this cube and on every cube of its tree. -/
def abortPlan (s : State) (p k cause : Nat) : State :=
  if planEn s p k && planField s p k 1 1 == 0 then
    let inst := planField s p k 79 64
    (planCubes s p k).foldl (sendAbort p k inst cause) (abortHere s p k inst cause)
  else s

/-- An abort message is applied and sent on to the other cubes of the tree. -/
def abortTold (s : State) (p pl inst cause src : Nat) : State :=
  let fresh := (nodesOf s p pl).any fun j => instBefore (nodeCur s p pl j) ((inst + 1) % 65536)
  let cubes := if fresh then (planCubes s p pl).filter (· ≠ src) else []
  cubes.foldl (sendAbort p pl inst cause) (abortHere s p pl inst cause)

/-! ## Writes to a local core (R412, R413, R416) -/

/-- Why a plan's write of `n` bytes to alias address `rd` of core `c` is refused: its cause code. -/
def planWriteBad (s : State) (c rd n : Nat) : Option Nat :=
  let off := rd - aliasBase c
  if s.ws ≠ .full then some 0x11
  else if (core s c).isSealed then some 8
  else if rd < aliasBase c ∨ off + n > sramSize c ∨ n = 0 ∨ off < (core s c).lmrgb then some 0x14
  else none

/-- The write arrives as engine writes do, or is discarded and logged; packet `ack` is answered once it has been applied. -/
def planWrite (s : State) (p c rd : Nat) (bs : List (Byte × Bool)) (bar : Option Nat) (ack : Option Packet := none) : State :=
  match planWriteBad s c rd bs.length with
  | some q => trapLog s p 1 c q (BitVec.ofNat 64 rd)
  | none => { s with engWrites := s.engWrites ++ [{ pa := sramPa c (rd - aliasBase c), bytes := bs, src := (c, 3, 0), bar := bar, ack := ack }] }

/-! ## Reduce (R412) -/

/-- Elements of a payload. -/
def elementsOf : Nat → List (Byte × Bool) → List (Nat × Bool)
  | 0, _ => []
  | n + 1, bs => (leNat ((bs.take 4).map (·.1)), (bs.take 4).any (·.2)) :: elementsOf n (bs.drop 4)

/-- The bytes of elements: every granule of a poisoned element is poisoned. -/
def elementBytes (l : List (Nat × Bool)) : List (Byte × Bool) := l.flatMap fun e => (leBytes 4 e.1).map fun b => (b, e.2)

/-- One more contribution is added to the running sum, element by element (R43); its flags. -/
def addElements : List (Nat × Bool) → List (Nat × Bool) → List (Nat × Bool) × Nat
  | a :: as, b :: bs =>
    let r := fadd fp32 a.1 b.1 .rne
    let t := addElements as bs
    (((if a.2 || b.2 then 0x7FC00000 else r.bits), a.2 || b.2) :: t.1, if a.2 || b.2 then t.2 else r.flags ||| t.2)
  | _, _ => ([], 0)

/-- The sum of contributions in ascending position. -/
def combine : List (Nat × Bool) → List Contrib → List (Nat × Bool) × Nat
  | v, [] => (v, 0)
  | v, c :: cs =>
    let r := addElements v c.vals
    let t := combine r.1 cs
    (t.1, r.2 ||| t.2)

/-- The contributions of a node for its current instance, by position. -/
def contribsOf (s : State) (p k j : Nat) : List Contrib :=
  (List.range (nodeNe s p k j)).filterMap fun i =>
    s.net.contribs.find? fun c => c.part == p && c.plan == k && c.node == j && c.pos == i && c.inst == nodeCur s p k j
      && c.vals.length * 4 == planLen s p k

/-- A node's result goes to its root core or, in packets of up to 2,048 bytes of one message, to its parent node. -/
def sendResult (s : State) (p k j ecx : Nat) (c0 : Contrib) (v : List (Nat × Bool)) : State :=
  let bs := elementBytes v
  let up := nodeUp s p k j
  let bar := if c0.ben then some c0.bix else none
  if up.ty = 1 then planWrite s p up.core c0.rd bs bar
  else if up.ty = 2 then
    let m := newMsg s
    (List.range ((bs.length + 2047) / 2048)).foldl (fun s i =>
      transmit s { pkt := { scube := cubeId s, dcube := up.cube, cls := 0, kind := 7, ecx := ecx, spart := p, msgid := m.2, off := 2048 * i,
                            total := bs.length, addr := c0.rd, inst := c0.inst, plan := k, bix := c0.bix, ben := c0.ben, node := up.node,
                            child := j, payload := .data ((bs.drop (2048 * i)).take 2048) } }) m.1
  else s

/-- A node that holds every contribution of its current instance combines them. -/
def nodeCombine (s : State) (p k j ecx : Nat) : State :=
  let cs := contribsOf s p k j
  match cs with
  | [] => s
  | c0 :: rest =>
    if cs.length ≠ nodeNe s p k j then s
    else
      let r := combine (c0.vals.map fun e => if e.2 then (0x7FC00000, true) else e) rest
      let s := putPlanField s p k 85 80 (planField s p k 85 80 ||| r.2 % 64)
      let s := { s with net := { s.net with contribs := s.net.contribs.filter fun c => !(c.part == p && c.plan == k && c.node == j && c.inst == c0.inst) } }
      setCur (sendResult s p k j ecx c0 r.1) p k j (c0.inst + 1)

/-- The node and position that a contribution packet of this plan goes to: the core's edge, or the child node's. -/
def contribPlace (s : State) (q : Packet) : Option (Nat × Nat) :=
  (nodesOf s q.spart q.plan).findSome? fun j =>
    ((nodeEdges s q.spart q.plan j).zipIdx.find? fun e =>
      if q.score = 0x1FFF then e.1.ty == 2 && e.1.cube == q.scube && e.1.node == q.child && j == q.node
      else e.1.ty == 1 && e.1.core == q.score && q.scube == cubeId s).map fun e => (j, e.2)

/-- The contribution packet at place `k` of the inbox is accepted, combined, or goes on waiting at its
sender while its instance is early. -/
def reduceArrival (s : State) (k : Nat) : State :=
  match s.net.inbox[k]? with
  | some q => (match q.kind == 7, q.payload with
    | true, .data bs =>
      let gone := { s with net := { s.net with inbox := s.net.inbox.eraseIdx k } }
      if planEn s q.spart q.plan = false then respond gone q 4 0x14
      else match contribPlace s q with
        | none => respond gone q 4 0x14
        | some (j, i) =>
          let cur := nodeCur s q.spart q.plan j
          if instBefore cur q.inst then s
          else if q.inst ≠ cur then respond gone q 1 0
          else
            let mine (c : Contrib) : Bool := c.part == q.spart && c.plan == q.plan && c.node == j && c.pos == i && c.inst == cur
            let old := ((gone.net.contribs.find? mine).map (·.vals)).getD []
            let c : Contrib := { part := q.spart, plan := q.plan, node := j, pos := i, inst := cur, rd := q.addr, bix := q.bix, ben := q.ben,
                                 vals := old.take (q.off / 4) ++ elementsOf (bs.length / 4) bs ++ old.drop (q.off / 4 + bs.length / 4) }
            let s := { gone with net := { gone.net with contribs := gone.net.contribs.filter (fun c => !mine c) ++ [c] } }
            nodeCombine (respond s q 1 0) q.spart q.plan j q.ecx
    | _, _ => s)
  | none => s

/-! ## Multicast (R413) -/

/-- The messages of the copies of packet `q`, one for each of `n` edges: its first packet takes new ones, its last drops them. -/
def copyMsgs (s : State) (q : Packet) (n : Nat) : State × List Nat :=
  let a := if q.off = 0 then (List.range n).foldl (fun (a : State × List Nat) _ => let m := newMsg a.1; (m.1, a.2 ++ [m.2])) (s, [])
    else (s, mget [] s.net.copies (msgKey q))
  let m := a.1.net.copies
  let m := if q.total ≤ q.off + q.plen then removeAt m (msgKey q) else insertAt m (msgKey q) a.2
  ({ a.1 with net := { a.1.net with copies := m } }, a.2)

/-- The node of the multicast packet at place `k` of the inbox delivers the bytes to its cores and sends them on; CUR counts the
messages taken, as the worked program of 20_programs_a.md shows. -/
def multicastReceive (s : State) (k : Nat) : State :=
  match s.net.inbox[k]? with
  | some q => (match q.kind == 8, q.payload with
    | true, .data bs =>
      let p := q.spart
      let s := { s with net := { s.net with inbox := s.net.inbox.eraseIdx k } }
      let node := if q.score = 0x1FFF then (if q.node < planNodes s p q.plan then some q.node else none)
        else (nodesOf s p q.plan).find? fun j => (nodeUp s p q.plan j).ty == 1 && (nodeUp s p q.plan j).core == q.score
      match node, planEn s p q.plan with
      | some j, true =>
        let es := (nodeEdges s p q.plan j).zipIdx
        let ms := copyMsgs s q es.length
        let r := es.foldl (fun (a : State × Mcast) ei =>
          let s := a.1
          let m := a.2
          let e := ei.1
          if e.ty = 1 then
            match planWriteBad s e.core q.addr q.total with
            | some cause =>
              let keep := m.cause ≠ 0 && Config.mcastPick s.free
              ({ trapLog s p 1 e.core cause (BitVec.ofNat 64 q.addr) with free := s.free + 1 }, { m with cause := if keep then m.cause else cause })
            | none => (planWrite s p e.core (q.addr + q.off) bs (if q.ben then some q.bix else none) (some q), m)
          else if e.ty = 2 then
            let n := ms.2.getD ei.2 0
            (transmit s { pkt := { q with scube := cubeId s, dcube := e.cube, score := 0x1FFF, msgid := n, node := e.node, child := j, seq := 0, tryNo := 0 } },
              { m with waiting := m.waiting ++ [(n, q.off)] })
          else a) (ms.1, { pkt := q, waiting := [], cause := 0 })
        let s := if q.total ≤ q.off + q.plen then setCur r.1 p q.plan j (nodeCur r.1 p q.plan j + 1) else r.1
        if r.2.waiting.isEmpty && !ackWaits s q then mcastEnd s r.2 else { s with net := { s.net with mcasts := s.net.mcasts ++ [r.2] } }
      | _, _ => refuse s q 4 0x14
    | _, _ => s)
  | none => s

/-- A copy sent on, by its message and offset, is answered; `cause` is 0 for an acknowledgement. -/
def mcastAnswer (s : State) (n : Nat × Nat) (cause : Nat) : State :=
  match s.net.mcasts.find? (fun m => m.waiting.contains n) with
  | none => s
  | some m =>
    let keep := m.cause ≠ 0 && (cause = 0 || Config.mcastPick s.free)
    let m' := { m with waiting := m.waiting.erase n, cause := if keep then m.cause else cause }
    let rest := s.net.mcasts.erase m
    if m'.waiting.isEmpty && !ackWaits s m.pkt then mcastEnd { s with free := s.free + 1, net := { s.net with mcasts := rest } } m'
    else { s with free := s.free + 1, net := { s.net with mcasts := rest ++ [m'] } }

/-! ## PLNSEL and PLNDAT (R411) -/

/-- Edges of the plan on this cube. -/
def planEdges (s : State) (p k : Nat) : List Edge := (nodesOf s p k).flatMap (nodeEdges s p k)

/-- Bytes of the combining store that an enabled reduce plan reserves. -/
def planReserve (s : State) (p k : Nat) : Nat :=
  if planField s p k 1 1 = 0 then ((nodesOf s p k).map fun j => planLen s p k * nodeNe s p k j).foldl (· + ·) 0 else 0
def storeUsed (s : State) : Nat :=
  (s.net.plans.map fun e => if e.2.getLsbD 0 then planReserve s (e.1 / 64) (e.1 % 64) else 0).foldl (· + ·) 0

/-- The plan may be enabled. A root core among its own contributors appears twice among the plan's edges (R411). -/
def planFits (s : State) (p k : Nat) : Bool :=
  let len := planLen s p k
  let cores := ((nodesOf s p k).map (nodeUp s p k) ++ planEdges s p k).filterMap fun e => if e.ty = 1 then some e.core else none
  decide (planNodes s p k ≤ 64) && decide (planField s p k 43 32 + planNodes s p k ≤ 4096)
    && (nodesOf s p k).all (fun j => decide (1 ≤ nodeNe s p k j) && decide (nodeBase s p k j + nodeNe s p k j ≤ 32768) && decide (nodeUpAt s p k j < 32768))
    && ((nodesOf s p k).map (nodeUp s p k) ++ planEdges s p k).all (fun e => e.ty != 1 || ((core s e.core).asg && (core s e.core).part == p && kindOf e.core == .compute))
    && decide (cores.eraseDups.length = cores.length)
    && decide (0 < len) && decide (len % 16 = 0) && (planField s p k 1 1 == 1 || decide (len ≤ 16384))
    && decide (storeUsed s + planReserve s p k ≤ 4 * 2 ^ 20)

/-- A plan is enabled: CUR and every leaf's counter are 0. -/
def enablePlan (s : State) (p k : Nat) : State :=
  let s := putPlan s p k (BitVec.ofNat 128 (setBits (setBits (planOf s p k).toNat 51 51 0) 0 0 1))
  let s := (nodesOf s p k).foldl (fun s j => setCur s p k j 0) (putPlanField s p k 79 64 0)
  (planCores s p k).foldl (fun s c => { s with net := { s.net with leaf := mput 0 s.net.leaf (leafKey c p k) 0 } }) s

/-- A node or edge index belongs to an enabled plan. -/
def nodeInUse (s : State) (i : Nat) : Bool :=
  s.net.plans.any fun e => e.2.getLsbD 0 && decide (bitsOf e.2.toNat 43 32 ≤ i) && decide (i < bitsOf e.2.toNat 43 32 + bitsOf e.2.toNat 50 44)
def edgeInUse (s : State) (i : Nat) : Bool :=
  s.net.plans.any fun e => e.2.getLsbD 0 && (nodesOf s (e.1 / 64) (e.1 % 64)).any fun j =>
    nodeUpAt s (e.1 / 64) (e.1 % 64) j == i
      || (decide (nodeBase s (e.1 / 64) (e.1 % 64) j ≤ i) && decide (i < nodeBase s (e.1 / 64) (e.1 % 64) j + nodeNe s (e.1 / 64) (e.1 % 64) j))

/-- Bits of a plan entry's low double that a write sets: EN, KIND, LEN, FIRST, NNODE. -/
def planMask : Nat := 3 + (2 ^ 24 - 1) * 2 ^ 8 + (2 ^ 19 - 1) * 2 ^ 32

/-- A write of PLNDAT (R411, R414). -/
def plnWrite (s : State) (a : Agent) (v : Word) : State :=
  let sel := (getReg s islandBlk 0x0800).toNat
  let p := sel % 32
  let k := sel / 32 % 64
  let idx := sel / 2 ^ 32 % 65536
  if !ownerOk s a || 24 ≤ p then s
  else match sel / 2 ^ 12 % 4 with
    | 0 =>
      let w := v.toNat &&& planMask
      let was := planEn s p k
      let low (x : Nat) : BitVec 128 := BitVec.ofNat 128 ((planOf s p k).toNat / 2 ^ 64 * 2 ^ 64 + (planOf s p k).toNat / 2 ^ 51 % 2 * 2 ^ 51 + x)
      if w % 2 = 1 then
        if was then putPlan s p k (low w)
        else
          let s := putPlan s p k (low (w - 1))
          if planFits s p k then enablePlan s p k else putPlanField s p k 51 51 1
      else if was then putPlan (abortPlan s p k 0x14) p k (BitVec.ofNat 128 (setBits (planOf (abortPlan s p k 0x14) p k).toNat 50 0 w))
      else putPlan s p k (low w)
    | 1 => if 4096 ≤ idx ∨ nodeInUse s idx = true then s
      else { s with net := { s.net with nodes := mput 0 s.net.nodes idx (BitVec.ofNat 64 (v.toNat % 2 ^ 47 + bitsOf v.toNat 53 48 * 2 ^ 48)) } }
    | 2 => if 32768 ≤ idx ∨ edgeInUse s idx = true then s
      else { s with net := { s.net with edges := mput 0 s.net.edges idx (BitVec.ofNat 64 (v.toNat % 2 ^ 27)) } }
    | _ => s

/-- PLAN_ENABLE: a PLNDAT write that sets EN. -/
def execPlanEnable (a : Agent) (v : BitVec 64) (s : State) : Result := .next (plnWrite s a (v ||| 1))
/-- PLAN_DISABLE: a PLNDAT write that clears EN. -/
def execPlanDisable (a : Agent) (v : BitVec 64) (s : State) : Result := .next (plnWrite s a (v &&& ~~~1))

end Sys2Proof.Machine
end

