-- ==== Sys2Proof/Machine/Que.lean ====
section
/-! DEFINITION. The QUE instructions (R173 to R176) and the service of their requests at the hall. -/

namespace Sys2Proof.Machine

/-- The partition a traveller runs for. -/
abbrev Ctx.part (x : Ctx) (s : State) : Nat := (slot s x.c x.sl).hdr.part

/-- A QUE instruction: synchronising operands, queue fare (R173). -/
def que (m : Nat) (w : BitVec 3) (d a b : BitVec 5) (reads : List Nat) (s : State) (f : Ctx → State → Act) : Result :=
  issue { word := word3 m w d a b, legal := destOk d, reads := reads, sync := reads, fare := 9 } s f

/-- ILLEGAL for a bad operand value (R59 step 5): TADDR is the word. -/
def illegalWord (m : Nat) (w : BitVec 3) (d a b : BitVec 5) : TrapInfo :=
  { cause := .illegal, addr := BitVec.ofNat 64 (word3 m w d a b) }

/-- A queue that an instruction may use, else BOUNDS (R173). -/
def queueBounds (s : State) (p q : Nat) : Option TrapInfo :=
  if qEnabled s p q then none else some (trapAt .bounds q)

/-- Place a copy in the enqueue buffer (R171, R174, R175): counted, parked while the buffer is full. -/
def placeCopy (x : Ctx) (s : State) (mk : State → (State → Copy → Act) → Act) : Act :=
  if 8 ≤ ((core s x.c).enqBuf).length then .park 6 (.engineRoom 3) s
  else if outsFull s x.c x.sl then .hold (drainOne s x.c x.x)
  else mk s fun s q =>
    .next (countOuts (updCore s x.c fun k =>
      { k with enqBuf := k.enqBuf ++ [{ q with ahead := ((stream s x.c x.x).sb).length }] }) x.c x.sl)

/-- ENQ (R174). -/
def execEnq (w : BitVec 3) (a b : BitVec 5) (s : State) : Result :=
  que 0x0E800000 w 0 a b [rn a, rn b] s fun x s =>
    let va := ea56 (x.rd s (rn a))
    let v := (x.rd s (rn b)).toNat
    let q := v % 65536
    let p := x.part s
    if 65536 ≤ v then .trap (illegalWord 0x0E800000 w 0 a b)
    else if va % 64 ≠ 0 then .trap (trapAt .align va)
    else if q < qsize s p ∧ qKind s p q = 2 then .trap (trapAt .perm q)
    else match queueBounds s p q, localPlace x s va 64 with
      | some t, _ => .trap t
      | _, none => .trap (trapAt .bounds va)
      | none, some pa =>
        placeCopy x s fun s k => readLocal x s pa 64 va fun s bs =>
          k s { slot := x.sl, part := p, queue := q, bytes := bs, record := none, ecx := ecxOf s x.c x.sl, level := (slot s x.c x.sl).lvl }

/-- DEQ (R174). The entry is written to local SRAM when the hall replies. -/
def execDeq (w : BitVec 3) (d a b : BitVec 5) (s : State) : Result :=
  que 0x0E800001 w d a b [rn a, rn b] s fun x s =>
    match x.got with
    | some (v, _) => .next (x.wr s (rn d) v)
    | none =>
      let va := ea56 (x.rd s (rn a))
      let v := (x.rd s (rn b)).toNat
      let q := v % 65536
      let p := x.part s
      if 65536 ≤ v then .trap (illegalWord 0x0E800001 w d a b)
      else if va % 64 ≠ 0 then .trap (trapAt .align va)
      else if q < qsize s p ∧ qKind s p q = 1 then .trap (trapAt .perm q)
      else match queueBounds s p q, localPlace x s va 64 with
        | some t, _ => .trap t
        | _, none => .trap (trapAt .bounds va)
        | none, some pa => if touchesBuffer s x.c x.x pa 64 then .hold (drainOne s x.c x.x) else .park 1 (.deq p q pa) s

/-- QSTAT (R174). -/
def execQstat (w : BitVec 3) (d b : BitVec 5) (s : State) : Result :=
  que 0x0E800002 w d 0 b [rn b] s fun x s =>
    match x.got with
    | some (v, _) => .next (x.wr s (rn d) v)
    | none =>
      let v := (x.rd s (rn b)).toNat
      let p := x.part s
      if 65536 ≤ v then .trap (illegalWord 0x0E800002 w d 0 b)
      else match queueBounds s p v with
        | some t => .trap t
        | none => .park 1 (.queueStat p v) s

/-- Whether a launch RECORD names local SRAM or a window of the cluster that LAUNCH reads itself (R175). -/
def recordPlace (x : Ctx) (s : State) (va : Nat) : Option Nat :=
  if va ≤ 0x00FFFEFFFFFFFFFF then none
  else match reach s x.c x.x (x.part s) va true false with
    | .own off => some (sramPa x.c off)
    | .window w off => some (sramPa w off)
    | _ => none

/-- LAUNCH (R175). -/
def execLaunch (w : BitVec 3) (a : BitVec 5) (s : State) : Result :=
  que 0x0E800003 w 0 a 0 [rn a] s fun x s =>
    let va := ea56 (x.rd s (rn a))
    if va % 64 ≠ 0 then .trap (trapAt .align va)
    else match localPlace x s va 64 with
      | none => .trap (trapAt .bounds va)
      | some pa => placeCopy x s fun s k => readLocal x s pa 64 va fun s bs =>
        let q : Copy := { slot := x.sl, part := x.part s, queue := 0x10000, bytes := bs, record := none,
                          ecx := ecxOf s x.c x.sl, level := (slot s x.c x.sl).lvl }
        let ra := leNat ((bs.drop 8).take 8) % 2 ^ 56
        match recordPlace x s ra with
        | none => k s q
        | some rpa =>
          if ra % 128 ≠ 0 then .trap (trapAt .align ra)
          else if sealedFor s x.c rpa then .trap (trapAt .poison (ra / 16 * 16))
          else readLocal x s rpa 128 ra fun s r => k s { q with record := some r }

/-- CDONE (R176). -/
def execCdone (w : BitVec 3) (d a b : BitVec 5) (s : State) : Result :=
  que 0x0E800004 w d a b [rn a, rn b] s fun x s =>
    match x.got with
    | some (v, _) => .next (x.wr s (rn d) v)
    | none =>
      let e := (x.rd s (rn a)).toNat % 2 ^ 32
      let v := x.rd s (rn b)
      let p := x.part s
      if v.toNat / 2 ^ 34 ≠ 0 then .trap (illegalWord 0x0E800004 w d a b)
      else if isEntry s p e ∧ eLevel s p e = 1 then .trap (trapAt .perm e)
      else if isEntry s p e = false then .trap (trapAt .bounds e)
      else .park 1 (.cdone p e v) s

/-- CCHK (R173). -/
def execCchk (w : BitVec 3) (d a : BitVec 5) (s : State) : Result :=
  que 0x0E800005 w d a 0 [rn a] s fun x s =>
    match x.got with
    | some (v, _) => .next (x.wr s (rn d) v)
    | none =>
      let e := (x.rd s (rn a)).toNat % 2 ^ 32
      if isEntry s (x.part s) e then .park 1 (.cchk (x.part s) e) s else .trap (trapAt .bounds e)

/-- CANCEL (R145, R146): the propagation completes before it retires. -/
def execCancel (w : BitVec 3) (a : BitVec 5) (s : State) : Result :=
  que 0x0E800006 w 0 a 0 [rn a] s fun x s =>
    let e := (x.rd s (rn a)).toNat % 2 ^ 32
    if isEntry s (x.part s) e then .next (cancelEntry s (x.part s) e) else .trap (trapAt .bounds e)

/-! ## Service at the hall -/

/-- Copies waiting for room in queue `q` of partition `p`, on every core (R174). -/
def copiesWaiting (s : State) (p q : Nat) : Nat :=
  (s.cores.map fun (_, k) => (k.enqBuf.filter (fun e => e.part = p ∧ e.queue = q ∧ e.stamp ≠ 0)).length).foldl (· + ·) 0

/-- QSTAT's answer (R174). -/
def queueStat (s : State) (p q : Nat) : Word :=
  BitVec.ofNat 64 (qCount s p q + qLog s p q * 2 ^ 32 + qKind s p q * 2 ^ 37 + (if qEnabled s p q then 2 ^ 39 else 0)
    + min 65535 (copiesWaiting s p q) * 2 ^ 40)

/-- The home serves a DEQ (R172, R174): the head entry goes to `pa` of the core, or the answer is 0. An entry in DRAM is waited for
while that is not served (R23); one that cannot be read makes the DEQ trap BOUNDS (assumption 20). -/
def serveDeq (s : State) (c sl p q pa : Nat) : State :=
  if qCount s p q = 0 then setReply s c sl (.value 0 false)
  else match qPlace s p q (qHead s p q) false with
    | none => setReply s c sl (.trap (trapAt .bounds q))
    | some pl =>
      let s := if placeWaits s pl then s else entryFound s pl
      let bs := qRead s pl
      if placeWaits s pl then s
      else setReply (writeBytes (qSet s p q 159 128 ((qHead s p q + 1) % 2 ^ 32)) pa bs) c sl (.value 1 false)

/-- The table serves a CDONE (R176). -/
def serveCdone (s : State) (c sl p e : Nat) (v : Word) : State :=
  let n := v.toNat % 2 ^ 32
  let add := v.getLsbD 33
  if eState s p e ≠ 1 ∨ (add = true ∧ eOpen s p e = false) then setReply s c sl (.value (BitVec.allOnes 64) false)
  else
    let k := eCount s p e
    let s := if add then entrySet s p e 31 0 ((k + n) % 2 ^ 32)
      else if k < n then trapLog (entrySet s p e 31 0 0) p 2 c 0 (BitVec.ofNat 64 e)
      else entrySet s p e 31 0 (k - n)
    let s := if v.getLsbD 32 then entrySet s p e 35 35 0 else s
    let now := eCount s p e
    setReply (settle s p e) c sl (.value (BitVec.ofNat 64 now) false)

end Sys2Proof.Machine
end

