-- ==== Sys2Proof/Machine/Fence.lean ====
section
/-! DEFINITION. The FENCE instructions (R302 to R307). -/

namespace Sys2Proof.Machine

/-- A FENCE instruction: no field names a register it reads. -/
def fenceI (fn : Nat) (w : BitVec 3) (d a b : BitVec 5) (legal : Bool) (s : State) (f : Ctx → State → Act) : Result :=
  issue { word := word3 (0x1E800000 + fn) w d a b, legal := legal } s f

/-- The traveller has an ENQ or LAUNCH copy that is not yet accepted (R306). -/
def copiesOut (s : State) (c sl : Nat) : Bool := (core s c).enqBuf.any (fun q => q.slot == sl)
/-- It has a transfer to host memory under way (R303, R304). -/
def hostOut (s : State) (c sl : Nat) : Bool :=
  (core s c).enqBuf.any (fun q => q.slot == sl && decide (q.queue < 0x10000) && qLoc s q.part q.queue)

/-- FENCE (R303). -/
def execFence (w : BitVec 3) (c : BitVec 5) (s : State) : Result :=
  fenceI 0 w 0 c 0 (scopeOk c) s fun x s =>
    if c.toNat ≤ 2 then match drainStep s x with | some s' => .hold s' | none => .next s
    else if coreOutstanding s x.c x.x x.sl then .park 4 .performed s
    else if c.toNat = 4 ∧ hostOut s x.c x.sl = true then .park 4 .hostDone s
    else .next s

/-- Accesses of path class `a` that FENCEX waits for (R304). On the X-stream, reserved export-queue entries count. -/
def pathOut (s : State) (c : Nat) (x : Bool) (sl a : Nat) : Bool :=
  match a with
  | 0 => coreOutstanding s c x sl || copiesOut s c sl
  | 6 => hostOut s c sl
  | 4 => pathBusy s c sl 4 || (x && (chan s c).xq.any (fun e => e.entry.isNone))
  | _ => pathBusy s c sl a

/-- FENCEX (R304). -/
def execFencex (w : BitVec 3) (a b : BitVec 5) (s : State) : Result :=
  fenceI 1 w 0 a b (classOk a && classOk b) s fun x s =>
    if pathOut s x.c x.x x.sl a.toNat then .park 4 (.pathDone a.toNat) s
    else match faultedRec s x.c x.sl (fun r => r.path == a.toNat && (a.toNat == 3 || a.toNat == 4 || a.toNat == 5)) with
      | some t => .trap t
      | none => .next s

/-- IFENCE: a refetch point once the traveller's stores have left (R135, R305). -/
def execIfence (w : BitVec 3) (s : State) : Result :=
  fenceI 2 w 0 0 0 true s fun x s =>
    match drainStep s x with
    | some s' => .hold s'
    | none => .next (updStream s x.c x.x fun k => { k with fbuf := [] })

/-- QFENCE (R306). -/
def execQfence (w : BitVec 3) (s : State) : Result :=
  fenceI 3 w 0 0 0 true s fun x s => if copiesOut s x.c x.sl then .park 6 .copies s else .next s

/-- DRAIN (R307). -/
def execDrain (w : BitVec 3) (s : State) : Result :=
  fenceI 4 w 0 0 0 true s fun x s =>
    if outsOf s x.c x.sl ≠ 0 then .park 4 .outsZero s
    else match faultedRec s x.c x.sl (fun r => r.path == 3 || r.path == 5 || r.path == 4) with
      | some t => .trap t
      | none => match (slot s x.c x.sl).failed with
        | t :: _ => .trap { cause := .neterr, addr := t }
        | [] => .next s

/-- ACKS (R307). -/
def execAcks (w : BitVec 3) (d : BitVec 5) (s : State) : Result :=
  fenceI 5 w d 0 0 (destOk d) s fun x s => .next (x.wr s (rn d) (BitVec.ofNat 64 (outsOf s x.c x.sl % 65536)))

end Sys2Proof.Machine
end

