-- ==== Sys2Proof/Machine/Branch.lean ====
section
/-! DEFINITION. Branches and jumps (R107, R121 to R124). -/

namespace Sys2Proof.Machine

/-- The pc of a taken target: the local alias address of a byte of the code region, also when it is named through the
core's own window (R107, R124). -/
def codeTarget (s : State) (c : Nat) (t : Word) : Option Word :=
  let a := t.toNat
  let off := if aliasBase c ≤ a ∧ a < aliasBase c + sramSize c then some (a - aliasBase c)
    else if windowBase c ≤ a ∧ a < windowBase c + sramSize c then some (a - windowBase c) else none
  match off with
  | some o => if regionOf s c o = .code then some (BitVec.ofNat 64 (aliasBase c + o)) else none
  | none => none

/-- A pc that names the core's own window is the local alias address of the same byte (R107). -/
def homePc (c : Nat) (pc : Word) : Word :=
  if windowBase c ≤ pc.toNat ∧ pc.toNat < windowBase c + sramSize c then BitVec.ofNat 64 (aliasBase c + (pc.toNat - windowBase c)) else pc

/-- Take a branch or jump to `t`: BOUNDS outside the code region (R124). -/
def jumpTo (x : Ctx) (s : State) (t : Word) (link : State → State) : Act :=
  match codeTarget s x.c t with
  | some pc => .jump (link s) pc
  | none => .trap { cause := .bounds, addr := t }

/-- A conditional branch (R121, R124). -/
def branch (m : Nat) (w : BitVec 3) (a b : BitVec 5) (o : BitVec 13) (s : State) (f : Word → Word → Bool) : Result :=
  issue { word := wordI m w a b o, reads := [rn a, rn b], sync := [rn a, rn b] } s fun x s =>
    if f (x.rd s (rn a)) (x.rd s (rn b)) then jumpTo x s (target x.pc o) id else .next s

def execBeq (w : BitVec 3) (a b : BitVec 5) (o : BitVec 13) (s : State) : Result := branch 0x10000000 w a b o s fun a b => a == b
def execBne (w : BitVec 3) (a b : BitVec 5) (o : BitVec 13) (s : State) : Result := branch 0x10800000 w a b o s fun a b => a != b
def execBlt (w : BitVec 3) (a b : BitVec 5) (o : BitVec 13) (s : State) : Result := branch 0x11000000 w a b o s fun a b => a.slt b
def execBge (w : BitVec 3) (a b : BitVec 5) (o : BitVec 13) (s : State) : Result := branch 0x11800000 w a b o s fun a b => !a.slt b
def execBltu (w : BitVec 3) (a b : BitVec 5) (o : BitVec 13) (s : State) : Result := branch 0x12000000 w a b o s fun a b => a.ult b
def execBgeu (w : BitVec 3) (a b : BitVec 5) (o : BitVec 13) (s : State) : Result := branch 0x12800000 w a b o s fun a b => !a.ult b

/-- JAL (R122): the link is g23. -/
def execJal (w : BitVec 3) (o : BitVec 23) (s : State) : Result :=
  issue { word := 0x13000000 + w.toNat * 2 ^ 29 + o.toNat } s fun x s =>
    jumpTo x s (target x.pc o) fun s => x.wr s 23 (x.pc + 4) 1

/-- JALR (R51, R122): ra is read before rd is written. -/
def execJalr (w : BitVec 3) (d a : BitVec 5) (i : BitVec 13) (s : State) : Result :=
  issue { word := wordI 0x13800000 w d a i, legal := destOk d, reads := [rn a], sync := [rn a] } s fun x s =>
    let t := BitVec.ofNat 64 ((x.rd s (rn a) + simm i).toNat % 2 ^ 56)
    if t.toNat % 4 ≠ 0 then .trap { cause := .align, addr := t }
    else jumpTo x s t fun s => x.wr s (rn d) (x.pc + 4) 1

/-- PBR (R123): `cond` 0 any, 1 none, 2 all, 3 not all. -/
def pbr (cond : Nat) (w : BitVec 3) (o : BitVec 20) (s : State) : Result :=
  issue { word := 0x14000000 + w.toNat * 2 ^ 29 + cond * 2 ^ 20 + o.toNat } s fun x s =>
    let p := predOf s x.c x.sl
    let taken := match cond with
      | 0 => p != 0
      | 1 => p == 0
      | 2 => p == BitVec.allOnes 256
      | _ => p != BitVec.allOnes 256
    if taken then jumpTo x s (target x.pc o) id else .next s

def execPbrAny (w : BitVec 3) (o : BitVec 20) (s : State) : Result := pbr 0 w o s
def execPbrNone (w : BitVec 3) (o : BitVec 20) (s : State) : Result := pbr 1 w o s
def execPbrAll (w : BitVec 3) (o : BitVec 20) (s : State) : Result := pbr 2 w o s
def execPbrNall (w : BitVec 3) (o : BitVec 20) (s : State) : Result := pbr 3 w o s

end Sys2Proof.Machine
end

