-- ==== Sys2Proof/Machine/Fetch.lean ====
section
/-! DEFINITION. Instruction fetch (R134, R135). -/

namespace Sys2Proof.Machine

/-- The trap of a fetch at `pc`: outside the code region, or a poisoned word (R134). -/
def fetchTrap (s : State) (c : Nat) (pc : Word) : Option TrapInfo :=
  let off := pc.toNat - aliasBase c
  if pc.toNat < aliasBase c || decide (sramSize c ≤ off) || regionOf s c off != .code then some { cause := .bounds, addr := pc }
  else if poisonedAt s (sramPa c off) 4 then some { cause := .poison, addr := pc }
  else none

/-- The word that local SRAM holds at `pc`. -/
def wordAt (s : State) (c : Nat) (pc : Word) : Nat := rdN s.mem (sramPa c (pc.toNat - aliasBase c)) 4

/-- The word at pc + 4 k of the stream: from its fetch buffer, else from SRAM. -/
def fetchAt (s : State) (c : Nat) (x : Bool) (k : Nat) : Nat :=
  let q := stream s c x
  match q.fbuf[k]? with
  | some v => v.toNat
  | none => wordAt s c (q.pc + BitVec.ofNat 64 (4 * k))

/-- The trap of the fetch of the word at pc + 4 k, when it is not in the buffer already. -/
def fetchTrapAt (s : State) (c : Nat) (x : Bool) (k : Nat) : Option TrapInfo :=
  let q := stream s c x
  let pc := q.pc + BitVec.ofNat 64 (4 * k)
  match q.fbuf[k]? with
  | some _ => (fetchTrap s c pc).filter (fun t => t.cause == .bounds)
  | none => fetchTrap s c pc

/-- The buffer reads ahead by some number of words, 0 to 7 beyond the next one (R135). -/
def prefetch (s : State) (c : Nat) (x : Bool) : State :=
  let q := stream s c x
  let have' := q.fbuf.length
  let want := 1 + (Config.fetchAhead s.free).val
  let new := (List.range (want - have')).map fun k =>
    let pc := q.pc + BitVec.ofNat 64 (4 * (have' + k))
    if fetchTrap s c pc = none then some (BitVec.ofNat 32 (wordAt s c pc)) else none
  { updStream s c x fun q => { q with fbuf := q.fbuf ++ (new.takeWhile Option.isSome).filterMap id } with free := s.free + 1 }

end Sys2Proof.Machine
end

