-- ==== Sys2Proof/Machine/Sfu.lean ====
section
/-! DEFINITION. The special functions of VSFU (R207), correctly rounded: fixed-point series with far more digits than any
rounding of a format of up to 32 bits can need, followed by one digit that stands for the remainder of an irrational value. -/

namespace Sys2Proof.Machine

/-- Fraction digits of the fixed-point numbers. -/
def sfuP : Nat := 768
def sfuOne : Nat := 2 ^ sfuP

/-- The sum of t, t q/(d) ... : terms t_(k+1) = t_k x y / (2^P x div k). -/
def series (y : Nat) (div : Nat → Nat) : Nat → Nat → Nat → Nat
  | 0, _, _ => 0
  | n + 1, k, t => if t = 0 then 0 else t + series y div n (k + 1) (t * y / (sfuOne * div k))

/-- The same with alternating signs: the positive and the negative terms. -/
def altSeries (y : Nat) (div : Nat → Nat) : Nat → Nat → Nat → Int
  | 0, _, _ => 0
  | n + 1, k, t => if t = 0 then 0 else (t : Int) - altSeries y div n (k + 1) (t * y / (sfuOne * div k))

/-- The sum of t_k / (2k + 1), t_(k+1) = t_k y / 2^P. -/
def atanhSum (y : Nat) : Nat → Nat → Nat → Nat
  | 0, _, _ => 0
  | n + 1, k, t => if t = 0 then 0 else t / (2 * k + 1) + atanhSum y n (k + 1) (t * y / sfuOne)

/-- The alternating sum of t_k / (2k + 1), t_(k+1) = t_k / d. -/
def atanInv (d : Nat) : Nat → Nat → Nat → Int
  | 0, _, _ => 0
  | n + 1, k, t => if t = 0 then 0 else (t / (2 * k + 1) : Nat) - atanInv d n (k + 1) (t / d)

def ln2Fix : Nat := 2 * atanhSum (sfuOne / 9) 300 0 (sfuOne / 3)
/-- π with 256 digits more, for the reduction of large arguments. -/
def piWide : Nat :=
  let w := sfuOne * 2 ^ 256
  (16 * atanInv 25 300 0 (w / 5) - 4 * atanInv (239 * 239) 300 0 (w / 239)).toNat

/-- e^y for fixed-point y ≥ 0 below 1. -/
def expFix (y : Nat) : Nat := series y (fun k => k + 1) 400 0 sfuOne

/-- 2^(i / 2^P) of a signed fixed-point number: mantissa with P fraction digits and exponent. -/
def exp2Fix (v : Int) : Nat × Int :=
  let k := v / (sfuOne : Int)
  let f := (v - k * sfuOne).toNat
  (expFix (f * ln2Fix / sfuOne), k)

/-- m x 2^e as a fixed-point number (exact for the formats of R207). -/
def toFix (m : Nat) (e : Int) : Nat := if 0 ≤ e then m * 2 ^ e.toNat * sfuOne else m * sfuOne / 2 ^ (-e).toNat

/-- Round an irrational fixed-point value m / 2^P x 2^e: the digit after m is never zero. -/
def roundIrr (f : Fmt) (rm : Rm) (neg : Bool) (m : Nat) (e : Int) : FRes := fround f rm false neg (2 * m + 1) (e - sfuP - 1)

def sfuExp2 (f : Fmt) (rm : Rm) (v : FVal) : FRes :=
  match v with
  | .nan s => nanRes f s
  | .inf n => if n then zeroRes f false else infRes f false
  | .zero _ => fround f rm false false 1 0
  | .fin n m e =>
    if 11 ≤ e + (Nat.log2 m : Nat) then fround f rm false false 1 (if n then -3000 else 3000)
    else
      let x : Int := signed n (toFix m e)
      if x % (sfuOne : Int) = 0 then fround f rm false false 1 (x / (sfuOne : Int))
      else let (y, k) := exp2Fix x; roundIrr f rm false y k

def sfuLog2 (f : Fmt) (rm : Rm) (v : FVal) : FRes :=
  match v with
  | .nan s => nanRes f s
  | .inf n => if n then nanRes f true else infRes f false
  | .zero _ => { infRes f true with flags := flagDZ }
  | .fin true _ _ => nanRes f true
  | .fin false m e =>
    let t := Nat.log2 m
    let k : Int := e + t
    if m = 2 ^ t then (if k = 0 then zeroRes f false else fround f rm false (decide (k < 0)) k.natAbs 0)
    else
      let x := m * sfuOne / 2 ^ t
      let z := (x - sfuOne) * sfuOne / (x + sfuOne)
      let l := 2 * atanhSum (z * z / sfuOne) 600 0 z * sfuOne / ln2Fix
      let r : Int := k * sfuOne + l
      if r < 0 then roundIrr f rm true (r.natAbs - 1) 0 else roundIrr f rm false r.natAbs 0

/-- Root by digits for the reciprocal square root. -/
def sfuRsqrt (f : Fmt) (rm : Rm) (v : FVal) : FRes :=
  match v with
  | .nan s => nanRes f s
  | .inf n => if n then nanRes f true else zeroRes f false
  | .zero n => { infRes f n with flags := flagDZ }
  | .fin true _ _ => nanRes f true
  | .fin false m e =>
    let (m, e) := if e % 2 = 0 then (m, e) else (2 * m, e - 1)
    let r := isqrt 80 (2 ^ 140 / m)
    fround f rm false false (r * 2 + (if r * r * m = 2 ^ 140 then 0 else 1)) (-(e / 2) - 71)

def sfuRcp (f : Fmt) (rm : Rm) (bits : Nat) : FRes := fdiv f (f.bias * 2 ^ f.mb) bits rm

/-- Sine or cosine of a positive number m x 2^e: the quadrant is removed with π, then the series. -/
def trig (cos : Bool) (m : Nat) (e : Int) : Bool × Nat :=
  let x := if 0 ≤ e then m * 2 ^ e.toNat * 2 ^ (sfuP + 256) else m * 2 ^ (sfuP + 256) / 2 ^ (-e).toNat
  let h := piWide / 2
  let q := x / h
  let r := (x - q * h) / 2 ^ 256
  let y := r * r / sfuOne
  let sinv := (altSeries y (fun k => (2 * k + 2) * (2 * k + 3)) 300 0 r).toNat
  let cosv := (altSeries y (fun k => (2 * k + 1) * (2 * k + 2)) 300 0 sfuOne).toNat
  match cos, q % 4 with
  | false, 0 => (false, sinv) | false, 1 => (false, cosv) | false, 2 => (true, sinv) | false, _ => (true, cosv)
  | true, 0 => (false, cosv) | true, 1 => (true, sinv) | true, 2 => (true, cosv) | true, _ => (false, sinv)

def sfuSin (f : Fmt) (rm : Rm) (v : FVal) : FRes :=
  match v with
  | .nan s => nanRes f s
  | .inf _ => nanRes f true
  | .zero n => zeroRes f n
  | .fin n m e => let (s, y) := trig false m e; roundIrr f rm (n != s) y 0

def sfuCos (f : Fmt) (rm : Rm) (v : FVal) : FRes :=
  match v with
  | .nan s => nanRes f s
  | .inf _ => nanRes f true
  | .zero _ => fround f rm false false 1 0
  | .fin _ m e => let (s, y) := trig true m e; roundIrr f rm s (if y = sfuOne then y - 1 else y) 0

/-- e^(-x) for a fixed-point x ≥ 0, as a fixed-point number. -/
def expNeg (x : Nat) : Nat :=
  let (y, k) := exp2Fix (-((x * sfuOne / ln2Fix : Nat) : Int))
  y / 2 ^ (-k).toNat

def sfuTanh (f : Fmt) (rm : Rm) (v : FVal) : FRes :=
  match v with
  | .nan s => nanRes f s
  | .inf n => fround f rm false n 1 0
  | .zero n => zeroRes f n
  | .fin n m e =>
    if 8 ≤ e + (Nat.log2 m : Nat) then roundIrr f rm n (sfuOne - 1) 0
    else
      let t := expNeg (2 * toFix m e)
      roundIrr f rm n ((sfuOne - t) * sfuOne / (sfuOne + t)) 0

def sfuSigm (f : Fmt) (rm : Rm) (v : FVal) : FRes :=
  match v with
  | .nan s => nanRes f s
  | .inf n => if n then zeroRes f false else fround f rm false false 1 0
  | .zero _ => fround f rm false false 1 (-1)
  | .fin n m e =>
    if 8 ≤ e + (Nat.log2 m : Nat) then (if n then fround f rm false false 1 (-3000) else roundIrr f rm false (sfuOne - 1) 0)
    else
      let t := expNeg (toFix m e)
      roundIrr f rm false ((if n then t else sfuOne) * sfuOne / (sfuOne + t)) 0

/-- VSFU operation `op` on an encoding (R207). -/
def sfu (op : Nat) (f : Fmt) (rm : Rm) (a : Nat) : FRes :=
  match op with
  | 0 => sfuExp2 f rm (f.val a)
  | 1 => sfuLog2 f rm (f.val a)
  | 2 => sfuRsqrt f rm (f.val a)
  | 3 => sfuRcp f rm a
  | 4 => sfuSin f rm (f.val a)
  | 5 => sfuCos f rm (f.val a)
  | 6 => sfuTanh f rm (f.val a)
  | _ => sfuSigm f rm (f.val a)

end Sys2Proof.Machine
end

