-- ==== Sys2Proof/Machine/VecArith.lean ====
section
/-! DEFINITION. What a vector command computes from the bytes of its sources (R187, R191, R199 to R207, R215 to R218): every
result byte with its offset in the destination and its poison, and the flags raised. -/

namespace Sys2Proof.Machine

/-! ## Types and elements -/

/-- Bytes of an element of a type (R187). -/
def vsize (ty : Nat) : Nat := match ty with | 0 => 1 | 1 => 2 | 2 => 4 | 3 => 8 | 4 => 2 | 5 => 2 | 6 => 4 | _ => 8
/-- The format of a float type (R187). -/
def vfmt (ty : Nat) : Fmt := match ty with | 4 => fp16 | 5 => bf16 | 6 => fp32 | _ => fp64

/-- An element and whether it was read from a poisoned granule. -/
abbrev Elem := Nat × Bool

/-- `n` elements of `s` bytes. -/
def elemsOf (s : Nat) : Nat → List (Byte × Bool) → List Elem
  | 0, _ => []
  | n + 1, bs => (leNat ((bs.take s).map (·.1)), (bs.take s).any (·.2)) :: elemsOf s n (bs.drop s)

def elemAt (l : List Elem) (i : Nat) : Elem := l.getD i (0, false)

/-- The bytes a command writes, by offset in its destination, and its flags. -/
structure VOut where
  bytes : List (Nat × Byte × Bool) := []
  flags : Nat := 0
deriving DecidableEq, Repr

/-- Element `i` of `s` bytes as a result; a poisoned one is zero (R191). -/
def outElem (s i v : Nat) (p : Bool) : List (Nat × Byte × Bool) :=
  (List.range s).map fun j => (s * i + j, if p then 0 else BitVec.ofNat 8 (v / 256 ^ j), p)

/-- The results of lanes 0 to n - 1: `f` answers nothing for a lane that is not written, and a poisoned lane raises no flag. -/
def outLanes (n s : Nat) (f : Nat → Option (FRes × Bool)) : VOut :=
  (List.range n).foldr (fun i o => match f i with
    | none => o
    | some (r, p) => { bytes := outElem s i r.bits p ++ o.bytes, flags := if p then o.flags else o.flags ||| r.flags }) {}

/-- Bit `k` of the captured predicate. -/
def pbit (p : BitVec 256) (k : Nat) : Bool := p.getLsbD k

/-- A w-bit number as signed. -/
def sgn (w v : Nat) : Int := if v % 2 ^ w < 2 ^ (w - 1) then ((v % 2 ^ w : Nat) : Int) else ((v % 2 ^ w : Nat) : Int) - (2 ^ w : Nat)
/-- The low w bits of an integer. -/
def wrapTo (w : Nat) (v : Int) : Nat := (v % ((2 ^ w : Nat) : Int)).toNat
/-- Clamp to the signed w-bit range, with SA (R34). -/
def clampTo (lo hi v : Int) : Int × Nat := if v < lo then (lo, flagSA) else if hi < v then (hi, flagSA) else (v, 0)

/-! ## VARITH (R200 to R203) -/

/-- An integer operation on w-bit elements (R200). -/
def vint (op w a b d : Nat) : FRes :=
  let x := sgn w a
  let y := sgn w b
  let clamped (v : Int) : FRes :=
    let r := clampTo (-((2 ^ (w - 1) : Nat) : Int)) ((2 ^ (w - 1) : Nat) - 1) v
    { bits := wrapTo w r.1, flags := r.2 }
  let sh := b % w
  match op with
  | 0 => { bits := (a + b) % 2 ^ w }
  | 1 => { bits := wrapTo w (x - y) }
  | 2 => { bits := a * b % 2 ^ w }
  | 3 => { bits := if x ≤ y then a else b }
  | 4 => { bits := if x ≤ y then b else a }
  | 5 => { bits := min a b }
  | 6 => { bits := max a b }
  | 7 => { bits := a &&& b }
  | 8 => { bits := a ||| b }
  | 9 => { bits := a ^^^ b }
  | 10 => { bits := a * 2 ^ sh % 2 ^ w }
  | 11 => { bits := a / 2 ^ sh }
  | 12 => { bits := wrapTo w (x / ((2 ^ sh : Nat) : Int)) }
  | 13 => clamped (x + y)
  | 14 => clamped (x - y)
  | 15 => { bits := wrapTo w (x * y / ((2 ^ w : Nat) : Int)) }
  | 16 => { bits := (x - y).natAbs % 2 ^ w }
  | 17 => { bits := wrapTo w (x * y + sgn w d) }
  | 18 => { bits := wrapTo w (x * y - sgn w d) }
  | 21 => { bits := wrapTo w (-x) }
  | _ => { bits := x.natAbs % 2 ^ w }

/-- |a - b| rounded once (R201): the larger operand comes first, and the sign is cleared. -/
def vabsd (f : Fmt) (a b : Nat) (rm : Rm) : FRes :=
  let r := if decide (f.key b ≤ f.key a) then fsub f a b rm else fsub f b a rm
  if (f.val r.bits).isNan then r else { r with bits := r.bits % 2 ^ (f.eb + f.mb) }

/-- A float operation (R201). -/
def vflt (op : Nat) (f : Fmt) (rm : Rm) (a b d : Nat) : FRes :=
  match op with
  | 0 => fadd f a b rm
  | 1 => fsub f a b rm
  | 2 => fmul f a b rm
  | 3 => fminmax f false a b
  | 4 => fminmax f true a b
  | 16 => vabsd f a b rm
  | 17 => ffma f a b d false false rm
  | 18 => ffma f a b d false true rm
  | 19 => fdiv f a b rm
  | 20 => fsqrt f a rm
  | 21 => fsign f 0 a
  | _ => fsign f 1 a

/-- The exact sum of values; nothing when infinities of both signs meet. An exact zero is -0 when every term is, +0 when
every term is +0, and else takes the sign `rdn` (R203, R205, R39). DESIGN CHOICE (assumption 83): a quiet NaN among the terms settles the
sum before it is looked at, so that infinities of both signs beside it set no NV. -/
def sumV (rdn : Bool) (ts : List FVal) : Option FVal :=
  if ts.any FVal.isNan then some (.nan (ts.any FVal.isSnan))
  else
    let hasInf (n : Bool) : Bool := ts.contains (.inf n)
    if hasInf true && hasInf false then none
    else if hasInf true then some (.inf true)
    else if hasInf false then some (.inf false)
    else
      let q : Int := ts.foldl (fun q t => match t with | .fin _ _ e => min q e | _ => q) 4096
      let v : Int := ts.foldl (fun v t => match t with | .fin n m e => v + signed n m * ((2 ^ (e - q).toNat : Nat) : Int) | _ => v) 0
      if v = 0 then
        some (.zero (if ts.all (· == .zero true) && !ts.isEmpty then true else if ts.all (· == .zero false) then false else rdn))
      else some (.fin (decide (v < 0)) v.natAbs q)

/-- A sum rounded once. -/
def fsum (f : Fmt) (rm : Rm) (ts : List FVal) : FRes :=
  match sumV (rm == .rdn) ts with
  | none => nanRes f true
  | some v => roundV f rm v

/-- Products as addends: infinity times zero is a NaN that sets NV. -/
def prods (ps : List (FVal × FVal)) : List FVal := ps.map fun p => (mulV p.1 p.2).getD (.nan true)

/-- The comparison of R202: 23 eq, 24 ne, 25 lt, 26 le, 27 unsigned lt. -/
def vcmp (op ty a b : Nat) : FRes :=
  if 4 ≤ ty then
    let r := fcmp (vfmt ty) (if op ≤ 24 then 0 else if op = 25 then 1 else 2) a b
    if op = 24 then { r with bits := 1 - r.bits } else r
  else
    let x := sgn (8 * vsize ty) a
    let y := sgn (8 * vsize ty) b
    let c := match op with | 23 => a == b | 24 => a != b | 25 => decide (x < y) | 26 => decide (x ≤ y) | _ => decide (a < b)
    { bits := if c then 1 else 0 }

/-- The mask a compare writes: bits of active elements; a byte with a poisoned element is poisoned (R191, R202). -/
def vcmpMask (op ty : Nat) (p : BitVec 256) (A B : List Elem) (old : List Elem) : VOut :=
  let s := vsize ty
  (List.range (256 / s / 8)).foldr (fun j o =>
    let act := (List.range 8).filter fun k => pbit p (s * (8 * j + k))
    if act.isEmpty then o
    else
      let bad (k : Nat) : Bool := (elemAt A (8 * j + k)).2 || (elemAt B (8 * j + k)).2
      let res (k : Nat) : FRes := if bad k then { bits := 0 } else vcmp op ty (elemAt A (8 * j + k)).1 (elemAt B (8 * j + k)).1
      let v := act.foldl (fun v k => setBits v k k (res k).bits) (elemAt old j).1
      { bytes := outElem 1 j v (act.any bad) ++ o.bytes,
        flags := act.foldl (fun f k => f ||| (res k).flags) o.flags }) {}

/-- VDOT (R203). -/
def vdot (ty : Nat) (rm : Rm) (p : BitVec 256) (A B D : List Elem) : VOut :=
  let s := vsize ty
  let k := 4 / s
  outLanes 64 4 fun j =>
    if pbit p (4 * j) then
      let ix := (List.range k).map (· + k * j)
      if (elemAt D j).2 || ix.any (fun i => (elemAt A i).2 || (elemAt B i).2) then some ({ bits := 0 }, true)
      else if 4 ≤ ty then
        let f := vfmt ty
        some (fsum fp32 rm (fp32.val (elemAt D j).1 :: prods (ix.map fun i => (f.val (elemAt A i).1, f.val (elemAt B i).1))), false)
      else
        let v := ix.foldl (fun v i => v + sgn (8 * s) (elemAt A i).1 * sgn (8 * s) (elemAt B i).1) (((elemAt D j).1 : Nat) : Int)
        some ({ bits := wrapTo 32 v }, false)
    else none

/-- VSQRT, VNEG and VABS have one source; VFMA and VFMS also read D (R199). -/
def unaryOp (op : Nat) : Bool := op == 20 || op == 21 || op == 22
def readsD (op : Nat) : Bool := op == 17 || op == 18

/-- VARITH (R199 to R203). Of these forms VFMA, VFMS and VDOT read D; what the others overwrite counts for nothing (R191). -/
def varith (op ty : Nat) (rm : Rm) (p : BitVec 256) (A B D : List Elem) : VOut :=
  let s := vsize ty
  if op = 29 then vdot ty rm p A B D
  else if 23 ≤ op ∧ op ≤ 27 then vcmpMask op ty p A B D
  else outLanes (256 / s) s fun i =>
    if !pbit p (s * i) then none
    else if op = 28 then
      let m := elemAt A (i / 8)
      if m.2 then some ({ bits := 0 }, true)
      else if m.1.testBit (i % 8) then some ({ bits := (elemAt B i).1 }, (elemAt B i).2) else none
    else
      let a := elemAt A i
      let b := elemAt B i
      let d := elemAt D i
      if a.2 || (!unaryOp op && b.2) || (readsD op && d.2) then some ({ bits := 0 }, true)
      else some (if 4 ≤ ty then vflt op (vfmt ty) rm a.1 b.1 d.1 else vint op (8 * s) a.1 b.1 d.1, false)

/-! ## VCONV (R204, R38) -/

/-- Width and signedness of an integer code of the vector format table (R62). -/
def vcodeInt (k : Nat) : Option (Nat × Bool) := match k with
  | 0 => some (8, true) | 1 => some (8, false) | 2 => some (16, true) | 3 => some (16, false) | 4 => some (32, true)
  | 5 => some (32, false) | 6 => some (64, true) | _ => none
/-- The format of a float code (R26). -/
def vcodeFmt (k : Nat) : Fmt := match k with
  | 7 => fp16 | 8 => bf16 | 9 => fp32 | 10 => fp64 | 11 => e4m3 | 12 => e5m2 | 13 => e3m2 | 14 => e2m3 | _ => e2m1
def vcodeWidth (k : Nat) : Nat := match vcodeInt k with | some (w, _) => w | none => (vcodeFmt k).width
/-- Bytes of an element of a code (R29). -/
def vcodeSize (k : Nat) : Nat := (vcodeWidth k + 7) / 8

/-- One conversion (R38). -/
def vconv1 (dst src x : Nat) (sat : Bool) (rm : Rm) : FRes :=
  let lo (w : Nat) (sg : Bool) : Int := if sg then -((2 ^ (w - 1) : Nat) : Int) else 0
  let hi (w : Nat) (sg : Bool) : Int := if sg then (2 ^ (w - 1) : Nat) - 1 else (2 ^ w : Nat) - 1
  match vcodeInt src, vcodeInt dst with
  | none, none => fcvt (vcodeFmt src) (vcodeFmt dst) x sat rm
  | none, some (w, sg) =>
    let r := ftoi (vcodeFmt src) x (lo w sg) (hi w sg) rm
    { bits := wrapTo w r.1, flags := r.2 }
  | some (w, sg), none => itof (vcodeFmt dst) (if sg then sgn w x else (x : Int)) sat rm
  | some (w, sg), some (w', sg') =>
    let v : Int := if sg then sgn w x else (x : Int)
    if sat then
      let r := clampTo (lo w' sg') (hi w' sg') v
      { bits := wrapTo w' r.1, flags := r.2 }
    else { bits := wrapTo w' v }

/-- VCONV: `rm i x` is the rounding of lane i with encoding x (R37). -/
def vconv (dst src : Nat) (sat : Bool) (rm : Nat → Nat → Rm) (p : BitVec 256) (A : List Elem) : VOut :=
  let m := max (vcodeSize dst) (vcodeSize src)
  outLanes (256 / m) (vcodeSize dst) fun i =>
    if pbit p (i * m) then
      let x := (elemAt A i).1 % 2 ^ vcodeWidth src
      some (vconv1 dst src x sat (rm i x), (elemAt A i).2)
    else none

/-! ## VRED (R205, R45) -/

/-- The extreme of active elements: value and index; NaN wins, then the lowest index among equals (R45). -/
def vext (ty : Nat) (mx : Bool) (l : List (Nat × Nat)) : Nat × Nat :=
  let s := vsize ty
  let f := vfmt ty
  let nan := if 4 ≤ ty then l.find? fun e => (f.val e.2).isNan else none
  let key (v : Nat) : Int := if 4 ≤ ty then f.key v else sgn (8 * s) v
  match nan, l with
  | some e, _ => (f.nanBits, e.1)
  | none, [] => (if 4 ≤ ty then f.nanBits else 0, 2 ^ 64 - 1)
  | none, e :: es =>
    let r := es.foldl (fun (b : Nat × Nat) e =>
      if (if mx then decide (key b.2 < key e.2) else decide (key e.2 < key b.2)) then e else b) e
    (if 4 ≤ ty then r.2 else wrapTo 64 (sgn (8 * s) r.2), r.1)

/-- VRED: a 16-byte record, all poison when an active element is (R191, R205). -/
def vred (op ty : Nat) (rm : Rm) (p : BitVec 256) (A : List Elem) : VOut :=
  let s := vsize ty
  let f := vfmt ty
  let act := (List.range (256 / s)).filter fun i => pbit p (s * i)
  if act.any (fun i => (elemAt A i).2) then { bytes := outElem 16 0 0 true }
  else
    let l := act.map fun i => (i, (elemAt A i).1)
    let vs := l.map fun e => f.val e.2
    let snan := if 4 ≤ ty ∧ vs.any FVal.isSnan then flagNV else 0
    let r : FRes × Nat := match op with
      | 0 => if 4 ≤ ty then (fsum f rm vs, 0)
             else ({ bits := wrapTo 64 (l.foldl (fun v e => v + sgn (8 * s) e.2) 0) }, 0)
      | 1 => ({ bits := (vext ty true l).1 }, 0)
      | 2 => ({ bits := (vext ty false l).1 }, 0)
      | 3 => ({ bits := (vext ty true l).1 }, (vext ty true l).2)
      | 4 => ({ bits := (vext ty false l).1 }, (vext ty false l).2)
      | 5 => ({ bits := l.foldl (fun v e => v &&& e.2) (2 ^ (8 * s) - 1) }, 0)
      | 6 => ({ bits := l.foldl (fun v e => v ||| e.2) 0 }, 0)
      | _ => ({ bits := l.foldl (fun v e => v ^^^ e.2) 0 }, 0)
    { bytes := outElem 16 0 (r.1.bits + r.2 * 2 ^ 64) false, flags := r.1.flags ||| snan }

/-! ## VPERM (R206) -/

def vperm (op ty : Nat) (p : BitVec 256) (av bv : Nat) (A B : List Elem) : VOut :=
  let s := vsize ty
  let n := 256 / s
  let act := (List.range n).filter fun i => pbit p (s * i)
  let at_ (l : List Elem) (j : Nat) : Option (FRes × Bool) := some ({ bits := (elemAt l j).1 }, (elemAt l j).2)
  if op = 6 then outLanes n s fun j => match act[j]? with | some i => at_ A i | none => none
  else if op = 7 then outLanes n s fun i => if pbit p (s * i) then at_ A (act.idxOf i) else none
  else outLanes n s fun i =>
    if !pbit p (s * i) then none
    else match op with
      | 0 => at_ A 0
      | 1 => if (elemAt B i).2 then some ({ bits := 0 }, true)
             else if n ≤ (elemAt B i).1 then some ({ bits := 0 }, false) else at_ A (elemAt B i).1
      | 2 => if bv ≤ i then at_ A (i - bv) else none
      | 3 => if i + bv < n then at_ A (i + bv) else none
      | 4 => if i % 2 = 0 then at_ A (i / 2) else at_ B ((i - 1) / 2)
      | 5 => if i < n / 2 then at_ A (2 * i) else at_ B (2 * i - n)
      | 8 => at_ A i
      | _ => some ({ bits := (av + i) % 2 ^ (8 * s) }, false)

/-! ## VSFU (R207) -/

def vsfu (op ty : Nat) (rm : Rm) (p : BitVec 256) (A : List Elem) : VOut :=
  let s := vsize ty
  outLanes (256 / s) s fun i =>
    if pbit p (s * i) then
      (if (elemAt A i).2 then some ({ bits := 0 }, true) else some (sfu op (vfmt ty) rm (elemAt A i).1, false))
    else none

/-! ## Microscaling (R30 to R32, R215 to R218) -/

/-- An MX format: element format (none for MXINT8), element width, emax (R30). -/
structure Mx where
  fmt : Option Fmt
  w : Nat
  emax : Nat
deriving DecidableEq, Repr

def mxOf (k : Nat) : Mx := match k with
  | 9 => ⟨some e4m3, 8, 8⟩ | 10 => ⟨some e5m2, 8, 15⟩ | 11 => ⟨some e3m2, 6, 4⟩ | 12 => ⟨some e2m3, 6, 2⟩
  | 13 => ⟨some e2m1, 4, 2⟩ | _ => ⟨none, 8, 0⟩

/-- The value of an element code, its scale apart (R30). -/
def Mx.val (m : Mx) (code : Nat) : FVal := match m.fmt with
  | some f => f.val code
  | none => let n := sgn 8 code
            if n = 0 then .zero false else .fin (decide (n < 0)) n.natAbs (-6)

/-- A value times 2^k. -/
def FVal.shift (v : FVal) (k : Int) : FVal := match v with | .fin n m e => .fin n m (e + k) | v => v

/-- One element converted to the element format: always saturating (R32). -/
def Mx.quant (m : Mx) (rm : Rm) (v : FVal) : FRes := match m.fmt, v with
  | some f, .fin n k e => fround f rm true n k e
  | some f, .zero n => zeroRes f n
  | none, .fin n k e =>
    let r := roundTo rm n k e (-6)
    let c := clampTo (-128) 127 (signed n r.1)
    { bits := wrapTo 8 c.1, flags := c.2 ||| (if r.2 || c.2 != 0 then flagNX else 0) }
  | _, _ => { bits := 0 }

/-- Quantise 32 values into codes and a scale (R32); `rm i` is the rounding of element i of the block. -/
def Mx.block (m : Mx) (rm : Nat → Rm) (vs : List FVal) : List FRes × Nat :=
  let special (v : FVal) : Bool := match v with | .nan _ => true | .inf _ => true | _ => false
  let log2 (v : FVal) : Option Int := match v with | .fin _ k e => some (e + (Nat.log2 k : Nat)) | _ => none
  if vs.any special then (vs.map fun _ => { bits := 0 }, 0xFF)
  else match vs.filterMap log2 with
    | [] => (vs.map fun v => m.quant .rne v, 0x7F)
    | l :: ls =>
      let e := max 0 (min 254 (ls.foldl max l - (m.emax : Int) + 127))
      ((vs.zip (List.range vs.length)).map fun v => m.quant (rm v.2) (v.1.shift (127 - e)), e.toNat)

/-- Elements packed densely (R29). -/
def packBits (w : Nat) (codes : List Nat) : Nat := codes.foldr (fun c v => c % 2 ^ w + 2 ^ w * v) 0

/-- The element type a code operand names: its format, element bytes and count K (R215). -/
def vmxFmt (code : Nat) : Fmt := if code / 256 % 2 = 1 then bf16 else fp32
def vmxSize (code : Nat) : Nat := if code / 256 % 2 = 1 then 2 else 4
def vmxK (code : Nat) : Nat := if code / 256 % 2 = 1 then 128 else 64
/-- Bytes of element data, and of the packed form (R215). -/
def vmxData (code : Nat) : Nat := vmxK code * (mxOf (code % 32)).w / 8
def vmxLen (code : Nat) : Nat := vmxData code + vmxK code / 32

/-- Codes and scales of all blocks. -/
def vmxBlocks (m : Mx) (rm : Nat → Rm) (vs : List FVal) : Nat → Nat → List FRes × List Nat
  | 0, _ => ([], [])
  | n + 1, j =>
    let b := m.block (fun i => rm (32 * j + i)) ((vs.drop (32 * j)).take 32)
    let r := vmxBlocks m rm vs n (j + 1)
    (b.1 ++ r.1, b.2 :: r.2)

/-- VMXPACK (R216): inactive elements are +0; flags SA, NX and UF. DESIGN CHOICE (assumption 59): a signalling NaN element sets no NV,
which R216 does not list and R27 gives every signalling NaN operand. -/
def vmxpack (code : Nat) (rm : Nat → Nat → Rm) (p : BitVec 256) (A : List Elem) : VOut :=
  let s := vmxSize code
  let k := vmxK code
  let m := mxOf (code % 32)
  let len := vmxLen code
  let act (i : Nat) : Bool := pbit p (s * i)
  if (List.range k).any (fun i => act i && (elemAt A i).2) then
    { bytes := (List.range len).map fun j => (j, 0, true) }
  else
    let enc (i : Nat) : Nat := if act i then (elemAt A i).1 else 0
    let r := vmxBlocks m (fun i => rm i (enc i)) ((List.range k).map fun i => (vmxFmt code).val (enc i)) (k / 32) 0
    let v := packBits m.w (r.1.map (·.bits)) + 2 ^ (8 * vmxData code) * packBits 8 r.2
    { bytes := (List.range len).map fun j => (j, BitVec.ofNat 8 (v / 256 ^ j), false),
      flags := r.1.foldl (fun f e => f ||| e.flags) 0 &&& (flagSA + flagNX + flagUF) }

/-- VMXUNPK (R217) from the bytes of the packed form. -/
def vmxunpk (code : Nat) (sat : Bool) (rm : Nat → Nat → Rm) (p : BitVec 256) (bs : List (Byte × Bool)) : VOut :=
  let s := vmxSize code
  let m := mxOf (code % 32)
  let f := vmxFmt code
  let v := leNat (bs.map (·.1))
  let bad (j : Nat) : Bool := (bs.getD j (0, false)).2
  outLanes (vmxK code) s fun i =>
    if pbit p (s * i) then
      let x := v / 2 ^ (m.w * i) % 2 ^ m.w
      let sc := (bs.getD (vmxData code + i / 32) (0, false)).1.toNat
      if bad (m.w * i / 8) || bad ((m.w * i + m.w - 1) / 8) || bad (vmxData code + i / 32) then some ({ bits := 0 }, true)
      else some (match m.val x with
        | .nan t => nanRes f t
        | u => if sc = 0xFF then nanRes f false
               else match u.shift ((sc : Int) - 127) with
                 | .inf n => if sat then { bits := f.signBit n + f.maxBits, flags := flagSA } else infRes f n
                 | .zero n => zeroRes f n
                 | .fin n k e => fround f (rm i x) sat n k e
                 | .nan t => nanRes f t, false)
    else none

/-- VSCALE (R218). -/
def vscale (rm : Rm) (p : BitVec 256) (A B : List Elem) : VOut :=
  outLanes 64 4 fun i =>
    if pbit p (4 * i) then
      let k := (clampTo (-512) 511 (sgn 32 (elemAt B i).1)).1
      some (roundV fp32 rm ((fp32.val (elemAt A i).1).shift k), (elemAt A i).2 || (elemAt B i).2)
    else none

end Sys2Proof.Machine
end

