-- ==== Sys2Proof/Machine/Vector.lean ====
section
/-! DEFINITION. Vector instructions (chapter 09): operand forms (R188, R189, R199 to R218), issue (R195), the sequencer
(R208 to R211), and the commands in the coach (R190 to R194, R196, R212 to R214). -/

namespace Sys2Proof.Machine

/-! ## Forms -/

/-- What a register field of a vector instruction names (R188). -/
inductive Opd where
  | unused
  /-- a source of `span` bytes, aligned on `align` -/
  | src (span align : Nat)
  /-- a destination of `span` bytes -/
  | dst (span : Nat)
  /-- a destination that is also a source (R199) -/
  | both (span : Nat)
  /-- a data vector of VMEM, in this core's data or ring region (R212) -/
  | here (span : Nat)
  | value
  | code
deriving DecidableEq, Repr

/-- The fields of a word. -/
def wMajor (w : Nat) : Nat := w / 2 ^ 23 % 64
def wD (w : Nat) : Nat := w / 2 ^ 18 % 32
def wA (w : Nat) : Nat := w / 2 ^ 13 % 32
def wB (w : Nat) : Nat := w / 2 ^ 8 % 32
def wFn (w : Nat) : Nat := w % 256

/-- The code operand of VMXPACK and VMXUNPK is legal (R215). -/
def mxCodeOk (v : Nat) : Bool := decide (9 ≤ v % 32) && decide (v % 32 ≤ 14) && v / 32 % 8 == 0 && decide (v / 512 = 0)

/-- What rd, ra and rb name; the code operand `bv` fixes the spans of VMXPACK and VMXUNPK. -/
def vecOpds (w bv : Nat) : Opd × Opd × Opd :=
  let op := wFn w / 8
  let ty := wFn w % 8
  let s := vsize ty
  let v : Opd := .src 256 16
  match wMajor w with
  | 0x30 =>
    if op = 20 ∨ op = 21 ∨ op = 22 then (.dst 256, v, .unused)
    else if op = 17 ∨ op = 18 then (.both 256, v, v)
    else if 23 ≤ op ∧ op ≤ 27 then (.dst (256 / s / 8), v, v)
    else if op = 28 then (.dst 256, .src (256 / s / 8) 16, v)
    else (.dst 256, v, v)
  | 0x31 =>
    let ds := vcodeSize (wFn w / 16)
    let ss := vcodeSize (wFn w % 16)
    let n := 256 / max ds ss
    (.dst (n * ds), .src (n * ss) 16, .unused)
  | 0x32 => (.dst 16, v, .unused)
  | 0x33 => match op with
    | 0 => (.dst 256, .src s s, .unused)
    | 1 => (.dst 256, v, v)
    | 2 => (.dst 256, v, .value)
    | 3 => (.dst 256, v, .value)
    | 4 => (.dst 256, v, v)
    | 5 => (.dst 256, v, v)
    | 9 => (.dst 256, .value, .unused)
    | _ => (.dst 256, v, .unused)
  | 0x34 => (.dst 256, v, .unused)
  | 0x36 => (.here 256, .value, v)
  | _ => match wFn w with
    | 0 => (.dst (vmxLen bv), v, .code)
    | 1 => (.dst 256, .src (vmxLen bv) 16, .code)
    | _ => (.dst 256, v, v)

/-- The word is a valid form: pairing, and unused fields zero (R56, R57). -/
def vecLegal (w : Nat) : Bool :=
  let o := vecOpds w 0
  pairOk (wMajor w) (wFn w) && (o.2.2 != .unused || wB w == 0)

/-- It rounds or converts under FRM (R35, R36). -/
def vecRounds (w : Nat) : Bool :=
  let op := wFn w / 8
  let ty := wFn w % 8
  match wMajor w with
  | 0x30 => decide (4 ≤ ty) && (op == 0 || op == 1 || op == 2 || (decide (16 ≤ op) && decide (op ≤ 20)) || op == 29)
  | 0x31 => true
  | 0x32 => op == 0 && decide (4 ≤ ty)
  | 0x34 => true
  | 0x37 => true
  | _ => false

/-- The register fields it reads, in the order ra, rb, rd. -/
def vecReads (w : Nat) : List Nat :=
  let o := vecOpds w 0
  wA w :: (if o.2.2 = .unused then [] else [wB w]) ++ [wD w]

/-! ## Placement (R189) -/

def Opd.isAddr : Opd → Bool | .src _ _ => true | .dst _ => true | .both _ => true | .here _ => true | _ => false
def Opd.align : Opd → Nat | .src _ a => a | _ => 16

/-- The physical address of `n` bytes at `va` as a source, or as a destination (R189, R212). -/
def vecPlace (s : State) (c p va : Nat) (o : Opd) : Option Nat :=
  let inside (off n : Nat) (dst : Bool) : Bool :=
    decide (off + n ≤ sramSize c) && regionOf s c off == regionOf s c (off + n - 1)
      && (!dst || regionOf s c off == .ring || regionOf s c off == .data)
  match (if va ≤ 0x00FFFEFFFFFFFFFF then .miss else reach s c false p va false false), o with
  | .own off, .src n _ => if inside off n false then some (sramPa c off) else none
  | .own off, .dst n => if inside off n true then some (sramPa c off) else none
  | .own off, .both n => if inside off n true then some (sramPa c off) else none
  | .own off, .here n => if inside off n true then some (sramPa c off) else none
  | .window w off, .dst n =>
    if off + n ≤ sramSize w ∧ regionOf s w off = regionOf s w (off + n - 1) then some (sramPa w off) else none
  | _, _ => none

/-- The operands of a word with their values: rd, ra, rb. -/
def vecFields (w : Nat) (d a b : Word) : List (Opd × Nat) :=
  let o := vecOpds w b.toNat
  [(o.1, ea56 d), (o.2.1, ea56 a), (o.2.2, ea56 b)]

/-- R195 steps 2 and 3: ALIGN, then BOUNDS. -/
def vecCheck (s : State) (c p w : Nat) (d a b : Word) : Option TrapInfo :=
  let fs := (vecFields w d a b).filter fun f => f.1.isAddr
  match fs.find? (fun f => f.2 % f.1.align ≠ 0) with
  | some f => some (trapAt .align f.2)
  | none => (fs.find? (fun f => (vecPlace s c p f.2 f.1).isNone)).map fun f => trapAt .bounds f.2

/-- A code operand that names no format (R215). -/
def vecCodeBad (w : Nat) (b : Word) : Bool := (vecOpds w 0).2.2 == .code && !mxCodeOk b.toNat

/-! ## Issue (R195) -/

/-- Issue of a vector instruction (R195). -/
def vecBody (word : Nat) (x : Ctx) (s : State) : Act :=
  let d := x.rd s (wD word)
  let a := x.rd s (wA word)
  let b := if (vecOpds word 0).2.2 = .unused then 0 else x.rd s (wB word)
  if vecCodeBad word b then .trap { cause := .illegal, addr := BitVec.ofNat 64 word }
  else match vecCheck s x.c (slot s x.c x.sl).hdr.part word d a b with
    | some t => .trap t
    | none =>
      if hasLoop s x.c x.sl then .park 4 (.engineRoom 4) s
      else enqueueRec x s 0 (newRec x s word d a b)

/-- The issue of a vector instruction: no fare of its own beside the command's (R198, R359). -/
def vecIssue (word : Nat) : Issue :=
  { word := word, legal := vecLegal word, rounds := vecRounds word, reads := vecReads word, sync := vecReads word, fare := 99 }

/-- A vector instruction with operation `op` of major `m` and type `t`. -/
def vecT (m op : Nat) (w : BitVec 3) (d a b : BitVec 5) (t : BitVec 3) (s : State) : Result :=
  let word := word3 (m * 2 ^ 23 + 8 * op + t.toNat) w d a b
  issue (vecIssue word) s (vecBody word)
/-- A vector instruction with a whole function field. -/
def vecF (m fn : Nat) (w : BitVec 3) (d a b : BitVec 5) (s : State) : Result :=
  let word := word3 (m * 2 ^ 23 + fn) w d a b
  issue (vecIssue word) s (vecBody word)

/-! ## The sequencer (R208 to R210) -/

/-- Signed stride fields of a stride double (R208). -/
def strideOf (v k : Nat) : Int := sgn 16 (v / 2 ^ (16 * k) % 2 ^ 16)
/-- Value + n x stride, mod 2^64 (R210). -/
def stepVal (v : Word) (n : Nat) (st : Int) : Word := v + BitVec.ofInt 64 ((n : Int) * st)

/-- One field's stride may be non-zero: an address operand by multiples of 16, a value operand by anything (R209). -/
def strideTrap (word : Nat) (o : Opd) (v : Word) (st : Int) : Option TrapInfo :=
  if st = 0 then none
  else match o with
    | .unused => some { cause := .illegal, addr := BitVec.ofNat 64 word }
    | .code => some { cause := .illegal, addr := BitVec.ofNat 64 word }
    | .value => none
    | _ => if st % 16 = 0 then none else some { cause := .align, addr := BitVec.ofNat 64 (ea56 (stepVal v 1 st)) }

/-- Capture of one body word in its own cycle (R209): its record and strides, or the trap. -/
def captureWord (x : Ctx) (s : State) (word dbl count : Nat) : Except TrapInfo (Rec × Word × Word × Word) :=
  let m := wMajor word
  let ill : TrapInfo := { cause := .illegal, addr := BitVec.ofNat 64 word }
  if !((0x30 ≤ m ∧ m ≤ 0x34) ∨ m = 0x37) ∨ 2 ^ 48 ≤ dbl then .error ill
  else match issueTrap (vecIssue word) x s with
    | some t => .error t
    | none =>
      let d := x.rd s (wD word)
      let a := x.rd s (wA word)
      let b := if (vecOpds word 0).2.2 = .unused then 0 else x.rd s (wB word)
      let p := (slot s x.c x.sl).hdr.part
      let o := vecOpds word b.toNat
      let sd := strideOf dbl 0
      let sa := strideOf dbl 1
      let sb := strideOf dbl 2
      if vecCodeBad word b then .error ill
      else match vecCheck s x.c p word d a b with
        | some t => .error t
        | none =>
          match [strideTrap word o.1 d sd, strideTrap word o.2.1 a sa, strideTrap word o.2.2 b sb].findSome? id with
          | some t => .error t
          | none =>
            let last := if count = 0 then none
              else vecCheck s x.c p word (stepVal d (count - 1) sd) (stepVal a (count - 1) sa) (stepVal b (count - 1) sb)
            match last with
            | some t => .error t
            | none => .ok ({ newRec x s word d a b with pc := x.pc }, BitVec.ofInt 64 sd, BitVec.ofInt 64 sa, BitVec.ofInt 64 sb)

/-- Capture of body words k, k + 1, …: each issues in its own cycle after the W of the word before it. Answers the body and
the context of the last word. -/
def captureFrom (x : Ctx) (s : State) (count : Nat) (w : Nat) : Nat → Nat → List Byte → Except TrapInfo (List (Rec × Word × Word × Word) × Ctx × Nat)
  | 0, _, _ => .ok ([], x, w)
  | n + 1, k, dbls =>
    match fetchTrapAt s x.c x.x k with
    | some t => .error t
    | none =>
      let word := fetchAt s x.c x.x k
      let x' := { x with pc := x.pc + 4, t := x.t + 1 + w / 2 ^ 29 % 8 }
      match captureWord x' s word (leNat (dbls.take 8)) count with
      | .error t => .error t
      | .ok r =>
        match captureFrom x' s count word n (k + 1) (dbls.drop 8) with
        | .error t => .error t
        | .ok (rs, x'', w') => .ok (r :: rs, x'', w')

/-- VLOOP (R208, R209). -/
def execVloop (w : BitVec 3) (l a b : BitVec 5) (s : State) : Result :=
  let word := word3 0x1A800000 w l a b
  let i : Issue := { word := word, legal := bodyOk l, reads := [rn a, rn b], sync := [rn a, rn b] }
  issue i s fun x s =>
    let c := (x.rd s (rn a)).toNat
    let va := ea56 (x.rd s (rn b))
    let n := l.toNat
    if 2 ^ 32 ≤ c then .trap { cause := .illegal, addr := BitVec.ofNat 64 word }
    else if va % 16 ≠ 0 then .trap (trapAt .align va)
    else match localPlace x s va (8 * n) with
      | none => .trap (trapAt .bounds va)
      | some pa =>
        if ((core s x.c).seqr).isSome then .park 4 (.engineRoom 4) s
        else readLocal x s pa (8 * n) va fun s bs =>
          match drainStep s x with
          | some s' => .hold s'
          | none =>
            match captureFrom x s c word n 1 bs with
            | .error t => .trap t
            | .ok (body, xl, wl) =>
              let s := if c = 0 then s else updCore s x.c fun k =>
                { k with seqr := some { slot := x.sl, tid := tidOf s x.c x.sl, body := body.map (·.1), strides := body.map (·.2),
                                        count := c } }
              let s := retire { i with word := wl } { x with t := xl.t } s (xl.pc + 4) false
              .leave (updStream { s with cycle := xl.t } x.c x.x fun k => { k with fbuf := k.fbuf.drop n })

/-- The sequencer stops at an iteration boundary for a stranded or halted traveller (R197, R392). -/
def seqStopped (s : State) (c : Nat) (q : Sequencer) : Bool :=
  q.pos == 0 && ((core s c).hardHalt || stateOf s c q.slot == .stranded || stateOf s c q.slot == .halted
    || s.stranded.contains (ecxOf s c q.slot) && (slot s c q.slot).lvl == 0)

/-- SEQUENCER_EMIT: the next record of the core's loop enters the coach queue when it has room (R210). -/
def seqEmit (s : State) (c : Nat) : State :=
  match (core s c).seqr with
  | none => s
  | some q =>
    if !engRoom s c 0 || seqStopped s c q then s
    else match q.body[q.pos]?, q.strides[q.pos]? with
      | some r, some (sd, sa, sb) =>
        let k := BitVec.ofNat 64 q.iter
        let r := { r with d := r.d + k * sd, a := r.a + k * sa, b := r.b + k * sb, iter := q.iter }
        let s := pushRec s c 0 r
        let q := if q.pos + 1 < q.body.length then { q with pos := q.pos + 1 } else { q with pos := 0, iter := q.iter + 1 }
        updCore s c fun v => { v with seqr := if q.iter < q.count then some q else none }
      | _, _ => s

/-- VSYNC (R211). -/
def execVsync (w : BitVec 3) (s : State) : Result :=
  issue { word := word3 0x1A800001 w } s fun x s => if pathBusy s x.c x.sl 1 then .park 4 .vecDone s else .next s

/-! ## Command execution -/

def Rec.isVec (r : Rec) : Bool := decide (0x30 ≤ r.major) && decide (r.major ≤ 0x37)
/-- The fares of a command (R198). -/
def vecFare (r : Rec) : Nat :=
  let op := r.fn / 8
  if r.major = 0x34 ∨ (r.major = 0x30 ∧ (op = 19 ∨ op = 20 ∨ op = 29)) then 11 else 10

/-- The rounding mode of a lane of a record (R37, R46). -/
def recRm (r : Rec) (i x : Nat) : Rm := rmConv r.frm.toNat r.key.toNat r.pc.toNat i x

/-- `n` bytes of a source of core `c`, found errors apart. -/
def vecBytes (s : State) (c p va : Nat) (o : Opd) (n : Nat) : List (Byte × Bool) :=
  match vecPlace s c p va o with
  | some pa => bytesAt s pa n
  | none => []

def Opd.span : Opd → Nat | .src n _ => n | .dst n => n | .both n => n | .here n => n | _ => 0

/-- The bytes a command writes, computed from its sources (R192). -/
def vecResult (s : State) (c : Nat) (r : Rec) : VOut :=
  let o := vecOpds r.word r.b.toNat
  let get (f : Opd) (v : Word) (sz : Nat) : List Elem :=
    if f.isAddr then elemsOf sz (f.span / sz) (vecBytes s c r.part (ea56 v) f f.span) else []
  let ty := r.fn % 8
  let op := r.fn / 8
  let sz := vsize ty
  let rm := rmOf r.frm.toNat
  let sat := satOf r.frm.toNat
  match r.major with
  | 0x30 =>
    let A := get o.2.1 r.a (if op = 28 then 1 else sz)
    let B := get o.2.2 r.b sz
    let D := get o.1 r.d (if op = 29 then 4 else if 23 ≤ op ∧ op ≤ 27 then 1 else sz)
    varith op ty rm r.p A B D
  | 0x31 => vconv (r.fn / 16) (r.fn % 16) sat (recRm r) r.p (get o.2.1 r.a (vcodeSize (r.fn % 16)))
  | 0x32 => vred op ty rm r.p (get o.2.1 r.a sz)
  | 0x33 => vperm op ty r.p r.a.toNat r.b.toNat (get o.2.1 r.a sz) (get o.2.2 r.b sz)
  | 0x34 => vsfu op ty rm r.p (get o.2.1 r.a sz)
  | _ => match r.fn with
    | 0 => vmxpack r.b.toNat (recRm r) r.p (get o.2.1 r.a (vmxSize r.b.toNat))
    | 1 => vmxunpk r.b.toNat sat (recRm r) r.p (vecBytes s c r.part (ea56 r.a) o.2.1 o.2.1.span)
    | _ => vscale rm r.p (get o.2.1 r.a 4) (get o.2.2 r.b 4)

/-- VDOT, which reads the elements it accumulates into (R203). -/
def isVdot (r : Rec) : Bool := r.major == 0x30 && r.fn / 8 == 29

/-- The errors that reading the sources finds (R279). -/
def vecFind (s : State) (c : Nat) (r : Rec) : State :=
  (vecFields r.word r.d r.a r.b).foldl (fun s f =>
    match f.1, vecPlace s c r.part f.2 f.1 with
    | .dst n, some pa => if isVdot r then findErrors s pa n 4 r.ecx else s
    | o, some pa => findErrors s pa o.span 4 r.ecx
    | _, none => s) s

/-- Runs of bytes that follow one another. -/
def runsOf : List (Nat × Byte × Bool) → List (Nat × List (Byte × Bool))
  | [] => []
  | (o, b, p) :: rest => match runsOf rest with
    | (o', bs) :: rs => if o' = o + 1 then (o, (b, p) :: bs) :: rs else (o, [(b, p)]) :: (o', bs) :: rs
    | [] => [(o, [(b, p)])]

/-- Why a write of bytes at `pa` in another core's window is discarded whole (R190, R191). -/
def windowFault (s : State) (c pa va : Nat) (bs : List (Nat × Byte × Bool)) : Option TrapInfo :=
  match homeOf pa, bs with
  | .core w off, (o, _) :: _ =>
    if w = c then none
    else if sealedFor s c pa then some (trapAt .sealed va 1)
    else match bs.find? (fun e => e.2.2) with
      | some e => some (trapAt .poison ((va + e.1) / 16 * 16))
      | none =>
        if bs.all (fun e => regionOf s w (off + e.1) == .ring || regionOf s w (off + e.1) == .data) then none
        else some (trapAt .bounds (va + o))
  | _, _ => none

/-- A vector or matrix write lands at once; an escorted copy's that leaves its core is on its way until it is compared (R387). -/
def vecWrite (s : State) (w : EngWrite) : State :=
  if mustMatch s w then { s with engWrites := s.engWrites ++ [w] } else landBoth s w

/-- Emit the runs of a command's result as engine writes that land at once, but for pieces a complete stage holds (R180). -/
def vecLand (s : State) (c : Nat) (r : Rec) (pa : Nat) (bs : List (Nat × Byte × Bool)) : State :=
  (runsOf bs).foldl (fun s e => vecWrite s { pa := pa + e.1, bytes := e.2, src := (c, 0, r.seq), bar := none }) s

/-- Flags of a completed command go to its traveller's FLAGS (R47). -/
def recFlags (s : State) (c : Nat) (r : Rec) (f : Nat) : State := if ownerHere s c r then orFlags s c r.slot f else s

/-- A vector command completes, with the flags it raised (R47). -/
def vecDone (s : State) (c : Nat) (r : Rec) (f : Nat) : State := doneRec (recFlags s c r f) c 0 r []

/-! ## VMEM lanes (R212 to R214) -/

/-- Where lane address E lies: a physical address, poison (a gather lane at a sealed core), or the fault. -/
inductive Lane where | at_ (pa : Nat) | poison | fault (t : TrapInfo)
deriving DecidableEq, Repr

/-- The lane address of a record reaches (R212). -/
def lanePlace (s : State) (c p e size : Nat) (rd wr : Bool) : State × Lane :=
  if e % size ≠ 0 then (s, .fault (trapAt .align e))
  else if e ≤ 0x00FFFEFFFFFFFFFF then
    match translate s c p e with
    | .error t => (s, .fault t)
    | .ok (s, l) =>
      if (l.oa + e % 2 ^ pageBits l.level) / 2 ^ 53 % 8 = 1 then
        match leafReach s c p e l rd wr with
        | .hall h => (s, .at_ (hallPa h))
        | .trap t => (s, .fault t)
        | _ => (s, .fault (trapAt .bounds e))
      else (s, .fault (trapAt .bounds e))
  else
    let okTo (w off : Nat) : Bool := !wr || regionOf s w off == .ring || regionOf s w off == .data
    match reach s c false p e rd wr with
    | .own off => (s, if off + size ≤ sramSize c && okTo c off then .at_ (sramPa c off) else .fault (trapAt .bounds e))
    | .window w off =>
      if sealedFor s c (sramPa w off) then (s, if wr then .fault (trapAt .sealed e 1) else .poison)
      else (s, if okTo w off then .at_ (sramPa w off) else .fault (trapAt .bounds e))
    | _ => (s, .fault (trapAt .bounds e))

/-- The lanes of a VMEM record that its P still names, ascending. -/
def lanesOf (r : Rec) : List Nat :=
  let sz := vsize (r.fn % 8)
  (List.range (256 / sz)).filter fun i => pbit r.p (sz * i)

/-- The address of lane i, and whether its offset is poisoned. -/
def laneAddr (s : State) (c : Nat) (r : Rec) (i : Nat) : Nat × Bool :=
  let sz := vsize (r.fn % 8)
  let o := elemAt (elemsOf sz (256 / sz) (vecBytes s c r.part (ea56 r.b) (.src 256 16) 256)) i
  (((r.a.toNat : Int) + sgn (8 * sz) o.1 % (2 ^ 56 : Int)).toNat % 2 ^ 56, o.2)

/-- VGATHER: all lanes are read, then the data vector is written (R213). -/
def vgather (s : State) (c : Nat) (r : Rec) : State × Except TrapInfo VOut :=
  let sz := vsize (r.fn % 8)
  (lanesOf r).foldl (fun (acc : State × Except TrapInfo VOut) i =>
    match acc with
    | (s, .error t) => (s, .error t)
    | (s, .ok o) =>
      let e := laneAddr s c r i
      if e.2 then (s, .ok { o with bytes := o.bytes ++ outElem sz i 0 true })
      else match lanePlace s c r.part e.1 sz true false with
        | (s, .fault t) => (s, .error t)
        | (s, .poison) => (s, .ok { o with bytes := o.bytes ++ outElem sz i 0 true })
        | (s, .at_ pa) =>
          let s := findErrors s pa sz 4 r.ecx
          (s, .ok { o with bytes := o.bytes ++ outElem sz i (valueAt s pa sz) (poisonedAt s pa sz) })) (s, .ok {})

/-- VSCATTER: every lane's place is found before the first is written; the highest lane of one address remains (R213). DESIGN CHOICE
(assumption 29): a lane whose offset is poisoned faults POISON at the offset's granule. -/
def vscatter (s : State) (c : Nat) (r : Rec) : State × Except TrapInfo (List (Nat × List (Byte × Bool))) :=
  let sz := vsize (r.fn % 8)
  let dat := elemsOf sz (256 / sz) (vecBytes s c r.part (ea56 r.d) (.here 256) 256)
  (lanesOf r).foldl (fun (acc : State × Except TrapInfo (List (Nat × List (Byte × Bool)))) i =>
    match acc with
    | (s, .error t) => (s, .error t)
    | (s, .ok l) =>
      let e := laneAddr s c r i
      if e.2 then (s, .error (trapAt .poison ((ea56 r.b + sz * i) / 16 * 16)))
      else match lanePlace s c r.part e.1 sz false true with
        | (s, .fault t) => (s, .error t)
        | (s, .poison) => (s, .error (trapAt .sealed e.1 1))
        | (s, .at_ pa) =>
          let v := elemAt dat i
          if v.2 && coreOfPa pa != some c && (coreOfPa pa).isSome then (s, .error (trapAt .poison ((ea56 r.d + sz * i) / 16 * 16)))
          else (s, .ok (l ++ [(pa, (leBytes sz v.1).map fun b => (b, v.2))]))) (s, .ok [])

/-- What a vector atomic leaves in memory (R214): operation 2 and 5 add, 3 maximum, 4 minimum; floats round RNE. -/
def vamoNew (op ty old d : Nat) : Nat :=
  let sz := vsize ty
  match op with
  | 3 => if 4 ≤ ty then (fminmax (vfmt ty) true old d).bits else (vint 4 (8 * sz) old d 0).bits
  | 4 => if 4 ≤ ty then (fminmax (vfmt ty) false old d).bits else (vint 3 (8 * sz) old d 0).bits
  | _ => if 4 ≤ ty then (fadd (vfmt ty) old d .rne).bits else (old + d) % 2 ^ (8 * sz)

/-- A lane of an atomic: applied, faulted, or waiting behind a reservation. -/
inductive LaneStep where | ok (s : State) | fault (s : State) (t : TrapInfo) | wait (s : State)

/-- The place that lane address E names, whatever the checks of R212 say of it; none where it names no storage of R212. -/
def laneTarget (s : State) (c p e : Nat) : Option Nat :=
  if e ≤ 0x00FFFEFFFFFFFFFF then
    match translate s c p e with
    | .ok (s, l) => (match leafReach s c p e l false false with
      | .hall h => some (hallPa h)
      | _ => none)
    | .error _ => none
  else match reach s c false p e false false with
    | .own off => some (sramPa c off)
    | .window w off => some (sramPa w off)
    | _ => none

/-- One lane of a vector atomic (R214): the poison of its granules first, then the checks of R212. It waits behind a reservation, and
while its target lies in a complete stage (R180). DESIGN CHOICE (assumption 29): a poisoned offset faults POISON too. -/
def vamoLane (s : State) (c : Nat) (r : Rec) (i : Nat) : LaneStep :=
  let ty := r.fn % 8
  let op := r.fn / 8
  let sz := vsize ty
  let e := laneAddr s c r i
  match vecPlace s c r.part (ea56 r.d) (.here 256) with
  | none => .fault s (trapAt .bounds (ea56 r.d))
  | some dpa =>
    let s := findErrors s (dpa + sz * i) sz 4 r.ecx
    if e.2 then .fault s (trapAt .poison ((ea56 r.b + sz * i) / 16 * 16))
    else if poisonedAt s (dpa + sz * i) sz then .fault s (trapAt .poison ((ea56 r.d + sz * i) / 16 * 16))
    else if ((laneTarget s c r.part e.1).map fun pa => poisonedAt s pa sz) = some true then .fault s (trapAt .poison (e.1 / 16 * 16))
    else match lanePlace s c r.part e.1 sz true true with
      | (s, .fault t) => .fault s t
      | (s, .poison) => .fault s (trapAt .sealed e.1 1)
      | (s, .at_ pa) =>
        let s := findErrors s pa sz 4 r.ecx
        if poisonedAt s pa sz then .fault s (trapAt .poison (e.1 / 16 * 16))
        else if !(mget [] s.resvQ (pa / 8 * 8)).isEmpty || ringBlocked s pa then .wait s
        else
          let old := rdN s.mem pa sz
          let s := landPiece s c pa ((leBytes sz (vamoNew op ty old (rdN s.mem (dpa + sz * i) sz))).map fun b => (b, false))
          let s := if op = 5 then s
            else landWrite s { pa := dpa + sz * i, bytes := (leBytes sz old).map (fun b => (b, false)), src := (c, 0, r.seq), bar := none }
          let clear (p : BitVec 256) : BitVec 256 := p &&& ~~~(BitVec.ofNat 256 ((2 ^ sz - 1) * 2 ^ (sz * i)))
          let s := if ownerHere s c r then setPred s c r.slot (clear (predOf s c r.slot)) else s
          .ok (updRec s c 0 r.seq fun r => { r with p := clear r.p })

/-- The remaining lanes in ascending order, until one faults or waits. -/
def vamoLanes (s : State) (c : Nat) (r : Rec) : List Nat → LaneStep
  | [] => .ok s
  | i :: is => match vamoLane s c r i with
    | .ok s => vamoLanes s c r is
    | l => l

/-! ## Start and completion (R192, R194, R196) -/

/-- The oldest pending record of a core's coach queue, when it may start (R178, R194, R196). -/
def coachHead (s : State) (c : Nat) : Option Rec :=
  let l := (core s c).coachQ
  if (core s c).hardHalt || l.any (fun r => r.st == 3) then none else l.find? (fun r => r.st == 0)

/-- VECTOR_COMMAND_START: a free pipe is granted to core `c`, the next in turn whose eligible head is a vector command. A VMEM command
that waits for a lane (its bset) holds no pipe. -/
def vecStart (s : State) (c : Nat) : State :=
  let q := quadOf c
  let cs := coresOfQuad q
  let head (c : Nat) : Option Rec := match coachHead s c with | some r => if r.isVec then some r else none | none => none
  let busy := (cs.map fun c => ((core s c).coachQ.filter (fun r => r.isVec && r.st == 1 && decide (r.prog < 2) && r.bset.isEmpty)).length).foldl (· + ·) 0
  let last := (quad s q).vlast
  let turn := (List.range 4).map fun k => (last + 1 + k) % 4
  let next := turn.find? fun k => (head (cs.getD k 0)).isSome
  match next, head c with
  | some k, some r =>
    if cs.getD k 0 ≠ c ∨ kindOf c ≠ .compute ∨ 2 ≤ busy then s
    else
      let s := updQuad s q fun v => { v with vlast := k }
      let s := if r.prog = 0 then
          let dst := match (vecOpds r.word r.b.toNat).1 with
            | .dst _ => (vecPlace s c r.part (ea56 r.d) (vecOpds r.word r.b.toNat).1).bind coreOfPa
            | _ => none
          let s := if r.major = 0x36 then chargeRec s c r q 12 (256 / vsize (r.fn % 8)) else chargeRec s c r q (vecFare r) 1
          if dst.isSome && dst != some c then chargeRec s c r q 13 1 else s
        else s
      updRec s c 0 r.seq fun r => { r with st := 1, active := true, prog := 1 }
  | _, _ => s

/-- A vector record faults; commands behind it that had started go back to pending (R196). -/
def vecFault (s : State) (c : Nat) (r : Rec) (t : TrapInfo) : State :=
  let s := faultRec (tableFound s c r.part t) c 0 r t
  setEngQ s c 0 ((core s c).coachQ.map fun q =>
    if q.isVec && q.st == 1 && decide (q.prog < 2) && q.seq != r.seq then { q with st := 0, active := false } else q)

/-- The writes of a record have been made: it is done once the last has landed, and its flags are set then (R47, R180). -/
def vecSettle (s : State) (c : Nat) (r : Rec) (f : Nat := 0) : State :=
  if writesOut s c 0 r.seq then updRec s c 0 r.seq fun r => { r with prog := 2, xq := [f] } else vecDone s c r f

/-- A gather or an atomic command of an escorted copy: its addresses may leave the core, and the copies act together (R387). -/
def together (s : State) (c : Nat) (r : Rec) : Bool := (slot s c r.slot).pair && r.major == 0x36 && r.fn / 8 != 1
/-- It goes to the common router with its captured operands, its offsets and its data. -/
def escCommand (s : State) (c : Nat) (r : Rec) : State :=
  let v (a : Word) (n : Nat) : List Byte := (vecBytes s c r.part (ea56 a) (.src n 16) n).flatMap fun e => [e.1, if e.2 then 1 else 0]
  escSend s c r.slot 9 (BitVec.ofNat 64 (ea56 r.a)) (leBytes 4 r.word ++ leBytes 8 r.d.toNat ++ leBytes 8 r.a.toNat
    ++ leBytes 32 r.p.toNat ++ v r.b 256 ++ if r.fn / 8 = 0 then [] else v r.d 256) (.command r.seq)

/-- A VMEM command whose page is not cached holds its progress while the page is walked (R331); else it faults. -/
def vecStop (s : State) (c : Nat) (r : Rec) (t : TrapInfo) : State :=
  if isMiss t then (engineAsk s c r.part t.addr.toNat).getD s else vecFault s c r t

/-- An active vector command can do nothing now: writes of it have not landed, or its next lane waits behind a reservation or a complete
stage. -/
def vecWaits (s : State) (c : Nat) (r : Rec) : Bool :=
  if r.prog = 2 then writesOut s c 0 r.seq
  else r.major == 0x36 && decide (2 ≤ r.fn / 8) && (match (lanesOf r).head?.bind fun i => laneTarget s c r.part (laneAddr s c r i).1 with
    | some pa => !(mget [] s.resvQ (pa / 8 * 8)).isEmpty || ringBlocked s pa
    | none => false)

/-- The active vector command of core `c` that goes on: the oldest, or while it waits the oldest of another traveller that does not, since
commands of different travellers are not ordered (R192). -/
def vecNext (s : State) (c : Nat) : Option Rec :=
  let l := (core s c).coachQ.filter fun r => r.isVec && r.st == 1
  match l with
  | [] => none
  | r :: _ => if vecWaits s c r then
      some ((l.find? fun q => (l.find? fun e => e.slot == q.slot && e.tid == q.tid) == some q && !vecWaits s c q).getD r)
    else some r

/-- The active vector command of core `c` whose turn it is takes effect (R192) and completes, or faults. -/
def vecRun (s : State) (c : Nat) : State :=
  match vecNext s c with
  | none => s
  | some r =>
    if r.prog = 2 then (if writesOut s c 0 r.seq then s else vecDone s c r (r.xq.headD 0))
    else if r.major = 0x36 then
      match r.fn / 8 with
      | 0 =>
        match vgather (vecFind s c r) c r, vecPlace s c r.part (ea56 r.d) (.here 256) with
        | (s, .error t), _ => vecStop s c r t
        | (s, .ok o), some pa => vecSettle (vecLand s c r pa o.bytes) c r
        | (s, .ok _), none => vecFault s c r (trapAt .bounds (ea56 r.d))
      | 1 =>
        match vscatter (vecFind s c r) c r with
        | (s, .error t) => vecStop s c r t
        | (s, .ok l) => vecSettle (l.foldl (fun s e => vecWrite s { pa := e.1, bytes := e.2, src := (c, 0, r.seq), bar := none }) s) c r
      | _ =>
        match vamoLanes (vecFind s c r) c r (lanesOf r) with
        | .ok s => vecSettle s c r
        | .wait s => updRec s c 0 r.seq fun r => { r with bset := [1] }
        | .fault s t => vecStop s c r t
    else
      let s := vecFind s c r
      let o := vecResult s c r
      match vecPlace s c r.part (ea56 r.d) (vecOpds r.word r.b.toNat).1 with
      | none => vecFault s c r (trapAt .bounds (ea56 r.d))
      | some pa =>
        match windowFault s c pa (ea56 r.d) o.bytes with
        | some t => vecFault s c r t
        | none => vecSettle (vecLand s c r pa o.bytes) c r o.flags

/-- VECTOR_COMMAND_COMPLETE. A command that the two copies run together waits to be compared; then the primary's completes
both, the twin's with its effect on its own core only. -/
def vecComplete (s : State) (c : Nat) : State :=
  match vecNext s c with
  | none => s
  | some r =>
    if r.prog = 2 ∨ together s c r = false then vecRun s c
    else if !r.matched then escCommand s c r
    else if (slot s c r.slot).twin then s
    else match partnerOf s c r.slot with
      | some (d, _) => vecRun (keepOwn s (vecRun s d) d) c
      | none => vecRun s c

end Sys2Proof.Machine
end

