-- ==== Sys2Proof/Machine/Matrix.lean ====
section
/-! DEFINITION. Matrix work (chapter 10): banks and handles (R219 to R223), operands (R224 to R227), the summation rule
(R39 to R44), the COACH instructions (R234 to R242), commands in the coach, faults (R243, R244) and fares (R247). -/

namespace Sys2Proof.Machine

/-! ## Banks and handles -/

structure Handle where
  bank : Nat
  nb : Nat
deriving DecidableEq, Repr

/-- The handle a value encodes, when it is valid for the traveller (R220). -/
def handleOf (s : State) (c sl : Nat) (v : Nat) : Option Handle :=
  let h : Handle := { bank := v % 128, nb := v / 256 % 128 }
  if v / 2 ^ 15 = 0 ∧ v / 128 % 2 = 0 ∧ 1 ≤ h.nb ∧ h.nb ≤ 64 ∧ h.bank + h.nb ≤ 128
      ∧ (List.range h.nb).all (fun i => lookup (quad s (quadOf c)).holders (h.bank + i) == some (c, sl, tidOf s c sl)) = true
  then some h else none

def Handle.meets (h k : Handle) : Bool := overlaps h.bank h.nb k.bank k.nb
/-- The run a handle value names, whoever holds it. -/
def runOf (v : Nat) : Handle := { bank := v % 128, nb := v / 256 % 128 }

/-- Key of byte `o` of a bank run in the accumulator memory. -/
def accKey (q bank o : Nat) : Nat := q * 2 ^ 18 + bank * 2048 + o
def accRd (s : State) (q bank o n : Nat) : Nat := rdN s.accMem (accKey q bank o) n
def accWr (s : State) (q bank o n v : Nat) : State := { s with accMem := wrN s.accMem (accKey q bank o) n v }
/-- OR flags into the status of the bank that holds region offset `o` (R222). -/
def bankFlags (s : State) (q bank o f : Nat) : State :=
  if f = 0 then s
  else updQuad s q fun k =>
    { k with bankStatus := mput 0 k.bankStatus (bank + o / 2048) (mget 0 k.bankStatus (bank + o / 2048) ||| BitVec.ofNat 8 f) }

/-- Zero the elements and the status of a run of banks (R235, R237). -/
def zeroBanks (s : State) (q : Nat) (h : Handle) : State :=
  let lo := accKey q h.bank 0
  let hi := lo + h.nb * 2048
  updQuad { s with accMem := s.accMem.filter fun e => !(lo ≤ e.1 && e.1 < hi) } q fun k =>
    { k with bankStatus := k.bankStatus.filter fun e => !(h.bank ≤ e.1 && e.1 < h.bank + h.nb) }

/-- Free every bank of a run; HOLD falls by their number (R236). -/
def freeBanks (s : State) (c sl : Nat) (h : Handle) : State :=
  let s := updQuad s (quadOf c) fun k =>
    { k with holders := k.holders.filter fun e => !(h.bank ≤ e.1 && e.1 < h.bank + h.nb) }
  wsWr s c sl 0xFD 1 (holdOf s c sl - h.nb)

/-- Every bank a traveller holds is freed and HOLD is 0 (R223). -/
def freeAllBanks (s : State) (c sl : Nat) : State :=
  let s := updQuad s (quadOf c) fun k => { k with holders := k.holders.filter fun e => e.2 != (c, sl, tidOf s c sl) }
  wsWr s c sl 0xFD 1 0

/-! ## Operands (R224 to R227) -/

def sub (n : Nat) : TrapInfo := { cause := .engine, addr := BitVec.ofNat 64 n }

/-- A descriptor (R224). -/
structure Desc where
  addr : Nat
  stride : Nat
  fmt : Nat
  tr : Bool
  rf : Bool
  ring : Nat
  rsvd : Bool
deriving DecidableEq, Repr

def descOf (bs : List Byte) : Desc :=
  let v := leNat bs
  { addr := v % 2 ^ 56, stride := bitsOf v 95 64, fmt := bitsOf v 100 96, tr := bitsOf v 104 104 == 1, rf := bitsOf v 105 105 == 1,
    ring := bitsOf v 110 108, rsvd := bitsOf v 103 101 != 0 || bitsOf v 107 106 != 0 || bitsOf v 127 111 != 0 }

/-- Formats by coach code: width in bits (R26, R28, R30). -/
def cfWidth (k : Nat) : Nat := match k with
  | 0 => 64 | 1 => 32 | 2 => 16 | 3 => 16 | 4 => 8 | 5 => 8 | 6 => 6 | 7 => 6 | 8 => 4 | 9 => 8 | 10 => 8 | 11 => 6 | 12 => 6
  | 13 => 4 | 14 => 8 | 15 => 16 | 16 => 16 | 17 => 8 | 18 => 8 | 19 => 4 | 20 => 4 | 21 => 2 | 22 => 2 | _ => 1
def cfMx (k : Nat) : Bool := decide (9 ≤ k) && decide (k ≤ 14)
/-- The format is of the integer class. -/
def cfInt (k : Nat) : Bool := decide (15 ≤ k)
/-- MAC fare class of a format (R231, R360). -/
def cfFare (k : Nat) : Nat := match k with
  | 0 => 15 | 1 => 16 | 15 => 17 | 16 => 17 | 2 => 18 | 3 => 18 | 8 => 20 | 13 => 20 | 19 => 20 | 20 => 20 | 21 => 21 | 22 => 21
  | 23 => 21 | _ => 19

/-- The value of a float element code (R26, R30). -/
def cfVal (k code : Nat) : FVal := match k with
  | 0 => fp64.val code | 1 => fp32.val code | 2 => bf16.val code | 3 => fp16.val code | 4 => e4m3.val code | 5 => e5m2.val code
  | 6 => e3m2.val code | 7 => e2m3.val code | 8 => e2m1.val code | _ => (mxOf k).val code
/-- The value of an integer element code (R28). -/
def cfNum (k code : Nat) : Int := match k with
  | 15 => sgn 16 code | 17 => sgn 8 code | 19 => sgn 4 code | 21 => sgn 2 code
  | 23 => if code = 0 then 1 else -1
  | _ => (code : Int)

/-- An operand: `rows` is M of A, or N of B (R225). -/
structure Operand where
  d : Desc
  rows : Nat
  k : Nat
deriving DecidableEq, Repr

def Operand.kp (o : Operand) : Nat := (o.k + 31) / 32 * 32
def Operand.lines (o : Operand) : Nat := if o.d.tr then o.k else o.rows
def Operand.len (o : Operand) : Nat :=
  ((if o.d.tr then o.rows else if cfMx o.d.fmt then o.kp else o.k) * cfWidth o.d.fmt + 7) / 8
    + (if cfMx o.d.fmt then o.kp / 32 else 0)
def Operand.span (o : Operand) : Nat := (o.lines - 1) * o.d.stride + o.len

/-- Line l of an operand whose line 0 is at physical address `pa`. -/
def lineBytes (s : State) (o : Operand) (pa l : Nat) : List (Byte × Bool) := bytesAt s (pa + l * o.d.stride) o.len

/-- The element code of row r (of C's rows or columns) at depth k (R225). -/
def opCode (o : Operand) (ls : List Nat) (r k : Nat) : Nat :=
  let w := cfWidth o.d.fmt
  if o.d.tr then ls.getD k 0 / 2 ^ (w * r) % 2 ^ w else ls.getD r 0 / 2 ^ (w * k) % 2 ^ w
/-- The scale byte of block j of row r (R31). -/
def opScale (o : Operand) (ls : List Nat) (r j : Nat) : Nat :=
  ls.getD r 0 / 2 ^ (8 * (o.kp * cfWidth o.d.fmt / 8 + j)) % 256

/-! ## The summation rule (R39 to R41) -/

/-- Infinities of both signs meet in a running sum before it is a NaN: it holds `sum`, an infinity or nothing (R39, R40). -/
def infsMeet : List FVal → Option Bool → Bool
  | [], _ => false
  | .nan _ :: _, _ => false
  | .inf n :: ts, sum => (match sum with
    | some m => m != n || infsMeet ts (some n)
    | none => infsMeet ts (some n))
  | _ :: ts, sum => infsMeet ts sum

/-- One block of the float rule: the products of its 32 elements, the scales (none for a format that is not MX), and the
accumulator (R39, R40). -/
def macBlock (f : Fmt) (ps : List (FVal × FVal)) (scales : List Nat) (acc : Nat) : FRes :=
  let terms := ps.map fun p => (mulV p.1 p.2).getD (.nan true)
  let s := sumV false terms
  let nv := if terms.any FVal.isSnan || infsMeet terms none then flagNV else 0
  let s := if scales.contains 0xFF then .nan false else (s.getD (.nan false))
  let s := scales.foldl (fun v e => v.shift ((e : Int) - 127)) s
  if s.isNan || (f.val acc).isNan then { bits := f.nanBits, flags := nv }
  else let r := faddV f .rne (f.val acc) s
       { r with flags := r.flags ||| nv }

/-- The new accumulator of element (m, n) (R39, R41). -/
def macFloat (f : Fmt) (a b : Operand) (la lb : List Nat) (m n : Nat) : Nat → Nat → FRes → FRes
  | 0, _, acc => acc
  | i + 1, j, acc =>
    let ps := (List.range 32).map fun t =>
      let k := 32 * j + t
      if k < a.k then (cfVal a.d.fmt (opCode a la m k), cfVal b.d.fmt (opCode b lb n k)) else (.zero false, .zero false)
    let sc := (if cfMx a.d.fmt then [opScale a la m j] else []) ++ (if cfMx b.d.fmt then [opScale b lb n j] else [])
    let r := macBlock f ps sc acc.bits
    macFloat f a b la lb m n i (j + 1) { bits := r.bits, flags := acc.flags ||| r.flags }

def macInt (a b : Operand) (la lb : List Nat) (m n : Nat) : Nat → Nat → Int × Nat → Int × Nat
  | 0, _, acc => acc
  | i + 1, j, acc =>
    let s := (List.range 32).foldl (fun s t =>
      let k := 32 * j + t
      if k < a.k then s + cfNum a.d.fmt (opCode a la m k) * cfNum b.d.fmt (opCode b lb n k) else s) (0 : Int)
    let r := clampTo (-(2 ^ 31)) (2 ^ 31 - 1) (acc.1 + s)
    macInt a b la lb m n i (j + 1) (r.1, acc.2 ||| r.2)

def macElem (a b : Operand) (la lb : List Nat) (m n old : Nat) : FRes :=
  if cfInt a.d.fmt then
    let r := macInt a b la lb m n (a.kp / 32) 0 (sgn 32 old, 0)
    { bits := wrapTo 32 r.1, flags := r.2 }
  else macFloat (if a.d.fmt = 0 then fp64 else fp32) a b la lb m n (a.kp / 32) 0 { bits := old }

/-! ## Issue checks -/

/-- A resolved extent: 0 takes the traveller's extent (R229). -/
def extent (x : Ctx) (s : State) (v r : Nat) : Nat := if v = 0 then (regValue s x.c x.sl r).toNat else v

/-- The place of a fixed operand's span: one region of this core's SRAM (R226). -/
def spanPlace (s : State) (c va n : Nat) : Option Nat := vecPlace s c ((core s c).part) va (.src n 1)

/-- The first trap of a list of checks. -/
def firstTrap (l : List (Bool × TrapInfo)) : Option TrapInfo := (l.find? (·.1)).map (·.2)

/-- Accumulator element size by type (R221). DESIGN CHOICE (assumption 71): the codes that R240 leaves to ILLCOMB count as 4 bytes in the
check of SHAPE, which comes first (R233). -/
def atSize (t : Nat) : Nat := if t = 1 then 8 else 4

/-- The accumulator type of a pair of formats (R221). -/
def pairType (a b : Nat) : Nat := if a = 0 ∧ b = 0 then 1 else if cfInt a ∧ cfInt b then 2 else 0

/-- A COACH instruction (R234). -/
def coach (fn : Nat) (w : BitVec 3) (d a b : BitVec 5) (reads : List Nat) (legal rounds : Bool) (fare : Nat) (s : State)
    (f : Nat → Ctx → State → Act) : Result :=
  let word := word3 (0x1C000000 + fn) w d a b
  issue { word := word, legal := legal, rounds := rounds, reads := reads, sync := reads, fare := fare } s (f word)

/-- MACQ (R235). -/
def execMacq (w : BitVec 3) (d a : BitVec 5) (s : State) : Result :=
  coach 0 w d a 0 [rn a] (destOk d) false 0 s fun _ x s =>
    let n := (x.rd s (rn a)).toNat
    let q := quadOf x.c
    if n = 0 ∨ 64 < n then .trap (sub 7)
    else
      let free (i : Nat) : Bool := (lookup (quad s q).holders i).isNone
      match (List.range (129 - n)).find? (fun b => (List.range n).all (fun i => free (b + i))) with
      | none => .next (x.wr s (rn d) 0)
      | some b =>
        let s := zeroBanks s q { bank := b, nb := n }
        let me := (x.c, x.sl, tidOf s x.c x.sl)
        let s := updQuad s q fun k => { k with holders := (List.range n).foldl (fun m i => insertAt m (b + i) me) k.holders }
        let s := wsWr s x.c x.sl 0xFD 1 (holdOf s x.c x.sl + n)
        .next (x.wr s (rn d) (BitVec.ofNat 64 (b + n * 256)))

/-- A matrix record of the traveller names a bank of the run and is pending or active. -/
def bankBusy (s : State) (c sl : Nat) (h : Handle) : Bool :=
  (recsOf s c sl).any fun r => r.path == 2 && (r.st == 0 || r.st == 1) &&
    (h.meets (runOf r.d.toNat) || (r.fn == 8 && h.meets (runOf r.a.toNat)))

/-- A valid handle whose commands have completed, else NOTHELD or a wait (R236, R242). -/
def idleHandle (x : Ctx) (s : State) (v : Nat) (k : Handle → Act) : Act :=
  match handleOf s x.c x.sl v with
  | none => .trap (sub 1)
  | some h => if bankBusy s x.c x.sl h then .park 4 (.banks v) s else k h

/-- MREL (R236). -/
def execMrel (w : BitVec 3) (d : BitVec 5) (s : State) : Result :=
  coach 1 w d 0 0 [rn d] true false 0 s fun _ x s =>
    idleHandle x s (x.rd s (rn d)).toNat fun h => .next (freeBanks s x.c x.sl h)

/-- MSTAT (R242). -/
def execMstat (w : BitVec 3) (d a b : BitVec 5) (s : State) : Result :=
  coach 9 w d a b [rn a, rn b] (destOk d) false 0 s fun _ x s =>
    idleHandle x s (x.rd s (rn a)).toNat fun h =>
      let q := quadOf x.c
      let st (i : Nat) : Byte := mget 0 (quad s q).bankStatus (h.bank + i)
      let v := (List.range h.nb).foldl (fun v i => v ||| st i) (0 : Byte)
      let keep : Byte := ~~~(BitVec.ofNat 8 ((x.rd s (rn b)).toNat % 64))
      let s := updQuad s q fun k =>
        { k with bankStatus := (List.range h.nb).foldl (fun m i => mput 0 m (h.bank + i) (st i &&& keep)) k.bankStatus }
      .next (x.wr s (rn d) (v.zeroExtend 64))

/-- MSYNC (R241). -/
def execMsync (w : BitVec 3) (s : State) : Result :=
  coach 7 w 0 0 0 [] true false 0 s fun _ x s => if pathBusy s x.c x.sl 2 then .park 4 .matDone s else .next s

/-- MZERO (R237). -/
def execMzero (w : BitVec 3) (d : BitVec 5) (s : State) : Result :=
  coach 4 w d 0 0 [rn d] true true 99 s fun word x s =>
    let v := x.rd s (rn d)
    match handleOf s x.c x.sl v.toNat with
    | none => .trap (sub 1)
    | some _ => enqueueRec x s 0 (newRec x s word v 0 0)

/-- The placement of an operand's span (R226, R227), DEDUCED (assumption 71): an operand without lines or with an empty span has no
byte to place, and of a format code that names no format no span is known. DESIGN CHOICE (assumption 71): TADDR of a ring-fed operand's
BOUNDS is its descriptor's ADDR field. -/
def descBounds (s : State) (c : Nat) (o : Operand) : Option TrapInfo :=
  if o.lines = 0 ∨ o.span = 0 ∨ 24 ≤ o.d.fmt then none
  else if o.d.rf then
    (if (ring s c o.d.ring).init && decide ((ring s c o.d.ring).ssize < o.span) then some (trapAt .bounds o.d.addr) else none)
  else if (spanPlace s c o.d.addr o.span).isNone then some (trapAt .bounds o.d.addr) else none
def descBad (o : Operand) : Bool :=
  o.d.rsvd || decide (24 ≤ o.d.fmt) || (!o.d.rf && o.d.ring != 0) || (o.d.tr && cfMx o.d.fmt)
def descMisaligned (o : Operand) : Bool := (!o.d.rf && o.d.addr % 16 != 0) || o.d.stride % 16 != 0

/-- The receivers of a rotation (R239); none when the traveller is off its place in the group's rectangle. A twin has its own
coordinates, half the grid away (R386). -/
def rotation (s : State) (c sl : Nat) : Option (Nat × Nat) :=
  let h := (slot s c sl).hdr
  match (if h.lcube = cubeId s then lookup (part s h.part).rects h.lslot else none) with
  | none => none
  | some (X, Y, W, H) =>
    let lc := (regValue s c sl 29).toNat
    let cx := lc % 65536
    let cy := lc / 65536
    let col (k : Nat) : Nat := if (slot s c sl).twin then (X + k + 32) % 64 else X + k
    if W = 0 ∨ H = 0 ∨ c ≠ (Y + cy) * 64 + col cx then none
    else some ((Y + cy) * 64 + col ((cx + W - 1) % W), (Y + (cy + H - 1) % H) * 64 + col cx)

/-- MMA and MMR (R228 to R230, R238, R239); `rot` for MMR. DESIGN CHOICE (assumption 71): AW and BN need no alignment. -/
def mmaBody (rot : Bool) (d a b : BitVec 5) (word : Nat) (x : Ctx) (s : State) : Act :=
  let hv := x.rd s (rn d)
  let va := ea56 (x.rd s (rn a))
  let rb := (x.rd s (rn b)).toNat
  let M := extent x s (rb % 256) 26
  let N := extent x s (rb / 256 % 256) 27
  let K := extent x s (bitsOf rb 27 16) 28
  let bytes := if rot then 64 else 32
  if bitsOf rb 30 28 ≠ 0 ∨ (if rot then bitsOf rb 39 38 ≠ 0 ∨ bitsOf rb 63 46 ≠ 0 else bitsOf rb 63 32 ≠ 0) then
    .trap { cause := .illegal, addr := BitVec.ofNat 64 word }
  else if va % 16 ≠ 0 then .trap (trapAt .align va)
  else match localPlace x s va bytes with
    | none => .trap (trapAt .bounds va)
    | some pa => readLocal x s pa bytes va fun s bs =>
      let A : Operand := { d := descOf (bs.take 16), rows := M, k := K }
      let B : Operand := { d := descOf ((bs.drop 16).take 16), rows := N, k := K }
      let aw := leNat ((bs.drop 32).take 16)
      let bn := leNat ((bs.drop 48).take 16)
      if descMisaligned A then .trap (trapAt .align va)
      else if descMisaligned B then .trap (trapAt .align (va + 16))
      else match [descBounds s x.c A, descBounds s x.c B].findSome? id with
        | some t => .trap t
        | none =>
          let h := handleOf s x.c x.sl hv.toNat
          let e := atSize (pairType A.d.fmt B.d.fmt)
          let early := decide (s.comp = .bringup)
          let rc := rotation s x.c x.sl
          match firstTrap
            [(A.d.rf && !(ring s x.c A.d.ring).init, ringTrap A.d.ring), (B.d.rf && !(ring s x.c B.d.ring).init, ringTrap B.d.ring),
             (h.isNone, sub 1),
             (descBad A || descBad B || (A.d.rf && B.d.rf && A.d.ring == B.d.ring)
               || (rot && (decide (2 ^ 64 ≤ aw) || decide (2 ^ 64 ≤ bn))), sub 2),
             (decide (128 < M) || decide (128 < N) || decide (2048 < K)
               || ((cfMx A.d.fmt || cfMx B.d.fmt) && K % 32 != 0)
               || decide (((h.map (·.nb)).getD 0) * 2048 < e * M * N), sub 3),
             (cfInt A.d.fmt != cfInt B.d.fmt || (A.d.fmt == 0) != (B.d.fmt == 0), sub 4),
             (early && !([1, 2, 3].contains A.d.fmt && [1, 2, 3].contains B.d.fmt), sub 5),
             (rot && rc.isNone, sub 6)] with
          | some t => .trap t
          | none =>
            let rings := (if A.d.rf then [A.d.ring] else []) ++ (if B.d.rf then [B.d.ring] else [])
            let r := { newRec x s word hv (x.rd s (rn a)) (x.rd s (rn b)) with
              mem := bs, rings := rings, bset := [M, N, K, (rc.getD (0, 0)).1, (rc.getD (0, 0)).2] }
            enqueueRec x s 0 r

def execMma (w : BitVec 3) (d a b : BitVec 5) (s : State) : Result :=
  coach 2 w d a b [rn a, rn b, rn d] true true 99 s (mmaBody false d a b)
def execMmr (w : BitVec 3) (d a b : BitVec 5) (s : State) : Result :=
  coach 3 w d a b [rn a, rn b, rn d] true true 99 s (mmaBody true d a b)

/-- Memory formats of R240: element bytes and format (none: INT32). -/
def mfFmt (k : Nat) : Option Fmt := match k with | 0 => some fp32 | 1 => some fp64 | 3 => some bf16 | 4 => some fp16 | _ => none
def mfSize (k : Nat) : Nat := match k with | 1 => 8 | 3 => 2 | 4 => 2 | _ => 4
/-- Valid pairs of accumulator type and memory format (R240). -/
def mfPair (at_ mf : Nat) : Bool := match at_, mf with
  | 0, 0 => true | 0, 3 => true | 0, 4 => true | 1, 1 => true | 1, 0 => true | 2, 2 => true | _, _ => false
/-- Bytes that M rows of N elements of a memory format cover. -/
def mfSpan (mf M N stride : Nat) : Nat := (M - 1) * stride + N * mfSize mf

/-- MLDC and MSTC (R240); `store` for MSTC. An empty span has no place to check, DEDUCED (assumption 71). -/
def moveBody (store : Bool) (d a b : BitVec 5) (word : Nat) (x : Ctx) (s : State) : Act :=
  let hv := x.rd s (rn d)
  let va := ea56 (x.rd s (rn a))
  let rb := (x.rd s (rn b)).toNat
  let M := extent x s (rb % 256) 26
  let N := extent x s (rb / 256 % 256) 27
  let at_ := bitsOf rb 18 16
  let mf := bitsOf rb 23 20
  let stride := rb / 2 ^ 32
  let empty := M = 0 ∨ mfSpan mf M N stride = 0
  let h := handleOf s x.c x.sl hv.toNat
  let opd : Opd := if store then .dst (mfSpan mf M N stride) else .src (mfSpan mf M N stride) 16
  if bitsOf rb 19 19 ≠ 0 ∨ bitsOf rb 31 24 ≠ 0 then .trap { cause := .illegal, addr := BitVec.ofNat 64 word }
  else if va % 16 ≠ 0 then .trap (trapAt .align va)
  else if stride % 16 ≠ 0 then .trap (trapAt .align rb)
  else if ¬ empty ∧ mf < 5 ∧ (vecPlace s x.c (slot s x.c x.sl).hdr.part va opd).isNone then .trap (trapAt .bounds va)
  else match firstTrap
      [(h.isNone, sub 1),
       (decide (128 < M) || decide (128 < N) || decide (((h.map (·.nb)).getD 0) * 2048 < atSize at_ * M * N), sub 3),
       (!mfPair at_ mf, sub 4)] with
    | some t => .trap t
    | none => enqueueRec x s 0 { newRec x s word hv (x.rd s (rn a)) (x.rd s (rn b)) with bset := [M, N] }

def execMldc (w : BitVec 3) (d a b : BitVec 5) (s : State) : Result :=
  coach 5 w d a b [rn a, rn b, rn d] true true 99 s (moveBody false d a b)
def execMstc (w : BitVec 3) (d a b : BitVec 5) (s : State) : Result :=
  coach 6 w d a b [rn a, rn b, rn d] true true 99 s (moveBody true d a b)

/-- MADDC (R240). -/
def execMaddc (w : BitVec 3) (d a b : BitVec 5) (s : State) : Result :=
  coach 8 w d a b [rn a, rn b, rn d] true true 99 s fun word x s =>
    let hv := x.rd s (rn d)
    let sv := x.rd s (rn a)
    let rb := (x.rd s (rn b)).toNat
    let M := extent x s (rb % 256) 26
    let N := extent x s (rb / 256 % 256) 27
    let at_ := bitsOf rb 18 16
    let h := handleOf s x.c x.sl hv.toNat
    let g := handleOf s x.c x.sl sv.toNat
    if rb / 2 ^ 19 ≠ 0 then .trap { cause := .illegal, addr := BitVec.ofNat 64 word }
    else match firstTrap
        [(h.isNone || g.isNone, sub 1),
         (decide (128 < M) || decide (128 < N) || decide (((h.map (·.nb)).getD 0) * 2048 < atSize at_ * M * N)
           || decide (((g.map (·.nb)).getD 0) * 2048 < atSize at_ * M * N), sub 3),
         (decide (3 ≤ at_), sub 4)] with
      | some t => .trap t
      | none => enqueueRec x s 0 { newRec x s word hv sv (x.rd s (rn b)) with bset := [M, N] }

/-! ## Commands in the coach -/

def Rec.isMat (r : Rec) : Bool := r.major == 0x38
def Rec.ext (r : Rec) (i : Nat) : Nat := r.bset.getD i 0

/-- The operands of an MMA or MMR record. -/
def recOps (r : Rec) : Operand × Operand :=
  ({ d := descOf (r.mem.take 16), rows := r.ext 0, k := r.ext 2 }, { d := descOf ((r.mem.drop 16).take 16), rows := r.ext 1, k := r.ext 2 })
/-- A zero-extent command (R229). -/
def Rec.zeroExt (r : Rec) : Bool := match r.fn with
  | 2 => r.ext 0 == 0 || r.ext 1 == 0 || r.ext 2 == 0
  | 3 => r.ext 0 == 0 || r.ext 1 == 0 || r.ext 2 == 0
  | 4 => false
  | _ => r.ext 0 == 0 || r.ext 1 == 0

/-- Each ring the record names holds a complete stage (R180, R227). -/
def ringsReady (s : State) (c : Nat) (r : Rec) : Bool := r.rings.all fun n => decide (1 ≤ (ring s c n).occ)

/-- The context of a record is stranded and its traveller bears it (R366). -/
def recStranded (s : State) (c : Nat) (r : Rec) : Bool := s.stranded.contains r.ecx && (slot s c r.slot).lvl == 0

/-- A core's eligible matrix head (R232). -/
def matHead (s : State) (c : Nat) : Option Rec := match coachHead s c with
  | some r => if r.isMat && ringsReady s c r && !recStranded s c r then some r else none
  | none => none
/-- The core's matrix command in progress. -/
def matActive (s : State) (c : Nat) : Option Rec := (core s c).coachQ.find? fun r => r.isMat && r.st == 1

/-- The fares of a command (R247). -/
def matCharge (s : State) (c : Nat) (r : Rec) : State :=
  let q := quadOf c
  let s := chargeRec s c r q 14 1
  if r.zeroExt then s
  else match r.fn with
    | 4 => chargeRec s c r q 22 (512 * (runOf r.d.toNat).nb)
    | 2 =>
      let (a, b) := recOps r
      chargeRec s c r q (min (cfFare a.d.fmt) (cfFare b.d.fmt)) (r.ext 0 * r.ext 1 * a.kp / 32)
    | 3 =>
      let (a, b) := recOps r
      let s := chargeRec s c r q (min (cfFare a.d.fmt) (cfFare b.d.fmt)) (r.ext 0 * r.ext 1 * a.kp / 32)
      chargeRec s c r q 23 (a.lines * a.len + b.lines * b.len)
    | _ => chargeRec s c r q 22 (r.ext 0 * r.ext 1)

/-- The physical address of line 0: the fixed address, or the stage at CI (R225, R227). -/
def opBase (s : State) (c : Nat) (o : Operand) : Nat :=
  if o.d.rf then
    let k := ring s c o.d.ring
    sramPa c (k.stageOff k.ci)
  else (spanPlace s c o.d.addr o.span).getD (sramPa c 0)

/-- An eligible matrix head is granted: it starts (R232, R359). -/
def matStart (s : State) (c : Nat) (r : Rec) : State :=
  let (a, b) := recOps r
  let base := if (r.fn = 2 ∨ r.fn = 3) ∧ r.zeroExt = false then [opBase s c a, opBase s c b] else []
  updRec (matCharge s c r) c 0 r.seq fun r => { r with st := 1, active := true, prog := 1, xq := base }

/-- MATRIX_GRANT: grants go round from the core after the last granted; those to commands in progress only take their turns, up to the
first eligible head, which starts (R232). -/
def matGrant (s : State) (q : Nat) : State :=
  let c (k : Nat) : Nat := (coresOfQuad q).getD k 0
  let head (k : Nat) : Option Rec := if (matActive s (c k)).isSome then none else matHead s (c k)
  let turn := (List.range 4).map fun k => ((quad s q).mlast + 1 + k) % 4
  let last (k : Nat) : State := updQuad s q fun v => { v with mlast := k }
  match turn.find? (fun k => (head k).isSome) with
  | some k => (match head k with | some r => matStart (last k) (c k) r | none => s)
  | none => (match (turn.filter fun k => (matActive s (c k)).isSome).getLast? with | some k => last k | none => s)

def matFault (s : State) (c : Nat) (r : Rec) (t : TrapInfo) : State := faultRec s c 0 r t fun q => q != 6

/-- The first poisoned granule that the lines of an operand read, by its alias address. -/
def opPoison (s : State) (c : Nat) (o : Operand) (pa : Nat) : Option TrapInfo :=
  (List.range o.lines).findSome? fun l =>
    (granules (pa + l * o.d.stride) o.len).findSome? fun g =>
      if s.poison.contains g then some (trapAt .poison (aliasBase c + (g * 16 - sramBase c))) else none

/-- The new elements of a tile, from its first, with their flags (R221, R222). -/
def landTile (s : State) (c : Nat) (r : Rec) (vs : List FRes) : State :=
  let (a, b) := recOps r
  let e := atSize (pairType a.d.fmt b.d.fmt)
  let q := quadOf c
  let bank := (runOf r.d.toNat).bank
  (vs.foldl (fun (p : State × Nat) v => (bankFlags (accWr p.1 q bank (e * p.2) e v.bits) q bank (e * p.2) v.flags, p.2 + 1)) (s, 0)).1

/-- The product of an MMA or MMR (R238): the new elements of its tile and their flags, or the fault. -/
def product (s : State) (c : Nat) (r : Rec) : Except TrapInfo (List FRes) :=
  let (a, b) := recOps r
  let pa := r.xq.getD 0 0
  let pb := r.xq.getD 1 0
  match [opPoison s c a pa, opPoison s c b pb].findSome? id with
  | some t => .error t
  | none =>
    let ls (o : Operand) (p : Nat) : List Nat := (List.range o.lines).map fun l => leNat ((lineBytes s o p l).map (·.1))
    let la := ls a pa
    let lb := ls b pb
    let M := r.ext 0
    let N := r.ext 1
    let e := atSize (pairType a.d.fmt b.d.fmt)
    let q := quadOf c
    let bank := (runOf r.d.toNat).bank
    let z := r.b.getLsbD 31
    .ok ((List.range (M * N)).map fun i => macElem a b la lb (i / N) (i % N) (if z then 0 else accRd s q bank (e * i) e))

/-- The offset a rotation destination names at its receiver. -/
def rotOff (addr : Nat) : Nat := addr - 0x00FFFFFFFFFC0000
/-- The span lies in the data and ring regions of the receiver, which is in no hole (R16). -/
def rotFits (s : State) (w addr n : Nat) : Bool :=
  let ok (o : Nat) : Bool := regionOf s w o == .ring || regionOf s w o == .data
  !inHole s w && decide (0x00FFFFFFFFFC0000 ≤ addr) && ok (rotOff addr) && ok (rotOff addr + n - 1)

/-- The rotation writes of one operand (R239). -/
def rotWrites (s : State) (c : Nat) (r : Rec) (o : Operand) (pa w addr : Nat) (bar : Option Nat) : List EngWrite :=
  (List.range o.lines).map fun l =>
    { pa := sramPa w (rotOff addr + l * o.d.stride), bytes := (lineBytes s o pa l).map fun e => (e.1, false), src := (c, 0, r.seq),
      bar := bar, rot := true }

/-- An element kept in the record of an MMR whose rotation is under way, and back: its bits below 2 ^ 64, its flags above. -/
def keepRes (v : FRes) : Nat := v.bits + 2 ^ 64 * v.flags
def keptRes (n : Nat) : FRes := { bits := n % 2 ^ 64, flags := n / 2 ^ 64 }

/-- An MMA or MMR runs (R238, R239). The tile of an MMR changes when the command completes: until then its banks hold what they
held when it started, the shadow (R246). -/
def runProduct (s : State) (c : Nat) (r : Rec) : State :=
  if r.zeroExt then doneRec s c 0 r r.rings
  else
    let (a, b) := recOps r
    let s := (List.range a.lines).foldl (fun s l => findErrors s (r.xq.getD 0 0 + l * a.d.stride) a.len 4 r.ecx) s
    let s := (List.range b.lines).foldl (fun s l => findErrors s (r.xq.getD 1 0 + l * b.d.stride) b.len 4 r.ecx) s
    match product s c r with
    | .error t => matFault s c r t
    | .ok vs =>
      if r.fn = 2 then doneRec (landTile s c r vs) c 0 r r.rings
      else
        let aw := leNat ((r.mem.drop 32).take 8) % 2 ^ 56
        let bn := leNat ((r.mem.drop 48).take 8) % 2 ^ 56
        let west := r.ext 3
        let north := r.ext 4
        let rb := r.b.toNat
        match firstTrap
          [(!rotFits s west aw a.span, trapAt .bounds aw), (!rotFits s north bn b.span, trapAt .bounds bn),
           ((core s west).isSealed, trapAt .sealed aw 1), ((core s north).isSealed, trapAt .sealed bn 1)] with
        | some t => matFault s c r t
        | none =>
          let ws := rotWrites s c r a (r.xq.getD 0 0) west aw (if rb.testBit 37 then some (bitsOf rb 36 32) else none)
            ++ rotWrites s c r b (r.xq.getD 1 0) north bn (if rb.testBit 45 then some (bitsOf rb 44 40) else none)
          let s := r.rings.foldl (fun s n => ringPop s c n) { s with engWrites := s.engWrites ++ ws }
          updRec s c 0 r.seq fun r => { r with prog := 2, xq := r.xq ++ vs.map keepRes }

/-- MLDC (R240). -/
def runLoad (s : State) (c : Nat) (r : Rec) : State :=
  let rb := r.b.toNat
  let M := r.ext 0
  let N := r.ext 1
  let at_ := bitsOf rb 18 16
  let mf := bitsOf rb 23 20
  let stride := rb / 2 ^ 32
  let sz := mfSize mf
  let e := atSize at_
  let q := quadOf c
  let bank := (runOf r.d.toNat).bank
  match (if r.zeroExt then some 0 else vecPlace s c r.part (ea56 r.a) (.src (mfSpan mf M N stride) 16)) with
  | none => matFault s c r (trapAt .bounds (ea56 r.a))
  | some pa =>
    let s := (List.range M).foldl (fun s m => findErrors s (pa + m * stride) (N * sz) 4 r.ecx) s
    match (List.range M).findSome? (fun m => poisonIn s (pa + m * stride) (N * sz) (ea56 r.a + m * stride)) with
    | some t => matFault s c r t
    | none =>
      let s := (List.range (M * N)).foldl (fun s' i =>
        let v := rdN s.mem (pa + i / N * stride + i % N * sz) sz
        let w : FRes := match mfFmt mf with
          | some f => fcvt f (if at_ = 1 then fp64 else fp32) v false .rne
          | none => { bits := v }
        bankFlags (accWr s' q bank (e * i) e w.bits) q bank (e * i) w.flags) s
      doneRec s c 0 r []

/-- Element `i` of the tile that an MSTC stores, converted (R240). -/
def storeElem (s : State) (c : Nat) (r : Rec) (i : Nat) : FRes :=
  let at_ := bitsOf r.b.toNat 18 16
  let v := accRd s (quadOf c) (runOf r.d.toNat).bank (atSize at_ * i) (atSize at_)
  match mfFmt (bitsOf r.b.toNat 23 20) with
  | some f => fcvt (if at_ = 1 then fp64 else fp32) f v (satOf r.frm.toNat) (recRm r i v)
  | none => { bits := v }

/-- The flags of an MSTC go to the status of the banks of its elements, and it is done (R222, R240). -/
def storeDone (s : State) (c : Nat) (r : Rec) : State :=
  let e := atSize (bitsOf r.b.toNat 18 16)
  let s := (List.range (r.ext 0 * r.ext 1)).foldl
    (fun s' i => bankFlags s' (quadOf c) (runOf r.d.toNat).bank (e * i) (storeElem s c r i).flags) s
  doneRec s c 0 r []

/-- MSTC (R240). -/
def runStore (s : State) (c : Nat) (r : Rec) : State :=
  let rb := r.b.toNat
  let M := r.ext 0
  let N := r.ext 1
  let mf := bitsOf rb 23 20
  let stride := rb / 2 ^ 32
  let sz := mfSize mf
  let elem := storeElem s c r
  if r.zeroExt then doneRec s c 0 r []
  else match vecPlace s c r.part (ea56 r.a) (.dst (mfSpan mf M N stride)) with
    | none => matFault s c r (trapAt .bounds (ea56 r.a))
    | some pa =>
      let row (m : Nat) : List (Nat × Byte × Bool) := (List.range N).flatMap fun n =>
        (List.range sz).map fun j => (m * stride + n * sz + j, BitVec.ofNat 8 ((elem (m * N + n)).bits / 256 ^ j), false)
      let bs := (List.range M).flatMap row
      match windowFault s c pa (ea56 r.a) bs with
      | some t => matFault s c r t
      | none =>
        let s' := (List.range M).foldl (fun s m => vecLand s c r pa (row m)) s
        if writesOut s' c 0 r.seq then updRec s' c 0 r.seq fun r => { r with prog := 2 } else storeDone s' c r

/-- MADDC (R240): every source element is read before any is written. -/
def runAdd (s : State) (c : Nat) (r : Rec) : State :=
  let at_ := bitsOf r.b.toNat 18 16
  let e := atSize at_
  let q := quadOf c
  let bd := (runOf r.d.toNat).bank
  let ba := (runOf r.a.toNat).bank
  let s' := if r.zeroExt then s else (List.range (r.ext 0 * r.ext 1)).foldl (fun s' i =>
    let x := accRd s q bd (e * i) e
    let y := accRd s q ba (e * i) e
    let f := if at_ = 1 then fp64 else fp32
    let v : FRes :=
      if at_ = 2 then
        let t := clampTo (-(2 ^ 31)) (2 ^ 31 - 1) (sgn 32 x + sgn 32 y)
        { bits := wrapTo 32 t.1, flags := t.2 }
      else if (f.val x).isNan || (f.val y).isNan then
        { bits := f.nanBits, flags := if (f.val x).isSnan || (f.val y).isSnan then flagNV else 0 }
      else faddV f .rne (f.val x) (f.val y)
    bankFlags (accWr s' q bd (e * i) e v.bits) q bd (e * i) v.flags) s
  doneRec s' c 0 r []

/-- The writes of an MMR or an MSTC have landed: its tile or its flags change, and it is done. -/
def outDone (s : State) (c : Nat) (r : Rec) : State :=
  if r.fn = 3 then doneRec (landTile s c r ((r.xq.drop 2).map keptRes)) c 0 r [] else storeDone s c r

/-- MATRIX_COMMAND_COMPLETE: the core's command in progress takes effect, or faults; one whose writes are out is done when
they have landed. -/
def matComplete (s : State) (c : Nat) : State :=
  match matActive s c with
  | none => s
  | some r =>
    if r.prog = 2 then (if writesOut s c 0 r.seq then s else outDone s c r)
    else match r.fn with
      | 2 => runProduct s c r
      | 3 => runProduct s c r
      | 4 => doneRec (zeroBanks s (quadOf c) (runOf r.d.toNat)) c 0 r []
      | 5 => runLoad s c r
      | 6 => runStore s c r
      | _ => runAdd s c r

/-- The n-th element of a list and the rest. -/
def pick {α : Type} (l : List α) (k : Nat) : Option (α × List α) := match l[k]? with
  | some a => some (a, l.take k ++ l.drop (k + 1))
  | none => none

/-- ROTATION_WRITE_APPLY: rotation write `k` reaches its receiver; at a sealed one it is discarded and logged (R239). -/
def rotApply (s : State) (k : Nat) : State :=
  match pick s.engWrites k with
  | some (w, rest) =>
    if !w.rot || w.held then s
    else if mustMatch s w then escWrite s w
    else
      let s := { s with engWrites := rest }
      match coreOfPa w.pa with
      | some d => if (core s d).isSealed then discardWrite s d w else landBoth s w
      | none => s
  | none => s

/-! ## End by the handler (R196, R223) -/

/-- The handler ends the traveller, or restarts it: its active matrix command completes or faults; its records, its loop and
its banks go. -/
def dropCoach (s : State) (c sl : Nat) : State :=
  if kindOf c ≠ .compute then s
  else
    let tid := tidOf s c sl
    let s := match matActive s c with
      | some r => if r.slot = sl ∧ r.tid = tid then matComplete s c else s
      | none => s
    let s := updCore s c fun k =>
      { k with coachQ := k.coachQ.filter (fun r => !(r.slot == sl && r.tid == tid && r.st != 2)),
               seqr := k.seqr.filter (fun q => !(q.slot == sl && q.tid == tid)) }
    freeAllBanks s c sl

end Sys2Proof.Machine
end

