-- ==== Sys2Proof/Machine/Channel.lean ====
section
/-! DEFINITION. Channel cores (chapter 11): the AQ and the XQ, CHA and CHX instructions, stream records and bank commands. -/

namespace Sys2Proof.Machine

/-! ## The AQ and the XQ (R255, R256, R260) -/

/-- BSELs at the head of the AQ take effect (R260). -/
def headBsels (s : State) (c : Nat) : List AqEntry → State
  | .bsel n mask layer :: rest =>
    headBsels (updChan s c fun k => { k with aq := rest, bmask := mput 0 k.bmask n mask, blayer := mput 0 k.blayer n layer }) c rest
  | _ => s
def bselApply (s : State) (c : Nat) : State := headBsels s c (chan s c).aq

/-- The entry of a producers' or consumers' list is still at work: a record that is not done, or a slot parked on `cond`. -/
def turnLive (s : State) (c : Nat) (cond : Cond) (e : Bool × Nat) : Bool :=
  if e.1 then (chan s c).streamQ.any (fun r => r.seq == e.2 && r.st != 2)
  else match (slot s c e.2).wait with
    | some w => decide (w.cond = cond) && (match w.reply with | some (.trap _) => false | _ => true)
    | none => false

/-- It is the turn of `me`: the first of those still at work, or none is. An instruction that starts again has kept its place. -/
def turnOf (s : State) (c : Nat) (cond : Cond) (l : List (Bool × Nat)) (me : Bool × Nat) : Bool :=
  match l.find? fun e => e == me || turnLive s c cond e with
  | some e => e == me
  | none => true
/-- The list with `me` in its place: at the end, when it is not at work yet. -/
def joinTurn (s : State) (c : Nat) (cond : Cond) (l : List (Bool × Nat)) (me : Bool × Nat) : List (Bool × Nat) :=
  let l := l.filter fun e => e == me || turnLive s c cond e
  if l.contains me then l else l ++ [me]

/-- An instruction that did not wait before has no place yet: a place of its slot is one that an earlier instruction gave up. -/
def leaveTurns (s : State) (c sl : Nat) : State :=
  let k := chan s c
  if k.aqProd.contains (false, sl) || k.xqCons.contains (false, sl) then
    updChan s c fun k => { k with aqProd := k.aqProd.erase (false, sl), xqCons := k.xqCons.erase (false, sl) }
  else s

def aqTurn (s : State) (c : Nat) (me : Bool × Nat) : Bool := turnOf s c .aqRoom (chan s c).aqProd me
def xqTurn (s : State) (c : Nat) (me : Bool × Nat) : Bool := turnOf s c .xqData (chan s c).xqCons me
def aqFree (s : State) (c : Nat) : Nat := 64 - (chan s c).aq.length
def xqFree (s : State) (c : Nat) : Nat := 16 - (chan s c).xq.length
/-- The head of the XQ is a delivered entry. -/
def xqHead (s : State) (c : Nat) : Option QEntry := ((chan s c).xq.head?).bind (·.entry)

/-- Enter an entry in the AQ; a BSEL that finds it empty takes effect at once. -/
def aqPush (s : State) (c : Nat) (e : AqEntry) : State := bselApply (updChan s c fun k => { k with aq := k.aq ++ [e] }) c

/-! ## CHA and CHX instructions (R257, R262) -/

/-- A CHA or CHX instruction of base word `m`: poisoned operands trap. -/
def chI (m : Nat) (w : BitVec 3) (d a b : BitVec 5) (reads : List Nat) (legal : Bool) (s : State) (f : Nat → Ctx → State → Act) : Result :=
  let word := word3 m w d a b
  issue { word := word, legal := legal, reads := reads, sync := reads } s (f word)

/-- What a DRAM address of a record or command of channel core `c` homes to (R257): this channel's DRAM, or the trap. -/
def homedHere (s : State) (c p va : Nat) (rd wr : Bool) (now : Bool := false) : Except TrapInfo (State × Nat) :=
  if 0x00FFFEFFFFFFFFFF < va then .error (trapAt .bounds va)
  else match translate s c p va now with
    | .error t => .error t
    | .ok (s, e) => match leafPlace s p va e rd wr with
      | .error t => .error t
      | .ok (.dram pa) => if pa / 2 ^ 35 + 6144 = c then .ok (s, pa) else .error (trapAt .bounds va)
      | .ok _ => .error (trapAt .bounds va)

/-- XLATE and PERM of the first byte of a virtual range at issue (R257 step 4); BOUNDS of it is handed on to step 5. A translation
miss parks. -/
def firstByte (x : Ctx) (s : State) (va : Nat) (rd wr : Bool) (k : State → Option TrapInfo → Act) : Act :=
  let p := (slot s x.c x.sl).hdr.part
  if va ≤ 0x00FFFEFFFFFFFFFF ∧ (tlbFind s x.c p va).isNone then .park 6 (.walk (BitVec.ofNat 64 va)) (askWalk s x.c x.sl p va)
  else match homedHere s x.c p va rd wr with
    | .error t => if t.cause = .bounds then k s (some t) else .trap t
    | .ok (s, _) => k s none

/-- A local operand of `n` bytes, before step 4: its place, or the BOUNDS of step 5; once the overlapping stores have left, its
bytes and, of a poisoned one, the trap that comes last (R114, R257). -/
def localOperand (x : Ctx) (s : State) (va n : Nat) (k : State → List Byte → Option TrapInfo → Act) : Act :=
  match localPlace x s va n with
  | none => k s [] (some (trapAt .bounds va))
  | some pa =>
    if touchesBuffer s x.c x.x pa n then .hold (drainOne s x.c x.x)
    else
      let s := findErrors s pa n 4 (ecxOf s x.c x.sl)
      k s (rdBytes s.mem pa n) (poisonIn s pa n va)

/-- The body, or the trap that stands in its way; what reads of the operands found stays found (R279). -/
def trapOr (s : State) (t : Option TrapInfo) (k : Act) : Act := match t with
  | some t => .trapIn s t
  | none => k

/-- Place a stream record (R256); `prod` and `cons` enter it in the orders of the AQ and the XQ. -/
def streamRec (x : Ctx) (s : State) (r : Rec) (empty prod cons : Bool) : Act :=
  match enqueueRec x s 2 (if empty then { r with st := 2 } else r) with
  | .next s' =>
    let n := engSeq s x.c 2
    .next (if empty then s' else updChan s' x.c fun k =>
      { k with aqProd := if prod then k.aqProd ++ [(true, n)] else k.aqProd, xqCons := if cons then k.xqCons ++ [(true, n)] else k.xqCons })
  | act => act

/-- DRD and DWR (R258). -/
def streamRW (fn : Nat) (w : BitVec 3) (a b : BitVec 5) (s : State) : Result :=
  chI (0x1C800000 + fn) w 0 a b [rn a, rn b] true s fun word x s =>
    let va := ea56 (x.rd s (rn a))
    let v := (x.rd s (rn b)).toNat
    let n := v % 8192
    if 4096 < n ∨ v / 8192 % 8 ≠ 0 ∨ v / 2 ^ 32 ≠ 0 ∨ (fn = 1 ∧ v / 2 ^ 16 ≠ 0) then .trap (illegalAt word)
    else if va % 64 ≠ 0 then .trap (trapAt .align va)
    else firstByte x s va (fn == 0) (fn == 1) fun s t =>
      trapOr s t (streamRec x s (newRec x s word 0 (x.rd s (rn a)) (x.rd s (rn b))) (n == 0) (fn == 0) (fn == 1))

def execDrd (w : BitVec 3) (a b : BitVec 5) (s : State) : Result := streamRW 0 w a b s
def execDwr (w : BitVec 3) (a b : BitVec 5) (s : State) : Result := streamRW 1 w a b s

/-- The core and offset of a WINDOW-space network address, when it names a compute core. -/
def windowTarget (na : Nat) : Option (Nat × Nat × Nat) :=
  let w := na / 2 ^ 28 % 8192
  if na / 2 ^ 53 % 8 = 2 ∧ kindOf w = .compute then some (na / 2 ^ 41 % 4096, w, na % 2 ^ 28) else none

/-- DPUSH (R259). -/
def execDpush (w : BitVec 3) (d a b : BitVec 5) (s : State) : Result :=
  chI 0x1C800002 w d a b [rn a, rn b, rn d] true s fun word x s =>
    let na := ea56 (x.rd s (rn d))
    let va := ea56 (x.rd s (rn a))
    let sa := ea56 (x.rd s (rn b))
    match alignOf [na, va, sa] with
    | some t => .trap t
    | none => localOperand x s sa 16 fun s bs t =>
      let q := shapeOf (leNat bs)
      let bad (f : Bool) (u : TrapInfo) : Option TrapInfo := if t.isNone && f then some u else none
      trapOr s ((bad (shapeBad (leNat bs)) (illegalAt word)).or
          ((bad (q.rowb % 16 != 0) (trapAt .align ((na + q.rowb) % 2 ^ 56))).or
          ((bad (q.sstr % 16 != 0) (trapAt .align (intMod56 (va + q.sstr)))).or (bad (q.dstr % 16 != 0) (trapAt .align (intMod56 (na + q.dstr)))))))
        (firstByte x s va true false fun s far =>
          let here : Option TrapInfo := match windowTarget na with
            | none => some (trapAt .bounds na)
            | some (cube, c', _) => if cube = cubeId s ∧ inPartition s c' (slot s x.c x.sl).hdr.part = false then some (trapAt .bounds na) else none
          trapOr s (far.or (if (t.map (·.cause)) = some .bounds then t else here.or t))
            (streamRec x s { newRec x s word (x.rd s (rn d)) (x.rd s (rn a)) (x.rd s (rn b)) with mem := bs } (q.rowb * q.rows == 0) false false))

/-- DPULL (R259). -/
def execDpull (w : BitVec 3) (d a b : BitVec 5) (s : State) : Result :=
  chI 0x1C800003 w d a b [rn a, rn b, rn d] true s fun word x s =>
    let va := ea56 (x.rd s (rn d))
    let r := (x.rd s (rn a)).toNat
    let n := (x.rd s (rn b)).toNat
    if r / 2 ^ 28 ≠ 0 ∨ n = 0 ∨ 128 < n then .trap (illegalAt word)
    else if va % 16 ≠ 0 then .trap (trapAt .align va)
    else firstByte x s va false true fun s far =>
      let here : Option TrapInfo :=
        if kindOf (r % 8192) ≠ .compute ∨ (r / 8192 % 4096 = cubeId s ∧ inPartition s (r % 8192) (slot s x.c x.sl).hdr.part = false)
        then some { cause := .bounds, addr := BitVec.ofNat 64 r } else none
      trapOr s (far.or here) (streamRec x s (newRec x s word (x.rd s (rn d)) (x.rd s (rn a)) (x.rd s (rn b))) false false false)

/-- DPREF (R260): a hint; its record is done at once. -/
def execDpref (w : BitVec 3) (a b : BitVec 5) (s : State) : Result :=
  chI 0x1C800006 w 0 a b [rn a, rn b] true s fun word x s =>
    streamRec x s (newRec x s word 0 (x.rd s (rn a)) (x.rd s (rn b))) true false false

/-- Sixty-four bytes of local SRAM with their poison, after the stores of the traveller have left and what a read awaits (R114). -/
def read64 (x : Ctx) (s : State) (va : Nat) (k : State → List (Byte × Bool) → Act) : Act :=
  match localPlace x s va 64 with
  | none => .trap (trapAt .bounds va)
  | some pa => match (drainStep s x).or (readStep x s pa 64) with
    | some s' => .hold s'
    | none =>
      let s := findErrors s pa 64 4 (ecxOf s x.c x.sl)
      k s (bytesAt s pa 64)

/-- A place of 64 bytes for an entry: the data or stream region (R260, R263). -/
def entryPlace (x : Ctx) (s : State) (va : Nat) : Option Nat :=
  match localPlace x s va 64 with
  | some pa => if (coreOfPa pa).isSome && (regionOf s x.c (pa - sramPa x.c 0) == .ring || regionOf s x.c (pa - sramPa x.c 0) == .data)
      then some pa else none
  | none => none

/-- The turn of an immediate AQ producer: it waits for its turn and for room, then enters `e` (R256, R260). -/
def produce (x : Ctx) (s : State) (e : AqEntry) : Act :=
  let s := bselApply s x.c
  if aqTurn s x.c (false, x.sl) && 0 < aqFree s x.c then
    .next (aqPush (updChan s x.c fun k => { k with aqProd := k.aqProd.erase (false, x.sl) }) x.c e)
  else .park 3 .aqRoom (updChan s x.c fun k => { k with aqProd := joinTurn s x.c .aqRoom k.aqProd (false, x.sl) })

/-- AQPUT (R260). -/
def execAqput (w : BitVec 3) (a b : BitVec 5) (s : State) : Result :=
  chI 0x1C800004 w 0 a b [rn a, rn b] true s fun word x s =>
    let va := ea56 (x.rd s (rn a))
    let v := (x.rd s (rn b)).toNat
    if v / 2 ^ 16 ≠ 0 then .trap (illegalAt word)
    else if va % 64 ≠ 0 then .trap (trapAt .align va)
    else read64 x s va fun s bs => produce x s (.data { bytes := bs, side := BitVec.ofNat 64 v })

/-- BSEL (R260). -/
def execBsel (w : BitVec 3) (a b : BitVec 5) (s : State) : Result :=
  chI 0x1C800007 w 0 a b [rn a, rn b] true s fun word x s =>
    let n := (x.rd s (rn a)).toNat
    let v := (x.rd s (rn b)).toNat
    if 15 < n ∨ v / 2 ^ 36 ≠ 0 then .trap (illegalAt word)
    else match drainStep s x with
      | some s' => .hold s'
      | none => produce x s (.bsel n (BitVec.ofNat 32 v) (v / 2 ^ 32 % 16))

/-- An entry taken from a queue goes to local SRAM: full bits and poison of its granules (R260, R263). -/
def landEntry (x : Ctx) (s : State) (pa : Nat) (d : Nat) (e : QEntry) : State :=
  x.wr (fillGranules (writeBytes s pa e.bytes) pa 64) d e.side

/-- XQGET (R260). -/
def execXqget (w : BitVec 3) (d a : BitVec 5) (s : State) : Result :=
  chI 0x1C800005 w d a 0 [rn a] (destOk d) s fun _ x s =>
    let va := ea56 (x.rd s (rn a))
    if va % 64 ≠ 0 then .trap (trapAt .align va)
    else match entryPlace x s va, drainStep s x with
      | none, _ => .trap (trapAt .bounds va)
      | some _, some s' => .hold s'
      | some pa, none =>
        match (if xqTurn s x.c (false, x.sl) then xqHead s x.c else none) with
        | some e => .next (landEntry x (updChan s x.c fun k => { k with xq := k.xq.drop 1, xqCons := k.xqCons.erase (false, x.sl) }) pa (rn d) e)
        | none => .park 3 .xqData (updChan s x.c fun k => { k with xqCons := joinTurn s x.c .xqData k.xqCons (false, x.sl) })

/-- AQGET (R263). -/
def execAqget (w : BitVec 3) (d a : BitVec 5) (s : State) : Result :=
  chI 0x1D000000 w d a 0 [rn a] (destOk d) s fun _ x s =>
    let va := ea56 (x.rd s (rn a))
    if va % 64 ≠ 0 then .trap (trapAt .align va)
    else match entryPlace x s va, drainStep s x with
      | none, _ => .trap (trapAt .bounds va)
      | some _, some s' => .hold s'
      | some pa, none =>
        let s := bselApply s x.c
        match (chan s x.c).aq with
        | .data e :: rest => .next (bselApply (landEntry x (updChan s x.c fun k => { k with aq := rest }) pa (rn d) e) x.c)
        | _ => .park 3 .aqData s

/-- XQPUT (R263). -/
def execXqput (w : BitVec 3) (a b : BitVec 5) (s : State) : Result :=
  chI 0x1D000001 w 0 a b [rn a, rn b] true s fun word x s =>
    let va := ea56 (x.rd s (rn a))
    let v := (x.rd s (rn b)).toNat
    if v / 2 ^ 16 ≠ 0 then .trap (illegalAt word)
    else if va % 64 ≠ 0 then .trap (trapAt .align va)
    else read64 x s va fun s bs =>
      if xqFree s x.c = 0 then .park 3 .xqRoom s
      else .next (updChan s x.c fun k =>
        { k with xq := k.xq ++ [{ key := k.xqNext, entry := some { bytes := bs, side := BitVec.ofNat 64 v } }], xqNext := k.xqNext + 1 })

/-! ## Bank commands (R264 to R269) -/

/-- Fields of the control word of BMAC and BRED (R264). -/
structure BankCtl where
  set : Nat
  seg : Nat
  row : Nat
  wf : Nat
  af : Nat
  chk : Bool
  key : Nat
deriving DecidableEq, Repr
def bankCtl (v : Nat) : BankCtl :=
  { set := bitsOf v 3 0, seg := bitsOf v 6 4, row := bitsOf v 20 8, wf := bitsOf v 25 24, af := bitsOf v 26 26, chk := bitsOf v 27 27 == 1,
    key := bitsOf v 47 32 }
def bankBad (v : Nat) : Bool := bitsOf v 7 7 != 0 || bitsOf v 23 21 != 0 || bitsOf v 31 28 != 0 || bitsOf v 63 48 != 0
def BankCtl.k (q : BankCtl) : Nat := if q.wf = 0 then 1920 else 960
/-- Bytes of the activation. -/
def BankCtl.len (q : BankCtl) : Nat := if q.af = 0 then 2 * q.k else q.k + q.k / 32
/-- Coach codes of the weights and the activation. -/
def BankCtl.wcode (q : BankCtl) : Nat := match q.wf with | 0 => 13 | 1 => 9 | 2 => 10 | _ => 14
def BankCtl.acode (q : BankCtl) : Nat := if q.af = 0 then 2 else 9

/-- Waiting reads of a record give poison after an absence of the memory; its waiting writes are discarded (R23, R269). -/
def Rec.lost (r : Rec) : Bool := !r.rings.isEmpty

/-- A BMAC or BRED command, and not a BCLONE or BFILL. -/
def isMac (r : Rec) : Bool := r.fn == 2 || r.fn == 3

/-- Banks a command selects. -/
def selected (r : Rec) : List Nat := (List.range 32).filter fun b => r.bset.getD 2 0 / 2 ^ b % 2 = 1

/-- Add a bank command. -/
def pushBank (s : State) (c : Nat) (r : Rec) : State := updChan s c fun k => { k with bankCmds := k.bankCmds ++ [r] }

/-- BMAC and BRED (R264), charged at issue (R359). The record keeps SET, LAYER, MASK and the poison of the activation. -/
def bankMac (fn need : Nat) (w : BitVec 3) (d a b : BitVec 5) (s : State) : Result :=
  chI (0x1D000000 + fn) w d a b [rn a, rn b, rn d] true s fun word x s =>
    let va := ea56 (x.rd s (rn a))
    let v := (x.rd s (rn b)).toNat
    let q := bankCtl v
    if bankBad v then .trap (illegalAt word)
    else if va % 16 ≠ 0 then .trap (trapAt .align va)
    else match localPlace x s va q.len with
      | none => .trap (trapAt .bounds va)
      | some pa =>
        let off := pa - sramPa x.c 0
        if regionOf s x.c off != regionOf s x.c (off + q.len - 1) then .trap (trapAt .bounds va)
        else if 16 ≤ ((chan s x.c).bankCmds.filter isMac).length then .park 4 (.engineRoom 5) s
        else if xqFree s x.c < need then .park 4 (if need = 1 then .xqRoom else .engineRoom 7) s
        else match (drainStep s x).or (readStep x s pa q.len) with
          | some s' => .hold s'
          | none =>
            let s := bselApply (findErrors s pa q.len 4 (ecxOf s x.c x.sl)) x.c
            let bs := bytesAt s pa q.len
            let k := chan s x.c
            let r : Rec := { newRec x s word (x.rd s (rn d)) (x.rd s (rn a)) (x.rd s (rn b)) with
              st := 1, active := true, seq := k.xqNext, mem := bs.map (·.1), xq := (List.range need).map (· + k.xqNext),
              bset := [q.set, mget 0 k.blayer q.set, (mget (0 : BitVec 32) k.bmask q.set).toNat, if bs.any (·.2) then 1 else 0] }
            let s := chargeRec (chargeRec s x.c r (meterOf x.c) 27 r.mem.length) x.c r (meterOf x.c) 28 (selected r).length
            .next (updChan (pushBank s x.c r) x.c fun k =>
              { k with xq := k.xq ++ (List.range need).map (fun i => { key := k.xqNext + i, entry := none }), xqNext := k.xqNext + need })

def execBmac (w : BitVec 3) (d a b : BitVec 5) (s : State) : Result := bankMac 2 2 w d a b s
def execBred (w : BitVec 3) (d a b : BitVec 5) (s : State) : Result := bankMac 3 1 w d a b s

/-- The physical addresses of `n` segments from `va`, every page translated (R268): a miss parks, XLATE and PERM trap, and the first
BOUNDS is handed on to step 5 (R257, R262). -/
def segments (x : Ctx) (s : State) (va n : Nat) (rd wr : Bool) (k : State → List Nat → Option TrapInfo → Act) : Act :=
  let p := (slot s x.c x.sl).hdr.part
  let vas := (List.range n).map fun i => va + 1024 * i
  match vas.find? (fun v => decide (v ≤ 0x00FFFEFFFFFFFFFF) && (tlbFind s x.c p v).isNone) with
  | some v => .park 6 (.walk (BitVec.ofNat 64 v)) (askWalk s x.c x.sl p v)
  | none =>
    let r := vas.foldl (fun (acc : Except TrapInfo (State × List Nat × Option TrapInfo)) v => match acc with
      | .error t => .error t
      | .ok (s, l, b) => (match homedHere s x.c p v rd wr with
        | .ok (s, pa) => .ok (s, l ++ [pa], b)
        | .error t => if t.cause = .bounds then .ok (s, l, b.or (some t)) else .error t)) (.ok (s, [], none))
    match r with
    | .error t => .trap t
    | .ok (s, l, b) => k s l b

/-- Enter a BCLONE or BFILL: at most 8 are outstanding (R268). It is charged at issue (R359). -/
def bankCopy (x : Ctx) (s : State) (r : Rec) : Act :=
  if 8 ≤ ((chan s x.c).bankCmds.filter (fun r => !isMac r)).length then .park 4 (.engineRoom 6) s
  else match drainStep s x with
    | some s' => .hold s'
    | none =>
      let s := chargeRec s x.c r (meterOf x.c) (if r.fn = 4 then 29 else 30) r.xq.length
      .next (updChan (pushBank s x.c { r with st := 1, active := true, seq := (chan s x.c).xqNext }) x.c fun k => { k with xqNext := k.xqNext + 1 })

/-- BCLONE (R268). -/
def execBclone (w : BitVec 3) (d a b : BitVec 5) (s : State) : Result :=
  chI 0x1D000004 w d a b [rn a, rn b, rn d] true s fun word x s =>
    let dv := ea56 (x.rd s (rn d))
    let av := ea56 (x.rd s (rn a))
    let n := (x.rd s (rn b)).toNat
    if 4096 < n then .trap (illegalAt word)
    else match [dv, av].find? (fun v => v % 1024 != 0) with
      | some v => .trap (trapAt .align v)
      | none =>
        segments x s dv n false true fun s dl t => segments x s av n true false fun s al u =>
          trapOr s (t.or u) <| bankCopy x s { newRec x s word (x.rd s (rn d)) (x.rd s (rn a)) (x.rd s (rn b)) with xq := dl, bset := al }

/-- BFILL (R268). -/
def execBfill (w : BitVec 3) (d a b : BitVec 5) (s : State) : Result :=
  chI 0x1D000005 w d a b [rn a, rn b, rn d] true s fun word x s =>
    let dv := ea56 (x.rd s (rn d))
    let va := ea56 (x.rd s (rn a))
    let n := (x.rd s (rn b)).toNat
    if 4096 < n then .trap (illegalAt word)
    else if dv % 1024 ≠ 0 then .trap (trapAt .align dv)
    else if va % 16 ≠ 0 then .trap (trapAt .align va)
    else localOperand x s va 16 fun s bs t => segments x s dv n false true fun s dl u =>
      trapOr s (u.or t) <| bankCopy x s { newRec x s word (x.rd s (rn d)) (x.rd s (rn a)) (x.rd s (rn b)) with xq := dl, mem := bs }

/-- BSYNC (R268): every command of the X traveller has completed, and with it every entry is in the XQ. -/
def execBsync (w : BitVec 3) (s : State) : Result :=
  chI 0x1D000006 w 0 0 0 [] true s fun _ x s =>
    if (chan s x.c).bankCmds.isEmpty then .next s else .park 4 .bankDone s

/-- Physical address of a row segment of channel core `c` (R253). -/
def segPa (c layer b row seg : Nat) : Nat := dramPa (c - 6144) (row * 2 ^ 22 + seg * 2 ^ 19 + layer * 2 ^ 15 + b * 2 ^ 10)

/-- A partial by R39 and R43: weights of the row segment by the activation. -/
def bankBlocks (q : BankCtl) (w a : Nat) : Nat → Nat → FRes → FRes
  | 0, _, acc => acc
  | n + 1, j, acc =>
    let ww := cfWidth q.wcode
    let aw := cfWidth q.acode
    let ps := (List.range 32).map fun t =>
      let i := 32 * j + t
      (cfVal q.wcode (w / 2 ^ (ww * i) % 2 ^ ww), cfVal q.acode (a / 2 ^ (aw * i) % 2 ^ aw))
    let sc := (w / 2 ^ (8 * (960 + j)) % 256) :: (if q.af = 0 then [] else [a / 2 ^ (8 * (q.k + j)) % 256])
    let r := macBlock fp32 ps sc acc.bits
    bankBlocks q w a n (j + 1) { bits := r.bits, flags := acc.flags ||| r.flags }

/-- A partial: its value, flags, poison and check failure. -/
structure Partial where
  bits : Nat := 0
  flags : Nat := 0
  poison : Bool := false
  check : Bool := false
deriving DecidableEq, Repr

/-- Bank `b`'s partial (R265); `lost` when the read waited through an absence of the memory (R23). -/
def bankPartial (s : State) (c : Nat) (r : Rec) (b : Nat) : Partial :=
  let q := bankCtl r.b.toNat
  let layer := r.bset.getD 1 0
  let mask := r.bset.getD 2 0
  let pa := segPa c layer b q.row q.seg
  let p : Partial :=
    if mask / 2 ^ b % 2 = 0 then {}
    else if r.lost || poisonedAt s pa 1024 then { bits := 0x7FC00000, poison := true }
    else if q.chk ∧ rdN s.mem (pa + 1020) 4 ≠ q.key * 65536 + q.row * 8 + q.seg then { bits := 0x7FC00000, flags := flagNV, check := true }
    else
      let v := bankBlocks q (rdN s.mem pa 1020) (leNat r.mem) (q.k / 32) 0 { bits := 0 }
      { bits := v.bits, flags := v.flags }
  if r.bset.getD 3 0 = 1 then { p with bits := 0x7FC00000, poison := true } else p

/-- Deliver the reserved XQ entry of number `key`. -/
def deliver (s : State) (c key : Nat) (e : QEntry) : State :=
  updChan s c fun k => { k with xq := k.xq.map fun q => if q.key = key then { q with entry := some e } else q }

/-- An XQ side word of a bank command (R255). -/
def bankSide (tag half flags pm cm : Nat) : Word :=
  BitVec.ofNat 64 (tag % 65536 + half * 2 ^ 16 + 2 ^ 17 + flags % 64 * 2 ^ 18 + pm * 2 ^ 32 + cm * 2 ^ 48)

def bitSum (l : List Bool) : Nat := ((l.zip (List.range l.length)).map fun e => if e.1 then 2 ^ e.2 else 0).foldl (· + ·) 0

/-- An entry of sixteen partials (R265). -/
def macEntry (tag half : Nat) (ps : List Partial) : QEntry :=
  let gran (i : Nat) : Bool := ((ps.drop (i / 4 * 4)).take 4).any (·.poison)
  { bytes := ((ps.zip (List.range ps.length)).map fun e => (leBytes 4 e.1.bits).map fun b => (b, gran e.2)).flatten,
    side := bankSide tag half ((ps.map (·.flags)).foldl (· ||| ·) 0) (bitSum (ps.map (·.poison))) (bitSum (ps.map (·.check))) }

/-- The entry of a BRED (R266). -/
def redEntry (tag : Nat) (ps : List Partial) : QEntry :=
  let poison := ps.any (·.poison)
  let v : FRes := match ps with
    | [] => {  bits := 0 }
    | p :: rest => rest.foldl (fun (v : FRes) c => let r := fadd fp32 v.bits c.bits .rne; { bits := r.bits, flags := v.flags ||| c.flags ||| r.flags })
        { bits := p.bits, flags := p.flags }
  let bits := if poison then 0x7FC00000 else v.bits
  { bytes := (leBytes 64 bits).zip (List.range 64) |>.map fun e => (e.1, poison && decide (e.2 < 16)),
    side := bankSide tag 0 v.flags (if poison then 1 else 0) (if ps.any (·.check) then 1 else 0) }

/-- Row segments that a bank command reads or writes. -/
def bankSegs (c : Nat) (r : Rec) : List Nat :=
  if isMac r then
    let q := bankCtl r.b.toNat
    (selected r).map fun b => segPa c (r.bset.getD 1 0) b q.row q.seg
  else r.xq ++ r.bset

/-- No earlier BMAC or BRED on its bank-set register is outstanding (R269). -/
def bankFirst (s : State) (c k : Nat) (r : Rec) : Bool :=
  !isMac r || !((chan s c).bankCmds.take k).any (fun e => isMac e && e.bset.getD 0 0 == r.bset.getD 0 0)

/-- A command may run: its memory is served, and it is the first on its bank-set register (R269). -/
def bankReady (s : State) (c k : Nat) (r : Rec) : Bool := s.memDom == .on && (bankSegs c r).all (servable s) && bankFirst s c k r

/-- Write back, and for a destination invalidate, the cache lines that cover segments (R280). -/
def flushSegs (s : State) (c : Nat) (segs : List Nat) (drop : Bool) : State :=
  cacheFlush s (core s c).part (fun l => segs.any fun pa => decide (pa / 256 ≤ l) && decide (l < pa / 256 + 4)) drop

/-- A granule that BCLONE copies poisoned is logged whether or not it was found before (R267, R268). -/
def cloneSeg (s : State) (c : Nat) (r : Rec) (i dst src : Nat) : State :=
  let old := (granules src 1024).filter fun g => s.poison.contains g
  let s := findErrors s src 1024 5 r.ecx
  let s := old.foldl (fun s g => foundError s g 5 r.ecx) s
  writeNoting s r.part c (BitVec.ofNat 64 (ea56 r.d + 1024 * i)) dst (if r.lost then List.replicate 1024 (0, true) else bytesAt s src 1024)

/-- BANK_COMMAND_COMPLETE: command `k` of channel core `c` takes effect, and delivers its entries (R265 to R269). A BFILL whose writes
waited through an absence of the memory is discarded and logged (R23). -/
def bankComplete (s : State) (c k : Nat) : State :=
  match (chan s c).bankCmds[k]? with
  | none => s
  | some r =>
    if !bankReady s c k r then s
    else
      let s := updChan s c fun v => { v with bankCmds := v.bankCmds.eraseIdx k }
      let tag := r.d.toNat % 65536
      match r.fn with
      | 2 =>
        let s := flushSegs s c (bankSegs c r) false
        let s := (bankSegs c r).foldl (fun s pa => findErrors s pa 1024 1 r.ecx) s
        let ps := (List.range 32).map (bankPartial s c r)
        deliver (deliver s c (r.xq.getD 0 0) (macEntry tag 0 (ps.take 16))) c (r.xq.getD 1 0) (macEntry tag 1 (ps.drop 16))
      | 3 =>
        let s := flushSegs s c (bankSegs c r) false
        let s := (bankSegs c r).foldl (fun s pa => findErrors s pa 1024 2 r.ecx) s
        let ps := (selected r).map (bankPartial s c r)
        deliver s c (r.xq.getD 0 0) (redEntry tag ps)
      | 4 =>
        let s := flushSegs (flushSegs s c r.bset false) c r.xq true
        (r.xq.zip r.bset).zipIdx.foldl (fun s e => cloneSeg s c r e.2 e.1.1 e.1.2) s
      | _ =>
        let bs := (List.replicate 64 (r.mem.map fun b => (b, false))).flatten
        if r.lost then (List.range r.xq.length).foldl (fun s i => trapLog s r.part 1 c 0 (BitVec.ofNat 64 (ea56 r.d + 1024 * i))) s
        else (r.xq.zipIdx).foldl (fun s e => writeNoting s r.part c (BitVec.ofNat 64 (ea56 r.d + 1024 * e.2)) e.1 bs) (flushSegs s c r.xq true)

/-! ## Stream records (R256, R258, R259, R261) -/

/-- STREAM_RECORD_START: records become active in queue order, up to 4 at once, none behind a faulted one (R256, R261). -/
def streamStart (s : State) (c : Nat) : State :=
  let l := (chan s c).streamQ
  if 4 ≤ (l.filter (·.active)).length || (core s c).hardHalt || l.any (fun r => r.st == 3) then s
  else match l.find? (fun r => !r.active && (r.st == 0 || r.st == 1)) with
    | some r => updRec s c 2 r.seq fun r => { r with st := 1, active := true, iter := r.prog }
    | none => s

/-- The DRAM access of a record at `pa`: the channel cache without allocation, line by line, and the fare of each 64 bytes (R270,
R280). It is charged for a run of the record's DRAM addresses up to a 1 KiB boundary, when the run starts (R359). -/
def streamDram (s : State) (c : Nat) (r : Rec) (pa n : Nat) (write : Bool) : State :=
  cacheLines s pa n r.ecx write false fun s hit pa n =>
    if hit then chargeRec s c r (1344 + pa / 256 % 768 / 32) 6 n else chargeRec s c r (meterOf c) (if write then 26 else 25) n

/-- The fares of a DRD or DWR that begins, or comes to a 1 KiB boundary, before its next `n` entries (R359). -/
def streamPay (s : State) (c : Nat) (r : Rec) (pa n : Nat) (write : Bool) : State :=
  if r.prog = 0 ∨ (ea56 r.a + 64 * r.prog) % 1024 = 0 then streamDram s c r pa (64 * n) write else s

/-- Units from `u` to the next 1 KiB boundary of the record's DRAM address, at most `n` (R261). -/
def chunk (va u n : Nat) : Nat := min (n - u) (16 - (va / 64 + u) % 16)

/-- DRD: the next entries into the AQ. -/
def drdAdvance (s : State) (c : Nat) (r : Rec) : Advance :=
  let n := r.b.toNat % 8192
  let va := ea56 r.a + 64 * r.prog
  if n ≤ r.prog then .done
  else if !aqTurn s c (true, r.seq) then .wait
  else
    let s0 := bselApply s c
    let k := min (chunk (ea56 r.a) r.prog n) (aqFree s0 c)
    if k = 0 then .wait
    else match homedHere s0 c r.part va true false with
      | .error t => .fault s t
      | .ok (s1, pa) =>
        if !servable s1 pa then .wait
        else
          let step (s : State) (i : Nat) : State :=
            let s := findErrors s (pa + 64 * i) 64 3 r.ecx
            let bs := if r.lost then List.replicate 64 (0, true) else bytesAt s (pa + 64 * i) 64
            aqPush s c (.data { bytes := bs, side := BitVec.ofNat 64 (r.b.toNat / 2 ^ 16 % 2 ^ 16 + (r.prog + i) % 65536 * 2 ^ 16) })
          let s1 := streamPay s1 c r pa (chunk (ea56 r.a) r.prog n) false
          .go (updRec ((List.range k).foldl step s1) c 2 r.seq fun q => { q with prog := q.prog + k, rings := [] })

/-- DWR: the next entries from the XQ. -/
def dwrAdvance (s : State) (c : Nat) (r : Rec) : Advance :=
  let n := r.b.toNat % 8192
  let va := ea56 r.a + 64 * r.prog
  if n ≤ r.prog then .done
  else if !xqTurn s c (true, r.seq) then .wait
  else match xqHead s c with
    | none => .wait
    | some e => match homedHere s c r.part va false true with
      | .error t => .fault s t
      | .ok (s1, pa) =>
        if !servable s1 pa then .wait
        else
          let s2 := updChan (streamPay s1 c r pa (chunk (ea56 r.a) r.prog n) true) c fun k => { k with xq := k.xq.drop 1 }
          let s3 := if r.lost then trapLog s2 r.part 1 c 0 (BitVec.ofNat 64 va) else writeNoting s2 r.part c (BitVec.ofNat 64 va) pa e.bytes
          .go (updRec s3 c 2 r.seq fun q => { q with prog := q.prog + 1, rings := [] })

/-- The geometry of a DPUSH is that of a COPY2D (R259). -/
def pushGeom (r : Rec) : Rec := { r with word := 0x07000001 }

/-- The destination run of a DPUSH on this cube: a place in the data or ring region of a core of the partition, or why not. -/
def pushPlace (s : State) (r : Rec) (na n : Nat) : Except TrapInfo Nat :=
  match windowTarget na with
  | none => .error (trapAt .bounds na)
  | some (_, w, off) =>
    let ok (o : Nat) : Bool := regionOf s w o == .ring || regionOf s w o == .data
    if inPartition s w r.part = false ∨ ok off = false ∨ ok (off + n - 1) = false then .error (trapAt .bounds na)
    else if (core s w).isSealed then .error (trapAt .sealed na 1)
    else .ok (sramPa w off)

/-- One run of a DPUSH, to the core that rd names (R259). -/
def pushRun (s : State) (c : Nat) (r : Rec) (k : Run) : Except TrapInfo State :=
  let target (na : Nat) : Option (Nat × Nat) := (windowTarget na).map fun t => (t.1, t.2.1)
  if target k.dst ≠ target (ea56 r.d) then .error (trapAt .bounds k.dst)
  else match homedHere s c r.part (k.src.getD 0) true false with
  | .error t => .error t
  | .ok (s, pa) =>
    let s := findErrors (streamDram s c r pa k.len false) pa k.len 3 r.ecx
    let bs := if r.lost then List.replicate k.len (0, true) else bytesAt s pa k.len
    let s := chargeRec s c r (meterOf c) 24 k.len
    if k.dst / 2 ^ 41 % 4096 = cubeId s then
      match pushPlace s r k.dst k.len with
      | .error t => .error t
      | .ok dpa => .ok { s with engWrites := s.engWrites ++ [{ pa := dpa, bytes := bs, src := (c, 2, r.seq), bar := (shapeOf (leNat r.mem)).bar }] }
    else
      let m := newMsg s
      .ok (postAs m.1 m.2 (recPacket s c { pushGeom r with seq := r.seq } 4 (k.dst / 2 ^ 41 % 4096) k.dst 0 k.len (.data bs)))

/-- The 1 KiB of DRAM that byte `o` of a DPUSH is read from. -/
def pushBlock (r : Rec) (o : Nat) : Nat := ((cpSrc (pushGeom r) o).getD 0) / 1024

/-- Units of 64 bytes of a DPUSH from byte `o` of `total` that are read from one 1 KiB of DRAM, at most `n` (R261). -/
def pushUnits (r : Rec) (total : Nat) : Nat → Nat → Nat
  | 0, _ => 0
  | n + 1, o => if o + 64 < total ∧ pushBlock r (o + 64) = pushBlock r o then 1 + pushUnits r total n (o + 64) else 1

/-- DPUSH: the next run, up to a 1 KiB boundary of its DRAM address. -/
def pushAdvance (s : State) (c : Nat) (r : Rec) : Advance :=
  let q := shapeOf (leNat r.mem)
  let total := q.rowb * q.rows
  if recOut s c 2 r.seq then .wait
  else if total ≤ 64 * r.iter then .done
  else if !portRoom s then .wait
  else
    let n := min (64 * pushUnits r total 16 (64 * r.iter)) (total - 64 * r.iter)
    let runs := cpRuns (pushGeom r) 16 (n / 16) (64 * r.iter)
    if runs.any (fun k => match homedHere s c r.part (k.src.getD 0) true false with | .ok (s, pa) => !servable s pa | .error _ => false) then .wait
    else
      let s0 := updRec s c 2 r.seq fun q => { q with prog := r.iter, iter := r.iter + (n + 63) / 64, rings := [] }
      match runs.foldl (fun (acc : Except TrapInfo State) k => match acc with | .error t => .error t | .ok s => pushRun s c r k) (.ok s0) with
      | .error t => .fault s t
      | .ok s' => .go s'

/-- The DRAM pieces of `n` bytes at `va`, at multiples of 2 KiB. -/
def dramPieces (now : Bool) (s : State) (c p va : Nat) : Nat → List (Byte × Bool) → Except TrapInfo (State × List (Nat × List (Byte × Bool)))
  | 0, _ => .ok (s, [])
  | _ + 1, [] => .ok (s, [])
  | n + 1, bs =>
    let k := 2048 - va % 2048
    match homedHere s c p va false true now with
    | .error t => .error t
    | .ok (s, pa) => (dramPieces now s c p (va + k) n (bs.drop k)).map fun e => (e.1, (pa, bs.take k) :: e.2)

/-- A stage that a DPULL has read goes to DRAM (R259); one that waited through an absence of the memory is discarded and logged
(R23). -/
def pullWrite (s : State) (c : Nat) (r : Rec) (bs : List (Byte × Bool)) (now : Bool := false) : Except TrapInfo (Option State) :=
  match dramPieces now s c r.part (ea56 r.d + r.prog * bs.length) (bs.length / 2048 + 2) bs with
  | .error t => .error t
  | .ok (s, l) =>
    if l.any (fun e => !servable s e.1) then .ok none
    else if r.lost then .ok (some (trapLog s r.part 1 c 0 (BitVec.ofNat 64 (ea56 r.d + r.prog * bs.length))))
    else .ok (some (l.foldl (fun s e => writeNoting (streamDram s c r e.1 e.2.length true) r.part c r.d e.1 e.2) s))

/-- DPULL: the next stage (R259). -/
def pullAdvance (s : State) (c : Nat) (r : Rec) : Advance :=
  let w := r.a.toNat % 8192
  let n := r.a.toNat / 2 ^ 25 % 8
  let cube := r.a.toNat / 8192 % 4096
  if recOut s c 2 r.seq then .wait
  else if r.b.toNat % 256 ≤ r.prog then .done
  else if cube = cubeId s then
    let k := ring s w n
    if !k.init then .fault s (ringTrap n)
    else if k.occ = 0 then .wait
    else
      let pa := sramPa w (k.stageOff k.ci)
      let s0 := findErrors s pa k.ssize 4 r.ecx
      let bs := if sealedFor s c pa then List.replicate k.ssize (0, true) else bytesAt s0 pa k.ssize
      match pullWrite s0 c r bs with
      | .error t => .fault s t
      | .ok none => .wait
      | .ok (some s1) => .go (updRec (ringPop s1 w n) c 2 r.seq fun q => { q with prog := q.prog + 1, rings := [] })
  else if !portRoom s then .wait
  else
    let m := newMsg s
    .go (postAs m.1 m.2 (recPacket s c r 3 cube (2 * 2 ^ 53 + cube * 2 ^ 41 + w * 2 ^ 28) 0 0 (.ringPop n)))

/-- A stage read from another cube has come: it is written, and the pop goes out (R259). -/
def pullData (s : State) (c : Nat) (r : Rec) (bs : List (Byte × Bool)) : State :=
  let n := r.a.toNat / 2 ^ 25 % 8
  let w := r.a.toNat % 8192
  let cube := r.a.toNat / 8192 % 4096
  match pullWrite s c r bs true with
  | .error t => faultRec s c 2 r t
  | .ok none => s
  | .ok (some s1) =>
    let m := newMsg s1
    updRec (postAs m.1 m.2 (recPacket s1 c r 5 cube (2 * 2 ^ 53 + cube * 2 ^ 41 + w * 2 ^ 28) 0 0 (.ringPop n))) c 2 r.seq fun q => { q with prog := q.prog + 1 }

/-- A stream record has come to a 1 KiB boundary of its DRAM address, or has not begun (R261). DEDUCED (assumption 70): a DPULL, whose
progress is in stages, stops after the stage in which it comes to one. -/
def atKilo (s : State) (r : Rec) : Bool :=
  match r.fn with
  | 2 => r.iter == 0 || pushBlock r (64 * r.iter) != pushBlock r (64 * (r.iter - 1))
  | 3 =>
    let n := if r.a.toNat / 8192 % 4096 = cubeId s then (ring s (r.a.toNat % 8192) (r.a.toNat / 2 ^ 25 % 8)).ssize else 1024
    r.prog == 0 || (ea56 r.d + r.prog * n) / 1024 != (ea56 r.d + (r.prog - 1) * n) / 1024
  | _ => r.prog == 0 || (ea56 r.a + 64 * r.prog) % 1024 == 0

/-- A record of queue `k` goes no further: its context is stranded or its core halted hard, and it stands where R261, R182 and R392
let it stop. -/
def recHalts (s : State) (c : Nat) (r : Rec) : Bool :=
  recStopped s c r && (if r.major = 0x39 then atKilo s r else courierAtBlock r)

/-- The next action of the record at place `k` of the stream queue. -/
def streamNext (s : State) (c k : Nat) : Option (Rec × Advance) :=
  match (chan s c).streamQ[k]? with
  | none => none
  | some r =>
    if r.st ≠ 1 ∨ r.active = false ∨ recHalts s c r = true ∨ s.memDom ≠ .on then none
    else some (r, orWalk c r <| match r.fn with
      | 0 => drdAdvance s c r
      | 1 => dwrAdvance s c r
      | 2 => pushAdvance s c r
      | _ => pullAdvance s c r)

/-- STREAM_RECORD_COMPLETE: the record at place `k` goes on, and is done after its last byte or stage. -/
def streamComplete (s : State) (c k : Nat) : State :=
  match streamNext s c k with
  | some (r, .done) =>
    let s := updRec s c 2 r.seq fun q => { q with prog := if q.fn = 2 then q.iter else q.prog }
    updChan (doneRec s c 2 r []) c fun v => { v with aqProd := v.aqProd.erase (true, r.seq), xqCons := v.xqCons.erase (true, r.seq) }
  | some (_, .go s') => s'
  | _ => s

/-- A stream record faults (R261): it resumes from PROG. -/
def streamFault (s : State) (c : Nat) (r : Rec) (t : TrapInfo) : State :=
  let s := tableFound { s with engWrites := s.engWrites.filter fun w => w.src ≠ (c, 2, r.seq) } c r.part t
  faultRec (updRec s c 2 r.seq fun q => { q with iter := q.prog }) c 2 r t

/-- Stream record `r` waits for its DRAM: what it does next is an access of it (R23, R269). -/
def streamWaits (s : State) (c : Nat) (r : Rec) : Bool :=
  r.st == 1 && r.active && !recHalts s c r && (match r.fn with
    | 0 => decide (r.prog < r.b.toNat % 8192) && aqTurn s c (true, r.seq) && decide (0 < aqFree (bselApply s c) c)
    | 1 => decide (r.prog < r.b.toNat % 8192) && xqTurn s c (true, r.seq) && (xqHead s c).isSome
    | 2 => !recOut s c 2 r.seq && decide (64 * r.iter < (shapeOf (leNat r.mem)).rowb * (shapeOf (leNat r.mem)).rows) && portRoom s
    | _ =>
      let k := ring s (r.a.toNat % 8192) (r.a.toNat / 2 ^ 25 % 8)
      !recOut s c 2 r.seq && decide (r.prog < r.b.toNat % 256) && r.a.toNat / 8192 % 4096 == cubeId s && k.init && decide (0 < k.occ))

/-- STREAM_RECORD_FAULT: the record at place `k` meets a fault. -/
def streamFaultStep (s : State) (c k : Nat) : State :=
  match streamNext s c k with
  | some (r, .fault s' t) => streamFault s' c r t
  | _ => s

end Sys2Proof.Machine
end

