-- ==== Sys2Proof/Machine/Csr.lean ====
section
/-! DEFINITION. The control registers and the CSR instructions (R354 to R357). -/

namespace Sys2Proof.Machine

/-- The control registers (R354). -/
inductive CsrName where
  | tcause | taddr | ttid | trpc | tvec | sbchk | level | partid | ecxcsr | wdog | dbgctl
deriving DecidableEq, Repr

def csrName : Nat → Option CsrName
  | 0x001 => some .tcause | 0x002 => some .taddr | 0x003 => some .ttid | 0x004 => some .trpc | 0x005 => some .tvec
  | 0x006 => some .sbchk | 0x007 => some .level | 0x010 => some .partid | 0x011 => some .ecxcsr | 0x020 => some .wdog
  | 0x030 => some .dbgctl | _ => none

/-- The level a read needs, and the level a write needs; none where the register is read-only (R354). -/
def CsrName.readLevel : CsrName → Nat
  | .tcause | .taddr | .ttid | .trpc | .tvec | .dbgctl => 1
  | _ => 0
def CsrName.writeLevel : CsrName → Option Nat
  | .trpc | .tvec | .sbchk | .ecxcsr | .wdog | .dbgctl => some 1
  | _ => none

def partcfgOff (p : Nat) : Nat := 0x9000 + 8 * p

/-- The value of a control register for the traveller in slot `sl` of core `c` (R354, R355). -/
def csrRead (s : State) (c sl : Nat) (n : CsrName) : Word :=
  let p := (slot s c sl).hdr.part
  let m := (slot s c sl).msg
  match n with
  | .tcause => (m.map fun m => BitVec.ofNat 64 (m.info.cause.code + m.info.sub * 256)).getD 0
  | .taddr => (m.map fun m => m.info.addr).getD 0
  | .ttid => (m.map fun m => BitVec.ofNat 64 m.tid).getD 0
  | .trpc => (m.map fun m => m.trpc).getD 0
  | .tvec => mget 0 s.tvec (c * 32 + p)
  | .sbchk => BitVec.ofNat 64 (regField s islandBlk (partcfgOff p) 9 9 + b2n (checking s c sl) * 2)
  | .level => BitVec.ofNat 64 (slot s c sl).lvl
  | .partid => BitVec.ofNat 64 (p + tenant s p * 32)
  | .ecxcsr => BitVec.ofNat 64 (ecxOf s c sl)
  | .wdog => BitVec.ofNat 64 (regField s islandBlk (partcfgOff p) 47 16)
  | .dbgctl => mget 0 s.dbgctl p

/-- A new value keeps the limits of R354. -/
def csrOk (s : State) (c sl : Nat) (n : CsrName) (v : Word) : Bool := match n with
  | .trpc => v.toNat % 4 == 0
  | .tvec => v == 0 || (v.toNat % 4 == 0 && decide (aliasBase c ≤ v.toNat) && decide (v.toNat < aliasBase c + sramSize c)
      && regionOf s c (v.toNat - aliasBase c) == .code)
  | .ecxcsr => v.toNat % 256 == 0 || v.toNat % 256 == tenant s (slot s c sl).hdr.part
  | _ => true

/-- Write the RW fields of a control register. -/
def csrWrite (s : State) (c sl : Nat) (n : CsrName) (v : Word) : State :=
  let p := (slot s c sl).hdr.part
  match n with
  | .trpc => updSlot s c sl fun k => { k with msg := k.msg.map fun m => { m with trpc := v } }
  | .tvec => { s with tvec := mput 0 s.tvec (c * 32 + p) v }
  | .sbchk => putField s islandBlk (partcfgOff p) 9 9 (v.toNat % 2)
  | .ecxcsr => wsWr s c sl 0xFC 1 (v.toNat % 256)
  | .wdog => putField s islandBlk (partcfgOff p) 47 16 (v.toNat % 2 ^ 32)
  | .dbgctl => { s with dbgctl := mput 0 s.dbgctl p (v &&& 0x3FFFF07) }
  | _ => s

/-- The register is held in the island-controller block: a write is a store there, after the core's earlier ones (R357). -/
def CsrName.island : CsrName → Bool
  | .sbchk | .wdog | .dbgctl => true
  | _ => false

/-- The encoding names a control register that the access may name: a listed one, and for a write one that is not read-only (R354). -/
def csrLegal (n : Nat) (wr : Bool) : Bool := match csrName n with
  | some k => !wr || k.writeLevel.isSome
  | none => false
/-- The level that the access needs (R353, R354). -/
def csrLevel (n : Nat) (wr : Bool) : Nat := match csrName n with
  | some k => max k.readLevel (if wr then k.writeLevel.getD 0 else 0)
  | none => 0

/-- The fare class of the issue of a CSR instruction: it charges its own before it writes, so that a write of ECXCSR does not bear it (R357). -/
def paidInBody : Nat := 99

/-- A CSR instruction (R357): `op` 0 CSRR, 1 CSRW, 2 CSRS, 3 CSRC. Its number and its level are checked in steps 1 and 2 of R59. -/
def csr (op : Nat) (w : BitVec 3) (d a : BitVec 5) (n : BitVec 11) (s : State) : Result :=
  let word := 0x0F800000 + w.toNat * 2 ^ 29 + d.toNat * 2 ^ 18 + a.toNat * 2 ^ 13 + op * 2 ^ 11 + n.toNat
  let ill : TrapInfo := { cause := .illegal, addr := BitVec.ofNat 64 word }
  let reads := if op = 0 then [] else [rn a]
  let wr := op = 1 ∨ (2 ≤ op ∧ a ≠ 24)
  issue { word := word, legal := destOk d && csrLegal n.toNat wr, level := csrLevel n.toNat wr, reads := reads, sync := reads, fare := paidInBody } s fun x s =>
    match csrName n.toNat with
    | none => .trap ill
    | some k =>
      if wr ∧ k = .trpc ∧ (slot s x.c x.sl).msg.isNone = true then .trap ill
      else
        let old := csrRead s x.c x.sl k
        let v := x.rd s (rn a)
        let new := if op = 1 then v else if op = 2 then old ||| v else old &&& ~~~v
        let paid := chargeIssue 0 x s
        if !wr then .next (x.wr paid (rn d) old 1)
        else if !csrOk s x.c x.sl k new then .trap ill
        else match (if k.island then drainAll s x else none) with
          | some s' => .hold s'
          | none => .next (x.wr (csrWrite paid x.c x.sl k new) (rn d) old 1)

def execCsrr (w : BitVec 3) (d : BitVec 5) (n : BitVec 11) (s : State) : Result := csr 0 w d 0 n s
def execCsrw (w : BitVec 3) (d a : BitVec 5) (n : BitVec 11) (s : State) : Result := csr 1 w d a n s
def execCsrs (w : BitVec 3) (d a : BitVec 5) (n : BitVec 11) (s : State) : Result := csr 2 w d a n s
def execCsrc (w : BitVec 3) (d a : BitVec 5) (n : BitVec 11) (s : State) : Result := csr 3 w d a n s

end Sys2Proof.Machine
end

