-- ==== Sys2Proof/Machine/Task.lean ====
section
/-! DEFINITION. The TASK instructions (R87 to R94) and the homes of addresses (R90, R95). -/

namespace Sys2Proof.Machine

/-- A TASK instruction (R87). -/
def task (fn : Nat) (w : BitVec 3) (d a b : BitVec 5) (reads : List Nat) (s : State) (f : Ctx → State → Act) : Result :=
  issue { word := word3 (0x15000000 + fn) w d a b, legal := destOk d, reads := reads, sync := reads } s f

/-! ## Homes (R90, R95) -/

/-- The home of an address. KIND: 0 compute core, 1 channel core, 2 steward, 3 hall, 4 register block. -/
structure HomeInfo where
  kind : Nat
  cube : Nat
  core : Nat
  lost : Bool := false
  rstr : Bool := false
  dead : Bool := false
deriving DecidableEq, Repr

inductive HomeRes where | found (h : HomeInfo) | miss | trap (t : TrapInfo)
deriving DecidableEq, Repr

def kindCode (c : Nat) : Nat := match kindOf c with | .channel => 1 | .steward => 2 | _ => 0

/-- The home of `va` for a traveller of partition `p`; `wide` admits the windows of every compute core of the partition, as
GOTO and SPAWNAT do (R90). -/
def findHome (s : State) (c : Nat) (x : Bool) (p va : Nat) (wide : Bool) : HomeRes :=
  let here (w : Nat) : HomeRes := .found { kind := kindCode w, cube := cubeId s, core := w }
  if va ≤ 0x00FFFEFFFFFFFFFF then
    if x then .trap (trapAt .bounds va)
    else match tlbFind s c p va with
      | none => .miss
      | some e =>
        let na := e.oa + va % 2 ^ pageBits e.level
        let space := na / 2 ^ 53 % 8
        if space = 1 then .found { kind := 3, cube := cubeId s, core := 0x1FFF }
        else if space = 3 then
          if kindOf c = .steward then .found { kind := 4, cube := na / 2 ^ 41 % 4096, core := na / 2 ^ 28 % 8192 }
          else .trap (trapAt .perm va)
        else match stripePlace s (na % 2 ^ 53) with
          | none => .trap (trapAt .xlate va 4)
          | some pl =>
            if pl.lost then .found { kind := 1, cube := 0, core := 0, lost := true, dead := pl.dead }
            else .found { kind := 1, cube := pl.cube, core := 6144 + pl.ch, rstr := pl.rstr }
  else if aliasBase c ≤ va then here c
  else match windowCore va with
    | none => .trap (trapAt .bounds va)
    | some (w, _) =>
      if w = c then here c
      else if wide && kindOf w == .compute && inPartition s w p then here w
      else match reach s c x p va false false with
        | .window w _ => here w
        | .trap t => .trap t
        | _ => .trap (trapAt .bounds va)

/-- The destination of GOTO and SPAWNAT (R80, R90): a core of the traveller's partition. A granule of a LOST entry that
lives is where the stripe map puts it. -/
def moveHome (s : State) (c : Nat) (x : Bool) (p va : Nat) : HomeRes :=
  match findHome s c x p va true with
  | .found h =>
    let h := if h.lost ∧ h.dead = false then
        match tlbFind s c p va with
        | some e => (match stripePlace s ((e.oa + va % 2 ^ pageBits e.level) % 2 ^ 53) with
          | some pl => { h with cube := pl.cube, core := 6144 + pl.ch }
          | none => h)
        | none => h
      else h
    if 2 ≤ h.kind ∨ h.dead = true ∨ (h.cube = cubeId s ∧ inPartition s h.core p = false) then .trap (trapAt .bounds va) else .found h
  | r => r

/-! ## END and YIELD -/

/-- A traveller ends: its reservation goes with its double unchanged (R287), its counter falls (R74, R85), once for an
escorted pair: with the copy that ends last, of a pair of children with the primary. -/
def endTraveller (s : State) (c sl : Nat) : State :=
  let s := dropResv s c sl
  let s := updSlot (setState s c sl .ended) c sl fun k => { k with wait := none, sbo := none, pending := [], trap := none }
  let s := escPurge s c sl
  let k := slot s c sl
  if (if k.mate.isSome then k.twin else (partnerOf s c sl).isSome) then s else countAt s k.hdr.lcube k.hdr.part k.hdr.lslot false

/-- The release of the traveller's reservation needs room in a port queue that has none (R24). -/
def resvPort (s : State) (c sl : Nat) : Bool := match (slot s c sl).resv with
  | some r => decide (2 ^ 60 ≤ r.pa) && !portRoom s
  | none => false

/-- END (R88): the wait for its commands, the release of its reservation, the drain, and the end. -/
def execEndT (w : BitVec 3) (s : State) : Result :=
  task 0 w 0 0 0 [] s fun x s =>
    if holdOf s x.c x.sl ≠ 0 then .trap { cause := .accheld, addr := BitVec.ofNat 64 (holdOf s x.c x.sl) }
    else match faultedRec s x.c x.sl (fun r => r.path == 3 || r.path == 5 || r.path == 4) with
      | some t => .trap t
      | none =>
        if hasCommands s x.c x.sl then .park 4 .allDone s
        else if ((slot s x.c x.sl).resv).isSome then (if resvPort s x.c x.sl then .park 6 .port s else .hold (dropResv s x.c x.sl))
        else match drainStep s x with
          | some s' => .hold s'
          | none =>
            if (slot s x.c x.sl).outs ≠ 0 ∨ (core s x.c).enqBuf.any (fun q => q.slot = x.sl) ∨ coreOutstanding s x.c x.x x.sl = true then .park 4 .settled s
            else if countPort s (slot s x.c x.sl).hdr.lcube (slot s x.c x.sl).hdr.lslot then .park 6 .port s
            else .leave (endTraveller (retireOut x s (x.pc + 4)) x.c x.sl)

/-- YIELD (R89). -/
def execYield (w : BitVec 3) (s : State) : Result :=
  task 1 w 0 0 0 [] s fun x s => .leave (makeReady (retireOut x s (x.pc + 4)) x.c x.sl)

/-! ## GOTO -/

/-- GOTO (R78, R82, R90): field 24 names the base core. It has no effect at the origin, and executes at the destination, its own
core there. -/
def execGoto (w : BitVec 3) (a : BitVec 5) (s : State) : Result :=
  task 2 w 0 a 0 [rn a] s fun x s =>
    let va := ea56 (x.rd s (rn a))
    let h := (slot s x.c x.sl).hdr
    let go (s : State) (dc cube va : Nat) : Act :=
      if dc = addressCore s x.c ∧ cube = cubeId s then
        match drainStep s x with | some s' => .hold s' | none => .next s
      else migrateAct x s drainStep va dc cube x.pc
    if a = 24 then
      if h.bcube = cubeId s ∧ inPartition s h.bcore h.part = false then .trap (trapAt .bounds 0) else go s h.bcore h.bcube 0
    else match moveHome s x.c x.x h.part va with
      | .trap t => .trap t
      | .miss => .park 6 (.walk (BitVec.ofNat 64 va)) (askWalk s x.c x.sl h.part va)
      | .found k => go (tlbTouch s x.c h.part va) k.core k.cube va

/-! ## Spawning -/

/-- The task record at the address in a register (R83, R91). -/
def withRecord (x : Ctx) (s : State) (va word : Nat) (k : State → Task → Act) : Act :=
  if va % 64 ≠ 0 then .trap (trapAt .align va)
  else match localPlace x s va 64 with
    | none => .trap (trapAt .bounds va)
    | some pa => readLocal x s pa 64 va fun s bs =>
      if recordOk bs then k s (taskOf s x.c x.sl bs) else .trap { cause := .illegal, addr := BitVec.ofNat 64 word }

/-- SPAWN and PUSHT: the record goes to the head or the tail of the deque (R91, R92). -/
def push (fn : Nat) (w : BitVec 3) (d a : BitVec 5) (s : State) (put : List Task → Task → List Task) : Result :=
  task fn w d a 0 [rn a] s fun x s =>
    withRecord x s (ea56 (x.rd s (rn a))) (word3 (0x15000000 + fn) w d a 0) fun s t =>
      if 64 ≤ ((core s x.c).deque).length then .next (x.wr s (rn d) 1)
      else if countPort s t.lcube t.lslot then .park 6 .port s
      else
        let s := updCore (countTask s t true) x.c fun k => { k with deque := put k.deque t }
        .next (x.wr (updSlot s x.c x.sl fun k => { k with kids := if t.mate.isSome then k.kids + 1 else k.kids }) (rn d) 0)

def execSpawn (w : BitVec 3) (d a : BitVec 5) (s : State) : Result := push 3 w d a s fun q t => t :: q
def execPusht (w : BitVec 3) (d a : BitVec 5) (s : State) : Result := push 5 w d a s fun q t => q ++ [t]

/-- POPT (R92): the record is stored after the core's earlier stores, and after pending writes of the same bytes of the workspace (R47,
R55). -/
def execPopt (w : BitVec 3) (d a : BitVec 5) (s : State) : Result :=
  task 6 w d a 0 [rn a] s fun x s =>
    let va := ea56 (x.rd s (rn a))
    if va % 64 ≠ 0 then .trap (trapAt .align va)
    else match localPlace x s va 64 with
      | none => .trap (trapAt .bounds va)
      | some pa =>
        match (core s x.c).deque with
        | [] => .next (x.wr s (rn d) 0)
        | t :: ts =>
          match drainAll s x with
          | some s' => .hold s'
          | none =>
            if pendMet x s (pa - sramPa x.c 0) 64 then .hold s
            else if countPort s t.lcube t.lslot then .park 6 .port s
            else
              let s := writeBytes (updCore s x.c fun k => { k with deque := ts }) pa (t.bytes.map fun b => (b, false))
              .next (x.wr (countTask s t false) (rn d) 1)

/-- SPAWNAT (R93). -/
def execSpawnat (w : BitVec 3) (a b : BitVec 5) (s : State) : Result :=
  task 4 w 0 a b [rn a, rn b] s fun x s =>
    let vb := ea56 (x.rd s (rn b))
    let p := (slot s x.c x.sl).hdr.part
    withRecord x s (ea56 (x.rd s (rn a))) (word3 0x15000004 w 0 a b) fun s t =>
      let counted (s : State) : State := countTask s t true
      let t := { t with saddr := BitVec.ofNat 64 vb, mate := none, twin := false }
      match moveHome s x.c x.x p vb with
      | .trap t => .trap t
      | .miss => .park 6 (.walk (BitVec.ofNat 64 vb)) (askWalk s x.c x.sl p vb)
      | .found h =>
        let s := tlbTouch s x.c p vb
        if outsFull s x.c x.sl then .hold (drainOne s x.c x.x)
        else if countPort s t.lcube t.lslot then .park 6 .port s
        else if h.cube = cubeId s then
          let s := chargeTrav (countOuts (counted s) x.c x.sl) x.c x.sl 31 1
          let f : Flight := .task t h.core (some (x.c, x.sl))
          if (slot s x.c x.sl).pair then .next (escSend s x.c x.sl 1 t.saddr t.bytes (.flight f))
          else .next { s with flights := s.flights ++ [f] }
        else if !portRoom s then .park 6 .port s
        else
          let s := chargeTravAt (countOuts (counted s) x.c x.sl) x.c x.sl 1384 31 1
          .next (post s { pkt := { packetOf s x.c x.sl 1 h.cube (.task t) with
            addr := 2 ^ 54 + h.cube * 2 ^ 41 + h.core * 2 ^ 28, total := 128 }, who := some (x.c, x.sl), counted := true })

/-! ## WAKE and PARK (R94) -/

/-- WAKE leaves through the store buffer, after every earlier store. -/
def execWake (w : BitVec 3) (a b : BitVec 5) (s : State) : Result :=
  task 7 w 0 a b [rn a, rn b] s fun x s =>
    let c := (x.rd s (rn a)).toNat
    if kindOf c = .absent ∨ kindOf c = .steward ∨ inPartition s c (slot s x.c x.sl).hdr.part = false then .trap (trapAt .bounds c)
    else pushStore x s { slot := x.sl, op := .wake ((x.rd s (rn b)).toNat % 2 ^ 32) c, va := 0, pa := none, size := 0, val := 0,
                         poison := false, window := false, counted := true }

/-- PARK. -/
def execPark (w : BitVec 3) (s : State) : Result :=
  task 8 w 0 0 0 [] s fun x s =>
    if x.got.isSome then .next s
    else if statusBit s x.c x.sl 8 then .next (setStatusBit s x.c x.sl 8 false)
    else .park 5 .wake s

end Sys2Proof.Machine
end

