-- ==== Sys2Proof/Machine/Sys.lean ====
section
/-! DEFINITION. The SYS instructions (R371 to R375), the handler's actions (R373, R380, R440), debug halts (R390 to R394), and
the purse (R363, R370). -/

namespace Sys2Proof.Machine

/-! ## Purses -/

/-- Context `x` resumes: its stranded travellers in slots become READY in their order (R370). -/
def resumeCtx (s : State) (x : Nat) : State :=
  let s := { s with strandNotice := s.strandNotice.filter (· ≠ x), stranded := s.stranded.filter (· ≠ x) }
  let mine := s.strandOrder.filter fun e => ecxOf s e.1 e.2 == x && stateOf s e.1 e.2 == .stranded
  let s := { s with strandOrder := s.strandOrder.filter fun e => !mine.contains e }
  mine.foldl (fun s e => makeReady s e.1 e.2) s

/-- An addition of `v` µJ to a purse, with the checks of R363; context 0 has none. The flushes of earlier cycles precede it, and those
of its own cycle follow it (R364). -/
def purseAdd (s : State) (x : Nat) (v : Int) : State :=
  if x = 0 then s
  else
    let s := takeFlushes s s.cycle
    let e := purse s x
    let n := max (-(2 ^ 63 : Int)) (min (2 ^ 63 - 1) (e.purse + v))
    let s := strandCheck (putPurse s x { e with purse := n }) x
    if 0 < (purse s x).purse ∧ (purse s x).str = true then resumeCtx (putPurse s x { purse s x with str := false }) x else s

/-! ## Halts (R390 to R394) -/

def dbgEn (s : State) (p : Nat) : Bool := (mget 0 s.dbgctl p).getLsbD 0
def dbgHard (s : State) (p : Nat) : Bool := (mget 0 s.dbgctl p).getLsbD 1

/-- The traveller in a slot becomes HALTED from state `old` (R390, R391, R392). -/
def haltSlot (s : State) (c sl : Nat) (old : TState) : State :=
  let p := (slot s c sl).hdr.part
  let hard := dbgHard s p
  let s := updSlot (setState s c sl .halted) c sl fun k => { k with halted := some ((old, reasonOf s c sl), hard) }
  let s := updCore s c fun k => { k with hardHalt := k.hardHalt || hard, urgQ := k.urgQ.filter (·.1 ≠ sl), normQ := k.normQ.filter (·.1 ≠ sl) }
  let off := 0xF100 + 8 * p
  putField (putField s islandBlk off 28 16 c) islandBlk off 63 32 (tidOf s c sl)

/-- The traveller RUNNING on a stream halts with its pc at `pc`. -/
def haltRunning (s : State) (c : Nat) (x : Bool) (sl : Nat) (pc : Word) : State := haltSlot (switchOut s c x pc) c sl .running

/-- A halted traveller resumes (R394). -/
def resumeHalted (s : State) (c sl : Nat) : State :=
  match (slot s c sl).halted with
  | none => s
  | some ((old, reason), _) =>
    let s := updSlot s c sl fun k => { k with halted := none }
    let s := updCore s c fun k => { k with hardHalt := (slotsOf s c).any fun j => match (slot s c j).halted with | some (_, h) => h | none => false }
    match old with
    | .running => let s := setState s c sl .ready
                  updCore s c fun k => if statusBit s c sl 9 then { k with urgQ := (sl, 0) :: k.urgQ } else { k with normQ := (sl, 0) :: k.normQ }
    | .parked =>
      if ((slot s c sl).wait.bind (·.reply)).isSome then makeReady s c sl else setState s c sl .parked reason
    | _ => if (slot s c sl).leaving then setState s c sl .ready else makeReady s c sl

/-! ## The handler's actions -/

/-- The records, writes under way and loop of a traveller that its handler ends or restarts go (R196, R223). -/
def dropRecords (s : State) (c sl : Nat) : State :=
  let s := dropCoach (escPurge s c sl) c sl
  let tid := tidOf s c sl
  let mine (r : Rec) : Bool := r.slot == sl && r.tid == tid && r.st != 2
  let gone (k : Nat) : List Nat := ((engQ s c k).filter mine).map (·.seq)
  let s := { s with engWrites := s.engWrites.filter fun w =>
    !(w.src.1 == c && ((w.src.2.1 == 1 && (gone 1).contains w.src.2.2) || (w.src.2.1 == 2 && (gone 2).contains w.src.2.2))) }
  let s := setEngQ s c 1 ((engQ s c 1).filter fun r => !mine r)
  if kindOf c = .channel then setEngQ s c 2 ((engQ s c 2).filter fun r => !mine r) else s

/-- A traveller ends by its handler: as END, without the ACCHELD check (R74, R223, R287). -/
def endByHandler (s : State) (c sl : Nat) : State := endTraveller (dropRecords s c sl) c sl

/-- The item stays pending when its traveller starts again or its core is sealed (R381); what concerns the records and the messages that
are gone goes with them. -/
def Pending.stays : Pending → Bool
  | .engine _ | .escort _ => false
  | _ => true

/-- RESTART (R74): workspace and header as at creation, the fare kept. -/
def restartSlot (s : State) (c sl : Nat) : State :=
  let s := dropResv (dropRecords s c sl) c sl
  match (slot s c sl).birth with
  | none => s
  | some (bs, h) =>
    let k := slot s c sl
    let hdr : Header := { h with fare := k.hdr.fare }
    let n : Slot := { hdr := hdr, lvl := k.lvl, birth := k.birth, sbo := k.sbo, outs := k.outs, pair := k.pair, twin := k.twin, kids := k.kids,
                      mate := k.mate, pending := k.pending.filter (·.stays) }
    enqueue (place s c sl bs n) c sl

/-- A traveller whose core is sealed leaves its slot for a core that the dispatcher chooses, as at its creation (R380). -/
def restartElsewhere (s : State) (c sl : Nat) : State :=
  match (slot s c sl).birth with
  | none => s
  | some (bs, h) =>
    let k := slot s c sl
    let hdr : Header := { h with fare := k.hdr.fare }
    let p : Packed := { bytes := bs, hdr := hdr, seqr := none, lvl := k.lvl, birth := k.birth, oslot := sl, dcore := c, dcube := cubeId s,
                        addr := 0, ready := true, why := 3, pair := k.pair, twin := k.twin, kids := k.kids, mate := k.mate,
                        pending := k.pending.filter (·.stays) }
    let s := updSlot (setState s c sl .free) c sl fun k => { k with wait := none, trap := none, pending := [] }
    spillPut s hdr.part (.traveller p)

/-- The faulted commands of a traveller resume (R186, R196, R243, R261). -/
def resumeRecords (s : State) (c sl : Nat) : State :=
  let tid := tidOf s c sl
  let mine (r : Rec) : Bool := r.slot == sl && r.tid == tid && r.st == 3
  let again (r : Rec) : Rec := if mine r then { r with st := 0, active := false, fault := none, prog := if r.isVec then r.prog else 0 } else r
  let s := updCore s c fun k => { k with coachQ := k.coachQ.map again }
  let s := courierResume s c sl
  if kindOf c = .channel then
    updChan s c fun k => { k with streamQ := k.streamQ.map fun r => if mine r then { r with st := 1, active := false, fault := none } else r }
  else s

/-- What the message's traveller is: in its slot on a live core, on a sealed core, away in the spill area, or gone. -/
inductive Target where | live | sealed | spilled | gone
deriving DecidableEq, Repr
def targetOf (s : State) (m : TrapMsg) : Target :=
  if (slot s m.core m.slot).used && tidOf s m.core m.slot == m.tid && stateOf s m.core m.slot == .trapped then
    (if m.score || (core s m.core).isSealed then .sealed else .live)
  else if (part s m.part).spill.any (fun i => match i with | .traveller t => !t.ready && t.tid == m.tid | _ => false) then .spilled
  else .gone

/-- A traveller that its steward holds in the spill area (R81) is dropped, or made ready for placement as at its creation. -/
def spilledAct (s : State) (m : TrapMsg) (again : Bool) : State :=
  let hit (i : SpillItem) : Bool := match i with | .traveller t => !t.ready && t.tid == m.tid | _ => false
  let reborn (t : Packed) : Packed := match t.birth with
    | some (bs, h) => { t with bytes := bs, hdr := { h with fare := t.hdr.fare }, ready := true, pending := t.pending.filter (·.stays) }
    | none => { t with ready := true }
  if again then
    updPart s m.part fun k => { k with spill := k.spill.map fun i => (if hit i then (match i with | .traveller t => .traveller (reborn t) | j => j) else i) }
  else
    let home := ((part s m.part).spill.findSome? fun i => if hit i then (match i with | .traveller t => some t.hdr.lcube | _ => none) else none).getD (cubeId s)
    let s := updPart s m.part fun k => { k with spill := k.spill.filter fun i => !hit i }
    countAt s home m.part m.lslot false

/-- Both members of an escorted pair, or the one traveller (R380). -/
def pairOf (s : State) (m : TrapMsg) : List (Nat × Nat) :=
  (m.core, m.slot) :: (if m.esc then (partnerOf s m.core m.slot).toList else [])

/-- The cores R440 considers for a task record, ascending. -/
def recordCores (s : State) (p : Nat) : List Nat :=
  (coresOfPart s p).filter fun c =>
    !(core s c).isSealed && !(core s c).sealing && !(quad s (quadOf c)).hole && !(quad s (quadOf c)).draining && !(quad s (quadOf c)).testing

/-- A task record is pushed again (R440); `none` when the partition has no core for it. -/
def pushRecord (s : State) (t : Task) : Option State :=
  let cs := recordCores s t.part
  match cs.find? (fun c => decide (((core s c).deque).length < 64)), cs with
  | some c, _ =>
    let s := updCore s c fun k => { k with deque := t :: k.deque }
    some (updQuad s (quadOf c) fun q => if q.gated then { q with waking := true } else q)
  | none, c :: _ => some { s with flights := s.flights ++ [.task t c none] }
  | none, [] => none

/-- ERET with ACT = 0 on the message's traveller; a pc in the core's own window is the local alias address (R107). The other copy of a
pair that has not trapped yet goes on as it is: the pair's ESCORT trap is answered for it too (R380, R388). -/
def eretResume (s : State) (c sl : Nat) (pc : Word) : State :=
  if stateOf s c sl ≠ .trapped then updSlot s c sl fun k => { k with pending := k.pending.filter fun i => match i with | .escort _ => false | _ => true }
  else
    let s := updSlot s c sl fun k => { k with failed := [] }
    resumeTrapped (resumeRecords s c sl) c sl (homePc c pc)

/-- A copy that has not trapped yet stops where it is, so that its handler ends or restarts both (R380). -/
def stopCopy (s : State) (c sl : Nat) : State :=
  if stateOf s c sl = .trapped then s
  else
    let x := xOf s c sl
    let s := if (stream s c x).run = some sl then switchOut s c x (stream s c x).pc else s
    let s := updCore (withdraw s c sl) c fun k => { k with urgQ := k.urgQ.filter (·.1 ≠ sl), normQ := k.normQ.filter (·.1 ≠ sl) }
    updSlot (setState { s with strandOrder := s.strandOrder.filter (· ≠ (c, sl)) } c sl .trapped) c sl fun k => { k with wait := none, halted := none }

/-- The scoreboard override ERET sets (R356, R373). -/
def setSbo (s : State) (c sl v : Nat) : State :=
  if v = 0 then s else updSlot s c sl fun k => { k with sbo := if v = 1 then none else some (v == 3) }

/-! ## Instructions -/

/-- A SYS instruction (R371). -/
def sysI (fn : Nat) (w : BitVec 3) (d a b : BitVec 5) (reads : List Nat) (level : Nat) (s : State) (f : Nat → Ctx → State → Act) : Result :=
  let word := word3 (0x0F000000 + fn) w d a b
  issue { word := word, legal := destOk d, level := level, reads := reads, sync := reads } s (f word)

/-- TRAP. -/
def execTrap (w : BitVec 3) (a : BitVec 5) (s : State) : Result :=
  sysI 0 w 0 a 0 [rn a] 0 s fun _ x s => .trap { cause := .swtrap, addr := x.rd s (rn a) }

/-- BRK: a debug halt with the pc at the next word, or the trap BREAK (R371, R390). -/
def execBrk (w : BitVec 3) (s : State) : Result :=
  sysI 2 w 0 0 0 [] 0 s fun _ x s =>
    let p := (slot s x.c x.sl).hdr.part
    if dbgEn s p then .leave (haltSlot (retireOut x s (x.pc + 4)) x.c x.sl .running) else .trap { cause := .brk }

/-- The message of a steward traveller is answered: none is current. -/
def answered (x : Ctx) (s : State) : State := updSlot s x.c x.sl fun k => { k with msg := none }

/-- ERET (R373, R380). -/
def execEret (w : BitVec 3) (a : BitVec 5) (s : State) : Result :=
  sysI 1 w 0 a 0 [rn a] 1 s fun word x s =>
    let v := (x.rd s (rn a)).toNat
    match (slot s x.c x.sl).msg with
    | none => .trap (illegalAt word)
    | some m =>
      if 2 ≤ v % 4 ∨ v / 16 ≠ 0 then .trap (illegalAt word)
      else match m.task with
        | some t =>
          if v % 4 = 0 then
            match pushRecord s t with
            | some s => .next (answered x s)
            | none => .trap (trapAt .bounds m.core)
          else .next (answered x (countTask s t false))
        | none =>
          match targetOf s m with
          | .live =>
            let sbo (s : State) (c sl : Nat) : State := setSbo s c sl (v / 4 % 4)
            if v % 4 = 0 then .next (answered x ((pairOf s m).foldl (fun s e => eretResume (sbo s e.1 e.2) e.1 e.2 m.trpc) s))
            else .next (answered x ((pairOf s m).foldl (fun s e => endByHandler (sbo (stopCopy s e.1 e.2) e.1 e.2) e.1 e.2) s))
          | .sealed =>
            if v % 4 = 0 then .trap (trapAt .bounds m.core)
            else .next (answered x (setState ((pairOf s m).foldl (fun s e => endByHandler (stopCopy s e.1 e.2) e.1 e.2) s) m.core m.slot .free))
          | .spilled => if v % 4 = 0 then .trap (trapAt .bounds m.core) else .next (answered x (spilledAct s m false))
          | .gone => .next (answered x s)

/-- RESTART (R373, R380). -/
def execRestart (w : BitVec 3) (s : State) : Result :=
  sysI 5 w 0 0 0 [] 1 s fun word x s =>
    match (slot s x.c x.sl).msg with
    | none => .trap (illegalAt word)
    | some m =>
      match m.task with
      | some t =>
        if t.rst = false then .trap (trapAt .perm m.core)
        else match pushRecord s t with
          | some s => .next (answered x s)
          | none => .trap (trapAt .bounds m.core)
      | none =>
        match targetOf s m with
        | .live =>
          if statusBit s m.core m.slot 11 = false then .trap (trapAt .perm m.core)
          else .next (answered x ((pairOf s m).foldl (fun s e => restartSlot (stopCopy s e.1 e.2) e.1 e.2) s))
        | .sealed =>
          if statusBit s m.core m.slot 11 = false then .trap (trapAt .perm m.core)
          else .next (answered x (restartElsewhere (dropResv (dropRecords s m.core m.slot) m.core m.slot) m.core m.slot))
        | .spilled =>
          let rst := (part s m.part).spill.any fun i => match i with | .traveller t => !t.ready && t.tid == m.tid && leNat ((t.bytes.drop 0xFE).take 2) / 2 ^ 11 % 2 == 1 | _ => false
          if rst then .next (answered x (spilledAct s m true)) else .trap (trapAt .perm m.core)
        | .gone => .next (answered x s)

/-- The oldest queued message of partition `p` at a steward, and the rest. -/
def takeMsg (l : List TrapMsg) (p : Nat) : Option (TrapMsg × List TrapMsg) :=
  match l.find? (fun m => m.part = p) with
  | some m => some (m, l.erase m)
  | none => none

/-- WFM (R372). -/
def execWfm (w : BitVec 3) (d : BitVec 5) (s : State) : Result :=
  sysI 3 w d 0 0 [] 1 s fun word x s =>
    if ((slot s x.c x.sl).msg).isSome then .trap (illegalAt word)
    else match takeMsg (mget [] s.tmsgs x.c) (slot s x.c x.sl).hdr.part with
      | none => .park 6 .message s
      | some (m, rest) =>
        let s := updSlot { s with tmsgs := mput [] s.tmsgs x.c rest } x.c x.sl fun k => { k with msg := some m }
        .next (x.wr s (rn d) (BitVec.ofNat 64 (m.core + m.slot * 2 ^ 13)))

/-- SEAL (R374). -/
def execSeal (w : BitVec 3) (a : BitVec 5) (s : State) : Result :=
  sysI 4 w 0 a 0 [rn a] 1 s fun word x s =>
    let c := (x.rd s (rn a)).toNat
    if x.got.isSome then .next s
    else if 2 ^ 13 ≤ c then .trap (illegalAt word)
    else if (kindOf c ≠ .compute ∧ kindOf c ≠ .channel) ∨ (core s c).asg = false ∨ (core s c).part ≠ (slot s x.c x.sl).hdr.part then
      .trap (trapAt .bounds c)
    else if (core s c).isSealed then .next s
    else .park 1 (.sealDone c) (updCore s c fun k => if k.sealing then k else { k with sealing := true, sealCause := 8 })

/-- PURSEADD (R375). -/
def execPurseadd (w : BitVec 3) (d a b : BitVec 5) (s : State) : Result :=
  sysI 6 w d a b [rn a, rn b] 2 s fun word x s =>
    match x.got with
    | some (v, _) => .next (x.wr s (rn d) v)
    | none =>
      let n := (x.rd s (rn a)).toNat
      if n = 0 ∨ 128 < n then .trap (illegalAt word)
      else if (purse s n).en = false then .trap (trapAt .bounds n)
      else .park 1 (.purse n (x.rd s (rn b))) s

/-- The purse table serves a PURSEADD (R375). -/
def servePurse (s : State) (c sl x : Nat) (v : Word) : State :=
  let s := purseAdd s x v.toInt
  setReply s c sl (.value (enc64 (purse s x).purse) false)

end Sys2Proof.Machine
end

