-- ==== Sys2Proof/Machine/Sched.lean ====
section
/-! DEFINITION. The run queue and park events (R74 to R76, R155), arrivals (R77 to R81, R93, R94), stealing (R157 to R159),
spilling (R22, R152, R352, R369, R370), and what a core takes at an issue beside its instruction (R381, R390 to R394). -/

namespace Sys2Proof.Machine

/-! ## Park events -/

/-- The cores of the compute domain issue: in BRINGUP and RUN, and in HUNG, where no core is touched (R22, R388). DESIGN CHOICE
(assumption 73): R22 does not say that a HUNG domain's cores issue; they do unless the domain came there from QUIESCE. -/
def coresGo (s : State) : Bool := s.comp == .run || s.comp == .bringup || (s.comp == .hung && !s.still)

/-- A core of the compute domain that may issue: powered, not sealed, not under a hard halt. -/
def coreLive (s : State) (c : Nat) : Bool :=
  coresGo s && !(core s c).isSealed && !(core s c).sealing && !(core s c).hardHalt
    && !(kindOf c == .compute && ((quad s (quadOf c)).gated || (quad s (quadOf c)).waking || (quad s (quadOf c)).testing || (quad s (quadOf c)).hole))

/-- Capacity of a run queue (R76). -/
def queueCap (c : Nat) : Nat := if kindOf c = .channel then 64 else 256

/-- A run-queue entry belongs to stream `x`: the X traveller lies in slot 0 of a channel core (R248). -/
def onStream (c : Nat) (x : Bool) (e : Nat × Nat) : Bool := if kindOf c = .channel then (e.1 == 0) == x else !x

/-- A normal head whose wait count has reached its bound moves to the head of the urgent class (R155). -/
def promote (c : Nat) (x : Bool) (k : Core) : Core :=
  let norm := k.normQ.filter (onStream c x)
  match norm with
  | [] => k
  | e :: _ => if queueCap c - norm.length ≤ e.2 then { k with urgQ := (e.1, 0) :: k.urgQ, normQ := k.normQ.erase e } else k

/-- The core takes the head of the urgent class, else of the normal class (R76, R155). -/
def switchIn (s : State) (c : Nat) (x : Bool) : State :=
  if !coreLive s c || (stream s c x).run.isSome || (x && (chan s c).stopping) then s
  else
    let k := promote c x (core s c)
    let take (sl : Nat) (k : Core) : State :=
      let s := putCore s c { k with normQ := k.normQ.map (fun e => if onStream c x e then (e.1, e.2 + 1) else e),
                                    steal := { k.steal with pos := 0, backoff := false } }
      let s := setState s c sl .running
      updStream s c x fun q => { q with run := some sl, pc := savedPc s c sl, nextIssue := 0, pend := [], fbuf := [] }
    match k.urgQ.find? (onStream c x), k.normQ.find? (onStream c x) with
    | some e, _ => take e.1 { k with urgQ := k.urgQ.erase e }
    | none, some e => take e.1 { k with normQ := k.normQ.erase e }
    | none, none => s

/-- TRAVELLER_SWITCH_IN (R76). -/
def execTravellerSwitchIn (c : Nat) (x : Bool) (s : State) : Result := .next (switchIn s c x)

/-- A compute core with nothing to run and a slot for a traveller (R76, R157). -/
def coreIdle (s : State) (c : Nat) : Bool :=
  kindOf c == .compute && coreLive s c && (stream s c false).run.isNone && (core s c).urgQ.isEmpty && (core s c).normQ.isEmpty
    && (freeSlot s c).isSome

/-- The head task of the deque starts (R76, R84). -/
def dequeStart (s : State) (c : Nat) : State :=
  match coreIdle s c, (core s c).deque, freeSlot s c with
  | true, t :: ts, some sl =>
    createTask (updCore s c fun k => { k with deque := ts, steal := { waiting := k.steal.waiting } }) c sl t
  | _, _, _ => s

/-- DEQUE_TASK_START. -/
def execDequeTaskStart (c : Nat) (s : State) : Result := .next (dequeStart s c)

/-! ## Waits (R74) -/

/-- What a wait that ends by itself waits for now holds. -/
def condHolds (s : State) (c : Nat) (x : Bool) (sl : Nat) : Cond → Bool
  | .vecDone => !pathBusy s c sl 1
  | .matDone => !pathBusy s c sl 2
  | .bankDone => (chan s c).bankCmds.isEmpty
  | .chanDone => !pathBusy s c sl 4
  | .courierDone n => decide (courierOut s c sl ≤ n) || (courierFaulted s c sl).isSome
  | .allDone => !hasCommands s c sl || (faultedRec s c sl fun r => r.path == 3 || r.path == 5 || r.path == 4).isSome
  | .outsZero => outsOf s c sl == 0
  | .copies => !copiesOut s c sl
  | .hostDone => !hostOut s c sl
  | .pathDone a => !pathOut s c x sl a
  | .performed => !coreOutstanding s c x sl
  | .settled => (slot s c sl).outs == 0 && !copiesOut s c sl && !coreOutstanding s c x sl
  | .engineRoom 3 => decide (((core s c).enqBuf).length < 8)
  | .engineRoom 4 => (core s c).seqr.isNone
  | .engineRoom 5 => decide (((chan s c).bankCmds.filter isMac).length < 16)
  | .engineRoom 6 => decide (((chan s c).bankCmds.filter fun r => !isMac r).length < 8)
  | .engineRoom 7 => decide (2 ≤ xqFree s c)
  | .engineRoom k => engRoom s c k
  | .banks v => match handleOf s c sl v with | some h => !bankBusy s c sl h | none => true
  | .aqData => (match (bselApply s c |> fun s => (chan s c).aq.head?) with | some (.data _) => true | _ => false)
  | .aqRoom => aqTurn s c (false, sl) && decide (0 < aqFree s c)
  | .xqData => xqTurn s c (false, sl) && (xqHead s c).isSome
  | .xqRoom => decide (0 < xqFree s c)
  | .message => (mget [] s.tmsgs c).any fun m => m.part == (slot s c sl).hdr.part
  | .port => portRoom s
  | .served pa | .release pa _ => servable s pa
  | _ => false

/-- The access an escorted copy waits with goes to the common router: the word and the values its register fields name (R387). -/
def escRequest (s : State) (c sl : Nat) (w : Wait) : State :=
  let f (lo : Nat) : List Byte := leBytes 8 (regValue s c sl (w.word / 2 ^ lo % 32)).toNat
  let kind := match w.cond with | .grant _ _ | .release _ _ => 9 | _ => 3
  let addr : Word := match w.cond with
    | .load _ _ _ va => va
    | .granule _ _ _ va => va
    | .grant _ va | .release _ va => va
    | _ => regValue s c sl (w.word / 2 ^ 13 % 32)
  escSend s c sl kind addr (leBytes 4 w.word ++ f 18 ++ f 13 ++ f 8) .request

/-- What a parked traveller awaits is served at its home, or has come about; it is READY once it has its reply. -/
def completeWait (s : State) (c sl : Nat) : State :=
  match (slot s c sl).wait with
  | none => s
  | some w =>
    if w.reply.isSome then readyIfReplied s c sl
    else
      let p := (slot s c sl).hdr.part
      if (slot s c sl).pair && w.cond.remote c && !(slot s c sl).passed then escRequest s c sl w
      else if (slot s c sl).pair && w.cond.remote c && (slot s c sl).twin then s
      else match w.cond with
      | .load pa size sync va => readyIfReplied (completeLoad s c sl pa size sync va) c sl
      | .granule pa _ _ va => readyIfReplied (granuleArrive s c sl pa va) c sl
      | .deq p q pa => readyIfReplied (serveDeq s c sl p q pa) c sl
      | .queueStat p q => readyIfReplied (setReply s c sl (.value (queueStat s p q) false)) c sl
      | .cdone p e v => readyIfReplied (serveCdone s c sl p e v) c sl
      | .cchk p e => readyIfReplied (setReply s c sl (.value (BitVec.ofNat 64 (entryGet s p e 63 0)) false)) c sl
      | .purse n v => readyIfReplied (servePurse s c sl n v) c sl
      | .lantern _ k => readyIfReplied (setReply s c sl (.value (lanternWord s p k) false)) c sl
      | .phaseEnd p e =>
        if eState s p e = 3 ∨ eState s p e = 4 then
          readyIfReplied (setReply s c sl (.value (BitVec.ofNat 64 (entryGet s p e 47 40)) false)) c sl
        else s
      | .grantRoom pa _ v =>
        if (if 2 ^ 60 ≤ pa then portRoom s else servable s pa) then readyIfReplied (setReply s c sl (.value v false)) c sl else s
      | .release pa _ =>
        if (slot s c sl).passed && servable s pa then readyIfReplied (serveRelease s c sl pa w.word) c sl
        else if (slot s c sl).passed then s
        else if condHolds s c (kindOf c == .channel && sl == 0) sl w.cond then readyIfReplied (setReply s c sl .again) c sl else s
      | .sealDone w => if (core s w).isSealed then readyIfReplied (setReply s c sl (.value 0 false)) c sl else s
      | k => if condHolds s c (kindOf c == .channel && sl == 0) sl k then readyIfReplied (setReply s c sl .again) c sl else s

/-- PARK_WAIT_COMPLETE (R74). -/
def execParkWaitComplete (c sl : Nat) (s : State) : Result := .next (completeWait s c sl)

/-- STORE_BUFFER_DRAIN (R116). -/
def execStoreBufferDrain (c : Nat) (x : Bool) (s : State) : Result := .next (drainOne s c x)

/-- RED_APPLY: the RED at the head of a store buffer takes its point in its double's order (R290). -/
def redApplyStep (s : State) (c : Nat) (x : Bool) : State :=
  match (stream s c x).sb with
  | e :: _ => (match e.op with | .red _ => drainOne s c x | _ => s)
  | [] => s
def execRedApply (c : Nat) (x : Bool) (s : State) : Result := .next (redApplyStep s c x)

/-! ## Messages without a traveller (R81, R93, R384) -/

/-- The trap message of a task record. The fields that R378 gives a traveller's message only hold free values. -/
def taskMsg (s : State) (t : Task) (info : TrapInfo) (c : Nat) (score : Bool) : TrapMsg :=
  { info := info, task := some t, esc := t.esc, score := score, part := t.part, core := c, slot := (Config.recordBits (s.free + 1)).toNat % 256,
    tid := 0, lslot := t.lslot, trpc := Config.recordBits s.free, cyc := s.cycle }
def sendTaskMsg (s : State) (t : Task) (info : TrapInfo) (c st : Nat) (score : Bool) : State :=
  sendMsg { s with free := s.free + 2 } st (taskMsg s t info c score)
/-- The steward of the spawner's cluster (R93). DESIGN CHOICE (assumption 61): for a spawner on a channel core, the one R379 names. -/
def spawnerSteward (s : State) (t : Task) : Nat := trapSteward s t.scoreOf t.part false

/-! ## Arrivals (R77, R81, R93) -/

/-- Flight `k` leaves the list. -/
def dropFlight (s : State) (k : Nat) : State := { s with flights := s.flights.eraseIdx k }

/-- A migration cannot be delivered at its core: it goes back (R81, R385). -/
def noHome (s : State) (c p : Nat) : Bool :=
  !(s.comp == .run) || kindOf c == .absent || kindOf c == .steward || !inPartition s c p || (core s c).isSealed || (core s c).sealing

/-- Arrivals wait in their senders' queues while the quad drains or is under test (R163). -/
def arrivalWaits (s : State) (c : Nat) : Bool := kindOf c == .compute && ((quad s (quadOf c)).draining || (quad s (quadOf c)).testing)

/-- A gated quad is woken by an arrival (R153): the arrival waits. -/
def needsWake (s : State) (c : Nat) : Bool := kindOf c == .compute && ((quad s (quadOf c)).gated || (quad s (quadOf c)).waking)
def wakeQuad (s : State) (c : Nat) : State := updQuad s (quadOf c) fun q => if q.gated then { q with waking := true } else q

/-- A traveller that was away is READY in slot `sl`. -/
def settleIn (s : State) (t : Packed) (c sl : Nat) : State :=
  let k : Slot := { hdr := t.hdr, lvl := t.lvl, birth := t.birth, pending := t.pending, pair := t.pair, twin := t.twin, kids := t.kids,
                    mate := t.mate, wait := t.wait }
  let follow (i : Issued) : Issued := match i with
    | .move _ _ tid => if tid = t.tid then .arrived c sl tid (BitVec.ofNat 64 (leNat ((t.bytes.drop 192).take 8))) else i
    | _ => i
  makeReady (place { s with xlinvOut := s.xlinvOut.map follow } c sl t.bytes k) c sl

/-- A held or arriving flight takes its place on core `c`, if there is one now. -/
def takeIn (s : State) (c : Nat) (f : Flight) : Option State :=
  match f with
  | .traveller t oc os => (if isTwinCore s c && !t.twin then none else freeSlot s c).map fun sl =>
    if t.hdr.ocube = cubeId s then ackMove (settleIn s t c sl) oc os else tellOrigin (settleIn s t c sl) t
  | .task t _ _ =>
    if isTwinCore s c then none
    else if kindOf c = .compute then
      (if ((core s c).deque).length < 64 then some (updCore s c fun k => { k with deque := t :: k.deque }) else none)
    else (freeSlot s c).map fun sl => createTask s c sl t
  | _ => none

/-- An acknowledgement that OUTS counts, if the flight carries one. -/
def ackFlight (s : State) (f : Flight) : State := match f with
  | .task _ _ (some (c, sl)) => ackOuts s c sl
  | .wake _ _ (some (c, sl)) => ackOuts s c sl
  | _ => s

/-- It is the turn of arrival `f` to enter the partition's spill area: nothing waits for room before it (R352). -/
def arrivalTurn (s : State) (p : Nat) (f : Flight) : Bool := match (part s p).spillWait with
  | [] => true
  | i :: _ => i == .arrival f

/-- A flight is held in the arrival queue of core `c`, while the partition's spill area has room; else it takes its turn behind what
waits for room already, and that is logged once (R77, R352). -/
def holdArrival (s : State) (c p : Nat) (k : Nat) (f : Flight) : State :=
  if arrivalTurn s p f && spillFits s p 512 then
    ackFlight (updPart { dropFlight s k with held := s.held ++ [(c, f)] } p fun v => { v with spillWait := v.spillWait.drop 1 }) f
  else if (part s p).spillWait.contains (.arrival f) then s
  else updPart (spillFull s p) p fun v => { v with spillWait := v.spillWait ++ [.arrival f] }

/-- TRAVELLER_ARRIVAL: in arrival order behind those already held. -/
def travellerArrival (s : State) (k : Nat) : State :=
  match s.flights[k]? with
  | some (.traveller t oc os) =>
    if t.dcube ≠ cubeId s then
      (if portRoom (dropFlight s k) then
        post (dropFlight s k) { pkt := { packetOf s oc os 0 t.dcube (.traveller t) with
          addr := 2 ^ 54 + t.dcube * 2 ^ 41 + t.dcore * 2 ^ 28, total := 288, node := os }, who := some (oc, os) }
       else s)
    else if noHome s t.dcore t.hdr.part then
      { dropFlight s k with flights := (s.flights.eraseIdx k) ++ [.bounce t oc os] }
    else if arrivalWaits s t.dcore then s
    else if needsWake s t.dcore then wakeQuad s t.dcore
    else if s.held.any (·.1 == t.dcore) then holdArrival s t.dcore t.hdr.part k (.traveller t oc os)
    else match takeIn (dropFlight s k) t.dcore (.traveller t oc os) with
      | some s' => s'
      | none => holdArrival s t.dcore t.hdr.part k (.traveller t oc os)
  | _ => s

def execTravellerArrival (k : Nat) (s : State) : Result := .next (travellerArrival s k)

/-- TASK_PACKET_ARRIVAL (R93). -/
def taskArrival (s : State) (k : Nat) : State :=
  match s.flights[k]? with
  | some (.task t c ack) =>
    let bounce (info : TrapInfo) : State := ackFlight (sendTaskMsg (dropFlight s k) t info t.scoreOf (spawnerSteward s t) false) (.task t c ack)
    if s.comp ≠ .run ∨ inPartition s c t.part = false then bounce { cause := .neterr, addr := t.saddr }
    else if (core s c).isSealed || (core s c).sealing then bounce { cause := .sealed, sub := 1, addr := t.saddr }
    else if arrivalWaits s c then s
    else if needsWake s c then wakeQuad s c
    else if s.held.any (·.1 == c) then holdArrival s c t.part k (.task t c ack)
    else match takeIn (dropFlight s k) c (.task t c ack) with
      | some s' => ackFlight s' (.task t c ack)
      | none => holdArrival s c t.part k (.task t c ack)
  | _ => s

def execTaskPacketArrival (k : Nat) (s : State) : Result := .next (taskArrival s k)

/-- HELD_ARRIVAL_ADMIT: the oldest held arrival of a core takes a place that has come free (R77). -/
def heldAdmit (s : State) (c : Nat) : State :=
  match s.held.find? (·.1 == c) with
  | none => s
  | some (_, f) =>
    if !coreLive s c && !(core s c).hardHalt then s
    else match takeIn { s with held := s.held.erase (c, f) } c f with
      | some s' => s'
      | none => s

def execHeldArrivalAdmit (c : Nat) (s : State) : Result := .next (heldAdmit s c)

/-- A wake held for the traveller of slot (c, sl) follows it to core `core` of another cube (R94). -/
def sendWake (s : State) (c sl cube core : Nat) : State :=
  transmitNew s { pkt := { scube := cubeId s, dcube := cube, cls := 1, kind := 1, ecx := ecxOf s c sl, spart := (slot s c sl).hdr.part,
                           addr := 2 ^ 54 + cube * 2 ^ 41 + core * 2 ^ 28, total := 8, payload := .wake (tidOf s c sl) core } }

/-- MIGRATION_ACK: the origin slot of an accepted traveller is FREE; wakes held for it go to the destination core (R74, R94). -/
def migrationAck (s : State) (c sl : Nat) : State :=
  match stateOf s c sl, (slot s c sl).move with
  | .migrating, some m =>
    if !m.acked then s
    else
      let tid := tidOf s c sl
      let n := (slot s c sl).heldWakes
      let s := if m.cube = cubeId s then { s with flights := s.flights ++ List.replicate n (.wake tid m.core none) }
        else (List.range n).foldl (fun s _ => sendWake s c sl m.cube m.core) s
      updSlot (setState s c sl .free) c sl fun k => { k with move := none, heldWakes := 0, pending := [] }
  | _, _ => s

def execMigrationAck (c sl : Nat) (s : State) : Result := .next (migrationAck s c sl)

/-- A migration that did not arrive: TRAPPED at its origin, NETERR, with the address that caused the move (R74); BOUNDS when the
destination is no core of its partition (R80). Wakes held for the traveller become its token (R94). -/
def moveFailed (s : State) (c sl : Nat) (cause : Cause := .neterr) : State :=
  if stateOf s c sl = .migrating then
    let addr := (((slot s c sl).move).map (·.addr)).getD 0
    let s := if (slot s c sl).heldWakes = 0 then s else setStatusBit s c sl 8 true
    let s := updSlot s c sl fun k => { k with move := none, heldWakes := 0 }
    let t : TrapInfo := { cause := cause, addr := addr }
    let s := updSlot (setState s c sl .trapped) c sl fun k => { k with wait := none, trap := some t }
    sendMsg s (trapSteward s c (slot s c sl).hdr.part false) (trapMsgOf s c sl t (savedPc s c sl))
  else s

/-- The origin core of a bounced traveller is sealed, retired or reset (R81). -/
def originGone (s : State) (t : Packed) : Bool :=
  (core s t.hdr.ocore).isSealed || (kindOf t.hdr.ocore == .compute && (quad s (quadOf t.hdr.ocore)).hole)
    || !(stateOf s t.hdr.ocore t.oslot == .migrating && tidOf s t.hdr.ocore t.oslot == t.tid)

/-- A bounced traveller whose origin is gone is held in the spill area for the handler of its partition on the steward of
OCORE's cluster (R81). DESIGN CHOICE (assumption 61): for a channel core, the steward R379 names. -/
def holdBounced (s : State) (t : Packed) : State :=
  let st := trapSteward s t.hdr.ocore t.hdr.part false
  let s := spillPut s t.hdr.part (.traveller { t with ready := false })
  sendMsg s st { info := { cause := .neterr, addr := t.addr }, task := none, esc := leNat ((t.bytes.drop 0xFE).take 2) / 2 ^ 10 % 2 == 1,
                 score := (core s t.hdr.ocore).isSealed, part := t.hdr.part, core := t.hdr.ocore, slot := t.oslot, tid := t.tid,
                 lslot := t.hdr.lslot, trpc := BitVec.ofNat 64 (leNat ((t.bytes.drop 192).take 8)), cyc := s.cycle }

/-- A bounced traveller of another cube goes there as a KIND 2 packet (R417). -/
def bounceOut (s : State) (t : Packed) : State :=
  transmitNew s { pkt := { scube := cubeId s, dcube := t.hdr.ocube, cls := 1, kind := 2, ecx := leNat ((t.bytes.drop 0xFC).take 1),
                           spart := t.hdr.part, addr := 2 ^ 54 + t.hdr.ocube * 2 ^ 41 + t.hdr.ocore * 2 ^ 28, total := 288,
                           node := t.oslot, payload := .traveller t } }

/-- MIGRATION_BOUNCE (R81). -/
def migrationBounce (s : State) (k : Nat) : State :=
  match s.flights[k]? with
  | some (.bounce t oc os) =>
    if t.hdr.ocube ≠ cubeId s then bounceOut (dropFlight s k) t
    else if s.comp ≠ .run then s
    else if originGone s t then holdBounced (dropFlight s k) t else moveFailed (dropFlight s k) oc os
  | _ => s

def execMigrationBounce (k : Nat) (s : State) : Result := .next (migrationBounce s k)

/-! ## Wakes (R94) -/

/-- A spilled traveller's WTOK is set. -/
def wakeSpilled (tid : Nat) (i : SpillItem) : SpillItem := match i with
  | .traveller t => if t.tid = tid then .traveller { t with bytes := t.bytes.set 0xFF (t.bytes.getD 0xFF 0 ||| 1) } else .traveller t
  | i => i

/-- WAKE_DELIVERY: to a traveller that was halted while it waited in PARK the awaited wake has come (R394). -/
def wakeDelivery (s : State) (k : Nat) : State :=
  match s.flights[k]? with
  | some (.wake tid c ack) =>
    let s := ackFlight (dropFlight s k) (.wake tid c ack)
    if (core s c).isSealed then s
    else match (slotsOf s c).find? (fun sl => tidOf s c sl == tid && stateOf s c sl ≠ .free && stateOf s c sl ≠ .ended) with
      | some sl =>
        (match stateOf s c sl, (slot s c sl).wait with
         | .parked, some { word := _, cond := .wake, reply := none } => readyIfReplied (setReply s c sl (.value 0 false)) c sl
         | .halted, some { word := _, cond := .wake, reply := none } => setReply s c sl (.value 0 false)
         | .migrating, _ => updSlot s c sl fun v => { v with heldWakes := v.heldWakes + 1 }
         | _, _ => setStatusBit s c sl 8 true)
      | none =>
        let p := (core s c).part
        updPart s p fun v => { v with spill := v.spill.map (wakeSpilled tid) }
  | _ => s

def execWakeDelivery (k : Nat) (s : State) : Result := .next (wakeDelivery s k)

/-! ## Stealing (R157 to R159) -/

/-- Compute cores of a cluster, ascending. -/
def coresOfCluster (k : Nat) : List Nat :=
  (List.range 64).map fun i => (k / 8 * 8 + i / 8) * 64 + (k % 8 * 8 + i % 8)

/-- The whole steal sequence of core `c`. -/
def stealSeq (c : Nat) : List Nat :=
  let k := clusterOf c
  let mine := (coresOfQuad (quadOf c)).filter (· ≠ c)
  let rest := (coresOfCluster k).filter fun d => !(coresOfQuad (quadOf c)).contains d
  mine ++ rest.filter (c < ·) ++ rest.filter (· < c)
    ++ (List.range 79).flatMap fun j => coresOfCluster ((k + j + 1) % 80)

/-- A core the sequence does not skip. -/
def mayRob (s : State) (c d : Nat) : Bool :=
  (core s d).asg && (core s d).part == (core s c).part && !isTwinCore s d
    && !(quad s (quadOf d)).hole && !(quad s (quadOf d)).gated && !(quad s (quadOf d)).waking && !(quad s (quadOf d)).draining && !(quad s (quadOf d)).testing

/-- An idle core sends a request to the next victim of its sequence, or backs off after the whole sequence (R158). -/
def stealSend (s : State) (c : Nat) : State :=
  let k := (core s c).steal
  if !coreIdle s c || isTwinCore s c || !(core s c).asg || !(core s c).deque.isEmpty || k.waiting || k.backoff || (quad s (quadOf c)).draining then s
  else match ((stealSeq c).zipIdx.drop k.pos).find? (fun e => mayRob s c e.1) with
    | some (d, n) => { updCore s c fun v => { v with steal := { pos := n + 1, waiting := true, backoff := false } } with
                       flights := s.flights ++ [.stealReq c d] }
    | none => updCore s c fun v => { v with steal := { pos := 0, waiting := false, backoff := true } }

def execStealRequestSend (c : Nat) (s : State) : Result := .next (stealSend s c)

/-- STEAL_REQUEST_SERVE: the tail of the deque of a victim in the thief's partition, or EMPTY; both packets are charged to
the task's context, or to context 0 (R159). -/
def stealServe (s : State) (k : Nat) : State :=
  match s.flights[k]? with
  | some (.stealReq c d) =>
    let s := dropFlight s k
    let same := (core s d).asg && (core s d).part == (core s c).part && !(core s d).isSealed && !(core s d).move
    match same, (core s d).deque.getLast? with
    | true, some t =>
      let s := charge (updCore s d fun v => { v with deque := v.deque.dropLast }) (meterOf c) 33 1 t.ecx
      { s with flights := s.flights ++ [.stealRep c (some t)] }
    | _, _ =>
      let s := charge s (meterOf c) 33 1 0
      { s with flights := s.flights ++ [.stealRep c none] }
  | _ => s

def execStealRequestServe (k : Nat) (s : State) : Result := .next (stealServe s k)

/-- STEAL_REPLY: a task waits while the thief's quad is under drain or test (R163); one that finds the deque full arrives as a task
does (R77). DESIGN CHOICE (assumption 74): a task whose thief's quad has been gated meanwhile enters the deque and does not wake it. -/
def stealReply (s : State) (k : Nat) : State :=
  match s.flights[k]? with
  | some (.stealRep c r) =>
    if arrivalWaits s c && r.isSome then s else
    let s := updCore (dropFlight s k) c fun v => { v with steal := { v.steal with waiting := false } }
    match r with
    | none => s
    | some t =>
      if (core s c).isSealed || (core s c).sealing then
        sendTaskMsg s t { cause := .sealed, sub := 2, addr := BitVec.ofNat 64 c } c (stewardOf (clusterOf c)) true
      else match coreIdle s c, freeSlot s c with
        | true, some sl => createTask (updCore s c fun v => { v with steal := {} }) c sl t
        | _, _ =>
          let s := updCore s c fun v => { v with steal := {} }
          if ((core s c).deque).length < 64 then updCore s c fun v => { v with deque := t :: v.deque }
          else { s with flights := s.flights ++ [.task t c none] }
  | _ => s

def execStealReply (k : Nat) (s : State) : Result := .next (stealReply s k)

/-- STEAL_BACKOFF_EXPIRY. -/
def execStealBackoffExpiry (c : Nat) (s : State) : Result :=
  .next (if (core s c).steal.backoff then updCore s c fun v => { v with steal := {} } else s)

/-! ## Spilling (R22, R152, R352, R369) -/

/-- A traveller as the spill area keeps it, with its loop. -/
def spillOf (s : State) (c sl why : Nat) : Packed :=
  { pack s c sl { core := c, cube := cubeId s, addr := 0 } with
    hdr := (slot s c sl).hdr, seqr := if hasLoop s c sl then (core s c).seqr else none, why := why }

/-- The slot of a traveller that has entered the spill area is FREE. -/
def leaveSlot (s : State) (c sl : Nat) : State :=
  let loop := hasLoop s c sl
  let s := updCore s c fun k => { k with urgQ := k.urgQ.filter (·.1 ≠ sl), normQ := k.normQ.filter (·.1 ≠ sl),
                                         seqr := if loop then none else k.seqr }
  let s := { s with strandOrder := s.strandOrder.filter (· ≠ (c, sl)) }
  updSlot (setState s c sl .free) c sl fun k => { k with wait := none, pending := [], trap := none, leaving := false }

/-- The spill of a traveller's 1 KiB is charged to context 0, as writes where the spill area begins (R365). -/
def chargeSpill (s : State) (p : Nat) : State :=
  charge s (1280 + (channelOf (cubeHash s) (regField s islandBlk (0x1100 + 32 * p + 16) 40 0)).1) 26 16 0

/-- A traveller goes to its partition's spill area; while it does not fit it stays in its slot and waits (R352). -/
def spillTraveller (s : State) (c sl why : Nat) : State :=
  let p := (slot s c sl).hdr.part
  let t := spillOf s c sl why
  if (part s p).spillWait.isEmpty && spillFits s p 1024 then
    leaveSlot (updPart (chargeSpill s p) p fun k => { k with spill := k.spill ++ [.traveller t] }) c sl
  else if (part s p).spillWait.any (fun i => match i with | .traveller u => u.tid == t.tid | _ => false) then s
  else updPart (spillFull s p) p fun k => { k with spillWait := k.spillWait ++ [.traveller t] }

/-- Every command of the traveller has completed or stopped (R366, R369). -/
def commandsStopped (s : State) (c sl : Nat) : Bool :=
  (recsOf s c sl).all fun r => r.st == 2 || r.st == 3 || (!r.active && (r.isMat || !r.isVec))
    || (!r.isMat && !r.isVec && recHalts s c r && !recOut s c (if r.major = 0x39 then 2 else 1) r.seq)

/-- Nothing of the traveller is left on its core but what the spill area takes; the X traveller is never spilled (R249). -/
def spillable (s : State) (c sl : Nat) : Bool :=
  !(kindOf c == .channel && sl == 0) && commandsStopped s c sl && holdOf s c sl == 0 && (slot s c sl).resv.isNone && (slot s c sl).outs == 0 && !copiesOut s c sl
    && !coreOutstanding s c false sl

/-- The traveller waits for room in the spill area already. -/
def spillAsked (s : State) (c sl : Nat) : Bool :=
  (part s (slot s c sl).hdr.part).spillWait.any fun i => match i with | .traveller u => u.tid == tidOf s c sl && u.dcore == c && u.oslot == sl | _ => false

/-- Of the stranded travellers that can be spilled, the one that is: cores in ascending id, the travellers of one core in the order of
its run queue (R369). -/
def strandTurn (s : State) (c sl : Nat) : Bool :=
  let l := s.strandOrder.filter fun e => stateOf s e.1 e.2 == .stranded && spillable s e.1 e.2 && !spillAsked s e.1 e.2
  !(l.any fun e => decide (e.1 < c)) && l.find? (·.1 == c) == some (c, sl)

/-- The traveller is the first of its class on the A-stream: the X traveller, which is never spilled, does not stand before it (R249). -/
def headOfClass (s : State) (c sl : Nat) : Bool :=
  let first (l : List (Nat × Nat)) : Bool := ((l.find? (onStream c false)).map (·.1)) == some sl
  first (core s c).urgQ || first (core s c).normQ

/-- TRAVELLER_SPILL: a borrower that has been pre-empted (R152), a stranded traveller in its turn (R369), or any traveller that can
while the domain is in QUIESCE (R22). -/
def travellerSpill (s : State) (c sl : Nat) : State :=
  if !spillable s c sl then s
  else if (slot s c sl).leaving ∧ stateOf s c sl = .ready then spillTraveller s c sl 1
  else if stateOf s c sl = .stranded then (if strandTurn s c sl then spillTraveller s c sl 0 else s)
  else if s.comp = .quiesce ∧ ((stateOf s c sl = .ready ∧ headOfClass s c sl = true) ∨ (stateOf s c sl = .parked ∧ ((slot s c sl).wait.map (·.reply)) = some none ∧
      ((slot s c sl).wait.map (fun w => w.cond.restarts || w.cond == .wake)) = some true)) then spillTraveller s c sl 2
  else s

def execTravellerSpill (c sl : Nat) (s : State) : Result := .next (travellerSpill s c sl)

/-- A traveller that waits for room in the spill area still stands as it did: stranded, pre-empted, or quiesced. -/
def waitsToSpill (s : State) (t : Packed) : Bool :=
  tidOf s t.dcore t.oslot == t.tid && (match t.why with
    | 0 => stateOf s t.dcore t.oslot == .stranded
    | 1 => stateOf s t.dcore t.oslot == .ready && (slot s t.dcore t.oslot).leaving
    | _ => s.comp == .quiesce && (stateOf s t.dcore t.oslot == .ready || stateOf s t.dcore t.oslot == .parked))

/-- SPILL_AREA_ADMIT: the item that has waited longest enters when it fits; a traveller that no longer stands as it did
stays in its slot, and an arrival that has gone elsewhere meanwhile has no turn. -/
def spillAreaAdmit (s : State) (p : Nat) : State :=
  match (part s p).spillWait with
  | .arrival f :: is => if s.flights.contains f then s else updPart s p fun k => { k with spillWait := is }
  | .notice st m :: is => if s.msgFlight.contains (st, m) then s else updPart s p fun k => { k with spillWait := is }
  | .traveller t :: is =>
    if t.ready = true ∧ t.why < 3 ∧ waitsToSpill s t = true then
      (if spillFits s p 1024 then
        leaveSlot (updPart (chargeSpill s p) p fun k => { k with spill := k.spill ++ [.traveller (spillOf s t.dcore t.oslot t.why)], spillWait := is }) t.dcore t.oslot
       else s)
    else if t.ready = false ∨ 3 ≤ t.why then spillAdmit s p
    else updPart s p fun k => { k with spillWait := is }
  | _ => spillAdmit s p

def execSpillAreaAdmit (p : Nat) (s : State) : Result := .next (spillAreaAdmit s p)

/-! ## Placement of spilled travellers (R152, R370, R380) -/

/-- A core that can take a spilled traveller: a free slot, a free sequencer for a loop, and for a borrower no reserve. -/
def canTake (s : State) (t : Packed) (c : Nat) : Bool :=
  kindOf c == kindOf t.dcore && inPartition s c t.hdr.part && !(core s c).isSealed && !(core s c).sealing && !(core s c).move
    && (t.seqr.isNone || (core s c).seqr.isNone) && !(t.why == 1 && inReserve s c)
    && !arrivalWaits s c && (freeSlot s c).isSome

/-- The core the dispatcher chooses: its former core, else the lowest that can take it (the choice is the model's). -/
def spillCore (s : State) (t : Packed) : Option Nat :=
  if canTake s t t.dcore && t.why ≠ 3 then some t.dcore
  else (s.cores.map (·.1)).find? (canTake s t)

/-- Put a spilled traveller in slot `sl` of core `c`. -/
def unspill (s : State) (t : Packed) (c sl : Nat) : State :=
  let s := settleIn s { t with bytes := t.bytes } c sl
  match t.seqr with
  | some q => updCore s c fun k => { k with seqr := some { q with slot := sl, body := q.body.map fun r => { r with slot := sl } } }
  | none => s

/-- A spilled traveller that may be placed: its context is not stranded. -/
def spillReady (s : State) (i : SpillItem) : Bool := match i with
  | .traveller t => t.ready && t.why ≠ 2 && !(t.lvl == 0 && s.stranded.contains (leNat ((t.bytes.drop 0xFC).take 1)))
  | _ => false
/-- The traveller spilled first of those whose context has resumed, which is placed before the later ones and before any launch of the
partition (R370). -/
def firstResumed (s : State) (p : Nat) : Option SpillItem :=
  (part s p).spill.find? fun i => spillReady s i && (match i with | .traveller t => t.why == 0 | _ => false)

/-- SPILLED_TRAVELLER_PLACEMENT: the first in spill order that has a core, of the resumed ones only the first (R370); a gated quad is
woken first (R153). -/
def placeSpilled (s : State) (p : Nat) : State :=
  let turn (i : SpillItem) : Bool := match i with
    | .traveller t => (t.why != 0 || firstResumed s p == some i) && (spillCore s t).isSome
    | _ => false
  if s.comp ≠ .run then s
  else match (part s p).spill.find? (fun i => spillReady s i && turn i) with
    | some (.traveller t) =>
      (match spillCore s t with
       | some c =>
         if needsWake s c then wakeQuad s c
         else match freeSlot s c with
         | some sl => unspill (updPart s p fun k => { k with spill := k.spill.erase (.traveller t) }) t c sl
         | none => s
       | none => s)
    | _ => s

def execSpilledTravellerPlacement (p : Nat) (s : State) : Result := .next (placeSpilled s p)

/-! ## What a core takes at an issue (R381) -/

/-- The RUNNING traveller of a stream with its pc. -/
def runningOf (s : State) (c : Nat) (x : Bool) : Option (Nat × Word) := ((stream s c x).run).map fun sl => (sl, (stream s c x).pc)

/-- Drop a pending item. -/
def takePending (s : State) (c sl : Nat) (f : Pending → Bool) : State :=
  updSlot s c sl fun k => { k with pending := k.pending.filter fun i => !f i }

/-- The traveller of stream (c, x) stops as STRANDED with its pc unchanged (R74, R366). -/
def strandTaken (s : State) (c : Nat) (x : Bool) : State :=
  match runningOf s c x with
  | some (sl, pc) => { setState (switchOut s c x pc) c sl .stranded with strandOrder := s.strandOrder ++ [(c, sl)] }
  | none => s

/-- A traveller's context is stranded for it (R366). -/
def strandsNow (s : State) (c sl : Nat) : Bool := (slot s c sl).lvl == 0 && s.stranded.contains (ecxOf s c sl)

/-- STRAND_NOTICE: the cores are told (R366); each traveller of the context strands before its next issue. -/
def strandNotice (s : State) (x : Nat) : State :=
  if s.strandNotice.contains x then
    { s with strandNotice := s.strandNotice.filter (· ≠ x), stranded := if s.stranded.contains x then s.stranded else s.stranded ++ [x] }
  else s
def execStrandNotice (x : Nat) (s : State) : Result := .next (strandNotice s x)

/-- Take pending trap `i` of the running traveller with trap `t`. -/
def trapTaken (s : State) (c : Nat) (x : Bool) (i : Pending → Option TrapInfo) : State :=
  match runningOf s c x with
  | some (sl, pc) => match (slot s c sl).pending.findSome? i with
    | some t => takeTrap (takePending s c sl fun j => (i j) == some t) c x sl pc t
    | none => s
  | none => s

/-- CANCEL_TAKEN (R146). -/
def cancelTaken (s : State) (c : Nat) (x : Bool) : State :=
  match runningOf s c x with
  | some (sl, _) => trapTaken s c x fun i => if i = .cancel then some (launchTrap .cancel (slot s c sl).hdr.lslot) else none
  | none => s
def execCancelTaken (c : Nat) (x : Bool) (s : State) : Result := .next (cancelTaken s c x)

/-- A watchdog event taken at the next issue (R161, R438). -/
def watchdogTaken (s : State) (c : Nat) (x : Bool) : State :=
  match runningOf s c x with
  | some (sl, _) => trapTaken s c x fun i => if i = .watchdog then some (launchTrap .watchdog (slot s c sl).hdr.lslot) else none
  | none => s

/-- An escort mismatch taken at the next issue (R388). The primary's message covers the pair; the twin sends none. -/
def escortTaken (s : State) (c : Nat) (x : Bool) : State :=
  match runningOf s c x with
  | some (sl, pc) =>
    (match (slot s c sl).pending.findSome? (fun i => match i with | .escort a => some a | _ => none) with
     | some a =>
       let t : TrapInfo := { cause := .escort, addr := a }
       let s := takePending s c sl fun i => match i with | .escort _ => true | _ => false
       if (slot s c sl).twin then
         let s := switchOut s c x pc
         updSlot (setState s c sl .trapped) c sl fun k => { k with wait := none, trap := some t }
       else
         let s := updSlot (setState (switchOut s c x pc) c sl .trapped) c sl fun k => { k with wait := none, trap := some t }
         sendMsg s (trapSteward s c (slot s c sl).hdr.part x) { trapMsgOf s c sl t pc with esc := true }
     | none => s)
  | none => s

/-- The trap that the home of an SFE found is taken at the next issue. DESIGN CHOICE (assumption 75): R119 gives an SFE no wait, so the
Trap SEALED of R385 comes with the traveller's next issue. -/
def lateTaken (s : State) (c : Nat) (x : Bool) : State := trapTaken s c x fun i => match i with | .late t => some t | _ => none

/-- ENGINE_FAULT_DELIVERY (R196). -/
def engineFaultDelivery (s : State) (c : Nat) (x : Bool) : State :=
  trapTaken s c x fun i => match i with | .engine t => some t | _ => none
def execEngineFaultDelivery (c : Nat) (x : Bool) (s : State) : Result := .next (engineFaultDelivery s c x)

/-- The conditions of a pre-emption (R152). -/
def preemptOk (s : State) (c sl : Nat) : Bool :=
  (slot s c sl).pending.contains .preempt && holdOf s c sl == 0 && !hasCommands s c sl && (slot s c sl).resv.isNone

/-- PREEMPTION_TAKEN: READY as by YIELD, but for the run queue: it leaves the core, and is spilled for placement elsewhere as soon
as nothing of it is left there (R152, TRAVELLER_SPILL). -/
def preemptionTaken (s : State) (c : Nat) : State :=
  match runningOf s c false with
  | some (sl, pc) =>
    if preemptOk s c sl then
      let s := takePending (switchOut s c false pc) c sl (· == .preempt)
      updSlot (setState s c sl .ready) c sl fun k => { k with leaving := true }
    else s
  | none => s
def execPreemptionTaken (c : Nat) (s : State) : Result := .next (preemptionTaken s c)

/-- DEBUG_HALT_TAKEN (R390, R392). -/
def debugHaltTaken (s : State) (c : Nat) (x : Bool) : State :=
  match runningOf s c x with
  | some (sl, pc) =>
    if (slot s c sl).pending.contains .halt then haltRunning (takePending s c sl (· == .halt)) c x sl pc else s
  | none => s
def execDebugHaltTaken (c : Nat) (x : Bool) (s : State) : Result := .next (debugHaltTaken s c x)

/-- The word about to issue is the one DBGCTL matches (R390). -/
def matchNow (s : State) (c sl : Nat) (pc : Word) : Bool :=
  let d := mget 0 s.dbgctl (slot s c sl).hdr.part
  d.getLsbD 0 && d.getLsbD 2 && !(slot s c sl).noMatch && pc.toNat == aliasBase c + 4 * (d.toNat / 2 ^ 8 % 2 ^ 18)

/-- ADDRESS_MATCH_HALT: after a resume the word issues once without matching. -/
def addressMatchHalt (s : State) (c : Nat) (x : Bool) : State :=
  match runningOf s c x with
  | some (sl, pc) =>
    if matchNow s c sl pc then haltRunning (updSlot s c sl fun k => { k with noMatch := true }) c x sl pc else s
  | none => s
def execAddressMatchHalt (c : Nat) (x : Bool) (s : State) : Result := .next (addressMatchHalt s c x)

/-! ## Debug requests (R391, R394) -/

/-- A halt request to one traveller: at once when READY or PARKED, else pending (R390). -/
def requestHalt (s : State) (c sl : Nat) : State :=
  match stateOf s c sl with
  | .ready => haltSlot s c sl .ready
  | .parked => haltSlot s c sl .parked
  | .halted => s
  | _ => addPending s c sl .halt

/-- A pending halt request of a traveller, wherever it is: a MIGRATING traveller takes it at its destination (R390). -/
def haltFlights (s : State) (f : Packed → Bool) : State :=
  onAway s fun t => if f t && !t.pending.contains .halt then { t with pending := t.pending ++ [.halt] } else t
/-- A request not yet taken is withdrawn (R391). -/
def resumeFlights (s : State) (f : Packed → Bool) : State :=
  onAway s fun t => if f t then { t with pending := t.pending.filter (· ≠ .halt) } else t

/-- A resume: a HALTED traveller goes on; a request not yet taken is withdrawn. -/
def requestResume (s : State) (c sl : Nat) : State :=
  if stateOf s c sl = .halted then resumeHalted s c sl else takePending s c sl (· == .halt)

/-- The targets of the request that DBGREQ holds. -/
def dbgTargets (s : State) (launch : Bool) : List (Nat × Nat) :=
  let v := (getReg s islandBlk 0xF008).toNat
  let id := v % 2 ^ 32
  let c := v / 2 ^ 32 % 2 ^ 13
  let p := v / 2 ^ 45 % 32
  if launch then membersOf s p id
  else (liveSlots s).filter fun e => e.1 == c && tidOf s e.1 e.2 == id && (slot s e.1 e.2).hdr.part == p
    && stateOf s e.1 e.2 ≠ .free && stateOf s e.1 e.2 ≠ .ended

/-- A request is applied: GO and BUSY fall, ERR says whether it matched no traveller. -/
def dbgDone (s : State) (none? : Bool) : State :=
  putField (putField s islandBlk 0xF008 53 52 0) islandBlk 0xF008 54 54 (b2n none?)

/-- The travellers away from a slot that the request names: those of the launch, or the one that has left the named core's slot. -/
def dbgAway (s : State) (launch : Bool) (ts : List (Nat × Nat)) (t : Packed) : Bool :=
  let v := (getReg s islandBlk 0xF008).toNat
  if launch then t.hdr.inLaunch s (v / 2 ^ 45 % 32) (v % 2 ^ 32) else ts.contains (t.hdr.ocore, t.oslot) && t.tid == v % 2 ^ 32

/-- Debug requests of a partition are honoured while its DBGCTL.EN is set (R390). -/
def dbgHalt (s : State) (launch : Bool) : State :=
  let ts := dbgTargets s launch
  let p := (getReg s islandBlk 0xF008).toNat / 2 ^ 45 % 32
  let away := dbgAway s launch ts
  let s := dbgDone s (ts.isEmpty && !(awayOf s).any away)
  if dbgEn s p then
    ts.foldl (fun s e => if stateOf s e.1 e.2 = .migrating then s else requestHalt s e.1 e.2) (haltFlights s away)
  else s
def dbgResume (s : State) (launch : Bool) : State :=
  let ts := dbgTargets s launch
  let away := dbgAway s launch ts
  ts.foldl (fun s e => requestResume s e.1 e.2) (resumeFlights (dbgDone s (ts.isEmpty && !(awayOf s).any away)) away)

def execDbgHaltTraveller (s : State) : Result := .next (dbgHalt s false)
def execDbgResumeTraveller (s : State) : Result := .next (dbgResume s false)
def execDbgHaltLaunch (s : State) : Result := .next (dbgHalt s true)
def execDbgResumeLaunch (s : State) : Result := .next (dbgResume s true)

end Sys2Proof.Machine
end

