-- ==== Sys2Proof/Machine/Stripes.lean ====
section
/-! DEFINITION. Changes of the stripe map and the map sequencer (R336 to R340, R344), and the movement of granules (R341). -/

namespace Sys2Proof.Machine

/-! ## The sequencer (R340) -/

/-- Some cube set names the cube DEAD. -/
def cubeDead (s : State) (c : Nat) : Bool := s.sets.any fun e => e.2.any fun m => m.toNat % 4096 == c && decide (2 ^ 15 ≤ m.toNat)

/-- Every cube of the network, this one included. -/
def allCubes (s : State) : List Nat := (List.range (min 4096 (cubeCount s))).filter fun c => !cubeDead s c

/-- The cube of the map sequencer. -/
def seqCube (s : State) : Nat := ((allCubes s).find? fun c => c != cubeId s || cubeValid s).getD (cubeId s)

/-- The members that the image of a set gives (R336); `none` when a reserved bit is set, the count is no count, or a half beyond it is not
zero. -/
def setMembers (header : BitVec 128) (halves : List (BitVec 16)) : Option (List (BitVec 16)) :=
  let n := header.toNat
  if 1 ≤ n ∧ n ≤ 256 ∧ halves.length = 256 ∧ (halves.drop n).all (· == 0) = true then some (halves.take n) else none
/-- The change that gives set `i` the members `ms`. -/
def setChange (i : Nat) (ms : List (BitVec 16)) : MapChange :=
  .set i (BitVec.ofNat 128 ms.length) (ms ++ List.replicate (256 - ms.length) 0)

/-- The cube that numbers change `c`: the next-lowest live cube for one that names the sequencer's cube DEAD, which no longer answers
(R340, R404; DEDUCED, assumption 47). -/
def seqCubeFor (s : State) (c : MapChange) : Nat := match c with
  | .set _ h v =>
    let ms := (setMembers h v).getD []
    let gone (d : Nat) : Bool := ms.any fun m => m.toNat % 4096 == d && decide (2 ^ 15 ≤ m.toNat)
    ((allCubes s).find? fun d => (d != cubeId s || cubeValid s) && !gone d).getD (cubeId s)
  | _ => seqCube s

/-! ## Checks of a change (R338, R339) -/

/-- An entry as a change writes it; `none` when a reserved bit or an illegal code is set. -/
def stripeOf (v : Nat) : Option Stripe :=
  if bitsOf v 31 23 ≠ 0 ∨ bitsOf v 63 55 ≠ 0 ∨ bitsOf v 75 73 ≠ 0 ∨ bitsOf v 127 115 ≠ 0 ∨ bitsOf v 255 192 ≠ 0
      ∨ 9 < bitsOf v 110 107 ∨ bitsOf v 112 111 = 3 ∨ bitsOf v 114 113 = 3 then none
  else some { base := bitsOf v 22 0, size := bitsOf v 54 32, oset := bitsOf v 72 64, olb := bitsOf v 86 76, nset := bitsOf v 95 87,
              nlb := bitsOf v 106 96, gran := bitsOf v 110 107, hash := bitsOf v 112 111, state := bitsOf v 114 113 }

def stripeAt (s : State) (i : Nat) : Stripe := mget {} s.stripe i
def putStripe (s : State) (i : Nat) (e : Stripe) : State := { s with stripe := mput {} s.stripe i e }

/-- The entry uses its new set too. -/
def usesNew (e : Stripe) : Bool := e.state == 1 || (e.state == 2 && e.cursor != 0)
/-- The sets an entry uses, each with the base of its shares. -/
def stripeSets (e : Stripe) : List (Nat × Nat) := (e.oset, e.olb) :: (if usesNew e then [(e.nset, e.nlb)] else [])
/-- The set is used by an entry. -/
def setInUse (s : State) (k : Nat) : Bool := s.stripe.any fun e => e.2.size != 0 && (stripeSets e.2).any (·.1 == k)

def memberCube (m : BitVec 16) : Nat := m.toNat % 4096
def memberDead (m : BitVec 16) : Bool := decide (2 ^ 15 ≤ m.toNat)

/-- The shares of an entry: cube, base and length in GiB. -/
def shares (s : State) (e : Stripe) : List (Nat × Nat × Nat) :=
  (stripeSets e).flatMap fun k => (setOf s k.1).map fun m => (memberCube m, k.2, e.size / max 1 (setOf s k.1).length)

/-- Two shares overlap on one cube. -/
def shareClash (a b : Nat × Nat × Nat) : Bool :=
  a.1 == b.1 && decide (a.2.1 < b.2.1 + b.2.2) && decide (b.2.1 < a.2.1 + a.2.2)

/-- R338 holds of entry `i` with value `e` beside the other entries. -/
def stripeFits (s : State) (i : Nat) (e : Stripe) : Bool :=
  let others := s.stripe.filter fun o => o.1 != i && o.2.size != 0
  e.size == 0 ||
    ((stripeSets e).all (fun k => decide ((setOf s k.1).length ≠ 0) && e.size % (setOf s k.1).length == 0)
      && (shares s e).all (fun a => decide (a.2.1 + a.2.2 ≤ 2032))
      && others.all (fun o => (decide (o.2.base + o.2.size ≤ e.base) || decide (e.base + e.size ≤ o.2.base))
          && (shares s o.2).all (fun b => (shares s e).all fun a => !shareClash a b && (a.1 != b.1 || o.2.hash == e.hash))))

/-- What a change may not touch of a used entry. -/
def sameStripe (a b : Stripe) : Bool :=
  a.base == b.base && a.size == b.size && a.oset == b.oset && a.olb == b.olb && a.gran == b.gran && a.hash == b.hash

/-- A leaf for network DRAM meets the range of the entry. -/
def mapsInto (e : Stripe) (l oa : Nat) : Bool :=
  oa / 2 ^ 53 == 0 && decide (oa < (e.base + e.size) * 2 ^ 30) && decide (e.base * 2 ^ 30 < oa + 2 ^ pageBits l)

/-- A leaf of the table of level `l` at network address `tab`, or of `n` levels at most below it, maps into the entry. -/
def treeMaps (s : State) (e : Stripe) : Nat → Nat → Nat → Bool
  | 0, _, _ => false
  | n + 1, l, tab => (List.range (2 ^ levelBits l)).any fun i => match dramHere s (tab + i * 16) with
    | none => false
    | some pa =>
      let lo := rdN s.mem pa 8
      let oa := rdN s.mem (pa + 8) 8 % 2 ^ 56
      lo.testBit 0 && (if lo.testBit 1 then !leafMalformed s l oa (lo.testBit 4) && mapsInto e l oa else treeMaps s e n (l + 1) oa)

/-- No translation maps into the entry (R339): none that a core keeps, none of the tables of this cube, and none of another
cube, which this one cannot see (DESIGN CHOICE, assumption 80: a free value). -/
def unmapped (s : State) (e : Stripe) : Bool :=
  let kept := s.cores.flatMap (·.2.tlb)
  let trees := (List.range 24).any fun p =>
    let root := getReg s islandBlk (0x5000 + 8 * p)
    root.getLsbD 63 && treeMaps s e 4 0 (root.toNat % 2 ^ 56)
  let elsewhere := (allCubes s).any (· != cubeId s) && Config.mappedElsewhere s.net.mapNext
  !kept.any (fun t => mapsInto e t.level t.oa) && !trees && !elsewhere

/-- A write of `w` over entry `o` is one of the rows of R339. -/
def stripeStep (s : State) (o w : Stripe) : Bool :=
  if o.size = 0 then w.state == 0
  else if o.state = 0 then
    if w.size = 0 ∧ w.state = 0 then unmapped s o else w.state == 1 && sameStripe o w
  else o.state == 2 && w.state == 1 && sameStripe o w && (setOf s w.nset).all fun m => !memberDead m

/-- The entry that a write of `w` over `o` leaves: CURSOR starts at 0 from STABLE, and is kept from LOST (R339). -/
def stripeMade (o w : Stripe) : Stripe :=
  if o.size = 0 then w
  else if w.size = 0 then {}
  else if o.state = 2 then { w with cursor := o.cursor, moved := o.moved }
  else { w with cursor := 0 }

/-- Members without repeats and without reserved bits, and DEAD alone changed while the set is in use. -/
def setFits (s : State) (i : Nat) (ms : List (BitVec 16)) : Bool :=
  decide (i < 512) && decide (1 ≤ ms.length) && decide (ms.length ≤ 256) && ms.all (fun m => m.toNat / 4096 % 8 == 0)
    && decide ((ms.map memberCube).eraseDups.length = ms.length)
    && (!setInUse s i || (setOf s i).map memberCube == ms.map memberCube)

/-- Entries that use a set with a DEAD member go LOST: the copy stops, CURSOR stays (R339, R344). -/
def loseEntries (s : State) (i : Nat) : State :=
  { s with stripe := s.stripe.map fun e =>
      if e.2.size ≠ 0 ∧ e.2.state ≠ 2 ∧ (stripeSets e.2).any (·.1 == i) = true then (e.1, { e.2 with state := 2, copying := [] }) else e }

/-- R338 and R339 let the change be made. -/
def changeFits (s : State) : MapChange → Bool
  | .entry i v => decide (i < 1024) && (match stripeOf v.toNat with
    | none => false
    | some w => stripeStep s (stripeAt s i) w && stripeFits s i (stripeMade (stripeAt s i) w))
  | .set i h v => (match setMembers h v with
    | none => false
    | some ms => setFits s i ms)

/-- The map after a change that the sequencer has accepted (R340). -/
def changeMade (s : State) : MapChange → State
  | .entry i v => (match stripeOf v.toNat with
    | none => s
    | some w => putStripe s i (stripeMade (stripeAt s i) w))
  | .set i h v => (match setMembers h v with
    | none => s
    | some ms =>
      let died := (ms.filter memberDead).any fun m => !(setOf s i).contains m
      let s' := { s with sets := mput [] s.sets i ms }
      if died then loseEntries s' i else s')

/-- MAPSTAT.ERR (R340). -/
def mapErr (s : State) (v : Nat) : State := putField s islandBlk 0x8008 0 0 v

/-- A sequenced change of cube `issuer` is applied: every copy of the map makes it, as the sequencer checked it. When the sequencer's cube
has died, the changes of this island that went to it and that it had not numbered are refused (R340). -/
def applyChange (s : State) (issuer : Nat) (c : MapChange) : State :=
  let before := seqCube s
  let open_ := if issuer = cubeId s then s.net.mapIssued.erase c else s.net.mapIssued
  let lost := open_.filter fun d => seqCubeFor s d == before
  let s := changeMade s c
  let s := { s with net := { s.net with mapApplied := s.net.mapApplied + 1, mapNext := max s.net.mapNext (s.net.mapApplied + 1),
                                        mapAcks := s.net.mapAcks.map (fun a => (a.1, a.2.1, a.2.2.filter fun c => !cubeDead s c)),
                                        mapIssued := open_ } }
  if seqCube s = before ∨ lost.isEmpty = true then s
  else
    let stays (x : Sent) : Bool := match x.pkt.payload with | .change none _ _ => x.pkt.dcube != before | _ => true
    mapErr { s with net := { s.net with mapIssued := open_.filter (!lost.contains ·), retry := s.net.retry.filter stays,
                                        sendQ := s.net.sendQ.filter stays } } 1

/-- An OC-M packet of the island controller (R406). -/
def sendOcm (s : State) (cube : Nat) (pl : Payload) : State :=
  transmitNew s { pkt := { scube := cubeId s, dcube := cube, cls := 3, kind := 12, ecx := 0, spart := 0, payload := pl } }

/-- Change `c` goes to the sequencer (R340). -/
def issueChange (s : State) (c : MapChange) : State :=
  let s := putField s islandBlk 0x8000 31 0 ((regField s islandBlk 0x8000 31 0 + 1) % 2 ^ 32)
  sendOcm { s with net := { s.net with mapIssued := s.net.mapIssued ++ [c] } } (seqCubeFor s c) (.change none (cubeId s) c)

/-- Cube `cube` has acknowledged change `n`; when it was the last the issuing island is told. -/
def changeAcked (s : State) (n cube : Nat) : State :=
  match s.net.mapAcks.find? (·.1 == n) with
  | none => s
  | some a =>
    let left := a.2.2.filter (· ≠ cube)
    let rest := s.net.mapAcks.filter (·.1 != n)
    if left.isEmpty then sendOcm { s with net := { s.net with mapAcks := rest } } a.2.1 (.changeAck n true)
    else { s with net := { s.net with mapAcks := rest ++ [(n, a.2.1, left)] } }

/-! ## Restriping (R341) -/

def granBytes (e : Stripe) : Nat := 2 ^ (e.gran + 12)
/-- The member of a set that holds granule `g`. -/
def memberFor (s : State) (k g : Nat) : BitVec 16 := (setOf s k).getD (g % max 1 (setOf s k).length) 0
/-- The physical pieces of granule `g` at its new cube. -/
def newParts (s : State) (e : Stripe) (g : Nat) : List (Nat × Nat) :=
  let l := e.nlb * 2 ^ 30 + g / max 1 (setOf s e.nset).length * granBytes e
  (List.range (max 1 (granBytes e / 2 ^ 19))).map fun k => channelOf e.hash (l + k * 2 ^ 19)
def pieceLen (e : Stripe) : Nat := min (granBytes e) (2 ^ 19)

/-- The island that advances CURSOR: OSET's member 0, or its first live member. -/
def cursorCube (s : State) (e : Stripe) : Nat := (((setOf s e.oset).find? fun m => !memberDead m).map memberCube).getD 0

/-- CURSOR reaches the entry's size: it is STABLE on the new set (R339). -/
def restripeDone (e : Stripe) : Stripe :=
  if e.cursor = e.size * 2 ^ 30 then { e with oset := e.nset, olb := e.nlb, cursor := 0, state := 0, copying := [], moved := [] } else e

/-- CURSOR passes moved granules in order. -/
def advanceCursor (e : Stripe) : Nat → Stripe
  | 0 => e
  | n + 1 =>
    let g := e.cursor / granBytes e
    if e.moved.contains g then advanceCursor { e with cursor := e.cursor + granBytes e, moved := e.moved.filter (· ≠ g) } n else e

/-- The network address of physical address `pa` in granule `g` of entry `e` at its old cube. -/
def movedFrom (s : State) (e : Stripe) (g pa : Nat) : Option Nat :=
  let ps := oldParts s e g
  let at_ (q : Nat × Nat) : Nat := dramPa q.1 q.2
  (List.range ps.length).findSome? fun k =>
    let a := at_ (ps.getD k (0, 0))
    if a ≤ pa ∧ pa < a + pieceLen e then some (e.base * 2 ^ 30 + g * granBytes e + k * pieceLen e + (pa - a)) else none

/-- A courier's write that waits for physical address `w.pa`, which is now at network address `a`: at its new place, or as a packet of the
record's to another cube. -/
def rerouteWrite (s : State) (w : EngWrite) (a : Nat) : State :=
  let put (s : State) (f : EngWrite → List EngWrite) : State := { s with engWrites := s.engWrites.flatMap fun v => if v == w then f v else [v] }
  match stripePlace s a, (core s w.src.1).courierQ.find? (fun r => r.seq == w.src.2.2) with
  | some pl, some r =>
    if pl.cube = cubeId s then put s fun v => [{ v with pa := dramPa pl.ch pl.off }]
    else
      let q : Packet := { scube := cubeId s, dcube := pl.cube, cls := 1, kind := 4, ecx := r.ecx, spart := r.part, score := w.src.1, msgid := s.net.msgid,
                          addr := a, total := w.bytes.length, payload := .data w.bytes }
      let x : Sent := { pkt := q, who := some (w.src.1, r.slot), cmd := some r.seq }
      put { s with net := { s.net with portQ := s.net.portQ ++ [x], msgid := (s.net.msgid + 1) % 2 ^ 32 } } fun _ => []
  | _, _ => s

/-- Accesses that wait at the old cube for a granule whose copy is over (R342): a store and a courier's write go on to the new place; a load
and a request for a reservation start again and are routed anew. `na` gives the network addresses of the granule's physical ones. -/
def reroute (s : State) (na : Nat → Option Nat) : State :=
  let entry (e : SbEntry) : SbEntry := match e.pa.bind na with
    | none => e
    | some a => (match stripePlace s a with
      | none => e
      | some pl => if pl.cube = cubeId s then { e with pa := some (dramPa pl.ch pl.off) } else { e with pa := none, net := some (a, pl.cube) })
  let s : State := { s with streams := s.streams.map (fun k => (k.1, { k.2 with sb := k.2.sb.map entry }))
                            resvQ := s.resvQ.filter fun d => (na d.1).isNone }
  let s : State := s.engWrites.foldl (fun (s : State) (w : EngWrite) => if w.src.2.1 = 1 then (match na w.pa with | some a => rerouteWrite s w a | none => s) else s) s
  (liveSlots s).foldl (fun s e => match (slot s e.1 e.2).wait with
    | some { word := _, cond := .load pa _ _ _, reply := none } | some { word := _, cond := .grant pa _, reply := none } =>
      if (na pa).isSome then readyIfReplied (fillReply s e.1 e.2 .again) e.1 e.2 else s
    | _ => s) s

/-- Granule `g` of entry `i` is at its new cube: the island that holds CURSOR advances it and tells every other; another
island tells that one. -/
def granuleMoved (s : State) (i g : Nat) : State :=
  let e := stripeAt s i
  if e.state ≠ 1 then s
  else
    let na := movedFrom s e g
    let here := memberCube (memberFor s e.oset g) == cubeId s && !memberDead (memberFor s e.oset g)
    let e := { e with copying := e.copying.filter (· ≠ g), moved := if e.moved.contains g then e.moved else e.moved ++ [g] }
    let s := if here then reroute (putStripe s i e) na else s
    if cursorCube s e ≠ cubeId s then sendOcm (putStripe s i e) (cursorCube s e) (.granule i g [])
    else
      let e' := advanceCursor e e.moved.length
      let s := putStripe s i (restripeDone e')
      if e'.cursor = e.cursor then s else (otherCubes s).foldl (fun s c => sendOcm s c (.cursor i e'.cursor)) s

/-- A new CURSOR from the island that advances it. -/
def cursorTold (s : State) (i c : Nat) : State :=
  let e := stripeAt s i
  if (e.state = 1 ∨ e.state = 2) ∧ e.cursor < c then
    putStripe s i (restripeDone { e with cursor := c, moved := e.moved.filter fun g => decide (c ≤ g * granBytes e) })
  else s

/-- The bytes of pieces of a granule, written in order; the copy is charged to context 0. -/
def writePieces (s : State) (n : Nat) : List (Nat × Nat) → List (Byte × Bool) → State
  | [], _ => s
  | (ch, o) :: ps, bs => writePieces (charge (writeNoting s 0 0 (BitVec.ofNat 64 (dramPa ch o)) (dramPa ch o) (bs.take n)) (1280 + ch) 26 (n / 64) 0) n ps (bs.drop n)

/-- A granule comes to its new cube; an empty one tells the island that holds CURSOR that it has moved. -/
def granuleComes (s : State) (i g : Nat) (bs : List (Byte × Bool)) : State :=
  let e := stripeAt s i
  if bs.isEmpty then granuleMoved s i g else writePieces s (pieceLen e) (newParts s e g) bs

/-- The next granule of entry `e` that this island moves: on its own, or a dead cube's that comes here. It is one of the 64 from CURSOR,
so that no more of the entry are under way at once. -/
def nextGranule (s : State) (e : Stripe) : Option Nat :=
  let c0 := e.cursor / granBytes e
  let total := e.size * 2 ^ 30 / granBytes e
  ((List.range 64).map (c0 + ·)).find? fun g =>
    decide (g < total) && !e.copying.contains g && !e.moved.contains g
      && (if memberDead (memberFor s e.oset g) then memberCube (memberFor s e.nset g) == cubeId s
          else memberCube (memberFor s e.oset g) == cubeId s)

/-- A double of granule `g` is reserved or asked for: an atomic is in progress there. -/
def granuleReserved (s : State) (e : Stripe) (g : Nat) : Bool := s.resvQ.any fun d => !d.2.isEmpty && (movedFrom s e g d.1).isSome

/-- RESTRIPE_GRANULE_COPY: the granule is blocked, read, and goes to its new cube with its poison; one of a dead cube is
written as poison and logged. DEDUCED (assumption 81): it waits until no atomic is in progress there. -/
def granuleCopy (s : State) (i : Nat) : State :=
  let e := stripeAt s i
  if e.state ≠ 1 ∨ 64 ≤ e.copying.length ∨ s.memDom ≠ .on ∨ s.ws = .off ∨ s.ws = .boot then s
  else match nextGranule s e with
    | none => s
    | some g =>
      let s' := putStripe s i { e with copying := e.copying ++ [g] }
      if granuleReserved s e g then s
      else if memberDead (memberFor s e.oset g) then
        let s := writePieces s' (pieceLen e) (newParts s e g) (List.replicate (granBytes e) (0, true))
        granuleMoved (trapLog s 0 1 0 7 (BitVec.ofNat 64 (e.base * 2 ^ 30 + g * granBytes e))) i g
      else
        let ps := oldParts s e g
        let s := ps.foldl (fun s (q : Nat × Nat) =>
          charge (findErrors s (dramPa q.1 q.2) (pieceLen e) 0 0) (1280 + q.1) 25 (pieceLen e / 64) 0) s'
        let bs := ps.flatMap fun q => bytesAt s (dramPa q.1 q.2) (pieceLen e)
        sendOcm s (memberCube (memberFor s e.nset g)) (.granule i g bs)

def execRestripeGranuleCopy (e : Nat) (s : State) : Result := .next (granuleCopy s e)

end Sys2Proof.Machine
end

