-- ==== Sys2Proof/Machine/Serve.lean ====
section
/-! DEFINITION. The receiving windows and connections (R407 to R410), what a cube does for a request of another (R185, R259,
R276, R284, R290, R316, R351, R409, R416, R417, R419), and how a message ends at its sender (R307, R407). -/

namespace Sys2Proof.Machine

/-! ## Receiving windows (R407) -/

/-- A packet against its window: new, already accepted, below the window, or behind a gap. An empty window takes the first
packet as it comes. -/
inductive SeqCase where | fresh | duplicate | below | gap
deriving DecidableEq, Repr
def seqCase (s : State) (q : Packet) : SeqCase :=
  match lookup s.net.windows (winKey q) with
  | none => .fresh
  | some w =>
    let hi := mget 0 s.net.winBase (winKey q)
    let up := (q.seq + 2 ^ 32 - hi) % 2 ^ 32
    if up ≠ 0 ∧ up < 2 ^ 31 then (if q.cls = 0 ∧ up ≠ 1 then .gap else .fresh)
    else if 1024 ≤ (hi + 2 ^ 32 - q.seq) % 2 ^ 32 then .below
    else if w.contains q.seq then .duplicate else .fresh

/-- Packet `k` of the inbox leaves it. -/
def dropInbox (s : State) (k : Nat) : State := { s with net := { s.net with inbox := s.net.inbox.eraseIdx k } }

/-- The packet at place `k` has come in by a link: its flits are charged there to its context (R359, R365). -/
def enterPort (s : State) (k : Nat) : State :=
  match s.net.inbox[k]? with
  | some q =>
    if 16 ≤ q.via then s
    else charge { s with net := { s.net with inbox := s.net.inbox.set k { q with via := 16 } } } (1368 + q.via) 32 q.flitCount q.ecx (q.dcube != cubeId s)
  | none => s

/-- The waystation serves nothing (R20): it is OFF or in BOOT. -/
def wsDown (s : State) : Bool := s.ws == .off || s.ws == .boot
/-- It serves no network: it is down, or the cube's identifier is not in force (R401). -/
def netDown (s : State) : Bool := wsDown s || !cubeValid s

/-- Take packet `k` of the inbox against its window: the packet if it is new here, accepted and acknowledged by `answer`; a
duplicate is acknowledged again as it was, a read among them served again, one below the window discarded, one behind a gap waits. In OFF
and BOOT, and while VALID = 0, it draws no reply (R416); a management access through a port of this cube is served (R401). -/
def takeFresh (s : State) (k : Nat) (ok : Packet → Bool) : State × Option Packet :=
  match s.net.inbox[k]? with
  | none => (s, none)
  | some q =>
    if !ok q || q.dcube != cubeId s then (s, none)
    else if netDown s && !(q.kind == 11 && q.scube == cubeId s && s.ws != .off) then (dropInbox s k, none)
    else
      let s := enterPort s k
      match seqCase s q with
      | .gap => (s, none)
      | .below => (dropInbox s k, none)
      | .duplicate => (match q.payload, answerOf s q with
        | .mgmt false _ _, _ => (dropInbox s k, some q)
        | _, some a => (respond (dropInbox s k) q a.1 a.2, none)
        | _, none => (dropInbox s k, none))
      | .fresh => (mark (dropInbox s k) q, some q)

/-! ## Messages of several packets (R408) -/

/-- MESSAGE_COUNT_EXPIRY: an incomplete message is forgotten (R408). -/
def execMessageCountExpiry (k : Nat) (s : State) : Result :=
  .next { s with net := { s.net with counts := s.net.counts.eraseIdx k } }

/-! ## Requests to this cube's storage -/

/-- Where a request of another cube goes. -/
inductive Target3 where
  | pa (a : Nat)
  /-- another cube holds the granule now (R342) -/
  | forward (cube : Nat)
  | sysreg (block off : Nat)
  | dead
  /-- refused with a response code and a cause code -/
  | refused (code cause : Nat)
deriving DecidableEq, Repr

/-- The page or core belongs to a partition of the virtual function that owns the packet's context (R185, R351). -/
def tenantOk (s : State) (owner : Option Nat) (ecx : Nat) : Bool := match owner with
  | some p => tenant s p == ecx
  | none => false

/-- The partition of a core that a request names, which must exist outside the holes: `none` draws BOUNDS (R16, R314). -/
def coreOwner (s : State) (c : Nat) : Option (Option Nat) :=
  if (kindOf c == .compute || kindOf c == .channel) && !inHole s c then some (if (core s c).asg then some (core s c).part else none) else none

/-- The page whose owner a request's ownership check needs: space x 2^24 + page. -/
def checkedPage (s : State) (q : Packet) : Option Nat :=
  let a := q.addr + q.off
  match a / 2 ^ 53 with
  | 0 => (match stripePlace s a with
    | some pl => if pl.cube = cubeId s ∧ pl.dead = false then some (pl.loc / 2 ^ 19) else none
    | none => none)
  | 1 => some (2 ^ 24 + a % 2 ^ 28 / 2 ^ 19)
  | _ => none

/-- The owner of a page, from the waystation's cache when it holds it (R330). -/
def ownerSeen (s : State) (page : Nat) : Option Nat := match s.net.owners.find? (·.va = page) with
  | some e => some e.part
  | none => pageOwner s (page / 2 ^ 24) (page % 2 ^ 24)
/-- The cached leaf of a page and its owner: its 512 KiB at their own network address, readable and writable. -/
def pageLeaf (page p : Nat) : TlbEntry :=
  { part := p, va := page, level := 3, oa := page / 2 ^ 24 * 2 ^ 53 + page % 2 ^ 24 * 2 ^ 19, rd := true, wr := true, nm := false }
/-- An ownership check fills the cache of 512 entries, the least recently used leaving (R330). -/
def ownerUsed (s : State) (q : Packet) : State := match checkedPage s q with
  | none => s
  | some page => match ownerSeen s page with
    | some p => { s with net := { s.net with owners := (pageLeaf page p :: s.net.owners.filter (·.va ≠ page)).take 512 } }
    | none => s
/-- The request may reach the page it names. -/
def pageOk (s : State) (q : Packet) : Bool := tenantOk s ((checkedPage s q).bind (ownerSeen s)) q.ecx

/-- The target of `n` bytes at the network address of packet `q` (R274, R351, R416). -/
def targetAt (s : State) (q : Packet) (n : Nat) (wr : Bool) : Target3 :=
  let a := q.addr + q.off
  match a / 2 ^ 53 % 8 with
  | 0 =>
    (match stripePlace s (a % 2 ^ 53) with
     | none => .refused 4 5
     | some pl =>
       if pl.dead then .dead
       else if pl.cube ≠ cubeId s then .forward pl.cube
       else if s.memDom ≠ .on then .refused 3 0
       else if pageOk s q then .pa (dramPa pl.ch pl.off) else .refused 4 6)
  | 1 =>
    let h := a % 2 ^ 28
    if s.ws ≠ .full then .refused 3 0
    else if hallSize < h + n then .refused 4 0x14
    else if pageOk s q && !isCachePage s ((ownerSeen s (2 ^ 24 + h / 2 ^ 19)).getD 24) (h / 2 ^ 19) then .pa (hallPa h) else .refused 4 6
  | 2 =>
    let c := a / 2 ^ 28 % 8192
    let off := a % 2 ^ 28
    if s.ws ≠ .full then .refused 3 0
    else match coreOwner s c with
      | none => .refused 4 0x14
      | some o =>
        if sramSize c < off + n then .refused 4 0x14
        else if !tenantOk s o q.ecx then .refused 4 6
        else if wr ∧ (regionOf s c off = .code ∨ regionOf s c off = .workspace) then .refused 4 0x14
        else if wr ∧ (core s c).isSealed = true then .refused 4 8
        else .pa (sramPa c off)
  | 3 => if 0xFFFF < a % 2 ^ 28 then .refused 4 0x14 else .sysreg (a / 2 ^ 28 % 8192) (a % 2 ^ 28)
  | _ => .refused 4 6

/-- Charges of a DRAM service by the remote-access engine (R360, R365), the response's flits with it; every line looks up the channel
cache and allocates on a miss (R280, R281). -/
def chargeRemote (s : State) (q : Packet) (pa n : Nat) (wr : Bool) : State :=
  match homeOf pa with
  | .dram ch _ =>
    let s := charge s 1384 36 ((n + 63) / 64) q.ecx
    let s := charge s 1384 31 ((64 + (if wr then 0 else n) + 255) / 256) q.ecx
    cacheLines s pa n q.ecx wr true fun s hit pa n =>
      if hit then charge s (1344 + pa / 256 % 768 / 32) 6 n q.ecx else charge s (1280 + ch) (if wr then 26 else 25) n q.ecx
  | .hall h => charge s (1344 + h / 256 % 768 / 32) 6 ((n + 63) / 64) q.ecx
  | .core _ _ => s

/-- A request for `n` bytes goes on to the cube that holds its granule now (R342); of a longer message its bytes are counted here. -/
def forwardTo (s : State) (q : Packet) (n cube : Nat) : State :=
  let s := mark s q
  sendPkt (if n < q.total then countBytes s q n else s) { q with dcube := cube, fwd := true }

/-- A request is answered with code and data, accepted, and `n` of its bytes are counted. -/
def served (s : State) (q : Packet) (n : Nat) (code : Nat) (bs : List (Byte × Bool) := []) : State :=
  countBytes (mark (respond s q code 0 bs) q) q n

/-- A discarded write is logged (R344, R346, R385). -/
def writeLogged (s : State) (q : Packet) (cause : Nat) : State := trapLog s q.spart 1 0 cause (BitVec.ofNat 64 q.addr)

/-- A read request (KIND 3): `none` while it waits for its storage. -/
def serveRead (s : State) (q : Packet) (n : Nat) : Option State :=
  match targetAt s q n false with
  | .refused c e => some (refuse s q c e)
  | .forward cube => some (forwardTo s q n cube)
  | .dead => some (served (writeLogged s q 0) q n 0 (List.replicate n (0, true)))
  | .sysreg b o =>
    if !blockLive s b then some (refuse s q 4 0x14)
    else some (served (readEffect s b o) q n 0 ((leBytes 8 (sysRead s b o).toNat).map fun x => (x, false)))
  | .pa pa =>
    if !servable s pa then none
    else
      let sealed := match coreOfPa pa with | some c => (core s c).isSealed | none => false
      let s := findErrors (chargeRemote (ownerUsed s q) q pa n false) pa n 4 q.ecx
      some (served s q n 0 (if sealed then List.replicate n (0, true) else bytesAt s pa n))

/-- A write request (KIND 4). A steward of another cube is a steward of no cluster and no partition of this one (R127,
R251). What goes to a core's SRAM is
answered once it has been applied (R295). -/
def serveWrite (s : State) (q : Packet) (bs : List (Byte × Bool)) : Option State :=
  match targetAt s q bs.length true with
  | .refused c e => some (refuse (if c = 4 then writeLogged s q e else s) q c e)
  | .forward cube => some (forwardTo s q bs.length cube)
  | .dead => some (served (writeLogged s q 0) q bs.length 1)
  | .sysreg b o =>
    if !blockLive s b then some (refuse s q 4 0x14)
    else
      let w : RegWrite := ⟨.steward (if q.scube = cubeId s then q.score else 8192 * (q.scube + 1) + q.score) q.child
        (if q.scube = cubeId s then q.spart else 31), b, o, BitVec.ofNat 64 (leNat (bs.map (·.1))), none⟩
      some (served { s with regWrites := s.regWrites ++ [w] } q bs.length 1)
  | .pa pa =>
    if !servable s pa then none
    else
      let s := chargeRemote (ownerUsed s q) q pa bs.length true
      match homeOf pa with
      | .core c _ =>
        let w : EngWrite := { pa := pa, bytes := bs, src := (c, 3, 0), bar := if q.ben then some q.bix else none, ack := some q }
        some (mark { s with engWrites := s.engWrites ++ [w] } q)
      | _ => some (served (writeNoting s q.spart 0 (BitVec.ofNat 64 q.addr) pa bs) q bs.length 1)

/-- The stage read and the pop of a DPULL (R259): the ring of a core's window; `none` while it has no complete stage. -/
def serveRing (s : State) (q : Packet) (r : Nat) : Option State :=
  let c := q.addr / 2 ^ 28 % 8192
  let k := ring s c r
  if s.ws ≠ .full then some (refuse s q 3 0)
  else match coreOwner s c with
    | none => some (refuse s q 4 0x14)
    | some o =>
      if kindOf c ≠ .compute ∨ tenantOk s o q.ecx = false then some (refuse s q 4 6)
      else if !k.init then some (refuse s q 4 0x0B)
      else if k.occ = 0 then none
      else if q.kind = 3 then
        let pa := sramPa c (k.stageOff k.ci)
        let s := findErrors s pa k.ssize 4 q.ecx
        some (served s q q.total 0 (if (core s c).isSealed then List.replicate k.ssize (0, true) else bytesAt s pa k.ssize))
      else some (served (ringPop s c r) q q.total 1)

/-- REMOTE_BARRIER_EVENT's effect (R316). -/
def serveBar (s : State) (q : Packet) (b kind : Nat) (n : Int) : State :=
  let c := q.addr / 2 ^ 28 % 8192
  if s.ws ≠ .full then refuse s q 3 0
  else match coreOwner s c with
    | none => refuse s q 4 0x14
    | some o =>
      if tenantOk s o q.ecx = false then refuse s q 4 6
      else
        let r := barEvent s c b kind n
        if r.2 then served r.1 q q.total 1 else refuse r.1 q 4 0x0C

/-- A count of a launch entry of this cube (R85, R139): while the compute domain holds the table. -/
def serveCount (s : State) (q : Packet) (p e : Nat) (up : Bool) : State :=
  if s.comp = .bringup ∨ s.comp = .run ∨ s.comp = .quiesce then served (countAt s (cubeId s) p e up) q q.total 1 else refuse s q 3 0

/-- A steward's STRL on this cube's DRAM (R289): poison there is answered. -/
def serveStrl (s : State) (q : Packet) (pa size : Nat) (v : Word) : State :=
  let s := findErrors (chargeRemote s q pa size true) pa size 4 q.ecx
  if poisonedAt s pa size then refuse s q 4 7 else served (writeVal s pa size v.toNat false) q q.total 1

/-- A steward's RED on this cube's DRAM (R290): a poisoned target is logged. -/
def serveRed (s : State) (q : Packet) (f pa size : Nat) (v : Word) : State :=
  let s := findErrors (chargeRemote s q pa size true) pa size 4 q.ecx
  let s := if poisonedAt s pa size then writeLogged s q 7
    else writeVal s pa size (redOp f size (rdN s.mem pa size) (v.toNat % 2 ^ (8 * size))) false
  served s q q.total 1

/-- A steward's reservation request, release, STRL or RED on this cube's DRAM (R284, R289, R290, R298). -/
def serveAtomic (s : State) (q : Packet) (op size : Nat) (v : Word) : Option State :=
  match targetAt s q size true with
  | .refused c e => some (refuse s q c e)
  | .forward cube => some (forwardTo s q q.total cube)
  | .dead => if op < 2 ∨ op = 11 then some (refuse s q 4 7) else some (served (writeLogged s q 0) q q.total 1)
  | .sysreg _ _ => some (refuse s q 4 6)
  | .pa pa =>
    let who := 8192 * (q.scube + 1) + q.score
    let d := pa / 8 * 8
    let queue := mget [] s.resvQ d
    let s0 := s
    let s := ownerUsed s q
    if !servable s pa then none
    else if op = 0 then
      let s := chargeRemote s q pa size true
      let s := { s with resvQ := insertAt s.resvQ d (queue ++ [{ core := who, slot := q.msgid, since := s.cycle }]) }
      let t := countBytes (mark s q) q q.total
      some (if homeFree s0 pa then grantHead t d else t)
    else if op = 1 then
      let s := match queue with
        | r :: _ => if r.core = who ∧ r.granted = true then applyRelease s who r.slot pa size v q.ecx else s
        | [] => s
      some (served s q q.total 1)
    else if op = 11 then some (serveStrl s q pa size v)
    else if queue.isEmpty then some (serveRed s q (op - 2) pa size v)
    else none

/-- A request packet is served (R416). -/
def serveRequest (s : State) (q : Packet) : Option State := match q.payload with
  | .read n => serveRead s q n
  | .data bs => serveWrite s q bs
  | .ringPop r => serveRing s q r
  | .bar b kind n => some (serveBar s q b kind n)
  | .atomic op size v => serveAtomic s q op size v
  | .count p e up => some (serveCount s q p e up)
  | _ => some s

/-! ## Travellers and tasks of other cubes (R81, R93, R417, R419) -/

/-- Pairs the arrival filter holds at most. -/
def filterCap : Nat := 65536
/-- Record how a traveller or task message was answered, and answer it: 0 arrived, 1 held, 2 bounced. -/
def answerArrival (s : State) (q : Packet) (how : Nat) : State :=
  messageEnded (mark (respond { s with net := { s.net with filter := s.net.filter ++ [(q.scube, q.msgid, how)] } } q 1 how) q) q

/-- A traveller or task goes back as a KIND 2 message (R93, R417). -/
def bounceBack (s : State) (q : Packet) : State :=
  let s := answerArrival s q 2
  match q.payload with
  | .traveller t => bounceOut s t
  | _ => transmitNew s { pkt := { q with scube := cubeId s, dcube := q.scube, kind := 2, seq := 0, tryNo := 0 } }

/-- The destination is no home of the partition: a core of another one, in a hole, or a steward (R80). -/
def wrongHome (s : State) (c p : Nat) : Bool := s.comp == .run && (kindOf c == .steward || kindOf c == .absent || !inPartition s c p)

/-- Such a destination refuses the message with BOUNDS (R80), a copy of it too (R407). -/
def refuseArrival (s : State) (q : Packet) : State :=
  messageEnded (mark (respond { s with net := { s.net with filter := s.net.filter ++ [(q.scube, q.msgid, 3)] } } q 4 0x14) q) q

/-- The launch a traveller or task belongs to has its table here and is cancelled (R146). -/
def cancelledHere (s : State) (cube p e : Nat) : Bool := e != 0 && cube == cubeId s && eCan s p e

/-- A traveller packet for a core of this cube; `none` while it waits. A member of a cancelled launch of this cube's table takes the
cancel (R146). -/
def receiveTraveller (s : State) (q : Packet) (t : Packed) : Option State :=
  let c := t.dcore
  let t := t.cancelled fun t => cancelledHere s t.hdr.lcube t.hdr.part t.hdr.lslot
  if s.ws = .full ∧ wrongHome s c t.hdr.part = true then some (refuseArrival s q)
  else if s.ws ≠ .full ∨ noHome s c t.hdr.part then some (bounceBack s q)
  else if arrivalWaits s c then none
  else if needsWake s c then none
  else
    let f : Flight := .traveller t t.hdr.ocore t.oslot
    match (if s.held.any (·.1 == c) then none else freeSlot s c) with
    | some sl => some (answerArrival (settleIn s t c sl) q 0)
    | none =>
      if (part s t.hdr.part).spillWait.isEmpty && spillFits s t.hdr.part 512 then some (answerArrival { s with held := s.held ++ [(c, f)] } q 1)
      else some (respond (spillFull s t.hdr.part) q 2 0)

/-- A task packet for a core of this cube; a task of a cancelled launch of this cube's table is discarded (R146). -/
def receiveTask (s : State) (q : Packet) (t : Task) : Option State :=
  let c := q.addr / 2 ^ 28 % 8192
  if cancelledHere s t.lcube t.part t.lslot then some (answerArrival (countTask s t false) q 0)
  else if s.ws = .full ∧ wrongHome s c t.part = true then some (refuseArrival s q)
  else if s.ws ≠ .full ∨ inPartition s c t.part = false then some (bounceBack s q)
  else if (core s c).isSealed || (core s c).sealing then
    some (answerArrival (sendTaskMsg s t { cause := .sealed, sub := 1, addr := t.saddr } c (trapSteward s c t.part false) false) q 0)
  else if arrivalWaits s c then none
  else if needsWake s c then none
  else
    let f : Flight := .task t c none
    match (if s.held.any (·.1 == c) then none else takeIn s c f) with
    | some s' => some (answerArrival s' q 0)
    | none =>
      if (part s t.part).spillWait.isEmpty && spillFits s t.part 512 then some (answerArrival { s with held := s.held ++ [(c, f)] } q 1)
      else some (respond (spillFull s t.part) q 2 0)

/-- A bounced traveller or task is back at its origin (R74, R81, R93, R417). -/
def receiveBounced (s : State) (q : Packet) : Option State :=
  if s.ws = .forward then some (respond s q 2 0)
  else match q.payload with
    | .traveller t =>
      if s.ws = .full then some (answerArrival { s with flights := s.flights ++ [.bounce t t.hdr.ocore t.oslot] } q 0)
      else some (answerArrival (spillPut s t.hdr.part (.traveller { t with why := 4 })) q 0)
    | .task t =>
      let info : TrapInfo := { cause := .neterr, addr := t.saddr }
      let st := spawnerSteward s t
      if s.ws = .full then some (answerArrival (ackOuts (sendTaskMsg s t info t.scoreOf st false) t.scoreOf q.node) q 0)
      else some (answerArrival (spillPut { s with free := s.free + 2 } t.part (.message st (taskMsg s t info t.scoreOf false))) q 0)
    | _ => some s

/-- A packet of KIND 0, 1 or 2: not applied twice; a full filter asks for a retry (R419). -/
def receiveMoving (s : State) (q : Packet) : Option State :=
  match s.net.filter.find? (fun e => e.1 == q.scube && e.2.1 == q.msgid) with
  | some e => some (if e.2.2 = 3 then respond s q 4 0x14 else respond s q 1 e.2.2)
  | none =>
    if filterCap ≤ s.net.filter.length then some (respond s q 2 0)
    else match q.kind, q.payload with
      | 0, .traveller t => receiveTraveller s q t
      | 1, .task t => receiveTask s q t
      | _, _ => receiveBounced s q

/-- ARRIVAL_FILTER_EXPIRY: a pair leaves the filter; it does not age in OFF or BOOT (R419). -/
def execArrivalFilterExpiry (k : Nat) (s : State) : Result :=
  .next (if s.ws = .off ∨ s.ws = .boot then s else { s with net := { s.net with filter := s.net.filter.eraseIdx k } })

/-- Bounced travellers that waited in the spill area for RUN go to their origin slots (R417). -/
def deliverBounced (s : State) : State :=
  (List.range 24).foldl (fun s p =>
    let mine := (part s p).spill.filterMap fun i => match i with | .traveller t => if t.why = 4 then some t else none | _ => none
    if mine.isEmpty then s
    else { updPart s p fun k => { k with spill := k.spill.filter fun i => match i with | .traveller t => t.why ≠ 4 | _ => true } with
           flights := s.flights ++ mine.map fun t => .bounce { t with why := 0 } t.hdr.ocore t.oslot }) s

/-! ## The end of a message at its sender (R74, R93, R182, R261, R307, R316, R407) -/

/-- The retry entries of a message. -/
def dropMessage (s : State) (q : Packet) : State :=
  { s with net := { s.net with retry := s.net.retry.filter fun x => x.pkt.msgid != q.msgid } }

def causeFrom (n : Nat) : Cause := match n with
  | 5 => .xlate | 6 => .perm | 7 => .poison | 8 => .sealed | 0x0B => .ring | 0x0C => .barrier | 0x14 => .bounds | _ => .neterr
def subFrom (n : Nat) : Nat := match n with | 5 => 4 | 8 => 1 | _ => 0

/-- The record that waits for message `x`. -/
def recOf (s : State) (c n : Nat) : Option Rec := (engQ s c (if kindOf c = .channel then 2 else 1)).find? fun r => r.seq == n && r.st == 1

/-- A message fails or is refused with a cause; its originator takes it by its own rule. -/
def failOne (s : State) (x : Sent) (cause : Nat) : State :=
  let s := dropMessage s x.pkt
  let t (a : Word) : TrapInfo := { cause := causeFrom cause, sub := subFrom cause, addr := a }
  let far : Word := BitVec.ofNat 64 x.pkt.addr
  match x.pkt.kind, x.pkt.payload, x.who with
  | 0, _, some (c, sl) => moveFailed s c sl (causeFrom cause)
  | 1, .task k, some (c, sl) => ackOuts (sendTaskMsg s k { cause := causeFrom cause, addr := k.saddr } k.scoreOf (spawnerSteward s k) false) c sl
  | 2, _, _ => { s with net := { s.net with kept := s.net.kept ++ [x.pkt] } }
  | 8, _, none => mcastAnswer s (x.pkt.msgid, x.pkt.off) cause
  | 11, .mgmt _ p _, _ => mgEnd s p (if cause = 0x11 then 2 else if cause = 0x100 then 3 else 1) none
  | 12, .change none _ c, _ => mapErr { s with net := { s.net with mapIssued := s.net.mapIssued.erase c } } 1
  | _, _, some (c, sl) =>
    (match x.cmd with
     | some n => (match recOf s c n with
       | some r => if kindOf c = .channel then streamFault s c r (t far) else courierFault s c r (t far)
       | none => s)
     | none =>
       if x.counted then
         match x.pkt.payload with
         | .atomic 11 _ _ =>
           let va := (match (slot s c sl).wait with | some { word := _, cond := .stored va, reply := _ } => va | _ => far)
           answerStore (ackOuts s c sl) c sl (.trap (t (if causeFrom cause = .poison then BitVec.ofNat 64 (va.toNat / 16 * 16) else va)))
         | pl =>
           let s := if cause = 0x11 then updSlot s c sl fun k => { k with failed := k.failed ++ [far] } else s
           ackOuts (match pl with | .atomic _ _ _ => redAnswered s c false | _ => s) c sl
       else match (slot s c sl).wait with
         | some { word := _, cond := .reply v, reply := none } => readyIfReplied (setReply s c sl (.trap (t v))) c sl
         | some { word := _, cond := .grant _ va, reply := none } => readyIfReplied (setReply s c sl (.trap (t va))) c sl
         | _ => s)
  | _, _, none => s

/-- A message fails, for both copies of an escorted pair (R387); a task packet's task goes once. -/
def failSent (s : State) (x : Sent) (cause : Nat) : State :=
  let s := failOne s x cause
  match x.also with
  | some (w, n) => if x.pkt.kind = 1 then ackOuts s w.1 w.2 else failOne s { x with who := some w, cmd := n } cause
  | none => s

/-- The value of a response and whether a byte of it is poisoned. -/
def replyOf (bs : List (Byte × Bool)) : Reply := .value (BitVec.ofNat 64 (leNat (bs.map (·.1)))) (bs.any (·.2))

/-- Wakes held for a traveller that has arrived on another cube follow it (R94). -/
def forwardWakes (s : State) (c sl cube core : Nat) : State :=
  let k := slot s c sl
  let s := updSlot s c sl fun k => { k with heldWakes := 0 }
  (List.range k.heldWakes).foldl (fun s _ => sendWake s c sl cube core) s

/-- A packet is acknowledged with code `how`, and perhaps data: its sender's operation goes on (R307). -/
def ackOne (s : State) (x : Sent) (how : Nat) (bs : List (Byte × Bool)) : State :=
  let s := { s with net := { s.net with retry := s.net.retry.erase x } }
  match x.pkt.kind, x.pkt.payload, x.who with
  | 0, .traveller t, some (c, sl) =>
    if how = 0 ∧ stateOf s c sl = .migrating then forwardWakes (ackMove s c sl) c sl t.dcube t.dcore else s
  | 1, _, some (c, sl) => if how = 2 then s else ackOuts s c sl
  | 8, _, none => mcastAnswer s (x.pkt.msgid, x.pkt.off) 0
  | 12, .change none _ c, _ => mapErr { s with net := { s.net with mapIssued := s.net.mapIssued.erase c } } 0
  | 12, .change (some n) _ _, _ => changeAcked s n x.pkt.dcube
  | 12, .granule i g (_ :: _), _ => granuleMoved s i g
  | 11, .mgmt w p _, _ => mgEnd s p 0 (if w then none else some (BitVec.ofNat 64 (leNat (bs.map (·.1)))))
  | _, pl, some (c, sl) =>
    (match x.cmd, pl with
     | some n, .read _ => courierData s c n x.pos bs
     | some n, .ringPop _ => if x.pkt.kind = 3 then (match recOf s c n with | some r => pullData s c r bs | none => s) else s
     | some _, _ => s
     | none, .atomic 1 _ _ => s
     | none, _ =>
       if x.counted then
         let s := ackOuts s c sl
         match pl with
         | .atomic 11 _ _ => answerStore s c sl (.value 0 false)
         | .atomic _ _ _ => redAnswered s c false
         | _ => s
       else match (slot s c sl).wait with
         | some { word := _, cond := .reply _, reply := none } => readyIfReplied (setReply s c sl (replyOf bs)) c sl
         | some { word := _, cond := .grant _ _, reply := none } => readyIfReplied (setReply s c sl (replyOf bs)) c sl
         | _ => s)
  | _, _, none => s

/-- The answer to a message goes to both copies of an escorted pair (R387). -/
def ackSent (s : State) (x : Sent) (how : Nat) (bs : List (Byte × Bool)) : State :=
  let s := ackOne s x how bs
  match x.also with
  | some (w, n) => ackOne s { x with who := some w, cmd := n } how bs
  | none => s

/-- A NAK-RETRY: the 256th fails the message, but for a KIND 2 packet, which is kept (R407). -/
def nakRetry (s : State) (x : Sent) : State :=
  if 255 ≤ x.naks then failSent (if x.pkt.kind = 2 then s else messageEnded s x.pkt) x (if x.pkt.kind = 11 then 0x100 else 0x11)
  else { s with net := { s.net with retry := s.net.retry.map fun y => if y == x then { x with naks := x.naks + 1, nak := true } else y } }

/-- The sent packet that a response answers. -/
def sentFor (s : State) (q : Packet) : Option Sent := s.net.retry.find? fun x => x.pkt.msgid == q.msgid && x.pkt.off == q.off

/-- An agent of the compute domain waits for the answer. -/
def localAgent (x : Sent) : Bool := x.who.isSome

/-- The response at place `k` of the inbox is delivered; one for an agent of a compute domain that is not up is discarded
(R416). -/
def acknowledge (s : State) (k : Nat) : State :=
  match s.net.inbox[k]? with
  | none => s
  | some q =>
    if q.kind ≠ 10 ∨ s.ws = .off ∨ (s.ws = .boot ∧ q.scube ≠ cubeId s) then s
    else
      let s := dropInbox s k
      match q.payload with
      | .arrived c sl tid => if stateOf s c sl = .migrating ∧ tidOf s c sl = tid then forwardWakes (ackMove s c sl) c sl q.scube q.score else s
      | .resp code cause bs =>
        (match sentFor s q with
         | none => s
         | some x =>
           if localAgent x ∧ s.comp ≠ .run ∧ s.comp ≠ .quiesce then { s with net := { s.net with retry := s.net.retry.erase x } }
           else match code with
             | 0 => ackSent s x 0 bs
             | 1 => ackSent s x cause bs
             | 2 => nakRetry s x
             | 3 => failSent s x 0x11
             | _ => failSent s x cause)
      | _ => s

/-- ACKNOWLEDGEMENT_RECEIVE (R307). -/
def execAcknowledgementReceive (k : Nat) (s : State) : Result := .next (acknowledge s k)
/-- NAK_ABSENT_RECEIVE (R407). -/
def execNakAbsentReceive (k : Nat) (s : State) : Result :=
  .next (match s.net.inbox[k]? with
    | some q => (match q.payload with | .resp 3 _ _ => acknowledge s k | _ => s)
    | none => s)

/-- The packet of retry entry `k` is sent again, and its route kept (R404, R407). -/
def resend (s : State) (k : Nat) (x : Sent) : State :=
  let p := aimed s x.pkt
  leave { s with net := { s.net with retry := s.net.retry.set k { x with pkt := p, path := if p.cls = 0 then pathTo s p.dcube else [] } } } p

/-- E2E_RETRY_TIMEOUT: the packet goes again with TRY + 1; after TRY = 7 its message fails and ends here (R319, R407). DEDUCED
(assumption 43): a contribution to a reduction, which waits without a limit (R412), does not fail so. -/
def e2eTimeout (s : State) (k : Nat) : State :=
  match s.net.retry[k]? with
  | none => s
  | some x =>
    if s.ws = .off ∨ s.ws = .boot then s
    else if x.pkt.tryNo < 7 then resend s k { x with pkt := { x.pkt with tryNo := x.pkt.tryNo + 1 }, nak := false }
    else if x.pkt.kind = 7 then resend s k { x with nak := false }
    else failSent (if x.pkt.kind = 2 then s else messageEnded s x.pkt) x (if x.pkt.kind = 11 then 0x100 else 0x11)

def execE2eRetryTimeout (k : Nat) (s : State) : Result := .next (e2eTimeout s k)

/-! ## The answer to a management access (R423) -/

/-- The port of a management access. -/
def mgPort (x : Sent) : Option Nat := match x.pkt.payload with | .mgmt _ p _ => some p | _ => none

/-- MANAGEMENT_REPLY: the response to the access of port `p` (R423). -/
def mgReply (s : State) (p : Nat) : State :=
  match s.net.retry.find? (fun x => mgPort x == some p) with
  | none => s
  | some x =>
    match s.net.inbox.findIdx? (fun q => q.msgid == x.pkt.msgid && q.scube == x.pkt.dcube && q.kind == 10) with
    | some k => acknowledge s k
    | none => s

def execManagementReply (p : Nat) (s : State) : Result := .next (mgReply s p)

/-- NAK_RETRY_RESEND: 2 µs after a NAK-RETRY the packet goes again with TRY unchanged. -/
def nakResend (s : State) (k : Nat) : State :=
  match s.net.retry[k]? with
  | some x => if x.nak then resend s k { x with nak := false } else s
  | none => s
def execNakRetryResend (k : Nat) (s : State) : Result := .next (nakResend s k)

/-- BOUNCE_RESEND: a kept packet goes again, without limit (R417). -/
def bounceResend (s : State) (k : Nat) : State :=
  match s.net.kept[k]? with
  | some q => if s.ws = .off ∨ s.ws = .boot then s else
      transmit { s with net := { s.net with kept := s.net.kept.eraseIdx k } } { pkt := { q with tryNo := 0 }, again := true }
  | none => s
def execBounceResend (k : Nat) (s : State) : Result := .next (bounceResend s k)

end Sys2Proof.Machine
end

