-- ==== Sys2Proof/Machine/Domain.lean ====
section
/-! DEFINITION. The three domains: their states, transitions and resets (R15, R16, R20 to R24, R280, R389, R418, R428, R432)
and the sensors (R434). -/

namespace Sys2Proof.Machine

/-! ## The waystation follows the other domains (R21) -/

/-- The highest state that the memory and the compute domain allow. -/
def wsTarget (s : State) : WsState := if s.memDom = .on then (if s.comp = .run then .full else .serve) else .forward

/-- The miss buffer is answered NAK-ABSENT when remote access ends (R22, R410). -/
def dropMisses (s : State) : State :=
  let qs := s.net.missBuf
  qs.foldl (fun s q => refuse s q 3 0) { s with net := { s.net with missBuf := [], fetching := [] } }

/-- The waystation enters the state that R21 requires, in the same w-cycle. -/
def settleWs (s : State) : State :=
  if s.ws = .off ∨ s.ws = .boot then s
  else
    let t := wsTarget s
    let s' := if s.ws = .forward ∧ t ≠ .forward then { s with net := { s.net with conns := [] } } else s
    let s' := if t = .forward then dropMisses s' else s'
    { s' with ws := t }

/-! ## The waystation (R22, R418, R428) -/

/-- An island register is in retained storage: CUBEID, CHCAP, the error log and ALMCFG. -/
def retainedReg (k : Nat) : Bool :=
  let off := k % 65536
  k / 65536 != islandBlk || off == 0x0010 || (0x7000 ≤ off && off < 0x7200) || off == 0xF010 || (0xF400 ≤ off && off < 0xF800) || off == 0xF818

/-- The registers of the island controller take their reset values (R11). -/
def islandReset (s : State) : State :=
  { s with
    regs := s.regs.filter fun e => retainedReg e.1
    parts := (s.parts.map fun e => (e.1, { e.2 with spfull := false })).filter fun e => e.2 != {}
    xlinvQ := []
    xlinvOut := []
    moves := []
    dbgctl := []
    ownPending := []
    cores := (s.cores.map fun e => (e.1, { e.2 with move := false })).filter fun e => e.2 != coreReset e.1
    ports := (s.ports.map fun e => (e.1, ({ nonce := e.2.nonce, msix := e.2.msix, vfsOff := e.2.vfsOff } : Port))).filter fun e => e.2 != {}
    fw := { s.fw with active := s.fw.next, authQ := [], capped := false, hotDie := false, hotTowers := [] }
    net := { s.net with
      links := (s.net.links.map fun e => (e.1, ({ spused := e.2.spused, splane := e.2.splane, bad := e.2.bad } : Link))).filter fun e => e.2 != {}
      lanterns := []
      sent := []
      recv := []
      mapIssued := [] } }

/-- Every enabled reduce plan. -/
def reducePlans (s : State) : List (Nat × Nat) :=
  (s.net.plans.map fun e => (e.1 / 64, e.1 % 64)).filter fun k => planEn s k.1 k.2 && planField s k.1 k.2 1 1 == 0

/-- Packets inside the island are lost: local requests among them end in NETERR (R24), the connection cache is empty, the
windows stay in their store; the reduce plans are aborted (R418). -/
def islandLost (s : State) (w : WsState) : State :=
  let sent := s.net.retry ++ s.net.sendQ
  let s := { s with ws := w, imgOk := false,
                    net := { s.net with inbox := [], missBuf := [], fetching := [], conns := [], mcasts := [], copies := [], retry := [], sendQ := [] } }
  let s := sent.foldl (fun s x => failSent s x 0x11) s
  let s := islandReset s
  (reducePlans s).foldl (fun s k => abortPlan s k.1 k.2 0x11) s

/-- WAYSTATION_POWER_ON. -/
def wsPowerOn (s : State) : State := if s.ws = .off then { islandReset s with ws := .boot, imgOk := false } else s
def execWaystationPowerOn (s : State) : Result := .next (wsPowerOn s)

/-- WAYSTATION_RESET: the pin, or WRST. -/
def wsReset (s : State) : State := if s.ws = .off then s else islandLost s .boot
def execWaystationReset (s : State) : Result := .next (wsReset s)

/-- WAYSTATION_RAIL_OFF. -/
def wsRailOff (s : State) : State := if s.ws = .off then s else islandLost s .off
def execWaystationRailOff (s : State) : Result := .next (wsRailOff s)

/-- A link may train: it has a role, the cube id is valid and the waystation has left BOOT's first step (R399, R401). -/
def mayTrain (s : State) (l : Nat) : Bool :=
  decide (l < 16) && (link s l).role != 7 && regField s islandBlk 0x0010 12 12 == 1 && !(s.ws == .off) && !(s.ws == .boot && !s.imgOk)

def putLink (s : State) (l : Nat) (k : Link) : State := { s with net := { s.net with links := mput {} s.net.links l k } }

/-- A DOWN or FAILED link starts to train (R399). -/
def linkTrain (s : State) (l : Nat) : State :=
  if mayTrain s l ∧ ((link s l).state = 0 ∨ (link s l).state = 4) then putLink s l { link s l with state := 1 } else s

/-- The waystation leaves BOOT. -/
def leaveBoot (s : State) : State := if s.ws = .boot ∧ s.imgOk = true then settleWs { s with ws := .forward } else s

/-- IMAGE_VERIFICATION_COMPLETE: the active slot is tried, then the other. Failure raises the authentication alarm. -/
def imageVerified (s : State) : State :=
  if s.ws ≠ .boot ∨ s.imgOk = true then s
  else if fwValid s s.fw.active || fwValid s (1 - s.fw.active) then
    (List.range 16).foldl (fun s l => if (link s l).state = 0 then linkTrain s l else s) { s with imgOk := true }
  else alarmFire s 3

def execImageVerificationComplete (s : State) : Result := .next (imageVerified s)

/-- BOOT_TIMEOUT: 40 ms with the image verified. -/
def execBootTimeout (s : State) : Result := .next (leaveBoot s)

/-! ## The memory domain (R22, R23) -/

def isDram (pa : Nat) : Bool := decide (pa < hallBase)

/-- MEMORY_RAIL_GOOD: the zeroing starts. The island releases the rail once it has left BOOT (R432). -/
def execMemoryRailGood (s : State) : Result :=
  .next (if s.memDom = .off ∧ s.ws ≠ .off ∧ s.ws ≠ .boot then { s with zeroing := true } else s)

/-- Waiting DRAM loads return poison, synchronising uses trap, and a waiting release is discarded and logged (R23, R115, R289). -/
def poisonWaits (s : State) : State :=
  (liveSlots s).foldl (fun s e =>
    match (slot s e.1 e.2).wait with
    | some { word := _, cond := .load pa _ sync va, reply := none } =>
      if isDram pa then
        readyIfReplied (setReply s e.1 e.2 (if sync then .trap { cause := .poison, addr := BitVec.ofNat 64 (va.toNat / 16 * 16) } else .value 0 true)) e.1 e.2
      else s
    | some { word := _, cond := .grant pa va, reply := none } | some { word := _, cond := .grantRoom pa va _, reply := none } =>
      if isDram pa then
        let d := pa / 8 * 8
        let s := { s with resvQ := mput [] s.resvQ d ((mget [] s.resvQ d).filter fun r => !(r.core == e.1 && r.slot == e.2)) }
        readyIfReplied (setReply s e.1 e.2 (.trap { cause := .poison, addr := BitVec.ofNat 64 (va.toNat / 16 * 16) })) e.1 e.2
      else s
    | some { word := _, cond := .release pa va, reply := none } =>
      if isDram pa then
        let s := trapLog (dropResv s e.1 e.2) (slot s e.1 e.2).hdr.part 1 e.1 0 va
        readyIfReplied (setReply s e.1 e.2 (.value 0 false)) e.1 e.2
      else s
    | _ => s) s

/-- Waiting DRAM stores are discarded and logged. -/
def dropStores (s : State) : State :=
  s.streams.foldl (fun s e =>
    let c := e.1 / 2
    let lost := e.2.sb.filter fun b => match b.pa with | some pa => isDram pa | none => false
    let s := lost.foldl (fun s b =>
      let s := answerStore (trapLog s (slot s c b.slot).hdr.part 1 c 0 b.va) c b.slot (.value 0 false)
      if b.counted then ackOuts s c b.slot else s) s
    let x := e.1 % 2 == 1
    let ahead (n : Nat) : Nat := ((e.2.sb.take n).filter fun b => !lost.contains b).length
    let s := updStream s c x fun k => { k with sb := k.sb.filter fun b => !lost.contains b }
    updCore s c fun k => { k with enqBuf := k.enqBuf.map fun q => if onX c q.slot == x then { q with ahead := ahead q.ahead } else q }) s

/-- Records and commands of the channel cores that wait for their DRAM take up with poison, or lose what they were to write (R23,
R269). -/
def loseRecords (s : State) : State :=
  let lose (f : Bool) (r : Rec) : Rec := if f then { r with rings := [1] } else r
  { s with channels := s.channels.map fun e =>
      (e.1, { e.2 with streamQ := e.2.streamQ.map fun r => lose (streamWaits s e.1 r) r
                       bankCmds := e.2.bankCmds.zipIdx.map fun b => lose (bankFirst s e.1 b.2 b.1) b.1 }) }

/-- All DRAM is zero, with valid check bits (R22). -/
def zeroDram (s : State) : State :=
  { s with mem := s.mem.filter fun e => !isDram e.1
           poison := s.poison.filter fun g => !isDram (g * 16)
           latent := s.latent.filter fun h => !isDram (h * 8)
           softErr := s.softErr.filter fun h => !isDram (h * 8) }

/-- MEMORY_ZEROING_COMPLETE. -/
def memZeroed (s : State) : State :=
  if s.zeroing = true ∧ s.memDom = .off then
    let s := { zeroDram s with zeroing := false, memDom := .on }
    settleWs (loseRecords (dropStores (poisonWaits s)))
  else s

def execMemoryZeroingComplete (s : State) : Result := .next (memZeroed s)

/-- SELF_REFRESH_REQUEST. -/
def srRequest (s : State) : State := if s.memDom = .on then { s with srReq := true } else s
def execSelfRefreshRequest (s : State) : Result := .next (srRequest s)

/-- No access is pending at any channel. -/
def dramIdle (s : State) : Bool :=
  (liveSlots s).all (fun e => match (slot s e.1 e.2).wait with
    | some { word := _, cond := .load pa _ _ _, reply := none } => !isDram pa
    | some { word := _, cond := .grant pa _, reply := none } => !isDram pa
    | some { word := _, cond := .grantRoom pa _ _, reply := none } => !isDram pa
    | some { word := _, cond := .release pa _, reply := none } => !isDram pa
    | _ => true)
  && s.streams.all (fun e => e.2.sb.all fun b => match b.pa with | some pa => !isDram pa | none => true)
  && s.channels.all (fun e => e.2.bankCmds.isEmpty && e.2.copyingRows.isEmpty && e.2.streamQ.all fun r => !(r.active && r.st == 1))
  && !s.ccFlush && s.engWrites.all (fun w => !isDram w.pa) && s.stripe.all (fun e => e.2.copying.isEmpty)

/-- SELF_REFRESH_ENTRY. -/
def srEntry (s : State) : State :=
  if s.memDom = .on ∧ s.srReq = true ∧ dramIdle s = true then settleWs { s with memDom := .selfRefresh, srReq := false } else s
def execSelfRefreshEntry (s : State) : Result := .next (srEntry s)

/-- SELF_REFRESH_EXIT. -/
def srExit (s : State) : State := if s.memDom = .selfRefresh then settleWs { s with memDom := .on } else s
def execSelfRefreshExit (s : State) : Result := .next (srExit s)

/-- MEMORY_RESET, or its rail off: the contents of DRAM are lost, with the connection store, the spill areas and the lines of
the channel caches; dirty lines are logged (R22, R418). -/
def memReset (s : State) : State :=
  if s.memDom = .off then { s with zeroing := false }
  else
    let dirty := s.ccache.any fun e => e.2.any (·.dirty)
    let s := if dirty then otherRecord s else s
    settleWs { zeroDram s with
      memDom := .off, zeroing := false, srReq := false, ccFlush := false, ccache := []
      held := []
      parts := (s.parts.map fun e => (e.1, { e.2 with spill := [] })).filter fun e => e.2 != {}
      net := { s.net with windows := [], winBase := [], counts := [], conns := [] } }

def execMemoryReset (s : State) : Result := .next (memReset s)

/-! ## The compute domain (R15, R16, R22) -/

/-- The compute domain leaves RUN: dirty lines are to be written back (R280). -/
def leaveRun (s : State) : State := { s with ccFlush := s.memDom != .off && s.ccache.any fun e => e.2.any (·.dirty) }

/-- CHANNEL_CACHE_WRITEBACK_COMPLETE: each line is charged to its owner and is clean. -/
def writebackDone (s : State) : State :=
  if !s.ccFlush || s.memDom != .on then s
  else
    let s' := s.ccache.foldl (fun s e => e.2.foldl (fun s l =>
      if l.dirty then charge s (1280 + l.line * 256 / 2 ^ 35) 26 4 l.owner else s) s) s
    { s' with ccFlush := false, ccache := s.ccache.map fun e => (e.1, e.2.map fun l => { l with dirty := false }) }

def execChannelCacheWritebackComplete (s : State) : Result := .next (writebackDone s)

/-- Dirty lines that cannot be read any more are written as poison and logged (R280). -/
def loseLines (s : State) : State :=
  let s' := s.ccache.foldl (fun s e => e.2.foldl (fun s l =>
    if l.dirty then
      trapLog { s with poison := (granules (l.line * 256) 256).foldl (fun p g => setIns g p) s.poison } e.1 1 0 0 (BitVec.ofNat 64 (l.line * 256))
    else s) s) s
  { s' with ccache := [], ccFlush := false }

/-- What a channel core's controller, in the memory domain, keeps through a compute reset: its rows (R345). -/
def channelKept (k : Channel) : Channel :=
  { copyingRows := k.copyingRows, spUsed := k.spUsed, remapped := k.remapped, retired := k.retired, corrected := k.corrected }

/-- A packet in the waystation whose sender in the compute domain is gone. -/
def orphan (x : Sent) : Sent := { x with who := none, counted := false, cmd := none }

/-- The contents of the compute domain are lost (R22): cores, quads and channel cores are as at reset, but for the assignments
and the holes, and so are the registers of their blocks (R11). -/
def computeLost (s : State) : State :=
  let s := if s.memDom = .off then s else loseLines s
  let s := (s.engWrites.filterMap (·.ack)).eraseDups.foldl (fun s q => ackWrite s q 0x11) { s with engWrites := [] }
  { s with
    mem := s.mem.filter fun e => isDram e.1
    poison := s.poison.filter fun g => isDram (g * 16)
    latent := s.latent.filter fun h => isDram (h * 8)
    softErr := s.softErr.filter fun h => isDram (h * 8)
    full := []
    accMem := []
    cores := (s.cores.map fun e => (e.1, { coreReset e.1 with part := e.2.part, asg := e.2.asg, rsv := e.2.rsv, move := e.2.move })).filter (fun e => e.2 != coreReset e.1)
    slots := []
    streams := []
    channels := (s.channels.map fun e => (e.1, channelKept e.2)).filter fun e => e.2 != {}
    quads := (s.quads.map fun e => (e.1, ({ hole := e.2.hole } : Quad))).filter fun e => e.2 != {}
    parts := (s.parts.map fun e => (e.1, ({ spill := e.2.spill, spfull := e.2.spfull, memKey := e.2.memKey, keyErased := e.2.keyErased } : Part))).filter (fun e => e.2 != {})
    regs := s.regs.filter fun e => e.1 / 65536 == islandBlk || e.1 == regKey dispBlk 8
    resvQ := []
    granWait := []
    walks := []
    msgFlight := []
    tmsgs := []
    flights := []
    barEvents := []
    strandOrder := []
    tvec := []
    testing := none
    testFirst := []
    heartbeat := false
    ccFlush := false
    still := false
    stalled := false
    xlinvOut := []
    net := { s.net with portQ := s.net.portQ.map orphan, retry := s.net.retry.map orphan, escort := [], pointers := [] } }
  |> fun s => putReg s dispBlk 8 (BitVec.ofNat 64 (getReg s dispBlk 8).toNat |>.and 0x0000003F07FF0000)

/-- COMPUTE_RAIL_GOOD. -/
def execComputeRailGood (s : State) : Result := .next (if s.comp = .off then { s with comp := .reset } else s)

/-- Retired quads of a physical column. -/
def columnRetired (s : State) (qx : Nat) : Nat := mget 0 s.colRetired qx

/-- The logical grid is built again (R15, R16): a column with one retired quad has no hole, others keep a hole at each row left
without a quad. Cores in a hole lose their assignment. -/
def remapQuads (s : State) : State :=
  let hole (q : Nat) : Bool := decide (41 - columnRetired s (q % 32) ≤ q / 32)
  let s := { s with quads := (List.range 1280).foldl (fun m q =>
    let k : Quad := mget {} m q
    if k.hole = hole q then m else mput {} m q { k with hole := hole q }) s.quads }
  let s := { s with cores := (s.cores.map fun e =>
    if kindOf e.1 = .compute ∧ (quad s (quadOf e.1)).hole = true then (e.1, { e.2 with asg := false, part := 0, rsv := false }) else e).filter (fun e => e.2 != coreReset e.1) }
  putField s dispBlk 8 37 32 ((List.range 32).filter fun x => columnRetired s x == 0).length

/-- Every KCORR is 1.0 while fares are calibrated (R361). -/
def unityKcorr (s : State) : State :=
  { s with regs := s.regs.filter fun e => !(e.1 / 65536 == islandBlk && decide (0xC000 ≤ e.1 % 65536) && decide (e.1 % 65536 < 0xC000 + 8 * 1388)) }

/-- COMPUTE_RESET_RELEASE: the cycle counter starts again (R95); the island's own times go on (R430). -/
def resetRelease (s : State) : State :=
  if s.comp = .reset ∧ s.memDom = .on then
    { unityKcorr (remapQuads (takeFlushes s (s.cycle + 1))) with
      comp := .bringup
      cycle := 0
      fw := { s.fw with past := s.fw.past + s.cycle }
      net := { s.net with heard := [] } }
  else s
def execComputeResetRelease (s : State) : Result := .next (resetRelease s)

/-- A quad of physical column `q % 32` is retired (R164). -/
def quadCount (s : State) (q : Nat) : State :=
  let s := { s with colRetired := mput 0 s.colRetired (q % 32) (columnRetired s (q % 32) + 1) }
  putField s dispBlk 8 26 16 (min 2047 (regField s dispBlk 8 26 16 + 1))

/-- BRINGUP_COMPLETE: quads that fail the scan are retired and remapped before RUN (R432); travellers that bounced back
meanwhile are delivered (R417). -/
def bringupDone (s : State) : State :=
  if s.comp ≠ .bringup then s
  else
    let fails := Config.scanFails s.free
    let bad := (List.range 1280).filter fun q => fails.getLsbD q && !(quad s q).hole
    let s := bad.foldl quadCount { s with free := s.free + 1 }
    let s := if bad.isEmpty then s else remapQuads s
    deliverBounced (settleWs { s with comp := .run, metered := [] })

def execBringupComplete (s : State) : Result := .next (bringupDone s)

/-- Every RUNNING traveller becomes READY at the head of its class. -/
def stopAll (s : State) : State :=
  s.streams.foldl (fun s e =>
    match e.2.run with
    | none => s
    | some sl =>
      let c := e.1 / 2
      let s := setState (switchOut s c (e.1 % 2 = 1) e.2.pc) c sl .ready
      updCore s c fun k => if statusBit s c sl 9 then { k with urgQ := (sl, 0) :: k.urgQ } else { k with normQ := (sl, 0) :: k.normQ }) s

/-- QUIESCE_REQUEST: travellers are spilled in order from here on (TRAVELLER_SPILL). -/
def quiesce (s : State) : State := if s.comp = .run then settleWs (leaveRun { stopAll s with comp := .quiesce, still := true }) else s
def execQuiesceRequest (s : State) : Result := .next (quiesce s)

/-- Quiesced travellers of partition `p` go back to their slots in the order in which they left them. -/
def unquiesce (s : State) (p : Nat) : State :=
  let mine := (part s p).spill.filterMap fun i => match i with | .traveller t => if t.why = 2 then some t else none | _ => none
  if mine.isEmpty then s
  else
    let s := updPart s p fun k => { k with spill := k.spill.filter fun i => match i with | .traveller t => t.why ≠ 2 | _ => true }
    mine.foldl (fun s t =>
      match (if stateOf s t.dcore t.oslot = .free then some t.oslot else freeSlot s t.dcore) with
      | some sl => unspill (wakeQuad s t.dcore) t t.dcore sl
      | none => updPart s p fun k => { k with spill := k.spill ++ [.traveller { t with why := 3 }] }) s

/-- A quiesced traveller that still waits for room stays in its slot, and no longer waits (R352). -/
def stayInSlot (s : State) (p : Nat) : State :=
  if (part s p).spillWait.isEmpty then s
  else updPart s p fun k => { k with spillWait := k.spillWait.filter fun i => match i with | .traveller t => t.why ≠ 2 | _ => true }

/-- QUIESCE_RESUME. -/
def quiesceResume (s : State) : State :=
  if s.comp = .quiesce then
    deliverBounced ((List.range 24).foldl (fun s p => unquiesce (stayInSlot s p) p) (settleWs { s with comp := .run, still := false }))
  else s
def execQuiesceResume (s : State) : Result := .next (quiesceResume s)

/-- COMPUTE_RESET, from QUIESCE or HUNG. -/
def computeReset (s : State) : State :=
  if s.comp = .quiesce ∨ s.comp = .hung then settleWs { computeLost s with comp := .reset } else s
def execComputeReset (s : State) : Result := .next (computeReset s)

/-- COMPUTE_RAIL_OFF, from any state. -/
def computeRailOff (s : State) : State := if s.comp = .off then s else settleWs { computeLost s with comp := .off }
def execComputeRailOff (s : State) : Result := .next (computeRailOff s)

/-! ## The domain watchdog (R389) -/

/-- DISPATCHER_HEARTBEAT. -/
def execDispatcherHeartbeat (s : State) : Result :=
  .next (if s.comp = .run ∨ s.comp = .quiesce then { s with heartbeat := true } else s)

/-- DOMAIN_WATCHDOG_EXPIRY: INTV ms have passed since the last check; without a heartbeat the domain is HUNG and no core is
touched. -/
def watchdogExpiry (s : State) : State :=
  if regField s islandBlk 0xF000 15 0 = 0 ∨ (s.comp ≠ .run ∧ s.comp ≠ .quiesce) then s
  else if s.heartbeat then { s with heartbeat := false }
  else
    let s' := if s.comp = .run then leaveRun s else s
    settleWs (otherRecord { s' with comp := .hung })

def execDomainWatchdogExpiry (s : State) : Result := .next (watchdogExpiry s)

/-! ## Sensors (R434) -/

/-- TEMP of a sensor, in units of 0.125 degrees. -/
def tempOf (s : State) (i : Nat) : Int := (BitVec.ofNat 12 (regField s islandBlk (0xF900 + 8 * i) 11 0)).toInt
/-- Some die sensor reads `t` or more. -/
def dieAt (s : State) (t : Int) : Bool := (List.range 64).any fun i => decide (t ≤ tempOf s i)

/-- THERMAL_READING: a reading that has lasted as its action asks. -/
def thermalReading (s : State) (i : Nat) (temp : Int) : State :=
  if 80 ≤ i then s
  else
    let s := putReg s islandBlk (0xF900 + 8 * i) (BitVec.ofNat 64 (BitVec.ofInt 12 temp).toNat)
    if i < 64 then
      let s := if 840 ≤ temp ∧ s.fw.capped = false then otherRecord { s with fw := { s.fw with capped := true } } else s
      let s := if dieAt s 800 then s else { s with fw := { s.fw with capped := false } }
      if 920 ≤ temp ∧ s.fw.hotDie = false then quiesce (otherRecord { s with fw := { s.fw with hotDie := true } })
      else if dieAt s 920 then s
      else { s with fw := { s.fw with hotDie := false } }
    else
      let t := i - 64
      let s := if temp < 760 then { s with fw := { s.fw with hotTowers := s.fw.hotTowers.erase t } }
        else if s.fw.hotTowers.contains t then s
        else otherRecord { s with fw := { s.fw with hotTowers := s.fw.hotTowers ++ [t] } }
      if 840 ≤ temp then srRequest (otherRecord s) else s

def execThermalReading (i : Nat) (temp : Int) (s : State) : Result := .next (thermalReading s i temp)

/-- THERMAL_SHUTDOWN_TIMER: 100 ms after the quiesce request. -/
def execThermalShutdownTimer (s : State) : Result :=
  .next (if s.fw.hotDie = true ∧ dieAt s 920 = true then computeRailOff (otherRecord { s with fw := { s.fw with hotDie := false } }) else s)

end Sys2Proof.Machine
end

