-- ==== Sys2Proof/Machine/Dispatcher.lean ====
section
/-! DEFINITION. The dispatcher and the launch unit: acceptance of copies and submission entries (R168 to R171, R175), the checks
of a launch record (R136, R137, R142, R144), placement (R138, R147 to R152, R368, R386), gating (R153), self-test (R163, R164)
and held posts (R170). -/

namespace Sys2Proof.Machine

/-! ## The launch record -/

/-- Bits [hi:lo] of a launch record (R136). -/
def recField (r : List Byte) (hi lo : Nat) : Nat := bitsOf (leNat r) hi lo
def recBit (r : List Byte) (k : Nat) : Bool := recField r k k == 1
/-- Travellers per core (R136): 0 means 1. -/
def recPercore (r : List Byte) : Nat := max 1 (recField r 271 256)
def recW (r : List Byte) : Nat := recField r 239 224
def recH (r : List Byte) : Nat := recField r 255 240
/-- GRAPH, PHASE and JOB. -/
def recNames (r : List Byte) : List Nat := [recField r 543 512, recField r 575 544, recField r 607 576]
/-- The entry that counts a launch: the first of GRAPH, PHASE and JOB that is not zero (R141, R142). -/
def ownerOf (names : List Nat) : Nat := (names.find? (· ≠ 0)).getD 0

/-- A reserved bit of the record is set. -/
def recReserved (r : List Byte) : Bool :=
  [(206, 198), (223, 215), (287, 276), (319, 296), (511, 464), (1023, 608)].any fun f => recField r f.1 f.2 != 0

/-- A pair of an extent and its tile breaks check 6 of R137; `n` tiles cover it. -/
def tileBad (ext tile n : Nat) : Bool := (decide (0 < ext) && tile == 0) || decide (n * tile < ext)

/-- Compute cores of a partition outside the holes. -/
def livePartCores (s : State) (p : Nat) : List Nat := (coresOfPart s p).filter fun c => !(quad s (quadOf c)).hole

/-- An entry of level `lev` is allocated in the sense of R142. -/
def allocated (s : State) (p e lev : Nat) : Bool := isEntry s p e && eState s p e == 1 && eOpen s p e && eLevel s p e == lev

/-- The rejection code of R137 for a record that has been read, apart from checks 1, 9 and 8; 0 when it passes. `sub` is the
submitter's context. A context that is not enabled is refused with code 3 too (R362). DESIGN CHOICE (assumption 77): check 5 asks the
compute cores of the partition, on which alone a launch is placed. -/
def recordCode (s : State) (p sub : Nat) (r : List Byte) : Nat :=
  let x := recField r 295 288
  let n := recPercore r
  let w := recW r
  let h := recH r
  if recReserved r then 2
  else if 128 < x ∨ (x ≠ 0 ∧ ((x ≠ sub ∧ x ≠ tenant s p) ∨ (purse s x).en = false)) then 3
  else if w = 0 ∨ 64 < w ∨ h = 0 ∨ 80 < h ∨ (recBit r 207 = true ∧ (64 < recField r 197 192 + w ∨ 80 < recField r 214 208 + h))
      ∨ (livePartCores s p).length < w * h then 4
  else if (livePartCores s p).all (fun c => decide (slotCount s c < n)) then 5
  else if tileBad (recField r 351 320) (recField r 431 416) h || tileBad (recField r 383 352) (recField r 447 432) w
      || tileBad (recField r 415 384) (recField r 463 448) n then 6
  else if ((recNames r).zip [2, 3, 4]).any (fun e => e.1 != 0 && !allocated s p e.1 e.2) then 7
  else 0

/-- What reading the record gives. -/
inductive RecordRead where
  | code (n : Nat)
  | wait
  | ok (bs : List Byte)
deriving DecidableEq, Repr

/-- The dispatcher reads the record at `a` through the partition's translation (R137, R175). -/
def readRecord (s : State) (p a : Nat) : RecordRead :=
  if a % 128 ≠ 0 then .code 1
  else
    let take (pa : Nat) : RecordRead :=
      if !servable s pa then .wait else if poisonedAt s pa 128 then .code 9 else .ok (rdBytes s.mem pa 128)
    match islandPlace s p a true false with
    | .ok (.hall h) => take (hallPa h)
    | .ok (.dram pa) => take pa
    | _ => .code 9

/-- The read of the record at `a`, and the walk to it, find the errors that they meet and look up the channel cache (R279, R280). -/
def recordFound (s : State) (p a : Nat) : State :=
  let found (pa : Nat) : State :=
    if servable s pa then lookUp (findErrors (walk s p a).1 pa 128 4 0) pa 128 false else (walk s p a).1
  match islandPlace s p a true false with
  | .ok (.hall h) => found (hallPa h)
  | .ok (.dram pa) => found pa
  | _ => s

/-- A submission entry (R168) is taken: its record, when a copy carries one, and the submitter's context. `none` while the
record's DRAM does not answer. -/
def takeSubmission (s : State) (p : Nat) (bs : List Byte) (carried : Option (List Byte)) (sub : Nat) : Option State :=
  let v := leNat bs
  let cq := bitsOf v 31 16
  let tag := bitsOf v 63 32
  let gate := bitsOf v 191 160
  let reject (s : State) (code : Nat) : Option State := some (postTo s p cq code 1 tag 0)
  if v % 256 ≠ 1 ∨ bitsOf v 15 8 ≠ 0 ∨ bitsOf v 511 192 ≠ 0 then reject s 2
  else
    let a := bitsOf v 127 64 % 2 ^ 56
    let s := if carried.isSome || a % 128 != 0 then s else recordFound s p a
    match (match carried with | some r => RecordRead.ok r | none => readRecord s p a) with
    | .wait => none
    | .code n => reject s n
    | .ok r =>
      let code := recordCode s p sub r
      if code ≠ 0 then reject s code
      else if gate ≠ 0 ∧ !(isEntry s p gate && eState s p gate == 1 && eLevel s p gate == 5) then reject s 7
      else
        let x := recField r 295 288
        let k := part s p
        let l : Launch := { record := r, gates := if gate = 0 then [] else [gate], names := recNames r, owner := ownerOf (recNames r),
                            notify := bitsOf v 159 128, urg := recBit r 272, ecx := if x = 0 then sub else x, seq := k.launchSeq,
                            cq := cq, tag := tag }
        let k := { k with launchSeq := k.launchSeq + 1 }
        let k := if gate ≠ 0 then { k with waiting := k.waiting ++ [l] }
          else if l.urg then { k with urgent := k.urgent ++ [l] } else { k with normal := k.normal ++ [l] }
        some (increment (putPart s p k) p l.owner)

/-! ## Submission queues and the intake (R169, R175) -/

/-- Host queues may be read: the compute domain is in RUN and the waystation forwards (R24, R432). -/
def hostFetchOk (s : State) : Bool := s.comp == .run && s.ws != .off && s.ws != .boot

/-- The tenant that submission queue `q` names (R167). -/
def qVf (s : State) (p q : Nat) : Nat := qGet s p q 23 16

/-- A submission queue that has an entry to read. -/
def submitReady (s : State) (p q : Nat) : Bool :=
  qEnabled s p q && qKind s p q == 1 && qCount s p q != 0 && (!qLoc s p q || hostFetchOk s) && !s.stranded.contains (qVf s p q)

/-- The queues whose turn can come, in ascending id; the intake follows the last queue. -/
def turns (s : State) (p : Nat) : List Nat :=
  (List.range (qsize s p)).filter (submitReady s p) ++ (if (part s p).intake.isEmpty then [] else [qsize s p])

/-- The intake's next LAUNCH copy. -/
def takeIntake (s : State) (p : Nat) : State :=
  match (part s p).intake with
  | [] => s
  | c :: cs => (takeSubmission (updPart s p fun k => { k with intake := cs }) p c.bytes c.record (if c.level = 2 then 0 else c.ecx)).getD s

/-- One entry of queue `q`. An entry that cannot be read disables the queue, as R170 has it for posts (assumption 20). DESIGN CHOICE
(assumption 68): poison marks of the entry are dropped, so that its poisoned bytes are the zeros that such granules hold. -/
def takeEntry (s : State) (p q : Nat) : State :=
  match qPlace s p q (qHead s p q) false with
  | none => trapLog (disableQueue s p q) p 3 0 0 (BitVec.ofNat 64 q)
  | some pl =>
    if placeWaits s pl then s
    else
      let s := entryFound s pl
      (takeSubmission (qSet s p q 159 128 ((qHead s p q + 1) % 2 ^ 32)) p ((qRead s pl).map (·.1)) none (qVf s p q)).getD s

/-- SUBMISSION_ENTRY_FETCH: the next queue in turn gives one entry. -/
def submissionFetch (s : State) (p : Nat) : State :=
  if 24 ≤ p ∨ regField s islandBlk (0x9000 + 8 * p) 0 0 = 0 ∨ (s.comp ≠ .run ∧ s.comp ≠ .bringup) then s
  else
    let ts := turns s p
    match (match ts.find? ((part s p).nextTurn ≤ ·) with | some q => some q | none => ts.head?) with
    | none => s
    | some q => updPart (if q = qsize s p then takeIntake s p else takeEntry s p q) p fun k => { k with nextTurn := q + 1 }

def execSubmissionEntryFetch (p : Nat) (s : State) : Result := .next (submissionFetch s p)

/-! ## Acceptance of copies (R171) -/

/-- Copies of partition `p` for queue `q` that wait at its home, by their order of arrival. -/
def stampsOf (s : State) (p q : Nat) : List Nat :=
  s.cores.flatMap fun e => (e.2.enqBuf.filter fun y => y.part == p && y.queue == q && y.stamp != 0).map (·.stamp)

/-- The home has room for the copy and no other waits before it. -/
def copyRoom (s : State) (y : Copy) : Bool :=
  let room := if y.queue = 0x10000 then decide ((part s y.part).intake.length < 64)
    else !qEnabled s y.part y.queue || !qFull s y.part y.queue
  let ready := if y.queue = 0x10000 then true
    else !tailWaits s y.part y.queue
  room && ready && (stampsOf s y.part y.queue).all fun t => y.stamp != 0 && decide (y.stamp ≤ t)

/-- The copies of a core that may leave: no store is ahead, no earlier copy of the traveller for the same queue. -/
def copyFront (k : Core) : List Copy :=
  (k.enqBuf.zipIdx.filter fun e => e.1.ahead == 0 && (k.enqBuf.take e.2).all fun y => !(y.slot == e.1.slot && y.queue == e.1.queue)).map (·.1)

/-- The home takes a copy. A copy whose queue is disabled by now, or whose entry cannot be written, is discarded and logged; the latter
disables the queue, as R170 has it for posts (assumption 20). -/
def copyTaken (s : State) (c : Nat) (y : Copy) : State :=
  let s := ackOuts (updCore s c fun k => { k with enqBuf := k.enqBuf.erase y }) c y.slot
  let p := y.part
  let q := y.queue
  if q = 0x10000 then updPart s p fun k => { k with intake := k.intake ++ [y] }
  else
    let logged (s : State) : State := trapLog s p 3 c 0 (BitVec.ofNat 64 q)
    if qEnabled s p q then
      match qPlace s p q (qTail s p q) true with
      | some pl => qSet (qWrite s p (y.bytes.map fun b => (b, false)) pl) p q 191 160 ((qTail s p q + 1) % 2 ^ 32)
      | none => disableQueue (logged s) p q
    else logged s

/-- ENQUEUE_COPY_ACCEPT: a copy is accepted, or joins the copies that wait at its home. -/
def copyAccept (s : State) (c : Nat) : State :=
  let all := copyFront (core s c)
  let mine (y : Copy) : Bool := (slot s c y.slot).pair && !y.matched
  let front := all.filter fun y => !mine y
  let s := (all.filter mine).foldl (fun s y =>
    escSend s c y.slot 4 (BitVec.ofNat 64 y.queue) (y.bytes ++ y.record.getD [] ++ leBytes 1 y.level) (.copy y)) s
  match front.find? (copyRoom s) with
  | some y => copyTaken s c y
  | none =>
    match front.find? (·.stamp == 0) with
    | some y =>
      let n := (part s y.part).copySeq + 1
      updCore (updPart s y.part fun k => { k with copySeq := n }) c fun k => { k with enqBuf := k.enqBuf.map fun z => if z == y then { z with stamp := n } else z }
    | none => s

def execEnqueueCopyAccept (c : Nat) (s : State) : Result := .next (copyAccept s c)

/-- HELD_POST_WRITE (R170). -/
def execHeldPostWrite (p q : Nat) (s : State) : Result := .next (if p < 24 ∧ q < qsize s p then heldPost s p q else s)

/-! ## Feasible rectangles (R148 to R151, R386) -/

/-- The core of traveller `ix` of a launch placed at (X, Y) (R138). -/
def coreOfIx (r : List Byte) (X Y ix : Nat) : Nat :=
  let k := ix / recPercore r
  (Y + k / max 1 (recW r)) * 64 + X + k % max 1 (recW r)

/-- Travellers placed on core `c` and not yet created. -/
def pendingOn (s : State) (c : Nat) : Nat :=
  (s.parts.map fun e => (e.2.placed.map fun l => (l.left.filter fun ix =>
    let d := coreOfIx l.launch.record l.x l.y ix
    d == c || (recBit l.launch.record 273 && twinCore d == c)).length).foldl (· + ·) 0).foldl (· + ·) 0

/-- Slots of core `c` that are FREE or ENDED and promised to no placed traveller. -/
def openSlots (s : State) (c : Nat) : Nat := slotCount s c - (slotsOf s c).length - pendingOn s c

/-- A twin lives on core `c`, or is to be created there. -/
def hasTwin (s : State) (c : Nat) : Bool :=
  (slotsOf s c).any (fun sl => (slot s c sl).twin)
    || s.parts.any fun e => e.2.placed.any fun l => recBit l.launch.record 273
      && l.left.any fun ix => twinCore (coreOfIx l.launch.record l.x l.y ix) == c

/-- Every live traveller of core `c` is a twin. -/
def onlyTwins (s : State) (c : Nat) : Bool := (slotsOf s c).all fun sl => (slot s c sl).twin

/-- An urgent launch of the partition waits for reserve cores (R151). -/
def urgentWaits (s : State) (p : Nat) : Bool := (part s p).urgent.any fun l => recBit l.record 275

/-- The row of R151 that a launch falls under: it may use reserve cores now. -/
def mayReserve (s : State) (p : Nat) (r : List Byte) : Bool := recBit r 275 && (recBit r 272 || !urgentWaits s p)

/-- A core of the partition that the launch could use at some time (R150): no hole, and no reserve core that R151 never
permits. -/
def coreFits (s : State) (p : Nat) (r : List Byte) (c : Nat) : Bool :=
  kindOf c == .compute && inPartition s c p && (!inReserve s c || recBit r 275)

/-- What R148 asks of a core of the rectangle, apart from its slots: a core that moves or is sealed takes no placement
(R154, R382). -/
def coreOpen (s : State) (p : Nat) (r : List Byte) (c : Nat) : Bool :=
  coreFits s p r c && (!inReserve s c || mayReserve s p r) && !(quad s (quadOf c)).draining && !(quad s (quadOf c)).testing
    && !(core s c).move && !(core s c).isSealed && !(core s c).sealing

/-- A core of the rectangle is feasible (R148); a twin's core runs nothing but twins (R386). -/
def coreFeasible (s : State) (p : Nat) (r : List Byte) (twin : Bool) (c : Nat) : Bool :=
  coreOpen s p r c && decide (recPercore r ≤ openSlots s c) && (if twin then onlyTwins s c && (pendingOn s c == 0 || hasTwin s c) else !hasTwin s c)

/-- The cores of a rectangle, row by row. -/
def rectCores (r : List Byte) (X Y : Nat) : List Nat :=
  (List.range (recH r)).flatMap fun cy => (List.range (recW r)).map fun cx => (Y + cy) * 64 + X + cx

/-- A rectangle is feasible: its cores, and for an escorted launch the cores of its twins, which lie outside it. -/
def feasible (s : State) (p : Nat) (r : List Byte) (X Y : Nat) : Bool :=
  let cs := rectCores r X Y
  decide (X + recW r ≤ 64) && decide (Y + recH r ≤ 80) && cs.all (coreFeasible s p r false)
    && (!recBit r 273 || cs.all fun c => !cs.contains (twinCore c) && coreFeasible s p r true (twinCore c))

/-- Quads of a cluster, row by row. -/
def quadsOfCluster (k : Nat) : List Nat :=
  (List.range 16).map fun i => (k / 8 * 4 + i / 4) * 32 + k % 8 * 4 + i % 4
/-- All sixteen quads are gated (R153). -/
def fullyGated (s : State) (k : Nat) : Bool := (quadsOfCluster k).all fun q => (quad s q).gated

/-- What R149 compares, in half microseconds and quads: wake cost, empty quads, Y, X. -/
def originCost (s : State) (r : List Byte) (X Y : Nat) : List Nat :=
  let qs := ((rectCores r X Y).map quadOf).eraseDups
  let ks := (qs.map clusterOfQuad).eraseDups
  let wake := 16 * (ks.filter (fullyGated s)).length + 3 * (qs.filter fun q => (quad s q).gated && !fullyGated s (clusterOfQuad q)).length
  let empty := (qs.filter fun q => (coresOfQuad q).all fun c => (slotsOf s c).isEmpty).length
  [wake, empty, Y, X]

/-- Lists of numbers compared in order. -/
def lexLt : List Nat → List Nat → Bool
  | a :: as, b :: bs => decide (a < b) || (a == b && lexLt as bs)
  | _, _ => false

/-- Every origin at which the rectangle lies within the grid. -/
def origins (r : List Byte) : List (Nat × Nat) :=
  (List.range (81 - recH r)).flatMap fun Y => (List.range (65 - recW r)).map fun X => (X, Y)

/-- The least of a list of origins under R149. -/
def leastOrigin (s : State) (r : List Byte) (os : List (Nat × Nat)) : Option (Nat × Nat) :=
  os.foldl (fun best o => match best with
    | none => some o
    | some b => if lexLt (originCost s r o.1 o.2) (originCost s r b.1 b.2) then some o else some b) none

/-- The fixed origin of a launch. -/
def fixedOrigin (r : List Byte) : Option (Nat × Nat) := if recBit r 207 then some (recField r 197 192, recField r 214 208) else none

/-- The origin the dispatcher chooses (R149, R150). -/
def chooseOrigin (s : State) (p : Nat) (r : List Byte) (ok : State → Nat → List Byte → Nat → Nat → Bool) : Option (Nat × Nat) :=
  match fixedOrigin r with
  | some o => if ok s p r o.1 o.2 then some o else none
  | none => leastOrigin s r ((origins r).filter fun o => ok s p r o.1 o.2)

/-- A fixed rectangle that no waiting makes feasible is rejected (R150, R386). -/
def fixedBad (s : State) (p : Nat) (r : List Byte) : Bool := match fixedOrigin r with
  | some (X, Y) => (rectCores r X Y).any fun c => !coreFits s p r c || (recBit r 273 && !((core s (twinCore c)).asg && (core s (twinCore c)).part == p))
  | none => false

/-! ## The launch unit (R138) -/

/-- The part of an extent that tile number `i` covers (R138). -/
def clipTile (ext tile i : Nat) : Nat := min (ext - i * tile) tile

/-- Traveller `ix` of a launch, on core `c` (R138, R70, R73). -/
def launchBirth (l : Launch) (e p c ix : Nat) : Birth :=
  let r := l.record
  let n := recPercore r
  let j := ix % n
  let cx := ix / n % max 1 (recW r)
  let cy := ix / n / max 1 (recW r)
  { g := [BitVec.ofNat 64 (recField r 127 64)], pc := BitVec.ofNat 64 (recField r 63 0), ix := ix, lc := cy * 2 ^ 16 + cx,
    ex0 := clipTile (recField r 351 320) (recField r 431 416) cy, ex1 := clipTile (recField r 383 352) (recField r 447 432) cx,
    ex2 := clipTile (recField r 415 384) (recField r 463 448) j, ecx := l.ecx, urg := l.urg, esc := recBit r 273, rst := recBit r 274,
    lslot := e, part := p, bcore := c }

/-- Create one placed traveller, with its twin when it is escorted; `none` when a slot is missing. A traveller of a launch that
has been cancelled meanwhile takes the cancel (R146). -/
def createOne (s : State) (p : Nat) (l : Placement) (ix : Nat) : Option State :=
  let r := l.launch.record
  let c := coreOfIx r l.x l.y ix
  let b := launchBirth l.launch l.entry p c ix
  let tid := freshTid s
  let key := keyLaunch (recField r 191 128) ix
  let put (s : State) (c sl : Nat) (twin : Bool) : State :=
    let s := updSlot (createWith s c sl b tid key) c sl fun k => { k with pair := recBit r 273, twin := twin }
    if eCan s p l.entry then addPending s c sl .cancel else s
  match freeSlot s c, (if recBit r 273 then freeSlot s (twinCore c) else some 0) with
  | some sl, some tsl =>
    let s := put (tookTid s) c sl false
    some (if recBit r 273 then put s (twinCore c) tsl true else s)
  | _, _ => none

/-- The quads a placement touches, those of its twins among them. -/
def placedQuads (l : Placement) : List Nat :=
  let cs := rectCores l.launch.record l.x l.y
  ((cs ++ if recBit l.launch.record 273 then cs.map twinCore else []).map quadOf).eraseDups

/-- Create the travellers of a placement whose quads are all awake (R138, R153). -/
def createLeft (s : State) (p : Nat) (l : Placement) : State × List Nat :=
  if (placedQuads l).any (fun q => (quad s q).gated || (quad s q).waking) then (s, l.left)
  else l.left.foldl (fun (a : State × List Nat) ix => match createOne a.1 p l ix with
    | some s => (s, a.2)
    | none => (a.1, a.2 ++ [ix])) (s, [])

/-- Go on with the placements of partition `p`. -/
def createPlaced (s : State) (p : Nat) : State :=
  let ls := (part s p).placed
  if ls.isEmpty then s
  else
    let r := ls.foldl (fun (a : State × List Placement) l =>
      let y := createLeft a.1 p l
      (y.1, if y.2.isEmpty then a.2 else a.2 ++ [{ l with left := y.2 }])) (updPart s p fun k => { k with placed := [] }, [])
    updPart r.1 p fun k => { k with placed := r.2 }

/-! ## Placement (R147, R152, R368) -/

/-- The lowest FREE entry of the completion table (R141). -/
def lowestEntry (s : State) (p : Nat) : Option Nat := (List.range (tsize s p)).find? fun e => decide (e ≠ 0) && eState s p e == 0

/-- The launch entry as R141 and R138 set it at placement. -/
def launchEntry (l : Launch) : Nat :=
  let r := l.record
  recW r * recH r * recPercore r + 1 * 2 ^ 32 + 1 * 2 ^ 37 + l.owner * 2 ^ 64 + l.notify * 2 ^ 96 + l.ecx * 2 ^ 128 + l.cq * 2 ^ 144

/-- ENTRY does not lie in the code region of every placed core (R137 check 8). -/
def entryBad (s : State) (r : List Byte) (X Y : Nat) : Bool :=
  let pc := recField r 63 0
  let cs := rectCores r X Y
  pc % 4 != 0 || (cs ++ if recBit r 273 then cs.map twinCore else []).any fun c =>
    decide (pc < aliasBase c) || regionOf s c (pc - aliasBase c) != .code

/-- A launch leaves its list. -/
def dropFromLists (s : State) (p : Nat) (l : Launch) : State :=
  updPart s p fun k => { k with urgent := k.urgent.filter (· ≠ l), normal := k.normal.filter (· ≠ l) }

/-- Place launch `l` at (X, Y) with entry `e`. -/
def placeAt (s : State) (p : Nat) (l : Launch) (e X Y : Nat) : State :=
  let r := l.record
  let s := dropFromLists s p l
  if entryBad s r X Y then decrement (postTo s p l.cq 8 1 l.tag e) p l.owner
  else
    let s := rowPut s (entryPa s p e) (launchEntry l)
    let pl : Placement := { launch := l, entry := e, x := X, y := Y, left := List.range (recW r * recH r * recPercore r) }
    let s := updPart s p fun k =>
      { k with
        tags := mput 0 k.tags e l.tag
        rects := insertAt k.rects e (X, Y, recW r, recH r)
        running := insertAt k.running e l
        placed := k.placed ++ [pl] }
    let s := (placedQuads pl).foldl (fun s q => updQuad s q fun k => if k.gated then { k with waking := true } else k) s
    createPlaced s p

/-- The traveller in slot `sl` of reserve core `c` borrows it: its launch is a normal one. DESIGN CHOICE (assumption 66): of a
traveller that no launch of this cube counts, the class of its run queue tells. -/
def borrows (s : State) (c sl : Nat) : Bool :=
  let h := (slot s c sl).hdr
  inReserve s c && (match (if h.lcube = cubeId s then lookup (part s h.part).running h.lslot else none) with
    | some l => !l.urg
    | none => !statusBit s c sl 9)
/-- The travellers of a core that stay when its borrowers have left. -/
def stayers (s : State) (c : Nat) : List Nat := (slotsOf s c).filter fun sl => !borrows s c sl
/-- Core `c` would be feasible once the borrowers on its reserve have left (R152). -/
def coreAfterBorrowers (s : State) (p : Nat) (r : List Byte) (c : Nat) : Bool :=
  coreOpen s p r c && !hasTwin s c && decide (recPercore r + pendingOn s c ≤ slotCount s c - (stayers s c).length)
/-- The same of a twin's core: borrowers leave it too. -/
def twinAfterBorrowers (s : State) (p : Nat) (r : List Byte) (c : Nat) : Bool :=
  coreOpen s p r c && (stayers s c).all (fun sl => (slot s c sl).twin) && decide (recPercore r + pendingOn s c ≤ slotCount s c - (stayers s c).length)
def feasibleLater (s : State) (p : Nat) (r : List Byte) (X Y : Nat) : Bool :=
  let cs := rectCores r X Y
  decide (X + recW r ≤ 64) && decide (Y + recH r ≤ 80) && cs.all (coreAfterBorrowers s p r)
    && (!recBit r 273 || cs.all fun c => !cs.contains (twinCore c) && twinAfterBorrowers s p r (twinCore c))

/-- Pre-emption requests to the borrowing travellers of the rectangle that the urgent head would take; one that has taken its request and is
leaving gets no second (R152). -/
def requestReclaim (s : State) (p : Nat) (l : Launch) : State :=
  if !(l.urg && recBit l.record 275) || (lowestEntry s p).isNone then s
  else match chooseOrigin s p l.record feasibleLater with
    | none => s
    | some (X, Y) =>
      let cs := rectCores l.record X Y
      ((cs ++ if recBit l.record 273 then cs.map twinCore else []).filter (inReserve s)).foldl (fun s c =>
        ((slotsOf s c).filter fun sl => borrows s c sl && !(slot s c sl).leaving).foldl (fun s sl => addPending s c sl .preempt) s) s

/-- The dispatcher may place a launch of context `x`: in BRINGUP only those of context 0 (R432); a stranded context is passed
over (R368). -/
def mayPlace (s : State) (l : Launch) : Bool :=
  (s.comp == .run || (s.comp == .bringup && l.ecx == 0)) && !s.stranded.contains l.ecx

/-- Try the head of a list; `none` when it cannot be placed. -/
def tryHead (s : State) (p : Nat) (ls : List Launch) : Option State :=
  match ls.find? (mayPlace s) with
  | none => none
  | some l =>
    if fixedBad s p l.record then some (decrement (postTo (dropFromLists s p l) p l.cq 4 1 l.tag 0) p l.owner)
    else match lowestEntry s p, chooseOrigin s p l.record feasible with
      | some e, some (X, Y) => some (placeAt s p l e X Y)
      | _, _ => none

/-- LAUNCH_PLACEMENT: the head of the urgent list is tried, then the head of the normal list (R147); an urgent head that waits for
reserve cores has their borrowers asked to leave. -/
def launchPlacement (s : State) (p : Nat) : State :=
  if 24 ≤ p ∨ (s.comp ≠ .run ∧ s.comp ≠ .bringup) then s
  else
    let s := createPlaced s p
    if s.comp = .run ∧ (firstResumed s p).isSome = true then s
    else
      let s := match tryHead s p (part s p).urgent with
        | some s' => s'
        | none => (match (part s p).urgent.find? (mayPlace s) with | some l => requestReclaim s p l | none => s)
      (tryHead s p (part s p).normal).getD s

def execLaunchPlacement (p : Nat) (s : State) : Result := .next (launchPlacement s p)

/-! ## Idle cores (R128) -/

/-- Core `c` is idle (R128): no traveller, empty queues, no engine command outstanding. DESIGN CHOICE (assumption 63): a core with a
placed traveller still to come is not idle. -/
def idleCore (s : State) (c : Nat) : Bool :=
  let k := core s c
  (slotsOf s c).isEmpty && k.urgQ.isEmpty && k.normQ.isEmpty && k.deque.isEmpty && !s.held.any (·.1 == c)
    && (k.coachQ ++ k.courierQ ++ (chan s c).streamQ).all (·.st == 2) && k.seqr.isNone && (chan s c).bankCmds.isEmpty && pendingOn s c == 0

/-! ## Gating (R153) -/

/-- The contents of a quad's accumulators are lost. -/
def loseBanks (s : State) (q : Nat) : State :=
  updQuad { s with accMem := s.accMem.filter fun e => !(q * 2 ^ 18 ≤ e.1 && e.1 < (q + 1) * 2 ^ 18) } q fun k => { k with bankStatus := [] }

/-- QUAD_GATE: the quad has been idle for GDLY µs without a break. The dispatcher gates it while it runs: not in a HUNG domain (R389). -/
def quadGate (s : State) (q : Nat) : State :=
  let k := quad s q
  if 1280 ≤ q ∨ s.comp = .off ∨ s.comp = .reset ∨ s.comp = .hung ∨ regField s dispBlk 0 31 16 = 0 ∨ (k.gated || k.hole || k.draining || k.testing) = true
      ∨ ((coresOfQuad q).all fun c => idleCore s c && !inReserve s c) = false then s
  else updQuad (loseBanks s q) q fun k => { k with gated := true, waking := false }

def execQuadGate (q : Nat) (s : State) : Result := .next (quadGate s q)

/-- QUAD_WAKE_COMPLETE: travellers placed there become READY once every quad of their placement is awake. -/
def quadWake (s : State) (q : Nat) : State :=
  if (quad s q).gated && (quad s q).waking then
    (List.range 24).foldl createPlaced (updQuad s q fun k => { k with gated := false, waking := false })
  else s

def execQuadWakeComplete (q : Nat) (s : State) : Result := .next (quadWake s q)

/-! ## Self-test (R163, R164) -/

def nextCluster (s : State) : Nat := regField s dispBlk 8 6 0

/-- SELF_TEST_DRAIN_START: STINT s have passed. -/
def drainStart (s : State) : State :=
  if regField s dispBlk 0 15 0 = 0 ∨ s.comp ≠ .run ∨ s.testing.isSome = true then s
  else (quadsOfCluster (nextCluster s)).foldl (fun s q => updQuad s q fun k => if k.hole then k else { k with draining := true })
    { s with testing := some (nextCluster s, false), testFirst := s.testFirst.erase (nextCluster s) }

def execSelfTestDrainStart (s : State) : Result := .next (drainStart s)

/-- Every core of the cluster outside the holes is idle. -/
def clusterIdle (s : State) (k : Nat) : Bool := (quadsOfCluster k).all fun q => (quad s q).hole || (coresOfQuad q).all (idleCore s)

/-- SELF_TEST_START: the cluster under drain is idle. -/
def testStart (s : State) : State :=
  match s.testing with
  | some (k, false) =>
    if clusterIdle s k then
      (quadsOfCluster k).foldl (fun s q => updQuad (loseBanks s q) q fun v => if v.hole then v else { v with testing := true, draining := false })
        { s with testing := some (k, true) }
    else s
  | _ => s

def execSelfTestStart (s : State) : Result := .next (testStart s)

/-- The cluster returns to service. -/
def backInService (s : State) (k : Nat) : State :=
  (quadsOfCluster k).foldl (fun s q => updQuad s q fun v => { v with testing := false, draining := false }) { s with testing := none }

/-- SELF_TEST_DEFER: the cluster is not idle after 50 ms. -/
def testDefer (s : State) : State :=
  match s.testing with
  | some (k, false) => if clusterIdle s k then s else putField (backInService s k) dispBlk 8 15 8 (min 255 (regField s dispBlk 8 15 8 + 1))
  | _ => s

def execSelfTestDefer (s : State) : Result := .next (testDefer s)

/-- SELF_TEST_COMPLETE: bit i of `fails` is set when quad i of the cluster, row by row, failed; it is retired. A cluster that a machine check
queued meanwhile is next (R383). DESIGN CHOICE (assumption 78): R360 has no fare class for the test, so no units are charged here: its energy
reaches context 0, which R163 names, with the residual of R361. -/
def testComplete (s : State) (fails : BitVec 16) : State :=
  match s.testing with
  | some (k, true) =>
    let bad := ((quadsOfCluster k).zipIdx.filter fun e => fails.getLsbD e.2 && !(quad s e.1).hole).map (·.1)
    let s := bad.foldl (fun s q => quadCount (updQuad s q fun v => { v with hole := true, gated := false, waking := false }) q) (backInService s k)
    let s := putField s dispBlk 8 37 32 ((List.range 32).filter fun x => columnRetired s x == 0).length
    putField (putField s dispBlk 8 6 0 (s.testFirst.headD ((k + 1) % 80))) dispBlk 8 15 8 0
  | _ => s

def execSelfTestComplete (fails : BitVec 16) (s : State) : Result := .next (testComplete s fails)

end Sys2Proof.Machine
end

