-- ==== Sys2Proof/Machine/Cores.lean ====
section
/-! DEFINITION. The local-memory map (R126 to R131), the loading of an image (R66 to R68, R132, R133), core moves (R154) and the
X traveller (R251, R252). -/

namespace Sys2Proof.Machine

/-! ## Boundary registers (R127, R128) -/

/-- Who may write the boundary registers of core `c` (R127, R131): the island controller, and for a compute core the steward of its
cluster, for a channel core a steward of its partition. -/
def boundaryOk (s : State) (a : Agent) (c : Nat) : Bool := match a with
  | .island => kindOf c != .absent
  | .steward id _ p => match kindOf c with
    | .compute => id == stewardOf (clusterOf c)
    | .channel => (core s c).asg && (core s c).part == p
    | _ => false
  | _ => false

/-- BASE of a boundary register. -/
def baseOf (v : Word) : Nat := v.toNat % 2 ^ 21

/-- LM_BOUNDARY_STAGE: a write to LMWSB (`which` 0) or LMRGB (1). -/
def boundaryStage (s : State) (a : Agent) (c which : Nat) (v : Word) : State :=
  if !boundaryOk s a c || 2 ≤ which then s
  else if idleCore s c then
    updCore s c fun k => if which = 0 then { k with stWsb := baseOf v, lmErr := false } else { k with stRgb := baseOf v, lmErr := false }
  else updCore s c fun k => { k with lmErr := true }

def execLmBoundaryStage (a : Agent) (c which : Nat) (v : BitVec 64) (s : State) : Result := .next (boundaryStage s a c which v)

/-- The conditions of R128 on the three values. -/
def mapLegal (c wsb rgb dtb : Nat) : Bool :=
  wsb % 4096 == 0 && rgb % 4096 == 0 && dtb % 4096 == 0 && decide (0x1000 ≤ wsb) && decide (wsb + 0x1000 ≤ rgb)
    && decide (rgb ≤ wsb + (if kindOf c = .channel then 0x4000 else 0x10000)) && decide (rgb ≤ dtb) && decide (dtb ≤ sramSize c)
    && (kindOf c != .channel || decide (0xC0000 ≤ wsb))

/-- A map takes effect (R129, R179, R252, R311, R330): ring and data granules empty and unpoisoned, slots FREE, barriers, rings and
translations gone; no byte changes. -/
def mapCommit (s : State) (c wsb rgb dtb : Nat) : State :=
  let inside (g : Nat) : Bool := decide (sramPa c rgb ≤ g * 16) && decide (g * 16 < sramPa c (sramSize c))
  let s := updCore s c fun k => { k with lmwsb := wsb, lmrgb := rgb, lmdtb := dtb, stWsb := wsb, stRgb := rgb, lmErr := false,
                                         barriers := [], rings := [], tlb := [] }
  { s with full := s.full.filter (fun g => !(decide (sramPa c 0 ≤ g * 16) && decide (g * 16 < sramPa c (sramSize c)))),
           poison := s.poison.filter (fun g => !inside g),
           slots := s.slots.filter fun e => e.1 / 256 != c }

/-- LMDTB_COMMIT. -/
def lmdtbCommit (s : State) (a : Agent) (c : Nat) (v : Word) : State :=
  if !boundaryOk s a c then s
  else
    let k := core s c
    if idleCore s c && mapLegal c k.stWsb k.stRgb (baseOf v) then mapCommit s c k.stWsb k.stRgb (baseOf v)
    else updCore s c fun k => { k with stWsb := k.lmwsb, stRgb := k.lmrgb, lmErr := true }

def execLmdtbCommit (a : Agent) (c : Nat) (v : BitVec 64) (s : State) : Result := .next (lmdtbCommit s a c v)

/-! ## Images (R66 to R68, R132) -/

/-- `n` bytes of an image at an offset, as a number; bytes past the end count as 0. -/
def imgNat (img : List Byte) (o n : Nat) : Nat := leNat ((img.drop o).take n)

/-- A section entry (R67). -/
structure Section where
  kind : Nat
  align : Nat
  foff : Nat
  fsize : Nat
  msize : Nat
  rsvd : Bool
deriving DecidableEq, Repr

def imgSecs (img : List Byte) : List Section :=
  (List.range (imgNat img 8 2)).map fun i =>
    let v := imgNat img (imgNat img 16 8 + 32 * i) 32
    { kind := bitsOf v 7 0, align := bitsOf v 15 8, foff := bitsOf v 127 64, fsize := bitsOf v 159 128, msize := bitsOf v 191 160,
      rsvd := bitsOf v 63 16 != 0 || bitsOf v 255 192 != 0 }

/-- A relocation entry (R68). -/
structure Reloc where
  kind : Nat
  psec : Nat
  tsec : Nat
  poff : Nat
  addend : Int
  rsvd : Bool
deriving DecidableEq, Repr

def imgRelocs (img : List Byte) : List Reloc :=
  (List.range (imgNat img 12 4)).map fun i =>
    let v := imgNat img (imgNat img 32 8 + 16 * i) 16
    { kind := bitsOf v 7 0, psec := bitsOf v 15 8, tsec := bitsOf v 23 16, poff := bitsOf v 63 32,
      addend := (BitVec.ofNat 64 (bitsOf v 127 64)).toInt, rsvd := bitsOf v 31 24 != 0 }

/-- Round up to a multiple of 2^k. -/
def alignUp (o k : Nat) : Nat := (o + 2 ^ k - 1) / 2 ^ k * 2 ^ k

/-- Offsets of the sections, in index order, and the ends of the code and of the data (R133 step 1). -/
def secPlaces (dtb : Nat) (ss : List Section) : List Nat × Nat × Nat :=
  ss.foldl (fun (a : List Nat × Nat × Nat) x =>
    if x.kind = 1 then
      let b := alignUp a.2.1 x.align
      (a.1 ++ [b], b + x.msize, a.2.2)
    else
      let b := alignUp a.2.2 x.align
      (a.1 ++ [b], a.2.1, b + x.msize)) ([], 0, dtb)

/-- The value an LI3 relocation gives (R68): its lowest address is negative. -/
def li3Value (base : Nat) (b : Nat) (addend : Int) : Int := (base : Int) - 2 ^ 56 + b + addend

/-- The three words are HIMM, SRAI by 1 and ADDI on one register (R65). -/
def li3Words (w1 w2 w3 : Nat) : Bool :=
  let d := bitsOf w1 22 18
  bitsOf w1 28 23 == 10 && bitsOf w2 28 23 == 9 && bitsOf w2 12 0 == 0x1001 && bitsOf w3 28 23 == 3
    && bitsOf w2 22 18 == d && bitsOf w2 17 13 == d && bitsOf w3 22 18 == d && bitsOf w3 17 13 == d

/-- The bytes of a section as loaded: its contents and zeros. -/
def secBytes (img : List Byte) (x : Section) : List Byte :=
  (img.drop x.foff).take x.fsize ++ List.replicate (x.msize - x.fsize) 0

/-- Where the patch of a relocation stands in the image's own bytes, and how many bytes follow it in its section or entry. -/
def patchSpan (img : List Byte) (ss : List Section) (r : Reloc) : List Byte × Nat :=
  if r.psec = 0xFF then
    (((img.drop (imgNat img 24 8)).take (128 * imgNat img 10 2)).drop r.poff,
      if r.poff < 128 * imgNat img 10 2 then 128 - r.poff % 128 else 0)
  else match ss[r.psec]? with
    | some x => ((secBytes img x).drop r.poff, x.msize - r.poff)
    | none => ([], 0)

/-- A relocation breaks check 7 of R132. -/
def relocBad (img : List Byte) (base : Nat) (ss : List Section) (bs : List Nat) (r : Reloc) : Bool :=
  let span := patchSpan img ss r
  let v := li3Value base (bs.getD r.tsec 0) r.addend
  !(r.kind == 1 || r.kind == 2) || decide (ss.length ≤ r.tsec) || (r.psec != 0xFF && decide (ss.length ≤ r.psec))
    || decide (span.2 < if r.kind = 1 then 8 else 12)
    || (r.kind == 2 && (decide (v < -1073745920) || decide (1073737727 < v)
        || !li3Words (imgNat span.1 0 4) (imgNat span.1 4 4) (imgNat span.1 8 4)))

/-- The target cores are all compute cores, all channel cores or one steward, and their maps are equal (R132 check 5). -/
def sameMap (s : State) (cs : List Nat) : Bool := match cs with
  | [] => false
  | c :: rest => kindOf c != .absent && (kindOf c != .steward || rest.isEmpty)
    && rest.all fun d => kindOf d == kindOf c && (core s d).lmwsb == (core s c).lmwsb && (core s d).lmrgb == (core s c).lmrgb && (core s d).lmdtb == (core s c).lmdtb

/-- Every core is idle and in the partition (R132 check 8). DESIGN CHOICE (assumption 64): the partition is that of the first target
core, and a steward, which is assigned to none, passes. -/
def loadReady (s : State) (cs : List Nat) : Bool :=
  cs.all fun c => idleCore s c && (kindOf c == .steward || ((core s c).asg && (core s c).part == (core s (cs.headD 0)).part))

/-- What the loader answers (R132): 0 loaded, 1 BADIMG, 2 RSVD, 3 BADSEC, 4 RANGE, 5 MAP, 6 NOFIT, 7 BADREL, 8 BUSY. DESIGN CHOICE
(assumption 60): no entry size of the symbol table is given (R66), so RANGE asks only that SYMOFF lies within the image. -/
def imageCode (s : State) (cs : List Nat) (img : List Byte) : Nat :=
  let len := img.length
  let ss := imgSecs img
  let rs := imgRelocs img
  let c := cs.headD 0
  let k := core s c
  let pl := secPlaces k.lmdtb ss
  if imgNat img 0 4 ≠ 0x3146494A ∨ imgNat img 4 2 ≠ 1 then 1
  else if imgNat img 6 2 ≠ 0 ∨ imgNat img 52 12 ≠ 0 ∨ ss.any (·.rsvd) = true ∨ rs.any (·.rsvd) = true then 2
  else if ss.length = 0 ∨ 16 < ss.length ∨ ss.any (fun x => !(x.kind == 1 || x.kind == 2) || decide (x.align < 2) || decide (12 < x.align)
      || decide (x.msize < x.fsize)) = true then 3
  else if len < 64 ∨ len < imgNat img 16 8 + 32 * ss.length ∨ len < imgNat img 24 8 + 128 * imgNat img 10 2 ∨ len < imgNat img 32 8 + 16 * rs.length
      ∨ len < imgNat img 40 8 ∨ ss.any (fun x => decide (len < x.foff + x.fsize)) = true then 4
  else if sameMap s cs = false then 5
  else if k.lmwsb < pl.2.1 ∨ sramSize c < pl.2.2 then 6
  else if rs.any (relocBad img (aliasBase c) ss pl.1) then 7
  else if loadReady s cs = false then 8
  else 0

/-! ## Loading (R133) -/

/-- Write one section on core `c` at offset `b`. -/
def loadSection (img : List Byte) (c : Nat) (s : State) (e : Section × Nat) : State :=
  writeBytes s (sramPa c e.2) ((secBytes img e.1).map fun v => (v, false))

/-- The granules of core `c` whose sixteen bytes all lie in sections, and those that sections meet. -/
def coveredBy (ls : List (Section × Nat)) (g : Nat) : Bool :=
  (List.range 16).all fun i => ls.any fun e => decide (e.2 ≤ g * 16 + i) && decide (g * 16 + i < e.2 + e.1.msize)

/-- What a relocation writes over the bytes `old` of its patch, by offset from it (R68): a double, or the fields of the first and
the third word. -/
def relocWrites (base : Nat) (bs : List Nat) (r : Reloc) (old : Nat) : List (Nat × List Byte) :=
  let b := bs.getD r.tsec 0
  if r.kind = 1 then [(0, leBytes 8 (BitVec.ofInt 64 ((base : Int) + b + r.addend)).toNat)]
  else
    let v := li3Value base b r.addend
    let f := (v + 4096) / 8192
    [(0, leBytes 4 (setBits (old % 2 ^ 32) 17 0 (BitVec.ofInt 18 f).toNat)),
     (8, leBytes 4 (setBits (old / 2 ^ 64 % 2 ^ 32) 12 0 (BitVec.ofInt 13 (v - 8192 * f)).toNat))]

/-- Apply a relocation of a section on core `c` (R68, R133 step 3). -/
def applyReloc (c : Nat) (bs : List Nat) (s : State) (r : Reloc) : State :=
  let pa := sramPa c (bs.getD r.psec 0 + r.poff)
  if r.psec = 0xFF then s
  else (relocWrites (aliasBase c) bs r (rdN s.mem pa 12)).foldl (fun s w => writeBytes s (pa + w.1) (w.2.map fun v => (v, false))) s

/-- The launch table after relocation for cores with alias base `base`, which the caller is given (R68, R133). -/
def launchTable (img : List Byte) (base : Nat) (bs : List Nat) : List Byte :=
  ((imgRelocs img).filter (·.psec == 0xFF)).foldl
    (fun t r => (relocWrites base bs r (leNat ((t.drop r.poff).take 12))).foldl
      (fun t w => t.take (r.poff + w.1) ++ w.2 ++ t.drop (r.poff + w.1 + w.2.length)) t)
    ((img.drop (imgNat img 24 8)).take (128 * imgNat img 10 2))

/-- Load a checked image on one core. DESIGN CHOICE (assumption 65): granules that no section meets are left full or empty as they
were: that they stay empty supposes that they were. -/
def loadOn (img : List Byte) (s : State) (c : Nat) : State :=
  let ss := imgSecs img
  let bs := (secPlaces (core s c).lmdtb ss).1
  let ls := ss.zip bs
  let gs := (ls.flatMap fun e => granules e.2 e.1.msize).eraseDups
  let base := sramPa c 0 / 16
  let whole := (gs.filter (coveredBy ls)).map (· + base)
  let fresh (h : Nat) : Bool := !whole.contains (h / 2)
  let s := { s with poison := s.poison.filter fun g => !whole.contains g, latent := s.latent.filter fresh, softErr := s.softErr.filter fresh }
  let s := ls.foldl (loadSection img c) s
  let s := (imgRelocs img).foldl (applyReloc c bs) s
  let data := (gs.filter fun g => decide ((core s c).lmdtb ≤ g * 16)).map (· + base)
  data.foldl serveGranule (setFull s data true)

/-- Who loads images (R131, R132): the island controller, and vendor firmware on a steward for cores of other kinds. -/
def loaderOk (a : Agent) (cs : List Nat) : Bool := match a with
  | .island => true
  | .steward _ 2 _ => cs.all fun c => kindOf c != .steward
  | _ => false

/-- The security version of an image (R428). -/
def imgSvn (img : List Byte) : Nat := Config.imageSvn (img.zipIdx.map fun e => (e.2, e.1))

/-- The level of a steward image (R353, R428). -/
def stewardLevel (s : State) (img : List Byte) : Nat :=
  if Config.stewardImageSigned img && decide (s.fw.minsvn ≤ imgSvn img) then 2 else 1

/-- IMAGE_LOAD: the result and the relocated launch table go back to the caller, and an accepted image to every core of the set
(R132, R133). -/
def imageLoad (s : State) (a : Agent) (cs : List Nat) (img : List Byte) : State :=
  if loaderOk a cs then
    if imageCode s cs img = 0 then
      let c := cs.headD 0
      let s := { s with fw.loaded := (0, launchTable img (aliasBase c) (secPlaces (core s c).lmdtb (imgSecs img)).1) }
      cs.foldl (fun s c =>
        let s' := loadOn img s c
        if kindOf c = .steward then
          updCore { s' with fw := { s'.fw with images := insertAt s'.fw.images c (imgSvn img, Config.sha384 img) } } c fun k => { k with level := stewardLevel s img }
        else s') s
    else { s with fw.loaded := (imageCode s cs img, []) }
  else s

def execImageLoad (a : Agent) (cs : List Nat) (img : List Byte) (s : State) : Result := .next (imageLoad s a cs img)

/-! ## Core moves (R154) -/

/-- The move of core `c` that is due. -/
def moveOf (s : State) (c : Nat) : Option CoreMove := s.moves.find? (·.core == c)

/-- A reserve core is not moved away from its partition (R151, R154). -/
def moveHeld (s : State) (m : CoreMove) : Bool := inReserve s m.core && !(m.asg && m.part == (core s m.core).part)

/-- The core is scrubbed: SRAM zeroed, granules empty and unpoisoned, the map at reset, slots FREE, translations, barriers, rings and
the seal gone (R154, R382). Its channel keeps its rows (R345) and error registers. -/
def scrubCore (s : State) (c : Nat) : State :=
  let lo := sramPa c 0
  let hi := sramPa c (sramSize c)
  let inG (g : Nat) : Bool := decide (lo ≤ g * 16) && decide (g * 16 < hi)
  let k := core s c
  let s := putCore s c { coreReset c with part := k.part, asg := k.asg, rsv := k.rsv, move := k.move }
  let s := { s with
    mem := s.mem.filter (fun e => !(decide (lo ≤ e.1) && decide (e.1 < hi)))
    full := s.full.filter (fun g => !inG g)
    poison := s.poison.filter (fun g => !inG g)
    latent := s.latent.filter (fun h => !inG (h / 2))
    softErr := s.softErr.filter (fun h => !inG (h / 2))
    slots := s.slots.filter (fun e => e.1 / 256 != c)
    streams := s.streams.filter fun e => e.1 / 2 != c }
  if kindOf c = .channel then
    updChan s c fun h => { channelKept h with chelog := h.chelog, errCnt := h.errCnt, xentry := h.xentry, xecx := h.xecx, xarg := h.xarg, xerr := h.xerr }
  else s

/-- The core of a move may be scrubbed now. -/
def scrubDue (s : State) (m : CoreMove) : Bool := !m.scrubbed && !moveHeld s m && idleCore s m.core && !arrivalWaits s m.core

/-- CORE_SCRUB: a core that moves has become idle; of several the lowest is first (R350). -/
def coreScrub (s : State) (c : Nat) : State :=
  match moveOf s c with
  | some m =>
    if !scrubDue s m || s.moves.any (fun n => decide (n.core < c) && scrubDue s n) then s
    else { scrubCore s c with moves := s.moves.map fun n => if n == m then { n with scrubbed := true } else n }
  | none => s

def execCoreScrub (c : Nat) (s : State) : Result := .next (coreScrub s c)

/-- CORE_MOVE_COMPLETE: the core is assigned and takes the reserve mark, in ascending id (R350); MOVE falls. -/
def coreMoveDone (s : State) (c : Nat) : State :=
  match moveOf s c with
  | some m =>
    if m.scrubbed && !s.moves.any (fun n => decide (n.core < c) && n.scrubbed) then
      updCore { s with moves := s.moves.filter (· ≠ m) } c fun k => { k with part := if m.asg then m.part else 0, asg := m.asg, rsv := m.rsv, move := false }
    else s
  | none => s

def execCoreMoveComplete (c : Nat) (s : State) : Result := .next (coreMoveDone s c)

/-! ## The X traveller (R251, R252) -/

/-- A GO of XCTL is refused. -/
def goRefused (s : State) (c : Nat) (v : Nat) : Bool :=
  let st := stateOf s c 0
  let entry := bitsOf v 19 0
  let x := bitsOf v 27 20
  !(st == .free || st == .ended) || entry % 4 != 0 || regionOf s c entry != .code || !(core s c).asg || decide (128 < x)
    || !(x == 0 || x == tenant s (core s c).part)

/-- The RW fields of XCTL. -/
def xctlFields (s : State) (c v : Nat) : State :=
  updChan s c fun h => { h with xentry := bitsOf v 19 0, xecx := bitsOf v 27 20, xarg := bitsOf v 63 32 }

/-- X_TRAVELLER_GO: the steward that wrote XCTL receives the traveller's traps. -/
def xGo (s : State) (c st : Nat) (v : Word) : State :=
  if kindOf c ≠ .channel then s
  else if goRefused s c v.toNat then updChan s c fun h => { h with xerr := true }
  else
    let s := updChan (xctlFields s c v.toNat) c fun h => { h with xerr := false, goSteward := some st, stopping := false }
    let entry := bitsOf v.toNat 19 0
    let arg := bitsOf v.toNat 63 32
    let b : Birth := { g := [BitVec.ofNat 64 arg], pc := BitVec.ofNat 64 (aliasBase c + entry), ix := 0, ecx := bitsOf v.toNat 27 20,
                       part := (core s c).part, bcore := c }
    tookTid (createWith s c 0 b (freshTid s) (keyGo arg entry))

def execXTravellerGo (c st : Nat) (v : BitVec 64) (s : State) : Result := .next (xGo s c st v)

/-- X_TRAVELLER_STOP: the X-stream issues nothing more. -/
def xStop (s : State) (c : Nat) : State :=
  if kindOf c ≠ .channel then s
  else if (slotsOf s c).contains 0 then updChan s c fun h => { h with xerr := false, stopping := true }
  else updChan s c fun h => { h with xerr := true }

def execXTravellerStop (c _st : Nat) (s : State) : Result := .next (xStop s c)

/-- X_TRAVELLER_STOP_COMPLETE: its bank-unit commands have delivered their entries; it ends as by its handler. -/
def xStopDone (s : State) (c : Nat) : State :=
  if kindOf c = .channel ∧ (chan s c).stopping = true ∧ (chan s c).bankCmds.isEmpty = true then
    let s := updChan s c fun h => { h with stopping := false }
    if (slotsOf s c).contains 0 then
      let s := if (stream s c true).run = some 0 then switchOut s c true (stream s c true).pc else s
      let s := updCore s c fun k => { k with urgQ := k.urgQ.filter (fun e => e.1 ≠ 0), normQ := k.normQ.filter (fun e => e.1 ≠ 0) }
      let s := { s with granWait := (s.granWait.map fun w => (w.1, w.2.filter (· ≠ (c, 0)))).filter (fun w => !w.2.isEmpty),
                        strandOrder := s.strandOrder.filter (· ≠ (c, 0)) }
      endByHandler s c 0
    else s
  else s

def execXTravellerStopComplete (c : Nat) (s : State) : Result := .next (xStopDone s c)

/-- A write of XCTL by steward `st` (R251, R252). -/
def xctlWrite (s : State) (c st : Nat) (v : Word) : State :=
  match v.getLsbD 28, v.getLsbD 29 with
  | true, true => updChan s c fun h => { h with xerr := true }
  | true, false => xGo s c st v
  | false, true => xStop (xctlFields s c v.toNat) c
  | false, false => xctlFields s c v.toNat

end Sys2Proof.Machine
end

