-- ==== Sys2Proof/Machine/EngEv.lean ====
section
/-! DEFINITION. The steps of the engines, of the homes of reserved doubles and of the memory controllers (R180, R194, R210,
R232, R238, R239, R256 to R265, R279, R284, R310, R345). -/

namespace Sys2Proof.Machine

/-! ## Engines -/

/-- SEQUENCER_EMIT (R210). -/
def execSequencerEmit (c : Nat) (s : State) : Result := .next (seqEmit s c)
/-- VECTOR_COMMAND_START (R194). -/
def execVectorCommandStart (c : Nat) (s : State) : Result := .next (vecStart s c)
/-- VECTOR_COMMAND_COMPLETE (R190). -/
def execVectorCommandComplete (c : Nat) (s : State) : Result := .next (vecComplete s c)
/-- MATRIX_GRANT (R232). -/
def execMatrixGrant (q : Nat) (s : State) : Result := .next (matGrant s q)
/-- MATRIX_COMMAND_COMPLETE (R238). -/
def execMatrixCommandComplete (c : Nat) (s : State) : Result := .next (matComplete s c)
/-- ROTATION_WRITE_APPLY (R239). -/
def execRotationWriteApply (k : Nat) (s : State) : Result := .next (rotApply s k)
/-- COURIER_COMMAND_START (R182). -/
def execCourierCommandStart (c : Nat) (s : State) : Result := .next (courierStart s c)
/-- COURIER_COMMAND_COMPLETE (R182). -/
def execCourierCommandComplete (c k : Nat) (s : State) : Result := .next (courierComplete s c k)
/-- COURIER_FAULT (R182). -/
def execCourierFault (c k : Nat) (s : State) : Result := .next (courierFaultStep s c k)

/-- An engine write lands (R180); at a sealed core it is discarded and logged (R385). -/
def engWriteArrive (s : State) (k : Nat) : State :=
  match pick s.engWrites k with
  | some (w, rest) =>
    if w.rot || w.held then s
    else if mustMatch s w then escWrite s w
    else
      let s' := { s with engWrites := rest }
      match coreOfPa w.pa with
      | some d =>
        if (core s d).isSealed then discardWrite s' d w else landBoth s' w
      | none => if servable s w.pa then landWrite s' w else s
  | none => s

/-- ENGINE_WRITE_ARRIVAL (R180). -/
def execEngineWriteArrival (k : Nat) (s : State) : Result := .next (engWriteArrive s k)
/-- STREAM_RECORD_START (R256). -/
def execStreamRecordStart (c : Nat) (s : State) : Result := .next (streamStart s c)
/-- STREAM_RECORD_COMPLETE (R258). -/
def execStreamRecordComplete (c k : Nat) (s : State) : Result := .next (streamComplete s c k)
/-- STREAM_RECORD_FAULT (R261). -/
def execStreamRecordFault (c k : Nat) (s : State) : Result := .next (streamFaultStep s c k)
/-- BSEL_APPLY (R260). -/
def execBselApply (c : Nat) (s : State) : Result := .next (bselApply s c)
/-- BANK_COMMAND_COMPLETE (R265). -/
def execBankCommandComplete (c k : Nat) (s : State) : Result := .next (bankComplete s c k)

/-! ## Memory controllers (R279, R345) -/

/-- The copy of a row to its spare ends: what it read is corrected or poisoned, the row is remapped, and its reads and writes are charged to
context 0 (R345, R365). Of a row that is not being copied the island controller asks the sparing. -/
def rowSpared (s : State) (ch bank row : Nat) : State :=
  let c := 6144 + ch
  let key := bank * 8192 + row
  if ((chan s c).copyingRows).contains key then
    let s := (List.range 8).foldl (fun s g => findErrors s (segPa c (bank / 32) (bank % 32) row g) 1024 0 0) s
    let used := mget 0 (chan s c).spUsed bank + 1
    let s := updChan s c fun k => { k with copyingRows := setDel key k.copyingRows, remapped := setIns key k.remapped,
                                           spUsed := mput 0 k.spUsed bank used, corrected := removeAt k.corrected key }
    let off := 0x7000 + 8 * ch
    let s := putField s islandBlk off 16 0 (min 65536 (regField s islandBlk off 16 0 + 1))
    let s := putField s islandBlk off 39 32 (min (regField s islandBlk off 39 32) (128 - used))
    charge (charge s (1280 + ch) 25 128 0) (1280 + ch) 26 128 0
  else if ch < 64 ∧ bank < 512 ∧ row < 8192 ∧ s.memDom = .on then
    spareRow s ch (row * 2 ^ 22 + bank / 32 * 2 ^ 15 + bank % 32 * 2 ^ 10)
  else s

/-- ROW_SPARE_COMPLETE (R345). -/
def execRowSpareComplete (ch bank row : Nat) (s : State) : Result := .next (rowSpared s ch bank row)

/-- The controller `ch` of a granule: a channel's, or the hall's as number 64. -/
def controllerOf (g : Nat) : Nat := match homeOf (g * 16) with
  | .dram ch _ => ch
  | .hall _ => 64
  | .core _ _ => 65

/-- SCRUB_PASS (R279): every granule of the controller is read, which is charged to context 0 (R365); the counts of corrected errors start
again. -/
def scrubPass (s : State) (ch : Nat) : State :=
  if 64 < ch ∨ (ch < 64 ∧ s.memDom ≠ .on) then s
  else
    let gs := (((s.softErr ++ s.latent).map (· / 2)).filter fun g => controllerOf g == ch).eraseDups
    let s := gs.foldl (fun s g => findErrors s (g * 16) 16 0 0) s
    if ch < 64 then charge (updChan s (6144 + ch) fun k => { k with corrected := [] }) (1280 + ch) 25 (2 ^ 29) 0
    else (List.range 24).foldl (fun s i => charge s (1344 + i) 6 (2 ^ 17) 0) s

def execScrubPass (ch : Nat) (s : State) : Result := .next (scrubPass s ch)

/-! ## Homes of doubles and barriers -/

/-- RESERVATION_GRANT (R284): the head request of the double at `pa`. -/
def execReservationGrant (pa : Nat) (s : State) : Result := .next (grantHead s (pa / 8 * 8))

/-- A barrier event of this cube reaches its barrier (R310). -/
def barEventArrive (s : State) (k : Nat) : State :=
  match pick s.barEvents k with
  | some (e, rest) => barApply { s with barEvents := rest } e.core e.bar e.kind e.n
  | none => s

/-- BARRIER_EVENT_APPLY (R310). -/
def execBarrierEventApply (k : Nat) (s : State) : Result := .next (barEventArrive s k)

end Sys2Proof.Machine
end

