-- ==== Sys2Proof/Machine/Escort.lean ====
section
/-! DEFINITION. The common router of an escorted pair (R386 to R388): comparing two messages, forwarding one, dropping both. -/

namespace Sys2Proof.Machine

/-- Two messages travel the same way, and so are partners by their order; those of engines by their address as well. -/
def EscMsg.alike (a b : EscMsg) : Bool := match a.what, b.what with
  | .entry _, .entry _ | .request, .request | .flight _, .flight _ | .copy _, .copy _ => true
  | .packet _, .packet _ | .write _, .write _ | .command _, .command _ | .block _, .block _ => a.addr == b.addr
  | _, _ => false

/-- Message `m` is the oldest of its copy on its way, and its partner's oldest there. -/
def escPartner (s : State) (m : EscMsg) : Option EscMsg :=
  let first (e : Nat × Nat) : Option EscMsg := s.net.escort.find? fun q => q.core == e.1 && q.slot == e.2 && m.alike q
  if first (m.core, m.slot) = some m then (partnerOf s m.core m.slot).bind first else none

/-- The message leaves the router. -/
def escGone (s : State) (m : EscMsg) : State := { s with net := { s.net with escort := s.net.escort.erase m } }

/-- The head entry of a copy's store buffer leaves it. -/
def dropEntry (s : State) (c : Nat) (e : SbEntry) : State :=
  let x := xOf s c e.slot
  match (stream s c x).sb with
  | y :: ys => if y = e then (if e.counted then ackOuts (popSb s c x ys) c e.slot else popSb s c x ys) else s
  | [] => s

/-- A copy leaves its enqueue buffer. -/
def dropCopy (s : State) (c : Nat) (q : Copy) : State := ackOuts (updCore s c fun k => { k with enqBuf := k.enqBuf.erase q }) c q.slot

/-- A twin moves beside its partner: to the twin of a compute core, to the channel core itself. -/
def twinFlight (f : Flight) : Flight := match f with
  | .traveller t c sl => .traveller (if kindOf t.dcore = .compute then { t with dcore := twinCore t.dcore } else t) c sl
  | g => g

/-- A pair's messages are equal: the primary's `a` is forwarded, the twin's `b` has done its part; replies go to both (R387). -/
def escForward (s : State) (a b : EscMsg) : State :=
  let s := escGone (escGone s a) b
  match a.what, b.what with
  | .entry e, .entry f =>
    dropEntry (updStream s a.core (xOf s a.core a.slot) fun k => { k with sb := k.sb.map fun y => if y == e then { y with matched := true } else y }) b.core f
  | .request, .request =>
    updSlot (updSlot s a.core a.slot fun k => { k with passed := true }) b.core b.slot fun k => { k with passed := true }
  | .flight (.task t d k), .flight _ => ackOuts { s with flights := s.flights ++ [.task t d k] } b.core b.slot
  | .flight f, .flight g => { s with flights := s.flights ++ [f, twinFlight g] }
  | .copy q, .copy y =>
    dropCopy (updCore s a.core fun k => { k with enqBuf := k.enqBuf.map fun z => if z == q then { z with matched := true } else z }) b.core y
  | .packet x, .packet y =>
    let x' : Sent := { x with matched := true, also := y.who.map fun w => (w, y.cmd), pkt := { x.pkt with esc := true, ehash := a.hash } }
    { s with net := { s.net with portQ := (s.net.portQ.map fun z => if z == x then x' else z).erase y } }
  | .write w, .write v => { s with engWrites := (s.engWrites.map fun z => if z == w then { z with matched := true } else z).erase v }
  | .command m, .command n =>
    let mark (s : State) (c n : Nat) : State := updRec s c 0 n fun r => { r with matched := true }
    mark (mark s a.core m) b.core n
  | .block m, .block n =>
    let mark (s : State) (c n : Nat) : State := updRec s c 1 n fun r => { r with matched := true }
    mark (mark s a.core m) b.core n
  | _, _ => s

/-- The item that a dropped message stands for does not leave its core (R388). -/
def escDropItem (s : State) (m : EscMsg) : State :=
  let c := m.core
  let sl := m.slot
  match m.what with
  | .entry e =>
    let s := dropEntry s c e
    if e.op == .strl then readyIfReplied (fillReply s c sl .again) c sl else s
  | .request =>
    let s := { s with resvQ := s.resvQ.filterMap fun (e : Nat × List ResvReq) =>
      (match e.2.filter fun r => !(r.core == c && r.slot == sl && !r.granted) with | [] => none | l => some (e.1, l)) }
    readyIfReplied (fillReply s c sl .again) c sl
  | .flight (.task t _ _) => ackOuts (if (slot s c sl).twin then s else countTask s t false) c sl
  | .flight _ => makeReady (updSlot s c sl fun k => { k with move := none }) c sl
  | .copy q => dropCopy s c q
  | .packet x =>
    let s := { s with net := { s.net with portQ := s.net.portQ.erase x } }
    if x.cmd.isSome then s
    else if x.counted || x.pkt.kind == 1 then ackOuts s c sl
    else readyIfReplied (fillReply s c sl .again) c sl
  | .write w => { s with engWrites := s.engWrites.erase w }
  | .command _ | .block _ => s

/-- A message is dropped, and its copy traps ESCORT at its next issue (R388). -/
def escDrop (s : State) (m : EscMsg) : State := addPending (escDropItem (escGone s m) m) m.core m.slot (.escort m.addr)

/-- ESCORT_COMPARE: message `k` and its partner's meet at the router. -/
def escortCompare (s : State) (k : Nat) : State :=
  match s.net.escort[k]? with
  | none => s
  | some m => match escPartner s m with
    | none => s
    | some n =>
      if m.hash ≠ n.hash then escDrop (escDrop s m) n
      else if (slot s m.core m.slot).twin then escForward s n m else escForward s m n

def execEscortCompare (k : Nat) (s : State) : Result := .next (escortCompare s k)

/-- ESCORT_TIMEOUT: message `k` has waited 20 µs and its partner's has not come. -/
def escortTimeout (s : State) (k : Nat) : State :=
  match s.net.escort[k]? with
  | none => s
  | some m => if (escPartner s m).isSome then s
    else
      let s := escDrop s m
      match partnerOf s m.core m.slot with
      | some (d, sl) => addPending s d sl (.escort m.addr)
      | none => s

def execEscortTimeout (k : Nat) (s : State) : Result := .next (escortTimeout s k)

end Sys2Proof.Machine
end

