-- ==== Sys2Proof/Machine/Messages.lean ====
section
/-! DEFINITION. Trap messages at their stewards (R372, R379). -/

namespace Sys2Proof.Machine

/-- A handler traveller of partition `p` on steward `st` (R37, R372), of its image's level (R353), charged to its tenant (R348). What no rule gives of its
workspace is free. -/
def handlerCreate (s : State) (st sl p : Nat) (tvec : Word) : State :=
  let w (k : Nat) : Nat := (Config.handlerWord (s.free + k)).toNat
  let tid := freshTid s
  let b : Birth := { g := [BitVec.ofNat 64 (w 1)], pc := tvec, ix := w 2 % 2 ^ 32, lc := w 2 / 2 ^ 32, ex0 := w 3 % 2 ^ 16,
                     ex1 := w 3 / 2 ^ 16 % 2 ^ 16, ex2 := w 3 / 2 ^ 32 % 2 ^ 16, ecx := tenant s p, urg := w 4 / 2 ^ 32 % 2 = 1,
                     part := p, bcore := st, lvl := max 1 (core s st).level }
  { createWith s st sl b tid (keyHandler tid) with free := s.free + 5 }

/-- Slots of steward `st` whose travellers of partition `p` are parked in WFM. -/
def wfmWaiters (s : State) (st p : Nat) : List Nat :=
  (slotsOf s st).filter fun sl => decide ((slot s st sl).hdr.part = p) && stateOf s st sl == .parked
    && (match (slot s st sl).wait with | some { word := _, cond := .message, reply := none } => true | _ => false)

/-- A message enters its steward's queue: it wakes a WFM, makes a handler, or waits (R372). -/
def deliverMsg (s : State) (st : Nat) (m : TrapMsg) : State :=
  let s := { s with tmsgs := mput [] s.tmsgs st (mget [] s.tmsgs st ++ [m]) }
  let tvec := mget 0 s.tvec (st * 32 + m.part)
  match wfmWaiters s st m.part with
  | sl :: _ => readyIfReplied (setReply s st sl .again) st sl
  | [] => match freeSlot s st with
    | some sl => if tvec = 0 then s else handlerCreate s st sl m.part tvec
    | none => s

/-- Messages a steward holds. -/
def msgCap : Nat := 256

/-- A message for steward `st` waits in a spill area, so a later one waits behind it. -/
def msgSpilled (s : State) (st : Nat) : Bool :=
  s.parts.any fun e => e.2.spill.any fun i => match i with | .message k _ => k == st | _ => false

/-- TRAP_MESSAGE_ARRIVAL: beyond 256 a message goes to the partition's area; while that is full, or something waits for room there, it
stays where it is and waits in its turn (R352). -/
def msgArrive (s : State) (k : Nat) : State :=
  match s.msgFlight[k]? with
  | none => s
  | some (st, m) =>
    let s' := { s with msgFlight := s.msgFlight.eraseIdx k }
    if (s.msgFlight.take k).any (fun e => e.2.core == m.core) then s
    else if (mget [] s.tmsgs st).length < msgCap ∧ msgSpilled s st = false then deliverMsg s' st m
    else if ((part s m.part).spillWait.head?.getD (.notice st m) == .notice st m) && spillFits s m.part 128 then
      updPart s' m.part fun q => { q with spill := q.spill ++ [.message st m], spillWait := q.spillWait.drop 1 }
    else if (part s m.part).spillWait.contains (.notice st m) then s
    else updPart (spillFull s m.part) m.part fun q => { q with spillWait := q.spillWait ++ [.notice st m] }

def execTrapMessageArrival (k : Nat) (s : State) : Result := .next (msgArrive s k)

/-- TRAP_MESSAGE_SPILL_RETURN: the oldest spilled message whose steward has room. -/
def msgReturn (s : State) (p : Nat) : State :=
  let ok (i : SpillItem) : Bool := match i with | .message st _ => decide ((mget [] s.tmsgs st).length < msgCap) | _ => false
  match (part s p).spill.find? ok with
  | some (.message st m) => deliverMsg (updPart s p fun q => { q with spill := q.spill.erase (.message st m) }) st m
  | _ => s

def execTrapMessageSpillReturn (p : Nat) (s : State) : Result := .next (msgReturn s p)

end Sys2Proof.Machine
end

