-- ==== Sys2Proof/Machine/Owner.lean ====
section
/-! DEFINITION. What the owner and the island controller do: meters and shared costs (R358, R361, R365), purses (R362, R363),
partitions, cores and pages (R349 to R351, R431), the channel caches (R282) and refresh shares (R365). -/

namespace Sys2Proof.Machine

/-! ## Meters (R358, R361, R365) -/

/-- METER_FLUSH_TIMER: every accumulation of the meter goes to the purse table. -/
def meterFlush (s : State) (m : Nat) : State :=
  (mget [] s.meters m).foldl (fun s e => queueFlush s m e.1 e.2) { s with meters := mput [] s.meters m [] }

def execMeterFlushTimer (m : Nat) (s : State) : Result := .next (meterFlush s m)

/-- LEAKAGE_TICK: each powered compute core of a partition outside gated quads and holes. -/
def leakageTick (s : State) : State :=
  if s.comp = .off then s
  else s.cores.foldl (fun s e =>
    if kindOf e.1 = .compute ∧ e.2.asg = true ∧ (quad s (quadOf e.1)).gated = false ∧ (quad s (quadOf e.1)).hole = false then
      charge s (quadOf e.1) 34 1 (tenant s e.2.part) true
    else s) s

def execLeakageTick (s : State) : Result := .next (leakageTick s)

/-- REFRESH_ROW: one row interval of a channel has passed; its row is charged at the channel's meter, to be split at the flush. DESIGN CHOICE
(assumption 79): the event stands for an interval of the undoubled rate, so while the rate of its tower is doubled two rows are charged (R434). -/
def refreshRow (s : State) (ch : Nat) : State :=
  if 64 ≤ ch ∨ s.memDom = .off then s
  else meterAdd s (1280 + ch) refreshCtx (fareOf s 35 (1280 + ch) * if s.fw.hotTowers.contains (ch / 4) then 2 else 1)

def execRefreshRow (ch : Nat) (s : State) : Result := .next (refreshRow s ch)

/-- KCORR of meter `m`. -/
def kcorr (s : State) (m : Nat) : Nat := regField s islandBlk (0xC000 + 8 * m) 15 0

/-- KCORR within its limits (R361). -/
def clampKcorr (v : Int) : Nat := (max 0x6000 (min 0xA000 v)).toNat

/-- The correction of one meter from what it charged and what was measured of it; a meter that charged nothing has no stated one, and
takes a free value. -/
def kcorrNext (s : State) (m charged : Nat) (measured : Int) : Nat :=
  if charged = 0 then clampKcorr (Config.kcorrFree (s.free + m)).toNat else clampKcorr ((kcorr s m : Int) * measured / charged)

/-- KCORR_UPDATE: `measured` is the energy of the second in 1/16 pJ apportioned to each meter by its sensor; the residual goes to
context 0, where a flush adds to SPENT alone. -/
def kcorrUpdate (s : State) (measured : List Int) : State :=
  if s.comp ≠ .run then s
  else
    let ms := List.range 1388
    let cha (m : Nat) : Nat := mget 0 s.metered m
    let residual := ms.foldl (fun (a : Int) m => a + (measured.getD m 0 - cha m)) 0
    let s' := ms.foldl (fun s m => putField s islandBlk (0xC000 + 8 * m) 15 0 (kcorrNext s m (cha m) (measured.getD m 0))) s
    let e := purse s' 0
    putPurse { s' with metered := [], free := s.free + 1388 } 0 { e with spent := e.spent + BitVec.ofInt 64 (residual / 16000000) }

def execKcorrUpdate (measured : List Int) (s : State) : Result := .next (kcorrUpdate s measured)

/-! ## Purses -/

/-- PURSE_ADD_WRITE (R362, R363). -/
def purseAddWrite (s : State) (a : Agent) (x : Nat) (v : Word) : State :=
  if ownerOk s a && decide (x ≤ 128) then purseAdd s x v.toInt else s

def execPurseAddWrite (a : Agent) (x : Nat) (v : BitVec 64) (s : State) : Result := .next (purseAddWrite s a x v)

/-! ## Pages (R351, R431) -/

/-- The page that a physical address lies in: space x 2^24 + page. -/
def pageKey (s : State) (pa : Nat) : Option Nat := match homeOf pa with
  | .dram ch o => some (pageOfPlace (cubeHash s) ch o)
  | .hall h => some (2 ^ 24 + h / 2 ^ 19)
  | .core _ _ => none

/-- Pages are zeroed, with valid check bits and no poison. -/
def zeroPages (s : State) (hit : Nat → Bool) : State :=
  let bad (pa : Nat) : Bool := match pageKey s pa with | some k => hit k | none => false
  { s with mem := s.mem.filter (fun e => !bad e.1), poison := s.poison.filter (fun g => !bad (g * 16)),
           latent := s.latent.filter (fun h => !bad (h * 8)), softErr := s.softErr.filter fun h => !bad (h * 8) }

/-- Lines of a channel cache are written back and dropped, each charged to its owner when it was dirty (R281, R282). -/
def flushLines (s : State) (p : Nat) (hit : Nat → Bool) : State :=
  let ls := (linesOf s p).filter fun l => hit l.line
  let s := ls.foldl (fun s l => if l.dirty then charge s (1280 + l.line * 256 / 2 ^ 35) 26 4 l.owner else s) s
  cacheFlush s p hit true

/-- Pages a space has (R351). -/
def pagesOf (space : Nat) : Nat := if space = 0 then 4161536 else 384

/-- OWNDAT_WRITE: pages PAGE to PAGE + RUN of the space OWNSEL names are assigned; those that change are written back and zeroed, and
BUSY is set until OWNDAT_APPLY_COMPLETE. -/
def owndatWrite (s : State) (a : Agent) (v : Word) : State :=
  let sel := (getReg s islandBlk 0x1400).toNat
  let space := sel % 2
  let page := bitsOf sel 30 8
  let n := bitsOf sel 55 32 + 1
  let p := v.toNat % 32
  let new := if v.getLsbD 5 then p + 1 else 0
  if !ownerOk s a || !s.ownPending.isEmpty || decide (pagesOf space < page + n) || (v.getLsbD 5 && decide (24 ≤ p)) then s
  else
    let ks := ((List.range n).map (fun i => space * 2 ^ 24 + page + i)).filter fun k => mget 0 s.pages k != new
    let s := (List.range 24).foldl (fun s q => flushLines s q fun l => match pageKey s (l * 256) with | some k => ks.contains k | none => false) s
    let s := zeroPages s (ks.contains ·)
    { s with pages := ks.foldl (fun m k => mput 0 m k new) s.pages, ownPending := ks,
             net := { s.net with owners := s.net.owners.filter fun e => !ks.contains e.va } }

def execOwndatWrite (a : Agent) (v : BitVec 64) (s : State) : Result := .next (owndatWrite s a v)

/-- OWNDAT_APPLY_COMPLETE: BUSY falls. -/
def execOwndatApplyComplete (s : State) : Result := .next { s with ownPending := [] }

/-- The hall address HALLSEL holds: a multiple of 8. -/
def hallSel (s : State) : Nat := (getReg s islandBlk 0x1410).toNat % 2 ^ 28 / 8 * 8

/-- HALLDAT_READ: the read finds what errors the double holds (R279); its value is what the register reads. -/
def halldatRead (s : State) (a : Agent) : State :=
  if ownerOk s a then readEffect s islandBlk 0x1418 else s

def execHalldatRead (a : Agent) (s : State) : Result := .next (halldatRead s a)

/-- HALLDAT_WRITE. -/
def halldatWrite (s : State) (a : Agent) (v : Word) : State :=
  if ownerOk s a && decide (hallSel s < hallSize) then hallStore s (hallSel s) 8 v.toNat false else s

def execHalldatWrite (a : Agent) (v : BitVec 64) (s : State) : Result := .next (halldatWrite s a v)

/-! ## Partitions (R349, R350) -/

def partEn (s : State) (p : Nat) : Bool := regField s islandBlk (0x9000 + 8 * p) 0 0 == 1

/-- A core or a page is carved to partition `p`; its queues lie in its pages. -/
def carvedTo (s : State) (p : Nat) : Bool := s.cores.any (fun e => e.2.asg && e.2.part == p) || s.pages.any (fun e => e.2 == p + 1)

/-- The hall bytes from `o` lie in pages of `p` that are no channel cache. -/
def hallRoom (s : State) (p o n : Nat) : Bool :=
  decide (o + n ≤ hallSize) && (List.range ((o + n - 1) / 2 ^ 19 + 1 - o / 2 ^ 19)).all fun i =>
    pageOwner s 1 (o / 2 ^ 19 + i) == some p && !isCachePage s p (o / 2 ^ 19 + i)

def spillOff (s : State) (p : Nat) : Nat := regField s islandBlk (0x1100 + 32 * p + 16) 40 0
def spillSize (s : State) (p : Nat) : Nat := regField s islandBlk (0x1100 + 32 * p + 24) 15 0 * 2 ^ 20

/-- The spill area lies in the system region and meets no other enabled partition's, no trap-log ring and not the connection store:
16 MiB that the model puts at the start of the region. -/
def spillAreaOk (s : State) (p : Nat) : Bool :=
  let o := spillOff s p
  let n := spillSize s p
  let free (b m : Nat) : Bool := n == 0 || m == 0 || !overlaps o n b m
  (n == 0 || (decide (2032 * 2 ^ 30 ≤ o) && decide (o + n ≤ 2048 * 2 ^ 30)))
    && (List.range 24).all (fun q => q == p || !partEn s q || free (spillOff s q) (spillSize s q))
    && (List.range 24).all (fun q => free (regField s islandBlk (0xF200 + 16 * q) 55 0) (2 ^ regField s islandBlk (0xF200 + 16 * q) 59 56 * 32))
    && free (2032 * 2 ^ 30) (2 ^ 24)

/-- EN of a partition may be set (R350). -/
def enableOk (s : State) (p : Nat) : Bool :=
  let tlog := regField s islandBlk (0x1100 + 32 * p) 35 32
  let qlog := regField s islandBlk (0x1100 + 32 * p + 8) 34 32
  decide (tlog ≤ 8) && decide (qlog ≤ 6) && hallRoom s p (ctOff s p) (32 * tsize s p) && hallRoom s p (qtOff s p) (32 * qsize s p)
    && !overlaps (ctOff s p) (32 * tsize s p) (qtOff s p) (32 * qsize s p) && spillAreaOk s p

/-- Every completion entry and queue descriptor of `p` at its reset value. -/
def resetTables (s : State) (p : Nat) : State :=
  let inside (pa : Nat) : Bool := (decide (entryPa s p 0 ≤ pa) && decide (pa < entryPa s p (tsize s p)))
    || (decide (queuePa s p 0 ≤ pa) && decide (pa < queuePa s p (qsize s p)))
  let mem := s.mem.filter fun e => !inside e.1
  let mem := (List.range (tsize s p)).foldl (fun m e => wrN m (entryPa s p e) 32 entryReset) mem
  { s with mem := mem, poison := s.poison.filter (fun g => !inside (g * 16)), latent := s.latent.filter (fun h => !inside (h * 8)),
           softErr := s.softErr.filter fun h => !inside (h * 8) }

/-- EN is set: a key is drawn, and where one was held before, the partition's pages are zeroed (R431); its tables are reset. -/
def enablePart (s : State) (p : Nat) : State :=
  let k := part s p
  let s := if k.memKey || k.keyErased then zeroPages s fun n => mget 0 s.pages n == p + 1 else s
  resetTables (updPart s p fun k => { k with memKey := true, keyErased := false }) p

/-- PARTCFG_WRITE (R349, R350). -/
def partcfgWrite (s : State) (a : Agent) (p : Nat) (v : Word) : State :=
  let vf := bitsOf v.toNat 8 1
  if !ownerOk s a || decide (24 ≤ p) || decide (128 < vf) || (vf != tenant s p && carvedTo s p) then s
  else
    let off := 0x9000 + 8 * p
    let keep := BitVec.ofNat 64 (bitsOf v.toNat 9 0 + bitsOf v.toNat 47 16 * 2 ^ 16)
    if v.getLsbD 0 && !partEn s p then
      (if enableOk s p then enablePart (putReg s islandBlk off keep) p else s)
    else putReg s islandBlk off keep

def execPartcfgWrite (a : Agent) (p : Nat) (v : BitVec 64) (s : State) : Result := .next (partcfgWrite s a p v)

/-- The RW fields of CARVE. -/
def carveFields (s : State) (v : Nat) : State :=
  putReg s islandBlk 0x1000 (BitVec.ofNat 64 (setBits (getReg s islandBlk 0x1000).toNat 38 0
    (bitsOf v 5 0 + bitsOf v 14 8 * 2 ^ 8 + bitsOf v 22 16 * 2 ^ 16 + bitsOf v 38 24 * 2 ^ 24)))

/-- A GO of CARVE is refused. -/
def carveRefused (s : State) (v : Nat) : Bool :=
  let x0 := bitsOf v 5 0
  let y0 := bitsOf v 14 8
  let w := bitsOf v 22 16
  let h := bitsOf v 30 24
  let ch := v.testBit 31
  let p := bitsOf v 36 32
  let rsv := v.testBit 38
  !s.moves.isEmpty || decide (64 < x0 + w) || (!ch && decide (80 < y0 + h)) || (v.testBit 37 && !(decide (p < 24) && partEn s p))
    || (rsv && (ch || x0 % 2 == 1 || y0 % 2 == 1 || w % 2 == 1 || h % 2 == 1))
    || v.testBit 6 || v.testBit 7 || v.testBit 15 || v.testBit 23 || bitsOf v 63 43 != 0

/-- The cores a GO names, ascending, outside the holes. -/
def carveCores (s : State) (v : Nat) : List Nat :=
  let x0 := bitsOf v 5 0
  let w := bitsOf v 22 16
  if v.testBit 31 then (List.range w).map (6144 + x0 + ·)
  else ((List.range (bitsOf v 30 24)).flatMap fun i => (List.range w).map fun j => (bitsOf v 14 8 + i) * 64 + x0 + j).filter
    fun c => !(quad s (quadOf c)).hole

/-- CARVE_GO: each named core that is not already so assigned gets a move (R154). -/
def carveGo (s : State) (a : Agent) (v : Word) : State :=
  if !ownerOk s a then s
  else if carveRefused s v.toNat then putField (carveFields s v.toNat) islandBlk 0x1000 42 42 1
  else
    let n := v.toNat
    let asg := n.testBit 37
    let p := if asg then bitsOf n 36 32 else 0
    let rsv := n.testBit 38
    let cs := (carveCores s n).filter fun c => let k := core s c; !(k.asg == asg && k.part == p && k.rsv == rsv)
    let s := putField (carveFields s n) islandBlk 0x1000 42 42 0
    let s := cs.foldl (fun s c => updCore s c fun k => { k with move := true }) s
    { s with moves := cs.map fun c => { core := c, part := p, asg := asg, rsv := rsv } }

def execCarveGo (a : Agent) (v : BitVec 64) (s : State) : Result := .next (carveGo s a v)

/-- CARVE_STOP: every move not yet made is withdrawn. -/
def carveStop (s : State) (a : Agent) (v : Word) : State :=
  if !ownerOk s a then s
  else
    let s := s.moves.foldl (fun s m => updCore s m.core fun k => { k with move := false }) (carveFields s v.toNat)
    { s with moves := [] }

def execCarveStop (a : Agent) (v : BitVec 64) (s : State) : Result := .next (carveStop s a v)

/-- A write of CARVE: STOP withdraws first, then GO starts. -/
def carveWrite (s : State) (a : Agent) (v : Word) : State :=
  let s := if v.getLsbD 40 then carveStop s a v else s
  if v.getLsbD 39 then carveGo s a v else if ownerOk s a then carveFields s v.toNat else s

/-- PSTRUCT_READ: SPFULL counts from this read on (R350). -/
def execPstructRead (p : Nat) (s : State) : Result := .next (if p < 24 then readEffect s islandBlk (0x1100 + 32 * p + 24) else s)

/-! ## The channel cache and refresh shares (R282, R365) -/

/-- HCCFG_WRITE. -/
def hccfgWrite (s : State) (a : Agent) (p : Nat) (v : Word) : State :=
  let npg := v.toNat % 512
  let off := 0x0100 + 16 * p
  if !ownerOk s a || decide (24 ≤ p) then s
  else if 384 < npg ∨ (hallPagesOf s p).length < npg then putField s hallBlk off 10 10 1
  else putReg (flushLines s p fun _ => true) hallBlk off (BitVec.ofNat 64 (v.toNat % 1024))

def execHccfgWrite (a : Agent) (p : Nat) (v : BitVec 64) (s : State) : Result := .next (hccfgWrite s a p v)

/-- RESPG_WRITE: both halves, unless the channel's pages would exceed 65,536. -/
def respgWrite (s : State) (a : Agent) (ch j : Nat) (v : Word) : State :=
  if !ownerOk s a || decide (64 ≤ ch) || decide (12 ≤ j) then s
  else
    let s' := putReg s islandBlk (0xA400 + 96 * ch + 8 * j) (BitVec.ofNat 64 (bitsOf v.toNat 16 0 + bitsOf v.toNat 48 32 * 2 ^ 32))
    if 65536 < ((List.range 24).map (respgOf s' ch)).foldl (· + ·) 0 then s else s'

def execRespgWrite (a : Agent) (ch j : Nat) (v : BitVec 64) (s : State) : Result := .next (respgWrite s a ch j v)

end Sys2Proof.Machine
end

