-- ==== Sys2Proof/Machine/Lantern.lean ====
section
/-! DEFINITION. The lantern (R319 to R323): slots, rounds and the end of a phase. -/

namespace Sys2Proof.Machine

def putLantern (s : State) (p k : Nat) (l : Lantern) : State :=
  { s with net := { s.net with lanterns := mput {} s.net.lanterns (p * 16 + k) l } }

/-- SENT - RECV as a signed 64-bit number. -/
def lanternCount (s : State) (p : Nat) : Int :=
  (BitVec.ofNat 64 (mget 0 s.net.sent p + 2 ^ 64 - mget 0 s.net.recv p % 2 ^ 64)).toInt

/-- The slot's ENTRY is ROUND and the compute domain is in RUN. -/
def phaseRound (s : State) (p k : Nat) : Bool :=
  let e := (lantern s p k).entry
  s.comp == .run && isEntry s p e && eState s p e == 2

/-- A packet of a lantern slot goes to NEXT (R321). -/
def sendLantern (s : State) (p k : Nat) (pl : Payload) : State :=
  transmitNew s { pkt := { scube := cubeId s, dcube := (lantern s p k).next, cls := 3, kind := 13, ecx := 0, spart := p, payload := pl } }

/-- The leader starts a round. -/
def startRound (s : State) (p k : Nat) : State :=
  let l := lantern s p k
  let r := (l.round + 1) % 65536
  sendLantern (putLantern s p k { l with round := r, black := false, out := true }) p k (.probe p k r 0 false)

/-- LANTERN_ROUND_START: whenever ENTRY is ROUND and no probe of the round is outstanding. -/
def roundStart (s : State) (p k : Nat) : State :=
  let l := lantern s p k
  if l.en && l.lead && !l.out && phaseRound s p k && !wsDown s then startRound s p k else s

def execLanternRoundStart (k : Nat) (s : State) : Result := .next (roundStart s (k / 16) (k % 16))

/-- The payload is a lantern probe for a leader (true) or another cube. -/
def isProbe (s : State) (lead : Bool) (q : Packet) : Bool := match q.payload with
  | .probe p k _ _ _ => (lantern s p k).lead == lead
  | _ => false

/-- A probe that reaches a disabled slot, or is of an older round, is discarded; the former is logged (R320, R321). -/
def lostProbe (s : State) (p k : Nat) : State := trapLog s p 1 0 0 (BitVec.ofNat 64 (0x2000 + 0x100 * p + 16 * k))

/-- LANTERN_PROBE_ARRIVAL: packet `k` of the inbox. -/
def probeArrival (s : State) (k : Nat) : State :=
  match takeFresh s k (isProbe s false) with
  | (s, some q) => (match q.payload with
    | .probe p sl round n black =>
      let s := respond s q 1 0
      let l := lantern s p sl
      if !l.en then lostProbe s p sl
      else if 0 < (l.round + 65536 - round) % 65536 ∧ (l.round + 65536 - round) % 65536 < 32768 then s
      else putLantern s p sl { l with round := round, probe := some (n, black) }
    | _ => s)
  | (s, none) => s

def execLanternProbeArrival (k : Nat) (s : State) : Result := .next (probeArrival s k)

/-- LANTERN_PROBE_RELEASE: a held probe goes on once ENTRY is ROUND, or the compute domain is not in RUN. -/
def probeRelease (s : State) (p k : Nat) : State :=
  let l := lantern s p k
  match l.probe with
  | some (n, black) =>
    if !l.en || wsDown s || !(s.comp != .run || phaseRound s p k) then s
    else sendLantern (putLantern s p k { l with black := false, probe := none }) p k
      (.probe p k l.round (BitVec.ofInt 64 (n + lanternCount s p)).toInt (black || l.black))
  | none => s

def execLanternProbeRelease (k : Nat) (s : State) : Result := .next (probeRelease s (k / 16) (k % 16))

/-- A phase entry leaves ROUND (R322). -/
def endPhase (s : State) (p e : Nat) : State :=
  if isEntry s p e = true ∧ eState s p e = 2 ∧ (s.comp = .run ∨ s.comp = .quiesce ∨ s.comp = .hung) then
    let r := finishEntry s p e
    decrementAll r.1 p (4 * tsize s p) r.2
  else s

/-- LANTERN_PROBE_RETURN: termination, or the next round. -/
def probeReturn (s : State) (k : Nat) : State :=
  match takeFresh s k (isProbe s true) with
  | (s, some q) => (match q.payload with
    | .probe p sl round n black =>
      let s := respond s q 1 0
      let l := lantern s p sl
      if !l.en then lostProbe s p sl
      else if round ≠ l.round ∨ l.out = false then s
      else
        let s := putLantern s p sl { l with out := false }
        if black = false ∧ l.black = false ∧ BitVec.ofInt 64 (n + lanternCount s p) = 0 then
          let s := endPhase (putLantern s p sl { l with out := false, done := true }) p l.entry
          sendLantern s p sl (.lanternDone p sl)
        else roundStart s p sl
    | _ => s)
  | (s, none) => s

def execLanternProbeReturn (k : Nat) (s : State) : Result := .next (probeReturn s k)

/-- LANTERN_TIMEOUT: the round has been outstanding for TMO ms. -/
def lanternTimeout (s : State) (p k : Nat) : State :=
  let l := lantern s p k
  if l.en && l.lead && l.out && l.tmo != 0 && !wsDown s then startRound s p k else s

def execLanternTimeout (k : Nat) (s : State) : Result := .next (lanternTimeout s (k / 16) (k % 16))

/-- LANTERN_DONE_MESSAGE: DONE is set, the phase ends here and the message goes on until it is back at the leader. -/
def lanternDone (s : State) (k : Nat) : State :=
  match takeFresh s k fun q => match q.payload with | .lanternDone _ _ => true | _ => false with
  | (s, some q) => (match q.payload with
    | .lanternDone p sl =>
      let s := respond s q 1 0
      let l := lantern s p sl
      if !l.en then lostProbe s p sl
      else if l.lead then s
      else sendLantern (endPhase (putLantern s p sl { l with done := true }) p l.entry) p sl (.lanternDone p sl)
    | _ => s)
  | (s, none) => s

def execLanternDoneMessage (k : Nat) (s : State) : Result := .next (lanternDone s k)

/-- LANTERN_SLOT_WRITE: half 0 holds ENTRY, NEXT, LEAD and EN, half 1 TMO (R320). -/
def slotWrite (s : State) (a : Agent) (k half : Nat) (v : Word) : State :=
  let p := k / 16
  let sl := k % 16
  let l := lantern s p sl
  if !ownerOk s a || 24 ≤ p || 2 ≤ half then s
  else if half = 1 then (if l.en then s else putLantern s p sl { l with tmo := v.toNat % 65536 })
  else
    let entry := v.toNat % 65536
    let next := bitsOf v.toNat 27 16
    let lead := v.getLsbD 28
    let en := v.getLsbD 29
    if l.en then
      (if entry ≠ l.entry ∨ next ≠ l.next ∨ lead ≠ l.lead then s
       else if en then s
       else putLantern s p sl { l with en := false, probe := none, out := false })
    else if en then
      putLantern s p sl { l with entry := entry, next := next, lead := lead, en := true, round := 0, black := false, done := false, probe := none, out := false }
    else putLantern s p sl { l with entry := entry, next := next, lead := lead }

def execLanternSlotWrite (a : Agent) (k half : Nat) (v : BitVec 64) (s : State) : Result := .next (slotWrite s a k half v)

end Sys2Proof.Machine
end

