-- ==== Sys2Proof/Machine/Link.lean ====
section
/-! DEFINITION. Links (R397 to R399), route updates and heartbeats (R404). -/

namespace Sys2Proof.Machine

/-- The cycles that have passed, a start again of the cycle counter notwithstanding. -/
def longNow (s : State) : Nat := s.fw.past + s.cycle

/-- Every link to the cube is DOWN or FAILED, as far as this cube and the route updates of the others tell (R404). -/
def linksAway (s : State) (cube : Nat) : Bool :=
  (List.range 16).all (fun l => !((link s l).peer == cube && (link s l).role != 7) || !linkUsable s l)
    && s.net.graph.all fun e => e.1 == cube || cubeDead s e.1 || e.2.all fun k => k.2.2 != cube

/-- The cycle since which every link to a cube has been down is kept for each cube (R404). -/
def noteAway (s : State) : State :=
  { s with net := { s.net with away := (otherCubes s).foldl (fun m c =>
    if linksAway s c then (if (lookup m c).isSome then m else insertAt m c (longNow s)) else removeAt m c) s.net.away } }

/-- Cube `a` has been a link peer of the cubes of a list of links, and they of it (R404). -/
def notePeers (s : State) (a : Nat) (es : List (Nat × Nat × Nat)) : State :=
  let both (m : SMap (List Nat)) (c : Nat) : SMap (List Nat) :=
    let add (m : SMap (List Nat)) (x y : Nat) : SMap (List Nat) := if (mget [] m x).contains y then m else mput [] m x (mget [] m x ++ [y])
    add (add m a c) c a
  { s with net := { s.net with peers := es.foldl (fun m e => both m e.2.2) s.net.peers } }

/-- A route update goes to every island: the usable links of this cube (R404). -/
def sendRoute (s : State) : State :=
  let s := noteAway (notePeers s (cubeId s) (edges s (cubeId s)))
  (otherCubes s).foldl (fun s c => sendOcm s c (.route (cubeId s) (edges s (cubeId s)))) s

/-- ROUTE_UPDATE: the route table follows the usable links of `cube` from now on. -/
def routeTold (s : State) (cube : Nat) (es : List (Nat × Nat × Nat)) : State :=
  noteAway (notePeers { s with net := { s.net with graph := insertAt s.net.graph cube es } } cube es)
def execRouteUpdate (cube : Nat) (es : List (Nat × Nat × Nat)) (s : State) : Result := .next (routeTold s cube es)

/-- LINK_RETRAIN: an RTRN write. -/
def execLinkRetrain (l : Nat) (s : State) : Result := .next (linkTrain s l)

/-- The packets queued for link `l` are sent on by another route, or discarded where their class has none (R399; assumption 43). -/
def requeue (s : State) (l : Nat) : State :=
  (s.net.outbox.filter (·.1 == l)).foldl (fun s e => match routeLink s e.2 with
    | some m => sendVia s e.2 7 (some m)
    | none => s) { s with net := { s.net with outbox := s.net.outbox.filter (·.1 != l) } }

/-- A link becomes FAILED; a failed training writes an error record. -/
def linkFail (s : State) (l : Nat) (record : Bool) : State :=
  requeue (sendRoute (putLink (if record then otherRecord s else s) l { link s l with state := 4 })) l

/-- Lanes that are not failing. -/
def healthy (bad : BitVec 9) : List Nat := (List.range 9).filter fun i => !bad.getLsbD i

/-- LINK_TRAIN_COMPLETE: `good` holds the lanes that trained, none when the peer is not PEER and PPORT. -/
def trainDone (s : State) (l : Nat) (good : BitVec 9) : State :=
  let k := link s l
  if k.state ≠ 1 then s
  else
    let bad := if good = 0 then k.bad else k.bad ||| ~~~good
    let ok := if good = 0 then 0 else (healthy bad).length
    let broken := (List.range 8).find? fun i => bad.getLsbD i
    if ok < 4 then linkFail (putLink s l { k with bad := bad }) l true
    else
      let spare := decide (8 ≤ ok) && !bad.getLsbD 8
      let k := { k with bad := bad, state := if 8 ≤ ok then 2 else 3, spused := if spare then broken.isSome else k.spused,
                        splane := if spare then broken.getD k.splane else k.splane }
      leaveBoot (sendRoute (putLink s l k))

def execLinkTrainComplete (l : Nat) (good : BitVec 9) (s : State) : Result := .next (trainDone s l good)

/-- LINK_TRAIN_TIMEOUT: 10 ms. -/
def execLinkTrainTimeout (l : Nat) (s : State) : Result := .next (if (link s l).state = 1 then linkFail s l true else s)

/-- A lane carries flits: in UP every data lane but the one the spare replaces, and the spare then; in HALF the four lowest
healthy lanes. -/
def laneUsed (k : Link) (lane : Nat) : Bool :=
  if k.state = 3 then ((healthy k.bad).take 4).contains lane
  else if lane = 8 then k.spused else !(k.spused && k.splane == lane)

/-- LANE_FAILURE. -/
def laneFail (s : State) (l lane : Nat) : State :=
  let k := link s l
  if (k.state ≠ 2 ∧ k.state ≠ 3) ∨ 8 < lane then s
  else
    let k' := { k with bad := k.bad ||| BitVec.ofNat 9 (2 ^ lane) }
    if !laneUsed k lane then putLink s l k'
    else if (healthy k'.bad).length < 4 then linkFail (putLink s l k') l false
    else if k.state = 3 then putLink s l k'
    else if k.spused = false ∧ lane < 8 ∧ k.bad.getLsbD 8 = false then putLink s l { k' with spused := true, splane := lane }
    else sendRoute (putLink s l { k' with state := 3 })

def execLaneFailure (l lane : Nat) (s : State) : Result := .next (laneFail s l lane)

/-- LINK_SILENCE_TIMEOUT: 10 µs with neither flit nor idle. -/
def execLinkSilenceTimeout (l : Nat) (s : State) : Result := .next (if linkUsable s l then linkFail s l false else s)

/-- LINK_REPLAY: the sender replays from its buffer; the flits cross once, in order (R397). -/
def linkReplay (s : State) (l : Nat) : State :=
  if linkUsable s l then putLink s l { link s l with lreplay := min 65535 ((link s l).lreplay + 1) } else s
def execLinkReplay (l : Nat) (s : State) : Result := .next (linkReplay s l)

/-- Cubes at the far ends of usable links. -/
def livePeers (s : State) : List Nat := (((List.range 16).filter (linkUsable s)).map fun l => (link s l).peer).eraseDups

/-- HEARTBEAT_SEND. -/
def execHeartbeatSend (s : State) : Result :=
  .next (if wsDown s then s else (livePeers s).foldl (fun s c => sendOcm s c .heartbeat) s)

/-- A heartbeat of cube `c` has come. -/
def heartbeatHeard (s : State) (c : Nat) : State := { s with net := { s.net with heard := insertAt s.net.heard c (longNow s) } }

end Sys2Proof.Machine
end

