-- ==== Sys2Proof/Machine/MapEv.lean ====
section
/-! DEFINITION. Walks, roots and invalidations (R331 to R335), the steps of the map changes (R340, R341) and of a cube's loss
(R404). -/

namespace Sys2Proof.Machine

/-! ## Walks and invalidation -/

/-- The travellers of core `c` whose walks have not been asked for ask now, up to 8 (R331). -/
def askAgain (s : State) (c : Nat) : State :=
  (slotsOf s c).foldl (fun s sl => match (slot s c sl).wait with
    | some { word := _, cond := .walk va, reply := none } =>
      if s.walks.any (·.waiters.contains (c, sl)) then s else askWalk s c sl (slot s c sl).hdr.part (ea56 va)
    | _ => s) s

/-- WALK_COMPLETE: one of the 64 walks that run at once (R331). -/
def walkDone (s : State) (k : Nat) : State :=
  match s.walks[k]? with
  | none => s
  | some w =>
    if 64 ≤ k ∨ s.memDom ≠ .on then s
    else
      let r := walk { s with walks := s.walks.eraseIdx k } w.part w.va
      let ws := w :: joinedTo r.1 w r.2
      let s := ws.foldl (fun s v => finishWalk s r.2 v) { r.1 with walks := r.1.walks.filter fun v => !ws.contains v }
      let s := (ws.flatMap (·.waiters)).foldl (fun s e => readyIfReplied s e.1 e.2) s
      (ws.flatMap (·.fills)).eraseDups.foldl askAgain s

def execWalkComplete (k : Nat) (s : State) : Result := .next (walkDone s k)

/-- The accesses of partition `p` that have been issued on the cube and are still to be performed (R335). -/
def issuedBy (s : State) (p : Nat) : List Issued :=
  let inPart (c sl : Nat) : Bool := (slot s c sl).hdr.part == p
  (s.streams.filterMap fun e => if e.2.sb.any (fun b => inPart (e.1 / 2) b.slot) then some (.stores e.1 e.2.sb.length) else none)
    ++ ((liveSlots s).filter fun e => inPart e.1 e.2).flatMap (fun e =>
      let k := slot s e.1 e.2
      (if stateOf s e.1 e.2 = .migrating then [.move e.1 e.2 (tidOf s e.1 e.2)] else [])
        ++ (match k.wait with
          | some w => (match w.cond, w.reply with
            | .load _ _ _ _, none | .grant _ _, none | .grantRoom _ _ _, none | .stored _, none | .reply _, none =>
              [.wait e.1 e.2 (tidOf s e.1 e.2) w]
            | _, _ => [])
          | none => []))
    ++ (s.engWrites.filter fun w => (core s w.src.1).part == p).map (fun w => .write w.src w.pa)
    ++ s.channels.flatMap (fun e => (e.2.bankCmds.filter fun r => r.part == p).map fun r => .bank e.1 r.seq)
    ++ ((s.net.portQ ++ s.net.retry).filter fun x => x.pkt.spart == p && x.who.isSome).map fun x => .packet x.pkt.msgid x.pkt.off

/-- The access is still to be performed: it has neither been, nor has it trapped, nor has its traveller arrived where its instruction is
translated again (R333, R335). -/
def stillOut (s : State) : Issued → Bool
  | .stores key n => decide (0 < n) && !(stream s (key / 2) (key % 2 == 1)).sb.isEmpty
  | .wait c sl tid w => tidOf s c sl == tid && (slot s c sl).wait == some w
  | .move c sl tid => (tidOf s c sl == tid && stateOf s c sl == .migrating) || (awayOf s).any (·.tid == tid)
  | .arrived c sl tid pc =>
    let k := stream s c (onX c sl)
    tidOf s c sl == tid && (if k.run == some sl then k.pc == pc
      else (stateOf s c sl == .ready || stateOf s c sl == .halted) && savedPc s c sl == pc)
  | .write src pa => s.engWrites.any fun w => w.src == src && w.pa == pa
  | .bank c seq => (chan s c).bankCmds.any fun r => r.seq == seq
  | .packet m o => (s.net.portQ ++ s.net.retry).any fun x => x.pkt.msgid == m && x.pkt.off == o

/-- Who may write XLINV: the owner, the island controller and the partition's stewards (R335). -/
def xlinvOk (s : State) (a : Agent) (v : Word) : Bool := ownerOk s a || (match a with
  | .steward _ _ p => p == v.toNat % 32
  | _ => false)

/-- The removals of an invalidation, and the accesses it waits for. -/
def xlinvApply (s : State) (v : Word) : State :=
  { invalidate s (v.toNat % 32) (if v.getLsbD 5 then none else some (bitsOf v.toNat 55 19 * 2 ^ 19)) with
    xlinvOut := issuedBy s (v.toNat % 32) }

/-- An invalidation starts, or waits behind those in progress. -/
def xlinvGo (s : State) (v : Word) : State :=
  let s' := { s with xlinvQ := s.xlinvQ ++ [v] }
  if s.xlinvQ.isEmpty then xlinvApply s' v else s'

/-- A write of XLINV: PART, ALL and VA are kept; GO starts an invalidation behind those in progress. -/
def xlinvWrite (s : State) (a : Agent) (v : Word) : State :=
  if !xlinvOk s a v then s
  else
    let s := putReg s islandBlk 0x6000 (BitVec.ofNat 64 (bitsOf v.toNat 5 0 + bitsOf v.toNat 55 19 * 2 ^ 19))
    if v.getLsbD 6 then xlinvGo s v else s

/-- XLINV_GO: a write with GO = 1. -/
def execXlinvGo (a : Agent) (v : BitVec 64) (s : State) : Result := .next (xlinvWrite s a (v ||| 64))

/-- PTROOT_WRITE (R334): ROOT[16:0] and the reserved bits stay zero. The partition's translations go at once, and an invalidation with
ALL = 1 is in progress for those that were in use (assumption 72). -/
def ptrootWrite (s : State) (a : Agent) (p : Nat) (v : Word) : State :=
  if !ownerOk s a || 24 ≤ p then s
  else
    let s := putReg s islandBlk (0x5000 + 8 * p) (BitVec.ofNat 64 (bitsOf v.toNat 55 17 * 2 ^ 17 + bitsOf v.toNat 63 63 * 2 ^ 63))
    xlinvGo (invalidate s p none) (BitVec.ofNat 64 (p + 32))

def execPtrootWrite (a : Agent) (p : Nat) (v : BitVec 64) (s : State) : Result := .next (ptrootWrite s a p v)

/-- XLINV_COMPLETE: the accesses it waits for that have been performed are struck off; after the last BUSY clears, or the next
invalidation starts. -/
def xlinvDone (s : State) : State :=
  let l := s.xlinvOut.filter (stillOut s)
  if !l.isEmpty then { s with xlinvOut := l }
  else match s.xlinvQ with
    | [] => { s with xlinvOut := [] }
    | _ :: vs =>
      let s := { s with xlinvQ := vs, xlinvOut := [] }
      match vs with
      | [] => s
      | w :: _ => xlinvApply s w

def execXlinvComplete (s : State) : Result := .next (xlinvDone s)

/-! ## Map changes (R340) -/

/-- MAP_CHANGE_ISSUE. -/
def execMapChangeIssue (a : Agent) (c : MapChange) (s : State) : Result := .next (if ownerOk s a then issueChange s c else s)

/-- MAP_CHANGE_SEQUENCE: the change in packet `k` is refused, or numbered and sent to every waystation. The map it is checked
against holds every lower-numbered change. -/
def mapSequence (s : State) (k : Nat) : State :=
  if s.net.mapApplied ≠ s.net.mapNext then s
  else match takeFresh s k fun q => match q.payload with | .change none _ _ => true | _ => false with
    | (s, some q) => (match q.payload with
      | .change none issuer c =>
        if seqCubeFor s c ≠ cubeId s ∨ changeFits s c = false then respond s q 4 0
        else
          let s := respond s q 1 0
          let n := s.net.mapNext
          let cubes := if (allCubes s).contains (cubeId s) then allCubes s else cubeId s :: allCubes s
          let s := { s with net := { s.net with mapNext := n + 1, mapAcks := s.net.mapAcks ++ [(n, issuer, cubes)] } }
          cubes.foldl (fun s d => sendOcm s d (.change (some n) issuer c)) s
      | _ => s)
    | (s, none) => s

def execMapChangeSequence (k : Nat) (s : State) : Result := .next (mapSequence s k)

/-- MAP_CHANGE_APPLY: in ascending number; a later change waits. -/
def mapApply (s : State) (k : Nat) : State :=
  match takeFresh s k fun q => match q.payload with | .change (some n) _ _ => decide (n ≤ s.net.mapApplied) | _ => false with
  | (s, some q) => (match q.payload with
    | .change (some n) issuer c =>
      let s := respond s q 1 0
      if n = s.net.mapApplied then applyChange s issuer c else s
    | _ => s)
  | (s, none) => s

def execMapChangeApply (k : Nat) (s : State) : Result := .next (mapApply s k)

/-- RESTRIPE_COPY_ACK: the first acknowledgement of a granule of entry `e`. -/
def copyAck (s : State) (e : Nat) : State :=
  match s.net.inbox.findIdx? (fun q => q.kind == 10 && (match sentFor s q with
    | some x => (match x.pkt.payload with | .granule i _ (_ :: _) => i == e | _ => false)
    | none => false)) with
  | some k => acknowledge s k
  | none => s

def execRestripeCopyAck (e : Nat) (s : State) : Result := .next (copyAck s e)

/-! ## The loss of a cube (R404) -/

/-- Cube `a` was a link peer of cube `b`, as far as this cube's links and the route updates of both ends tell: as they are, or as they
have been. -/
def wasPeer (s : State) (a b : Nat) : Bool :=
  (mget [] s.net.peers b).contains a || (edges s b).any (fun e => e.2.2 == a) || (edges s a).any (fun e => e.2.2 == b)
    || (a == cubeId s && (List.range 16).any fun l => (link s l).peer == b && (link s l).role != 7)

/-- CUBE_LOSS_TIMER: when every link to the cube has been down and no heartbeat has come for LOSSMS, the island of its lowest live
link peer declares the cube dead in every set that names it. -/
def cubeLoss (s : State) (cube : Nat) : State :=
  let ms := regField s islandBlk 0x0008 31 20 * 2100000
  let away := linksAway s cube && decide (mget 0 s.net.away cube + ms ≤ longNow s)
  let silent := decide (mget 0 s.net.heard cube + ms ≤ longNow s)
  let first := (allCubes s).find? fun c => c != cube && wasPeer s c cube
  if regField s islandBlk 0x0008 19 19 = 1 ∧ away = true ∧ silent = true ∧ first = some (cubeId s) ∧ wsDown s = false then
    s.sets.foldl (fun s e =>
      if e.2.any (fun m => memberCube m == cube && !memberDead m) then
        issueChange s (setChange e.1 (e.2.map fun m => if memberCube m = cube then m ||| 0x8000 else m))
      else s) s
  else s

def execCubeLossTimer (cube : Nat) (s : State) : Result := .next (cubeLoss s cube)

end Sys2Proof.Machine
end

