-- ==== Sys2Proof/Machine/Receive.lean ====
section
/-! DEFINITION. Packets that come in (R402, R407, R410, R412 to R414, R416, R423) and packets of this cube's agents that go
out (R24, R342, R404). -/

namespace Sys2Proof.Machine

/-! ## Duplicates (R407) -/

/-- Another copy of the packet has been accepted and waits here. -/
def copyWaits (s : State) (q : Packet) : Bool :=
  s.net.inbox.any (fun y => y.taken && y.scube == q.scube && y.cls == q.cls && y.seq == q.seq)
    || s.net.mcasts.any (fun m => m.pkt.scube == q.scube && m.pkt.cls == q.cls && m.pkt.seq == q.seq)
    || s.engWrites.any fun w => match w.ack with | some p => p.scube == q.scube && p.cls == q.cls && p.seq == q.seq | none => false

/-- What `t` has done for a message that `s` had counted is not counted again (R319). -/
def uncounted (s t : State) : State :=
  { t with net := { t.net with counts := s.net.counts, recv := s.net.recv, lanterns := s.net.lanterns } }

/-- A duplicate, taken out of the inbox: a read is served again and a grant sent again; otherwise the answer that was given goes again,
unless none has gone yet; a forwarded request is forwarded again. The message is not counted again. -/
def dupReceive (s : State) (q : Packet) : State :=
  match q.kind, q.payload with
  | 3, _ => uncounted s ((serveRequest s q).getD s)
  | 9, .atomic 0 _ _ =>
    (match targetAt s q 8 true with
     | .pa pa =>
       let d := pa / 8 * 8
       if (mget [] s.resvQ d).any (fun r => r.granted && r.core == 8192 * (q.scube + 1) + q.score && r.slot == q.msgid) then
         respond s q 0 0 (bytesAt s d 8)
       else s
     | _ => s)
  | 0, _ => ((receiveMoving s q).getD s)
  | 1, _ => ((receiveMoving s q).getD s)
  | 2, _ => ((receiveMoving s q).getD s)
  | _, _ => if copyWaits s q then s else match answerOf s q with
    | some a => respond s q a.1 a.2
    | none => (match targetAt s q 8 true with
      | .forward cube => uncounted s (forwardTo s q q.plen cube)
      | _ => s)

/-! ## Kinds of packet -/

/-- A connection is needed for requests of other cubes (R409, R410). -/
def needsConn (s : State) (q : Packet) : Bool :=
  q.scube != cubeId s && (q.kind == 3 || q.kind == 4 || q.kind == 5 || q.kind == 6 || q.kind == 9)

/-- Bytes a packet counts against the miss buffer. -/
def missSize (q : Packet) : Nat := 64 + q.plen
def missUsed (s : State) : Nat := (s.net.missBuf.map missSize).foldl (· + ·) 0

/-- A request is served, or accepted and waits at its home. -/
def serveOrWait (s : State) (k : Nat) (q : Packet) : State := match serveRequest (dropInbox s k) q with
  | some t => t
  | none => if q.taken then s else
    let t := mark s q
    { t with net := { t.net with inbox := t.net.inbox.set k { q with taken := true } } }

/-- Two requests of reads and writes name a common granule. -/
def sameGranules (q y : Packet) : Bool :=
  let span (q : Packet) : Option (Nat × Nat) := match q.payload with
    | .read n => some ((q.addr + q.off) / 16, (q.addr + q.off + n + 15) / 16)
    | .data bs => some ((q.addr + q.off) / 16, (q.addr + q.off + bs.length + 15) / 16)
    | _ => none
  match span q, span y with
  | some a, some b => decide (a.1 < b.2) && decide (b.1 < a.2)
  | _, _ => false

/-- The request at place `k` is the next of its connection: each earlier one has been taken up, and none that still waits at its home
names a granule of it (R410). -/
def nextOfConn (s : State) (k : Nat) (q : Packet) : Bool :=
  !needsConn s q || (s.net.inbox.take k).all fun y => !(y.scube == q.scube && y.dcube == cubeId s && needsConn s y) ||
    (if y.taken then !sameGranules q y else seqCase s y == .gap)

/-- A request against its connection (R410); one with a reserved space code is dropped and logged (R274). -/
def requestIn (s : State) (k : Nat) (q : Packet) : State :=
  if 4 ≤ q.addr / 2 ^ 53 % 8 then otherRecord (dropInbox s k)
  else if needsConn s q then
    if s.memDom ≠ .on then refuse (dropInbox s k) q 3 0
    else if s.net.conns.contains q.scube then
      serveOrWait { s with net := { s.net with conns := q.scube :: s.net.conns.erase q.scube } } k q
    else if missUsed s + missSize q ≤ 65536 then
      let s := dropInbox s k
      { s with net := { s.net with missBuf := s.net.missBuf ++ [q],
                                   fetching := if s.net.fetching.contains q.scube then s.net.fetching else s.net.fetching ++ [q.scube] } }
    else respond (dropInbox s k) q 2 0
  else serveOrWait s k q

/-- A contribution or a multicast copy (R412, R413): one whose instance is early is accepted and waits. -/
def planIn (s : State) (k : Nat) (q : Packet) : State :=
  let s0 := if q.taken then s else mark s q
  let s' := if q.kind = 7 then reduceArrival s0 k else multicastReceive s0 k
  if q.kind = 8 then s'
  else if s'.net.inbox[k]? = some q then
    { s0 with net := { s0.net with inbox := s0.net.inbox.set k { q with taken := true } } }
  else countBytes s' q q.plen

/-- A traveller, a task, a wake or what has bounced (R417, R419). -/
def movingIn (s : State) (k : Nat) (q : Packet) : State :=
  match q.payload with
  | .wake tid core =>
    let s := dropInbox s k
    answerArrival (if s.ws = .full then { s with flights := s.flights ++ [.wake tid core none] } else s) q 0
  | .traveller t =>
    if q.kind = 0 ∧ s.ws = .full ∧ needsWake s t.dcore = true ∧ arrivalWaits s t.dcore = false ∧ noHome s t.dcore t.hdr.part = false then wakeQuad s t.dcore
    else (receiveMoving (dropInbox s k) q).getD s
  | .task _ =>
    if q.kind = 1 ∧ s.ws = .full ∧ needsWake s (q.addr / 2 ^ 28 % 8192) = true ∧ arrivalWaits s (q.addr / 2 ^ 28 % 8192) = false then
      wakeQuad s (q.addr / 2 ^ 28 % 8192)
    else (receiveMoving (dropInbox s k) q).getD s
  | _ => dropInbox s k

/-- A management access (R423): an offset beyond its block draws NAK-ABSENT (R274); a write is answered once it has been applied. -/
def mgmtIn (s : State) (q : Packet) : State :=
  match q.payload with
  | .mgmt wr p v =>
    let b := q.addr / 2 ^ 28 % 8192
    let o := q.addr % 2 ^ 28
    if !blockLive s b ∨ 0xFFFF < o then respond s q 3 0
    else if wr then
      { s with regWrites := s.regWrites ++ [⟨.port p, b, o, v, some q⟩] }
    else if b = islandBlk ∧ o = 0xF840 then
      let r := attest s p v
      respond r.1 q 0 0 ((leBytes 8 r.2.toNat).map fun x => (x, false))
    else respond (readEffect s b o) q 0 0 ((leBytes 8 (sysRead s b o).toNat).map fun x => (x, false))
  | _ => s

/-- Effects of the other packets of the island controllers. -/
def ocmIn (s : State) (q : Packet) : State :=
  match q.payload with
  | .mgmt _ _ _ => mgmtIn s q
  | .changeAck _ true =>
    let s := respond s q 1 0
    putField s islandBlk 0x8000 63 32 ((regField s islandBlk 0x8000 63 32 + 1) % 2 ^ 32)
  | .changeAck _ false => mapErr (respond s q 1 0) 1
  | .cursor e c => cursorTold (respond s q 1 0) e c
  | .granule e g bs => granuleComes (respond s q 1 0) e g bs
  | .route c es => routeTold (respond s q 1 0) c es
  | .heartbeat => heartbeatHeard (respond s q 1 0) q.scube
  | .abort p pl inst cause => abortTold (respond s q 1 0) p pl inst cause q.scube
  | _ => respond s q 1 0

/-- An OC-M packet (R406). -/
def controlIn (s : State) (k : Nat) (q : Packet) : State :=
  match q.payload with
  | .change none _ _ => mapSequence s k
  | .change (some _) _ _ => mapApply s k
  | .probe p sl _ _ _ => if (lantern s p sl).lead then probeReturn s k else probeArrival s k
  | .lanternDone _ _ => lanternDone s k
  | _ => match takeFresh s k fun _ => true with
    | (s, some q) => ocmIn s q
    | (s, none) => s

/-- A packet that ends at this cube; one of a reserved KIND is dropped and logged (R405). -/
def packetTaken (s : State) (k : Nat) : State :=
  match s.net.inbox[k]? with
  | none => s
  | some q =>
    if q.dcube ≠ cubeId s then s
    else if q.kind = 10 then acknowledge (enterPort s k) k
    else if 13 < q.kind then otherRecord (dropInbox s k)
    else if 11 ≤ q.kind then controlIn s k q
    else if netDown s then dropInbox s k
    else
      let s := enterPort s k
      let q := { q with via := 16 }
      match (if q.taken then SeqCase.fresh else if q.fwd then (if (answerOf s q).isSome then .duplicate else .fresh) else seqCase s q) with
      | .gap => s
      | .below => dropInbox s k
      | .duplicate => dupReceive (dropInbox s k) q
      | .fresh =>
        if q.kind ≤ 2 then movingIn s k q
        else if q.kind = 7 ∨ q.kind = 8 then planIn s k q
        else if nextOfConn s k q then requestIn s k q else s

/-- The 4 KiB record of source `src` in the connection store, which lies first in the system region (R409; DESIGN CHOICE, assumption 42). -/
def recordAt (s : State) (src : Nat) : Nat :=
  let co := channelOf (cubeHash s) (2032 * 2 ^ 30 + 4096 * src)
  dramPa co.1 co.2

/-- The connection record of source `src` is written whole, with what changed in its windows, before an answer leaves (R409; DESIGN
CHOICE, assumption 42: its contents are the fields of `net`, so of the record only poison and errors show). -/
def writeThrough (s t : State) (src : Nat) : State :=
  if t.memDom = .on ∧ src ≠ cubeId t ∧ (s.net.windows ≠ t.net.windows ∨ s.net.counts ≠ t.net.counts) then
    let out (a : Nat) : Bool := !(decide (recordAt t src ≤ a) && decide (a < recordAt t src + 4096))
    { t with poison := t.poison.filter (fun g => out (g * 16)), latent := t.latent.filter (fun h => out (h * 8)),
             softErr := t.softErr.filter fun h => out (h * 8) }
  else t

/-- The packet at place `k` is taken, and its connection written through. -/
def packetReceive (s : State) (k : Nat) : State := match s.net.inbox[k]? with
  | some q => writeThrough s (packetTaken s k) q.scube
  | none => s

/-- PACKET_RECEIVE (R416): the packet at place `k` of the inbox. -/
def execPacketReceive (k : Nat) (s : State) : Result := .next (packetReceive s k)

/-- The packet at place `k` is one that `f` takes; it is received. -/
def receiveIf (s : State) (k : Nat) (f : Packet → Bool) : State := match s.net.inbox[k]? with
  | some q => if f q then packetReceive s k else s
  | none => s

/-- RESERVATION_RELEASE_APPLY: a release of another cube's steward (R284). -/
def execReservationReleaseApply (k : Nat) (s : State) : Result :=
  .next (receiveIf s k fun q => match q.payload with | .atomic 1 _ _ => true | _ => false)
/-- REMOTE_BARRIER_EVENT (R316). -/
def execRemoteBarrierEvent (k : Nat) (s : State) : Result := .next (receiveIf s k fun q => q.kind == 6)
/-- REDUCE_CONTRIBUTION_ARRIVAL (R412). -/
def execReduceContributionArrival (k : Nat) (s : State) : Result := .next (receiveIf s k fun q => q.kind == 7)
/-- MULTICAST_RECEIVE (R413). -/
def execMulticastReceive (k : Nat) (s : State) : Result := .next (receiveIf s k fun q => q.kind == 8)
/-- PLAN_ABORT (R414). -/
def execPlanAbort (k : Nat) (s : State) : Result :=
  .next (receiveIf s k fun q => match q.payload with | .abort _ _ _ _ => true | _ => false)

/-- A packet of source `src` is in progress here. -/
def connBusy (s : State) (src : Nat) : Bool :=
  (s.net.inbox ++ s.net.missBuf).any (fun q => q.scube == src && q.dcube == cubeId s && needsConn s q)
    || s.engWrites.any fun w => match w.ack with | some q => q.scube == src | none => false

/-- Connection `src` enters the cache; of 2,048 others, the least recently used with no packet in progress leaves (R409). -/
def cacheConn (s : State) (src : Nat) : List Nat :=
  let old := s.net.conns.erase src
  let kept := if old.length < 2048 then old else match old.reverse.find? fun c => !connBusy s c with
    | some c => old.erase c
    | none => old
  src :: kept

/-- CONNECTION_FETCH_COMPLETE: the record of source `src` is cached, and its held packets come before any later one; a poisoned
record starts the connection with empty windows, and is logged (R410). -/
def fetchDone (s : State) (src : Nat) : State :=
  if s.net.fetching.contains src ∧ s.memDom = .on then
    let s := findErrors s (recordAt s src) 4096 0 0
    let s := if poisonedAt s (recordAt s src) 4096 then
        otherRecord { s with net := { s.net with windows := s.net.windows.filter (fun e => e.1 / 4 != src),
                                                 winBase := s.net.winBase.filter (fun e => e.1 / 4 != src),
                                                 counts := s.net.counts.filter fun e => e.1 / 2 ^ 32 != src } }
      else s
    let mine (q : Packet) : Bool := q.scube == src
    { s with net := { s.net with conns := cacheConn s src, fetching := s.net.fetching.erase src,
                                 missBuf := s.net.missBuf.filter fun q => !mine q, inbox := s.net.missBuf.filter mine ++ s.net.inbox } }
  else s
def execConnectionFetchComplete (k : Nat) (s : State) : Result := .next (fetchDone s k)

/-- PACKET_TRANSIT: unchanged, on the route of its class (R402, R416). -/
def packetTransit (s : State) (k : Nat) : State :=
  match s.net.inbox[k]? with
  | none => s
  | some q =>
    if q.dcube = cubeId s then s
    else if netDown s then dropInbox s k
    else if 13 < q.kind then otherRecord (dropInbox s k)
    else
      let s := dropInbox (enterPort s k) k
      let q' := throughGroup s { q with via := 16 }
      sendVia s q' (mget {} s.net.links q.via : Link).role (routeLink s q')
def execPacketTransit (k : Nat) (s : State) : Result := .next (packetTransit s k)

/-! ## Packets go out (R24, R342, R404, R407) -/

/-- An earlier request of the same source to the same granule of a RESTRIPING entry waits to leave, or is not acknowledged (R342). -/
def granuleHeld (s : State) (q : Packet) : Bool :=
  if q.addr / 2 ^ 53 ≠ 0 ∨ q.kind < 3 ∨ 9 < q.kind then false
  else match stripePlace s (q.addr + q.off) with
    | some pl => pl.rstr && (s.net.retry ++ s.net.portQ.takeWhile (·.pkt != q)).any fun y => y.pkt.score == q.score && decide (3 ≤ y.pkt.kind) && decide (y.pkt.kind ≤ 9) && y.pkt.addr / 2 ^ 53 == 0
        && y.pkt.msgid != q.msgid
        && (match stripePlace s (y.pkt.addr + y.pkt.off) with | some p => p.entry == pl.entry && p.g == pl.g | none => false)
    | none => false

/-- The packet may leave the on-die port queue now (R24, R401, R404, R407). -/
def mayLeave (s : State) (x : Sent) : Bool := !netDown s && retryRoom s x.pkt && !granuleHeld s x.pkt && !pathHeld s x.pkt

/-- Flits of a packet of a local agent are charged at its port, and to the FARE of its traveller (R359); a traveller or task
packet was charged when it left. -/
def chargeOut (s : State) (x : Sent) : State :=
  if x.pkt.kind ≤ 2 then s
  else match x.who with
    | some (c, sl) => if stateOf s c sl = .free ∨ ecxOf s c sl ≠ x.pkt.ecx then charge s 1384 31 x.pkt.flitCount x.pkt.ecx
        else chargeTravAt s c sl 1384 31 x.pkt.flitCount
    | none => charge s 1384 31 x.pkt.flitCount x.pkt.ecx

/-- The payload of a packet as its escort hash covers it (R387). -/
def payloadBytes : Payload → List Byte
  | .data bs => bs.map (·.1) ++ bs.map fun b => if b.2 then 1 else 0
  | .task t => t.bytes
  | .read n => leBytes 4 n
  | .ringPop r => leBytes 1 r
  | .bar b kind n => leBytes 1 b ++ leBytes 1 kind ++ leBytes 4 n.toNat
  | .atomic op size v => leBytes 1 op ++ leBytes 1 size ++ leBytes 8 v.toNat
  | _ => []

/-- The first packet of the waystation's own that waits, else of the on-die port queues, that may leave goes. -/
def portOut (s : State) : State :=
  let mine (x : Sent) : Bool := !x.matched && (match x.who with | some (c, sl) => (slot s c sl).pair && decide (x.pkt.kind ≠ 0) | none => false)
  let s := (s.net.portQ.filter mine).foldl (fun s x => match x.who with
    | some (c, sl) => escSend s c sl x.pkt.kind (BitVec.ofNat 64 x.pkt.addr) (payloadBytes x.pkt.payload) (.packet x)
    | none => s) s
  match s.net.sendQ.find? (fun x => retryRoom s x.pkt && !pathHeld s x.pkt), s.net.portQ.find? (fun x => !mine x && mayLeave s x) with
  | some x, _ => transmitNow { s with net := { s.net with sendQ := s.net.sendQ.erase x } } x
  | none, some x => transmitNow (chargeOut { s with net := { s.net with portQ := s.net.portQ.erase x } } x) x
  | none, none => s

end Sys2Proof.Machine
end

