-- ==== Sys2Proof/Machine/Registers.lean ====
section
/-! DEFINITION. A write of a system register (R11, R275): who may write it and what the write does, for every register of the blocks,
and the host's PF registers (R422 to R426). -/

namespace Sys2Proof.Machine

/-- The bits [hi:lo] of `v` that a list of RW fields takes, as a register value. -/
def rwBits (v : Word) (fs : List (Nat × Nat)) : Word := BitVec.ofNat 64 (mergeBits 0 v.toNat fs)

/-- Set the RW fields of a register; its other bits stay. -/
def setRw (s : State) (block off : Nat) (v : Word) (fs : List (Nat × Nat)) : State :=
  putReg s block off (BitVec.ofNat 64 (mergeBits (getReg s block off).toNat v.toNat fs))

/-- Every link is DOWN or FAILED (R400, R401). -/
def linksDown (s : State) : Bool := (List.range 16).all fun l => (link s l).state == 0 || (link s l).state == 4

/-- TOPO (R400): a LOSSMS outside 50 to 4,095 discards the write. -/
def topoWrite (s : State) (v : Word) : State :=
  let old := (getReg s islandBlk 8).toNat
  let new := mergeBits old v.toNat [(31, 0)]
  if bitsOf new 31 20 < 50 then s
  else if linksDown s || mergeBits old v.toNat [(31, 19)] == new then putReg s islandBlk 8 (BitVec.ofNat 64 new) else s

/-- The two doubles of a link (R398). -/
def linkWrite (s : State) (n : Nat) (hi : Bool) (v : Word) : State :=
  if hi then
    if ((link s n).state = 0 ∨ (link s n).state = 4) ∧ v.toNat % 16 < 8 then
      putLink s n { link s n with role := v.toNat % 16, peer := bitsOf v.toNat 15 4, pport := bitsOf v.toNat 19 16 }
    else s
  else if v.getLsbD 17 then linkTrain s n else s

/-- PSTRUCT (R350): the RW fields of double `d`, while the partition is not enabled. -/
def pstructWrite (s : State) (p d : Nat) (v : Word) : State :=
  if partEn s p then s
  else setRw s islandBlk (0x1100 + 32 * p + 8 * d) v (match d with
    | 0 => [(27, 0), (35, 32)]
    | 1 => [(27, 0), (34, 32)]
    | 2 => [(40, 0)]
    | _ => [(15, 0)])

/-- A purse entry (R362): EN, and ADD. -/
def purseWrite (s : State) (a : Agent) (x d : Nat) (v : Word) : State := match d with
  | 2 => putPurse s x { purse s x with en := v.getLsbD 24 }
  | 3 => purseAddWrite s a x v
  | _ => s

/-- Who may write DBGREQ (R391). -/
def dbgReqOk (s : State) (a : Agent) (v : Word) : Bool := ownerOk s a || (match a with
  | .steward _ lvl p => decide (1 ≤ lvl) && p == bitsOf v.toNat 49 45
  | _ => false)

/-- DBGREQ: the request is held and, with GO, applied. -/
def dbgReqWrite (s : State) (v : Word) : State :=
  let s := setRw s islandBlk 0xF008 v [(51, 0)]
  if v.getLsbD 52 then
    match bitsOf v.toNat 51 50 with
    | 0 => dbgHalt s false
    | 1 => dbgResume s false
    | 2 => dbgHalt s true
    | _ => dbgResume s true
  else s

/-- ALMCFG (R430): only the owner's; a reserved policy and AFLIM = 0 discard the write. -/
def almcfgWrite (s : State) (v : Word) : State :=
  if (List.range 4).any (fun i => bitsOf v.toNat (2 * i + 1) (2 * i) == 3) || bitsOf v.toNat 15 8 == 0 then s
  else setRw s islandBlk 0xF818 v [(15, 0)]

/-- PWRLIM (R433). -/
def pwrlimWrite (s : State) (v : Word) : State :=
  let n := v.toNat % 4096
  if 1000 ≤ n ∧ n ≤ 3600 then setRw s islandBlk 0xF828 v [(11, 0)] else s

/-- Registers that the owner and the island controller write. -/
def islandOwned (s : State) (a : Agent) (off : Nat) (v : Word) : State :=
  if off = 0x0008 then topoWrite s v
  else if off = 0x0010 then (if linksDown s then setRw s islandBlk off v [(12, 0)] else s)
  else if 0x0100 ≤ off ∧ off < 0x0200 then linkWrite s ((off - 0x0100) / 16) (off % 16 == 8) v
  else if 0x0200 ≤ off ∧ off < 0x0400 then setRw s islandBlk off v [(15, 0)]
  else if off = 0x0800 then setRw s islandBlk off v [(10, 0), (13, 12), (47, 32)]
  else if off = 0x0808 then plnWrite s a v
  else if off = 0x1000 then carveWrite s a v
  else if 0x1100 ≤ off ∧ off < 0x1400 then pstructWrite s ((off - 0x1100) / 32) (off % 32 / 8) v
  else if off = 0x1400 then setRw s islandBlk off v [(0, 0), (30, 8), (55, 32)]
  else if off = 0x1408 then owndatWrite s a v
  else if off = 0x1410 then setRw s islandBlk off v [(27, 0)]
  else if off = 0x1418 then halldatWrite s a v
  else if 0x2000 ≤ off ∧ off < 0x3800 then slotWrite s a ((off - 0x2000) / 16) (off % 16 / 8) v
  else if 0x5000 ≤ off ∧ off < 0x50C0 then ptrootWrite s a ((off - 0x5000) / 8) v
  else if 0x9000 ≤ off ∧ off < 0x90C0 then partcfgWrite s a ((off - 0x9000) / 8) v
  else if 0x9100 ≤ off ∧ off < 0x9100 + 32 * 129 then purseWrite s a ((off - 0x9100) / 32) (off % 32 / 8) v
  else if 0xA400 ≤ off ∧ off < 0xA400 + 96 * 64 then respgWrite s a ((off - 0xA400) / 96) ((off - 0xA400) % 96 / 8) v
  else if off = 0xF000 then setRw s islandBlk off v [(15, 0)]
  else if 0xF200 ≤ off ∧ off < 0xF380 ∧ off % 16 = 0 then setRw s islandBlk off v [(59, 0)]
  else if off = 0xF820 then { s with fw := { s.fw with src := s.fw.src &&& (15 - v.toNat % 16) } }
  else if off = 0xF828 then pwrlimWrite s v
  else s

/-- A write to the island-controller block. -/
def islandWrite (s : State) (a : Agent) (off : Nat) (v : Word) : State :=
  if off = 0x6000 then xlinvWrite s a v
  else if off = 0xF008 then (if dbgReqOk s a v then dbgReqWrite s v else s)
  else if !ownerOk s a then s
  else if off = 0 then (if a ≠ .island ∧ v.getLsbD 8 = true then wsReset s else s)
  else if off = 0xF818 then (if a ≠ .island then almcfgWrite s v else s)
  else islandOwned s a off v

/-- Who may write XCTL, and the steward that a GO names (R251). -/
def xctlAgent (s : State) (a : Agent) (c : Nat) : Option Nat := match a with
  | .island => some 6400
  | .steward id _ p => if (core s c).asg ∧ (core s c).part = p then some id else none
  | _ => none

/-- A write to the block of a core. -/
def coreWrite (s : State) (a : Agent) (c off : Nat) (v : Word) : State :=
  if off = 0x0100 then boundaryStage s a c 0 v
  else if off = 0x0108 then boundaryStage s a c 1 v
  else if off = 0x0110 then lmdtbCommit s a c v
  else if off = 0x0200 ∧ kindOf c = .channel then (match xctlAgent s a c with | some st => xctlWrite s c st v | none => s)
  else s

/-- A write to the hall controller (R282). -/
def hallBlkWrite (s : State) (a : Agent) (off : Nat) (v : Word) : State :=
  if 0x0100 ≤ off ∧ off < 0x0280 ∧ off % 16 = 0 then hccfgWrite s a ((off - 0x0100) / 16) v
  else if 0x1000 ≤ off ∧ off < 0xD000 ∧ (off - 0x1000) % 0x800 / 8 ≤ 128 ∧ ownerOk s a = true then setRw s hallBlk off v [(55, 32)]
  else s

/-! ## The BARs of the host's functions (R422, R423, R424, R426)

The model's own blocks: 0x2000 + port for BAR2 of a PF, and 0x2100 + VF for BAR0 of a VF. BAR0 of a PF is the island's own block,
written by agent `port`. -/

/-- A write of 8 bytes to BAR2 of the PF of port `p`. AUTHBUF takes them at any offset. -/
def pfWrite (s : State) (p off : Nat) (v : Word) : State :=
  if 0x4000 ≤ off ∧ off < 0x8000 then updPort s p fun k => { k with authbuf := wrBytes k.authbuf (off - 0x4000) ((leBytes 8 v.toNat).take (0x8000 - off)) }
  else if off % 8 ≠ 0 then s
  else if off = 0 then updPort s p fun k => { k with mgaddr := v }
  else if off = 8 then updPort s p fun k => { k with mgdata := v }
  else if off = 0x10 then
    (if v.getLsbD 0 then mgGo s p (v.getLsbD 1) else updPort s p fun k => { k with mgwr := v.getLsbD 1 })
  else if off = 0x1000 then doorbell s p 0 v (v.getLsbD 21)
  else if off = 0x3FF0 then (if v.getLsbD 0 then authMalformed (authGo s p) p else s)
  else s

/-- An aligned read of 8 bytes of BAR2 of the PF of port `p`: MGADDR, MGDATA, MGCTL, the nonces of both ports, AUTHCTL and AUTHBUF. -/
def pfRead (s : State) (p off : Nat) : Word :=
  let k := port s p
  if off % 8 ≠ 0 then 0
  else if off = 0 then k.mgaddr
  else if off = 8 then k.mgdata
  else if off = 0x10 then BitVec.ofNat 64 (b2n k.mgwr * 2 + b2n k.mgbusy * 4 + k.mgstatus * 8)
  else if off = 0x20 then (port s 0).nonce
  else if off = 0x28 then (port s 1).nonce
  else if off = 0x3FF0 then BitVec.ofNat 64 (b2n k.authBusy * 2 + k.authStatus * 4)
  else if 0x4000 ≤ off ∧ off < 0x8000 then BitVec.ofNat 64 (rdN k.authbuf (off - 0x4000) 8)
  else 0

/-- A read of 8 bytes through BAR0 of a PF, by either port: the island's block. -/
def bar0Read (s : State) (off : Nat) : Word := if off % 8 = 0 then sysRead s islandBlk off else 0

/-- A read of BAR0 of a VF. -/
def vfRead (_off : Nat) : Word := 0

/-- A PF configuration read answers Configuration Request Retry Status (R432). -/
def configRetry (s : State) : Bool := s.ws == .boot && !s.imgOk

/-- REGISTER_WRITE: an aligned 8-byte write; one to no register, or by an agent that the register's rule does not name, is
discarded. -/
def writeReg (s : State) (a : Agent) (block off : Nat) (v : Word) : State :=
  if block = 0x2000 ∨ block = 0x2001 then pfWrite s (block - 0x2000) off v
  else if off % 8 ≠ 0 then s
  else if 0x2101 ≤ block ∧ block ≤ 0x2180 then
    (if off = 0 then doorbell s (if block ≤ 0x2140 then 0 else 1) (block - 0x2100) v (v.getLsbD 21) else s)
  else if !blockLive s block then s
  else if block = islandBlk then islandWrite s a off v
  else if block = hallBlk then hallBlkWrite s a off v
  else if block = dispBlk then (if off = 0 ∧ ownerOk s a = true then setRw s dispBlk 0 v [(31, 0)] else s)
  else coreWrite s a block off v

def execRegisterWrite (a : Agent) (block off : Nat) (v : BitVec 64) (s : State) : Result := .next (writeReg s a block off v)

/-- The oldest register write on its way takes effect. A management write is applied, and answered, by the owner of that moment
(R423, R427). -/
def drainRegWrite (s : State) : State := match s.regWrites with
  | [] => s
  | w :: ws =>
    let s := { s with regWrites := ws }
    match w.ack with
    | none => writeReg s w.agent w.block w.off w.v
    | some q => if ownerOk s w.agent then respond (writeReg s w.agent w.block w.off w.v) q 1 0 else respond s q 4 0

end Sys2Proof.Machine
end

