-- ==== Sys2Proof/Machine/Seal.lean ====
section
/-! DEFINITION. The group watchdog (R160 to R162), machine checks and seals (R382 to R385). -/

namespace Sys2Proof.Machine

/-! ## The group watchdog -/

/-- GWDOG of a partition in µs (R349). -/
def gwdog (s : State) (p : Nat) : Nat := regField s islandBlk (0x9000 + 8 * p) 47 16

/-- Reduce plans to which a member has an NRED that has not completed, be it pending, active or stopped (R161, R414). -/
def openPlans (s : State) (c sl : Nat) : List Nat :=
  ((core s c).courierQ.filter fun r => r.major == 0x0E && r.fn == 6 && r.st != 2 && r.slot == sl && r.tid == tidOf s c sl).map
    fun r => lwPlan r.b.toNat
/-- The plans that a group has outstanding contributions to. -/
def groupPlans (s : State) (p e : Nat) : List Nat := ((membersOf s p e).flatMap fun m => openPlans s m.1 m.2).eraseDups

/-- A group watchdog event of launch entry `e`, whose outstanding contributions go to `plans` (R161). -/
def watchdogEvent (s : State) (p e : Nat) (plans : List Nat) : State :=
  let s := (membersOf s p e).foldl (fun s (c, sl) =>
    if stateOf s c sl = .parked ∧ reasonOf s c sl ≠ 4 ∧ reasonOf s c sl ≠ 6 then breakWait s c sl (launchTrap .watchdog e) .watchdog else s) s
  plans.foldl (fun s k => abortPlan s p k 0x10) s

/-- A member of the group is STRANDED in the spill area (R160, R369). -/
def strandedAway (s : State) (p e : Nat) : Bool :=
  ((part s p).spill ++ (part s p).spillWait).any fun i => match i with | .traveller t => t.why == 0 && t.ready && t.hdr.inLaunch s p e | _ => false

/-- The timer of the group runs (R160): it is a launch's, it has a live member, and none is TRAPPED, HALTED or STRANDED. -/
def watchdogRuns (s : State) (p e : Nat) : Bool :=
  let ms := membersOf s p e
  e != 0 && gwdog s p != 0 && (s.comp == .run || s.comp == .bringup || s.comp == .quiesce) && !ms.isEmpty && !strandedAway s p e
    && ms.all fun m => !(stateOf s m.1 m.2 == .trapped || stateOf s m.1 m.2 == .halted || stateOf s m.1 m.2 == .stranded)

/-- GROUP_WATCHDOG_EXPIRY (R161). -/
def execGroupWatchdogExpiry (p e : Nat) (s : State) : Result :=
  .next (if watchdogRuns s p e then watchdogEvent s p e (groupPlans s p e) else s)

/-! ## Machine checks (R383) -/

/-- An uncorrectable error in core state: in register bytes of a workspace it poisons the registers, elsewhere it seals the core
and puts its cluster at the head of the self-test schedule. -/
def machineCheck (s : State) (c unit sl : Nat) (regs : BitVec 24) : State :=
  if kindOf c = .absent ∨ 6 < unit then s
  else if unit = 0 then
    errorRecord (updSlot s c sl fun k => { k with hdr := { k.hdr with pmask := k.hdr.pmask ||| regs } })
      (BitVec.ofNat 64 (c + 2 ^ 31)) (BitVec.ofNat 64 ((core s c).lmwsb + 256 * sl))
  else if kindOf c = .steward || (core s c).isSealed || (core s c).sealing then s
  else
    let s := updCore s c fun k => { k with sealing := true, sealCause := 0xFF, sealSub := unit }
    if kindOf c = .compute then
      let s := { s with testFirst := clusterOf c :: s.testFirst.erase (clusterOf c) }
      if s.testing.isNone then putField s dispBlk 8 6 0 (clusterOf c) else s
    else s

/-- MACHINE_CHECK (R383). -/
def execMachineCheck (c unit sl : Nat) (regs : BitVec 24) (s : State) : Result := .next (machineCheck s c unit sl regs)

/-! ## The effects of a seal (R384) -/

/-- The trap of each traveller on the sealed core. -/
def sealTrap (s : State) (c : Nat) : TrapInfo :=
  if (core s c).sealCause = 0xFF then { cause := .mcheck, sub := (core s c).sealSub, addr := BitVec.ofNat 64 c }
  else { cause := .sealed, sub := 2, addr := BitVec.ofNat 64 c }

/-- The traveller in a slot is TRAPPED with SCORE = 1; one that is migrating is away already. -/
def sealSlot (s : State) (c sl : Nat) : State :=
  if stateOf s c sl = .migrating then s
  else
    let x := kindOf c == .channel && sl == 0
    let s := if (stream s c x).run = some sl then switchOut s c x (stream s c x).pc else s
    let t := sealTrap s c
    let s := updSlot (setState s c sl .trapped) c sl fun k => { k with wait := none, pending := k.pending.filter (·.stays), halted := none, trap := some t }
    sendMsg { s with strandOrder := s.strandOrder.filter (· ≠ (c, sl)) } (trapSteward s c (slot s c sl).hdr.part x)
      { trapMsgOf s c sl t (savedPc s c sl) with score := true }

/-- Reservations its travellers hold or asked for are released, with a log entry for each that was granted (R287). -/
def sealHeld (s : State) (c sl : Nat) : State :=
  let mine (r : ResvReq) : Bool := r.core == c && r.slot == sl
  match (slot s c sl).resv with
  | some r => trapLog (dropResv s c sl) (slot s c sl).hdr.part 4 c 8 r.va
  | none =>
    let s := match s.resvQ.any (fun e => e.2.any fun r => mine r && r.granted), (slot s c sl).wait with
      | true, some { word := _, cond := .grant _ va, reply := _ } | true, some { word := _, cond := .grantRoom _ va _, reply := _ } =>
        trapLog s (slot s c sl).hdr.part 4 c 8 va
      | _, _ => s
    { s with resvQ := (s.resvQ.map fun (d, l) => (d, l.filter fun r => !mine r)).filter fun e => !e.2.isEmpty }

/-- A grant that its traveller has not taken yet is void: its instruction traps SEALED (R287, R385). -/
def voidGrant (s : State) (c sl : Nat) : State := match (slot s c sl).wait with
  | some { word := w, cond := .grant pa va, reply := some _ } =>
    updSlot s c sl fun k => { k with wait := some { word := w, cond := .grant pa va, reply := some (.trap { cause := .sealed, sub := 1, addr := va }) } }
  | some { word := w, cond := .grantRoom pa va v, reply := none } =>
    readyIfReplied (updSlot s c sl fun k => { k with wait := some { word := w, cond := .grantRoom pa va v, reply := some (.trap { cause := .sealed, sub := 1, addr := va }) } }) c sl
  | some { word := w, cond := .grantRoom pa va v, reply := some _ } =>
    updSlot s c sl fun k => { k with wait := some { word := w, cond := .grantRoom pa va v, reply := some (.trap { cause := .sealed, sub := 1, addr := va }) } }
  | _ => s

/-- Reservations of its own doubles are void, and an RLS of one traps SEALED; the queued requests trap SEALED (R287). -/
def sealHome (s : State) (c : Nat) : State :=
  let mine := s.resvQ.filter fun e => coreOfPa e.1 == some c
  let s := mine.foldl (fun s e => e.2.foldl (fun s r =>
    if r.granted then (if r.core < 8192 then voidGrant (updSlot s r.core r.slot fun k => { k with resv := none, voided := k.resv }) r.core r.slot else s)
    else if 8192 ≤ r.core then respond s (farPacket s r) 4 8
    else match (slot s r.core r.slot).wait with
      | some { word := _, cond := .grant _ va, reply := none } =>
        readyIfReplied (setReply s r.core r.slot (.trap { cause := .sealed, sub := 1, addr := va })) r.core r.slot
      | _ => s) s) s
  { s with resvQ := s.resvQ.filter fun e => coreOfPa e.1 != some c }

/-- Granules of its that have a waiter become full and poisoned, and serve the waiters of other cores; its own are gone (R120). -/
def sealGranules (s : State) (c : Nat) : State :=
  let others (l : List (Nat × Nat)) : List (Nat × Nat) := l.filter fun e => e.1 != c
  let gs := (s.granWait.filter fun w => !w.2.isEmpty && coreOfPa (w.1 * 16) == some c).map fun w => w.1
  let ws : SMap (List (Nat × Nat)) := (s.granWait.map fun w => (w.1, others w.2)).filter fun w => !w.2.isEmpty
  let s := { s with granWait := ws }
  let s := { s with full := gs.foldl (fun f g => setIns g f) s.full, poison := gs.foldl (fun f g => setIns g f) s.poison }
  gs.foldl serveGranule s

/-- Commands of the core's engines: coach records go and their banks are freed, courier and stream records stop as faulted
(R223, R384); each is logged. -/
def sealEngines (s : State) (c : Nat) : State :=
  let t := sealTrap s c
  let t' : TrapInfo := { cause := .sealed, sub := 2, addr := t.addr }
  let open_ (l : List Rec) : List Rec := l.filter fun r => r.st != 2
  let all := open_ (core s c).coachQ ++ open_ (core s c).courierQ ++ open_ (chan s c).streamQ ++ (chan s c).bankCmds
  let s := all.foldl (fun s r => trapLog s r.part 5 c 8 (BitVec.ofNat 64 r.seq)) s
  let stop (r : Rec) : Rec := if r.st = 2 then r else { r with st := 3, active := false, fault := some t' }
  let s := updCore s c fun k => { k with coachQ := k.coachQ.filter (·.st == 2), seqr := none, courierQ := k.courierQ.map stop }
  let s := if kindOf c = .channel then updChan s c fun k => { k with streamQ := k.streamQ.map stop, bankCmds := [], aqProd := [], xqCons := [] } else s
  let s := { s with engWrites := s.engWrites.filter fun w => !(w.src.1 == c && decide (w.src.2.1 < 3)) }
  let here (w : EngWrite) : Bool := w.held && coreOfPa w.pa == some c
  let s := (s.engWrites.filter here).foldl (fun s w => discardWrite s c w) { s with engWrites := s.engWrites.filter fun w => !here w }
  if kindOf c = .compute then (slotsOf s c).foldl (fun s sl => freeAllBanks s c sl) s else s

/-- Tasks of its deque and its arrival queue become messages; travellers held for it go back (R384, R385). -/
def sealArrivals (s : State) (c : Nat) : State :=
  let st (p : Nat) : Nat := trapSteward s c p false
  let held := s.held.filter (·.1 == c)
  let tasks := (core s c).deque ++ held.filterMap fun h => match h.2 with | .task t _ _ => some t | _ => none
  let back := held.filterMap fun h => match h.2 with | .traveller t oc os => some (Flight.bounce t oc os) | _ => none
  let s := tasks.foldl (fun s t => sendTaskMsg s t { cause := .sealed, sub := 2, addr := BitVec.ofNat 64 c } c (st t.part) true) s
  let s := updCore s c fun k => { k with deque := [], urgQ := [], normQ := [], steal := {} }
  { s with held := s.held.filter (·.1 != c), flights := s.flights ++ back }

/-- SEAL_COMPLETE: every effect of the seal is applied. -/
def sealComplete (s : State) (c : Nat) : State :=
  if !(core s c).sealing then s
  else
    let groups := (((slotsOf s c).map fun sl => (slot s c sl).hdr).filter fun h => h.lslot != 0 && h.lcube == cubeId s).map fun h => (h.part, h.lslot)
    let plans := groups.eraseDups.map fun m => (m, groupPlans s m.1 m.2)
    let s := (slotsOf s c).foldl (fun s sl => sealSlot (sealHeld s c sl) c sl) s
    let s := sealArrivals (sealGranules (sealHome (sealEngines s c) c) c) c
    let s := updCore s c fun k => { k with sealing := false, isSealed := true }
    plans.foldl (fun s m => watchdogEvent s m.1.1 m.1.2 m.2) s

def execSealComplete (c : Nat) (s : State) : Result := .next (sealComplete s c)

end Sys2Proof.Machine
end

