-- ==== Sys2Proof/Machine/Auto.lean ====
section
/-! DEFINITION. What happens between issues: the internal events that nothing outside the cube and no elapsed time decides, the
choice of the stream that issues next, and the items of R381 that prevent an issue. -/

namespace Sys2Proof.Machine

/-! ## The stream that issues -/

/-- The stream of key `k` may issue: its traveller is RUNNING and nothing stops its core (R22, R252, R382, R392). -/
def mayIssue (s : State) (k : Nat) : Bool :=
  let c := k / 2
  let x := k % 2 == 1
  (stream s c x).run.isSome && coresGo s && !(core s c).isSealed && !(core s c).sealing
    && !(core s c).hardHalt && !(x && (chan s c).stopping)

/-- Of two streams the one that issues first: the earlier issue cycle (R52), then the lower core id, as for the requests of one
cycle of R120 and R235; of a channel core's two streams the A-stream. -/
def sooner (s : State) (a b : Nat) : Nat :=
  let t (k : Nat) : Nat := max s.cycle (stream s (k / 2) (k % 2 == 1)).nextIssue
  if t a < t b then a else if t b < t a then b else min a b

/-- The stream that issues next. -/
def nextStream (s : State) : Nat :=
  match (s.streams.map (·.1)).filter (mayIssue s) with
  | [] => s.cur
  | k :: ks => ks.foldl (sooner s) k

/-! ## Internal events -/

/-- Positions of a list. -/
def places {α : Type} (l : List α) : List Nat := List.range l.length

/-- The completions of core `c`'s commands: of one cycle they come before what arrives (R180). -/
def completions (s : State) (c : Nat) : List (State → State) :=
  [(vecComplete · c), (matComplete · c)]
    ++ (places (core s c).courierQ).flatMap (fun k => [(courierComplete · c k), (courierFaultStep · c k)])
    ++ (if kindOf c = .channel then
        (places (chan s c).streamQ).flatMap (fun k => [(streamComplete · c k), (streamFaultStep · c k)])
          ++ (places (chan s c).bankCmds).map (fun k s => bankComplete s c k)
      else [])

/-- The other events of core `c` and its engines. -/
def coreEvents (s : State) (c : Nat) : List (State → State) :=
  [(switchIn · c false), (heldAdmit · c), (seqEmit · c), (vecStart · c), (courierStart · c), (dequeStart · c), (sealComplete · c),
   (coreMoveDone · c)]
    ++ (s.strandOrder.filter (·.1 == c)).map (fun e s => travellerSpill s c e.2)
    ++ (slotsOf s c).map (fun sl s => travellerSpill s c sl)
    ++ (if kindOf c = .channel then
        [(switchIn · c true), (streamStart · c), (bselApply · c), (xStopDone · c)]
          ++ ((chan s c).copyingRows).map (fun r s => rowSpared s (c - 6144) (r / 8192) (r % 8192))
      else [(stealSend · c)])

/-- Events of partition `p`. -/
def partEvents (s : State) (p : Nat) : List (State → State) :=
  [(submissionFetch · p), (launchPlacement · p), (spillAreaAdmit · p), (placeSpilled · p), (msgReturn · p)]
    ++ (((part s p).spill.filterMap fun i => match i with | .post q _ => some q | _ => none).eraseDups).map (fun q s => heldPost s p q)

/-- Events of what travels. -/
def flightEvents (s : State) : List (State → State) :=
  (places s.flights).flatMap (fun k =>
      [(travellerArrival · k), (taskArrival · k), (wakeDelivery · k), (migrationBounce · k), (stealServe · k), (stealReply · k)])
    ++ (places s.engWrites).flatMap (fun k => [(engWriteArrive · k), (rotApply · k)])
    ++ (places s.barEvents).map (fun k s => barEventArrive s k)
    ++ (places s.walks).map (fun k s => walkDone s k)
    ++ (places s.msgFlight).map (fun k s => msgArrive s k)
    ++ (places s.net.escort).map (fun k s => escortCompare s k)
    ++ (places s.net.inbox).flatMap (fun k => [(packetReceive · k), (packetTransit · k)])
    ++ (s.net.fetching.map fun k s => fetchDone s k)
    ++ s.net.lanterns.flatMap (fun e => [(roundStart · (e.1 / 16) (e.1 % 16)), (probeRelease · (e.1 / 16) (e.1 % 16))])
    ++ [portOut, (mgReply · 0), (mgReply · 1)]

/-- The flushes of the cycles that no issue and no addition can still fall into reach the purse table (R364). -/
def purseTable (s : State) : State :=
  let k := nextStream s
  takeFlushes s (if mayIssue s k then max s.cycle (stream s (k / 2) (k % 2 == 1)).nextIssue else s.cycle + 1)

/-- The internal events that may be due, in a fixed order: flags, what an invalidation waits for, completions, what travels (R180), copies before the waits that they may end (R172), waits,
stores, the homes of doubles in the order of the requests (R284), cores, quads, partitions, the map, the domains and the cube. -/
def internalEvents (s : State) : List (State → State) :=
  [settleDue, xlinvDone] ++ s.cores.flatMap (fun e => completions s e.1) ++ flightEvents s
    ++ s.cores.map (fun e s => copyAccept s e.1)
    ++ (liveSlots s).flatMap (fun e => [(completeWait · e.1 e.2), (migrationAck · e.1 e.2)])
    ++ s.streams.map (fun e s => drainOne s (e.1 / 2) (e.1 % 2 == 1))
    ++ (resvOrder s).map (fun pa s => grantHead s pa)
    ++ s.cores.flatMap (fun e => coreEvents s e.1)
    ++ s.quads.flatMap (fun e => [(matGrant · e.1), (quadWake · e.1)])
    ++ s.parts.flatMap (fun e => partEvents s e.1)
    ++ s.strandNotice.map (fun x s => strandNotice s x)
    ++ s.stripe.flatMap (fun e => [(granuleCopy · e.1), (copyAck · e.1)])
    ++ [fun s => { s with ownPending := [] }, memZeroed, writebackDone, srEntry, testStart, purseTable, authTurn]

/-- The first internal event that does something. -/
def firstEvent (s : State) : List (State → State) → Option State
  | [] => none
  | f :: fs => if f s = s then firstEvent s fs else some (f s)

/-- One internal event, when one is due. -/
def internalEvent (s : State) : Option State := firstEvent s (internalEvents s)

/-! ## Items that prevent an issue (R381) -/

/-- Something of R381 may prevent the issue of traveller (c, sl) at `pc`. -/
def anyPending (s : State) (c sl : Nat) (pc : Word) : Bool :=
  !(slot s c sl).pending.isEmpty || strandsNow s c sl || matchNow s c sl pc

/-- The first item of R381 that is taken in place of the issue, in the order engine fault, late trap, strand, cancel, watchdog, escort
mismatch, pre-emption, debug halt, address match; `none` when no item's conditions hold. -/
def pendingTaken (s : State) (c : Nat) (x : Bool) (sl : Nat) (pc : Word) : Option State :=
  let has (f : Pending → Bool) : Bool := (slot s c sl).pending.any f
  if has (fun i => match i with | .engine _ => true | _ => false) then some (engineFaultDelivery s c x)
  else if has (fun i => match i with | .late _ => true | _ => false) then some (lateTaken s c x)
  else if strandsNow s c sl then some (strandTaken s c x)
  else if has (· == .cancel) then some (cancelTaken s c x)
  else if has (· == .watchdog) then some (watchdogTaken s c x)
  else if has (fun i => match i with | .escort _ => true | _ => false) then some (escortTaken s c x)
  else if !x && preemptOk s c sl then some (preemptionTaken s c)
  else if has (· == .halt) then some (debugHaltTaken s c x)
  else if matchNow s c sl pc then some (addressMatchHalt s c x)
  else none

/-- The instruction trapped synchronously, or END retired: then it comes before every pending item (R381), but for an engine
fault, which takes the place of every trap of the instruction (R196, R243). -/
def comesFirst (s : State) (c sl : Nat) (r : Result) : Bool := match r with
  | .next s' => stateOf s' c sl == .ended
      || (stateOf s' c sl == .trapped && !(slot s c sl).pending.any fun i => match i with | .engine _ => true | _ => false)
  | _ => false

/-- The parked instruction was given a value, which a home had served: it completes before any item is taken (R438). -/
def servedFirst (s : State) (c sl : Nat) : Bool := match (slot s c sl).wait with
  | some { word := _, cond := _, reply := some (.value _ _) } => true
  | _ => false

/-- The result of the issue, or the item that is taken in its place (R381). -/
def issueOr (s : State) (c : Nat) (x : Bool) (sl : Nat) (pc : Word) (r : Result) : Result :=
  if anyPending s c sl pc && !servedFirst s c sl && !comesFirst s c sl r then
    (match pendingTaken s c x sl pc with
     | some s' => .next s'
     | none => r)
  else r

/-! ## The word that issues -/

/-- The traveller resumes after a wait that only lets its instruction start again: the word is read anew (R74, R135). -/
def startAgain (s : State) (c sl : Nat) : State := match (slot s c sl).wait with
  | some w => if w.reply = some .again then updSlot s c sl fun k => { k with wait := none } else s
  | none => leaveTurns s c sl

/-- The word that issues: of a parked instruction that was given a reply the word it parked with, else the word fetched. -/
def issueWord (s : State) (c : Nat) (x : Bool) (sl : Nat) : Nat := match (slot s c sl).wait with
  | some w => w.word
  | none => fetchAt s c x 0

/-- The fetch of the word that issues traps (R134). -/
def issueFetchTrap (s : State) (c : Nat) (x : Bool) (sl : Nat) : Option TrapInfo := match (slot s c sl).wait with
  | some _ => none
  | none => fetchTrapAt s c x 0

/-- The fetch traps, or the word is no instruction (R56, R59). -/
def fetchFails (s : State) (c : Nat) (x : Bool) (sl : Nat) (t : TrapInfo) : Result := .next (takeTrap s c x sl (stream s c x).pc t)


/-- After an issue the next stream is chosen, and an internal event may come first. -/
def afterIssue : Result → Result
  | .next s => .next { s with cur := nextStream s, stalled := true }
  | .fault f => .fault f
  | .refused r => .refused r

/-- Nothing issues: an internal event, another stream, or a cycle passes. -/
def idle (s : State) : State := match internalEvent s with
  | some s' => { s' with cur := nextStream s', stalled := false }
  | none => { s with cycle := s.cycle + 1, cur := nextStream s, stalled := false }

/-! ## A place for one instruction -/

/-- The stream a word runs on: the channel streams for their majors, a steward for the privileged ones, else a compute core. -/
def wordStream (w : Nat) : Nat :=
  let m := w / 2 ^ 23 % 64
  let f := w % 256
  if m = 0x39 then 12288
  else if m = 0x3A then 12289
  else if m = 0x1E ∧ (f = 1 ∨ 3 ≤ f) then 12800
  else 0

/-- A core with its code region, one slot of workspaces and a data region, on which a traveller runs at the start of its code. -/
def hostTraveller (s : State) (k : Nat) : State :=
  let c := k / 2
  let x := k % 2 == 1
  let sl := if kindOf c = .channel ∧ x = false then 1 else 0
  let s := { s with ws := .full, memDom := .on, comp := .run }
  let s := updCore s c fun q => { q with lmwsb := 0x2000, lmrgb := 0x4000, lmdtb := 0x4000, asg := true, isSealed := false, sealing := false,
                                         hardHalt := false }
  let s := if x then updChan s c fun q => { q with stopping := false } else s
  let b : Birth := { g := [], pc := BitVec.ofNat 64 (aliasBase c), ix := 0, ecx := 0, part := 0, lvl := if kindOf c = .steward then 2 else 0, bcore := c }
  let bytes := birthBytes b 1
  let s := setState (place s c sl bytes { lvl := b.lvl, birth := some (bytes, {}) }) c sl .running
  updStream s c x fun q => { q with run := some sl, pc := BitVec.ofNat 64 (aliasBase c), nextIssue := 0, pend := [], fbuf := [] }

end Sys2Proof.Machine
end

