-- ==== Sys2Proof/Machine/Flags.lean ====
section
/-! DEFINITION. The flag byte of an instruction that retires (R34, R47): flags are only ever set by instructions; RDFLAGS
and stores clear them. Results of scalar floating-point instructions (R98, R99, R108). -/

namespace Sys2Proof.Machine

/-- Flags `f` of an instruction of latency `lat`: they are set once its result is readable, those of an interlocked result at once
(R47). -/
def Ctx.raise (x : Ctx) (s : State) (f lat : Nat) : State :=
  if f = 0 then s
  else if lat = 0 then orFlags s x.c x.sl f
  else updStream s x.c x.x fun k => { k with pend := k.pend ++ [{ reg := 32 + f, old := 0, oldPoison := false, ready := x.t + lat }] }

/-- Flags of an earlier instruction are not yet set: an access to FLAGS is held till they are (R47). -/
def Ctx.flagsWait (x : Ctx) (s : State) : Bool := (stream s x.c x.x).pend.any (·.isFlags)

/-- Write a float result and raise its flags, unless an operand of `rs` is poisoned: then 0, poison and no flag (R99). -/
def Ctx.wrFloat (x : Ctx) (s : State) (rs : List Nat) (d : BitVec 5) (r : FRes) (lat : Nat) : State :=
  if x.anyPoison s rs then x.wr s (rn d) 0 lat true
  else x.raise (x.wr s (rn d) (BitVec.ofNat 64 r.bits) lat) r.flags lat

/-- The format of a scalar operand and its encoding: bits [31:0] for FP32 (R98, R108). -/
def fpu (t : BitVec 1) : Fmt := if t = 0 then fp32 else fp64
def fpuBits (t : BitVec 1) (v : Word) : Nat := if t = 0 then v.toNat % 2 ^ 32 else v.toNat
/-- Latency of FPU and FMA results (R53). -/
def fpuLat (t : BitVec 1) : Nat := if t = 0 then 4 else 6

/-- The rounding mode of the traveller for operations that are no conversions (R36). -/
def Ctx.rm (x : Ctx) (s : State) : Rm := rmOf (frmOf s x.c x.sl)
/-- The rounding mode of the traveller for a scalar conversion of encoding `v`: draw index 0 (R37). -/
def Ctx.rmc (x : Ctx) (s : State) (v : Nat) : Rm :=
  rmConv (frmOf s x.c x.sl) (slot s x.c x.sl).hdr.key.toNat x.pc.toNat 0 v
def Ctx.sat (x : Ctx) (s : State) : Bool := satOf (frmOf s x.c x.sl)

end Sys2Proof.Machine
end

