-- ==== Sys2Proof/Machine/Fpu.lean ====
section
/-! DEFINITION. Scalar floating point (R108 to R111). -/

namespace Sys2Proof.Machine

/-- The word of an FPU form: the format is bit 6. -/
def wordF (m : Nat) (w : BitVec 3) (d a b : BitVec 5) (t : BitVec 1) : Nat := word3 m w d a b + t.toNat * 2 ^ 6

/-- An FPU instruction of two operands; latency 0 for the interlocked ones (R53, R108). -/
def fpu3 (m : Nat) (w : BitVec 3) (d a b : BitVec 5) (t : BitVec 1) (s : State) (rounds : Bool) (lat : Nat)
    (f : Fmt → Rm → Nat → Nat → FRes) : Result :=
  issue { word := wordF m w d a b t, legal := destOk d, rounds := rounds, reads := [rn a, rn b], fare := 3 } s fun x s =>
    .next (x.wrFloat s [rn a, rn b] d (f (fpu t) (x.rm s) (fpuBits t (x.rd s (rn a))) (fpuBits t (x.rd s (rn b)))) lat)

/-- An FPU instruction of one operand. -/
def fpu2 (m : Nat) (w : BitVec 3) (d a : BitVec 5) (t : BitVec 1) (s : State) (rounds : Bool) (lat : Nat)
    (f : Ctx → State → Fmt → Word → FRes) : Result :=
  issue { word := wordF m w d a 0 t, legal := destOk d, rounds := rounds, reads := [rn a], fare := 3 } s fun x s =>
    .next (x.wrFloat s [rn a] d (f x s (fpu t) (x.rd s (rn a))) lat)

/-- The encoding of a float operand in its format. -/
def Fmt.enc (f : Fmt) (v : Word) : Nat := v.toNat % 2 ^ f.width

def execFadd (w : BitVec 3) (d a b : BitVec 5) (t : BitVec 1) (s : State) : Result :=
  fpu3 0x06000000 w d a b t s true (fpuLat t) fun f rm a b => fadd f a b rm
def execFsub (w : BitVec 3) (d a b : BitVec 5) (t : BitVec 1) (s : State) : Result :=
  fpu3 0x06000001 w d a b t s true (fpuLat t) fun f rm a b => fsub f a b rm
def execFmul (w : BitVec 3) (d a b : BitVec 5) (t : BitVec 1) (s : State) : Result :=
  fpu3 0x06000002 w d a b t s true (fpuLat t) fun f rm a b => fmul f a b rm
def execFdiv (w : BitVec 3) (d a b : BitVec 5) (t : BitVec 1) (s : State) : Result :=
  fpu3 0x06000003 w d a b t s true 0 fun f rm a b => fdiv f a b rm
def execFsqrt (w : BitVec 3) (d a : BitVec 5) (t : BitVec 1) (s : State) : Result :=
  fpu2 0x06000004 w d a t s true 0 fun x s f v => fsqrt f (f.enc v) (x.rm s)
def execFmin (w : BitVec 3) (d a b : BitVec 5) (t : BitVec 1) (s : State) : Result :=
  fpu3 0x06000005 w d a b t s false (fpuLat t) fun f _ a b => fminmax f false a b
def execFmax (w : BitVec 3) (d a b : BitVec 5) (t : BitVec 1) (s : State) : Result :=
  fpu3 0x06000006 w d a b t s false (fpuLat t) fun f _ a b => fminmax f true a b
def execFeq (w : BitVec 3) (d a b : BitVec 5) (t : BitVec 1) (s : State) : Result :=
  fpu3 0x06000007 w d a b t s false (fpuLat t) fun f _ a b => fcmp f 0 a b
def execFlt (w : BitVec 3) (d a b : BitVec 5) (t : BitVec 1) (s : State) : Result :=
  fpu3 0x06000008 w d a b t s false (fpuLat t) fun f _ a b => fcmp f 1 a b
def execFle (w : BitVec 3) (d a b : BitVec 5) (t : BitVec 1) (s : State) : Result :=
  fpu3 0x06000009 w d a b t s false (fpuLat t) fun f _ a b => fcmp f 2 a b
def execFclass (w : BitVec 3) (d a : BitVec 5) (t : BitVec 1) (s : State) : Result :=
  fpu2 0x0600000A w d a t s false (fpuLat t) fun _ _ f v => { bits := fclass f (f.enc v) }

/-- A float to a 64-bit integer in [lo, hi] (R38). -/
def fToInt (x : Ctx) (s : State) (f : Fmt) (v : Word) (lo hi : Int) : FRes :=
  let r := ftoi f (f.enc v) lo hi (x.rmc s (f.enc v))
  { bits := (BitVec.ofInt 64 r.1).toNat, flags := r.2 }
def execFcvti (w : BitVec 3) (d a : BitVec 5) (t : BitVec 1) (s : State) : Result :=
  fpu2 0x0600000B w d a t s true (fpuLat t) fun x s f v => fToInt x s f v (-(2 ^ 63)) (2 ^ 63 - 1)
def execFcvtu (w : BitVec 3) (d a : BitVec 5) (t : BitVec 1) (s : State) : Result :=
  fpu2 0x0600000C w d a t s true (fpuLat t) fun x s f v => fToInt x s f v 0 (2 ^ 64 - 1)
def execFcvtf (w : BitVec 3) (d a : BitVec 5) (t : BitVec 1) (s : State) : Result :=
  fpu2 0x0600000D w d a t s true (fpuLat t) fun x s f v => itof f v.toInt (x.sat s) (x.rmc s v.toNat)
def execFcvtfu (w : BitVec 3) (d a : BitVec 5) (t : BitVec 1) (s : State) : Result :=
  fpu2 0x0600000E w d a t s true (fpuLat t) fun x s f v => itof f (v.toNat : Int) (x.sat s) (x.rmc s v.toNat)
/-- FCVTW: `.f32` widens to FP64, `.f64` narrows to FP32 and saturates under FRM.SAT (R108, R109). -/
def execFcvtw (w : BitVec 3) (d a : BitVec 5) (t : BitVec 1) (s : State) : Result :=
  fpu2 0x0600000F w d a t s true (fpuLat t) fun x s f v =>
    fcvt f (if t = 0 then fp64 else fp32) (f.enc v) (x.sat s) (x.rmc s (f.enc v))
def execFneg (w : BitVec 3) (d a : BitVec 5) (t : BitVec 1) (s : State) : Result :=
  fpu2 0x06000010 w d a t s false (fpuLat t) fun _ _ f v => fsign f 0 (f.enc v)
def execFabs (w : BitVec 3) (d a : BitVec 5) (t : BitVec 1) (s : State) : Result :=
  fpu2 0x06000011 w d a t s false (fpuLat t) fun _ _ f v => fsign f 1 (f.enc v)

/-- An FMA instruction: rd is the addend and the destination (R111). -/
def fma3 (m : Nat) (w : BitVec 3) (d a b : BitVec 5) (t : BitVec 1) (s : State) (negP negC : Bool) : Result :=
  issue { word := word3 m w d a b, legal := destOk d, rounds := true, reads := [rn a, rn b, rn d], fare := 3 } s fun x s =>
    .next (x.wrFloat s [rn a, rn b, rn d] d
      (ffma (fpu t) (fpuBits t (x.rd s (rn a))) (fpuBits t (x.rd s (rn b))) (fpuBits t (x.rd s (rn d))) negP negC (x.rm s))
      (fpuLat t))

def execFmas (w : BitVec 3) (d a b : BitVec 5) (s : State) : Result := fma3 0x06800000 w d a b 0 s false false
def execFmad (w : BitVec 3) (d a b : BitVec 5) (s : State) : Result := fma3 0x06800001 w d a b 1 s false false
def execFnmas (w : BitVec 3) (d a b : BitVec 5) (s : State) : Result := fma3 0x06800002 w d a b 0 s true false
def execFnmad (w : BitVec 3) (d a b : BitVec 5) (s : State) : Result := fma3 0x06800003 w d a b 1 s true false
def execFmss (w : BitVec 3) (d a b : BitVec 5) (s : State) : Result := fma3 0x06800004 w d a b 0 s false true
def execFmsd (w : BitVec 3) (d a b : BitVec 5) (s : State) : Result := fma3 0x06800005 w d a b 1 s false true

end Sys2Proof.Machine
end

