-- ==== Sys2Proof/Machine/Info.lean ====
section
/-! DEFINITION. The INFO instructions (R95). -/

namespace Sys2Proof.Machine

/-- An INFO instruction (R95); `ok` is its part of R59 step 1. -/
def info (fn : Nat) (w : BitVec 3) (d a b : BitVec 5) (reads : List Nat) (s : State) (f : Ctx → State → Act) (ok : Bool := true) : Result :=
  issue { word := word3 (0x15800000 + fn) w d a b, legal := destOk d && ok, reads := reads, sync := reads } s f

/-- HOMEOF's result. -/
def HomeInfo.word (h : HomeInfo) : Word :=
  BitVec.ofNat 64 (h.core + h.kind * 2 ^ 13 + h.cube * 2 ^ 16 + b2n h.lost * 2 ^ 28 + b2n h.rstr * 2 ^ 29)

def execHomeof (w : BitVec 3) (d a : BitVec 5) (s : State) : Result :=
  info 0 w d a 0 [rn a] s fun x s =>
    let va := ea56 (x.rd s (rn a))
    let p := (slot s x.c x.sl).hdr.part
    match findHome s x.c x.x p va false with
    | .trap t => .trap t
    | .miss => .park 6 (.walk (BitVec.ofNat 64 va)) (askWalk s x.c x.sl p va)
    | .found h => .next (x.wr (tlbTouch s x.c p va) (rn d) h.word 1)

/-- An INFO instruction that reads a value. -/
def infoR (fn : Nat) (w : BitVec 3) (d : BitVec 5) (s : State) (lat : Nat) (f : Ctx → State → Word) : Result :=
  info fn w d 0 0 [] s fun x s => .next (x.wr s (rn d) (f x s) lat)

def execCubeof (w : BitVec 3) (d : BitVec 5) (s : State) : Result := infoR 1 w d s 1 fun _ s => BitVec.ofNat 64 (cubeId s)
def execVquery (w : BitVec 3) (d : BitVec 5) (s : State) : Result := infoR 2 w d s 1 fun _ _ => 256
def execRdcyc (w : BitVec 3) (d : BitVec 5) (s : State) : Result := infoR 3 w d s 1 fun _ s => BitVec.ofNat 64 s.cycle
def execRdpurse (w : BitVec 3) (d : BitVec 5) (s : State) : Result :=
  infoR 4 w d s 0 fun x s =>
    if ecxOf s x.c x.sl = 0 then 0x7FFFFFFFFFFFFFFF else enc64 (purse s (ecxOf s x.c x.sl)).purse
def execRdfare (w : BitVec 3) (d : BitVec 5) (s : State) : Result :=
  infoR 5 w d s 0 fun x s => BitVec.ofNat 64 ((slot s x.c x.sl).hdr.fare.toNat / 16000)
def execRdfrm (w : BitVec 3) (d : BitVec 5) (s : State) : Result := infoR 6 w d s 1 fun x s => BitVec.ofNat 64 (frmOf s x.c x.sl)

/-- The value of register field `r` for the traveller that issues is no legal FRM value (R35). -/
def wrongFrm (s : State) (r : Nat) : Bool := match ctxOf s with
  | some x => frmIllegal ((x.rd s r).toNat % 256)
  | none => false

/-- WRFRM: an illegal value traps in step 1 of R59 and leaves FRM unchanged (R35). -/
def execWrfrm (w : BitVec 3) (d a : BitVec 5) (s : State) : Result :=
  info 7 w d a 0 [rn a] s (fun x s =>
    let v := (x.rd s (rn a)).toNat % 256
    .next (x.wr (wsWr s x.c x.sl 0xF7 1 v) (rn d) (BitVec.ofNat 64 (frmOf s x.c x.sl)))) (!wrongFrm s (rn a))

/-- RDFLAGS: it then clears the flags rb names. -/
def execRdflags (w : BitVec 3) (d b : BitVec 5) (s : State) : Result :=
  info 8 w d 0 b [rn b] s fun x s =>
    if x.flagsWait s then .hold s else
    let old := flagsOf s x.c x.sl
    let m := (x.rd s (rn b)).toNat % 64
    .next (x.wr (wsWr s x.c x.sl 0xF6 1 (old &&& (255 - m))) (rn d) (BitVec.ofNat 64 old) 1)

end Sys2Proof.Machine
end

