-- ==== Sys2Proof/Machine/LoadStore.lean ====
section
/-! DEFINITION. Loads, stores, LFE and SFE (R112 to R119). -/

namespace Sys2Proof.Machine

/-- No fare of its own: the class comes from what the address reaches (R113). -/
def noFare : Nat := 99

/-- A load (R112). -/
def load (m : Nat) (w : BitVec 3) (d a : BitVec 5) (i : BitVec 13) (s : State) (size : Nat) (ext : Nat → Word) : Result :=
  issue { word := wordI m w d a i, legal := destOk d, reads := [rn a], sync := [rn a], fare := noFare } s fun x s =>
    loadBody x s (ea56 (x.rd s (rn a) + simm i)) size (rn d) ext false

/-- A store (R112). -/
def store (m : Nat) (w : BitVec 3) (rs a : BitVec 5) (i : BitVec 13) (s : State) (size : Nat) : Result :=
  issue { word := wordI m w rs a i, reads := [rn a, rn rs], sync := [rn a], fare := noFare } s fun x s =>
    storeBody x s (ea56 (x.rd s (rn a) + simm i)) size (rn rs) (x.rd s (rn rs)) (x.poisoned s (rn rs)) .store

def zext (v : Nat) : Word := BitVec.ofNat 64 v
def sext32 (v : Nat) : Word := (BitVec.ofNat 32 v).signExtend 64
def sext16 (v : Nat) : Word := (BitVec.ofNat 16 v).signExtend 64
def sext8 (v : Nat) : Word := (BitVec.ofNat 8 v).signExtend 64

def execLd (w : BitVec 3) (d a : BitVec 5) (i : BitVec 13) (s : State) : Result := load 0x08000000 w d a i s 8 zext
def execLw (w : BitVec 3) (d a : BitVec 5) (i : BitVec 13) (s : State) : Result := load 0x08800000 w d a i s 4 sext32
def execLwu (w : BitVec 3) (d a : BitVec 5) (i : BitVec 13) (s : State) : Result := load 0x09000000 w d a i s 4 zext
def execLh (w : BitVec 3) (d a : BitVec 5) (i : BitVec 13) (s : State) : Result := load 0x09800000 w d a i s 2 sext16
def execLhu (w : BitVec 3) (d a : BitVec 5) (i : BitVec 13) (s : State) : Result := load 0x0A000000 w d a i s 2 zext
def execLb (w : BitVec 3) (d a : BitVec 5) (i : BitVec 13) (s : State) : Result := load 0x0A800000 w d a i s 1 sext8
def execLbu (w : BitVec 3) (d a : BitVec 5) (i : BitVec 13) (s : State) : Result := load 0x0B000000 w d a i s 1 zext
def execSd (w : BitVec 3) (rs a : BitVec 5) (i : BitVec 13) (s : State) : Result := store 0x0C000000 w rs a i s 8
def execSw (w : BitVec 3) (rs a : BitVec 5) (i : BitVec 13) (s : State) : Result := store 0x0C800000 w rs a i s 4
def execSh (w : BitVec 3) (rs a : BitVec 5) (i : BitVec 13) (s : State) : Result := store 0x0D000000 w rs a i s 2
def execSb (w : BitVec 3) (rs a : BitVec 5) (i : BitVec 13) (s : State) : Result := store 0x0D800000 w rs a i s 1

/-- The immediate field of LFE and SFE (R117). -/
def feImm (c : BitVec 1) (z : BitVec 2) (o : BitVec 10) : BitVec 13 := BitVec.ofNat 13 (c.toNat * 2 ^ 12 + z.toNat * 2 ^ 10 + o.toNat)

/-- LFE (R117, R118). -/
def execLfe (w : BitVec 3) (d a : BitVec 5) (c : BitVec 1) (z : BitVec 2) (o : BitVec 10) (s : State) : Result :=
  issue { word := wordI 0x0B800000 w d a (feImm c z o), legal := destOk d, reads := [rn a], sync := [rn a], fare := noFare } s
    fun x s => lfeBody x s (ea56 (x.rd s (rn a) + BitVec.ofNat 64 o.toNat)) (2 ^ z.toNat) (rn d) (c == 1)

/-- SFE (R117, R119). -/
def execSfe (w : BitVec 3) (rs a : BitVec 5) (f : BitVec 1) (z : BitVec 2) (o : BitVec 10) (s : State) : Result :=
  issue { word := wordI 0x0E000000 w rs a (feImm f z o), reads := [rn a, rn rs], sync := [rn a, rn rs], fare := noFare } s
    fun x s => sfeBody x s (ea56 (x.rd s (rn a) + BitVec.ofNat 64 o.toNat)) (2 ^ z.toNat) (x.rd s (rn rs)) (f == 1)

end Sys2Proof.Machine
end

