-- ==== Sys2Proof/Machine/MulBit.lean ====
section
/-! DEFINITION. Multiplies, divides and bit instructions (R102, R103). -/

namespace Sys2Proof.Machine

/-- Signed quotient (R102, R103). -/
def divS (a b : Word) : Word := if b = 0 then BitVec.allOnes 64 else BitVec.ofInt 64 (a.toInt.tdiv b.toInt)
def divU (a b : Word) : Word := if b = 0 then BitVec.allOnes 64 else BitVec.ofNat 64 (a.toNat / b.toNat)
/-- Signed remainder (R102, R103). -/
def remS (a b : Word) : Word := if b = 0 then a else BitVec.ofInt 64 (a.toInt.tmod b.toInt)
def remU (a b : Word) : Word := if b = 0 then a else BitVec.ofNat 64 (a.toNat % b.toNat)

/-- Position and length of a bit field (R102). -/
def fieldPos (b : Word) : Nat := b.toNat % 64
def fieldLen (b : Word) : Nat := if b.toNat / 2 ^ 8 % 64 = 0 then 64 else b.toNat / 2 ^ 8 % 64
def extu (a b : Word) : Word := BitVec.ofNat 64 (a.toNat / 2 ^ fieldPos b % 2 ^ fieldLen b)
def insMask (b : Word) : Word := BitVec.ofNat 64 ((2 ^ fieldLen b - 1) * 2 ^ fieldPos b)

def execMul (w : BitVec 3) (d a b : BitVec 5) (s : State) : Result := int3 0x01000000 w d a b s 4 1 fun a b => a * b
def execMulh (w : BitVec 3) (d a b : BitVec 5) (s : State) : Result :=
  int3 0x01000001 w d a b s 4 1 fun a b => BitVec.ofInt 64 (a.toInt * b.toInt / 2 ^ 64)
def execMulhu (w : BitVec 3) (d a b : BitVec 5) (s : State) : Result :=
  int3 0x01000002 w d a b s 4 1 fun a b => BitVec.ofNat 64 (a.toNat * b.toNat / 2 ^ 64)
def execMulw (w : BitVec 3) (d a b : BitVec 5) (s : State) : Result := int3 0x01000003 w d a b s 4 1 fun a b => sx32 (a * b)
def execDiv (w : BitVec 3) (d a b : BitVec 5) (s : State) : Result := int3 0x01000004 w d a b s 0 2 divS
def execDivu (w : BitVec 3) (d a b : BitVec 5) (s : State) : Result := int3 0x01000005 w d a b s 0 2 divU
def execRem (w : BitVec 3) (d a b : BitVec 5) (s : State) : Result := int3 0x01000006 w d a b s 0 2 remS
def execRemu (w : BitVec 3) (d a b : BitVec 5) (s : State) : Result := int3 0x01000007 w d a b s 0 2 remU
def execBilv2 (w : BitVec 3) (d a b : BitVec 5) (s : State) : Result :=
  int3 0x01000008 w d a b s 1 0 fun a b => ofBits fun i => if i % 2 = 0 then a.getLsbD (i / 2) else b.getLsbD (i / 2)

/-- An instruction that also reads rd (R98). -/
def int3d (m : Nat) (w : BitVec 3) (d a b : BitVec 5) (s : State) (f : Word → Word → Word → Word) : Result :=
  issue { word := word3 m w d a b, legal := destOk d, reads := [rn a, rn b, rn d] } s fun x s =>
    .next (x.wrFrom s [rn a, rn b, rn d] d (f (x.rd s (rn d)) (x.rd s (rn a)) (x.rd s (rn b))) 1)

def execBilv3 (w : BitVec 3) (d a b : BitVec 5) (s : State) : Result :=
  int3d 0x01000009 w d a b s fun z x y => ofBits fun i =>
    decide (i < 63) && (if i % 3 = 0 then x.getLsbD (i / 3) else if i % 3 = 1 then y.getLsbD (i / 3) else z.getLsbD (i / 3))
def execBdil3 (w : BitVec 3) (d a b : BitVec 5) (s : State) : Result :=
  int3 0x0100000A w d a b s 1 0 fun a b => ofBits fun i =>
    decide (i < 21) && decide (b.toNat % 4 ≠ 3) && a.getLsbD (3 * i + b.toNat % 4)
def execExtu (w : BitVec 3) (d a b : BitVec 5) (s : State) : Result := int3 0x0100000B w d a b s 1 0 extu
def execExts (w : BitVec 3) (d a b : BitVec 5) (s : State) : Result :=
  int3 0x0100000C w d a b s 1 0 fun a b => sextBit (extu a b) (fieldLen b - 1)
def execIns (w : BitVec 3) (d a b : BitVec 5) (s : State) : Result :=
  int3d 0x0100000D w d a b s fun old a b => (old &&& ~~~(insMask b)) ||| ((a <<< fieldPos b) &&& insMask b)

end Sys2Proof.Machine
end

