-- ==== Sys2Proof/Machine/Pred.lean ====
section
/-! DEFINITION. The PRED instructions (R96, R97). -/

namespace Sys2Proof.Machine

/-- The word of a PRED form: the size code is bits [1:0]. -/
def wordP (m : Nat) (w : BitVec 3) (d a b : BitVec 5) (z : BitVec 2) : Nat := word3 m w d a b + z.toNat

/-- Element size in bytes and number of elements (R96). -/
def esize (z : BitVec 2) : Nat := 2 ^ z.toNat
def ecount (z : BitVec 2) : Nat := 256 / 2 ^ z.toNat

/-- The number whose bits below `n` are given. -/
def bitsBelow (n : Nat) (f : Nat → Bool) : Nat := (List.range n).foldl (fun v i => if f i then v + 2 ^ i else v) 0

/-- Element `i` of P is active (R96). -/
def elem (z : BitVec 2) (p : BitVec 256) (i : Nat) : Bool := p.getLsbD (esize z * i)

/-- P with every element given: all bits of an element alike (R96). -/
def predOfElems (z : BitVec 2) (f : Nat → Bool) : BitVec 256 := BitVec.ofNat 256 (bitsBelow 256 fun k => f (k / esize z))

/-- A PRED instruction on P alone. -/
def predP (fn : Nat) (w : BitVec 3) (z : BitVec 2) (s : State) (f : BitVec 256 → Nat → Bool) : Result :=
  issue { word := wordP (0x14800000 + 8 * fn) w 0 0 0 z } s fun x s =>
    .next (setPred s x.c x.sl (predOfElems z (f (predOf s x.c x.sl))))

/-- PWHILE: exact integers compared as signed (R97). -/
def execPwhile (w : BitVec 3) (a b : BitVec 5) (z : BitVec 2) (s : State) : Result :=
  issue { word := wordP 0x14800000 w 0 a b z, reads := [rn a, rn b], sync := [rn a, rn b] } s fun x s =>
    .next (setPred s x.c x.sl (predOfElems z fun i => decide ((x.rd s (rn a)).toInt + i < (x.rd s (rn b)).toInt)))
def execPsetall (w : BitVec 3) (z : BitVec 2) (s : State) : Result := predP 1 w z s fun _ _ => true
def execPclear (w : BitVec 3) (z : BitVec 2) (s : State) : Result := predP 2 w z s fun _ _ => false
def execPnot (w : BitVec 3) (z : BitVec 2) (s : State) : Result := predP 3 w z s fun p i => !elem z p i

/-- The local offset of a mask: aligned to its length and in this core's SRAM (R97). -/
def maskPlace (x : Ctx) (s : State) (va n : Nat) (k : Nat → Act) : Act :=
  if va % n ≠ 0 then .trap (trapAt .align va)
  else match (if va ≤ 0x00FFFEFFFFFFFFFF then none else some (reach s x.c x.x (slot s x.c x.sl).hdr.part va true false)) with
    | some (.own off) => k (sramPa x.c off)
    | _ => .trap (trapAt .bounds va)

/-- Read a mask of `n` bytes with the forwarding of R114; poison traps (R97). -/
def readMask (x : Ctx) (s : State) (va n : Nat) (k : State → Nat → Act) : Act :=
  maskPlace x s va n fun pa =>
    if pendMet x s (pa - sramBase x.c) n then .hold s
    else match forward (stream s x.c x.x).sb pa n with
    | .wait => .hold (drainOne s x.c x.x)
    | .value v p => if p then .trap (trapAt .poison (va - pa % 16)) else k s v
    | .none =>
      let s := findErrors s pa n 4 (ecxOf s x.c x.sl)
      match (granules pa n).find? (fun g => s.poison.contains g) with
      | some g => .trapIn s (trapAt .poison (va - pa % 16 + (g - pa / 16) * 16))
      | none => k s (rdN s.mem pa n)

/-- An instruction that combines P with a mask in memory (R97). -/
def predMask (fn : Nat) (w : BitVec 3) (a : BitVec 5) (z : BitVec 2) (s : State) (f : Bool → Bool → Bool) : Result :=
  issue { word := wordP (0x14800000 + 8 * fn) w 0 a 0 z, reads := [rn a], sync := [rn a] } s fun x s =>
    readMask x s (ea56 (x.rd s (rn a))) (ecount z / 8) fun s m =>
      .next (setPred s x.c x.sl (predOfElems z fun i => f (elem z (predOf s x.c x.sl) i) (m.testBit i)))

def execPload (w : BitVec 3) (a : BitVec 5) (z : BitVec 2) (s : State) : Result := predMask 4 w a z s fun _ m => m
def execPandm (w : BitVec 3) (a : BitVec 5) (z : BitVec 2) (s : State) : Result := predMask 8 w a z s fun p m => p && m
def execPorm (w : BitVec 3) (a : BitVec 5) (z : BitVec 2) (s : State) : Result := predMask 9 w a z s fun p m => p || m

/-- The store-buffer entries of a mask of `n` bytes: doubles, and a word for the shortest mask. -/
def maskEntries (x : Ctx) (va pa n v : Nat) : List SbEntry :=
  (List.range (max 1 (n / 8))).map fun j =>
    { slot := x.sl, op := .store, va := BitVec.ofNat 64 (va + 8 * j), pa := some (pa + 8 * j), size := min n 8,
      val := BitVec.ofNat 64 (v / 2 ^ (64 * j)), poison := false, window := false, counted := false }

/-- PSTORE writes through the store buffer (R97). A mask in the workspace region waits for the buffer and then stands,
as a store there does (R55). -/
def execPstore (w : BitVec 3) (a : BitVec 5) (z : BitVec 2) (s : State) : Result :=
  issue { word := wordP 0x14800028 w 0 a 0 z, reads := [rn a], sync := [rn a] } s fun x s =>
    let va := ea56 (x.rd s (rn a))
    let n := ecount z / 8
    maskPlace x s va n fun pa =>
      let v := bitsBelow (ecount z) (elem z (predOf s x.c x.sl))
      let es := maskEntries x va pa n v
      let off := pa - sramBase x.c
      if regionOf s x.c off = .workspace then ownWorkspaceStore x s off n v false id
      else if 16 < (stream s x.c x.x).sb.length + es.length then .hold (drainOne s x.c x.x)
      else .next (updStream s x.c x.x fun k => { k with sb := k.sb ++ es })

/-- A PRED instruction with a register result from P. -/
def predR (fn : Nat) (w : BitVec 3) (d : BitVec 5) (z : BitVec 2) (s : State) (f : List Nat → Word) : Result :=
  issue { word := wordP (0x14800000 + 8 * fn) w d 0 0 z, legal := destOk d } s fun x s =>
    .next (x.wr s (rn d) (f ((List.range (ecount z)).filter (elem z (predOf s x.c x.sl)))))

def execPcount (w : BitVec 3) (d : BitVec 5) (z : BitVec 2) (s : State) : Result :=
  predR 6 w d z s fun l => BitVec.ofNat 64 l.length
def execPfirst (w : BitVec 3) (d : BitVec 5) (z : BitVec 2) (s : State) : Result :=
  predR 7 w d z s fun l => match l with | [] => BitVec.allOnes 64 | i :: _ => BitVec.ofNat 64 i

/-- PGET: quarter ra[1:0] of the elements as a register (R97). -/
def execPget (w : BitVec 3) (d a : BitVec 5) (z : BitVec 2) (s : State) : Result :=
  issue { word := wordP 0x14800050 w d a 0 z, legal := destOk d, reads := [rn a], sync := [rn a] } s fun x s =>
    let q := (x.rd s (rn a)).toNat % 4
    .next (x.wr s (rn d) (ofBits fun j => decide (64 * q + j < ecount z) && elem z (predOf s x.c x.sl) (64 * q + j)))

/-- PPUT: quarter ra[1:0] of the elements from a register; the bits of the others stay as they are (R96, R97). -/
def execPput (w : BitVec 3) (a b : BitVec 5) (z : BitVec 2) (s : State) : Result :=
  issue { word := wordP 0x14800058 w 0 a b z, reads := [rn a, rn b], sync := [rn a, rn b] } s fun x s =>
    let q := (x.rd s (rn a)).toNat % 4
    let v := x.rd s (rn b)
    let p := predOf s x.c x.sl
    .next (setPred s x.c x.sl (BitVec.ofNat 256 (bitsBelow 256 fun k =>
      if k / esize z / 64 = q then v.getLsbD (k / esize z % 64) else p.getLsbD k)))

end Sys2Proof.Machine
end

