-- ==== Sys2Proof/Machine/VecInstr.lean ====
section
/-! DEFINITION. The vector instructions VARITH, VCONV, VRED, VPERM, VSFU, VMEM and VMX, one meaning each (R199 to R218). -/

namespace Sys2Proof.Machine

def execVadd (w : BitVec 3) (d a b : BitVec 5) (t : BitVec 3) (s : State) : Result := vecT 0x30 0 w d a b t s
def execVsub (w : BitVec 3) (d a b : BitVec 5) (t : BitVec 3) (s : State) : Result := vecT 0x30 1 w d a b t s
def execVmul (w : BitVec 3) (d a b : BitVec 5) (t : BitVec 3) (s : State) : Result := vecT 0x30 2 w d a b t s
def execVmin (w : BitVec 3) (d a b : BitVec 5) (t : BitVec 3) (s : State) : Result := vecT 0x30 3 w d a b t s
def execVmax (w : BitVec 3) (d a b : BitVec 5) (t : BitVec 3) (s : State) : Result := vecT 0x30 4 w d a b t s
def execVminu (w : BitVec 3) (d a b : BitVec 5) (t : BitVec 3) (s : State) : Result := vecT 0x30 5 w d a b t s
def execVmaxu (w : BitVec 3) (d a b : BitVec 5) (t : BitVec 3) (s : State) : Result := vecT 0x30 6 w d a b t s
def execVand (w : BitVec 3) (d a b : BitVec 5) (t : BitVec 3) (s : State) : Result := vecT 0x30 7 w d a b t s
def execVor (w : BitVec 3) (d a b : BitVec 5) (t : BitVec 3) (s : State) : Result := vecT 0x30 8 w d a b t s
def execVxor (w : BitVec 3) (d a b : BitVec 5) (t : BitVec 3) (s : State) : Result := vecT 0x30 9 w d a b t s
def execVsll (w : BitVec 3) (d a b : BitVec 5) (t : BitVec 3) (s : State) : Result := vecT 0x30 10 w d a b t s
def execVsrl (w : BitVec 3) (d a b : BitVec 5) (t : BitVec 3) (s : State) : Result := vecT 0x30 11 w d a b t s
def execVsra (w : BitVec 3) (d a b : BitVec 5) (t : BitVec 3) (s : State) : Result := vecT 0x30 12 w d a b t s
def execVadds (w : BitVec 3) (d a b : BitVec 5) (t : BitVec 3) (s : State) : Result := vecT 0x30 13 w d a b t s
def execVsubs (w : BitVec 3) (d a b : BitVec 5) (t : BitVec 3) (s : State) : Result := vecT 0x30 14 w d a b t s
def execVmulh (w : BitVec 3) (d a b : BitVec 5) (t : BitVec 3) (s : State) : Result := vecT 0x30 15 w d a b t s
def execVabsd (w : BitVec 3) (d a b : BitVec 5) (t : BitVec 3) (s : State) : Result := vecT 0x30 16 w d a b t s
def execVfma (w : BitVec 3) (d a b : BitVec 5) (t : BitVec 3) (s : State) : Result := vecT 0x30 17 w d a b t s
def execVfms (w : BitVec 3) (d a b : BitVec 5) (t : BitVec 3) (s : State) : Result := vecT 0x30 18 w d a b t s
def execVdiv (w : BitVec 3) (d a b : BitVec 5) (t : BitVec 3) (s : State) : Result := vecT 0x30 19 w d a b t s
def execVsqrt (w : BitVec 3) (d a : BitVec 5) (t : BitVec 3) (s : State) : Result := vecT 0x30 20 w d a 0 t s
def execVneg (w : BitVec 3) (d a : BitVec 5) (t : BitVec 3) (s : State) : Result := vecT 0x30 21 w d a 0 t s
def execVabs (w : BitVec 3) (d a : BitVec 5) (t : BitVec 3) (s : State) : Result := vecT 0x30 22 w d a 0 t s
def execVcmpeq (w : BitVec 3) (d a b : BitVec 5) (t : BitVec 3) (s : State) : Result := vecT 0x30 23 w d a b t s
def execVcmpne (w : BitVec 3) (d a b : BitVec 5) (t : BitVec 3) (s : State) : Result := vecT 0x30 24 w d a b t s
def execVcmplt (w : BitVec 3) (d a b : BitVec 5) (t : BitVec 3) (s : State) : Result := vecT 0x30 25 w d a b t s
def execVcmple (w : BitVec 3) (d a b : BitVec 5) (t : BitVec 3) (s : State) : Result := vecT 0x30 26 w d a b t s
def execVcmpltu (w : BitVec 3) (d a b : BitVec 5) (t : BitVec 3) (s : State) : Result := vecT 0x30 27 w d a b t s
def execVsel (w : BitVec 3) (d a b : BitVec 5) (t : BitVec 3) (s : State) : Result := vecT 0x30 28 w d a b t s
def execVdot (w : BitVec 3) (d a b : BitVec 5) (t : BitVec 3) (s : State) : Result := vecT 0x30 29 w d a b t s
/-- VCONV: destination code e, source code rs (R204). -/
def execVconv (w : BitVec 3) (d a : BitVec 5) (e rs : BitVec 4) (s : State) : Result :=
  vecF 0x31 (e.toNat * 16 + rs.toNat) w d a 0 s
def execVrsum (w : BitVec 3) (d a : BitVec 5) (t : BitVec 3) (s : State) : Result := vecT 0x32 0 w d a 0 t s
def execVrmax (w : BitVec 3) (d a : BitVec 5) (t : BitVec 3) (s : State) : Result := vecT 0x32 1 w d a 0 t s
def execVrmin (w : BitVec 3) (d a : BitVec 5) (t : BitVec 3) (s : State) : Result := vecT 0x32 2 w d a 0 t s
def execVrmaxi (w : BitVec 3) (d a : BitVec 5) (t : BitVec 3) (s : State) : Result := vecT 0x32 3 w d a 0 t s
def execVrmini (w : BitVec 3) (d a : BitVec 5) (t : BitVec 3) (s : State) : Result := vecT 0x32 4 w d a 0 t s
def execVrand (w : BitVec 3) (d a : BitVec 5) (t : BitVec 3) (s : State) : Result := vecT 0x32 5 w d a 0 t s
def execVror (w : BitVec 3) (d a : BitVec 5) (t : BitVec 3) (s : State) : Result := vecT 0x32 6 w d a 0 t s
def execVrxor (w : BitVec 3) (d a : BitVec 5) (t : BitVec 3) (s : State) : Result := vecT 0x32 7 w d a 0 t s
def execVbcast (w : BitVec 3) (d a : BitVec 5) (t : BitVec 3) (s : State) : Result := vecT 0x33 0 w d a 0 t s
def execVshuf (w : BitVec 3) (d a b : BitVec 5) (t : BitVec 3) (s : State) : Result := vecT 0x33 1 w d a b t s
def execVslup (w : BitVec 3) (d a b : BitVec 5) (t : BitVec 3) (s : State) : Result := vecT 0x33 2 w d a b t s
def execVsldn (w : BitVec 3) (d a b : BitVec 5) (t : BitVec 3) (s : State) : Result := vecT 0x33 3 w d a b t s
def execVzip (w : BitVec 3) (d a b : BitVec 5) (t : BitVec 3) (s : State) : Result := vecT 0x33 4 w d a b t s
def execVuzp (w : BitVec 3) (d a b : BitVec 5) (t : BitVec 3) (s : State) : Result := vecT 0x33 5 w d a b t s
def execVcmpr (w : BitVec 3) (d a : BitVec 5) (t : BitVec 3) (s : State) : Result := vecT 0x33 6 w d a 0 t s
def execVexpd (w : BitVec 3) (d a : BitVec 5) (t : BitVec 3) (s : State) : Result := vecT 0x33 7 w d a 0 t s
def execVmov (w : BitVec 3) (d a : BitVec 5) (t : BitVec 3) (s : State) : Result := vecT 0x33 8 w d a 0 t s
def execViota (w : BitVec 3) (d a : BitVec 5) (t : BitVec 3) (s : State) : Result := vecT 0x33 9 w d a 0 t s
def execVexp2 (w : BitVec 3) (d a : BitVec 5) (t : BitVec 3) (s : State) : Result := vecT 0x34 0 w d a 0 t s
def execVlog2 (w : BitVec 3) (d a : BitVec 5) (t : BitVec 3) (s : State) : Result := vecT 0x34 1 w d a 0 t s
def execVrsqrt (w : BitVec 3) (d a : BitVec 5) (t : BitVec 3) (s : State) : Result := vecT 0x34 2 w d a 0 t s
def execVrcp (w : BitVec 3) (d a : BitVec 5) (t : BitVec 3) (s : State) : Result := vecT 0x34 3 w d a 0 t s
def execVsin (w : BitVec 3) (d a : BitVec 5) (t : BitVec 3) (s : State) : Result := vecT 0x34 4 w d a 0 t s
def execVcos (w : BitVec 3) (d a : BitVec 5) (t : BitVec 3) (s : State) : Result := vecT 0x34 5 w d a 0 t s
def execVtanh (w : BitVec 3) (d a : BitVec 5) (t : BitVec 3) (s : State) : Result := vecT 0x34 6 w d a 0 t s
def execVsigm (w : BitVec 3) (d a : BitVec 5) (t : BitVec 3) (s : State) : Result := vecT 0x34 7 w d a 0 t s
def execVgather (w : BitVec 3) (d a b : BitVec 5) (t : BitVec 3) (s : State) : Result := vecT 0x36 0 w d a b t s
def execVscatter (w : BitVec 3) (d a b : BitVec 5) (t : BitVec 3) (s : State) : Result := vecT 0x36 1 w d a b t s
def execVamoadd (w : BitVec 3) (d a b : BitVec 5) (t : BitVec 3) (s : State) : Result := vecT 0x36 2 w d a b t s
def execVamomax (w : BitVec 3) (d a b : BitVec 5) (t : BitVec 3) (s : State) : Result := vecT 0x36 3 w d a b t s
def execVamomin (w : BitVec 3) (d a b : BitVec 5) (t : BitVec 3) (s : State) : Result := vecT 0x36 4 w d a b t s
def execVredadd (w : BitVec 3) (d a b : BitVec 5) (t : BitVec 3) (s : State) : Result := vecT 0x36 5 w d a b t s
def execVmxpack (w : BitVec 3) (d a b : BitVec 5) (s : State) : Result := vecF 0x37 0 w d a b s
def execVmxunpk (w : BitVec 3) (d a b : BitVec 5) (s : State) : Result := vecF 0x37 1 w d a b s
def execVscale (w : BitVec 3) (d a b : BitVec 5) (s : State) : Result := vecF 0x37 2 w d a b s

end Sys2Proof.Machine
end

