-- ==== Sys2Proof/Machine/Dispatch.lean ====
section
/-! DEFINITION. One arm for each constructor of Instr: a direct call of its meaning. -/

namespace Sys2Proof.Machine

def exec (i : Instr) (s : State) : Host.Outcome State Fault Refusal :=
  match i with
  | .add w d a b => Sys2Proof.Machine.execAdd w d a b s
  | .sub w d a b => Sys2Proof.Machine.execSub w d a b s
  | .and w d a b => Sys2Proof.Machine.execAnd w d a b s
  | .or w d a b => Sys2Proof.Machine.execOr w d a b s
  | .xor w d a b => Sys2Proof.Machine.execXor w d a b s
  | .andn w d a b => Sys2Proof.Machine.execAndn w d a b s
  | .orn w d a b => Sys2Proof.Machine.execOrn w d a b s
  | .xnor w d a b => Sys2Proof.Machine.execXnor w d a b s
  | .sll w d a b => Sys2Proof.Machine.execSll w d a b s
  | .srl w d a b => Sys2Proof.Machine.execSrl w d a b s
  | .sra w d a b => Sys2Proof.Machine.execSra w d a b s
  | .rol w d a b => Sys2Proof.Machine.execRol w d a b s
  | .ror w d a b => Sys2Proof.Machine.execRor w d a b s
  | .slt w d a b => Sys2Proof.Machine.execSlt w d a b s
  | .sltu w d a b => Sys2Proof.Machine.execSltu w d a b s
  | .min w d a b => Sys2Proof.Machine.execMin w d a b s
  | .max w d a b => Sys2Proof.Machine.execMax w d a b s
  | .minu w d a b => Sys2Proof.Machine.execMinu w d a b s
  | .maxu w d a b => Sys2Proof.Machine.execMaxu w d a b s
  | .seq w d a b => Sys2Proof.Machine.execSeq w d a b s
  | .sne w d a b => Sys2Proof.Machine.execSne w d a b s
  | .addw w d a b => Sys2Proof.Machine.execAddw w d a b s
  | .subw w d a b => Sys2Proof.Machine.execSubw w d a b s
  | .sllw w d a b => Sys2Proof.Machine.execSllw w d a b s
  | .srlw w d a b => Sys2Proof.Machine.execSrlw w d a b s
  | .sraw w d a b => Sys2Proof.Machine.execSraw w d a b s
  | .clz w d a => Sys2Proof.Machine.execClz w d a s
  | .ctz w d a => Sys2Proof.Machine.execCtz w d a s
  | .popc w d a => Sys2Proof.Machine.execPopc w d a s
  | .brev w d a => Sys2Proof.Machine.execBrev w d a s
  | .bswap w d a => Sys2Proof.Machine.execBswap w d a s
  | .sext w d a b => Sys2Proof.Machine.execSext w d a b s
  | .mul w d a b => Sys2Proof.Machine.execMul w d a b s
  | .mulh w d a b => Sys2Proof.Machine.execMulh w d a b s
  | .mulhu w d a b => Sys2Proof.Machine.execMulhu w d a b s
  | .mulw w d a b => Sys2Proof.Machine.execMulw w d a b s
  | .div w d a b => Sys2Proof.Machine.execDiv w d a b s
  | .divu w d a b => Sys2Proof.Machine.execDivu w d a b s
  | .rem w d a b => Sys2Proof.Machine.execRem w d a b s
  | .remu w d a b => Sys2Proof.Machine.execRemu w d a b s
  | .bilv2 w d a b => Sys2Proof.Machine.execBilv2 w d a b s
  | .bilv3 w d a b => Sys2Proof.Machine.execBilv3 w d a b s
  | .bdil3 w d a b => Sys2Proof.Machine.execBdil3 w d a b s
  | .extu w d a b => Sys2Proof.Machine.execExtu w d a b s
  | .exts w d a b => Sys2Proof.Machine.execExts w d a b s
  | .ins w d a b => Sys2Proof.Machine.execIns w d a b s
  | .addi w d a imm => Sys2Proof.Machine.execAddi w d a imm s
  | .andi w d a imm => Sys2Proof.Machine.execAndi w d a imm s
  | .ori w d a imm => Sys2Proof.Machine.execOri w d a imm s
  | .xori w d a imm => Sys2Proof.Machine.execXori w d a imm s
  | .slti w d a imm => Sys2Proof.Machine.execSlti w d a imm s
  | .sltiu w d a imm => Sys2Proof.Machine.execSltiu w d a imm s
  | .slli w d a h => Sys2Proof.Machine.execSlli w d a h s
  | .srli w d a h => Sys2Proof.Machine.execSrli w d a h s
  | .srai w d a h => Sys2Proof.Machine.execSrai w d a h s
  | .rori w d a h => Sys2Proof.Machine.execRori w d a h s
  | .himm w d imm => Sys2Proof.Machine.execHimm w d imm s
  | .pchi w d imm => Sys2Proof.Machine.execPchi w d imm s
  | .fadd w d a b t => Sys2Proof.Machine.execFadd w d a b t s
  | .fsub w d a b t => Sys2Proof.Machine.execFsub w d a b t s
  | .fmul w d a b t => Sys2Proof.Machine.execFmul w d a b t s
  | .fdiv w d a b t => Sys2Proof.Machine.execFdiv w d a b t s
  | .fsqrt w d a t => Sys2Proof.Machine.execFsqrt w d a t s
  | .fmin w d a b t => Sys2Proof.Machine.execFmin w d a b t s
  | .fmax w d a b t => Sys2Proof.Machine.execFmax w d a b t s
  | .feq w d a b t => Sys2Proof.Machine.execFeq w d a b t s
  | .flt w d a b t => Sys2Proof.Machine.execFlt w d a b t s
  | .fle w d a b t => Sys2Proof.Machine.execFle w d a b t s
  | .fclass w d a t => Sys2Proof.Machine.execFclass w d a t s
  | .fcvti w d a t => Sys2Proof.Machine.execFcvti w d a t s
  | .fcvtu w d a t => Sys2Proof.Machine.execFcvtu w d a t s
  | .fcvtf w d a t => Sys2Proof.Machine.execFcvtf w d a t s
  | .fcvtfu w d a t => Sys2Proof.Machine.execFcvtfu w d a t s
  | .fcvtw w d a t => Sys2Proof.Machine.execFcvtw w d a t s
  | .fneg w d a t => Sys2Proof.Machine.execFneg w d a t s
  | .fabs w d a t => Sys2Proof.Machine.execFabs w d a t s
  | .fmas w d a b => Sys2Proof.Machine.execFmas w d a b s
  | .fmad w d a b => Sys2Proof.Machine.execFmad w d a b s
  | .fnmas w d a b => Sys2Proof.Machine.execFnmas w d a b s
  | .fnmad w d a b => Sys2Proof.Machine.execFnmad w d a b s
  | .fmss w d a b => Sys2Proof.Machine.execFmss w d a b s
  | .fmsd w d a b => Sys2Proof.Machine.execFmsd w d a b s
  | .copy w d a b => Sys2Proof.Machine.execCopy w d a b s
  | .copy2d w d a b => Sys2Proof.Machine.execCopy2d w d a b s
  | .wincopy w d a => Sys2Proof.Machine.execWincopy w d a s
  | .putx w d a b => Sys2Proof.Machine.execPutx w d a b s
  | .getx w d a b => Sys2Proof.Machine.execGetx w d a b s
  | .mcast w d a b => Sys2Proof.Machine.execMcast w d a b s
  | .nred w d a b => Sys2Proof.Machine.execNred w d a b s
  | .cwait w a => Sys2Proof.Machine.execCwait w a s
  | .rinit w n a => Sys2Proof.Machine.execRinit w n a s
  | .rpush w n => Sys2Proof.Machine.execRpush w n s
  | .rpop w n => Sys2Proof.Machine.execRpop w n s
  | .rstat w n a => Sys2Proof.Machine.execRstat w n a s
  | .rwaitd w n a => Sys2Proof.Machine.execRwaitd w n a s
  | .rwaits w n a => Sys2Proof.Machine.execRwaits w n a s
  | .ld w d a imm => Sys2Proof.Machine.execLd w d a imm s
  | .lw w d a imm => Sys2Proof.Machine.execLw w d a imm s
  | .lwu w d a imm => Sys2Proof.Machine.execLwu w d a imm s
  | .lh w d a imm => Sys2Proof.Machine.execLh w d a imm s
  | .lhu w d a imm => Sys2Proof.Machine.execLhu w d a imm s
  | .lb w d a imm => Sys2Proof.Machine.execLb w d a imm s
  | .lbu w d a imm => Sys2Proof.Machine.execLbu w d a imm s
  | .lfe w d a c z o => Sys2Proof.Machine.execLfe w d a c z o s
  | .sd w rs a imm => Sys2Proof.Machine.execSd w rs a imm s
  | .sw w rs a imm => Sys2Proof.Machine.execSw w rs a imm s
  | .sh w rs a imm => Sys2Proof.Machine.execSh w rs a imm s
  | .sb w rs a imm => Sys2Proof.Machine.execSb w rs a imm s
  | .sfe w rs a f z o => Sys2Proof.Machine.execSfe w rs a f z o s
  | .enq w a b => Sys2Proof.Machine.execEnq w a b s
  | .deq w d a b => Sys2Proof.Machine.execDeq w d a b s
  | .qstat w d b => Sys2Proof.Machine.execQstat w d b s
  | .launch w a => Sys2Proof.Machine.execLaunch w a s
  | .cdone w d a b => Sys2Proof.Machine.execCdone w d a b s
  | .cchk w d a => Sys2Proof.Machine.execCchk w d a s
  | .cancel w a => Sys2Proof.Machine.execCancel w a s
  | .trap w a => Sys2Proof.Machine.execTrap w a s
  | .eret w a => Sys2Proof.Machine.execEret w a s
  | .brk w => Sys2Proof.Machine.execBrk w s
  | .wfm w d => Sys2Proof.Machine.execWfm w d s
  | .seal w a => Sys2Proof.Machine.execSeal w a s
  | .restart w => Sys2Proof.Machine.execRestart w s
  | .purseadd w d a b => Sys2Proof.Machine.execPurseadd w d a b s
  | .csrr w d n => Sys2Proof.Machine.execCsrr w d n s
  | .csrw w d a n => Sys2Proof.Machine.execCsrw w d a n s
  | .csrs w d a n => Sys2Proof.Machine.execCsrs w d a n s
  | .csrc w d a n => Sys2Proof.Machine.execCsrc w d a n s
  | .beq w a b o => Sys2Proof.Machine.execBeq w a b o s
  | .bne w a b o => Sys2Proof.Machine.execBne w a b o s
  | .blt w a b o => Sys2Proof.Machine.execBlt w a b o s
  | .bge w a b o => Sys2Proof.Machine.execBge w a b o s
  | .bltu w a b o => Sys2Proof.Machine.execBltu w a b o s
  | .bgeu w a b o => Sys2Proof.Machine.execBgeu w a b o s
  | .jal w o => Sys2Proof.Machine.execJal w o s
  | .jalr w d a imm => Sys2Proof.Machine.execJalr w d a imm s
  | .pbrAny w o => Sys2Proof.Machine.execPbrAny w o s
  | .pbrNone w o => Sys2Proof.Machine.execPbrNone w o s
  | .pbrAll w o => Sys2Proof.Machine.execPbrAll w o s
  | .pbrNall w o => Sys2Proof.Machine.execPbrNall w o s
  | .pwhile w a b z => Sys2Proof.Machine.execPwhile w a b z s
  | .psetall w z => Sys2Proof.Machine.execPsetall w z s
  | .pclear w z => Sys2Proof.Machine.execPclear w z s
  | .pnot w z => Sys2Proof.Machine.execPnot w z s
  | .pload w a z => Sys2Proof.Machine.execPload w a z s
  | .pstore w a z => Sys2Proof.Machine.execPstore w a z s
  | .pcount w d z => Sys2Proof.Machine.execPcount w d z s
  | .pfirst w d z => Sys2Proof.Machine.execPfirst w d z s
  | .pandm w a z => Sys2Proof.Machine.execPandm w a z s
  | .porm w a z => Sys2Proof.Machine.execPorm w a z s
  | .pget w d a z => Sys2Proof.Machine.execPget w d a z s
  | .pput w a b z => Sys2Proof.Machine.execPput w a b z s
  | .endT w => Sys2Proof.Machine.execEndT w s
  | .yield w => Sys2Proof.Machine.execYield w s
  | .goto w a => Sys2Proof.Machine.execGoto w a s
  | .spawn w d a => Sys2Proof.Machine.execSpawn w d a s
  | .spawnat w a b => Sys2Proof.Machine.execSpawnat w a b s
  | .pusht w d a => Sys2Proof.Machine.execPusht w d a s
  | .popt w d a => Sys2Proof.Machine.execPopt w d a s
  | .wake w a b => Sys2Proof.Machine.execWake w a b s
  | .park w => Sys2Proof.Machine.execPark w s
  | .homeof w d a => Sys2Proof.Machine.execHomeof w d a s
  | .cubeof w d => Sys2Proof.Machine.execCubeof w d s
  | .vquery w d => Sys2Proof.Machine.execVquery w d s
  | .rdcyc w d => Sys2Proof.Machine.execRdcyc w d s
  | .rdpurse w d => Sys2Proof.Machine.execRdpurse w d s
  | .rdfare w d => Sys2Proof.Machine.execRdfare w d s
  | .rdfrm w d => Sys2Proof.Machine.execRdfrm w d s
  | .wrfrm w d a => Sys2Proof.Machine.execWrfrm w d a s
  | .rdflags w d b => Sys2Proof.Machine.execRdflags w d b s
  | .vadd w d a b t => Sys2Proof.Machine.execVadd w d a b t s
  | .vsub w d a b t => Sys2Proof.Machine.execVsub w d a b t s
  | .vmul w d a b t => Sys2Proof.Machine.execVmul w d a b t s
  | .vmin w d a b t => Sys2Proof.Machine.execVmin w d a b t s
  | .vmax w d a b t => Sys2Proof.Machine.execVmax w d a b t s
  | .vminu w d a b t => Sys2Proof.Machine.execVminu w d a b t s
  | .vmaxu w d a b t => Sys2Proof.Machine.execVmaxu w d a b t s
  | .vand w d a b t => Sys2Proof.Machine.execVand w d a b t s
  | .vor w d a b t => Sys2Proof.Machine.execVor w d a b t s
  | .vxor w d a b t => Sys2Proof.Machine.execVxor w d a b t s
  | .vsll w d a b t => Sys2Proof.Machine.execVsll w d a b t s
  | .vsrl w d a b t => Sys2Proof.Machine.execVsrl w d a b t s
  | .vsra w d a b t => Sys2Proof.Machine.execVsra w d a b t s
  | .vadds w d a b t => Sys2Proof.Machine.execVadds w d a b t s
  | .vsubs w d a b t => Sys2Proof.Machine.execVsubs w d a b t s
  | .vmulh w d a b t => Sys2Proof.Machine.execVmulh w d a b t s
  | .vabsd w d a b t => Sys2Proof.Machine.execVabsd w d a b t s
  | .vfma w d a b t => Sys2Proof.Machine.execVfma w d a b t s
  | .vfms w d a b t => Sys2Proof.Machine.execVfms w d a b t s
  | .vdiv w d a b t => Sys2Proof.Machine.execVdiv w d a b t s
  | .vsqrt w d a t => Sys2Proof.Machine.execVsqrt w d a t s
  | .vneg w d a t => Sys2Proof.Machine.execVneg w d a t s
  | .vabs w d a t => Sys2Proof.Machine.execVabs w d a t s
  | .vcmpeq w d a b t => Sys2Proof.Machine.execVcmpeq w d a b t s
  | .vcmpne w d a b t => Sys2Proof.Machine.execVcmpne w d a b t s
  | .vcmplt w d a b t => Sys2Proof.Machine.execVcmplt w d a b t s
  | .vcmple w d a b t => Sys2Proof.Machine.execVcmple w d a b t s
  | .vcmpltu w d a b t => Sys2Proof.Machine.execVcmpltu w d a b t s
  | .vsel w d a b t => Sys2Proof.Machine.execVsel w d a b t s
  | .vdot w d a b t => Sys2Proof.Machine.execVdot w d a b t s
  | .vconv w d a e rs => Sys2Proof.Machine.execVconv w d a e rs s
  | .vrsum w d a t => Sys2Proof.Machine.execVrsum w d a t s
  | .vrmax w d a t => Sys2Proof.Machine.execVrmax w d a t s
  | .vrmin w d a t => Sys2Proof.Machine.execVrmin w d a t s
  | .vrmaxi w d a t => Sys2Proof.Machine.execVrmaxi w d a t s
  | .vrmini w d a t => Sys2Proof.Machine.execVrmini w d a t s
  | .vrand w d a t => Sys2Proof.Machine.execVrand w d a t s
  | .vror w d a t => Sys2Proof.Machine.execVror w d a t s
  | .vrxor w d a t => Sys2Proof.Machine.execVrxor w d a t s
  | .vbcast w d a t => Sys2Proof.Machine.execVbcast w d a t s
  | .vshuf w d a b t => Sys2Proof.Machine.execVshuf w d a b t s
  | .vslup w d a b t => Sys2Proof.Machine.execVslup w d a b t s
  | .vsldn w d a b t => Sys2Proof.Machine.execVsldn w d a b t s
  | .vzip w d a b t => Sys2Proof.Machine.execVzip w d a b t s
  | .vuzp w d a b t => Sys2Proof.Machine.execVuzp w d a b t s
  | .vcmpr w d a t => Sys2Proof.Machine.execVcmpr w d a t s
  | .vexpd w d a t => Sys2Proof.Machine.execVexpd w d a t s
  | .vmov w d a t => Sys2Proof.Machine.execVmov w d a t s
  | .viota w d a t => Sys2Proof.Machine.execViota w d a t s
  | .vexp2 w d a t => Sys2Proof.Machine.execVexp2 w d a t s
  | .vlog2 w d a t => Sys2Proof.Machine.execVlog2 w d a t s
  | .vrsqrt w d a t => Sys2Proof.Machine.execVrsqrt w d a t s
  | .vrcp w d a t => Sys2Proof.Machine.execVrcp w d a t s
  | .vsin w d a t => Sys2Proof.Machine.execVsin w d a t s
  | .vcos w d a t => Sys2Proof.Machine.execVcos w d a t s
  | .vtanh w d a t => Sys2Proof.Machine.execVtanh w d a t s
  | .vsigm w d a t => Sys2Proof.Machine.execVsigm w d a t s
  | .vloop w l a b => Sys2Proof.Machine.execVloop w l a b s
  | .vsync w => Sys2Proof.Machine.execVsync w s
  | .vgather w d a b t => Sys2Proof.Machine.execVgather w d a b t s
  | .vscatter w d a b t => Sys2Proof.Machine.execVscatter w d a b t s
  | .vamoadd w d a b t => Sys2Proof.Machine.execVamoadd w d a b t s
  | .vamomax w d a b t => Sys2Proof.Machine.execVamomax w d a b t s
  | .vamomin w d a b t => Sys2Proof.Machine.execVamomin w d a b t s
  | .vredadd w d a b t => Sys2Proof.Machine.execVredadd w d a b t s
  | .vmxpack w d a b => Sys2Proof.Machine.execVmxpack w d a b s
  | .vmxunpk w d a b => Sys2Proof.Machine.execVmxunpk w d a b s
  | .vscale w d a b => Sys2Proof.Machine.execVscale w d a b s
  | .macq w d a => Sys2Proof.Machine.execMacq w d a s
  | .mrel w d => Sys2Proof.Machine.execMrel w d s
  | .mma w d a b => Sys2Proof.Machine.execMma w d a b s
  | .mmr w d a b => Sys2Proof.Machine.execMmr w d a b s
  | .mzero w d => Sys2Proof.Machine.execMzero w d s
  | .mldc w d a b => Sys2Proof.Machine.execMldc w d a b s
  | .mstc w d a b => Sys2Proof.Machine.execMstc w d a b s
  | .msync w => Sys2Proof.Machine.execMsync w s
  | .maddc w d a b => Sys2Proof.Machine.execMaddc w d a b s
  | .mstat w d a b => Sys2Proof.Machine.execMstat w d a b s
  | .drd w a b => Sys2Proof.Machine.execDrd w a b s
  | .dwr w a b => Sys2Proof.Machine.execDwr w a b s
  | .dpush w d a b => Sys2Proof.Machine.execDpush w d a b s
  | .dpull w d a b => Sys2Proof.Machine.execDpull w d a b s
  | .aqput w a b => Sys2Proof.Machine.execAqput w a b s
  | .xqget w d a => Sys2Proof.Machine.execXqget w d a s
  | .dpref w a b => Sys2Proof.Machine.execDpref w a b s
  | .bsel w a b => Sys2Proof.Machine.execBsel w a b s
  | .aqget w d a => Sys2Proof.Machine.execAqget w d a s
  | .xqput w a b => Sys2Proof.Machine.execXqput w a b s
  | .bmac w d a b => Sys2Proof.Machine.execBmac w d a b s
  | .bred w d a b => Sys2Proof.Machine.execBred w d a b s
  | .bclone w d a b => Sys2Proof.Machine.execBclone w d a b s
  | .bfill w d a b => Sys2Proof.Machine.execBfill w d a b s
  | .bsync w => Sys2Proof.Machine.execBsync w s
  | .amoadd w d a b z => Sys2Proof.Machine.execAmoadd w d a b z s
  | .amoand w d a b z => Sys2Proof.Machine.execAmoand w d a b z s
  | .amoor w d a b z => Sys2Proof.Machine.execAmoor w d a b z s
  | .amoxor w d a b z => Sys2Proof.Machine.execAmoxor w d a b z s
  | .amomin w d a b z => Sys2Proof.Machine.execAmomin w d a b z s
  | .amomax w d a b z => Sys2Proof.Machine.execAmomax w d a b z s
  | .amominu w d a b z => Sys2Proof.Machine.execAmominu w d a b z s
  | .amomaxu w d a b z => Sys2Proof.Machine.execAmomaxu w d a b z s
  | .amoswap w d a b z => Sys2Proof.Machine.execAmoswap w d a b z s
  | .amocas w d a b z => Sys2Proof.Machine.execAmocas w d a b z s
  | .amofadd w d a b z => Sys2Proof.Machine.execAmofadd w d a b z s
  | .rsv w d a z => Sys2Proof.Machine.execRsv w d a z s
  | .rls w a b z => Sys2Proof.Machine.execRls w a b z s
  | .ldaq w d a p z => Sys2Proof.Machine.execLdaq w d a p z s
  | .strl w a b p z => Sys2Proof.Machine.execStrl w a b p z s
  | .redadd w a b z => Sys2Proof.Machine.execRedadd w a b z s
  | .redand w a b z => Sys2Proof.Machine.execRedand w a b z s
  | .redor w a b z => Sys2Proof.Machine.execRedor w a b z s
  | .redxor w a b z => Sys2Proof.Machine.execRedxor w a b z s
  | .redmin w a b z => Sys2Proof.Machine.execRedmin w a b z s
  | .redmax w a b z => Sys2Proof.Machine.execRedmax w a b z s
  | .redminu w a b z => Sys2Proof.Machine.execRedminu w a b z s
  | .redmaxu w a b z => Sys2Proof.Machine.execRedmaxu w a b z s
  | .redfadd w a b z => Sys2Proof.Machine.execRedfadd w a b z s
  | .fence w c => Sys2Proof.Machine.execFence w c s
  | .fencex w x y => Sys2Proof.Machine.execFencex w x y s
  | .ifence w => Sys2Proof.Machine.execIfence w s
  | .qfence w => Sys2Proof.Machine.execQfence w s
  | .drain w => Sys2Proof.Machine.execDrain w s
  | .acks w d => Sys2Proof.Machine.execAcks w d s
  | .binit w n a => Sys2Proof.Machine.execBinit w n a s
  | .barrive w n a => Sys2Proof.Machine.execBarrive w n a s
  | .bexpect w n a => Sys2Proof.Machine.execBexpect w n a s
  | .bwait w n a => Sys2Proof.Machine.execBwait w n a s
  | .btest w n a b => Sys2Proof.Machine.execBtest w n a b s
  | .binv w n => Sys2Proof.Machine.execBinv w n s
  | .lantern w d a => Sys2Proof.Machine.execLantern w d a s
  | .phase w d a => Sys2Proof.Machine.execPhase w d a s
  | .waystationPowerOn => Sys2Proof.Machine.execWaystationPowerOn s
  | .imageVerificationComplete => Sys2Proof.Machine.execImageVerificationComplete s
  | .bootTimeout => Sys2Proof.Machine.execBootTimeout s
  | .waystationReset => Sys2Proof.Machine.execWaystationReset s
  | .memoryRailGood => Sys2Proof.Machine.execMemoryRailGood s
  | .memoryZeroingComplete => Sys2Proof.Machine.execMemoryZeroingComplete s
  | .selfRefreshRequest => Sys2Proof.Machine.execSelfRefreshRequest s
  | .selfRefreshEntry => Sys2Proof.Machine.execSelfRefreshEntry s
  | .selfRefreshExit => Sys2Proof.Machine.execSelfRefreshExit s
  | .memoryReset => Sys2Proof.Machine.execMemoryReset s
  | .computeRailGood => Sys2Proof.Machine.execComputeRailGood s
  | .computeResetRelease => Sys2Proof.Machine.execComputeResetRelease s
  | .bringupComplete => Sys2Proof.Machine.execBringupComplete s
  | .quiesceRequest => Sys2Proof.Machine.execQuiesceRequest s
  | .quiesceResume => Sys2Proof.Machine.execQuiesceResume s
  | .computeReset => Sys2Proof.Machine.execComputeReset s
  | .computeRailOff => Sys2Proof.Machine.execComputeRailOff s
  | .channelCacheWritebackComplete => Sys2Proof.Machine.execChannelCacheWritebackComplete s
  | .dispatcherHeartbeat => Sys2Proof.Machine.execDispatcherHeartbeat s
  | .domainWatchdogExpiry => Sys2Proof.Machine.execDomainWatchdogExpiry s
  | .travellerSwitchIn core x => Sys2Proof.Machine.execTravellerSwitchIn core x s
  | .dequeTaskStart core => Sys2Proof.Machine.execDequeTaskStart core s
  | .parkWaitComplete core slot => Sys2Proof.Machine.execParkWaitComplete core slot s
  | .storeBufferDrain core x => Sys2Proof.Machine.execStoreBufferDrain core x s
  | .travellerArrival k => Sys2Proof.Machine.execTravellerArrival k s
  | .heldArrivalAdmit core => Sys2Proof.Machine.execHeldArrivalAdmit core s
  | .migrationAck core slot => Sys2Proof.Machine.execMigrationAck core slot s
  | .migrationBounce k => Sys2Proof.Machine.execMigrationBounce k s
  | .taskPacketArrival k => Sys2Proof.Machine.execTaskPacketArrival k s
  | .wakeDelivery k => Sys2Proof.Machine.execWakeDelivery k s
  | .stealRequestSend core => Sys2Proof.Machine.execStealRequestSend core s
  | .stealRequestServe k => Sys2Proof.Machine.execStealRequestServe k s
  | .stealReply k => Sys2Proof.Machine.execStealReply k s
  | .stealBackoffExpiry core => Sys2Proof.Machine.execStealBackoffExpiry core s
  | .preemptionTaken core => Sys2Proof.Machine.execPreemptionTaken core s
  | .travellerSpill core slot => Sys2Proof.Machine.execTravellerSpill core slot s
  | .spillAreaAdmit p => Sys2Proof.Machine.execSpillAreaAdmit p s
  | .strandNotice ctx => Sys2Proof.Machine.execStrandNotice ctx s
  | .cancelTaken core x => Sys2Proof.Machine.execCancelTaken core x s
  | .engineFaultDelivery core x => Sys2Proof.Machine.execEngineFaultDelivery core x s
  | .machineCheck core unit slot regs => Sys2Proof.Machine.execMachineCheck core unit slot regs s
  | .sealComplete core => Sys2Proof.Machine.execSealComplete core s
  | .debugHaltTaken core x => Sys2Proof.Machine.execDebugHaltTaken core x s
  | .addressMatchHalt core x => Sys2Proof.Machine.execAddressMatchHalt core x s
  | .submissionEntryFetch p => Sys2Proof.Machine.execSubmissionEntryFetch p s
  | .launchPlacement p => Sys2Proof.Machine.execLaunchPlacement p s
  | .quadGate q => Sys2Proof.Machine.execQuadGate q s
  | .quadWakeComplete q => Sys2Proof.Machine.execQuadWakeComplete q s
  | .selfTestDrainStart => Sys2Proof.Machine.execSelfTestDrainStart s
  | .selfTestStart => Sys2Proof.Machine.execSelfTestStart s
  | .selfTestDefer => Sys2Proof.Machine.execSelfTestDefer s
  | .selfTestComplete fails => Sys2Proof.Machine.execSelfTestComplete fails s
  | .coreScrub core => Sys2Proof.Machine.execCoreScrub core s
  | .coreMoveComplete core => Sys2Proof.Machine.execCoreMoveComplete core s
  | .groupWatchdogExpiry p entry => Sys2Proof.Machine.execGroupWatchdogExpiry p entry s
  | .heldPostWrite p q => Sys2Proof.Machine.execHeldPostWrite p q s
  | .enqueueCopyAccept core => Sys2Proof.Machine.execEnqueueCopyAccept core s
  | .doorbellSetTail port vf v => Sys2Proof.Machine.execDoorbellSetTail port vf v s
  | .doorbellSetHead port vf v => Sys2Proof.Machine.execDoorbellSetHead port vf v s
  | .functionLevelReset port vf => Sys2Proof.Machine.execFunctionLevelReset port vf s
  | .portHotReset port => Sys2Proof.Machine.execPortHotReset port s
  | .sequencerEmit core => Sys2Proof.Machine.execSequencerEmit core s
  | .vectorCommandStart core => Sys2Proof.Machine.execVectorCommandStart core s
  | .vectorCommandComplete core => Sys2Proof.Machine.execVectorCommandComplete core s
  | .matrixGrant q => Sys2Proof.Machine.execMatrixGrant q s
  | .matrixCommandComplete core => Sys2Proof.Machine.execMatrixCommandComplete core s
  | .rotationWriteApply k => Sys2Proof.Machine.execRotationWriteApply k s
  | .courierCommandStart core => Sys2Proof.Machine.execCourierCommandStart core s
  | .courierCommandComplete core k => Sys2Proof.Machine.execCourierCommandComplete core k s
  | .courierFault core k => Sys2Proof.Machine.execCourierFault core k s
  | .engineWriteArrival k => Sys2Proof.Machine.execEngineWriteArrival k s
  | .streamRecordStart core => Sys2Proof.Machine.execStreamRecordStart core s
  | .streamRecordComplete core k => Sys2Proof.Machine.execStreamRecordComplete core k s
  | .streamRecordFault core k => Sys2Proof.Machine.execStreamRecordFault core k s
  | .bselApply core => Sys2Proof.Machine.execBselApply core s
  | .bankCommandComplete core k => Sys2Proof.Machine.execBankCommandComplete core k s
  | .rowSpareComplete ch bank row => Sys2Proof.Machine.execRowSpareComplete ch bank row s
  | .scrubPass ch => Sys2Proof.Machine.execScrubPass ch s
  | .xTravellerGo core steward v => Sys2Proof.Machine.execXTravellerGo core steward v s
  | .xTravellerStop core steward => Sys2Proof.Machine.execXTravellerStop core steward s
  | .xTravellerStopComplete core => Sys2Proof.Machine.execXTravellerStopComplete core s
  | .lmBoundaryStage agent core which v => Sys2Proof.Machine.execLmBoundaryStage agent core which v s
  | .lmdtbCommit agent core v => Sys2Proof.Machine.execLmdtbCommit agent core v s
  | .imageLoad agent cores image => Sys2Proof.Machine.execImageLoad agent cores image s
  | .reservationGrant pa => Sys2Proof.Machine.execReservationGrant pa s
  | .reservationReleaseApply k => Sys2Proof.Machine.execReservationReleaseApply k s
  | .redApply core x => Sys2Proof.Machine.execRedApply core x s
  | .barrierEventApply k => Sys2Proof.Machine.execBarrierEventApply k s
  | .remoteBarrierEvent k => Sys2Proof.Machine.execRemoteBarrierEvent k s
  | .walkComplete k => Sys2Proof.Machine.execWalkComplete k s
  | .ptrootWrite agent p v => Sys2Proof.Machine.execPtrootWrite agent p v s
  | .xlinvGo agent v => Sys2Proof.Machine.execXlinvGo agent v s
  | .xlinvComplete => Sys2Proof.Machine.execXlinvComplete s
  | .mapChangeIssue agent c => Sys2Proof.Machine.execMapChangeIssue agent c s
  | .mapChangeSequence k => Sys2Proof.Machine.execMapChangeSequence k s
  | .mapChangeApply k => Sys2Proof.Machine.execMapChangeApply k s
  | .restripeGranuleCopy e => Sys2Proof.Machine.execRestripeGranuleCopy e s
  | .restripeCopyAck e => Sys2Proof.Machine.execRestripeCopyAck e s
  | .cubeLossTimer cube => Sys2Proof.Machine.execCubeLossTimer cube s
  | .meterFlushTimer m => Sys2Proof.Machine.execMeterFlushTimer m s
  | .leakageTick => Sys2Proof.Machine.execLeakageTick s
  | .refreshRow ch => Sys2Proof.Machine.execRefreshRow ch s
  | .kcorrUpdate measured => Sys2Proof.Machine.execKcorrUpdate measured s
  | .purseAddWrite agent ctx v => Sys2Proof.Machine.execPurseAddWrite agent ctx v s
  | .partcfgWrite agent p v => Sys2Proof.Machine.execPartcfgWrite agent p v s
  | .carveGo agent v => Sys2Proof.Machine.execCarveGo agent v s
  | .carveStop agent v => Sys2Proof.Machine.execCarveStop agent v s
  | .owndatWrite agent v => Sys2Proof.Machine.execOwndatWrite agent v s
  | .halldatRead agent => Sys2Proof.Machine.execHalldatRead agent s
  | .halldatWrite agent v => Sys2Proof.Machine.execHalldatWrite agent v s
  | .hccfgWrite agent p v => Sys2Proof.Machine.execHccfgWrite agent p v s
  | .respgWrite agent ch j v => Sys2Proof.Machine.execRespgWrite agent ch j v s
  | .lanternSlotWrite agent k half v => Sys2Proof.Machine.execLanternSlotWrite agent k half v s
  | .planEnable agent v => Sys2Proof.Machine.execPlanEnable agent v s
  | .dbgHaltTraveller => Sys2Proof.Machine.execDbgHaltTraveller s
  | .dbgResumeTraveller => Sys2Proof.Machine.execDbgResumeTraveller s
  | .dbgHaltLaunch => Sys2Proof.Machine.execDbgHaltLaunch s
  | .dbgResumeLaunch => Sys2Proof.Machine.execDbgResumeLaunch s
  | .linkRetrain l => Sys2Proof.Machine.execLinkRetrain l s
  | .linkTrainComplete l good => Sys2Proof.Machine.execLinkTrainComplete l good s
  | .linkTrainTimeout l => Sys2Proof.Machine.execLinkTrainTimeout l s
  | .laneFailure l lane => Sys2Proof.Machine.execLaneFailure l lane s
  | .linkSilenceTimeout l => Sys2Proof.Machine.execLinkSilenceTimeout l s
  | .linkReplay l => Sys2Proof.Machine.execLinkReplay l s
  | .routeUpdate cube es => Sys2Proof.Machine.execRouteUpdate cube es s
  | .heartbeatSend => Sys2Proof.Machine.execHeartbeatSend s
  | .packetTransit k => Sys2Proof.Machine.execPacketTransit k s
  | .packetReceive k => Sys2Proof.Machine.execPacketReceive k s
  | .connectionFetchComplete k => Sys2Proof.Machine.execConnectionFetchComplete k s
  | .e2eRetryTimeout k => Sys2Proof.Machine.execE2eRetryTimeout k s
  | .nakRetryResend k => Sys2Proof.Machine.execNakRetryResend k s
  | .nakAbsentReceive k => Sys2Proof.Machine.execNakAbsentReceive k s
  | .acknowledgementReceive k => Sys2Proof.Machine.execAcknowledgementReceive k s
  | .messageCountExpiry k => Sys2Proof.Machine.execMessageCountExpiry k s
  | .arrivalFilterExpiry k => Sys2Proof.Machine.execArrivalFilterExpiry k s
  | .bounceResend k => Sys2Proof.Machine.execBounceResend k s
  | .reduceContributionArrival k => Sys2Proof.Machine.execReduceContributionArrival k s
  | .multicastReceive k => Sys2Proof.Machine.execMulticastReceive k s
  | .planAbort k => Sys2Proof.Machine.execPlanAbort k s
  | .escortCompare k => Sys2Proof.Machine.execEscortCompare k s
  | .escortTimeout k => Sys2Proof.Machine.execEscortTimeout k s
  | .lanternRoundStart k => Sys2Proof.Machine.execLanternRoundStart k s
  | .lanternProbeArrival k => Sys2Proof.Machine.execLanternProbeArrival k s
  | .lanternProbeRelease k => Sys2Proof.Machine.execLanternProbeRelease k s
  | .lanternProbeReturn k => Sys2Proof.Machine.execLanternProbeReturn k s
  | .lanternTimeout k => Sys2Proof.Machine.execLanternTimeout k s
  | .lanternDoneMessage k => Sys2Proof.Machine.execLanternDoneMessage k s
  | .trapMessageArrival k => Sys2Proof.Machine.execTrapMessageArrival k s
  | .trapMessageSpillReturn p => Sys2Proof.Machine.execTrapMessageSpillReturn p s
  | .managementRead port => Sys2Proof.Machine.execManagementRead port s
  | .managementWrite port => Sys2Proof.Machine.execManagementWrite port s
  | .managementReply port => Sys2Proof.Machine.execManagementReply port s
  | .claim port => Sys2Proof.Machine.execClaim port s
  | .handover port => Sys2Proof.Machine.execHandover port s
  | .unlock port => Sys2Proof.Machine.execUnlock port s
  | .rekey port => Sys2Proof.Machine.execRekey port s
  | .switch port => Sys2Proof.Machine.execSwitch port s
  | .fwchunk port => Sys2Proof.Machine.execFwchunk port s
  | .attestRead port => Sys2Proof.Machine.execAttestRead port s
  | .alarm src => Sys2Proof.Machine.execAlarm src s
  | .thermalReading sensor temp => Sys2Proof.Machine.execThermalReading sensor temp s
  | .thermalShutdownTimer => Sys2Proof.Machine.execThermalShutdownTimer s
  | .registerWrite agent block off v => Sys2Proof.Machine.execRegisterWrite agent block off v s
  | .waystationRailOff => Sys2Proof.Machine.execWaystationRailOff s
  | .spilledTravellerPlacement p => Sys2Proof.Machine.execSpilledTravellerPlacement p s
  | .planDisable agent v => Sys2Proof.Machine.execPlanDisable agent v s
  | .owndatApplyComplete => Sys2Proof.Machine.execOwndatApplyComplete s
  | .pstructRead p => Sys2Proof.Machine.execPstructRead p s

end Sys2Proof.Machine
end

