-- ==== Sys2Proof/Machine/Step.lean ====
section
/-! DEFINITION. One step: an event due, a register write on its way, an internal event, or an issue (R52, R381). -/

namespace Sys2Proof.Machine

/-- The traveller in slot `sl` of stream (c, x) issues. -/
noncomputable def issueRunning (s : State) (c : Nat) (x : Bool) (sl : Nat) : Result :=
  let s := startAgain s c sl
  let word := issueWord s c x sl
  let r := match issueFetchTrap s c x sl with
    | some t => fetchFails s c x sl t
    | none => match decode (bytesOfWord word) with
      | .ok (i, _) => exec i (prefetch s c x)
      | .error _ => fetchFails s c x sl { cause := .illegal, addr := BitVec.ofNat 64 word }
  issueOr s c x sl (stream s c x).pc r

/-- One step of the machine. -/
noncomputable def step (s : State) : Result :=
  match s.agenda with
  | i :: rest => exec i { s with agenda := rest }
  | [] =>
    if !s.regWrites.isEmpty then .next (drainRegWrite s)
    else
      match (if s.stalled then internalEvent s else none) with
      | some s' => .next { s' with stalled := false }
      | none =>
        match (stream s (s.cur / 2) (s.cur % 2 == 1)).run, mayIssue s s.cur with
        | some sl, true => afterIssue (issueRunning s (s.cur / 2) (s.cur % 2 == 1) sl)
        | _, _ => .next (idle s)

/-- `s` with the word `w` where the next step fetches: at the pc of the stream that issues next, or, where none runs, at the
pc of a traveller placed for it. -/
def State.withFetchWord (s : State) (_nbits w : Nat) : State :=
  let s := { s with agenda := [], regWrites := [], stalled := false }
  let s := if mayIssue s s.cur then s else { hostTraveller s (wordStream w) with cur := wordStream w }
  let c := s.cur / 2
  let x := s.cur % 2 == 1
  let pa := sramPa c ((stream s c x).pc.toNat - aliasBase c)
  let s := { s with mem := wrN s.mem pa 4 w, poison := s.poison.filter fun g => !(granules pa 4).contains g }
  let s := match (stream s c x).run with
    | some sl => updSlot s c sl fun k => { k with wait := none }
    | none => s
  updStream s c x fun q => { q with fbuf := [] }

end Sys2Proof.Machine
end

