-- ==== Sys2Proof/Safety.lean ====
section
/-! DEFINITION. What counts as a safe run, and the words that the claims use: the issue of an instruction that nothing prevents,
and the state after it retires. -/

namespace Sys2Proof.Machine

/-- A safe run never stops: each step answers a next state. -/
def Completes (r : Result) : Prop := ∃ t, r = .next t

/-- Instruction `i` issues on the chosen stream, in context `x`: a traveller is RUNNING and does not resume, the stream accepts
the word (R58, R250), and the registers it reads are readable (R52). -/
def Issues (s : State) (x : Ctx) (i : Instr) (reads : List (BitVec 5)) : Prop :=
  ctxOf s = some x ∧ x.reply = none ∧ (∀ n, encode i = some n → accepted x.c x.x n = true)
    ∧ ∀ r ∈ reads, pendOf (stream s x.c x.x) r.toNat x.t = none

/-- None of the registers is poisoned (R99). -/
def Clean (s : State) (x : Ctx) (reads : List (BitVec 5)) : Prop := ∀ r ∈ reads, x.poisoned s r.toNat = false
/-- One of them is. -/
def Dirty (s : State) (x : Ctx) (reads : List (BitVec 5)) : Prop := ∃ r ∈ reads, x.poisoned s r.toNat = true

/-- The value a register operand yields. -/
def Ctx.val (x : Ctx) (s : State) (r : BitVec 5) : Word := x.rd s r.toNat

/-- An instruction with wait field `w` and fare class `k` retires from `s`, and the next word follows (R52, R359). -/
def after (w : BitVec 3) (k : Nat) (x : Ctx) (s : State) : State :=
  retire { word := w.toNat * 2 ^ 29, fare := k } x s (x.pc + 4) false
/-- It retires and control goes to `pc` (R124, R135). -/
def afterJump (w : BitVec 3) (k : Nat) (x : Ctx) (s : State) (pc : Word) : State :=
  retire { word := w.toNat * 2 ^ 29, fare := k } x s pc true
/-- It retires having written `v` to register field `d`, readable `lat` cycles later (R52, R53; 0: interlocked). -/
def wrote (w : BitVec 3) (k : Nat) (x : Ctx) (s : State) (d : BitVec 5) (v : Word) (lat : Nat) : State :=
  after w k x (x.wr (now s x) d.toNat v lat)
/-- The same with the poison of an operand: the value is 0 (R99). -/
def wrotePoison (w : BitVec 3) (k : Nat) (x : Ctx) (s : State) (d : BitVec 5) (lat : Nat) : State :=
  after w k x (x.wr (now s x) d.toNat 0 lat true)
/-- `i` issues in context `x`, reading `reads`, and answers the next state `t`. -/
def Answers (s : State) (x : Ctx) (i : Instr) (reads : List (BitVec 5)) (t : State) : Prop := Issues s x i reads → exec i s = .next t

/-- The instruction traps: the traveller is TRAPPED with its pc at the instruction (R377). -/
def trapped (x : Ctx) (s : State) (t : TrapInfo) : State := takeTrap (now s x) x.c x.x x.sl x.pc t

/-- The issue is held in this cycle (R47, R116): it comes again in the next one. -/
def held (x : Ctx) (s : State) : State := { updStream s x.c x.x fun k => { k with nextIssue := x.t + 1 } with stalled := true }

/-- The traveller parks with a reason and a condition (R74). -/
def parked (k : Nat) (x : Ctx) (s : State) (word reason : Nat) (cond : Cond) : State :=
  doPark { word := word, fare := k } x s reason cond
/-- `i` runs again with the reply `r` of its wait and answers `t` (R74). -/
def Resumes (s : State) (x : Ctx) (i : Instr) (r : Reply) (t : State) : Prop :=
  ctxOf s = some x → x.reply = some r → exec i s = .next t
/-- A record of `n` bytes at `va` lies in this core's SRAM at `pa`, whole, unpoisoned, not in the store buffer, and with no pending write
(R47, R55, R83, R114). -/
def ReadsRecord (s : State) (x : Ctx) (va n pa : Nat) : Prop :=
  localPlace x (now s x) va n = some pa ∧ readStep x (now s x) pa n = none
    ∧ s.latent = [] ∧ s.softErr = [] ∧ poisonIn s pa n va = none
/-- The traveller's own stores have left the store buffer, and its barrier events have arrived (R116, R294). -/
def Drained (s : State) (x : Ctx) : Prop := (∀ e ∈ (stream s x.c x.x).sb, e.slot ≠ x.sl) ∧ barOut s x.c x.sl = false
/-- Nothing of the stream is in its store buffer or on its way to a barrier (R293, R318). -/
def Quiet (s : State) (x : Ctx) : Prop := (stream s x.c x.x).sb = [] ∧ barOnWay s x.c x.x = false

end Sys2Proof.Machine
end

