-- ==== Sys2Proof/Certificates/Slice0/Obligations.lean ====
section
/-! DEFINITION. The statements for the provers. Each docstring names the rules of the spec it formalises. -/

open Sys2Proof Sys2Proof.Machine

/-! ## Integer results -/

/-- R101 with R98, R53: the results of the register-register ALU instructions. -/
def Obligations.AluResults : Prop := ∀ (s : State) (x : Ctx) (w : BitVec 3) (d a b : BitVec 5),
  let A := x.val s a
  let B := x.val s b
  let n := B.toNat % 64
  let m := B.toNat % 32
  let W (v : Word) : State := wrote w 0 x s d v 1
  let A32 : BitVec 32 := A.truncate 32
  let short (v : BitVec 32) : Word := v.signExtend 64
  let bool (c : Bool) : Word := if c then 1 else 0
  destOk d = true → Clean s x [a, b] →
    Answers s x (.add w d a b) [a, b] (W (A + B))
    ∧ Answers s x (.sub w d a b) [a, b] (W (A - B))
    ∧ Answers s x (.and w d a b) [a, b] (W (A &&& B))
    ∧ Answers s x (.or w d a b) [a, b] (W (A ||| B))
    ∧ Answers s x (.xor w d a b) [a, b] (W (A ^^^ B))
    ∧ Answers s x (.andn w d a b) [a, b] (W (A &&& ~~~B))
    ∧ Answers s x (.orn w d a b) [a, b] (W (A ||| ~~~B))
    ∧ Answers s x (.xnor w d a b) [a, b] (W (~~~(A ^^^ B)))
    ∧ Answers s x (.sll w d a b) [a, b] (W (A <<< n))
    ∧ Answers s x (.srl w d a b) [a, b] (W (A >>> n))
    ∧ Answers s x (.sra w d a b) [a, b] (W (A.sshiftRight n))
    ∧ Answers s x (.rol w d a b) [a, b] (W (A.rotateLeft n))
    ∧ Answers s x (.ror w d a b) [a, b] (W (A.rotateRight n))
    ∧ Answers s x (.slt w d a b) [a, b] (W (bool (decide (A.toInt < B.toInt))))
    ∧ Answers s x (.sltu w d a b) [a, b] (W (bool (decide (A.toNat < B.toNat))))
    ∧ Answers s x (.min w d a b) [a, b] (W (if A.toInt ≤ B.toInt then A else B))
    ∧ Answers s x (.max w d a b) [a, b] (W (if A.toInt ≤ B.toInt then B else A))
    ∧ Answers s x (.minu w d a b) [a, b] (W (if A.toNat ≤ B.toNat then A else B))
    ∧ Answers s x (.maxu w d a b) [a, b] (W (if A.toNat ≤ B.toNat then B else A))
    ∧ Answers s x (.seq w d a b) [a, b] (W (bool (decide (A = B))))
    ∧ Answers s x (.sne w d a b) [a, b] (W (bool (decide (A ≠ B))))
    ∧ Answers s x (.addw w d a b) [a, b] (W (short ((A + B).truncate 32)))
    ∧ Answers s x (.subw w d a b) [a, b] (W (short ((A - B).truncate 32)))
    ∧ Answers s x (.sllw w d a b) [a, b] (W (short (A32 <<< m)))
    ∧ Answers s x (.srlw w d a b) [a, b] (W (short (A32 >>> m)))
    ∧ Answers s x (.sraw w d a b) [a, b] (W (short (A32.sshiftRight m)))

/-- R101: the ALU instructions that look at single bits and bytes; SEXT copies bit rb[5:0] upwards.
R102, R103, R53: multiplies, divides and bit-field instructions. A zero divisor gives all ones, and the dividend as the
remainder. -/
def Obligations.BitAndMulResults : Prop :=
  (∀ (s : State) (x : Ctx) (w : BitVec 3) (d a b : BitVec 5),
  let A := x.val s a
  let n := (x.val s b).toNat % 64
  let W (v : Word) : State := wrote w 0 x s d v 1
  destOk d = true → Clean s x [a, b] →
    (∃ k : Nat, k ≤ 64 ∧ (∀ i, 64 ≤ i + k → A.getLsbD i = false) ∧ (k < 64 → A.getLsbD (63 - k) = true)
      ∧ Answers s x (.clz w d a) [a] (W (BitVec.ofNat 64 k)))
    ∧ (∃ k : Nat, k ≤ 64 ∧ (∀ i, i < k → A.getLsbD i = false) ∧ (k < 64 → A.getLsbD k = true)
      ∧ Answers s x (.ctz w d a) [a] (W (BitVec.ofNat 64 k)))
    ∧ Answers s x (.popc w d a) [a] (W (BitVec.ofNat 64 ((List.range 64).filter fun i => A.getLsbD i).length))
    ∧ (∃ v : Word, (∀ i, i < 64 → v.getLsbD i = A.getLsbD (63 - i)) ∧ Answers s x (.brev w d a) [a] (W v))
    ∧ (∃ v : Word, (∀ i, i < 8 → v.toNat / 256 ^ i % 256 = A.toNat / 256 ^ (7 - i) % 256) ∧ Answers s x (.bswap w d a) [a] (W v))
    ∧ (∃ v : Word, (∀ i, i < 64 → v.getLsbD i = A.getLsbD (min i n)) ∧ Answers s x (.sext w d a b) [a, b] (W v)))
  ∧ (∀ (s : State) (x : Ctx) (w : BitVec 3) (d a b : BitVec 5),
  let A := x.val s a
  let B := x.val s b
  let D := x.val s d
  let pos := B.toNat % 64
  let len := if B.toNat / 256 % 64 = 0 then 64 else B.toNat / 256 % 64
  let W (v : Word) (lat : Nat) : State := wrote w 1 x s d v lat
  let V (v : Word) : State := wrote w 0 x s d v 1
  let Q (v : Word) : State := wrote w 2 x s d v 0
  destOk d = true → Clean s x [a, b] →
    Answers s x (.mul w d a b) [a, b] (W (A * B) 4)
    ∧ Answers s x (.mulh w d a b) [a, b] (W (BitVec.ofInt 64 (A.toInt * B.toInt / 2 ^ 64)) 4)
    ∧ Answers s x (.mulhu w d a b) [a, b] (W (BitVec.ofNat 64 (A.toNat * B.toNat / 2 ^ 64)) 4)
    ∧ Answers s x (.mulw w d a b) [a, b] (W (((A * B).truncate 32 : BitVec 32).signExtend 64) 4)
    ∧ Answers s x (.div w d a b) [a, b] (Q (if B = 0 then BitVec.allOnes 64 else BitVec.ofInt 64 (A.toInt.tdiv B.toInt)))
    ∧ Answers s x (.divu w d a b) [a, b] (Q (if B = 0 then BitVec.allOnes 64 else A / B))
    ∧ Answers s x (.rem w d a b) [a, b] (Q (if B = 0 then A else BitVec.ofInt 64 (A.toInt.tmod B.toInt)))
    ∧ Answers s x (.remu w d a b) [a, b] (Q (if B = 0 then A else A % B))
    ∧ (∃ v : Word, (∀ i, i < 64 → v.getLsbD i = if i % 2 = 0 then A.getLsbD (i / 2) else B.getLsbD (i / 2))
      ∧ Answers s x (.bilv2 w d a b) [a, b] (V v))
    ∧ (∃ v : Word, (∀ i, i < 64 → v.getLsbD i = (decide (i < 21) && decide (B.toNat % 4 ≠ 3) && A.getLsbD (3 * i + B.toNat % 4)))
      ∧ Answers s x (.bdil3 w d a b) [a, b] (V v))
    ∧ Answers s x (.extu w d a b) [a, b] (V (BitVec.ofNat 64 (A.toNat / 2 ^ pos % 2 ^ len)))
    ∧ (∃ v : Word, (∀ i, i < 64 → v.getLsbD i = (BitVec.ofNat 64 (A.toNat / 2 ^ pos % 2 ^ len)).getLsbD (min i (len - 1)))
      ∧ Answers s x (.exts w d a b) [a, b] (V v))
    ∧ (x.poisoned s d.toNat = false →
      (∃ v : Word, (∀ i, i < 64 → v.getLsbD i = (decide (i < 63)
          && (if i % 3 = 0 then A.getLsbD (i / 3) else if i % 3 = 1 then B.getLsbD (i / 3) else D.getLsbD (i / 3))))
        ∧ Answers s x (.bilv3 w d a b) [a, b, d] (V v))
      ∧ (∃ v : Word, (∀ i, i < 64 → v.getLsbD i = if pos ≤ i ∧ i < pos + len then A.getLsbD (i - pos) else D.getLsbD i)
        ∧ Answers s x (.ins w d a b) [a, b, d] (V v)))
    ∧ decodeTableWord 32 0x010C2209 = some (.bilv3 0 3 1 2))

/-- R104 to R106: immediate, shift and high-immediate results, and the words of the R104 instructions. -/
def Obligations.ImmediateResults : Prop := ∀ (s : State) (x : Ctx) (w : BitVec 3) (d a : BitVec 5) (i : BitVec 13) (h : BitVec 6) (u : BitVec 18),
  let A := x.val s a
  let I : Word := i.signExtend 64
  let W (v : Word) : State := wrote w 0 x s d v 1
  let bool (c : Bool) : Word := if c then 1 else 0
  destOk d = true →
    (Clean s x [a] →
      Answers s x (.addi w d a i) [a] (W (A + I))
      ∧ Answers s x (.andi w d a i) [a] (W (A &&& I))
      ∧ Answers s x (.ori w d a i) [a] (W (A ||| I))
      ∧ Answers s x (.xori w d a i) [a] (W (A ^^^ I))
      ∧ Answers s x (.slti w d a i) [a] (W (bool (decide (A.toInt < I.toInt))))
      ∧ Answers s x (.sltiu w d a i) [a] (W (bool (decide (A.toNat < I.toNat))))
      ∧ Answers s x (.slli w d a h) [a] (W (A <<< h.toNat))
      ∧ Answers s x (.srli w d a h) [a] (W (A >>> h.toNat))
      ∧ Answers s x (.srai w d a h) [a] (W (A.sshiftRight h.toNat))
      ∧ Answers s x (.rori w d a h) [a] (W (A.rotateRight h.toNat)))
    ∧ Answers s x (.himm w d u) [] (W (u.signExtend 64 <<< 14))
    ∧ Answers s x (.pchi w d u) [] (W (x.pc + (u.signExtend 64 <<< 14)))
    ∧ ∀ e ∈ [(Instr.addi w d a i, 3), (.andi w d a i, 4), (.ori w d a i, 5), (.xori w d a i, 6), (.slti w d a i, 7), (.sltiu w d a i, 8)],
        encode e.1 = some (w.toNat * 2 ^ 29 + e.2 * 2 ^ 23 + d.toNat * 2 ^ 18 + a.toNat * 2 ^ 13 + i.toNat)

/-- R99: an integer or floating-point instruction with a poisoned operand writes 0 with the poison bit, raises no flag and does
not trap. -/
def Obligations.PoisonPropagates : Prop := ∀ (s : State) (x : Ctx) (w : BitVec 3) (d a b : BitVec 5) (i : BitVec 13) (h : BitVec 6) (t : BitVec 1),
  let fl := if t = 0 then 4 else 6
  destOk d = true → frmIllegal (frmOf s x.c x.sl) = false →
    (∀ e ∈ [(Instr.add w d a b, 0, 1), (.sub w d a b, 0, 1), (.and w d a b, 0, 1), (.or w d a b, 0, 1), (.xor w d a b, 0, 1), (.andn w d a b, 0, 1),
        (.orn w d a b, 0, 1), (.xnor w d a b, 0, 1), (.sll w d a b, 0, 1), (.srl w d a b, 0, 1), (.sra w d a b, 0, 1), (.rol w d a b, 0, 1),
        (.ror w d a b, 0, 1), (.slt w d a b, 0, 1), (.sltu w d a b, 0, 1), (.min w d a b, 0, 1), (.max w d a b, 0, 1), (.minu w d a b, 0, 1),
        (.maxu w d a b, 0, 1), (.seq w d a b, 0, 1), (.sne w d a b, 0, 1), (.addw w d a b, 0, 1), (.subw w d a b, 0, 1), (.sllw w d a b, 0, 1),
        (.srlw w d a b, 0, 1), (.sraw w d a b, 0, 1), (.sext w d a b, 0, 1), (.mul w d a b, 1, 4), (.mulh w d a b, 1, 4), (.mulhu w d a b, 1, 4),
        (.mulw w d a b, 1, 4), (.div w d a b, 2, 0), (.divu w d a b, 2, 0), (.rem w d a b, 2, 0), (.remu w d a b, 2, 0), (.bilv2 w d a b, 0, 1),
        (.bdil3 w d a b, 0, 1), (.extu w d a b, 0, 1), (.exts w d a b, 0, 1), (.fadd w d a b t, 3, fl), (.fsub w d a b t, 3, fl),
        (.fmul w d a b t, 3, fl), (.fdiv w d a b t, 3, 0), (.fmin w d a b t, 3, fl), (.fmax w d a b t, 3, fl), (.feq w d a b t, 3, fl),
        (.flt w d a b t, 3, fl), (.fle w d a b t, 3, fl)],
      Dirty s x [a, b] → Answers s x e.1 [a, b] (wrotePoison w e.2.1 x s d e.2.2))
    ∧ (∀ e ∈ [(Instr.bilv3 w d a b, 0, 1), (.ins w d a b, 0, 1), (.fmas w d a b, 3, 4), (.fmad w d a b, 3, 6), (.fnmas w d a b, 3, 4),
        (.fnmad w d a b, 3, 6), (.fmss w d a b, 3, 4), (.fmsd w d a b, 3, 6)],
      Dirty s x [a, b, d] → Answers s x e.1 [a, b, d] (wrotePoison w e.2.1 x s d e.2.2))
    ∧ (∀ e ∈ [(Instr.clz w d a, 0, 1), (.ctz w d a, 0, 1), (.popc w d a, 0, 1), (.brev w d a, 0, 1), (.bswap w d a, 0, 1), (.addi w d a i, 0, 1),
        (.andi w d a i, 0, 1), (.ori w d a i, 0, 1), (.xori w d a i, 0, 1), (.slti w d a i, 0, 1), (.sltiu w d a i, 0, 1), (.slli w d a h, 0, 1),
        (.srli w d a h, 0, 1), (.srai w d a h, 0, 1), (.rori w d a h, 0, 1), (.fsqrt w d a t, 3, 0), (.fclass w d a t, 3, fl),
        (.fcvti w d a t, 3, fl), (.fcvtu w d a t, 3, fl), (.fcvtf w d a t, 3, fl), (.fcvtfu w d a t, 3, fl), (.fcvtw w d a t, 3, fl),
        (.fneg w d a t, 3, fl), (.fabs w d a t, 3, fl)],
      Dirty s x [a] → Answers s x e.1 [a] (wrotePoison w e.2.1 x s d e.2.2))

/-! ## Floating point -/

/-- R108 with R34, R36, R98: what the FPU instructions write and the flags they raise; `.f32` reads bits [31:0]. R47: the flags
raised are in FLAGS from the cycle on in which the result is readable, and not before. -/
def Obligations.FpuResults : Prop :=
  (∀ (s : State) (x y : Ctx) (f lat : Nat), f < 64 → y.c = x.c → y.x = x.x → y.sl = x.sl →
    (x.t + lat ≤ y.t → flagsOf (now (x.raise s f lat) y) x.c x.sl &&& f = f)
    ∧ (0 < lat → y.t < x.t + lat → flagsOf (now (x.raise s f lat) y) x.c x.sl = flagsOf (now s y) x.c x.sl))
  ∧ ∀ (s : State) (x : Ctx) (w : BitVec 3) (d a b : BitVec 5) (t : BitVec 1),
  let f := if t = 0 then fp32 else fp64
  let g := if t = 0 then fp64 else fp32
  let A := (x.val s a).toNat % 2 ^ (if t = 0 then 32 else 64)
  let B := (x.val s b).toNat % 2 ^ (if t = 0 then 32 else 64)
  let frm := frmOf s x.c x.sl
  let rm := rmOf frm
  let conv (v : Nat) : Rm := if frm % 8 = 5 then .stoch (draw (slot s x.c x.sl).hdr.key.toNat x.pc.toNat 0 v) else rm
  let sat := frm.testBit 3
  let W (lat : Nat) (r : FRes) : State := after w 3 x (x.raise (x.wr (now s x) d.toNat (BitVec.ofNat 64 r.bits) lat) r.flags lat)
  let lat := if t = 0 then 4 else 6
  let int (r : Int × Nat) : FRes := { bits := (BitVec.ofInt 64 r.1).toNat, flags := r.2 }
  destOk d = true →
    (Clean s x [a, b] →
      Answers s x (.fmin w d a b t) [a, b] (W lat (fminmax f false A B))
      ∧ Answers s x (.fmax w d a b t) [a, b] (W lat (fminmax f true A B))
      ∧ Answers s x (.feq w d a b t) [a, b] (W lat (fcmp f 0 A B))
      ∧ Answers s x (.flt w d a b t) [a, b] (W lat (fcmp f 1 A B))
      ∧ Answers s x (.fle w d a b t) [a, b] (W lat (fcmp f 2 A B))
      ∧ (frmIllegal frm = false →
        Answers s x (.fadd w d a b t) [a, b] (W lat (fadd f A B rm))
        ∧ Answers s x (.fsub w d a b t) [a, b] (W lat (fsub f A B rm))
        ∧ Answers s x (.fmul w d a b t) [a, b] (W lat (fmul f A B rm))
        ∧ Answers s x (.fdiv w d a b t) [a, b] (W 0 (fdiv f A B rm))))
    ∧ (Clean s x [a] →
      Answers s x (.fclass w d a t) [a] (W lat { bits := fclass f A })
      ∧ Answers s x (.fneg w d a t) [a] (W lat (fsign f 0 A))
      ∧ Answers s x (.fabs w d a t) [a] (W lat (fsign f 1 A))
      ∧ (frmIllegal frm = false →
        Answers s x (.fsqrt w d a t) [a] (W 0 (fsqrt f A rm))
        ∧ Answers s x (.fcvti w d a t) [a] (W lat (int (ftoi f A (-(2 ^ 63)) (2 ^ 63 - 1) (conv A))))
        ∧ Answers s x (.fcvtu w d a t) [a] (W lat (int (ftoi f A 0 (2 ^ 64 - 1) (conv A))))
        ∧ Answers s x (.fcvtf w d a t) [a] (W lat (itof f (x.val s a).toInt sat (conv (x.val s a).toNat)))
        ∧ Answers s x (.fcvtfu w d a t) [a] (W lat (itof f ((x.val s a).toNat : Int) sat (conv (x.val s a).toNat)))
        ∧ Answers s x (.fcvtw w d a t) [a] (W lat (fcvt f g A sat (conv A)))))

/-- R111: the fused multiply-adds round ±(a x b) ± c once, c being the old value of rd. -/
def Obligations.FmaResults : Prop := ∀ (s : State) (x : Ctx) (w : BitVec 3) (d a b : BitVec 5),
  let V (n : Nat) (r : BitVec 5) : Nat := (x.val s r).toNat % 2 ^ n
  let rm := rmOf (frmOf s x.c x.sl)
  let W (lat : Nat) (r : FRes) : State := after w 3 x (x.raise (x.wr (now s x) d.toNat (BitVec.ofNat 64 r.bits) lat) r.flags lat)
  let S (negP negC : Bool) : State := W 4 (ffma fp32 (V 32 a) (V 32 b) (V 32 d) negP negC rm)
  let D (negP negC : Bool) : State := W 6 (ffma fp64 (V 64 a) (V 64 b) (V 64 d) negP negC rm)
  destOk d = true → Clean s x [a, b, d] → frmIllegal (frmOf s x.c x.sl) = false →
    Answers s x (.fmas w d a b) [a, b, d] (S false false)
    ∧ Answers s x (.fmad w d a b) [a, b, d] (D false false)
    ∧ Answers s x (.fnmas w d a b) [a, b, d] (S true false)
    ∧ Answers s x (.fnmad w d a b) [a, b, d] (D true false)
    ∧ Answers s x (.fmss w d a b) [a, b, d] (S false true)
    ∧ Answers s x (.fmsd w d a b) [a, b, d] (D false true)

/-- R36: what each mode makes of a magnitude m that is counted in steps of 2^sh: the neighbour it chooses, and that a count
without remainder is exact.
R27, R45, R109, R110: the special cases of the FPU operations, by the fields of the encodings. -/
def Obligations.FloatValues : Prop :=
  (∀ (rm : Rm) (neg : Bool) (m : Nat) (e q : Int),
  let r := roundTo rm neg m e q
  let u := 2 ^ (q - e).toNat
  (q ≤ e → r.1 = m * 2 ^ (e - q).toNat ∧ r.2 = false)
  ∧ (e < q →
    (r.2 = false ↔ u ∣ m)
    ∧ (u ∣ m → r.1 * u = m)
    ∧ r.1 * u < m + u ∧ m < r.1 * u + u
    ∧ (rm = .rne → (2 * (r.1 * u) ≤ 2 * m + u ∧ 2 * m ≤ 2 * (r.1 * u) + u)
        ∧ ((2 * (r.1 * u) = 2 * m + u ∨ 2 * m = 2 * (r.1 * u) + u) → r.1 % 2 = 0))
    ∧ (rm = .rna → 2 * (r.1 * u) ≤ 2 * m + u ∧ 2 * m < 2 * (r.1 * u) + u)
    ∧ (rm = .rtz → r.1 * u ≤ m)
    ∧ (rm = .rup → if neg then r.1 * u ≤ m else m ≤ r.1 * u)
    ∧ (rm = .rdn → if neg then m ≤ r.1 * u else r.1 * u ≤ m)))
  ∧ (∀ f ∈ [fp32, fp64], ∀ (a b c : Nat) (rm : Rm) (p n : Bool),
  let H := 2 ^ (f.eb + f.mb)
  let inf := (2 ^ f.eb - 1) * 2 ^ f.mb
  let nan (v : Nat) : Prop := inf < v % H
  let snan (v : Nat) : Bool := decide (inf < v % H) && decide (v / 2 ^ (f.mb - 1) % 2 = 0)
  let isInf (v : Nat) : Prop := v % H = inf
  let isZero (v : Nat) : Prop := v % H = 0
  let finite (v : Nat) : Prop := 0 < v % H ∧ v % H < inf
  let neg (v : Nat) : Bool := decide (H ≤ v)
  let canon (nv : Bool) : FRes := { bits := inf + 2 ^ (f.mb - 1), flags := if nv then 1 else 0 }
  let sign (s : Bool) (m : Nat) : Nat := (if s then H else 0) + m
  a < 2 * H → b < 2 * H → c < 2 * H →
    ((nan a ∨ nan b) →
      fadd f a b rm = canon (snan a || snan b) ∧ fsub f a b rm = canon (snan a || snan b) ∧ fmul f a b rm = canon (snan a || snan b)
      ∧ fdiv f a b rm = canon (snan a || snan b) ∧ fminmax f p a b = canon (snan a || snan b)
      ∧ fcmp f 0 a b = { bits := 0, flags := if snan a || snan b then 1 else 0 }
      ∧ fcmp f 1 a b = { bits := 0, flags := 1 } ∧ fcmp f 2 a b = { bits := 0, flags := 1 })
    ∧ (nan a → fsqrt f a rm = canon (snan a) ∧ fsign f 0 a = canon (snan a) ∧ fsign f 1 a = canon (snan a))
    ∧ (isInf a → isInf b → neg a ≠ neg b → fadd f a b rm = canon true)
    ∧ (isInf a → isInf b → neg a = neg b → fsub f a b rm = canon true)
    ∧ (isInf a → isZero b → fmul f a b rm = canon true ∧ fmul f b a rm = canon true
      ∧ ffma f a b c p n rm = canon true ∧ ffma f b a c p n rm = canon true)
    ∧ (finite a → isZero b → fdiv f a b rm = { bits := sign (neg a != neg b) inf, flags := 2 })
    ∧ ((isZero a ∧ isZero b ∨ isInf a ∧ isInf b) → fdiv f a b rm = canon true)
    ∧ (isZero a → isZero b →
      fadd f a b rm = { bits := if neg a = neg b then a else if rm = .rdn then H else 0 }
      ∧ fcmp f 0 a b = { bits := 1 } ∧ fcmp f 1 a b = { bits := 0 } ∧ fcmp f 2 a b = { bits := 1 }
      ∧ (neg a ≠ neg b → fminmax f false a b = { bits := H } ∧ fminmax f true a b = { bits := 0 }))
    ∧ (finite a → b % H = a % H → neg a ≠ neg b → fadd f a b rm = { bits := if rm = .rdn then H else 0 })
    ∧ (isZero a → fsqrt f a rm = { bits := a })
    ∧ ((finite a ∨ isInf a) → neg a = true → fsqrt f a rm = canon true)
    ∧ (¬ nan a → fsign f 0 a = { bits := sign (!neg a) (a % H) } ∧ fsign f 1 a = { bits := a % H })
    ∧ fclass f a = 2 ^ (if snan a then 8 else if inf < a % H then 9 else if a % H = inf then (if neg a then 0 else 7)
        else if a % H = 0 then (if neg a then 3 else 4) else if a % H < 2 ^ f.mb then (if neg a then 2 else 5) else if neg a then 1 else 6))


/-! ## Branches and jumps -/

/-- R121, R124, R107: a conditional branch goes to pc + 4 x offset when its condition holds, the target named through the local
alias or the core's own window; a taken target outside the code region traps BOUNDS at the branch. -/
def Obligations.ConditionalBranches : Prop := ∀ (s : State) (x : Ctx) (w : BitVec 3) (a b : BitVec 5) (o : BitVec 13),
  let A := x.val s a
  let B := x.val s b
  let T : Word := x.pc + (o.signExtend 64 <<< 2)
  let inCode (n : Nat) : Prop := n < sramSize x.c ∧ n < (core s x.c).lmwsb
  Clean s x [a, b] →
    ∀ e ∈ [(Instr.beq w a b o, decide (A = B)), (.bne w a b o, decide (A ≠ B)), (.blt w a b o, decide (A.toInt < B.toInt)),
        (.bge w a b o, decide (B.toInt ≤ A.toInt)), (.bltu w a b o, decide (A.toNat < B.toNat)), (.bgeu w a b o, decide (B.toNat ≤ A.toNat))],
      (e.2 = false → Answers s x e.1 [a, b] (after w 0 x (now s x)))
      ∧ (e.2 = true → ∀ n, inCode n → (T.toNat = aliasBase x.c + n ∨ T.toNat = windowBase x.c + n) →
        Answers s x e.1 [a, b] (afterJump w 0 x (now s x) (BitVec.ofNat 64 (aliasBase x.c + n))))
      ∧ (e.2 = true → (∀ n, inCode n → T.toNat ≠ aliasBase x.c + n ∧ T.toNat ≠ windowBase x.c + n) →
        Answers s x e.1 [a, b] (trapped x s { cause := .bounds, addr := T }))
    ∧ ∀ e ∈ [(Instr.beq w a b o, 0x20), (.bne w a b o, 0x21), (.blt w a b o, 0x22), (.bge w a b o, 0x23), (.bltu w a b o, 0x24), (.bgeu w a b o, 0x25)],
        encode e.1 = some (w.toNat * 2 ^ 29 + e.2 * 2 ^ 23 + a.toNat * 2 ^ 18 + b.toNat * 2 ^ 13 + o.toNat)

/-- R122, R124: JAL and JALR go to their target and write the link, readable one cycle later; JALR clears the target's bits
[63:56] and traps ALIGN before BOUNDS.
R123: PBR looks at the 256 bits of P. -/
def Obligations.JumpsAndPredicateBranches : Prop :=
  (∀ (s : State) (x : Ctx) (w : BitVec 3) (d a : BitVec 5) (i : BitVec 13) (o : BitVec 23),
  let J : Word := x.pc + (o.signExtend 64 <<< 2)
  let R : Word := BitVec.ofNat 64 ((x.val s a + i.signExtend 64).toNat % 2 ^ 56)
  let inCode (n : Nat) : Prop := n < sramSize x.c ∧ n < (core s x.c).lmwsb
  let lands (T : Word) (n : Nat) : Prop := inCode n ∧ (T.toNat = aliasBase x.c + n ∨ T.toNat = windowBase x.c + n)
  (∀ n, lands J n → Answers s x (.jal w o) [] (afterJump w 0 x (x.wr (now s x) 23 (x.pc + 4) 1) (BitVec.ofNat 64 (aliasBase x.c + n))))
  ∧ ((∀ n, ¬ lands J n) → Answers s x (.jal w o) [] (trapped x s { cause := .bounds, addr := J }))
  ∧ (destOk d = true → Clean s x [a] →
    (R.toNat % 4 = 0 → ∀ n, lands R n →
      Answers s x (.jalr w d a i) [a] (afterJump w 0 x (x.wr (now s x) d.toNat (x.pc + 4) 1) (BitVec.ofNat 64 (aliasBase x.c + n))))
    ∧ (R.toNat % 4 = 0 → (∀ n, ¬ lands R n) → Answers s x (.jalr w d a i) [a] (trapped x s { cause := .bounds, addr := R }))
    ∧ (R.toNat % 4 ≠ 0 → Answers s x (.jalr w d a i) [a] (trapped x s { cause := .align, addr := R }))))
  ∧ (∀ (s : State) (x : Ctx) (w : BitVec 3) (o : BitVec 20) (n : Nat),
  let T : Word := x.pc + (o.signExtend 64 <<< 2)
  let one : Prop := ∃ i < 256, (predOf s x.c x.sl).getLsbD i = true
  let zero : Prop := ∃ i < 256, (predOf s x.c x.sl).getLsbD i = false
  n < sramSize x.c → n < (core s x.c).lmwsb → T.toNat = aliasBase x.c + n →
    let taken : State := afterJump w 0 x (now s x) T
    let next : State := after w 0 x (now s x)
    (one → Answers s x (.pbrAny w o) [] taken ∧ Answers s x (.pbrNone w o) [] next)
    ∧ (¬ one → Answers s x (.pbrAny w o) [] next ∧ Answers s x (.pbrNone w o) [] taken)
    ∧ (zero → Answers s x (.pbrNall w o) [] taken ∧ Answers s x (.pbrAll w o) [] next)
    ∧ (¬ zero → Answers s x (.pbrNall w o) [] next ∧ Answers s x (.pbrAll w o) [] taken))

/-! ## Loads and stores -/

/-- R112, R113, R115, R53: a load from this core's own SRAM that its store buffer does not forward; a poisoned granule gives 0
with the poison bit. R47: one that meets FLAGS while flags are not yet set is held.
R112, R113, R74: a load that waited for its reply resumes with it: the value, extended, or 0 with the poison bit. -/
def Obligations.LoadResults : Prop :=
  (∀ (s : State) (x : Ctx) (w : BitVec 3) (d a : BitVec 5) (i : BitVec 13) (off : Nat),
  let va := (x.val s a + i.signExtend 64).toNat % 2 ^ 56
  let p := (slot s x.c x.sl).hdr.part
  let pa := sramPa x.c off
  let sx (n v : Nat) : Word := (BitVec.ofNat n v).signExtend 64
  destOk d = true → Clean s x [a] →
    ∀ e ∈ [(Instr.ld w d a i, 8, fun v => BitVec.ofNat 64 v), (.lw w d a i, 4, sx 32), (.lwu w d a i, 4, fun v => BitVec.ofNat 64 v),
        (.lh w d a i, 2, sx 16), (.lhu w d a i, 2, fun v => BitVec.ofNat 64 v), (.lb w d a i, 1, sx 8), (.lbu w d a i, 1, fun v => BitVec.ofNat 64 v)],
      va % e.2.1 = 0 → reach (now s x) x.c x.x p va true false = .own off → forward (stream s x.c x.x).sb pa e.2.1 = .none →
        let u := findErrors (tlbTouch (now s x) x.c p va) pa e.2.1 4 (ecxOf s x.c x.sl)
        let q := poisonedAt u pa e.2.1
        (pendMet x (now s x) off e.2.1 = false → Answers s x e.1 [a] (after w noFare x
          (x.wr (chargeAccess x u (.own off)) d.toNat (if q then 0 else e.2.2 (rdN (now s x).mem pa e.2.1)) 3 q)))
        ∧ (pendMet x (now s x) off e.2.1 = true → dramHeld s x = none →
          Answers s x e.1 [a] (held x (tlbTouch (now s x) x.c p va))))
  ∧ (∀ (s : State) (x : Ctx) (w : BitVec 3) (d a : BitVec 5) (i : BitVec 13) (v : Word) (p : Bool),
  let sx (n : Nat) : Word := (BitVec.ofNat n v.toNat).signExtend 64
  let T (u : Word) : Host.Outcome State Fault Refusal := .next (after w noFare x (x.wr (now s x) d.toNat (if p then 0 else u) 0 p))
  ctxOf s = some x → x.reply = some (.value v p) →
    exec (.ld w d a i) s = T v ∧ exec (.lw w d a i) s = T (sx 32) ∧ exec (.lwu w d a i) s = T v ∧ exec (.lh w d a i) s = T (sx 16)
    ∧ exec (.lhu w d a i) s = T v ∧ exec (.lb w d a i) s = T (sx 8) ∧ exec (.lbu w d a i) s = T v
    ∧ (p = false → ∀ (c : BitVec 1) (z : BitVec 2) (o : BitVec 10), exec (.lfe w d a c z o) s = T v))

/-- R112, R113, R116, R307: a store enters the store buffer as its youngest entry. One to this core's own SRAM is not counted in
OUTS; one to another core's window, the hall or DRAM is, and a poisoned operand is refused to a window.
R112 with R125 step 1: a load or store whose address is not aligned to its size traps ALIGN. -/
def Obligations.StoresAndAlignment : Prop :=
  (∀ (s : State) (x : Ctx) (w : BitVec 3) (r a : BitVec 5) (i : BitVec 13),
  let va := (x.val s a + i.signExtend 64).toNat % 2 ^ 56
  let p := (slot s x.c x.sl).hdr.part
  let u := tlbTouch (now s x) x.c p va
  let q := x.poisoned s r.toNat
  let push (k : Reach) (e : SbEntry) : State := updStream (chargeAccess x u k) x.c x.x fun v => { v with sb := v.sb ++ [e] }
  let entry (n pa : Nat) (win cnt : Bool) : SbEntry :=
    { slot := x.sl, op := .store, va := BitVec.ofNat 64 va, pa := some pa, size := n, val := x.val s r, poison := q, window := win, counted := cnt }
  Clean s x [a] → (stream s x.c x.x).sb.length < 16 →
    ∀ e ∈ [(Instr.sd w r a i, 8), (.sw w r a i, 4), (.sh w r a i, 2), (.sb w r a i, 1)], va % e.2 = 0 →
      (∀ off, reach (now s x) x.c x.x p va false true = .own off → regionOf s x.c off ≠ .workspace →
        Answers s x e.1 [a, r] (after w noFare x (push (.own off) (entry e.2 (sramPa x.c off) false false))))
      ∧ (∀ c off, reach (now s x) x.c x.x p va false true = .window c off → q = false → outsFull s x.c x.sl = false →
        Answers s x e.1 [a, r] (after w noFare x (countOuts (push (.window c off) (entry e.2 (sramPa c off) true true)) x.c x.sl)))
      ∧ (∀ c off, reach (now s x) x.c x.x p va false true = .window c off → q = true →
        Answers s x e.1 [a, r] (trapped x s { cause := .poison, addr := BitVec.ofNat 64 (2 ^ 63 + r.toNat) }))
      ∧ (∀ h, reach (now s x) x.c x.x p va false true = .hall h → outsFull s x.c x.sl = false →
        Answers s x e.1 [a, r] (after w noFare x (countOuts (push (.hall h) (entry e.2 (hallPa h) false true)) x.c x.sl)))
      ∧ (∀ pa, reach (now s x) x.c x.x p va false true = .dram pa → outsFull s x.c x.sl = false →
        Answers s x e.1 [a, r] (after w noFare x (countOuts (push (.dram pa) (entry e.2 pa false true)) x.c x.sl))))
  ∧ (∀ (s : State) (x : Ctx) (w : BitVec 3) (d a : BitVec 5) (i : BitVec 13),
  let va := (x.val s a + i.signExtend 64).toNat % 2 ^ 56
  let T : State := trapped x s { cause := .align, addr := BitVec.ofNat 64 va }
  Clean s x [a] →
    (destOk d = true →
      ∀ e ∈ [(Instr.ld w d a i, 8), (.lw w d a i, 4), (.lwu w d a i, 4), (.lh w d a i, 2), (.lhu w d a i, 2)],
        va % e.2 ≠ 0 → Answers s x e.1 [a] T)
    ∧ ∀ e ∈ [(Instr.sd w d a i, 8), (.sw w d a i, 4), (.sh w d a i, 2)], va % e.2 ≠ 0 → Answers s x e.1 [a, d] T)

/-- R118, R119: LFE of a full granule of this core's own SRAM reads it and, with C = 1, empties it; SFE enters the store buffer. -/
def Obligations.FullEmptyAccesses : Prop := ∀ (s : State) (x : Ctx) (w : BitVec 3) (d a : BitVec 5) (c : BitVec 1) (z : BitVec 2) (o : BitVec 10) (off : Nat),
  let va := (x.val s a + BitVec.ofNat 64 o.toNat).toNat % 2 ^ 56
  let n := 2 ^ z.toNat
  let pa := sramPa x.c off
  let p := (slot s x.c x.sl).hdr.part
  let u := findErrors (now s x) pa n 4 (ecxOf s x.c x.sl)
  let v := chargeAccess x u (.own off)
  0x00FFFEFFFFFFFFFF < va → va % n = 0 → reach (now s x) x.c x.x p va true true = .own off → hasFull s pa = true →
    (destOk d = true → Clean s x [a] → u.full.contains (pa / 16) = true → u.poison.contains (pa / 16) = false →
      forward (stream s x.c x.x).sb pa n = .none →
        Answers s x (.lfe w d a c z o) [a] (after w noFare x
          (x.wr (if c = 1 then setFull v [pa / 16] false else v) d.toNat (BitVec.ofNat 64 (rdN (now s x).mem pa n)) 3)))
    ∧ (Clean s x [a, d] → (stream s x.c x.x).sb.length < 16 →
        Answers s x (.sfe w d a c z o) [a, d] (after w noFare x (updStream (chargeAccess x (now s x) (.own off)) x.c x.x fun k =>
          { k with sb := k.sb ++ [{ slot := x.sl, op := .sfe (c == 1), va := BitVec.ofNat 64 va, pa := some pa, size := n, val := x.val s d,
                                    poison := false, window := false, counted := false }] })))

/-! ## Predicates, information and control registers -/

/-- R96, R97: the PRED instructions. An element of size code z is 2^z bits of P, all written alike;
PPUT leaves the elements of the other quarters as they are; masks lie in this core's SRAM. -/
def Obligations.PredicateResults : Prop := ∀ (s : State) (x : Ctx) (w : BitVec 3) (d a b : BitVec 5) (z : BitVec 2),
  let n := 256 / 2 ^ z.toNat
  let P := predOf s x.c x.sl
  let active (i : Nat) : Bool := P.getLsbD (2 ^ z.toNat * i)
  let W (v : Word) : State := after w 0 x (x.wr (now s x) d.toNat v 0)
  let Sets (i : Instr) (reads : List (BitVec 5)) (f : Nat → Bool) : Prop := ∃ q : BitVec 256,
    (∀ k, k < 256 → q.getLsbD k = f (k / 2 ^ z.toNat)) ∧ Answers s x i reads (after w 0 x (setPred (now s x) x.c x.sl q))
  let q := (x.val s a).toNat % 4
  let va := (x.val s a).toNat % 2 ^ 56
  Sets (.psetall w z) [] (fun _ => true)
  ∧ Sets (.pclear w z) [] (fun _ => false)
  ∧ Sets (.pnot w z) [] (fun i => !active i)
  ∧ (Clean s x [a, b] →
    Sets (.pwhile w a b z) [a, b] (fun i => decide ((x.val s a).toInt + (i : Int) < (x.val s b).toInt))
    ∧ (∃ p' : BitVec 256, (∀ k, k < 256 → p'.getLsbD k =
        if k / 2 ^ z.toNat / 64 = q then (x.val s b).getLsbD (k / 2 ^ z.toNat % 64) else P.getLsbD k)
      ∧ Answers s x (.pput w a b z) [a, b] (after w 0 x (setPred (now s x) x.c x.sl p'))))
  ∧ (destOk d = true →
    Answers s x (.pcount w d z) [] (W (BitVec.ofNat 64 ((List.range n).filter active).length))
    ∧ Answers s x (.pfirst w d z) [] (W ((((List.range n).find? active).map (BitVec.ofNat 64)).getD (BitVec.allOnes 64)))
    ∧ (Clean s x [a] → ∃ v : Word, (∀ j, j < 64 → v.getLsbD j = (decide (64 * q + j < n) && active (64 * q + j)))
      ∧ Answers s x (.pget w d a z) [a] (W v)))
  ∧ (Clean s x [a] → va % (n / 8) = 0 → 0x00FFFEFFFFFFFFFF < va → ∀ off, reach (now s x) x.c x.x (slot s x.c x.sl).hdr.part va true false = .own off →
    (s.latent = [] → s.softErr = [] → pendMet x (now s x) off (n / 8) = false → (∀ g ∈ granules (sramPa x.c off) (n / 8), s.poison.contains g = false) →
      forward (stream s x.c x.x).sb (sramPa x.c off) (n / 8) = .none →
      let bit (i : Nat) : Bool := (rdN (now s x).mem (sramPa x.c off) (n / 8)).testBit i
      Sets (.pload w a z) [a] bit
      ∧ Sets (.pandm w a z) [a] (fun i => active i && bit i)
      ∧ Sets (.porm w a z) [a] (fun i => active i || bit i))
    ∧ (regionOf s x.c off ≠ .workspace → (stream s x.c x.x).sb.length + max 1 (n / 64) ≤ 16 →
      ∃ es : List SbEntry, (es.map fun e => (e.pa, e.size)) = (List.range (max 1 (n / 64))).map (fun j => (some (sramPa x.c off + 8 * j), min (n / 8) 8))
        ∧ (∀ i, i < n → ((es.map (·.val)).getD (i / 64) 0).getLsbD (i % 64) = active i)
        ∧ Answers s x (.pstore w a z) [a] (after w 0 x (updStream (now s x) x.c x.x fun k => { k with sb := k.sb ++ es }))))

/-- R95, R35, R47: the INFO instructions: the cube, the vector width, the cycle, purse and fare, FRM and FLAGS read and written, and the
home of an address. RDFLAGS is held while flags of an earlier instruction are not yet set. -/
def Obligations.InformationResults : Prop := ∀ (s : State) (x : Ctx) (w : BitVec 3) (d a b : BitVec 5),
  let W (v : Word) (lat : Nat) : State := after w 0 x (x.wr (now s x) d.toNat v lat)
  let frm := frmOf s x.c x.sl
  let fl := flagsOf (now s x) x.c x.sl
  destOk d = true →
    Answers s x (.cubeof w d) [] (W (BitVec.ofNat 64 (cubeId s)) 1)
    ∧ Answers s x (.vquery w d) [] (W 256 1)
    ∧ Answers s x (.rdcyc w d) [] (W (BitVec.ofNat 64 x.t) 1)
    ∧ Answers s x (.rdpurse w d) [] (W (if ecxOf s x.c x.sl = 0 then 0x7FFFFFFFFFFFFFFF else enc64 (purse s (ecxOf s x.c x.sl)).purse) 0)
    ∧ Answers s x (.rdfare w d) [] (W (BitVec.ofNat 64 ((slot s x.c x.sl).hdr.fare.toNat / 16000)) 0)
    ∧ Answers s x (.rdfrm w d) [] (W (BitVec.ofNat 64 frm) 1)
    ∧ (Clean s x [a] →
      let v := (x.val s a).toNat % 256
      (v % 8 ≤ 5 → v < 16 → Answers s x (.wrfrm w d a) [a] (after w 0 x (x.wr (wsWr (now s x) x.c x.sl 0xF7 1 v) d.toNat (BitVec.ofNat 64 frm) 0)))
      ∧ ((6 ≤ v % 8 ∨ 16 ≤ v) → ∃ word : Nat, encode (.wrfrm w d a) = some word
        ∧ Answers s x (.wrfrm w d a) [a] (trapped x s { cause := .illegal, addr := BitVec.ofNat 64 word })))
    ∧ (Clean s x [b] → x.flagsWait (now s x) = true → dramHeld s x = none → Answers s x (.rdflags w d b) [b] (held x (now s x)))
    ∧ (Clean s x [b] → x.flagsWait (now s x) = false →
      ∃ v : Nat, (∀ i, v.testBit i = (fl.testBit i && !(decide (i < 6) && (x.val s b).getLsbD i)))
      ∧ Answers s x (.rdflags w d b) [b] (after w 0 x (x.wr (wsWr (now s x) x.c x.sl 0xF6 1 v) d.toNat (BitVec.ofNat 64 fl) 1)))
    ∧ (Clean s x [a] → ∀ h, findHome (now s x) x.c x.x (slot s x.c x.sl).hdr.part ((x.val s a).toNat % 2 ^ 56) false = .found h →
      Answers s x (.homeof w d a) [a] (after w 0 x (x.wr (tlbTouch (now s x) x.c (slot s x.c x.sl).hdr.part ((x.val s a).toNat % 2 ^ 56)) d.toNat
        (BitVec.ofNat 64 (h.core + h.kind * 2 ^ 13 + h.cube * 2 ^ 16 + (if h.lost then 1 else 0) * 2 ^ 28 + (if h.rstr then 1 else 0) * 2 ^ 29)) 1)))

/-- R354, R355, R357: a CSR instruction charges the context that it finds in ECXCSR and writes the register's old value to rd; CSRW gives it ra, CSRS ORs ra in, CSRC clears ra's
bits. CSRS and CSRC with ra = zr only read.
R353, R354, R357: a CSR instruction traps ILLEGAL on a number that names no register and on a write to a read-only one, and
PRIV at a level below the register's. -/
def Obligations.ControlRegisters : Prop :=
  (∀ (s : State) (x : Ctx) (w : BitVec 3) (d a : BitVec 5) (n : BitVec 11) (k : CsrName),
  let old := csrRead (now s x) x.c x.sl k
  let A := x.val s a
  let lvl := (slot s x.c x.sl).lvl
  let paid : State := chargeIssue 0 x (now s x)
  let Read : State := after w paidInBody x (x.wr paid d.toNat old 1)
  let Write (v : Word) : State := after w paidInBody x (x.wr (csrWrite paid x.c x.sl k v) d.toNat old 1)
  let may (v : Word) : Prop := k.writeLevel.isSome ∧ k.writeLevel.getD 0 ≤ lvl ∧ (k = .trpc → (slot s x.c x.sl).msg.isSome)
    ∧ csrOk (now s x) x.c x.sl k v = true ∧ (k.island = true → Quiet s x)
  destOk d = true → csrName n.toNat = some k → k.readLevel ≤ lvl →
    Answers s x (.csrr w d n) [] Read
    ∧ (Clean s x [a] →
      (may A → Answers s x (.csrw w d a n) [a] (Write A))
      ∧ (a = 24 → Answers s x (.csrs w d a n) [a] Read ∧ Answers s x (.csrc w d a n) [a] Read)
      ∧ (a ≠ 24 → may (old ||| A) → Answers s x (.csrs w d a n) [a] (Write (old ||| A)))
      ∧ (a ≠ 24 → may (old &&& ~~~A) → Answers s x (.csrc w d a n) [a] (Write (old &&& ~~~A)))))
  ∧ (∀ (s : State) (x : Ctx) (w : BitVec 3) (d a : BitVec 5) (n : BitVec 11),
  let lvl := (slot s x.c x.sl).lvl
  let T (i : Instr) (k : Cause) : State := trapped x s { cause := k, addr := BitVec.ofNat 64 ((encode i).getD 0) }
  destOk d = true → Clean s x [a] →
    (csrName n.toNat = none → Answers s x (.csrr w d n) [] (T (.csrr w d n) .illegal) ∧ Answers s x (.csrw w d a n) [a] (T (.csrw w d a n) .illegal))
    ∧ (∀ k, csrName n.toNat = some k → k.writeLevel = none → Answers s x (.csrw w d a n) [a] (T (.csrw w d a n) .illegal))
    ∧ (∀ k, csrName n.toNat = some k → lvl < k.readLevel → Answers s x (.csrr w d n) [] (T (.csrr w d n) .priv))
    ∧ (∀ k l, csrName n.toNat = some k → k.writeLevel = some l → lvl < l → Answers s x (.csrw w d a n) [a] (T (.csrw w d a n) .priv)))


/-! ## Tasks, queues and system instructions -/

/-- R88, R89, R94: END, YIELD and PARK. END releases the traveller's reservation first and waits for what the traveller started;
with nothing outstanding the slot is ENDED. PARK takes a pending wake, or parks with reason PARKI. -/
def Obligations.TravellerStates : Prop := ∀ (s : State) (x : Ctx) (w : BitVec 3),
  let u := now s x
  (holdOf s x.c x.sl = 0 → recsOf s x.c x.sl = [] → hasLoop s x.c x.sl = false →
    ((slot s x.c x.sl).resv = none → coreOutstanding s x.c x.x x.sl = false → (slot s x.c x.sl).outs = 0 → (∀ q ∈ (core s x.c).enqBuf, q.slot ≠ x.sl) →
        countPort s (slot s x.c x.sl).hdr.lcube (slot s x.c x.sl).hdr.lslot = false →
      Answers s x (.endT w) [] (endTraveller (retireOut x u (x.pc + 4)) x.c x.sl))
    ∧ ((slot s x.c x.sl).resv.isSome = true → resvPort s x.c x.sl = false → s.memDom = .on →
      Answers s x (.endT w) [] (held x (dropResv u x.c x.sl))))
  ∧ (holdOf s x.c x.sl ≠ 0 → Answers s x (.endT w) [] (trapped x s { cause := .accheld, addr := BitVec.ofNat 64 (holdOf s x.c x.sl) }))
  ∧ Answers s x (.yield w) [] (makeReady (retireOut x u (x.pc + 4)) x.c x.sl)
  ∧ (statusBit s x.c x.sl 8 = true → Answers s x (.park w) [] (after w 0 x (setStatusBit u x.c x.sl 8 false)))
  ∧ (statusBit s x.c x.sl 8 = false → Answers s x (.park w) [] (parked 0 x u ((encode (.park w)).getD 0) 5 .wake))
  ∧ ∀ v p, Resumes s x (.park w) (.value v p) (after w 0 x u)

/-- R78, R82, R90: GOTO to the core it is on goes on with the next word; to another core the traveller becomes MIGRATING and its
packet, with workspace and header, is under way, and the GOTO, its pc not advanced, executes there. zr names the base core. -/
def Obligations.Migration : Prop := ∀ (s : State) (x : Ctx) (w : BitVec 3) (a : BitVec 5) (dc cube : Nat) (va : Nat),
  let h := (slot s x.c x.sl).hdr
  let u := now s x
  let u' := if a = 24 then u else tlbTouch u x.c h.part va
  let here : Prop := dc = addressCore u x.c ∧ cube = cubeId s
  let mv : Move := { core := dc, cube := cube, addr := BitVec.ofNat 64 va }
  let v := retireOut x (chargeTravAt u' x.c x.sl (if cube = cubeId s then meterOf x.c else 1384) 31 2) x.pc 99
  let m := updSlot (setState v x.c x.sl .migrating) x.c x.sl fun k => { k with move := some mv, sbo := none }
  ((a = 24 ∧ dc = h.bcore ∧ cube = h.bcube ∧ va = 0 ∧ (cube = cubeId s → inPartition s dc h.part = true))
    ∨ (a ≠ 24 ∧ va = (x.val s a).toNat % 2 ^ 56 ∧ ∃ k, moveHome u x.c x.x h.part va = .found k ∧ k.core = dc ∧ k.cube = cube)) →
  Clean s x [a] → Drained s x →
    (here → Answers s x (.goto w a) [a] (after w 0 x u'))
    ∧ (¬ here → moveRefused s x.c x.sl = true → Answers s x (.goto w a) [a] (trapped x s { cause := .nomigrate, addr := BitVec.ofNat 64 va }))
    ∧ (¬ here → moveRefused s x.c x.sl = false → (slot s x.c x.sl).outs = 0 → (∀ q ∈ (core s x.c).enqBuf, q.slot ≠ x.sl) →
        (slot s x.c x.sl).pair = false → (cube ≠ cubeId s → portRoom s = true) →
      Answers s x (.goto w a) [a] { m with flights := m.flights ++ [.traveller (pack m x.c x.sl mv) x.c x.sl] })

/-- R83, R84, R91, R92, R93, R94: SPAWN puts the task of its record at the head of the deque and PUSHT at the tail, both counted;
POPT writes the head back; SPAWNAT sends it to a core; WAKE enters the store buffer. -/
def Obligations.TaskResults : Prop := ∀ (s : State) (x : Ctx) (w : BitVec 3) (d a b : BitVec 5) (pa : Nat),
  let u := now s x
  let A := (x.val s a).toNat
  let va := A % 2 ^ 56
  let vb := (x.val s b).toNat % 2 ^ 56
  let h := (slot s x.c x.sl).hdr
  let q := (core s x.c).deque
  let t := taskOf u x.c x.sl (rdBytes u.mem pa 64)
  let W (v : Word) (s' : State) : State := after w 0 x (x.wr s' d.toNat v 0)
  (va % 64 = 0 → destOk d = true → Clean s x [a] → ReadsRecord s x va 64 pa → recordOk (rdBytes u.mem pa 64) = true →
    (q.length < 64 →
      countPort s t.lcube t.lslot = false →
      let pushed (put : List Task → List Task) : State := updSlot (updCore (countTask u t true) x.c fun k => { k with deque := put k.deque }) x.c x.sl
        fun k => { k with kids := if (slot s x.c x.sl).pair then k.kids + 1 else k.kids }
      Answers s x (.spawn w d a) [a] (W 0 (pushed fun l => t :: l)) ∧ Answers s x (.pusht w d a) [a] (W 0 (pushed fun l => l ++ [t])))
    ∧ (64 ≤ q.length → Answers s x (.spawn w d a) [a] (W 1 u) ∧ Answers s x (.pusht w d a) [a] (W 1 u)))
  ∧ (va % 64 = 0 → destOk d = true → Clean s x [a] → localPlace x u va 64 = some pa →
    (q = [] → Answers s x (.popt w d a) [a] (W 0 u))
    ∧ (∀ k ks, q = k :: ks → Quiet s x → pendMet x u (pa - sramPa x.c 0) 64 = false → countPort s k.lcube k.lslot = false →
      Answers s x (.popt w d a) [a]
        (W 1 (countTask (writeBytes (updCore u x.c fun c => { c with deque := ks }) pa (k.bytes.map fun y => (y, false))) k false))))
  ∧ (va % 64 = 0 → Clean s x [a, b] → ReadsRecord s x va 64 pa → recordOk (rdBytes u.mem pa 64) = true → outsFull s x.c x.sl = false →
      (slot s x.c x.sl).pair = false → countPort s t.lcube t.lslot = false → ∀ k, moveHome u x.c x.x h.part vb = .found k → k.cube = cubeId s →
    let v := chargeTrav (countOuts (countTask (tlbTouch u x.c h.part vb) t true) x.c x.sl) x.c x.sl 31 1
    Answers s x (.spawnat w a b) [a, b]
      (after w 0 x { v with flights := v.flights ++ [.task { t with saddr := BitVec.ofNat 64 vb, mate := none, twin := false } k.core (some (x.c, x.sl))] }))
  ∧ (Clean s x [a, b] → (kindOf A = .compute ∨ kindOf A = .channel) → inPartition s A h.part = true → (stream s x.c x.x).sb.length < 16 →
      outsFull s x.c x.sl = false →
    Answers s x (.wake w a b) [a, b] (after w 0 x (countOuts (updStream u x.c x.x fun k =>
      { k with sb := k.sb ++ [{ slot := x.sl, op := .wake ((x.val s b).toNat % 2 ^ 32) A, va := 0, pa := none, size := 0, val := 0,
                                poison := false, window := false, counted := true }] }) x.c x.sl)))

/-- R171, R174, R175: ENQ and LAUNCH place a copy of their 64 bytes in the core's enqueue buffer, behind the stores issued before,
and count it in OUTS.
R173, R174, R176: DEQ, QSTAT, CDONE and CCHK park until the hall answers, and then write the answer to rd; CANCEL cancels
its entry and what hangs under it. -/
def Obligations.QueueInstructions : Prop :=
  (∀ (s : State) (x : Ctx) (w : BitVec 3) (a b : BitVec 5) (pa : Nat),
  let va := (x.val s a).toNat % 2 ^ 56
  let p := (slot s x.c x.sl).hdr.part
  let bs := rdBytes (now s x).mem pa 64
  let B := (x.val s b).toNat
  let copy (q : Nat) : Copy := { slot := x.sl, part := p, queue := q, bytes := bs, record := none, ecx := ecxOf s x.c x.sl,
                                 level := (slot s x.c x.sl).lvl, ahead := (stream s x.c x.x).sb.length }
  let put (q : Nat) : State := after w 9 x (countOuts (updCore (now s x) x.c fun k => { k with enqBuf := k.enqBuf ++ [copy q] }) x.c x.sl)
  Clean s x [a, b] → va % 64 = 0 → ReadsRecord s x va 64 pa → (core s x.c).enqBuf.length < 8 → outsFull s x.c x.sl = false →
    (B < 65536 → qEnabled s p B = true → qKind s p B ≠ 2 → Answers s x (.enq w a b) [a, b] (put B))
    ∧ (recordPlace x (now s x) (leNat ((bs.drop 8).take 8) % 2 ^ 56) = none → Answers s x (.launch w a) [a] (put 0x10000)))
  ∧ (∀ (s : State) (x : Ctx) (w : BitVec 3) (d a b : BitVec 5) (pa : Nat),
  let va := (x.val s a).toNat % 2 ^ 56
  let e := (x.val s a).toNat % 2 ^ 32
  let B := x.val s b
  let p := (slot s x.c x.sl).hdr.part
  let P (i : Instr) (c : Cond) : State := parked 9 x (now s x) ((encode i).getD 0) 1 c
  (destOk d = true →
    (Clean s x [a, b] → va % 64 = 0 → localPlace x (now s x) va 64 = some pa → B.toNat < 65536 → qEnabled s p B.toNat = true →
        qKind s p B.toNat ≠ 1 → touchesBuffer s x.c x.x pa 64 = false →
      Answers s x (.deq w d a b) [a, b] (P (.deq w d a b) (.deq p B.toNat pa)))
    ∧ (Clean s x [b] → B.toNat < 65536 → qEnabled s p B.toNat = true →
      Answers s x (.qstat w d b) [b] (P (.qstat w d b) (.queueStat p B.toNat)))
    ∧ (Clean s x [a, b] → B.toNat < 2 ^ 34 → isEntry s p e = true → eLevel s p e ≠ 1 →
      Answers s x (.cdone w d a b) [a, b] (P (.cdone w d a b) (.cdone p e B)))
    ∧ (Clean s x [a] → isEntry s p e = true → Answers s x (.cchk w d a) [a] (P (.cchk w d a) (.cchk p e))))
  ∧ (∀ v, let W : State := after w 9 x (x.wr (now s x) d.toNat v 0)
    Resumes s x (.deq w d a b) (.value v false) W ∧ Resumes s x (.qstat w d b) (.value v false) W
    ∧ Resumes s x (.cdone w d a b) (.value v false) W ∧ Resumes s x (.cchk w d a) (.value v false) W)
  ∧ (Clean s x [a] → isEntry s p e = true → Answers s x (.cancel w a) [a] (after w 9 x (cancelEntry (now s x) p e))))

/-- R371 to R375, R353: the SYS instructions that take or answer traps. TRAP traps SWTRAP with its operand; BRK halts a traveller of
a partition under debug, else traps BREAK; WFM takes the steward's oldest message of its partition; below their level they trap PRIV.
R373, R356: ERET with ACT = 0 makes the message's traveller READY at the message's TRPC, its failed commands resumed and its
scoreboard override set; with ACT = 1 it ends it. RESTART starts it again as at its creation. The message is answered. -/
def Obligations.SystemInstructions : Prop :=
  (∀ (s : State) (x : Ctx) (w : BitVec 3) (d a b : BitVec 5),
  let u := now s x
  let lvl := (slot s x.c x.sl).lvl
  let p := (slot s x.c x.sl).hdr.part
  let A := (x.val s a).toNat
  let priv (i : Instr) : State := trapped x s { cause := .priv, addr := BitVec.ofNat 64 ((encode i).getD 0) }
  (Clean s x [a] → Answers s x (.trap w a) [a] (trapped x s { cause := .swtrap, addr := x.val s a }))
  ∧ (dbgEn s p = false → Answers s x (.brk w) [] (trapped x s { cause := .brk }))
  ∧ (dbgEn s p = true → Answers s x (.brk w) [] (haltSlot (retireOut x u (x.pc + 4)) x.c x.sl .running))
  ∧ (lvl = 0 → destOk d = true →
    Answers s x (.eret w a) [a] (priv (.eret w a)) ∧ Answers s x (.wfm w d) [] (priv (.wfm w d))
    ∧ Answers s x (.seal w a) [a] (priv (.seal w a)) ∧ Answers s x (.restart w) [] (priv (.restart w)))
  ∧ (lvl < 2 → destOk d = true → Answers s x (.purseadd w d a b) [a, b] (priv (.purseadd w d a b)))
  ∧ (1 ≤ lvl → (slot s x.c x.sl).msg = none → destOk d = true → ∀ ms m rest, mget [] s.tmsgs x.c = ms ++ m :: rest → m.part = p →
      (∀ k ∈ ms, k.part ≠ p) →
    Answers s x (.wfm w d) [] (after w 0 x (x.wr (updSlot { u with tmsgs := mput [] s.tmsgs x.c (ms ++ rest) } x.c x.sl fun k =>
      { k with msg := some m }) d.toNat (BitVec.ofNat 64 (m.core + m.slot * 2 ^ 13)) 0)))
  ∧ (1 ≤ lvl → Clean s x [a] → (kindOf A = .compute ∨ kindOf A = .channel) → (core s A).asg = true → (core s A).part = p →
    ((core s A).isSealed = true → Answers s x (.seal w a) [a] (after w 0 x u))
    ∧ ((core s A).isSealed = false → (core s A).sealing = false →
      Answers s x (.seal w a) [a] (parked 0 x (updCore u A fun k => { k with sealing := true, sealCause := 8 })
        ((encode (.seal w a)).getD 0) 1 (.sealDone A))))
  ∧ (∀ v q, Resumes s x (.seal w a) (.value v q) (after w 0 x u))
  ∧ (2 ≤ lvl → destOk d = true → Clean s x [a, b] → 0 < A → A ≤ 128 → (purse s A).en = true →
    Answers s x (.purseadd w d a b) [a, b] (parked 0 x u ((encode (.purseadd w d a b)).getD 0) 1 (.purse A (x.val s b))))
  ∧ (∀ v q, Resumes s x (.purseadd w d a b) (.value v q) (after w 0 x (x.wr u d.toNat v 0))))
  ∧ (∀ (s : State) (x : Ctx) (w : BitVec 3) (a : BitVec 5) (m : TrapMsg),
  let u := now s x
  let A := (x.val s a).toNat
  let o := setSbo u m.core m.slot (A / 4 % 4)
  let done (s' : State) : State := after w 0 x (updSlot s' x.c x.sl fun k => { k with msg := none })
  1 ≤ (slot s x.c x.sl).lvl → (slot s x.c x.sl).msg = some m → m.task = none → m.esc = false → targetOf s m = .live →
    (Clean s x [a] → A < 16 →
      (A % 4 = 0 → Answers s x (.eret w a) [a] (done (eretResume o m.core m.slot m.trpc)))
      ∧ (A % 4 = 1 → Answers s x (.eret w a) [a] (done (endByHandler o m.core m.slot))))
    ∧ (statusBit s m.core m.slot 11 = true → Answers s x (.restart w) [] (done (restartSlot u m.core m.slot))))


/-! ## Engines: instructions that enqueue commands -/

/-- R177, R178, R195, R199 to R218: a VARITH, VCONV, VRED, VPERM, VSFU, VMEM or VMX instruction whose operands are placed enters the
coach queue with its word, its pc and the values its registers, P and FRM hold at issue; the traveller goes on.
R211, R208, R209: VSYNC goes on when none of the traveller's vector commands or loops is pending or active, else it parks.
VLOOP captures its body and gives it to the core's sequencer; a count of 0 gives nothing. -/
def Obligations.VectorInstructions : Prop :=
  (∀ (s : State) (x : Ctx) (w : BitVec 3) (d a b : BitVec 5) (t : BitVec 3) (e r : BitVec 4),
  let three : List Instr := [.vadd w d a b t, .vsub w d a b t, .vmul w d a b t, .vmin w d a b t, .vmax w d a b t, .vminu w d a b t,
    .vmaxu w d a b t, .vand w d a b t, .vor w d a b t, .vxor w d a b t, .vsll w d a b t, .vsrl w d a b t, .vsra w d a b t, .vadds w d a b t,
    .vsubs w d a b t, .vmulh w d a b t, .vabsd w d a b t, .vfma w d a b t, .vfms w d a b t, .vdiv w d a b t, .vcmpeq w d a b t,
    .vcmpne w d a b t, .vcmplt w d a b t, .vcmple w d a b t, .vcmpltu w d a b t, .vsel w d a b t, .vdot w d a b t, .vshuf w d a b t,
    .vslup w d a b t, .vsldn w d a b t, .vzip w d a b t, .vuzp w d a b t, .vgather w d a b t, .vscatter w d a b t, .vamoadd w d a b t,
    .vamomax w d a b t, .vamomin w d a b t, .vredadd w d a b t, .vmxpack w d a b, .vmxunpk w d a b, .vscale w d a b]
  let two : List Instr := [.vsqrt w d a t, .vneg w d a t, .vabs w d a t, .vconv w d a e r, .vrsum w d a t, .vrmax w d a t, .vrmin w d a t,
    .vrmaxi w d a t, .vrmini w d a t, .vrand w d a t, .vror w d a t, .vrxor w d a t, .vbcast w d a t, .vcmpr w d a t, .vexpd w d a t,
    .vmov w d a t, .viota w d a t, .vexp2 w d a t, .vlog2 w d a t, .vrsqrt w d a t, .vrcp w d a t, .vsin w d a t, .vcos w d a t,
    .vtanh w d a t, .vsigm w d a t]
  let D := x.val s d
  let A := x.val s a
  let B := x.val s b
  let enters (word : Nat) (B : Word) : State := after w 99 x (pushRec (now s x) x.c 0
    { word := word, pc := x.pc, slot := x.sl, tid := tidOf s x.c x.sl, d := D, a := A, b := B, p := predOf s x.c x.sl,
      frm := BitVec.ofNat 8 (frmOf s x.c x.sl), key := (slot s x.c x.sl).hdr.key, ecx := ecxOf s x.c x.sl,
      part := (slot s x.c x.sl).hdr.part, mem := [], seq := 0 })
  let ready (word : Nat) (B : Word) : Prop := vecLegal word = true ∧ (vecRounds word = true → frmIllegal (frmOf s x.c x.sl) = false)
    ∧ vecCodeBad word B = false ∧ vecCheck s x.c (slot s x.c x.sl).hdr.part word D A B = none
  hasLoop s x.c x.sl = false → Drained s x → engRoom s x.c 0 = true →
    (Clean s x [a, b, d] → ∀ i ∈ three, ∀ word, encode i = some word → ready word B → Answers s x i [a, b, d] (enters word B))
    ∧ (Clean s x [a, d] → ∀ i ∈ two, ∀ word, encode i = some word → ready word 0 → Answers s x i [a, d] (enters word 0)))
  ∧ (∀ (s : State) (x : Ctx) (w : BitVec 3) (l a b : BitVec 5) (pa : Nat),
  let u := now s x
  let C := (x.val s a).toNat
  let va := (x.val s b).toNat % 2 ^ 56
  let word := word3 0x1A800000 w l a b
  (pathBusy s x.c x.sl 1 = false → Answers s x (.vsync w) [] (after w 0 x u))
  ∧ (pathBusy s x.c x.sl 1 = true → Answers s x (.vsync w) [] (parked 0 x u ((encode (.vsync w)).getD 0) 4 .vecDone))
  ∧ (1 ≤ l.toNat → l.toNat ≤ 16 → C < 2 ^ 32 → va % 16 = 0 → Clean s x [a, b] → (core s x.c).seqr = none → Drained s x →
      ReadsRecord s x va (8 * l.toNat) pa →
    ∀ body xl wl, captureFrom x u C word l.toNat 1 (rdBytes u.mem pa (8 * l.toNat)) = .ok (body, xl, wl) →
      let v := if C = 0 then u else updCore u x.c fun k => { k with seqr := some { slot := x.sl, tid := tidOf s x.c x.sl, body := body.map (·.1), strides := body.map (·.2), count := C } }
      let i : Issue := { word := wl, legal := bodyOk l, reads := [a.toNat, b.toNat], sync := [a.toNat, b.toNat] }
      let t := retire i { x with t := xl.t } v (xl.pc + 4) false
      Answers s x (.vloop w l a b) [a, b] (updStream { t with cycle := xl.t } x.c x.x fun k => { k with fbuf := k.fbuf.drop l.toNat })))

/-- R235, R236, R237, R241, R242: accumulator banks. MACQ takes the lowest run of free banks, zeroed and held; MREL frees a run;
MSTAT reads and clears status; MZERO enqueues; MSYNC waits for the matrix commands. -/
def Obligations.AccumulatorBanks : Prop := ∀ (s : State) (x : Ctx) (w : BitVec 3) (d a b : BitVec 5) (k : Nat) (h : Handle),
  let u := now s x
  let q := quadOf x.c
  let n := (x.val s a).toNat
  let free (i : Nat) : Prop := lookup (quad s q).holders i = none
  let W (v : Word) (s' : State) : State := after w 0 x (x.wr s' d.toNat v 0)
  (destOk d = true → Clean s x [a] → 1 ≤ n → n ≤ 64 →
    (k + n ≤ 128 → (∀ i, i < n → free (k + i)) → (∀ j, j < k → ∃ i, i < n ∧ ¬ free (j + i)) →
      let z := zeroBanks u q { bank := k, nb := n }
      let y := updQuad z q fun v => { v with holders := (List.range n).foldl (fun m i => insertAt m (k + i) (x.c, x.sl, tidOf s x.c x.sl)) v.holders }
      Answers s x (.macq w d a) [a] (W (BitVec.ofNat 64 (k + n * 256)) (wsWr y x.c x.sl 0xFD 1 (holdOf y x.c x.sl + n))))
    ∧ ((∀ j, j + n ≤ 128 → ∃ i, i < n ∧ ¬ free (j + i)) → Answers s x (.macq w d a) [a] (W 0 u)))
  ∧ (Clean s x [d] → handleOf s x.c x.sl (x.val s d).toNat = some h →
    (bankBusy s x.c x.sl h = false → Answers s x (.mrel w d) [d] (after w 0 x (freeBanks u x.c x.sl h)))
    ∧ (Drained s x → engRoom s x.c 0 = true → frmIllegal (frmOf s x.c x.sl) = false →
      Answers s x (.mzero w d) [d] (after w 99 x (pushRec u x.c 0 (newRec x u ((encode (.mzero w d)).getD 0) (x.val s d) 0 0)))))
  ∧ (destOk d = true → Clean s x [a, b] → handleOf s x.c x.sl n = some h → bankBusy s x.c x.sl h = false →
    let st (j : Nat) : Byte := mget 0 (quad s q).bankStatus (h.bank + j)
    let keep : Byte := ~~~(BitVec.ofNat 8 ((x.val s b).toNat % 64))
    ∃ v : Byte, (∀ i, v.getLsbD i = (List.range h.nb).any fun j => (st j).getLsbD i)
      ∧ Answers s x (.mstat w d a b) [a, b] (W (v.zeroExtend 64) (updQuad u q fun k =>
        { k with bankStatus := (List.range h.nb).foldl (fun m i => mput 0 m (h.bank + i) (st i &&& keep)) k.bankStatus })))
  ∧ (pathBusy s x.c x.sl 2 = false → Answers s x (.msync w) [] (after w 0 x u))
  ∧ (pathBusy s x.c x.sl 2 = true → Answers s x (.msync w) [] (parked 0 x u ((encode (.msync w)).getD 0) 4 .matDone))

/-- R234, R239, R240: MMA, MMR, MLDC, MSTC and MADDC whose checks pass enter the coach queue with the extents they resolved; MMA
and MMR also capture the descriptors they read. -/
def Obligations.MatrixCommandsEnter : Prop := ∀ (s : State) (x : Ctx) (w : BitVec 3) (d a b : BitVec 5) (pa : Nat) (h g : Handle),
  let u := now s x
  let D := x.val s d
  let A := x.val s a
  let B := (x.val s b).toNat
  let va := A.toNat % 2 ^ 56
  let M := extent x s (B % 256) 26
  let N := extent x s (B / 256 % 256) 27
  let K := extent x s (bitsOf B 27 16) 28
  let enters (word : Nat) (f : Rec → Rec) : State := after w 99 x (pushRec u x.c 0 (f (newRec x u word D A (x.val s b))))
  let fits (h : Handle) (n : Nat) : Prop := n ≤ h.nb * 2048
  frmIllegal (frmOf s x.c x.sl) = false → Clean s x [a, b, d] → Drained s x → engRoom s x.c 0 = true →
      handleOf s x.c x.sl D.toNat = some h → M ≤ 128 → N ≤ 128 →
    (va % 16 = 0 → B / 2 ^ 32 % 16 = 0 → bitsOf B 19 19 = 0 → bitsOf B 31 24 = 0 → mfPair (bitsOf B 18 16) (bitsOf B 23 20) = true →
        fits h (atSize (bitsOf B 18 16) * M * N) →
      let n := mfSpan (bitsOf B 23 20) M N (B / 2 ^ 32)
      let place (o : Opd) : Prop := M = 0 ∨ n = 0 ∨ (vecPlace s x.c (slot s x.c x.sl).hdr.part va o).isSome
      (place (.src n 16) → ∀ word, encode (.mldc w d a b) = some word →
        Answers s x (.mldc w d a b) [a, b, d] (enters word fun r => { r with bset := [M, N] }))
      ∧ (place (.dst n) → ∀ word, encode (.mstc w d a b) = some word →
        Answers s x (.mstc w d a b) [a, b, d] (enters word fun r => { r with bset := [M, N] })))
    ∧ (B / 2 ^ 19 = 0 → handleOf s x.c x.sl A.toNat = some g → bitsOf B 18 16 < 3 → fits h (atSize (bitsOf B 18 16) * M * N) →
        fits g (atSize (bitsOf B 18 16) * M * N) → ∀ word, encode (.maddc w d a b) = some word →
      Answers s x (.maddc w d a b) [a, b, d] (enters word fun r => { r with bset := [M, N] }))
    ∧ (∀ (rot : Bool) (i : Instr) (word : Nat), i = (if rot then .mmr w d a b else .mma w d a b) → encode i = some word →
        let bytes := if rot then 64 else 32
        let bs := rdBytes u.mem pa bytes
        let P : Operand := { d := descOf (bs.take 16), rows := M, k := K }
        let Q : Operand := { d := descOf ((bs.drop 16).take 16), rows := N, k := K }
        bitsOf B 30 28 = 0 → (if rot then bitsOf B 39 38 = 0 ∧ bitsOf B 63 46 = 0 else bitsOf B 63 32 = 0) → va % 16 = 0 →
        ReadsRecord s x va bytes pa → descMisaligned P = false → descMisaligned Q = false →
        descBounds s x.c P = none → descBounds s x.c Q = none →
        (∀ o ∈ [P, Q], o.d.rf = true → (ring s x.c o.d.ring).init = true) → descBad P = false → descBad Q = false →
        ¬ (P.d.rf = true ∧ Q.d.rf = true ∧ P.d.ring = Q.d.ring) →
        (rot = true → leNat ((bs.drop 32).take 16) < 2 ^ 64 ∧ leNat ((bs.drop 48).take 16) < 2 ^ 64 ∧ (rotation s x.c x.sl).isSome) →
        K ≤ 2048 → ((cfMx P.d.fmt || cfMx Q.d.fmt) = true → K % 32 = 0) → fits h ((if P.d.fmt = 0 then 8 else 4) * M * N) →
        cfInt P.d.fmt = cfInt Q.d.fmt → (P.d.fmt = 0 ↔ Q.d.fmt = 0) → (s.comp = .bringup → P.d.fmt ∈ [1, 2, 3] ∧ Q.d.fmt ∈ [1, 2, 3]) →
      Answers s x i [a, b, d] (enters word fun r =>
        { r with mem := bs, rings := (if P.d.rf then [P.d.ring] else []) ++ (if Q.d.rf then [Q.d.ring] else []),
                 bset := [M, N, K, ((rotation s x.c x.sl).getD (0, 0)).1, ((rotation s x.c x.sl).getD (0, 0)).2] }))

/-- R177, R183 to R186: the CPY instructions enter the courier queue with their captured registers and the shape or window
descriptor they read; a command of no bytes is done at once; CWAIT goes on when few enough are outstanding. -/
def Obligations.CourierCommandsEnter : Prop := ∀ (s : State) (x : Ctx) (w : BitVec 3) (d a b : BitVec 5) (pa : Nat),
  let u := now s x
  let p := (slot s x.c x.sl).hdr.part
  let dv : Nat := (x.val s d).toNat % 2 ^ 56
  let av : Nat := (x.val s a).toNat % 2 ^ 56
  let bv : Nat := (x.val s b).toNat % 2 ^ 56
  let B : Nat := (x.val s b).toNat
  let n : Nat := B % 2 ^ 24
  let enters (i : Instr) (B : Word) (mem : List Byte) (total : Nat) : State := after w 99 x (pushRec u x.c 1
    { newRec x u ((encode i).getD 0) (x.val s d) (x.val s a) B with mem := mem, st := if total = 0 then 2 else 0 })
  (Drained s x → engRoom s x.c 1 = true → outsFull s x.c x.sl = false →
    (Clean s x [a, b, d] →
      (lwBad false B = false → dv % 16 = 0 → av % 16 = 0 → n % 16 = 0 →
          (n ≠ 0 → dstTrap s x.c p dv (dv + n) [(dv, n)] (lwBar B) = none ∧ srcTrap s x.c p av (av + n) [(av, n)] = none) →
        Answers s x (.copy w d a b) [a, b, d] (enters (.copy w d a b) (x.val s b) [] n))
      ∧ (let bs := rdBytes u.mem pa 16
        let q := shapeOf (leNat bs)
        let lo (v : Nat) (st : Int) : Int := min (v : Int) (v + ((q.rows : Int) - 1) * st)
        let hi (v : Nat) (st : Int) : Int := max (v : Int) (v + ((q.rows : Int) - 1) * st) + q.rowb
        let rows (v : Nat) (st : Int) : List (Nat × Nat) := (List.range q.rows).map fun (i : Nat) => (intMod56 ((v : Int) + (i : Int) * st), q.rowb)
        dv % 16 = 0 → av % 16 = 0 → bv % 16 = 0 → ReadsRecord s x bv 16 pa → shapeBad (leNat bs) = false → q.rowb % 16 = 0 →
          q.sstr % 16 = 0 → q.dstr % 16 = 0 →
          (q.rowb * q.rows ≠ 0 → dstTrap s x.c p (lo dv q.dstr) (hi dv q.dstr) (rows dv q.dstr) q.bar = none
            ∧ srcTrap s x.c p (lo av q.sstr) (hi av q.sstr) (rows av q.sstr) = none) →
        Answers s x (.copy2d w d a b) [a, b, d] (enters (.copy2d w d a b) (x.val s b) bs (q.rowb * q.rows)))
      ∧ (∀ e ∈ [(Instr.putx w d a b, false, dv / 2 ^ 53 % 8 ≤ 2 ∧ ((lwBar B).isSome → benTarget s x.c dv = true), av),
            (.getx w d a b, false, av / 2 ^ 53 % 8 ≤ 2, dv), (.mcast w d a b, true, aliasBase x.c ≤ dv ∧ dv + n ≤ 2 ^ 56, av),
            (.nred w d a b, true, aliasBase x.c ≤ dv ∧ dv + n ≤ 2 ^ 56, av)],
          lwBad e.2.1 B = false → dv % 16 = 0 → av % 16 = 0 → n % 16 = 0 → (n ≠ 0 → e.2.2.1 ∧ inLocal s x.c p e.2.2.2 n = true) →
        Answers s x e.1 [a, b, d] (enters e.1 (x.val s b) [] n)))
    ∧ (Clean s x [a, d] →
      let bs := rdBytes u.mem pa 64
      let q := winOf (leNat bs)
      dv % 16 = 0 → av % 16 = 0 → ReadsRecord s x av 64 pa → winBad (leNat bs) = false → q.tbase % q.esz = 0 →
        (∀ k ∈ q.dims, k.tstr % (q.esz : Int) = 0) →
        (q.bytes ≠ 0 → dstTrap s x.c p dv (dv + q.bytes) [(dv, q.bytes)] q.bar = none
          ∧ ∀ lo hi, q.range = some (lo, hi) →
            srcTrap s x.c p lo hi ((List.range q.count).filterMap fun i => (q.elem i).map fun a => (a, q.esz)) = none) →
      Answers s x (.wincopy w d a) [a, d] (enters (.wincopy w d a) 0 bs q.bytes)))
  ∧ (Clean s x [a] → courierFaulted s x.c x.sl = none →
      (courierOut s x.c x.sl ≤ (x.val s a).toNat → Answers s x (.cwait w a) [a] (after w 0 x u))
      ∧ ((x.val s a).toNat < courierOut s x.c x.sl →
        Answers s x (.cwait w a) [a] (parked 0 x u ((encode (.cwait w a)).getD 0) 4 (.courierDone (x.val s a).toNat))))

/-! ## Rings, barriers, atomics and fences -/

/-- R181, R312: ring instructions. RPUSH and RPOP trap RING on a full or empty ring; RWAITD and RWAITS go on when the ring holds enough
data or space, else park; RSTAT reads the indexes. -/
def Obligations.RingInstructions : Prop := ∀ (s : State) (x : Ctx) (w : BitVec 3) (n : BitVec 3) (a : BitVec 5) (pa : Nat) (k : Ring),
  let u := now s x
  let r := n.toNat
  let v := (x.val s a).toNat
  let q := ring s x.c r
  let T : State := trapped x s { cause := .ring, addr := BitVec.ofNat 64 r }
  r ≤ 7 →
    (Clean s x [a] → v % 2 ^ 56 % 16 = 0 → ReadsRecord s x (v % 2 ^ 56) 16 pa → ringImage s x.c (leNat (rdBytes u.mem pa 16)) = some k →
        ¬ (q.init = true ∧ ringNamed s x.c r = true) →
      let e := putRing (setFull u (granules (sramPa x.c k.base) (k.nst * k.ssize)) false) x.c r k
      let bind (s : State) (b : Nat) : State := if (barrier s x.c b).rb = true then s else
        putBarrier (barBreak s x.c b) x.c b { pcnt := (barrier (barBreak s x.c b) x.c b).pcnt, exp := 1, v := true, rb := true }
      Answers s x (.rinit w n a) [a] (after w 0 x (ringWake (releaseHeld (bind (bind e (16 + 2 * r)) (17 + 2 * r)) x.c) x.c r)))
    ∧ (q.init = true →
      (q.occ ≠ q.nst → Answers s x (.rpush w n) [] (after w 0 x (ringPush u x.c r)))
      ∧ (q.occ = q.nst → Answers s x (.rpush w n) [] T)
      ∧ (q.occ ≠ 0 → Answers s x (.rpop w n) [] (after w 0 x (ringPop u x.c r)))
      ∧ (q.occ = 0 → Answers s x (.rpop w n) [] T)
      ∧ (destOk a = true → Answers s x (.rstat w n a) [] (after w 0 x (x.wr u a.toNat
          (BitVec.ofNat 64 (q.pi + q.ci * 2 ^ 8 + q.occ * 2 ^ 16 + q.nst * 2 ^ 24 + q.base * 2 ^ 32 + 2 ^ 52)) 0)))
      ∧ (Clean s x [a] → 1 ≤ v → v ≤ q.nst →
        (v ≤ q.occ → Answers s x (.rwaitd w n a) [a] (after w 0 x u))
        ∧ (q.occ < v → Answers s x (.rwaitd w n a) [a] (parked 0 x u ((encode (.rwaitd w n a)).getD 0) 3 (.ringData r v)))
        ∧ (v ≤ q.nst - q.occ → Answers s x (.rwaits w n a) [a] (after w 0 x u))
        ∧ (q.nst - q.occ < v → Answers s x (.rwaits w n a) [a] (parked 0 x u ((encode (.rwaits w n a)).getD 0) 3 (.ringSpace r v)))))
    ∧ (q.init = false → Answers s x (.rpush w n) [] T ∧ Answers s x (.rpop w n) [] T)

/-- R311, R313 to R317: barrier instructions. BINIT makes an invalid barrier valid; BINV breaks it; BARRIVE and BEXPECT enter the
store buffer; BWAIT goes on when the phase has moved on, else parks; BTEST reads either half. Both read the barrier after the
agent's own earlier events on it have left the store buffer (R293, R318). -/
def Obligations.BarrierInstructions : Prop := ∀ (s : State) (x : Ctx) (w : BitVec 3) (n a b : BitVec 5),
  let u := now s x
  let i := n.toNat
  let k := barrier s x.c i
  let A := x.val s a
  let T : State := trapped x s { cause := .barrier, addr := BitVec.ofNat 64 i }
  let quiet : Prop := ∀ e ∈ (stream s x.c x.x).sb, ∀ kind cnt, e.op ≠ .bar x.c i kind cnt
  let push (kind cnt : Nat) : State := after w 0 x (updStream u x.c x.x fun v =>
    { v with sb := v.sb ++ [{ slot := x.sl, op := .bar x.c i kind cnt, va := A, pa := none, size := 8, val := A, poison := false,
                              window := false, counted := false }] })
  (Clean s x [a] → Drained s x → 1 ≤ A.toNat → A.toNat < 65536 →
    (k.v = false → Answers s x (.binit w n a) [a] (after w 0 x (putBarrier u x.c i { pcnt := k.pcnt, exp := A.toNat, v := true })))
    ∧ (k.v = true → Answers s x (.binit w n a) [a] T))
  ∧ (Drained s x →
    (k.rb = true → Answers s x (.binv w n) [] T)
    ∧ (k.rb = false → k.v = false → Answers s x (.binv w n) [] (after w 0 x u))
    ∧ (k.rb = false → k.v = true → Answers s x (.binv w n) [] (after w 0 x (putBarrier (barBreak u x.c i) x.c i { pcnt := k.pcnt }))))
  ∧ (Clean s x [a] → k.v = true → k.rb = false → (stream s x.c x.x).sb.length < 16 →
    (A.toNat < 2 ^ 16 → Answers s x (.barrive w n a) [a] (push 0 (if A = 0 then 1 else A.toNat)))
    ∧ (A.toNat < 2 ^ 32 → Answers s x (.bexpect w n a) [a] (push 1 A.toNat)))
  ∧ (Clean s x [a] → k.v = false → A.toNat < 2 ^ 16 → Answers s x (.barrive w n a) [a] T)
  ∧ (Clean s x [a] → quiet → k.v = false → Answers s x (.bwait w n a) [a] T)
  ∧ (Clean s x [a] → quiet → k.v = true →
    let tok := A.toNat % 65536
    (k.pcnt ≠ tok → Answers s x (.bwait w n a) [a] (after w 0 x u))
    ∧ (k.pcnt = tok → Answers s x (.bwait w n a) [a] (parked 0 x (putBarrier u x.c i
        { k with waiters := k.waiters.filter (· ≠ x.sl) ++ [x.sl] }) ((encode (.bwait w n a)).getD 0) 3 (.phase i tok))))
  ∧ (destOk a = true → Clean s x [b] → quiet →
    let W (v : Word) : State := after w 0 x (x.wr u a.toNat v 0)
    (x.val s b = 0 → Answers s x (.btest w n a b) [b] (W (BitVec.ofNat 64 (k.pcnt % 65536 + k.arr % 65536 * 2 ^ 16 + k.exp % 65536 * 2 ^ 32
      + (if k.v then 1 else 0) * 2 ^ 48 + (if k.rb then 1 else 0) * 2 ^ 49 + (if k.err then 1 else 0) * 2 ^ 50
      + (if (barWaiters s x.c i).isEmpty then 0 else 1) * 2 ^ 51))))
    ∧ (x.val s b = 1 → Answers s x (.btest w n a b) [b] (W (BitVec.ofInt 64 k.pend))))

/-- R283 to R285: a returning atomic on a free double of this core's own SRAM reads the old value into rd and leaves what its
operation gives.
R286, R287: RLS writes the reserved double and gives the reservation up; without a reservation, or on another double, it traps
ILLEGAL; when the home of its double was sealed since, SEALED. -/
def Obligations.AtomicResults : Prop :=
  (∀ (s : State) (x : Ctx) (w : BitVec 3) (d a b : BitVec 5) (z : BitVec 1) (off : Nat),
  let n := if z = 0 then 4 else 8
  let m := 2 ^ (8 * n)
  let va := (x.val s a).toNat % 2 ^ 56
  let p := (slot s x.c x.sl).hdr.part
  let pa := sramPa x.c off
  let old := rdN (now s x).mem pa n
  let B := (x.val s b).toNat % m
  let C := (x.val s d).toNat % m
  let sg (v : Nat) : Int := if v < m / 2 then v else (v : Int) - m
  let t := chargeAccess x (tlbTouch (now s x) x.c p va) (.own off)
  let r := { t with resvQ := insertAt t.resvQ (pa / 8 * 8) [{ core := x.c, slot := x.sl, granted := true, since := t.cycle }] }
  let ext (v : Nat) : Word := if z = 0 then (BitVec.ofNat 32 v).signExtend 64 else BitVec.ofNat 64 v
  let fl := (fadd (if z = 0 then fp32 else fp64) old B .rne).bits
  let done (new : Nat) (v : Word) : State := after w 7 x (x.wr (applyRelease r x.c x.sl pa n (BitVec.ofNat 64 new) (ecxOf s x.c x.sl)) d.toNat v 0)
  destOk d = true → (slot s x.c x.sl).resv = none → va % n = 0 → reach (now s x) x.c x.x p va true true = .own off →
      (regionOf s x.c off = .data ∨ regionOf s x.c off = .ring) → Quiet s x → mget [] s.resvQ (pa / 8 * 8) = [] → homeFree s pa = true →
      s.latent = [] → s.softErr = [] → poisonedAt s pa n = false →
    (Clean s x [a, b] →
      Answers s x (.amoadd w d a b z) [a, b] (done ((old + B) % m) (ext old))
      ∧ Answers s x (.amoand w d a b z) [a, b] (done (old &&& B) (ext old))
      ∧ Answers s x (.amoor w d a b z) [a, b] (done (old ||| B) (ext old))
      ∧ Answers s x (.amoxor w d a b z) [a, b] (done (old ^^^ B) (ext old))
      ∧ Answers s x (.amomin w d a b z) [a, b] (done (if sg old ≤ sg B then old else B) (ext old))
      ∧ Answers s x (.amomax w d a b z) [a, b] (done (if sg old ≤ sg B then B else old) (ext old))
      ∧ Answers s x (.amominu w d a b z) [a, b] (done (min old B) (ext old))
      ∧ Answers s x (.amomaxu w d a b z) [a, b] (done (max old B) (ext old))
      ∧ Answers s x (.amoswap w d a b z) [a, b] (done B (ext old))
      ∧ Answers s x (.amofadd w d a b z) [a, b] (done fl (BitVec.ofNat 64 old)))
    ∧ (Clean s x [a, b, d] → Answers s x (.amocas w d a b z) [a, b, d] (done (if old = C then B else old) (ext old)))
    ∧ (Clean s x [a] → Answers s x (.rsv w d a z) [a] (after w 7 x (x.wr (updSlot r x.c x.sl fun k =>
        { k with resv := some { pa := pa, size := n, va := BitVec.ofNat 64 va }, voided := none }) d.toNat (ext old) 0))))
  ∧ (∀ (s : State) (x : Ctx) (w : BitVec 3) (a b : BitVec 5) (z : BitVec 1) (r : Resv) (off : Nat),
  let n := if z = 0 then 4 else 8
  let va := (x.val s a).toNat % 2 ^ 56
  let pa := r.pa / 8 * 8 + va % 8
  let T : State := trapped x s { cause := .illegal, addr := BitVec.ofNat 64 ((encode (.rls w a b z)).getD 0) }
  Clean s x [a, b] →
    ((slot s x.c x.sl).resv = none → (∀ v, (slot s x.c x.sl).voided = some v → va / 8 ≠ v.va.toNat / 8) → Answers s x (.rls w a b z) [a, b] T)
    ∧ (∀ v, (slot s x.c x.sl).resv = none → (slot s x.c x.sl).voided = some v → va / 8 = v.va.toNat / 8 → va % n = 0 →
      Answers s x (.rls w a b z) [a, b] (trapped x s { cause := .sealed, sub := 1, addr := BitVec.ofNat 64 va }))
    ∧ ((slot s x.c x.sl).resv = some r →
      (va / 8 ≠ r.va.toNat / 8 → Answers s x (.rls w a b z) [a, b] T)
      ∧ (va / 8 = r.va.toNat / 8 → va % n = 0 → homeOf r.pa = .core x.c off → homeOf pa = .core x.c (off / 8 * 8 + va % 8) → r.pa < 2 ^ 60 →
          Quiet s x →
        Answers s x (.rls w a b z) [a, b] (after w 7 x (applyRelease (updSlot (chargeAccess x (now s x) (.own off)) x.c x.sl fun k =>
          { k with resv := none }) x.c x.sl pa n (x.val s b) (ecxOf s x.c x.sl))))))

/-- R283, R289, R290, R329: LDAQ loads with a trap on poison, its result interlocked; STRL, whose target is not poisoned, and the
REDs, which need WR alone, enter the store buffer. -/
def Obligations.OrderedAccesses : Prop := ∀ (s : State) (x : Ctx) (w : BitVec 3) (d a b : BitVec 5) (p : BitVec 2) (z : BitVec 1) (off : Nat),
  let n := if z = 0 then 4 else 8
  let va := (x.val s a).toNat % 2 ^ 56
  let q := (slot s x.c x.sl).hdr.part
  let u := tlbTouch (now s x) x.c q va
  let pa := sramPa x.c off
  let ext (v : Nat) : Word := if z = 0 then (BitVec.ofNat 32 v).signExtend 64 else BitVec.ofNat 64 v
  let push (s' : State) (op : SbOp) (k : Nat) : State := after w k x (updStream (chargeAccess x s' (.own off)) x.c x.x fun v =>
    { v with sb := v.sb ++ [{ slot := x.sl, op := op, va := BitVec.ofNat 64 va, pa := some pa, size := n, val := x.val s b, poison := false,
                              window := false, counted := false }] })
  va % n = 0 →
    (destOk d = true → Clean s x [a] → reach (now s x) x.c x.x q va true false = .own off → pendMet x (now s x) off n = false →
        forward (stream s x.c x.x).sb pa n = .none → s.latent = [] → s.softErr = [] → poisonedAt s pa n = false →
      Answers s x (.ldaq w d a p z) [a] (after w 7 x (x.wr (chargeAccess x u (.own off)) d.toNat (ext (rdN u.mem pa n)) 0)))
    ∧ (Clean s x [a, b] → (stream s x.c x.x).sb.length < 16 →
      (reach (now s x) x.c x.x q va false true = .own off → regionOf s x.c off ≠ .workspace → (p = 3 → coreOutstanding s x.c x.x x.sl = false) →
          touchesBuffer s x.c x.x (pa / 16 * 16) 16 = false → s.latent = [] → s.softErr = [] → poisonedAt s pa n = false →
        Answers s x (.strl w a b p z) [a, b] (push u .store 7))
      ∧ (reach (now s x) x.c x.x q va false true = .own off → reach u x.c x.x q va false true = .own off →
          (regionOf s x.c off = .data ∨ regionOf s x.c off = .ring) →
        ∀ e ∈ [(Instr.redadd w a b z, 0), (.redand w a b z, 1), (.redor w a b z, 2), (.redxor w a b z, 3), (.redmin w a b z, 4),
            (.redmax w a b z, 5), (.redminu w a b z, 6), (.redmaxu w a b z, 7), (.redfadd w a b z, 8)],
          Answers s x e.1 [a, b] (push (tlbTouch u x.c q va) (.red e.2) 8)))

/-- R302 to R307: a fence whose condition holds goes on; otherwise the traveller parks. ACKS reads OUTS.
R324: LANTERN parks until its slot answers; PHASE of an entry that is no phase gives all ones, of a finished one its count. -/
def Obligations.FenceAndPhaseInstructions : Prop :=
  (∀ (s : State) (x : Ctx) (w : BitVec 3) (c d a b : BitVec 5),
  let u := now s x
  let next : State := after w 0 x u
  let park (i : Instr) (k : Nat) (q : Cond) : State := parked 0 x u ((encode i).getD 0) k q
  (scopeOk c = true → c.toNat ≤ 2 → Drained s x → Answers s x (.fence w c) [] next)
  ∧ (scopeOk c = true → 3 ≤ c.toNat →
    (coreOutstanding s x.c x.x x.sl = false → (c.toNat = 4 → hostOut s x.c x.sl = false) → Answers s x (.fence w c) [] next)
    ∧ (coreOutstanding s x.c x.x x.sl = true → Answers s x (.fence w c) [] (park (.fence w c) 4 .performed))
    ∧ (coreOutstanding s x.c x.x x.sl = false → c.toNat = 4 → hostOut s x.c x.sl = true → Answers s x (.fence w c) [] (park (.fence w c) 4 .hostDone)))
  ∧ (classOk a = true → classOk b = true → pathOut s x.c x.x x.sl a.toNat = false → recsOf s x.c x.sl = [] →
    Answers s x (.fencex w a b) [] next)
  ∧ (classOk a = true → classOk b = true → pathOut s x.c x.x x.sl a.toNat = true →
    Answers s x (.fencex w a b) [] (park (.fencex w a b) 4 (.pathDone a.toNat)))
  ∧ (Drained s x → Answers s x (.ifence w) [] (after w 0 x (updStream u x.c x.x fun k => { k with fbuf := [] })))
  ∧ (copiesOut s x.c x.sl = false → Answers s x (.qfence w) [] next)
  ∧ (copiesOut s x.c x.sl = true → Answers s x (.qfence w) [] (park (.qfence w) 6 .copies))
  ∧ (outsOf s x.c x.sl = 0 → recsOf s x.c x.sl = [] →
    ((slot s x.c x.sl).failed = [] → Answers s x (.drain w) [] next)
    ∧ (∀ t ts, (slot s x.c x.sl).failed = t :: ts → Answers s x (.drain w) [] (trapped x s { cause := .neterr, addr := t })))
  ∧ (outsOf s x.c x.sl ≠ 0 → Answers s x (.drain w) [] (park (.drain w) 4 .outsZero))
  ∧ (destOk d = true → Answers s x (.acks w d) [] (after w 0 x (x.wr u d.toNat (BitVec.ofNat 64 (outsOf s x.c x.sl % 65536)) 0))))
  ∧ (∀ (s : State) (x : Ctx) (w : BitVec 3) (d a : BitVec 5) (v : Word) (q : Bool),
  let u := now s x
  let A := (x.val s a).toNat
  let p := (slot s x.c x.sl).hdr.part
  let W (v : Word) : State := after w 0 x (x.wr u d.toNat v 0)
  (destOk d = true → Clean s x [a] →
    (A < 16 → s.ws ≠ .off → s.ws ≠ .boot →
      Answers s x (.lantern w d a) [a] (parked 0 x u ((encode (.lantern w d a)).getD 0) 1 (.lantern p A)))
    ∧ (A < 2 ^ 32 → isEntry s p A = true →
      ((eState s p A = 0 ∨ eLevel s p A ≠ 3) → Answers s x (.phase w d a) [a] (W (BitVec.allOnes 64)))
      ∧ (eState s p A = 3 ∨ eState s p A = 4 → eLevel s p A = 3 →
        Answers s x (.phase w d a) [a] (W (BitVec.ofNat 64 (entryGet s p A 47 40))))
      ∧ (eState s p A = 1 ∨ eState s p A = 2 → eLevel s p A = 3 →
        Answers s x (.phase w d a) [a] (parked 0 x u ((encode (.phase w d a)).getD 0) 3 (.phaseEnd p A)))))
  ∧ Resumes s x (.lantern w d a) (.value v q) (W v) ∧ Resumes s x (.phase w d a) (.value v q) (W v))


/-! ## Channel cores -/

/-- R256 to R260: DRD, DWR, DPUSH, DPULL and DPREF place a stream record; a record of no bytes is done at once, a reading one takes
its turn among the producers of the AQ and a writing one among the consumers of the XQ. -/
def Obligations.StreamCommandsEnter : Prop := ∀ (s : State) (x : Ctx) (w : BitVec 3) (d a b : BitVec 5) (pa dpa : Nat) (t : State),
  let u := now s x
  let av : Nat := (x.val s a).toNat % 2 ^ 56
  let dv : Nat := (x.val s d).toNat % 2 ^ 56
  let bv : Nat := (x.val s b).toNat % 2 ^ 56
  let A := (x.val s a).toNat
  let B := (x.val s b).toNat
  let n := B % 8192
  let p := (slot s x.c x.sl).hdr.part
  let found (va : Nat) (rd wr : Bool) : Prop := va ≤ 0x00FFFEFFFFFFFFFF ∧ (tlbFind s x.c p va).isSome ∧ homedHere u x.c p va rd wr = .ok (t, dpa)
  let enters (i : Instr) (D : Word) (mem : List Byte) (empty prod cons : Bool) : State :=
    let v := pushRec t x.c 2 { newRec x t ((encode i).getD 0) D (x.val s a) (x.val s b) with mem := mem, st := if empty then 2 else 0 }
    after w 0 x (if empty then v else updChan v x.c fun k =>
      { k with aqProd := if prod then k.aqProd ++ [(true, engSeq t x.c 2)] else k.aqProd,
               xqCons := if cons then k.xqCons ++ [(true, engSeq t x.c 2)] else k.xqCons })
  Drained s x → engRoom s x.c 2 = true → outsFull s x.c x.sl = false →
    (Clean s x [a, b] → n ≤ 4096 → B / 8192 % 8 = 0 → av % 64 = 0 →
      (B / 2 ^ 32 = 0 → found av true false → Answers s x (.drd w a b) [a, b] (enters (.drd w a b) 0 [] (n == 0) true false))
      ∧ (B / 2 ^ 16 = 0 → found av false true → Answers s x (.dwr w a b) [a, b] (enters (.dwr w a b) 0 [] (n == 0) false true)))
    ∧ (Clean s x [a, b] → t = u → Answers s x (.dpref w a b) [a, b] (enters (.dpref w a b) 0 [] true false false))
    ∧ (Clean s x [a, b, d] → A / 2 ^ 28 = 0 → 1 ≤ B → B ≤ 128 → dv % 16 = 0 → found dv false true → kindOf (A % 8192) = .compute →
        (A / 8192 % 4096 = cubeId s → inPartition s (A % 8192) p = true) →
      Answers s x (.dpull w d a b) [a, b, d] (enters (.dpull w d a b) (x.val s d) [] false false false))
    ∧ (Clean s x [a, b, d] →
      let bs := rdBytes u.mem pa 16
      let q := shapeOf (leNat bs)
      dv % 16 = 0 → av % 16 = 0 → bv % 16 = 0 → ReadsRecord s x bv 16 pa → shapeBad (leNat bs) = false → q.rowb % 16 = 0 →
        q.sstr % 16 = 0 → q.dstr % 16 = 0 → found av true false →
      ∀ cube c' off, windowTarget dv = some (cube, c', off) → (cube = cubeId s → inPartition s c' p = true) →
        Answers s x (.dpush w d a b) [a, b, d] (enters (.dpush w d a b) (x.val s d) bs (q.rowb * q.rows == 0) false false))

/-- R255, R260, R263: the instructions that enter or take one queue entry. AQPUT and BSEL enter the AQ in their turn; AQGET takes its
head data entry, XQGET the head of the XQ; XQPUT enters the XQ. An empty or full queue parks them with reason SYNC. -/
def Obligations.QueueEntries : Prop := ∀ (s : State) (x : Ctx) (w : BitVec 3) (d a b : BitVec 5) (pa : Nat) (e : QEntry),
  let u := now s x
  let A := (x.val s a).toNat
  let va := A % 2 ^ 56
  let B := (x.val s b).toNat
  let v := bselApply u x.c
  let turn : Prop := aqTurn v x.c (false, x.sl) = true ∧ 0 < aqFree v x.c
  let enters (y : AqEntry) : State := after w 0 x (aqPush (updChan v x.c fun k => { k with aqProd := k.aqProd.erase (false, x.sl) }) x.c y)
  let entry : QEntry := { bytes := bytesAt u pa 64, side := BitVec.ofNat 64 B }
  let lands (s' : State) : State := x.wr (fillGranules (writeBytes s' pa e.bytes) pa 64) d.toNat e.side 0
  Drained s x → s.latent = [] → s.softErr = [] →
    (Clean s x [a, b] →
      (B < 2 ^ 16 → va % 64 = 0 → localPlace x u va 64 = some pa → readStep x u pa 64 = none →
        (turn → Answers s x (.aqput w a b) [a, b] (enters (.data entry)))
        ∧ (¬ turn → Answers s x (.aqput w a b) [a, b] (parked 0 x (updChan v x.c fun k =>
            { k with aqProd := joinTurn v x.c .aqRoom k.aqProd (false, x.sl) }) ((encode (.aqput w a b)).getD 0) 3 .aqRoom))
        ∧ (xqFree s x.c ≠ 0 → Answers s x (.xqput w a b) [a, b] (after w 0 x (updChan u x.c fun k =>
            { k with xq := k.xq ++ [{ key := k.xqNext, entry := some entry }], xqNext := k.xqNext + 1 })))
        ∧ (xqFree s x.c = 0 → Answers s x (.xqput w a b) [a, b] (parked 0 x u ((encode (.xqput w a b)).getD 0) 3 .xqRoom)))
      ∧ (A ≤ 15 → B < 2 ^ 36 →
        (turn → Answers s x (.bsel w a b) [a, b] (enters (.bsel A (BitVec.ofNat 32 B) (B / 2 ^ 32))))
        ∧ (¬ turn → Answers s x (.bsel w a b) [a, b] (parked 0 x (updChan v x.c fun k =>
            { k with aqProd := joinTurn v x.c .aqRoom k.aqProd (false, x.sl) }) ((encode (.bsel w a b)).getD 0) 3 .aqRoom))))
    ∧ (destOk d = true → Clean s x [a] → va % 64 = 0 → entryPlace x u va = some pa →
      (∀ rest, (chan v x.c).aq = .data e :: rest →
        Answers s x (.aqget w d a) [a] (after w 0 x (bselApply (lands (updChan v x.c fun k => { k with aq := rest })) x.c)))
      ∧ ((chan v x.c).aq = [] → Answers s x (.aqget w d a) [a] (parked 0 x v ((encode (.aqget w d a)).getD 0) 3 .aqData))
      ∧ (xqTurn s x.c (false, x.sl) = true → xqHead s x.c = some e → Answers s x (.xqget w d a) [a] (after w 0 x
          (lands (updChan u x.c fun k => { k with xq := k.xq.drop 1, xqCons := k.xqCons.erase (false, x.sl) }))))
      ∧ (xqTurn s x.c (false, x.sl) = false ∨ xqHead s x.c = none → Answers s x (.xqget w d a) [a] (parked 0 x (updChan u x.c fun k =>
          { k with xqCons := joinTurn s x.c .xqData k.xqCons (false, x.sl) }) ((encode (.xqget w d a)).getD 0) 3 .xqData)))

/-- R264, R268: BMAC and BRED with room in the XQ reserve their entries there and become bank commands with the activation they read;
BCLONE and BFILL become bank commands with the segments they name; BSYNC waits until none is left. R270, R359: each is charged as
it issues. -/
def Obligations.BankCommandsEnter : Prop := ∀ (s : State) (x : Ctx) (w : BitVec 3) (d a b : BitVec 5) (pa : Nat) (t₁ t : State) (dl al : List Nat),
  let u := now s x
  let av : Nat := (x.val s a).toNat % 2 ^ 56
  let dv : Nat := (x.val s d).toNat % 2 ^ 56
  let B := (x.val s b).toNat
  let q := bankCtl B
  let off := pa - sramPa x.c 0
  let word (i : Instr) : Nat := (encode i).getD 0
  let rec_ (s' : State) (i : Instr) : Rec := newRec x s' (word i) (x.val s d) (x.val s a) (x.val s b)
  let enters (cls : Nat) (r : Rec) : State :=
    let v := chargeRec t x.c r (meterOf x.c) cls r.xq.length
    after w 0 x (updChan (pushBank v x.c { r with st := 1, active := true, seq := (chan v x.c).xqNext }) x.c
      fun k => { k with xqNext := k.xqNext + 1 })
  let placed (s' : State) (va : Nat) (rd wr : Bool) (t' : State) (l : List Nat) : Prop :=
    ∀ f : State → List Nat → Option TrapInfo → Act, segments x s' va B rd wr f = f t' l none
  ((chan s x.c).bankCmds = [] → Answers s x (.bsync w) [] (after w 0 x u))
  ∧ ((chan s x.c).bankCmds ≠ [] → Answers s x (.bsync w) [] (parked 0 x u ((encode (.bsync w)).getD 0) 4 .bankDone))
  ∧ (Drained s x → Clean s x [a, b, d] →
    (bankBad B = false → av % 16 = 0 → localPlace x u av q.len = some pa → readStep x u pa q.len = none →
        regionOf s x.c off = regionOf s x.c (off + q.len - 1) → ((chan s x.c).bankCmds.filter isMac).length < 16 → s.latent = [] → s.softErr = [] →
      let v := bselApply u x.c
      let k := chan v x.c
      let bs := bytesAt v pa q.len
      ∀ e ∈ [(Instr.bmac w d a b, 2), (.bred w d a b, 1)], e.2 ≤ xqFree s x.c →
        let r : Rec := { rec_ v e.1 with
          st := 1, active := true, seq := k.xqNext, mem := bs.map (·.1), xq := (List.range e.2).map (· + k.xqNext),
          bset := [q.set, mget 0 k.blayer q.set, (mget (0 : BitVec 32) k.bmask q.set).toNat, if bs.any (·.2) then 1 else 0] }
        let y := chargeRec (chargeRec v x.c r (meterOf x.c) 27 r.mem.length) x.c r (meterOf x.c) 28 (selected r).length
        Answers s x e.1 [a, b, d] (after w 0 x (updChan (pushBank y x.c r) x.c fun k =>
          { k with xq := k.xq ++ (List.range e.2).map (fun i => { key := k.xqNext + i, entry := none }), xqNext := k.xqNext + e.2 })))
    ∧ (B ≤ 4096 → ((chan t x.c).bankCmds.filter fun r => !isMac r).length < 8 → Drained t x → dv % 1024 = 0 →
      (av % 1024 = 0 → placed u dv false true t₁ dl → placed t₁ av true false t al →
        Answers s x (.bclone w d a b) [a, b, d] (enters 29 { rec_ t (.bclone w d a b) with xq := dl, bset := al }))
      ∧ (av % 16 = 0 → ReadsRecord s x av 16 pa → placed u dv false true t dl →
        Answers s x (.bfill w d a b) [a, b, d] (enters 30 { rec_ t (.bfill w d a b) with xq := dl, mem := rdBytes u.mem pa 16 }))))

/-! ## Events: domains -/

/-- R21: outside OFF and BOOT the waystation is in the state that the memory and the compute domain require.
R22, R23, R418, R428: the waystation and memory-domain events that are due take effect; a memory reset loses the contents of
DRAM and of nothing else. -/
def Obligations.WaystationEvents : Prop :=
  (∀ s : State, s.ws ≠ .off → s.ws ≠ .boot →
  (settleWs s).memDom = s.memDom ∧ (settleWs s).comp = s.comp
  ∧ (s.memDom ≠ .on → (settleWs s).ws = .forward)
  ∧ (s.memDom = .on → s.comp ≠ .run → (settleWs s).ws = .serve)
  ∧ (s.memDom = .on → s.comp = .run → (settleWs s).ws = .full))
  ∧ (∀ s : State,
  (s.ws = .off → ∃ t : State, exec .waystationPowerOn s = .next t ∧ t.ws = .boot ∧ t.imgOk = false)
  ∧ (s.ws = .boot → s.imgOk = false → ∃ t : State, exec .imageVerificationComplete s = .next t ∧ t.ws = .boot
    ∧ t.imgOk = (fwValid s s.fw.active || fwValid s (1 - s.fw.active)))
  ∧ (s.ws = .boot → s.imgOk = true → exec .bootTimeout s = .next (settleWs { s with ws := .forward }))
  ∧ (s.ws ≠ .off → exec .waystationReset s = .next (islandLost s .boot) ∧ exec .waystationRailOff s = .next (islandLost s .off))
  ∧ (s.memDom = .off → s.ws ≠ .off → s.ws ≠ .boot → exec .memoryRailGood s = .next { s with zeroing := true })
  ∧ (s.ws = .boot → exec .memoryRailGood s = .next s)
  ∧ (s.memDom = .off → s.zeroing = true → exec .memoryZeroingComplete s
      = .next (settleWs (loseRecords (dropStores (poisonWaits { zeroDram s with zeroing := false, memDom := .on })))))
  ∧ (s.memDom = .on → exec .selfRefreshRequest s = .next { s with srReq := true })
  ∧ (s.memDom = .on → s.srReq = true → dramIdle s = true → exec .selfRefreshEntry s = .next (settleWs { s with memDom := .selfRefresh, srReq := false }))
  ∧ (s.memDom = .selfRefresh → exec .selfRefreshExit s = .next (settleWs { s with memDom := .on }))
  ∧ (s.memDom ≠ .off → ∃ u : State, exec .memoryReset s = .next (settleWs u) ∧ u.memDom = .off ∧ u.comp = s.comp
    ∧ ∀ a, lookup u.mem a = if a < 2 ^ 53 then none else lookup s.mem a))

/-- R15, R16, R20, R22, R280, R389, R432, R434: the compute-domain, watchdog and thermal events that are due take effect; a compute
reset loses the travellers, the streams and every byte that is not DRAM. -/
def Obligations.ComputeDomainEvents : Prop := ∀ (s : State) (i : Nat) (temp : Int),
  let hot (s : State) : State := { s with fw := { s.fw with hotDie := false } }
  (s.comp = .off → exec .computeRailGood s = .next { s with comp := .reset })
  ∧ (s.comp = .reset → s.memDom = .on → exec .computeResetRelease s = .next
      { unityKcorr (remapQuads (takeFlushes s (s.cycle + 1))) with
        comp := .bringup, cycle := 0, fw := { s.fw with past := s.fw.past + s.cycle }, net := { s.net with heard := [] } })
  ∧ (s.comp = .bringup → ∃ u : State, exec .bringupComplete s = .next (deliverBounced (settleWs { u with comp := .run, metered := [] }))
    ∧ u.free = s.free + 1 ∧ u.mem = s.mem ∧ u.slots = s.slots)
  ∧ (s.comp = .run → exec .quiesceRequest s = .next (settleWs (leaveRun { stopAll s with comp := .quiesce, still := true })))
  ∧ (s.comp = .quiesce → exec .quiesceResume s = .next (deliverBounced ((List.range 24).foldl (fun s p => unquiesce (stayInSlot s p) p)
      (settleWs { s with comp := .run, still := false }))))
  ∧ ((s.comp = .quiesce ∨ s.comp = .hung) → exec .computeReset s = .next (settleWs { computeLost s with comp := .reset }))
  ∧ (s.comp ≠ .off → exec .computeRailOff s = .next (settleWs { computeLost s with comp := .off }))
  ∧ ((computeLost s).slots = [] ∧ (computeLost s).streams = [] ∧ (computeLost s).resvQ = [] ∧ ∀ a, 2 ^ 53 ≤ a → lookup (computeLost s).mem a = none)
  ∧ (s.ccFlush = true → s.memDom = .on → ∃ t : State, exec .channelCacheWritebackComplete s = .next t ∧ t.ccFlush = false ∧ ∀ e ∈ t.ccache, ∀ l ∈ e.2, l.dirty = false)
  ∧ ((s.comp = .run ∨ s.comp = .quiesce) → exec .dispatcherHeartbeat s = .next { s with heartbeat := true })
  ∧ (regField s islandBlk 0xF000 15 0 ≠ 0 → (s.comp = .run ∨ s.comp = .quiesce) → s.heartbeat = true →
      exec .domainWatchdogExpiry s = .next { s with heartbeat := false })
  ∧ (regField s islandBlk 0xF000 15 0 ≠ 0 → s.comp = .quiesce → s.heartbeat = false →
      exec .domainWatchdogExpiry s = .next (settleWs (otherRecord { s with comp := .hung })))
  ∧ (regField s islandBlk 0xF000 15 0 ≠ 0 → s.comp = .run → s.heartbeat = false →
      exec .domainWatchdogExpiry s = .next (settleWs (otherRecord { leaveRun s with comp := .hung })))
  ∧ (i < 80 → ∃ t : State, exec (.thermalReading i temp) s = .next t
    ∧ (i < 64 → temp < 840 → getReg t islandBlk (0xF900 + 8 * i) = BitVec.ofNat 64 (BitVec.ofInt 12 temp).toNat)
    ∧ (i < 64 → 920 ≤ temp → s.fw.hotDie = false → s.comp = .run → t.comp = .quiesce)
    ∧ (64 ≤ i → 760 ≤ temp → i - 64 ∈ t.fw.hotTowers) ∧ (64 ≤ i → temp < 760 → t.fw.hotTowers = s.fw.hotTowers.erase (i - 64)))
  ∧ (s.fw.hotDie = true → dieAt s 920 = true → exec .thermalShutdownTimer s = .next (computeRailOff (otherRecord (hot s))))

/-! ## Events: travellers, arrivals and the store buffer -/

/-- R116, R55, R114: when the oldest entry of a store buffer leaves, a plain store to its own core's SRAM makes those bytes hold the
stored value, and no other byte of memory changes; the younger entries stay.
R290: when a RED leaves the store buffer its double holds what the operation gives. -/
def Obligations.BufferDrains : Prop :=
  (∀ (s : State) (c : Nat) (x : Bool) (e : SbEntry) (es : List SbEntry) (off : Nat),
  (stream s c x).sb = e :: es → e.op = .store → e.pa = some (sramPa c off) → e.window = false → e.counted = false → e.poison = false →
    e.net = none → (slot s c e.slot).pair = false → barOnWay s c x = false → s.latent = [] → s.softErr = [] → off + e.size ≤ sramSize c →
    (∀ i, i < e.size → regionOf s c (off + i) ≠ .workspace) →
    ∃ t, exec (.storeBufferDrain c x) s = .next t ∧ (stream t c x).sb = es
      ∧ rdN t.mem (sramPa c off) e.size = e.val.toNat % 2 ^ (8 * e.size)
      ∧ ∀ a, (a < sramPa c off ∨ sramPa c off + e.size ≤ a) → rdByte t.mem a = rdByte s.mem a)
  ∧ (∀ (s : State) (c : Nat) (x : Bool) (e : SbEntry) (es : List SbEntry) (off f : Nat),
  (stream s c x).sb = e :: es → e.op = .red f → e.pa = some (sramPa c off) → e.window = false → e.counted = false → e.net = none →
    (slot s c e.slot).pair = false → barOnWay s c x = false → s.latent = [] → s.softErr = [] → off + e.size ≤ sramSize c → (∀ i, i < e.size → regionOf s c (off + i) ≠ .workspace) →
    mget [] s.resvQ (sramPa c off / 8 * 8) = [] → poisonedAt s (sramPa c off) e.size = false →
    ∃ t, exec (.redApply c x) s = .next t ∧ (stream t c x).sb = es
      ∧ rdN t.mem (sramPa c off) e.size
        = redOp f e.size (rdN s.mem (sramPa c off) e.size) (e.val.toNat % 2 ^ (8 * e.size)) % 2 ^ (8 * e.size)
      ∧ ∀ a, (a < sramPa c off ∨ sramPa c off + e.size ≤ a) → rdByte t.mem a = rdByte s.mem a)

/-- R74, R76, R84, R113, R118, R155: an idle core takes the head of its urgent class, or the head task of its deque; the wait of a
parked traveller is served with the value at its home, or with a notice to start again. -/
def Obligations.TravellersRun : Prop := ∀ (s : State) (c sl : Nat) (x : Bool),
  (coreLive s c = true → (stream s c x).run = none → (x = true → (chan s c).stopping = false) →
    ∀ n, (promote c x (core s c)).urgQ.find? (onStream c x) = some (sl, n) →
      ∃ t, exec (.travellerSwitchIn c x) s = .next t ∧ (stream t c x).run = some sl ∧ (stream t c x).pc = savedPc s c sl)
  ∧ (∀ k ks, coreIdle s c = true → (core s c).deque = k :: ks → freeSlot s c = some sl →
      exec (.dequeTaskStart c) s = .next (createTask (updCore s c fun v => { v with deque := ks, steal := { waiting := v.steal.waiting } }) c sl k))
  ∧ (∀ w, (slot s c sl).wait = some w → w.reply = none → (slot s c sl).pair = false →
    (∀ pa n sync va, w.cond = .load pa n sync va → sealedFor s c pa = false → servable s pa = true → (∀ ch o, homeOf pa ≠ .dram ch o) →
        s.latent = [] → s.softErr = [] → poisonedAt s pa n = false →
      ∃ t, exec (.parkWaitComplete c sl) s = .next t
        ∧ ((slot t c sl).wait.bind (·.reply)) = some (.value (BitVec.ofNat 64 (rdN s.mem pa n)) false))
    ∧ ((w.cond = .vecDone ∧ pathBusy s c sl 1 = false ∨ w.cond = .copies ∧ copiesOut s c sl = false
        ∨ w.cond = .outsZero ∧ outsOf s c sl = 0) →
      ∃ t, exec (.parkWaitComplete c sl) s = .next t ∧ ((slot t c sl).wait.bind (·.reply)) = some .again))

/-- R77, R81, R93, R94: arrivals. A traveller takes a free slot of its destination, a task the head of its deque; a bounced traveller
is TRAPPED at its origin, and an accepted one leaves its origin slot FREE; a wake ends the wait of PARK. -/
def Obligations.Arrivals : Prop := ∀ (s : State) (k : Nat),
  let u := dropFlight s k
  (∀ t oc os sl, s.flights[k]? = some (.traveller t oc os) → t.dcube = cubeId s → noHome s t.dcore t.hdr.part = false →
      arrivalWaits s t.dcore = false → needsWake s t.dcore = false → (∀ h ∈ s.held, h.1 ≠ t.dcore) → isTwinCore s t.dcore = false →
      freeSlot s t.dcore = some sl → t.hdr.ocube = cubeId s →
    exec (.travellerArrival k) s = .next (ackMove (settleIn u t t.dcore sl) oc os))
  ∧ (∀ t c, s.flights[k]? = some (.task t c none) → s.comp = .run → inPartition s c t.part = true → (core s c).isSealed = false →
      (core s c).sealing = false → arrivalWaits s c = false → needsWake s c = false → (∀ h ∈ s.held, h.1 ≠ c) → isTwinCore s c = false →
      kindOf c = .compute → (core s c).deque.length < 64 →
    exec (.taskPacketArrival k) s = .next (updCore u c fun v => { v with deque := t :: v.deque }))
  ∧ (∀ c f s', s.held.find? (·.1 == c) = some (c, f) → coreLive s c = true → takeIn { s with held := s.held.erase (c, f) } c f = some s' →
    exec (.heldArrivalAdmit c) s = .next s')
  ∧ (∀ c sl m, stateOf s c sl = .migrating → (slot s c sl).move = some m →
    (m.acked = false → exec (.migrationAck c sl) s = .next s)
    ∧ (m.acked = true →
      let n := (slot s c sl).heldWakes
      let v := if m.cube = cubeId s then { s with flights := s.flights ++ List.replicate n (.wake (tidOf s c sl) m.core none) }
        else (List.range n).foldl (fun s _ => sendWake s c sl m.cube m.core) s
      exec (.migrationAck c sl) s = .next (updSlot (setState v c sl .free) c sl fun k => { k with move := none, heldWakes := 0, pending := [] })))
  ∧ (∀ t oc os, s.flights[k]? = some (.bounce t oc os) → t.hdr.ocube = cubeId s → s.comp = .run → originGone s t = false →
    exec (.migrationBounce k) s = .next (moveFailed u oc os))
  ∧ (∀ tid c sl w, s.flights[k]? = some (.wake tid c none) → (core s c).isSealed = false → slotsOf s c = [sl] → tidOf s c sl = tid →
      stateOf s c sl = .parked → (slot s c sl).wait = some w → w.cond = .wake → w.reply = none →
    exec (.wakeDelivery k) s = .next (readyIfReplied (setReply u c sl (.value 0 false)) c sl))

/-- R157 to R159: stealing. An idle core asks the next core of its sequence or backs off; the victim gives the tail of its deque,
which starts on the thief while that is idle and else heads its deque.
R152, R352, R366, R369, R370: a stranded traveller with nothing outstanding leaves for the spill area; waiting items enter as room
appears; a spilled traveller that has a core is placed; the cores learn of a stranded context. -/
def Obligations.StealingAndSpilling : Prop :=
  (∀ (s : State) (c k : Nat),
  let u := dropFlight s k
  (coreIdle s c = true → isTwinCore s c = false → (core s c).asg = true → (core s c).deque = [] → (core s c).steal.waiting = false →
      (core s c).steal.backoff = false → (quad s (quadOf c)).draining = false →
    let next := ((stealSeq c).zipIdx.drop (core s c).steal.pos).find? fun e => mayRob s c e.1
    (∀ d n, next = some (d, n) → ∃ t, exec (.stealRequestSend c) s = .next t ∧ t.flights = s.flights ++ [.stealReq c d]
      ∧ (core t c).steal = { pos := n + 1, waiting := true, backoff := false })
    ∧ (next = none → ∃ t, exec (.stealRequestSend c) s = .next t ∧ (core t c).steal = { pos := 0, waiting := false, backoff := true }))
  ∧ (∀ d t ts, s.flights[k]? = some (.stealReq c d) → (core s d).asg = true → (core s d).part = (core s c).part → (core s d).isSealed = false →
      (core s d).move = false → (core s d).deque = ts ++ [t] →
    ∃ s', exec (.stealRequestServe k) s = .next s' ∧ (core s' d).deque = ts ∧ s'.flights = u.flights ++ [.stealRep c (some t)])
  ∧ (s.flights[k]? = some (.stealRep c none) →
    exec (.stealReply k) s = .next (updCore u c fun v => { v with steal := { v.steal with waiting := false } }))
  ∧ (∀ t, s.flights[k]? = some (.stealRep c (some t)) → arrivalWaits s c = false → (core s c).isSealed = false → (core s c).sealing = false →
    let v := updCore u c fun v => { v with steal := { v.steal with waiting := false } }
    (∀ sl, coreIdle v c = true → freeSlot v c = some sl →
      exec (.stealReply k) s = .next (createTask (updCore v c fun v => { v with steal := {} }) c sl t))
    ∧ (coreIdle v c = false → (core s c).deque.length < 64 →
      ∃ s', exec (.stealReply k) s = .next s' ∧ (core s' c).deque = t :: (core s c).deque ∧ s'.flights = u.flights))
  ∧ ((core s c).steal.backoff = true → exec (.stealBackoffExpiry c) s = .next (updCore s c fun v => { v with steal := {} })))
  ∧ (∀ (s : State) (c sl p q : Nat) (bs : List Byte) (is : List SpillItem) (t : Packed),
  (spillable s c sl = true → stateOf s c sl = .stranded → strandTurn s c sl = true → exec (.travellerSpill c sl) s = .next (spillTraveller s c sl 0))
  ∧ ((part s p).spillWait = .post q bs :: is → spillFits s p (SpillItem.post q bs).space = true →
    exec (.spillAreaAdmit p) s = .next (updPart s p fun k => { k with spill := k.spill ++ [.post q bs], spillWait := is }))
  ∧ (s.comp = .run → (part s p).spill = .traveller t :: is → spillReady s (.traveller t) = true → spillCore s t = some c → freeSlot s c = some sl →
    (needsWake s c = true → exec (.spilledTravellerPlacement p) s = .next (wakeQuad s c))
    ∧ (needsWake s c = false →
      exec (.spilledTravellerPlacement p) s = .next (unspill (updPart s p fun k => { k with spill := is }) t c sl)))
  ∧ (s.strandNotice.contains q = true → ∃ u, exec (.strandNotice q) s = .next u ∧ u.stranded.contains q = true ∧ u.strandNotice.contains q = false))

/-- R146, R152, R196, R381, R390 to R394: what a stream takes before its next issue, and debug requests. A trap is taken at the pc of
the word that would issue next. -/
def Obligations.TakenAtIssue : Prop := ∀ (s : State) (c sl : Nat) (x : Bool) (t : TrapInfo),
  let pc := (stream s c x).pc
  let free : State := updSlot s c sl fun k => { k with pending := [] }
  let v := (getReg s islandBlk 0xF008).toNat
  let launch : Bool → Instr × Instr := fun l => if l then (.dbgHaltLaunch, .dbgResumeLaunch) else (.dbgHaltTraveller, .dbgResumeTraveller)
  ((stream s c x).run = some sl →
    ((slot s c sl).pending = [.cancel] → exec (.cancelTaken c x) s = .next (takeTrap free c x sl pc (launchTrap .cancel (slot s c sl).hdr.lslot)))
    ∧ ((slot s c sl).pending = [.engine t] → exec (.engineFaultDelivery c x) s = .next (takeTrap free c x sl pc t))
    ∧ ((slot s c sl).pending = [.halt] → exec (.debugHaltTaken c x) s = .next (haltRunning free c x sl pc))
    ∧ (matchNow s c sl pc = true →
      exec (.addressMatchHalt c x) s = .next (haltRunning (updSlot s c sl fun k => { k with noMatch := true }) c x sl pc)))
  ∧ ((stream s c false).run = some sl → (slot s c sl).pending = [.preempt] → preemptOk s c sl = true →
    exec (.preemptionTaken c) s = .next (updSlot (setState (takePending (switchOut s c false (stream s c false).pc) c sl (· == .preempt)) c sl .ready)
      c sl fun k => { k with leaving := true }))
  ∧ (∀ l, ∃ u w, exec (launch l).1 s = .next u ∧ exec (launch l).2 s = .next w
    ∧ regField u islandBlk 0xF008 53 52 = 0 ∧ regField w islandBlk 0xF008 53 52 = 0
    ∧ regField u islandBlk 0xF008 54 54 = (if dbgTargets s l = [] ∧ (awayOf s).any (dbgAway s l []) = false then 1 else 0)
    ∧ (dbgTargets s l = [(c, sl)] → dbgEn s (v / 2 ^ 45 % 32) = true → stateOf s c sl = .ready → stateOf u c sl = .halted)
    ∧ (dbgTargets s l = [(c, sl)] → stateOf s c sl = .halted → (∀ r, (slot s c sl).halted = some ((.ready, r), false) → stateOf w c sl = .ready)))

/-! ## Events: the dispatcher and the cores -/

/-- R136, R137, R142, R147, R169, R170, R171, R175: submission, copies, placement and held posts. The queue in turn gives one entry;
an entry with another TYPE than launch is rejected with code 2; the head of the normal list is placed at the least feasible
origin; a copy for the dispatcher joins its intake.
R138, R140, R143: what a placement leaves. The launch entry is ACTIVE at level 1 with COUNT the number of travellers, the launch
has left its list, and the travellers to create are counted from 0. -/
def Obligations.DispatcherEvents : Prop :=
  (∀ (s : State) (p q c : Nat),
  (∀ a, p < 24 → partEn s p = true → s.comp = .run → (turns s p).find? ((part s p).nextTurn ≤ ·) = some q → q < qsize s p →
      qPlace s p q (qHead s p q) false = some (.host a) →
    let bs := (qRead s (.host a)).map (·.1)
    let h := qSet s p q 159 128 ((qHead s p q + 1) % 2 ^ 32)
    (leNat bs % 256 ≠ 1 →
      exec (.submissionEntryFetch p) s = .next (updPart (postTo h p (bitsOf (leNat bs) 31 16) 2 1 (bitsOf (leNat bs) 63 32) 0) p
        fun k => { k with nextTurn := q + 1 }))
    ∧ (∀ r, s.latent = [] → s.softErr = [] → leNat bs % 256 = 1 → bitsOf (leNat bs) 15 8 = 0 → bitsOf (leNat bs) 511 160 = 0 →
        let g := recordFound h p (bitsOf (leNat bs) 127 64 % 2 ^ 56)
        readRecord g p (bitsOf (leNat bs) 127 64 % 2 ^ 56) = .ok r → recordCode g p (qVf s p q) r = 0 → recNames r = [0, 0, 0] → recBit r 272 = false →
      ∃ t l, exec (.submissionEntryFetch p) s = .next t ∧ (part t p).normal = (part s p).normal ++ [l] ∧ l.record = r ∧ l.gates = []
        ∧ l.owner = 0 ∧ l.tag = bitsOf (leNat bs) 63 32 ∧ l.cq = bitsOf (leNat bs) 31 16))
  ∧ (∀ l ls e X Y, p < 24 → s.comp = .run → (part s p).placed = [] → firstResumed s p = none → (part s p).urgent = [] → (part s p).normal = l :: ls → mayPlace s l = true →
      fixedBad s p l.record = false → lowestEntry s p = some e → chooseOrigin s p l.record feasible = some (X, Y) →
    exec (.launchPlacement p) s = .next (placeAt s p l e X Y))
  ∧ (∀ y, copyFront (core s c) = [y] → (slot s c y.slot).pair = false →
    let u := ackOuts (updCore s c fun k => { k with enqBuf := k.enqBuf.erase y }) c y.slot
    (y.queue = 0x10000 → copyRoom s y = true →
      exec (.enqueueCopyAccept c) s = .next (updPart u y.part fun k => { k with intake := k.intake ++ [y] }))
    ∧ (y.queue ≠ 0x10000 → copyRoom s y = true → qEnabled u y.part y.queue = false →
      exec (.enqueueCopyAccept c) s = .next (trapLog u y.part 3 c 0 (BitVec.ofNat 64 y.queue)))
    ∧ (∀ pl, y.queue ≠ 0x10000 → copyRoom s y = true → qEnabled u y.part y.queue = true →
        qPlace u y.part y.queue (qTail u y.part y.queue) true = some pl →
      exec (.enqueueCopyAccept c) s = .next (qSet (qWrite u y.part (y.bytes.map fun b => (b, false)) pl) y.part y.queue 191 160
        ((qTail u y.part y.queue + 1) % 2 ^ 32))))
  ∧ (∀ b, p < 24 → q < qsize s p → qFull s p q = false → tailWaits s p q = false → (part s p).spill = [.post q b] →
    ∃ t, exec (.heldPostWrite p q) s = .next t ∧ (part t p).spill = []))
  ∧ (∀ (s : State) (p e X Y : Nat) (l : Launch), isEntry s p e = true → ctOff s p % 32 = 0 →
  (part s p).placed = [] → entryBad s l.record X Y = false →
  (placedQuads { launch := l, entry := e, x := X, y := Y, left := [] }).any (fun q => (quad s q).gated || (quad s q).waking) = true →
  recW l.record * recH l.record * recPercore l.record < 2 ^ 32 →
  let t := placeAt s p l e X Y
  eCount t p e = recW l.record * recH l.record * recPercore l.record ∧ eLevel t p e = 1 ∧ eState t p e = 1
  ∧ (part t p).normal = (part s p).normal.filter (· ≠ l)
  ∧ ∃ k ∈ (part t p).placed, k.entry = e ∧ k.left = List.range (recW l.record * recH l.record * recPercore l.record))

/-- R153, R163, R164: gating and self-test. An idle quad is gated and its banks are lost; a quad wakes; a cluster is drained, tested,
put off or returned to service, and a quad that failed is a hole. -/
def Obligations.QuadEvents : Prop := ∀ (s : State) (q k : Nat) (fails : BitVec 16),
  (q < 1280 → (s.comp = .run ∨ s.comp = .bringup ∨ s.comp = .quiesce) → regField s dispBlk 0 31 16 ≠ 0 → ((quad s q).gated || (quad s q).hole || (quad s q).draining || (quad s q).testing) = false →
      (∀ c ∈ coresOfQuad q, idleCore s c = true ∧ inReserve s c = false) →
    ∃ t, exec (.quadGate q) s = .next t ∧ (quad t q).gated = true ∧ (quad t q).bankStatus = []
      ∧ ∀ a, q * 2 ^ 18 ≤ a → a < (q + 1) * 2 ^ 18 → lookup t.accMem a = none)
  ∧ ((quad s q).gated = true → (quad s q).waking = true → (∀ p, (part s p).placed = []) →
    exec (.quadWakeComplete q) s = .next (updQuad s q fun k => { k with gated := false, waking := false }))
  ∧ (regField s dispBlk 0 15 0 ≠ 0 → s.comp = .run → s.testing = none →
    ∃ t, exec .selfTestDrainStart s = .next t ∧ t.testing = some (nextCluster s, false)
      ∧ ∀ q ∈ quadsOfCluster (nextCluster s), (quad s q).hole = false → (quad t q).draining = true)
  ∧ (s.testing = some (k, false) → clusterIdle s k = true →
    ∃ t, exec .selfTestStart s = .next t ∧ t.testing = some (k, true)
      ∧ ∀ q ∈ quadsOfCluster k, (quad s q).hole = false → (quad t q).testing = true ∧ (quad t q).draining = false)
  ∧ (s.testing = some (k, false) → clusterIdle s k = false →
    ∃ t, exec .selfTestDefer s = .next t ∧ t.testing = none ∧ regField t dispBlk 8 15 8 = min 255 (regField s dispBlk 8 15 8 + 1)
      ∧ ∀ q ∈ quadsOfCluster k, (quad t q).draining = false)
  ∧ (s.testing = some (k, true) →
    ∃ t, exec (.selfTestComplete fails) s = .next t ∧ t.testing = none ∧ regField t dispBlk 8 6 0 = s.testFirst.headD ((k + 1) % 80) % 128 ∧ regField t dispBlk 8 15 8 = 0
      ∧ ∀ e ∈ (quadsOfCluster k).zipIdx, (quad t e.1).hole = ((quad s e.1).hole || fails.getLsbD e.2))

/-- R126 to R129, R132, R154, R161, R251, R252, R382 to R384: events of one core: a machine check of the register file or
of another unit, a seal, a group watchdog, writes of the boundary registers, an image, the scrub and the move of a core, and GO and
STOP of a channel core. -/
def Obligations.CoreEvents : Prop := ∀ (s : State) (c sl p st : Nat) (regs : BitVec 24) (v : Word),
  (kindOf c ≠ .absent → exec (.machineCheck c 0 sl regs) s = .next (errorRecord
      (updSlot s c sl fun k => { k with hdr := { k.hdr with pmask := k.hdr.pmask ||| regs } })
      (BitVec.ofNat 64 (c + 2 ^ 31)) (BitVec.ofNat 64 ((core s c).lmwsb + 256 * sl))))
  ∧ (∀ unit, kindOf c = .compute → unit ≠ 0 → unit ≤ 6 → (core s c).isSealed = false → (core s c).sealing = false →
    ∃ t, exec (.machineCheck c unit sl regs) s = .next t ∧ (core t c).sealing = true ∧ (core t c).sealCause = 0xFF ∧ (core t c).sealSub = unit
      ∧ t.testFirst.head? = some (clusterOf c) ∧ (s.testing = none → regField t dispBlk 8 6 0 = clusterOf c))
  ∧ ((core s c).sealing = true → kindOf c = .compute → slotsOf s c = [] →
    ∃ t, exec (.sealComplete c) s = .next t ∧ (core t c).isSealed = true ∧ (core t c).sealing = false ∧ (core t c).deque = [])
  ∧ (∀ e sl', watchdogRuns s p e = true → membersOf s p e = [(c, sl')] → stateOf s c sl' ≠ .parked → openPlans s c sl' = [] →
    exec (.groupWatchdogExpiry p e) s = .next s)
  ∧ (∀ e sl', watchdogRuns s p e = true → membersOf s p e = [(c, sl')] → stateOf s c sl' = .parked → reasonOf s c sl' ≠ 4 → reasonOf s c sl' ≠ 6 →
      openPlans s c sl' = [] →
    exec (.groupWatchdogExpiry p e) s = .next (breakWait s c sl' (launchTrap .watchdog e) .watchdog))
  ∧ (∀ a, boundaryOk s a c = true →
    (idleCore s c = true →
      exec (.lmBoundaryStage a c 0 v) s = .next (updCore s c fun k => { k with stWsb := v.toNat % 2 ^ 21, lmErr := false })
      ∧ exec (.lmBoundaryStage a c 1 v) s = .next (updCore s c fun k => { k with stRgb := v.toNat % 2 ^ 21, lmErr := false }))
    ∧ (idleCore s c = false → exec (.lmBoundaryStage a c 0 v) s = .next (updCore s c fun k => { k with lmErr := true }))
    ∧ (idleCore s c = true → mapLegal c (core s c).stWsb (core s c).stRgb (v.toNat % 2 ^ 21) = true →
      ∃ t, exec (.lmdtbCommit a c v) s = .next t ∧ (core t c).lmwsb = (core s c).stWsb ∧ (core t c).lmrgb = (core s c).stRgb
        ∧ (core t c).lmdtb = v.toNat % 2 ^ 21 ∧ t.mem = s.mem ∧ (core t c).barriers = [] ∧ (core t c).rings = []))
  ∧ (∀ img, kindOf c ≠ .steward →
    (imageCode s [c] img = 0 →
      let table := launchTable img (aliasBase c) (secPlaces (core s c).lmdtb (imgSecs img)).1
      exec (.imageLoad .island [c] img) s = .next (loadOn img { s with fw := { s.fw with loaded := (0, table) } } c))
    ∧ (imageCode s [c] img ≠ 0 →
      exec (.imageLoad .island [c] img) s = .next { s with fw := { s.fw with loaded := (imageCode s [c] img, []) } }))
  ∧ (∀ m, moveOf s c = some m →
    (m.scrubbed = false → moveHeld s m = false → idleCore s c = true → arrivalWaits s c = false → (∀ n ∈ s.moves, n.core < c → scrubDue s n = false) →
      ∃ t, exec (.coreScrub c) s = .next t ∧ slotsOf t c = []
        ∧ ∀ o, o < sramSize c → lookup t.mem (sramPa c o) = none)
    ∧ (m.scrubbed = true → (∀ n ∈ s.moves, n.core < c → n.scrubbed = false) →
      ∃ t, exec (.coreMoveComplete c) s = .next t ∧ (core t c).asg = m.asg ∧ (core t c).part = (if m.asg then m.part else 0) ∧ (core t c).rsv = m.rsv ∧ (core t c).move = false
        ∧ m ∉ t.moves))
  ∧ (kindOf c = .channel → goRefused s c v.toNat = false →
    ∃ t, exec (.xTravellerGo c st v) s = .next t ∧ (chan t c).goSteward = some st ∧ (chan t c).xerr = false ∧ (chan t c).xentry = bitsOf v.toNat 19 0)
  ∧ (kindOf c = .channel → (slotsOf s c).contains 0 = true →
    exec (.xTravellerStop c st) s = .next (updChan s c fun h => { h with xerr := false, stopping := true }))
  ∧ (kindOf c = .channel → (chan s c).stopping = true → (chan s c).bankCmds = [] →
    ((slotsOf s c).contains 0 = false → exec (.xTravellerStopComplete c) s = .next (updChan s c fun h => { h with stopping := false }))
    ∧ ((slotsOf s c).contains 0 = true → (slot s c 0).hdr.lslot = 0 → (slot s c 0).pair = false →
      ∃ t, exec (.xTravellerStopComplete c) s = .next t ∧ (chan t c).stopping = false ∧ stateOf t c 0 = .ended))

/-! ## Events: the host, the owner and the meters -/

/-- R167, R422 to R431: doorbells, function resets, management accesses, signed commands, alarms and attestation. A signed command
that is in its turn and refused by no check has its effect and ends with STATUS 0; one with a stale nonce ends with STATUS 1
and no effect. -/
def Obligations.HostEvents : Prop := ∀ (s : State) (pt vf p q val : Nat),
  (pt < 2 → p < 24 → partEn s p = true → (port s pt).vfsOff.contains vf = false → q < 2 ^ 16 → val < 2 ^ 32 → vf ≤ 128 → (vf = 0 ∨ (vf ≤ 64 ↔ pt = 0)) → tenant s p = vf → qEnabled s p q = true →
      (qLoc s p q = true → qPort s p q = pt) →
    (qKind s p q ≤ 1 → (val + 2 ^ 32 - qHead s p q) % 2 ^ 32 ≤ 2 ^ qLog s p q →
      exec (.doorbellSetTail pt vf (BitVec.ofNat 64 (q + p * 2 ^ 16 + val * 2 ^ 32))) s = .next (qSet s p q 191 160 val))
    ∧ (qKind s p q ≤ 1 → 2 ^ qLog s p q < (val + 2 ^ 32 - qHead s p q) % 2 ^ 32 →
      exec (.doorbellSetTail pt vf (BitVec.ofNat 64 (q + p * 2 ^ 16 + val * 2 ^ 32))) s
        = .next (disableQueue (trapLog s p 3 0 0 (BitVec.ofNat 64 q)) p q))
    ∧ (qKind s p q = 2 → (val + 2 ^ 32 - qHead s p q) % 2 ^ 32 ≤ qCount s p q →
      exec (.doorbellSetHead pt vf (BitVec.ofNat 64 (q + p * 2 ^ 16 + 2 ^ 21 + val * 2 ^ 32))) s = .next (qSet s p q 159 128 val)))
  ∧ (∀ t, s.latent = [] → s.softErr = [] → (exec (.functionLevelReset pt vf) s = .next t → vf ≠ 0 → (vf ≤ 64 ↔ pt = 0) → p < 24 → partEn s p = true → q < qsize s p →
        qLoc s p q = true → tenant s p = vf → qGet t p q 2 2 = 0)
      ∧ (exec (.portHotReset pt) s = .next t → p < 24 → partEn s p = true → q < qsize s p → qLoc s p q = true → qPort s p q = pt → qGet t p q 2 2 = 0))
  ∧ (∃ t u, exec (.functionLevelReset pt vf) s = .next t ∧ exec (.portHotReset pt) s = .next u)
  ∧ ((port s p).mgbusy = false → (port s p).mgaddr.toNat / 2 ^ 53 = 3 → (port s p).mgaddr.toNat % 8 = 0 →
    ∃ t u, exec (.managementRead p) s = .next t ∧ (port t p).mgbusy = true ∧ (port t p).mgwr = false
      ∧ exec (.managementWrite p) s = .next u ∧ (port u p).mgbusy = true ∧ (port u p).mgwr = true)
  ∧ (∀ x q' k, s.ws ≠ .off → s.ws ≠ .boot → s.net.retry.find? (fun x => mgPort x == some p) = some x → x.pkt.kind = 11 →
      (∃ v, x.pkt.payload = .mgmt false p v) → x.who = none → x.also = none →
      s.net.inbox.findIdx? (fun q => q.msgid == x.pkt.msgid && q.scube == x.pkt.dcube && q.kind == 10) = some k → s.net.inbox[k]? = some q' →
      sentFor s q' = some x → q'.payload = .resp 0 0 [(7, false)] →
    ∃ t, exec (.managementReply p) s = .next t ∧ (port t p).mgbusy = false ∧ (port t p).mgstatus = 0 ∧ (port t p).mgdata = 7)
  ∧ (s.fw.authQ.head? = some p →
    let k := 1 - s.fw.active
    let ok : Prop := authVerdict s p = 0
    (authOp s p = 1 → ∃ t, exec (.claim p) s = .next t ∧ (ok → t.fw.owner = p + 1 ∧ (port t p).authStatus = 0 ∧ (port t p).authBusy = false)
      ∧ (¬ ok → t.fw.owner = s.fw.owner ∧ (port t p).authStatus = authVerdict s p))
    ∧ (authOp s p = 2 → ∃ t, exec (.handover p) s = .next t
      ∧ (ok → t.fw.owner = if authArg s p / 2 % 2 = 1 then 0 else authArg s p % 2 + 1) ∧ (¬ ok → t.fw.owner = s.fw.owner))
    ∧ (authOp s p = 3 → ∃ t, exec (.unlock p) s = .next t ∧ (ok → t.fw.locked = false))
    ∧ (authOp s p = 4 → ∃ t, exec (.rekey p) s = .next t ∧ (ok → t.fw.identity = s.fw.identity + 1 ∧ t.fw.erased = false ∧ t.fw.lmsIndex = 0))
    ∧ (authOp s p = 5 → ∃ t, exec (.switch p) s = .next t ∧ (ok → t.fw.next = k ∧ t.fw.active = s.fw.active ∧ t.fw.minsvn = Config.imageSvn (fwSlot s k)))
    ∧ (authOp s p = 6 → ∃ t, exec (.fwchunk p) s = .next t ∧ (ok → (port t p).authStatus = 0
      ∧ rdBytes t.fw.bytes (k * 2 ^ 24 + authArg s p * 4096) 4096 = rdBytes (port s p).authbuf 12288 4096)))
  ∧ (s.fw.authQ.head? = some p → authOp s p = 1 → authVerdict s p = 1 → 1 < regField s islandBlk 0xF818 15 8 → s.fw.failTimes = [] →
    ∃ t, exec (.claim p) s = .next t ∧ t.fw.owner = s.fw.owner ∧ (port t p).authStatus = 1)
  ∧ (∀ src, src < 4 → ∃ t, exec (.alarm src) s = .next t
    ∧ (regField (otherRecord s) islandBlk 0xF818 (2 * src + 1) (2 * src) = 1 → t.fw.locked = true)
    ∧ (regField (otherRecord s) islandBlk 0xF818 (2 * src + 1) (2 * src) = 2 → t.fw.locked = true ∧ t.fw.erased = true ∧ ∀ k, k < 24 → (part t k).memKey = false))
  ∧ (s.fw.erased = true → exec (.attestRead p) s = .next (updPort s p fun k => { k with mgdata := 1 }))
  ∧ (s.fw.erased = false → ∃ t, exec (.attestRead p) s = .next t
    ∧ (s.fw.lmsIndex < Config.lmsLeaves → (port t p).mgdata = 0 ∧ t.fw.lmsIndex = s.fw.lmsIndex + 1)
    ∧ (Config.lmsLeaves ≤ s.fw.lmsIndex → (port t p).mgdata = 1 ∧ t.fw.lmsIndex = s.fw.lmsIndex))

/-- R11, R154, R275, R282, R349 to R351, R362, R363, R365: what the owner and the island controller write: purses, partition
configuration, carving, page owners, hall data, the channel cache, reserved pages, table roots and invalidations.
R351, R358, R361, R365: what the meters do by themselves: flushes, leakage, refresh and corrections. -/
def Obligations.OwnerAndMeterEvents : Prop :=
  (∀ (s : State) (a : Agent) (p n : Nat) (v : Word), ownerOk s a = true →
  (n ≠ 0 → n ≤ 128 →
    ∃ t, exec (.purseAddWrite a n v) s = .next t ∧ (purse t n).purse = max (-(2 ^ 63 : Int)) (min (2 ^ 63 - 1) ((purse (takeFlushes s s.cycle) n).purse + v.toInt)))
  ∧ (p < 24 → bitsOf v.toNat 8 1 ≤ 128 → bitsOf v.toNat 8 1 = tenant s p →
    (v.getLsbD 0 = false → exec (.partcfgWrite a p v) s
      = .next (putReg s islandBlk (0x9000 + 8 * p) (BitVec.ofNat 64 (bitsOf v.toNat 9 0 + bitsOf v.toNat 47 16 * 2 ^ 16))))
    ∧ (v.getLsbD 0 = true → partEn s p = false → enableOk s p = true →
      ∃ t, exec (.partcfgWrite a p v) s = .next t ∧ partEn t p = true ∧ (part t p).memKey = true)
    ∧ (v.getLsbD 0 = true → partEn s p = false → enableOk s p = false → exec (.partcfgWrite a p v) s = .next s))
  ∧ (carveRefused s v.toNat = true → exec (.carveGo a v) s = .next (putField (carveFields s v.toNat) islandBlk 0x1000 42 42 1))
  ∧ (carveRefused s v.toNat = false →
    ∃ t, exec (.carveGo a v) s = .next t ∧ ∀ m ∈ t.moves, (core t m.core).move = true ∧ m.scrubbed = false ∧ m.core ∈ carveCores s v.toNat)
  ∧ (∃ t, exec (.carveStop a v) s = .next t ∧ t.moves = [] ∧ ∀ m ∈ s.moves, (core t m.core).move = false)
  ∧ (let sel := (getReg s islandBlk 0x1400).toNat
    s.ownPending = [] → p < 24 → v = BitVec.ofNat 64 (p + 32) → bitsOf sel 30 8 + (bitsOf sel 55 32 + 1) ≤ pagesOf (sel % 2) →
    ∃ t, exec (.owndatWrite a v) s = .next t ∧ ∀ i, i ≤ bitsOf sel 55 32 → mget 0 t.pages (sel % 2 * 2 ^ 24 + bitsOf sel 30 8 + i) = p + 1)
  ∧ exec .owndatApplyComplete s = .next { s with ownPending := [] }
  ∧ exec (.halldatRead a) s = .next (findErrors s (hallPa (hallSel s)) 8 4 0)
  ∧ (hallSel s < hallSize → tableAt s (hallSel s) = none → exec (.halldatWrite a v) s = .next (writeVal s (hallPa (hallSel s)) 8 v.toNat false))
  ∧ (p < 24 → exec (.pstructRead p) s = .next (updPart s p fun k => { k with spfull := false }))
  ∧ (p < 24 → v.toNat % 512 ≤ 384 → v.toNat % 512 ≤ (hallPagesOf s p).length →
    ∃ t, exec (.hccfgWrite a p v) s = .next t ∧ getReg t hallBlk (0x0100 + 16 * p) = BitVec.ofNat 64 (v.toNat % 1024) ∧ linesOf t p = [])
  ∧ (p < 24 → 384 < v.toNat % 512 → exec (.hccfgWrite a p v) s = .next (putField s hallBlk (0x0100 + 16 * p) 10 10 1))
  ∧ (∀ ch j, ch < 64 → j < 12 →
    let u := putReg s islandBlk (0xA400 + 96 * ch + 8 * j) (BitVec.ofNat 64 (bitsOf v.toNat 16 0 + bitsOf v.toNat 48 32 * 2 ^ 32))
    exec (.respgWrite a ch j v) s = .next (if 65536 < ((List.range 24).map (respgOf u ch)).foldl (· + ·) 0 then s else u))
  ∧ (p < 24 → ∃ t, exec (.ptrootWrite a p v) s = .next t ∧ (∀ c, ∀ e ∈ (core t c).tlb, e.part ≠ p)
      ∧ t.xlinvQ = s.xlinvQ ++ [BitVec.ofNat 64 (p + 32)]
      ∧ getReg t islandBlk (0x5000 + 8 * p) = BitVec.ofNat 64 (bitsOf v.toNat 55 17 * 2 ^ 17 + bitsOf v.toNat 63 63 * 2 ^ 63))
  ∧ (s.xlinvQ = [] → ∃ t, exec (.xlinvGo a v) s = .next t ∧ t.xlinvQ = [v ||| 64] ∧ (v.getLsbD 5 = true → ∀ c, ∀ e ∈ (core t c).tlb, e.part ≠ v.toNat % 32))
  ∧ exec (.registerWrite a islandBlk 0x1410 v) s = .next (setRw s islandBlk 0x1410 v [(27, 0)])
  ∧ (∀ k, p < 2 → k < 2 ^ 14 → exec (.registerWrite a (0x2000 + p) (0x4000 + k) v) s
      = .next (updPort s p fun r => { r with authbuf := wrBytes r.authbuf k ((leBytes 8 v.toNat).take (2 ^ 14 - k)) }))
  ∧ (∀ block off, block ≠ 0x2000 → block ≠ 0x2001 → off % 8 ≠ 0 → exec (.registerWrite a block off v) s = .next s))
  ∧ (∀ (s : State) (m c : Nat) (k : Core) (measured : List Int),
  (∃ t, exec (.meterFlushTimer m) s = .next t ∧ mget [] t.meters m = [])
  ∧ (s.comp ≠ .off → s.cores = [(c, k)] → kindOf c = .compute → k.asg = true → (quad s (quadOf c)).gated = false → (quad s (quadOf c)).hole = false →
    exec .leakageTick s = .next (charge s (quadOf c) 34 1 (tenant s k.part) true))
  ∧ (m < 64 → s.memDom ≠ .off → exec (.refreshRow m) s = .next (meterAdd s (1280 + m) refreshCtx (fareOf s 35 (1280 + m) * if s.fw.hotTowers.contains (m / 4) then 2 else 1)))
  ∧ (s.comp = .run → ∃ t, exec (.kcorrUpdate measured) s = .next t ∧ t.metered = []
    ∧ (m < 1388 → mget 0 s.metered m ≠ 0 → kcorr t m = clampKcorr ((kcorr s m : Int) * measured.getD m 0 / (mget 0 s.metered m : Nat)))))


/-! ## Events: engines, homes and memory controllers -/

/-- R180, R182, R185, R192, R194, R196, R210, R232, R238, R239, R256, R259 to R261, R265, R267: what the engines do by
themselves: the sequencer emits, vector, matrix and courier commands start, complete or fault, writes land, stream records and bank
commands complete, and a BSEL at the head of the AQ is applied. -/
def Obligations.EngineEvents : Prop := ∀ (s : State) (c d k : Nat) (r : Rec),
  let quad0 := quadOf c
  (∀ q r sd sa sb, (core s c).seqr = some q → engRoom s c 0 = true → seqStopped s c q = false → q.body[q.pos]? = some r →
      q.strides[q.pos]? = some (sd, sa, sb) → q.pos + 1 < q.body.length → q.iter < q.count →
    ∃ t e, exec (.sequencerEmit c) s = .next t ∧ e ∈ (core t c).coachQ ∧ e.word = r.word ∧ e.d = r.d + BitVec.ofNat 64 q.iter * sd
      ∧ e.a = r.a + BitVec.ofNat 64 q.iter * sa ∧ e.b = r.b + BitVec.ofNat 64 q.iter * sb ∧ (core t c).seqr = some { q with pos := q.pos + 1 })
  ∧ (kindOf c = .compute → (coresOfQuad quad0).getD (((quad s quad0).vlast + 1) % 4) 0 = c → coachHead s c = some r → r.isVec = true → r.prog = 1 →
      (∀ e ∈ coresOfQuad quad0, ∀ v ∈ (core s e).coachQ, v.st ≠ 1) →
    exec (.vectorCommandStart c) s = .next (updRec (updQuad s quad0 fun v => { v with vlast := ((quad s quad0).vlast + 1) % 4 }) c 0 r.seq
      fun r => { r with st := 1, active := true, prog := 1 }))
  ∧ (vecNext s c = some r → together s c r = false →
    (r.prog = 2 → writesOut s c 0 r.seq = false → exec (.vectorCommandComplete c) s = .next (vecDone s c r (r.xq.headD 0)))
    ∧ (∀ pa, r.prog ≠ 2 → r.major ≠ 0x36 →
      let u := vecFind s c r
      let o := vecResult u c r
      vecPlace u c r.part (ea56 r.d) (vecOpds r.word r.b.toNat).1 = some pa → windowFault u c pa (ea56 r.d) o.bytes = none →
      exec (.vectorCommandComplete c) s = .next (vecSettle (vecLand u c r pa o.bytes) c r o.flags))
    ∧ (r.prog ≠ 2 → r.major ≠ 0x36 → vecPlace (vecFind s c r) c r.part (ea56 r.d) (vecOpds r.word r.b.toNat).1 = none →
      exec (.vectorCommandComplete c) s = .next (vecFault (vecFind s c r) c r (trapAt .bounds (ea56 r.d)))))
  ∧ ((coresOfQuad d).getD (((quad s d).mlast + 1) % 4) 0 = c → matActive s c = none → matHead s c = some r →
    ∃ t, exec (.matrixGrant d) s = .next t ∧ (quad t d).mlast = ((quad s d).mlast + 1) % 4
      ∧ ∀ e ∈ (core t c).coachQ, e.seq = r.seq → e.st = 2 ∨ (e.st = 1 ∧ e.active = true))
  ∧ (matActive s c = some r →
    (r.prog ≠ 2 → r.fn = 4 → exec (.matrixCommandComplete c) s = .next (doneRec (zeroBanks s quad0 (runOf r.d.toNat)) c 0 r []))
    ∧ (r.prog = 2 → writesOut s c 0 r.seq = false → exec (.matrixCommandComplete c) s = .next (outDone s c r)))
  ∧ (∀ w, s.engWrites[k]? = some w → w.held = false → mustMatch s w = false → coreOfPa w.pa = some d →
    let u : State := { s with engWrites := s.engWrites.take k ++ s.engWrites.drop (k + 1) }
    ((core u d).isSealed = false → w.rot = true → exec (.rotationWriteApply k) s = .next (landBoth u w))
    ∧ ((core u d).isSealed = false → w.rot = false → exec (.engineWriteArrival k) s = .next (landBoth u w))
    ∧ ((core u d).isSealed = true →
      (w.rot = true → exec (.rotationWriteApply k) s = .next (discardWrite u d w))
      ∧ (w.rot = false → exec (.engineWriteArrival k) s = .next (discardWrite u d w))))
  ∧ ((core s c).courierQ = [r] → (core s c).hardHalt = false → r.active = false → r.st = 0 →
    let v := updRec s c 1 r.seq fun r => { r with st := 1, active := true, iter := if r.fn ≤ 2 then r.prog else 0 }
    exec (.courierCommandStart c) s = .next (if r.fn = 6 then takeInstance v c r else v))
  ∧ ((core s c).courierQ[k]? = some r → r.st = 1 → r.active = true → recStopped s c r = false →
    (cpTotal r ≤ r.iter → recOut s c 1 r.seq = false →
      exec (.courierCommandComplete c k) s = .next (updRec s c 1 r.seq fun q => { q with st := 2, active := false, prog := cpTotal r, fault := none }))
    ∧ (5 ≤ r.fn → r.iter < cpTotal r → portRoom s = true → planOk s r = false →
      exec (.courierFault c k) s = .next (courierFault s c r (trapAt .bounds (ea56 r.d)))))
  ∧ ((chan s c).streamQ = [r] → (core s c).hardHalt = false → r.active = false → r.st = 0 →
    exec (.streamRecordStart c) s = .next (updRec s c 2 r.seq fun r => { r with st := 1, active := true, iter := r.prog }))
  ∧ ((chan s c).streamQ[k]? = some r → r.st = 1 → r.active = true → recStopped s c r = false → s.memDom = .on → r.fn = 3 → recOut s c 2 r.seq = false →
    (r.b.toNat % 256 ≤ r.prog → ∃ t, exec (.streamRecordComplete c k) s = .next t ∧ ∀ e ∈ (chan t c).streamQ, e.seq = r.seq → e.st = 2)
    ∧ (r.prog < r.b.toNat % 256 → r.a.toNat / 8192 % 4096 = cubeId s → (ring s (r.a.toNat % 8192) (r.a.toNat / 2 ^ 25 % 8)).init = false →
      exec (.streamRecordFault c k) s = .next (streamFault s c r (ringTrap (r.a.toNat / 2 ^ 25 % 8)))))
  ∧ (∀ n mask layer e rest, (chan s c).aq = .bsel n mask layer :: .data e :: rest →
    exec (.bselApply c) s = .next (updChan s c fun v => { v with aq := .data e :: rest, bmask := mput 0 v.bmask n mask, blayer := mput 0 v.blayer n layer }))
  ∧ (∀ pa, (chan s c).bankCmds[k]? = some r → bankReady s c k r = true → r.fn = 5 → r.xq = [pa] → r.mem.length = 16 →
    let u := updChan s c fun v => { v with bankCmds := v.bankCmds.eraseIdx k }
    (r.lost = true → exec (.bankCommandComplete c k) s = .next (trapLog u r.part 1 c 0 (BitVec.ofNat 64 (ea56 r.d))))
    ∧ (r.lost = false → s.latent = [] → s.softErr = [] → meetsRetired s pa 1024 = false → (∀ i, i < 1024 → takesByte s (pa + i) = true) →
    ∃ t, exec (.bankCommandComplete c k) s = .next t ∧ (chan t c).bankCmds = (chan s c).bankCmds.eraseIdx k
      ∧ ∀ i, i < 1024 → rdByte t.mem (pa + i) = r.mem.getD (i % 16) 0))

/-- R278, R279, R284, R310, R311, R316, R345: the home of a double grants its reservation, barriers count arrivals, and
the memory controllers spare rows and scrub. -/
def Obligations.HomeEvents : Prop := ∀ (s : State) (c b k pa born : Nat) (n : Int) (src : Nat × Nat × Nat),
  let d := pa / 8 * 8
  (∀ q rest va, mget [] s.resvQ d = q :: rest → q.core < 8192 → q.granted = false → (slot s q.core q.slot).pair = false →
      (∃ w, (slot s q.core q.slot).wait = some { word := w, cond := .grant d va, reply := none }) → sealedFor s q.core d = false → servable s d = true →
      reservedAt s d < 64 →
    let u := grantAccess s q.core q.slot d
    u.latent = [] → u.softErr = [] → poisonedAt u d 4 = false →
    exec (.reservationGrant pa) s = .next (setReply { u with resvQ := mput [] u.resvQ d ({ q with granted := true } :: rest) } q.core q.slot
      (.value (BitVec.ofNat 64 (rdN u.mem d 8)) false)))
  ∧ (s.barEvents[k]? = some { core := c, bar := b, kind := 0, n := n, src := src, since := born } → (core s c).isSealed = false →
      (barrier s c b).v = true → (barrier s c b).rb = false → (barrier s c b).arr + n.toNat < (barrier s c b).exp →
    ∃ t, exec (.barrierEventApply k) s = .next t ∧ barrier t c b = { barrier s c b with arr := (barrier s c b).arr + n.toNat })
  ∧ (s.barEvents[k]? = some { core := c, bar := b, kind := 0, n := n, src := src, since := born } → (core s c).isSealed = false →
      (barrier s c b).v = true → (barrier s c b).rb = false → (barrier s c b).arr + n.toNat = (barrier s c b).exp → (barrier s c b).pend = 0 →
      barWaiters s c b = [] →
    ∃ t, exec (.barrierEventApply k) s = .next t
      ∧ barrier t c b = { barrier s c b with pcnt := ((barrier s c b).pcnt + 1) % 65536, arr := 0, waiters := [] })
  ∧ (s.barEvents[k]? = some { core := c, bar := b, kind := 0, n := n, src := src, since := born } → (core s c).isSealed = false →
      (barrier s c b).v = true → (barrier s c b).rb = false → (barrier s c b).exp < (barrier s c b).arr + n.toNat →
    ∃ t, exec (.barrierEventApply k) s = .next t ∧ barrier t c b = { barrier s c b with err := true })
  ∧ (∀ ch bank row, (chan s (6144 + ch)).copyingRows = [bank * 8192 + row] → s.latent = [] → s.softErr = [] →
    ∃ t, exec (.rowSpareComplete ch bank row) s = .next t ∧ (chan t (6144 + ch)).copyingRows = []
      ∧ (chan t (6144 + ch)).remapped.contains (bank * 8192 + row) = true
      ∧ mget 0 (chan t (6144 + ch)).spUsed bank = mget 0 (chan s (6144 + ch)).spUsed bank + 1)
  ∧ (∀ ch, ch < 64 → s.memDom = .on → s.latent = [] → s.softErr = [] →
    exec (.scrubPass ch) s = .next (charge (updChan s (6144 + ch) fun v => { v with corrected := [] }) (1280 + ch) 25 (2 ^ 29) 0))

/-! ## Events: the network -/

/-- R397 to R399, R402, R404: links, routes and heartbeats. A link that trains on all its lanes is UP, one with fewer than four healthy
lanes FAILED; the spare takes a failing lane; a packet for another cube goes on along its route. -/
def Obligations.LinkEvents : Prop := ∀ (s : State) (l lane k cube : Nat) (q : Packet),
  (mayTrain s l = true → ((link s l).state = 0 ∨ (link s l).state = 4) →
    exec (.linkRetrain l) s = .next (putLink s l { link s l with state := 1 }))
  ∧ ((link s l).state = 1 → (link s l).bad = 0 → ∃ t, exec (.linkTrainComplete l 0x1FF) s = .next t ∧ (link t l).state = 2 ∧ (link t l).spused = false)
  ∧ ((link s l).state = 1 → ∃ t, exec (.linkTrainComplete l 0) s = .next t ∧ (link t l).state = 4)
  ∧ ((link s l).state = 1 → (link s l).bad = 0 → ∃ t, exec (.linkTrainComplete l 0x00F) s = .next t ∧ (link t l).state = 3)
  ∧ ((link s l).state = 1 → ∃ t, exec (.linkTrainTimeout l) s = .next t ∧ (link t l).state = 4)
  ∧ ((link s l).state = 2 → lane < 8 → (link s l).bad = 0 → (link s l).spused = false →
    exec (.laneFailure l lane) s = .next (putLink s l { link s l with bad := BitVec.ofNat 9 (2 ^ lane), spused := true, splane := lane }))
  ∧ (linkUsable s l = true → ∃ t, exec (.linkSilenceTimeout l) s = .next t ∧ (link t l).state = 4)
  ∧ (linkUsable s l = true →
    exec (.linkReplay l) s = .next (putLink s l { link s l with lreplay := min 65535 ((link s l).lreplay + 1) }))
  ∧ (∀ es, ∃ t, exec (.routeUpdate cube es) s = .next t ∧ (cube ≠ cubeId s → edges t cube = es))
  ∧ (wsDown s = false → livePeers s = [cube] → exec .heartbeatSend s = .next (sendOcm s cube .heartbeat))
  ∧ (s.net.inbox[k]? = some q → q.dcube ≠ cubeId s → netDown s = false →
    let u := dropInbox (enterPort s k) k
    let p : Packet := throughGroup u { q with via := 16 }
    (q.kind ≤ 13 → exec (.packetTransit k) s = .next (sendVia u p (link u q.via).role (routeLink u p)))
    ∧ (13 < q.kind → exec (.packetTransit k) s = .next (otherRecord (dropInbox s k))))
  ∧ (s.net.inbox[k]? = some q → q.dcube = cubeId s → q.kind = 12 → q.payload = .heartbeat → netDown s = false → q.via = 16 → seqCase s q = .fresh →
    exec (.packetReceive k) s = .next (writeThrough s (heartbeatHeard (respond (mark (dropInbox s k) q) q 1 0) q.scube) q.scube))

/-- R284, R307, R316, R407, R408, R410, R412 to R414, R417, R419: packets that end here, answers and retries. A request with a cached
connection is served; a packet goes again with TRY + 1 when it is not answered; a NAK-ABSENT fails its message. -/
def Obligations.PacketEvents : Prop := ∀ (s : State) (k : Nat) (q : Packet),
  (s.net.inbox[k]? = some q → q.dcube = cubeId s → netDown s = false → q.via = 16 → q.taken = false → q.fwd = false → seqCase s q = .fresh →
    (q.scube ≠ cubeId s → q.addr / 2 ^ 53 % 8 < 4 → s.memDom = .on → s.net.conns.contains q.scube = true → nextOfConn s k q = true →
      let u := dropInbox { s with net := { s.net with conns := q.scube :: s.net.conns.erase q.scube } } k
      (∀ size v t, q.kind = 9 → q.payload = .atomic 1 size v → serveAtomic u q 1 size v = some t → exec (.reservationReleaseApply k) s = .next (writeThrough s t q.scube))
      ∧ (∀ b kd n, q.kind = 6 → q.payload = .bar b kd n → exec (.remoteBarrierEvent k) s = .next (writeThrough s (serveBar u q b kd n) q.scube)))
    ∧ (∀ bs j i, q.kind = 7 → q.payload = .data bs → planEn s q.spart q.plan = true → contribPlace s q = some (j, i) →
        instBefore (nodeCur s q.spart q.plan j) q.inst = true →
      ∃ t, exec (.reduceContributionArrival k) s = .next t ∧ t.net.inbox = s.net.inbox.set k { q with taken := true } ∧ t.net.contribs = s.net.contribs)
    ∧ (∀ bs, q.kind = 8 → q.payload = .data bs → planEn s q.spart q.plan = false →
      exec (.multicastReceive k) s = .next (writeThrough s (refuse (dropInbox (mark s q) k) q 4 0x14) q.scube))
    ∧ (∀ p pl inst cause, q.kind = 12 → q.payload = .abort p pl inst cause →
      exec (.planAbort k) s = .next (writeThrough s (abortTold (respond (mark (dropInbox s k) q) q 1 0) p pl inst cause q.scube) q.scube)))
  ∧ (s.net.fetching.contains k = true → s.memDom = .on → s.latent = [] → s.softErr = [] → poisonedAt s (recordAt s k) 4096 = false →
    ∃ t, exec (.connectionFetchComplete k) s = .next t ∧ t.net.conns = cacheConn s k
      ∧ t.net.inbox = (s.net.missBuf.filter fun q => q.scube == k) ++ s.net.inbox)
  ∧ (∀ x, s.net.retry[k]? = some x → s.ws ≠ .off → s.ws ≠ .boot →
    (x.pkt.tryNo < 7 → exec (.e2eRetryTimeout k) s
      = .next (resend s k { x with pkt := { x.pkt with tryNo := x.pkt.tryNo + 1 }, nak := false }))
    ∧ (x.pkt.tryNo = 7 → x.pkt.kind ≠ 2 → x.pkt.kind ≠ 7 →
      exec (.e2eRetryTimeout k) s = .next (failSent (messageEnded s x.pkt) x (if x.pkt.kind = 11 then 0x100 else 0x11)))
    ∧ (x.pkt.tryNo = 7 → x.pkt.kind = 7 → exec (.e2eRetryTimeout k) s = .next (resend s k { x with nak := false }))
    ∧ (x.nak = true → exec (.nakRetryResend k) s = .next (resend s k { x with nak := false })))
  ∧ (∀ x bs, s.net.inbox[k]? = some q → q.kind = 10 → s.ws = .full → s.comp = .run → sentFor (dropInbox s k) q = some x →
    (q.payload = .resp 3 0 bs → exec (.nakAbsentReceive k) s = .next (failSent (dropInbox s k) x 0x11))
    ∧ (q.payload = .resp 0 0 bs → exec (.acknowledgementReceive k) s = .next (ackSent (dropInbox s k) x 0 bs))
    ∧ (q.payload = .resp 2 0 bs → x.naks < 255 → ∃ t, exec (.acknowledgementReceive k) s = .next t
      ∧ t.net.retry = s.net.retry.map fun y => if y == x then { x with naks := x.naks + 1, nak := true } else y))
  ∧ (∀ x c sl, s.net.inbox[k]? = some q → q.kind = 10 → s.ws = .full → s.comp = .run → q.payload = .resp 1 0 [] →
      sentFor (dropInbox s k) q = some x → x.who = some (c, sl) → x.also = none → x.cmd = none → x.counted = true → x.pkt.kind = 4 →
      (∃ bs, x.pkt.payload = .data bs) →
    ∃ u, exec (.acknowledgementReceive k) s = .next (ackOuts u c sl) ∧ u.net.retry = s.net.retry.erase x ∧ u.slots = s.slots)
  ∧ exec (.messageCountExpiry k) s = .next { s with net := { s.net with counts := s.net.counts.eraseIdx k } }
  ∧ (s.ws ≠ .off → s.ws ≠ .boot →
    exec (.arrivalFilterExpiry k) s = .next { s with net := { s.net with filter := s.net.filter.eraseIdx k } })
  ∧ (s.net.kept[k]? = some q → s.ws ≠ .off → s.ws ≠ .boot →
    exec (.bounceResend k) s = .next (transmit { s with net := { s.net with kept := s.net.kept.eraseIdx k } } { pkt := { q with tryNo := 0 }, again := true }))

/-! ## Events: the map, plans, the lantern, escorted pairs and trap messages -/

/-- R331, R335, R339 to R341, R404, R411: walks complete, an invalidation strikes off what has been performed and completes when
nothing issued before it is left, changes of the map are issued, numbered and applied in
order, granules are copied, a lost cube is declared; a plan whose checks pass is
enabled, one whose checks fail gets ERR, and a disabled one is off. -/
def Obligations.MapEvents : Prop := ∀ (s : State) (k n : Nat) (a : Agent) (ch : MapChange) (q : Packet),
  let sel := (getReg s islandBlk 0x0800).toNat
  (∀ w c e, s.walks[k]? = some w → k < 64 → s.memDom = .on → w.waiters = [] → w.fills = [c] →
      (∀ v ∈ s.walks.eraseIdx k, v.part ≠ w.part) → (walk { s with walks := s.walks.eraseIdx k } w.part w.va).2 = .ok e →
      (∀ sl w', (slot s c sl).wait = some w' → ∀ va, w'.cond ≠ .walk va) →
    ∃ t, exec (.walkComplete k) s = .next t ∧ t.walks = s.walks.eraseIdx k ∧ e ∈ (core t c).tlb)
  ∧ (s.xlinvOut.filter (stillOut s) ≠ [] → exec .xlinvComplete s = .next { s with xlinvOut := s.xlinvOut.filter (stillOut s) })
  ∧ (∀ v, s.xlinvQ = [v] → s.xlinvOut.filter (stillOut s) = [] → exec .xlinvComplete s = .next { s with xlinvQ := [], xlinvOut := [] })
  ∧ (ownerOk s a = true → ∃ t, exec (.mapChangeIssue a ch) s = .next t ∧ t.net.mapIssued = s.net.mapIssued ++ [ch])
  ∧ (ownerOk s a = false → exec (.mapChangeIssue a ch) s = .next s)
  ∧ (∀ i, s.net.inbox[k]? = some q → q.dcube = cubeId s → netDown s = false → q.via = 16 → seqCase s q = .fresh → q.payload = .change none i ch →
      s.net.mapApplied = s.net.mapNext →
    (seqCubeFor s ch ≠ cubeId s ∨ changeFits s ch = false → exec (.mapChangeSequence k) s = .next (respond (mark (dropInbox s k) q) q 4 0))
    ∧ (seqCubeFor s ch = cubeId s → changeFits s ch = true → ∃ t, exec (.mapChangeSequence k) s = .next t ∧ t.net.mapNext = s.net.mapNext + 1))
  ∧ (∀ i, s.net.inbox[k]? = some q → q.dcube = cubeId s → netDown s = false → q.via = 16 → seqCase s q = .fresh →
      q.payload = .change (some s.net.mapApplied) i ch →
    exec (.mapChangeApply k) s = .next (applyChange (respond (mark (dropInbox s k) q) q 1 0) i ch))
  ∧ (∀ g, (stripeAt s n).state = 1 → (stripeAt s n).copying.length < 64 → s.memDom = .on → wsDown s = false → granuleReserved s (stripeAt s n) g = false → nextGranule s (stripeAt s n) = some g →
      memberDead (memberFor s (stripeAt s n).oset g) = false →
    ∃ t, exec (.restripeGranuleCopy n) s = .next t ∧ g ∈ (stripeAt t n).copying)
  ∧ (∀ g b bs x, s.net.inbox = [q] → q.kind = 10 → q.payload = .resp 1 0 [] → s.ws = .full → sentFor s q = some x → x.who = none → x.also = none →
      x.pkt.kind = 12 → x.pkt.payload = .granule n g (b :: bs) → s.comp = .run →
    exec (.restripeCopyAck n) s = .next (granuleMoved { s with net := { s.net with inbox := [], retry := s.net.retry.erase x } } n g))
  ∧ (∀ i ms, regField s islandBlk 0x0008 19 19 = 1 → linksAway s n = true →
      mget 0 s.net.away n + regField s islandBlk 0x0008 31 20 * 2100000 ≤ longNow s →
      mget 0 s.net.heard n + regField s islandBlk 0x0008 31 20 * 2100000 ≤ longNow s →
      ((allCubes s).find? fun c => c != n && wasPeer s c n) = some (cubeId s) → wsDown s = false → s.sets = [(i, ms)] →
      (∃ m ∈ ms, memberCube m = n ∧ memberDead m = false) →
    exec (.cubeLossTimer n) s = .next (issueChange s (setChange i (ms.map fun m => if memberCube m = n then m ||| 0x8000 else m))))
  ∧ (ownerOk s a = true → sel % 32 < 24 → sel / 2 ^ 12 % 4 = 0 → ∀ v : Word,
    let p := sel % 32
    let j := sel / 32 % 64
    let low (x : Nat) : BitVec 128 := BitVec.ofNat 128 ((planOf s p j).toNat / 2 ^ 64 * 2 ^ 64 + (planOf s p j).toNat / 2 ^ 51 % 2 * 2 ^ 51 + x)
    let put := putPlan s p j (low (((v ||| 1).toNat &&& planMask) - 1))
    (planEn s p j = false → planFits put p j = true →
      exec (.planEnable a v) s = .next (enablePlan put p j) ∧ planEn (enablePlan put p j) p j = true ∧ planField (enablePlan put p j) p j 51 51 = 0)
    ∧ (planEn s p j = false → planFits put p j = false →
      exec (.planEnable a v) s = .next (putPlanField put p j 51 51 1) ∧ planField (putPlanField put p j 51 51 1) p j 51 51 = 1
        ∧ planEn (putPlanField put p j 51 51 1) p j = false)
    ∧ (planEn s p j = true → ∃ t, exec (.planEnable a v) s = .next t ∧ planEn t p j = true)
    ∧ (∃ t, exec (.planDisable a v) s = .next t ∧ planEn t p j = false))

/-- R320 to R323: a lantern slot is enabled, a round starts whenever its entry is ROUND, a held probe goes on with the count added and
the slot turns white, and a white probe with the count 0 ends the phase. -/
def Obligations.LanternEvents : Prop := ∀ (s : State) (a : Agent) (p sl k : Nat) (v : Word) (q : Packet),
  let l := lantern s p sl
  let sent (u : State) (pl : Payload) : State := sendLantern u p sl pl
  let got := respond (mark (dropInbox s k) q) q 1 0
  let fresh : Prop := s.net.inbox[k]? = some q ∧ q.dcube = cubeId s ∧ netDown s = false ∧ q.via = 16 ∧ seqCase s q = .fresh
  p < 24 → sl < 16 →
  (ownerOk s a = true → l.en = false →
    (v.getLsbD 29 = true → exec (.lanternSlotWrite a (p * 16 + sl) 0 v) s = .next (putLantern s p sl
      { l with entry := v.toNat % 65536, next := bitsOf v.toNat 27 16, lead := v.getLsbD 28, en := true, round := 0, black := false,
               done := false, probe := none, out := false }))
    ∧ exec (.lanternSlotWrite a (p * 16 + sl) 1 v) s = .next (putLantern s p sl { l with tmo := v.toNat % 65536 }))
  ∧ (l.en = true → l.lead = true → wsDown s = false →
    let r := (l.round + 1) % 65536
    let started := sent (putLantern s p sl { l with round := r, black := false, out := true }) (.probe p sl r 0 false)
    (l.out = false → phaseRound s p sl = true → exec (.lanternRoundStart (p * 16 + sl)) s = .next started)
    ∧ (l.out = true → l.tmo ≠ 0 → exec (.lanternTimeout (p * 16 + sl)) s = .next started))
  ∧ (∀ n black, l.probe = some (n, black) → l.en = true → wsDown s = false → phaseRound s p sl = true →
    exec (.lanternProbeRelease (p * 16 + sl)) s = .next (sent (putLantern s p sl { l with black := false, probe := none })
      (.probe p sl l.round (BitVec.ofInt 64 (n + lanternCount s p)).toInt (black || l.black))))
  ∧ (∀ n black, fresh → q.payload = .probe p sl l.round n black → l.en = true → lantern got p sl = l →
    (l.lead = false → exec (.lanternProbeArrival k) s = .next (putLantern got p sl { l with probe := some (n, black) }))
    ∧ (l.lead = true → l.out = true → black = false → l.black = false → n + lanternCount got p = 0 →
      exec (.lanternProbeReturn k) s = .next (sent (endPhase (putLantern (putLantern got p sl { l with out := false }) p sl
        { l with out := false, done := true }) p l.entry) (.lanternDone p sl))))
  ∧ (fresh → q.payload = .lanternDone p sl → l.en = true → l.lead = false → lantern got p sl = l →
    exec (.lanternDoneMessage k) s = .next (sent (endPhase (putLantern got p sl { l with done := true }) p l.entry) (.lanternDone p sl)))

/-- R372, R379, R387, R388: a trap message enters its steward's queue, or the spill area when that is full, and waits where it is
while that has no room either; equal messages of an
escorted pair are forwarded once, unequal ones and one whose partner does not come are dropped. -/
def Obligations.MessageAndEscortEvents : Prop := ∀ (s : State) (k p st : Nat) (m : TrapMsg) (a b : EscMsg),
  (s.msgFlight = [(st, m)] → msgSpilled s st = false → (mget [] s.tmsgs st).length < 256 →
    exec (.trapMessageArrival 0) s = .next (deliverMsg { s with msgFlight := [] } st m))
  ∧ (s.msgFlight = [(st, m)] → 256 ≤ (mget [] s.tmsgs st).length →
    let first := (part s m.part).spillWait = [] ∨ (part s m.part).spillWait.head? = some (.notice st m)
    (first → spillFits s m.part 128 = true →
      exec (.trapMessageArrival 0) s = .next (updPart { s with msgFlight := [] } m.part fun q =>
        { q with spill := q.spill ++ [.message st m], spillWait := q.spillWait.drop 1 }))
    ∧ (¬ first ∨ spillFits s m.part 128 = false →
      ((part s m.part).spillWait.contains (.notice st m) = true → exec (.trapMessageArrival 0) s = .next s)
      ∧ ((part s m.part).spillWait.contains (.notice st m) = false → exec (.trapMessageArrival 0) s = .next
          (updPart (spillFull s m.part) m.part fun q => { q with spillWait := q.spillWait ++ [.notice st m] }))))
  ∧ ((part s p).spill = [.message st m] → (mget [] s.tmsgs st).length < 256 →
    exec (.trapMessageSpillReturn p) s = .next (deliverMsg (updPart s p fun q => { q with spill := [] }) st m))
  ∧ (wfmWaiters s st m.part = [] → (freeSlot s st = none ∨ mget 0 s.tvec (st * 32 + m.part) = 0) →
    (∃ t, deliverMsg s st m = t ∧ mget [] t.tmsgs st = mget [] s.tmsgs st ++ [m]))
  ∧ (s.net.escort[k]? = some a → escPartner s a = some b →
    (a.hash = b.hash → (slot s a.core a.slot).twin = false → exec (.escortCompare k) s = .next (escForward s a b))
    ∧ (a.hash = b.hash → (slot s a.core a.slot).twin = true → exec (.escortCompare k) s = .next (escForward s b a))
    ∧ (a.hash ≠ b.hash → exec (.escortCompare k) s = .next (escDrop (escDrop s a) b)))
  ∧ (s.net.escort[k]? = some a → escPartner s a = none →
    (partnerOf (escDrop s a) a.core a.slot = none → exec (.escortTimeout k) s = .next (escDrop s a))
    ∧ (∀ d sl, partnerOf (escDrop s a) a.core a.slot = some (d, sl) →
      exec (.escortTimeout k) s = .next (addPending (escDrop s a) d sl (.escort a.addr))))

/-! ## Results, traps, steps and encodings -/

/-- R200, R191: an integer VARITH operation on the lanes of its sources. An active lane whose source elements are unpoisoned holds the
value of the operation, one with a poisoned source element is poisoned and zero, and an inactive lane is not written. VNEG and VABS
have one source; VFMA and VFMS also read D. -/
def Obligations.VectorIntegerLanes : Prop := ∀ (op ty i : Nat) (rm : Rm) (p : BitVec 256) (A B D : List Elem),
  let sz := vsize ty
  let w := 8 * sz
  let a : BitVec w := BitVec.ofNat w (elemAt A i).1
  let b : BitVec w := BitVec.ofNat w (elemAt B i).1
  let d : BitVec w := BitVec.ofNat w (elemAt D i).1
  let lane := (varith op ty rm p A B D).bytes.filter fun e => e.1 / sz == i
  let clamp (v : Int) : BitVec w := BitVec.ofInt w (max (-(2 ^ (w - 1))) (min (2 ^ (w - 1) - 1) v))
  let shift := b.toNat % w
  let bad : Bool := (elemAt A i).2 || (op != 21 && op != 22 && (elemAt B i).2) || ((op == 17 || op == 18) && (elemAt D i).2)
  ty < 4 → i < 256 / sz → (elemAt A i).1 < 2 ^ w → (elemAt B i).1 < 2 ^ w → (elemAt D i).1 < 2 ^ w → op < 23 → op ≠ 19 → op ≠ 20 →
  (p.getLsbD (sz * i) = false → lane = [])
  ∧ (p.getLsbD (sz * i) = true → bad = true →
    lane = (List.range sz).map fun j => (sz * i + j, 0, true))
  ∧ ∀ v : BitVec w, p.getLsbD (sz * i) = true → bad = false →
      v = (match op with
        | 0 => a + b | 1 => a - b | 2 => a * b
        | 3 => if a.toInt ≤ b.toInt then a else b | 4 => if a.toInt ≤ b.toInt then b else a
        | 5 => if a.toNat ≤ b.toNat then a else b | 6 => if a.toNat ≤ b.toNat then b else a
        | 7 => a &&& b | 8 => a ||| b | 9 => a ^^^ b
        | 10 => a <<< shift | 11 => a >>> shift | 12 => a.sshiftRight shift
        | 13 => clamp (a.toInt + b.toInt) | 14 => clamp (a.toInt - b.toInt)
        | 15 => BitVec.ofInt w (a.toInt * b.toInt / 2 ^ w) | 16 => BitVec.ofNat w (a.toInt - b.toInt).natAbs
        | 17 => a * b + d | 18 => a * b - d | 21 => -a | _ => BitVec.ofNat w a.toInt.natAbs) →
      lane = (List.range sz).map fun j => (sz * i + j, BitVec.ofNat 8 (v.toNat / 256 ^ j), false)

/-- R50, R52, R54, R55: what an instruction that writes register field `d` leaves as it was, and when the value is readable. A write to
zr changes no register and no memory; no other register, no other byte of memory, no full bit, no poison outside PMASK, no
reservation and no special register changes; the pc moves to the next word, W cycles later the next one may issue, at once after an
instruction that had parked (R54), and the canonical form of memory stays. The state in
which it issues has the flags that were due by then in FLAGS, and nothing else has changed (R47). -/
def Obligations.ResultFrame : Prop := ∀ (s : State) (x : Ctx) (w : BitVec 3) (k : Nat) (d : BitVec 5) (v : Word) (lat : Nat) (p : Bool),
  let b := now s x
  let t := after w k x (x.wr b d.toNat v lat p)
  let home := wsPa s x.c x.sl + 8 * d.toNat
  let free : Prop := ∀ e ∈ (stream s x.c x.x).pend, e.reg ≠ d.toNat
  (d.toNat < 24 → regValue t x.c x.sl d.toNat = v ∧ isPoisoned t x.c x.sl d.toNat = p)
  ∧ (∀ r, r < 32 → r ≠ d.toNat → regValue t x.c x.sl r = regValue s x.c x.sl r ∧ isPoisoned t x.c x.sl r = isPoisoned s x.c x.sl r)
  ∧ (24 ≤ d.toNat → t.mem = b.mem)
  ∧ (∀ a, a < home ∨ home + 8 ≤ a → rdByte t.mem a = rdByte b.mem a)
  ∧ (∀ a, a ≠ wsPa s x.c x.sl + 0xF6 → rdByte b.mem a = rdByte s.mem a)
  ∧ ((∀ e ∈ (stream s x.c x.x).pend, e.isFlags = true → x.t < e.ready) → b = atCycle s x.t)
  ∧ predOf t x.c x.sl = predOf s x.c x.sl ∧ frmOf t x.c x.sl = frmOf s x.c x.sl ∧ flagsOf t x.c x.sl = flagsOf b x.c x.sl
  ∧ status t x.c x.sl = status s x.c x.sl ∧ (stream t x.c x.x).sb = (stream s x.c x.x).sb
  ∧ t.full = s.full ∧ t.poison = s.poison ∧ t.resvQ = s.resvQ ∧ t.regs = s.regs ∧ t.tvec = s.tvec ∧ t.dbgctl = s.dbgctl ∧ t.cores = s.cores
  ∧ t.channels = s.channels ∧ t.quads = s.quads ∧ t.accMem = s.accMem ∧ t.hostMem = s.hostMem ∧ t.parts = s.parts ∧ t.net = s.net
  ∧ (stream t x.c x.x).pc = x.pc + 4 ∧ (stream t x.c x.x).nextIssue = (if x.reply.isSome then x.t else x.t + 1 + w.toNat)
  ∧ (free → ∀ n, x.t < n → x.t + lat ≤ n → pendOf (stream t x.c x.x) d.toNat n = none)
  ∧ (free → d.toNat < 24 → ∀ n, x.t < n → n < x.t + lat →
      ∃ e, pendOf (stream t x.c x.x) d.toNat n = some e ∧ e.old = regValue s x.c x.sl d.toNat)
  ∧ (Memory.wf s.mem = true → Memory.wf t.mem = true)

/-- R377, R378, R379, R74: taking a trap. The traveller is TRAPPED with its pc at the instruction, one message with the cause, the
pc and the cycle goes to the steward of its core, and its registers, its header, its reservation, its queues and every byte of
memory but its PC and STATUS fields stay, and FLAGS, where no flags of the stream are pending; a parked traveller is PARKED with its reason and its condition. -/
def Obligations.TrapEntry : Prop := ∀ (s : State) (x : Ctx) (i : TrapInfo) (k word reason : Nat) (cond : Cond),
  let t := trapped x s i
  let u := parked k x (now s x) word reason cond
  let ws := wsPa s x.c x.sl
  let kept (a : Nat) : Prop := (a < ws + 192 ∨ ws + 200 ≤ a) ∧ (a < ws + 0xFE ∨ ws + 0x100 ≤ a)
    ∧ (a ≠ ws + 0xF6 ∨ ∀ e ∈ (stream s x.c x.x).pend, e.isFlags = false)
  (stream s x.c x.x).run = some x.sl → (slot s x.c x.sl).used = true →
  (stateOf t x.c x.sl = .trapped ∧ savedPc t x.c x.sl = x.pc ∧ (stream t x.c x.x).run = none ∧ (slot t x.c x.sl).trap = some i
    ∧ (slot t x.c x.sl).hdr = (slot s x.c x.sl).hdr
    ∧ (∃ m, t.msgFlight = s.msgFlight ++ [(trapSteward s x.c (slot s x.c x.sl).hdr.part x.x, m)] ∧ m.info = i ∧ m.trpc = x.pc ∧ m.core = x.c ∧ m.slot = x.sl
        ∧ m.tid = tidOf s x.c x.sl ∧ m.part = (slot s x.c x.sl).hdr.part ∧ m.cyc = x.t ∧ m.task = none ∧ m.esc = statusBit s x.c x.sl 10)
    ∧ (∀ a, kept a → rdByte t.mem a = rdByte s.mem a)
    ∧ (∀ r, r < 32 → regValue t x.c x.sl r = regValue s x.c x.sl r)
    ∧ t.resvQ = s.resvQ ∧ t.cores = s.cores ∧ t.channels = s.channels ∧ t.quads = s.quads ∧ t.full = s.full ∧ t.poison = s.poison
    ∧ (kindOf x.c = .compute → ∃ m, t.msgFlight = s.msgFlight ++ [(stewardOf (clusterOf x.c), m)])
    ∧ (Memory.wf s.mem = true → Memory.wf t.mem = true))
  ∧ (reason < 16 → stateOf u x.c x.sl = .parked ∧ reasonOf u x.c x.sl = reason ∧ savedPc u x.c x.sl = x.pc ∧ (stream u x.c x.x).run = none
    ∧ (slot u x.c x.sl).wait = some { word := word, cond := cond }
    ∧ (∀ a, kept a → rdByte u.mem a = rdByte s.mem a))

/-- R59, R48, R50, R56 to R58, R250, R52: the first checks of every issue. An instruction whose fields are not legal, or that its stream
does not accept, traps ILLEGAL with its word, whatever else holds. Where the scoreboard checks, an operand that is not readable yet traps
STALLSHORT with the register; where it does not, the old value is used. -/
def Obligations.IssueChecks : Prop :=
  (∀ (s : State) (x : Ctx) (i : Instr) (n : Nat), encode i = some n → ctxOf s = some x → x.reply = none →
    i.wf = false ∨ accepted x.c x.x n = false → exec i s = .next (trapped x s { cause := .illegal, addr := BitVec.ofNat 64 n }))
  ∧ (∀ (s : State) (x : Ctx) (w : BitVec 3) (d a b : BitVec 5), ctxOf s = some x → x.reply = none → destOk d = true →
      (∀ i : Instr, ∀ n, i ∈ [Instr.add w d a b, .sub w d a b, .mul w d a b] → encode i = some n → accepted x.c x.x n = true) →
    let late (r : BitVec 5) : Prop := pendOf (stream s x.c x.x) r.toNat x.t ≠ none
    ∀ e ∈ [(Instr.add w d a b, wrote w 0 x s d (x.val s a + x.val s b) 1), (.sub w d a b, wrote w 0 x s d (x.val s a - x.val s b) 1),
        (.mul w d a b, wrote w 1 x s d (x.val s a * x.val s b) 4)],
      (checking s x.c x.sl = true → late a →
        exec e.1 s = .next (trapped x s { cause := .stallshort, addr := BitVec.ofNat 64 a.toNat }))
      ∧ (checking s x.c x.sl = true → ¬ late a → late b →
        exec e.1 s = .next (trapped x s { cause := .stallshort, addr := BitVec.ofNat 64 b.toNat }))
      ∧ (checking s x.c x.sl = false → Clean s x [a, b] → exec e.1 s = .next e.2)
      ∧ (∀ p, pendOf (stream s x.c x.x) a.toNat x.t = some p → x.val s a = p.old))

/-- R127, R278, R360, R361, R389, R430, R433: the state after reset. The values the rules give for reset; memory with nothing listed. That
the waystation is in BOOT with both other domains OFF is the spec's power-on order (R20, R22). A slot in which no
traveller has been created is FREE (R129). -/
def Obligations.ResetState : Prop :=
  let s := State.reset
  Memory.wf s.mem = true ∧ s.mem = [] ∧ s.full = [] ∧ s.ws = .boot ∧ s.memDom = .off ∧ s.comp = .off
  ∧ (∀ c, kindOf c = .compute → coreReg s c 0x0100 = 0x10000 ∧ coreReg s c 0x0108 = 0x20000 ∧ coreReg s c 0x0110 = 0x30000)
  ∧ (∀ c, kindOf c = .channel → coreReg s c 0x0100 = 0xC0000 ∧ coreReg s c 0x0108 = 0xC4000 ∧ coreReg s c 0x0110 = 0xD0000)
  ∧ (∀ c sl, stateOf s c sl = .free) ∧ (∀ p, p < 24 → partEn s p = false ∧ tenant s p = 0) ∧ (∀ x, x ≤ 128 → (purse s x).en = false)
  ∧ (∀ m, m < 1388 → kcorr s m = 0x8000)

/-- R48, R381: where nothing is due before it and no wait of the traveller is open, a step runs the instruction that the word at the pc
decodes to: it fetches ahead, executes, lets an item of R381 take its place when one may, and chooses the next stream. A place in
the AQ's or XQ's order that an earlier instruction of its slot gave up is dropped first (R260). -/
def Obligations.StepRunsDecoded : Prop := ∀ (s : State) (sl : Nat) (i : Instr) (rest : List Byte),
  let c := s.cur / 2
  let x := s.cur % 2 == 1
  s.agenda = [] → s.regWrites = [] → s.stalled = false → (stream s c x).run = some sl → mayIssue s s.cur = true →
  (slot s c sl).wait = none → (stream s c x).fbuf = [] → fetchTrap s c (stream s c x).pc = none →
  decode (bytesOfWord (wordAt s c (stream s c x).pc)) = .ok (i, rest) →
  let u := leaveTurns s c sl
  step s = afterIssue (issueOr u c x sl (stream s c x).pc (exec i (prefetch u c x)))
  ∧ (anyPending s c sl (stream s c x).pc = false → step s = afterIssue (exec i (prefetch u c x)))
  ∧ ((chan s c).aqProd.contains (false, sl) = false → (chan s c).xqCons.contains (false, sl) = false → u = s)

/-- R12, R59, R377: no step stops. Every step from a state whose agenda holds events alone answers a next state; so does every event, and
every instruction where a traveller is RUNNING; an instruction without one is the fault noTraveller. -/
def Obligations.EveryStepCompletes : Prop :=
  (∀ s : State, (∀ i ∈ s.agenda, encode i = none) → Completes (step s))
  ∧ (∀ (i : Instr) (s : State), encode i = none ∨ (ctxOf s).isSome = true → Completes (exec i s))
  ∧ (∀ (i : Instr) (s : State), encode i ≠ none → ctxOf s = none → exec i s = .fault .noTraveller)

/-- R48, R49, R56: words written out field by field from the formats and the opcode map decode to the instructions they stand for; the
all-zero word, an unassigned function and a set bit of an unused field are no instruction. -/
def Obligations.DecodeWords : Prop :=
  let word (n : BitVec 32) : Option Instr := decodeTableWord 32 n.toNat
  word (1#3 ++ 0x01#6 ++ 1#5 ++ 2#5 ++ 3#5 ++ 0#8) = some (.add 1 1 2 3)
  ∧ word (0#3 ++ 0x10#6 ++ 4#5 ++ 5#5 ++ 0x1FF8#13) = some (.ld 0 4 5 0x1FF8)
  ∧ word (0#3 ++ 0x17#6 ++ 4#5 ++ 5#5 ++ 1#1 ++ 3#2 ++ 8#10) = some (.lfe 0 4 5 1 3 8)
  ∧ word (0#3 ++ 0x1F#6 ++ 6#5 ++ 7#5 ++ 1#2 ++ 9#11) = some (.csrw 0 6 7 9)
  ∧ word (0#3 ++ 0x20#6 ++ 8#5 ++ 9#5 ++ 0x1FFF#13) = some (.beq 0 8 9 0x1FFF)
  ∧ word (0#3 ++ 0x28#6 ++ 2#3 ++ 5#20) = some (.pbrAll 0 5)
  ∧ word (2#3 ++ 0x30#6 ++ 10#5 ++ 11#5 ++ 12#5 ++ 0#5 ++ 6#3) = some (.vadd 2 10 11 12 6)
  ∧ word (0#3 ++ 0x1E#6 ++ 0#5 ++ 13#5 ++ 0#5 ++ 1#8) = some (.eret 0 13)
  ∧ word 0#32 = none ∧ word (0#3 ++ 0x01#6 ++ 1#5 ++ 2#5 ++ 3#5 ++ 32#8) = none
  ∧ word (0#3 ++ 0x01#6 ++ 1#5 ++ 2#5 ++ 1#5 ++ 26#8) = none

/-- R48, R49, R56, R57: the decoder and the encoder agree. The word of an instruction, with every operand at every value of its field,
decodes to the instruction; and a word that decodes is the word of what it decodes to, so no bit of it is ignored. -/
def Obligations.RoundTrip : Prop :=
  (∀ (i : Instr) (n : Nat), encode i = some n → n < 2 ^ 32 ∧ decodeTableWord 32 n = some i)
  ∧ (∀ (i : Instr) (n : Nat), n < 2 ^ 32 → decodeTableWord 32 n = some i → encode i = some n)
end

