-- ==== Sys2Proof/Laws/Exec.lean ====
section
/-! SUPPORT. What `exec` does with each instruction and event: its arm. -/

namespace Sys2Proof.Machine

theorem exec_add (w : BitVec 3) (d : BitVec 5) (a : BitVec 5) (b : BitVec 5) (s : State) : exec (.add w d a b) s = execAdd w d a b s := rfl
theorem exec_sub (w : BitVec 3) (d : BitVec 5) (a : BitVec 5) (b : BitVec 5) (s : State) : exec (.sub w d a b) s = execSub w d a b s := rfl
theorem exec_and (w : BitVec 3) (d : BitVec 5) (a : BitVec 5) (b : BitVec 5) (s : State) : exec (.and w d a b) s = execAnd w d a b s := rfl
theorem exec_or (w : BitVec 3) (d : BitVec 5) (a : BitVec 5) (b : BitVec 5) (s : State) : exec (.or w d a b) s = execOr w d a b s := rfl
theorem exec_xor (w : BitVec 3) (d : BitVec 5) (a : BitVec 5) (b : BitVec 5) (s : State) : exec (.xor w d a b) s = execXor w d a b s := rfl
theorem exec_andn (w : BitVec 3) (d : BitVec 5) (a : BitVec 5) (b : BitVec 5) (s : State) : exec (.andn w d a b) s = execAndn w d a b s := rfl
theorem exec_orn (w : BitVec 3) (d : BitVec 5) (a : BitVec 5) (b : BitVec 5) (s : State) : exec (.orn w d a b) s = execOrn w d a b s := rfl
theorem exec_xnor (w : BitVec 3) (d : BitVec 5) (a : BitVec 5) (b : BitVec 5) (s : State) : exec (.xnor w d a b) s = execXnor w d a b s := rfl
theorem exec_sll (w : BitVec 3) (d : BitVec 5) (a : BitVec 5) (b : BitVec 5) (s : State) : exec (.sll w d a b) s = execSll w d a b s := rfl
theorem exec_srl (w : BitVec 3) (d : BitVec 5) (a : BitVec 5) (b : BitVec 5) (s : State) : exec (.srl w d a b) s = execSrl w d a b s := rfl
theorem exec_sra (w : BitVec 3) (d : BitVec 5) (a : BitVec 5) (b : BitVec 5) (s : State) : exec (.sra w d a b) s = execSra w d a b s := rfl
theorem exec_rol (w : BitVec 3) (d : BitVec 5) (a : BitVec 5) (b : BitVec 5) (s : State) : exec (.rol w d a b) s = execRol w d a b s := rfl
theorem exec_ror (w : BitVec 3) (d : BitVec 5) (a : BitVec 5) (b : BitVec 5) (s : State) : exec (.ror w d a b) s = execRor w d a b s := rfl
theorem exec_slt (w : BitVec 3) (d : BitVec 5) (a : BitVec 5) (b : BitVec 5) (s : State) : exec (.slt w d a b) s = execSlt w d a b s := rfl
theorem exec_sltu (w : BitVec 3) (d : BitVec 5) (a : BitVec 5) (b : BitVec 5) (s : State) : exec (.sltu w d a b) s = execSltu w d a b s := rfl
theorem exec_min (w : BitVec 3) (d : BitVec 5) (a : BitVec 5) (b : BitVec 5) (s : State) : exec (.min w d a b) s = execMin w d a b s := rfl
theorem exec_max (w : BitVec 3) (d : BitVec 5) (a : BitVec 5) (b : BitVec 5) (s : State) : exec (.max w d a b) s = execMax w d a b s := rfl
theorem exec_minu (w : BitVec 3) (d : BitVec 5) (a : BitVec 5) (b : BitVec 5) (s : State) : exec (.minu w d a b) s = execMinu w d a b s := rfl
theorem exec_maxu (w : BitVec 3) (d : BitVec 5) (a : BitVec 5) (b : BitVec 5) (s : State) : exec (.maxu w d a b) s = execMaxu w d a b s := rfl
theorem exec_seq (w : BitVec 3) (d : BitVec 5) (a : BitVec 5) (b : BitVec 5) (s : State) : exec (.seq w d a b) s = execSeq w d a b s := rfl
theorem exec_sne (w : BitVec 3) (d : BitVec 5) (a : BitVec 5) (b : BitVec 5) (s : State) : exec (.sne w d a b) s = execSne w d a b s := rfl
theorem exec_addw (w : BitVec 3) (d : BitVec 5) (a : BitVec 5) (b : BitVec 5) (s : State) : exec (.addw w d a b) s = execAddw w d a b s := rfl
theorem exec_subw (w : BitVec 3) (d : BitVec 5) (a : BitVec 5) (b : BitVec 5) (s : State) : exec (.subw w d a b) s = execSubw w d a b s := rfl
theorem exec_sllw (w : BitVec 3) (d : BitVec 5) (a : BitVec 5) (b : BitVec 5) (s : State) : exec (.sllw w d a b) s = execSllw w d a b s := rfl
theorem exec_srlw (w : BitVec 3) (d : BitVec 5) (a : BitVec 5) (b : BitVec 5) (s : State) : exec (.srlw w d a b) s = execSrlw w d a b s := rfl
theorem exec_sraw (w : BitVec 3) (d : BitVec 5) (a : BitVec 5) (b : BitVec 5) (s : State) : exec (.sraw w d a b) s = execSraw w d a b s := rfl
theorem exec_clz (w : BitVec 3) (d : BitVec 5) (a : BitVec 5) (s : State) : exec (.clz w d a) s = execClz w d a s := rfl
theorem exec_ctz (w : BitVec 3) (d : BitVec 5) (a : BitVec 5) (s : State) : exec (.ctz w d a) s = execCtz w d a s := rfl
theorem exec_popc (w : BitVec 3) (d : BitVec 5) (a : BitVec 5) (s : State) : exec (.popc w d a) s = execPopc w d a s := rfl
theorem exec_brev (w : BitVec 3) (d : BitVec 5) (a : BitVec 5) (s : State) : exec (.brev w d a) s = execBrev w d a s := rfl
theorem exec_bswap (w : BitVec 3) (d : BitVec 5) (a : BitVec 5) (s : State) : exec (.bswap w d a) s = execBswap w d a s := rfl
theorem exec_sext (w : BitVec 3) (d : BitVec 5) (a : BitVec 5) (b : BitVec 5) (s : State) : exec (.sext w d a b) s = execSext w d a b s := rfl
theorem exec_mul (w : BitVec 3) (d : BitVec 5) (a : BitVec 5) (b : BitVec 5) (s : State) : exec (.mul w d a b) s = execMul w d a b s := rfl
theorem exec_mulh (w : BitVec 3) (d : BitVec 5) (a : BitVec 5) (b : BitVec 5) (s : State) : exec (.mulh w d a b) s = execMulh w d a b s := rfl
theorem exec_mulhu (w : BitVec 3) (d : BitVec 5) (a : BitVec 5) (b : BitVec 5) (s : State) : exec (.mulhu w d a b) s = execMulhu w d a b s := rfl
theorem exec_mulw (w : BitVec 3) (d : BitVec 5) (a : BitVec 5) (b : BitVec 5) (s : State) : exec (.mulw w d a b) s = execMulw w d a b s := rfl
theorem exec_div (w : BitVec 3) (d : BitVec 5) (a : BitVec 5) (b : BitVec 5) (s : State) : exec (.div w d a b) s = execDiv w d a b s := rfl
theorem exec_divu (w : BitVec 3) (d : BitVec 5) (a : BitVec 5) (b : BitVec 5) (s : State) : exec (.divu w d a b) s = execDivu w d a b s := rfl
theorem exec_rem (w : BitVec 3) (d : BitVec 5) (a : BitVec 5) (b : BitVec 5) (s : State) : exec (.rem w d a b) s = execRem w d a b s := rfl
theorem exec_remu (w : BitVec 3) (d : BitVec 5) (a : BitVec 5) (b : BitVec 5) (s : State) : exec (.remu w d a b) s = execRemu w d a b s := rfl
theorem exec_bilv2 (w : BitVec 3) (d : BitVec 5) (a : BitVec 5) (b : BitVec 5) (s : State) : exec (.bilv2 w d a b) s = execBilv2 w d a b s := rfl
theorem exec_bilv3 (w : BitVec 3) (d : BitVec 5) (a : BitVec 5) (b : BitVec 5) (s : State) : exec (.bilv3 w d a b) s = execBilv3 w d a b s := rfl
theorem exec_bdil3 (w : BitVec 3) (d : BitVec 5) (a : BitVec 5) (b : BitVec 5) (s : State) : exec (.bdil3 w d a b) s = execBdil3 w d a b s := rfl
theorem exec_extu (w : BitVec 3) (d : BitVec 5) (a : BitVec 5) (b : BitVec 5) (s : State) : exec (.extu w d a b) s = execExtu w d a b s := rfl
theorem exec_exts (w : BitVec 3) (d : BitVec 5) (a : BitVec 5) (b : BitVec 5) (s : State) : exec (.exts w d a b) s = execExts w d a b s := rfl
theorem exec_ins (w : BitVec 3) (d : BitVec 5) (a : BitVec 5) (b : BitVec 5) (s : State) : exec (.ins w d a b) s = execIns w d a b s := rfl
theorem exec_addi (w : BitVec 3) (d : BitVec 5) (a : BitVec 5) (imm : BitVec 13) (s : State) : exec (.addi w d a imm) s = execAddi w d a imm s := rfl
theorem exec_andi (w : BitVec 3) (d : BitVec 5) (a : BitVec 5) (imm : BitVec 13) (s : State) : exec (.andi w d a imm) s = execAndi w d a imm s := rfl
theorem exec_ori (w : BitVec 3) (d : BitVec 5) (a : BitVec 5) (imm : BitVec 13) (s : State) : exec (.ori w d a imm) s = execOri w d a imm s := rfl
theorem exec_xori (w : BitVec 3) (d : BitVec 5) (a : BitVec 5) (imm : BitVec 13) (s : State) : exec (.xori w d a imm) s = execXori w d a imm s := rfl
theorem exec_slti (w : BitVec 3) (d : BitVec 5) (a : BitVec 5) (imm : BitVec 13) (s : State) : exec (.slti w d a imm) s = execSlti w d a imm s := rfl
theorem exec_sltiu (w : BitVec 3) (d : BitVec 5) (a : BitVec 5) (imm : BitVec 13) (s : State) : exec (.sltiu w d a imm) s = execSltiu w d a imm s := rfl
theorem exec_slli (w : BitVec 3) (d : BitVec 5) (a : BitVec 5) (h : BitVec 6) (s : State) : exec (.slli w d a h) s = execSlli w d a h s := rfl
theorem exec_srli (w : BitVec 3) (d : BitVec 5) (a : BitVec 5) (h : BitVec 6) (s : State) : exec (.srli w d a h) s = execSrli w d a h s := rfl
theorem exec_srai (w : BitVec 3) (d : BitVec 5) (a : BitVec 5) (h : BitVec 6) (s : State) : exec (.srai w d a h) s = execSrai w d a h s := rfl
theorem exec_rori (w : BitVec 3) (d : BitVec 5) (a : BitVec 5) (h : BitVec 6) (s : State) : exec (.rori w d a h) s = execRori w d a h s := rfl
theorem exec_himm (w : BitVec 3) (d : BitVec 5) (imm : BitVec 18) (s : State) : exec (.himm w d imm) s = execHimm w d imm s := rfl
theorem exec_pchi (w : BitVec 3) (d : BitVec 5) (imm : BitVec 18) (s : State) : exec (.pchi w d imm) s = execPchi w d imm s := rfl
theorem exec_fadd (w : BitVec 3) (d : BitVec 5) (a : BitVec 5) (b : BitVec 5) (t : BitVec 1) (s : State) : exec (.fadd w d a b t) s = execFadd w d a b t s := rfl
theorem exec_fsub (w : BitVec 3) (d : BitVec 5) (a : BitVec 5) (b : BitVec 5) (t : BitVec 1) (s : State) : exec (.fsub w d a b t) s = execFsub w d a b t s := rfl
theorem exec_fmul (w : BitVec 3) (d : BitVec 5) (a : BitVec 5) (b : BitVec 5) (t : BitVec 1) (s : State) : exec (.fmul w d a b t) s = execFmul w d a b t s := rfl
theorem exec_fdiv (w : BitVec 3) (d : BitVec 5) (a : BitVec 5) (b : BitVec 5) (t : BitVec 1) (s : State) : exec (.fdiv w d a b t) s = execFdiv w d a b t s := rfl
theorem exec_fsqrt (w : BitVec 3) (d : BitVec 5) (a : BitVec 5) (t : BitVec 1) (s : State) : exec (.fsqrt w d a t) s = execFsqrt w d a t s := rfl
theorem exec_fmin (w : BitVec 3) (d : BitVec 5) (a : BitVec 5) (b : BitVec 5) (t : BitVec 1) (s : State) : exec (.fmin w d a b t) s = execFmin w d a b t s := rfl
theorem exec_fmax (w : BitVec 3) (d : BitVec 5) (a : BitVec 5) (b : BitVec 5) (t : BitVec 1) (s : State) : exec (.fmax w d a b t) s = execFmax w d a b t s := rfl
theorem exec_feq (w : BitVec 3) (d : BitVec 5) (a : BitVec 5) (b : BitVec 5) (t : BitVec 1) (s : State) : exec (.feq w d a b t) s = execFeq w d a b t s := rfl
theorem exec_flt (w : BitVec 3) (d : BitVec 5) (a : BitVec 5) (b : BitVec 5) (t : BitVec 1) (s : State) : exec (.flt w d a b t) s = execFlt w d a b t s := rfl
theorem exec_fle (w : BitVec 3) (d : BitVec 5) (a : BitVec 5) (b : BitVec 5) (t : BitVec 1) (s : State) : exec (.fle w d a b t) s = execFle w d a b t s := rfl
theorem exec_fclass (w : BitVec 3) (d : BitVec 5) (a : BitVec 5) (t : BitVec 1) (s : State) : exec (.fclass w d a t) s = execFclass w d a t s := rfl
theorem exec_fcvti (w : BitVec 3) (d : BitVec 5) (a : BitVec 5) (t : BitVec 1) (s : State) : exec (.fcvti w d a t) s = execFcvti w d a t s := rfl
theorem exec_fcvtu (w : BitVec 3) (d : BitVec 5) (a : BitVec 5) (t : BitVec 1) (s : State) : exec (.fcvtu w d a t) s = execFcvtu w d a t s := rfl
theorem exec_fcvtf (w : BitVec 3) (d : BitVec 5) (a : BitVec 5) (t : BitVec 1) (s : State) : exec (.fcvtf w d a t) s = execFcvtf w d a t s := rfl
theorem exec_fcvtfu (w : BitVec 3) (d : BitVec 5) (a : BitVec 5) (t : BitVec 1) (s : State) : exec (.fcvtfu w d a t) s = execFcvtfu w d a t s := rfl
theorem exec_fcvtw (w : BitVec 3) (d : BitVec 5) (a : BitVec 5) (t : BitVec 1) (s : State) : exec (.fcvtw w d a t) s = execFcvtw w d a t s := rfl
theorem exec_fneg (w : BitVec 3) (d : BitVec 5) (a : BitVec 5) (t : BitVec 1) (s : State) : exec (.fneg w d a t) s = execFneg w d a t s := rfl
theorem exec_fabs (w : BitVec 3) (d : BitVec 5) (a : BitVec 5) (t : BitVec 1) (s : State) : exec (.fabs w d a t) s = execFabs w d a t s := rfl
theorem exec_fmas (w : BitVec 3) (d : BitVec 5) (a : BitVec 5) (b : BitVec 5) (s : State) : exec (.fmas w d a b) s = execFmas w d a b s := rfl
theorem exec_fmad (w : BitVec 3) (d : BitVec 5) (a : BitVec 5) (b : BitVec 5) (s : State) : exec (.fmad w d a b) s = execFmad w d a b s := rfl
theorem exec_fnmas (w : BitVec 3) (d : BitVec 5) (a : BitVec 5) (b : BitVec 5) (s : State) : exec (.fnmas w d a b) s = execFnmas w d a b s := rfl
theorem exec_fnmad (w : BitVec 3) (d : BitVec 5) (a : BitVec 5) (b : BitVec 5) (s : State) : exec (.fnmad w d a b) s = execFnmad w d a b s := rfl
theorem exec_fmss (w : BitVec 3) (d : BitVec 5) (a : BitVec 5) (b : BitVec 5) (s : State) : exec (.fmss w d a b) s = execFmss w d a b s := rfl
theorem exec_fmsd (w : BitVec 3) (d : BitVec 5) (a : BitVec 5) (b : BitVec 5) (s : State) : exec (.fmsd w d a b) s = execFmsd w d a b s := rfl
theorem exec_copy (w : BitVec 3) (d : BitVec 5) (a : BitVec 5) (b : BitVec 5) (s : State) : exec (.copy w d a b) s = execCopy w d a b s := rfl
theorem exec_copy2d (w : BitVec 3) (d : BitVec 5) (a : BitVec 5) (b : BitVec 5) (s : State) : exec (.copy2d w d a b) s = execCopy2d w d a b s := rfl
theorem exec_wincopy (w : BitVec 3) (d : BitVec 5) (a : BitVec 5) (s : State) : exec (.wincopy w d a) s = execWincopy w d a s := rfl
theorem exec_putx (w : BitVec 3) (d : BitVec 5) (a : BitVec 5) (b : BitVec 5) (s : State) : exec (.putx w d a b) s = execPutx w d a b s := rfl
theorem exec_getx (w : BitVec 3) (d : BitVec 5) (a : BitVec 5) (b : BitVec 5) (s : State) : exec (.getx w d a b) s = execGetx w d a b s := rfl
theorem exec_mcast (w : BitVec 3) (d : BitVec 5) (a : BitVec 5) (b : BitVec 5) (s : State) : exec (.mcast w d a b) s = execMcast w d a b s := rfl
theorem exec_nred (w : BitVec 3) (d : BitVec 5) (a : BitVec 5) (b : BitVec 5) (s : State) : exec (.nred w d a b) s = execNred w d a b s := rfl
theorem exec_cwait (w : BitVec 3) (a : BitVec 5) (s : State) : exec (.cwait w a) s = execCwait w a s := rfl
theorem exec_rinit (w : BitVec 3) (n : BitVec 3) (a : BitVec 5) (s : State) : exec (.rinit w n a) s = execRinit w n a s := rfl
theorem exec_rpush (w : BitVec 3) (n : BitVec 3) (s : State) : exec (.rpush w n) s = execRpush w n s := rfl
theorem exec_rpop (w : BitVec 3) (n : BitVec 3) (s : State) : exec (.rpop w n) s = execRpop w n s := rfl
theorem exec_rstat (w : BitVec 3) (n : BitVec 3) (a : BitVec 5) (s : State) : exec (.rstat w n a) s = execRstat w n a s := rfl
theorem exec_rwaitd (w : BitVec 3) (n : BitVec 3) (a : BitVec 5) (s : State) : exec (.rwaitd w n a) s = execRwaitd w n a s := rfl
theorem exec_rwaits (w : BitVec 3) (n : BitVec 3) (a : BitVec 5) (s : State) : exec (.rwaits w n a) s = execRwaits w n a s := rfl
theorem exec_ld (w : BitVec 3) (d : BitVec 5) (a : BitVec 5) (imm : BitVec 13) (s : State) : exec (.ld w d a imm) s = execLd w d a imm s := rfl
theorem exec_lw (w : BitVec 3) (d : BitVec 5) (a : BitVec 5) (imm : BitVec 13) (s : State) : exec (.lw w d a imm) s = execLw w d a imm s := rfl
theorem exec_lwu (w : BitVec 3) (d : BitVec 5) (a : BitVec 5) (imm : BitVec 13) (s : State) : exec (.lwu w d a imm) s = execLwu w d a imm s := rfl
theorem exec_lh (w : BitVec 3) (d : BitVec 5) (a : BitVec 5) (imm : BitVec 13) (s : State) : exec (.lh w d a imm) s = execLh w d a imm s := rfl
theorem exec_lhu (w : BitVec 3) (d : BitVec 5) (a : BitVec 5) (imm : BitVec 13) (s : State) : exec (.lhu w d a imm) s = execLhu w d a imm s := rfl
theorem exec_lb (w : BitVec 3) (d : BitVec 5) (a : BitVec 5) (imm : BitVec 13) (s : State) : exec (.lb w d a imm) s = execLb w d a imm s := rfl
theorem exec_lbu (w : BitVec 3) (d : BitVec 5) (a : BitVec 5) (imm : BitVec 13) (s : State) : exec (.lbu w d a imm) s = execLbu w d a imm s := rfl
theorem exec_lfe (w : BitVec 3) (d : BitVec 5) (a : BitVec 5) (c : BitVec 1) (z : BitVec 2) (o : BitVec 10) (s : State) : exec (.lfe w d a c z o) s = execLfe w d a c z o s := rfl
theorem exec_sd (w : BitVec 3) (rs : BitVec 5) (a : BitVec 5) (imm : BitVec 13) (s : State) : exec (.sd w rs a imm) s = execSd w rs a imm s := rfl
theorem exec_sw (w : BitVec 3) (rs : BitVec 5) (a : BitVec 5) (imm : BitVec 13) (s : State) : exec (.sw w rs a imm) s = execSw w rs a imm s := rfl
theorem exec_sh (w : BitVec 3) (rs : BitVec 5) (a : BitVec 5) (imm : BitVec 13) (s : State) : exec (.sh w rs a imm) s = execSh w rs a imm s := rfl
theorem exec_sb (w : BitVec 3) (rs : BitVec 5) (a : BitVec 5) (imm : BitVec 13) (s : State) : exec (.sb w rs a imm) s = execSb w rs a imm s := rfl
theorem exec_sfe (w : BitVec 3) (rs : BitVec 5) (a : BitVec 5) (f : BitVec 1) (z : BitVec 2) (o : BitVec 10) (s : State) : exec (.sfe w rs a f z o) s = execSfe w rs a f z o s := rfl
theorem exec_enq (w : BitVec 3) (a : BitVec 5) (b : BitVec 5) (s : State) : exec (.enq w a b) s = execEnq w a b s := rfl
theorem exec_deq (w : BitVec 3) (d : BitVec 5) (a : BitVec 5) (b : BitVec 5) (s : State) : exec (.deq w d a b) s = execDeq w d a b s := rfl
theorem exec_qstat (w : BitVec 3) (d : BitVec 5) (b : BitVec 5) (s : State) : exec (.qstat w d b) s = execQstat w d b s := rfl
theorem exec_launch (w : BitVec 3) (a : BitVec 5) (s : State) : exec (.launch w a) s = execLaunch w a s := rfl
theorem exec_cdone (w : BitVec 3) (d : BitVec 5) (a : BitVec 5) (b : BitVec 5) (s : State) : exec (.cdone w d a b) s = execCdone w d a b s := rfl
theorem exec_cchk (w : BitVec 3) (d : BitVec 5) (a : BitVec 5) (s : State) : exec (.cchk w d a) s = execCchk w d a s := rfl
theorem exec_cancel (w : BitVec 3) (a : BitVec 5) (s : State) : exec (.cancel w a) s = execCancel w a s := rfl
theorem exec_trap (w : BitVec 3) (a : BitVec 5) (s : State) : exec (.trap w a) s = execTrap w a s := rfl
theorem exec_eret (w : BitVec 3) (a : BitVec 5) (s : State) : exec (.eret w a) s = execEret w a s := rfl
theorem exec_brk (w : BitVec 3) (s : State) : exec (.brk w) s = execBrk w s := rfl
theorem exec_wfm (w : BitVec 3) (d : BitVec 5) (s : State) : exec (.wfm w d) s = execWfm w d s := rfl
theorem exec_seal (w : BitVec 3) (a : BitVec 5) (s : State) : exec (.seal w a) s = execSeal w a s := rfl
theorem exec_restart (w : BitVec 3) (s : State) : exec (.restart w) s = execRestart w s := rfl
theorem exec_purseadd (w : BitVec 3) (d : BitVec 5) (a : BitVec 5) (b : BitVec 5) (s : State) : exec (.purseadd w d a b) s = execPurseadd w d a b s := rfl
theorem exec_csrr (w : BitVec 3) (d : BitVec 5) (n : BitVec 11) (s : State) : exec (.csrr w d n) s = execCsrr w d n s := rfl
theorem exec_csrw (w : BitVec 3) (d : BitVec 5) (a : BitVec 5) (n : BitVec 11) (s : State) : exec (.csrw w d a n) s = execCsrw w d a n s := rfl
theorem exec_csrs (w : BitVec 3) (d : BitVec 5) (a : BitVec 5) (n : BitVec 11) (s : State) : exec (.csrs w d a n) s = execCsrs w d a n s := rfl
theorem exec_csrc (w : BitVec 3) (d : BitVec 5) (a : BitVec 5) (n : BitVec 11) (s : State) : exec (.csrc w d a n) s = execCsrc w d a n s := rfl
theorem exec_beq (w : BitVec 3) (a : BitVec 5) (b : BitVec 5) (o : BitVec 13) (s : State) : exec (.beq w a b o) s = execBeq w a b o s := rfl
theorem exec_bne (w : BitVec 3) (a : BitVec 5) (b : BitVec 5) (o : BitVec 13) (s : State) : exec (.bne w a b o) s = execBne w a b o s := rfl
theorem exec_blt (w : BitVec 3) (a : BitVec 5) (b : BitVec 5) (o : BitVec 13) (s : State) : exec (.blt w a b o) s = execBlt w a b o s := rfl
theorem exec_bge (w : BitVec 3) (a : BitVec 5) (b : BitVec 5) (o : BitVec 13) (s : State) : exec (.bge w a b o) s = execBge w a b o s := rfl
theorem exec_bltu (w : BitVec 3) (a : BitVec 5) (b : BitVec 5) (o : BitVec 13) (s : State) : exec (.bltu w a b o) s = execBltu w a b o s := rfl
theorem exec_bgeu (w : BitVec 3) (a : BitVec 5) (b : BitVec 5) (o : BitVec 13) (s : State) : exec (.bgeu w a b o) s = execBgeu w a b o s := rfl
theorem exec_jal (w : BitVec 3) (o : BitVec 23) (s : State) : exec (.jal w o) s = execJal w o s := rfl
theorem exec_jalr (w : BitVec 3) (d : BitVec 5) (a : BitVec 5) (imm : BitVec 13) (s : State) : exec (.jalr w d a imm) s = execJalr w d a imm s := rfl
theorem exec_pbrAny (w : BitVec 3) (o : BitVec 20) (s : State) : exec (.pbrAny w o) s = execPbrAny w o s := rfl
theorem exec_pbrNone (w : BitVec 3) (o : BitVec 20) (s : State) : exec (.pbrNone w o) s = execPbrNone w o s := rfl
theorem exec_pbrAll (w : BitVec 3) (o : BitVec 20) (s : State) : exec (.pbrAll w o) s = execPbrAll w o s := rfl
theorem exec_pbrNall (w : BitVec 3) (o : BitVec 20) (s : State) : exec (.pbrNall w o) s = execPbrNall w o s := rfl
theorem exec_pwhile (w : BitVec 3) (a : BitVec 5) (b : BitVec 5) (z : BitVec 2) (s : State) : exec (.pwhile w a b z) s = execPwhile w a b z s := rfl
theorem exec_psetall (w : BitVec 3) (z : BitVec 2) (s : State) : exec (.psetall w z) s = execPsetall w z s := rfl
theorem exec_pclear (w : BitVec 3) (z : BitVec 2) (s : State) : exec (.pclear w z) s = execPclear w z s := rfl
theorem exec_pnot (w : BitVec 3) (z : BitVec 2) (s : State) : exec (.pnot w z) s = execPnot w z s := rfl
theorem exec_pload (w : BitVec 3) (a : BitVec 5) (z : BitVec 2) (s : State) : exec (.pload w a z) s = execPload w a z s := rfl
theorem exec_pstore (w : BitVec 3) (a : BitVec 5) (z : BitVec 2) (s : State) : exec (.pstore w a z) s = execPstore w a z s := rfl
theorem exec_pcount (w : BitVec 3) (d : BitVec 5) (z : BitVec 2) (s : State) : exec (.pcount w d z) s = execPcount w d z s := rfl
theorem exec_pfirst (w : BitVec 3) (d : BitVec 5) (z : BitVec 2) (s : State) : exec (.pfirst w d z) s = execPfirst w d z s := rfl
theorem exec_pandm (w : BitVec 3) (a : BitVec 5) (z : BitVec 2) (s : State) : exec (.pandm w a z) s = execPandm w a z s := rfl
theorem exec_porm (w : BitVec 3) (a : BitVec 5) (z : BitVec 2) (s : State) : exec (.porm w a z) s = execPorm w a z s := rfl
theorem exec_pget (w : BitVec 3) (d : BitVec 5) (a : BitVec 5) (z : BitVec 2) (s : State) : exec (.pget w d a z) s = execPget w d a z s := rfl
theorem exec_pput (w : BitVec 3) (a : BitVec 5) (b : BitVec 5) (z : BitVec 2) (s : State) : exec (.pput w a b z) s = execPput w a b z s := rfl
theorem exec_endT (w : BitVec 3) (s : State) : exec (.endT w) s = execEndT w s := rfl
theorem exec_yield (w : BitVec 3) (s : State) : exec (.yield w) s = execYield w s := rfl
theorem exec_goto (w : BitVec 3) (a : BitVec 5) (s : State) : exec (.goto w a) s = execGoto w a s := rfl
theorem exec_spawn (w : BitVec 3) (d : BitVec 5) (a : BitVec 5) (s : State) : exec (.spawn w d a) s = execSpawn w d a s := rfl
theorem exec_spawnat (w : BitVec 3) (a : BitVec 5) (b : BitVec 5) (s : State) : exec (.spawnat w a b) s = execSpawnat w a b s := rfl
theorem exec_pusht (w : BitVec 3) (d : BitVec 5) (a : BitVec 5) (s : State) : exec (.pusht w d a) s = execPusht w d a s := rfl
theorem exec_popt (w : BitVec 3) (d : BitVec 5) (a : BitVec 5) (s : State) : exec (.popt w d a) s = execPopt w d a s := rfl
theorem exec_wake (w : BitVec 3) (a : BitVec 5) (b : BitVec 5) (s : State) : exec (.wake w a b) s = execWake w a b s := rfl
theorem exec_park (w : BitVec 3) (s : State) : exec (.park w) s = execPark w s := rfl
theorem exec_homeof (w : BitVec 3) (d : BitVec 5) (a : BitVec 5) (s : State) : exec (.homeof w d a) s = execHomeof w d a s := rfl
theorem exec_cubeof (w : BitVec 3) (d : BitVec 5) (s : State) : exec (.cubeof w d) s = execCubeof w d s := rfl
theorem exec_vquery (w : BitVec 3) (d : BitVec 5) (s : State) : exec (.vquery w d) s = execVquery w d s := rfl
theorem exec_rdcyc (w : BitVec 3) (d : BitVec 5) (s : State) : exec (.rdcyc w d) s = execRdcyc w d s := rfl
theorem exec_rdpurse (w : BitVec 3) (d : BitVec 5) (s : State) : exec (.rdpurse w d) s = execRdpurse w d s := rfl
theorem exec_rdfare (w : BitVec 3) (d : BitVec 5) (s : State) : exec (.rdfare w d) s = execRdfare w d s := rfl
theorem exec_rdfrm (w : BitVec 3) (d : BitVec 5) (s : State) : exec (.rdfrm w d) s = execRdfrm w d s := rfl
theorem exec_wrfrm (w : BitVec 3) (d : BitVec 5) (a : BitVec 5) (s : State) : exec (.wrfrm w d a) s = execWrfrm w d a s := rfl
theorem exec_rdflags (w : BitVec 3) (d : BitVec 5) (b : BitVec 5) (s : State) : exec (.rdflags w d b) s = execRdflags w d b s := rfl
theorem exec_vadd (w : BitVec 3) (d : BitVec 5) (a : BitVec 5) (b : BitVec 5) (t : BitVec 3) (s : State) : exec (.vadd w d a b t) s = execVadd w d a b t s := rfl
theorem exec_vsub (w : BitVec 3) (d : BitVec 5) (a : BitVec 5) (b : BitVec 5) (t : BitVec 3) (s : State) : exec (.vsub w d a b t) s = execVsub w d a b t s := rfl
theorem exec_vmul (w : BitVec 3) (d : BitVec 5) (a : BitVec 5) (b : BitVec 5) (t : BitVec 3) (s : State) : exec (.vmul w d a b t) s = execVmul w d a b t s := rfl
theorem exec_vmin (w : BitVec 3) (d : BitVec 5) (a : BitVec 5) (b : BitVec 5) (t : BitVec 3) (s : State) : exec (.vmin w d a b t) s = execVmin w d a b t s := rfl
theorem exec_vmax (w : BitVec 3) (d : BitVec 5) (a : BitVec 5) (b : BitVec 5) (t : BitVec 3) (s : State) : exec (.vmax w d a b t) s = execVmax w d a b t s := rfl
theorem exec_vminu (w : BitVec 3) (d : BitVec 5) (a : BitVec 5) (b : BitVec 5) (t : BitVec 3) (s : State) : exec (.vminu w d a b t) s = execVminu w d a b t s := rfl
theorem exec_vmaxu (w : BitVec 3) (d : BitVec 5) (a : BitVec 5) (b : BitVec 5) (t : BitVec 3) (s : State) : exec (.vmaxu w d a b t) s = execVmaxu w d a b t s := rfl
theorem exec_vand (w : BitVec 3) (d : BitVec 5) (a : BitVec 5) (b : BitVec 5) (t : BitVec 3) (s : State) : exec (.vand w d a b t) s = execVand w d a b t s := rfl
theorem exec_vor (w : BitVec 3) (d : BitVec 5) (a : BitVec 5) (b : BitVec 5) (t : BitVec 3) (s : State) : exec (.vor w d a b t) s = execVor w d a b t s := rfl
theorem exec_vxor (w : BitVec 3) (d : BitVec 5) (a : BitVec 5) (b : BitVec 5) (t : BitVec 3) (s : State) : exec (.vxor w d a b t) s = execVxor w d a b t s := rfl
theorem exec_vsll (w : BitVec 3) (d : BitVec 5) (a : BitVec 5) (b : BitVec 5) (t : BitVec 3) (s : State) : exec (.vsll w d a b t) s = execVsll w d a b t s := rfl
theorem exec_vsrl (w : BitVec 3) (d : BitVec 5) (a : BitVec 5) (b : BitVec 5) (t : BitVec 3) (s : State) : exec (.vsrl w d a b t) s = execVsrl w d a b t s := rfl
theorem exec_vsra (w : BitVec 3) (d : BitVec 5) (a : BitVec 5) (b : BitVec 5) (t : BitVec 3) (s : State) : exec (.vsra w d a b t) s = execVsra w d a b t s := rfl
theorem exec_vadds (w : BitVec 3) (d : BitVec 5) (a : BitVec 5) (b : BitVec 5) (t : BitVec 3) (s : State) : exec (.vadds w d a b t) s = execVadds w d a b t s := rfl
theorem exec_vsubs (w : BitVec 3) (d : BitVec 5) (a : BitVec 5) (b : BitVec 5) (t : BitVec 3) (s : State) : exec (.vsubs w d a b t) s = execVsubs w d a b t s := rfl
theorem exec_vmulh (w : BitVec 3) (d : BitVec 5) (a : BitVec 5) (b : BitVec 5) (t : BitVec 3) (s : State) : exec (.vmulh w d a b t) s = execVmulh w d a b t s := rfl
theorem exec_vabsd (w : BitVec 3) (d : BitVec 5) (a : BitVec 5) (b : BitVec 5) (t : BitVec 3) (s : State) : exec (.vabsd w d a b t) s = execVabsd w d a b t s := rfl
theorem exec_vfma (w : BitVec 3) (d : BitVec 5) (a : BitVec 5) (b : BitVec 5) (t : BitVec 3) (s : State) : exec (.vfma w d a b t) s = execVfma w d a b t s := rfl
theorem exec_vfms (w : BitVec 3) (d : BitVec 5) (a : BitVec 5) (b : BitVec 5) (t : BitVec 3) (s : State) : exec (.vfms w d a b t) s = execVfms w d a b t s := rfl
theorem exec_vdiv (w : BitVec 3) (d : BitVec 5) (a : BitVec 5) (b : BitVec 5) (t : BitVec 3) (s : State) : exec (.vdiv w d a b t) s = execVdiv w d a b t s := rfl
theorem exec_vsqrt (w : BitVec 3) (d : BitVec 5) (a : BitVec 5) (t : BitVec 3) (s : State) : exec (.vsqrt w d a t) s = execVsqrt w d a t s := rfl
theorem exec_vneg (w : BitVec 3) (d : BitVec 5) (a : BitVec 5) (t : BitVec 3) (s : State) : exec (.vneg w d a t) s = execVneg w d a t s := rfl
theorem exec_vabs (w : BitVec 3) (d : BitVec 5) (a : BitVec 5) (t : BitVec 3) (s : State) : exec (.vabs w d a t) s = execVabs w d a t s := rfl
theorem exec_vcmpeq (w : BitVec 3) (d : BitVec 5) (a : BitVec 5) (b : BitVec 5) (t : BitVec 3) (s : State) : exec (.vcmpeq w d a b t) s = execVcmpeq w d a b t s := rfl
theorem exec_vcmpne (w : BitVec 3) (d : BitVec 5) (a : BitVec 5) (b : BitVec 5) (t : BitVec 3) (s : State) : exec (.vcmpne w d a b t) s = execVcmpne w d a b t s := rfl
theorem exec_vcmplt (w : BitVec 3) (d : BitVec 5) (a : BitVec 5) (b : BitVec 5) (t : BitVec 3) (s : State) : exec (.vcmplt w d a b t) s = execVcmplt w d a b t s := rfl
theorem exec_vcmple (w : BitVec 3) (d : BitVec 5) (a : BitVec 5) (b : BitVec 5) (t : BitVec 3) (s : State) : exec (.vcmple w d a b t) s = execVcmple w d a b t s := rfl
theorem exec_vcmpltu (w : BitVec 3) (d : BitVec 5) (a : BitVec 5) (b : BitVec 5) (t : BitVec 3) (s : State) : exec (.vcmpltu w d a b t) s = execVcmpltu w d a b t s := rfl
theorem exec_vsel (w : BitVec 3) (d : BitVec 5) (a : BitVec 5) (b : BitVec 5) (t : BitVec 3) (s : State) : exec (.vsel w d a b t) s = execVsel w d a b t s := rfl
theorem exec_vdot (w : BitVec 3) (d : BitVec 5) (a : BitVec 5) (b : BitVec 5) (t : BitVec 3) (s : State) : exec (.vdot w d a b t) s = execVdot w d a b t s := rfl
theorem exec_vconv (w : BitVec 3) (d : BitVec 5) (a : BitVec 5) (e : BitVec 4) (rs : BitVec 4) (s : State) : exec (.vconv w d a e rs) s = execVconv w d a e rs s := rfl
theorem exec_vrsum (w : BitVec 3) (d : BitVec 5) (a : BitVec 5) (t : BitVec 3) (s : State) : exec (.vrsum w d a t) s = execVrsum w d a t s := rfl
theorem exec_vrmax (w : BitVec 3) (d : BitVec 5) (a : BitVec 5) (t : BitVec 3) (s : State) : exec (.vrmax w d a t) s = execVrmax w d a t s := rfl
theorem exec_vrmin (w : BitVec 3) (d : BitVec 5) (a : BitVec 5) (t : BitVec 3) (s : State) : exec (.vrmin w d a t) s = execVrmin w d a t s := rfl
theorem exec_vrmaxi (w : BitVec 3) (d : BitVec 5) (a : BitVec 5) (t : BitVec 3) (s : State) : exec (.vrmaxi w d a t) s = execVrmaxi w d a t s := rfl
theorem exec_vrmini (w : BitVec 3) (d : BitVec 5) (a : BitVec 5) (t : BitVec 3) (s : State) : exec (.vrmini w d a t) s = execVrmini w d a t s := rfl
theorem exec_vrand (w : BitVec 3) (d : BitVec 5) (a : BitVec 5) (t : BitVec 3) (s : State) : exec (.vrand w d a t) s = execVrand w d a t s := rfl
theorem exec_vror (w : BitVec 3) (d : BitVec 5) (a : BitVec 5) (t : BitVec 3) (s : State) : exec (.vror w d a t) s = execVror w d a t s := rfl
theorem exec_vrxor (w : BitVec 3) (d : BitVec 5) (a : BitVec 5) (t : BitVec 3) (s : State) : exec (.vrxor w d a t) s = execVrxor w d a t s := rfl
theorem exec_vbcast (w : BitVec 3) (d : BitVec 5) (a : BitVec 5) (t : BitVec 3) (s : State) : exec (.vbcast w d a t) s = execVbcast w d a t s := rfl
theorem exec_vshuf (w : BitVec 3) (d : BitVec 5) (a : BitVec 5) (b : BitVec 5) (t : BitVec 3) (s : State) : exec (.vshuf w d a b t) s = execVshuf w d a b t s := rfl
theorem exec_vslup (w : BitVec 3) (d : BitVec 5) (a : BitVec 5) (b : BitVec 5) (t : BitVec 3) (s : State) : exec (.vslup w d a b t) s = execVslup w d a b t s := rfl
theorem exec_vsldn (w : BitVec 3) (d : BitVec 5) (a : BitVec 5) (b : BitVec 5) (t : BitVec 3) (s : State) : exec (.vsldn w d a b t) s = execVsldn w d a b t s := rfl
theorem exec_vzip (w : BitVec 3) (d : BitVec 5) (a : BitVec 5) (b : BitVec 5) (t : BitVec 3) (s : State) : exec (.vzip w d a b t) s = execVzip w d a b t s := rfl
theorem exec_vuzp (w : BitVec 3) (d : BitVec 5) (a : BitVec 5) (b : BitVec 5) (t : BitVec 3) (s : State) : exec (.vuzp w d a b t) s = execVuzp w d a b t s := rfl
theorem exec_vcmpr (w : BitVec 3) (d : BitVec 5) (a : BitVec 5) (t : BitVec 3) (s : State) : exec (.vcmpr w d a t) s = execVcmpr w d a t s := rfl
theorem exec_vexpd (w : BitVec 3) (d : BitVec 5) (a : BitVec 5) (t : BitVec 3) (s : State) : exec (.vexpd w d a t) s = execVexpd w d a t s := rfl
theorem exec_vmov (w : BitVec 3) (d : BitVec 5) (a : BitVec 5) (t : BitVec 3) (s : State) : exec (.vmov w d a t) s = execVmov w d a t s := rfl
theorem exec_viota (w : BitVec 3) (d : BitVec 5) (a : BitVec 5) (t : BitVec 3) (s : State) : exec (.viota w d a t) s = execViota w d a t s := rfl
theorem exec_vexp2 (w : BitVec 3) (d : BitVec 5) (a : BitVec 5) (t : BitVec 3) (s : State) : exec (.vexp2 w d a t) s = execVexp2 w d a t s := rfl
theorem exec_vlog2 (w : BitVec 3) (d : BitVec 5) (a : BitVec 5) (t : BitVec 3) (s : State) : exec (.vlog2 w d a t) s = execVlog2 w d a t s := rfl
theorem exec_vrsqrt (w : BitVec 3) (d : BitVec 5) (a : BitVec 5) (t : BitVec 3) (s : State) : exec (.vrsqrt w d a t) s = execVrsqrt w d a t s := rfl
theorem exec_vrcp (w : BitVec 3) (d : BitVec 5) (a : BitVec 5) (t : BitVec 3) (s : State) : exec (.vrcp w d a t) s = execVrcp w d a t s := rfl
theorem exec_vsin (w : BitVec 3) (d : BitVec 5) (a : BitVec 5) (t : BitVec 3) (s : State) : exec (.vsin w d a t) s = execVsin w d a t s := rfl
theorem exec_vcos (w : BitVec 3) (d : BitVec 5) (a : BitVec 5) (t : BitVec 3) (s : State) : exec (.vcos w d a t) s = execVcos w d a t s := rfl
theorem exec_vtanh (w : BitVec 3) (d : BitVec 5) (a : BitVec 5) (t : BitVec 3) (s : State) : exec (.vtanh w d a t) s = execVtanh w d a t s := rfl
theorem exec_vsigm (w : BitVec 3) (d : BitVec 5) (a : BitVec 5) (t : BitVec 3) (s : State) : exec (.vsigm w d a t) s = execVsigm w d a t s := rfl
theorem exec_vloop (w : BitVec 3) (l : BitVec 5) (a : BitVec 5) (b : BitVec 5) (s : State) : exec (.vloop w l a b) s = execVloop w l a b s := rfl
theorem exec_vsync (w : BitVec 3) (s : State) : exec (.vsync w) s = execVsync w s := rfl
theorem exec_vgather (w : BitVec 3) (d : BitVec 5) (a : BitVec 5) (b : BitVec 5) (t : BitVec 3) (s : State) : exec (.vgather w d a b t) s = execVgather w d a b t s := rfl
theorem exec_vscatter (w : BitVec 3) (d : BitVec 5) (a : BitVec 5) (b : BitVec 5) (t : BitVec 3) (s : State) : exec (.vscatter w d a b t) s = execVscatter w d a b t s := rfl
theorem exec_vamoadd (w : BitVec 3) (d : BitVec 5) (a : BitVec 5) (b : BitVec 5) (t : BitVec 3) (s : State) : exec (.vamoadd w d a b t) s = execVamoadd w d a b t s := rfl
theorem exec_vamomax (w : BitVec 3) (d : BitVec 5) (a : BitVec 5) (b : BitVec 5) (t : BitVec 3) (s : State) : exec (.vamomax w d a b t) s = execVamomax w d a b t s := rfl
theorem exec_vamomin (w : BitVec 3) (d : BitVec 5) (a : BitVec 5) (b : BitVec 5) (t : BitVec 3) (s : State) : exec (.vamomin w d a b t) s = execVamomin w d a b t s := rfl
theorem exec_vredadd (w : BitVec 3) (d : BitVec 5) (a : BitVec 5) (b : BitVec 5) (t : BitVec 3) (s : State) : exec (.vredadd w d a b t) s = execVredadd w d a b t s := rfl
theorem exec_vmxpack (w : BitVec 3) (d : BitVec 5) (a : BitVec 5) (b : BitVec 5) (s : State) : exec (.vmxpack w d a b) s = execVmxpack w d a b s := rfl
theorem exec_vmxunpk (w : BitVec 3) (d : BitVec 5) (a : BitVec 5) (b : BitVec 5) (s : State) : exec (.vmxunpk w d a b) s = execVmxunpk w d a b s := rfl
theorem exec_vscale (w : BitVec 3) (d : BitVec 5) (a : BitVec 5) (b : BitVec 5) (s : State) : exec (.vscale w d a b) s = execVscale w d a b s := rfl
theorem exec_macq (w : BitVec 3) (d : BitVec 5) (a : BitVec 5) (s : State) : exec (.macq w d a) s = execMacq w d a s := rfl
theorem exec_mrel (w : BitVec 3) (d : BitVec 5) (s : State) : exec (.mrel w d) s = execMrel w d s := rfl
theorem exec_mma (w : BitVec 3) (d : BitVec 5) (a : BitVec 5) (b : BitVec 5) (s : State) : exec (.mma w d a b) s = execMma w d a b s := rfl
theorem exec_mmr (w : BitVec 3) (d : BitVec 5) (a : BitVec 5) (b : BitVec 5) (s : State) : exec (.mmr w d a b) s = execMmr w d a b s := rfl
theorem exec_mzero (w : BitVec 3) (d : BitVec 5) (s : State) : exec (.mzero w d) s = execMzero w d s := rfl
theorem exec_mldc (w : BitVec 3) (d : BitVec 5) (a : BitVec 5) (b : BitVec 5) (s : State) : exec (.mldc w d a b) s = execMldc w d a b s := rfl
theorem exec_mstc (w : BitVec 3) (d : BitVec 5) (a : BitVec 5) (b : BitVec 5) (s : State) : exec (.mstc w d a b) s = execMstc w d a b s := rfl
theorem exec_msync (w : BitVec 3) (s : State) : exec (.msync w) s = execMsync w s := rfl
theorem exec_maddc (w : BitVec 3) (d : BitVec 5) (a : BitVec 5) (b : BitVec 5) (s : State) : exec (.maddc w d a b) s = execMaddc w d a b s := rfl
theorem exec_mstat (w : BitVec 3) (d : BitVec 5) (a : BitVec 5) (b : BitVec 5) (s : State) : exec (.mstat w d a b) s = execMstat w d a b s := rfl
theorem exec_drd (w : BitVec 3) (a : BitVec 5) (b : BitVec 5) (s : State) : exec (.drd w a b) s = execDrd w a b s := rfl
theorem exec_dwr (w : BitVec 3) (a : BitVec 5) (b : BitVec 5) (s : State) : exec (.dwr w a b) s = execDwr w a b s := rfl
theorem exec_dpush (w : BitVec 3) (d : BitVec 5) (a : BitVec 5) (b : BitVec 5) (s : State) : exec (.dpush w d a b) s = execDpush w d a b s := rfl
theorem exec_dpull (w : BitVec 3) (d : BitVec 5) (a : BitVec 5) (b : BitVec 5) (s : State) : exec (.dpull w d a b) s = execDpull w d a b s := rfl
theorem exec_aqput (w : BitVec 3) (a : BitVec 5) (b : BitVec 5) (s : State) : exec (.aqput w a b) s = execAqput w a b s := rfl
theorem exec_xqget (w : BitVec 3) (d : BitVec 5) (a : BitVec 5) (s : State) : exec (.xqget w d a) s = execXqget w d a s := rfl
theorem exec_dpref (w : BitVec 3) (a : BitVec 5) (b : BitVec 5) (s : State) : exec (.dpref w a b) s = execDpref w a b s := rfl
theorem exec_bsel (w : BitVec 3) (a : BitVec 5) (b : BitVec 5) (s : State) : exec (.bsel w a b) s = execBsel w a b s := rfl
theorem exec_aqget (w : BitVec 3) (d : BitVec 5) (a : BitVec 5) (s : State) : exec (.aqget w d a) s = execAqget w d a s := rfl
theorem exec_xqput (w : BitVec 3) (a : BitVec 5) (b : BitVec 5) (s : State) : exec (.xqput w a b) s = execXqput w a b s := rfl
theorem exec_bmac (w : BitVec 3) (d : BitVec 5) (a : BitVec 5) (b : BitVec 5) (s : State) : exec (.bmac w d a b) s = execBmac w d a b s := rfl
theorem exec_bred (w : BitVec 3) (d : BitVec 5) (a : BitVec 5) (b : BitVec 5) (s : State) : exec (.bred w d a b) s = execBred w d a b s := rfl
theorem exec_bclone (w : BitVec 3) (d : BitVec 5) (a : BitVec 5) (b : BitVec 5) (s : State) : exec (.bclone w d a b) s = execBclone w d a b s := rfl
theorem exec_bfill (w : BitVec 3) (d : BitVec 5) (a : BitVec 5) (b : BitVec 5) (s : State) : exec (.bfill w d a b) s = execBfill w d a b s := rfl
theorem exec_bsync (w : BitVec 3) (s : State) : exec (.bsync w) s = execBsync w s := rfl
theorem exec_amoadd (w : BitVec 3) (d : BitVec 5) (a : BitVec 5) (b : BitVec 5) (z : BitVec 1) (s : State) : exec (.amoadd w d a b z) s = execAmoadd w d a b z s := rfl
theorem exec_amoand (w : BitVec 3) (d : BitVec 5) (a : BitVec 5) (b : BitVec 5) (z : BitVec 1) (s : State) : exec (.amoand w d a b z) s = execAmoand w d a b z s := rfl
theorem exec_amoor (w : BitVec 3) (d : BitVec 5) (a : BitVec 5) (b : BitVec 5) (z : BitVec 1) (s : State) : exec (.amoor w d a b z) s = execAmoor w d a b z s := rfl
theorem exec_amoxor (w : BitVec 3) (d : BitVec 5) (a : BitVec 5) (b : BitVec 5) (z : BitVec 1) (s : State) : exec (.amoxor w d a b z) s = execAmoxor w d a b z s := rfl
theorem exec_amomin (w : BitVec 3) (d : BitVec 5) (a : BitVec 5) (b : BitVec 5) (z : BitVec 1) (s : State) : exec (.amomin w d a b z) s = execAmomin w d a b z s := rfl
theorem exec_amomax (w : BitVec 3) (d : BitVec 5) (a : BitVec 5) (b : BitVec 5) (z : BitVec 1) (s : State) : exec (.amomax w d a b z) s = execAmomax w d a b z s := rfl
theorem exec_amominu (w : BitVec 3) (d : BitVec 5) (a : BitVec 5) (b : BitVec 5) (z : BitVec 1) (s : State) : exec (.amominu w d a b z) s = execAmominu w d a b z s := rfl
theorem exec_amomaxu (w : BitVec 3) (d : BitVec 5) (a : BitVec 5) (b : BitVec 5) (z : BitVec 1) (s : State) : exec (.amomaxu w d a b z) s = execAmomaxu w d a b z s := rfl
theorem exec_amoswap (w : BitVec 3) (d : BitVec 5) (a : BitVec 5) (b : BitVec 5) (z : BitVec 1) (s : State) : exec (.amoswap w d a b z) s = execAmoswap w d a b z s := rfl
theorem exec_amocas (w : BitVec 3) (d : BitVec 5) (a : BitVec 5) (b : BitVec 5) (z : BitVec 1) (s : State) : exec (.amocas w d a b z) s = execAmocas w d a b z s := rfl
theorem exec_amofadd (w : BitVec 3) (d : BitVec 5) (a : BitVec 5) (b : BitVec 5) (z : BitVec 1) (s : State) : exec (.amofadd w d a b z) s = execAmofadd w d a b z s := rfl
theorem exec_rsv (w : BitVec 3) (d : BitVec 5) (a : BitVec 5) (z : BitVec 1) (s : State) : exec (.rsv w d a z) s = execRsv w d a z s := rfl
theorem exec_rls (w : BitVec 3) (a : BitVec 5) (b : BitVec 5) (z : BitVec 1) (s : State) : exec (.rls w a b z) s = execRls w a b z s := rfl
theorem exec_ldaq (w : BitVec 3) (d : BitVec 5) (a : BitVec 5) (p : BitVec 2) (z : BitVec 1) (s : State) : exec (.ldaq w d a p z) s = execLdaq w d a p z s := rfl
theorem exec_strl (w : BitVec 3) (a : BitVec 5) (b : BitVec 5) (p : BitVec 2) (z : BitVec 1) (s : State) : exec (.strl w a b p z) s = execStrl w a b p z s := rfl
theorem exec_redadd (w : BitVec 3) (a : BitVec 5) (b : BitVec 5) (z : BitVec 1) (s : State) : exec (.redadd w a b z) s = execRedadd w a b z s := rfl
theorem exec_redand (w : BitVec 3) (a : BitVec 5) (b : BitVec 5) (z : BitVec 1) (s : State) : exec (.redand w a b z) s = execRedand w a b z s := rfl
theorem exec_redor (w : BitVec 3) (a : BitVec 5) (b : BitVec 5) (z : BitVec 1) (s : State) : exec (.redor w a b z) s = execRedor w a b z s := rfl
theorem exec_redxor (w : BitVec 3) (a : BitVec 5) (b : BitVec 5) (z : BitVec 1) (s : State) : exec (.redxor w a b z) s = execRedxor w a b z s := rfl
theorem exec_redmin (w : BitVec 3) (a : BitVec 5) (b : BitVec 5) (z : BitVec 1) (s : State) : exec (.redmin w a b z) s = execRedmin w a b z s := rfl
theorem exec_redmax (w : BitVec 3) (a : BitVec 5) (b : BitVec 5) (z : BitVec 1) (s : State) : exec (.redmax w a b z) s = execRedmax w a b z s := rfl
theorem exec_redminu (w : BitVec 3) (a : BitVec 5) (b : BitVec 5) (z : BitVec 1) (s : State) : exec (.redminu w a b z) s = execRedminu w a b z s := rfl
theorem exec_redmaxu (w : BitVec 3) (a : BitVec 5) (b : BitVec 5) (z : BitVec 1) (s : State) : exec (.redmaxu w a b z) s = execRedmaxu w a b z s := rfl
theorem exec_redfadd (w : BitVec 3) (a : BitVec 5) (b : BitVec 5) (z : BitVec 1) (s : State) : exec (.redfadd w a b z) s = execRedfadd w a b z s := rfl
theorem exec_fence (w : BitVec 3) (c : BitVec 5) (s : State) : exec (.fence w c) s = execFence w c s := rfl
theorem exec_fencex (w : BitVec 3) (x : BitVec 5) (y : BitVec 5) (s : State) : exec (.fencex w x y) s = execFencex w x y s := rfl
theorem exec_ifence (w : BitVec 3) (s : State) : exec (.ifence w) s = execIfence w s := rfl
theorem exec_qfence (w : BitVec 3) (s : State) : exec (.qfence w) s = execQfence w s := rfl
theorem exec_drain (w : BitVec 3) (s : State) : exec (.drain w) s = execDrain w s := rfl
theorem exec_acks (w : BitVec 3) (d : BitVec 5) (s : State) : exec (.acks w d) s = execAcks w d s := rfl
theorem exec_binit (w : BitVec 3) (n : BitVec 5) (a : BitVec 5) (s : State) : exec (.binit w n a) s = execBinit w n a s := rfl
theorem exec_barrive (w : BitVec 3) (n : BitVec 5) (a : BitVec 5) (s : State) : exec (.barrive w n a) s = execBarrive w n a s := rfl
theorem exec_bexpect (w : BitVec 3) (n : BitVec 5) (a : BitVec 5) (s : State) : exec (.bexpect w n a) s = execBexpect w n a s := rfl
theorem exec_bwait (w : BitVec 3) (n : BitVec 5) (a : BitVec 5) (s : State) : exec (.bwait w n a) s = execBwait w n a s := rfl
theorem exec_btest (w : BitVec 3) (n : BitVec 5) (a : BitVec 5) (b : BitVec 5) (s : State) : exec (.btest w n a b) s = execBtest w n a b s := rfl
theorem exec_binv (w : BitVec 3) (n : BitVec 5) (s : State) : exec (.binv w n) s = execBinv w n s := rfl
theorem exec_lantern (w : BitVec 3) (d : BitVec 5) (a : BitVec 5) (s : State) : exec (.lantern w d a) s = execLantern w d a s := rfl
theorem exec_phase (w : BitVec 3) (d : BitVec 5) (a : BitVec 5) (s : State) : exec (.phase w d a) s = execPhase w d a s := rfl
theorem exec_waystationPowerOn (s : State) : exec (.waystationPowerOn) s = execWaystationPowerOn s := rfl
theorem exec_imageVerificationComplete (s : State) : exec (.imageVerificationComplete) s = execImageVerificationComplete s := rfl
theorem exec_bootTimeout (s : State) : exec (.bootTimeout) s = execBootTimeout s := rfl
theorem exec_waystationReset (s : State) : exec (.waystationReset) s = execWaystationReset s := rfl
theorem exec_memoryRailGood (s : State) : exec (.memoryRailGood) s = execMemoryRailGood s := rfl
theorem exec_memoryZeroingComplete (s : State) : exec (.memoryZeroingComplete) s = execMemoryZeroingComplete s := rfl
theorem exec_selfRefreshRequest (s : State) : exec (.selfRefreshRequest) s = execSelfRefreshRequest s := rfl
theorem exec_selfRefreshEntry (s : State) : exec (.selfRefreshEntry) s = execSelfRefreshEntry s := rfl
theorem exec_selfRefreshExit (s : State) : exec (.selfRefreshExit) s = execSelfRefreshExit s := rfl
theorem exec_memoryReset (s : State) : exec (.memoryReset) s = execMemoryReset s := rfl
theorem exec_computeRailGood (s : State) : exec (.computeRailGood) s = execComputeRailGood s := rfl
theorem exec_computeResetRelease (s : State) : exec (.computeResetRelease) s = execComputeResetRelease s := rfl
theorem exec_bringupComplete (s : State) : exec (.bringupComplete) s = execBringupComplete s := rfl
theorem exec_quiesceRequest (s : State) : exec (.quiesceRequest) s = execQuiesceRequest s := rfl
theorem exec_quiesceResume (s : State) : exec (.quiesceResume) s = execQuiesceResume s := rfl
theorem exec_computeReset (s : State) : exec (.computeReset) s = execComputeReset s := rfl
theorem exec_computeRailOff (s : State) : exec (.computeRailOff) s = execComputeRailOff s := rfl
theorem exec_channelCacheWritebackComplete (s : State) : exec (.channelCacheWritebackComplete) s = execChannelCacheWritebackComplete s := rfl
theorem exec_dispatcherHeartbeat (s : State) : exec (.dispatcherHeartbeat) s = execDispatcherHeartbeat s := rfl
theorem exec_domainWatchdogExpiry (s : State) : exec (.domainWatchdogExpiry) s = execDomainWatchdogExpiry s := rfl
theorem exec_travellerSwitchIn (core : Nat) (x : Bool) (s : State) : exec (.travellerSwitchIn core x) s = execTravellerSwitchIn core x s := rfl
theorem exec_dequeTaskStart (core : Nat) (s : State) : exec (.dequeTaskStart core) s = execDequeTaskStart core s := rfl
theorem exec_parkWaitComplete (core : Nat) (slot : Nat) (s : State) : exec (.parkWaitComplete core slot) s = execParkWaitComplete core slot s := rfl
theorem exec_storeBufferDrain (core : Nat) (x : Bool) (s : State) : exec (.storeBufferDrain core x) s = execStoreBufferDrain core x s := rfl
theorem exec_travellerArrival (k : Nat) (s : State) : exec (.travellerArrival k) s = execTravellerArrival k s := rfl
theorem exec_heldArrivalAdmit (core : Nat) (s : State) : exec (.heldArrivalAdmit core) s = execHeldArrivalAdmit core s := rfl
theorem exec_migrationAck (core : Nat) (slot : Nat) (s : State) : exec (.migrationAck core slot) s = execMigrationAck core slot s := rfl
theorem exec_migrationBounce (k : Nat) (s : State) : exec (.migrationBounce k) s = execMigrationBounce k s := rfl
theorem exec_taskPacketArrival (k : Nat) (s : State) : exec (.taskPacketArrival k) s = execTaskPacketArrival k s := rfl
theorem exec_wakeDelivery (k : Nat) (s : State) : exec (.wakeDelivery k) s = execWakeDelivery k s := rfl
theorem exec_stealRequestSend (core : Nat) (s : State) : exec (.stealRequestSend core) s = execStealRequestSend core s := rfl
theorem exec_stealRequestServe (k : Nat) (s : State) : exec (.stealRequestServe k) s = execStealRequestServe k s := rfl
theorem exec_stealReply (k : Nat) (s : State) : exec (.stealReply k) s = execStealReply k s := rfl
theorem exec_stealBackoffExpiry (core : Nat) (s : State) : exec (.stealBackoffExpiry core) s = execStealBackoffExpiry core s := rfl
theorem exec_preemptionTaken (core : Nat) (s : State) : exec (.preemptionTaken core) s = execPreemptionTaken core s := rfl
theorem exec_travellerSpill (core : Nat) (slot : Nat) (s : State) : exec (.travellerSpill core slot) s = execTravellerSpill core slot s := rfl
theorem exec_spillAreaAdmit (p : Nat) (s : State) : exec (.spillAreaAdmit p) s = execSpillAreaAdmit p s := rfl
theorem exec_strandNotice (ctx : Nat) (s : State) : exec (.strandNotice ctx) s = execStrandNotice ctx s := rfl
theorem exec_cancelTaken (core : Nat) (x : Bool) (s : State) : exec (.cancelTaken core x) s = execCancelTaken core x s := rfl
theorem exec_engineFaultDelivery (core : Nat) (x : Bool) (s : State) : exec (.engineFaultDelivery core x) s = execEngineFaultDelivery core x s := rfl
theorem exec_machineCheck (core : Nat) (unit : Nat) (slot : Nat) (regs : BitVec 24) (s : State) : exec (.machineCheck core unit slot regs) s = execMachineCheck core unit slot regs s := rfl
theorem exec_sealComplete (core : Nat) (s : State) : exec (.sealComplete core) s = execSealComplete core s := rfl
theorem exec_debugHaltTaken (core : Nat) (x : Bool) (s : State) : exec (.debugHaltTaken core x) s = execDebugHaltTaken core x s := rfl
theorem exec_addressMatchHalt (core : Nat) (x : Bool) (s : State) : exec (.addressMatchHalt core x) s = execAddressMatchHalt core x s := rfl
theorem exec_submissionEntryFetch (p : Nat) (s : State) : exec (.submissionEntryFetch p) s = execSubmissionEntryFetch p s := rfl
theorem exec_launchPlacement (p : Nat) (s : State) : exec (.launchPlacement p) s = execLaunchPlacement p s := rfl
theorem exec_quadGate (q : Nat) (s : State) : exec (.quadGate q) s = execQuadGate q s := rfl
theorem exec_quadWakeComplete (q : Nat) (s : State) : exec (.quadWakeComplete q) s = execQuadWakeComplete q s := rfl
theorem exec_selfTestDrainStart (s : State) : exec (.selfTestDrainStart) s = execSelfTestDrainStart s := rfl
theorem exec_selfTestStart (s : State) : exec (.selfTestStart) s = execSelfTestStart s := rfl
theorem exec_selfTestDefer (s : State) : exec (.selfTestDefer) s = execSelfTestDefer s := rfl
theorem exec_selfTestComplete (fails : BitVec 16) (s : State) : exec (.selfTestComplete fails) s = execSelfTestComplete fails s := rfl
theorem exec_coreScrub (core : Nat) (s : State) : exec (.coreScrub core) s = execCoreScrub core s := rfl
theorem exec_coreMoveComplete (core : Nat) (s : State) : exec (.coreMoveComplete core) s = execCoreMoveComplete core s := rfl
theorem exec_groupWatchdogExpiry (p : Nat) (entry : Nat) (s : State) : exec (.groupWatchdogExpiry p entry) s = execGroupWatchdogExpiry p entry s := rfl
theorem exec_heldPostWrite (p : Nat) (q : Nat) (s : State) : exec (.heldPostWrite p q) s = execHeldPostWrite p q s := rfl
theorem exec_enqueueCopyAccept (core : Nat) (s : State) : exec (.enqueueCopyAccept core) s = execEnqueueCopyAccept core s := rfl
theorem exec_doorbellSetTail (port : Nat) (vf : Nat) (v : BitVec 64) (s : State) : exec (.doorbellSetTail port vf v) s = execDoorbellSetTail port vf v s := rfl
theorem exec_doorbellSetHead (port : Nat) (vf : Nat) (v : BitVec 64) (s : State) : exec (.doorbellSetHead port vf v) s = execDoorbellSetHead port vf v s := rfl
theorem exec_functionLevelReset (port : Nat) (vf : Nat) (s : State) : exec (.functionLevelReset port vf) s = execFunctionLevelReset port vf s := rfl
theorem exec_portHotReset (port : Nat) (s : State) : exec (.portHotReset port) s = execPortHotReset port s := rfl
theorem exec_sequencerEmit (core : Nat) (s : State) : exec (.sequencerEmit core) s = execSequencerEmit core s := rfl
theorem exec_vectorCommandStart (core : Nat) (s : State) : exec (.vectorCommandStart core) s = execVectorCommandStart core s := rfl
theorem exec_vectorCommandComplete (core : Nat) (s : State) : exec (.vectorCommandComplete core) s = execVectorCommandComplete core s := rfl
theorem exec_matrixGrant (q : Nat) (s : State) : exec (.matrixGrant q) s = execMatrixGrant q s := rfl
theorem exec_matrixCommandComplete (core : Nat) (s : State) : exec (.matrixCommandComplete core) s = execMatrixCommandComplete core s := rfl
theorem exec_rotationWriteApply (k : Nat) (s : State) : exec (.rotationWriteApply k) s = execRotationWriteApply k s := rfl
theorem exec_courierCommandStart (core : Nat) (s : State) : exec (.courierCommandStart core) s = execCourierCommandStart core s := rfl
theorem exec_courierCommandComplete (core : Nat) (k : Nat) (s : State) : exec (.courierCommandComplete core k) s = execCourierCommandComplete core k s := rfl
theorem exec_courierFault (core : Nat) (k : Nat) (s : State) : exec (.courierFault core k) s = execCourierFault core k s := rfl
theorem exec_engineWriteArrival (k : Nat) (s : State) : exec (.engineWriteArrival k) s = execEngineWriteArrival k s := rfl
theorem exec_streamRecordStart (core : Nat) (s : State) : exec (.streamRecordStart core) s = execStreamRecordStart core s := rfl
theorem exec_streamRecordComplete (core : Nat) (k : Nat) (s : State) : exec (.streamRecordComplete core k) s = execStreamRecordComplete core k s := rfl
theorem exec_streamRecordFault (core : Nat) (k : Nat) (s : State) : exec (.streamRecordFault core k) s = execStreamRecordFault core k s := rfl
theorem exec_bselApply (core : Nat) (s : State) : exec (.bselApply core) s = execBselApply core s := rfl
theorem exec_bankCommandComplete (core : Nat) (k : Nat) (s : State) : exec (.bankCommandComplete core k) s = execBankCommandComplete core k s := rfl
theorem exec_rowSpareComplete (ch : Nat) (bank : Nat) (row : Nat) (s : State) : exec (.rowSpareComplete ch bank row) s = execRowSpareComplete ch bank row s := rfl
theorem exec_scrubPass (ch : Nat) (s : State) : exec (.scrubPass ch) s = execScrubPass ch s := rfl
theorem exec_xTravellerGo (core : Nat) (steward : Nat) (v : BitVec 64) (s : State) : exec (.xTravellerGo core steward v) s = execXTravellerGo core steward v s := rfl
theorem exec_xTravellerStop (core : Nat) (steward : Nat) (s : State) : exec (.xTravellerStop core steward) s = execXTravellerStop core steward s := rfl
theorem exec_xTravellerStopComplete (core : Nat) (s : State) : exec (.xTravellerStopComplete core) s = execXTravellerStopComplete core s := rfl
theorem exec_lmBoundaryStage (agent : Agent) (core : Nat) (which : Nat) (v : BitVec 64) (s : State) : exec (.lmBoundaryStage agent core which v) s = execLmBoundaryStage agent core which v s := rfl
theorem exec_lmdtbCommit (agent : Agent) (core : Nat) (v : BitVec 64) (s : State) : exec (.lmdtbCommit agent core v) s = execLmdtbCommit agent core v s := rfl
theorem exec_imageLoad (agent : Agent) (cores : List Nat) (image : List Byte) (s : State) : exec (.imageLoad agent cores image) s = execImageLoad agent cores image s := rfl
theorem exec_reservationGrant (pa : Nat) (s : State) : exec (.reservationGrant pa) s = execReservationGrant pa s := rfl
theorem exec_reservationReleaseApply (k : Nat) (s : State) : exec (.reservationReleaseApply k) s = execReservationReleaseApply k s := rfl
theorem exec_redApply (core : Nat) (x : Bool) (s : State) : exec (.redApply core x) s = execRedApply core x s := rfl
theorem exec_barrierEventApply (k : Nat) (s : State) : exec (.barrierEventApply k) s = execBarrierEventApply k s := rfl
theorem exec_remoteBarrierEvent (k : Nat) (s : State) : exec (.remoteBarrierEvent k) s = execRemoteBarrierEvent k s := rfl
theorem exec_walkComplete (k : Nat) (s : State) : exec (.walkComplete k) s = execWalkComplete k s := rfl
theorem exec_ptrootWrite (agent : Agent) (p : Nat) (v : BitVec 64) (s : State) : exec (.ptrootWrite agent p v) s = execPtrootWrite agent p v s := rfl
theorem exec_xlinvGo (agent : Agent) (v : BitVec 64) (s : State) : exec (.xlinvGo agent v) s = execXlinvGo agent v s := rfl
theorem exec_xlinvComplete (s : State) : exec (.xlinvComplete) s = execXlinvComplete s := rfl
theorem exec_mapChangeIssue (agent : Agent) (c : MapChange) (s : State) : exec (.mapChangeIssue agent c) s = execMapChangeIssue agent c s := rfl
theorem exec_mapChangeSequence (k : Nat) (s : State) : exec (.mapChangeSequence k) s = execMapChangeSequence k s := rfl
theorem exec_mapChangeApply (k : Nat) (s : State) : exec (.mapChangeApply k) s = execMapChangeApply k s := rfl
theorem exec_restripeGranuleCopy (e : Nat) (s : State) : exec (.restripeGranuleCopy e) s = execRestripeGranuleCopy e s := rfl
theorem exec_restripeCopyAck (e : Nat) (s : State) : exec (.restripeCopyAck e) s = execRestripeCopyAck e s := rfl
theorem exec_cubeLossTimer (cube : Nat) (s : State) : exec (.cubeLossTimer cube) s = execCubeLossTimer cube s := rfl
theorem exec_meterFlushTimer (m : Nat) (s : State) : exec (.meterFlushTimer m) s = execMeterFlushTimer m s := rfl
theorem exec_leakageTick (s : State) : exec (.leakageTick) s = execLeakageTick s := rfl
theorem exec_refreshRow (ch : Nat) (s : State) : exec (.refreshRow ch) s = execRefreshRow ch s := rfl
theorem exec_kcorrUpdate (measured : List Int) (s : State) : exec (.kcorrUpdate measured) s = execKcorrUpdate measured s := rfl
theorem exec_purseAddWrite (agent : Agent) (ctx : Nat) (v : BitVec 64) (s : State) : exec (.purseAddWrite agent ctx v) s = execPurseAddWrite agent ctx v s := rfl
theorem exec_partcfgWrite (agent : Agent) (p : Nat) (v : BitVec 64) (s : State) : exec (.partcfgWrite agent p v) s = execPartcfgWrite agent p v s := rfl
theorem exec_carveGo (agent : Agent) (v : BitVec 64) (s : State) : exec (.carveGo agent v) s = execCarveGo agent v s := rfl
theorem exec_carveStop (agent : Agent) (v : BitVec 64) (s : State) : exec (.carveStop agent v) s = execCarveStop agent v s := rfl
theorem exec_owndatWrite (agent : Agent) (v : BitVec 64) (s : State) : exec (.owndatWrite agent v) s = execOwndatWrite agent v s := rfl
theorem exec_halldatRead (agent : Agent) (s : State) : exec (.halldatRead agent) s = execHalldatRead agent s := rfl
theorem exec_halldatWrite (agent : Agent) (v : BitVec 64) (s : State) : exec (.halldatWrite agent v) s = execHalldatWrite agent v s := rfl
theorem exec_hccfgWrite (agent : Agent) (p : Nat) (v : BitVec 64) (s : State) : exec (.hccfgWrite agent p v) s = execHccfgWrite agent p v s := rfl
theorem exec_respgWrite (agent : Agent) (ch : Nat) (j : Nat) (v : BitVec 64) (s : State) : exec (.respgWrite agent ch j v) s = execRespgWrite agent ch j v s := rfl
theorem exec_lanternSlotWrite (agent : Agent) (k : Nat) (half : Nat) (v : BitVec 64) (s : State) : exec (.lanternSlotWrite agent k half v) s = execLanternSlotWrite agent k half v s := rfl
theorem exec_planEnable (agent : Agent) (v : BitVec 64) (s : State) : exec (.planEnable agent v) s = execPlanEnable agent v s := rfl
theorem exec_dbgHaltTraveller (s : State) : exec (.dbgHaltTraveller) s = execDbgHaltTraveller s := rfl
theorem exec_dbgResumeTraveller (s : State) : exec (.dbgResumeTraveller) s = execDbgResumeTraveller s := rfl
theorem exec_dbgHaltLaunch (s : State) : exec (.dbgHaltLaunch) s = execDbgHaltLaunch s := rfl
theorem exec_dbgResumeLaunch (s : State) : exec (.dbgResumeLaunch) s = execDbgResumeLaunch s := rfl
theorem exec_linkRetrain (l : Nat) (s : State) : exec (.linkRetrain l) s = execLinkRetrain l s := rfl
theorem exec_linkTrainComplete (l : Nat) (good : BitVec 9) (s : State) : exec (.linkTrainComplete l good) s = execLinkTrainComplete l good s := rfl
theorem exec_linkTrainTimeout (l : Nat) (s : State) : exec (.linkTrainTimeout l) s = execLinkTrainTimeout l s := rfl
theorem exec_laneFailure (l : Nat) (lane : Nat) (s : State) : exec (.laneFailure l lane) s = execLaneFailure l lane s := rfl
theorem exec_linkSilenceTimeout (l : Nat) (s : State) : exec (.linkSilenceTimeout l) s = execLinkSilenceTimeout l s := rfl
theorem exec_linkReplay (l : Nat) (s : State) : exec (.linkReplay l) s = execLinkReplay l s := rfl
theorem exec_routeUpdate (cube : Nat) (es : List (Nat × Nat × Nat)) (s : State) : exec (.routeUpdate cube es) s = execRouteUpdate cube es s := rfl
theorem exec_heartbeatSend (s : State) : exec (.heartbeatSend) s = execHeartbeatSend s := rfl
theorem exec_packetTransit (k : Nat) (s : State) : exec (.packetTransit k) s = execPacketTransit k s := rfl
theorem exec_packetReceive (k : Nat) (s : State) : exec (.packetReceive k) s = execPacketReceive k s := rfl
theorem exec_connectionFetchComplete (k : Nat) (s : State) : exec (.connectionFetchComplete k) s = execConnectionFetchComplete k s := rfl
theorem exec_e2eRetryTimeout (k : Nat) (s : State) : exec (.e2eRetryTimeout k) s = execE2eRetryTimeout k s := rfl
theorem exec_nakRetryResend (k : Nat) (s : State) : exec (.nakRetryResend k) s = execNakRetryResend k s := rfl
theorem exec_nakAbsentReceive (k : Nat) (s : State) : exec (.nakAbsentReceive k) s = execNakAbsentReceive k s := rfl
theorem exec_acknowledgementReceive (k : Nat) (s : State) : exec (.acknowledgementReceive k) s = execAcknowledgementReceive k s := rfl
theorem exec_messageCountExpiry (k : Nat) (s : State) : exec (.messageCountExpiry k) s = execMessageCountExpiry k s := rfl
theorem exec_arrivalFilterExpiry (k : Nat) (s : State) : exec (.arrivalFilterExpiry k) s = execArrivalFilterExpiry k s := rfl
theorem exec_bounceResend (k : Nat) (s : State) : exec (.bounceResend k) s = execBounceResend k s := rfl
theorem exec_reduceContributionArrival (k : Nat) (s : State) : exec (.reduceContributionArrival k) s = execReduceContributionArrival k s := rfl
theorem exec_multicastReceive (k : Nat) (s : State) : exec (.multicastReceive k) s = execMulticastReceive k s := rfl
theorem exec_planAbort (k : Nat) (s : State) : exec (.planAbort k) s = execPlanAbort k s := rfl
theorem exec_escortCompare (k : Nat) (s : State) : exec (.escortCompare k) s = execEscortCompare k s := rfl
theorem exec_escortTimeout (k : Nat) (s : State) : exec (.escortTimeout k) s = execEscortTimeout k s := rfl
theorem exec_lanternRoundStart (k : Nat) (s : State) : exec (.lanternRoundStart k) s = execLanternRoundStart k s := rfl
theorem exec_lanternProbeArrival (k : Nat) (s : State) : exec (.lanternProbeArrival k) s = execLanternProbeArrival k s := rfl
theorem exec_lanternProbeRelease (k : Nat) (s : State) : exec (.lanternProbeRelease k) s = execLanternProbeRelease k s := rfl
theorem exec_lanternProbeReturn (k : Nat) (s : State) : exec (.lanternProbeReturn k) s = execLanternProbeReturn k s := rfl
theorem exec_lanternTimeout (k : Nat) (s : State) : exec (.lanternTimeout k) s = execLanternTimeout k s := rfl
theorem exec_lanternDoneMessage (k : Nat) (s : State) : exec (.lanternDoneMessage k) s = execLanternDoneMessage k s := rfl
theorem exec_trapMessageArrival (k : Nat) (s : State) : exec (.trapMessageArrival k) s = execTrapMessageArrival k s := rfl
theorem exec_trapMessageSpillReturn (p : Nat) (s : State) : exec (.trapMessageSpillReturn p) s = execTrapMessageSpillReturn p s := rfl
theorem exec_managementRead (port : Nat) (s : State) : exec (.managementRead port) s = execManagementRead port s := rfl
theorem exec_managementWrite (port : Nat) (s : State) : exec (.managementWrite port) s = execManagementWrite port s := rfl
theorem exec_managementReply (port : Nat) (s : State) : exec (.managementReply port) s = execManagementReply port s := rfl
theorem exec_claim (port : Nat) (s : State) : exec (.claim port) s = execClaim port s := rfl
theorem exec_handover (port : Nat) (s : State) : exec (.handover port) s = execHandover port s := rfl
theorem exec_unlock (port : Nat) (s : State) : exec (.unlock port) s = execUnlock port s := rfl
theorem exec_rekey (port : Nat) (s : State) : exec (.rekey port) s = execRekey port s := rfl
theorem exec_switch (port : Nat) (s : State) : exec (.switch port) s = execSwitch port s := rfl
theorem exec_fwchunk (port : Nat) (s : State) : exec (.fwchunk port) s = execFwchunk port s := rfl
theorem exec_attestRead (port : Nat) (s : State) : exec (.attestRead port) s = execAttestRead port s := rfl
theorem exec_alarm (src : Nat) (s : State) : exec (.alarm src) s = execAlarm src s := rfl
theorem exec_thermalReading (sensor : Nat) (temp : Int) (s : State) : exec (.thermalReading sensor temp) s = execThermalReading sensor temp s := rfl
theorem exec_thermalShutdownTimer (s : State) : exec (.thermalShutdownTimer) s = execThermalShutdownTimer s := rfl
theorem exec_registerWrite (agent : Agent) (block : Nat) (off : Nat) (v : BitVec 64) (s : State) : exec (.registerWrite agent block off v) s = execRegisterWrite agent block off v s := rfl
theorem exec_waystationRailOff (s : State) : exec (.waystationRailOff) s = execWaystationRailOff s := rfl
theorem exec_spilledTravellerPlacement (p : Nat) (s : State) : exec (.spilledTravellerPlacement p) s = execSpilledTravellerPlacement p s := rfl
theorem exec_planDisable (agent : Agent) (v : BitVec 64) (s : State) : exec (.planDisable agent v) s = execPlanDisable agent v s := rfl
theorem exec_owndatApplyComplete (s : State) : exec (.owndatApplyComplete) s = execOwndatApplyComplete s := rfl
theorem exec_pstructRead (p : Nat) (s : State) : exec (.pstructRead p) s = execPstructRead p s := rfl

end Sys2Proof.Machine
end

