-- ==== Sys2Proof/Laws/Map.lean ====
section
/-! SUPPORT. Laws of the sparse maps and of byte memory: reads after writes, and the canonical form. -/

namespace Sys2Proof.Machine

/-! ## Maps -/

variable {α : Type}

@[simp] theorem lookup_insertAt_same (m : SMap α) (k : Nat) (v : α) : lookup (insertAt m k v) k = some v := by
  induction m with
  | nil => simp [insertAt, lookup]
  | cons e m ih =>
    obtain ⟨k', v'⟩ := e
    simp only [insertAt]
    split
    · simp [lookup]
    · split
      · simp [lookup]
      · next h => simpa [lookup, h] using ih

theorem lookup_insertAt_ne (m : SMap α) {k j : Nat} (v : α) (h : j ≠ k) : lookup (insertAt m k v) j = lookup m j := by
  induction m with
  | nil => simp [insertAt, lookup, h.symm]
  | cons e m ih =>
    obtain ⟨k', v'⟩ := e
    simp only [insertAt]
    split
    · simp [lookup, h.symm]
    · split
      · next hk => subst hk; simp [lookup, h.symm]
      · simp only [lookup, ih]

@[simp] theorem lookup_removeAt_same (m : SMap α) (k : Nat) : lookup (removeAt m k) k = none := by
  induction m with
  | nil => rfl
  | cons e m ih =>
    obtain ⟨k', v'⟩ := e
    simp only [removeAt]
    split
    · exact ih
    · next h => simpa [lookup, h] using ih

theorem lookup_removeAt_ne (m : SMap α) {k j : Nat} (h : j ≠ k) : lookup (removeAt m k) j = lookup m j := by
  induction m with
  | nil => rfl
  | cons e m ih =>
    obtain ⟨k', v'⟩ := e
    simp only [removeAt]
    split
    · next hk => subst hk; simpa [lookup, h.symm] using ih
    · simp only [lookup, ih]

/-- A read after a write of the same key gives the value written. -/
@[simp] theorem mget_mput_same [DecidableEq α] (d : α) (m : SMap α) (k : Nat) (v : α) : mget d (mput d m k v) k = v := by
  unfold mget mput
  split
  · next h => simp [h]
  · simp

/-- A write leaves every other key alone. -/
theorem mget_mput_ne [DecidableEq α] (d : α) (m : SMap α) {k j : Nat} (v : α) (h : j ≠ k) :
    mget d (mput d m k v) j = mget d m j := by
  unfold mget mput
  split
  · rw [lookup_removeAt_ne m h]
  · rw [lookup_insertAt_ne m v h]

/-- The same where the two defaults differ. -/
theorem mget_mput_ne' [DecidableEq α] (d d' : α) (m : SMap α) {k j : Nat} (v : α) (h : j ≠ k) :
    mget d' (mput d m k v) j = mget d' m j := by
  unfold mget mput
  split
  · rw [lookup_removeAt_ne m h]
  · rw [lookup_insertAt_ne m v h]

theorem mget_mput [DecidableEq α] (d : α) (m : SMap α) (k j : Nat) (v : α) :
    mget d (mput d m k v) j = if j = k then v else mget d m j := by
  split
  · next h => subst h; simp
  · next h => exact mget_mput_ne d m v h

/-! ## The canonical form -/

theorem mwfFrom_weaken [DecidableEq α] (d : α) {lo lo' : Nat} (h : lo ≤ lo') (m : SMap α) :
    mwfFrom d (some lo') m = true → mwfFrom d (some lo) m = true := by
  cases m with
  | nil => simp [mwfFrom]
  | cons e m => simp only [mwfFrom, Bool.and_eq_true, decide_eq_true_eq]; intro ⟨⟨h1, h2⟩, h3⟩; exact ⟨⟨by omega, h2⟩, h3⟩

theorem mwfFrom_none [DecidableEq α] (d : α) {lo : Nat} (m : SMap α) :
    mwfFrom d (some lo) m = true → mwfFrom d none m = true := by
  cases m with
  | nil => simp [mwfFrom]
  | cons e m => simp only [mwfFrom, Bool.and_eq_true]; intro ⟨⟨_, h2⟩, h3⟩; exact ⟨⟨trivial, h2⟩, h3⟩

theorem mwfFrom_insertAt [DecidableEq α] (d : α) (m : SMap α) (k : Nat) (v : α) (hv : v ≠ d) :
    ∀ lo : Option Nat, (∀ l, lo = some l → l < k) → mwfFrom d lo m = true → mwfFrom d lo (insertAt m k v) = true := by
  induction m with
  | nil => intro lo hl _; cases lo with
    | none => simp [insertAt, mwfFrom, hv]
    | some l => simp [insertAt, mwfFrom, hv, hl l rfl]
  | cons e m ih =>
    obtain ⟨k', v'⟩ := e
    intro lo hl hm
    simp only [mwfFrom, Bool.and_eq_true] at hm
    obtain ⟨⟨h1, h2⟩, h3⟩ := hm
    simp only [insertAt]
    split
    · next hk => simp only [mwfFrom, Bool.and_eq_true, decide_eq_true_eq]; refine ⟨⟨?_, hv⟩, ⟨hk, by simpa using h2⟩, h3⟩; cases lo <;> simp_all
    · split
      · next hk => subst hk; simp only [mwfFrom, Bool.and_eq_true, decide_eq_true_eq]; refine ⟨⟨?_, hv⟩, h3⟩; cases lo <;> simp_all
      · next hk hne =>
        simp only [mwfFrom, Bool.and_eq_true]
        exact ⟨⟨h1, h2⟩, ih (some k') (by intro l hl'; cases hl'; omega) h3⟩

theorem mwfFrom_removeAt [DecidableEq α] (d : α) (m : SMap α) (k : Nat) :
    ∀ lo : Option Nat, mwfFrom d lo m = true → mwfFrom d lo (removeAt m k) = true := by
  induction m with
  | nil => intro lo h; exact h
  | cons e m ih =>
    obtain ⟨k', v'⟩ := e
    intro lo hm
    simp only [mwfFrom, Bool.and_eq_true] at hm
    obtain ⟨⟨h1, h2⟩, h3⟩ := hm
    simp only [removeAt]
    split
    · apply ih
      cases lo with
      | none => exact mwfFrom_none d m h3
      | some l => exact mwfFrom_weaken d (by have := of_decide_eq_true h1; omega) m h3
    · simp only [mwfFrom, Bool.and_eq_true]; exact ⟨⟨h1, h2⟩, ih _ h3⟩

/-- A write keeps the canonical form. -/
theorem mput_wf [DecidableEq α] (d : α) (m : SMap α) (k : Nat) (v : α) (h : mwfFrom d none m = true) :
    mwfFrom d none (mput d m k v) = true := by
  unfold mput
  split
  · exact mwfFrom_removeAt d m k none h
  · next hv => exact mwfFrom_insertAt d m k v hv none (by simp) h

/-- Dropping entries keeps the canonical form. -/
theorem mwfFrom_filter [DecidableEq α] (d : α) (f : Nat × α → Bool) (m : SMap α) :
    ∀ lo : Option Nat, mwfFrom d lo m = true → mwfFrom d lo (m.filter f) = true := by
  induction m with
  | nil => intro lo h; exact h
  | cons e m ih =>
    obtain ⟨k', v'⟩ := e
    intro lo hm
    simp only [mwfFrom, Bool.and_eq_true] at hm
    obtain ⟨⟨h1, h2⟩, h3⟩ := hm
    rw [List.filter_cons]
    split
    · simp only [mwfFrom, Bool.and_eq_true]; exact ⟨⟨h1, h2⟩, ih _ h3⟩
    · apply ih
      cases lo with
      | none => exact mwfFrom_none d m h3
      | some l => exact mwfFrom_weaken d (by have := of_decide_eq_true h1; omega) m h3

/-! ## Byte memory -/

@[simp] theorem wrByte_wf (m : List Host.Cell) (a : Nat) (b : Byte) (h : Memory.wf m = true) : Memory.wf (wrByte m a b) = true :=
  mput_wf 0 m a b h

@[simp] theorem wrN_wf (n : Nat) : ∀ (m : List Host.Cell) (a v : Nat), Memory.wf m = true → Memory.wf (wrN m a n v) = true := by
  induction n with
  | zero => intro m a v h; exact h
  | succ n ih => intro m a v h; exact ih _ _ _ (wrByte_wf m a _ h)

@[simp] theorem wrBytes_wf (bs : List Byte) : ∀ (m : List Host.Cell) (a : Nat), Memory.wf m = true → Memory.wf (wrBytes m a bs) = true := by
  induction bs with
  | nil => intro m a h; exact h
  | cons b bs ih => intro m a h; exact ih _ _ (wrByte_wf m a b h)

@[simp] theorem rdByte_wrByte_same (m : List Host.Cell) (a : Nat) (b : Byte) : rdByte (wrByte m a b) a = b := mget_mput_same 0 m a b
theorem rdByte_wrByte_ne (m : List Host.Cell) {a x : Nat} (b : Byte) (h : x ≠ a) : rdByte (wrByte m a b) x = rdByte m x :=
  mget_mput_ne 0 m b h

/-- A write of `n` bytes leaves the bytes outside it alone. -/
theorem rdByte_wrN_out (n : Nat) : ∀ (m : List Host.Cell) (a v x : Nat), (x < a ∨ a + n ≤ x) → rdByte (wrN m a n v) x = rdByte m x := by
  induction n with
  | zero => intro m a v x _; rfl
  | succ n ih =>
    intro m a v x h
    simp only [wrN]
    rw [ih _ _ _ _ (by omega), rdByte_wrByte_ne _ _ (by omega)]

/-- A write of `n` bytes puts the little-endian bytes of the value there. -/
theorem rdByte_wrN_in (n : Nat) : ∀ (m : List Host.Cell) (a v i : Nat), i < n → rdByte (wrN m a n v) (a + i) = BitVec.ofNat 8 (v / 256 ^ i) := by
  induction n with
  | zero => intro m a v i h; omega
  | succ n ih =>
    intro m a v i h
    simp only [wrN]
    cases i with
    | zero => rw [rdByte_wrN_out _ _ _ _ _ (by omega)]; simp
    | succ i =>
      rw [show a + (i + 1) = a + 1 + i by omega, ih _ _ _ _ (by omega), Nat.div_div_eq_div_mul, pow_succ, Nat.mul_comm]

theorem rdN_congr (n : Nat) : ∀ (m m' : List Host.Cell) (a : Nat), (∀ x, a ≤ x → x < a + n → rdByte m x = rdByte m' x) → rdN m a n = rdN m' a n := by
  induction n with
  | zero => intro m m' a _; rfl
  | succ n ih =>
    intro m m' a h
    simp only [rdN]
    rw [h a (by omega) (by omega), ih m m' (a + 1) (fun x h1 h2 => h x (by omega) (by omega))]

/-- A read outside a write. -/
theorem rdN_wrN_out (m : List Host.Cell) (a n v b k : Nat) (h : b + k ≤ a ∨ a + n ≤ b) : rdN (wrN m a n v) b k = rdN m b k :=
  rdN_congr k _ _ b fun x h1 h2 => rdByte_wrN_out n m a v x (by omega)

/-- A read of what was written. -/
theorem rdN_wrN_same (n : Nat) : ∀ (m : List Host.Cell) (a v : Nat), rdN (wrN m a n v) a n = v % 256 ^ n := by
  induction n with
  | zero => intro m a v; simp [rdN, Nat.mod_one]
  | succ n ih =>
    intro m a v
    have h0 : rdByte (wrN m a (n + 1) v) a = BitVec.ofNat 8 v := by
      have := rdByte_wrN_in (n + 1) m a v 0 (by omega)
      simpa using this
    simp only [rdN]
    rw [h0]
    have : rdN (wrN m a (n + 1) v) (a + 1) n = v / 256 % 256 ^ n := by simp only [wrN]; exact ih _ _ _
    rw [this, pow_succ', Nat.mod_mul]
    simp

/-- A read of `n` bytes is below 256 ^ n. -/
theorem rdN_lt (n : Nat) : ∀ (m : List Host.Cell) (a : Nat), rdN m a n < 256 ^ n := by
  induction n with
  | zero => intro m a; simp [rdN]
  | succ n ih =>
    intro m a
    have h1 := ih m (a + 1)
    have h2 := (rdByte m a).isLt
    simp only [rdN, pow_succ]
    have : (2:Nat) ^ 8 = 256 := by norm_num
    omega

/-! ## Little-endian lists -/

theorem leBytes_get (n : Nat) : ∀ v i, i < n → (leBytes n v)[i]? = some (BitVec.ofNat 8 (v / 256 ^ i)) := by
  induction n with
  | zero => intro v i h; omega
  | succ n ih =>
    intro v i h
    cases i with
    | zero => simp [leBytes]
    | succ i => simp only [leBytes, List.getElem?_cons_succ]; rw [ih _ _ (by omega), Nat.div_div_eq_div_mul, pow_succ']
@[simp] theorem leBytes_length (n : Nat) : ∀ v, (leBytes n v).length = n := by
  induction n with
  | zero => intro v; rfl
  | succ n ih => intro v; simp [leBytes, ih]
theorem leNat_lt (bs : List Byte) : leNat bs < 256 ^ bs.length := by
  induction bs with
  | nil => simp [leNat]
  | cons b bs ih => have := b.isLt; simp only [leNat, List.length_cons, pow_succ]; omega
theorem leNat_digit : ∀ (bs : List Byte) (i : Nat), leNat bs / 256 ^ i % 256 = (bs.getD i 0).toNat := by
  intro bs; induction bs with
  | nil => intro i; simp [leNat]
  | cons b bs ih =>
    intro i
    have hb : b.toNat < 256 := b.isLt
    cases i with
    | zero => simp only [leNat, pow_zero, Nat.div_one, List.getD_cons_zero]; omega
    | succ i =>
      simp only [leNat, List.getD_cons_succ]
      rw [pow_succ', ← Nat.div_div_eq_div_mul, show (b.toNat + 256 * leNat bs) / 256 = leNat bs by omega]
      exact ih i

end Sys2Proof.Machine
end

