-- ==== Sys2Proof/Laws/State.lean ====
section
/-! SUPPORT. What each update of the state leaves alone, field by field, and what a record reads after it. -/

namespace Sys2Proof.Machine

/-! ## putSlot -/

@[simp] theorem putSlot_cycle (s : State) (c sl : Nat) (k : Slot) : (putSlot s c sl k).cycle = s.cycle := rfl
@[simp] theorem putSlot_ws (s : State) (c sl : Nat) (k : Slot) : (putSlot s c sl k).ws = s.ws := rfl
@[simp] theorem putSlot_memDom (s : State) (c sl : Nat) (k : Slot) : (putSlot s c sl k).memDom = s.memDom := rfl
@[simp] theorem putSlot_comp (s : State) (c sl : Nat) (k : Slot) : (putSlot s c sl k).comp = s.comp := rfl
@[simp] theorem putSlot_still (s : State) (c sl : Nat) (k : Slot) : (putSlot s c sl k).still = s.still := rfl
@[simp] theorem putSlot_imgOk (s : State) (c sl : Nat) (k : Slot) : (putSlot s c sl k).imgOk = s.imgOk := rfl
@[simp] theorem putSlot_zeroing (s : State) (c sl : Nat) (k : Slot) : (putSlot s c sl k).zeroing = s.zeroing := rfl
@[simp] theorem putSlot_srReq (s : State) (c sl : Nat) (k : Slot) : (putSlot s c sl k).srReq = s.srReq := rfl
@[simp] theorem putSlot_ccFlush (s : State) (c sl : Nat) (k : Slot) : (putSlot s c sl k).ccFlush = s.ccFlush := rfl
@[simp] theorem putSlot_mem (s : State) (c sl : Nat) (k : Slot) : (putSlot s c sl k).mem = s.mem := rfl
@[simp] theorem putSlot_full (s : State) (c sl : Nat) (k : Slot) : (putSlot s c sl k).full = s.full := rfl
@[simp] theorem putSlot_poison (s : State) (c sl : Nat) (k : Slot) : (putSlot s c sl k).poison = s.poison := rfl
@[simp] theorem putSlot_latent (s : State) (c sl : Nat) (k : Slot) : (putSlot s c sl k).latent = s.latent := rfl
@[simp] theorem putSlot_softErr (s : State) (c sl : Nat) (k : Slot) : (putSlot s c sl k).softErr = s.softErr := rfl
@[simp] theorem putSlot_accMem (s : State) (c sl : Nat) (k : Slot) : (putSlot s c sl k).accMem = s.accMem := rfl
@[simp] theorem putSlot_hostMem (s : State) (c sl : Nat) (k : Slot) : (putSlot s c sl k).hostMem = s.hostMem := rfl
@[simp] theorem putSlot_ccache (s : State) (c sl : Nat) (k : Slot) : (putSlot s c sl k).ccache = s.ccache := rfl
@[simp] theorem putSlot_streams (s : State) (c sl : Nat) (k : Slot) : (putSlot s c sl k).streams = s.streams := rfl
@[simp] theorem putSlot_cores (s : State) (c sl : Nat) (k : Slot) : (putSlot s c sl k).cores = s.cores := rfl
@[simp] theorem putSlot_channels (s : State) (c sl : Nat) (k : Slot) : (putSlot s c sl k).channels = s.channels := rfl
@[simp] theorem putSlot_quads (s : State) (c sl : Nat) (k : Slot) : (putSlot s c sl k).quads = s.quads := rfl
@[simp] theorem putSlot_parts (s : State) (c sl : Nat) (k : Slot) : (putSlot s c sl k).parts = s.parts := rfl
@[simp] theorem putSlot_purses (s : State) (c sl : Nat) (k : Slot) : (putSlot s c sl k).purses = s.purses := rfl
@[simp] theorem putSlot_meters (s : State) (c sl : Nat) (k : Slot) : (putSlot s c sl k).meters = s.meters := rfl
@[simp] theorem putSlot_flushes (s : State) (c sl : Nat) (k : Slot) : (putSlot s c sl k).flushes = s.flushes := rfl
@[simp] theorem putSlot_metered (s : State) (c sl : Nat) (k : Slot) : (putSlot s c sl k).metered = s.metered := rfl
@[simp] theorem putSlot_strandNotice (s : State) (c sl : Nat) (k : Slot) : (putSlot s c sl k).strandNotice = s.strandNotice := rfl
@[simp] theorem putSlot_stranded (s : State) (c sl : Nat) (k : Slot) : (putSlot s c sl k).stranded = s.stranded := rfl
@[simp] theorem putSlot_strandOrder (s : State) (c sl : Nat) (k : Slot) : (putSlot s c sl k).strandOrder = s.strandOrder := rfl
@[simp] theorem putSlot_tvec (s : State) (c sl : Nat) (k : Slot) : (putSlot s c sl k).tvec = s.tvec := rfl
@[simp] theorem putSlot_dbgctl (s : State) (c sl : Nat) (k : Slot) : (putSlot s c sl k).dbgctl = s.dbgctl := rfl
@[simp] theorem putSlot_regs (s : State) (c sl : Nat) (k : Slot) : (putSlot s c sl k).regs = s.regs := rfl
@[simp] theorem putSlot_resvQ (s : State) (c sl : Nat) (k : Slot) : (putSlot s c sl k).resvQ = s.resvQ := rfl
@[simp] theorem putSlot_granWait (s : State) (c sl : Nat) (k : Slot) : (putSlot s c sl k).granWait = s.granWait := rfl
@[simp] theorem putSlot_walks (s : State) (c sl : Nat) (k : Slot) : (putSlot s c sl k).walks = s.walks := rfl
@[simp] theorem putSlot_msgFlight (s : State) (c sl : Nat) (k : Slot) : (putSlot s c sl k).msgFlight = s.msgFlight := rfl
@[simp] theorem putSlot_tmsgs (s : State) (c sl : Nat) (k : Slot) : (putSlot s c sl k).tmsgs = s.tmsgs := rfl
@[simp] theorem putSlot_flights (s : State) (c sl : Nat) (k : Slot) : (putSlot s c sl k).flights = s.flights := rfl
@[simp] theorem putSlot_held (s : State) (c sl : Nat) (k : Slot) : (putSlot s c sl k).held = s.held := rfl
@[simp] theorem putSlot_engWrites (s : State) (c sl : Nat) (k : Slot) : (putSlot s c sl k).engWrites = s.engWrites := rfl
@[simp] theorem putSlot_barEvents (s : State) (c sl : Nat) (k : Slot) : (putSlot s c sl k).barEvents = s.barEvents := rfl
@[simp] theorem putSlot_stripe (s : State) (c sl : Nat) (k : Slot) : (putSlot s c sl k).stripe = s.stripe := rfl
@[simp] theorem putSlot_sets (s : State) (c sl : Nat) (k : Slot) : (putSlot s c sl k).sets = s.sets := rfl
@[simp] theorem putSlot_pages (s : State) (c sl : Nat) (k : Slot) : (putSlot s c sl k).pages = s.pages := rfl
@[simp] theorem putSlot_ownPending (s : State) (c sl : Nat) (k : Slot) : (putSlot s c sl k).ownPending = s.ownPending := rfl
@[simp] theorem putSlot_net (s : State) (c sl : Nat) (k : Slot) : (putSlot s c sl k).net = s.net := rfl
@[simp] theorem putSlot_ports (s : State) (c sl : Nat) (k : Slot) : (putSlot s c sl k).ports = s.ports := rfl
@[simp] theorem putSlot_fw (s : State) (c sl : Nat) (k : Slot) : (putSlot s c sl k).fw = s.fw := rfl
@[simp] theorem putSlot_regWrites (s : State) (c sl : Nat) (k : Slot) : (putSlot s c sl k).regWrites = s.regWrites := rfl
@[simp] theorem putSlot_heartbeat (s : State) (c sl : Nat) (k : Slot) : (putSlot s c sl k).heartbeat = s.heartbeat := rfl
@[simp] theorem putSlot_testing (s : State) (c sl : Nat) (k : Slot) : (putSlot s c sl k).testing = s.testing := rfl
@[simp] theorem putSlot_testFirst (s : State) (c sl : Nat) (k : Slot) : (putSlot s c sl k).testFirst = s.testFirst := rfl
@[simp] theorem putSlot_colRetired (s : State) (c sl : Nat) (k : Slot) : (putSlot s c sl k).colRetired = s.colRetired := rfl
@[simp] theorem putSlot_moves (s : State) (c sl : Nat) (k : Slot) : (putSlot s c sl k).moves = s.moves := rfl
@[simp] theorem putSlot_xlinvQ (s : State) (c sl : Nat) (k : Slot) : (putSlot s c sl k).xlinvQ = s.xlinvQ := rfl
@[simp] theorem putSlot_xlinvOut (s : State) (c sl : Nat) (k : Slot) : (putSlot s c sl k).xlinvOut = s.xlinvOut := rfl
@[simp] theorem putSlot_agenda (s : State) (c sl : Nat) (k : Slot) : (putSlot s c sl k).agenda = s.agenda := rfl
@[simp] theorem putSlot_cur (s : State) (c sl : Nat) (k : Slot) : (putSlot s c sl k).cur = s.cur := rfl
@[simp] theorem putSlot_free (s : State) (c sl : Nat) (k : Slot) : (putSlot s c sl k).free = s.free := rfl
@[simp] theorem putSlot_stalled (s : State) (c sl : Nat) (k : Slot) : (putSlot s c sl k).stalled = s.stalled := rfl

/-! ## updSlot -/

@[simp] theorem updSlot_cycle (s : State) (c sl : Nat) (f : Slot → Slot) : (updSlot s c sl f).cycle = s.cycle := rfl
@[simp] theorem updSlot_ws (s : State) (c sl : Nat) (f : Slot → Slot) : (updSlot s c sl f).ws = s.ws := rfl
@[simp] theorem updSlot_memDom (s : State) (c sl : Nat) (f : Slot → Slot) : (updSlot s c sl f).memDom = s.memDom := rfl
@[simp] theorem updSlot_comp (s : State) (c sl : Nat) (f : Slot → Slot) : (updSlot s c sl f).comp = s.comp := rfl
@[simp] theorem updSlot_still (s : State) (c sl : Nat) (f : Slot → Slot) : (updSlot s c sl f).still = s.still := rfl
@[simp] theorem updSlot_imgOk (s : State) (c sl : Nat) (f : Slot → Slot) : (updSlot s c sl f).imgOk = s.imgOk := rfl
@[simp] theorem updSlot_zeroing (s : State) (c sl : Nat) (f : Slot → Slot) : (updSlot s c sl f).zeroing = s.zeroing := rfl
@[simp] theorem updSlot_srReq (s : State) (c sl : Nat) (f : Slot → Slot) : (updSlot s c sl f).srReq = s.srReq := rfl
@[simp] theorem updSlot_ccFlush (s : State) (c sl : Nat) (f : Slot → Slot) : (updSlot s c sl f).ccFlush = s.ccFlush := rfl
@[simp] theorem updSlot_mem (s : State) (c sl : Nat) (f : Slot → Slot) : (updSlot s c sl f).mem = s.mem := rfl
@[simp] theorem updSlot_full (s : State) (c sl : Nat) (f : Slot → Slot) : (updSlot s c sl f).full = s.full := rfl
@[simp] theorem updSlot_poison (s : State) (c sl : Nat) (f : Slot → Slot) : (updSlot s c sl f).poison = s.poison := rfl
@[simp] theorem updSlot_latent (s : State) (c sl : Nat) (f : Slot → Slot) : (updSlot s c sl f).latent = s.latent := rfl
@[simp] theorem updSlot_softErr (s : State) (c sl : Nat) (f : Slot → Slot) : (updSlot s c sl f).softErr = s.softErr := rfl
@[simp] theorem updSlot_accMem (s : State) (c sl : Nat) (f : Slot → Slot) : (updSlot s c sl f).accMem = s.accMem := rfl
@[simp] theorem updSlot_hostMem (s : State) (c sl : Nat) (f : Slot → Slot) : (updSlot s c sl f).hostMem = s.hostMem := rfl
@[simp] theorem updSlot_ccache (s : State) (c sl : Nat) (f : Slot → Slot) : (updSlot s c sl f).ccache = s.ccache := rfl
@[simp] theorem updSlot_streams (s : State) (c sl : Nat) (f : Slot → Slot) : (updSlot s c sl f).streams = s.streams := rfl
@[simp] theorem updSlot_cores (s : State) (c sl : Nat) (f : Slot → Slot) : (updSlot s c sl f).cores = s.cores := rfl
@[simp] theorem updSlot_channels (s : State) (c sl : Nat) (f : Slot → Slot) : (updSlot s c sl f).channels = s.channels := rfl
@[simp] theorem updSlot_quads (s : State) (c sl : Nat) (f : Slot → Slot) : (updSlot s c sl f).quads = s.quads := rfl
@[simp] theorem updSlot_parts (s : State) (c sl : Nat) (f : Slot → Slot) : (updSlot s c sl f).parts = s.parts := rfl
@[simp] theorem updSlot_purses (s : State) (c sl : Nat) (f : Slot → Slot) : (updSlot s c sl f).purses = s.purses := rfl
@[simp] theorem updSlot_meters (s : State) (c sl : Nat) (f : Slot → Slot) : (updSlot s c sl f).meters = s.meters := rfl
@[simp] theorem updSlot_flushes (s : State) (c sl : Nat) (f : Slot → Slot) : (updSlot s c sl f).flushes = s.flushes := rfl
@[simp] theorem updSlot_metered (s : State) (c sl : Nat) (f : Slot → Slot) : (updSlot s c sl f).metered = s.metered := rfl
@[simp] theorem updSlot_strandNotice (s : State) (c sl : Nat) (f : Slot → Slot) : (updSlot s c sl f).strandNotice = s.strandNotice := rfl
@[simp] theorem updSlot_stranded (s : State) (c sl : Nat) (f : Slot → Slot) : (updSlot s c sl f).stranded = s.stranded := rfl
@[simp] theorem updSlot_strandOrder (s : State) (c sl : Nat) (f : Slot → Slot) : (updSlot s c sl f).strandOrder = s.strandOrder := rfl
@[simp] theorem updSlot_tvec (s : State) (c sl : Nat) (f : Slot → Slot) : (updSlot s c sl f).tvec = s.tvec := rfl
@[simp] theorem updSlot_dbgctl (s : State) (c sl : Nat) (f : Slot → Slot) : (updSlot s c sl f).dbgctl = s.dbgctl := rfl
@[simp] theorem updSlot_regs (s : State) (c sl : Nat) (f : Slot → Slot) : (updSlot s c sl f).regs = s.regs := rfl
@[simp] theorem updSlot_resvQ (s : State) (c sl : Nat) (f : Slot → Slot) : (updSlot s c sl f).resvQ = s.resvQ := rfl
@[simp] theorem updSlot_granWait (s : State) (c sl : Nat) (f : Slot → Slot) : (updSlot s c sl f).granWait = s.granWait := rfl
@[simp] theorem updSlot_walks (s : State) (c sl : Nat) (f : Slot → Slot) : (updSlot s c sl f).walks = s.walks := rfl
@[simp] theorem updSlot_msgFlight (s : State) (c sl : Nat) (f : Slot → Slot) : (updSlot s c sl f).msgFlight = s.msgFlight := rfl
@[simp] theorem updSlot_tmsgs (s : State) (c sl : Nat) (f : Slot → Slot) : (updSlot s c sl f).tmsgs = s.tmsgs := rfl
@[simp] theorem updSlot_flights (s : State) (c sl : Nat) (f : Slot → Slot) : (updSlot s c sl f).flights = s.flights := rfl
@[simp] theorem updSlot_held (s : State) (c sl : Nat) (f : Slot → Slot) : (updSlot s c sl f).held = s.held := rfl
@[simp] theorem updSlot_engWrites (s : State) (c sl : Nat) (f : Slot → Slot) : (updSlot s c sl f).engWrites = s.engWrites := rfl
@[simp] theorem updSlot_barEvents (s : State) (c sl : Nat) (f : Slot → Slot) : (updSlot s c sl f).barEvents = s.barEvents := rfl
@[simp] theorem updSlot_stripe (s : State) (c sl : Nat) (f : Slot → Slot) : (updSlot s c sl f).stripe = s.stripe := rfl
@[simp] theorem updSlot_sets (s : State) (c sl : Nat) (f : Slot → Slot) : (updSlot s c sl f).sets = s.sets := rfl
@[simp] theorem updSlot_pages (s : State) (c sl : Nat) (f : Slot → Slot) : (updSlot s c sl f).pages = s.pages := rfl
@[simp] theorem updSlot_ownPending (s : State) (c sl : Nat) (f : Slot → Slot) : (updSlot s c sl f).ownPending = s.ownPending := rfl
@[simp] theorem updSlot_net (s : State) (c sl : Nat) (f : Slot → Slot) : (updSlot s c sl f).net = s.net := rfl
@[simp] theorem updSlot_ports (s : State) (c sl : Nat) (f : Slot → Slot) : (updSlot s c sl f).ports = s.ports := rfl
@[simp] theorem updSlot_fw (s : State) (c sl : Nat) (f : Slot → Slot) : (updSlot s c sl f).fw = s.fw := rfl
@[simp] theorem updSlot_regWrites (s : State) (c sl : Nat) (f : Slot → Slot) : (updSlot s c sl f).regWrites = s.regWrites := rfl
@[simp] theorem updSlot_heartbeat (s : State) (c sl : Nat) (f : Slot → Slot) : (updSlot s c sl f).heartbeat = s.heartbeat := rfl
@[simp] theorem updSlot_testing (s : State) (c sl : Nat) (f : Slot → Slot) : (updSlot s c sl f).testing = s.testing := rfl
@[simp] theorem updSlot_testFirst (s : State) (c sl : Nat) (f : Slot → Slot) : (updSlot s c sl f).testFirst = s.testFirst := rfl
@[simp] theorem updSlot_colRetired (s : State) (c sl : Nat) (f : Slot → Slot) : (updSlot s c sl f).colRetired = s.colRetired := rfl
@[simp] theorem updSlot_moves (s : State) (c sl : Nat) (f : Slot → Slot) : (updSlot s c sl f).moves = s.moves := rfl
@[simp] theorem updSlot_xlinvQ (s : State) (c sl : Nat) (f : Slot → Slot) : (updSlot s c sl f).xlinvQ = s.xlinvQ := rfl
@[simp] theorem updSlot_xlinvOut (s : State) (c sl : Nat) (f : Slot → Slot) : (updSlot s c sl f).xlinvOut = s.xlinvOut := rfl
@[simp] theorem updSlot_agenda (s : State) (c sl : Nat) (f : Slot → Slot) : (updSlot s c sl f).agenda = s.agenda := rfl
@[simp] theorem updSlot_cur (s : State) (c sl : Nat) (f : Slot → Slot) : (updSlot s c sl f).cur = s.cur := rfl
@[simp] theorem updSlot_free (s : State) (c sl : Nat) (f : Slot → Slot) : (updSlot s c sl f).free = s.free := rfl
@[simp] theorem updSlot_stalled (s : State) (c sl : Nat) (f : Slot → Slot) : (updSlot s c sl f).stalled = s.stalled := rfl

/-! ## putStream -/

@[simp] theorem putStream_cycle (s : State) (c : Nat) (x : Bool) (k : Stream) : (putStream s c x k).cycle = s.cycle := rfl
@[simp] theorem putStream_ws (s : State) (c : Nat) (x : Bool) (k : Stream) : (putStream s c x k).ws = s.ws := rfl
@[simp] theorem putStream_memDom (s : State) (c : Nat) (x : Bool) (k : Stream) : (putStream s c x k).memDom = s.memDom := rfl
@[simp] theorem putStream_comp (s : State) (c : Nat) (x : Bool) (k : Stream) : (putStream s c x k).comp = s.comp := rfl
@[simp] theorem putStream_still (s : State) (c : Nat) (x : Bool) (k : Stream) : (putStream s c x k).still = s.still := rfl
@[simp] theorem putStream_imgOk (s : State) (c : Nat) (x : Bool) (k : Stream) : (putStream s c x k).imgOk = s.imgOk := rfl
@[simp] theorem putStream_zeroing (s : State) (c : Nat) (x : Bool) (k : Stream) : (putStream s c x k).zeroing = s.zeroing := rfl
@[simp] theorem putStream_srReq (s : State) (c : Nat) (x : Bool) (k : Stream) : (putStream s c x k).srReq = s.srReq := rfl
@[simp] theorem putStream_ccFlush (s : State) (c : Nat) (x : Bool) (k : Stream) : (putStream s c x k).ccFlush = s.ccFlush := rfl
@[simp] theorem putStream_mem (s : State) (c : Nat) (x : Bool) (k : Stream) : (putStream s c x k).mem = s.mem := rfl
@[simp] theorem putStream_full (s : State) (c : Nat) (x : Bool) (k : Stream) : (putStream s c x k).full = s.full := rfl
@[simp] theorem putStream_poison (s : State) (c : Nat) (x : Bool) (k : Stream) : (putStream s c x k).poison = s.poison := rfl
@[simp] theorem putStream_latent (s : State) (c : Nat) (x : Bool) (k : Stream) : (putStream s c x k).latent = s.latent := rfl
@[simp] theorem putStream_softErr (s : State) (c : Nat) (x : Bool) (k : Stream) : (putStream s c x k).softErr = s.softErr := rfl
@[simp] theorem putStream_accMem (s : State) (c : Nat) (x : Bool) (k : Stream) : (putStream s c x k).accMem = s.accMem := rfl
@[simp] theorem putStream_hostMem (s : State) (c : Nat) (x : Bool) (k : Stream) : (putStream s c x k).hostMem = s.hostMem := rfl
@[simp] theorem putStream_ccache (s : State) (c : Nat) (x : Bool) (k : Stream) : (putStream s c x k).ccache = s.ccache := rfl
@[simp] theorem putStream_slots (s : State) (c : Nat) (x : Bool) (k : Stream) : (putStream s c x k).slots = s.slots := rfl
@[simp] theorem putStream_cores (s : State) (c : Nat) (x : Bool) (k : Stream) : (putStream s c x k).cores = s.cores := rfl
@[simp] theorem putStream_channels (s : State) (c : Nat) (x : Bool) (k : Stream) : (putStream s c x k).channels = s.channels := rfl
@[simp] theorem putStream_quads (s : State) (c : Nat) (x : Bool) (k : Stream) : (putStream s c x k).quads = s.quads := rfl
@[simp] theorem putStream_parts (s : State) (c : Nat) (x : Bool) (k : Stream) : (putStream s c x k).parts = s.parts := rfl
@[simp] theorem putStream_purses (s : State) (c : Nat) (x : Bool) (k : Stream) : (putStream s c x k).purses = s.purses := rfl
@[simp] theorem putStream_meters (s : State) (c : Nat) (x : Bool) (k : Stream) : (putStream s c x k).meters = s.meters := rfl
@[simp] theorem putStream_flushes (s : State) (c : Nat) (x : Bool) (k : Stream) : (putStream s c x k).flushes = s.flushes := rfl
@[simp] theorem putStream_metered (s : State) (c : Nat) (x : Bool) (k : Stream) : (putStream s c x k).metered = s.metered := rfl
@[simp] theorem putStream_strandNotice (s : State) (c : Nat) (x : Bool) (k : Stream) : (putStream s c x k).strandNotice = s.strandNotice := rfl
@[simp] theorem putStream_stranded (s : State) (c : Nat) (x : Bool) (k : Stream) : (putStream s c x k).stranded = s.stranded := rfl
@[simp] theorem putStream_strandOrder (s : State) (c : Nat) (x : Bool) (k : Stream) : (putStream s c x k).strandOrder = s.strandOrder := rfl
@[simp] theorem putStream_tvec (s : State) (c : Nat) (x : Bool) (k : Stream) : (putStream s c x k).tvec = s.tvec := rfl
@[simp] theorem putStream_dbgctl (s : State) (c : Nat) (x : Bool) (k : Stream) : (putStream s c x k).dbgctl = s.dbgctl := rfl
@[simp] theorem putStream_regs (s : State) (c : Nat) (x : Bool) (k : Stream) : (putStream s c x k).regs = s.regs := rfl
@[simp] theorem putStream_resvQ (s : State) (c : Nat) (x : Bool) (k : Stream) : (putStream s c x k).resvQ = s.resvQ := rfl
@[simp] theorem putStream_granWait (s : State) (c : Nat) (x : Bool) (k : Stream) : (putStream s c x k).granWait = s.granWait := rfl
@[simp] theorem putStream_walks (s : State) (c : Nat) (x : Bool) (k : Stream) : (putStream s c x k).walks = s.walks := rfl
@[simp] theorem putStream_msgFlight (s : State) (c : Nat) (x : Bool) (k : Stream) : (putStream s c x k).msgFlight = s.msgFlight := rfl
@[simp] theorem putStream_tmsgs (s : State) (c : Nat) (x : Bool) (k : Stream) : (putStream s c x k).tmsgs = s.tmsgs := rfl
@[simp] theorem putStream_flights (s : State) (c : Nat) (x : Bool) (k : Stream) : (putStream s c x k).flights = s.flights := rfl
@[simp] theorem putStream_held (s : State) (c : Nat) (x : Bool) (k : Stream) : (putStream s c x k).held = s.held := rfl
@[simp] theorem putStream_engWrites (s : State) (c : Nat) (x : Bool) (k : Stream) : (putStream s c x k).engWrites = s.engWrites := rfl
@[simp] theorem putStream_barEvents (s : State) (c : Nat) (x : Bool) (k : Stream) : (putStream s c x k).barEvents = s.barEvents := rfl
@[simp] theorem putStream_stripe (s : State) (c : Nat) (x : Bool) (k : Stream) : (putStream s c x k).stripe = s.stripe := rfl
@[simp] theorem putStream_sets (s : State) (c : Nat) (x : Bool) (k : Stream) : (putStream s c x k).sets = s.sets := rfl
@[simp] theorem putStream_pages (s : State) (c : Nat) (x : Bool) (k : Stream) : (putStream s c x k).pages = s.pages := rfl
@[simp] theorem putStream_ownPending (s : State) (c : Nat) (x : Bool) (k : Stream) : (putStream s c x k).ownPending = s.ownPending := rfl
@[simp] theorem putStream_net (s : State) (c : Nat) (x : Bool) (k : Stream) : (putStream s c x k).net = s.net := rfl
@[simp] theorem putStream_ports (s : State) (c : Nat) (x : Bool) (k : Stream) : (putStream s c x k).ports = s.ports := rfl
@[simp] theorem putStream_fw (s : State) (c : Nat) (x : Bool) (k : Stream) : (putStream s c x k).fw = s.fw := rfl
@[simp] theorem putStream_regWrites (s : State) (c : Nat) (x : Bool) (k : Stream) : (putStream s c x k).regWrites = s.regWrites := rfl
@[simp] theorem putStream_heartbeat (s : State) (c : Nat) (x : Bool) (k : Stream) : (putStream s c x k).heartbeat = s.heartbeat := rfl
@[simp] theorem putStream_testing (s : State) (c : Nat) (x : Bool) (k : Stream) : (putStream s c x k).testing = s.testing := rfl
@[simp] theorem putStream_testFirst (s : State) (c : Nat) (x : Bool) (k : Stream) : (putStream s c x k).testFirst = s.testFirst := rfl
@[simp] theorem putStream_colRetired (s : State) (c : Nat) (x : Bool) (k : Stream) : (putStream s c x k).colRetired = s.colRetired := rfl
@[simp] theorem putStream_moves (s : State) (c : Nat) (x : Bool) (k : Stream) : (putStream s c x k).moves = s.moves := rfl
@[simp] theorem putStream_xlinvQ (s : State) (c : Nat) (x : Bool) (k : Stream) : (putStream s c x k).xlinvQ = s.xlinvQ := rfl
@[simp] theorem putStream_xlinvOut (s : State) (c : Nat) (x : Bool) (k : Stream) : (putStream s c x k).xlinvOut = s.xlinvOut := rfl
@[simp] theorem putStream_agenda (s : State) (c : Nat) (x : Bool) (k : Stream) : (putStream s c x k).agenda = s.agenda := rfl
@[simp] theorem putStream_cur (s : State) (c : Nat) (x : Bool) (k : Stream) : (putStream s c x k).cur = s.cur := rfl
@[simp] theorem putStream_free (s : State) (c : Nat) (x : Bool) (k : Stream) : (putStream s c x k).free = s.free := rfl
@[simp] theorem putStream_stalled (s : State) (c : Nat) (x : Bool) (k : Stream) : (putStream s c x k).stalled = s.stalled := rfl

/-! ## updStream -/

@[simp] theorem updStream_cycle (s : State) (c : Nat) (x : Bool) (f : Stream → Stream) : (updStream s c x f).cycle = s.cycle := rfl
@[simp] theorem updStream_ws (s : State) (c : Nat) (x : Bool) (f : Stream → Stream) : (updStream s c x f).ws = s.ws := rfl
@[simp] theorem updStream_memDom (s : State) (c : Nat) (x : Bool) (f : Stream → Stream) : (updStream s c x f).memDom = s.memDom := rfl
@[simp] theorem updStream_comp (s : State) (c : Nat) (x : Bool) (f : Stream → Stream) : (updStream s c x f).comp = s.comp := rfl
@[simp] theorem updStream_still (s : State) (c : Nat) (x : Bool) (f : Stream → Stream) : (updStream s c x f).still = s.still := rfl
@[simp] theorem updStream_imgOk (s : State) (c : Nat) (x : Bool) (f : Stream → Stream) : (updStream s c x f).imgOk = s.imgOk := rfl
@[simp] theorem updStream_zeroing (s : State) (c : Nat) (x : Bool) (f : Stream → Stream) : (updStream s c x f).zeroing = s.zeroing := rfl
@[simp] theorem updStream_srReq (s : State) (c : Nat) (x : Bool) (f : Stream → Stream) : (updStream s c x f).srReq = s.srReq := rfl
@[simp] theorem updStream_ccFlush (s : State) (c : Nat) (x : Bool) (f : Stream → Stream) : (updStream s c x f).ccFlush = s.ccFlush := rfl
@[simp] theorem updStream_mem (s : State) (c : Nat) (x : Bool) (f : Stream → Stream) : (updStream s c x f).mem = s.mem := rfl
@[simp] theorem updStream_full (s : State) (c : Nat) (x : Bool) (f : Stream → Stream) : (updStream s c x f).full = s.full := rfl
@[simp] theorem updStream_poison (s : State) (c : Nat) (x : Bool) (f : Stream → Stream) : (updStream s c x f).poison = s.poison := rfl
@[simp] theorem updStream_latent (s : State) (c : Nat) (x : Bool) (f : Stream → Stream) : (updStream s c x f).latent = s.latent := rfl
@[simp] theorem updStream_softErr (s : State) (c : Nat) (x : Bool) (f : Stream → Stream) : (updStream s c x f).softErr = s.softErr := rfl
@[simp] theorem updStream_accMem (s : State) (c : Nat) (x : Bool) (f : Stream → Stream) : (updStream s c x f).accMem = s.accMem := rfl
@[simp] theorem updStream_hostMem (s : State) (c : Nat) (x : Bool) (f : Stream → Stream) : (updStream s c x f).hostMem = s.hostMem := rfl
@[simp] theorem updStream_ccache (s : State) (c : Nat) (x : Bool) (f : Stream → Stream) : (updStream s c x f).ccache = s.ccache := rfl
@[simp] theorem updStream_slots (s : State) (c : Nat) (x : Bool) (f : Stream → Stream) : (updStream s c x f).slots = s.slots := rfl
@[simp] theorem updStream_cores (s : State) (c : Nat) (x : Bool) (f : Stream → Stream) : (updStream s c x f).cores = s.cores := rfl
@[simp] theorem updStream_channels (s : State) (c : Nat) (x : Bool) (f : Stream → Stream) : (updStream s c x f).channels = s.channels := rfl
@[simp] theorem updStream_quads (s : State) (c : Nat) (x : Bool) (f : Stream → Stream) : (updStream s c x f).quads = s.quads := rfl
@[simp] theorem updStream_parts (s : State) (c : Nat) (x : Bool) (f : Stream → Stream) : (updStream s c x f).parts = s.parts := rfl
@[simp] theorem updStream_purses (s : State) (c : Nat) (x : Bool) (f : Stream → Stream) : (updStream s c x f).purses = s.purses := rfl
@[simp] theorem updStream_meters (s : State) (c : Nat) (x : Bool) (f : Stream → Stream) : (updStream s c x f).meters = s.meters := rfl
@[simp] theorem updStream_flushes (s : State) (c : Nat) (x : Bool) (f : Stream → Stream) : (updStream s c x f).flushes = s.flushes := rfl
@[simp] theorem updStream_metered (s : State) (c : Nat) (x : Bool) (f : Stream → Stream) : (updStream s c x f).metered = s.metered := rfl
@[simp] theorem updStream_strandNotice (s : State) (c : Nat) (x : Bool) (f : Stream → Stream) : (updStream s c x f).strandNotice = s.strandNotice := rfl
@[simp] theorem updStream_stranded (s : State) (c : Nat) (x : Bool) (f : Stream → Stream) : (updStream s c x f).stranded = s.stranded := rfl
@[simp] theorem updStream_strandOrder (s : State) (c : Nat) (x : Bool) (f : Stream → Stream) : (updStream s c x f).strandOrder = s.strandOrder := rfl
@[simp] theorem updStream_tvec (s : State) (c : Nat) (x : Bool) (f : Stream → Stream) : (updStream s c x f).tvec = s.tvec := rfl
@[simp] theorem updStream_dbgctl (s : State) (c : Nat) (x : Bool) (f : Stream → Stream) : (updStream s c x f).dbgctl = s.dbgctl := rfl
@[simp] theorem updStream_regs (s : State) (c : Nat) (x : Bool) (f : Stream → Stream) : (updStream s c x f).regs = s.regs := rfl
@[simp] theorem updStream_resvQ (s : State) (c : Nat) (x : Bool) (f : Stream → Stream) : (updStream s c x f).resvQ = s.resvQ := rfl
@[simp] theorem updStream_granWait (s : State) (c : Nat) (x : Bool) (f : Stream → Stream) : (updStream s c x f).granWait = s.granWait := rfl
@[simp] theorem updStream_walks (s : State) (c : Nat) (x : Bool) (f : Stream → Stream) : (updStream s c x f).walks = s.walks := rfl
@[simp] theorem updStream_msgFlight (s : State) (c : Nat) (x : Bool) (f : Stream → Stream) : (updStream s c x f).msgFlight = s.msgFlight := rfl
@[simp] theorem updStream_tmsgs (s : State) (c : Nat) (x : Bool) (f : Stream → Stream) : (updStream s c x f).tmsgs = s.tmsgs := rfl
@[simp] theorem updStream_flights (s : State) (c : Nat) (x : Bool) (f : Stream → Stream) : (updStream s c x f).flights = s.flights := rfl
@[simp] theorem updStream_held (s : State) (c : Nat) (x : Bool) (f : Stream → Stream) : (updStream s c x f).held = s.held := rfl
@[simp] theorem updStream_engWrites (s : State) (c : Nat) (x : Bool) (f : Stream → Stream) : (updStream s c x f).engWrites = s.engWrites := rfl
@[simp] theorem updStream_barEvents (s : State) (c : Nat) (x : Bool) (f : Stream → Stream) : (updStream s c x f).barEvents = s.barEvents := rfl
@[simp] theorem updStream_stripe (s : State) (c : Nat) (x : Bool) (f : Stream → Stream) : (updStream s c x f).stripe = s.stripe := rfl
@[simp] theorem updStream_sets (s : State) (c : Nat) (x : Bool) (f : Stream → Stream) : (updStream s c x f).sets = s.sets := rfl
@[simp] theorem updStream_pages (s : State) (c : Nat) (x : Bool) (f : Stream → Stream) : (updStream s c x f).pages = s.pages := rfl
@[simp] theorem updStream_ownPending (s : State) (c : Nat) (x : Bool) (f : Stream → Stream) : (updStream s c x f).ownPending = s.ownPending := rfl
@[simp] theorem updStream_net (s : State) (c : Nat) (x : Bool) (f : Stream → Stream) : (updStream s c x f).net = s.net := rfl
@[simp] theorem updStream_ports (s : State) (c : Nat) (x : Bool) (f : Stream → Stream) : (updStream s c x f).ports = s.ports := rfl
@[simp] theorem updStream_fw (s : State) (c : Nat) (x : Bool) (f : Stream → Stream) : (updStream s c x f).fw = s.fw := rfl
@[simp] theorem updStream_regWrites (s : State) (c : Nat) (x : Bool) (f : Stream → Stream) : (updStream s c x f).regWrites = s.regWrites := rfl
@[simp] theorem updStream_heartbeat (s : State) (c : Nat) (x : Bool) (f : Stream → Stream) : (updStream s c x f).heartbeat = s.heartbeat := rfl
@[simp] theorem updStream_testing (s : State) (c : Nat) (x : Bool) (f : Stream → Stream) : (updStream s c x f).testing = s.testing := rfl
@[simp] theorem updStream_testFirst (s : State) (c : Nat) (x : Bool) (f : Stream → Stream) : (updStream s c x f).testFirst = s.testFirst := rfl
@[simp] theorem updStream_colRetired (s : State) (c : Nat) (x : Bool) (f : Stream → Stream) : (updStream s c x f).colRetired = s.colRetired := rfl
@[simp] theorem updStream_moves (s : State) (c : Nat) (x : Bool) (f : Stream → Stream) : (updStream s c x f).moves = s.moves := rfl
@[simp] theorem updStream_xlinvQ (s : State) (c : Nat) (x : Bool) (f : Stream → Stream) : (updStream s c x f).xlinvQ = s.xlinvQ := rfl
@[simp] theorem updStream_xlinvOut (s : State) (c : Nat) (x : Bool) (f : Stream → Stream) : (updStream s c x f).xlinvOut = s.xlinvOut := rfl
@[simp] theorem updStream_agenda (s : State) (c : Nat) (x : Bool) (f : Stream → Stream) : (updStream s c x f).agenda = s.agenda := rfl
@[simp] theorem updStream_cur (s : State) (c : Nat) (x : Bool) (f : Stream → Stream) : (updStream s c x f).cur = s.cur := rfl
@[simp] theorem updStream_free (s : State) (c : Nat) (x : Bool) (f : Stream → Stream) : (updStream s c x f).free = s.free := rfl
@[simp] theorem updStream_stalled (s : State) (c : Nat) (x : Bool) (f : Stream → Stream) : (updStream s c x f).stalled = s.stalled := rfl

/-! ## putCore -/

@[simp] theorem putCore_cycle (s : State) (c : Nat) (k : Core) : (putCore s c k).cycle = s.cycle := rfl
@[simp] theorem putCore_ws (s : State) (c : Nat) (k : Core) : (putCore s c k).ws = s.ws := rfl
@[simp] theorem putCore_memDom (s : State) (c : Nat) (k : Core) : (putCore s c k).memDom = s.memDom := rfl
@[simp] theorem putCore_comp (s : State) (c : Nat) (k : Core) : (putCore s c k).comp = s.comp := rfl
@[simp] theorem putCore_still (s : State) (c : Nat) (k : Core) : (putCore s c k).still = s.still := rfl
@[simp] theorem putCore_imgOk (s : State) (c : Nat) (k : Core) : (putCore s c k).imgOk = s.imgOk := rfl
@[simp] theorem putCore_zeroing (s : State) (c : Nat) (k : Core) : (putCore s c k).zeroing = s.zeroing := rfl
@[simp] theorem putCore_srReq (s : State) (c : Nat) (k : Core) : (putCore s c k).srReq = s.srReq := rfl
@[simp] theorem putCore_ccFlush (s : State) (c : Nat) (k : Core) : (putCore s c k).ccFlush = s.ccFlush := rfl
@[simp] theorem putCore_mem (s : State) (c : Nat) (k : Core) : (putCore s c k).mem = s.mem := rfl
@[simp] theorem putCore_full (s : State) (c : Nat) (k : Core) : (putCore s c k).full = s.full := rfl
@[simp] theorem putCore_poison (s : State) (c : Nat) (k : Core) : (putCore s c k).poison = s.poison := rfl
@[simp] theorem putCore_latent (s : State) (c : Nat) (k : Core) : (putCore s c k).latent = s.latent := rfl
@[simp] theorem putCore_softErr (s : State) (c : Nat) (k : Core) : (putCore s c k).softErr = s.softErr := rfl
@[simp] theorem putCore_accMem (s : State) (c : Nat) (k : Core) : (putCore s c k).accMem = s.accMem := rfl
@[simp] theorem putCore_hostMem (s : State) (c : Nat) (k : Core) : (putCore s c k).hostMem = s.hostMem := rfl
@[simp] theorem putCore_ccache (s : State) (c : Nat) (k : Core) : (putCore s c k).ccache = s.ccache := rfl
@[simp] theorem putCore_streams (s : State) (c : Nat) (k : Core) : (putCore s c k).streams = s.streams := rfl
@[simp] theorem putCore_slots (s : State) (c : Nat) (k : Core) : (putCore s c k).slots = s.slots := rfl
@[simp] theorem putCore_channels (s : State) (c : Nat) (k : Core) : (putCore s c k).channels = s.channels := rfl
@[simp] theorem putCore_quads (s : State) (c : Nat) (k : Core) : (putCore s c k).quads = s.quads := rfl
@[simp] theorem putCore_parts (s : State) (c : Nat) (k : Core) : (putCore s c k).parts = s.parts := rfl
@[simp] theorem putCore_purses (s : State) (c : Nat) (k : Core) : (putCore s c k).purses = s.purses := rfl
@[simp] theorem putCore_meters (s : State) (c : Nat) (k : Core) : (putCore s c k).meters = s.meters := rfl
@[simp] theorem putCore_flushes (s : State) (c : Nat) (k : Core) : (putCore s c k).flushes = s.flushes := rfl
@[simp] theorem putCore_metered (s : State) (c : Nat) (k : Core) : (putCore s c k).metered = s.metered := rfl
@[simp] theorem putCore_strandNotice (s : State) (c : Nat) (k : Core) : (putCore s c k).strandNotice = s.strandNotice := rfl
@[simp] theorem putCore_stranded (s : State) (c : Nat) (k : Core) : (putCore s c k).stranded = s.stranded := rfl
@[simp] theorem putCore_strandOrder (s : State) (c : Nat) (k : Core) : (putCore s c k).strandOrder = s.strandOrder := rfl
@[simp] theorem putCore_tvec (s : State) (c : Nat) (k : Core) : (putCore s c k).tvec = s.tvec := rfl
@[simp] theorem putCore_dbgctl (s : State) (c : Nat) (k : Core) : (putCore s c k).dbgctl = s.dbgctl := rfl
@[simp] theorem putCore_regs (s : State) (c : Nat) (k : Core) : (putCore s c k).regs = s.regs := rfl
@[simp] theorem putCore_resvQ (s : State) (c : Nat) (k : Core) : (putCore s c k).resvQ = s.resvQ := rfl
@[simp] theorem putCore_granWait (s : State) (c : Nat) (k : Core) : (putCore s c k).granWait = s.granWait := rfl
@[simp] theorem putCore_walks (s : State) (c : Nat) (k : Core) : (putCore s c k).walks = s.walks := rfl
@[simp] theorem putCore_msgFlight (s : State) (c : Nat) (k : Core) : (putCore s c k).msgFlight = s.msgFlight := rfl
@[simp] theorem putCore_tmsgs (s : State) (c : Nat) (k : Core) : (putCore s c k).tmsgs = s.tmsgs := rfl
@[simp] theorem putCore_flights (s : State) (c : Nat) (k : Core) : (putCore s c k).flights = s.flights := rfl
@[simp] theorem putCore_held (s : State) (c : Nat) (k : Core) : (putCore s c k).held = s.held := rfl
@[simp] theorem putCore_engWrites (s : State) (c : Nat) (k : Core) : (putCore s c k).engWrites = s.engWrites := rfl
@[simp] theorem putCore_barEvents (s : State) (c : Nat) (k : Core) : (putCore s c k).barEvents = s.barEvents := rfl
@[simp] theorem putCore_stripe (s : State) (c : Nat) (k : Core) : (putCore s c k).stripe = s.stripe := rfl
@[simp] theorem putCore_sets (s : State) (c : Nat) (k : Core) : (putCore s c k).sets = s.sets := rfl
@[simp] theorem putCore_pages (s : State) (c : Nat) (k : Core) : (putCore s c k).pages = s.pages := rfl
@[simp] theorem putCore_ownPending (s : State) (c : Nat) (k : Core) : (putCore s c k).ownPending = s.ownPending := rfl
@[simp] theorem putCore_net (s : State) (c : Nat) (k : Core) : (putCore s c k).net = s.net := rfl
@[simp] theorem putCore_ports (s : State) (c : Nat) (k : Core) : (putCore s c k).ports = s.ports := rfl
@[simp] theorem putCore_fw (s : State) (c : Nat) (k : Core) : (putCore s c k).fw = s.fw := rfl
@[simp] theorem putCore_regWrites (s : State) (c : Nat) (k : Core) : (putCore s c k).regWrites = s.regWrites := rfl
@[simp] theorem putCore_heartbeat (s : State) (c : Nat) (k : Core) : (putCore s c k).heartbeat = s.heartbeat := rfl
@[simp] theorem putCore_testing (s : State) (c : Nat) (k : Core) : (putCore s c k).testing = s.testing := rfl
@[simp] theorem putCore_testFirst (s : State) (c : Nat) (k : Core) : (putCore s c k).testFirst = s.testFirst := rfl
@[simp] theorem putCore_colRetired (s : State) (c : Nat) (k : Core) : (putCore s c k).colRetired = s.colRetired := rfl
@[simp] theorem putCore_moves (s : State) (c : Nat) (k : Core) : (putCore s c k).moves = s.moves := rfl
@[simp] theorem putCore_xlinvQ (s : State) (c : Nat) (k : Core) : (putCore s c k).xlinvQ = s.xlinvQ := rfl
@[simp] theorem putCore_xlinvOut (s : State) (c : Nat) (k : Core) : (putCore s c k).xlinvOut = s.xlinvOut := rfl
@[simp] theorem putCore_agenda (s : State) (c : Nat) (k : Core) : (putCore s c k).agenda = s.agenda := rfl
@[simp] theorem putCore_cur (s : State) (c : Nat) (k : Core) : (putCore s c k).cur = s.cur := rfl
@[simp] theorem putCore_free (s : State) (c : Nat) (k : Core) : (putCore s c k).free = s.free := rfl
@[simp] theorem putCore_stalled (s : State) (c : Nat) (k : Core) : (putCore s c k).stalled = s.stalled := rfl

/-! ## updCore -/

@[simp] theorem updCore_cycle (s : State) (c : Nat) (f : Core → Core) : (updCore s c f).cycle = s.cycle := rfl
@[simp] theorem updCore_ws (s : State) (c : Nat) (f : Core → Core) : (updCore s c f).ws = s.ws := rfl
@[simp] theorem updCore_memDom (s : State) (c : Nat) (f : Core → Core) : (updCore s c f).memDom = s.memDom := rfl
@[simp] theorem updCore_comp (s : State) (c : Nat) (f : Core → Core) : (updCore s c f).comp = s.comp := rfl
@[simp] theorem updCore_still (s : State) (c : Nat) (f : Core → Core) : (updCore s c f).still = s.still := rfl
@[simp] theorem updCore_imgOk (s : State) (c : Nat) (f : Core → Core) : (updCore s c f).imgOk = s.imgOk := rfl
@[simp] theorem updCore_zeroing (s : State) (c : Nat) (f : Core → Core) : (updCore s c f).zeroing = s.zeroing := rfl
@[simp] theorem updCore_srReq (s : State) (c : Nat) (f : Core → Core) : (updCore s c f).srReq = s.srReq := rfl
@[simp] theorem updCore_ccFlush (s : State) (c : Nat) (f : Core → Core) : (updCore s c f).ccFlush = s.ccFlush := rfl
@[simp] theorem updCore_mem (s : State) (c : Nat) (f : Core → Core) : (updCore s c f).mem = s.mem := rfl
@[simp] theorem updCore_full (s : State) (c : Nat) (f : Core → Core) : (updCore s c f).full = s.full := rfl
@[simp] theorem updCore_poison (s : State) (c : Nat) (f : Core → Core) : (updCore s c f).poison = s.poison := rfl
@[simp] theorem updCore_latent (s : State) (c : Nat) (f : Core → Core) : (updCore s c f).latent = s.latent := rfl
@[simp] theorem updCore_softErr (s : State) (c : Nat) (f : Core → Core) : (updCore s c f).softErr = s.softErr := rfl
@[simp] theorem updCore_accMem (s : State) (c : Nat) (f : Core → Core) : (updCore s c f).accMem = s.accMem := rfl
@[simp] theorem updCore_hostMem (s : State) (c : Nat) (f : Core → Core) : (updCore s c f).hostMem = s.hostMem := rfl
@[simp] theorem updCore_ccache (s : State) (c : Nat) (f : Core → Core) : (updCore s c f).ccache = s.ccache := rfl
@[simp] theorem updCore_streams (s : State) (c : Nat) (f : Core → Core) : (updCore s c f).streams = s.streams := rfl
@[simp] theorem updCore_slots (s : State) (c : Nat) (f : Core → Core) : (updCore s c f).slots = s.slots := rfl
@[simp] theorem updCore_channels (s : State) (c : Nat) (f : Core → Core) : (updCore s c f).channels = s.channels := rfl
@[simp] theorem updCore_quads (s : State) (c : Nat) (f : Core → Core) : (updCore s c f).quads = s.quads := rfl
@[simp] theorem updCore_parts (s : State) (c : Nat) (f : Core → Core) : (updCore s c f).parts = s.parts := rfl
@[simp] theorem updCore_purses (s : State) (c : Nat) (f : Core → Core) : (updCore s c f).purses = s.purses := rfl
@[simp] theorem updCore_meters (s : State) (c : Nat) (f : Core → Core) : (updCore s c f).meters = s.meters := rfl
@[simp] theorem updCore_flushes (s : State) (c : Nat) (f : Core → Core) : (updCore s c f).flushes = s.flushes := rfl
@[simp] theorem updCore_metered (s : State) (c : Nat) (f : Core → Core) : (updCore s c f).metered = s.metered := rfl
@[simp] theorem updCore_strandNotice (s : State) (c : Nat) (f : Core → Core) : (updCore s c f).strandNotice = s.strandNotice := rfl
@[simp] theorem updCore_stranded (s : State) (c : Nat) (f : Core → Core) : (updCore s c f).stranded = s.stranded := rfl
@[simp] theorem updCore_strandOrder (s : State) (c : Nat) (f : Core → Core) : (updCore s c f).strandOrder = s.strandOrder := rfl
@[simp] theorem updCore_tvec (s : State) (c : Nat) (f : Core → Core) : (updCore s c f).tvec = s.tvec := rfl
@[simp] theorem updCore_dbgctl (s : State) (c : Nat) (f : Core → Core) : (updCore s c f).dbgctl = s.dbgctl := rfl
@[simp] theorem updCore_regs (s : State) (c : Nat) (f : Core → Core) : (updCore s c f).regs = s.regs := rfl
@[simp] theorem updCore_resvQ (s : State) (c : Nat) (f : Core → Core) : (updCore s c f).resvQ = s.resvQ := rfl
@[simp] theorem updCore_granWait (s : State) (c : Nat) (f : Core → Core) : (updCore s c f).granWait = s.granWait := rfl
@[simp] theorem updCore_walks (s : State) (c : Nat) (f : Core → Core) : (updCore s c f).walks = s.walks := rfl
@[simp] theorem updCore_msgFlight (s : State) (c : Nat) (f : Core → Core) : (updCore s c f).msgFlight = s.msgFlight := rfl
@[simp] theorem updCore_tmsgs (s : State) (c : Nat) (f : Core → Core) : (updCore s c f).tmsgs = s.tmsgs := rfl
@[simp] theorem updCore_flights (s : State) (c : Nat) (f : Core → Core) : (updCore s c f).flights = s.flights := rfl
@[simp] theorem updCore_held (s : State) (c : Nat) (f : Core → Core) : (updCore s c f).held = s.held := rfl
@[simp] theorem updCore_engWrites (s : State) (c : Nat) (f : Core → Core) : (updCore s c f).engWrites = s.engWrites := rfl
@[simp] theorem updCore_barEvents (s : State) (c : Nat) (f : Core → Core) : (updCore s c f).barEvents = s.barEvents := rfl
@[simp] theorem updCore_stripe (s : State) (c : Nat) (f : Core → Core) : (updCore s c f).stripe = s.stripe := rfl
@[simp] theorem updCore_sets (s : State) (c : Nat) (f : Core → Core) : (updCore s c f).sets = s.sets := rfl
@[simp] theorem updCore_pages (s : State) (c : Nat) (f : Core → Core) : (updCore s c f).pages = s.pages := rfl
@[simp] theorem updCore_ownPending (s : State) (c : Nat) (f : Core → Core) : (updCore s c f).ownPending = s.ownPending := rfl
@[simp] theorem updCore_net (s : State) (c : Nat) (f : Core → Core) : (updCore s c f).net = s.net := rfl
@[simp] theorem updCore_ports (s : State) (c : Nat) (f : Core → Core) : (updCore s c f).ports = s.ports := rfl
@[simp] theorem updCore_fw (s : State) (c : Nat) (f : Core → Core) : (updCore s c f).fw = s.fw := rfl
@[simp] theorem updCore_regWrites (s : State) (c : Nat) (f : Core → Core) : (updCore s c f).regWrites = s.regWrites := rfl
@[simp] theorem updCore_heartbeat (s : State) (c : Nat) (f : Core → Core) : (updCore s c f).heartbeat = s.heartbeat := rfl
@[simp] theorem updCore_testing (s : State) (c : Nat) (f : Core → Core) : (updCore s c f).testing = s.testing := rfl
@[simp] theorem updCore_testFirst (s : State) (c : Nat) (f : Core → Core) : (updCore s c f).testFirst = s.testFirst := rfl
@[simp] theorem updCore_colRetired (s : State) (c : Nat) (f : Core → Core) : (updCore s c f).colRetired = s.colRetired := rfl
@[simp] theorem updCore_moves (s : State) (c : Nat) (f : Core → Core) : (updCore s c f).moves = s.moves := rfl
@[simp] theorem updCore_xlinvQ (s : State) (c : Nat) (f : Core → Core) : (updCore s c f).xlinvQ = s.xlinvQ := rfl
@[simp] theorem updCore_xlinvOut (s : State) (c : Nat) (f : Core → Core) : (updCore s c f).xlinvOut = s.xlinvOut := rfl
@[simp] theorem updCore_agenda (s : State) (c : Nat) (f : Core → Core) : (updCore s c f).agenda = s.agenda := rfl
@[simp] theorem updCore_cur (s : State) (c : Nat) (f : Core → Core) : (updCore s c f).cur = s.cur := rfl
@[simp] theorem updCore_free (s : State) (c : Nat) (f : Core → Core) : (updCore s c f).free = s.free := rfl
@[simp] theorem updCore_stalled (s : State) (c : Nat) (f : Core → Core) : (updCore s c f).stalled = s.stalled := rfl

/-! ## updChan -/

@[simp] theorem updChan_cycle (s : State) (c : Nat) (f : Channel → Channel) : (updChan s c f).cycle = s.cycle := rfl
@[simp] theorem updChan_ws (s : State) (c : Nat) (f : Channel → Channel) : (updChan s c f).ws = s.ws := rfl
@[simp] theorem updChan_memDom (s : State) (c : Nat) (f : Channel → Channel) : (updChan s c f).memDom = s.memDom := rfl
@[simp] theorem updChan_comp (s : State) (c : Nat) (f : Channel → Channel) : (updChan s c f).comp = s.comp := rfl
@[simp] theorem updChan_still (s : State) (c : Nat) (f : Channel → Channel) : (updChan s c f).still = s.still := rfl
@[simp] theorem updChan_imgOk (s : State) (c : Nat) (f : Channel → Channel) : (updChan s c f).imgOk = s.imgOk := rfl
@[simp] theorem updChan_zeroing (s : State) (c : Nat) (f : Channel → Channel) : (updChan s c f).zeroing = s.zeroing := rfl
@[simp] theorem updChan_srReq (s : State) (c : Nat) (f : Channel → Channel) : (updChan s c f).srReq = s.srReq := rfl
@[simp] theorem updChan_ccFlush (s : State) (c : Nat) (f : Channel → Channel) : (updChan s c f).ccFlush = s.ccFlush := rfl
@[simp] theorem updChan_mem (s : State) (c : Nat) (f : Channel → Channel) : (updChan s c f).mem = s.mem := rfl
@[simp] theorem updChan_full (s : State) (c : Nat) (f : Channel → Channel) : (updChan s c f).full = s.full := rfl
@[simp] theorem updChan_poison (s : State) (c : Nat) (f : Channel → Channel) : (updChan s c f).poison = s.poison := rfl
@[simp] theorem updChan_latent (s : State) (c : Nat) (f : Channel → Channel) : (updChan s c f).latent = s.latent := rfl
@[simp] theorem updChan_softErr (s : State) (c : Nat) (f : Channel → Channel) : (updChan s c f).softErr = s.softErr := rfl
@[simp] theorem updChan_accMem (s : State) (c : Nat) (f : Channel → Channel) : (updChan s c f).accMem = s.accMem := rfl
@[simp] theorem updChan_hostMem (s : State) (c : Nat) (f : Channel → Channel) : (updChan s c f).hostMem = s.hostMem := rfl
@[simp] theorem updChan_ccache (s : State) (c : Nat) (f : Channel → Channel) : (updChan s c f).ccache = s.ccache := rfl
@[simp] theorem updChan_streams (s : State) (c : Nat) (f : Channel → Channel) : (updChan s c f).streams = s.streams := rfl
@[simp] theorem updChan_slots (s : State) (c : Nat) (f : Channel → Channel) : (updChan s c f).slots = s.slots := rfl
@[simp] theorem updChan_cores (s : State) (c : Nat) (f : Channel → Channel) : (updChan s c f).cores = s.cores := rfl
@[simp] theorem updChan_quads (s : State) (c : Nat) (f : Channel → Channel) : (updChan s c f).quads = s.quads := rfl
@[simp] theorem updChan_parts (s : State) (c : Nat) (f : Channel → Channel) : (updChan s c f).parts = s.parts := rfl
@[simp] theorem updChan_purses (s : State) (c : Nat) (f : Channel → Channel) : (updChan s c f).purses = s.purses := rfl
@[simp] theorem updChan_meters (s : State) (c : Nat) (f : Channel → Channel) : (updChan s c f).meters = s.meters := rfl
@[simp] theorem updChan_flushes (s : State) (c : Nat) (f : Channel → Channel) : (updChan s c f).flushes = s.flushes := rfl
@[simp] theorem updChan_metered (s : State) (c : Nat) (f : Channel → Channel) : (updChan s c f).metered = s.metered := rfl
@[simp] theorem updChan_strandNotice (s : State) (c : Nat) (f : Channel → Channel) : (updChan s c f).strandNotice = s.strandNotice := rfl
@[simp] theorem updChan_stranded (s : State) (c : Nat) (f : Channel → Channel) : (updChan s c f).stranded = s.stranded := rfl
@[simp] theorem updChan_strandOrder (s : State) (c : Nat) (f : Channel → Channel) : (updChan s c f).strandOrder = s.strandOrder := rfl
@[simp] theorem updChan_tvec (s : State) (c : Nat) (f : Channel → Channel) : (updChan s c f).tvec = s.tvec := rfl
@[simp] theorem updChan_dbgctl (s : State) (c : Nat) (f : Channel → Channel) : (updChan s c f).dbgctl = s.dbgctl := rfl
@[simp] theorem updChan_regs (s : State) (c : Nat) (f : Channel → Channel) : (updChan s c f).regs = s.regs := rfl
@[simp] theorem updChan_resvQ (s : State) (c : Nat) (f : Channel → Channel) : (updChan s c f).resvQ = s.resvQ := rfl
@[simp] theorem updChan_granWait (s : State) (c : Nat) (f : Channel → Channel) : (updChan s c f).granWait = s.granWait := rfl
@[simp] theorem updChan_walks (s : State) (c : Nat) (f : Channel → Channel) : (updChan s c f).walks = s.walks := rfl
@[simp] theorem updChan_msgFlight (s : State) (c : Nat) (f : Channel → Channel) : (updChan s c f).msgFlight = s.msgFlight := rfl
@[simp] theorem updChan_tmsgs (s : State) (c : Nat) (f : Channel → Channel) : (updChan s c f).tmsgs = s.tmsgs := rfl
@[simp] theorem updChan_flights (s : State) (c : Nat) (f : Channel → Channel) : (updChan s c f).flights = s.flights := rfl
@[simp] theorem updChan_held (s : State) (c : Nat) (f : Channel → Channel) : (updChan s c f).held = s.held := rfl
@[simp] theorem updChan_engWrites (s : State) (c : Nat) (f : Channel → Channel) : (updChan s c f).engWrites = s.engWrites := rfl
@[simp] theorem updChan_barEvents (s : State) (c : Nat) (f : Channel → Channel) : (updChan s c f).barEvents = s.barEvents := rfl
@[simp] theorem updChan_stripe (s : State) (c : Nat) (f : Channel → Channel) : (updChan s c f).stripe = s.stripe := rfl
@[simp] theorem updChan_sets (s : State) (c : Nat) (f : Channel → Channel) : (updChan s c f).sets = s.sets := rfl
@[simp] theorem updChan_pages (s : State) (c : Nat) (f : Channel → Channel) : (updChan s c f).pages = s.pages := rfl
@[simp] theorem updChan_ownPending (s : State) (c : Nat) (f : Channel → Channel) : (updChan s c f).ownPending = s.ownPending := rfl
@[simp] theorem updChan_net (s : State) (c : Nat) (f : Channel → Channel) : (updChan s c f).net = s.net := rfl
@[simp] theorem updChan_ports (s : State) (c : Nat) (f : Channel → Channel) : (updChan s c f).ports = s.ports := rfl
@[simp] theorem updChan_fw (s : State) (c : Nat) (f : Channel → Channel) : (updChan s c f).fw = s.fw := rfl
@[simp] theorem updChan_regWrites (s : State) (c : Nat) (f : Channel → Channel) : (updChan s c f).regWrites = s.regWrites := rfl
@[simp] theorem updChan_heartbeat (s : State) (c : Nat) (f : Channel → Channel) : (updChan s c f).heartbeat = s.heartbeat := rfl
@[simp] theorem updChan_testing (s : State) (c : Nat) (f : Channel → Channel) : (updChan s c f).testing = s.testing := rfl
@[simp] theorem updChan_testFirst (s : State) (c : Nat) (f : Channel → Channel) : (updChan s c f).testFirst = s.testFirst := rfl
@[simp] theorem updChan_colRetired (s : State) (c : Nat) (f : Channel → Channel) : (updChan s c f).colRetired = s.colRetired := rfl
@[simp] theorem updChan_moves (s : State) (c : Nat) (f : Channel → Channel) : (updChan s c f).moves = s.moves := rfl
@[simp] theorem updChan_xlinvQ (s : State) (c : Nat) (f : Channel → Channel) : (updChan s c f).xlinvQ = s.xlinvQ := rfl
@[simp] theorem updChan_xlinvOut (s : State) (c : Nat) (f : Channel → Channel) : (updChan s c f).xlinvOut = s.xlinvOut := rfl
@[simp] theorem updChan_agenda (s : State) (c : Nat) (f : Channel → Channel) : (updChan s c f).agenda = s.agenda := rfl
@[simp] theorem updChan_cur (s : State) (c : Nat) (f : Channel → Channel) : (updChan s c f).cur = s.cur := rfl
@[simp] theorem updChan_free (s : State) (c : Nat) (f : Channel → Channel) : (updChan s c f).free = s.free := rfl
@[simp] theorem updChan_stalled (s : State) (c : Nat) (f : Channel → Channel) : (updChan s c f).stalled = s.stalled := rfl

/-! ## updQuad -/

@[simp] theorem updQuad_cycle (s : State) (q : Nat) (f : Quad → Quad) : (updQuad s q f).cycle = s.cycle := rfl
@[simp] theorem updQuad_ws (s : State) (q : Nat) (f : Quad → Quad) : (updQuad s q f).ws = s.ws := rfl
@[simp] theorem updQuad_memDom (s : State) (q : Nat) (f : Quad → Quad) : (updQuad s q f).memDom = s.memDom := rfl
@[simp] theorem updQuad_comp (s : State) (q : Nat) (f : Quad → Quad) : (updQuad s q f).comp = s.comp := rfl
@[simp] theorem updQuad_still (s : State) (q : Nat) (f : Quad → Quad) : (updQuad s q f).still = s.still := rfl
@[simp] theorem updQuad_imgOk (s : State) (q : Nat) (f : Quad → Quad) : (updQuad s q f).imgOk = s.imgOk := rfl
@[simp] theorem updQuad_zeroing (s : State) (q : Nat) (f : Quad → Quad) : (updQuad s q f).zeroing = s.zeroing := rfl
@[simp] theorem updQuad_srReq (s : State) (q : Nat) (f : Quad → Quad) : (updQuad s q f).srReq = s.srReq := rfl
@[simp] theorem updQuad_ccFlush (s : State) (q : Nat) (f : Quad → Quad) : (updQuad s q f).ccFlush = s.ccFlush := rfl
@[simp] theorem updQuad_mem (s : State) (q : Nat) (f : Quad → Quad) : (updQuad s q f).mem = s.mem := rfl
@[simp] theorem updQuad_full (s : State) (q : Nat) (f : Quad → Quad) : (updQuad s q f).full = s.full := rfl
@[simp] theorem updQuad_poison (s : State) (q : Nat) (f : Quad → Quad) : (updQuad s q f).poison = s.poison := rfl
@[simp] theorem updQuad_latent (s : State) (q : Nat) (f : Quad → Quad) : (updQuad s q f).latent = s.latent := rfl
@[simp] theorem updQuad_softErr (s : State) (q : Nat) (f : Quad → Quad) : (updQuad s q f).softErr = s.softErr := rfl
@[simp] theorem updQuad_accMem (s : State) (q : Nat) (f : Quad → Quad) : (updQuad s q f).accMem = s.accMem := rfl
@[simp] theorem updQuad_hostMem (s : State) (q : Nat) (f : Quad → Quad) : (updQuad s q f).hostMem = s.hostMem := rfl
@[simp] theorem updQuad_ccache (s : State) (q : Nat) (f : Quad → Quad) : (updQuad s q f).ccache = s.ccache := rfl
@[simp] theorem updQuad_streams (s : State) (q : Nat) (f : Quad → Quad) : (updQuad s q f).streams = s.streams := rfl
@[simp] theorem updQuad_slots (s : State) (q : Nat) (f : Quad → Quad) : (updQuad s q f).slots = s.slots := rfl
@[simp] theorem updQuad_cores (s : State) (q : Nat) (f : Quad → Quad) : (updQuad s q f).cores = s.cores := rfl
@[simp] theorem updQuad_channels (s : State) (q : Nat) (f : Quad → Quad) : (updQuad s q f).channels = s.channels := rfl
@[simp] theorem updQuad_parts (s : State) (q : Nat) (f : Quad → Quad) : (updQuad s q f).parts = s.parts := rfl
@[simp] theorem updQuad_purses (s : State) (q : Nat) (f : Quad → Quad) : (updQuad s q f).purses = s.purses := rfl
@[simp] theorem updQuad_meters (s : State) (q : Nat) (f : Quad → Quad) : (updQuad s q f).meters = s.meters := rfl
@[simp] theorem updQuad_flushes (s : State) (q : Nat) (f : Quad → Quad) : (updQuad s q f).flushes = s.flushes := rfl
@[simp] theorem updQuad_metered (s : State) (q : Nat) (f : Quad → Quad) : (updQuad s q f).metered = s.metered := rfl
@[simp] theorem updQuad_strandNotice (s : State) (q : Nat) (f : Quad → Quad) : (updQuad s q f).strandNotice = s.strandNotice := rfl
@[simp] theorem updQuad_stranded (s : State) (q : Nat) (f : Quad → Quad) : (updQuad s q f).stranded = s.stranded := rfl
@[simp] theorem updQuad_strandOrder (s : State) (q : Nat) (f : Quad → Quad) : (updQuad s q f).strandOrder = s.strandOrder := rfl
@[simp] theorem updQuad_tvec (s : State) (q : Nat) (f : Quad → Quad) : (updQuad s q f).tvec = s.tvec := rfl
@[simp] theorem updQuad_dbgctl (s : State) (q : Nat) (f : Quad → Quad) : (updQuad s q f).dbgctl = s.dbgctl := rfl
@[simp] theorem updQuad_regs (s : State) (q : Nat) (f : Quad → Quad) : (updQuad s q f).regs = s.regs := rfl
@[simp] theorem updQuad_resvQ (s : State) (q : Nat) (f : Quad → Quad) : (updQuad s q f).resvQ = s.resvQ := rfl
@[simp] theorem updQuad_granWait (s : State) (q : Nat) (f : Quad → Quad) : (updQuad s q f).granWait = s.granWait := rfl
@[simp] theorem updQuad_walks (s : State) (q : Nat) (f : Quad → Quad) : (updQuad s q f).walks = s.walks := rfl
@[simp] theorem updQuad_msgFlight (s : State) (q : Nat) (f : Quad → Quad) : (updQuad s q f).msgFlight = s.msgFlight := rfl
@[simp] theorem updQuad_tmsgs (s : State) (q : Nat) (f : Quad → Quad) : (updQuad s q f).tmsgs = s.tmsgs := rfl
@[simp] theorem updQuad_flights (s : State) (q : Nat) (f : Quad → Quad) : (updQuad s q f).flights = s.flights := rfl
@[simp] theorem updQuad_held (s : State) (q : Nat) (f : Quad → Quad) : (updQuad s q f).held = s.held := rfl
@[simp] theorem updQuad_engWrites (s : State) (q : Nat) (f : Quad → Quad) : (updQuad s q f).engWrites = s.engWrites := rfl
@[simp] theorem updQuad_barEvents (s : State) (q : Nat) (f : Quad → Quad) : (updQuad s q f).barEvents = s.barEvents := rfl
@[simp] theorem updQuad_stripe (s : State) (q : Nat) (f : Quad → Quad) : (updQuad s q f).stripe = s.stripe := rfl
@[simp] theorem updQuad_sets (s : State) (q : Nat) (f : Quad → Quad) : (updQuad s q f).sets = s.sets := rfl
@[simp] theorem updQuad_pages (s : State) (q : Nat) (f : Quad → Quad) : (updQuad s q f).pages = s.pages := rfl
@[simp] theorem updQuad_ownPending (s : State) (q : Nat) (f : Quad → Quad) : (updQuad s q f).ownPending = s.ownPending := rfl
@[simp] theorem updQuad_net (s : State) (q : Nat) (f : Quad → Quad) : (updQuad s q f).net = s.net := rfl
@[simp] theorem updQuad_ports (s : State) (q : Nat) (f : Quad → Quad) : (updQuad s q f).ports = s.ports := rfl
@[simp] theorem updQuad_fw (s : State) (q : Nat) (f : Quad → Quad) : (updQuad s q f).fw = s.fw := rfl
@[simp] theorem updQuad_regWrites (s : State) (q : Nat) (f : Quad → Quad) : (updQuad s q f).regWrites = s.regWrites := rfl
@[simp] theorem updQuad_heartbeat (s : State) (q : Nat) (f : Quad → Quad) : (updQuad s q f).heartbeat = s.heartbeat := rfl
@[simp] theorem updQuad_testing (s : State) (q : Nat) (f : Quad → Quad) : (updQuad s q f).testing = s.testing := rfl
@[simp] theorem updQuad_testFirst (s : State) (q : Nat) (f : Quad → Quad) : (updQuad s q f).testFirst = s.testFirst := rfl
@[simp] theorem updQuad_colRetired (s : State) (q : Nat) (f : Quad → Quad) : (updQuad s q f).colRetired = s.colRetired := rfl
@[simp] theorem updQuad_moves (s : State) (q : Nat) (f : Quad → Quad) : (updQuad s q f).moves = s.moves := rfl
@[simp] theorem updQuad_xlinvQ (s : State) (q : Nat) (f : Quad → Quad) : (updQuad s q f).xlinvQ = s.xlinvQ := rfl
@[simp] theorem updQuad_xlinvOut (s : State) (q : Nat) (f : Quad → Quad) : (updQuad s q f).xlinvOut = s.xlinvOut := rfl
@[simp] theorem updQuad_agenda (s : State) (q : Nat) (f : Quad → Quad) : (updQuad s q f).agenda = s.agenda := rfl
@[simp] theorem updQuad_cur (s : State) (q : Nat) (f : Quad → Quad) : (updQuad s q f).cur = s.cur := rfl
@[simp] theorem updQuad_free (s : State) (q : Nat) (f : Quad → Quad) : (updQuad s q f).free = s.free := rfl
@[simp] theorem updQuad_stalled (s : State) (q : Nat) (f : Quad → Quad) : (updQuad s q f).stalled = s.stalled := rfl

/-! ## updPart -/

@[simp] theorem updPart_cycle (s : State) (p : Nat) (f : Part → Part) : (updPart s p f).cycle = s.cycle := rfl
@[simp] theorem updPart_ws (s : State) (p : Nat) (f : Part → Part) : (updPart s p f).ws = s.ws := rfl
@[simp] theorem updPart_memDom (s : State) (p : Nat) (f : Part → Part) : (updPart s p f).memDom = s.memDom := rfl
@[simp] theorem updPart_comp (s : State) (p : Nat) (f : Part → Part) : (updPart s p f).comp = s.comp := rfl
@[simp] theorem updPart_still (s : State) (p : Nat) (f : Part → Part) : (updPart s p f).still = s.still := rfl
@[simp] theorem updPart_imgOk (s : State) (p : Nat) (f : Part → Part) : (updPart s p f).imgOk = s.imgOk := rfl
@[simp] theorem updPart_zeroing (s : State) (p : Nat) (f : Part → Part) : (updPart s p f).zeroing = s.zeroing := rfl
@[simp] theorem updPart_srReq (s : State) (p : Nat) (f : Part → Part) : (updPart s p f).srReq = s.srReq := rfl
@[simp] theorem updPart_ccFlush (s : State) (p : Nat) (f : Part → Part) : (updPart s p f).ccFlush = s.ccFlush := rfl
@[simp] theorem updPart_mem (s : State) (p : Nat) (f : Part → Part) : (updPart s p f).mem = s.mem := rfl
@[simp] theorem updPart_full (s : State) (p : Nat) (f : Part → Part) : (updPart s p f).full = s.full := rfl
@[simp] theorem updPart_poison (s : State) (p : Nat) (f : Part → Part) : (updPart s p f).poison = s.poison := rfl
@[simp] theorem updPart_latent (s : State) (p : Nat) (f : Part → Part) : (updPart s p f).latent = s.latent := rfl
@[simp] theorem updPart_softErr (s : State) (p : Nat) (f : Part → Part) : (updPart s p f).softErr = s.softErr := rfl
@[simp] theorem updPart_accMem (s : State) (p : Nat) (f : Part → Part) : (updPart s p f).accMem = s.accMem := rfl
@[simp] theorem updPart_hostMem (s : State) (p : Nat) (f : Part → Part) : (updPart s p f).hostMem = s.hostMem := rfl
@[simp] theorem updPart_ccache (s : State) (p : Nat) (f : Part → Part) : (updPart s p f).ccache = s.ccache := rfl
@[simp] theorem updPart_streams (s : State) (p : Nat) (f : Part → Part) : (updPart s p f).streams = s.streams := rfl
@[simp] theorem updPart_slots (s : State) (p : Nat) (f : Part → Part) : (updPart s p f).slots = s.slots := rfl
@[simp] theorem updPart_cores (s : State) (p : Nat) (f : Part → Part) : (updPart s p f).cores = s.cores := rfl
@[simp] theorem updPart_channels (s : State) (p : Nat) (f : Part → Part) : (updPart s p f).channels = s.channels := rfl
@[simp] theorem updPart_quads (s : State) (p : Nat) (f : Part → Part) : (updPart s p f).quads = s.quads := rfl
@[simp] theorem updPart_purses (s : State) (p : Nat) (f : Part → Part) : (updPart s p f).purses = s.purses := rfl
@[simp] theorem updPart_meters (s : State) (p : Nat) (f : Part → Part) : (updPart s p f).meters = s.meters := rfl
@[simp] theorem updPart_flushes (s : State) (p : Nat) (f : Part → Part) : (updPart s p f).flushes = s.flushes := rfl
@[simp] theorem updPart_metered (s : State) (p : Nat) (f : Part → Part) : (updPart s p f).metered = s.metered := rfl
@[simp] theorem updPart_strandNotice (s : State) (p : Nat) (f : Part → Part) : (updPart s p f).strandNotice = s.strandNotice := rfl
@[simp] theorem updPart_stranded (s : State) (p : Nat) (f : Part → Part) : (updPart s p f).stranded = s.stranded := rfl
@[simp] theorem updPart_strandOrder (s : State) (p : Nat) (f : Part → Part) : (updPart s p f).strandOrder = s.strandOrder := rfl
@[simp] theorem updPart_tvec (s : State) (p : Nat) (f : Part → Part) : (updPart s p f).tvec = s.tvec := rfl
@[simp] theorem updPart_dbgctl (s : State) (p : Nat) (f : Part → Part) : (updPart s p f).dbgctl = s.dbgctl := rfl
@[simp] theorem updPart_regs (s : State) (p : Nat) (f : Part → Part) : (updPart s p f).regs = s.regs := rfl
@[simp] theorem updPart_resvQ (s : State) (p : Nat) (f : Part → Part) : (updPart s p f).resvQ = s.resvQ := rfl
@[simp] theorem updPart_granWait (s : State) (p : Nat) (f : Part → Part) : (updPart s p f).granWait = s.granWait := rfl
@[simp] theorem updPart_walks (s : State) (p : Nat) (f : Part → Part) : (updPart s p f).walks = s.walks := rfl
@[simp] theorem updPart_msgFlight (s : State) (p : Nat) (f : Part → Part) : (updPart s p f).msgFlight = s.msgFlight := rfl
@[simp] theorem updPart_tmsgs (s : State) (p : Nat) (f : Part → Part) : (updPart s p f).tmsgs = s.tmsgs := rfl
@[simp] theorem updPart_flights (s : State) (p : Nat) (f : Part → Part) : (updPart s p f).flights = s.flights := rfl
@[simp] theorem updPart_held (s : State) (p : Nat) (f : Part → Part) : (updPart s p f).held = s.held := rfl
@[simp] theorem updPart_engWrites (s : State) (p : Nat) (f : Part → Part) : (updPart s p f).engWrites = s.engWrites := rfl
@[simp] theorem updPart_barEvents (s : State) (p : Nat) (f : Part → Part) : (updPart s p f).barEvents = s.barEvents := rfl
@[simp] theorem updPart_stripe (s : State) (p : Nat) (f : Part → Part) : (updPart s p f).stripe = s.stripe := rfl
@[simp] theorem updPart_sets (s : State) (p : Nat) (f : Part → Part) : (updPart s p f).sets = s.sets := rfl
@[simp] theorem updPart_pages (s : State) (p : Nat) (f : Part → Part) : (updPart s p f).pages = s.pages := rfl
@[simp] theorem updPart_ownPending (s : State) (p : Nat) (f : Part → Part) : (updPart s p f).ownPending = s.ownPending := rfl
@[simp] theorem updPart_net (s : State) (p : Nat) (f : Part → Part) : (updPart s p f).net = s.net := rfl
@[simp] theorem updPart_ports (s : State) (p : Nat) (f : Part → Part) : (updPart s p f).ports = s.ports := rfl
@[simp] theorem updPart_fw (s : State) (p : Nat) (f : Part → Part) : (updPart s p f).fw = s.fw := rfl
@[simp] theorem updPart_regWrites (s : State) (p : Nat) (f : Part → Part) : (updPart s p f).regWrites = s.regWrites := rfl
@[simp] theorem updPart_heartbeat (s : State) (p : Nat) (f : Part → Part) : (updPart s p f).heartbeat = s.heartbeat := rfl
@[simp] theorem updPart_testing (s : State) (p : Nat) (f : Part → Part) : (updPart s p f).testing = s.testing := rfl
@[simp] theorem updPart_testFirst (s : State) (p : Nat) (f : Part → Part) : (updPart s p f).testFirst = s.testFirst := rfl
@[simp] theorem updPart_colRetired (s : State) (p : Nat) (f : Part → Part) : (updPart s p f).colRetired = s.colRetired := rfl
@[simp] theorem updPart_moves (s : State) (p : Nat) (f : Part → Part) : (updPart s p f).moves = s.moves := rfl
@[simp] theorem updPart_xlinvQ (s : State) (p : Nat) (f : Part → Part) : (updPart s p f).xlinvQ = s.xlinvQ := rfl
@[simp] theorem updPart_xlinvOut (s : State) (p : Nat) (f : Part → Part) : (updPart s p f).xlinvOut = s.xlinvOut := rfl
@[simp] theorem updPart_agenda (s : State) (p : Nat) (f : Part → Part) : (updPart s p f).agenda = s.agenda := rfl
@[simp] theorem updPart_cur (s : State) (p : Nat) (f : Part → Part) : (updPart s p f).cur = s.cur := rfl
@[simp] theorem updPart_free (s : State) (p : Nat) (f : Part → Part) : (updPart s p f).free = s.free := rfl
@[simp] theorem updPart_stalled (s : State) (p : Nat) (f : Part → Part) : (updPart s p f).stalled = s.stalled := rfl

/-! ## putPurse -/

@[simp] theorem putPurse_cycle (s : State) (x : Nat) (k : Purse) : (putPurse s x k).cycle = s.cycle := rfl
@[simp] theorem putPurse_ws (s : State) (x : Nat) (k : Purse) : (putPurse s x k).ws = s.ws := rfl
@[simp] theorem putPurse_memDom (s : State) (x : Nat) (k : Purse) : (putPurse s x k).memDom = s.memDom := rfl
@[simp] theorem putPurse_comp (s : State) (x : Nat) (k : Purse) : (putPurse s x k).comp = s.comp := rfl
@[simp] theorem putPurse_still (s : State) (x : Nat) (k : Purse) : (putPurse s x k).still = s.still := rfl
@[simp] theorem putPurse_imgOk (s : State) (x : Nat) (k : Purse) : (putPurse s x k).imgOk = s.imgOk := rfl
@[simp] theorem putPurse_zeroing (s : State) (x : Nat) (k : Purse) : (putPurse s x k).zeroing = s.zeroing := rfl
@[simp] theorem putPurse_srReq (s : State) (x : Nat) (k : Purse) : (putPurse s x k).srReq = s.srReq := rfl
@[simp] theorem putPurse_ccFlush (s : State) (x : Nat) (k : Purse) : (putPurse s x k).ccFlush = s.ccFlush := rfl
@[simp] theorem putPurse_mem (s : State) (x : Nat) (k : Purse) : (putPurse s x k).mem = s.mem := rfl
@[simp] theorem putPurse_full (s : State) (x : Nat) (k : Purse) : (putPurse s x k).full = s.full := rfl
@[simp] theorem putPurse_poison (s : State) (x : Nat) (k : Purse) : (putPurse s x k).poison = s.poison := rfl
@[simp] theorem putPurse_latent (s : State) (x : Nat) (k : Purse) : (putPurse s x k).latent = s.latent := rfl
@[simp] theorem putPurse_softErr (s : State) (x : Nat) (k : Purse) : (putPurse s x k).softErr = s.softErr := rfl
@[simp] theorem putPurse_accMem (s : State) (x : Nat) (k : Purse) : (putPurse s x k).accMem = s.accMem := rfl
@[simp] theorem putPurse_hostMem (s : State) (x : Nat) (k : Purse) : (putPurse s x k).hostMem = s.hostMem := rfl
@[simp] theorem putPurse_ccache (s : State) (x : Nat) (k : Purse) : (putPurse s x k).ccache = s.ccache := rfl
@[simp] theorem putPurse_streams (s : State) (x : Nat) (k : Purse) : (putPurse s x k).streams = s.streams := rfl
@[simp] theorem putPurse_slots (s : State) (x : Nat) (k : Purse) : (putPurse s x k).slots = s.slots := rfl
@[simp] theorem putPurse_cores (s : State) (x : Nat) (k : Purse) : (putPurse s x k).cores = s.cores := rfl
@[simp] theorem putPurse_channels (s : State) (x : Nat) (k : Purse) : (putPurse s x k).channels = s.channels := rfl
@[simp] theorem putPurse_quads (s : State) (x : Nat) (k : Purse) : (putPurse s x k).quads = s.quads := rfl
@[simp] theorem putPurse_parts (s : State) (x : Nat) (k : Purse) : (putPurse s x k).parts = s.parts := rfl
@[simp] theorem putPurse_meters (s : State) (x : Nat) (k : Purse) : (putPurse s x k).meters = s.meters := rfl
@[simp] theorem putPurse_flushes (s : State) (x : Nat) (k : Purse) : (putPurse s x k).flushes = s.flushes := rfl
@[simp] theorem putPurse_metered (s : State) (x : Nat) (k : Purse) : (putPurse s x k).metered = s.metered := rfl
@[simp] theorem putPurse_strandNotice (s : State) (x : Nat) (k : Purse) : (putPurse s x k).strandNotice = s.strandNotice := rfl
@[simp] theorem putPurse_stranded (s : State) (x : Nat) (k : Purse) : (putPurse s x k).stranded = s.stranded := rfl
@[simp] theorem putPurse_strandOrder (s : State) (x : Nat) (k : Purse) : (putPurse s x k).strandOrder = s.strandOrder := rfl
@[simp] theorem putPurse_tvec (s : State) (x : Nat) (k : Purse) : (putPurse s x k).tvec = s.tvec := rfl
@[simp] theorem putPurse_dbgctl (s : State) (x : Nat) (k : Purse) : (putPurse s x k).dbgctl = s.dbgctl := rfl
@[simp] theorem putPurse_regs (s : State) (x : Nat) (k : Purse) : (putPurse s x k).regs = s.regs := rfl
@[simp] theorem putPurse_resvQ (s : State) (x : Nat) (k : Purse) : (putPurse s x k).resvQ = s.resvQ := rfl
@[simp] theorem putPurse_granWait (s : State) (x : Nat) (k : Purse) : (putPurse s x k).granWait = s.granWait := rfl
@[simp] theorem putPurse_walks (s : State) (x : Nat) (k : Purse) : (putPurse s x k).walks = s.walks := rfl
@[simp] theorem putPurse_msgFlight (s : State) (x : Nat) (k : Purse) : (putPurse s x k).msgFlight = s.msgFlight := rfl
@[simp] theorem putPurse_tmsgs (s : State) (x : Nat) (k : Purse) : (putPurse s x k).tmsgs = s.tmsgs := rfl
@[simp] theorem putPurse_flights (s : State) (x : Nat) (k : Purse) : (putPurse s x k).flights = s.flights := rfl
@[simp] theorem putPurse_held (s : State) (x : Nat) (k : Purse) : (putPurse s x k).held = s.held := rfl
@[simp] theorem putPurse_engWrites (s : State) (x : Nat) (k : Purse) : (putPurse s x k).engWrites = s.engWrites := rfl
@[simp] theorem putPurse_barEvents (s : State) (x : Nat) (k : Purse) : (putPurse s x k).barEvents = s.barEvents := rfl
@[simp] theorem putPurse_stripe (s : State) (x : Nat) (k : Purse) : (putPurse s x k).stripe = s.stripe := rfl
@[simp] theorem putPurse_sets (s : State) (x : Nat) (k : Purse) : (putPurse s x k).sets = s.sets := rfl
@[simp] theorem putPurse_pages (s : State) (x : Nat) (k : Purse) : (putPurse s x k).pages = s.pages := rfl
@[simp] theorem putPurse_ownPending (s : State) (x : Nat) (k : Purse) : (putPurse s x k).ownPending = s.ownPending := rfl
@[simp] theorem putPurse_net (s : State) (x : Nat) (k : Purse) : (putPurse s x k).net = s.net := rfl
@[simp] theorem putPurse_ports (s : State) (x : Nat) (k : Purse) : (putPurse s x k).ports = s.ports := rfl
@[simp] theorem putPurse_fw (s : State) (x : Nat) (k : Purse) : (putPurse s x k).fw = s.fw := rfl
@[simp] theorem putPurse_regWrites (s : State) (x : Nat) (k : Purse) : (putPurse s x k).regWrites = s.regWrites := rfl
@[simp] theorem putPurse_heartbeat (s : State) (x : Nat) (k : Purse) : (putPurse s x k).heartbeat = s.heartbeat := rfl
@[simp] theorem putPurse_testing (s : State) (x : Nat) (k : Purse) : (putPurse s x k).testing = s.testing := rfl
@[simp] theorem putPurse_testFirst (s : State) (x : Nat) (k : Purse) : (putPurse s x k).testFirst = s.testFirst := rfl
@[simp] theorem putPurse_colRetired (s : State) (x : Nat) (k : Purse) : (putPurse s x k).colRetired = s.colRetired := rfl
@[simp] theorem putPurse_moves (s : State) (x : Nat) (k : Purse) : (putPurse s x k).moves = s.moves := rfl
@[simp] theorem putPurse_xlinvQ (s : State) (x : Nat) (k : Purse) : (putPurse s x k).xlinvQ = s.xlinvQ := rfl
@[simp] theorem putPurse_xlinvOut (s : State) (x : Nat) (k : Purse) : (putPurse s x k).xlinvOut = s.xlinvOut := rfl
@[simp] theorem putPurse_agenda (s : State) (x : Nat) (k : Purse) : (putPurse s x k).agenda = s.agenda := rfl
@[simp] theorem putPurse_cur (s : State) (x : Nat) (k : Purse) : (putPurse s x k).cur = s.cur := rfl
@[simp] theorem putPurse_free (s : State) (x : Nat) (k : Purse) : (putPurse s x k).free = s.free := rfl
@[simp] theorem putPurse_stalled (s : State) (x : Nat) (k : Purse) : (putPurse s x k).stalled = s.stalled := rfl

/-! ## putReg -/

@[simp] theorem putReg_cycle (s : State) (b o : Nat) (v : Word) : (putReg s b o v).cycle = s.cycle := rfl
@[simp] theorem putReg_ws (s : State) (b o : Nat) (v : Word) : (putReg s b o v).ws = s.ws := rfl
@[simp] theorem putReg_memDom (s : State) (b o : Nat) (v : Word) : (putReg s b o v).memDom = s.memDom := rfl
@[simp] theorem putReg_comp (s : State) (b o : Nat) (v : Word) : (putReg s b o v).comp = s.comp := rfl
@[simp] theorem putReg_still (s : State) (b o : Nat) (v : Word) : (putReg s b o v).still = s.still := rfl
@[simp] theorem putReg_imgOk (s : State) (b o : Nat) (v : Word) : (putReg s b o v).imgOk = s.imgOk := rfl
@[simp] theorem putReg_zeroing (s : State) (b o : Nat) (v : Word) : (putReg s b o v).zeroing = s.zeroing := rfl
@[simp] theorem putReg_srReq (s : State) (b o : Nat) (v : Word) : (putReg s b o v).srReq = s.srReq := rfl
@[simp] theorem putReg_ccFlush (s : State) (b o : Nat) (v : Word) : (putReg s b o v).ccFlush = s.ccFlush := rfl
@[simp] theorem putReg_mem (s : State) (b o : Nat) (v : Word) : (putReg s b o v).mem = s.mem := rfl
@[simp] theorem putReg_full (s : State) (b o : Nat) (v : Word) : (putReg s b o v).full = s.full := rfl
@[simp] theorem putReg_poison (s : State) (b o : Nat) (v : Word) : (putReg s b o v).poison = s.poison := rfl
@[simp] theorem putReg_latent (s : State) (b o : Nat) (v : Word) : (putReg s b o v).latent = s.latent := rfl
@[simp] theorem putReg_softErr (s : State) (b o : Nat) (v : Word) : (putReg s b o v).softErr = s.softErr := rfl
@[simp] theorem putReg_accMem (s : State) (b o : Nat) (v : Word) : (putReg s b o v).accMem = s.accMem := rfl
@[simp] theorem putReg_hostMem (s : State) (b o : Nat) (v : Word) : (putReg s b o v).hostMem = s.hostMem := rfl
@[simp] theorem putReg_ccache (s : State) (b o : Nat) (v : Word) : (putReg s b o v).ccache = s.ccache := rfl
@[simp] theorem putReg_streams (s : State) (b o : Nat) (v : Word) : (putReg s b o v).streams = s.streams := rfl
@[simp] theorem putReg_slots (s : State) (b o : Nat) (v : Word) : (putReg s b o v).slots = s.slots := rfl
@[simp] theorem putReg_cores (s : State) (b o : Nat) (v : Word) : (putReg s b o v).cores = s.cores := rfl
@[simp] theorem putReg_channels (s : State) (b o : Nat) (v : Word) : (putReg s b o v).channels = s.channels := rfl
@[simp] theorem putReg_quads (s : State) (b o : Nat) (v : Word) : (putReg s b o v).quads = s.quads := rfl
@[simp] theorem putReg_parts (s : State) (b o : Nat) (v : Word) : (putReg s b o v).parts = s.parts := rfl
@[simp] theorem putReg_purses (s : State) (b o : Nat) (v : Word) : (putReg s b o v).purses = s.purses := rfl
@[simp] theorem putReg_meters (s : State) (b o : Nat) (v : Word) : (putReg s b o v).meters = s.meters := rfl
@[simp] theorem putReg_flushes (s : State) (b o : Nat) (v : Word) : (putReg s b o v).flushes = s.flushes := rfl
@[simp] theorem putReg_metered (s : State) (b o : Nat) (v : Word) : (putReg s b o v).metered = s.metered := rfl
@[simp] theorem putReg_strandNotice (s : State) (b o : Nat) (v : Word) : (putReg s b o v).strandNotice = s.strandNotice := rfl
@[simp] theorem putReg_stranded (s : State) (b o : Nat) (v : Word) : (putReg s b o v).stranded = s.stranded := rfl
@[simp] theorem putReg_strandOrder (s : State) (b o : Nat) (v : Word) : (putReg s b o v).strandOrder = s.strandOrder := rfl
@[simp] theorem putReg_tvec (s : State) (b o : Nat) (v : Word) : (putReg s b o v).tvec = s.tvec := rfl
@[simp] theorem putReg_dbgctl (s : State) (b o : Nat) (v : Word) : (putReg s b o v).dbgctl = s.dbgctl := rfl
@[simp] theorem putReg_resvQ (s : State) (b o : Nat) (v : Word) : (putReg s b o v).resvQ = s.resvQ := rfl
@[simp] theorem putReg_granWait (s : State) (b o : Nat) (v : Word) : (putReg s b o v).granWait = s.granWait := rfl
@[simp] theorem putReg_walks (s : State) (b o : Nat) (v : Word) : (putReg s b o v).walks = s.walks := rfl
@[simp] theorem putReg_msgFlight (s : State) (b o : Nat) (v : Word) : (putReg s b o v).msgFlight = s.msgFlight := rfl
@[simp] theorem putReg_tmsgs (s : State) (b o : Nat) (v : Word) : (putReg s b o v).tmsgs = s.tmsgs := rfl
@[simp] theorem putReg_flights (s : State) (b o : Nat) (v : Word) : (putReg s b o v).flights = s.flights := rfl
@[simp] theorem putReg_held (s : State) (b o : Nat) (v : Word) : (putReg s b o v).held = s.held := rfl
@[simp] theorem putReg_engWrites (s : State) (b o : Nat) (v : Word) : (putReg s b o v).engWrites = s.engWrites := rfl
@[simp] theorem putReg_barEvents (s : State) (b o : Nat) (v : Word) : (putReg s b o v).barEvents = s.barEvents := rfl
@[simp] theorem putReg_stripe (s : State) (b o : Nat) (v : Word) : (putReg s b o v).stripe = s.stripe := rfl
@[simp] theorem putReg_sets (s : State) (b o : Nat) (v : Word) : (putReg s b o v).sets = s.sets := rfl
@[simp] theorem putReg_pages (s : State) (b o : Nat) (v : Word) : (putReg s b o v).pages = s.pages := rfl
@[simp] theorem putReg_ownPending (s : State) (b o : Nat) (v : Word) : (putReg s b o v).ownPending = s.ownPending := rfl
@[simp] theorem putReg_net (s : State) (b o : Nat) (v : Word) : (putReg s b o v).net = s.net := rfl
@[simp] theorem putReg_ports (s : State) (b o : Nat) (v : Word) : (putReg s b o v).ports = s.ports := rfl
@[simp] theorem putReg_fw (s : State) (b o : Nat) (v : Word) : (putReg s b o v).fw = s.fw := rfl
@[simp] theorem putReg_regWrites (s : State) (b o : Nat) (v : Word) : (putReg s b o v).regWrites = s.regWrites := rfl
@[simp] theorem putReg_heartbeat (s : State) (b o : Nat) (v : Word) : (putReg s b o v).heartbeat = s.heartbeat := rfl
@[simp] theorem putReg_testing (s : State) (b o : Nat) (v : Word) : (putReg s b o v).testing = s.testing := rfl
@[simp] theorem putReg_testFirst (s : State) (b o : Nat) (v : Word) : (putReg s b o v).testFirst = s.testFirst := rfl
@[simp] theorem putReg_colRetired (s : State) (b o : Nat) (v : Word) : (putReg s b o v).colRetired = s.colRetired := rfl
@[simp] theorem putReg_moves (s : State) (b o : Nat) (v : Word) : (putReg s b o v).moves = s.moves := rfl
@[simp] theorem putReg_xlinvQ (s : State) (b o : Nat) (v : Word) : (putReg s b o v).xlinvQ = s.xlinvQ := rfl
@[simp] theorem putReg_xlinvOut (s : State) (b o : Nat) (v : Word) : (putReg s b o v).xlinvOut = s.xlinvOut := rfl
@[simp] theorem putReg_agenda (s : State) (b o : Nat) (v : Word) : (putReg s b o v).agenda = s.agenda := rfl
@[simp] theorem putReg_cur (s : State) (b o : Nat) (v : Word) : (putReg s b o v).cur = s.cur := rfl
@[simp] theorem putReg_free (s : State) (b o : Nat) (v : Word) : (putReg s b o v).free = s.free := rfl
@[simp] theorem putReg_stalled (s : State) (b o : Nat) (v : Word) : (putReg s b o v).stalled = s.stalled := rfl

/-! ## atCycle -/

@[simp] theorem atCycle_ws (s : State) (t : Nat) : (atCycle s t).ws = s.ws := rfl
@[simp] theorem atCycle_memDom (s : State) (t : Nat) : (atCycle s t).memDom = s.memDom := rfl
@[simp] theorem atCycle_comp (s : State) (t : Nat) : (atCycle s t).comp = s.comp := rfl
@[simp] theorem atCycle_still (s : State) (t : Nat) : (atCycle s t).still = s.still := rfl
@[simp] theorem atCycle_imgOk (s : State) (t : Nat) : (atCycle s t).imgOk = s.imgOk := rfl
@[simp] theorem atCycle_zeroing (s : State) (t : Nat) : (atCycle s t).zeroing = s.zeroing := rfl
@[simp] theorem atCycle_srReq (s : State) (t : Nat) : (atCycle s t).srReq = s.srReq := rfl
@[simp] theorem atCycle_ccFlush (s : State) (t : Nat) : (atCycle s t).ccFlush = s.ccFlush := rfl
@[simp] theorem atCycle_mem (s : State) (t : Nat) : (atCycle s t).mem = s.mem := rfl
@[simp] theorem atCycle_full (s : State) (t : Nat) : (atCycle s t).full = s.full := rfl
@[simp] theorem atCycle_poison (s : State) (t : Nat) : (atCycle s t).poison = s.poison := rfl
@[simp] theorem atCycle_latent (s : State) (t : Nat) : (atCycle s t).latent = s.latent := rfl
@[simp] theorem atCycle_softErr (s : State) (t : Nat) : (atCycle s t).softErr = s.softErr := rfl
@[simp] theorem atCycle_accMem (s : State) (t : Nat) : (atCycle s t).accMem = s.accMem := rfl
@[simp] theorem atCycle_hostMem (s : State) (t : Nat) : (atCycle s t).hostMem = s.hostMem := rfl
@[simp] theorem atCycle_ccache (s : State) (t : Nat) : (atCycle s t).ccache = s.ccache := rfl
@[simp] theorem atCycle_streams (s : State) (t : Nat) : (atCycle s t).streams = s.streams := rfl
@[simp] theorem atCycle_slots (s : State) (t : Nat) : (atCycle s t).slots = s.slots := rfl
@[simp] theorem atCycle_cores (s : State) (t : Nat) : (atCycle s t).cores = s.cores := rfl
@[simp] theorem atCycle_channels (s : State) (t : Nat) : (atCycle s t).channels = s.channels := rfl
@[simp] theorem atCycle_quads (s : State) (t : Nat) : (atCycle s t).quads = s.quads := rfl
@[simp] theorem atCycle_parts (s : State) (t : Nat) : (atCycle s t).parts = s.parts := rfl
@[simp] theorem atCycle_purses (s : State) (t : Nat) : (atCycle s t).purses = s.purses := rfl
@[simp] theorem atCycle_meters (s : State) (t : Nat) : (atCycle s t).meters = s.meters := rfl
@[simp] theorem atCycle_flushes (s : State) (t : Nat) : (atCycle s t).flushes = s.flushes := rfl
@[simp] theorem atCycle_metered (s : State) (t : Nat) : (atCycle s t).metered = s.metered := rfl
@[simp] theorem atCycle_strandNotice (s : State) (t : Nat) : (atCycle s t).strandNotice = s.strandNotice := rfl
@[simp] theorem atCycle_stranded (s : State) (t : Nat) : (atCycle s t).stranded = s.stranded := rfl
@[simp] theorem atCycle_strandOrder (s : State) (t : Nat) : (atCycle s t).strandOrder = s.strandOrder := rfl
@[simp] theorem atCycle_tvec (s : State) (t : Nat) : (atCycle s t).tvec = s.tvec := rfl
@[simp] theorem atCycle_dbgctl (s : State) (t : Nat) : (atCycle s t).dbgctl = s.dbgctl := rfl
@[simp] theorem atCycle_regs (s : State) (t : Nat) : (atCycle s t).regs = s.regs := rfl
@[simp] theorem atCycle_resvQ (s : State) (t : Nat) : (atCycle s t).resvQ = s.resvQ := rfl
@[simp] theorem atCycle_granWait (s : State) (t : Nat) : (atCycle s t).granWait = s.granWait := rfl
@[simp] theorem atCycle_walks (s : State) (t : Nat) : (atCycle s t).walks = s.walks := rfl
@[simp] theorem atCycle_msgFlight (s : State) (t : Nat) : (atCycle s t).msgFlight = s.msgFlight := rfl
@[simp] theorem atCycle_tmsgs (s : State) (t : Nat) : (atCycle s t).tmsgs = s.tmsgs := rfl
@[simp] theorem atCycle_flights (s : State) (t : Nat) : (atCycle s t).flights = s.flights := rfl
@[simp] theorem atCycle_held (s : State) (t : Nat) : (atCycle s t).held = s.held := rfl
@[simp] theorem atCycle_engWrites (s : State) (t : Nat) : (atCycle s t).engWrites = s.engWrites := rfl
@[simp] theorem atCycle_barEvents (s : State) (t : Nat) : (atCycle s t).barEvents = s.barEvents := rfl
@[simp] theorem atCycle_stripe (s : State) (t : Nat) : (atCycle s t).stripe = s.stripe := rfl
@[simp] theorem atCycle_sets (s : State) (t : Nat) : (atCycle s t).sets = s.sets := rfl
@[simp] theorem atCycle_pages (s : State) (t : Nat) : (atCycle s t).pages = s.pages := rfl
@[simp] theorem atCycle_ownPending (s : State) (t : Nat) : (atCycle s t).ownPending = s.ownPending := rfl
@[simp] theorem atCycle_net (s : State) (t : Nat) : (atCycle s t).net = s.net := rfl
@[simp] theorem atCycle_ports (s : State) (t : Nat) : (atCycle s t).ports = s.ports := rfl
@[simp] theorem atCycle_fw (s : State) (t : Nat) : (atCycle s t).fw = s.fw := rfl
@[simp] theorem atCycle_regWrites (s : State) (t : Nat) : (atCycle s t).regWrites = s.regWrites := rfl
@[simp] theorem atCycle_heartbeat (s : State) (t : Nat) : (atCycle s t).heartbeat = s.heartbeat := rfl
@[simp] theorem atCycle_testing (s : State) (t : Nat) : (atCycle s t).testing = s.testing := rfl
@[simp] theorem atCycle_testFirst (s : State) (t : Nat) : (atCycle s t).testFirst = s.testFirst := rfl
@[simp] theorem atCycle_colRetired (s : State) (t : Nat) : (atCycle s t).colRetired = s.colRetired := rfl
@[simp] theorem atCycle_moves (s : State) (t : Nat) : (atCycle s t).moves = s.moves := rfl
@[simp] theorem atCycle_xlinvQ (s : State) (t : Nat) : (atCycle s t).xlinvQ = s.xlinvQ := rfl
@[simp] theorem atCycle_xlinvOut (s : State) (t : Nat) : (atCycle s t).xlinvOut = s.xlinvOut := rfl
@[simp] theorem atCycle_agenda (s : State) (t : Nat) : (atCycle s t).agenda = s.agenda := rfl
@[simp] theorem atCycle_cur (s : State) (t : Nat) : (atCycle s t).cur = s.cur := rfl
@[simp] theorem atCycle_free (s : State) (t : Nat) : (atCycle s t).free = s.free := rfl
@[simp] theorem atCycle_stalled (s : State) (t : Nat) : (atCycle s t).stalled = s.stalled := rfl

/-! ## wsWr -/

@[simp] theorem wsWr_cycle (s : State) (c sl o n v : Nat) : (wsWr s c sl o n v).cycle = s.cycle := rfl
@[simp] theorem wsWr_ws (s : State) (c sl o n v : Nat) : (wsWr s c sl o n v).ws = s.ws := rfl
@[simp] theorem wsWr_memDom (s : State) (c sl o n v : Nat) : (wsWr s c sl o n v).memDom = s.memDom := rfl
@[simp] theorem wsWr_comp (s : State) (c sl o n v : Nat) : (wsWr s c sl o n v).comp = s.comp := rfl
@[simp] theorem wsWr_still (s : State) (c sl o n v : Nat) : (wsWr s c sl o n v).still = s.still := rfl
@[simp] theorem wsWr_imgOk (s : State) (c sl o n v : Nat) : (wsWr s c sl o n v).imgOk = s.imgOk := rfl
@[simp] theorem wsWr_zeroing (s : State) (c sl o n v : Nat) : (wsWr s c sl o n v).zeroing = s.zeroing := rfl
@[simp] theorem wsWr_srReq (s : State) (c sl o n v : Nat) : (wsWr s c sl o n v).srReq = s.srReq := rfl
@[simp] theorem wsWr_ccFlush (s : State) (c sl o n v : Nat) : (wsWr s c sl o n v).ccFlush = s.ccFlush := rfl
@[simp] theorem wsWr_full (s : State) (c sl o n v : Nat) : (wsWr s c sl o n v).full = s.full := rfl
@[simp] theorem wsWr_poison (s : State) (c sl o n v : Nat) : (wsWr s c sl o n v).poison = s.poison := rfl
@[simp] theorem wsWr_latent (s : State) (c sl o n v : Nat) : (wsWr s c sl o n v).latent = s.latent := rfl
@[simp] theorem wsWr_softErr (s : State) (c sl o n v : Nat) : (wsWr s c sl o n v).softErr = s.softErr := rfl
@[simp] theorem wsWr_accMem (s : State) (c sl o n v : Nat) : (wsWr s c sl o n v).accMem = s.accMem := rfl
@[simp] theorem wsWr_hostMem (s : State) (c sl o n v : Nat) : (wsWr s c sl o n v).hostMem = s.hostMem := rfl
@[simp] theorem wsWr_ccache (s : State) (c sl o n v : Nat) : (wsWr s c sl o n v).ccache = s.ccache := rfl
@[simp] theorem wsWr_streams (s : State) (c sl o n v : Nat) : (wsWr s c sl o n v).streams = s.streams := rfl
@[simp] theorem wsWr_slots (s : State) (c sl o n v : Nat) : (wsWr s c sl o n v).slots = s.slots := rfl
@[simp] theorem wsWr_cores (s : State) (c sl o n v : Nat) : (wsWr s c sl o n v).cores = s.cores := rfl
@[simp] theorem wsWr_channels (s : State) (c sl o n v : Nat) : (wsWr s c sl o n v).channels = s.channels := rfl
@[simp] theorem wsWr_quads (s : State) (c sl o n v : Nat) : (wsWr s c sl o n v).quads = s.quads := rfl
@[simp] theorem wsWr_parts (s : State) (c sl o n v : Nat) : (wsWr s c sl o n v).parts = s.parts := rfl
@[simp] theorem wsWr_purses (s : State) (c sl o n v : Nat) : (wsWr s c sl o n v).purses = s.purses := rfl
@[simp] theorem wsWr_meters (s : State) (c sl o n v : Nat) : (wsWr s c sl o n v).meters = s.meters := rfl
@[simp] theorem wsWr_flushes (s : State) (c sl o n v : Nat) : (wsWr s c sl o n v).flushes = s.flushes := rfl
@[simp] theorem wsWr_metered (s : State) (c sl o n v : Nat) : (wsWr s c sl o n v).metered = s.metered := rfl
@[simp] theorem wsWr_strandNotice (s : State) (c sl o n v : Nat) : (wsWr s c sl o n v).strandNotice = s.strandNotice := rfl
@[simp] theorem wsWr_stranded (s : State) (c sl o n v : Nat) : (wsWr s c sl o n v).stranded = s.stranded := rfl
@[simp] theorem wsWr_strandOrder (s : State) (c sl o n v : Nat) : (wsWr s c sl o n v).strandOrder = s.strandOrder := rfl
@[simp] theorem wsWr_tvec (s : State) (c sl o n v : Nat) : (wsWr s c sl o n v).tvec = s.tvec := rfl
@[simp] theorem wsWr_dbgctl (s : State) (c sl o n v : Nat) : (wsWr s c sl o n v).dbgctl = s.dbgctl := rfl
@[simp] theorem wsWr_regs (s : State) (c sl o n v : Nat) : (wsWr s c sl o n v).regs = s.regs := rfl
@[simp] theorem wsWr_resvQ (s : State) (c sl o n v : Nat) : (wsWr s c sl o n v).resvQ = s.resvQ := rfl
@[simp] theorem wsWr_granWait (s : State) (c sl o n v : Nat) : (wsWr s c sl o n v).granWait = s.granWait := rfl
@[simp] theorem wsWr_walks (s : State) (c sl o n v : Nat) : (wsWr s c sl o n v).walks = s.walks := rfl
@[simp] theorem wsWr_msgFlight (s : State) (c sl o n v : Nat) : (wsWr s c sl o n v).msgFlight = s.msgFlight := rfl
@[simp] theorem wsWr_tmsgs (s : State) (c sl o n v : Nat) : (wsWr s c sl o n v).tmsgs = s.tmsgs := rfl
@[simp] theorem wsWr_flights (s : State) (c sl o n v : Nat) : (wsWr s c sl o n v).flights = s.flights := rfl
@[simp] theorem wsWr_held (s : State) (c sl o n v : Nat) : (wsWr s c sl o n v).held = s.held := rfl
@[simp] theorem wsWr_engWrites (s : State) (c sl o n v : Nat) : (wsWr s c sl o n v).engWrites = s.engWrites := rfl
@[simp] theorem wsWr_barEvents (s : State) (c sl o n v : Nat) : (wsWr s c sl o n v).barEvents = s.barEvents := rfl
@[simp] theorem wsWr_stripe (s : State) (c sl o n v : Nat) : (wsWr s c sl o n v).stripe = s.stripe := rfl
@[simp] theorem wsWr_sets (s : State) (c sl o n v : Nat) : (wsWr s c sl o n v).sets = s.sets := rfl
@[simp] theorem wsWr_pages (s : State) (c sl o n v : Nat) : (wsWr s c sl o n v).pages = s.pages := rfl
@[simp] theorem wsWr_ownPending (s : State) (c sl o n v : Nat) : (wsWr s c sl o n v).ownPending = s.ownPending := rfl
@[simp] theorem wsWr_net (s : State) (c sl o n v : Nat) : (wsWr s c sl o n v).net = s.net := rfl
@[simp] theorem wsWr_ports (s : State) (c sl o n v : Nat) : (wsWr s c sl o n v).ports = s.ports := rfl
@[simp] theorem wsWr_fw (s : State) (c sl o n v : Nat) : (wsWr s c sl o n v).fw = s.fw := rfl
@[simp] theorem wsWr_regWrites (s : State) (c sl o n v : Nat) : (wsWr s c sl o n v).regWrites = s.regWrites := rfl
@[simp] theorem wsWr_heartbeat (s : State) (c sl o n v : Nat) : (wsWr s c sl o n v).heartbeat = s.heartbeat := rfl
@[simp] theorem wsWr_testing (s : State) (c sl o n v : Nat) : (wsWr s c sl o n v).testing = s.testing := rfl
@[simp] theorem wsWr_testFirst (s : State) (c sl o n v : Nat) : (wsWr s c sl o n v).testFirst = s.testFirst := rfl
@[simp] theorem wsWr_colRetired (s : State) (c sl o n v : Nat) : (wsWr s c sl o n v).colRetired = s.colRetired := rfl
@[simp] theorem wsWr_moves (s : State) (c sl o n v : Nat) : (wsWr s c sl o n v).moves = s.moves := rfl
@[simp] theorem wsWr_xlinvQ (s : State) (c sl o n v : Nat) : (wsWr s c sl o n v).xlinvQ = s.xlinvQ := rfl
@[simp] theorem wsWr_xlinvOut (s : State) (c sl o n v : Nat) : (wsWr s c sl o n v).xlinvOut = s.xlinvOut := rfl
@[simp] theorem wsWr_agenda (s : State) (c sl o n v : Nat) : (wsWr s c sl o n v).agenda = s.agenda := rfl
@[simp] theorem wsWr_cur (s : State) (c sl o n v : Nat) : (wsWr s c sl o n v).cur = s.cur := rfl
@[simp] theorem wsWr_free (s : State) (c sl o n v : Nat) : (wsWr s c sl o n v).free = s.free := rfl
@[simp] theorem wsWr_stalled (s : State) (c sl o n v : Nat) : (wsWr s c sl o n v).stalled = s.stalled := rfl

/-! ## Records after an update -/

@[simp] theorem slot_putSlot (s : State) (c sl c' sl' : Nat) (k : Slot) :
    slot (putSlot s c sl k) c' sl' = if slotKey c' sl' = slotKey c sl then k else slot s c' sl' := mget_mput _ _ _ _ _
@[simp] theorem slot_updSlot (s : State) (c sl c' sl' : Nat) (f : Slot → Slot) :
    slot (updSlot s c sl f) c' sl' = if slotKey c' sl' = slotKey c sl then f (slot s c sl) else slot s c' sl' := mget_mput _ _ _ _ _
@[simp] theorem stream_putStream (s : State) (c c' : Nat) (x x' : Bool) (k : Stream) :
    stream (putStream s c x k) c' x' = if streamKey c' x' = streamKey c x then k else stream s c' x' := mget_mput _ _ _ _ _
@[simp] theorem stream_updStream (s : State) (c c' : Nat) (x x' : Bool) (f : Stream → Stream) :
    stream (updStream s c x f) c' x' = if streamKey c' x' = streamKey c x then f (stream s c x) else stream s c' x' :=
  mget_mput _ _ _ _ _
@[simp] theorem quad_updQuad (s : State) (q q' : Nat) (f : Quad → Quad) :
    quad (updQuad s q f) q' = if q' = q then f (quad s q) else quad s q' := mget_mput _ _ _ _ _
@[simp] theorem part_updPart (s : State) (p p' : Nat) (f : Part → Part) :
    part (updPart s p f) p' = if p' = p then f (part s p) else part s p' := mget_mput _ _ _ _ _
@[simp] theorem purse_putPurse (s : State) (x x' : Nat) (k : Purse) :
    purse (putPurse s x k) x' = if x' = x then k else purse s x' := mget_mput _ _ _ _ _
@[simp] theorem chan_updChan (s : State) (c c' : Nat) (f : Channel → Channel) :
    chan (updChan s c f) c' = if c' = c then f (chan s c) else chan s c' := mget_mput _ _ _ _ _

/-- The default of a core depends on its number, and the write compares with the same default. -/
@[simp] theorem core_updCore (s : State) (c c' : Nat) (f : Core → Core) :
    core (updCore s c f) c' = if c' = c then f (core s c) else core s c' := by
  unfold updCore putCore core
  by_cases h : c' = c
  · subst h; simp
  · simp only [h, if_false]; exact mget_mput_ne' _ _ _ _ h

@[simp] theorem slot_putStream (s : State) (c sl : Nat) (c' : Nat) (x : Bool) (k : Stream) : slot (putStream s c' x k) c sl = slot s c sl := rfl
@[simp] theorem slot_updStream (s : State) (c sl : Nat) (c' : Nat) (x : Bool) (f : Stream → Stream) : slot (updStream s c' x f) c sl = slot s c sl := rfl
@[simp] theorem slot_putCore (s : State) (c sl : Nat) (c' : Nat) (k : Core) : slot (putCore s c' k) c sl = slot s c sl := rfl
@[simp] theorem slot_updCore (s : State) (c sl : Nat) (c' : Nat) (f : Core → Core) : slot (updCore s c' f) c sl = slot s c sl := rfl
@[simp] theorem slot_updChan (s : State) (c sl : Nat) (c' : Nat) (f : Channel → Channel) : slot (updChan s c' f) c sl = slot s c sl := rfl
@[simp] theorem slot_updQuad (s : State) (c sl : Nat) (q : Nat) (f : Quad → Quad) : slot (updQuad s q f) c sl = slot s c sl := rfl
@[simp] theorem slot_updPart (s : State) (c sl : Nat) (p : Nat) (f : Part → Part) : slot (updPart s p f) c sl = slot s c sl := rfl
@[simp] theorem slot_putPurse (s : State) (c sl : Nat) (x : Nat) (k : Purse) : slot (putPurse s x k) c sl = slot s c sl := rfl
@[simp] theorem slot_putReg (s : State) (c sl : Nat) (b o : Nat) (v : Word) : slot (putReg s b o v) c sl = slot s c sl := rfl
@[simp] theorem slot_atCycle (s : State) (c sl : Nat) (t : Nat) : slot (atCycle s t) c sl = slot s c sl := rfl
@[simp] theorem slot_wsWr (s : State) (c sl : Nat) (c' sl' o n v : Nat) : slot (wsWr s c' sl' o n v) c sl = slot s c sl := rfl
@[simp] theorem stream_putSlot (s : State) (c : Nat) (x : Bool) (c' sl : Nat) (k : Slot) : stream (putSlot s c' sl k) c x = stream s c x := rfl
@[simp] theorem stream_updSlot (s : State) (c : Nat) (x : Bool) (c' sl : Nat) (f : Slot → Slot) : stream (updSlot s c' sl f) c x = stream s c x := rfl
@[simp] theorem stream_putCore (s : State) (c : Nat) (x : Bool) (c' : Nat) (k : Core) : stream (putCore s c' k) c x = stream s c x := rfl
@[simp] theorem stream_updCore (s : State) (c : Nat) (x : Bool) (c' : Nat) (f : Core → Core) : stream (updCore s c' f) c x = stream s c x := rfl
@[simp] theorem stream_updChan (s : State) (c : Nat) (x : Bool) (c' : Nat) (f : Channel → Channel) : stream (updChan s c' f) c x = stream s c x := rfl
@[simp] theorem stream_updQuad (s : State) (c : Nat) (x : Bool) (q : Nat) (f : Quad → Quad) : stream (updQuad s q f) c x = stream s c x := rfl
@[simp] theorem stream_updPart (s : State) (c : Nat) (x : Bool) (p : Nat) (f : Part → Part) : stream (updPart s p f) c x = stream s c x := rfl
@[simp] theorem stream_putPurse (s : State) (c : Nat) (x : Bool) (x' : Nat) (k : Purse) : stream (putPurse s x' k) c x = stream s c x := rfl
@[simp] theorem stream_putReg (s : State) (c : Nat) (x : Bool) (b o : Nat) (v : Word) : stream (putReg s b o v) c x = stream s c x := rfl
@[simp] theorem stream_atCycle (s : State) (c : Nat) (x : Bool) (t : Nat) : stream (atCycle s t) c x = stream s c x := rfl
@[simp] theorem stream_wsWr (s : State) (c : Nat) (x : Bool) (c' sl o n v : Nat) : stream (wsWr s c' sl o n v) c x = stream s c x := rfl
@[simp] theorem core_putSlot (s : State) (c : Nat) (c' sl : Nat) (k : Slot) : core (putSlot s c' sl k) c = core s c := rfl
@[simp] theorem core_updSlot (s : State) (c : Nat) (c' sl : Nat) (f : Slot → Slot) : core (updSlot s c' sl f) c = core s c := rfl
@[simp] theorem core_putStream (s : State) (c : Nat) (c' : Nat) (x : Bool) (k : Stream) : core (putStream s c' x k) c = core s c := rfl
@[simp] theorem core_updStream (s : State) (c : Nat) (c' : Nat) (x : Bool) (f : Stream → Stream) : core (updStream s c' x f) c = core s c := rfl
@[simp] theorem core_updChan (s : State) (c : Nat) (c' : Nat) (f : Channel → Channel) : core (updChan s c' f) c = core s c := rfl
@[simp] theorem core_updQuad (s : State) (c : Nat) (q : Nat) (f : Quad → Quad) : core (updQuad s q f) c = core s c := rfl
@[simp] theorem core_updPart (s : State) (c : Nat) (p : Nat) (f : Part → Part) : core (updPart s p f) c = core s c := rfl
@[simp] theorem core_putPurse (s : State) (c : Nat) (x : Nat) (k : Purse) : core (putPurse s x k) c = core s c := rfl
@[simp] theorem core_putReg (s : State) (c : Nat) (b o : Nat) (v : Word) : core (putReg s b o v) c = core s c := rfl
@[simp] theorem core_atCycle (s : State) (c : Nat) (t : Nat) : core (atCycle s t) c = core s c := rfl
@[simp] theorem core_wsWr (s : State) (c : Nat) (c' sl o n v : Nat) : core (wsWr s c' sl o n v) c = core s c := rfl
@[simp] theorem quad_putSlot (s : State) (q : Nat) (c sl : Nat) (k : Slot) : quad (putSlot s c sl k) q = quad s q := rfl
@[simp] theorem quad_updSlot (s : State) (q : Nat) (c sl : Nat) (f : Slot → Slot) : quad (updSlot s c sl f) q = quad s q := rfl
@[simp] theorem quad_putStream (s : State) (q : Nat) (c : Nat) (x : Bool) (k : Stream) : quad (putStream s c x k) q = quad s q := rfl
@[simp] theorem quad_updStream (s : State) (q : Nat) (c : Nat) (x : Bool) (f : Stream → Stream) : quad (updStream s c x f) q = quad s q := rfl
@[simp] theorem quad_putCore (s : State) (q : Nat) (c : Nat) (k : Core) : quad (putCore s c k) q = quad s q := rfl
@[simp] theorem quad_updCore (s : State) (q : Nat) (c : Nat) (f : Core → Core) : quad (updCore s c f) q = quad s q := rfl
@[simp] theorem quad_updChan (s : State) (q : Nat) (c : Nat) (f : Channel → Channel) : quad (updChan s c f) q = quad s q := rfl
@[simp] theorem quad_updPart (s : State) (q : Nat) (p : Nat) (f : Part → Part) : quad (updPart s p f) q = quad s q := rfl
@[simp] theorem quad_putPurse (s : State) (q : Nat) (x : Nat) (k : Purse) : quad (putPurse s x k) q = quad s q := rfl
@[simp] theorem quad_putReg (s : State) (q : Nat) (b o : Nat) (v : Word) : quad (putReg s b o v) q = quad s q := rfl
@[simp] theorem quad_atCycle (s : State) (q : Nat) (t : Nat) : quad (atCycle s t) q = quad s q := rfl
@[simp] theorem quad_wsWr (s : State) (q : Nat) (c sl o n v : Nat) : quad (wsWr s c sl o n v) q = quad s q := rfl
@[simp] theorem part_putSlot (s : State) (p : Nat) (c sl : Nat) (k : Slot) : part (putSlot s c sl k) p = part s p := rfl
@[simp] theorem part_updSlot (s : State) (p : Nat) (c sl : Nat) (f : Slot → Slot) : part (updSlot s c sl f) p = part s p := rfl
@[simp] theorem part_putStream (s : State) (p : Nat) (c : Nat) (x : Bool) (k : Stream) : part (putStream s c x k) p = part s p := rfl
@[simp] theorem part_updStream (s : State) (p : Nat) (c : Nat) (x : Bool) (f : Stream → Stream) : part (updStream s c x f) p = part s p := rfl
@[simp] theorem part_putCore (s : State) (p : Nat) (c : Nat) (k : Core) : part (putCore s c k) p = part s p := rfl
@[simp] theorem part_updCore (s : State) (p : Nat) (c : Nat) (f : Core → Core) : part (updCore s c f) p = part s p := rfl
@[simp] theorem part_updChan (s : State) (p : Nat) (c : Nat) (f : Channel → Channel) : part (updChan s c f) p = part s p := rfl
@[simp] theorem part_updQuad (s : State) (p : Nat) (q : Nat) (f : Quad → Quad) : part (updQuad s q f) p = part s p := rfl
@[simp] theorem part_putPurse (s : State) (p : Nat) (x : Nat) (k : Purse) : part (putPurse s x k) p = part s p := rfl
@[simp] theorem part_putReg (s : State) (p : Nat) (b o : Nat) (v : Word) : part (putReg s b o v) p = part s p := rfl
@[simp] theorem part_atCycle (s : State) (p : Nat) (t : Nat) : part (atCycle s t) p = part s p := rfl
@[simp] theorem part_wsWr (s : State) (p : Nat) (c sl o n v : Nat) : part (wsWr s c sl o n v) p = part s p := rfl
@[simp] theorem chan_putSlot (s : State) (c : Nat) (c' sl : Nat) (k : Slot) : chan (putSlot s c' sl k) c = chan s c := rfl
@[simp] theorem chan_updSlot (s : State) (c : Nat) (c' sl : Nat) (f : Slot → Slot) : chan (updSlot s c' sl f) c = chan s c := rfl
@[simp] theorem chan_putStream (s : State) (c : Nat) (c' : Nat) (x : Bool) (k : Stream) : chan (putStream s c' x k) c = chan s c := rfl
@[simp] theorem chan_updStream (s : State) (c : Nat) (c' : Nat) (x : Bool) (f : Stream → Stream) : chan (updStream s c' x f) c = chan s c := rfl
@[simp] theorem chan_putCore (s : State) (c : Nat) (c' : Nat) (k : Core) : chan (putCore s c' k) c = chan s c := rfl
@[simp] theorem chan_updCore (s : State) (c : Nat) (c' : Nat) (f : Core → Core) : chan (updCore s c' f) c = chan s c := rfl
@[simp] theorem chan_updQuad (s : State) (c : Nat) (q : Nat) (f : Quad → Quad) : chan (updQuad s q f) c = chan s c := rfl
@[simp] theorem chan_updPart (s : State) (c : Nat) (p : Nat) (f : Part → Part) : chan (updPart s p f) c = chan s c := rfl
@[simp] theorem chan_putPurse (s : State) (c : Nat) (x : Nat) (k : Purse) : chan (putPurse s x k) c = chan s c := rfl
@[simp] theorem chan_putReg (s : State) (c : Nat) (b o : Nat) (v : Word) : chan (putReg s b o v) c = chan s c := rfl
@[simp] theorem chan_atCycle (s : State) (c : Nat) (t : Nat) : chan (atCycle s t) c = chan s c := rfl
@[simp] theorem chan_wsWr (s : State) (c : Nat) (c' sl o n v : Nat) : chan (wsWr s c' sl o n v) c = chan s c := rfl
@[simp] theorem purse_putSlot (s : State) (x : Nat) (c sl : Nat) (k : Slot) : purse (putSlot s c sl k) x = purse s x := rfl
@[simp] theorem purse_updSlot (s : State) (x : Nat) (c sl : Nat) (f : Slot → Slot) : purse (updSlot s c sl f) x = purse s x := rfl
@[simp] theorem purse_putStream (s : State) (x : Nat) (c : Nat) (x' : Bool) (k : Stream) : purse (putStream s c x' k) x = purse s x := rfl
@[simp] theorem purse_updStream (s : State) (x : Nat) (c : Nat) (x' : Bool) (f : Stream → Stream) : purse (updStream s c x' f) x = purse s x := rfl
@[simp] theorem purse_putCore (s : State) (x : Nat) (c : Nat) (k : Core) : purse (putCore s c k) x = purse s x := rfl
@[simp] theorem purse_updCore (s : State) (x : Nat) (c : Nat) (f : Core → Core) : purse (updCore s c f) x = purse s x := rfl
@[simp] theorem purse_updChan (s : State) (x : Nat) (c : Nat) (f : Channel → Channel) : purse (updChan s c f) x = purse s x := rfl
@[simp] theorem purse_updQuad (s : State) (x : Nat) (q : Nat) (f : Quad → Quad) : purse (updQuad s q f) x = purse s x := rfl
@[simp] theorem purse_updPart (s : State) (x : Nat) (p : Nat) (f : Part → Part) : purse (updPart s p f) x = purse s x := rfl
@[simp] theorem purse_putReg (s : State) (x : Nat) (b o : Nat) (v : Word) : purse (putReg s b o v) x = purse s x := rfl
@[simp] theorem purse_atCycle (s : State) (x : Nat) (t : Nat) : purse (atCycle s t) x = purse s x := rfl
@[simp] theorem purse_wsWr (s : State) (x : Nat) (c sl o n v : Nat) : purse (wsWr s c sl o n v) x = purse s x := rfl

end Sys2Proof.Machine
end

