-- ==== Sys2Proof/Laws/Ops.lean ====
section
/-! SUPPORT. What the issue of an instruction, a register write and a retirement do. -/

namespace Sys2Proof.Machine

/-! ## The flags that are due (R47) -/

/-- Setting flags changes FLAGS of the workspace only. -/
theorem orFlags_eq (s : State) (c sl f : Nat) : ∃ m, orFlags s c sl f = { s with mem := m }
    ∧ ∀ a n, a + n ≤ wsPa s c sl + 0xF6 ∨ wsPa s c sl + 0xF7 ≤ a → rdN m a n = rdN s.mem a n := by
  unfold orFlags
  split
  · exact ⟨s.mem, rfl, fun _ _ _ => rfl⟩
  · exact ⟨_, rfl, fun a n h => rdN_wrN_out _ _ _ _ _ _ (by omega)⟩

theorem foldFlags_eq (c sl : Nat) : ∀ (ws : List PendWrite) (s : State),
    ∃ m, ws.foldl (fun s w => orFlags s c sl (w.reg - 32)) s = { s with mem := m }
      ∧ ∀ a n, a + n ≤ wsPa s c sl + 0xF6 ∨ wsPa s c sl + 0xF7 ≤ a → rdN m a n = rdN s.mem a n
  | [], s => ⟨s.mem, rfl, fun _ _ _ => rfl⟩
  | w :: ws, s => by
    obtain ⟨m, h, hm⟩ := orFlags_eq s c sl (w.reg - 32)
    obtain ⟨m', h', hm'⟩ := foldFlags_eq c sl ws { s with mem := m }
    exact ⟨m', by rw [List.foldl_cons, h, h'], fun a n ha => (hm' a n ha).trans (hm a n ha)⟩

/-- Settling flags changes FLAGS of the traveller's workspace and takes flags out of the stream's pending writes; nothing else. -/
theorem settleFlags_eq (s : State) (c : Nat) (x : Bool) (sl : Nat) (f : PendWrite → Bool) :
    ∃ m st, settleFlags s c x sl f = { s with mem := m, streams := st }
      ∧ (∀ a n, a + n ≤ wsPa s c sl + 0xF6 ∨ wsPa s c sl + 0xF7 ≤ a → rdN m a n = rdN s.mem a n)
      ∧ stream { s with mem := m, streams := st } c x = { stream s c x with pend := (stream s c x).pend.filter fun w => !(w.isFlags && f w) } := by
  unfold settleFlags
  dsimp only
  split
  · next h =>
    refine ⟨s.mem, s.streams, rfl, fun _ _ _ => rfl, ?_⟩
    have : (stream s c x).pend.filter (fun w => !(w.isFlags && f w)) = (stream s c x).pend := by
      rw [List.filter_eq_self]; intro w hw
      have := List.filter_eq_nil_iff.mp h w hw
      cases hf : w.isFlags <;> simp_all
    rw [this]
  · next ws h =>
    obtain ⟨m, he, hm⟩ := foldFlags_eq c sl _ (putStream s c x { stream s c x with pend := (stream s c x).pend.filter fun w => !(w.isFlags && f w) })
    refine ⟨m, _, he, hm, ?_⟩
    exact (stream_putStream s c c x x _).trans (if_pos rfl)

theorem now_eq (s : State) (x : Ctx) :
    ∃ m st, now s x = { s with cycle := x.t, mem := m, streams := st }
      ∧ (∀ a n, a + n ≤ wsPa s x.c x.sl + 0xF6 ∨ wsPa s x.c x.sl + 0xF7 ≤ a → rdN m a n = rdN s.mem a n)
      ∧ stream { s with mem := m, streams := st } x.c x.x
        = { stream s x.c x.x with pend := (stream s x.c x.x).pend.filter fun w => !(w.isFlags && decide (w.ready ≤ x.t)) } :=
  settleFlags_eq (atCycle s x.t) x.c x.x x.sl _

@[simp] theorem slot_now (s : State) (x : Ctx) (c sl : Nat) : slot (now s x) c sl = slot s c sl := by
  obtain ⟨m, st, h, -⟩ := now_eq s x
  rw [h]; rfl

@[simp] theorem core_now (s : State) (x : Ctx) (c : Nat) : core (now s x) c = core s c := by
  obtain ⟨m, st, h, -⟩ := now_eq s x
  rw [h]; rfl

/-- The pending write of a register is the same after the flags have settled. -/
theorem pendOf_now (s : State) (x : Ctx) (r t : Nat) (hr : r < 32) : pendOf (stream (now s x) x.c x.x) r t = pendOf (stream s x.c x.x) r t := by
  obtain ⟨m, st, h, -, hp⟩ := now_eq s x
  have h1 : stream (now s x) x.c x.x = stream { s with mem := m, streams := st } x.c x.x := by rw [h]; rfl
  rw [h1, hp]
  unfold pendOf
  dsimp only
  induction (stream s x.c x.x).pend with
  | nil => rfl
  | cons w ws ih =>
    by_cases hw : w.reg = r
    · have : w.isFlags = false := by simp [PendWrite.isFlags, hw, hr]
      simp only [List.filter_cons, this, Bool.false_and, Bool.not_false, if_true, List.find?_cons, ih]
    · have : (w.reg == r && decide (t < w.ready)) = false := by simp [hw]
      rw [List.filter_cons]
      split
      · rw [List.find?_cons, this, List.find?_cons, this, ih]
      · rw [List.find?_cons, this, ih]

/-- A workspace field that is not FLAGS reads as before. -/
theorem wsRd_now (s : State) (x : Ctx) (o n : Nat) (h : o + n ≤ 0xF6 ∨ 0xF7 ≤ o) : wsRd (now s x) x.c x.sl o n = wsRd s x.c x.sl o n := by
  obtain ⟨m, st, he, hm, -⟩ := now_eq s x
  have : wsRd (now s x) x.c x.sl o n = rdN m (wsPa s x.c x.sl + o) n := by rw [he]; rfl
  rw [this]
  exact hm _ _ (by omega)

@[simp] theorem frmOf_now (s : State) (x : Ctx) : frmOf (now s x) x.c x.sl = frmOf s x.c x.sl := wsRd_now s x _ _ (by omega)

theorem regValue_now (s : State) (x : Ctx) (r : Nat) : regValue (now s x) x.c x.sl r = regValue s x.c x.sl r := by
  unfold regValue
  split
  · rw [wsRd_now s x _ _ (by omega)]
  · simp only [wsRd_now s x 0xE8 4 (by omega), wsRd_now s x 0xF0 2 (by omega), wsRd_now s x 0xF2 2 (by omega), wsRd_now s x 0xF4 2 (by omega),
      wsRd_now s x 0xEC 4 (by omega), wsRd_now s x 0xF8 4 (by omega), tidOf, core_now]

/-- A register operand yields the same after the flags have settled. -/
@[simp] theorem rd_now (x : Ctx) (s : State) (r : BitVec 5) : x.rd (now s x) r.toNat = x.rd s r.toNat := by
  unfold Ctx.rd
  rw [pendOf_now s x r.toNat x.t r.isLt, regValue_now]
@[simp] theorem poisoned_now (x : Ctx) (s : State) (r : BitVec 5) : x.poisoned (now s x) r.toNat = x.poisoned s r.toNat := by
  unfold Ctx.poisoned isPoisoned
  rw [pendOf_now s x r.toNat x.t r.isLt, slot_now]

/-! ## Issue -/

/-- The checks of R59 pass. -/
theorem issueTrap_none (i : Issue) (x : Ctx) (s : State) (hl : i.legal = true) (ha : accepted x.c x.x i.word = true)
    (hf : i.rounds = true → frmIllegal (frmOf s x.c x.sl) = false) (hv : i.level ≤ (slot s x.c x.sl).lvl)
    (hr : ∀ r ∈ i.reads, pendOf (stream s x.c x.x) r x.t = none) (hs : ∀ r ∈ i.sync, x.poisoned s r = false) :
    issueTrap i x s = none := by
  have h1 : (!i.legal || !accepted x.c x.x i.word || (i.rounds && frmIllegal (frmOf s x.c x.sl))) = false := by
    cases hq : i.rounds <;> simp_all
  have h2 : (i.reads.find? fun r => (pendOf (stream s x.c x.x) r x.t).isSome) = none := by
    rw [List.find?_eq_none]; intro r hm; simp [hr r hm]
  have h3 : (i.sync.find? fun r => x.poisoned s r) = none := by
    rw [List.find?_eq_none]; intro r hm; simp [hs r hm]
  simp [issueTrap, h1, Nat.not_lt.mpr hv, h2, h3]

/-- An issue that nothing prevents is what its body answers. -/
theorem issue_body (i : Issue) (s : State) (x : Ctx) (body : Ctx → State → Act) (hx : ctxOf s = some x) (hr : x.reply = none)
    (ht : issueTrap i x (now s x) = none) :
    issue i s body = (match body x (now s x) with
      | .next s' => .next (retire i x s' (x.pc + 4) false)
      | .jump s' pc => .next (retire i x s' pc true)
      | .trap t => .next (takeTrap (now s x) x.c x.x x.sl x.pc t)
      | .trapIn s' t => .next (takeTrap s' x.c x.x x.sl x.pc t)
      | .park reason cond s' => .next (doPark i x s' reason cond)
      | .hold s' => (match dramHeld s' x with
        | some pa => .next (doPark i x s' 6 (.served pa))
        | none => .next { updStream s' x.c x.x fun k => { k with nextIssue := x.t + 1 } with stalled := true })
      | .leave s' => .next s') := by
  simp only [issue, hx, hr, ht, Option.isNone_none, if_true] <;> rfl

/-- Retiring depends on the word through its wait field only. -/
theorem retire_eq_after (i : Issue) (w : BitVec 3) (x : Ctx) (s : State) (hw : i.word / 2 ^ 29 % 8 = w.toNat) :
    retire i x s (x.pc + 4) false = after w i.fare x s := by
  have : w.toNat * 2 ^ 29 / 2 ^ 29 % 8 = w.toNat := by have := w.isLt; omega
  simp only [after, retire, hw, this]

theorem retire_eq_afterJump (i : Issue) (w : BitVec 3) (x : Ctx) (s : State) (pc : Word) (hw : i.word / 2 ^ 29 % 8 = w.toNat) :
    retire i x s pc true = afterJump w i.fare x s pc := by
  have : w.toNat * 2 ^ 29 / 2 ^ 29 % 8 = w.toNat := by have := w.isLt; omega
  simp only [afterJump, retire, hw, this]

/-- The first check of R59 comes before every effect of the instruction. -/
theorem issue_illegal (i : Issue) (s : State) (x : Ctx) (body : Ctx → State → Act) (n : Nat) (hx : ctxOf s = some x) (hr : x.reply = none)
    (hw : i.word = n) (hl : i.legal = false ∨ accepted x.c x.x n = false) :
    issue i s body = .next (trapped x s { cause := .illegal, addr := BitVec.ofNat 64 n }) := by
  have ht : issueTrap i x (now s x) = some { cause := .illegal, addr := BitVec.ofNat 64 n } := by
    subst hw
    rcases hl with h | h <;> simp [issueTrap, h]
  simp only [issue, hx, hr, Option.isNone_none, if_true, ht]
  rfl

/-- An issue without a RUNNING traveller is the fault noTraveller. -/
theorem issue_faults (i : Issue) (s : State) (body : Ctx → State → Act) (h : ctxOf s = none) : issue i s body = .fault .noTraveller := by
  unfold issue; rw [h]

/-- No issue is refused, and one faults only where no traveller is RUNNING. -/
theorem issue_completes (i : Issue) (s : State) (body : Ctx → State → Act) : (ctxOf s).isSome → Completes (issue i s body) := by
  intro h
  obtain ⟨x, hx⟩ := Option.isSome_iff_exists.mp h
  unfold Completes issue
  rw [hx]
  dsimp only
  split
  · exact ⟨_, rfl⟩
  · exact ⟨_, rfl⟩
  · split
    case h_6 => split <;> exact ⟨_, rfl⟩
    all_goals exact ⟨_, rfl⟩

/-! ## Words -/

theorem word3_wait (m : Nat) (hm : m + 2 ^ 23 ≤ 2 ^ 29) (w : BitVec 3) (d a b : BitVec 5) : word3 m w d a b / 2 ^ 29 % 8 = w.toNat := by
  have := w.isLt; have := d.isLt; have := a.isLt; have := b.isLt
  unfold word3; omega

theorem wordI_wait (m : Nat) (hm : m + 2 ^ 23 ≤ 2 ^ 29) (w : BitVec 3) (d a : BitVec 5) (i : BitVec 13) : wordI m w d a i / 2 ^ 29 % 8 = w.toNat := by
  have := w.isLt; have := d.isLt; have := a.isLt; have := i.isLt
  unfold wordI; omega

end Sys2Proof.Machine
end

