-- ==== Sys2Proof/Laws/PerInstr.lean ====
section
/-! SUPPORT. Families of statements with one lemma per constructor of `Instr`. -/

namespace Sys2Proof.Laws

/-- The word of the instruction, if it has one, has 32 bits, its major opcode is assigned (R48, R56) and its wait field stands in
bits [31:29]. -/
def WordFits.Statement (i : Instr) : Prop := ∀ n, encode i = some n → n < 2 ^ 32 ∧ bitsAt n 23 6 ≠ 0 ∧ bitsAt n 23 6 < 63

theorem WordFits.add (w : BitVec 3) (d : BitVec 5) (a : BitVec 5) (b : BitVec 5) : WordFits.Statement (.add w d a b) := by
  intro k e; obtain rfl := Option.some.inj e; simp only [plc, bitsAt]; omega
theorem WordFits.sub (w : BitVec 3) (d : BitVec 5) (a : BitVec 5) (b : BitVec 5) : WordFits.Statement (.sub w d a b) := by
  intro k e; obtain rfl := Option.some.inj e; simp only [plc, bitsAt]; omega
theorem WordFits.and (w : BitVec 3) (d : BitVec 5) (a : BitVec 5) (b : BitVec 5) : WordFits.Statement (.and w d a b) := by
  intro k e; obtain rfl := Option.some.inj e; simp only [plc, bitsAt]; omega
theorem WordFits.or (w : BitVec 3) (d : BitVec 5) (a : BitVec 5) (b : BitVec 5) : WordFits.Statement (.or w d a b) := by
  intro k e; obtain rfl := Option.some.inj e; simp only [plc, bitsAt]; omega
theorem WordFits.xor (w : BitVec 3) (d : BitVec 5) (a : BitVec 5) (b : BitVec 5) : WordFits.Statement (.xor w d a b) := by
  intro k e; obtain rfl := Option.some.inj e; simp only [plc, bitsAt]; omega
theorem WordFits.andn (w : BitVec 3) (d : BitVec 5) (a : BitVec 5) (b : BitVec 5) : WordFits.Statement (.andn w d a b) := by
  intro k e; obtain rfl := Option.some.inj e; simp only [plc, bitsAt]; omega
theorem WordFits.orn (w : BitVec 3) (d : BitVec 5) (a : BitVec 5) (b : BitVec 5) : WordFits.Statement (.orn w d a b) := by
  intro k e; obtain rfl := Option.some.inj e; simp only [plc, bitsAt]; omega
theorem WordFits.xnor (w : BitVec 3) (d : BitVec 5) (a : BitVec 5) (b : BitVec 5) : WordFits.Statement (.xnor w d a b) := by
  intro k e; obtain rfl := Option.some.inj e; simp only [plc, bitsAt]; omega
theorem WordFits.sll (w : BitVec 3) (d : BitVec 5) (a : BitVec 5) (b : BitVec 5) : WordFits.Statement (.sll w d a b) := by
  intro k e; obtain rfl := Option.some.inj e; simp only [plc, bitsAt]; omega
theorem WordFits.srl (w : BitVec 3) (d : BitVec 5) (a : BitVec 5) (b : BitVec 5) : WordFits.Statement (.srl w d a b) := by
  intro k e; obtain rfl := Option.some.inj e; simp only [plc, bitsAt]; omega
theorem WordFits.sra (w : BitVec 3) (d : BitVec 5) (a : BitVec 5) (b : BitVec 5) : WordFits.Statement (.sra w d a b) := by
  intro k e; obtain rfl := Option.some.inj e; simp only [plc, bitsAt]; omega
theorem WordFits.rol (w : BitVec 3) (d : BitVec 5) (a : BitVec 5) (b : BitVec 5) : WordFits.Statement (.rol w d a b) := by
  intro k e; obtain rfl := Option.some.inj e; simp only [plc, bitsAt]; omega
theorem WordFits.ror (w : BitVec 3) (d : BitVec 5) (a : BitVec 5) (b : BitVec 5) : WordFits.Statement (.ror w d a b) := by
  intro k e; obtain rfl := Option.some.inj e; simp only [plc, bitsAt]; omega
theorem WordFits.slt (w : BitVec 3) (d : BitVec 5) (a : BitVec 5) (b : BitVec 5) : WordFits.Statement (.slt w d a b) := by
  intro k e; obtain rfl := Option.some.inj e; simp only [plc, bitsAt]; omega
theorem WordFits.sltu (w : BitVec 3) (d : BitVec 5) (a : BitVec 5) (b : BitVec 5) : WordFits.Statement (.sltu w d a b) := by
  intro k e; obtain rfl := Option.some.inj e; simp only [plc, bitsAt]; omega
theorem WordFits.min (w : BitVec 3) (d : BitVec 5) (a : BitVec 5) (b : BitVec 5) : WordFits.Statement (.min w d a b) := by
  intro k e; obtain rfl := Option.some.inj e; simp only [plc, bitsAt]; omega
theorem WordFits.max (w : BitVec 3) (d : BitVec 5) (a : BitVec 5) (b : BitVec 5) : WordFits.Statement (.max w d a b) := by
  intro k e; obtain rfl := Option.some.inj e; simp only [plc, bitsAt]; omega
theorem WordFits.minu (w : BitVec 3) (d : BitVec 5) (a : BitVec 5) (b : BitVec 5) : WordFits.Statement (.minu w d a b) := by
  intro k e; obtain rfl := Option.some.inj e; simp only [plc, bitsAt]; omega
theorem WordFits.maxu (w : BitVec 3) (d : BitVec 5) (a : BitVec 5) (b : BitVec 5) : WordFits.Statement (.maxu w d a b) := by
  intro k e; obtain rfl := Option.some.inj e; simp only [plc, bitsAt]; omega
theorem WordFits.seq (w : BitVec 3) (d : BitVec 5) (a : BitVec 5) (b : BitVec 5) : WordFits.Statement (.seq w d a b) := by
  intro k e; obtain rfl := Option.some.inj e; simp only [plc, bitsAt]; omega
theorem WordFits.sne (w : BitVec 3) (d : BitVec 5) (a : BitVec 5) (b : BitVec 5) : WordFits.Statement (.sne w d a b) := by
  intro k e; obtain rfl := Option.some.inj e; simp only [plc, bitsAt]; omega
theorem WordFits.addw (w : BitVec 3) (d : BitVec 5) (a : BitVec 5) (b : BitVec 5) : WordFits.Statement (.addw w d a b) := by
  intro k e; obtain rfl := Option.some.inj e; simp only [plc, bitsAt]; omega
theorem WordFits.subw (w : BitVec 3) (d : BitVec 5) (a : BitVec 5) (b : BitVec 5) : WordFits.Statement (.subw w d a b) := by
  intro k e; obtain rfl := Option.some.inj e; simp only [plc, bitsAt]; omega
theorem WordFits.sllw (w : BitVec 3) (d : BitVec 5) (a : BitVec 5) (b : BitVec 5) : WordFits.Statement (.sllw w d a b) := by
  intro k e; obtain rfl := Option.some.inj e; simp only [plc, bitsAt]; omega
theorem WordFits.srlw (w : BitVec 3) (d : BitVec 5) (a : BitVec 5) (b : BitVec 5) : WordFits.Statement (.srlw w d a b) := by
  intro k e; obtain rfl := Option.some.inj e; simp only [plc, bitsAt]; omega
theorem WordFits.sraw (w : BitVec 3) (d : BitVec 5) (a : BitVec 5) (b : BitVec 5) : WordFits.Statement (.sraw w d a b) := by
  intro k e; obtain rfl := Option.some.inj e; simp only [plc, bitsAt]; omega
theorem WordFits.clz (w : BitVec 3) (d : BitVec 5) (a : BitVec 5) : WordFits.Statement (.clz w d a) := by
  intro k e; obtain rfl := Option.some.inj e; simp only [plc, bitsAt]; omega
theorem WordFits.ctz (w : BitVec 3) (d : BitVec 5) (a : BitVec 5) : WordFits.Statement (.ctz w d a) := by
  intro k e; obtain rfl := Option.some.inj e; simp only [plc, bitsAt]; omega
theorem WordFits.popc (w : BitVec 3) (d : BitVec 5) (a : BitVec 5) : WordFits.Statement (.popc w d a) := by
  intro k e; obtain rfl := Option.some.inj e; simp only [plc, bitsAt]; omega
theorem WordFits.brev (w : BitVec 3) (d : BitVec 5) (a : BitVec 5) : WordFits.Statement (.brev w d a) := by
  intro k e; obtain rfl := Option.some.inj e; simp only [plc, bitsAt]; omega
theorem WordFits.bswap (w : BitVec 3) (d : BitVec 5) (a : BitVec 5) : WordFits.Statement (.bswap w d a) := by
  intro k e; obtain rfl := Option.some.inj e; simp only [plc, bitsAt]; omega
theorem WordFits.sext (w : BitVec 3) (d : BitVec 5) (a : BitVec 5) (b : BitVec 5) : WordFits.Statement (.sext w d a b) := by
  intro k e; obtain rfl := Option.some.inj e; simp only [plc, bitsAt]; omega
theorem WordFits.mul (w : BitVec 3) (d : BitVec 5) (a : BitVec 5) (b : BitVec 5) : WordFits.Statement (.mul w d a b) := by
  intro k e; obtain rfl := Option.some.inj e; simp only [plc, bitsAt]; omega
theorem WordFits.mulh (w : BitVec 3) (d : BitVec 5) (a : BitVec 5) (b : BitVec 5) : WordFits.Statement (.mulh w d a b) := by
  intro k e; obtain rfl := Option.some.inj e; simp only [plc, bitsAt]; omega
theorem WordFits.mulhu (w : BitVec 3) (d : BitVec 5) (a : BitVec 5) (b : BitVec 5) : WordFits.Statement (.mulhu w d a b) := by
  intro k e; obtain rfl := Option.some.inj e; simp only [plc, bitsAt]; omega
theorem WordFits.mulw (w : BitVec 3) (d : BitVec 5) (a : BitVec 5) (b : BitVec 5) : WordFits.Statement (.mulw w d a b) := by
  intro k e; obtain rfl := Option.some.inj e; simp only [plc, bitsAt]; omega
theorem WordFits.div (w : BitVec 3) (d : BitVec 5) (a : BitVec 5) (b : BitVec 5) : WordFits.Statement (.div w d a b) := by
  intro k e; obtain rfl := Option.some.inj e; simp only [plc, bitsAt]; omega
theorem WordFits.divu (w : BitVec 3) (d : BitVec 5) (a : BitVec 5) (b : BitVec 5) : WordFits.Statement (.divu w d a b) := by
  intro k e; obtain rfl := Option.some.inj e; simp only [plc, bitsAt]; omega
theorem WordFits.rem (w : BitVec 3) (d : BitVec 5) (a : BitVec 5) (b : BitVec 5) : WordFits.Statement (.rem w d a b) := by
  intro k e; obtain rfl := Option.some.inj e; simp only [plc, bitsAt]; omega
theorem WordFits.remu (w : BitVec 3) (d : BitVec 5) (a : BitVec 5) (b : BitVec 5) : WordFits.Statement (.remu w d a b) := by
  intro k e; obtain rfl := Option.some.inj e; simp only [plc, bitsAt]; omega
theorem WordFits.bilv2 (w : BitVec 3) (d : BitVec 5) (a : BitVec 5) (b : BitVec 5) : WordFits.Statement (.bilv2 w d a b) := by
  intro k e; obtain rfl := Option.some.inj e; simp only [plc, bitsAt]; omega
theorem WordFits.bilv3 (w : BitVec 3) (d : BitVec 5) (a : BitVec 5) (b : BitVec 5) : WordFits.Statement (.bilv3 w d a b) := by
  intro k e; obtain rfl := Option.some.inj e; simp only [plc, bitsAt]; omega
theorem WordFits.bdil3 (w : BitVec 3) (d : BitVec 5) (a : BitVec 5) (b : BitVec 5) : WordFits.Statement (.bdil3 w d a b) := by
  intro k e; obtain rfl := Option.some.inj e; simp only [plc, bitsAt]; omega
theorem WordFits.extu (w : BitVec 3) (d : BitVec 5) (a : BitVec 5) (b : BitVec 5) : WordFits.Statement (.extu w d a b) := by
  intro k e; obtain rfl := Option.some.inj e; simp only [plc, bitsAt]; omega
theorem WordFits.exts (w : BitVec 3) (d : BitVec 5) (a : BitVec 5) (b : BitVec 5) : WordFits.Statement (.exts w d a b) := by
  intro k e; obtain rfl := Option.some.inj e; simp only [plc, bitsAt]; omega
theorem WordFits.ins (w : BitVec 3) (d : BitVec 5) (a : BitVec 5) (b : BitVec 5) : WordFits.Statement (.ins w d a b) := by
  intro k e; obtain rfl := Option.some.inj e; simp only [plc, bitsAt]; omega
theorem WordFits.addi (w : BitVec 3) (d : BitVec 5) (a : BitVec 5) (imm : BitVec 13) : WordFits.Statement (.addi w d a imm) := by
  intro k e; obtain rfl := Option.some.inj e; simp only [plc, bitsAt]; omega
theorem WordFits.andi (w : BitVec 3) (d : BitVec 5) (a : BitVec 5) (imm : BitVec 13) : WordFits.Statement (.andi w d a imm) := by
  intro k e; obtain rfl := Option.some.inj e; simp only [plc, bitsAt]; omega
theorem WordFits.ori (w : BitVec 3) (d : BitVec 5) (a : BitVec 5) (imm : BitVec 13) : WordFits.Statement (.ori w d a imm) := by
  intro k e; obtain rfl := Option.some.inj e; simp only [plc, bitsAt]; omega
theorem WordFits.xori (w : BitVec 3) (d : BitVec 5) (a : BitVec 5) (imm : BitVec 13) : WordFits.Statement (.xori w d a imm) := by
  intro k e; obtain rfl := Option.some.inj e; simp only [plc, bitsAt]; omega
theorem WordFits.slti (w : BitVec 3) (d : BitVec 5) (a : BitVec 5) (imm : BitVec 13) : WordFits.Statement (.slti w d a imm) := by
  intro k e; obtain rfl := Option.some.inj e; simp only [plc, bitsAt]; omega
theorem WordFits.sltiu (w : BitVec 3) (d : BitVec 5) (a : BitVec 5) (imm : BitVec 13) : WordFits.Statement (.sltiu w d a imm) := by
  intro k e; obtain rfl := Option.some.inj e; simp only [plc, bitsAt]; omega
theorem WordFits.slli (w : BitVec 3) (d : BitVec 5) (a : BitVec 5) (h : BitVec 6) : WordFits.Statement (.slli w d a h) := by
  intro k e; obtain rfl := Option.some.inj e; simp only [plc, bitsAt]; omega
theorem WordFits.srli (w : BitVec 3) (d : BitVec 5) (a : BitVec 5) (h : BitVec 6) : WordFits.Statement (.srli w d a h) := by
  intro k e; obtain rfl := Option.some.inj e; simp only [plc, bitsAt]; omega
theorem WordFits.srai (w : BitVec 3) (d : BitVec 5) (a : BitVec 5) (h : BitVec 6) : WordFits.Statement (.srai w d a h) := by
  intro k e; obtain rfl := Option.some.inj e; simp only [plc, bitsAt]; omega
theorem WordFits.rori (w : BitVec 3) (d : BitVec 5) (a : BitVec 5) (h : BitVec 6) : WordFits.Statement (.rori w d a h) := by
  intro k e; obtain rfl := Option.some.inj e; simp only [plc, bitsAt]; omega
theorem WordFits.himm (w : BitVec 3) (d : BitVec 5) (imm : BitVec 18) : WordFits.Statement (.himm w d imm) := by
  intro k e; obtain rfl := Option.some.inj e; simp only [plc, bitsAt]; omega
theorem WordFits.pchi (w : BitVec 3) (d : BitVec 5) (imm : BitVec 18) : WordFits.Statement (.pchi w d imm) := by
  intro k e; obtain rfl := Option.some.inj e; simp only [plc, bitsAt]; omega
theorem WordFits.fadd (w : BitVec 3) (d : BitVec 5) (a : BitVec 5) (b : BitVec 5) (t : BitVec 1) : WordFits.Statement (.fadd w d a b t) := by
  intro k e; obtain rfl := Option.some.inj e; simp only [plc, bitsAt]; omega
theorem WordFits.fsub (w : BitVec 3) (d : BitVec 5) (a : BitVec 5) (b : BitVec 5) (t : BitVec 1) : WordFits.Statement (.fsub w d a b t) := by
  intro k e; obtain rfl := Option.some.inj e; simp only [plc, bitsAt]; omega
theorem WordFits.fmul (w : BitVec 3) (d : BitVec 5) (a : BitVec 5) (b : BitVec 5) (t : BitVec 1) : WordFits.Statement (.fmul w d a b t) := by
  intro k e; obtain rfl := Option.some.inj e; simp only [plc, bitsAt]; omega
theorem WordFits.fdiv (w : BitVec 3) (d : BitVec 5) (a : BitVec 5) (b : BitVec 5) (t : BitVec 1) : WordFits.Statement (.fdiv w d a b t) := by
  intro k e; obtain rfl := Option.some.inj e; simp only [plc, bitsAt]; omega
theorem WordFits.fsqrt (w : BitVec 3) (d : BitVec 5) (a : BitVec 5) (t : BitVec 1) : WordFits.Statement (.fsqrt w d a t) := by
  intro k e; obtain rfl := Option.some.inj e; simp only [plc, bitsAt]; omega
theorem WordFits.fmin (w : BitVec 3) (d : BitVec 5) (a : BitVec 5) (b : BitVec 5) (t : BitVec 1) : WordFits.Statement (.fmin w d a b t) := by
  intro k e; obtain rfl := Option.some.inj e; simp only [plc, bitsAt]; omega
theorem WordFits.fmax (w : BitVec 3) (d : BitVec 5) (a : BitVec 5) (b : BitVec 5) (t : BitVec 1) : WordFits.Statement (.fmax w d a b t) := by
  intro k e; obtain rfl := Option.some.inj e; simp only [plc, bitsAt]; omega
theorem WordFits.feq (w : BitVec 3) (d : BitVec 5) (a : BitVec 5) (b : BitVec 5) (t : BitVec 1) : WordFits.Statement (.feq w d a b t) := by
  intro k e; obtain rfl := Option.some.inj e; simp only [plc, bitsAt]; omega
theorem WordFits.flt (w : BitVec 3) (d : BitVec 5) (a : BitVec 5) (b : BitVec 5) (t : BitVec 1) : WordFits.Statement (.flt w d a b t) := by
  intro k e; obtain rfl := Option.some.inj e; simp only [plc, bitsAt]; omega
theorem WordFits.fle (w : BitVec 3) (d : BitVec 5) (a : BitVec 5) (b : BitVec 5) (t : BitVec 1) : WordFits.Statement (.fle w d a b t) := by
  intro k e; obtain rfl := Option.some.inj e; simp only [plc, bitsAt]; omega
theorem WordFits.fclass (w : BitVec 3) (d : BitVec 5) (a : BitVec 5) (t : BitVec 1) : WordFits.Statement (.fclass w d a t) := by
  intro k e; obtain rfl := Option.some.inj e; simp only [plc, bitsAt]; omega
theorem WordFits.fcvti (w : BitVec 3) (d : BitVec 5) (a : BitVec 5) (t : BitVec 1) : WordFits.Statement (.fcvti w d a t) := by
  intro k e; obtain rfl := Option.some.inj e; simp only [plc, bitsAt]; omega
theorem WordFits.fcvtu (w : BitVec 3) (d : BitVec 5) (a : BitVec 5) (t : BitVec 1) : WordFits.Statement (.fcvtu w d a t) := by
  intro k e; obtain rfl := Option.some.inj e; simp only [plc, bitsAt]; omega
theorem WordFits.fcvtf (w : BitVec 3) (d : BitVec 5) (a : BitVec 5) (t : BitVec 1) : WordFits.Statement (.fcvtf w d a t) := by
  intro k e; obtain rfl := Option.some.inj e; simp only [plc, bitsAt]; omega
theorem WordFits.fcvtfu (w : BitVec 3) (d : BitVec 5) (a : BitVec 5) (t : BitVec 1) : WordFits.Statement (.fcvtfu w d a t) := by
  intro k e; obtain rfl := Option.some.inj e; simp only [plc, bitsAt]; omega
theorem WordFits.fcvtw (w : BitVec 3) (d : BitVec 5) (a : BitVec 5) (t : BitVec 1) : WordFits.Statement (.fcvtw w d a t) := by
  intro k e; obtain rfl := Option.some.inj e; simp only [plc, bitsAt]; omega
theorem WordFits.fneg (w : BitVec 3) (d : BitVec 5) (a : BitVec 5) (t : BitVec 1) : WordFits.Statement (.fneg w d a t) := by
  intro k e; obtain rfl := Option.some.inj e; simp only [plc, bitsAt]; omega
theorem WordFits.fabs (w : BitVec 3) (d : BitVec 5) (a : BitVec 5) (t : BitVec 1) : WordFits.Statement (.fabs w d a t) := by
  intro k e; obtain rfl := Option.some.inj e; simp only [plc, bitsAt]; omega
theorem WordFits.fmas (w : BitVec 3) (d : BitVec 5) (a : BitVec 5) (b : BitVec 5) : WordFits.Statement (.fmas w d a b) := by
  intro k e; obtain rfl := Option.some.inj e; simp only [plc, bitsAt]; omega
theorem WordFits.fmad (w : BitVec 3) (d : BitVec 5) (a : BitVec 5) (b : BitVec 5) : WordFits.Statement (.fmad w d a b) := by
  intro k e; obtain rfl := Option.some.inj e; simp only [plc, bitsAt]; omega
theorem WordFits.fnmas (w : BitVec 3) (d : BitVec 5) (a : BitVec 5) (b : BitVec 5) : WordFits.Statement (.fnmas w d a b) := by
  intro k e; obtain rfl := Option.some.inj e; simp only [plc, bitsAt]; omega
theorem WordFits.fnmad (w : BitVec 3) (d : BitVec 5) (a : BitVec 5) (b : BitVec 5) : WordFits.Statement (.fnmad w d a b) := by
  intro k e; obtain rfl := Option.some.inj e; simp only [plc, bitsAt]; omega
theorem WordFits.fmss (w : BitVec 3) (d : BitVec 5) (a : BitVec 5) (b : BitVec 5) : WordFits.Statement (.fmss w d a b) := by
  intro k e; obtain rfl := Option.some.inj e; simp only [plc, bitsAt]; omega
theorem WordFits.fmsd (w : BitVec 3) (d : BitVec 5) (a : BitVec 5) (b : BitVec 5) : WordFits.Statement (.fmsd w d a b) := by
  intro k e; obtain rfl := Option.some.inj e; simp only [plc, bitsAt]; omega
theorem WordFits.copy (w : BitVec 3) (d : BitVec 5) (a : BitVec 5) (b : BitVec 5) : WordFits.Statement (.copy w d a b) := by
  intro k e; obtain rfl := Option.some.inj e; simp only [plc, bitsAt]; omega
theorem WordFits.copy2d (w : BitVec 3) (d : BitVec 5) (a : BitVec 5) (b : BitVec 5) : WordFits.Statement (.copy2d w d a b) := by
  intro k e; obtain rfl := Option.some.inj e; simp only [plc, bitsAt]; omega
theorem WordFits.wincopy (w : BitVec 3) (d : BitVec 5) (a : BitVec 5) : WordFits.Statement (.wincopy w d a) := by
  intro k e; obtain rfl := Option.some.inj e; simp only [plc, bitsAt]; omega
theorem WordFits.putx (w : BitVec 3) (d : BitVec 5) (a : BitVec 5) (b : BitVec 5) : WordFits.Statement (.putx w d a b) := by
  intro k e; obtain rfl := Option.some.inj e; simp only [plc, bitsAt]; omega
theorem WordFits.getx (w : BitVec 3) (d : BitVec 5) (a : BitVec 5) (b : BitVec 5) : WordFits.Statement (.getx w d a b) := by
  intro k e; obtain rfl := Option.some.inj e; simp only [plc, bitsAt]; omega
theorem WordFits.mcast (w : BitVec 3) (d : BitVec 5) (a : BitVec 5) (b : BitVec 5) : WordFits.Statement (.mcast w d a b) := by
  intro k e; obtain rfl := Option.some.inj e; simp only [plc, bitsAt]; omega
theorem WordFits.nred (w : BitVec 3) (d : BitVec 5) (a : BitVec 5) (b : BitVec 5) : WordFits.Statement (.nred w d a b) := by
  intro k e; obtain rfl := Option.some.inj e; simp only [plc, bitsAt]; omega
theorem WordFits.cwait (w : BitVec 3) (a : BitVec 5) : WordFits.Statement (.cwait w a) := by
  intro k e; obtain rfl := Option.some.inj e; simp only [plc, bitsAt]; omega
theorem WordFits.rinit (w : BitVec 3) (n : BitVec 3) (a : BitVec 5) : WordFits.Statement (.rinit w n a) := by
  intro k e; obtain rfl := Option.some.inj e; simp only [plc, bitsAt]; omega
theorem WordFits.rpush (w : BitVec 3) (n : BitVec 3) : WordFits.Statement (.rpush w n) := by
  intro k e; obtain rfl := Option.some.inj e; simp only [plc, bitsAt]; omega
theorem WordFits.rpop (w : BitVec 3) (n : BitVec 3) : WordFits.Statement (.rpop w n) := by
  intro k e; obtain rfl := Option.some.inj e; simp only [plc, bitsAt]; omega
theorem WordFits.rstat (w : BitVec 3) (n : BitVec 3) (a : BitVec 5) : WordFits.Statement (.rstat w n a) := by
  intro k e; obtain rfl := Option.some.inj e; simp only [plc, bitsAt]; omega
theorem WordFits.rwaitd (w : BitVec 3) (n : BitVec 3) (a : BitVec 5) : WordFits.Statement (.rwaitd w n a) := by
  intro k e; obtain rfl := Option.some.inj e; simp only [plc, bitsAt]; omega
theorem WordFits.rwaits (w : BitVec 3) (n : BitVec 3) (a : BitVec 5) : WordFits.Statement (.rwaits w n a) := by
  intro k e; obtain rfl := Option.some.inj e; simp only [plc, bitsAt]; omega
theorem WordFits.ld (w : BitVec 3) (d : BitVec 5) (a : BitVec 5) (imm : BitVec 13) : WordFits.Statement (.ld w d a imm) := by
  intro k e; obtain rfl := Option.some.inj e; simp only [plc, bitsAt]; omega
theorem WordFits.lw (w : BitVec 3) (d : BitVec 5) (a : BitVec 5) (imm : BitVec 13) : WordFits.Statement (.lw w d a imm) := by
  intro k e; obtain rfl := Option.some.inj e; simp only [plc, bitsAt]; omega
theorem WordFits.lwu (w : BitVec 3) (d : BitVec 5) (a : BitVec 5) (imm : BitVec 13) : WordFits.Statement (.lwu w d a imm) := by
  intro k e; obtain rfl := Option.some.inj e; simp only [plc, bitsAt]; omega
theorem WordFits.lh (w : BitVec 3) (d : BitVec 5) (a : BitVec 5) (imm : BitVec 13) : WordFits.Statement (.lh w d a imm) := by
  intro k e; obtain rfl := Option.some.inj e; simp only [plc, bitsAt]; omega
theorem WordFits.lhu (w : BitVec 3) (d : BitVec 5) (a : BitVec 5) (imm : BitVec 13) : WordFits.Statement (.lhu w d a imm) := by
  intro k e; obtain rfl := Option.some.inj e; simp only [plc, bitsAt]; omega
theorem WordFits.lb (w : BitVec 3) (d : BitVec 5) (a : BitVec 5) (imm : BitVec 13) : WordFits.Statement (.lb w d a imm) := by
  intro k e; obtain rfl := Option.some.inj e; simp only [plc, bitsAt]; omega
theorem WordFits.lbu (w : BitVec 3) (d : BitVec 5) (a : BitVec 5) (imm : BitVec 13) : WordFits.Statement (.lbu w d a imm) := by
  intro k e; obtain rfl := Option.some.inj e; simp only [plc, bitsAt]; omega
theorem WordFits.lfe (w : BitVec 3) (d : BitVec 5) (a : BitVec 5) (c : BitVec 1) (z : BitVec 2) (o : BitVec 10) : WordFits.Statement (.lfe w d a c z o) := by
  intro k e; obtain rfl := Option.some.inj e; simp only [plc, bitsAt]; omega
theorem WordFits.sd (w : BitVec 3) (rs : BitVec 5) (a : BitVec 5) (imm : BitVec 13) : WordFits.Statement (.sd w rs a imm) := by
  intro k e; obtain rfl := Option.some.inj e; simp only [plc, bitsAt]; omega
theorem WordFits.sw (w : BitVec 3) (rs : BitVec 5) (a : BitVec 5) (imm : BitVec 13) : WordFits.Statement (.sw w rs a imm) := by
  intro k e; obtain rfl := Option.some.inj e; simp only [plc, bitsAt]; omega
theorem WordFits.sh (w : BitVec 3) (rs : BitVec 5) (a : BitVec 5) (imm : BitVec 13) : WordFits.Statement (.sh w rs a imm) := by
  intro k e; obtain rfl := Option.some.inj e; simp only [plc, bitsAt]; omega
theorem WordFits.sb (w : BitVec 3) (rs : BitVec 5) (a : BitVec 5) (imm : BitVec 13) : WordFits.Statement (.sb w rs a imm) := by
  intro k e; obtain rfl := Option.some.inj e; simp only [plc, bitsAt]; omega
theorem WordFits.sfe (w : BitVec 3) (rs : BitVec 5) (a : BitVec 5) (f : BitVec 1) (z : BitVec 2) (o : BitVec 10) : WordFits.Statement (.sfe w rs a f z o) := by
  intro k e; obtain rfl := Option.some.inj e; simp only [plc, bitsAt]; omega
theorem WordFits.enq (w : BitVec 3) (a : BitVec 5) (b : BitVec 5) : WordFits.Statement (.enq w a b) := by
  intro k e; obtain rfl := Option.some.inj e; simp only [plc, bitsAt]; omega
theorem WordFits.deq (w : BitVec 3) (d : BitVec 5) (a : BitVec 5) (b : BitVec 5) : WordFits.Statement (.deq w d a b) := by
  intro k e; obtain rfl := Option.some.inj e; simp only [plc, bitsAt]; omega
theorem WordFits.qstat (w : BitVec 3) (d : BitVec 5) (b : BitVec 5) : WordFits.Statement (.qstat w d b) := by
  intro k e; obtain rfl := Option.some.inj e; simp only [plc, bitsAt]; omega
theorem WordFits.launch (w : BitVec 3) (a : BitVec 5) : WordFits.Statement (.launch w a) := by
  intro k e; obtain rfl := Option.some.inj e; simp only [plc, bitsAt]; omega
theorem WordFits.cdone (w : BitVec 3) (d : BitVec 5) (a : BitVec 5) (b : BitVec 5) : WordFits.Statement (.cdone w d a b) := by
  intro k e; obtain rfl := Option.some.inj e; simp only [plc, bitsAt]; omega
theorem WordFits.cchk (w : BitVec 3) (d : BitVec 5) (a : BitVec 5) : WordFits.Statement (.cchk w d a) := by
  intro k e; obtain rfl := Option.some.inj e; simp only [plc, bitsAt]; omega
theorem WordFits.cancel (w : BitVec 3) (a : BitVec 5) : WordFits.Statement (.cancel w a) := by
  intro k e; obtain rfl := Option.some.inj e; simp only [plc, bitsAt]; omega
theorem WordFits.trap (w : BitVec 3) (a : BitVec 5) : WordFits.Statement (.trap w a) := by
  intro k e; obtain rfl := Option.some.inj e; simp only [plc, bitsAt]; omega
theorem WordFits.eret (w : BitVec 3) (a : BitVec 5) : WordFits.Statement (.eret w a) := by
  intro k e; obtain rfl := Option.some.inj e; simp only [plc, bitsAt]; omega
theorem WordFits.brk (w : BitVec 3) : WordFits.Statement (.brk w) := by
  intro k e; obtain rfl := Option.some.inj e; simp only [plc, bitsAt]; omega
theorem WordFits.wfm (w : BitVec 3) (d : BitVec 5) : WordFits.Statement (.wfm w d) := by
  intro k e; obtain rfl := Option.some.inj e; simp only [plc, bitsAt]; omega
theorem WordFits.seal (w : BitVec 3) (a : BitVec 5) : WordFits.Statement (.seal w a) := by
  intro k e; obtain rfl := Option.some.inj e; simp only [plc, bitsAt]; omega
theorem WordFits.restart (w : BitVec 3) : WordFits.Statement (.restart w) := by
  intro k e; obtain rfl := Option.some.inj e; simp only [plc, bitsAt]; omega
theorem WordFits.purseadd (w : BitVec 3) (d : BitVec 5) (a : BitVec 5) (b : BitVec 5) : WordFits.Statement (.purseadd w d a b) := by
  intro k e; obtain rfl := Option.some.inj e; simp only [plc, bitsAt]; omega
theorem WordFits.csrr (w : BitVec 3) (d : BitVec 5) (n : BitVec 11) : WordFits.Statement (.csrr w d n) := by
  intro k e; obtain rfl := Option.some.inj e; simp only [plc, bitsAt]; omega
theorem WordFits.csrw (w : BitVec 3) (d : BitVec 5) (a : BitVec 5) (n : BitVec 11) : WordFits.Statement (.csrw w d a n) := by
  intro k e; obtain rfl := Option.some.inj e; simp only [plc, bitsAt]; omega
theorem WordFits.csrs (w : BitVec 3) (d : BitVec 5) (a : BitVec 5) (n : BitVec 11) : WordFits.Statement (.csrs w d a n) := by
  intro k e; obtain rfl := Option.some.inj e; simp only [plc, bitsAt]; omega
theorem WordFits.csrc (w : BitVec 3) (d : BitVec 5) (a : BitVec 5) (n : BitVec 11) : WordFits.Statement (.csrc w d a n) := by
  intro k e; obtain rfl := Option.some.inj e; simp only [plc, bitsAt]; omega
theorem WordFits.beq (w : BitVec 3) (a : BitVec 5) (b : BitVec 5) (o : BitVec 13) : WordFits.Statement (.beq w a b o) := by
  intro k e; obtain rfl := Option.some.inj e; simp only [plc, bitsAt]; omega
theorem WordFits.bne (w : BitVec 3) (a : BitVec 5) (b : BitVec 5) (o : BitVec 13) : WordFits.Statement (.bne w a b o) := by
  intro k e; obtain rfl := Option.some.inj e; simp only [plc, bitsAt]; omega
theorem WordFits.blt (w : BitVec 3) (a : BitVec 5) (b : BitVec 5) (o : BitVec 13) : WordFits.Statement (.blt w a b o) := by
  intro k e; obtain rfl := Option.some.inj e; simp only [plc, bitsAt]; omega
theorem WordFits.bge (w : BitVec 3) (a : BitVec 5) (b : BitVec 5) (o : BitVec 13) : WordFits.Statement (.bge w a b o) := by
  intro k e; obtain rfl := Option.some.inj e; simp only [plc, bitsAt]; omega
theorem WordFits.bltu (w : BitVec 3) (a : BitVec 5) (b : BitVec 5) (o : BitVec 13) : WordFits.Statement (.bltu w a b o) := by
  intro k e; obtain rfl := Option.some.inj e; simp only [plc, bitsAt]; omega
theorem WordFits.bgeu (w : BitVec 3) (a : BitVec 5) (b : BitVec 5) (o : BitVec 13) : WordFits.Statement (.bgeu w a b o) := by
  intro k e; obtain rfl := Option.some.inj e; simp only [plc, bitsAt]; omega
theorem WordFits.jal (w : BitVec 3) (o : BitVec 23) : WordFits.Statement (.jal w o) := by
  intro k e; obtain rfl := Option.some.inj e; simp only [plc, bitsAt]; omega
theorem WordFits.jalr (w : BitVec 3) (d : BitVec 5) (a : BitVec 5) (imm : BitVec 13) : WordFits.Statement (.jalr w d a imm) := by
  intro k e; obtain rfl := Option.some.inj e; simp only [plc, bitsAt]; omega
theorem WordFits.pbrAny (w : BitVec 3) (o : BitVec 20) : WordFits.Statement (.pbrAny w o) := by
  intro k e; obtain rfl := Option.some.inj e; simp only [plc, bitsAt]; omega
theorem WordFits.pbrNone (w : BitVec 3) (o : BitVec 20) : WordFits.Statement (.pbrNone w o) := by
  intro k e; obtain rfl := Option.some.inj e; simp only [plc, bitsAt]; omega
theorem WordFits.pbrAll (w : BitVec 3) (o : BitVec 20) : WordFits.Statement (.pbrAll w o) := by
  intro k e; obtain rfl := Option.some.inj e; simp only [plc, bitsAt]; omega
theorem WordFits.pbrNall (w : BitVec 3) (o : BitVec 20) : WordFits.Statement (.pbrNall w o) := by
  intro k e; obtain rfl := Option.some.inj e; simp only [plc, bitsAt]; omega
theorem WordFits.pwhile (w : BitVec 3) (a : BitVec 5) (b : BitVec 5) (z : BitVec 2) : WordFits.Statement (.pwhile w a b z) := by
  intro k e; obtain rfl := Option.some.inj e; simp only [plc, bitsAt]; omega
theorem WordFits.psetall (w : BitVec 3) (z : BitVec 2) : WordFits.Statement (.psetall w z) := by
  intro k e; obtain rfl := Option.some.inj e; simp only [plc, bitsAt]; omega
theorem WordFits.pclear (w : BitVec 3) (z : BitVec 2) : WordFits.Statement (.pclear w z) := by
  intro k e; obtain rfl := Option.some.inj e; simp only [plc, bitsAt]; omega
theorem WordFits.pnot (w : BitVec 3) (z : BitVec 2) : WordFits.Statement (.pnot w z) := by
  intro k e; obtain rfl := Option.some.inj e; simp only [plc, bitsAt]; omega
theorem WordFits.pload (w : BitVec 3) (a : BitVec 5) (z : BitVec 2) : WordFits.Statement (.pload w a z) := by
  intro k e; obtain rfl := Option.some.inj e; simp only [plc, bitsAt]; omega
theorem WordFits.pstore (w : BitVec 3) (a : BitVec 5) (z : BitVec 2) : WordFits.Statement (.pstore w a z) := by
  intro k e; obtain rfl := Option.some.inj e; simp only [plc, bitsAt]; omega
theorem WordFits.pcount (w : BitVec 3) (d : BitVec 5) (z : BitVec 2) : WordFits.Statement (.pcount w d z) := by
  intro k e; obtain rfl := Option.some.inj e; simp only [plc, bitsAt]; omega
theorem WordFits.pfirst (w : BitVec 3) (d : BitVec 5) (z : BitVec 2) : WordFits.Statement (.pfirst w d z) := by
  intro k e; obtain rfl := Option.some.inj e; simp only [plc, bitsAt]; omega
theorem WordFits.pandm (w : BitVec 3) (a : BitVec 5) (z : BitVec 2) : WordFits.Statement (.pandm w a z) := by
  intro k e; obtain rfl := Option.some.inj e; simp only [plc, bitsAt]; omega
theorem WordFits.porm (w : BitVec 3) (a : BitVec 5) (z : BitVec 2) : WordFits.Statement (.porm w a z) := by
  intro k e; obtain rfl := Option.some.inj e; simp only [plc, bitsAt]; omega
theorem WordFits.pget (w : BitVec 3) (d : BitVec 5) (a : BitVec 5) (z : BitVec 2) : WordFits.Statement (.pget w d a z) := by
  intro k e; obtain rfl := Option.some.inj e; simp only [plc, bitsAt]; omega
theorem WordFits.pput (w : BitVec 3) (a : BitVec 5) (b : BitVec 5) (z : BitVec 2) : WordFits.Statement (.pput w a b z) := by
  intro k e; obtain rfl := Option.some.inj e; simp only [plc, bitsAt]; omega
theorem WordFits.endT (w : BitVec 3) : WordFits.Statement (.endT w) := by
  intro k e; obtain rfl := Option.some.inj e; simp only [plc, bitsAt]; omega
theorem WordFits.yield (w : BitVec 3) : WordFits.Statement (.yield w) := by
  intro k e; obtain rfl := Option.some.inj e; simp only [plc, bitsAt]; omega
theorem WordFits.goto (w : BitVec 3) (a : BitVec 5) : WordFits.Statement (.goto w a) := by
  intro k e; obtain rfl := Option.some.inj e; simp only [plc, bitsAt]; omega
theorem WordFits.spawn (w : BitVec 3) (d : BitVec 5) (a : BitVec 5) : WordFits.Statement (.spawn w d a) := by
  intro k e; obtain rfl := Option.some.inj e; simp only [plc, bitsAt]; omega
theorem WordFits.spawnat (w : BitVec 3) (a : BitVec 5) (b : BitVec 5) : WordFits.Statement (.spawnat w a b) := by
  intro k e; obtain rfl := Option.some.inj e; simp only [plc, bitsAt]; omega
theorem WordFits.pusht (w : BitVec 3) (d : BitVec 5) (a : BitVec 5) : WordFits.Statement (.pusht w d a) := by
  intro k e; obtain rfl := Option.some.inj e; simp only [plc, bitsAt]; omega
theorem WordFits.popt (w : BitVec 3) (d : BitVec 5) (a : BitVec 5) : WordFits.Statement (.popt w d a) := by
  intro k e; obtain rfl := Option.some.inj e; simp only [plc, bitsAt]; omega
theorem WordFits.wake (w : BitVec 3) (a : BitVec 5) (b : BitVec 5) : WordFits.Statement (.wake w a b) := by
  intro k e; obtain rfl := Option.some.inj e; simp only [plc, bitsAt]; omega
theorem WordFits.park (w : BitVec 3) : WordFits.Statement (.park w) := by
  intro k e; obtain rfl := Option.some.inj e; simp only [plc, bitsAt]; omega
theorem WordFits.homeof (w : BitVec 3) (d : BitVec 5) (a : BitVec 5) : WordFits.Statement (.homeof w d a) := by
  intro k e; obtain rfl := Option.some.inj e; simp only [plc, bitsAt]; omega
theorem WordFits.cubeof (w : BitVec 3) (d : BitVec 5) : WordFits.Statement (.cubeof w d) := by
  intro k e; obtain rfl := Option.some.inj e; simp only [plc, bitsAt]; omega
theorem WordFits.vquery (w : BitVec 3) (d : BitVec 5) : WordFits.Statement (.vquery w d) := by
  intro k e; obtain rfl := Option.some.inj e; simp only [plc, bitsAt]; omega
theorem WordFits.rdcyc (w : BitVec 3) (d : BitVec 5) : WordFits.Statement (.rdcyc w d) := by
  intro k e; obtain rfl := Option.some.inj e; simp only [plc, bitsAt]; omega
theorem WordFits.rdpurse (w : BitVec 3) (d : BitVec 5) : WordFits.Statement (.rdpurse w d) := by
  intro k e; obtain rfl := Option.some.inj e; simp only [plc, bitsAt]; omega
theorem WordFits.rdfare (w : BitVec 3) (d : BitVec 5) : WordFits.Statement (.rdfare w d) := by
  intro k e; obtain rfl := Option.some.inj e; simp only [plc, bitsAt]; omega
theorem WordFits.rdfrm (w : BitVec 3) (d : BitVec 5) : WordFits.Statement (.rdfrm w d) := by
  intro k e; obtain rfl := Option.some.inj e; simp only [plc, bitsAt]; omega
theorem WordFits.wrfrm (w : BitVec 3) (d : BitVec 5) (a : BitVec 5) : WordFits.Statement (.wrfrm w d a) := by
  intro k e; obtain rfl := Option.some.inj e; simp only [plc, bitsAt]; omega
theorem WordFits.rdflags (w : BitVec 3) (d : BitVec 5) (b : BitVec 5) : WordFits.Statement (.rdflags w d b) := by
  intro k e; obtain rfl := Option.some.inj e; simp only [plc, bitsAt]; omega
theorem WordFits.vadd (w : BitVec 3) (d : BitVec 5) (a : BitVec 5) (b : BitVec 5) (t : BitVec 3) : WordFits.Statement (.vadd w d a b t) := by
  intro k e; obtain rfl := Option.some.inj e; simp only [plc, bitsAt]; omega
theorem WordFits.vsub (w : BitVec 3) (d : BitVec 5) (a : BitVec 5) (b : BitVec 5) (t : BitVec 3) : WordFits.Statement (.vsub w d a b t) := by
  intro k e; obtain rfl := Option.some.inj e; simp only [plc, bitsAt]; omega
theorem WordFits.vmul (w : BitVec 3) (d : BitVec 5) (a : BitVec 5) (b : BitVec 5) (t : BitVec 3) : WordFits.Statement (.vmul w d a b t) := by
  intro k e; obtain rfl := Option.some.inj e; simp only [plc, bitsAt]; omega
theorem WordFits.vmin (w : BitVec 3) (d : BitVec 5) (a : BitVec 5) (b : BitVec 5) (t : BitVec 3) : WordFits.Statement (.vmin w d a b t) := by
  intro k e; obtain rfl := Option.some.inj e; simp only [plc, bitsAt]; omega
theorem WordFits.vmax (w : BitVec 3) (d : BitVec 5) (a : BitVec 5) (b : BitVec 5) (t : BitVec 3) : WordFits.Statement (.vmax w d a b t) := by
  intro k e; obtain rfl := Option.some.inj e; simp only [plc, bitsAt]; omega
theorem WordFits.vminu (w : BitVec 3) (d : BitVec 5) (a : BitVec 5) (b : BitVec 5) (t : BitVec 3) : WordFits.Statement (.vminu w d a b t) := by
  intro k e; obtain rfl := Option.some.inj e; simp only [plc, bitsAt]; omega
theorem WordFits.vmaxu (w : BitVec 3) (d : BitVec 5) (a : BitVec 5) (b : BitVec 5) (t : BitVec 3) : WordFits.Statement (.vmaxu w d a b t) := by
  intro k e; obtain rfl := Option.some.inj e; simp only [plc, bitsAt]; omega
theorem WordFits.vand (w : BitVec 3) (d : BitVec 5) (a : BitVec 5) (b : BitVec 5) (t : BitVec 3) : WordFits.Statement (.vand w d a b t) := by
  intro k e; obtain rfl := Option.some.inj e; simp only [plc, bitsAt]; omega
theorem WordFits.vor (w : BitVec 3) (d : BitVec 5) (a : BitVec 5) (b : BitVec 5) (t : BitVec 3) : WordFits.Statement (.vor w d a b t) := by
  intro k e; obtain rfl := Option.some.inj e; simp only [plc, bitsAt]; omega
theorem WordFits.vxor (w : BitVec 3) (d : BitVec 5) (a : BitVec 5) (b : BitVec 5) (t : BitVec 3) : WordFits.Statement (.vxor w d a b t) := by
  intro k e; obtain rfl := Option.some.inj e; simp only [plc, bitsAt]; omega
theorem WordFits.vsll (w : BitVec 3) (d : BitVec 5) (a : BitVec 5) (b : BitVec 5) (t : BitVec 3) : WordFits.Statement (.vsll w d a b t) := by
  intro k e; obtain rfl := Option.some.inj e; simp only [plc, bitsAt]; omega
theorem WordFits.vsrl (w : BitVec 3) (d : BitVec 5) (a : BitVec 5) (b : BitVec 5) (t : BitVec 3) : WordFits.Statement (.vsrl w d a b t) := by
  intro k e; obtain rfl := Option.some.inj e; simp only [plc, bitsAt]; omega
theorem WordFits.vsra (w : BitVec 3) (d : BitVec 5) (a : BitVec 5) (b : BitVec 5) (t : BitVec 3) : WordFits.Statement (.vsra w d a b t) := by
  intro k e; obtain rfl := Option.some.inj e; simp only [plc, bitsAt]; omega
theorem WordFits.vadds (w : BitVec 3) (d : BitVec 5) (a : BitVec 5) (b : BitVec 5) (t : BitVec 3) : WordFits.Statement (.vadds w d a b t) := by
  intro k e; obtain rfl := Option.some.inj e; simp only [plc, bitsAt]; omega
theorem WordFits.vsubs (w : BitVec 3) (d : BitVec 5) (a : BitVec 5) (b : BitVec 5) (t : BitVec 3) : WordFits.Statement (.vsubs w d a b t) := by
  intro k e; obtain rfl := Option.some.inj e; simp only [plc, bitsAt]; omega
theorem WordFits.vmulh (w : BitVec 3) (d : BitVec 5) (a : BitVec 5) (b : BitVec 5) (t : BitVec 3) : WordFits.Statement (.vmulh w d a b t) := by
  intro k e; obtain rfl := Option.some.inj e; simp only [plc, bitsAt]; omega
theorem WordFits.vabsd (w : BitVec 3) (d : BitVec 5) (a : BitVec 5) (b : BitVec 5) (t : BitVec 3) : WordFits.Statement (.vabsd w d a b t) := by
  intro k e; obtain rfl := Option.some.inj e; simp only [plc, bitsAt]; omega
theorem WordFits.vfma (w : BitVec 3) (d : BitVec 5) (a : BitVec 5) (b : BitVec 5) (t : BitVec 3) : WordFits.Statement (.vfma w d a b t) := by
  intro k e; obtain rfl := Option.some.inj e; simp only [plc, bitsAt]; omega
theorem WordFits.vfms (w : BitVec 3) (d : BitVec 5) (a : BitVec 5) (b : BitVec 5) (t : BitVec 3) : WordFits.Statement (.vfms w d a b t) := by
  intro k e; obtain rfl := Option.some.inj e; simp only [plc, bitsAt]; omega
theorem WordFits.vdiv (w : BitVec 3) (d : BitVec 5) (a : BitVec 5) (b : BitVec 5) (t : BitVec 3) : WordFits.Statement (.vdiv w d a b t) := by
  intro k e; obtain rfl := Option.some.inj e; simp only [plc, bitsAt]; omega
theorem WordFits.vsqrt (w : BitVec 3) (d : BitVec 5) (a : BitVec 5) (t : BitVec 3) : WordFits.Statement (.vsqrt w d a t) := by
  intro k e; obtain rfl := Option.some.inj e; simp only [plc, bitsAt]; omega
theorem WordFits.vneg (w : BitVec 3) (d : BitVec 5) (a : BitVec 5) (t : BitVec 3) : WordFits.Statement (.vneg w d a t) := by
  intro k e; obtain rfl := Option.some.inj e; simp only [plc, bitsAt]; omega
theorem WordFits.vabs (w : BitVec 3) (d : BitVec 5) (a : BitVec 5) (t : BitVec 3) : WordFits.Statement (.vabs w d a t) := by
  intro k e; obtain rfl := Option.some.inj e; simp only [plc, bitsAt]; omega
theorem WordFits.vcmpeq (w : BitVec 3) (d : BitVec 5) (a : BitVec 5) (b : BitVec 5) (t : BitVec 3) : WordFits.Statement (.vcmpeq w d a b t) := by
  intro k e; obtain rfl := Option.some.inj e; simp only [plc, bitsAt]; omega
theorem WordFits.vcmpne (w : BitVec 3) (d : BitVec 5) (a : BitVec 5) (b : BitVec 5) (t : BitVec 3) : WordFits.Statement (.vcmpne w d a b t) := by
  intro k e; obtain rfl := Option.some.inj e; simp only [plc, bitsAt]; omega
theorem WordFits.vcmplt (w : BitVec 3) (d : BitVec 5) (a : BitVec 5) (b : BitVec 5) (t : BitVec 3) : WordFits.Statement (.vcmplt w d a b t) := by
  intro k e; obtain rfl := Option.some.inj e; simp only [plc, bitsAt]; omega
theorem WordFits.vcmple (w : BitVec 3) (d : BitVec 5) (a : BitVec 5) (b : BitVec 5) (t : BitVec 3) : WordFits.Statement (.vcmple w d a b t) := by
  intro k e; obtain rfl := Option.some.inj e; simp only [plc, bitsAt]; omega
theorem WordFits.vcmpltu (w : BitVec 3) (d : BitVec 5) (a : BitVec 5) (b : BitVec 5) (t : BitVec 3) : WordFits.Statement (.vcmpltu w d a b t) := by
  intro k e; obtain rfl := Option.some.inj e; simp only [plc, bitsAt]; omega
theorem WordFits.vsel (w : BitVec 3) (d : BitVec 5) (a : BitVec 5) (b : BitVec 5) (t : BitVec 3) : WordFits.Statement (.vsel w d a b t) := by
  intro k e; obtain rfl := Option.some.inj e; simp only [plc, bitsAt]; omega
theorem WordFits.vdot (w : BitVec 3) (d : BitVec 5) (a : BitVec 5) (b : BitVec 5) (t : BitVec 3) : WordFits.Statement (.vdot w d a b t) := by
  intro k e; obtain rfl := Option.some.inj e; simp only [plc, bitsAt]; omega
theorem WordFits.vconv (w : BitVec 3) (d : BitVec 5) (a : BitVec 5) (e : BitVec 4) (rs : BitVec 4) : WordFits.Statement (.vconv w d a e rs) := by
  intro k e; obtain rfl := Option.some.inj e; simp only [plc, bitsAt]; omega
theorem WordFits.vrsum (w : BitVec 3) (d : BitVec 5) (a : BitVec 5) (t : BitVec 3) : WordFits.Statement (.vrsum w d a t) := by
  intro k e; obtain rfl := Option.some.inj e; simp only [plc, bitsAt]; omega
theorem WordFits.vrmax (w : BitVec 3) (d : BitVec 5) (a : BitVec 5) (t : BitVec 3) : WordFits.Statement (.vrmax w d a t) := by
  intro k e; obtain rfl := Option.some.inj e; simp only [plc, bitsAt]; omega
theorem WordFits.vrmin (w : BitVec 3) (d : BitVec 5) (a : BitVec 5) (t : BitVec 3) : WordFits.Statement (.vrmin w d a t) := by
  intro k e; obtain rfl := Option.some.inj e; simp only [plc, bitsAt]; omega
theorem WordFits.vrmaxi (w : BitVec 3) (d : BitVec 5) (a : BitVec 5) (t : BitVec 3) : WordFits.Statement (.vrmaxi w d a t) := by
  intro k e; obtain rfl := Option.some.inj e; simp only [plc, bitsAt]; omega
theorem WordFits.vrmini (w : BitVec 3) (d : BitVec 5) (a : BitVec 5) (t : BitVec 3) : WordFits.Statement (.vrmini w d a t) := by
  intro k e; obtain rfl := Option.some.inj e; simp only [plc, bitsAt]; omega
theorem WordFits.vrand (w : BitVec 3) (d : BitVec 5) (a : BitVec 5) (t : BitVec 3) : WordFits.Statement (.vrand w d a t) := by
  intro k e; obtain rfl := Option.some.inj e; simp only [plc, bitsAt]; omega
theorem WordFits.vror (w : BitVec 3) (d : BitVec 5) (a : BitVec 5) (t : BitVec 3) : WordFits.Statement (.vror w d a t) := by
  intro k e; obtain rfl := Option.some.inj e; simp only [plc, bitsAt]; omega
theorem WordFits.vrxor (w : BitVec 3) (d : BitVec 5) (a : BitVec 5) (t : BitVec 3) : WordFits.Statement (.vrxor w d a t) := by
  intro k e; obtain rfl := Option.some.inj e; simp only [plc, bitsAt]; omega
theorem WordFits.vbcast (w : BitVec 3) (d : BitVec 5) (a : BitVec 5) (t : BitVec 3) : WordFits.Statement (.vbcast w d a t) := by
  intro k e; obtain rfl := Option.some.inj e; simp only [plc, bitsAt]; omega
theorem WordFits.vshuf (w : BitVec 3) (d : BitVec 5) (a : BitVec 5) (b : BitVec 5) (t : BitVec 3) : WordFits.Statement (.vshuf w d a b t) := by
  intro k e; obtain rfl := Option.some.inj e; simp only [plc, bitsAt]; omega
theorem WordFits.vslup (w : BitVec 3) (d : BitVec 5) (a : BitVec 5) (b : BitVec 5) (t : BitVec 3) : WordFits.Statement (.vslup w d a b t) := by
  intro k e; obtain rfl := Option.some.inj e; simp only [plc, bitsAt]; omega
theorem WordFits.vsldn (w : BitVec 3) (d : BitVec 5) (a : BitVec 5) (b : BitVec 5) (t : BitVec 3) : WordFits.Statement (.vsldn w d a b t) := by
  intro k e; obtain rfl := Option.some.inj e; simp only [plc, bitsAt]; omega
theorem WordFits.vzip (w : BitVec 3) (d : BitVec 5) (a : BitVec 5) (b : BitVec 5) (t : BitVec 3) : WordFits.Statement (.vzip w d a b t) := by
  intro k e; obtain rfl := Option.some.inj e; simp only [plc, bitsAt]; omega
theorem WordFits.vuzp (w : BitVec 3) (d : BitVec 5) (a : BitVec 5) (b : BitVec 5) (t : BitVec 3) : WordFits.Statement (.vuzp w d a b t) := by
  intro k e; obtain rfl := Option.some.inj e; simp only [plc, bitsAt]; omega
theorem WordFits.vcmpr (w : BitVec 3) (d : BitVec 5) (a : BitVec 5) (t : BitVec 3) : WordFits.Statement (.vcmpr w d a t) := by
  intro k e; obtain rfl := Option.some.inj e; simp only [plc, bitsAt]; omega
theorem WordFits.vexpd (w : BitVec 3) (d : BitVec 5) (a : BitVec 5) (t : BitVec 3) : WordFits.Statement (.vexpd w d a t) := by
  intro k e; obtain rfl := Option.some.inj e; simp only [plc, bitsAt]; omega
theorem WordFits.vmov (w : BitVec 3) (d : BitVec 5) (a : BitVec 5) (t : BitVec 3) : WordFits.Statement (.vmov w d a t) := by
  intro k e; obtain rfl := Option.some.inj e; simp only [plc, bitsAt]; omega
theorem WordFits.viota (w : BitVec 3) (d : BitVec 5) (a : BitVec 5) (t : BitVec 3) : WordFits.Statement (.viota w d a t) := by
  intro k e; obtain rfl := Option.some.inj e; simp only [plc, bitsAt]; omega
theorem WordFits.vexp2 (w : BitVec 3) (d : BitVec 5) (a : BitVec 5) (t : BitVec 3) : WordFits.Statement (.vexp2 w d a t) := by
  intro k e; obtain rfl := Option.some.inj e; simp only [plc, bitsAt]; omega
theorem WordFits.vlog2 (w : BitVec 3) (d : BitVec 5) (a : BitVec 5) (t : BitVec 3) : WordFits.Statement (.vlog2 w d a t) := by
  intro k e; obtain rfl := Option.some.inj e; simp only [plc, bitsAt]; omega
theorem WordFits.vrsqrt (w : BitVec 3) (d : BitVec 5) (a : BitVec 5) (t : BitVec 3) : WordFits.Statement (.vrsqrt w d a t) := by
  intro k e; obtain rfl := Option.some.inj e; simp only [plc, bitsAt]; omega
theorem WordFits.vrcp (w : BitVec 3) (d : BitVec 5) (a : BitVec 5) (t : BitVec 3) : WordFits.Statement (.vrcp w d a t) := by
  intro k e; obtain rfl := Option.some.inj e; simp only [plc, bitsAt]; omega
theorem WordFits.vsin (w : BitVec 3) (d : BitVec 5) (a : BitVec 5) (t : BitVec 3) : WordFits.Statement (.vsin w d a t) := by
  intro k e; obtain rfl := Option.some.inj e; simp only [plc, bitsAt]; omega
theorem WordFits.vcos (w : BitVec 3) (d : BitVec 5) (a : BitVec 5) (t : BitVec 3) : WordFits.Statement (.vcos w d a t) := by
  intro k e; obtain rfl := Option.some.inj e; simp only [plc, bitsAt]; omega
theorem WordFits.vtanh (w : BitVec 3) (d : BitVec 5) (a : BitVec 5) (t : BitVec 3) : WordFits.Statement (.vtanh w d a t) := by
  intro k e; obtain rfl := Option.some.inj e; simp only [plc, bitsAt]; omega
theorem WordFits.vsigm (w : BitVec 3) (d : BitVec 5) (a : BitVec 5) (t : BitVec 3) : WordFits.Statement (.vsigm w d a t) := by
  intro k e; obtain rfl := Option.some.inj e; simp only [plc, bitsAt]; omega
theorem WordFits.vloop (w : BitVec 3) (l : BitVec 5) (a : BitVec 5) (b : BitVec 5) : WordFits.Statement (.vloop w l a b) := by
  intro k e; obtain rfl := Option.some.inj e; simp only [plc, bitsAt]; omega
theorem WordFits.vsync (w : BitVec 3) : WordFits.Statement (.vsync w) := by
  intro k e; obtain rfl := Option.some.inj e; simp only [plc, bitsAt]; omega
theorem WordFits.vgather (w : BitVec 3) (d : BitVec 5) (a : BitVec 5) (b : BitVec 5) (t : BitVec 3) : WordFits.Statement (.vgather w d a b t) := by
  intro k e; obtain rfl := Option.some.inj e; simp only [plc, bitsAt]; omega
theorem WordFits.vscatter (w : BitVec 3) (d : BitVec 5) (a : BitVec 5) (b : BitVec 5) (t : BitVec 3) : WordFits.Statement (.vscatter w d a b t) := by
  intro k e; obtain rfl := Option.some.inj e; simp only [plc, bitsAt]; omega
theorem WordFits.vamoadd (w : BitVec 3) (d : BitVec 5) (a : BitVec 5) (b : BitVec 5) (t : BitVec 3) : WordFits.Statement (.vamoadd w d a b t) := by
  intro k e; obtain rfl := Option.some.inj e; simp only [plc, bitsAt]; omega
theorem WordFits.vamomax (w : BitVec 3) (d : BitVec 5) (a : BitVec 5) (b : BitVec 5) (t : BitVec 3) : WordFits.Statement (.vamomax w d a b t) := by
  intro k e; obtain rfl := Option.some.inj e; simp only [plc, bitsAt]; omega
theorem WordFits.vamomin (w : BitVec 3) (d : BitVec 5) (a : BitVec 5) (b : BitVec 5) (t : BitVec 3) : WordFits.Statement (.vamomin w d a b t) := by
  intro k e; obtain rfl := Option.some.inj e; simp only [plc, bitsAt]; omega
theorem WordFits.vredadd (w : BitVec 3) (d : BitVec 5) (a : BitVec 5) (b : BitVec 5) (t : BitVec 3) : WordFits.Statement (.vredadd w d a b t) := by
  intro k e; obtain rfl := Option.some.inj e; simp only [plc, bitsAt]; omega
theorem WordFits.vmxpack (w : BitVec 3) (d : BitVec 5) (a : BitVec 5) (b : BitVec 5) : WordFits.Statement (.vmxpack w d a b) := by
  intro k e; obtain rfl := Option.some.inj e; simp only [plc, bitsAt]; omega
theorem WordFits.vmxunpk (w : BitVec 3) (d : BitVec 5) (a : BitVec 5) (b : BitVec 5) : WordFits.Statement (.vmxunpk w d a b) := by
  intro k e; obtain rfl := Option.some.inj e; simp only [plc, bitsAt]; omega
theorem WordFits.vscale (w : BitVec 3) (d : BitVec 5) (a : BitVec 5) (b : BitVec 5) : WordFits.Statement (.vscale w d a b) := by
  intro k e; obtain rfl := Option.some.inj e; simp only [plc, bitsAt]; omega
theorem WordFits.macq (w : BitVec 3) (d : BitVec 5) (a : BitVec 5) : WordFits.Statement (.macq w d a) := by
  intro k e; obtain rfl := Option.some.inj e; simp only [plc, bitsAt]; omega
theorem WordFits.mrel (w : BitVec 3) (d : BitVec 5) : WordFits.Statement (.mrel w d) := by
  intro k e; obtain rfl := Option.some.inj e; simp only [plc, bitsAt]; omega
theorem WordFits.mma (w : BitVec 3) (d : BitVec 5) (a : BitVec 5) (b : BitVec 5) : WordFits.Statement (.mma w d a b) := by
  intro k e; obtain rfl := Option.some.inj e; simp only [plc, bitsAt]; omega
theorem WordFits.mmr (w : BitVec 3) (d : BitVec 5) (a : BitVec 5) (b : BitVec 5) : WordFits.Statement (.mmr w d a b) := by
  intro k e; obtain rfl := Option.some.inj e; simp only [plc, bitsAt]; omega
theorem WordFits.mzero (w : BitVec 3) (d : BitVec 5) : WordFits.Statement (.mzero w d) := by
  intro k e; obtain rfl := Option.some.inj e; simp only [plc, bitsAt]; omega
theorem WordFits.mldc (w : BitVec 3) (d : BitVec 5) (a : BitVec 5) (b : BitVec 5) : WordFits.Statement (.mldc w d a b) := by
  intro k e; obtain rfl := Option.some.inj e; simp only [plc, bitsAt]; omega
theorem WordFits.mstc (w : BitVec 3) (d : BitVec 5) (a : BitVec 5) (b : BitVec 5) : WordFits.Statement (.mstc w d a b) := by
  intro k e; obtain rfl := Option.some.inj e; simp only [plc, bitsAt]; omega
theorem WordFits.msync (w : BitVec 3) : WordFits.Statement (.msync w) := by
  intro k e; obtain rfl := Option.some.inj e; simp only [plc, bitsAt]; omega
theorem WordFits.maddc (w : BitVec 3) (d : BitVec 5) (a : BitVec 5) (b : BitVec 5) : WordFits.Statement (.maddc w d a b) := by
  intro k e; obtain rfl := Option.some.inj e; simp only [plc, bitsAt]; omega
theorem WordFits.mstat (w : BitVec 3) (d : BitVec 5) (a : BitVec 5) (b : BitVec 5) : WordFits.Statement (.mstat w d a b) := by
  intro k e; obtain rfl := Option.some.inj e; simp only [plc, bitsAt]; omega
theorem WordFits.drd (w : BitVec 3) (a : BitVec 5) (b : BitVec 5) : WordFits.Statement (.drd w a b) := by
  intro k e; obtain rfl := Option.some.inj e; simp only [plc, bitsAt]; omega
theorem WordFits.dwr (w : BitVec 3) (a : BitVec 5) (b : BitVec 5) : WordFits.Statement (.dwr w a b) := by
  intro k e; obtain rfl := Option.some.inj e; simp only [plc, bitsAt]; omega
theorem WordFits.dpush (w : BitVec 3) (d : BitVec 5) (a : BitVec 5) (b : BitVec 5) : WordFits.Statement (.dpush w d a b) := by
  intro k e; obtain rfl := Option.some.inj e; simp only [plc, bitsAt]; omega
theorem WordFits.dpull (w : BitVec 3) (d : BitVec 5) (a : BitVec 5) (b : BitVec 5) : WordFits.Statement (.dpull w d a b) := by
  intro k e; obtain rfl := Option.some.inj e; simp only [plc, bitsAt]; omega
theorem WordFits.aqput (w : BitVec 3) (a : BitVec 5) (b : BitVec 5) : WordFits.Statement (.aqput w a b) := by
  intro k e; obtain rfl := Option.some.inj e; simp only [plc, bitsAt]; omega
theorem WordFits.xqget (w : BitVec 3) (d : BitVec 5) (a : BitVec 5) : WordFits.Statement (.xqget w d a) := by
  intro k e; obtain rfl := Option.some.inj e; simp only [plc, bitsAt]; omega
theorem WordFits.dpref (w : BitVec 3) (a : BitVec 5) (b : BitVec 5) : WordFits.Statement (.dpref w a b) := by
  intro k e; obtain rfl := Option.some.inj e; simp only [plc, bitsAt]; omega
theorem WordFits.bsel (w : BitVec 3) (a : BitVec 5) (b : BitVec 5) : WordFits.Statement (.bsel w a b) := by
  intro k e; obtain rfl := Option.some.inj e; simp only [plc, bitsAt]; omega
theorem WordFits.aqget (w : BitVec 3) (d : BitVec 5) (a : BitVec 5) : WordFits.Statement (.aqget w d a) := by
  intro k e; obtain rfl := Option.some.inj e; simp only [plc, bitsAt]; omega
theorem WordFits.xqput (w : BitVec 3) (a : BitVec 5) (b : BitVec 5) : WordFits.Statement (.xqput w a b) := by
  intro k e; obtain rfl := Option.some.inj e; simp only [plc, bitsAt]; omega
theorem WordFits.bmac (w : BitVec 3) (d : BitVec 5) (a : BitVec 5) (b : BitVec 5) : WordFits.Statement (.bmac w d a b) := by
  intro k e; obtain rfl := Option.some.inj e; simp only [plc, bitsAt]; omega
theorem WordFits.bred (w : BitVec 3) (d : BitVec 5) (a : BitVec 5) (b : BitVec 5) : WordFits.Statement (.bred w d a b) := by
  intro k e; obtain rfl := Option.some.inj e; simp only [plc, bitsAt]; omega
theorem WordFits.bclone (w : BitVec 3) (d : BitVec 5) (a : BitVec 5) (b : BitVec 5) : WordFits.Statement (.bclone w d a b) := by
  intro k e; obtain rfl := Option.some.inj e; simp only [plc, bitsAt]; omega
theorem WordFits.bfill (w : BitVec 3) (d : BitVec 5) (a : BitVec 5) (b : BitVec 5) : WordFits.Statement (.bfill w d a b) := by
  intro k e; obtain rfl := Option.some.inj e; simp only [plc, bitsAt]; omega
theorem WordFits.bsync (w : BitVec 3) : WordFits.Statement (.bsync w) := by
  intro k e; obtain rfl := Option.some.inj e; simp only [plc, bitsAt]; omega
theorem WordFits.amoadd (w : BitVec 3) (d : BitVec 5) (a : BitVec 5) (b : BitVec 5) (z : BitVec 1) : WordFits.Statement (.amoadd w d a b z) := by
  intro k e; obtain rfl := Option.some.inj e; simp only [plc, bitsAt]; omega
theorem WordFits.amoand (w : BitVec 3) (d : BitVec 5) (a : BitVec 5) (b : BitVec 5) (z : BitVec 1) : WordFits.Statement (.amoand w d a b z) := by
  intro k e; obtain rfl := Option.some.inj e; simp only [plc, bitsAt]; omega
theorem WordFits.amoor (w : BitVec 3) (d : BitVec 5) (a : BitVec 5) (b : BitVec 5) (z : BitVec 1) : WordFits.Statement (.amoor w d a b z) := by
  intro k e; obtain rfl := Option.some.inj e; simp only [plc, bitsAt]; omega
theorem WordFits.amoxor (w : BitVec 3) (d : BitVec 5) (a : BitVec 5) (b : BitVec 5) (z : BitVec 1) : WordFits.Statement (.amoxor w d a b z) := by
  intro k e; obtain rfl := Option.some.inj e; simp only [plc, bitsAt]; omega
theorem WordFits.amomin (w : BitVec 3) (d : BitVec 5) (a : BitVec 5) (b : BitVec 5) (z : BitVec 1) : WordFits.Statement (.amomin w d a b z) := by
  intro k e; obtain rfl := Option.some.inj e; simp only [plc, bitsAt]; omega
theorem WordFits.amomax (w : BitVec 3) (d : BitVec 5) (a : BitVec 5) (b : BitVec 5) (z : BitVec 1) : WordFits.Statement (.amomax w d a b z) := by
  intro k e; obtain rfl := Option.some.inj e; simp only [plc, bitsAt]; omega
theorem WordFits.amominu (w : BitVec 3) (d : BitVec 5) (a : BitVec 5) (b : BitVec 5) (z : BitVec 1) : WordFits.Statement (.amominu w d a b z) := by
  intro k e; obtain rfl := Option.some.inj e; simp only [plc, bitsAt]; omega
theorem WordFits.amomaxu (w : BitVec 3) (d : BitVec 5) (a : BitVec 5) (b : BitVec 5) (z : BitVec 1) : WordFits.Statement (.amomaxu w d a b z) := by
  intro k e; obtain rfl := Option.some.inj e; simp only [plc, bitsAt]; omega
theorem WordFits.amoswap (w : BitVec 3) (d : BitVec 5) (a : BitVec 5) (b : BitVec 5) (z : BitVec 1) : WordFits.Statement (.amoswap w d a b z) := by
  intro k e; obtain rfl := Option.some.inj e; simp only [plc, bitsAt]; omega
theorem WordFits.amocas (w : BitVec 3) (d : BitVec 5) (a : BitVec 5) (b : BitVec 5) (z : BitVec 1) : WordFits.Statement (.amocas w d a b z) := by
  intro k e; obtain rfl := Option.some.inj e; simp only [plc, bitsAt]; omega
theorem WordFits.amofadd (w : BitVec 3) (d : BitVec 5) (a : BitVec 5) (b : BitVec 5) (z : BitVec 1) : WordFits.Statement (.amofadd w d a b z) := by
  intro k e; obtain rfl := Option.some.inj e; simp only [plc, bitsAt]; omega
theorem WordFits.rsv (w : BitVec 3) (d : BitVec 5) (a : BitVec 5) (z : BitVec 1) : WordFits.Statement (.rsv w d a z) := by
  intro k e; obtain rfl := Option.some.inj e; simp only [plc, bitsAt]; omega
theorem WordFits.rls (w : BitVec 3) (a : BitVec 5) (b : BitVec 5) (z : BitVec 1) : WordFits.Statement (.rls w a b z) := by
  intro k e; obtain rfl := Option.some.inj e; simp only [plc, bitsAt]; omega
theorem WordFits.ldaq (w : BitVec 3) (d : BitVec 5) (a : BitVec 5) (p : BitVec 2) (z : BitVec 1) : WordFits.Statement (.ldaq w d a p z) := by
  intro k e; obtain rfl := Option.some.inj e; simp only [plc, bitsAt]; omega
theorem WordFits.strl (w : BitVec 3) (a : BitVec 5) (b : BitVec 5) (p : BitVec 2) (z : BitVec 1) : WordFits.Statement (.strl w a b p z) := by
  intro k e; obtain rfl := Option.some.inj e; simp only [plc, bitsAt]; omega
theorem WordFits.redadd (w : BitVec 3) (a : BitVec 5) (b : BitVec 5) (z : BitVec 1) : WordFits.Statement (.redadd w a b z) := by
  intro k e; obtain rfl := Option.some.inj e; simp only [plc, bitsAt]; omega
theorem WordFits.redand (w : BitVec 3) (a : BitVec 5) (b : BitVec 5) (z : BitVec 1) : WordFits.Statement (.redand w a b z) := by
  intro k e; obtain rfl := Option.some.inj e; simp only [plc, bitsAt]; omega
theorem WordFits.redor (w : BitVec 3) (a : BitVec 5) (b : BitVec 5) (z : BitVec 1) : WordFits.Statement (.redor w a b z) := by
  intro k e; obtain rfl := Option.some.inj e; simp only [plc, bitsAt]; omega
theorem WordFits.redxor (w : BitVec 3) (a : BitVec 5) (b : BitVec 5) (z : BitVec 1) : WordFits.Statement (.redxor w a b z) := by
  intro k e; obtain rfl := Option.some.inj e; simp only [plc, bitsAt]; omega
theorem WordFits.redmin (w : BitVec 3) (a : BitVec 5) (b : BitVec 5) (z : BitVec 1) : WordFits.Statement (.redmin w a b z) := by
  intro k e; obtain rfl := Option.some.inj e; simp only [plc, bitsAt]; omega
theorem WordFits.redmax (w : BitVec 3) (a : BitVec 5) (b : BitVec 5) (z : BitVec 1) : WordFits.Statement (.redmax w a b z) := by
  intro k e; obtain rfl := Option.some.inj e; simp only [plc, bitsAt]; omega
theorem WordFits.redminu (w : BitVec 3) (a : BitVec 5) (b : BitVec 5) (z : BitVec 1) : WordFits.Statement (.redminu w a b z) := by
  intro k e; obtain rfl := Option.some.inj e; simp only [plc, bitsAt]; omega
theorem WordFits.redmaxu (w : BitVec 3) (a : BitVec 5) (b : BitVec 5) (z : BitVec 1) : WordFits.Statement (.redmaxu w a b z) := by
  intro k e; obtain rfl := Option.some.inj e; simp only [plc, bitsAt]; omega
theorem WordFits.redfadd (w : BitVec 3) (a : BitVec 5) (b : BitVec 5) (z : BitVec 1) : WordFits.Statement (.redfadd w a b z) := by
  intro k e; obtain rfl := Option.some.inj e; simp only [plc, bitsAt]; omega
theorem WordFits.fence (w : BitVec 3) (c : BitVec 5) : WordFits.Statement (.fence w c) := by
  intro k e; obtain rfl := Option.some.inj e; simp only [plc, bitsAt]; omega
theorem WordFits.fencex (w : BitVec 3) (x : BitVec 5) (y : BitVec 5) : WordFits.Statement (.fencex w x y) := by
  intro k e; obtain rfl := Option.some.inj e; simp only [plc, bitsAt]; omega
theorem WordFits.ifence (w : BitVec 3) : WordFits.Statement (.ifence w) := by
  intro k e; obtain rfl := Option.some.inj e; simp only [plc, bitsAt]; omega
theorem WordFits.qfence (w : BitVec 3) : WordFits.Statement (.qfence w) := by
  intro k e; obtain rfl := Option.some.inj e; simp only [plc, bitsAt]; omega
theorem WordFits.drain (w : BitVec 3) : WordFits.Statement (.drain w) := by
  intro k e; obtain rfl := Option.some.inj e; simp only [plc, bitsAt]; omega
theorem WordFits.acks (w : BitVec 3) (d : BitVec 5) : WordFits.Statement (.acks w d) := by
  intro k e; obtain rfl := Option.some.inj e; simp only [plc, bitsAt]; omega
theorem WordFits.binit (w : BitVec 3) (n : BitVec 5) (a : BitVec 5) : WordFits.Statement (.binit w n a) := by
  intro k e; obtain rfl := Option.some.inj e; simp only [plc, bitsAt]; omega
theorem WordFits.barrive (w : BitVec 3) (n : BitVec 5) (a : BitVec 5) : WordFits.Statement (.barrive w n a) := by
  intro k e; obtain rfl := Option.some.inj e; simp only [plc, bitsAt]; omega
theorem WordFits.bexpect (w : BitVec 3) (n : BitVec 5) (a : BitVec 5) : WordFits.Statement (.bexpect w n a) := by
  intro k e; obtain rfl := Option.some.inj e; simp only [plc, bitsAt]; omega
theorem WordFits.bwait (w : BitVec 3) (n : BitVec 5) (a : BitVec 5) : WordFits.Statement (.bwait w n a) := by
  intro k e; obtain rfl := Option.some.inj e; simp only [plc, bitsAt]; omega
theorem WordFits.btest (w : BitVec 3) (n : BitVec 5) (a : BitVec 5) (b : BitVec 5) : WordFits.Statement (.btest w n a b) := by
  intro k e; obtain rfl := Option.some.inj e; simp only [plc, bitsAt]; omega
theorem WordFits.binv (w : BitVec 3) (n : BitVec 5) : WordFits.Statement (.binv w n) := by
  intro k e; obtain rfl := Option.some.inj e; simp only [plc, bitsAt]; omega
theorem WordFits.lantern (w : BitVec 3) (d : BitVec 5) (a : BitVec 5) : WordFits.Statement (.lantern w d a) := by
  intro k e; obtain rfl := Option.some.inj e; simp only [plc, bitsAt]; omega
theorem WordFits.phase (w : BitVec 3) (d : BitVec 5) (a : BitVec 5) : WordFits.Statement (.phase w d a) := by
  intro k e; obtain rfl := Option.some.inj e; simp only [plc, bitsAt]; omega
theorem WordFits.waystationPowerOn : WordFits.Statement (.waystationPowerOn) := fun _ e => nomatch e
theorem WordFits.imageVerificationComplete : WordFits.Statement (.imageVerificationComplete) := fun _ e => nomatch e
theorem WordFits.bootTimeout : WordFits.Statement (.bootTimeout) := fun _ e => nomatch e
theorem WordFits.waystationReset : WordFits.Statement (.waystationReset) := fun _ e => nomatch e
theorem WordFits.memoryRailGood : WordFits.Statement (.memoryRailGood) := fun _ e => nomatch e
theorem WordFits.memoryZeroingComplete : WordFits.Statement (.memoryZeroingComplete) := fun _ e => nomatch e
theorem WordFits.selfRefreshRequest : WordFits.Statement (.selfRefreshRequest) := fun _ e => nomatch e
theorem WordFits.selfRefreshEntry : WordFits.Statement (.selfRefreshEntry) := fun _ e => nomatch e
theorem WordFits.selfRefreshExit : WordFits.Statement (.selfRefreshExit) := fun _ e => nomatch e
theorem WordFits.memoryReset : WordFits.Statement (.memoryReset) := fun _ e => nomatch e
theorem WordFits.computeRailGood : WordFits.Statement (.computeRailGood) := fun _ e => nomatch e
theorem WordFits.computeResetRelease : WordFits.Statement (.computeResetRelease) := fun _ e => nomatch e
theorem WordFits.bringupComplete : WordFits.Statement (.bringupComplete) := fun _ e => nomatch e
theorem WordFits.quiesceRequest : WordFits.Statement (.quiesceRequest) := fun _ e => nomatch e
theorem WordFits.quiesceResume : WordFits.Statement (.quiesceResume) := fun _ e => nomatch e
theorem WordFits.computeReset : WordFits.Statement (.computeReset) := fun _ e => nomatch e
theorem WordFits.computeRailOff : WordFits.Statement (.computeRailOff) := fun _ e => nomatch e
theorem WordFits.channelCacheWritebackComplete : WordFits.Statement (.channelCacheWritebackComplete) := fun _ e => nomatch e
theorem WordFits.dispatcherHeartbeat : WordFits.Statement (.dispatcherHeartbeat) := fun _ e => nomatch e
theorem WordFits.domainWatchdogExpiry : WordFits.Statement (.domainWatchdogExpiry) := fun _ e => nomatch e
theorem WordFits.travellerSwitchIn (core : Nat) (x : Bool) : WordFits.Statement (.travellerSwitchIn core x) := fun _ e => nomatch e
theorem WordFits.dequeTaskStart (core : Nat) : WordFits.Statement (.dequeTaskStart core) := fun _ e => nomatch e
theorem WordFits.parkWaitComplete (core : Nat) (slot : Nat) : WordFits.Statement (.parkWaitComplete core slot) := fun _ e => nomatch e
theorem WordFits.storeBufferDrain (core : Nat) (x : Bool) : WordFits.Statement (.storeBufferDrain core x) := fun _ e => nomatch e
theorem WordFits.travellerArrival (k : Nat) : WordFits.Statement (.travellerArrival k) := fun _ e => nomatch e
theorem WordFits.heldArrivalAdmit (core : Nat) : WordFits.Statement (.heldArrivalAdmit core) := fun _ e => nomatch e
theorem WordFits.migrationAck (core : Nat) (slot : Nat) : WordFits.Statement (.migrationAck core slot) := fun _ e => nomatch e
theorem WordFits.migrationBounce (k : Nat) : WordFits.Statement (.migrationBounce k) := fun _ e => nomatch e
theorem WordFits.taskPacketArrival (k : Nat) : WordFits.Statement (.taskPacketArrival k) := fun _ e => nomatch e
theorem WordFits.wakeDelivery (k : Nat) : WordFits.Statement (.wakeDelivery k) := fun _ e => nomatch e
theorem WordFits.stealRequestSend (core : Nat) : WordFits.Statement (.stealRequestSend core) := fun _ e => nomatch e
theorem WordFits.stealRequestServe (k : Nat) : WordFits.Statement (.stealRequestServe k) := fun _ e => nomatch e
theorem WordFits.stealReply (k : Nat) : WordFits.Statement (.stealReply k) := fun _ e => nomatch e
theorem WordFits.stealBackoffExpiry (core : Nat) : WordFits.Statement (.stealBackoffExpiry core) := fun _ e => nomatch e
theorem WordFits.preemptionTaken (core : Nat) : WordFits.Statement (.preemptionTaken core) := fun _ e => nomatch e
theorem WordFits.travellerSpill (core : Nat) (slot : Nat) : WordFits.Statement (.travellerSpill core slot) := fun _ e => nomatch e
theorem WordFits.spillAreaAdmit (p : Nat) : WordFits.Statement (.spillAreaAdmit p) := fun _ e => nomatch e
theorem WordFits.strandNotice (ctx : Nat) : WordFits.Statement (.strandNotice ctx) := fun _ e => nomatch e
theorem WordFits.cancelTaken (core : Nat) (x : Bool) : WordFits.Statement (.cancelTaken core x) := fun _ e => nomatch e
theorem WordFits.engineFaultDelivery (core : Nat) (x : Bool) : WordFits.Statement (.engineFaultDelivery core x) := fun _ e => nomatch e
theorem WordFits.machineCheck (core : Nat) (unit : Nat) (slot : Nat) (regs : BitVec 24) : WordFits.Statement (.machineCheck core unit slot regs) := fun _ e => nomatch e
theorem WordFits.sealComplete (core : Nat) : WordFits.Statement (.sealComplete core) := fun _ e => nomatch e
theorem WordFits.debugHaltTaken (core : Nat) (x : Bool) : WordFits.Statement (.debugHaltTaken core x) := fun _ e => nomatch e
theorem WordFits.addressMatchHalt (core : Nat) (x : Bool) : WordFits.Statement (.addressMatchHalt core x) := fun _ e => nomatch e
theorem WordFits.submissionEntryFetch (p : Nat) : WordFits.Statement (.submissionEntryFetch p) := fun _ e => nomatch e
theorem WordFits.launchPlacement (p : Nat) : WordFits.Statement (.launchPlacement p) := fun _ e => nomatch e
theorem WordFits.quadGate (q : Nat) : WordFits.Statement (.quadGate q) := fun _ e => nomatch e
theorem WordFits.quadWakeComplete (q : Nat) : WordFits.Statement (.quadWakeComplete q) := fun _ e => nomatch e
theorem WordFits.selfTestDrainStart : WordFits.Statement (.selfTestDrainStart) := fun _ e => nomatch e
theorem WordFits.selfTestStart : WordFits.Statement (.selfTestStart) := fun _ e => nomatch e
theorem WordFits.selfTestDefer : WordFits.Statement (.selfTestDefer) := fun _ e => nomatch e
theorem WordFits.selfTestComplete (fails : BitVec 16) : WordFits.Statement (.selfTestComplete fails) := fun _ e => nomatch e
theorem WordFits.coreScrub (core : Nat) : WordFits.Statement (.coreScrub core) := fun _ e => nomatch e
theorem WordFits.coreMoveComplete (core : Nat) : WordFits.Statement (.coreMoveComplete core) := fun _ e => nomatch e
theorem WordFits.groupWatchdogExpiry (p : Nat) (entry : Nat) : WordFits.Statement (.groupWatchdogExpiry p entry) := fun _ e => nomatch e
theorem WordFits.heldPostWrite (p : Nat) (q : Nat) : WordFits.Statement (.heldPostWrite p q) := fun _ e => nomatch e
theorem WordFits.enqueueCopyAccept (core : Nat) : WordFits.Statement (.enqueueCopyAccept core) := fun _ e => nomatch e
theorem WordFits.doorbellSetTail (port : Nat) (vf : Nat) (v : BitVec 64) : WordFits.Statement (.doorbellSetTail port vf v) := fun _ e => nomatch e
theorem WordFits.doorbellSetHead (port : Nat) (vf : Nat) (v : BitVec 64) : WordFits.Statement (.doorbellSetHead port vf v) := fun _ e => nomatch e
theorem WordFits.functionLevelReset (port : Nat) (vf : Nat) : WordFits.Statement (.functionLevelReset port vf) := fun _ e => nomatch e
theorem WordFits.portHotReset (port : Nat) : WordFits.Statement (.portHotReset port) := fun _ e => nomatch e
theorem WordFits.sequencerEmit (core : Nat) : WordFits.Statement (.sequencerEmit core) := fun _ e => nomatch e
theorem WordFits.vectorCommandStart (core : Nat) : WordFits.Statement (.vectorCommandStart core) := fun _ e => nomatch e
theorem WordFits.vectorCommandComplete (core : Nat) : WordFits.Statement (.vectorCommandComplete core) := fun _ e => nomatch e
theorem WordFits.matrixGrant (q : Nat) : WordFits.Statement (.matrixGrant q) := fun _ e => nomatch e
theorem WordFits.matrixCommandComplete (core : Nat) : WordFits.Statement (.matrixCommandComplete core) := fun _ e => nomatch e
theorem WordFits.rotationWriteApply (k : Nat) : WordFits.Statement (.rotationWriteApply k) := fun _ e => nomatch e
theorem WordFits.courierCommandStart (core : Nat) : WordFits.Statement (.courierCommandStart core) := fun _ e => nomatch e
theorem WordFits.courierCommandComplete (core : Nat) (k : Nat) : WordFits.Statement (.courierCommandComplete core k) := fun _ e => nomatch e
theorem WordFits.courierFault (core : Nat) (k : Nat) : WordFits.Statement (.courierFault core k) := fun _ e => nomatch e
theorem WordFits.engineWriteArrival (k : Nat) : WordFits.Statement (.engineWriteArrival k) := fun _ e => nomatch e
theorem WordFits.streamRecordStart (core : Nat) : WordFits.Statement (.streamRecordStart core) := fun _ e => nomatch e
theorem WordFits.streamRecordComplete (core : Nat) (k : Nat) : WordFits.Statement (.streamRecordComplete core k) := fun _ e => nomatch e
theorem WordFits.streamRecordFault (core : Nat) (k : Nat) : WordFits.Statement (.streamRecordFault core k) := fun _ e => nomatch e
theorem WordFits.bselApply (core : Nat) : WordFits.Statement (.bselApply core) := fun _ e => nomatch e
theorem WordFits.bankCommandComplete (core : Nat) (k : Nat) : WordFits.Statement (.bankCommandComplete core k) := fun _ e => nomatch e
theorem WordFits.rowSpareComplete (ch : Nat) (bank : Nat) (row : Nat) : WordFits.Statement (.rowSpareComplete ch bank row) := fun _ e => nomatch e
theorem WordFits.scrubPass (ch : Nat) : WordFits.Statement (.scrubPass ch) := fun _ e => nomatch e
theorem WordFits.xTravellerGo (core : Nat) (steward : Nat) (v : BitVec 64) : WordFits.Statement (.xTravellerGo core steward v) := fun _ e => nomatch e
theorem WordFits.xTravellerStop (core : Nat) (steward : Nat) : WordFits.Statement (.xTravellerStop core steward) := fun _ e => nomatch e
theorem WordFits.xTravellerStopComplete (core : Nat) : WordFits.Statement (.xTravellerStopComplete core) := fun _ e => nomatch e
theorem WordFits.lmBoundaryStage (agent : Agent) (core : Nat) (which : Nat) (v : BitVec 64) : WordFits.Statement (.lmBoundaryStage agent core which v) := fun _ e => nomatch e
theorem WordFits.lmdtbCommit (agent : Agent) (core : Nat) (v : BitVec 64) : WordFits.Statement (.lmdtbCommit agent core v) := fun _ e => nomatch e
theorem WordFits.imageLoad (agent : Agent) (cores : List Nat) (image : List Byte) : WordFits.Statement (.imageLoad agent cores image) := fun _ e => nomatch e
theorem WordFits.reservationGrant (pa : Nat) : WordFits.Statement (.reservationGrant pa) := fun _ e => nomatch e
theorem WordFits.reservationReleaseApply (k : Nat) : WordFits.Statement (.reservationReleaseApply k) := fun _ e => nomatch e
theorem WordFits.redApply (core : Nat) (x : Bool) : WordFits.Statement (.redApply core x) := fun _ e => nomatch e
theorem WordFits.barrierEventApply (k : Nat) : WordFits.Statement (.barrierEventApply k) := fun _ e => nomatch e
theorem WordFits.remoteBarrierEvent (k : Nat) : WordFits.Statement (.remoteBarrierEvent k) := fun _ e => nomatch e
theorem WordFits.walkComplete (k : Nat) : WordFits.Statement (.walkComplete k) := fun _ e => nomatch e
theorem WordFits.ptrootWrite (agent : Agent) (p : Nat) (v : BitVec 64) : WordFits.Statement (.ptrootWrite agent p v) := fun _ e => nomatch e
theorem WordFits.xlinvGo (agent : Agent) (v : BitVec 64) : WordFits.Statement (.xlinvGo agent v) := fun _ e => nomatch e
theorem WordFits.xlinvComplete : WordFits.Statement (.xlinvComplete) := fun _ e => nomatch e
theorem WordFits.mapChangeIssue (agent : Agent) (c : MapChange) : WordFits.Statement (.mapChangeIssue agent c) := fun _ e => nomatch e
theorem WordFits.mapChangeSequence (k : Nat) : WordFits.Statement (.mapChangeSequence k) := fun _ e => nomatch e
theorem WordFits.mapChangeApply (k : Nat) : WordFits.Statement (.mapChangeApply k) := fun _ e => nomatch e
theorem WordFits.restripeGranuleCopy (e : Nat) : WordFits.Statement (.restripeGranuleCopy e) := fun _ e => nomatch e
theorem WordFits.restripeCopyAck (e : Nat) : WordFits.Statement (.restripeCopyAck e) := fun _ e => nomatch e
theorem WordFits.cubeLossTimer (cube : Nat) : WordFits.Statement (.cubeLossTimer cube) := fun _ e => nomatch e
theorem WordFits.meterFlushTimer (m : Nat) : WordFits.Statement (.meterFlushTimer m) := fun _ e => nomatch e
theorem WordFits.leakageTick : WordFits.Statement (.leakageTick) := fun _ e => nomatch e
theorem WordFits.refreshRow (ch : Nat) : WordFits.Statement (.refreshRow ch) := fun _ e => nomatch e
theorem WordFits.kcorrUpdate (measured : List Int) : WordFits.Statement (.kcorrUpdate measured) := fun _ e => nomatch e
theorem WordFits.purseAddWrite (agent : Agent) (ctx : Nat) (v : BitVec 64) : WordFits.Statement (.purseAddWrite agent ctx v) := fun _ e => nomatch e
theorem WordFits.partcfgWrite (agent : Agent) (p : Nat) (v : BitVec 64) : WordFits.Statement (.partcfgWrite agent p v) := fun _ e => nomatch e
theorem WordFits.carveGo (agent : Agent) (v : BitVec 64) : WordFits.Statement (.carveGo agent v) := fun _ e => nomatch e
theorem WordFits.carveStop (agent : Agent) (v : BitVec 64) : WordFits.Statement (.carveStop agent v) := fun _ e => nomatch e
theorem WordFits.owndatWrite (agent : Agent) (v : BitVec 64) : WordFits.Statement (.owndatWrite agent v) := fun _ e => nomatch e
theorem WordFits.halldatRead (agent : Agent) : WordFits.Statement (.halldatRead agent) := fun _ e => nomatch e
theorem WordFits.halldatWrite (agent : Agent) (v : BitVec 64) : WordFits.Statement (.halldatWrite agent v) := fun _ e => nomatch e
theorem WordFits.hccfgWrite (agent : Agent) (p : Nat) (v : BitVec 64) : WordFits.Statement (.hccfgWrite agent p v) := fun _ e => nomatch e
theorem WordFits.respgWrite (agent : Agent) (ch : Nat) (j : Nat) (v : BitVec 64) : WordFits.Statement (.respgWrite agent ch j v) := fun _ e => nomatch e
theorem WordFits.lanternSlotWrite (agent : Agent) (k : Nat) (half : Nat) (v : BitVec 64) : WordFits.Statement (.lanternSlotWrite agent k half v) := fun _ e => nomatch e
theorem WordFits.planEnable (agent : Agent) (v : BitVec 64) : WordFits.Statement (.planEnable agent v) := fun _ e => nomatch e
theorem WordFits.dbgHaltTraveller : WordFits.Statement (.dbgHaltTraveller) := fun _ e => nomatch e
theorem WordFits.dbgResumeTraveller : WordFits.Statement (.dbgResumeTraveller) := fun _ e => nomatch e
theorem WordFits.dbgHaltLaunch : WordFits.Statement (.dbgHaltLaunch) := fun _ e => nomatch e
theorem WordFits.dbgResumeLaunch : WordFits.Statement (.dbgResumeLaunch) := fun _ e => nomatch e
theorem WordFits.linkRetrain (l : Nat) : WordFits.Statement (.linkRetrain l) := fun _ e => nomatch e
theorem WordFits.linkTrainComplete (l : Nat) (good : BitVec 9) : WordFits.Statement (.linkTrainComplete l good) := fun _ e => nomatch e
theorem WordFits.linkTrainTimeout (l : Nat) : WordFits.Statement (.linkTrainTimeout l) := fun _ e => nomatch e
theorem WordFits.laneFailure (l : Nat) (lane : Nat) : WordFits.Statement (.laneFailure l lane) := fun _ e => nomatch e
theorem WordFits.linkSilenceTimeout (l : Nat) : WordFits.Statement (.linkSilenceTimeout l) := fun _ e => nomatch e
theorem WordFits.linkReplay (l : Nat) : WordFits.Statement (.linkReplay l) := fun _ e => nomatch e
theorem WordFits.routeUpdate (cube : Nat) (es : List (Nat × Nat × Nat)) : WordFits.Statement (.routeUpdate cube es) := fun _ e => nomatch e
theorem WordFits.heartbeatSend : WordFits.Statement (.heartbeatSend) := fun _ e => nomatch e
theorem WordFits.packetTransit (k : Nat) : WordFits.Statement (.packetTransit k) := fun _ e => nomatch e
theorem WordFits.packetReceive (k : Nat) : WordFits.Statement (.packetReceive k) := fun _ e => nomatch e
theorem WordFits.connectionFetchComplete (k : Nat) : WordFits.Statement (.connectionFetchComplete k) := fun _ e => nomatch e
theorem WordFits.e2eRetryTimeout (k : Nat) : WordFits.Statement (.e2eRetryTimeout k) := fun _ e => nomatch e
theorem WordFits.nakRetryResend (k : Nat) : WordFits.Statement (.nakRetryResend k) := fun _ e => nomatch e
theorem WordFits.nakAbsentReceive (k : Nat) : WordFits.Statement (.nakAbsentReceive k) := fun _ e => nomatch e
theorem WordFits.acknowledgementReceive (k : Nat) : WordFits.Statement (.acknowledgementReceive k) := fun _ e => nomatch e
theorem WordFits.messageCountExpiry (k : Nat) : WordFits.Statement (.messageCountExpiry k) := fun _ e => nomatch e
theorem WordFits.arrivalFilterExpiry (k : Nat) : WordFits.Statement (.arrivalFilterExpiry k) := fun _ e => nomatch e
theorem WordFits.bounceResend (k : Nat) : WordFits.Statement (.bounceResend k) := fun _ e => nomatch e
theorem WordFits.reduceContributionArrival (k : Nat) : WordFits.Statement (.reduceContributionArrival k) := fun _ e => nomatch e
theorem WordFits.multicastReceive (k : Nat) : WordFits.Statement (.multicastReceive k) := fun _ e => nomatch e
theorem WordFits.planAbort (k : Nat) : WordFits.Statement (.planAbort k) := fun _ e => nomatch e
theorem WordFits.escortCompare (k : Nat) : WordFits.Statement (.escortCompare k) := fun _ e => nomatch e
theorem WordFits.escortTimeout (k : Nat) : WordFits.Statement (.escortTimeout k) := fun _ e => nomatch e
theorem WordFits.lanternRoundStart (k : Nat) : WordFits.Statement (.lanternRoundStart k) := fun _ e => nomatch e
theorem WordFits.lanternProbeArrival (k : Nat) : WordFits.Statement (.lanternProbeArrival k) := fun _ e => nomatch e
theorem WordFits.lanternProbeRelease (k : Nat) : WordFits.Statement (.lanternProbeRelease k) := fun _ e => nomatch e
theorem WordFits.lanternProbeReturn (k : Nat) : WordFits.Statement (.lanternProbeReturn k) := fun _ e => nomatch e
theorem WordFits.lanternTimeout (k : Nat) : WordFits.Statement (.lanternTimeout k) := fun _ e => nomatch e
theorem WordFits.lanternDoneMessage (k : Nat) : WordFits.Statement (.lanternDoneMessage k) := fun _ e => nomatch e
theorem WordFits.trapMessageArrival (k : Nat) : WordFits.Statement (.trapMessageArrival k) := fun _ e => nomatch e
theorem WordFits.trapMessageSpillReturn (p : Nat) : WordFits.Statement (.trapMessageSpillReturn p) := fun _ e => nomatch e
theorem WordFits.managementRead (port : Nat) : WordFits.Statement (.managementRead port) := fun _ e => nomatch e
theorem WordFits.managementWrite (port : Nat) : WordFits.Statement (.managementWrite port) := fun _ e => nomatch e
theorem WordFits.managementReply (port : Nat) : WordFits.Statement (.managementReply port) := fun _ e => nomatch e
theorem WordFits.claim (port : Nat) : WordFits.Statement (.claim port) := fun _ e => nomatch e
theorem WordFits.handover (port : Nat) : WordFits.Statement (.handover port) := fun _ e => nomatch e
theorem WordFits.unlock (port : Nat) : WordFits.Statement (.unlock port) := fun _ e => nomatch e
theorem WordFits.rekey (port : Nat) : WordFits.Statement (.rekey port) := fun _ e => nomatch e
theorem WordFits.switch (port : Nat) : WordFits.Statement (.switch port) := fun _ e => nomatch e
theorem WordFits.fwchunk (port : Nat) : WordFits.Statement (.fwchunk port) := fun _ e => nomatch e
theorem WordFits.attestRead (port : Nat) : WordFits.Statement (.attestRead port) := fun _ e => nomatch e
theorem WordFits.alarm (src : Nat) : WordFits.Statement (.alarm src) := fun _ e => nomatch e
theorem WordFits.thermalReading (sensor : Nat) (temp : Int) : WordFits.Statement (.thermalReading sensor temp) := fun _ e => nomatch e
theorem WordFits.thermalShutdownTimer : WordFits.Statement (.thermalShutdownTimer) := fun _ e => nomatch e
theorem WordFits.registerWrite (agent : Agent) (block : Nat) (off : Nat) (v : BitVec 64) : WordFits.Statement (.registerWrite agent block off v) := fun _ e => nomatch e
theorem WordFits.waystationRailOff : WordFits.Statement (.waystationRailOff) := fun _ e => nomatch e
theorem WordFits.spilledTravellerPlacement (p : Nat) : WordFits.Statement (.spilledTravellerPlacement p) := fun _ e => nomatch e
theorem WordFits.planDisable (agent : Agent) (v : BitVec 64) : WordFits.Statement (.planDisable agent v) := fun _ e => nomatch e
theorem WordFits.owndatApplyComplete : WordFits.Statement (.owndatApplyComplete) := fun _ e => nomatch e
theorem WordFits.pstructRead (p : Nat) : WordFits.Statement (.pstructRead p) := fun _ e => nomatch e

end Sys2Proof.Laws
end

