-- ==== Sys2Proof/Laws/Scalar.lean ====
section
/-! SUPPORT. What each shape of scalar instruction answers when nothing prevents its issue. -/

namespace Sys2Proof.Machine

/-! ## Words as the encoder writes them -/

theorem plc_word3 (m : Nat) (w : BitVec 3) (d a b : BitVec 5) : plc 29 w (plc 18 d (plc 13 a (plc 8 b m))) = word3 m w d a b := by
  simp only [plc, word3]; ring
theorem plc_word3_da (m : Nat) (w : BitVec 3) (d a : BitVec 5) : plc 29 w (plc 18 d (plc 13 a m)) = word3 m w d a := by
  simp [plc, word3]; ring
theorem plc_wordI (m : Nat) (w : BitVec 3) (d a : BitVec 5) (i : BitVec 13) :
    plc 29 w (plc 18 d (plc 13 a (plc 0 i m))) = wordI m w d a i := by
  simp only [plc, wordI]; ring

theorem anyPoison_false (x : Ctx) (s : State) (rs : List (BitVec 5)) (h : Clean s x rs) :
    x.anyPoison (now s x) (rs.map BitVec.toNat) = false := by
  simp only [Ctx.anyPoison, List.any_eq_false, List.mem_map]
  rintro _ ⟨r, hr, rfl⟩
  simp [h r hr]
theorem anyPoison_true (x : Ctx) (s : State) (rs : List (BitVec 5)) (h : Dirty s x rs) :
    x.anyPoison (now s x) (rs.map BitVec.toNat) = true := by
  obtain ⟨r, hr, hp⟩ := h
  simp only [Ctx.anyPoison, List.any_eq_true, List.mem_map]
  exact ⟨_, ⟨r, hr, rfl⟩, by simpa using hp⟩

/-- An issue without trap, whose body goes on to the next word. -/
theorem issue_after (i : Issue) (s s' : State) (x : Ctx) (w : BitVec 3) (rs : List (BitVec 5)) (body : Ctx → State → Act)
    (hx : ctxOf s = some x) (hr : x.reply = none) (ha : accepted x.c x.x i.word = true)
    (hp : ∀ r ∈ rs, pendOf (stream s x.c x.x) r.toNat x.t = none) (hl : i.legal = true) (hreads : i.reads = rs.map BitVec.toNat)
    (hf : i.rounds = true → frmIllegal (frmOf s x.c x.sl) = false) (hv : i.level ≤ (slot s x.c x.sl).lvl)
    (hs : ∀ r ∈ i.sync, x.poisoned (now s x) r = false) (hw : i.word / 2 ^ 29 % 8 = w.toNat) (hb : body x (now s x) = .next s') :
    issue i s body = .next (after w i.fare x s') := by
  rw [issue_body i s x body hx hr, hb]
  · simp only [retire_eq_after i w x s' hw]
  · refine issueTrap_none i x _ hl ha (by simpa using hf) (by simpa using hv) ?_ hs
    rw [hreads]; intro r hm
    obtain ⟨q, hq, rfl⟩ := List.mem_map.mp hm
    rw [pendOf_now s x _ _ q.isLt]; exact hp q hq

/-- The same where the body jumps. -/
theorem issue_jump (i : Issue) (s s' : State) (pc : Word) (x : Ctx) (w : BitVec 3) (rs : List (BitVec 5)) (body : Ctx → State → Act)
    (hx : ctxOf s = some x) (hr : x.reply = none) (ha : accepted x.c x.x i.word = true)
    (hp : ∀ r ∈ rs, pendOf (stream s x.c x.x) r.toNat x.t = none) (hl : i.legal = true) (hreads : i.reads = rs.map BitVec.toNat)
    (hf : i.rounds = true → frmIllegal (frmOf s x.c x.sl) = false) (hv : i.level ≤ (slot s x.c x.sl).lvl)
    (hs : ∀ r ∈ i.sync, x.poisoned (now s x) r = false) (hw : i.word / 2 ^ 29 % 8 = w.toNat) (hb : body x (now s x) = .jump s' pc) :
    issue i s body = .next (afterJump w i.fare x s' pc) := by
  rw [issue_body i s x body hx hr, hb]
  · simp only [retire_eq_afterJump i w x s' pc hw]
  · refine issueTrap_none i x _ hl ha (by simpa using hf) (by simpa using hv) ?_ hs
    rw [hreads]; intro r hm
    obtain ⟨q, hq, rfl⟩ := List.mem_map.mp hm
    rw [pendOf_now s x _ _ q.isLt]; exact hp q hq

/-! ## Register results with the poison rule (R99) -/

theorem wrFrom_clean (x : Ctx) (s : State) (rs : List (BitVec 5)) (d : BitVec 5) (v : Word) (lat : Nat) (h : Clean s x rs) :
    x.wrFrom (now s x) (rs.map BitVec.toNat) d v lat = x.wr (now s x) d.toNat v lat := by
  simp [Ctx.wrFrom, anyPoison_false x s rs h]
theorem wrFrom_dirty (x : Ctx) (s : State) (rs : List (BitVec 5)) (d : BitVec 5) (v : Word) (lat : Nat) (h : Dirty s x rs) :
    x.wrFrom (now s x) (rs.map BitVec.toNat) d v lat = x.wr (now s x) d.toNat 0 lat true := by
  simp [Ctx.wrFrom, anyPoison_true x s rs h]

section shapes
variable (m : Nat) (w : BitVec 3) (d a b : BitVec 5) (s : State) (x : Ctx) (lat fare : Nat)

theorem int3_next (hm : m + 2 ^ 23 ≤ 2 ^ 29) (f : Word → Word → Word) (hd : destOk d = true) (hc : Clean s x [a, b])
    (hx : ctxOf s = some x) (hr : x.reply = none) (ha : accepted x.c x.x (word3 m w d a b) = true)
    (hp : ∀ r ∈ [a, b], pendOf (stream s x.c x.x) r.toNat x.t = none) :
    int3 m w d a b s lat fare f = .next (wrote w fare x s d (f (x.val s a) (x.val s b)) lat) :=
  issue_after _ s _ x w [a, b] _ hx hr ha hp hd rfl (by simp) (by simp) (by simp) (word3_wait m hm w d a b)
    (congrArg Act.next ((wrFrom_clean x s [a, b] d _ lat hc).trans (by simp [Ctx.val, rn])))

theorem int3_poison (hm : m + 2 ^ 23 ≤ 2 ^ 29) (f : Word → Word → Word) (hd : destOk d = true) (hc : Dirty s x [a, b])
    (hx : ctxOf s = some x) (hr : x.reply = none) (ha : accepted x.c x.x (word3 m w d a b) = true)
    (hp : ∀ r ∈ [a, b], pendOf (stream s x.c x.x) r.toNat x.t = none) :
    int3 m w d a b s lat fare f = .next (wrotePoison w fare x s d lat) :=
  issue_after _ s _ x w [a, b] _ hx hr ha hp hd rfl (by simp) (by simp) (by simp) (word3_wait m hm w d a b)
    (congrArg Act.next (wrFrom_dirty x s [a, b] d _ lat hc))

theorem int2_next (hm : m + 2 ^ 23 ≤ 2 ^ 29) (f : Word → Word) (hd : destOk d = true) (hc : Clean s x [a])
    (hx : ctxOf s = some x) (hr : x.reply = none) (ha : accepted x.c x.x (word3 m w d a) = true)
    (hp : ∀ r ∈ [a], pendOf (stream s x.c x.x) r.toNat x.t = none) :
    int2 m w d a s f = .next (wrote w 0 x s d (f (x.val s a)) 1) :=
  issue_after _ s _ x w [a] _ hx hr ha hp hd rfl (by simp) (by simp) (by simp) (word3_wait m hm w d a 0)
    (congrArg Act.next ((wrFrom_clean x s [a] d _ 1 hc).trans (by simp [Ctx.val, rn])))

theorem int2_poison (hm : m + 2 ^ 23 ≤ 2 ^ 29) (f : Word → Word) (hd : destOk d = true) (hc : Dirty s x [a])
    (hx : ctxOf s = some x) (hr : x.reply = none) (ha : accepted x.c x.x (word3 m w d a) = true)
    (hp : ∀ r ∈ [a], pendOf (stream s x.c x.x) r.toNat x.t = none) :
    int2 m w d a s f = .next (wrotePoison w 0 x s d 1) :=
  issue_after _ s _ x w [a] _ hx hr ha hp hd rfl (by simp) (by simp) (by simp) (word3_wait m hm w d a 0)
    (congrArg Act.next (wrFrom_dirty x s [a] d _ 1 hc))

theorem intI_next (i : BitVec 13) (hm : m + 2 ^ 23 ≤ 2 ^ 29) (f : Word → Word) (hd : destOk d = true) (hc : Clean s x [a])
    (hx : ctxOf s = some x) (hr : x.reply = none) (ha : accepted x.c x.x (wordI m w d a i) = true)
    (hp : ∀ r ∈ [a], pendOf (stream s x.c x.x) r.toNat x.t = none) :
    intI m w d a i s f = .next (wrote w 0 x s d (f (x.val s a)) 1) :=
  issue_after _ s _ x w [a] _ hx hr ha hp hd rfl (by simp) (by simp) (by simp) (wordI_wait m hm w d a i)
    (congrArg Act.next ((wrFrom_clean x s [a] d _ 1 hc).trans (by simp [Ctx.val, rn])))

theorem intI_poison (i : BitVec 13) (hm : m + 2 ^ 23 ≤ 2 ^ 29) (f : Word → Word) (hd : destOk d = true) (hc : Dirty s x [a])
    (hx : ctxOf s = some x) (hr : x.reply = none) (ha : accepted x.c x.x (wordI m w d a i) = true)
    (hp : ∀ r ∈ [a], pendOf (stream s x.c x.x) r.toNat x.t = none) :
    intI m w d a i s f = .next (wrotePoison w 0 x s d 1) :=
  issue_after _ s _ x w [a] _ hx hr ha hp hd rfl (by simp) (by simp) (by simp) (wordI_wait m hm w d a i)
    (congrArg Act.next (wrFrom_dirty x s [a] d _ 1 hc))

theorem int3d_next (hm : m + 2 ^ 23 ≤ 2 ^ 29) (f : Word → Word → Word → Word) (hd : destOk d = true) (hc : Clean s x [a, b, d])
    (hx : ctxOf s = some x) (hr : x.reply = none) (ha : accepted x.c x.x (word3 m w d a b) = true)
    (hp : ∀ r ∈ [a, b, d], pendOf (stream s x.c x.x) r.toNat x.t = none) :
    int3d m w d a b s f = .next (wrote w 0 x s d (f (x.val s d) (x.val s a) (x.val s b)) 1) :=
  issue_after _ s _ x w [a, b, d] _ hx hr ha hp hd rfl (by simp) (by simp) (by simp) (word3_wait m hm w d a b)
    (congrArg Act.next ((wrFrom_clean x s [a, b, d] d _ 1 hc).trans (by simp [Ctx.val, rn])))

theorem int3d_poison (hm : m + 2 ^ 23 ≤ 2 ^ 29) (f : Word → Word → Word → Word) (hd : destOk d = true) (hc : Dirty s x [a, b, d])
    (hx : ctxOf s = some x) (hr : x.reply = none) (ha : accepted x.c x.x (word3 m w d a b) = true)
    (hp : ∀ r ∈ [a, b, d], pendOf (stream s x.c x.x) r.toNat x.t = none) :
    int3d m w d a b s f = .next (wrotePoison w 0 x s d 1) :=
  issue_after _ s _ x w [a, b, d] _ hx hr ha hp hd rfl (by simp) (by simp) (by simp) (word3_wait m hm w d a b)
    (congrArg Act.next (wrFrom_dirty x s [a, b, d] d _ 1 hc))

/-! ## Floating-point results with their flags (R34, R47, R99) -/

theorem wordF_wait (hm : m + 2 ^ 23 ≤ 2 ^ 29) (t : BitVec 1) : wordF m w d a b t / 2 ^ 29 % 8 = w.toNat := by
  have := w.isLt; have := d.isLt; have := a.isLt; have := b.isLt; have := t.isLt
  unfold wordF word3; omega
theorem plc_wordF (t : BitVec 1) : plc 29 w (plc 18 d (plc 13 a (plc 8 b (plc 6 t m)))) = wordF m w d a b t := by
  simp only [plc, wordF, word3]; ring
theorem plc_wordF_da (t : BitVec 1) : plc 29 w (plc 18 d (plc 13 a (plc 6 t m))) = wordF m w d a 0 t := by
  simp [plc, wordF, word3]; ring

theorem wrFloat_clean (rs : List (BitVec 5)) (r : FRes) (h : Clean s x rs) :
    x.wrFloat (now s x) (rs.map BitVec.toNat) d r lat
      = x.raise (x.wr (now s x) d.toNat (BitVec.ofNat 64 r.bits) lat) r.flags lat := by
  simp [Ctx.wrFloat, anyPoison_false x s rs h]
theorem wrFloat_dirty (rs : List (BitVec 5)) (r : FRes) (h : Dirty s x rs) :
    x.wrFloat (now s x) (rs.map BitVec.toNat) d r lat = x.wr (now s x) d.toNat 0 lat true := by
  simp [Ctx.wrFloat, anyPoison_true x s rs h]

end shapes

/-! ## Bits by position -/

theorem bitSum_spec (f : Nat → Bool) : ∀ n, (List.range n).foldl (fun v i => if f i then v + 2 ^ i else v) 0 < 2 ^ n
    ∧ ∀ i, ((List.range n).foldl (fun v i => if f i then v + 2 ^ i else v) 0).testBit i = (decide (i < n) && f i) := by
  intro n; induction n with
  | zero => simp
  | succ n ih =>
    obtain ⟨h1, h2⟩ := ih
    rw [List.range_succ, List.foldl_append]
    simp only [List.foldl_cons, List.foldl_nil]
    generalize hv : (List.range n).foldl (fun v i => if f i then v + 2 ^ i else v) 0 = v at *
    split
    · next hf =>
      refine ⟨by rw [pow_succ]; omega, fun i => ?_⟩
      rw [show v + 2 ^ n = 2 ^ n + v by omega]
      rcases Nat.lt_trichotomy i n with h | h | h
      · rw [Nat.testBit_two_pow_add_gt h, h2 i]; simp [h, Nat.lt_succ_of_lt h]
      · subst h; rw [Nat.testBit_two_pow_add_eq, Nat.testBit_lt_two_pow h1]; simp [hf]
      · rw [Nat.testBit_lt_two_pow]
        · simp [show ¬ i < n + 1 by omega]
        · have : 2 ^ (n + 1) ≤ 2 ^ i := Nat.pow_le_pow_right (by norm_num) (by omega)
          rw [pow_succ] at this; omega
    · next hf =>
      refine ⟨by rw [pow_succ]; omega, fun i => ?_⟩
      rw [h2 i]
      by_cases h : i = n
      · subst h; simp at hf; simp [hf]
      · have : decide (i < n) = decide (i < n + 1) := by simp; omega
        rw [this]
theorem ofBits_get (f : Nat → Bool) (i : Nat) (h : i < 64) : (ofBits f).getLsbD i = f i := by
  unfold ofBits
  rw [BitVec.getLsbD_ofNat]
  have := (bitSum_spec f 64).2 i
  rw [this]; simp [h]
theorem bitsBelow_get (n : Nat) (f : Nat → Bool) (i : Nat) : (bitsBelow n f).testBit i = (decide (i < n) && f i) := (bitSum_spec f n).2 i

/-! ## Bytes and sign bits -/

theorem bswap_spec (a : Word) (i : Nat) (h : i < 8) : (bytesRev a).toNat / 256 ^ i % 256 = a.toNat / 256 ^ (7 - i) % 256 := by
  unfold bytesRev
  have hlt : leNat (leBytes 8 a.toNat).reverse < 2 ^ 64 := by
    have := leNat_lt (leBytes 8 a.toNat).reverse; simpa using this
  rw [BitVec.toNat_ofNat, Nat.mod_eq_of_lt hlt, leNat_digit, List.getD_eq_getElem?_getD, List.getElem?_reverse (by simpa using h)]
  rw [leBytes_length, leBytes_get 8 _ _ (by omega)]
  simp
theorem sext_spec (a : Word) (n i : Nat) (hn : n < 64) (h : i < 64) : (sextBit a n).getLsbD i = a.getLsbD (min i n) := by
  unfold sextBit
  rw [BitVec.getLsbD_sshiftRight]
  have h64 : ¬ (64 ≤ i) := by omega
  simp only [h64, decide_false, Bool.not_false, Bool.true_and]
  by_cases hi : i ≤ n
  · rw [if_pos (by omega), BitVec.getLsbD_shiftLeft]
    simp [show 63 - n + i < 64 by omega, show ¬ (63 - n + i < 63 - n) by omega, Nat.min_eq_left hi]
  · rw [if_neg (by omega), BitVec.msb_eq_getLsbD_last, BitVec.getLsbD_shiftLeft]
    simp [show ¬ (63 < 63 - n) by omega, show 63 - (63 - n) = n by omega, Nat.min_eq_right (by omega : n ≤ i)]

end Sys2Proof.Machine
end

