-- ==== Sys2Proof/Machine/Debug.lean ====
section
/-! DEFINITION. What a debugger reads of a halted traveller (R73, R177, R246, R256, R309, R393): the images of the header, the engine
records, the accumulator banks, the barriers and the sequencer. The rules give these views no address, so no instruction reads them. -/

namespace Sys2Proof.Machine

/-- The number whose fields are the given ones: lowest bit, width, value. -/
def image (fs : List (Nat × Nat × Nat)) : Nat := fs.foldl (fun n f => n + f.2.2 % 2 ^ f.2.1 * 2 ^ f.1) 0

/-- The 32-byte header of a traveller (R73). -/
def headerImage (h : Header) : Nat :=
  image [(0, 64, h.key.toNat), (64, 64, h.fare.toNat), (128, 24, h.pmask.toNat), (160, 13, h.bcore), (176, 12, h.bcube), (192, 16, h.lslot),
    (208, 5, h.part), (224, 13, h.ocore), (240, 12, h.ocube)]

/-- ST of a record: 0 pending, 1 active or stopped, 2 done, 3 faulted (R177). -/
def Rec.status (r : Rec) : Nat := if r.active then 1 else r.st

/-- PROG of a record of queue `k`: bytes for the courier, 64-byte units or stages for a stream (R182, R256). A block that has left
counts when its writes have landed. -/
def Rec.progress (s : State) (c k : Nat) (r : Rec) : Nat :=
  if r.active && !recOut s c k r.seq && (k == 1 && r.fn ≤ 2 || k == 2 && r.fn == 2) then max r.prog r.iter else r.prog

/-- FCAUSE, FADDR and PROG (R182, R256). -/
def faultFields (s : State) (c k : Nat) (r : Rec) : List (Nat × Nat × Nat) :=
  (match r.fault with
    | some t => [(256, 8, t.cause.code), (264, 56, t.addr.toNat)]
    | none => [])
  ++ [(320, 32, r.progress s c k)]

/-- The local offset of a record's instruction in words. -/
def Rec.pcWord (c : Nat) (r : Rec) : Nat := (ea56 r.pc - aliasBase c) / 4

/-- The 64-byte record in queue `k` of core `c`: 0 coach and 1 courier by R177, 2 stream by R256. -/
def recordImage (s : State) (c k : Nat) (r : Rec) : Nat :=
  image ([(0, 6, r.major), (6, 8, r.fn), (14, 2, r.status), (24, 8, r.ecx), (56, 8, r.seq), (64, 64, r.d.toNat), (128, 64, r.a.toNat),
      (192, 64, r.b.toNat)]
    ++ (if k = 2 then [(32, 18, r.pcWord c), (50, 6, r.slot)] else [(16, 8, r.frm.toNat), (32, 16, r.pcWord c), (48, 8, r.slot)])
    ++ (if k = 0 then [(256, 256, r.p.toNat)] else faultFields s c k r))

/-- The bytes of a held bank (R246). A command changes its tile and its status bits only when it completes, so what the banks hold
while one is active is its shadow. -/
def bankImage (s : State) (q bank : Nat) : List Byte := (List.range 2048).map fun i => rdByte s.accMem (accKey q bank i)
def bankStatusImage (s : State) (q bank : Nat) : Byte := mget 0 (quad s q).bankStatus bank

/-- The two doubles of a barrier (R309). -/
def barrierImage (s : State) (c b : Nat) : Nat := (coreReg s c (0x0400 + 16 * b)).toNat + 2 ^ 64 * (coreReg s c (0x0408 + 16 * b)).toNat

/-- The sequencer's loop: the iterations that are left and the words of the captured body (R393). -/
def sequencerImage (s : State) (c : Nat) : Option (Nat × List Nat) :=
  ((core s c).seqr).map fun q => (q.count - q.iter, q.body.map (·.word))

end Sys2Proof.Machine
end

