-- ==== Sys2Proof/Machine/Pseudo.lean ====
section
/-! DEFINITION. The pseudo-instructions of the assembler (R65), as the instructions they expand to. -/

namespace Sys2Proof.Machine

/-- A pseudo-instruction; `addr` has the value that the loader gives it (R68). -/
inductive Pseudo where
  | nop
  | mv (d a : BitVec 5)
  /-- `target - pc`, in words -/
  | j (off : BitVec 13)
  | ret
  | setv (d : BitVec 5) (v : Int)
  | addr (d : BitVec 5) (v : Int)
deriving DecidableEq, Repr

/-- HIMM, SRAI by 1 and ADDI, which leave F x 8,192 + a in rd; the last word has the wait suffix `w`. -/
def setv3 (w : BitVec 3) (d : BitVec 5) (v : Int) : Option (List Instr) :=
  let f := (v + 4096) / 8192
  if -1073745920 ≤ v ∧ v ≤ 1073737727 then
    some [.himm 0 d (BitVec.ofInt 18 f), .srai 0 d d 1, .addi w d d (BitVec.ofInt 13 (v - 8192 * f))]
  else none

/-- The expansion under the wait suffix `w`, which stands in its last word; none for a value outside the ranges of SETV. -/
def Pseudo.expand (w : BitVec 3) : Pseudo → Option (List Instr)
  | .nop => some [.addi w 24 24 0]
  | .mv d a => some [.addi w d a 0]
  | .j off => some [.beq w 24 24 off]
  | .ret => some [.jalr w 24 23 0]
  | .setv d v => if -4096 ≤ v ∧ v ≤ 4095 then some [.addi w d 24 (BitVec.ofInt 13 v)] else setv3 w d v
  | .addr d v => setv3 w d v

end Sys2Proof.Machine
end

