-- ==== Sys2Proof/Tests/Slice0.lean ====
section
/-! SUPPORT. Tests: words of the opcode map, ill-formed terms, worked examples of the spec, and for every statement with hypotheses
a state and operands that meet them. -/

set_option Elab.async false

namespace Sys2Proof.Tests

open Sys2Proof Sys2Proof.Machine

/-! ## States -/

/-- A cube that runs, without a traveller; it is cube 0, and its identifier is in force. -/
def up : State := putReg { State.reset with ws := .full, memDom := .on, comp := .run } islandBlk 0x0010 0x1000
/-- One with a traveller RUNNING at the start of its code on stream `k`. -/
def on (k : Nat) : State := { hostTraveller State.reset k with cur := k }
/-- Compute core 0, slot 0, where its traveller issues first. -/
def X0 : Ctx := { c := 0, x := false, sl := 0, pc := 0x00FFFFFFFFFC0000, t := 0, reply := none }
/-- The workspaces of slots `sl` hold registers `rs`. -/
def regs (s : State) (c sl : Nat) (rs : List (Nat × Word)) : State := rs.foldl (fun s e => wsWr s c sl (8 * e.1) 8 e.2.toNat) s

/-- `Issues`, as a computation. -/
def issuesB (s : State) (x : Ctx) (i : Instr) (reads : List (BitVec 5)) : Bool :=
  decide (ctxOf s = some x) && decide (x.reply = none) && (match encode i with | some n => accepted x.c x.x n | none => true)
    && reads.all fun r => (pendOf (stream s x.c x.x) r.toNat x.t).isNone

theorem issues_of {s : State} {x : Ctx} {i : Instr} {reads : List (BitVec 5)} (h : issuesB s x i reads = true) : Issues s x i reads := by
  simp only [issuesB, Bool.and_eq_true, decide_eq_true_eq, List.all_eq_true, Option.isNone_iff_eq_none] at h
  obtain ⟨⟨⟨h1, h2⟩, h3⟩, h4⟩ := h
  refine ⟨h1, h2, ?_, h4⟩
  intro n hn
  rw [hn] at h3
  exact h3

theorem clean_of {s : State} {x : Ctx} {reads : List (BitVec 5)} (h : (reads.all fun r => !x.poisoned s r.toNat) = true) : Clean s x reads :=
  fun r hr => by simpa using List.all_eq_true.mp h r hr
theorem dirty_of {s : State} {x : Ctx} {reads : List (BitVec 5)} (h : (reads.any fun r => x.poisoned s r.toNat) = true) : Dirty s x reads := by
  obtain ⟨r, hr, hp⟩ := List.any_eq_true.mp h
  exact ⟨r, hr, hp⟩

theorem all_issues {s : State} {x : Ctx} {L : List Instr} {reads : List (BitVec 5)} (h : (L.all fun i => issuesB s x i reads) = true) :
    ∀ i ∈ L, Issues s x i reads := fun i hi => issues_of (List.all_eq_true.mp h i hi)

/-- Register `r` of slot `sl` of core `c` after a step. -/
def reg (o : Result) (c sl r : Nat) : Option Word := match o with
  | .next t => some (regValue t c sl r)
  | _ => none
/-- What a test reads of the state after a step. -/
def look {α : Type} (o : Result) (f : State → α) : Option α := match o with
  | .next t => some (f t)
  | _ => none

/-! ## Worked examples of the spec (R103) and hand calculations from the tables -/

def two (a b : Word) : State := regs (on 0) 0 0 [(2, a), (3, b)]
theorem test_div : reg (exec (.div 0 1 2 3) (two (-7) 2)) 0 0 1 = some (-3) := by decide +kernel
theorem test_rem : reg (exec (.rem 0 1 2 3) (two (-7) 2)) 0 0 1 = some (-1) := by decide +kernel
theorem test_divu_zero : reg (exec (.divu 0 1 2 3) (two 5 0)) 0 0 1 = some 0xFFFFFFFFFFFFFFFF := by decide +kernel
theorem test_rem_zero : reg (exec (.rem 0 1 2 3) (two 5 0)) 0 0 1 = some 5 := by decide +kernel
theorem test_div_overflow : reg (exec (.div 0 1 2 3) (two 0x8000000000000000 (-1))) 0 0 1 = some 0x8000000000000000 := by decide +kernel
theorem test_sext : reg (exec (.sext 0 1 2 3) (two 0x80 7)) 0 0 1 = some 0xFFFFFFFFFFFFFF80 := by decide +kernel
theorem test_bilv3 : reg (exec (.bilv3 0 1 2 3) (regs (two 5 3) 0 0 [(1, 6)])) 0 0 1 = some 0x173 := by decide +kernel
theorem test_bdil3 : reg (exec (.bdil3 0 1 2 3) (two 0x173 1)) 0 0 1 = some 3 := by decide +kernel
theorem test_clz : reg (exec (.clz 0 1 2) (two 0x173 0)) 0 0 1 = some 55 := by decide +kernel
theorem test_extu : reg (exec (.extu 0 1 2 3) (two 0x173 0x304)) 0 0 1 = some 7 := by decide +kernel
theorem test_ins : reg (exec (.ins 0 1 2 3) (two 0xF 0x408)) 0 0 1 = some 0xF00 := by decide +kernel
theorem test_add_wraps : reg (exec (.add 0 1 2 3) (two 0xFFFFFFFFFFFFFFFF 2)) 0 0 1 = some 1 := by decide +kernel

/-! ## Witnesses: results -/

theorem wit_AluResults : destOk 24 = true ∧ Clean (on 0) X0 [0, 24]
    ∧ ∀ i ∈ [Instr.add 7 24 0 24, .sub 0 24 0 24, .and 0 24 0 24, .or 0 24 0 24, .xor 0 24 0 24, .sll 0 24 0 24, .slt 0 24 0 24, .minu 0 24 0 24,
        .sraw 0 24 0 24], Issues (on 0) X0 i [0, 24] :=
  ⟨by decide, clean_of (by decide +kernel), all_issues (by decide +kernel)⟩

theorem wit_BitAndMulResults : destOk 0 = true ∧ Clean (on 0) X0 [23, 1] ∧ X0.poisoned (on 0) 0 = false
    ∧ (∀ i ∈ [Instr.clz 0 0 23, .ctz 0 0 23, .popc 0 0 23, .brev 0 0 23, .bswap 0 0 23], Issues (on 0) X0 i [23])
    ∧ (∀ i ∈ [Instr.sext 0 0 23 1, .mul 0 0 23 1, .div 0 0 23 1, .bilv2 0 0 23 1, .exts 0 0 23 1], Issues (on 0) X0 i [23, 1])
    ∧ ∀ i ∈ [Instr.bilv3 0 0 23 1, .ins 0 0 23 1], Issues (on 0) X0 i [23, 1, 0] := by
  and_intros <;> first | decide +kernel | exact clean_of (by decide +kernel) | exact all_issues (by decide +kernel)

/-- Register 1 of the traveller is poisoned. -/
def dirty : State := setPoison (on 0) 0 0 1 true

theorem wit_ImmediateResults : destOk 23 = true ∧ Clean (on 0) X0 [23]
    ∧ (∀ i ∈ [Instr.addi 0 23 23 0x1FFF, .andi 0 23 23 0x1000, .ori 0 23 23 0, .xori 0 23 23 1, .slti 0 23 23 1, .sltiu 0 23 23 0x1FFF,
        .slli 0 23 23 63, .srli 0 23 23 63, .srai 0 23 23 0, .rori 0 23 23 1], Issues (on 0) X0 i [23])
    ∧ ∀ i ∈ [Instr.himm 0 23 0x3FFFF, .pchi 0 23 0x20000], Issues (on 0) X0 i [] :=
  ⟨by decide, clean_of (by decide +kernel), all_issues (by decide +kernel), all_issues (by decide +kernel)⟩

theorem wit_PoisonPropagates : destOk 2 = true ∧ frmIllegal (frmOf dirty 0 0) = false ∧ Dirty dirty X0 [1, 3] ∧ Dirty dirty X0 [1, 3, 2] ∧ Dirty dirty X0 [1]
    ∧ (∀ i ∈ [Instr.add 0 2 1 3, .div 0 2 1 3, .fadd 0 2 1 3 0, .fdiv 0 2 1 3 1], Issues dirty X0 i [1, 3])
    ∧ (∀ i ∈ [Instr.ins 0 2 1 3, .fmad 0 2 1 3], Issues dirty X0 i [1, 3, 2])
    ∧ ∀ i ∈ [Instr.clz 0 2 1, .addi 0 2 1 5, .fabs 0 2 1 0], Issues dirty X0 i [1] := by
  and_intros <;> first | decide +kernel | exact all_issues (by decide +kernel) | exact dirty_of (by decide +kernel)

theorem wit_FpuResults : destOk 1 = true ∧ Clean (on 0) X0 [2, 3] ∧ Clean (on 0) X0 [2] ∧ frmIllegal (frmOf (on 0) 0 0) = false
    ∧ (∀ i ∈ [Instr.fmin 0 1 2 3 0, .feq 0 1 2 3 1, .fadd 0 1 2 3 0, .fdiv 0 1 2 3 1], Issues (on 0) X0 i [2, 3])
    ∧ ∀ i ∈ [Instr.fclass 0 1 2 0, .fneg 0 1 2 1, .fsqrt 0 1 2 0, .fcvti 0 1 2 1, .fcvtfu 0 1 2 0, .fcvtw 0 1 2 1], Issues (on 0) X0 i [2] := by
  and_intros <;> first | decide +kernel | exact clean_of (by decide +kernel) | exact all_issues (by decide +kernel)

theorem wit_FmaResults : destOk 1 = true ∧ Clean (on 0) X0 [2, 3, 1] ∧ frmIllegal (frmOf (on 0) 0 0) = false
    ∧ ∀ i ∈ [Instr.fmas 0 1 2 3, .fmad 0 1 2 3, .fnmas 0 1 2 3, .fnmad 0 1 2 3, .fmss 0 1 2 3, .fmsd 0 1 2 3], Issues (on 0) X0 i [2, 3, 1] :=
  ⟨by decide, clean_of (by decide +kernel), by decide +kernel, all_issues (by decide +kernel)⟩

/-- Half-way cases of the modes, by hand: 5 steps of 2 (2.5 units) and the exact 6. -/
theorem wit_FloatValues_rounding : (roundTo .rne false 5 0 1).1 = 2 ∧ (roundTo .rna false 5 0 1).1 = 3 ∧ (roundTo .rup true 5 0 1).1 = 2
    ∧ (roundTo .rdn true 5 0 1).1 = 3 ∧ (roundTo .rtz false 5 0 1).1 = 2 ∧ roundTo .rne false 6 0 1 = (3, false) ∧ roundTo .rne false 3 1 0 = (6, false) := by
  decide +kernel

/-- The fields that the clauses name, at their bounds: a NaN of each kind, ∞, zeros, the least and greatest finite numbers. -/
theorem wit_FloatValues_fields : let H := 2 ^ (fp32.eb + fp32.mb)
    let inf := (2 ^ fp32.eb - 1) * 2 ^ fp32.mb
    inf < 0x7F800001 % H ∧ inf < 0x7FFFFFFF % H ∧ 0x7F800000 % H = inf ∧ 0xFF800000 % H = inf ∧ 0x80000000 % H = 0 ∧ 0 < 1 % H ∧ 1 % H < inf
      ∧ 0x7F7FFFFF % H < inf ∧ H ≤ 0x80000000 ∧ 0xFFFFFFFF < 2 * H ∧ 0x80000001 % H = 1 % H := by decide +kernel

theorem lmwsb_on : (Machine.core (on 0) 0).lmwsb = 0x2000 := by decide +kernel

theorem wit_ConditionalBranches : Clean (on 0) X0 [1, 2]
    ∧ (∀ i ∈ [Instr.beq 0 1 2 1, .bne 0 1 2 0x1FFF, .blt 0 1 2 1, .bge 0 1 2 1, .bltu 0 1 2 1, .bgeu 0 1 2 1], Issues (on 0) X0 i [1, 2])
    ∧ (X0.pc + ((1 : BitVec 13).signExtend 64 <<< 2)).toNat = aliasBase 0 + 4 ∧ 4 < sramSize 0 ∧ 4 < (Machine.core (on 0) 0).lmwsb
    ∧ ∀ n, n < sramSize 0 ∧ n < (Machine.core (on 0) 0).lmwsb →
        let T : Word := X0.pc + ((0x1FFF : BitVec 13).signExtend 64 <<< 2)
        T.toNat ≠ aliasBase 0 + n ∧ T.toNat ≠ windowBase 0 + n := by
  refine ⟨clean_of (by decide +kernel), all_issues (by decide +kernel), by decide +kernel, by decide +kernel, by decide +kernel, ?_⟩
  intro n h
  rw [lmwsb_on] at h
  have e : (X0.pc + ((0x1FFF : BitVec 13).signExtend 64 <<< 2)).toNat = 0x00FFFFFFFFFBFFFC := by decide +kernel
  have a : aliasBase 0 = 0x00FFFFFFFFFC0000 := by decide +kernel
  have b : windowBase 0 = 0x00FFFF0000000000 := by decide +kernel
  simp only [e, a, b]
  omega

theorem wit_JumpsAndPredicateBranches : destOk 23 = true ∧ Clean (on 0) X0 [1]
    ∧ Issues (on 0) X0 (.jal 0 2) [] ∧ Issues (on 0) X0 (.jalr 0 23 1 4) [1]
    ∧ (∀ i ∈ [Instr.pbrAny 0 2, .pbrNone 0 2, .pbrAll 0 2, .pbrNall 0 2], Issues (on 0) X0 i [])
    ∧ (X0.pc + ((2 : BitVec 23).signExtend 64 <<< 2)).toNat = aliasBase 0 + 8 ∧ 8 < sramSize 0 ∧ 8 < (Machine.core (on 0) 0).lmwsb
    ∧ (let s := regs (on 0) 0 0 [(1, 0x00FFFFFFFFFC0000)]
      (X0.val s 1 + (4 : BitVec 13).signExtend 64).toNat % 2 ^ 56 = aliasBase 0 + 4 ∧ (X0.val s 1 + (2 : BitVec 13).signExtend 64).toNat % 4 ≠ 0)
    ∧ (∃ i < 256, (predOf (on 0) 0 0).getLsbD i = true)
    ∧ (∃ i < 256, (predOf (wsWr (on 0) 0 0 0xC8 1 0xFE) 0 0).getLsbD i = false) := by
  and_intros <;> first
    | decide +kernel | exact clean_of (by decide +kernel) | exact issues_of (by decide +kernel) | exact all_issues (by decide +kernel)

/-- Register 2 holds the address of the data region of core 0. -/
def data : State := regs (on 0) 0 0 [(2, 0x00FFFFFFFFFC4000), (3, 0x1122334455667788)]

theorem wit_LoadResults : destOk 24 = true ∧ Clean data X0 [2]
    ∧ (∀ i ∈ [Instr.ld 0 24 2 8, .lw 0 24 2 8, .lwu 0 24 2 8, .lh 0 24 2 8, .lhu 0 24 2 8, .lb 0 24 2 8, .lbu 0 24 2 8], Issues data X0 i [2])
    ∧ (let va := (X0.val data 2 + (8 : BitVec 13).signExtend 64).toNat % 2 ^ 56
      va % 8 = 0 ∧ reach (now data X0) 0 false 0 va true false = .own 0x4008 ∧ forward (stream data 0 false).sb (sramPa 0 0x4008) 8 = .none)
    ∧ (let s := updSlot data 0 0 fun k => { k with wait := some { word := 0, cond := .outsZero, reply := some (.value 7 false) } }
      ctxOf s = some { X0 with reply := some (.value 7 false) }) := by
  and_intros <;> first | decide +kernel | exact clean_of (by decide +kernel) | exact all_issues (by decide +kernel)

/-- Channel core 6144 with a translation, a stripe and a page of its own DRAM, and the hall page 0. -/
def store : State := { updCore (on 12288) 6144 fun k => { k with tlb := [{ part := 0, va := 0, level := 0, oa := 0, rd := true, wr := true, nm := false },
    { part := 0, va := 2 ^ 19, level := 0, oa := 2 ^ 53, rd := true, wr := true, nm := false }] } with
  stripe := [(0, { size := 1 })], sets := [(0, [0])], pages := [(0, 1), (2 ^ 24, 1)] }
/-- Its traveller. -/
def XC : Ctx := { c := 6144, x := false, sl := 1, pc := 0x00FFFFFFFFF00000, t := 0, reply := none }

/-- Compute core 1 belongs to the partition too. -/
def pairUp : State := updCore data 1 fun k => { k with asg := true }

theorem wit_StoresAndAlignment : Clean pairUp X0 [2] ∧ (stream pairUp 0 false).sb.length < 16 ∧ destOk 1 = true
    ∧ (∀ i ∈ [Instr.sd 0 3 2 8, .sw 0 3 2 8, .sh 0 3 2 8, .sb 0 3 2 8, .sd 0 3 2 0x1FFF], Issues pairUp X0 i [2, 3])
    ∧ Issues pairUp X0 (.ld 0 1 2 1) [2]
    ∧ reach (now pairUp X0) 0 false 0 0x00FFFFFFFFFC4008 false true = .own 0x4008 ∧ regionOf pairUp 0 0x4008 ≠ .workspace
    ∧ reach (now pairUp X0) 0 false 0 0x00FFFF0000050000 false true = .window 1 0x10000 ∧ X0.poisoned pairUp 3 = false ∧ outsFull pairUp 0 0 = false
    ∧ X0.poisoned (setPoison pairUp 0 0 3 true) 3 = true
    ∧ ctxOf store = some XC ∧ reach (now store XC) 6144 false 0 0 false true = .dram 0 ∧ reach (now store XC) 6144 false 0 (2 ^ 19) false true = .hall 0
    ∧ (0x00FFFFFFFFFC4001 : Nat) % 8 ≠ 0 := by
  and_intros <;> first
    | decide +kernel | exact clean_of (by decide +kernel) | exact issues_of (by decide +kernel)
    | exact all_issues (by decide +kernel)

theorem wit_FullEmptyAccesses : 0x00FFFEFFFFFFFFFF < 0x00FFFFFFFFFC4000 ∧ (0x00FFFFFFFFFC4000 : Nat) % 8 = 0
    ∧ reach (now data X0) 0 false 0 0x00FFFFFFFFFC4000 true true = .own 0x4000 ∧ hasFull data (sramPa 0 0x4000) = true
    ∧ destOk 1 = true ∧ Clean data X0 [2, 3]
    ∧ (let s := setFull data [sramPa 0 0x4000 / 16] true
      s.full.contains (sramPa 0 0x4000 / 16) = true ∧ s.poison.contains (sramPa 0 0x4000 / 16) = false)
    ∧ forward (stream data 0 false).sb (sramPa 0 0x4000) 8 = .none ∧ (stream data 0 false).sb.length < 16
    ∧ Issues data X0 (.lfe 0 1 2 1 3 0) [2] ∧ Issues data X0 (.sfe 0 3 2 1 3 0) [2, 3] := by
  and_intros <;> first | decide +kernel | exact clean_of (by decide +kernel)

/-! ## Witnesses: predicates, registers, tasks, queues, traps -/

theorem wit_PredicateResults : Clean data X0 [2, 3] ∧ destOk 24 = true
    ∧ (∀ i ∈ [Instr.psetall 0 3, .pclear 0 0, .pnot 0 1, .pcount 0 24 0, .pfirst 0 24 3], Issues data X0 i [])
    ∧ (∀ i ∈ [Instr.pwhile 0 2 3 2, .pput 0 2 3 0], Issues data X0 i [2, 3])
    ∧ (∀ i ∈ [Instr.pget 0 24 2 0, .pload 0 2 0, .pandm 0 2 0, .porm 0 2 0, .pstore 0 2 0], Issues data X0 i [2])
    ∧ 0x00FFFFFFFFFC4000 % (256 / 8) = 0 ∧ reach (now data X0) 0 false 0 0x00FFFFFFFFFC4000 true false = .own 0x4000
    ∧ data.latent = [] ∧ data.softErr = [] ∧ (∀ g ∈ granules (sramPa 0 0x4000) 32, data.poison.contains g = false)
    ∧ forward (stream data 0 false).sb (sramPa 0 0x4000) 32 = .none ∧ regionOf data 0 0x4000 ≠ .workspace
    ∧ (stream data 0 false).sb.length + max 1 (256 / 64) ≤ 16 := by
  and_intros <;> first | decide +kernel | exact clean_of (by decide +kernel) | exact all_issues (by decide +kernel)

theorem wit_InformationResults : destOk 1 = true ∧ Clean data X0 [2] ∧ Clean data X0 [3]
    ∧ (∀ i ∈ [Instr.cubeof 0 1, .vquery 0 1, .rdcyc 0 1, .rdpurse 0 1, .rdfare 0 1, .rdfrm 0 1], Issues data X0 i [])
    ∧ (∀ i ∈ [Instr.wrfrm 0 1 2, .homeof 0 1 2], Issues data X0 i [2]) ∧ Issues data X0 (.rdflags 0 1 3) [3]
    ∧ (X0.val data 2).toNat % 256 % 8 ≤ 5 ∧ (X0.val data 2).toNat % 256 < 16 ∧ 16 ≤ (X0.val data 3).toNat % 256
    ∧ findHome (now data X0) 0 false 0 0x00FFFFFFFFFC4000 false = .found { core := 0, kind := 0, cube := 0 } := by
  and_intros <;> first
    | decide +kernel | exact clean_of (by decide +kernel) | exact issues_of (by decide +kernel)
    | exact all_issues (by decide +kernel)

/-- A steward's traveller, of level 2. -/
def boss : State := on 12800
def XS : Ctx := { c := 6400, x := false, sl := 0, pc := 0x00FFFFFFFFFC0000, t := 0, reply := none }

theorem wit_ControlRegisters : destOk 24 = true ∧ Clean boss XS [1] ∧ Clean boss XS [24] ∧ csrName 0x005 = some .tvec ∧ CsrName.readLevel .tvec ≤ (slot boss 6400 0).lvl
    ∧ CsrName.writeLevel .tvec = some 1 ∧ csrOk (now boss XS) 6400 0 .tvec (XS.val boss 1) = true ∧ CsrName.island .tvec = false
    ∧ (∀ i ∈ [Instr.csrr 0 24 5], Issues boss XS i []) ∧ (∀ i ∈ [Instr.csrw 0 24 1 5, .csrs 0 24 1 5, .csrc 0 24 1 5], Issues boss XS i [1])
    ∧ (∀ i ∈ [Instr.csrs 0 24 24 5, .csrc 0 24 24 5], Issues boss XS i [24])
    ∧ csrName 0 = none ∧ csrName 0x7FF = none ∧ csrName 7 = some .level ∧ CsrName.writeLevel .level = none
    ∧ (slot (on 0) 0 0).lvl < CsrName.readLevel .tvec ∧ Clean (on 0) X0 [1] ∧ Issues (on 0) X0 (.csrr 0 24 5) [] ∧ Issues (on 0) X0 (.csrw 0 24 1 5) [1] := by
  and_intros <;> first
    | decide +kernel | exact clean_of (by decide +kernel) | exact issues_of (by decide +kernel)
    | exact all_issues (by decide +kernel)

/-- The traveller holds an accumulator bank. -/
def holder : State := wsWr (on 0) 0 0 0xFD 1 1
theorem wit_TravellerStates : holdOf (on 0) 0 0 = 0 ∧ recsOf (on 0) 0 0 = [] ∧ hasLoop (on 0) 0 0 = false ∧ Drained (on 0) X0 ∧ (slot (on 0) 0 0).outs = 0
    ∧ (Machine.core (on 0) 0).enqBuf = [] ∧ (∀ i ∈ [Instr.endT 0, .yield 0, .park 0], Issues (on 0) X0 i []) ∧ holdOf holder 0 0 ≠ 0
    ∧ Issues holder X0 (.endT 0) [] ∧ statusBit (setStatusBit (on 0) 0 0 8 true) 0 0 8 = true ∧ statusBit (on 0) 0 0 8 = false
    ∧ (let s := updSlot (on 0) 0 0 fun k => { k with wait := some { word := 0, cond := .wake, reply := some (.value 0 false) } }
      ctxOf s = some { X0 with reply := some (.value 0 false) }) := by
  and_intros <;> first
    | decide +kernel | exact issues_of (by decide +kernel) | exact all_issues (by decide +kernel)

/-- A window address of core 1 in register 2. -/
def away : State := regs pairUp 0 0 [(2, 0x00FFFF0000050000)]
theorem wit_Migration : (slot away 0 0).hdr.bcore = 0 ∧ inPartition away 0 0 = true
    ∧ moveHome (now away X0) 0 false 0 0x00FFFF0000050000 = .found { core := 1, kind := 0, cube := 0 } ∧ cubeId away = 0
    ∧ Clean away X0 [24] ∧ Clean away X0 [2] ∧ Drained away X0 ∧ moveRefused away 0 0 = false
    ∧ moveRefused (updSlot away 0 0 fun k => { k with resv := some { pa := 0, size := 8, va := 0 } }) 0 0 = true ∧ (slot away 0 0).outs = 0
    ∧ (Machine.core away 0).enqBuf = [] ∧ (slot away 0 0).pair = false ∧ Issues away X0 (.goto 0 24) [24] ∧ Issues away X0 (.goto 0 2) [2] := by
  and_intros <;> first
    | decide +kernel | exact clean_of (by decide +kernel)

theorem wit_TaskResults : destOk 1 = true ∧ Clean data X0 [2, 3] ∧ ReadsRecord data X0 0x00FFFFFFFFFC4000 64 (sramPa 0 0x4000)
    ∧ recordOk (rdBytes data.mem (sramPa 0 0x4000) 64) = true ∧ (Machine.core data 0).deque.length < 64
    ∧ (∀ i ∈ [Instr.spawn 0 1 2, .pusht 0 1 2, .popt 0 1 2], Issues data X0 i [2])
    ∧ (stream data 0 false).sb = [] ∧ outsFull data 0 0 = false ∧ (slot data 0 0).pair = false
    ∧ moveHome (now data X0) 0 false 0 0x00FFFFFFFFFC4000 = .found { core := 0, kind := 0, cube := 0 } ∧ cubeId data = 0
    ∧ Issues data X0 (.spawnat 0 2 2) [2, 2] ∧ kindOf 0 = .compute ∧ inPartition data 0 0 = true ∧ Clean data X0 [4, 5] ∧ Issues data X0 (.wake 0 4 5) [4, 5] := by
  and_intros <;> first
    | decide +kernel | exact clean_of (by decide +kernel) | exact issues_of (by decide +kernel)
    | exact all_issues (by decide +kernel)

/-- Partition 0 has an enabled submission queue 0 of four entries. -/
def queued : State := qSet data 0 0 12 0 0x204
theorem wit_QueueInstructions : Clean queued X0 [2, 4] ∧ ReadsRecord queued X0 0x00FFFFFFFFFC4000 64 (sramPa 0 0x4000) ∧ (Machine.core queued 0).enqBuf.length < 8
    ∧ outsFull queued 0 0 = false ∧ (X0.val queued 4).toNat = 0 ∧ qEnabled queued 0 0 = true ∧ qKind queued 0 0 ≠ 2 ∧ qKind queued 0 0 ≠ 1
    ∧ recordPlace X0 (now queued X0) 0 = none ∧ destOk 1 = true ∧ localPlace X0 (now queued X0) 0x00FFFFFFFFFC4000 64 = some (sramPa 0 0x4000)
    ∧ isEntry queued 0 1 = true ∧ eLevel queued 0 1 ≠ 1
    ∧ (∀ i ∈ [Instr.enq 0 2 4, .deq 0 1 2 4, .cdone 0 1 2 4], Issues queued X0 i [2, 4]) ∧ Issues queued X0 (.launch 0 2) [2]
    ∧ Issues queued X0 (.qstat 0 1 4) [4] ∧ (∀ i ∈ [Instr.cchk 0 1 2, .cancel 0 2], Issues queued X0 i [2]) := by
  and_intros <;> first
    | decide +kernel | exact clean_of (by decide +kernel) | exact issues_of (by decide +kernel)
    | exact all_issues (by decide +kernel)

/-- A message of a TRAPPED traveller on core 0. -/
def letter : TrapMsg := { info := { cause := .swtrap }, task := none, esc := false, score := false, part := 0, core := 0, slot := 0, tid := 1, lslot := 0, trpc := 0, cyc := 0 }
/-- The steward holds the message; its traveller on core 0 is TRAPPED and has been created by a spawn. -/
def handling : State := updSlot (setStatusBit (setState (wsWr (updSlot boss 0 0 fun k => { k with used := true }) 0 0 0xF8 4 1) 0 0 .trapped) 0 0 11 true) 6400 0 fun k => { k with msg := some letter }

theorem wit_SystemInstructions : Clean (on 0) X0 [1] ∧ dbgEn (on 0) 0 = false ∧ dbgEn { on 0 with dbgctl := [(0, 1)] } 0 = true ∧ (slot (on 0) 0 0).lvl = 0 ∧ destOk 1 = true
    ∧ (∀ i ∈ [Instr.brk 0, .wfm 0 1, .restart 0], Issues (on 0) X0 i []) ∧ (∀ i ∈ [Instr.trap 0 1, .eret 0 1, .seal 0 1], Issues (on 0) X0 i [1])
    ∧ Issues (on 0) X0 (.purseadd 0 1 2 3) [2, 3]
    ∧ 2 ≤ (slot boss 6400 0).lvl ∧ (slot boss 6400 0).msg = none ∧ mget [] { boss with tmsgs := [(6400, [letter])] }.tmsgs 6400 = [] ++ letter :: []
    ∧ (Machine.core (updCore boss 0 fun k => { k with asg := true }) 0).asg = true ∧ (Machine.core boss 0).isSealed = false ∧ (Machine.core boss 0).sealing = false
    ∧ (purse { boss with purses := [(1, { en := true })] } 1).en = true
    ∧ (slot handling 6400 0).msg = some letter ∧ targetOf handling letter = .live ∧ Clean handling XS [1] ∧ (XS.val handling 1).toNat < 16
    ∧ statusBit handling 0 0 11 = true ∧ Issues handling XS (.eret 0 1) [1] ∧ Issues handling XS (.restart 0) [] := by
  and_intros <;> first
    | decide +kernel | exact clean_of (by decide +kernel) | exact issues_of (by decide +kernel)
    | exact all_issues (by decide +kernel)

/-! ## Witnesses: engines -/

/-- Registers 2, 3 and 4 hold addresses of the data region; register 5 is 0. -/
def vec : State := regs (on 0) 0 0 [(2, 0x00FFFFFFFFFC4000), (3, 0x00FFFFFFFFFC4100), (4, 0x00FFFFFFFFFC4200)]

theorem wit_VectorInstructions_enter : hasLoop vec 0 0 = false ∧ Drained vec X0 ∧ engRoom vec 0 0 = true ∧ Clean vec X0 [3, 4, 2] ∧ Clean vec X0 [3, 2]
    ∧ (∀ i ∈ [Instr.vadd 0 2 3 4 0, .vfma 0 2 3 4 5, .vsel 0 2 3 4 7, .vshuf 0 2 3 4 0, .vgather 0 2 3 4 2, .vmxpack 0 2 3 4], Issues vec X0 i [3, 4, 2])
    ∧ (∀ i ∈ [Instr.vsqrt 0 2 3 4, .vconv 0 2 3 1 2, .vrsum 0 2 3 0, .vmov 0 2 3 7, .vexp2 0 2 3 5], Issues vec X0 i [3, 2])
    ∧ (∀ i ∈ [Instr.vadd 0 2 3 4 0, .vfma 0 2 3 4 5, .vsqrt 0 2 3 4, .vconv 0 2 3 1 2, .vrsum 0 2 3 0, .vexp2 0 2 3 5],
        (encode i).all (fun w => vecLegal w && !vecCodeBad w 0x00FFFFFFFFFC4200
          && (vecCheck vec 0 0 w 0x00FFFFFFFFFC4000 0x00FFFFFFFFFC4100 0x00FFFFFFFFFC4200).isNone) = true) := by
  and_intros <;> first
    | decide +kernel | exact clean_of (by decide +kernel) | exact all_issues (by decide +kernel)

/-- A VADD of the traveller is pending in the coach queue. -/
def busy : State := pushRec vec 0 0 { word := 0x18000000, pc := 0, slot := 0, tid := tidOf vec 0 0, d := 0, a := 0, b := 0, p := 0, frm := 0, key := 0, ecx := 0, part := 0, mem := [], seq := 0 }
/-- A VADD follows the pc; register 6 counts one iteration. -/
def looped : State := regs { vec with mem := wrN vec.mem (sramPa 0 4) 4 0x18086400 } 0 0 [(6, 1)]
theorem wit_VectorInstructions_loop : pathBusy vec 0 0 1 = false ∧ pathBusy busy 0 0 1 = true ∧ Issues vec X0 (.vsync 0) [] ∧ Issues busy X0 (.vsync 0) []
    ∧ (X0.val looped 6).toNat < 2 ^ 32 ∧ Clean looped X0 [6, 3] ∧ (Machine.core looped 0).seqr = none ∧ Drained looped X0
    ∧ ReadsRecord looped X0 0x00FFFFFFFFFC4100 8 (sramPa 0 0x4100) ∧ Issues looped X0 (.vloop 0 1 6 3) [6, 3]
    ∧ (captureFrom X0 (now looped X0) 1 (word3 0x1A800000 0 1 6 3) 1 1 (rdBytes looped.mem (sramPa 0 0x4100) 8)).isOk = true := by
  and_intros <;> first
    | decide +kernel | exact clean_of (by decide +kernel)

/-- The traveller holds banks 0 and 1 of its quad, and its registers name them, an operand pair of 64 bytes of zeros, one element each way, and two banks. -/
def banks : State := updPart (regs (updQuad (on 0) 0 fun q => { q with holders := [(0, (0, 0, tidOf (on 0) 0 0)), (1, (0, 0, tidOf (on 0) 0 0))] }) 0 0
  [(2, 0x200), (3, 0x00FFFFFFFFFC4000), (4, 0x10101), (5, 2)]) 0 fun p => { p with rects := [(0, (0, 0, 1, 1))] }
theorem wit_AccumulatorBanks : destOk 1 = true ∧ Clean banks X0 [5] ∧ (X0.val banks 5).toNat = 2 ∧ (∀ i, i < 2 → lookup (quad banks 0).holders (2 + i) = none)
    ∧ (∀ j, j < 2 → ∃ i, i < 2 ∧ ¬ lookup (quad banks 0).holders (j + i) = none)
    ∧ (let full := updQuad banks 0 fun q => { q with holders := (List.range 64).map fun k => (2 * k, (1, 0, 9)) }
      ∀ j, j < 127 → ∃ i, i < 2 ∧ ¬ lookup (quad full 0).holders (j + i) = none)
    ∧ Issues banks X0 (.macq 0 1 5) [5] ∧ Clean banks X0 [2] ∧ handleOf banks 0 0 (X0.val banks 2).toNat = some { bank := 0, nb := 2 }
    ∧ bankBusy banks 0 0 { bank := 0, nb := 2 } = false ∧ Drained banks X0 ∧ engRoom banks 0 0 = true ∧ frmIllegal (frmOf banks 0 0) = false
    ∧ (∀ i ∈ [Instr.mrel 0 2, .mzero 0 2], Issues banks X0 i [2]) ∧ Clean banks X0 [2, 5] ∧ Issues banks X0 (.mstat 0 1 2 5) [2, 5]
    ∧ pathBusy banks 0 0 2 = false ∧ Issues banks X0 (.msync 0) []
    ∧ pathBusy (pushRec banks 0 0 (newRec X0 banks ((encode (.mzero 0 2)).getD 0) 0x200 0 0)) 0 0 2 = true := by
  and_intros <;> first
    | decide +kernel | exact clean_of (by decide +kernel) | exact issues_of (by decide +kernel)
    | exact all_issues (by decide +kernel)

theorem wit_MatrixCommandsEnter : frmIllegal (frmOf banks 0 0) = false ∧ Clean banks X0 [3, 4, 2] ∧ Drained banks X0 ∧ engRoom banks 0 0 = true
    ∧ handleOf banks 0 0 0x200 = some { bank := 0, nb := 2 } ∧ extent X0 banks (0x10101 % 256) 26 = 1 ∧ extent X0 banks (0x10101 / 256 % 256) 27 = 1
    ∧ extent X0 banks (bitsOf 0x10101 27 16) 28 = 1
    ∧ mfPair 1 1 = true ∧ mfPair (bitsOf 0x10101 18 16) (bitsOf 0x110101 23 20) = true ∧ atSize (bitsOf 0x10101 18 16) * 1 * 1 ≤ 2 * 2048
    ∧ (vecPlace banks 0 0 0x00FFFFFFFFFC4000 (.src (mfSpan 1 1 1 0) 16)).isSome = true
    ∧ (vecPlace banks 0 0 0x00FFFFFFFFFC4000 (.dst (mfSpan 1 1 1 0))).isSome = true
    ∧ 0x10101 / 2 ^ 19 = 0 ∧ bitsOf 0x10101 18 16 < 3
    ∧ ReadsRecord banks X0 0x00FFFFFFFFFC4000 64 (sramPa 0 0x4000)
    ∧ (let P : Operand := { d := descOf (List.replicate 16 0), rows := 1, k := 1 }
      descMisaligned P = false ∧ descBad P = false ∧ P.d.rf = false ∧ P.d.fmt = 0)
    ∧ (let D : Operand := { d := descOf (leBytes 16 0x00FFFFFFFFFC4100), rows := 1, k := 1 }
      descBounds banks 0 D = none ∧ descBad D = false ∧ descMisaligned D = false)
    ∧ (rotation banks 0 0).isSome = true
    ∧ (∀ i ∈ [Instr.mma 0 2 3 4, .mmr 0 2 3 4, .mldc 0 2 3 4, .mstc 0 2 3 4, .maddc 0 2 3 4], Issues banks X0 i [3, 4, 2]) := by
  and_intros <;> first
    | decide +kernel | exact clean_of (by decide +kernel) | exact all_issues (by decide +kernel)

/-- Register 5 asks for 16 bytes; register 7 is the network address of core 0's SRAM; a window descriptor of steps 1 lies where register 3 points. -/
def courier : State := regs { vec with mem := wrN vec.mem (sramPa 0 0x4100) 64 (2 ^ 240 + 2 ^ 368 + 2 ^ 496) } 0 0 [(5, 16), (7, 0x0040000000000000)]
theorem wit_CourierCommandsEnter : Drained courier X0 ∧ engRoom courier 0 1 = true ∧ Clean courier X0 [3, 5, 2] ∧ lwBad false 16 = false ∧ lwBad true 16 = false
    ∧ dstTrap courier 0 0 0x00FFFFFFFFFC4000 (0x00FFFFFFFFFC4000 + 16) [(0x00FFFFFFFFFC4000, 16)] (lwBar 16) = none
    ∧ srcTrap courier 0 0 0x00FFFFFFFFFC4100 (0x00FFFFFFFFFC4100 + 16) [(0x00FFFFFFFFFC4100, 16)] = none
    ∧ outsFull courier 0 0 = false
    ∧ Issues courier X0 (.copy 0 2 3 5) [3, 5, 2]
    ∧ Clean courier X0 [3, 4, 2] ∧ ReadsRecord courier X0 0x00FFFFFFFFFC4200 16 (sramPa 0 0x4200) ∧ shapeBad 0 = false ∧ (shapeOf 0).rowb = 0
    ∧ Issues courier X0 (.copy2d 0 2 3 4) [3, 4, 2]
    ∧ 0x0040000000000000 / 2 ^ 53 % 8 ≤ 2 ∧ Clean courier X0 [3, 5, 7] ∧ inLocal courier 0 0 0x00FFFFFFFFFC4100 16 = true
    ∧ aliasBase 0 ≤ 0x00FFFFFFFFFC4000 ∧ Issues courier X0 (.putx 0 7 3 5) [3, 5, 7] ∧ Issues courier X0 (.getx 0 2 7 5) [7, 5, 2]
    ∧ (∀ i ∈ [Instr.mcast 0 2 3 5, .nred 0 2 3 5], Issues courier X0 i [3, 5, 2])
    ∧ Clean courier X0 [3, 2] ∧ ReadsRecord courier X0 0x00FFFFFFFFFC4100 64 (sramPa 0 0x4100)
    ∧ winBad (leNat (rdBytes courier.mem (sramPa 0 0x4100) 64)) = false ∧ (winOf (leNat (rdBytes courier.mem (sramPa 0 0x4100) 64))).bytes = 0 ∧ Issues courier X0 (.wincopy 0 2 3) [3, 2]
    ∧ Clean courier X0 [5] ∧ courierFaulted courier 0 0 = none ∧ courierOut courier 0 0 ≤ 16 ∧ Issues courier X0 (.cwait 0 5) [5]
    ∧ (let s := pushRec courier 0 1 (newRec X0 courier ((encode (.copy 0 2 3 5)).getD 0) 0 0 16)
      (X0.val s 8).toNat < courierOut s 0 0 ∧ courierFaulted s 0 0 = none) := by
  and_intros <;> first
    | decide +kernel | exact clean_of (by decide +kernel) | exact issues_of (by decide +kernel)
    | exact all_issues (by decide +kernel)

/-! ## Witnesses: rings, barriers, atomics, fences -/

/-- A ring image of four stages of 16 bytes at 0x5000 lies where register 2 points; register 5 is 1. -/
def ringed : State := regs { updCore data 0 fun k => { k with lmdtb := 0x6000 } with mem := wrN data.mem (sramPa 0 0x4000) 16 (0x5000 + 16 * 2 ^ 24 + 4 * 2 ^ 48) } 0 0 [(5, 1)]
def ring4 : Ring := { init := true, base := 0x5000, ssize := 16, nst := 4, pi := 0, ci := 0, arrived := [0, 0, 0, 0] }
/-- Ring 7 has been initialised with it, and holds nothing, one stage, or all four. -/
def ringAt (pi : Nat) : State := putRing (regs ringed 0 0 [(6, 4)]) 0 7 { ring4 with pi := pi }
theorem wit_RingInstructions : Clean ringed X0 [2] ∧ ReadsRecord ringed X0 0x00FFFFFFFFFC4000 16 (sramPa 0 0x4000) ∧ (ring ringed 0 7).init = false
    ∧ (ring (ringAt 1) 0 7).init = true ∧ (ring (ringAt 1) 0 7).occ = 1 ∧ (ring (ringAt 4) 0 7).occ = (ring (ringAt 4) 0 7).nst ∧ (ring (ringAt 0) 0 7).occ = 0
    ∧ (∀ i ∈ [Instr.rpush 0 7, .rpop 0 7, .rstat 0 7 24], Issues (ringAt 1) X0 i []) ∧ Clean (ringAt 1) X0 [5] ∧ (X0.val (ringAt 1) 5).toNat = 1
    ∧ (∀ i ∈ [Instr.rwaitd 0 7 5, .rwaits 0 7 5], Issues (ringAt 1) X0 i [5]) ∧ Clean (ringAt 1) X0 [6] ∧ (X0.val (ringAt 1) 6).toNat = 4
    ∧ (∀ i ∈ [Instr.rwaitd 0 7 6, .rwaits 0 7 6], Issues (ringAt 1) X0 i [6]) ∧ Issues ringed X0 (.rinit 0 7 2) [2]
    ∧ ringImage ringed 0 (leNat (rdBytes ringed.mem (sramPa 0 0x4000) 16)) = some ring4 := by
  and_intros <;> first
    | decide +kernel | exact clean_of (by decide +kernel) | exact issues_of (by decide +kernel)
    | exact all_issues (by decide +kernel)

/-- Register 5 is 1; barrier 31 of core 0 is as given. -/
def barAt (k : Barrier) : State := putBarrier ringed 0 31 k
theorem wit_BarrierInstructions : Clean ringed X0 [5] ∧ Drained ringed X0 ∧ (X0.val ringed 5).toNat = 1 ∧ (barrier ringed 0 31).v = false ∧ (barrier ringed 0 31).rb = false
    ∧ (barrier (barAt { v := true, exp := 2 }) 0 31).v = true ∧ (barrier (barAt { v := true, exp := 2 }) 0 31).rb = false ∧ (barrier (barAt { v := true, rb := true }) 0 31).rb = true
    ∧ (barrier (barAt { v := true, exp := 2, pcnt := 1 }) 0 31).pcnt = (X0.val ringed 5).toNat % 65536 ∧ (barrier (barAt { v := true, exp := 2 }) 0 31).pcnt ≠ 1
    ∧ (stream (barAt { v := true }) 0 false).sb.length < 16
    ∧ (∀ i ∈ [Instr.binit 0 31 5, .barrive 0 31 5, .bexpect 0 31 5, .bwait 0 31 5], Issues (barAt { v := true, exp := 2 }) X0 i [5])
    ∧ Issues ringed X0 (.binit 0 31 5) [5] ∧ Issues ringed X0 (.binv 0 31) [] ∧ Issues (barAt { v := true }) X0 (.binv 0 31) []
    ∧ Clean ringed X0 [24] ∧ X0.val ringed 24 = 0 ∧ X0.val ringed 5 = 1 ∧ Issues ringed X0 (.btest 0 31 1 24) [24] ∧ Issues ringed X0 (.btest 0 31 1 5) [5] := by
  and_intros <;> first
    | decide +kernel | exact clean_of (by decide +kernel) | exact issues_of (by decide +kernel)
    | exact all_issues (by decide +kernel)

/-- The traveller holds a reservation of the double at 0x4000. -/
def reserved : State := updSlot data 0 0 fun k => { k with resv := some { pa := sramPa 0 0x4000, size := 8, va := 0x00FFFFFFFFFC4000 } }
theorem wit_AtomicResults : (slot data 0 0).resv = none ∧ reach (now data X0) 0 false 0 0x00FFFFFFFFFC4000 true true = .own 0x4000 ∧ regionOf data 0 0x4000 = .data
    ∧ (stream data 0 false).sb = [] ∧ mget [] data.resvQ (sramPa 0 0x4000 / 8 * 8) = [] ∧ data.latent = [] ∧ data.softErr = []
    ∧ poisonedAt data (sramPa 0 0x4000) 8 = false ∧ Clean data X0 [2, 3, 1]
    ∧ (∀ i ∈ [Instr.amoadd 0 1 2 3 1, .amomin 0 1 2 3 0, .amoswap 0 1 2 3 1, .amofadd 0 1 2 3 0], Issues data X0 i [2, 3]) ∧ Issues data X0 (.amocas 0 1 2 3 1) [2, 3, 1]
    ∧ Issues data X0 (.rsv 0 1 2 1) [2] ∧ Issues data X0 (.rls 0 2 3 1) [2, 3]
    ∧ (slot reserved 0 0).resv = some { pa := sramPa 0 0x4000, size := 8, va := 0x00FFFFFFFFFC4000 } ∧ homeOf (sramPa 0 0x4000) = .core 0 0x4000 ∧ sramPa 0 0x4000 < 2 ^ 60
    ∧ (0x00FFFFFFFFFC4008 : Nat) / 8 ≠ (0x00FFFFFFFFFC4000 : Word).toNat / 8 ∧ Issues reserved X0 (.rls 0 2 3 1) [2, 3] := by
  and_intros <;> first
    | decide +kernel | exact clean_of (by decide +kernel) | exact issues_of (by decide +kernel)
    | exact all_issues (by decide +kernel)

theorem wit_OrderedAccesses : Clean data X0 [2, 3] ∧ Clean data X0 [2] ∧ reach (now data X0) 0 false 0 0x00FFFFFFFFFC4000 true false = .own 0x4000
    ∧ reach (now data X0) 0 false 0 0x00FFFFFFFFFC4000 false true = .own 0x4000 ∧ reach (now data X0) 0 false 0 0x00FFFFFFFFFC4000 true true = .own 0x4000
    ∧ forward (stream data 0 false).sb (sramPa 0 0x4000) 8 = .none ∧ poisonedAt data (sramPa 0 0x4000) 8 = false ∧ coreOutstanding data 0 false 0 = false
    ∧ regionOf data 0 0x4000 = .data ∧ Issues data X0 (.ldaq 0 1 2 3 1) [2] ∧ (∀ i ∈ [Instr.strl 0 2 3 3 1, .redadd 0 2 3 1, .redfadd 0 2 3 0], Issues data X0 i [2, 3]) := by
  and_intros <;> first
    | decide +kernel | exact clean_of (by decide +kernel) | exact issues_of (by decide +kernel)
    | exact all_issues (by decide +kernel)

/-- A store to another core's window waits in the store buffer, and is counted. -/
def storing : State := countOuts (updStream (on 0) 0 false fun k => { k with sb := [{ slot := 0, op := .store, va := 0, pa := some (sramPa 1 0x4000), size := 8, val := 0, poison := false, window := true, counted := true }] }) 0 0
theorem wit_FenceAndPhaseInstructions : scopeOk 0 = true ∧ scopeOk 4 = true ∧ classOk 0 = true ∧ classOk 6 = true ∧ Drained (on 0) X0
    ∧ coreOutstanding (on 0) 0 false 0 = false ∧ hostOut (on 0) 0 0 = false ∧ coreOutstanding storing 0 false 0 = true ∧ pathOut (on 0) 0 false 0 0 = false
    ∧ recsOf (on 0) 0 0 = [] ∧ pathOut storing 0 false 0 0 = true ∧ copiesOut (on 0) 0 0 = false
    ∧ copiesOut (updCore (on 0) 0 fun k => { k with enqBuf := [{ slot := 0, part := 0, queue := 0, bytes := [], record := none, ecx := 0, level := 0 }] }) 0 0 = true
    ∧ outsOf (on 0) 0 0 = 0 ∧ outsOf storing 0 0 ≠ 0 ∧ (slot (on 0) 0 0).failed = []
    ∧ (slot (updSlot (on 0) 0 0 fun k => { k with failed := [5] }) 0 0).failed = 5 :: []
    ∧ (∀ i ∈ [Instr.fence 0 0, .fence 0 4, .fencex 0 0 6, .ifence 0, .qfence 0, .drain 0, .acks 0 1], Issues (on 0) X0 i [])
    ∧ (∀ i ∈ [Instr.fence 0 0, .fence 0 4, .fencex 0 0 6, .ifence 0, .qfence 0, .drain 0, .acks 0 1], Issues storing X0 i [])
    ∧ Clean (on 0) X0 [2] ∧ (X0.val (on 0) 2).toNat < 16 ∧ (on 0).ws ≠ .off ∧ (on 0).ws ≠ .boot ∧ (∀ i ∈ [Instr.lantern 0 1 2, .phase 0 1 2], Issues (on 0) X0 i [2])
    ∧ isEntry (on 0) 0 63 = true ∧ eState (on 0) 0 63 = 0
    ∧ (let s := entrySet (entrySet (on 0) 0 63 34 32 3) 0 63 39 37 3
      eState s 0 63 = 3 ∧ eLevel s 0 63 = 3)
    ∧ (let s := entrySet (entrySet (on 0) 0 63 34 32 3) 0 63 39 37 1
      eState s 0 63 = 1 ∧ eLevel s 0 63 = 3) := by
  and_intros <;> first
    | decide +kernel | exact clean_of (by decide +kernel) | exact all_issues (by decide +kernel)

/-! ## Witnesses: channel cores -/

/-- The traveller of channel core 6144 on its access stream: register 2 names its DRAM, 3 its SRAM, 4 a length of 64, 5 core 0's SRAM as a network address, 6 is 1. -/
def chan6 : State := regs store 6144 1 [(3, 0x00FFFFFFFFF08000), (4, 64), (5, 0x0040000000000000), (6, 1)]
theorem wit_StreamCommandsEnter : Drained chan6 XC ∧ engRoom chan6 6144 2 = true ∧ Clean chan6 XC [2, 4] ∧ (XC.val chan6 4).toNat % 8192 ≤ 4096 ∧ (XC.val chan6 4).toNat / 8192 % 8 = 0
    ∧ (tlbFind chan6 6144 0 0).isSome = true ∧ (homedHere (now chan6 XC) 6144 0 0 true false).isOk = true ∧ (homedHere (now chan6 XC) 6144 0 0 false true).isOk = true
    ∧ (∀ i ∈ [Instr.drd 0 2 4, .dwr 0 2 4, .dpref 0 2 4], Issues chan6 XC i [2, 4])
    ∧ Clean chan6 XC [24, 6, 2] ∧ (XC.val chan6 6).toNat = 1 ∧ kindOf ((XC.val chan6 24).toNat % 8192) = .compute
    ∧ inPartition (updCore chan6 0 fun k => { k with asg := true }) 0 0 = true ∧ Issues chan6 XC (.dpull 0 2 24 6) [24, 6, 2]
    ∧ Clean chan6 XC [2, 3, 5] ∧ ReadsRecord chan6 XC 0x00FFFFFFFFF08000 16 (sramPa 6144 0x8000) ∧ shapeBad (leNat (rdBytes chan6.mem (sramPa 6144 0x8000) 16)) = false
    ∧ (shapeOf (leNat (rdBytes chan6.mem (sramPa 6144 0x8000) 16))).rowb = 0 ∧ windowTarget 0x0040000000000000 = some (0, 0, 0) ∧ cubeId chan6 = 0
    ∧ Issues chan6 XC (.dpush 0 5 2 3) [2, 3, 5] := by
  and_intros <;> first
    | decide +kernel | exact clean_of (by decide +kernel) | exact issues_of (by decide +kernel)
    | exact all_issues (by decide +kernel)

/-- The execution stream of channel core 6144. -/
def chanX : State := regs { store with cur := 12289, streams := (on 12289).streams, slots := (on 12289).slots } 6144 0 [(3, 0x00FFFFFFFFF08000), (4, 0)]
def XX : Ctx := { c := 6144, x := true, sl := 0, pc := 0x00FFFFFFFFF00000, t := 0, reply := none }
def entry0 : QEntry := { bytes := [], side := 0 }
theorem wit_QueueEntries : Drained chan6 XC ∧ chan6.latent = [] ∧ chan6.softErr = [] ∧ Clean chan6 XC [3, 4] ∧ (XC.val chan6 4).toNat < 2 ^ 16
    ∧ localPlace XC (now chan6 XC) 0x00FFFFFFFFF08000 64 = some (sramPa 6144 0x8000) ∧ aqTurn (bselApply (now chan6 XC) 6144) 6144 (false, 1) = true
    ∧ aqFree (bselApply (now chan6 XC) 6144) 6144 = 64 ∧ Issues chan6 XC (.aqput 0 3 4) [3, 4] ∧ Issues chan6 XC (.bsel 0 6 4) [6, 4] ∧ Clean chan6 XC [6, 4]
    ∧ aqTurn (updChan (pushRec chan6 6144 2 (newRec XC chan6 0x1C800000 0 0 64)) 6144 fun k => { k with aqProd := [(true, engSeq chan6 6144 2)] }) 6144 (false, 1) = false
    ∧ Drained chanX XX ∧ Clean chanX XX [3, 4] ∧ Clean chanX XX [3] ∧ xqFree chanX 6144 ≠ 0
    ∧ xqFree (updChan chanX 6144 fun k => { k with xq := List.replicate 16 { key := 0, entry := none } }) 6144 = 0
    ∧ localPlace XX (now chanX XX) 0x00FFFFFFFFF08000 64 = some (sramPa 6144 0x8000) ∧ entryPlace XX (now chanX XX) 0x00FFFFFFFFF08000 = some (sramPa 6144 0x8000)
    ∧ Issues chanX XX (.xqput 0 3 4) [3, 4] ∧ Issues chanX XX (.aqget 0 24 3) [3]
    ∧ (chan (bselApply (updChan (now chanX XX) 6144 fun k => { k with aq := [.data entry0] }) 6144) 6144).aq = .data entry0 :: []
    ∧ (chan (bselApply (now chanX XX) 6144) 6144).aq = []
    ∧ entryPlace XC (now chan6 XC) 0x00FFFFFFFFF08000 = some (sramPa 6144 0x8000) ∧ Clean chan6 XC [3] ∧ Issues chan6 XC (.xqget 0 24 3) [3]
    ∧ (let s := updChan chan6 6144 fun k => { k with xq := [{ key := 0, entry := some entry0 }] }
      xqTurn s 6144 (false, 1) = true ∧ xqHead s 6144 = some entry0)
    ∧ xqTurn (updChan (pushRec chan6 6144 2 (newRec XC chan6 0x1C800001 0 0 64)) 6144 fun k => { k with xqCons := [(true, engSeq chan6 6144 2)] }) 6144 (false, 1) = false := by
  and_intros <;> first
    | decide +kernel | exact clean_of (by decide +kernel)

theorem wit_BankCommandsEnter : (chan chanX 6144).bankCmds = [] ∧ Issues chanX XX (.bsync 0) []
    ∧ (chan (pushBank chanX 6144 (newRec XX chanX 0 0 0 0)) 6144).bankCmds ≠ [] ∧ Drained chanX XX ∧ Clean chanX XX [3, 4, 2] ∧ bankBad 0 = false
    ∧ localPlace XX (now chanX XX) 0x00FFFFFFFFF08000 (bankCtl 0).len = some (sramPa 6144 0x8000)
    ∧ regionOf chanX 6144 0x8000 = regionOf chanX 6144 (0x8000 + (bankCtl 0).len - 1) ∧ ((chan chanX 6144).bankCmds.filter isMac).length < 16
    ∧ chanX.latent = [] ∧ chanX.softErr = [] ∧ 2 ≤ xqFree (bselApply (now chanX XX) 6144) 6144
    ∧ (∀ i ∈ [Instr.bmac 0 2 3 4, .bred 0 2 3 4], Issues chanX XX i [3, 4, 2])
    ∧ Clean chanX XX [2, 4, 2] ∧ (XX.val chanX 4).toNat ≤ 4096 ∧ (XX.val chanX 2).toNat % 2 ^ 56 % 1024 = 0
    ∧ (∀ f : State → List Nat → Option TrapInfo → Act, segments XX (now chanX XX) 0 0 false true f = f (now chanX XX) [] none) ∧ Issues chanX XX (.bclone 0 2 2 4) [2, 4, 2]
    ∧ ReadsRecord chanX XX 0x00FFFFFFFFF08000 16 (sramPa 6144 0x8000) ∧ Issues chanX XX (.bfill 0 2 3 4) [3, 4, 2] := by
  and_intros <;> first
    | exact fun _ => rfl
    | decide +kernel | exact clean_of (by decide +kernel) | exact issues_of (by decide +kernel)
    | exact all_issues (by decide +kernel)

/-! ## Witnesses: events -/

theorem wit_WaystationEvents : up.ws ≠ .off ∧ up.ws ≠ .boot ∧ up.memDom = .on ∧ up.comp = .run ∧ { up with memDom := .off }.memDom ≠ .on
    ∧ { up with comp := .reset }.comp ≠ .run ∧ { up with ws := .off }.ws = .off ∧ State.reset.ws = .boot ∧ State.reset.imgOk = false
    ∧ { State.reset with imgOk := true }.imgOk = true ∧ State.reset.memDom = .off ∧ { State.reset with zeroing := true }.zeroing = true
    ∧ { up with srReq := true }.srReq = true ∧ dramIdle up = true ∧ { up with memDom := .selfRefresh }.memDom = .selfRefresh ∧ (0 : Nat) < 2 ^ 53 := by
  decide +kernel

theorem wit_ComputeDomainEvents : State.reset.comp = .off ∧ { up with comp := .reset }.memDom = .on ∧ { up with comp := .bringup }.comp = .bringup ∧ up.comp = .run
    ∧ { up with comp := .quiesce }.comp = .quiesce ∧ { up with comp := .hung }.comp = .hung ∧ { up with ccFlush := true }.ccFlush = true
    ∧ regField up islandBlk 0xF000 15 0 ≠ 0 ∧ up.heartbeat = false ∧ { up with heartbeat := true }.heartbeat = true ∧ up.fw.hotDie = false
    ∧ (839 : Int) < 840 ∧ (63 : Nat) < 64 ∧ (let s : State := putReg { up with fw := { hotDie := true } } islandBlk 0xF900 920
      s.fw.hotDie = true ∧ dieAt s 920 = true) := by
  decide +kernel

/-- A store and a RED at the head of the store buffer. -/
def draining (op : SbOp) : State := updStream (on 0) 0 false fun k => { k with sb := [{ slot := 0, op := op, va := 0, pa := some (sramPa 0 0x3FFF8), size := 8, val := 7, poison := false, window := false, counted := false }] }
theorem wit_BufferDrains : (stream (draining .store) 0 false).sb ≠ [] ∧ (stream (draining (.red 8)) 0 false).sb ≠ [] ∧ (slot (draining .store) 0 0).pair = false
    ∧ (draining .store).latent = [] ∧ 0x3FFF8 + 8 ≤ sramSize 0 ∧ (∀ i, i < 8 → regionOf (draining .store) 0 (0x3FFF8 + i) ≠ .workspace)
    ∧ mget [] (draining (.red 8)).resvQ (sramPa 0 0x3FFF8 / 8 * 8) = [] ∧ poisonedAt (draining (.red 8)) (sramPa 0 0x3FFF8) 8 = false := by
  decide +kernel

/-- The stream of core 0 runs nothing; slot 0 is READY in the urgent class. -/
def idleUp : State := updStream (on 0) 0 false fun k => { k with run := none }
def parkedOn (c : Cond) : State := updSlot (setState idleUp 0 0 .parked) 0 0 fun k => { k with wait := some { word := 0, cond := c } }
def someTask : Task := { entry := 0, args := [], cix := 0, urg := false, lc := 0, ex0 := 0, ex1 := 0, ex2 := 0, ecx := 0, frm := 0, esc := false, rst := false, lslot := 0, part := 0, key := 0, scoreOf := 0, scube := 0 }
theorem wit_TravellersRun : coreLive idleUp 0 = true ∧ (stream idleUp 0 false).run = none
    ∧ (let s := updCore idleUp 0 fun k => { k with urgQ := [(0, 0)] }
      (promote 0 false (Machine.core s 0)).urgQ.find? (onStream 0 false) = some (0, 0))
    ∧ (let s := updCore (setState idleUp 0 0 .free) 0 fun k => { k with deque := [someTask] }
      coreIdle s 0 = true ∧ (Machine.core s 0).deque = someTask :: [] ∧ freeSlot s 0 = some 0)
    ∧ (let s := parkedOn (.load (sramPa 1 0x4000) 8 false 0)
      sealedFor s 0 (sramPa 1 0x4000) = false ∧ servable s (sramPa 1 0x4000) = true ∧ homeOf (sramPa 1 0x4000) = .core 1 0x4000 ∧ s.latent = [] ∧ s.softErr = []
        ∧ poisonedAt s (sramPa 1 0x4000) 8 = false ∧ (slot s 0 0).pair = false ∧ (slot s 0 0).wait = some { word := 0, cond := .load (sramPa 1 0x4000) 8 false 0 })
    ∧ pathBusy (parkedOn .vecDone) 0 0 1 = false ∧ copiesOut (parkedOn .copies) 0 0 = false ∧ outsOf (parkedOn .outsZero) 0 0 = 0 := by
  decide +kernel

/-- A traveller in a packet for core 0, and core 0 with a free slot. -/
def packed : Packed := { bytes := [], hdr := {}, seqr := none, lvl := 0, birth := none, oslot := 0, dcore := 0, dcube := 0, addr := 0, ready := false }
def empty0 : State := setState idleUp 0 0 .free
theorem wit_Arrivals : (let s := { empty0 with flights := [.traveller packed 1 0] }
      noHome s 0 0 = false ∧ arrivalWaits s 0 = false ∧ needsWake s 0 = false ∧ s.held = [] ∧ isTwinCore s 0 = false ∧ freeSlot s 0 = some 0 ∧ cubeId s = 0
        ∧ packed.dcube = 0 ∧ packed.hdr.ocube = 0)
    ∧ (let s := { empty0 with flights := [.task someTask 0 none] }
      s.comp = .run ∧ inPartition s 0 0 = true ∧ (Machine.core s 0).isSealed = false ∧ (Machine.core s 0).sealing = false ∧ (Machine.core s 0).deque.length < 64)
    ∧ (let s := { empty0 with held := [(0, .traveller packed 1 0)] }
      s.held.find? (·.1 == 0) = some (0, .traveller packed 1 0) ∧ coreLive s 0 = true ∧ (takeIn { s with held := [] } 0 (.traveller packed 1 0)).isSome = true)
    ∧ (let s := setState idleUp 0 0 .migrating
      stateOf s 0 0 = .migrating ∧ (slot s 0 0).move = none ∧ (∀ e ∈ liveSlots s, e ≠ (0, 0) → tidOf s e.1 e.2 ≠ tidOf s 0 0))
    ∧ (let t : Packed := { packed with bytes := rdBytes (setState idleUp 0 0 .migrating).mem (wsPa idleUp 0 0) 256 }
      originGone { setState idleUp 0 0 .migrating with flights := [.bounce t 0 0] } t = false)
    ∧ (let s := { parkedOn .wake with flights := [.wake (tidOf (parkedOn .wake) 0 0) 0 none] }
      slotsOf s 0 = [0] ∧ stateOf s 0 0 = .parked ∧ (slot s 0 0).wait = some { word := 0, cond := .wake }) := by
  decide +kernel

/-- Cores 0 and 1 of partition 0 with nothing to run. -/
def thief : State := updCore empty0 1 fun k => { k with asg := true }
theorem wit_StealingAndSpilling : coreIdle thief 0 = true ∧ isTwinCore thief 0 = false ∧ (Machine.core thief 0).asg = true ∧ (Machine.core thief 0).deque = []
    ∧ (Machine.core thief 0).steal.waiting = false ∧ (Machine.core thief 0).steal.backoff = false ∧ (quad thief 0).draining = false
    ∧ (((stealSeq 0).zipIdx.drop 0).find? fun e => mayRob thief 0 e.1).isSome = true
    ∧ (((stealSeq 0).zipIdx.drop 0).find? fun e => mayRob empty0 0 e.1) = none
    ∧ (let s := updCore { thief with flights := [.stealReq 0 1] } 1 fun k => { k with deque := [] ++ [someTask] }
      (Machine.core s 1).deque = [] ++ [someTask] ∧ (Machine.core s 1).isSealed = false ∧ (Machine.core s 1).move = false)
    ∧ (updCore thief 0 fun k => { k with steal := { backoff := true } }).cores ≠ thief.cores
    ∧ (let s := setState idleUp 0 0 .stranded
      spillable s 0 0 = true ∧ stateOf s 0 0 = .stranded)
    ∧ spillFits (putReg up islandBlk 0x1118 1) 0 (SpillItem.post 0 []).space = true
    ∧ (let s := updPart empty0 0 fun k => { k with spill := [.traveller { packed with ready := true }] }
      spillReady s (.traveller { packed with ready := true }) = true ∧ spillCore s { packed with ready := true } = some 0 ∧ freeSlot s 0 = some 0)
    ∧ { up with strandNotice := [5] }.strandNotice.contains 5 = true := by
  decide +kernel

/-- The running traveller has one item not yet taken. -/
def item (p : Pending) : State := updSlot (on 0) 0 0 fun k => { k with pending := [p] }
theorem wit_TakenAtIssue : (stream (item .cancel) 0 false).run = some 0 ∧ (slot (item .cancel) 0 0).pending = [.cancel]
    ∧ (slot (item (.engine { cause := .engine })) 0 0).pending = [.engine { cause := .engine }] ∧ (slot (item .halt) 0 0).pending = [.halt]
    ∧ matchNow { on 0 with dbgctl := [(0, 5)] } 0 0 0x00FFFFFFFFFC0000 = true
    ∧ (slot (item .preempt) 0 0).pending = [.preempt] ∧ preemptOk (item .preempt) 0 0 = true := by
  decide +kernel

/-! ## Witnesses: the dispatcher and the cores -/

def bytesLe (n v : Nat) : List Byte := (List.range n).map fun i => BitVec.ofNat 8 (v / 256 ^ i)
/-- Partition 0 is enabled, with its queue table at 0x4000 of the hall; one stripe entry holds 1 GiB of this cube; two tables map its
virtual addresses below 2 GiB to the same network addresses; DRAM page 1 is its own and holds a launch record at 0x80000. -/
def parted : State :=
  let s := putReg (putReg (putReg empty0 islandBlk 0x9000 1) islandBlk 0x1108 0x4000) islandBlk 0x5000 0x8000000000020000
  { s with
    stripe := [(0, { size := 1, gran := 7 })], sets := [(0, [0])], pages := [(1, 1)],
    mem := wrN (wrN (wrN s.mem 0x20000 16 (1 + 0x40000 * 2 ^ 64)) 0x40000 16 0xF) (dramPa 1 0) 128
      (0x00FFFFFFFFFC0000 + 2 ^ 207 + 2 ^ 224 + 2 ^ 240) }
def record0 : List Byte := bytesLe 128 (0x00FFFFFFFFFC0000 + 2 ^ 207 + 2 ^ 224 + 2 ^ 240)
/-- Queue 5 is a submission queue of 16 entries in host memory, with one entry. -/
def queue5 : State := qSet parted 0 5 255 0 (0x40D + 0x10000 * 2 ^ 64 + 2 ^ 160)
def asked : State := { queue5 with hostMem := wrN [] 0x10000 64 (1 + 3 * 2 ^ 16 + 9 * 2 ^ 32 + 0x80000 * 2 ^ 64) }
def launch0 : Launch := { record := record0, gates := [], names := [0, 0, 0], owner := 0, notify := 0, urg := false, ecx := 0, seq := 0, cq := 0, tag := 0 }
def lined : State := updPart parted 0 fun k => { k with normal := [launch0] }
def copying (q : Nat) : Copy := { slot := 0, part := 0, queue := q, bytes := [], record := none, ecx := 0, level := 0 }
def copyIn (q : Nat) : State := updCore queue5 0 fun k => { k with enqBuf := [copying q] }

theorem wit_DispatcherEvents_queue : partEn queue5 0 = true ∧ queue5.comp = .run ∧ (turns queue5 0).find? ((part queue5 0).nextTurn ≤ ·) = some 5
    ∧ 5 < qsize queue5 0 ∧ qPlace queue5 0 5 (qHead queue5 0 5) false = some (.host 0x10000)
    ∧ leNat ((qRead queue5 (.host 0x10000)).map (·.1)) % 256 ≠ 1
    ∧ partEn asked 0 = true ∧ asked.comp = .run ∧ (turns asked 0).find? ((part asked 0).nextTurn ≤ ·) = some 5 ∧ qPlace asked 0 5 (qHead asked 0 5) false = some (.host 0x10000)
    ∧ (let n := leNat ((qRead asked (.host 0x10000)).map (·.1))
      n % 256 = 1 ∧ bitsOf n 15 8 = 0 ∧ bitsOf n 511 160 = 0 ∧ bitsOf n 127 64 = 0x80000)
    ∧ (match readRecord (qSet asked 0 5 159 128 1) 0 0x80000 with | .ok r => decide (r = record0) | _ => false) = true ∧ qHead asked 0 5 = 0
    ∧ recordCode (qSet asked 0 5 159 128 1) 0 (qVf asked 0 5) record0 = 0 ∧ recNames record0 = [0, 0, 0] ∧ recBit record0 272 = false := by
  decide +kernel

theorem wit_DispatcherEvents : lined.comp = .run ∧ (part lined 0).placed = [] ∧ (part lined 0).urgent = [] ∧ (part lined 0).normal = [launch0]
    ∧ mayPlace lined launch0 = true ∧ fixedBad lined 0 record0 = false ∧ lowestEntry lined 0 = some 1 ∧ chooseOrigin lined 0 record0 feasible = some (0, 0)
    ∧ (∀ q ∈ [0x10000, 3, 5], copyFront (Machine.core (copyIn q) 0) = [copying q] ∧ (slot (copyIn q) 0 0).pair = false ∧ copyRoom (copyIn q) (copying q) = true)
    ∧ qEnabled (ackOuts queue5 0 0) 0 3 = false ∧ qEnabled (ackOuts queue5 0 0) 0 5 = true ∧ (qPlace (ackOuts queue5 0 0) 0 5 1 true).isSome = true
    ∧ 5 < qsize queue5 0 ∧ qFull queue5 0 5 = false ∧ (part (updPart queue5 0 fun k => { k with spill := [.post 5 []] }) 0).spill = [.post 5 []]
    ∧ isEntry lined 0 1 = true ∧ entryBad lined record0 0 0 = false ∧ recW record0 * recH record0 * recPercore record0 < 2 ^ 32
    ∧ (placedQuads { launch := launch0, entry := 1, x := 0, y := 0, left := [] }).any
        (fun q => (quad (updQuad lined 0 fun k => { k with gated := true }) q).gated) = true := by
  decide +kernel

theorem wit_QuadEvents : regField (putReg up dispBlk 0 0x10001) dispBlk 0 31 16 ≠ 0 ∧ regField (putReg up dispBlk 0 0x10001) dispBlk 0 15 0 ≠ 0
    ∧ ((quad up 5).gated || (quad up 5).hole || (quad up 5).draining || (quad up 5).testing) = false
    ∧ (∀ c ∈ coresOfQuad 5, idleCore (putReg up dispBlk 0 0x10001) c = true ∧ (Machine.core (putReg up dispBlk 0 0x10001) c).rsv = false)
    ∧ (quad (updQuad up 5 fun k => { k with gated := true, waking := true }) 5).waking = true ∧ up.parts = [] ∧ up.testing = none
    ∧ clusterIdle { up with testing := some (1, false) } 1 = true ∧ clusterIdle { on 0 with testing := some (0, false) } 0 = false := by
  decide +kernel

/-- The traveller belongs to launch 1 of partition 0, whose group watchdog runs. -/
def watched : State := putReg (updSlot (on 0) 0 0 fun k => { k with hdr := { k.hdr with lslot := 1 } }) islandBlk 0x9000 (1 + 5 * 2 ^ 16)
def watchedParked : State := setState watched 0 0 .parked 2
/-- A code section of four bytes. -/
def image0 : List Byte := bytesLe 96 (0x3146494A + 2 ^ 32 + 2 ^ 64 + 64 * 2 ^ 128 + (1 + 2 * 2 ^ 8 + 4 * 2 ^ 128 + 4 * 2 ^ 160) * 2 ^ 512)
def moveTo (b : Bool) : State := { empty0 with moves := [{ core := 0, part := 3, asg := true, rsv := false, scrubbed := b }] }
def chanIdle : State := updStream (setState (on 12289) 6144 0 .free) 6144 true fun k => { k with run := none }
theorem wit_CoreEvents : kindOf 0 = .compute ∧ (Machine.core (on 0) 0).isSealed = false ∧ (Machine.core (on 0) 0).sealing = false
    ∧ (let s := updCore empty0 0 fun k => { k with sealing := true }
      (Machine.core s 0).sealing = true ∧ slotsOf s 0 = [])
    ∧ watchdogRuns watched 0 1 = true ∧ membersOf watched 0 1 = [(0, 0)] ∧ stateOf watched 0 0 ≠ .parked ∧ openPlans watched 0 0 = []
    ∧ watchdogRuns watchedParked 0 1 = true ∧ membersOf watchedParked 0 1 = [(0, 0)] ∧ stateOf watchedParked 0 0 = .parked ∧ reasonOf watchedParked 0 0 = 2
    ∧ openPlans (breakWait watchedParked 0 0 (launchTrap .watchdog 1) .watchdog) 0 0 = []
    ∧ boundaryOk empty0 .island 0 = true ∧ idleCore empty0 0 = true ∧ idleCore (on 0) 0 = false ∧ mapLegal 0 0x10000 0x20000 0x30000 = true
    ∧ imageCode empty0 [0] image0 = 0 ∧ kindOf 0 ≠ .steward ∧ moveOf (moveTo false) 0 = some { core := 0, part := 3, asg := true, rsv := false }
    ∧ moveHeld (moveTo false) { core := 0, part := 3, asg := true, rsv := false } = false ∧ idleCore (moveTo false) 0 = true ∧ arrivalWaits (moveTo false) 0 = false
    ∧ moveOf (moveTo true) 0 = some { core := 0, part := 3, asg := true, rsv := false, scrubbed := true }
    ∧ kindOf 6144 = .channel ∧ goRefused chanIdle 6144 0 = false ∧ (slotsOf (on 12289) 6144).contains 0 = true ∧ (chan (on 12289) 6144).bankCmds = []
    ∧ (slotsOf chanIdle 6144).contains 0 = false ∧ (slot (on 12289) 6144 0).hdr.lslot = 0 ∧ (slot (on 12289) 6144 0).pair = false
    ∧ (chan (updChan (on 12289) 6144 fun h => { h with stopping := true }) 6144).stopping = true := by
  decide +kernel

/-! ## Witnesses: the host, the owner and the meters -/

/-- Queue 5 is a completion queue with one entry; partition 0 belongs to context 3. -/
def queueC : State := qSet parted 0 5 255 0 (0x40E + 0x10000 * 2 ^ 64 + 2 ^ 160)
def owned3 : State := putReg queue5 islandBlk 0x9000 7
/-- A signed command of port 0 is in its buffer, with NONCE 1. -/
def signed (op nonce : Nat) : State := updPort { up with fw := { up.fw with authQ := [0] } } 0 fun k =>
  { k with authbuf := wrN (wrN (wrN [] 0 4 op) 8 8 nonce) 112 4 1452 }
def mgPacket : Packet := { scube := 0, dcube := 0, cls := 0, kind := 11, ecx := 0, spart := 0, payload := .mgmt false 0 0 }
def mgSent : Sent := { pkt := mgPacket }
def mgReply : Packet := { mgPacket with kind := 10, payload := .resp 0 0 [(7, false)] }
def managed : State := { up with net := { up.net with retry := [mgSent], inbox := [mgReply] } }
theorem wit_HostEvents : tenant queue5 0 = 0 ∧ qEnabled queue5 0 5 = true ∧ qPort queue5 0 5 = 0 ∧ qKind queue5 0 5 ≤ 1
    ∧ (2 + 2 ^ 32 - qHead queue5 0 5) % 2 ^ 32 ≤ 2 ^ qLog queue5 0 5 ∧ 2 ^ qLog queue5 0 5 < (17 + 2 ^ 32 - qHead queue5 0 5) % 2 ^ 32
    ∧ tenant queueC 0 = 0 ∧ qEnabled queueC 0 5 = true ∧ qPort queueC 0 5 = 0 ∧ qKind queueC 0 5 = 2 ∧ (1 + 2 ^ 32 - qHead queueC 0 5) % 2 ^ 32 ≤ qCount queueC 0 5
    ∧ partEn owned3 0 = true ∧ 5 < qsize owned3 0 ∧ qLoc owned3 0 5 = true ∧ tenant owned3 0 = 3 ∧ qPort owned3 0 5 = 0
    ∧ (let s := updPort up 0 fun k => { k with mgaddr := 0x0060000000000000 }
      (port s 0).mgbusy = false ∧ (port s 0).mgaddr.toNat / 2 ^ 53 = 3 ∧ (port s 0).mgaddr.toNat % 8 = 0)
    ∧ managed.net.retry.find? (fun x => mgPort x == some 0) = some mgSent ∧ (port managed 0).mgwr = false
    ∧ managed.net.inbox.find? (fun q => q.msgid == mgSent.pkt.msgid && q.scube == mgSent.pkt.dcube && q.kind == 10) = some mgReply
    ∧ (∀ op ∈ [1, 2, 3, 4, 5, 6], (signed op 1).fw.authQ.head? = some 0 ∧ authOp (signed op 1) 0 = op)
    ∧ authVerdict (signed 1 1) 0 = 1 ∧ 1 < regField (signed 1 1) islandBlk 0xF818 15 8 ∧ (signed 1 1).fw.failTimes = []
    ∧ (let s : State := { signed 6 0 with fw := { (signed 6 0).fw with owner := 1 } }
      s.fw.authQ.head? = some 0 ∧ authOp s 0 = 6 ∧ authVerdict s 0 = 0)
    ∧ up.fw.erased = false ∧ { up with fw := { up.fw with erased := true } }.fw.erased = true := by
  decide +kernel

/-- Hall page 0 and DRAM page 1 belong to partition 0, which is not enabled. -/
def ready0 : State := { putReg parted islandBlk 0x9000 0 with pages := [(1, 1), (2 ^ 24, 1)] }
theorem wit_OwnerAndMeterEvents : ownerOk ready0 .island = true ∧ bitsOf (0 : Word).toNat 8 1 = tenant ready0 0 ∧ bitsOf (1 : Word).toNat 8 1 = tenant ready0 0
    ∧ partEn ready0 0 = false ∧ enableOk ready0 0 = true ∧ enableOk up 0 = false ∧ carveRefused up 0x80 = true ∧ carveRefused up 0x01010000 = false
    ∧ up.ownPending = [] ∧ bitsOf (getReg up islandBlk 0x1400).toNat 30 8 + (bitsOf (getReg up islandBlk 0x1400).toNat 55 32 + 1) ≤ pagesOf 0
    ∧ hallSel up < hallSize ∧ tableAt up (hallSel up) = none ∧ (1 : Word).toNat % 512 ≤ (hallPagesOf ready0 0).length ∧ up.xlinvQ = []
    ∧ (∃ k, (on 0).cores = [(0, k)] ∧ k.asg = true) ∧ kindOf 0 = .compute ∧ (quad (on 0) (quadOf 0)).gated = false ∧ (quad (on 0) (quadOf 0)).hole = false
    ∧ (on 0).comp = .run ∧ mget 0 { up with metered := [(5, 7)] }.metered 5 ≠ 0 := by
  and_intros <;> first
    | exact ⟨_, rfl, rfl⟩ | decide +kernel

/-! ## Witnesses: engines and homes -/

/-- A record of slot 0 with its word, its progress and its destination. -/
def recOf (w st prog : Nat) (d : Word) : Rec :=
  { word := w, pc := 0, slot := 0, tid := 0, d := d, a := 0x00FFFFFFFFFC4100, b := 0x00FFFFFFFFFC4200, p := 0, frm := 0, key := 0, ecx := 0, part := 0, mem := [],
    seq := 0, st := st, active := st == 1, prog := prog }
def vadd0 (st prog : Nat) (d : Word) : Rec := recOf 0x18000000 st prog d
def mzero0 (st prog : Nat) : Rec := recOf 0x1C000004 st prog 0
def coach (r : Rec) : State := updCore (on 0) 0 fun k => { k with coachQ := [r] }
def loop2 : Sequencer := { slot := 0, tid := 0, body := [vadd0 0 0 0, vadd0 0 0 0], strides := [(1, 2, 3), (0, 0, 0)], count := 2 }
theorem wit_EngineEvents_coach : (Machine.core (updCore (on 0) 0 fun k => { k with seqr := some loop2 }) 0).seqr = some loop2
    ∧ engRoom (updCore (on 0) 0 fun k => { k with seqr := some loop2 }) 0 0 = true ∧ seqStopped (updCore (on 0) 0 fun k => { k with seqr := some loop2 }) 0 loop2 = false
    ∧ loop2.body[loop2.pos]? = some (vadd0 0 0 0) ∧ loop2.strides[loop2.pos]? = some (1, 2, 3) ∧ loop2.pos + 1 < loop2.body.length ∧ loop2.iter < loop2.count
    ∧ (coresOfQuad 0).getD (((quad (coach (vadd0 0 1 0)) 0).vlast + 1) % 4) 0 = 0 ∧ coachHead (coach (vadd0 0 1 0)) 0 = some (vadd0 0 1 0) ∧ (vadd0 0 1 0).isVec = true
    ∧ (∀ e ∈ coresOfQuad 0, ∀ v ∈ (Machine.core (coach (vadd0 0 1 0)) e).coachQ, v.st ≠ 1)
    ∧ (∀ r ∈ [vadd0 1 2 0, vadd0 1 0 0x00FFFFFFFFFC4000, vadd0 1 0 0], (Machine.core (coach r) 0).coachQ.find? (fun r => r.isVec && r.st == 1) = some r
      ∧ together (coach r) 0 r = false ∧ r.major ≠ 0x36)
    ∧ writesOut (coach (vadd0 1 2 0)) 0 0 0 = false
    ∧ (let r := vadd0 1 0 0x00FFFFFFFFFC4000
      vecPlace (vecFind (coach r) 0 r) 0 0 (ea56 r.d) (vecOpds r.word r.b.toNat).1 = some (sramPa 0 0x4000)
        ∧ windowFault (vecFind (coach r) 0 r) 0 (sramPa 0 0x4000) (ea56 r.d) (vecResult (vecFind (coach r) 0 r) 0 r).bytes = none)
    ∧ vecPlace (vecFind (coach (vadd0 1 0 0)) 0 (vadd0 1 0 0)) 0 0 (ea56 0) (vecOpds 0x18000000 0x00FFFFFFFFFC4200).1 = none
    ∧ (coresOfQuad 0).getD (((quad (coach (mzero0 0 0)) 0).mlast + 1) % 4) 0 = 0 ∧ matActive (coach (mzero0 0 0)) 0 = none ∧ matHead (coach (mzero0 0 0)) 0 = some (mzero0 0 0)
    ∧ matActive (coach (mzero0 1 0)) 0 = some (mzero0 1 0) ∧ (mzero0 1 0).fn = 4 ∧ matActive (coach (mzero0 1 2)) 0 = some (mzero0 1 2)
    ∧ writesOut (coach (mzero0 1 2)) 0 0 0 = false := by
  decide +kernel

def landing (rot : Bool) : EngWrite := { pa := sramPa 0 0x4000, bytes := [(7, false)], src := (1, 0, 0), bar := none, rot := rot }
def landed (rot sealedCore : Bool) : State := updCore { on 0 with engWrites := [landing rot] } 0 fun k => { k with isSealed := sealedCore }
/-- COPY, MCAST, a push of BPUSH's kind and a BFILL of two granules, with a length of `n` bytes. -/
def copy0 (st n : Nat) : Rec := { recOf 0x07000000 st 0 0 with b := BitVec.ofNat 64 n }
def mcast0 : Rec := { recOf 0x07000005 1 0 0 with b := 16 }
def push0 (st n : Nat) : Rec := { recOf 3 st 0 0 with a := 0, b := BitVec.ofNat 64 n }
def fill0 : Rec := { recOf 0x1D000005 1 0 0 with xq := [dramPa 0 0], mem := List.replicate 16 7 }
def couriers (r : Rec) : State := updCore (on 0) 0 fun k => { k with courierQ := [r] }
def streams (r : Rec) : State := updChan (on 12288) 6144 fun k => { k with streamQ := [r] }
theorem wit_EngineEvents : (∀ rot : Bool, ∀ b : Bool, (landed rot b).engWrites[0]? = some (landing rot) ∧ mustMatch (landed rot b) (landing rot) = false
      ∧ coreOfPa (landing rot).pa = some 0 ∧ (Machine.core { landed rot b with engWrites := [] } 0).isSealed = b)
    ∧ (Machine.core (couriers (copy0 0 0)) 0).courierQ = [copy0 0 0] ∧ (Machine.core (couriers (copy0 0 0)) 0).hardHalt = false ∧ (copy0 0 0).active = false ∧ (copy0 0 0).st = 0
    ∧ (∀ r ∈ [copy0 1 0, mcast0], (Machine.core (couriers r) 0).courierQ[0]? = some r ∧ r.st = 1 ∧ r.active = true ∧ recStopped (couriers r) 0 r = false)
    ∧ cpTotal (copy0 1 0) ≤ (copy0 1 0).iter ∧ recOut (couriers (copy0 1 0)) 0 1 0 = false
    ∧ 5 ≤ mcast0.fn ∧ mcast0.iter < cpTotal mcast0 ∧ (couriers mcast0).net.portQ = [] ∧ planOk (couriers mcast0) mcast0 = false
    ∧ (chan (streams (push0 0 0)) 6144).streamQ = [push0 0 0] ∧ (Machine.core (streams (push0 0 0)) 6144).hardHalt = false ∧ (push0 0 0).active = false
    ∧ (∀ n ∈ [0, 1], (chan (streams (push0 1 n)) 6144).streamQ[0]? = some (push0 1 n) ∧ (push0 1 n).st = 1 ∧ (push0 1 n).active = true
      ∧ recStopped (streams (push0 1 n)) 6144 (push0 1 n) = false ∧ (streams (push0 1 n)).memDom = .on ∧ (push0 1 n).fn = 3 ∧ recOut (streams (push0 1 n)) 6144 2 0 = false)
    ∧ (push0 1 0).b.toNat % 256 ≤ (push0 1 0).prog ∧ (push0 1 1).prog < (push0 1 1).b.toNat % 256
    ∧ (push0 1 1).a.toNat / 8192 % 4096 = cubeId (streams (push0 1 1)) ∧ (ring (streams (push0 1 1)) 0 0).init = false
    ∧ (chan (updChan (on 12288) 6144 fun v => { v with aq := [.bsel 1 5 2, .data entry0] }) 6144).aq = .bsel 1 5 2 :: .data entry0 :: []
    ∧ (let s := updChan (on 12288) 6144 fun v => { v with bankCmds := [fill0] }
      (chan s 6144).bankCmds[0]? = some fill0 ∧ bankReady s 6144 0 fill0 = true ∧ fill0.fn = 5 ∧ fill0.mem.length = 16) := by
  decide +kernel
theorem wit_EngineEvents_port : portRoom (couriers mcast0) = true := by
  simp [portRoom, show (couriers mcast0).net.portQ = [] by decide +kernel, show leavingCube (couriers mcast0) = 0 by decide +kernel]

/-- The head request of the double at 0x4000 of core 1 waits for its grant. -/
def granting : State := { parkedOn (.grant (sramPa 1 0x4000) 0) with resvQ := [(sramPa 1 0x4000, [{ core := 0, slot := 0 }])] }
def arriving (k : Barrier) : State := { putBarrier (on 0) 0 31 k with barEvents := [{ core := 0, bar := 31, kind := 0, n := 1, src := (0, 0, 0) }] }
theorem wit_HomeEvents : mget [] granting.resvQ (sramPa 1 0x4000 / 8 * 8) = { core := 0, slot := 0 } :: [] ∧ (slot granting 0 0).pair = false
    ∧ (slot granting 0 0).wait = some { word := 0, cond := .grant (sramPa 1 0x4000) 0, reply := none } ∧ sealedFor granting 0 (sramPa 1 0x4000) = false
    ∧ servable granting (sramPa 1 0x4000) = true ∧ reservedAt granting (sramPa 1 0x4000) < 64 ∧ granting.latent = [] ∧ granting.softErr = []
    ∧ poisonedAt granting (sramPa 1 0x4000) 4 = false
    ∧ (∀ k ∈ [({ v := true, exp := 2 } : Barrier), { v := true, exp := 1 }, { v := true }],
      (arriving k).barEvents[0]? = some { core := 0, bar := 31, kind := 0, n := 1, src := (0, 0, 0) } ∧ (Machine.core (arriving k) 0).isSealed = false
        ∧ barrier (arriving k) 0 31 = k ∧ k.v = true ∧ k.rb = false ∧ barWaiters (arriving k) 0 31 = [])
    ∧ (chan (updChan up (6144 + 5) fun v => { v with copyingRows := [3 * 8192 + 9] }) (6144 + 5)).copyingRows = [3 * 8192 + 9]
    ∧ up.memDom = .on ∧ up.latent = [] ∧ up.softErr = [] := by
  decide +kernel

/-! ## Witnesses: the network -/

def withLink (k : Link) : State := { putReg up islandBlk 0x0010 0x1000 with net := { up.net with links := [(3, k)] } }
/-- A packet from cube 5 for this cube, and a state in whose inbox alone `q` waits. -/
def packetOf5 (kind : Nat) (pl : Payload) : Packet := { scube := 5, dcube := 0, cls := 3, kind := kind, ecx := 0, spart := 0, payload := pl }
def inboxOf (q : Packet) : State := { up with net := { up.net with inbox := [q], conns := [5] } }
theorem wit_LinkEvents : (∀ st ∈ [0, 4], mayTrain (withLink { role := 0, state := st }) 3 = true ∧ (link (withLink { role := 0, state := st }) 3).state = st)
    ∧ (link (withLink { role := 0, state := 1 }) 3).state = 1 ∧ (link (withLink { role := 0, state := 1 }) 3).bad = 0
    ∧ (link (withLink { role := 0, state := 2 }) 3).state = 2 ∧ (link (withLink { role := 0, state := 2 }) 3).spused = false ∧ linkUsable (withLink { state := 2 }) 3 = true
    ∧ wsDown up = false ∧ livePeers (withLink { state := 2, peer := 5 }) = [5]
    ∧ (let q := { packetOf5 12 .heartbeat with dcube := 9 }
      (inboxOf q).net.inbox[0]? = some q ∧ q.dcube ≠ cubeId (inboxOf q) ∧ q.via = 16)
    ∧ (let q := packetOf5 12 .heartbeat
      (inboxOf q).net.inbox[0]? = some q ∧ q.dcube = cubeId (inboxOf q) ∧ seqCase (inboxOf q) q = .fresh) := by
  decide +kernel

/-- Plan 0 of partition 0 is a reduce plan of one node, to which core 0 of this cube contributes. -/
def planned : State := { up with net := { up.net with plans := [(0, 1 + 0x100000000000)], nodes := [(0, 0x1000000000000)], edges := [(0, 1)] } }
def contribution : Packet := { packetOf5 7 (.data []) with scube := 0, score := 0, inst := 1 }
def sentOf (pl : Payload) (tryNo : Nat) : Sent := { pkt := { scube := 0, dcube := 5, cls := 0, kind := 4, ecx := 0, spart := 0, payload := pl, tryNo := tryNo }, nak := true }
def answer (code : Nat) : Packet := packetOf5 10 (.resp code 0 [])
def waitingFor (x : Sent) (q : Packet) : State := { up with net := { up.net with inbox := [q], retry := [x] } }
theorem wit_PacketEvents : (∀ q ∈ [packetOf5 9 (.atomic 1 8 0), packetOf5 6 (.bar 31 0 1), packetOf5 8 (.data []), packetOf5 12 (.abort 0 0 0 0x10)],
      (inboxOf q).net.inbox = [q] ∧ q.dcube = cubeId (inboxOf q) ∧ netDown (inboxOf q) = false ∧ q.via = 16 ∧ q.taken = false ∧ seqCase (inboxOf q) q = .fresh
        ∧ q.scube ≠ cubeId (inboxOf q) ∧ (inboxOf q).memDom = .on ∧ (inboxOf q).net.conns.contains q.scube = true ∧ planEn (inboxOf q) q.spart q.plan = false)
    ∧ (let q := packetOf5 9 (.atomic 1 8 0)
      (serveAtomic (dropInbox { inboxOf q with net := { (inboxOf q).net with conns := [5] } } 0) q 1 8 0).isSome = true)
    ∧ (let s := { planned with net := { planned.net with inbox := [contribution] } }
      s.net.inbox[0]? = some contribution ∧ contribution.dcube = cubeId s ∧ seqCase s contribution = .fresh ∧ planEn s 0 0 = true
        ∧ contribPlace s contribution = some (0, 0) ∧ instBefore (nodeCur s 0 0 0) contribution.inst = true)
    ∧ { up with net := { up.net with fetching := [5] } }.net.fetching.contains 5 = true
    ∧ (∀ n ∈ [0, 7], (waitingFor (sentOf (.data []) n) (answer 3)).net.retry[0]? = some (sentOf (.data []) n) ∧ (sentOf (.data []) n).pkt.tryNo = n
      ∧ (sentOf (.data []) n).pkt.kind < 11 ∧ (sentOf (.data []) n).pkt.kind ≠ 2 ∧ (sentOf (.data []) n).nak = true)
    ∧ (∀ code ∈ [0, 2, 3], (waitingFor (sentOf (.data []) 0) (answer code)).net.inbox[0]? = some (answer code)
      ∧ sentFor (dropInbox (waitingFor (sentOf (.data []) 0) (answer code)) 0) (answer code) = some (sentOf (.data []) 0))
    ∧ (let x : Sent := { sentOf (.data []) 0 with who := some (0, 0), counted := true }
      sentFor (dropInbox (waitingFor x (answer 1)) 0) (answer 1) = some x ∧ x.also = none ∧ x.cmd = none)
    ∧ { up with net := { up.net with kept := [packetOf5 2 .heartbeat] } }.net.kept[0]? = some (packetOf5 2 .heartbeat) ∧ up.ws = .full ∧ up.comp = .run := by
  decide +kernel

/-! ## Witnesses: the map, lanterns, messages -/

/-- A torus of two cubes; a walk of the page of 0x80000 for core 0; a granule on its way; cube 1 silent and due to be declared lost. -/
def two1 : State := { putReg up islandBlk 0x0008 (2 + 2 ^ 19 + 50 * 2 ^ 20) with cycle := 2100000000, sets := [(0, [1])] }
def walking : State := { parted with walks := [{ part := 0, va := 0x80000, fills := [0], waiters := [] }] }
def striping : State := { up with stripe := [(0, { size := 1, gran := 7, state := 1 })], sets := [(0, [0])] }
def granuleSent : Sent := { pkt := { scube := 0, dcube := 5, cls := 3, kind := 12, ecx := 0, spart := 0, payload := .granule 0 7 [(1, false)] } }
theorem wit_MapEvents : walking.walks[0]? = some { part := 0, va := 0x80000, fills := [0], waiters := [] } ∧ (walk { walking with walks := [] } 0 0x80000).2.isOk = true ∧ walking.memDom = .on
    ∧ [Issued.stores 0 1].filter (stillOut up) = [] ∧ [Issued.stores 0 1].filter (stillOut storing) ≠ [] ∧ ownerOk up .island = true ∧ ownerOk up .other = false
    ∧ (∀ q ∈ [packetOf5 12 (.change none 5 (setChange 5 [0])), packetOf5 12 (.change (some 0) 5 (setChange 5 [0]))], (inboxOf q).net.inbox[0]? = some q
      ∧ q.dcube = cubeId (inboxOf q) ∧ netDown (inboxOf q) = false ∧ q.via = 16 ∧ seqCase (inboxOf q) q = .fresh
        ∧ (inboxOf q).net.mapApplied = 0 ∧ (inboxOf q).net.mapNext = 0 ∧ seqCube (inboxOf q) = cubeId (inboxOf q) ∧ changeFits (inboxOf q) (setChange 5 [0]) = true ∧ changeFits (inboxOf q) (.set 5 0 []) = false)
    ∧ (let s := putReg (putReg (inboxOf { packetOf5 12 (.change none 5 (setChange 5 [0])) with dcube := 1 }) islandBlk 0x0008 2) islandBlk 0x0010 0x1001
      seqCube s ≠ cubeId s ∧ cubeId s = 1)
    ∧ (stripeAt striping 0).state = 1 ∧ granuleReserved striping (stripeAt striping 0) 0 = false ∧ nextGranule striping (stripeAt striping 0) = some 0 ∧ memberDead (memberFor striping (stripeAt striping 0).oset 0) = false
    ∧ sentFor (waitingFor granuleSent (answer 1)) (answer 1) = some granuleSent ∧ granuleSent.who = none ∧ granuleSent.also = none
    ∧ regField two1 islandBlk 0x0008 19 19 = 1
    ∧ linksAway two1 1 = true
    ∧ mget 0 two1.net.away 1 + regField two1 islandBlk 0x0008 31 20 * 2100000 ≤ longNow two1
    ∧ mget 0 two1.net.heard 1 + regField two1 islandBlk 0x0008 31 20 * 2100000 ≤ longNow two1
    ∧ ((allCubes two1).find? fun c => c != 1 && wasPeer two1 c 1) = some (cubeId two1) ∧ wsDown two1 = false ∧ memberCube 1 = 1 ∧ memberDead 1 = false
    ∧ (getReg up islandBlk 0x0800).toNat % 32 < 24 ∧ (getReg up islandBlk 0x0800).toNat / 2 ^ 12 % 4 = 0 ∧ planEn up 0 0 = false := by
  decide +kernel

/-- Entry 1 of partition 0 is ROUND; lantern slot 0 counts it. -/
def lit (l : Lantern) (inbox : List Packet) : State :=
  { putReg (entrySet parted 0 1 39 37 2) islandBlk 0x0010 0x1000 with net := { parted.net with lanterns := [(0, l)], inbox := inbox } }
def lamp (lead out : Bool) (probe : Option (Int × Bool)) : Lantern := { entry := 1, next := 5, lead := lead, en := true, out := out, tmo := 9, probe := probe }
def freshHere (s : State) (q : Packet) : Bool :=
  decide (s.net.inbox[0]? = some q) && q.dcube == cubeId s && !netDown s && q.via == 16 && decide (seqCase s q = .fresh)
theorem wit_LanternEvents : ownerOk parted .island = true ∧ (lantern parted 0 0).en = false ∧ (0x20000000 : Word).getLsbD 29 = true
    ∧ (∀ out : Bool, lantern (lit (lamp true out none) []) 0 0 = lamp true out none ∧ wsDown (lit (lamp true out none) []) = false ∧ phaseRound (lit (lamp true out none) []) 0 0 = true)
    ∧ lantern (lit (lamp false false (some (0, true))) []) 0 0 = lamp false false (some (0, true)) ∧ phaseRound (lit (lamp false false (some (0, true))) []) 0 0 = true
    ∧ (∀ lead : Bool, let q := packetOf5 13 (.probe 0 0 0 0 false)
      let s := lit (lamp lead lead none) [q]
      let got := respond (mark (dropInbox s 0) q) q 1 0
      freshHere s q = true ∧ lantern got 0 0 = lantern s 0 0 ∧ (0 : Int) + lanternCount got 0 = 0)
    ∧ (let q := packetOf5 13 (.lanternDone 0 0)
      let s := lit (lamp false false none) [q]
      freshHere s q = true ∧ lantern (respond (mark (dropInbox s 0) q) q 1 0) 0 0 = lantern s 0 0) := by
  decide +kernel

/-- Slots of cores 0 and 1 hold the copies of an escorted pair, whose messages wait at the router. -/
def copyAt (c : Nat) (h : Nat) : EscMsg := { core := c, slot := 0, tid := 1, hash := h, addr := 0, what := .request }
def escorting (twin0 : Bool) (h : List EscMsg) : State :=
  let s := updSlot (updCore (on 0) 1 fun k => { k with lmwsb := 0x2000, lmrgb := 0x4000, lmdtb := 0x4000, asg := true }) 1 0 fun k => { k with used := true, pair := true, twin := !twin0 }
  let s := setState (wsWr s 1 0 0xF8 4 (tidOf s 0 0)) 1 0 .running
  { updSlot s 0 0 fun k => { k with pair := true, twin := twin0 } with net := { s.net with escort := h } }
theorem wit_MessageAndEscortEvents : msgSpilled { up with msgFlight := [(6400, letter)] } 6400 = false ∧ (mget [] up.tmsgs 6400).length < 256
    ∧ (let s := putReg { up with msgFlight := [(6400, letter)], tmsgs := [(6400, List.replicate 256 letter)] } islandBlk 0x1118 1
      256 ≤ (mget [] s.tmsgs 6400).length ∧ spillFits s letter.part 128 = true)
    ∧ (part (updPart up 0 fun q => { q with spill := [.message 6400 letter] }) 0).spill = [.message 6400 letter]
    ∧ wfmWaiters up 6400 letter.part = [] ∧ mget 0 up.tvec (6400 * 32 + letter.part) = 0
    ∧ (∀ twin0 : Bool, ∀ h ∈ [7, 8], let s := escorting twin0 [copyAt 0 7, copyAt 1 h]
      s.net.escort[0]? = some (copyAt 0 7) ∧ escPartner s (copyAt 0 7) = some (copyAt 1 h) ∧ (slot s 0 0).twin = twin0)
    ∧ escPartner (escorting false [copyAt 0 7]) (copyAt 0 7) = none ∧ partnerOf (escDrop (escorting false [copyAt 0 7]) (copyAt 0 7)) 0 0 = some (1, 0)
    ∧ (let s := { on 0 with net := { (on 0).net with escort := [copyAt 0 7] } }
      escPartner s (copyAt 0 7) = none ∧ partnerOf (escDrop s (copyAt 0 7)) 0 0 = none) := by
  decide +kernel

/-! ## Witnesses: the remaining clauses -/

/-- Flags of the traveller become due at cycle 9; register 2 names its workspace and 4 its data region. -/
def flagged : State := updStream (regs (on 0) 0 0 [(2, 0x00FFFFFFFFFC2000), (4, 0x00FFFFFFFFFC4000)]) 0 false fun k =>
  { k with pend := [{ reg := 33, ready := 9, old := 0, oldPoison := false }] }
theorem wit_FlagsNotYetSet : Clean flagged X0 [2] ∧ Clean flagged X0 [4] ∧ Issues flagged X0 (.lbu 0 1 2 0xF6) [2] ∧ Issues flagged X0 (.rdflags 0 1 4) [4]
    ∧ (X0.val flagged 2 + (0xF6 : BitVec 13).signExtend 64).toNat % 2 ^ 56 % 1 = 0
    ∧ reach (now flagged X0) 0 false 0 0x00FFFFFFFFFC20F6 true false = .own 0x20F6 ∧ forward (stream flagged 0 false).sb (sramPa 0 0x20F6) 1 = .none
    ∧ pendMet X0 (now flagged X0) 0x20F6 1 = true ∧ pendMet X0 (now flagged X0) 0x20F5 1 = false ∧ pendMet X0 (now flagged X0) 0x20F7 1 = false
    ∧ pendMet X0 (now data X0) 0x4008 8 = false ∧ pendMet X0 (now data X0) 0x4000 32 = false ∧ dramHeld flagged X0 = none
    ∧ X0.flagsWait (now flagged X0) = true ∧ X0.flagsWait (now data X0) = false
    ∧ (∀ e ∈ (stream flagged 0 false).pend, e.isFlags = true → X0.t < e.ready) ∧ (∀ e ∈ (stream data 0 false).pend, e.isFlags = false)
    ∧ (63 : Nat) < 64 ∧ X0.t + 4 ≤ { X0 with t := 4 }.t ∧ { X0 with t := 3 }.t < X0.t + 4 := by
  and_intros <;> first
    | decide +kernel | exact clean_of (by decide +kernel)

/-- The traveller may move to core 0 of cube 5, and its slot of the translation cache names that cube's DRAM. -/
def far5 : State := updCore { on 0 with stripe := [(0, { size := 1 })], sets := [(0, [5])] } 0 fun k =>
  { k with tlb := [{ part := 0, va := 0, level := 0, oa := 0, rd := true, wr := true, nm := false }] }
theorem wit_MigrationFar : moveHome (now far5 X0) 0 false 0 0 = .found { core := 6144, kind := 1, cube := 5 } ∧ cubeId far5 = 0
    ∧ Clean far5 X0 [9] ∧ (X0.val far5 9).toNat % 2 ^ 56 = 0 ∧ Drained far5 X0 ∧ moveRefused far5 0 0 = false ∧ (slot far5 0 0).outs = 0
    ∧ (Machine.core far5 0).enqBuf = [] ∧ (slot far5 0 0).pair = false ∧ Issues far5 X0 (.goto 0 9) [9] ∧ addressCore (now far5 X0) 0 = 0 := by
  and_intros <;> first
    | decide +kernel | exact clean_of (by decide +kernel)
theorem wit_MigrationFar_port : portRoom far5 = true := by
  simp [portRoom, show far5.net.portQ = [] by decide +kernel, show leavingCube far5 = 0 by decide +kernel]

theorem wit_TravellersAndTasks : (slot reserved 0 0).resv.isSome = true ∧ resvPort reserved 0 0 = false ∧ reserved.memDom = .on ∧ holdOf reserved 0 0 = 0
    ∧ recsOf reserved 0 0 = [] ∧ hasLoop reserved 0 0 = false ∧ Issues reserved X0 (.endT 0) [] ∧ (slot (on 0) 0 0).resv = none
    ∧ (let s := updCore data 0 fun k => { k with deque := List.replicate 64 someTask }
      64 ≤ (Machine.core s 0).deque.length ∧ ReadsRecord s X0 0x00FFFFFFFFFC4000 64 (sramPa 0 0x4000)
        ∧ recordOk (rdBytes s.mem (sramPa 0 0x4000) 64) = true ∧ localPlace X0 (now s X0) 0x00FFFFFFFFFC4000 64 = some (sramPa 0 0x4000))
    ∧ touchesBuffer queued 0 false (sramPa 0 0x4000) 64 = false
    ∧ (let s := updCore boss 0 fun k => { k with asg := true, isSealed := true }
      (Machine.core s 0).asg = true ∧ (Machine.core s 0).part = 0 ∧ (Machine.core s 0).isSealed = true) := by
  and_intros <;> first
    | decide +kernel

/-- Two operand descriptors lie where register 3 points; two rotation targets of zeros follow. -/
def product : State := { banks with mem := wrN (wrN banks.mem (sramPa 0 0x4000) 16 0x00FFFFFFFFFC4100) (sramPa 0 0x4010) 16 0x00FFFFFFFFFC4200 }
def operand (i : Nat) : Operand := { d := descOf (((rdBytes product.mem (sramPa 0 0x4000) 64).drop (16 * i)).take 16), rows := 1, k := 1 }
theorem wit_MatrixProducts : ReadsRecord product X0 0x00FFFFFFFFFC4000 64 (sramPa 0 0x4000) ∧ ReadsRecord product X0 0x00FFFFFFFFFC4000 32 (sramPa 0 0x4000)
    ∧ (∀ i ∈ [0, 1], descMisaligned (operand i) = false ∧ descBounds product 0 (operand i) = none ∧ descBad (operand i) = false ∧ (operand i).d.rf = false
      ∧ (operand i).d.fmt = 0)
    ∧ ((cfMx 0 || cfMx 0) = false) ∧ 8 * 1 * 1 ≤ 2 * 2048 ∧ cfInt 0 = cfInt 0 ∧ product.comp = .run
    ∧ bitsOf 0x10101 30 28 = 0 ∧ bitsOf 0x10101 63 32 = 0 ∧ bitsOf 0x10101 39 38 = 0 ∧ bitsOf 0x10101 63 46 = 0
    ∧ leNat (((rdBytes product.mem (sramPa 0 0x4000) 64).drop 32).take 16) < 2 ^ 64 ∧ leNat (((rdBytes product.mem (sramPa 0 0x4000) 64).drop 48).take 16) < 2 ^ 64
    ∧ (rotation product 0 0).isSome = true ∧ Clean product X0 [3, 4, 2] ∧ Drained product X0 ∧ engRoom product 0 0 = true
    ∧ handleOf product 0 0 0x200 = some { bank := 0, nb := 2 } ∧ (∀ i ∈ [Instr.mma 0 2 3 4, .mmr 0 2 3 4], Issues product X0 i [3, 4, 2]) := by
  and_intros <;> first
    | decide +kernel | exact clean_of (by decide +kernel) | exact all_issues (by decide +kernel)

/-- Register 5 asks for 16 bytes with an event; core 1 belongs to the partition, and register 7 names its window in this cube. -/
def evented : State := updCore (regs courier 0 0 [(5, 16 + 2 ^ 37)]) 1 fun k => { k with asg := true }
theorem wit_CourierEvents : (lwBar (16 + 2 ^ 37)).isSome = true ∧ lwBad false (16 + 2 ^ 37) = false ∧ benTarget evented 0 0x0040000000000000 = true
    ∧ inLocal evented 0 0 0x00FFFFFFFFFC4100 16 = true ∧ Issues evented X0 (.putx 0 7 3 5) [3, 5, 7]
    ∧ (let s := pushRec courier 0 1 (newRec X0 courier ((encode (.copy 0 2 3 5)).getD 0) 0 0 16)
      (X0.val s 8).toNat < courierOut s 0 0 ∧ courierFaulted s 0 0 = none ∧ Issues s X0 (.cwait 0 8) [8] ∧ Clean s X0 [8]) := by
  and_intros <;> first
    | decide +kernel | exact clean_of (by decide +kernel)

/-- The reservation of the traveller was lost with its home; or a store of its own to the double is still buffered. -/
def voided : State := updSlot data 0 0 fun k => { k with voided := some { pa := sramPa 0 0x4000, size := 8, va := 0x00FFFFFFFFFC4000 } }
def hosting : State := updCore (qSet queued 0 0 3 3 1) 0 fun k => { k with enqBuf := [copying 0] }
theorem wit_BarriersAndAtomics : (barrier (barAt { v := true, rb := true }) 0 31).rb = true ∧ (ring ringed 0 7).init = false
    ∧ (ring (ringAt 1) 0 7).init = true ∧ ringNamed (ringAt 1) 0 7 = false
    ∧ (∀ k ∈ [({ v := true, exp := 2 } : Barrier), {}], (stream (barAt k) 0 false).sb = [])
    ∧ (slot voided 0 0).resv = none ∧ (slot voided 0 0).voided = some { pa := sramPa 0 0x4000, size := 8, va := 0x00FFFFFFFFFC4000 }
    ∧ (0x00FFFFFFFFFC4000 : Nat) / 8 = (0x00FFFFFFFFFC4000 : Word).toNat / 8 ∧ (0x00FFFFFFFFFC4008 : Nat) / 8 ≠ (0x00FFFFFFFFFC4000 : Word).toNat / 8
    ∧ Issues voided X0 (.rls 0 2 3 1) [2, 3] ∧ (slot data 0 0).voided = none ∧ homeFree data (sramPa 0 0x4000) = true
    ∧ pendMet X0 (now data X0) 0x4000 8 = false ∧ touchesBuffer data 0 false (sramPa 0 0x4000 / 16 * 16) 16 = false
    ∧ (let u := tlbTouch (now data X0) 0 0 0x00FFFFFFFFFC4000
      reach u 0 false 0 0x00FFFFFFFFFC4000 false true = .own 0x4000)
    ∧ hostOut hosting 0 0 = true ∧ coreOutstanding hosting 0 false 0 = false := by
  and_intros <;> first
    | decide +kernel

theorem wit_ChannelQueues : outsFull chan6 6144 1 = false
    ∧ (aqTurn (bselApply (now chan6 XC) 6144) 6144 (false, 1) = true ∧ 0 < aqFree (bselApply (now chan6 XC) 6144) 6144)
    ∧ (let s := updChan chan6 6144 fun k => { k with aq := List.replicate 64 (.data entry0) }
      aqFree (bselApply (now s XC) 6144) 6144 = 0)
    ∧ xqHead chan6 6144 = none ∧ (chan chan6 6144).aqProd.contains (false, 1) = false ∧ (chan chan6 6144).xqCons.contains (false, 1) = false := by
  decide +kernel

theorem wit_MoreEvents : up.heartbeat = false ∧ up.comp = .run ∧ barOnWay (draining .store) 0 false = false ∧ (draining .store).softErr = []
    ∧ (let s := updSlot (setState idleUp 0 0 .migrating) 0 0 fun k => { k with move := some { core := 1, cube := 0, addr := 0, acked := true } }
      (slot s 0 0).move = some { core := 1, cube := 0, addr := 0, acked := true })
    ∧ needsWake empty0 0 = false ∧ needsWake (updQuad empty0 0 fun k => { k with gated := true }) 0 = true
    ∧ (let s := updSlot (setState idleUp 0 0 .halted) 0 0 fun k => { k with halted := some ((.ready, 0), false) }
      stateOf s 0 0 = .halted ∧ (slot s 0 0).halted = some ((.ready, 0), false))
    ∧ (let s := putReg { setState idleUp 0 0 .ready with dbgctl := [(0, 1)] } islandBlk 0xF008 (BitVec.ofNat 64 (tidOf idleUp 0 0))
      dbgTargets s false = [(0, 0)] ∧ dbgEn s 0 = true ∧ stateOf s 0 0 = .ready)
    ∧ asked.latent = [] ∧ asked.softErr = [] ∧ firstResumed lined 0 = none ∧ tailWaits queue5 0 5 = false ∧ openPlans watchedParked 0 0 = []
    ∧ imageCode empty0 [0] [] ≠ 0 := by
  decide +kernel

def ackOf : Packet := packetOf5 4 (.data [])
def ackedLanding : EngWrite := { landing false with ack := some ackOf }
theorem wit_EnginesAndHomes : (let s := updCore { on 0 with engWrites := [ackedLanding] } 0 fun k => { k with isSealed := true }
      s.engWrites[0]? = some ackedLanding ∧ ackedLanding.held = false ∧ mustMatch s ackedLanding = false ∧ coreOfPa ackedLanding.pa = some 0)
    ∧ outsFull (couriers mcast0) 0 0 = false
    ∧ (let s := updChan (on 12288) 6144 fun v => { v with bankCmds := [{ fill0 with rings := [1] }] }
      (chan s 6144).bankCmds[0]? = some { fill0 with rings := [1] } ∧ bankReady s 6144 0 { fill0 with rings := [1] } = true)
    ∧ fill0.lost = false ∧ rowRetired (on 12288) (dramPa 0 0) = false ∧ (∀ i, i < 1024 → mayWrite (on 12288) (dramPa 0 0 + i) = true)
    ∧ (let u := grantAccess granting 0 0 (sramPa 1 0x4000)
      u.latent = [] ∧ u.softErr = [] ∧ poisonedAt u (sramPa 1 0x4000) 4 = false) := by
  decide +kernel

/-- No slot of the state waits. -/
theorem noWait {m : SMap Slot} (h : (m.all fun e => e.2.wait.isNone) = true) (k : Nat) : (mget {} m k).wait = none := by
  induction m with
  | nil => rfl
  | cons e m ih =>
    simp only [List.all_cons, Bool.and_eq_true, Option.isNone_iff_eq_none] at h
    by_cases hk : e.1 = k
    · simpa [mget, lookup, hk] using h.1
    · simpa [mget, lookup, hk] using ih h.2
theorem wit_PacketsAndWalks : ackOf.addr / 2 ^ 53 % 8 < 4 ∧ (0x0060000000000000 : Nat) / 2 ^ 53 % 8 < 4
    ∧ ({ ackOf with via := 15, dcube := 9 }).via ≠ 16 ∧ poisonedAt up (recordAt up 5) 4096 = false ∧ (5 : Nat) ≠ cubeId up
    ∧ (∀ sl w, (slot walking 0 sl).wait = some w → ∀ va, w.cond ≠ .walk va)
    ∧ seqCubeFor up (setChange 5 [0]) = cubeId up ∧ changeFits up (setChange 5 [0]) = true := by
  and_intros <;> first
    | decide +kernel
    | exact fun sl w h => absurd h (by rw [slot, noWait (by decide +kernel)]; simp)

/-! ## Decoding: one word of every major opcode, written out field by field from the encodings of the opcode map (R49, R56) -/

noncomputable def word (n : BitVec 32) : Option Instr := decodeTableWord 32 n.toNat

theorem test_decode_01 : word (1#3 ++ 0x01#6 ++ 4#5 ++ 6#5 ++ 7#5 ++ 1#8 : BitVec 32) = some (.sub 1 4 6 7) := by decide +kernel
theorem test_decode_02 : word (1#3 ++ 0x02#6 ++ 4#5 ++ 6#5 ++ 7#5 ++ 1#8 : BitVec 32) = some (.mulh 1 4 6 7) := by decide +kernel
theorem test_decode_03 : word (1#3 ++ 0x03#6 ++ 4#5 ++ 6#5 ++ 8189#13 : BitVec 32) = some (.addi 1 4 6 8189) := by decide +kernel
theorem test_decode_04 : word (1#3 ++ 0x04#6 ++ 4#5 ++ 6#5 ++ 8189#13 : BitVec 32) = some (.andi 1 4 6 8189) := by decide +kernel
theorem test_decode_05 : word (1#3 ++ 0x05#6 ++ 4#5 ++ 6#5 ++ 8189#13 : BitVec 32) = some (.ori 1 4 6 8189) := by decide +kernel
theorem test_decode_06 : word (1#3 ++ 0x06#6 ++ 4#5 ++ 6#5 ++ 8189#13 : BitVec 32) = some (.xori 1 4 6 8189) := by decide +kernel
theorem test_decode_07 : word (1#3 ++ 0x07#6 ++ 4#5 ++ 6#5 ++ 8189#13 : BitVec 32) = some (.slti 1 4 6 8189) := by decide +kernel
theorem test_decode_08 : word (1#3 ++ 0x08#6 ++ 4#5 ++ 6#5 ++ 8189#13 : BitVec 32) = some (.sltiu 1 4 6 8189) := by decide +kernel
theorem test_decode_09 : word (1#3 ++ 0x09#6 ++ 4#5 ++ 6#5 ++ 32#7 ++ 7#6 : BitVec 32) = some (.srli 1 4 6 7) := by decide +kernel
theorem test_decode_0A : word (1#3 ++ 0x0A#6 ++ 4#5 ++ 262141#18 : BitVec 32) = some (.himm 1 4 262141) := by decide +kernel
theorem test_decode_0B : word (1#3 ++ 0x0B#6 ++ 4#5 ++ 262141#18 : BitVec 32) = some (.pchi 1 4 262141) := by decide +kernel
theorem test_decode_0C : word (1#3 ++ 0x0C#6 ++ 4#5 ++ 6#5 ++ 7#5 ++ 0#1 ++ 1#1 ++ 1#6 : BitVec 32) = some (.fsub 1 4 6 7 1) := by decide +kernel
theorem test_decode_0D : word (1#3 ++ 0x0D#6 ++ 4#5 ++ 6#5 ++ 7#5 ++ 1#8 : BitVec 32) = some (.fmad 1 4 6 7) := by decide +kernel
theorem test_decode_0E : word (1#3 ++ 0x0E#6 ++ 4#5 ++ 6#5 ++ 7#5 ++ 1#8 : BitVec 32) = some (.copy2d 1 4 6 7) := by decide +kernel
theorem test_decode_0F : word (1#3 ++ 0x0F#6 ++ 0#2 ++ 5#3 ++ 1#18 : BitVec 32) = some (.rpush 1 5) := by decide +kernel
theorem test_decode_10 : word (1#3 ++ 0x10#6 ++ 4#5 ++ 6#5 ++ 8189#13 : BitVec 32) = some (.ld 1 4 6 8189) := by decide +kernel
theorem test_decode_11 : word (1#3 ++ 0x11#6 ++ 4#5 ++ 6#5 ++ 8189#13 : BitVec 32) = some (.lw 1 4 6 8189) := by decide +kernel
theorem test_decode_12 : word (1#3 ++ 0x12#6 ++ 4#5 ++ 6#5 ++ 8189#13 : BitVec 32) = some (.lwu 1 4 6 8189) := by decide +kernel
theorem test_decode_13 : word (1#3 ++ 0x13#6 ++ 4#5 ++ 6#5 ++ 8189#13 : BitVec 32) = some (.lh 1 4 6 8189) := by decide +kernel
theorem test_decode_14 : word (1#3 ++ 0x14#6 ++ 4#5 ++ 6#5 ++ 8189#13 : BitVec 32) = some (.lhu 1 4 6 8189) := by decide +kernel
theorem test_decode_15 : word (1#3 ++ 0x15#6 ++ 4#5 ++ 6#5 ++ 8189#13 : BitVec 32) = some (.lb 1 4 6 8189) := by decide +kernel
theorem test_decode_16 : word (1#3 ++ 0x16#6 ++ 4#5 ++ 6#5 ++ 8189#13 : BitVec 32) = some (.lbu 1 4 6 8189) := by decide +kernel
theorem test_decode_17 : word (1#3 ++ 0x17#6 ++ 4#5 ++ 6#5 ++ 1#1 ++ 1#2 ++ 1021#10 : BitVec 32) = some (.lfe 1 4 6 1 1 1021) := by decide +kernel
theorem test_decode_18 : word (1#3 ++ 0x18#6 ++ 5#5 ++ 6#5 ++ 8189#13 : BitVec 32) = some (.sd 1 5 6 8189) := by decide +kernel
theorem test_decode_19 : word (1#3 ++ 0x19#6 ++ 5#5 ++ 6#5 ++ 8189#13 : BitVec 32) = some (.sw 1 5 6 8189) := by decide +kernel
theorem test_decode_1A : word (1#3 ++ 0x1A#6 ++ 5#5 ++ 6#5 ++ 8189#13 : BitVec 32) = some (.sh 1 5 6 8189) := by decide +kernel
theorem test_decode_1B : word (1#3 ++ 0x1B#6 ++ 5#5 ++ 6#5 ++ 8189#13 : BitVec 32) = some (.sb 1 5 6 8189) := by decide +kernel
theorem test_decode_1C : word (1#3 ++ 0x1C#6 ++ 5#5 ++ 6#5 ++ 1#1 ++ 1#2 ++ 1021#10 : BitVec 32) = some (.sfe 1 5 6 1 1 1021) := by decide +kernel
theorem test_decode_1D : word (1#3 ++ 0x1D#6 ++ 4#5 ++ 6#5 ++ 7#5 ++ 1#8 : BitVec 32) = some (.deq 1 4 6 7) := by decide +kernel
theorem test_decode_1E : word (1#3 ++ 0x1E#6 ++ 0#5 ++ 5#5 ++ 1#13 : BitVec 32) = some (.eret 1 5) := by decide +kernel
theorem test_decode_1F : word (1#3 ++ 0x1F#6 ++ 4#5 ++ 6#5 ++ 1#2 ++ 7#11 : BitVec 32) = some (.csrw 1 4 6 7) := by decide +kernel
theorem test_decode_20 : word (1#3 ++ 0x20#6 ++ 5#5 ++ 6#5 ++ 8189#13 : BitVec 32) = some (.beq 1 5 6 8189) := by decide +kernel
theorem test_decode_21 : word (1#3 ++ 0x21#6 ++ 5#5 ++ 6#5 ++ 8189#13 : BitVec 32) = some (.bne 1 5 6 8189) := by decide +kernel
theorem test_decode_22 : word (1#3 ++ 0x22#6 ++ 5#5 ++ 6#5 ++ 8189#13 : BitVec 32) = some (.blt 1 5 6 8189) := by decide +kernel
theorem test_decode_23 : word (1#3 ++ 0x23#6 ++ 5#5 ++ 6#5 ++ 8189#13 : BitVec 32) = some (.bge 1 5 6 8189) := by decide +kernel
theorem test_decode_24 : word (1#3 ++ 0x24#6 ++ 5#5 ++ 6#5 ++ 8189#13 : BitVec 32) = some (.bltu 1 5 6 8189) := by decide +kernel
theorem test_decode_25 : word (1#3 ++ 0x25#6 ++ 5#5 ++ 6#5 ++ 8189#13 : BitVec 32) = some (.bgeu 1 5 6 8189) := by decide +kernel
theorem test_decode_26 : word (1#3 ++ 0x26#6 ++ 8388605#23 : BitVec 32) = some (.jal 1 8388605) := by decide +kernel
theorem test_decode_27 : word (1#3 ++ 0x27#6 ++ 4#5 ++ 6#5 ++ 8189#13 : BitVec 32) = some (.jalr 1 4 6 8189) := by decide +kernel
theorem test_decode_28 : word (1#3 ++ 0x28#6 ++ 1#3 ++ 1048573#20 : BitVec 32) = some (.pbrNone 1 1048573) := by decide +kernel
theorem test_decode_29 : word (1#3 ++ 0x29#6 ++ 2#21 ++ 1#2 : BitVec 32) = some (.psetall 1 1) := by decide +kernel
theorem test_decode_2A : word (1#3 ++ 0x2A#6 ++ 1#23 : BitVec 32) = some (.yield 1) := by decide +kernel
theorem test_decode_2B : word (1#3 ++ 0x2B#6 ++ 4#5 ++ 1#18 : BitVec 32) = some (.cubeof 1 4) := by decide +kernel
theorem test_decode_30 : word (1#3 ++ 0x30#6 ++ 4#5 ++ 6#5 ++ 7#5 ++ 1#5 ++ 6#3 : BitVec 32) = some (.vsub 1 4 6 7 6) := by decide +kernel
theorem test_decode_31 : word (1#3 ++ 0x31#6 ++ 4#5 ++ 6#5 ++ 0#5 ++ 7#4 ++ 2#4 : BitVec 32) = some (.vconv 1 4 6 7 2) := by decide +kernel
theorem test_decode_32 : word (1#3 ++ 0x32#6 ++ 4#5 ++ 6#5 ++ 1#10 ++ 6#3 : BitVec 32) = some (.vrmax 1 4 6 6) := by decide +kernel
theorem test_decode_33 : word (1#3 ++ 0x33#6 ++ 4#5 ++ 6#5 ++ 7#5 ++ 1#5 ++ 6#3 : BitVec 32) = some (.vshuf 1 4 6 7 6) := by decide +kernel
theorem test_decode_34 : word (1#3 ++ 0x34#6 ++ 4#5 ++ 6#5 ++ 1#10 ++ 6#3 : BitVec 32) = some (.vlog2 1 4 6 6) := by decide +kernel
theorem test_decode_35 : word (1#3 ++ 0x35#6 ++ 1#23 : BitVec 32) = some (.vsync 1) := by decide +kernel
theorem test_decode_36 : word (1#3 ++ 0x36#6 ++ 4#5 ++ 6#5 ++ 7#5 ++ 1#5 ++ 6#3 : BitVec 32) = some (.vscatter 1 4 6 7 6) := by decide +kernel
theorem test_decode_37 : word (1#3 ++ 0x37#6 ++ 4#5 ++ 6#5 ++ 7#5 ++ 1#8 : BitVec 32) = some (.vmxunpk 1 4 6 7) := by decide +kernel
theorem test_decode_38 : word (1#3 ++ 0x38#6 ++ 4#5 ++ 1#18 : BitVec 32) = some (.mrel 1 4) := by decide +kernel
theorem test_decode_39 : word (1#3 ++ 0x39#6 ++ 0#5 ++ 5#5 ++ 6#5 ++ 1#8 : BitVec 32) = some (.dwr 1 5 6) := by decide +kernel
theorem test_decode_3A : word (1#3 ++ 0x3A#6 ++ 0#5 ++ 5#5 ++ 6#5 ++ 1#8 : BitVec 32) = some (.xqput 1 5 6) := by decide +kernel
theorem test_decode_3B : word (1#3 ++ 0x3B#6 ++ 4#5 ++ 6#5 ++ 7#5 ++ 0#2 ++ 1#1 ++ 1#5 : BitVec 32) = some (.amoand 1 4 6 7 1) := by decide +kernel
theorem test_decode_3C : word (1#3 ++ 0x3C#6 ++ 0#5 ++ 5#5 ++ 6#5 ++ 0#2 ++ 1#1 ++ 1#5 : BitVec 32) = some (.redand 1 5 6 1) := by decide +kernel
theorem test_decode_3D : word (1#3 ++ 0x3D#6 ++ 0#5 ++ 5#5 ++ 6#5 ++ 1#8 : BitVec 32) = some (.fencex 1 5 6) := by decide +kernel
theorem test_decode_3E : word (1#3 ++ 0x3E#6 ++ 5#5 ++ 6#5 ++ 1#13 : BitVec 32) = some (.barrive 1 5 6) := by decide +kernel

/-! ## Witnesses: results, traps, steps and encodings -/

theorem wit_VectorIntegerLanes : (0 : Nat) < 4 ∧ 255 < 256 / vsize 0 ∧ (elemAt [] 255).1 < 2 ^ (8 * vsize 0) ∧ (1#256 <<< 255).getLsbD (vsize 0 * 255) = true
    ∧ (0#256).getLsbD (vsize 0 * 255) = false ∧ (elemAt [(7, true)] 0).2 = true ∧ (elemAt [] 255).2 = false ∧ 31 < 256 / vsize 3
    ∧ (elemAt [(2 ^ 64 - 1, false)] 0).1 < 2 ^ (8 * vsize 3) := by
  decide +kernel

theorem wit_ResultFrame : (stream (on 0) 0 false).pend = [] ∧ Memory.wf (on 0).mem = true ∧ (23 : BitVec 5).toNat < 24 := by decide +kernel
theorem wit_TrapEntry : (stream (on 0) 0 false).run = some 0 ∧ (slot (on 0) 0 0).used = true ∧ kindOf 0 = .compute ∧ Memory.wf (on 0).mem = true := by decide +kernel

/-- A write of register 2 is not readable before cycle 9; checking as given. -/
def lateReg (b : Bool) : State := updSlot (updStream (on 0) 0 false fun k => { k with pend := [{ reg := 2, old := 5, oldPoison := false, ready := 9 }] }) 0 0 fun k => { k with sbo := some b }
theorem wit_IssueChecks : encode (.add 0 25 0 0) = some 0x00E40000 ∧ (Instr.add 0 25 0 0).wf = false ∧ encode (.dwr 0 1 2) = some 0x1C802201 ∧ accepted 0 false 0x1C802201 = false
    ∧ ctxOf (on 0) = some X0 ∧ X0.reply = none ∧ destOk 1 = true
    ∧ (∀ b : Bool, ctxOf (lateReg b) = some X0 ∧ checking (lateReg b) 0 0 = b ∧ pendOf (stream (lateReg b) 0 false) 2 0 = some { reg := 2, old := 5, oldPoison := false, ready := 9 }
      ∧ pendOf (stream (lateReg b) 0 false) 3 0 = none ∧ X0.poisoned (lateReg b) 2 = false ∧ X0.poisoned (lateReg b) 3 = false)
    ∧ (∀ i ∈ [Instr.add 0 1 2 3, .sub 0 1 2 3, .mul 0 1 2 3], (encode i).all (accepted 0 false) = true) := by
  decide +kernel

/-- ADD g1, g2, g3 stands at the pc. -/
def fetched : State := { on 0 with mem := wrN (on 0).mem (sramPa 0 0) 4 0x00844300 }
theorem wit_StepRunsDecoded : fetched.agenda = [] ∧ fetched.regWrites = [] ∧ fetched.stalled = false ∧ (stream fetched 0 false).run = some 0 ∧ mayIssue fetched 0 = true
    ∧ (slot fetched 0 0).wait = none ∧ (stream fetched 0 false).fbuf = [] ∧ fetchTrap fetched 0 (stream fetched 0 false).pc = none
    ∧ wordAt fetched 0 (stream fetched 0 false).pc = 0x00844300 ∧ anyPending fetched 0 0 (stream fetched 0 false).pc = false := by
  decide +kernel
theorem wit_StepRunsDecoded_decode : decode (bytesOfWord 0x00844300) = .ok (.add 0 1 2 3, []) := by rfl
theorem wit_EveryStepCompletes : (∀ i ∈ (on 0).agenda, encode i = none) ∧ (ctxOf (on 0)).isSome = true ∧ encode .heartbeatSend = none
    ∧ encode (.add 0 1 2 3) = some 0x00844300 ∧ ctxOf State.reset = none := by
  decide +kernel
theorem wit_RoundTrip : encode (.fencex 7 6 0) = some 0xFE80C001 ∧ 0xFE80C001 < 2 ^ 32 := by decide +kernel
theorem wit_RoundTrip_decode : decodeTableWord 32 0xFE80C001 = some (.fencex 7 6 0) := by decide +kernel

/-! ## Ill-formed terms, one for each check -/

theorem test_wf_destination : (Instr.ld 0 25 1 0).wf = false ∧ (Instr.ld 0 24 1 0).wf = true := by decide
theorem test_wf_scope : (Instr.fence 0 5).wf = false ∧ (Instr.fence 0 4).wf = true := by decide
theorem test_wf_class : (Instr.fencex 0 7 0).wf = false ∧ (Instr.fencex 0 0 7).wf = false ∧ (Instr.fencex 0 6 6).wf = true := by decide
theorem test_wf_body : (Instr.vloop 0 0 1 2).wf = false ∧ (Instr.vloop 0 17 1 2).wf = false ∧ (Instr.vloop 0 16 1 2).wf = true := by decide
theorem test_wf_pairing : (Instr.vexp2 0 1 2 3).wf = false ∧ (Instr.vexp2 0 1 2 6).wf = true ∧ (Instr.vconv 0 1 2 9 9).wf = false ∧ (Instr.vconv 0 1 2 9 8).wf = true := by decide

/-! ## One step: hand calculations -/

/-- 1.0 + 2.0 = 3.0, and infinity times zero is the canonical NaN (R38, R111). -/
theorem test_fadd : reg (exec (.fadd 0 1 2 3 1) (two 0x3FF0000000000000 0x4000000000000000)) 0 0 1 = some 0x4008000000000000 := by decide +kernel
theorem test_fmul_invalid : reg (exec (.fmul 0 1 2 3 1) (two 0x7FF0000000000000 0)) 0 0 1 = some 0x7FF8000000000000 := by decide +kernel
/-- Little-endian bytes: the low byte of a double is at its address (R30). -/
theorem test_ld : reg (exec (.lbu 0 1 2 1) { two 0x00FFFFFFFFFC4000 0 with mem := wrN (two 0x00FFFFFFFFFC4000 0).mem (sramPa 0 0x4000) 8 0x1122334455667788 }) 0 0 1
    = some 0x77 := by decide +kernel
theorem test_ld_sign : reg (exec (.lb 0 1 2 0) { two 0x00FFFFFFFFFC4000 0 with mem := wrN (two 0x00FFFFFFFFFC4000 0).mem (sramPa 0 0x4000) 8 0x1122334455667788 }) 0 0 1
    = some 0xFFFFFFFFFFFFFF88 := by decide +kernel
/-- A taken branch: pc + 4 x 3 (R49). -/
theorem test_beq : look (exec (.beq 0 2 2 3) (two 5 5)) (fun t => (stream t 0 false).pc) = some 0x00FFFFFFFFFC000C := by decide +kernel
theorem test_himm : reg (exec (.himm 0 1 0x3FFFF) (on 0)) 0 0 1 = some 0xFFFFFFFFFFFFC000 := by decide +kernel
/-- A word of zeros is no instruction: ILLEGAL, and the traveller is TRAPPED (R59). -/
theorem test_step_illegal : look (step (on 0)) (fun t => (stateOf t 0 0, (slot t 0 0).trap)) = some (.trapped, some { cause := .illegal }) := by decide +kernel
/-- The first instruction after reset: ADDI g1, zr, 5. -/
theorem test_step_first : reg (step (State.reset.withFetchWord 32 0x01870005)) 0 0 1 = some 5 := by decide +kernel
/-- The expansions of R65: NOP is the word 0x01E3_0000, and 100,000 = 12 x 8,192 + 1,696; a wait suffix goes to the last word. -/
theorem test_nop : ((Pseudo.nop.expand 0).map fun l => l.map encode) = some [some 0x01E30000] := by decide +kernel
theorem test_setv : (Pseudo.setv 3 100000).expand 2 = some [.himm 0 3 12, .srai 0 3 3 1, .addi 2 3 3 1696] := by decide +kernel

/-! ## Witnesses: arrivals, stealing, management accesses and plans -/

/-- A thief whose request is answered with a task: an idle core, or one that runs again meanwhile. -/
def robbed (s : State) : State := { s with flights := [.stealRep 0 (some someTask)] }
/-- A plan entry that is written with EN: a multicast of 16 bytes without a node, or one of no bytes. -/
def written (v : Nat) : State := putPlan up 0 0 (BitVec.ofNat 128 v)
/-- A read of another cube's register through port 0, and its answer. -/
def mgAway : Sent := { pkt := { mgPacket with dcube := 5 } }
def mgBack : Packet := packetOf5 10 (.resp 0 0 [(7, false)])
def managing : State := { up with net := { up.net with retry := [mgAway], inbox := [mgBack] } }
/-- The steward's area has room for a message, or none; another item waits for it. -/
def fullMail (room : Nat) (w : List SpillItem) : State :=
  updPart (putReg { up with msgFlight := [(6400, letter)], tmsgs := [(6400, List.replicate 256 letter)] } islandBlk 0x1118 room) 0 fun q => { q with spillWait := w }

theorem wit_TravellersLeave : coreOutstanding (on 0) 0 false 0 = false ∧ countPort (on 0) (slot (on 0) 0 0).hdr.lcube (slot (on 0) 0 0).hdr.lslot = false
    ∧ Quiet data X0 ∧ pendMet X0 (now data X0) 0x4000 64 = false ∧ countPort data 0 0 = false ∧ countPort data 0 1 = false ∧ Quiet boss XS
    ∧ readStep XC (now chan6 XC) (sramPa 6144 0x8000) 64 = none ∧ readStep XX (now chanX XX) (sramPa 6144 0x8000) (bankCtl 0).len = none
    ∧ (let s := updSlot (setState idleUp 0 0 .migrating) 0 0 fun k => { k with move := some { core := 1, cube := 5, addr := 0, acked := true }, heldWakes := 2 }
      stateOf s 0 0 = .migrating ∧ (slot s 0 0).move = some { core := 1, cube := 5, addr := 0, acked := true } ∧ cubeId s ≠ 5)
    ∧ (let s := robbed empty0
      s.flights[0]? = some (.stealRep 0 (some someTask)) ∧ arrivalWaits s 0 = false ∧ (Machine.core s 0).isSealed = false ∧ (Machine.core s 0).sealing = false
        ∧ coreIdle { s with flights := [] } 0 = true ∧ freeSlot { s with flights := [] } 0 = some 0)
    ∧ (let s := robbed (on 0)
      arrivalWaits s 0 = false ∧ coreIdle { s with flights := [] } 0 = false ∧ (Machine.core s 0).deque.length < 64)
    ∧ (let s := { setState idleUp 0 0 .stranded with strandOrder := [(0, 0)] }
      spillable s 0 0 = true ∧ stateOf s 0 0 = .stranded ∧ strandTurn s 0 0 = true) := by
  and_intros <;> decide +kernel

theorem wit_HostAndCores : partEn queue5 0 = true ∧ (port queue5 0).vfsOff.contains 0 = false ∧ partEn queueC 0 = true ∧ owned3.latent = [] ∧ owned3.softErr = []
    ∧ (let g := recordFound (qSet asked 0 5 159 128 1) 0 0x80000
      (match readRecord g 0 0x80000 with | .ok r => decide (r = record0) | _ => false) = true ∧ recordCode g 0 (qVf asked 0 5) record0 = 0)
    ∧ ctOff lined 0 % 32 = 0 ∧ (∀ d ∈ [CompState.bringup, .quiesce, .run], ∀ c ∈ coresOfQuad 5,
      idleCore { putReg up dispBlk 0 0x10001 with comp := d } c = true ∧ inReserve { putReg up dispBlk 0 0x10001 with comp := d } c = false)
    ∧ (∀ n ∈ (moveTo false).moves, n.core < 0 → scrubDue (moveTo false) n = false) ∧ (∀ n ∈ (moveTo true).moves, n.core < 0 → n.scrubbed = false)
    ∧ managing.ws ≠ .off ∧ managing.ws ≠ .boot ∧ managing.net.retry.find? (fun x => mgPort x == some 0) = some mgAway ∧ mgAway.pkt.kind = 11
    ∧ mgAway.pkt.payload = .mgmt false 0 0 ∧ mgAway.who = none ∧ mgAway.also = none
    ∧ managing.net.inbox.findIdx? (fun q => q.msgid == mgAway.pkt.msgid && q.scube == mgAway.pkt.dcube && q.kind == 10) = some 0
    ∧ managing.net.inbox[0]? = some mgBack ∧ sentFor managing mgBack = some mgAway
    ∧ { State.reset with ws := .full }.memDom = .off ∧ (760 : Int) ≤ 950 ∧ (64 : Nat) ≤ 79 ∧ { up with fw := { up.fw with hotTowers := [1] } }.fw.hotTowers.contains (7 / 4) = true
    ∧ (∀ r ∈ [vadd0 1 2 0, vadd0 1 0 0x00FFFFFFFFFC4000, vadd0 1 0 0], vecNext (coach r) 0 = some r)
    ∧ (let r : Rec := { recOf 0x07000006 0 0 0 with b := 16 }
      (Machine.core (couriers r) 0).courierQ = [r] ∧ r.active = false ∧ r.st = 0 ∧ r.fn = 6)
    ∧ meetsRetired (on 12288) (dramPa 0 0) 1024 = false ∧ (∀ i, i < 1024 → takesByte (on 12288) (dramPa 0 0 + i) = true) := by
  decide +kernel

theorem wit_MapAndNetwork : netDown (inboxOf { packetOf5 20 .heartbeat with dcube := 9 }) = false ∧ netDown (inboxOf (packetOf5 12 .heartbeat)) = false
    ∧ (∀ q ∈ [packetOf5 9 (.atomic 1 8 0), packetOf5 6 (.bar 31 0 1)], nextOfConn (inboxOf q) 0 q = true ∧ q.fwd = false ∧ q.scube ≠ cubeId (inboxOf q))
    ∧ (let x : Sent := { sentOf (.data []) 7 with pkt := { (sentOf (.data []) 7).pkt with kind := 7 } }
      (waitingFor x (answer 3)).net.retry[0]? = some x ∧ x.pkt.tryNo = 7)
    ∧ (∀ v ∈ walking.walks.eraseIdx 0, v.part ≠ 0)
    ∧ planEn up 0 0 = false ∧ ((1 ||| 0x1003 : Word).toNat &&& planMask) - 1 = 0x1002 ∧ planFits (written 0x1002) 0 0 = true ∧ planFits (written 2) 0 0 = false
    ∧ planEn planned 0 0 = true ∧ ownerOk planned .island = true ∧ (getReg planned islandBlk 0x0800).toNat = 0
    ∧ (∀ w ∈ [[], [SpillItem.notice 6400 letter]], (part (fullMail 1 w) 0).spillWait = w ∧ 256 ≤ (mget [] (fullMail 1 w).tmsgs 6400).length
      ∧ spillFits (fullMail 1 w) letter.part 128 = true ∧ spillFits (fullMail 0 w) letter.part 128 = false)
    ∧ (part (fullMail 1 [.post 0 []]) 0).spillWait.head? ≠ some (.notice 6400 letter) := by
  decide +kernel
end Sys2Proof.Tests
end

section
/-! PROOFS. What an instruction of each scalar form answers, told by its word and its execution. -/

namespace Sys2Proof.Machine

/-! ## Forms: the word fixes the wait field, the execution fixes the result (R98, R104) -/

section forms
variable {i : Instr} {m : Nat} {w : BitVec 3} {d a b : BitVec 5} {s : State} {x : Ctx} {lat fare : Nat}

theorem answers_int3 {f : Word → Word → Word} {v : Word} (hi : exec i s = int3 m w d a b s lat fare f)
    (he : encode i = some (plc 29 w (plc 18 d (plc 13 a (plc 8 b m))))) (hd : destOk d = true) (hc : Clean s x [a, b])
    (hv : f (x.val s a) (x.val s b) = v) (hm : m + 2 ^ 23 ≤ 2 ^ 29 := by norm_num) :
    Answers s x i [a, b] (wrote w fare x s d v lat) := by
  rintro ⟨hx, hr, ha, hp⟩
  rw [hi, ← hv]
  exact int3_next m w d a b s x lat fare hm f hd hc hx hr (ha _ (plc_word3 m w d a b ▸ he)) hp

theorem answers_int2 {f : Word → Word} {v : Word} (hi : exec i s = int2 m w d a s f)
    (he : encode i = some (plc 29 w (plc 18 d (plc 13 a m)))) (hd : destOk d = true) (hc : Clean s x [a])
    (hv : f (x.val s a) = v) (hm : m + 2 ^ 23 ≤ 2 ^ 29 := by norm_num) :
    Answers s x i [a] (wrote w 0 x s d v 1) := by
  rintro ⟨hx, hr, ha, hp⟩
  rw [hi, ← hv]
  exact int2_next m w d a s x hm f hd hc hx hr (ha _ (plc_word3_da m w d a ▸ he)) hp

theorem answers_int3d {f : Word → Word → Word → Word} {v : Word} (hi : exec i s = int3d m w d a b s f)
    (he : encode i = some (plc 29 w (plc 18 d (plc 13 a (plc 8 b m))))) (hd : destOk d = true) (hc : Clean s x [a, b, d])
    (hv : f (x.val s d) (x.val s a) (x.val s b) = v) (hm : m + 2 ^ 23 ≤ 2 ^ 29 := by norm_num) :
    Answers s x i [a, b, d] (wrote w 0 x s d v 1) := by
  rintro ⟨hx, hr, ha, hp⟩
  rw [hi, ← hv]
  exact int3d_next m w d a b s x hm f hd hc hx hr (ha _ (plc_word3 m w d a b ▸ he)) hp

/-- A form with a 13-bit immediate; its word is given as a number, since the shift forms build the field from two parts (R105). -/
theorem answers_intI {imm : BitVec 13} {f : Word → Word} {v : Word} {n : Nat} (hi : exec i s = intI m w d a imm s f)
    (he : encode i = some n) (hn : n = wordI m w d a imm) (hd : destOk d = true) (hc : Clean s x [a])
    (hv : f (x.val s a) = v) (hm : m + 2 ^ 23 ≤ 2 ^ 29 := by norm_num) :
    Answers s x i [a] (wrote w 0 x s d v 1) := by
  rintro ⟨hx, hr, ha, hp⟩
  rw [hi, ← hv]
  exact intI_next m w d a s x imm hm f hd hc hx hr (ha _ (hn ▸ he)) hp

/-- A form with an 18-bit immediate, which reads no register (R106). -/
theorem answers_intU {imm : BitVec 18} {f : Ctx → Word} {v : Word}
    (hi : exec i s = issue { word := word3 m w d + imm.toNat, legal := destOk d } s fun x s => .next (x.wr s (rn d) (f x) 1))
    (he : encode i = some (plc 29 w (plc 18 d (plc 0 imm m)))) (hd : destOk d = true) (hv : f x = v)
    (hm : m + 2 ^ 23 ≤ 2 ^ 29 := by norm_num) :
    Answers s x i [] (wrote w 0 x s d v 1) := by
  rintro ⟨hx, hr, ha, hp⟩
  have hword : plc 29 w (plc 18 d (plc 0 imm m)) = word3 m w d + imm.toNat := by simp [plc, word3]; ring
  have hwait : (word3 m w d + imm.toNat) / 2 ^ 29 % 8 = w.toNat := by
    have := w.isLt; have := d.isLt; have := imm.isLt
    rw [word3, show (0 : BitVec 5).toNat = 0 from rfl]; omega
  rw [hi, ← hv]
  exact issue_after _ s _ x w [] _ hx hr (ha _ (hword ▸ he)) hp hd rfl (by simp) (by simp) (by simp) hwait rfl

end forms

/-! ## Counts of zero bits (R101) -/

theorem clzFrom_spec (a : Word) : ∀ n, clzFrom a n ≤ n ∧ (∀ i, i < n → n ≤ i + clzFrom a n → a.getLsbD i = false)
    ∧ (clzFrom a n < n → a.getLsbD (n - 1 - clzFrom a n) = true)
  | 0 => by simp [clzFrom]
  | n + 1 => by
    obtain ⟨hle, hzero, hone⟩ := clzFrom_spec a n
    unfold clzFrom
    split
    · next h => exact ⟨by omega, fun i hi hk => by omega, fun _ => h⟩
    · next h =>
      refine ⟨by omega, fun i hi hk => ?_, fun hk => ?_⟩
      · rcases Nat.lt_succ_iff_lt_or_eq.mp hi with hi | rfl
        · exact hzero i hi (by omega)
        · simpa using h
      · rw [show n + 1 - 1 - (1 + clzFrom a n) = n - 1 - clzFrom a n by omega]
        exact hone (by omega)

theorem ctzFrom_spec (a : Word) : ∀ n i, ctzFrom a i n ≤ n ∧ (∀ j, i ≤ j → j < i + ctzFrom a i n → a.getLsbD j = false)
    ∧ (ctzFrom a i n < n → a.getLsbD (i + ctzFrom a i n) = true)
  | 0, i => by simp only [ctzFrom]; exact ⟨le_rfl, fun j h1 h2 => by omega, fun h => by omega⟩
  | n + 1, i => by
    obtain ⟨hle, hzero, hone⟩ := ctzFrom_spec a n (i + 1)
    unfold ctzFrom
    split
    · next h => exact ⟨by omega, fun j h1 h2 => by omega, fun _ => h⟩
    · next h =>
      refine ⟨by omega, fun j h1 h2 => ?_, fun hk => ?_⟩
      · rcases Nat.eq_or_lt_of_le h1 with rfl | h1
        · simpa using h
        · exact hzero j h1 (by omega)
      · rw [show i + (1 + ctzFrom a (i + 1) n) = i + 1 + ctzFrom a (i + 1) n by omega]
        exact hone (by omega)

theorem clz_leading_zeros (a : Word) (i : Nat) (h : 64 ≤ i + clzFrom a 64) : a.getLsbD i = false := by
  obtain ⟨-, hzero, -⟩ := clzFrom_spec a 64
  by_cases hi : i < 64
  · exact hzero i hi h
  · exact BitVec.getLsbD_of_ge a i (by omega)

/-! ## Reversal, quotients, remainders and bit fields (R101, R102) -/

theorem reverse_get (a : Word) (i : Nat) (h : i < 64) : a.reverse.getLsbD i = a.getLsbD (63 - i) := by
  rw [BitVec.getLsbD_reverse, BitVec.getMsbD]
  simp [h]

theorem divU_eq (a b : Word) : divU a b = if b = 0 then BitVec.allOnes 64 else a / b := by
  rw [divU, BitVec.udiv_def]
theorem remU_eq (a b : Word) : remU a b = if b = 0 then a else a % b := by
  rw [remU, BitVec.umod_def]

theorem fieldLen_le (b : Word) : fieldLen b ≤ 64 := by unfold fieldLen; split <;> omega

/-- EXTS copies the top bit of the field upwards. -/
theorem exts_get (a b : Word) (i : Nat) (h : i < 64) :
    (sextBit (extu a b) (fieldLen b - 1)).getLsbD i = (extu a b).getLsbD (min i (fieldLen b - 1)) :=
  sext_spec (extu a b) (fieldLen b - 1) i (by have := fieldLen_le b; omega) h

/-- The mask of INS covers the field and nothing else. -/
theorem insMask_get (b : Word) (i : Nat) (h : i < 64) :
    (insMask b).getLsbD i = decide (fieldPos b ≤ i ∧ i < fieldPos b + fieldLen b) := by
  rw [insMask, BitVec.getLsbD_ofNat, Nat.testBit_mul_two_pow, Nat.testBit_two_pow_sub_one, ← Bool.decide_and]
  simp only [h, decide_true, Bool.true_and, decide_eq_decide]
  omega

theorem ins_get (old a b : Word) (i : Nat) (h : i < 64) :
    ((old &&& ~~~(insMask b)) ||| ((a <<< fieldPos b) &&& insMask b)).getLsbD i
      = if fieldPos b ≤ i ∧ i < fieldPos b + fieldLen b then a.getLsbD (i - fieldPos b) else old.getLsbD i := by
  rw [BitVec.getLsbD_or, BitVec.getLsbD_and, BitVec.getLsbD_and, BitVec.getLsbD_not, insMask_get b i h, BitVec.getLsbD_shiftLeft]
  split
  · next hin =>
    obtain ⟨hlo, hhi⟩ := hin
    simp [h, hlo, hhi]
  · next hin => simp [h, hin]

/-! ## Immediate and shift operands (R104, R105) -/

/-- The word of a form with a 13-bit immediate and no function field: its constant bits are the major opcode (R49). -/
theorem wordI_major (k : Nat) (w : BitVec 3) (d a : BitVec 5) (i : BitVec 13) :
    wordI (k * 2 ^ 23) w d a i = w.toNat * 2 ^ 29 + k * 2 ^ 23 + d.toNat * 2 ^ 18 + a.toNat * 2 ^ 13 + i.toNat := by
  rw [wordI, Nat.add_comm (k * 2 ^ 23)]

/-- The word of a shift form: bits [12:11] name the operation, bits [5:0] the amount. -/
theorem plc_shImm (op : Nat) (hop : op < 4) (w : BitVec 3) (d a : BitVec 5) (h : BitVec 6) :
    plc 29 w (plc 18 d (plc 13 a (plc 0 h (0x4800000 + op * 2 ^ 11)))) = wordI 0x04800000 w d a (shImm op h) := by
  have := h.isLt
  simp only [plc, wordI, shImm, BitVec.toNat_ofNat]
  omega

theorem rorW_eq (a : Word) (n : Nat) (h : n < 64) : rorW a n = a.rotateRight n := by
  rw [BitVec.rotateRight_def, Nat.mod_eq_of_lt h, rorW]

/-! ## Targets of branches (R107, R124) -/

/-- Byte `n` of the core's SRAM lies in its code region. -/
def InCode (s : State) (c n : Nat) : Prop := n < sramSize c ∧ n < (core s c).lmwsb

/-- `t` names byte `n` of the core's SRAM, by its local address or through the core's own window (R107). -/
def Names (c : Nat) (t : Word) (n : Nat) : Prop := t.toNat = aliasBase c + n ∨ t.toNat = windowBase c + n

theorem regionOf_eq_code_iff (s : State) (c n : Nat) : regionOf s c n = .code ↔ InCode s c n := by
  unfold regionOf InCode
  split_ifs <;> simp <;> omega

/-- The window of a core ends below its local addresses; an absent core has no SRAM to name. -/
theorem window_lt_aliasBase (c n : Nat) : n < sramSize c → windowBase c + n < aliasBase c := by
  unfold sramSize windowBase aliasBase kindOf
  split_ifs <;> simp <;> omega

theorem codeTarget_of_names (s : State) (c n : Nat) (t : Word) (hn : InCode s c n) (ht : Names c t n) :
    codeTarget s c t = some (BitVec.ofNat 64 (aliasBase c + n)) := by
  have hcode := (regionOf_eq_code_iff s c n).mpr hn
  obtain ⟨hlt, -⟩ := hn
  unfold codeTarget
  rcases ht with ht | ht
  · have hin : aliasBase c ≤ t.toNat ∧ t.toNat < aliasBase c + sramSize c := by omega
    simp [hin, show t.toNat - aliasBase c = n by omega, hcode]
  · have hout : ¬ (aliasBase c ≤ t.toNat ∧ t.toNat < aliasBase c + sramSize c) := by
      have := window_lt_aliasBase c n hlt
      omega
    have hin : windowBase c ≤ t.toNat ∧ t.toNat < windowBase c + sramSize c := by omega
    simp [hout, hin, show t.toNat - windowBase c = n by omega, hcode]

/-- A target that is taken names a byte of the code region. -/
theorem names_of_codeTarget (s : State) (c : Nat) (t pc : Word) (h : codeTarget s c t = some pc) :
    ∃ n, InCode s c n ∧ Names c t n := by
  unfold codeTarget at h
  dsimp only at h
  split at h
  · next o ho =>
    split at h
    · next hcode =>
      refine ⟨o, (regionOf_eq_code_iff s c o).mp hcode, ?_⟩
      unfold Names
      split_ifs at ho <;> injection ho <;> omega
    · cases h
  · cases h

theorem codeTarget_eq_none (s : State) (c : Nat) (t : Word) (h : ∀ n, InCode s c n → ¬ Names c t n) : codeTarget s c t = none := by
  cases ht : codeTarget s c t with
  | none => rfl
  | some pc =>
    obtain ⟨n, hn, hnames⟩ := names_of_codeTarget s c t pc ht
    exact absurd hnames (h n hn)

@[simp] theorem codeTarget_now (s : State) (x : Ctx) (c : Nat) (t : Word) : codeTarget (now s x) c t = codeTarget s c t := by
  obtain ⟨m, st, h, -⟩ := now_eq s x
  rw [h]; rfl

/-! ## Checks of operands in the state of issue (R52, R99) -/

theorem poisoned_now_of_clean {s : State} {x : Ctx} {rs : List (BitVec 5)} (h : Clean s x rs) :
    ∀ r ∈ rs.map BitVec.toNat, x.poisoned (now s x) r = false := by
  simpa [Clean] using h

theorem pendOf_now_of_readable {s : State} {x : Ctx} {rs : List (BitVec 5)}
    (h : ∀ r ∈ rs, pendOf (stream s x.c x.x) r.toNat x.t = none) :
    ∀ r ∈ rs.map BitVec.toNat, pendOf (stream (now s x) x.c x.x) r x.t = none := by
  rw [List.forall_mem_map]
  exact fun r hr => (pendOf_now s x _ _ r.isLt).trans (h r hr)

/-- An issue whose checks pass and whose body traps (R377). -/
theorem issue_trap (i : Issue) (s : State) (x : Ctx) (body : Ctx → State → Act) (t : TrapInfo) (hx : ctxOf s = some x)
    (hr : x.reply = none) (ht : issueTrap i x (now s x) = none) (hb : body x (now s x) = .trap t) :
    issue i s body = .next (trapped x s t) := by
  rw [issue_body i s x body hx hr ht, hb]
  rfl

/-! ## Conditional branches (R121) -/

section branches
variable {i : Instr} {m : Nat} {w : BitVec 3} {a b : BitVec 5} {o : BitVec 13} {s : State} {x : Ctx} {f : Word → Word → Bool}

/-- Instruction `i` is the branch of condition `f` with the constant bits `m`. -/
def IsBranch (i : Instr) (m : Nat) (w : BitVec 3) (a b : BitVec 5) (o : BitVec 13) (f : Word → Word → Bool) : Prop :=
  (∀ s, exec i s = branch m w a b o s f) ∧ encode i = some (wordI m w a b o) ∧ m + 2 ^ 23 ≤ 2 ^ 29

theorem branch_fallsThrough (hi : IsBranch i m w a b o f) (hc : Clean s x [a, b]) (hf : f (x.val s a) (x.val s b) = false) :
    Answers s x i [a, b] (after w 0 x (now s x)) := by
  obtain ⟨hexec, henc, hm⟩ := hi
  rintro ⟨hx, hr, ha, hp⟩
  rw [hexec]
  refine issue_after _ s _ x w [a, b] _ hx hr (ha _ henc) hp rfl rfl (by simp) (by simp) (poisoned_now_of_clean hc) (wordI_wait m hm w a b o) ?_
  simp only [rd_now]
  rw [if_neg (by simpa [Ctx.val] using hf)]

theorem branch_taken (hi : IsBranch i m w a b o f) (hc : Clean s x [a, b]) (hf : f (x.val s a) (x.val s b) = true) {pc : Word}
    (ht : codeTarget s x.c (target x.pc o) = some pc) :
    Answers s x i [a, b] (afterJump w 0 x (now s x) pc) := by
  obtain ⟨hexec, henc, hm⟩ := hi
  rintro ⟨hx, hr, ha, hp⟩
  rw [hexec]
  refine issue_jump _ s _ pc x w [a, b] _ hx hr (ha _ henc) hp rfl rfl (by simp) (by simp) (poisoned_now_of_clean hc) (wordI_wait m hm w a b o) ?_
  simp only [rd_now]
  rw [if_pos (by simpa [Ctx.val] using hf)]
  simp [jumpTo, ht]

theorem branch_outOfCode (hi : IsBranch i m w a b o f) (hc : Clean s x [a, b]) (hf : f (x.val s a) (x.val s b) = true)
    (ht : codeTarget s x.c (target x.pc o) = none) :
    Answers s x i [a, b] (trapped x s { cause := .bounds, addr := target x.pc o }) := by
  obtain ⟨hexec, henc, hm⟩ := hi
  rintro ⟨hx, hr, ha, hp⟩
  rw [hexec]
  have hchecks := issueTrap_none { word := wordI m w a b o, reads := [rn a, rn b], sync := [rn a, rn b] } x (now s x) rfl (ha _ henc)
    (by simp) (by simp) (pendOf_now_of_readable hp) (poisoned_now_of_clean hc)
  refine issue_trap _ s x _ _ hx hr hchecks ?_
  simp only [rd_now]
  rw [if_pos (by simpa [Ctx.val] using hf)]
  simp [jumpTo, ht]

end branches

/-- The six conditional branches with their conditions, as statements about values. -/
theorem isBranch_of_mem (A B : Word) (w : BitVec 3) (a b : BitVec 5) (o : BitVec 13) :
    ∀ e ∈ [(Instr.beq w a b o, decide (A = B)), (.bne w a b o, decide (A ≠ B)), (.blt w a b o, decide (A.toInt < B.toInt)),
        (.bge w a b o, decide (B.toInt ≤ A.toInt)), (.bltu w a b o, decide (A.toNat < B.toNat)), (.bgeu w a b o, decide (B.toNat ≤ A.toNat))],
      ∃ m f, IsBranch e.1 m w a b o f ∧ f A B = e.2 := by
  have henc (m : Nat) := congrArg some (plc_wordI m w a b o)
  simp only [List.forall_mem_cons]
  refine ⟨⟨_, _, ⟨exec_beq w a b o, henc _, by norm_num⟩, ?_⟩, ⟨_, _, ⟨exec_bne w a b o, henc _, by norm_num⟩, ?_⟩,
    ⟨_, _, ⟨exec_blt w a b o, henc _, by norm_num⟩, ?_⟩, ⟨_, _, ⟨exec_bge w a b o, henc _, by norm_num⟩, ?_⟩,
    ⟨_, _, ⟨exec_bltu w a b o, henc _, by norm_num⟩, ?_⟩, ⟨_, _, ⟨exec_bgeu w a b o, henc _, by norm_num⟩, ?_⟩, by simp⟩
  · rfl
  · exact decide_not.symm
  · exact BitVec.slt_eq_decide
  · rw [BitVec.slt_eq_decide, ← decide_not, decide_eq_decide, not_lt]
  · exact BitVec.ult_eq_decide
  · rw [BitVec.ult_eq_decide, ← decide_not, decide_eq_decide, not_lt]

theorem encode_branches (w : BitVec 3) (a b : BitVec 5) (o : BitVec 13) :
    ∀ e ∈ [(Instr.beq w a b o, 0x20), (.bne w a b o, 0x21), (.blt w a b o, 0x22), (.bge w a b o, 0x23), (.bltu w a b o, 0x24),
        (.bgeu w a b o, 0x25)],
      encode e.1 = some (w.toNat * 2 ^ 29 + e.2 * 2 ^ 23 + a.toNat * 2 ^ 18 + b.toNat * 2 ^ 13 + o.toNat) := by
  have hw (k : Nat) := congrArg some ((plc_wordI (k * 2 ^ 23) w a b o).trans (wordI_major k w a b o))
  simp only [List.forall_mem_cons]
  exact ⟨hw 0x20, hw 0x21, hw 0x22, hw 0x23, hw 0x24, hw 0x25, by simp⟩

/-- Settles O8: the condition decides between the next word and the target; the target is taken exactly when it names a byte of
the code region. -/
theorem conditionalBranches : Obligations.ConditionalBranches := by
  intro s x w a b o A B T inCode hc e he
  obtain ⟨m, f, hi, hf⟩ := isBranch_of_mem A B w a b o e he
  refine ⟨fun h => branch_fallsThrough hi hc (hf.trans h), fun h n hn ht => ?_, fun h hout => ?_, encode_branches w a b o⟩
  · exact branch_taken hi hc (hf.trans h) (codeTarget_of_names s x.c n T hn ht)
  · exact branch_outOfCode hi hc (hf.trans h) (codeTarget_eq_none s x.c T fun n hn hnames => not_or.mpr (hout n hn) hnames)

/-! ## Immediate forms (R104 to R106) -/

theorem encode_immediates (w : BitVec 3) (d a : BitVec 5) (i : BitVec 13) :
    ∀ e ∈ [(Instr.addi w d a i, 3), (.andi w d a i, 4), (.ori w d a i, 5), (.xori w d a i, 6), (.slti w d a i, 7), (.sltiu w d a i, 8)],
      encode e.1 = some (w.toNat * 2 ^ 29 + e.2 * 2 ^ 23 + d.toNat * 2 ^ 18 + a.toNat * 2 ^ 13 + i.toNat) := by
  have hw (k : Nat) := congrArg some ((plc_wordI (k * 2 ^ 23) w d a i).trans (wordI_major k w d a i))
  simp only [List.forall_mem_cons]
  exact ⟨hw 3, hw 4, hw 5, hw 6, hw 7, hw 8, by simp⟩

/-- Settles O3: each form computes its function of the operand and the extended immediate. -/
theorem immediateResults : Obligations.ImmediateResults := by
  intro s x w d a i h u A I W bool hd
  have hlt := h.isLt
  have hI (m : Nat) := plc_wordI m w d a i
  refine ⟨fun hc => ⟨?_, ?_, ?_, ?_, ?_, ?_, ?_, ?_, ?_, ?_⟩, ?_, ?_, encode_immediates w d a i⟩
  · exact answers_intI (exec_addi w d a i s) rfl (hI _) hd hc rfl
  · exact answers_intI (exec_andi w d a i s) rfl (hI _) hd hc rfl
  · exact answers_intI (exec_ori w d a i s) rfl (hI _) hd hc rfl
  · exact answers_intI (exec_xori w d a i s) rfl (hI _) hd hc rfl
  · exact answers_intI (exec_slti w d a i s) rfl (hI _) hd hc (congrArg flag01 BitVec.slt_eq_decide)
  · exact answers_intI (exec_sltiu w d a i s) rfl (hI _) hd hc (congrArg flag01 BitVec.ult_eq_decide)
  · exact answers_intI (exec_slli w d a h s) rfl (plc_shImm 0 (by decide) w d a h) hd hc rfl
  · exact answers_intI (exec_srli w d a h s) rfl (plc_shImm 1 (by decide) w d a h) hd hc rfl
  · exact answers_intI (exec_srai w d a h s) rfl (plc_shImm 2 (by decide) w d a h) hd hc rfl
  · exact answers_intI (exec_rori w d a h s) rfl (plc_shImm 3 (by decide) w d a h) hd hc (rorW_eq A _ hlt)
  · exact answers_intU (f := fun _ => uimm u) (exec_himm w d u s) rfl hd rfl
  · exact answers_intU (f := fun x => x.pc + uimm u) (exec_pchi w d u s) rfl hd rfl

/-! ## Bits, products, quotients and fields (R101 to R103) -/

/-- Settles O2: each form's function is the one its rule states, bit by bit where the rule speaks of bits. -/
theorem bitAndMulResults : Obligations.BitAndMulResults := by
  constructor
  · intro s x w d a b A n W hd hc
    have hca : Clean s x [a] := by simpa [Clean] using hc a (by simp)
    obtain ⟨hclz, -, hclz1⟩ := clzFrom_spec A 64
    obtain ⟨hctz, hctz0, hctz1⟩ := ctzFrom_spec A 64 0
    refine ⟨⟨_, hclz, clz_leading_zeros A, hclz1, ?_⟩, ⟨_, hctz, fun i hi => hctz0 i (by omega) (by omega), by simpa using hctz1, ?_⟩, ?_,
      ⟨_, reverse_get A, ?_⟩, ⟨_, bswap_spec A, ?_⟩, ⟨_, fun i => sext_spec A n i (Nat.mod_lt _ (by norm_num)), ?_⟩⟩
    · exact answers_int2 (exec_clz w d a s) rfl hd hca rfl
    · exact answers_int2 (exec_ctz w d a s) rfl hd hca rfl
    · exact answers_int2 (exec_popc w d a s) rfl hd hca rfl
    · exact answers_int2 (exec_brev w d a s) rfl hd hca rfl
    · exact answers_int2 (exec_bswap w d a s) rfl hd hca rfl
    · exact answers_int3 (exec_sext w d a b s) rfl hd hc rfl
  · intro s x w d a b A B D pos len W V Q hd hc
    refine ⟨?_, ?_, ?_, ?_, ?_, ?_, ?_, ?_, ⟨_, ofBits_get _, ?_⟩, ⟨_, ofBits_get _, ?_⟩, ?_, ⟨_, exts_get A B, ?_⟩,
      fun hpd => ?_, rfl⟩
    · exact answers_int3 (exec_mul w d a b s) rfl hd hc rfl
    · exact answers_int3 (exec_mulh w d a b s) rfl hd hc rfl
    · exact answers_int3 (exec_mulhu w d a b s) rfl hd hc rfl
    · exact answers_int3 (exec_mulw w d a b s) rfl hd hc rfl
    · exact answers_int3 (exec_div w d a b s) rfl hd hc rfl
    · exact answers_int3 (exec_divu w d a b s) rfl hd hc (divU_eq A B)
    · exact answers_int3 (exec_rem w d a b s) rfl hd hc rfl
    · exact answers_int3 (exec_remu w d a b s) rfl hd hc (remU_eq A B)
    · exact answers_int3 (exec_bilv2 w d a b s) rfl hd hc rfl
    · exact answers_int3 (exec_bdil3 w d a b s) rfl hd hc rfl
    · exact answers_int3 (exec_extu w d a b s) rfl hd hc rfl
    · exact answers_int3 (exec_exts w d a b s) rfl hd hc rfl
    · have hcd : Clean s x [a, b, d] := by simpa [Clean, hpd] using hc
      refine ⟨⟨_, ofBits_get _, ?_⟩, ⟨_, ins_get D A B, ?_⟩⟩
      · exact answers_int3d (exec_bilv3 w d a b s) rfl hd hcd rfl
      · exact answers_int3d (exec_ins w d a b s) rfl hd hcd rfl

end Sys2Proof.Machine
end

section
/-! PROOFS. The decoder and the encoder agree (R48, R49, R56, R57): what the fields of an encoded word are, form by form, and what word
each arm of the decoder accepts. -/

namespace Sys2Proof

-- The lemmas of this section share the equations of the decoder: elaborated one after another they need a fraction of the memory.
set_option Elab.async false

/-! ## The fields of an encoded word (R48, R49) -/

theorem fld_eq_iff {n lo len : Nat} (v : BitVec len) : fld n lo len = v ↔ n / 2 ^ lo % 2 ^ len = v.toNat := by
  rw [← BitVec.toNat_inj, fld, BitVec.toNat_ofNat]

theorem fixedIf_true (m f : Nat) (i : Instr) : fixedIf m f true i = .ok i := rfl

/-- The word of `i` has 32 bits and decodes to `i`. -/
def Decodes (i : Instr) : Prop := ∀ n, encode i = some n → n < 2 ^ 32 ∧ decodeWord n = .ok i

section majors
variable {n : Nat}

theorem decodeWord_alu (h : bitsAt n 23 6 = 1) : decodeWord n = decodeAlu n := by rw [decodeWord, h]; rfl
theorem decodeWord_atom (h : bitsAt n 23 6 = 59) : decodeWord n = decodeAtom n := by rw [decodeWord, h]; rfl
theorem decodeWord_bar (h : bitsAt n 23 6 = 62) : decodeWord n = decodeBar n := by rw [decodeWord, h]; rfl
theorem decodeWord_cha (h : bitsAt n 23 6 = 57) : decodeWord n = decodeCha n := by rw [decodeWord, h]; rfl
theorem decodeWord_chx (h : bitsAt n 23 6 = 58) : decodeWord n = decodeChx n := by rw [decodeWord, h]; rfl
theorem decodeWord_coach (h : bitsAt n 23 6 = 56) : decodeWord n = decodeCoach n := by rw [decodeWord, h]; rfl
theorem decodeWord_cpy (h : bitsAt n 23 6 = 14) : decodeWord n = decodeCpy n := by rw [decodeWord, h]; rfl
theorem decodeWord_csr (h : bitsAt n 23 6 = 31) : decodeWord n = decodeCsr n := by rw [decodeWord, h]; rfl
theorem decodeWord_fence (h : bitsAt n 23 6 = 61) : decodeWord n = decodeFence n := by rw [decodeWord, h]; rfl
theorem decodeWord_fma (h : bitsAt n 23 6 = 13) : decodeWord n = decodeFma n := by rw [decodeWord, h]; rfl
theorem decodeWord_fpu (h : bitsAt n 23 6 = 12) : decodeWord n = decodeFpu n := by rw [decodeWord, h]; rfl
theorem decodeWord_info (h : bitsAt n 23 6 = 43) : decodeWord n = decodeInfo n := by rw [decodeWord, h]; rfl
theorem decodeWord_mulBit (h : bitsAt n 23 6 = 2) : decodeWord n = decodeMulBit n := by rw [decodeWord, h]; rfl
theorem decodeWord_pbr (h : bitsAt n 23 6 = 40) : decodeWord n = decodePbr n := by rw [decodeWord, h]; rfl
theorem decodeWord_pred (h : bitsAt n 23 6 = 41) : decodeWord n = decodePred n := by rw [decodeWord, h]; rfl
theorem decodeWord_que (h : bitsAt n 23 6 = 29) : decodeWord n = decodeQue n := by rw [decodeWord, h]; rfl
theorem decodeWord_red (h : bitsAt n 23 6 = 60) : decodeWord n = decodeRed n := by rw [decodeWord, h]; rfl
theorem decodeWord_ring (h : bitsAt n 23 6 = 15) : decodeWord n = decodeRing n := by rw [decodeWord, h]; rfl
theorem decodeWord_shi (h : bitsAt n 23 6 = 9) : decodeWord n = decodeShi n := by rw [decodeWord, h]; rfl
theorem decodeWord_sys (h : bitsAt n 23 6 = 30) : decodeWord n = decodeSys n := by rw [decodeWord, h]; rfl
theorem decodeWord_task (h : bitsAt n 23 6 = 42) : decodeWord n = decodeTask n := by rw [decodeWord, h]; rfl
theorem decodeWord_varith (h : bitsAt n 23 6 = 48) : decodeWord n = decodeVarith n := by rw [decodeWord, h]; rfl
theorem decodeWord_vmem (h : bitsAt n 23 6 = 54) : decodeWord n = decodeVmem n := by rw [decodeWord, h]; rfl
theorem decodeWord_vmx (h : bitsAt n 23 6 = 55) : decodeWord n = decodeVmx n := by rw [decodeWord, h]; rfl
theorem decodeWord_vperm (h : bitsAt n 23 6 = 51) : decodeWord n = decodeVperm n := by rw [decodeWord, h]; rfl
theorem decodeWord_vred (h : bitsAt n 23 6 = 50) : decodeWord n = decodeVred n := by rw [decodeWord, h]; rfl
theorem decodeWord_vseq (h : bitsAt n 23 6 = 53) : decodeWord n = decodeVseq n := by rw [decodeWord, h]; rfl
theorem decodeWord_vsfu (h : bitsAt n 23 6 = 52) : decodeWord n = decodeVsfu n := by rw [decodeWord, h]; rfl

end majors

theorem fields_dab {m n : Nat} {w : BitVec 3} {d : BitVec 5} {a : BitVec 5} {b : BitVec 5} (hn : plc 29 w (plc 18 d (plc 13 a (plc 8 b m))) = n)
    (hm : m < 2 ^ 29) (hz : m / 2 ^ 8 % 2 ^ 15 = 0) :
    n < 2 ^ 32 ∧ bitsAt n 23 6 = m / 2 ^ 23 ∧ bitsAt n 0 8 = m / 2 ^ 0 % 2 ^ 8 ∧ fld n 29 3 = w ∧ fld n 18 5 = d ∧ fld n 13 5 = a ∧ fld n 8 5 = b := by
  subst hn
  simp only [fld_eq_iff, bitsAt, plc]
  omega

theorem decodes_dab (w : BitVec 3) (d : BitVec 5) (a : BitVec 5) (b : BitVec 5) : ∀ e ∈ [
      Instr.add w d a b, .sub w d a b, .and w d a b, .or w d a b, .xor w d a b, .andn w d a b, .orn w d a b, .xnor w d a b, .sll w d a b,
      .srl w d a b, .sra w d a b, .rol w d a b, .ror w d a b, .slt w d a b, .sltu w d a b, .min w d a b, .max w d a b, .minu w d a b,
      .maxu w d a b, .seq w d a b, .sne w d a b, .addw w d a b, .subw w d a b, .sllw w d a b, .srlw w d a b, .sraw w d a b,
      .sext w d a b, .mul w d a b, .mulh w d a b, .mulhu w d a b, .mulw w d a b, .div w d a b, .divu w d a b, .rem w d a b,
      .remu w d a b, .bilv2 w d a b, .bilv3 w d a b, .bdil3 w d a b, .extu w d a b, .exts w d a b, .ins w d a b, .fmas w d a b,
      .fmad w d a b, .fnmas w d a b, .fnmad w d a b, .fmss w d a b, .fmsd w d a b, .copy w d a b, .copy2d w d a b, .putx w d a b,
      .getx w d a b, .mcast w d a b, .nred w d a b, .deq w d a b, .cdone w d a b, .purseadd w d a b, .vloop w d a b, .vmxpack w d a b,
      .vmxunpk w d a b, .vscale w d a b, .mma w d a b, .mmr w d a b, .mldc w d a b, .mstc w d a b, .maddc w d a b, .mstat w d a b,
      .dpush w d a b, .dpull w d a b, .bmac w d a b, .bred w d a b, .bclone w d a b, .bfill w d a b, .btest w d a b], Decodes e := by
  simp only [List.forall_mem_cons, List.not_mem_nil, IsEmpty.forall_iff, implies_true, and_true]
  and_intros
  all_goals
    intro n h
    obtain ⟨hlt, hmajor, hfun, hw, hd, ha, hb⟩ := fields_dab (Option.some.inj h) (by norm_num) (by norm_num)
    norm_num only at hmajor hfun
    exact ⟨hlt, by simp only [decodeWord_alu, decodeAlu, decodeWord_bar, decodeBar, decodeWord_cha, decodeCha, decodeWord_chx, decodeChx,
    decodeWord_coach, decodeCoach, decodeWord_cpy, decodeCpy, decodeWord_fma, decodeFma, decodeWord_mulBit, decodeMulBit, decodeWord_que,
    decodeQue, decodeWord_sys, decodeSys, decodeWord_vmx, decodeVmx, decodeWord_vseq, decodeVseq, hmajor, hfun, hw, hd, ha, hb]⟩

theorem fields_da {m n : Nat} {w : BitVec 3} {d : BitVec 5} {a : BitVec 5} (hn : plc 29 w (plc 18 d (plc 13 a m)) = n)
    (hm : m < 2 ^ 29) (hz : m / 2 ^ 8 % 2 ^ 15 = 0) :
    n < 2 ^ 32 ∧ bitsAt n 23 6 = m / 2 ^ 23 ∧ bitsAt n 0 8 = m / 2 ^ 0 % 2 ^ 8 ∧ bitsAt n 8 5 = 0 ∧ fld n 29 3 = w ∧ fld n 18 5 = d ∧ fld n 13 5 = a := by
  subst hn
  simp only [fld_eq_iff, bitsAt, plc]
  omega

theorem decodes_da (w : BitVec 3) (d : BitVec 5) (a : BitVec 5) : ∀ e ∈ [
      Instr.clz w d a, .ctz w d a, .popc w d a, .brev w d a, .bswap w d a, .wincopy w d a, .cchk w d a, .spawn w d a, .pusht w d a,
      .popt w d a, .homeof w d a, .wrfrm w d a, .macq w d a, .xqget w d a, .aqget w d a, .binit w d a, .barrive w d a, .bexpect w d a,
      .bwait w d a, .lantern w d a, .phase w d a], Decodes e := by
  simp only [List.forall_mem_cons, List.not_mem_nil, IsEmpty.forall_iff, implies_true, and_true]
  and_intros
  all_goals
    intro n h
    obtain ⟨hlt, hmajor, hfun, hzero, hw, hd, ha⟩ := fields_da (Option.some.inj h) (by norm_num) (by norm_num)
    norm_num only at hmajor hfun
    exact ⟨hlt, by simp only [decodeWord_alu, decodeAlu, decodeWord_bar, decodeBar, decodeWord_cha, decodeCha, decodeWord_chx, decodeChx,
    decodeWord_coach, decodeCoach, decodeWord_cpy, decodeCpy, decodeWord_info, decodeInfo, decodeWord_que, decodeQue, decodeWord_task,
    decodeTask, hmajor, hfun, hzero, hw, hd, ha, beq_self_eq_true, fixedIf_true]⟩

theorem fields_daImm13 {m n : Nat} {w : BitVec 3} {d : BitVec 5} {a : BitVec 5} {i : BitVec 13} (hn : plc 29 w (plc 18 d (plc 13 a (plc 0 i m))) = n)
    (hm : m < 2 ^ 29) (hz : m / 2 ^ 0 % 2 ^ 23 = 0) :
    n < 2 ^ 32 ∧ bitsAt n 23 6 = m / 2 ^ 23 ∧ fld n 29 3 = w ∧ fld n 18 5 = d ∧ fld n 13 5 = a ∧ fld n 0 13 = i := by
  subst hn
  simp only [fld_eq_iff, bitsAt, plc]
  omega

theorem decodes_daImm13 (w : BitVec 3) (d : BitVec 5) (a : BitVec 5) (i : BitVec 13) : ∀ e ∈ [
      Instr.addi w d a i, .andi w d a i, .ori w d a i, .xori w d a i, .slti w d a i, .sltiu w d a i, .ld w d a i, .lw w d a i,
      .lwu w d a i, .lh w d a i, .lhu w d a i, .lb w d a i, .lbu w d a i, .sd w d a i, .sw w d a i, .sh w d a i, .sb w d a i,
      .beq w d a i, .bne w d a i, .blt w d a i, .bge w d a i, .bltu w d a i, .bgeu w d a i, .jalr w d a i], Decodes e := by
  simp only [List.forall_mem_cons, List.not_mem_nil, IsEmpty.forall_iff, implies_true, and_true]
  and_intros
  all_goals
    intro n h
    obtain ⟨hlt, hmajor, hw, hd, ha, hi⟩ := fields_daImm13 (Option.some.inj h) (by norm_num) (by norm_num)
    norm_num only at hmajor
    exact ⟨hlt, by simp only [decodeWord, hmajor, hw, hd, ha, hi]⟩

theorem fields_daShift {m n : Nat} {w : BitVec 3} {d : BitVec 5} {a : BitVec 5} {h : BitVec 6} (hn : plc 29 w (plc 18 d (plc 13 a (plc 0 h m))) = n)
    (hm : m < 2 ^ 29) (hz : m / 2 ^ 0 % 2 ^ 11 = 0) (hy : m / 2 ^ 13 % 2 ^ 10 = 0) :
    n < 2 ^ 32 ∧ bitsAt n 23 6 = m / 2 ^ 23 ∧ bitsAt n 11 2 = m / 2 ^ 11 % 2 ^ 2 ∧ bitsAt n 6 5 = 0 ∧ fld n 29 3 = w ∧ fld n 18 5 = d ∧ fld n 13 5 = a ∧ fld n 0 6 = h := by
  subst hn
  simp only [fld_eq_iff, bitsAt, plc]
  omega

theorem decodes_daShift (w : BitVec 3) (d : BitVec 5) (a : BitVec 5) (h : BitVec 6) : ∀ e ∈ [
      Instr.slli w d a h, .srli w d a h, .srai w d a h, .rori w d a h], Decodes e := by
  simp only [List.forall_mem_cons, List.not_mem_nil, IsEmpty.forall_iff, implies_true, and_true]
  and_intros
  all_goals
    intro n h
    obtain ⟨hlt, hmajor, hfun, hzero, hw, hd, ha, hh⟩ := fields_daShift (Option.some.inj h) (by norm_num) (by norm_num) (by norm_num)
    norm_num only at hmajor hfun
    exact ⟨hlt, by simp only [decodeWord_shi, decodeShi, hmajor, hfun, hzero, hw, hd, ha, hh, beq_self_eq_true, fixedIf_true]⟩

theorem fields_dImm18 {m n : Nat} {w : BitVec 3} {d : BitVec 5} {i : BitVec 18} (hn : plc 29 w (plc 18 d (plc 0 i m)) = n)
    (hm : m < 2 ^ 29) (hz : m / 2 ^ 0 % 2 ^ 23 = 0) :
    n < 2 ^ 32 ∧ bitsAt n 23 6 = m / 2 ^ 23 ∧ fld n 29 3 = w ∧ fld n 18 5 = d ∧ fld n 0 18 = i := by
  subst hn
  simp only [fld_eq_iff, bitsAt, plc]
  omega

theorem decodes_dImm18 (w : BitVec 3) (d : BitVec 5) (i : BitVec 18) : ∀ e ∈ [
      Instr.himm w d i, .pchi w d i], Decodes e := by
  simp only [List.forall_mem_cons, List.not_mem_nil, IsEmpty.forall_iff, implies_true, and_true]
  and_intros
  all_goals
    intro n h
    obtain ⟨hlt, hmajor, hw, hd, hi⟩ := fields_dImm18 (Option.some.inj h) (by norm_num) (by norm_num)
    norm_num only at hmajor
    exact ⟨hlt, by simp only [decodeWord, hmajor, hw, hd, hi]⟩

theorem fields_dabFormat {m n : Nat} {w : BitVec 3} {d : BitVec 5} {a : BitVec 5} {b : BitVec 5} {t : BitVec 1} (hn : plc 29 w (plc 18 d (plc 13 a (plc 8 b (plc 6 t m)))) = n)
    (hm : m < 2 ^ 29) (hz : m / 2 ^ 6 % 2 ^ 17 = 0) :
    n < 2 ^ 32 ∧ bitsAt n 23 6 = m / 2 ^ 23 ∧ bitsAt n 0 6 = m / 2 ^ 0 % 2 ^ 6 ∧ bitsAt n 7 1 = 0 ∧ fld n 29 3 = w ∧ fld n 18 5 = d ∧ fld n 13 5 = a ∧ fld n 8 5 = b ∧ fld n 6 1 = t := by
  subst hn
  simp only [fld_eq_iff, bitsAt, plc]
  omega

theorem decodes_dabFormat (w : BitVec 3) (d : BitVec 5) (a : BitVec 5) (b : BitVec 5) (t : BitVec 1) : ∀ e ∈ [
      Instr.fadd w d a b t, .fsub w d a b t, .fmul w d a b t, .fdiv w d a b t, .fmin w d a b t, .fmax w d a b t, .feq w d a b t,
      .flt w d a b t, .fle w d a b t], Decodes e := by
  simp only [List.forall_mem_cons, List.not_mem_nil, IsEmpty.forall_iff, implies_true, and_true]
  and_intros
  all_goals
    intro n h
    obtain ⟨hlt, hmajor, hfun, hzero, hw, hd, ha, hb, ht⟩ := fields_dabFormat (Option.some.inj h) (by norm_num) (by norm_num)
    norm_num only at hmajor hfun
    exact ⟨hlt, by simp only [decodeWord_fpu, decodeFpu, hmajor, hfun, hzero, hw, hd, ha, hb, ht, beq_self_eq_true, fixedIf_true]⟩

theorem fields_daFormat {m n : Nat} {w : BitVec 3} {d : BitVec 5} {a : BitVec 5} {t : BitVec 1} (hn : plc 29 w (plc 18 d (plc 13 a (plc 6 t m))) = n)
    (hm : m < 2 ^ 29) (hz : m / 2 ^ 6 % 2 ^ 17 = 0) :
    n < 2 ^ 32 ∧ bitsAt n 23 6 = m / 2 ^ 23 ∧ bitsAt n 0 6 = m / 2 ^ 0 % 2 ^ 6 ∧ bitsAt n 7 6 = 0 ∧ fld n 29 3 = w ∧ fld n 18 5 = d ∧ fld n 13 5 = a ∧ fld n 6 1 = t := by
  subst hn
  simp only [fld_eq_iff, bitsAt, plc]
  omega

theorem decodes_daFormat (w : BitVec 3) (d : BitVec 5) (a : BitVec 5) (t : BitVec 1) : ∀ e ∈ [
      Instr.fsqrt w d a t, .fclass w d a t, .fcvti w d a t, .fcvtu w d a t, .fcvtf w d a t, .fcvtfu w d a t, .fcvtw w d a t,
      .fneg w d a t, .fabs w d a t], Decodes e := by
  simp only [List.forall_mem_cons, List.not_mem_nil, IsEmpty.forall_iff, implies_true, and_true]
  and_intros
  all_goals
    intro n h
    obtain ⟨hlt, hmajor, hfun, hzero, hw, hd, ha, ht⟩ := fields_daFormat (Option.some.inj h) (by norm_num) (by norm_num)
    norm_num only at hmajor hfun
    exact ⟨hlt, by simp only [decodeWord_fpu, decodeFpu, hmajor, hfun, hzero, hw, hd, ha, ht, beq_self_eq_true, fixedIf_true]⟩

theorem fields_a {m n : Nat} {w : BitVec 3} {a : BitVec 5} (hn : plc 29 w (plc 13 a m) = n)
    (hm : m < 2 ^ 29) (hz : m / 2 ^ 8 % 2 ^ 15 = 0) :
    n < 2 ^ 32 ∧ bitsAt n 23 6 = m / 2 ^ 23 ∧ bitsAt n 0 8 = m / 2 ^ 0 % 2 ^ 8 ∧ bitsAt n 8 5 = 0 ∧ bitsAt n 18 5 = 0 ∧ fld n 29 3 = w ∧ fld n 13 5 = a := by
  subst hn
  simp only [fld_eq_iff, bitsAt, plc]
  omega

theorem decodes_a (w : BitVec 3) (a : BitVec 5) : ∀ e ∈ [
      Instr.cwait w a, .launch w a, .cancel w a, .trap w a, .eret w a, .seal w a, .goto w a, .fence w a], Decodes e := by
  simp only [List.forall_mem_cons, List.not_mem_nil, IsEmpty.forall_iff, implies_true, and_true]
  and_intros
  all_goals
    intro n h
    obtain ⟨hlt, hmajor, hfun, hzero, hzero1, hw, ha⟩ := fields_a (Option.some.inj h) (by norm_num) (by norm_num)
    norm_num only at hmajor hfun
    exact ⟨hlt, by simp only [decodeWord_cpy, decodeCpy, decodeWord_fence, decodeFence, decodeWord_que, decodeQue, decodeWord_sys,
    decodeSys, decodeWord_task, decodeTask, hmajor, hfun, hzero, hzero1, hw, ha, beq_self_eq_true, Bool.and_self, fixedIf_true]⟩

theorem fields_ringA {m n : Nat} {w : BitVec 3} {r : BitVec 3} {a : BitVec 5} (hn : plc 29 w (plc 18 r (plc 13 a m)) = n)
    (hm : m < 2 ^ 29) (hz : m / 2 ^ 8 % 2 ^ 15 = 0) :
    n < 2 ^ 32 ∧ bitsAt n 23 6 = m / 2 ^ 23 ∧ bitsAt n 0 8 = m / 2 ^ 0 % 2 ^ 8 ∧ bitsAt n 8 5 = 0 ∧ bitsAt n 21 2 = 0 ∧ fld n 29 3 = w ∧ fld n 18 3 = r ∧ fld n 13 5 = a := by
  subst hn
  simp only [fld_eq_iff, bitsAt, plc]
  omega

theorem decodes_ringA (w : BitVec 3) (r : BitVec 3) (a : BitVec 5) : ∀ e ∈ [
      Instr.rinit w r a, .rstat w r a, .rwaitd w r a, .rwaits w r a], Decodes e := by
  simp only [List.forall_mem_cons, List.not_mem_nil, IsEmpty.forall_iff, implies_true, and_true]
  and_intros
  all_goals
    intro n h
    obtain ⟨hlt, hmajor, hfun, hzero, hzero1, hw, hr, ha⟩ := fields_ringA (Option.some.inj h) (by norm_num) (by norm_num)
    norm_num only at hmajor hfun
    exact ⟨hlt, by simp only [decodeWord_ring, decodeRing, hmajor, hfun, hzero, hzero1, hw, hr, ha, beq_self_eq_true, Bool.and_self,
    fixedIf_true]⟩

theorem fields_ring {m n : Nat} {w : BitVec 3} {r : BitVec 3} (hn : plc 29 w (plc 18 r m) = n)
    (hm : m < 2 ^ 29) (hz : m / 2 ^ 8 % 2 ^ 15 = 0) :
    n < 2 ^ 32 ∧ bitsAt n 23 6 = m / 2 ^ 23 ∧ bitsAt n 0 8 = m / 2 ^ 0 % 2 ^ 8 ∧ bitsAt n 8 10 = 0 ∧ bitsAt n 21 2 = 0 ∧ fld n 29 3 = w ∧ fld n 18 3 = r := by
  subst hn
  simp only [fld_eq_iff, bitsAt, plc]
  omega

theorem decodes_ring (w : BitVec 3) (r : BitVec 3) : ∀ e ∈ [
      Instr.rpush w r, .rpop w r], Decodes e := by
  simp only [List.forall_mem_cons, List.not_mem_nil, IsEmpty.forall_iff, implies_true, and_true]
  and_intros
  all_goals
    intro n h
    obtain ⟨hlt, hmajor, hfun, hzero, hzero1, hw, hr⟩ := fields_ring (Option.some.inj h) (by norm_num) (by norm_num)
    norm_num only at hmajor hfun
    exact ⟨hlt, by simp only [decodeWord_ring, decodeRing, hmajor, hfun, hzero, hzero1, hw, hr, beq_self_eq_true, Bool.and_self,
    fixedIf_true]⟩

theorem fields_daFullEmpty {m n : Nat} {w : BitVec 3} {d : BitVec 5} {a : BitVec 5} {c : BitVec 1} {z : BitVec 2} {o : BitVec 10} (hn : plc 29 w (plc 18 d (plc 13 a (plc 12 c (plc 10 z (plc 0 o m))))) = n)
    (hm : m < 2 ^ 29) (hz : m / 2 ^ 0 % 2 ^ 23 = 0) :
    n < 2 ^ 32 ∧ bitsAt n 23 6 = m / 2 ^ 23 ∧ fld n 29 3 = w ∧ fld n 18 5 = d ∧ fld n 13 5 = a ∧ fld n 12 1 = c ∧ fld n 10 2 = z ∧ fld n 0 10 = o := by
  subst hn
  simp only [fld_eq_iff, bitsAt, plc]
  omega

theorem decodes_daFullEmpty (w : BitVec 3) (d : BitVec 5) (a : BitVec 5) (c : BitVec 1) (z : BitVec 2) (o : BitVec 10) : ∀ e ∈ [
      Instr.lfe w d a c z o, .sfe w d a c z o], Decodes e := by
  simp only [List.forall_mem_cons, List.not_mem_nil, IsEmpty.forall_iff, implies_true, and_true]
  and_intros
  all_goals
    intro n h
    obtain ⟨hlt, hmajor, hw, hd, ha, hc, hz, ho⟩ := fields_daFullEmpty (Option.some.inj h) (by norm_num) (by norm_num)
    norm_num only at hmajor
    exact ⟨hlt, by simp only [decodeWord, hmajor, hw, hd, ha, hc, hz, ho]⟩

theorem fields_ab {m n : Nat} {w : BitVec 3} {a : BitVec 5} {b : BitVec 5} (hn : plc 29 w (plc 13 a (plc 8 b m)) = n)
    (hm : m < 2 ^ 29) (hz : m / 2 ^ 8 % 2 ^ 15 = 0) :
    n < 2 ^ 32 ∧ bitsAt n 23 6 = m / 2 ^ 23 ∧ bitsAt n 0 8 = m / 2 ^ 0 % 2 ^ 8 ∧ bitsAt n 18 5 = 0 ∧ fld n 29 3 = w ∧ fld n 13 5 = a ∧ fld n 8 5 = b := by
  subst hn
  simp only [fld_eq_iff, bitsAt, plc]
  omega

theorem decodes_ab (w : BitVec 3) (a : BitVec 5) (b : BitVec 5) : ∀ e ∈ [
      Instr.enq w a b, .spawnat w a b, .wake w a b, .drd w a b, .dwr w a b, .aqput w a b, .dpref w a b, .bsel w a b, .xqput w a b,
      .fencex w a b], Decodes e := by
  simp only [List.forall_mem_cons, List.not_mem_nil, IsEmpty.forall_iff, implies_true, and_true]
  and_intros
  all_goals
    intro n h
    obtain ⟨hlt, hmajor, hfun, hzero, hw, ha, hb⟩ := fields_ab (Option.some.inj h) (by norm_num) (by norm_num)
    norm_num only at hmajor hfun
    exact ⟨hlt, by simp only [decodeWord_cha, decodeCha, decodeWord_chx, decodeChx, decodeWord_fence, decodeFence, decodeWord_que,
    decodeQue, decodeWord_task, decodeTask, hmajor, hfun, hzero, hw, ha, hb, beq_self_eq_true, fixedIf_true]⟩

theorem fields_db {m n : Nat} {w : BitVec 3} {d : BitVec 5} {b : BitVec 5} (hn : plc 29 w (plc 18 d (plc 8 b m)) = n)
    (hm : m < 2 ^ 29) (hz : m / 2 ^ 8 % 2 ^ 15 = 0) :
    n < 2 ^ 32 ∧ bitsAt n 23 6 = m / 2 ^ 23 ∧ bitsAt n 0 8 = m / 2 ^ 0 % 2 ^ 8 ∧ bitsAt n 13 5 = 0 ∧ fld n 29 3 = w ∧ fld n 18 5 = d ∧ fld n 8 5 = b := by
  subst hn
  simp only [fld_eq_iff, bitsAt, plc]
  omega

theorem decodes_db (w : BitVec 3) (d : BitVec 5) (b : BitVec 5) : ∀ e ∈ [
      Instr.qstat w d b, .rdflags w d b], Decodes e := by
  simp only [List.forall_mem_cons, List.not_mem_nil, IsEmpty.forall_iff, implies_true, and_true]
  and_intros
  all_goals
    intro n h
    obtain ⟨hlt, hmajor, hfun, hzero, hw, hd, hb⟩ := fields_db (Option.some.inj h) (by norm_num) (by norm_num)
    norm_num only at hmajor hfun
    exact ⟨hlt, by simp only [decodeWord_info, decodeInfo, decodeWord_que, decodeQue, hmajor, hfun, hzero, hw, hd, hb, beq_self_eq_true,
    fixedIf_true]⟩

theorem fields_wait {m n : Nat} {w : BitVec 3} (hn : plc 29 w m = n)
    (hm : m < 2 ^ 29) (hz : m / 2 ^ 8 % 2 ^ 15 = 0) :
    n < 2 ^ 32 ∧ bitsAt n 23 6 = m / 2 ^ 23 ∧ bitsAt n 0 8 = m / 2 ^ 0 % 2 ^ 8 ∧ bitsAt n 8 15 = 0 ∧ fld n 29 3 = w := by
  subst hn
  simp only [fld_eq_iff, bitsAt, plc]
  omega

theorem decodes_wait (w : BitVec 3) : ∀ e ∈ [
      Instr.brk w, .restart w, .endT w, .yield w, .park w, .vsync w, .msync w, .bsync w, .ifence w, .qfence w, .drain w], Decodes e := by
  simp only [List.forall_mem_cons, List.not_mem_nil, IsEmpty.forall_iff, implies_true, and_true]
  and_intros
  all_goals
    intro n h
    obtain ⟨hlt, hmajor, hfun, hzero, hw⟩ := fields_wait (Option.some.inj h) (by norm_num) (by norm_num)
    norm_num only at hmajor hfun
    exact ⟨hlt, by simp only [decodeWord_chx, decodeChx, decodeWord_coach, decodeCoach, decodeWord_fence, decodeFence, decodeWord_sys,
    decodeSys, decodeWord_task, decodeTask, decodeWord_vseq, decodeVseq, hmajor, hfun, hzero, hw, beq_self_eq_true, fixedIf_true]⟩

theorem fields_d {m n : Nat} {w : BitVec 3} {d : BitVec 5} (hn : plc 29 w (plc 18 d m) = n)
    (hm : m < 2 ^ 29) (hz : m / 2 ^ 8 % 2 ^ 15 = 0) :
    n < 2 ^ 32 ∧ bitsAt n 23 6 = m / 2 ^ 23 ∧ bitsAt n 0 8 = m / 2 ^ 0 % 2 ^ 8 ∧ bitsAt n 8 10 = 0 ∧ fld n 29 3 = w ∧ fld n 18 5 = d := by
  subst hn
  simp only [fld_eq_iff, bitsAt, plc]
  omega

theorem decodes_d (w : BitVec 3) (d : BitVec 5) : ∀ e ∈ [
      Instr.wfm w d, .cubeof w d, .vquery w d, .rdcyc w d, .rdpurse w d, .rdfare w d, .rdfrm w d, .mrel w d, .mzero w d, .acks w d,
      .binv w d], Decodes e := by
  simp only [List.forall_mem_cons, List.not_mem_nil, IsEmpty.forall_iff, implies_true, and_true]
  and_intros
  all_goals
    intro n h
    obtain ⟨hlt, hmajor, hfun, hzero, hw, hd⟩ := fields_d (Option.some.inj h) (by norm_num) (by norm_num)
    norm_num only at hmajor hfun
    exact ⟨hlt, by simp only [decodeWord_bar, decodeBar, decodeWord_coach, decodeCoach, decodeWord_fence, decodeFence, decodeWord_info,
    decodeInfo, decodeWord_sys, decodeSys, hmajor, hfun, hzero, hw, hd, beq_self_eq_true, fixedIf_true]⟩

theorem fields_dCsr {m n : Nat} {w : BitVec 3} {d : BitVec 5} {k : BitVec 11} (hn : plc 29 w (plc 18 d (plc 0 k m)) = n)
    (hm : m < 2 ^ 29) (hz : m / 2 ^ 0 % 2 ^ 11 = 0) (hy : m / 2 ^ 13 % 2 ^ 10 = 0) :
    n < 2 ^ 32 ∧ bitsAt n 23 6 = m / 2 ^ 23 ∧ bitsAt n 11 2 = m / 2 ^ 11 % 2 ^ 2 ∧ bitsAt n 13 5 = 0 ∧ fld n 29 3 = w ∧ fld n 18 5 = d ∧ fld n 0 11 = k := by
  subst hn
  simp only [fld_eq_iff, bitsAt, plc]
  omega

theorem decodes_dCsr (w : BitVec 3) (d : BitVec 5) (k : BitVec 11) : Decodes (Instr.csrr w d k) := by
  intro n h
  obtain ⟨hlt, hmajor, hfun, hzero, hw, hd, hk⟩ := fields_dCsr (Option.some.inj h) (by norm_num) (by norm_num) (by norm_num)
  norm_num only at hmajor hfun
  exact ⟨hlt, by simp only [decodeWord_csr, decodeCsr, hmajor, hfun, hzero, hw, hd, hk, beq_self_eq_true, fixedIf_true]⟩

theorem fields_daCsr {m n : Nat} {w : BitVec 3} {d : BitVec 5} {a : BitVec 5} {k : BitVec 11} (hn : plc 29 w (plc 18 d (plc 13 a (plc 0 k m))) = n)
    (hm : m < 2 ^ 29) (hz : m / 2 ^ 0 % 2 ^ 11 = 0) (hy : m / 2 ^ 13 % 2 ^ 10 = 0) :
    n < 2 ^ 32 ∧ bitsAt n 23 6 = m / 2 ^ 23 ∧ bitsAt n 11 2 = m / 2 ^ 11 % 2 ^ 2 ∧ fld n 29 3 = w ∧ fld n 18 5 = d ∧ fld n 13 5 = a ∧ fld n 0 11 = k := by
  subst hn
  simp only [fld_eq_iff, bitsAt, plc]
  omega

theorem decodes_daCsr (w : BitVec 3) (d : BitVec 5) (a : BitVec 5) (k : BitVec 11) : ∀ e ∈ [
      Instr.csrw w d a k, .csrs w d a k, .csrc w d a k], Decodes e := by
  simp only [List.forall_mem_cons, List.not_mem_nil, IsEmpty.forall_iff, implies_true, and_true]
  and_intros
  all_goals
    intro n h
    obtain ⟨hlt, hmajor, hfun, hw, hd, ha, hk⟩ := fields_daCsr (Option.some.inj h) (by norm_num) (by norm_num) (by norm_num)
    norm_num only at hmajor hfun
    exact ⟨hlt, by simp only [decodeWord_csr, decodeCsr, hmajor, hfun, hw, hd, ha, hk]⟩

theorem fields_imm23 {m n : Nat} {w : BitVec 3} {f0 : BitVec 23} (hn : plc 29 w (plc 0 f0 m) = n)
    (hm : m < 2 ^ 29) (hz : m / 2 ^ 0 % 2 ^ 23 = 0) :
    n < 2 ^ 32 ∧ bitsAt n 23 6 = m / 2 ^ 23 ∧ fld n 29 3 = w ∧ fld n 0 23 = f0 := by
  subst hn
  simp only [fld_eq_iff, bitsAt, plc]
  omega

theorem decodes_imm23 (w : BitVec 3) (f0 : BitVec 23) : Decodes (Instr.jal w f0) := by
  intro n h
  obtain ⟨hlt, hmajor, hw, hf0⟩ := fields_imm23 (Option.some.inj h) (by norm_num) (by norm_num)
  norm_num only at hmajor
  exact ⟨hlt, by simp only [decodeWord, hmajor, hw, hf0]⟩

theorem fields_imm20 {m n : Nat} {w : BitVec 3} {f0 : BitVec 20} (hn : plc 29 w (plc 0 f0 m) = n)
    (hm : m < 2 ^ 29) (hz : m / 2 ^ 0 % 2 ^ 20 = 0) :
    n < 2 ^ 32 ∧ bitsAt n 23 6 = m / 2 ^ 23 ∧ bitsAt n 20 3 = m / 2 ^ 20 % 2 ^ 3 ∧ fld n 29 3 = w ∧ fld n 0 20 = f0 := by
  subst hn
  simp only [fld_eq_iff, bitsAt, plc]
  omega

theorem decodes_imm20 (w : BitVec 3) (f0 : BitVec 20) : ∀ e ∈ [
      Instr.pbrAny w f0, .pbrNone w f0, .pbrAll w f0, .pbrNall w f0], Decodes e := by
  simp only [List.forall_mem_cons, List.not_mem_nil, IsEmpty.forall_iff, implies_true, and_true]
  and_intros
  all_goals
    intro n h
    obtain ⟨hlt, hmajor, hfun, hw, hf0⟩ := fields_imm20 (Option.some.inj h) (by norm_num) (by norm_num)
    norm_num only at hmajor hfun
    exact ⟨hlt, by simp only [decodeWord_pbr, decodePbr, hmajor, hfun, hw, hf0]⟩

theorem fields_abSize {m n : Nat} {w : BitVec 3} {a : BitVec 5} {b : BitVec 5} {z : BitVec 2} (hn : plc 29 w (plc 13 a (plc 8 b (plc 0 z m))) = n)
    (hm : m < 2 ^ 29) (hz : m / 2 ^ 0 % 2 ^ 3 = 0) (hy : m / 2 ^ 8 % 2 ^ 15 = 0) :
    n < 2 ^ 32 ∧ bitsAt n 23 6 = m / 2 ^ 23 ∧ bitsAt n 3 5 = m / 2 ^ 3 % 2 ^ 5 ∧ bitsAt n 2 1 = 0 ∧ bitsAt n 18 5 = 0 ∧ fld n 29 3 = w ∧ fld n 13 5 = a ∧ fld n 8 5 = b ∧ fld n 0 2 = z := by
  subst hn
  simp only [fld_eq_iff, bitsAt, plc]
  omega

theorem decodes_abSize (w : BitVec 3) (a : BitVec 5) (b : BitVec 5) (z : BitVec 2) : ∀ e ∈ [
      Instr.pwhile w a b z, .pput w a b z], Decodes e := by
  simp only [List.forall_mem_cons, List.not_mem_nil, IsEmpty.forall_iff, implies_true, and_true]
  and_intros
  all_goals
    intro n h
    obtain ⟨hlt, hmajor, hfun, hzero, hzero1, hw, ha, hb, hz⟩ := fields_abSize (Option.some.inj h) (by norm_num) (by norm_num) (by norm_num)
    norm_num only at hmajor hfun
    exact ⟨hlt, by simp only [decodeWord_pred, decodePred, hmajor, hfun, hzero, hzero1, hw, ha, hb, hz, beq_self_eq_true, Bool.and_self,
    fixedIf_true]⟩

theorem fields_size {m n : Nat} {w : BitVec 3} {f0 : BitVec 2} (hn : plc 29 w (plc 0 f0 m) = n)
    (hm : m < 2 ^ 29) (hz : m / 2 ^ 0 % 2 ^ 3 = 0) (hy : m / 2 ^ 8 % 2 ^ 15 = 0) :
    n < 2 ^ 32 ∧ bitsAt n 23 6 = m / 2 ^ 23 ∧ bitsAt n 3 5 = m / 2 ^ 3 % 2 ^ 5 ∧ bitsAt n 2 1 = 0 ∧ bitsAt n 8 15 = 0 ∧ fld n 29 3 = w ∧ fld n 0 2 = f0 := by
  subst hn
  simp only [fld_eq_iff, bitsAt, plc]
  omega

theorem decodes_size (w : BitVec 3) (f0 : BitVec 2) : ∀ e ∈ [
      Instr.psetall w f0, .pclear w f0, .pnot w f0], Decodes e := by
  simp only [List.forall_mem_cons, List.not_mem_nil, IsEmpty.forall_iff, implies_true, and_true]
  and_intros
  all_goals
    intro n h
    obtain ⟨hlt, hmajor, hfun, hzero, hzero1, hw, hf0⟩ := fields_size (Option.some.inj h) (by norm_num) (by norm_num) (by norm_num)
    norm_num only at hmajor hfun
    exact ⟨hlt, by simp only [decodeWord_pred, decodePred, hmajor, hfun, hzero, hzero1, hw, hf0, beq_self_eq_true, Bool.and_self,
    fixedIf_true]⟩

theorem fields_aSize {m n : Nat} {w : BitVec 3} {a : BitVec 5} {z : BitVec 2} (hn : plc 29 w (plc 13 a (plc 0 z m)) = n)
    (hm : m < 2 ^ 29) (hz : m / 2 ^ 0 % 2 ^ 3 = 0) (hy : m / 2 ^ 8 % 2 ^ 15 = 0) :
    n < 2 ^ 32 ∧ bitsAt n 23 6 = m / 2 ^ 23 ∧ bitsAt n 3 5 = m / 2 ^ 3 % 2 ^ 5 ∧ bitsAt n 2 1 = 0 ∧ bitsAt n 8 5 = 0 ∧ bitsAt n 18 5 = 0 ∧ fld n 29 3 = w ∧ fld n 13 5 = a ∧ fld n 0 2 = z := by
  subst hn
  simp only [fld_eq_iff, bitsAt, plc]
  omega

theorem decodes_aSize (w : BitVec 3) (a : BitVec 5) (z : BitVec 2) : ∀ e ∈ [
      Instr.pload w a z, .pstore w a z, .pandm w a z, .porm w a z], Decodes e := by
  simp only [List.forall_mem_cons, List.not_mem_nil, IsEmpty.forall_iff, implies_true, and_true]
  and_intros
  all_goals
    intro n h
    obtain ⟨hlt, hmajor, hfun, hzero, hzero1, hzero2, hw, ha, hz⟩ := fields_aSize (Option.some.inj h) (by norm_num) (by norm_num) (by norm_num)
    norm_num only at hmajor hfun
    exact ⟨hlt, by simp only [decodeWord_pred, decodePred, hmajor, hfun, hzero, hzero1, hzero2, hw, ha, hz, beq_self_eq_true,
    Bool.and_self, fixedIf_true]⟩

theorem fields_dSize {m n : Nat} {w : BitVec 3} {d : BitVec 5} {z : BitVec 2} (hn : plc 29 w (plc 18 d (plc 0 z m)) = n)
    (hm : m < 2 ^ 29) (hz : m / 2 ^ 0 % 2 ^ 3 = 0) (hy : m / 2 ^ 8 % 2 ^ 15 = 0) :
    n < 2 ^ 32 ∧ bitsAt n 23 6 = m / 2 ^ 23 ∧ bitsAt n 3 5 = m / 2 ^ 3 % 2 ^ 5 ∧ bitsAt n 2 1 = 0 ∧ bitsAt n 8 10 = 0 ∧ fld n 29 3 = w ∧ fld n 18 5 = d ∧ fld n 0 2 = z := by
  subst hn
  simp only [fld_eq_iff, bitsAt, plc]
  omega

theorem decodes_dSize (w : BitVec 3) (d : BitVec 5) (z : BitVec 2) : ∀ e ∈ [
      Instr.pcount w d z, .pfirst w d z], Decodes e := by
  simp only [List.forall_mem_cons, List.not_mem_nil, IsEmpty.forall_iff, implies_true, and_true]
  and_intros
  all_goals
    intro n h
    obtain ⟨hlt, hmajor, hfun, hzero, hzero1, hw, hd, hz⟩ := fields_dSize (Option.some.inj h) (by norm_num) (by norm_num) (by norm_num)
    norm_num only at hmajor hfun
    exact ⟨hlt, by simp only [decodeWord_pred, decodePred, hmajor, hfun, hzero, hzero1, hw, hd, hz, beq_self_eq_true, Bool.and_self,
    fixedIf_true]⟩

theorem fields_daSize {m n : Nat} {w : BitVec 3} {d : BitVec 5} {a : BitVec 5} {z : BitVec 2} (hn : plc 29 w (plc 18 d (plc 13 a (plc 0 z m))) = n)
    (hm : m < 2 ^ 29) (hz : m / 2 ^ 0 % 2 ^ 3 = 0) (hy : m / 2 ^ 8 % 2 ^ 15 = 0) :
    n < 2 ^ 32 ∧ bitsAt n 23 6 = m / 2 ^ 23 ∧ bitsAt n 3 5 = m / 2 ^ 3 % 2 ^ 5 ∧ bitsAt n 2 1 = 0 ∧ bitsAt n 8 5 = 0 ∧ fld n 29 3 = w ∧ fld n 18 5 = d ∧ fld n 13 5 = a ∧ fld n 0 2 = z := by
  subst hn
  simp only [fld_eq_iff, bitsAt, plc]
  omega

theorem decodes_daSize (w : BitVec 3) (d : BitVec 5) (a : BitVec 5) (z : BitVec 2) : Decodes (Instr.pget w d a z) := by
  intro n h
  obtain ⟨hlt, hmajor, hfun, hzero, hzero1, hw, hd, ha, hz⟩ := fields_daSize (Option.some.inj h) (by norm_num) (by norm_num) (by norm_num)
  norm_num only at hmajor hfun
  exact ⟨hlt, by simp only [decodeWord_pred, decodePred, hmajor, hfun, hzero, hzero1, hw, hd, ha, hz, beq_self_eq_true, Bool.and_self,
  fixedIf_true]⟩

theorem fields_dabType {m n : Nat} {w : BitVec 3} {d : BitVec 5} {a : BitVec 5} {b : BitVec 5} {t : BitVec 3} (hn : plc 29 w (plc 18 d (plc 13 a (plc 8 b (plc 0 t m)))) = n)
    (hm : m < 2 ^ 29) (hz : m / 2 ^ 0 % 2 ^ 3 = 0) (hy : m / 2 ^ 8 % 2 ^ 15 = 0) :
    n < 2 ^ 32 ∧ bitsAt n 23 6 = m / 2 ^ 23 ∧ bitsAt n 3 5 = m / 2 ^ 3 % 2 ^ 5 ∧ fld n 29 3 = w ∧ fld n 18 5 = d ∧ fld n 13 5 = a ∧ fld n 8 5 = b ∧ fld n 0 3 = t := by
  subst hn
  simp only [fld_eq_iff, bitsAt, plc]
  omega

theorem decodes_dabType (w : BitVec 3) (d : BitVec 5) (a : BitVec 5) (b : BitVec 5) (t : BitVec 3) : ∀ e ∈ [
      Instr.vadd w d a b t, .vsub w d a b t, .vmul w d a b t, .vmin w d a b t, .vmax w d a b t, .vminu w d a b t, .vmaxu w d a b t,
      .vand w d a b t, .vor w d a b t, .vxor w d a b t, .vsll w d a b t, .vsrl w d a b t, .vsra w d a b t, .vadds w d a b t,
      .vsubs w d a b t, .vmulh w d a b t, .vabsd w d a b t, .vfma w d a b t, .vfms w d a b t, .vdiv w d a b t, .vcmpeq w d a b t,
      .vcmpne w d a b t, .vcmplt w d a b t, .vcmple w d a b t, .vcmpltu w d a b t, .vsel w d a b t, .vdot w d a b t, .vshuf w d a b t,
      .vslup w d a b t, .vsldn w d a b t, .vzip w d a b t, .vuzp w d a b t, .vgather w d a b t, .vscatter w d a b t, .vamoadd w d a b t,
      .vamomax w d a b t, .vamomin w d a b t, .vredadd w d a b t], Decodes e := by
  simp only [List.forall_mem_cons, List.not_mem_nil, IsEmpty.forall_iff, implies_true, and_true]
  and_intros
  all_goals
    intro n h
    obtain ⟨hlt, hmajor, hfun, hw, hd, ha, hb, ht⟩ := fields_dabType (Option.some.inj h) (by norm_num) (by norm_num) (by norm_num)
    norm_num only at hmajor hfun
    exact ⟨hlt, by simp only [decodeWord_varith, decodeVarith, decodeWord_vmem, decodeVmem, decodeWord_vperm, decodeVperm, hmajor, hfun,
    hw, hd, ha, hb, ht]⟩

theorem fields_daType {m n : Nat} {w : BitVec 3} {d : BitVec 5} {a : BitVec 5} {t : BitVec 3} (hn : plc 29 w (plc 18 d (plc 13 a (plc 0 t m))) = n)
    (hm : m < 2 ^ 29) (hz : m / 2 ^ 0 % 2 ^ 3 = 0) (hy : m / 2 ^ 8 % 2 ^ 15 = 0) :
    n < 2 ^ 32 ∧ bitsAt n 23 6 = m / 2 ^ 23 ∧ bitsAt n 3 5 = m / 2 ^ 3 % 2 ^ 5 ∧ bitsAt n 8 5 = 0 ∧ fld n 29 3 = w ∧ fld n 18 5 = d ∧ fld n 13 5 = a ∧ fld n 0 3 = t := by
  subst hn
  simp only [fld_eq_iff, bitsAt, plc]
  omega

theorem decodes_daType (w : BitVec 3) (d : BitVec 5) (a : BitVec 5) (t : BitVec 3) : ∀ e ∈ [
      Instr.vsqrt w d a t, .vneg w d a t, .vabs w d a t, .vrsum w d a t, .vrmax w d a t, .vrmin w d a t, .vrmaxi w d a t,
      .vrmini w d a t, .vrand w d a t, .vror w d a t, .vrxor w d a t, .vbcast w d a t, .vcmpr w d a t, .vexpd w d a t, .vmov w d a t,
      .viota w d a t, .vexp2 w d a t, .vlog2 w d a t, .vrsqrt w d a t, .vrcp w d a t, .vsin w d a t, .vcos w d a t, .vtanh w d a t,
      .vsigm w d a t], Decodes e := by
  simp only [List.forall_mem_cons, List.not_mem_nil, IsEmpty.forall_iff, implies_true, and_true]
  and_intros
  all_goals
    intro n h
    obtain ⟨hlt, hmajor, hfun, hzero, hw, hd, ha, ht⟩ := fields_daType (Option.some.inj h) (by norm_num) (by norm_num) (by norm_num)
    norm_num only at hmajor hfun
    exact ⟨hlt, by simp only [decodeWord_varith, decodeVarith, decodeWord_vperm, decodeVperm, decodeWord_vred, decodeVred,
    decodeWord_vsfu, decodeVsfu, hmajor, hfun, hzero, hw, hd, ha, ht, beq_self_eq_true, fixedIf_true]⟩

theorem fields_daTypes {m n : Nat} {w : BitVec 3} {d : BitVec 5} {a : BitVec 5} {e : BitVec 4} {t : BitVec 4} (hn : plc 29 w (plc 18 d (plc 13 a (plc 4 e (plc 0 t m)))) = n)
    (hm : m < 2 ^ 29) (hz : m / 2 ^ 0 % 2 ^ 23 = 0) :
    n < 2 ^ 32 ∧ bitsAt n 23 6 = m / 2 ^ 23 ∧ bitsAt n 8 5 = 0 ∧ fld n 29 3 = w ∧ fld n 18 5 = d ∧ fld n 13 5 = a ∧ fld n 4 4 = e ∧ fld n 0 4 = t := by
  subst hn
  simp only [fld_eq_iff, bitsAt, plc]
  omega

theorem decodes_daTypes (w : BitVec 3) (d : BitVec 5) (a : BitVec 5) (e : BitVec 4) (t : BitVec 4) : Decodes (Instr.vconv w d a e t) := by
  intro n h
  obtain ⟨hlt, hmajor, hzero, hw, hd, ha, he, ht⟩ := fields_daTypes (Option.some.inj h) (by norm_num) (by norm_num)
  norm_num only at hmajor
  exact ⟨hlt, by simp only [decodeWord, hmajor, hzero, hw, hd, ha, he, ht, beq_self_eq_true, fixedIf_true]⟩

theorem fields_dabWidth {m n : Nat} {w : BitVec 3} {d : BitVec 5} {a : BitVec 5} {b : BitVec 5} {z : BitVec 1} (hn : plc 29 w (plc 18 d (plc 13 a (plc 8 b (plc 5 z m)))) = n)
    (hm : m < 2 ^ 29) (hz : m / 2 ^ 5 % 2 ^ 18 = 0) :
    n < 2 ^ 32 ∧ bitsAt n 23 6 = m / 2 ^ 23 ∧ bitsAt n 0 5 = m / 2 ^ 0 % 2 ^ 5 ∧ bitsAt n 6 2 = 0 ∧ fld n 29 3 = w ∧ fld n 18 5 = d ∧ fld n 13 5 = a ∧ fld n 8 5 = b ∧ fld n 5 1 = z := by
  subst hn
  simp only [fld_eq_iff, bitsAt, plc]
  omega

theorem decodes_dabWidth (w : BitVec 3) (d : BitVec 5) (a : BitVec 5) (b : BitVec 5) (z : BitVec 1) : ∀ e ∈ [
      Instr.amoadd w d a b z, .amoand w d a b z, .amoor w d a b z, .amoxor w d a b z, .amomin w d a b z, .amomax w d a b z,
      .amominu w d a b z, .amomaxu w d a b z, .amoswap w d a b z, .amocas w d a b z, .amofadd w d a b z], Decodes e := by
  simp only [List.forall_mem_cons, List.not_mem_nil, IsEmpty.forall_iff, implies_true, and_true]
  and_intros
  all_goals
    intro n h
    obtain ⟨hlt, hmajor, hfun, hzero, hw, hd, ha, hb, hz⟩ := fields_dabWidth (Option.some.inj h) (by norm_num) (by norm_num)
    norm_num only at hmajor hfun
    exact ⟨hlt, by simp only [decodeWord_atom, decodeAtom, hmajor, hfun, hzero, hw, hd, ha, hb, hz, beq_self_eq_true, fixedIf_true]⟩

theorem fields_daWidth {m n : Nat} {w : BitVec 3} {d : BitVec 5} {a : BitVec 5} {z : BitVec 1} (hn : plc 29 w (plc 18 d (plc 13 a (plc 5 z m))) = n)
    (hm : m < 2 ^ 29) (hz : m / 2 ^ 5 % 2 ^ 18 = 0) :
    n < 2 ^ 32 ∧ bitsAt n 23 6 = m / 2 ^ 23 ∧ bitsAt n 0 5 = m / 2 ^ 0 % 2 ^ 5 ∧ bitsAt n 6 7 = 0 ∧ fld n 29 3 = w ∧ fld n 18 5 = d ∧ fld n 13 5 = a ∧ fld n 5 1 = z := by
  subst hn
  simp only [fld_eq_iff, bitsAt, plc]
  omega

theorem decodes_daWidth (w : BitVec 3) (d : BitVec 5) (a : BitVec 5) (z : BitVec 1) : Decodes (Instr.rsv w d a z) := by
  intro n h
  obtain ⟨hlt, hmajor, hfun, hzero, hw, hd, ha, hz⟩ := fields_daWidth (Option.some.inj h) (by norm_num) (by norm_num)
  norm_num only at hmajor hfun
  exact ⟨hlt, by simp only [decodeWord_atom, decodeAtom, hmajor, hfun, hzero, hw, hd, ha, hz, beq_self_eq_true, fixedIf_true]⟩

theorem fields_abWidth {m n : Nat} {w : BitVec 3} {a : BitVec 5} {b : BitVec 5} {z : BitVec 1} (hn : plc 29 w (plc 13 a (plc 8 b (plc 5 z m))) = n)
    (hm : m < 2 ^ 29) (hz : m / 2 ^ 5 % 2 ^ 18 = 0) :
    n < 2 ^ 32 ∧ bitsAt n 23 6 = m / 2 ^ 23 ∧ bitsAt n 0 5 = m / 2 ^ 0 % 2 ^ 5 ∧ bitsAt n 6 2 = 0 ∧ bitsAt n 18 5 = 0 ∧ fld n 29 3 = w ∧ fld n 13 5 = a ∧ fld n 8 5 = b ∧ fld n 5 1 = z := by
  subst hn
  simp only [fld_eq_iff, bitsAt, plc]
  omega

theorem decodes_abWidth (w : BitVec 3) (a : BitVec 5) (b : BitVec 5) (z : BitVec 1) : ∀ e ∈ [
      Instr.rls w a b z, .redadd w a b z, .redand w a b z, .redor w a b z, .redxor w a b z, .redmin w a b z, .redmax w a b z,
      .redminu w a b z, .redmaxu w a b z, .redfadd w a b z], Decodes e := by
  simp only [List.forall_mem_cons, List.not_mem_nil, IsEmpty.forall_iff, implies_true, and_true]
  and_intros
  all_goals
    intro n h
    obtain ⟨hlt, hmajor, hfun, hzero, hzero1, hw, ha, hb, hz⟩ := fields_abWidth (Option.some.inj h) (by norm_num) (by norm_num)
    norm_num only at hmajor hfun
    exact ⟨hlt, by simp only [decodeWord_atom, decodeAtom, decodeWord_red, decodeRed, hmajor, hfun, hzero, hzero1, hw, ha, hb, hz,
    beq_self_eq_true, Bool.and_self, fixedIf_true]⟩

theorem fields_daOrder {m n : Nat} {w : BitVec 3} {d : BitVec 5} {a : BitVec 5} {p : BitVec 2} {z : BitVec 1} (hn : plc 29 w (plc 18 d (plc 13 a (plc 6 p (plc 5 z m)))) = n)
    (hm : m < 2 ^ 29) (hz : m / 2 ^ 5 % 2 ^ 18 = 0) :
    n < 2 ^ 32 ∧ bitsAt n 23 6 = m / 2 ^ 23 ∧ bitsAt n 0 5 = m / 2 ^ 0 % 2 ^ 5 ∧ bitsAt n 8 5 = 0 ∧ fld n 29 3 = w ∧ fld n 18 5 = d ∧ fld n 13 5 = a ∧ fld n 6 2 = p ∧ fld n 5 1 = z := by
  subst hn
  simp only [fld_eq_iff, bitsAt, plc]
  omega

theorem decodes_daOrder (w : BitVec 3) (d : BitVec 5) (a : BitVec 5) (p : BitVec 2) (z : BitVec 1) : Decodes (Instr.ldaq w d a p z) := by
  intro n h
  obtain ⟨hlt, hmajor, hfun, hzero, hw, hd, ha, hp, hz⟩ := fields_daOrder (Option.some.inj h) (by norm_num) (by norm_num)
  norm_num only at hmajor hfun
  exact ⟨hlt, by simp only [decodeWord_atom, decodeAtom, hmajor, hfun, hzero, hw, hd, ha, hp, hz, beq_self_eq_true, fixedIf_true]⟩

theorem fields_abOrder {m n : Nat} {w : BitVec 3} {a : BitVec 5} {b : BitVec 5} {p : BitVec 2} {z : BitVec 1} (hn : plc 29 w (plc 13 a (plc 8 b (plc 6 p (plc 5 z m)))) = n)
    (hm : m < 2 ^ 29) (hz : m / 2 ^ 5 % 2 ^ 18 = 0) :
    n < 2 ^ 32 ∧ bitsAt n 23 6 = m / 2 ^ 23 ∧ bitsAt n 0 5 = m / 2 ^ 0 % 2 ^ 5 ∧ bitsAt n 18 5 = 0 ∧ fld n 29 3 = w ∧ fld n 13 5 = a ∧ fld n 8 5 = b ∧ fld n 6 2 = p ∧ fld n 5 1 = z := by
  subst hn
  simp only [fld_eq_iff, bitsAt, plc]
  omega

theorem decodes_abOrder (w : BitVec 3) (a : BitVec 5) (b : BitVec 5) (p : BitVec 2) (z : BitVec 1) : Decodes (Instr.strl w a b p z) := by
  intro n h
  obtain ⟨hlt, hmajor, hfun, hzero, hw, ha, hb, hp, hz⟩ := fields_abOrder (Option.some.inj h) (by norm_num) (by norm_num)
  norm_num only at hmajor hfun
  exact ⟨hlt, by simp only [decodeWord_atom, decodeAtom, hmajor, hfun, hzero, hw, ha, hb, hp, hz, beq_self_eq_true, fixedIf_true]⟩

/-! ## The word of a decoded instruction (R56, R57) -/

/-- The word `n` is the word of what it is decoded to. -/
def Encodes (n : Nat) (r : Except DecodeError Instr) : Prop := ∀ i, r = .ok i → encode i = some n

theorem encodes_ok {n m : Nat} {i : Instr} (h : m = n) (he : encode i = some m := by rfl) : Encodes n (.ok i) := by
  rintro _ ⟨⟩
  rw [he, h]
theorem encodes_error {n : Nat} {e : DecodeError} : Encodes n (.error e) := fun _ h => nomatch h
theorem encodes_fixedIf {n m f k : Nat} {c : Bool} {i : Instr} (h : c = true → m = n) (he : encode i = some m := by rfl) :
    Encodes n (fixedIf k f c i) := by
  cases c with
  | true => exact encodes_ok (h rfl) he
  | false => exact encodes_error

/-- The lowest bits of a number grow field by field. -/
theorem exists_lowBits {n : Nat} (hn : n < 2 ^ 32) :
    ∃ low : Nat → Nat, low 0 = 0 ∧ low 32 = n ∧ ∀ lo k hi, lo + k = hi → low hi = low lo + 2 ^ lo * bitsAt n lo k :=
  ⟨fun k => n % 2 ^ k, Nat.mod_one n, Nat.mod_eq_of_lt hn, fun lo k hi h => by
    subst h
    simp only [pow_add, Nat.mod_mul, bitsAt]⟩

theorem plc_fld (n lo k acc : Nat) : plc lo (fld n lo k) acc = 2 ^ lo * bitsAt n lo k + acc := by
  rw [plc, fld, BitVec.toNat_ofNat, bitsAt]

section arms
variable {n : Nat}

theorem place_dab {n M f : Nat} (hn : n < 2 ^ 32) (hM : bitsAt n 23 6 = M) (hf : bitsAt n 0 8 = f) :
    plc 29 (fld n 29 3) (plc 18 (fld n 18 5) (plc 13 (fld n 13 5) (plc 8 (fld n 8 5) (M * 2 ^ 23 + f)))) = n := by
  subst hM hf
  obtain ⟨low, hbot, htop, hlow⟩ := exists_lowBits hn
  simp only [plc_fld]
  linarith [hlow 0 8 8 rfl, hlow 8 5 13 rfl, hlow 13 5 18 rfl, hlow 18 5 23 rfl, hlow 23 6 29 rfl, hlow 29 3 32 rfl]

theorem place_da {n M f : Nat} (hn : n < 2 ^ 32) (hM : bitsAt n 23 6 = M) (hf : bitsAt n 0 8 = f)
    (hz : (bitsAt n 8 5 == 0) = true) :
    plc 29 (fld n 29 3) (plc 18 (fld n 18 5) (plc 13 (fld n 13 5) (M * 2 ^ 23 + f))) = n := by
  subst hM hf
  simp only [beq_iff_eq] at hz
  obtain ⟨low, hbot, htop, hlow⟩ := exists_lowBits hn
  simp only [plc_fld]
  linarith [hlow 0 8 8 rfl, hlow 8 5 13 rfl, hlow 13 5 18 rfl, hlow 18 5 23 rfl, hlow 23 6 29 rfl, hlow 29 3 32 rfl]

theorem place_daShift {n M f : Nat} (hn : n < 2 ^ 32) (hM : bitsAt n 23 6 = M) (hf : bitsAt n 11 2 = f)
    (hz : (bitsAt n 6 5 == 0) = true) :
    plc 29 (fld n 29 3) (plc 18 (fld n 18 5) (plc 13 (fld n 13 5) (plc 0 (fld n 0 6) (M * 2 ^ 23 + f * 2 ^ 11)))) = n := by
  subst hM hf
  simp only [beq_iff_eq] at hz
  obtain ⟨low, hbot, htop, hlow⟩ := exists_lowBits hn
  simp only [plc_fld]
  linarith [hlow 0 6 6 rfl, hlow 6 5 11 rfl, hlow 11 2 13 rfl, hlow 13 5 18 rfl, hlow 18 5 23 rfl, hlow 23 6 29 rfl, hlow 29 3 32 rfl]

theorem place_dabFormat {n M f : Nat} (hn : n < 2 ^ 32) (hM : bitsAt n 23 6 = M) (hf : bitsAt n 0 6 = f)
    (hz : (bitsAt n 7 1 == 0) = true) :
    plc 29 (fld n 29 3) (plc 18 (fld n 18 5) (plc 13 (fld n 13 5) (plc 8 (fld n 8 5) (plc 6 (fld n 6 1) (M * 2 ^ 23 + f))))) = n := by
  subst hM hf
  simp only [beq_iff_eq] at hz
  obtain ⟨low, hbot, htop, hlow⟩ := exists_lowBits hn
  simp only [plc_fld]
  linarith [hlow 0 6 6 rfl, hlow 6 1 7 rfl, hlow 7 1 8 rfl, hlow 8 5 13 rfl, hlow 13 5 18 rfl, hlow 18 5 23 rfl, hlow 23 6 29 rfl, hlow 29 3 32 rfl]

theorem place_daFormat {n M f : Nat} (hn : n < 2 ^ 32) (hM : bitsAt n 23 6 = M) (hf : bitsAt n 0 6 = f)
    (hz : (bitsAt n 7 6 == 0) = true) :
    plc 29 (fld n 29 3) (plc 18 (fld n 18 5) (plc 13 (fld n 13 5) (plc 6 (fld n 6 1) (M * 2 ^ 23 + f)))) = n := by
  subst hM hf
  simp only [beq_iff_eq] at hz
  obtain ⟨low, hbot, htop, hlow⟩ := exists_lowBits hn
  simp only [plc_fld]
  linarith [hlow 0 6 6 rfl, hlow 6 1 7 rfl, hlow 7 6 13 rfl, hlow 13 5 18 rfl, hlow 18 5 23 rfl, hlow 23 6 29 rfl, hlow 29 3 32 rfl]

theorem place_a {n M f : Nat} (hn : n < 2 ^ 32) (hM : bitsAt n 23 6 = M) (hf : bitsAt n 0 8 = f)
    (hz : (bitsAt n 8 5 == 0 && bitsAt n 18 5 == 0) = true) :
    plc 29 (fld n 29 3) (plc 13 (fld n 13 5) (M * 2 ^ 23 + f)) = n := by
  subst hM hf
  simp only [beq_iff_eq, Bool.and_eq_true] at hz
  obtain ⟨hz, hz1⟩ := hz
  obtain ⟨low, hbot, htop, hlow⟩ := exists_lowBits hn
  simp only [plc_fld]
  linarith [hlow 0 8 8 rfl, hlow 8 5 13 rfl, hlow 13 5 18 rfl, hlow 18 5 23 rfl, hlow 23 6 29 rfl, hlow 29 3 32 rfl]

theorem place_ringA {n M f : Nat} (hn : n < 2 ^ 32) (hM : bitsAt n 23 6 = M) (hf : bitsAt n 0 8 = f)
    (hz : (bitsAt n 8 5 == 0 && bitsAt n 21 2 == 0) = true) :
    plc 29 (fld n 29 3) (plc 18 (fld n 18 3) (plc 13 (fld n 13 5) (M * 2 ^ 23 + f))) = n := by
  subst hM hf
  simp only [beq_iff_eq, Bool.and_eq_true] at hz
  obtain ⟨hz, hz1⟩ := hz
  obtain ⟨low, hbot, htop, hlow⟩ := exists_lowBits hn
  simp only [plc_fld]
  linarith [hlow 0 8 8 rfl, hlow 8 5 13 rfl, hlow 13 5 18 rfl, hlow 18 3 21 rfl, hlow 21 2 23 rfl, hlow 23 6 29 rfl, hlow 29 3 32 rfl]

theorem place_ring {n M f : Nat} (hn : n < 2 ^ 32) (hM : bitsAt n 23 6 = M) (hf : bitsAt n 0 8 = f)
    (hz : (bitsAt n 8 10 == 0 && bitsAt n 21 2 == 0) = true) :
    plc 29 (fld n 29 3) (plc 18 (fld n 18 3) (M * 2 ^ 23 + f)) = n := by
  subst hM hf
  simp only [beq_iff_eq, Bool.and_eq_true] at hz
  obtain ⟨hz, hz1⟩ := hz
  obtain ⟨low, hbot, htop, hlow⟩ := exists_lowBits hn
  simp only [plc_fld]
  linarith [hlow 0 8 8 rfl, hlow 8 10 18 rfl, hlow 18 3 21 rfl, hlow 21 2 23 rfl, hlow 23 6 29 rfl, hlow 29 3 32 rfl]

theorem place_ab {n M f : Nat} (hn : n < 2 ^ 32) (hM : bitsAt n 23 6 = M) (hf : bitsAt n 0 8 = f)
    (hz : (bitsAt n 18 5 == 0) = true) :
    plc 29 (fld n 29 3) (plc 13 (fld n 13 5) (plc 8 (fld n 8 5) (M * 2 ^ 23 + f))) = n := by
  subst hM hf
  simp only [beq_iff_eq] at hz
  obtain ⟨low, hbot, htop, hlow⟩ := exists_lowBits hn
  simp only [plc_fld]
  linarith [hlow 0 8 8 rfl, hlow 8 5 13 rfl, hlow 13 5 18 rfl, hlow 18 5 23 rfl, hlow 23 6 29 rfl, hlow 29 3 32 rfl]

theorem place_db {n M f : Nat} (hn : n < 2 ^ 32) (hM : bitsAt n 23 6 = M) (hf : bitsAt n 0 8 = f)
    (hz : (bitsAt n 13 5 == 0) = true) :
    plc 29 (fld n 29 3) (plc 18 (fld n 18 5) (plc 8 (fld n 8 5) (M * 2 ^ 23 + f))) = n := by
  subst hM hf
  simp only [beq_iff_eq] at hz
  obtain ⟨low, hbot, htop, hlow⟩ := exists_lowBits hn
  simp only [plc_fld]
  linarith [hlow 0 8 8 rfl, hlow 8 5 13 rfl, hlow 13 5 18 rfl, hlow 18 5 23 rfl, hlow 23 6 29 rfl, hlow 29 3 32 rfl]

theorem place_wait {n M f : Nat} (hn : n < 2 ^ 32) (hM : bitsAt n 23 6 = M) (hf : bitsAt n 0 8 = f)
    (hz : (bitsAt n 8 15 == 0) = true) :
    plc 29 (fld n 29 3) (M * 2 ^ 23 + f) = n := by
  subst hM hf
  simp only [beq_iff_eq] at hz
  obtain ⟨low, hbot, htop, hlow⟩ := exists_lowBits hn
  simp only [plc_fld]
  linarith [hlow 0 8 8 rfl, hlow 8 15 23 rfl, hlow 23 6 29 rfl, hlow 29 3 32 rfl]

theorem place_d {n M f : Nat} (hn : n < 2 ^ 32) (hM : bitsAt n 23 6 = M) (hf : bitsAt n 0 8 = f)
    (hz : (bitsAt n 8 10 == 0) = true) :
    plc 29 (fld n 29 3) (plc 18 (fld n 18 5) (M * 2 ^ 23 + f)) = n := by
  subst hM hf
  simp only [beq_iff_eq] at hz
  obtain ⟨low, hbot, htop, hlow⟩ := exists_lowBits hn
  simp only [plc_fld]
  linarith [hlow 0 8 8 rfl, hlow 8 10 18 rfl, hlow 18 5 23 rfl, hlow 23 6 29 rfl, hlow 29 3 32 rfl]

theorem place_dCsr {n M f : Nat} (hn : n < 2 ^ 32) (hM : bitsAt n 23 6 = M) (hf : bitsAt n 11 2 = f)
    (hz : (bitsAt n 13 5 == 0) = true) :
    plc 29 (fld n 29 3) (plc 18 (fld n 18 5) (plc 0 (fld n 0 11) (M * 2 ^ 23 + f * 2 ^ 11))) = n := by
  subst hM hf
  simp only [beq_iff_eq] at hz
  obtain ⟨low, hbot, htop, hlow⟩ := exists_lowBits hn
  simp only [plc_fld]
  linarith [hlow 0 11 11 rfl, hlow 11 2 13 rfl, hlow 13 5 18 rfl, hlow 18 5 23 rfl, hlow 23 6 29 rfl, hlow 29 3 32 rfl]

theorem place_daCsr {n M f : Nat} (hn : n < 2 ^ 32) (hM : bitsAt n 23 6 = M) (hf : bitsAt n 11 2 = f) :
    plc 29 (fld n 29 3) (plc 18 (fld n 18 5) (plc 13 (fld n 13 5) (plc 0 (fld n 0 11) (M * 2 ^ 23 + f * 2 ^ 11)))) = n := by
  subst hM hf
  obtain ⟨low, hbot, htop, hlow⟩ := exists_lowBits hn
  simp only [plc_fld]
  linarith [hlow 0 11 11 rfl, hlow 11 2 13 rfl, hlow 13 5 18 rfl, hlow 18 5 23 rfl, hlow 23 6 29 rfl, hlow 29 3 32 rfl]

theorem place_imm20 {n M f : Nat} (hn : n < 2 ^ 32) (hM : bitsAt n 23 6 = M) (hf : bitsAt n 20 3 = f) :
    plc 29 (fld n 29 3) (plc 0 (fld n 0 20) (M * 2 ^ 23 + f * 2 ^ 20)) = n := by
  subst hM hf
  obtain ⟨low, hbot, htop, hlow⟩ := exists_lowBits hn
  simp only [plc_fld]
  linarith [hlow 0 20 20 rfl, hlow 20 3 23 rfl, hlow 23 6 29 rfl, hlow 29 3 32 rfl]

theorem place_abSize {n M f : Nat} (hn : n < 2 ^ 32) (hM : bitsAt n 23 6 = M) (hf : bitsAt n 3 5 = f)
    (hz : (bitsAt n 2 1 == 0 && bitsAt n 18 5 == 0) = true) :
    plc 29 (fld n 29 3) (plc 13 (fld n 13 5) (plc 8 (fld n 8 5) (plc 0 (fld n 0 2) (M * 2 ^ 23 + f * 2 ^ 3)))) = n := by
  subst hM hf
  simp only [beq_iff_eq, Bool.and_eq_true] at hz
  obtain ⟨hz, hz1⟩ := hz
  obtain ⟨low, hbot, htop, hlow⟩ := exists_lowBits hn
  simp only [plc_fld]
  linarith [hlow 0 2 2 rfl, hlow 2 1 3 rfl, hlow 3 5 8 rfl, hlow 8 5 13 rfl, hlow 13 5 18 rfl, hlow 18 5 23 rfl, hlow 23 6 29 rfl, hlow 29 3 32 rfl]

theorem place_size {n M f : Nat} (hn : n < 2 ^ 32) (hM : bitsAt n 23 6 = M) (hf : bitsAt n 3 5 = f)
    (hz : (bitsAt n 2 1 == 0 && bitsAt n 8 15 == 0) = true) :
    plc 29 (fld n 29 3) (plc 0 (fld n 0 2) (M * 2 ^ 23 + f * 2 ^ 3)) = n := by
  subst hM hf
  simp only [beq_iff_eq, Bool.and_eq_true] at hz
  obtain ⟨hz, hz1⟩ := hz
  obtain ⟨low, hbot, htop, hlow⟩ := exists_lowBits hn
  simp only [plc_fld]
  linarith [hlow 0 2 2 rfl, hlow 2 1 3 rfl, hlow 3 5 8 rfl, hlow 8 15 23 rfl, hlow 23 6 29 rfl, hlow 29 3 32 rfl]

theorem place_aSize {n M f : Nat} (hn : n < 2 ^ 32) (hM : bitsAt n 23 6 = M) (hf : bitsAt n 3 5 = f)
    (hz : (bitsAt n 2 1 == 0 && bitsAt n 8 5 == 0 && bitsAt n 18 5 == 0) = true) :
    plc 29 (fld n 29 3) (plc 13 (fld n 13 5) (plc 0 (fld n 0 2) (M * 2 ^ 23 + f * 2 ^ 3))) = n := by
  subst hM hf
  simp only [beq_iff_eq, Bool.and_eq_true] at hz
  obtain ⟨⟨hz, hz1⟩, hz2⟩ := hz
  obtain ⟨low, hbot, htop, hlow⟩ := exists_lowBits hn
  simp only [plc_fld]
  linarith [hlow 0 2 2 rfl, hlow 2 1 3 rfl, hlow 3 5 8 rfl, hlow 8 5 13 rfl, hlow 13 5 18 rfl, hlow 18 5 23 rfl, hlow 23 6 29 rfl, hlow 29 3 32 rfl]

theorem place_dSize {n M f : Nat} (hn : n < 2 ^ 32) (hM : bitsAt n 23 6 = M) (hf : bitsAt n 3 5 = f)
    (hz : (bitsAt n 2 1 == 0 && bitsAt n 8 10 == 0) = true) :
    plc 29 (fld n 29 3) (plc 18 (fld n 18 5) (plc 0 (fld n 0 2) (M * 2 ^ 23 + f * 2 ^ 3))) = n := by
  subst hM hf
  simp only [beq_iff_eq, Bool.and_eq_true] at hz
  obtain ⟨hz, hz1⟩ := hz
  obtain ⟨low, hbot, htop, hlow⟩ := exists_lowBits hn
  simp only [plc_fld]
  linarith [hlow 0 2 2 rfl, hlow 2 1 3 rfl, hlow 3 5 8 rfl, hlow 8 10 18 rfl, hlow 18 5 23 rfl, hlow 23 6 29 rfl, hlow 29 3 32 rfl]

theorem place_daSize {n M f : Nat} (hn : n < 2 ^ 32) (hM : bitsAt n 23 6 = M) (hf : bitsAt n 3 5 = f)
    (hz : (bitsAt n 2 1 == 0 && bitsAt n 8 5 == 0) = true) :
    plc 29 (fld n 29 3) (plc 18 (fld n 18 5) (plc 13 (fld n 13 5) (plc 0 (fld n 0 2) (M * 2 ^ 23 + f * 2 ^ 3)))) = n := by
  subst hM hf
  simp only [beq_iff_eq, Bool.and_eq_true] at hz
  obtain ⟨hz, hz1⟩ := hz
  obtain ⟨low, hbot, htop, hlow⟩ := exists_lowBits hn
  simp only [plc_fld]
  linarith [hlow 0 2 2 rfl, hlow 2 1 3 rfl, hlow 3 5 8 rfl, hlow 8 5 13 rfl, hlow 13 5 18 rfl, hlow 18 5 23 rfl, hlow 23 6 29 rfl, hlow 29 3 32 rfl]

theorem place_dabType {n M f : Nat} (hn : n < 2 ^ 32) (hM : bitsAt n 23 6 = M) (hf : bitsAt n 3 5 = f) :
    plc 29 (fld n 29 3) (plc 18 (fld n 18 5) (plc 13 (fld n 13 5) (plc 8 (fld n 8 5) (plc 0 (fld n 0 3) (M * 2 ^ 23 + f * 2 ^ 3))))) = n := by
  subst hM hf
  obtain ⟨low, hbot, htop, hlow⟩ := exists_lowBits hn
  simp only [plc_fld]
  linarith [hlow 0 3 3 rfl, hlow 3 5 8 rfl, hlow 8 5 13 rfl, hlow 13 5 18 rfl, hlow 18 5 23 rfl, hlow 23 6 29 rfl, hlow 29 3 32 rfl]

theorem place_daType {n M f : Nat} (hn : n < 2 ^ 32) (hM : bitsAt n 23 6 = M) (hf : bitsAt n 3 5 = f)
    (hz : (bitsAt n 8 5 == 0) = true) :
    plc 29 (fld n 29 3) (plc 18 (fld n 18 5) (plc 13 (fld n 13 5) (plc 0 (fld n 0 3) (M * 2 ^ 23 + f * 2 ^ 3)))) = n := by
  subst hM hf
  simp only [beq_iff_eq] at hz
  obtain ⟨low, hbot, htop, hlow⟩ := exists_lowBits hn
  simp only [plc_fld]
  linarith [hlow 0 3 3 rfl, hlow 3 5 8 rfl, hlow 8 5 13 rfl, hlow 13 5 18 rfl, hlow 18 5 23 rfl, hlow 23 6 29 rfl, hlow 29 3 32 rfl]

theorem place_dabWidth {n M f : Nat} (hn : n < 2 ^ 32) (hM : bitsAt n 23 6 = M) (hf : bitsAt n 0 5 = f)
    (hz : (bitsAt n 6 2 == 0) = true) :
    plc 29 (fld n 29 3) (plc 18 (fld n 18 5) (plc 13 (fld n 13 5) (plc 8 (fld n 8 5) (plc 5 (fld n 5 1) (M * 2 ^ 23 + f))))) = n := by
  subst hM hf
  simp only [beq_iff_eq] at hz
  obtain ⟨low, hbot, htop, hlow⟩ := exists_lowBits hn
  simp only [plc_fld]
  linarith [hlow 0 5 5 rfl, hlow 5 1 6 rfl, hlow 6 2 8 rfl, hlow 8 5 13 rfl, hlow 13 5 18 rfl, hlow 18 5 23 rfl, hlow 23 6 29 rfl, hlow 29 3 32 rfl]

theorem place_daWidth {n M f : Nat} (hn : n < 2 ^ 32) (hM : bitsAt n 23 6 = M) (hf : bitsAt n 0 5 = f)
    (hz : (bitsAt n 6 7 == 0) = true) :
    plc 29 (fld n 29 3) (plc 18 (fld n 18 5) (plc 13 (fld n 13 5) (plc 5 (fld n 5 1) (M * 2 ^ 23 + f)))) = n := by
  subst hM hf
  simp only [beq_iff_eq] at hz
  obtain ⟨low, hbot, htop, hlow⟩ := exists_lowBits hn
  simp only [plc_fld]
  linarith [hlow 0 5 5 rfl, hlow 5 1 6 rfl, hlow 6 7 13 rfl, hlow 13 5 18 rfl, hlow 18 5 23 rfl, hlow 23 6 29 rfl, hlow 29 3 32 rfl]

theorem place_abWidth {n M f : Nat} (hn : n < 2 ^ 32) (hM : bitsAt n 23 6 = M) (hf : bitsAt n 0 5 = f)
    (hz : (bitsAt n 6 2 == 0 && bitsAt n 18 5 == 0) = true) :
    plc 29 (fld n 29 3) (plc 13 (fld n 13 5) (plc 8 (fld n 8 5) (plc 5 (fld n 5 1) (M * 2 ^ 23 + f)))) = n := by
  subst hM hf
  simp only [beq_iff_eq, Bool.and_eq_true] at hz
  obtain ⟨hz, hz1⟩ := hz
  obtain ⟨low, hbot, htop, hlow⟩ := exists_lowBits hn
  simp only [plc_fld]
  linarith [hlow 0 5 5 rfl, hlow 5 1 6 rfl, hlow 6 2 8 rfl, hlow 8 5 13 rfl, hlow 13 5 18 rfl, hlow 18 5 23 rfl, hlow 23 6 29 rfl, hlow 29 3 32 rfl]

theorem place_daOrder {n M f : Nat} (hn : n < 2 ^ 32) (hM : bitsAt n 23 6 = M) (hf : bitsAt n 0 5 = f)
    (hz : (bitsAt n 8 5 == 0) = true) :
    plc 29 (fld n 29 3) (plc 18 (fld n 18 5) (plc 13 (fld n 13 5) (plc 6 (fld n 6 2) (plc 5 (fld n 5 1) (M * 2 ^ 23 + f))))) = n := by
  subst hM hf
  simp only [beq_iff_eq] at hz
  obtain ⟨low, hbot, htop, hlow⟩ := exists_lowBits hn
  simp only [plc_fld]
  linarith [hlow 0 5 5 rfl, hlow 5 1 6 rfl, hlow 6 2 8 rfl, hlow 8 5 13 rfl, hlow 13 5 18 rfl, hlow 18 5 23 rfl, hlow 23 6 29 rfl, hlow 29 3 32 rfl]

theorem place_abOrder {n M f : Nat} (hn : n < 2 ^ 32) (hM : bitsAt n 23 6 = M) (hf : bitsAt n 0 5 = f)
    (hz : (bitsAt n 18 5 == 0) = true) :
    plc 29 (fld n 29 3) (plc 13 (fld n 13 5) (plc 8 (fld n 8 5) (plc 6 (fld n 6 2) (plc 5 (fld n 5 1) (M * 2 ^ 23 + f))))) = n := by
  subst hM hf
  simp only [beq_iff_eq] at hz
  obtain ⟨low, hbot, htop, hlow⟩ := exists_lowBits hn
  simp only [plc_fld]
  linarith [hlow 0 5 5 rfl, hlow 5 1 6 rfl, hlow 6 2 8 rfl, hlow 8 5 13 rfl, hlow 13 5 18 rfl, hlow 18 5 23 rfl, hlow 23 6 29 rfl, hlow 29 3 32 rfl]

theorem place_daImm13 {n M : Nat} (hn : n < 2 ^ 32) (hM : bitsAt n 23 6 = M) :
    plc 29 (fld n 29 3) (plc 18 (fld n 18 5) (plc 13 (fld n 13 5) (plc 0 (fld n 0 13) (M * 2 ^ 23)))) = n := by
  subst hM
  obtain ⟨low, hbot, htop, hlow⟩ := exists_lowBits hn
  simp only [plc_fld]
  linarith [hlow 0 13 13 rfl, hlow 13 5 18 rfl, hlow 18 5 23 rfl, hlow 23 6 29 rfl, hlow 29 3 32 rfl]

theorem place_dImm18 {n M : Nat} (hn : n < 2 ^ 32) (hM : bitsAt n 23 6 = M) :
    plc 29 (fld n 29 3) (plc 18 (fld n 18 5) (plc 0 (fld n 0 18) (M * 2 ^ 23))) = n := by
  subst hM
  obtain ⟨low, hbot, htop, hlow⟩ := exists_lowBits hn
  simp only [plc_fld]
  linarith [hlow 0 18 18 rfl, hlow 18 5 23 rfl, hlow 23 6 29 rfl, hlow 29 3 32 rfl]

theorem place_daFullEmpty {n M : Nat} (hn : n < 2 ^ 32) (hM : bitsAt n 23 6 = M) :
    plc 29 (fld n 29 3) (plc 18 (fld n 18 5) (plc 13 (fld n 13 5) (plc 12 (fld n 12 1) (plc 10 (fld n 10 2) (plc 0 (fld n 0 10) (M * 2 ^ 23)))))) = n := by
  subst hM
  obtain ⟨low, hbot, htop, hlow⟩ := exists_lowBits hn
  simp only [plc_fld]
  linarith [hlow 0 10 10 rfl, hlow 10 2 12 rfl, hlow 12 1 13 rfl, hlow 13 5 18 rfl, hlow 18 5 23 rfl, hlow 23 6 29 rfl, hlow 29 3 32 rfl]

theorem place_imm23 {n M : Nat} (hn : n < 2 ^ 32) (hM : bitsAt n 23 6 = M) :
    plc 29 (fld n 29 3) (plc 0 (fld n 0 23) (M * 2 ^ 23)) = n := by
  subst hM
  obtain ⟨low, hbot, htop, hlow⟩ := exists_lowBits hn
  simp only [plc_fld]
  linarith [hlow 0 23 23 rfl, hlow 23 6 29 rfl, hlow 29 3 32 rfl]

theorem place_daTypes {n M : Nat} (hn : n < 2 ^ 32) (hM : bitsAt n 23 6 = M)
    (hz : (bitsAt n 8 5 == 0) = true) :
    plc 29 (fld n 29 3) (plc 18 (fld n 18 5) (plc 13 (fld n 13 5) (plc 4 (fld n 4 4) (plc 0 (fld n 0 4) (M * 2 ^ 23))))) = n := by
  subst hM
  simp only [beq_iff_eq] at hz
  obtain ⟨low, hbot, htop, hlow⟩ := exists_lowBits hn
  simp only [plc_fld]
  linarith [hlow 0 4 4 rfl, hlow 4 4 8 rfl, hlow 8 5 13 rfl, hlow 13 5 18 rfl, hlow 18 5 23 rfl, hlow 23 6 29 rfl, hlow 29 3 32 rfl]

theorem encodes_alu (hn : n < 2 ^ 32) (hm : bitsAt n 23 6 = 1) : Encodes n (decodeAlu n) := by
  unfold decodeAlu
  split
  iterate 26 next h => exact encodes_ok (place_dab hn hm h)
  iterate 5 next h => exact encodes_fixedIf fun hz => place_da hn hm h hz
  next h => exact encodes_ok (place_dab hn hm h)
  · exact encodes_error

theorem encodes_atom (hn : n < 2 ^ 32) (hm : bitsAt n 23 6 = 59) : Encodes n (decodeAtom n) := by
  unfold decodeAtom
  split
  iterate 11 next h => exact encodes_fixedIf fun hz => place_dabWidth hn hm h hz
  next h => exact encodes_fixedIf fun hz => place_daWidth hn hm h hz
  next h => exact encodes_fixedIf fun hz => place_abWidth hn hm h hz
  next h => exact encodes_fixedIf fun hz => place_daOrder hn hm h hz
  next h => exact encodes_fixedIf fun hz => place_abOrder hn hm h hz
  · exact encodes_error

theorem encodes_bar (hn : n < 2 ^ 32) (hm : bitsAt n 23 6 = 62) : Encodes n (decodeBar n) := by
  unfold decodeBar
  split
  iterate 4 next h => exact encodes_fixedIf fun hz => place_da hn hm h hz
  next h => exact encodes_ok (place_dab hn hm h)
  next h => exact encodes_fixedIf fun hz => place_d hn hm h hz
  iterate 2 next h => exact encodes_fixedIf fun hz => place_da hn hm h hz
  · exact encodes_error

theorem encodes_cha (hn : n < 2 ^ 32) (hm : bitsAt n 23 6 = 57) : Encodes n (decodeCha n) := by
  unfold decodeCha
  split
  iterate 2 next h => exact encodes_fixedIf fun hz => place_ab hn hm h hz
  iterate 2 next h => exact encodes_ok (place_dab hn hm h)
  next h => exact encodes_fixedIf fun hz => place_ab hn hm h hz
  next h => exact encodes_fixedIf fun hz => place_da hn hm h hz
  iterate 2 next h => exact encodes_fixedIf fun hz => place_ab hn hm h hz
  · exact encodes_error

theorem encodes_chx (hn : n < 2 ^ 32) (hm : bitsAt n 23 6 = 58) : Encodes n (decodeChx n) := by
  unfold decodeChx
  split
  next h => exact encodes_fixedIf fun hz => place_da hn hm h hz
  next h => exact encodes_fixedIf fun hz => place_ab hn hm h hz
  iterate 4 next h => exact encodes_ok (place_dab hn hm h)
  next h => exact encodes_fixedIf fun hz => place_wait hn hm h hz
  · exact encodes_error

theorem encodes_coach (hn : n < 2 ^ 32) (hm : bitsAt n 23 6 = 56) : Encodes n (decodeCoach n) := by
  unfold decodeCoach
  split
  next h => exact encodes_fixedIf fun hz => place_da hn hm h hz
  next h => exact encodes_fixedIf fun hz => place_d hn hm h hz
  iterate 2 next h => exact encodes_ok (place_dab hn hm h)
  next h => exact encodes_fixedIf fun hz => place_d hn hm h hz
  iterate 2 next h => exact encodes_ok (place_dab hn hm h)
  next h => exact encodes_fixedIf fun hz => place_wait hn hm h hz
  iterate 2 next h => exact encodes_ok (place_dab hn hm h)
  · exact encodes_error

theorem encodes_cpy (hn : n < 2 ^ 32) (hm : bitsAt n 23 6 = 14) : Encodes n (decodeCpy n) := by
  unfold decodeCpy
  split
  iterate 2 next h => exact encodes_ok (place_dab hn hm h)
  next h => exact encodes_fixedIf fun hz => place_da hn hm h hz
  iterate 4 next h => exact encodes_ok (place_dab hn hm h)
  next h => exact encodes_fixedIf fun hz => place_a hn hm h hz
  · exact encodes_error

theorem encodes_csr (hn : n < 2 ^ 32) (hm : bitsAt n 23 6 = 31) : Encodes n (decodeCsr n) := by
  unfold decodeCsr
  split
  next h => exact encodes_fixedIf fun hz => place_dCsr hn hm h hz
  iterate 3 next h => exact encodes_ok (place_daCsr hn hm h)
  · exact encodes_error

theorem encodes_fence (hn : n < 2 ^ 32) (hm : bitsAt n 23 6 = 61) : Encodes n (decodeFence n) := by
  unfold decodeFence
  split
  next h => exact encodes_fixedIf fun hz => place_a hn hm h hz
  next h => exact encodes_fixedIf fun hz => place_ab hn hm h hz
  iterate 3 next h => exact encodes_fixedIf fun hz => place_wait hn hm h hz
  next h => exact encodes_fixedIf fun hz => place_d hn hm h hz
  · exact encodes_error

theorem encodes_fma (hn : n < 2 ^ 32) (hm : bitsAt n 23 6 = 13) : Encodes n (decodeFma n) := by
  unfold decodeFma
  split
  iterate 6 next h => exact encodes_ok (place_dab hn hm h)
  · exact encodes_error

theorem encodes_fpu (hn : n < 2 ^ 32) (hm : bitsAt n 23 6 = 12) : Encodes n (decodeFpu n) := by
  unfold decodeFpu
  split
  iterate 4 next h => exact encodes_fixedIf fun hz => place_dabFormat hn hm h hz
  next h => exact encodes_fixedIf fun hz => place_daFormat hn hm h hz
  iterate 5 next h => exact encodes_fixedIf fun hz => place_dabFormat hn hm h hz
  iterate 8 next h => exact encodes_fixedIf fun hz => place_daFormat hn hm h hz
  · exact encodes_error

theorem encodes_info (hn : n < 2 ^ 32) (hm : bitsAt n 23 6 = 43) : Encodes n (decodeInfo n) := by
  unfold decodeInfo
  split
  next h => exact encodes_fixedIf fun hz => place_da hn hm h hz
  iterate 6 next h => exact encodes_fixedIf fun hz => place_d hn hm h hz
  next h => exact encodes_fixedIf fun hz => place_da hn hm h hz
  next h => exact encodes_fixedIf fun hz => place_db hn hm h hz
  · exact encodes_error

theorem encodes_mulBit (hn : n < 2 ^ 32) (hm : bitsAt n 23 6 = 2) : Encodes n (decodeMulBit n) := by
  unfold decodeMulBit
  split
  iterate 14 next h => exact encodes_ok (place_dab hn hm h)
  · exact encodes_error

theorem encodes_pbr (hn : n < 2 ^ 32) (hm : bitsAt n 23 6 = 40) : Encodes n (decodePbr n) := by
  unfold decodePbr
  split
  iterate 4 next h => exact encodes_ok (place_imm20 hn hm h)
  · exact encodes_error

theorem encodes_pred (hn : n < 2 ^ 32) (hm : bitsAt n 23 6 = 41) : Encodes n (decodePred n) := by
  unfold decodePred
  split
  next h => exact encodes_fixedIf fun hz => place_abSize hn hm h hz
  iterate 3 next h => exact encodes_fixedIf fun hz => place_size hn hm h hz
  iterate 2 next h => exact encodes_fixedIf fun hz => place_aSize hn hm h hz
  iterate 2 next h => exact encodes_fixedIf fun hz => place_dSize hn hm h hz
  iterate 2 next h => exact encodes_fixedIf fun hz => place_aSize hn hm h hz
  next h => exact encodes_fixedIf fun hz => place_daSize hn hm h hz
  next h => exact encodes_fixedIf fun hz => place_abSize hn hm h hz
  · exact encodes_error

theorem encodes_que (hn : n < 2 ^ 32) (hm : bitsAt n 23 6 = 29) : Encodes n (decodeQue n) := by
  unfold decodeQue
  split
  next h => exact encodes_fixedIf fun hz => place_ab hn hm h hz
  next h => exact encodes_ok (place_dab hn hm h)
  next h => exact encodes_fixedIf fun hz => place_db hn hm h hz
  next h => exact encodes_fixedIf fun hz => place_a hn hm h hz
  next h => exact encodes_ok (place_dab hn hm h)
  next h => exact encodes_fixedIf fun hz => place_da hn hm h hz
  next h => exact encodes_fixedIf fun hz => place_a hn hm h hz
  · exact encodes_error

theorem encodes_red (hn : n < 2 ^ 32) (hm : bitsAt n 23 6 = 60) : Encodes n (decodeRed n) := by
  unfold decodeRed
  split
  iterate 9 next h => exact encodes_fixedIf fun hz => place_abWidth hn hm h hz
  · exact encodes_error

theorem encodes_ring (hn : n < 2 ^ 32) (hm : bitsAt n 23 6 = 15) : Encodes n (decodeRing n) := by
  unfold decodeRing
  split
  next h => exact encodes_fixedIf fun hz => place_ringA hn hm h hz
  iterate 2 next h => exact encodes_fixedIf fun hz => place_ring hn hm h hz
  iterate 3 next h => exact encodes_fixedIf fun hz => place_ringA hn hm h hz
  · exact encodes_error

theorem encodes_shi (hn : n < 2 ^ 32) (hm : bitsAt n 23 6 = 9) : Encodes n (decodeShi n) := by
  unfold decodeShi
  split
  iterate 4 next h => exact encodes_fixedIf fun hz => place_daShift hn hm h hz
  · exact encodes_error

theorem encodes_sys (hn : n < 2 ^ 32) (hm : bitsAt n 23 6 = 30) : Encodes n (decodeSys n) := by
  unfold decodeSys
  split
  iterate 2 next h => exact encodes_fixedIf fun hz => place_a hn hm h hz
  next h => exact encodes_fixedIf fun hz => place_wait hn hm h hz
  next h => exact encodes_fixedIf fun hz => place_d hn hm h hz
  next h => exact encodes_fixedIf fun hz => place_a hn hm h hz
  next h => exact encodes_fixedIf fun hz => place_wait hn hm h hz
  next h => exact encodes_ok (place_dab hn hm h)
  · exact encodes_error

theorem encodes_task (hn : n < 2 ^ 32) (hm : bitsAt n 23 6 = 42) : Encodes n (decodeTask n) := by
  unfold decodeTask
  split
  iterate 2 next h => exact encodes_fixedIf fun hz => place_wait hn hm h hz
  next h => exact encodes_fixedIf fun hz => place_a hn hm h hz
  next h => exact encodes_fixedIf fun hz => place_da hn hm h hz
  next h => exact encodes_fixedIf fun hz => place_ab hn hm h hz
  iterate 2 next h => exact encodes_fixedIf fun hz => place_da hn hm h hz
  next h => exact encodes_fixedIf fun hz => place_ab hn hm h hz
  next h => exact encodes_fixedIf fun hz => place_wait hn hm h hz
  · exact encodes_error

theorem encodes_varith (hn : n < 2 ^ 32) (hm : bitsAt n 23 6 = 48) : Encodes n (decodeVarith n) := by
  unfold decodeVarith
  split
  iterate 20 next h => exact encodes_ok (place_dabType hn hm h)
  iterate 3 next h => exact encodes_fixedIf fun hz => place_daType hn hm h hz
  iterate 7 next h => exact encodes_ok (place_dabType hn hm h)
  · exact encodes_error

theorem encodes_vmem (hn : n < 2 ^ 32) (hm : bitsAt n 23 6 = 54) : Encodes n (decodeVmem n) := by
  unfold decodeVmem
  split
  iterate 6 next h => exact encodes_ok (place_dabType hn hm h)
  · exact encodes_error

theorem encodes_vmx (hn : n < 2 ^ 32) (hm : bitsAt n 23 6 = 55) : Encodes n (decodeVmx n) := by
  unfold decodeVmx
  split
  iterate 3 next h => exact encodes_ok (place_dab hn hm h)
  · exact encodes_error

theorem encodes_vperm (hn : n < 2 ^ 32) (hm : bitsAt n 23 6 = 51) : Encodes n (decodeVperm n) := by
  unfold decodeVperm
  split
  next h => exact encodes_fixedIf fun hz => place_daType hn hm h hz
  iterate 5 next h => exact encodes_ok (place_dabType hn hm h)
  iterate 4 next h => exact encodes_fixedIf fun hz => place_daType hn hm h hz
  · exact encodes_error

theorem encodes_vred (hn : n < 2 ^ 32) (hm : bitsAt n 23 6 = 50) : Encodes n (decodeVred n) := by
  unfold decodeVred
  split
  iterate 8 next h => exact encodes_fixedIf fun hz => place_daType hn hm h hz
  · exact encodes_error

theorem encodes_vseq (hn : n < 2 ^ 32) (hm : bitsAt n 23 6 = 53) : Encodes n (decodeVseq n) := by
  unfold decodeVseq
  split
  next h => exact encodes_ok (place_dab hn hm h)
  next h => exact encodes_fixedIf fun hz => place_wait hn hm h hz
  · exact encodes_error

theorem encodes_vsfu (hn : n < 2 ^ 32) (hm : bitsAt n 23 6 = 52) : Encodes n (decodeVsfu n) := by
  unfold decodeVsfu
  split
  iterate 8 next h => exact encodes_fixedIf fun hz => place_daType hn hm h hz
  · exact encodes_error

end arms

theorem encodes_decodeWord {n : Nat} (hn : n < 2 ^ 32) : Encodes n (decodeWord n) := by
  unfold decodeWord
  split
  next h => exact encodes_alu hn h
  next h => exact encodes_mulBit hn h
  iterate 6 next h => exact encodes_ok (place_daImm13 hn h)
  next h => exact encodes_shi hn h
  iterate 2 next h => exact encodes_ok (place_dImm18 hn h)
  next h => exact encodes_fpu hn h
  next h => exact encodes_fma hn h
  next h => exact encodes_cpy hn h
  next h => exact encodes_ring hn h
  iterate 7 next h => exact encodes_ok (place_daImm13 hn h)
  next h => exact encodes_ok (place_daFullEmpty hn h)
  iterate 4 next h => exact encodes_ok (place_daImm13 hn h)
  next h => exact encodes_ok (place_daFullEmpty hn h)
  next h => exact encodes_que hn h
  next h => exact encodes_sys hn h
  next h => exact encodes_csr hn h
  iterate 6 next h => exact encodes_ok (place_daImm13 hn h)
  next h => exact encodes_ok (place_imm23 hn h)
  next h => exact encodes_ok (place_daImm13 hn h)
  next h => exact encodes_pbr hn h
  next h => exact encodes_pred hn h
  next h => exact encodes_task hn h
  next h => exact encodes_info hn h
  next h => exact encodes_varith hn h
  next h => exact encodes_fixedIf fun hz => place_daTypes hn h hz
  next h => exact encodes_vred hn h
  next h => exact encodes_vperm hn h
  next h => exact encodes_vsfu hn h
  next h => exact encodes_vseq hn h
  next h => exact encodes_vmem hn h
  next h => exact encodes_vmx hn h
  next h => exact encodes_coach hn h
  next h => exact encodes_cha hn h
  next h => exact encodes_chx hn h
  next h => exact encodes_atom hn h
  next h => exact encodes_red hn h
  next h => exact encodes_fence hn h
  next h => exact encodes_bar hn h
  · exact encodes_error

/-! ## The round trip -/

theorem decodes (i : Instr) : Decodes i := by
  cases i with
  | add w d a b | sub w d a b | and w d a b | or w d a b | xor w d a b | andn w d a b | orn w d a b | xnor w d a b | sll w d a b
  | srl w d a b | sra w d a b | rol w d a b | ror w d a b | slt w d a b | sltu w d a b | min w d a b | max w d a b
  | minu w d a b | maxu w d a b | seq w d a b | sne w d a b | addw w d a b | subw w d a b | sllw w d a b | srlw w d a b
  | sraw w d a b | sext w d a b | mul w d a b | mulh w d a b | mulhu w d a b | mulw w d a b | div w d a b | divu w d a b
  | rem w d a b | remu w d a b | bilv2 w d a b | bilv3 w d a b | bdil3 w d a b | extu w d a b | exts w d a b | ins w d a b
  | fmas w d a b | fmad w d a b | fnmas w d a b | fnmad w d a b | fmss w d a b | fmsd w d a b | copy w d a b | copy2d w d a b
  | putx w d a b | getx w d a b | mcast w d a b | nred w d a b | deq w d a b | cdone w d a b | purseadd w d a b | vloop w d a b
  | vmxpack w d a b | vmxunpk w d a b | vscale w d a b | mma w d a b | mmr w d a b | mldc w d a b | mstc w d a b | maddc w d a b
  | mstat w d a b | dpush w d a b | dpull w d a b | bmac w d a b | bred w d a b | bclone w d a b | bfill w d a b | btest w d a b =>
    exact decodes_dab w d a b _ (by repeat constructor)
  | clz w d a | ctz w d a | popc w d a | brev w d a | bswap w d a | wincopy w d a | cchk w d a | spawn w d a | pusht w d a
  | popt w d a | homeof w d a | wrfrm w d a | macq w d a | xqget w d a | aqget w d a | binit w d a | barrive w d a
  | bexpect w d a | bwait w d a | lantern w d a | phase w d a =>
    exact decodes_da w d a _ (by repeat constructor)
  | addi w d a i | andi w d a i | ori w d a i | xori w d a i | slti w d a i | sltiu w d a i | ld w d a i | lw w d a i
  | lwu w d a i | lh w d a i | lhu w d a i | lb w d a i | lbu w d a i | sd w d a i | sw w d a i | sh w d a i | sb w d a i
  | beq w d a i | bne w d a i | blt w d a i | bge w d a i | bltu w d a i | bgeu w d a i | jalr w d a i =>
    exact decodes_daImm13 w d a i _ (by repeat constructor)
  | slli w d a h | srli w d a h | srai w d a h | rori w d a h =>
    exact decodes_daShift w d a h _ (by repeat constructor)
  | himm w d i | pchi w d i =>
    exact decodes_dImm18 w d i _ (by repeat constructor)
  | fadd w d a b t | fsub w d a b t | fmul w d a b t | fdiv w d a b t | fmin w d a b t | fmax w d a b t | feq w d a b t
  | flt w d a b t | fle w d a b t =>
    exact decodes_dabFormat w d a b t _ (by repeat constructor)
  | fsqrt w d a t | fclass w d a t | fcvti w d a t | fcvtu w d a t | fcvtf w d a t | fcvtfu w d a t | fcvtw w d a t
  | fneg w d a t | fabs w d a t =>
    exact decodes_daFormat w d a t _ (by repeat constructor)
  | cwait w a | launch w a | cancel w a | trap w a | eret w a | goto w a | fence w a =>
    exact decodes_a w a _ (by repeat constructor)
  | rinit w r a | rstat w r a | rwaitd w r a | rwaits w r a =>
    exact decodes_ringA w r a _ (by repeat constructor)
  | rpush w r | rpop w r =>
    exact decodes_ring w r _ (by repeat constructor)
  | lfe w d a c z o | sfe w d a c z o =>
    exact decodes_daFullEmpty w d a c z o _ (by repeat constructor)
  | enq w a b | spawnat w a b | wake w a b | drd w a b | dwr w a b | aqput w a b | dpref w a b | bsel w a b | xqput w a b
  | fencex w a b =>
    exact decodes_ab w a b _ (by repeat constructor)
  | qstat w d b | rdflags w d b =>
    exact decodes_db w d b _ (by repeat constructor)
  | brk w | restart w | endT w | yield w | park w | vsync w | msync w | bsync w | ifence w | qfence w | drain w =>
    exact decodes_wait w _ (by repeat constructor)
  | wfm w d | cubeof w d | vquery w d | rdcyc w d | rdpurse w d | rdfare w d | rdfrm w d | mrel w d | mzero w d | acks w d
  | binv w d =>
    exact decodes_d w d _ (by repeat constructor)
  | csrr w d k =>
    exact decodes_dCsr w d k
  | csrw w d a k | csrs w d a k | csrc w d a k =>
    exact decodes_daCsr w d a k _ (by repeat constructor)
  | jal w f0 =>
    exact decodes_imm23 w f0
  | pbrAny w f0 | pbrNone w f0 | pbrAll w f0 | pbrNall w f0 =>
    exact decodes_imm20 w f0 _ (by repeat constructor)
  | pwhile w a b z | pput w a b z =>
    exact decodes_abSize w a b z _ (by repeat constructor)
  | psetall w f0 | pclear w f0 | pnot w f0 =>
    exact decodes_size w f0 _ (by repeat constructor)
  | pload w a z | pstore w a z | pandm w a z | porm w a z =>
    exact decodes_aSize w a z _ (by repeat constructor)
  | pcount w d z | pfirst w d z =>
    exact decodes_dSize w d z _ (by repeat constructor)
  | pget w d a z =>
    exact decodes_daSize w d a z
  | vadd w d a b t | vsub w d a b t | vmul w d a b t | vmin w d a b t | vmax w d a b t | vminu w d a b t | vmaxu w d a b t
  | vand w d a b t | vor w d a b t | vxor w d a b t | vsll w d a b t | vsrl w d a b t | vsra w d a b t | vadds w d a b t
  | vsubs w d a b t | vmulh w d a b t | vabsd w d a b t | vfma w d a b t | vfms w d a b t | vdiv w d a b t | vcmpeq w d a b t
  | vcmpne w d a b t | vcmplt w d a b t | vcmple w d a b t | vcmpltu w d a b t | vsel w d a b t | vdot w d a b t | vshuf w d a b t
  | vslup w d a b t | vsldn w d a b t | vzip w d a b t | vuzp w d a b t | vgather w d a b t | vscatter w d a b t
  | vamoadd w d a b t | vamomax w d a b t | vamomin w d a b t | vredadd w d a b t =>
    exact decodes_dabType w d a b t _ (by repeat constructor)
  | vsqrt w d a t | vneg w d a t | vabs w d a t | vrsum w d a t | vrmax w d a t | vrmin w d a t | vrmaxi w d a t | vrmini w d a t
  | vrand w d a t | vror w d a t | vrxor w d a t | vbcast w d a t | vcmpr w d a t | vexpd w d a t | vmov w d a t | viota w d a t
  | vexp2 w d a t | vlog2 w d a t | vrsqrt w d a t | vrcp w d a t | vsin w d a t | vcos w d a t | vtanh w d a t | vsigm w d a t =>
    exact decodes_daType w d a t _ (by repeat constructor)
  | vconv w d a e t =>
    exact decodes_daTypes w d a e t
  | amoadd w d a b z | amoand w d a b z | amoor w d a b z | amoxor w d a b z | amomin w d a b z | amomax w d a b z
  | amominu w d a b z | amomaxu w d a b z | amoswap w d a b z | amocas w d a b z | amofadd w d a b z =>
    exact decodes_dabWidth w d a b z _ (by repeat constructor)
  | rsv w d a z =>
    exact decodes_daWidth w d a z
  | rls w a b z | redadd w a b z | redand w a b z | redor w a b z | redxor w a b z | redmin w a b z | redmax w a b z
  | redminu w a b z | redmaxu w a b z | redfadd w a b z =>
    exact decodes_abWidth w a b z _ (by repeat constructor)
  | ldaq w d a p z =>
    exact decodes_daOrder w d a p z
  | strl w a b p z =>
    exact decodes_abOrder w a b p z
  | waystationPowerOn | imageVerificationComplete | bootTimeout | waystationReset | memoryRailGood | memoryZeroingComplete
  | selfRefreshRequest | selfRefreshEntry | selfRefreshExit | memoryReset | computeRailGood | computeResetRelease
  | bringupComplete | quiesceRequest | quiesceResume | computeReset | computeRailOff | channelCacheWritebackComplete
  | dispatcherHeartbeat | domainWatchdogExpiry | travellerSwitchIn | dequeTaskStart | parkWaitComplete | storeBufferDrain
  | travellerArrival | heldArrivalAdmit | migrationAck | migrationBounce | taskPacketArrival | wakeDelivery | stealRequestSend
  | stealRequestServe | stealReply | stealBackoffExpiry | preemptionTaken | travellerSpill | spillAreaAdmit | strandNotice
  | cancelTaken | engineFaultDelivery | machineCheck | sealComplete | debugHaltTaken | addressMatchHalt | submissionEntryFetch
  | launchPlacement | quadGate | quadWakeComplete | selfTestDrainStart | selfTestStart | selfTestDefer | selfTestComplete
  | coreScrub | coreMoveComplete | groupWatchdogExpiry | heldPostWrite | enqueueCopyAccept | doorbellSetTail | doorbellSetHead
  | functionLevelReset | portHotReset | sequencerEmit | vectorCommandStart | vectorCommandComplete | matrixGrant
  | matrixCommandComplete | rotationWriteApply | courierCommandStart | courierCommandComplete | courierFault | engineWriteArrival
  | streamRecordStart | streamRecordComplete | streamRecordFault | bselApply | bankCommandComplete | rowSpareComplete | scrubPass
  | xTravellerGo | xTravellerStop | xTravellerStopComplete | lmBoundaryStage | lmdtbCommit | imageLoad | reservationGrant
  | reservationReleaseApply | redApply | barrierEventApply | remoteBarrierEvent | walkComplete | ptrootWrite | xlinvGo
  | xlinvComplete | mapChangeIssue | mapChangeSequence | mapChangeApply | restripeGranuleCopy | restripeCopyAck | cubeLossTimer
  | meterFlushTimer | leakageTick | refreshRow | kcorrUpdate | purseAddWrite | partcfgWrite | carveGo | carveStop | owndatWrite
  | halldatRead | halldatWrite | hccfgWrite | respgWrite | lanternSlotWrite | planEnable | dbgHaltTraveller | dbgResumeTraveller
  | dbgHaltLaunch | dbgResumeLaunch | linkRetrain | linkTrainComplete | linkTrainTimeout | laneFailure | linkSilenceTimeout
  | linkReplay | routeUpdate | heartbeatSend | packetTransit | packetReceive | connectionFetchComplete | e2eRetryTimeout
  | nakRetryResend | nakAbsentReceive | acknowledgementReceive | messageCountExpiry | arrivalFilterExpiry | bounceResend
  | reduceContributionArrival | multicastReceive | planAbort | escortCompare | escortTimeout | lanternRoundStart
  | lanternProbeArrival | lanternProbeRelease | lanternProbeReturn | lanternTimeout | lanternDoneMessage | trapMessageArrival
  | trapMessageSpillReturn | managementRead | managementWrite | managementReply | claim | handover | unlock | rekey | switch
  | fwchunk | attestRead | alarm | thermalReading | thermalShutdownTimer | registerWrite | waystationRailOff
  | spilledTravellerPlacement | planDisable | owndatApplyComplete | pstructRead => exact fun _ h => nomatch h
  | _ => -- SEAL, whose name is a keyword
    rename_i w a
    exact decodes_a w a _ (by repeat constructor)

theorem wordOfBytes_of_lt {n : Nat} (hn : n < 2 ^ 32) :
    wordOfBytes (BitVec.ofNat 8 n) (BitVec.ofNat 8 (n / 2 ^ 8)) (BitVec.ofNat 8 (n / 2 ^ 16)) (BitVec.ofNat 8 (n / 2 ^ 24)) = n := by
  simp only [wordOfBytes, BitVec.toNat_ofNat]
  omega

theorem decodeTableWord_eq_some {n : Nat} (hn : n < 2 ^ 32) (i : Instr) : decodeTableWord 32 n = some i ↔ decodeWord n = .ok i := by
  simp only [decodeTableWord, decode, bytesOfWord, wordOfBytes_of_lt hn]
  cases decodeWord n <;> simp [Except.map]

/-- Settles O60: form by form, the fields of an encoded word are the operands; arm by arm, a decoded word is the sum of its fields. -/
theorem roundTrip : Obligations.RoundTrip := by
  refine ⟨fun i n h => ?_, fun i n hn h => ?_⟩
  · obtain ⟨hlt, hdec⟩ := decodes i n h
    exact ⟨hlt, (decodeTableWord_eq_some hlt i).mpr hdec⟩
  · exact encodes_decodeWord hn i ((decodeTableWord_eq_some hn i).mp h)

end Sys2Proof
end

section
/-! PROOFS. The register-register ALU instructions (R101) and the poison of their operands (R99). -/

namespace Sys2Proof.Machine

-- One proof after the other: side by side they take more threads and memory than the check of the whole text has.
set_option Elab.async false

/-! ## Orders and rotations (R101) -/

theorem smin_eq (A B : Word) : smin A B = if A.toInt ≤ B.toInt then A else B := by
  unfold smin
  simp only [BitVec.slt_eq_decide, decide_eq_true_eq, ← not_lt, ite_not]
theorem smax_eq (A B : Word) : smax A B = if A.toInt ≤ B.toInt then B else A := by
  unfold smax
  rcases lt_trichotomy A.toInt B.toInt with h | h | h
  · simp [BitVec.slt_eq_decide, h, h.le]
  · simp [BitVec.toInt_inj.mp h]
  · simp [BitVec.slt_eq_decide, h.not_gt, h.not_ge]
theorem umin_eq (A B : Word) : umin A B = if A.toNat ≤ B.toNat then A else B := by
  unfold umin
  simp only [BitVec.ult_eq_decide, decide_eq_true_eq, ← not_lt, ite_not]
theorem umax_eq (A B : Word) : umax A B = if A.toNat ≤ B.toNat then B else A := by
  unfold umax
  rcases lt_trichotomy A.toNat B.toNat with h | h | h
  · simp [BitVec.ult_eq_decide, h, h.le]
  · simp [BitVec.toNat_inj.mp h]
  · simp [BitVec.ult_eq_decide, h.not_gt, h.not_ge]

/-- A rotation to the left is the rotation to the right by what is left of 64 bits. -/
theorem rorW_sub_eq_rotateLeft (A : Word) (n : Nat) (h : n < 64) : rorW A ((64 - n) % 64) = A.rotateLeft n := by
  rw [BitVec.rotateLeft_def, Nat.mod_eq_of_lt h, rorW]
  rcases Nat.eq_zero_or_pos n with rfl | hn
  · simp [BitVec.ushiftRight_eq_zero]
  · rw [Nat.mod_eq_of_lt (by omega), show 64 - (64 - n) = n by omega, BitVec.or_comm]

/-- Settles O1: each form computes the function its rule states. -/
theorem aluResults : Obligations.AluResults := by
  intro s x w d a b A B n m W A32 short bool hd hc
  have hn : n < 64 := Nat.mod_lt _ (by norm_num)
  refine ⟨?_, ?_, ?_, ?_, ?_, ?_, ?_, ?_, ?_, ?_, ?_, ?_, ?_, ?_, ?_, ?_, ?_, ?_, ?_, ?_, ?_, ?_, ?_, ?_, ?_, ?_⟩
  · exact answers_int3 (exec_add w d a b s) rfl hd hc rfl
  · exact answers_int3 (exec_sub w d a b s) rfl hd hc rfl
  · exact answers_int3 (exec_and w d a b s) rfl hd hc rfl
  · exact answers_int3 (exec_or w d a b s) rfl hd hc rfl
  · exact answers_int3 (exec_xor w d a b s) rfl hd hc rfl
  · exact answers_int3 (exec_andn w d a b s) rfl hd hc rfl
  · exact answers_int3 (exec_orn w d a b s) rfl hd hc rfl
  · exact answers_int3 (exec_xnor w d a b s) rfl hd hc rfl
  · exact answers_int3 (exec_sll w d a b s) rfl hd hc rfl
  · exact answers_int3 (exec_srl w d a b s) rfl hd hc rfl
  · exact answers_int3 (exec_sra w d a b s) rfl hd hc rfl
  · exact answers_int3 (exec_rol w d a b s) rfl hd hc (rorW_sub_eq_rotateLeft A n hn)
  · exact answers_int3 (exec_ror w d a b s) rfl hd hc (rorW_eq A n hn)
  · exact answers_int3 (exec_slt w d a b s) rfl hd hc (congrArg flag01 BitVec.slt_eq_decide)
  · exact answers_int3 (exec_sltu w d a b s) rfl hd hc (congrArg flag01 BitVec.ult_eq_decide)
  · exact answers_int3 (exec_min w d a b s) rfl hd hc (smin_eq A B)
  · exact answers_int3 (exec_max w d a b s) rfl hd hc (smax_eq A B)
  · exact answers_int3 (exec_minu w d a b s) rfl hd hc (umin_eq A B)
  · exact answers_int3 (exec_maxu w d a b s) rfl hd hc (umax_eq A B)
  · exact answers_int3 (exec_seq w d a b s) rfl hd hc (congrArg flag01 (beq_eq_decide A B))
  · exact answers_int3 (exec_sne w d a b s) rfl hd hc (congrArg flag01 (by rw [bne, beq_eq_decide, decide_not]))
  · exact answers_int3 (exec_addw w d a b s) rfl hd hc rfl
  · exact answers_int3 (exec_subw w d a b s) rfl hd hc rfl
  · exact answers_int3 (exec_sllw w d a b s) rfl hd hc rfl
  · exact answers_int3 (exec_srlw w d a b s) rfl hd hc rfl
  · exact answers_int3 (exec_sraw w d a b s) rfl hd hc rfl

end Sys2Proof.Machine
end

section
/-! PROOFS. The poison of operands (R99): each integer or floating-point form writes 0 with the poison bit. -/

namespace Sys2Proof.Machine

-- One proof after the other: side by side they take more threads and memory than the check of the whole text has.
set_option Elab.async false

/-! ## Poisoned operands, form by form (R98, R99, R108, R111) -/

section forms
variable {i : Instr} {m : Nat} {w : BitVec 3} {d a b : BitVec 5} {t : BitVec 1} {s : State} {x : Ctx} {lat fare : Nat}

theorem answers_int3_poison {f : Word → Word → Word} (hi : exec i s = int3 m w d a b s lat fare f)
    (he : encode i = some (plc 29 w (plc 18 d (plc 13 a (plc 8 b m))))) (hd : destOk d = true) (hc : Dirty s x [a, b])
    (hm : m + 2 ^ 23 ≤ 2 ^ 29 := by norm_num) : Answers s x i [a, b] (wrotePoison w fare x s d lat) := by
  rintro ⟨hx, hr, ha, hp⟩
  rw [hi]
  exact int3_poison m w d a b s x lat fare hm f hd hc hx hr (ha _ (plc_word3 m w d a b ▸ he)) hp

theorem answers_int3d_poison {f : Word → Word → Word → Word} (hi : exec i s = int3d m w d a b s f)
    (he : encode i = some (plc 29 w (plc 18 d (plc 13 a (plc 8 b m))))) (hd : destOk d = true) (hc : Dirty s x [a, b, d])
    (hm : m + 2 ^ 23 ≤ 2 ^ 29 := by norm_num) : Answers s x i [a, b, d] (wrotePoison w 0 x s d 1) := by
  rintro ⟨hx, hr, ha, hp⟩
  rw [hi]
  exact issue_after _ s _ x w [a, b, d] _ hx hr (ha _ (plc_word3 m w d a b ▸ he)) hp hd rfl (by simp) (by simp) (by simp)
    (word3_wait m hm w d a b) (congrArg Act.next (wrFrom_dirty x s [a, b, d] d _ 1 hc))

theorem answers_int2_poison {f : Word → Word} (hi : exec i s = int2 m w d a s f) (he : encode i = some (plc 29 w (plc 18 d (plc 13 a m))))
    (hd : destOk d = true) (hc : Dirty s x [a]) (hm : m + 2 ^ 23 ≤ 2 ^ 29 := by norm_num) :
    Answers s x i [a] (wrotePoison w 0 x s d 1) := by
  rintro ⟨hx, hr, ha, hp⟩
  rw [hi]
  exact int2_poison m w d a s x hm f hd hc hx hr (ha _ (plc_word3_da m w d a ▸ he)) hp

theorem answers_intI_poison {imm : BitVec 13} {f : Word → Word} {n : Nat} (hi : exec i s = intI m w d a imm s f) (he : encode i = some n)
    (hn : n = wordI m w d a imm) (hd : destOk d = true) (hc : Dirty s x [a]) (hm : m + 2 ^ 23 ≤ 2 ^ 29 := by norm_num) :
    Answers s x i [a] (wrotePoison w 0 x s d 1) := by
  rintro ⟨hx, hr, ha, hp⟩
  rw [hi]
  exact intI_poison m w d a s x imm hm f hd hc hx hr (ha _ (hn ▸ he)) hp

theorem answers_fpu3_poison {rounds : Bool} {f : Fmt → Rm → Nat → Nat → FRes} (hi : exec i s = fpu3 m w d a b t s rounds lat f)
    (he : encode i = some (plc 29 w (plc 18 d (plc 13 a (plc 8 b (plc 6 t m)))))) (hd : destOk d = true)
    (hf : frmIllegal (frmOf s x.c x.sl) = false) (hc : Dirty s x [a, b]) (hm : m + 2 ^ 23 ≤ 2 ^ 29 := by norm_num) :
    Answers s x i [a, b] (wrotePoison w 3 x s d lat) := by
  rintro ⟨hx, hr, ha, hp⟩
  rw [hi]
  exact issue_after _ s _ x w [a, b] _ hx hr (ha _ (plc_wordF m w d a b t ▸ he)) hp hd rfl (fun _ => hf) (by simp) (by simp)
    (wordF_wait m w d a b hm t) (congrArg Act.next (wrFloat_dirty d s x lat [a, b] _ hc))

theorem answers_fpu2_poison {rounds : Bool} {f : Ctx → State → Fmt → Word → FRes} (hi : exec i s = fpu2 m w d a t s rounds lat f)
    (he : encode i = some (plc 29 w (plc 18 d (plc 13 a (plc 6 t m))))) (hd : destOk d = true)
    (hf : frmIllegal (frmOf s x.c x.sl) = false) (hc : Dirty s x [a]) (hm : m + 2 ^ 23 ≤ 2 ^ 29 := by norm_num) :
    Answers s x i [a] (wrotePoison w 3 x s d lat) := by
  rintro ⟨hx, hr, ha, hp⟩
  rw [hi]
  exact issue_after _ s _ x w [a] _ hx hr (ha _ (plc_wordF_da m w d a t ▸ he)) hp hd rfl (fun _ => hf) (by simp) (by simp)
    (wordF_wait m w d a 0 hm t) (congrArg Act.next (wrFloat_dirty d s x lat [a] _ hc))

theorem answers_fma3_poison {negP negC : Bool} (hi : exec i s = fma3 m w d a b t s negP negC)
    (he : encode i = some (plc 29 w (plc 18 d (plc 13 a (plc 8 b m))))) (hd : destOk d = true)
    (hf : frmIllegal (frmOf s x.c x.sl) = false) (hc : Dirty s x [a, b, d]) (hm : m + 2 ^ 23 ≤ 2 ^ 29 := by norm_num) :
    Answers s x i [a, b, d] (wrotePoison w 3 x s d (fpuLat t)) := by
  rintro ⟨hx, hr, ha, hp⟩
  rw [hi]
  exact issue_after _ s _ x w [a, b, d] _ hx hr (ha _ (plc_word3 m w d a b ▸ he)) hp hd rfl (fun _ => hf) (by simp) (by simp)
    (word3_wait m hm w d a b) (congrArg Act.next (wrFloat_dirty d s x (fpuLat t) [a, b, d] _ hc))

end forms

/-- Settles O4: the forms of two operands, of three, and of one. -/
theorem poisonPropagates : Obligations.PoisonPropagates := by
  intro s x w d a b i h t fl hd hf
  simp only [List.forall_mem_cons, List.not_mem_nil, IsEmpty.forall_iff, implies_true, and_true, and_assoc]
  refine ⟨?_, ?_, ?_, ?_, ?_, ?_, ?_, ?_, ?_, ?_, ?_, ?_, ?_, ?_, ?_, ?_, ?_, ?_, ?_, ?_, ?_, ?_, ?_, ?_, ?_, ?_, ?_, ?_, ?_, ?_, ?_, ?_, ?_, ?_, ?_, ?_, ?_, ?_, ?_, ?_, ?_, ?_, ?_, ?_, ?_, ?_, ?_, ?_, ?_, ?_, ?_, ?_, ?_, ?_, ?_, ?_, ?_, ?_, ?_, ?_, ?_, ?_, ?_, ?_, ?_, ?_, ?_, ?_, ?_, ?_, ?_, ?_, ?_, ?_, ?_, ?_, ?_, ?_, ?_, ?_⟩
  · exact fun hc => answers_int3_poison (exec_add w d a b s) rfl hd hc
  · exact fun hc => answers_int3_poison (exec_sub w d a b s) rfl hd hc
  · exact fun hc => answers_int3_poison (exec_and w d a b s) rfl hd hc
  · exact fun hc => answers_int3_poison (exec_or w d a b s) rfl hd hc
  · exact fun hc => answers_int3_poison (exec_xor w d a b s) rfl hd hc
  · exact fun hc => answers_int3_poison (exec_andn w d a b s) rfl hd hc
  · exact fun hc => answers_int3_poison (exec_orn w d a b s) rfl hd hc
  · exact fun hc => answers_int3_poison (exec_xnor w d a b s) rfl hd hc
  · exact fun hc => answers_int3_poison (exec_sll w d a b s) rfl hd hc
  · exact fun hc => answers_int3_poison (exec_srl w d a b s) rfl hd hc
  · exact fun hc => answers_int3_poison (exec_sra w d a b s) rfl hd hc
  · exact fun hc => answers_int3_poison (exec_rol w d a b s) rfl hd hc
  · exact fun hc => answers_int3_poison (exec_ror w d a b s) rfl hd hc
  · exact fun hc => answers_int3_poison (exec_slt w d a b s) rfl hd hc
  · exact fun hc => answers_int3_poison (exec_sltu w d a b s) rfl hd hc
  · exact fun hc => answers_int3_poison (exec_min w d a b s) rfl hd hc
  · exact fun hc => answers_int3_poison (exec_max w d a b s) rfl hd hc
  · exact fun hc => answers_int3_poison (exec_minu w d a b s) rfl hd hc
  · exact fun hc => answers_int3_poison (exec_maxu w d a b s) rfl hd hc
  · exact fun hc => answers_int3_poison (exec_seq w d a b s) rfl hd hc
  · exact fun hc => answers_int3_poison (exec_sne w d a b s) rfl hd hc
  · exact fun hc => answers_int3_poison (exec_addw w d a b s) rfl hd hc
  · exact fun hc => answers_int3_poison (exec_subw w d a b s) rfl hd hc
  · exact fun hc => answers_int3_poison (exec_sllw w d a b s) rfl hd hc
  · exact fun hc => answers_int3_poison (exec_srlw w d a b s) rfl hd hc
  · exact fun hc => answers_int3_poison (exec_sraw w d a b s) rfl hd hc
  · exact fun hc => answers_int3_poison (exec_sext w d a b s) rfl hd hc
  · exact fun hc => answers_int3_poison (exec_mul w d a b s) rfl hd hc
  · exact fun hc => answers_int3_poison (exec_mulh w d a b s) rfl hd hc
  · exact fun hc => answers_int3_poison (exec_mulhu w d a b s) rfl hd hc
  · exact fun hc => answers_int3_poison (exec_mulw w d a b s) rfl hd hc
  · exact fun hc => answers_int3_poison (exec_div w d a b s) rfl hd hc
  · exact fun hc => answers_int3_poison (exec_divu w d a b s) rfl hd hc
  · exact fun hc => answers_int3_poison (exec_rem w d a b s) rfl hd hc
  · exact fun hc => answers_int3_poison (exec_remu w d a b s) rfl hd hc
  · exact fun hc => answers_int3_poison (exec_bilv2 w d a b s) rfl hd hc
  · exact fun hc => answers_int3_poison (exec_bdil3 w d a b s) rfl hd hc
  · exact fun hc => answers_int3_poison (exec_extu w d a b s) rfl hd hc
  · exact fun hc => answers_int3_poison (exec_exts w d a b s) rfl hd hc
  · exact fun hc => answers_fpu3_poison (exec_fadd w d a b t s) rfl hd hf hc
  · exact fun hc => answers_fpu3_poison (exec_fsub w d a b t s) rfl hd hf hc
  · exact fun hc => answers_fpu3_poison (exec_fmul w d a b t s) rfl hd hf hc
  · exact fun hc => answers_fpu3_poison (exec_fdiv w d a b t s) rfl hd hf hc
  · exact fun hc => answers_fpu3_poison (exec_fmin w d a b t s) rfl hd hf hc
  · exact fun hc => answers_fpu3_poison (exec_fmax w d a b t s) rfl hd hf hc
  · exact fun hc => answers_fpu3_poison (exec_feq w d a b t s) rfl hd hf hc
  · exact fun hc => answers_fpu3_poison (exec_flt w d a b t s) rfl hd hf hc
  · exact fun hc => answers_fpu3_poison (exec_fle w d a b t s) rfl hd hf hc
  · exact fun hc => answers_int3d_poison (exec_bilv3 w d a b s) rfl hd hc
  · exact fun hc => answers_int3d_poison (exec_ins w d a b s) rfl hd hc
  · exact fun hc => answers_fma3_poison (t := 0) (exec_fmas w d a b s) rfl hd hf hc
  · exact fun hc => answers_fma3_poison (t := 1) (exec_fmad w d a b s) rfl hd hf hc
  · exact fun hc => answers_fma3_poison (t := 0) (exec_fnmas w d a b s) rfl hd hf hc
  · exact fun hc => answers_fma3_poison (t := 1) (exec_fnmad w d a b s) rfl hd hf hc
  · exact fun hc => answers_fma3_poison (t := 0) (exec_fmss w d a b s) rfl hd hf hc
  · exact fun hc => answers_fma3_poison (t := 1) (exec_fmsd w d a b s) rfl hd hf hc
  · exact fun hc => answers_int2_poison (exec_clz w d a s) rfl hd hc
  · exact fun hc => answers_int2_poison (exec_ctz w d a s) rfl hd hc
  · exact fun hc => answers_int2_poison (exec_popc w d a s) rfl hd hc
  · exact fun hc => answers_int2_poison (exec_brev w d a s) rfl hd hc
  · exact fun hc => answers_int2_poison (exec_bswap w d a s) rfl hd hc
  · exact fun hc => answers_intI_poison (exec_addi w d a i s) rfl (plc_wordI _ w d a i) hd hc
  · exact fun hc => answers_intI_poison (exec_andi w d a i s) rfl (plc_wordI _ w d a i) hd hc
  · exact fun hc => answers_intI_poison (exec_ori w d a i s) rfl (plc_wordI _ w d a i) hd hc
  · exact fun hc => answers_intI_poison (exec_xori w d a i s) rfl (plc_wordI _ w d a i) hd hc
  · exact fun hc => answers_intI_poison (exec_slti w d a i s) rfl (plc_wordI _ w d a i) hd hc
  · exact fun hc => answers_intI_poison (exec_sltiu w d a i s) rfl (plc_wordI _ w d a i) hd hc
  · exact fun hc => answers_intI_poison (exec_slli w d a h s) rfl (plc_shImm 0 (by decide) w d a h) hd hc
  · exact fun hc => answers_intI_poison (exec_srli w d a h s) rfl (plc_shImm 1 (by decide) w d a h) hd hc
  · exact fun hc => answers_intI_poison (exec_srai w d a h s) rfl (plc_shImm 2 (by decide) w d a h) hd hc
  · exact fun hc => answers_intI_poison (exec_rori w d a h s) rfl (plc_shImm 3 (by decide) w d a h) hd hc
  · exact fun hc => answers_fpu2_poison (exec_fsqrt w d a t s) rfl hd hf hc
  · exact fun hc => answers_fpu2_poison (exec_fclass w d a t s) rfl hd hf hc
  · exact fun hc => answers_fpu2_poison (exec_fcvti w d a t s) rfl hd hf hc
  · exact fun hc => answers_fpu2_poison (exec_fcvtu w d a t s) rfl hd hf hc
  · exact fun hc => answers_fpu2_poison (exec_fcvtf w d a t s) rfl hd hf hc
  · exact fun hc => answers_fpu2_poison (exec_fcvtfu w d a t s) rfl hd hf hc
  · exact fun hc => answers_fpu2_poison (exec_fcvtw w d a t s) rfl hd hf hc
  · exact fun hc => answers_fpu2_poison (exec_fneg w d a t s) rfl hd hf hc
  · exact fun hc => answers_fpu2_poison (exec_fabs w d a t s) rfl hd hf hc

end Sys2Proof.Machine
end

section
/-! PROOFS. The issue of an instruction (R59): once its checks pass, it answers what its body answers. -/

namespace Sys2Proof.Machine

-- One proof after the other: side by side they take more threads and memory than the check of the whole text has.
set_option Elab.async false

/-- Instruction `i`, with wait field `w`, fare class `k` and read registers `rs`, is the issue `iss` with body `body`, and what the
checks of R59 ask of its fields and of the traveller holds. -/
structure IssuedBy (s : State) (x : Ctx) (i : Instr) (rs : List (BitVec 5)) (w : BitVec 3) (k : Nat) (iss : Issue)
    (body : Ctx → State → Act) : Prop where
  exec : exec i s = issue iss s body
  word : encode i = some iss.word := by
    refine congrArg some ?_; simp only [word3, wordI, wordF, wordP, wordB, wordA, plc, BitVec.ofNat_eq_ofNat, BitVec.toNat_zero]; omega
  wait : iss.word / 2 ^ 29 % 8 = w.toNat := by simp only [word3, wordI, wordF, wordP, wordB, wordA, BitVec.ofNat_eq_ofNat, BitVec.toNat_zero]; omega
  fare : iss.fare = k := by rfl
  reads : iss.reads = rs.map BitVec.toNat := by rfl
  legal : iss.legal = true := by rfl
  rounds : iss.rounds = true → frmIllegal (frmOf s x.c x.sl) = false := by simp
  level : iss.level ≤ (slot s x.c x.sl).lvl := by simp
  sync : ∀ r ∈ iss.sync, x.poisoned (now s x) r = false := by simp

namespace IssuedBy
variable {s u : State} {x : Ctx} {i : Instr} {rs : List (BitVec 5)} {w : BitVec 3} {k : Nat} {iss : Issue} {body : Ctx → State → Act}

/-- Where the instruction issues, no check of R59 traps. -/
theorem issueTrap_eq_none (h : IssuedBy s x i rs w k iss body) (hi : Issues s x i rs) : issueTrap iss x (now s x) = none := by
  obtain ⟨-, -, ha, hp⟩ := hi
  refine issueTrap_none iss x _ h.legal (ha _ h.word) (by simpa using h.rounds) (by simpa using h.level) ?_ h.sync
  rw [h.reads]
  exact pendOf_now_of_readable hp

theorem answers_next (h : IssuedBy s x i rs w k iss body) (hb : body x (now s x) = .next u) : Answers s x i rs (after w k x u) := by
  intro hi
  rw [h.exec, issue_body iss s x body hi.1 hi.2.1 (h.issueTrap_eq_none hi), hb, ← h.fare]
  exact congrArg _ (retire_eq_after iss w x u h.wait)

theorem answers_jump {pc : Word} (h : IssuedBy s x i rs w k iss body) (hb : body x (now s x) = .jump u pc) :
    Answers s x i rs (afterJump w k x u pc) := by
  intro hi
  rw [h.exec, issue_body iss s x body hi.1 hi.2.1 (h.issueTrap_eq_none hi), hb, ← h.fare]
  exact congrArg _ (retire_eq_afterJump iss w x u pc h.wait)

theorem answers_trap {t : TrapInfo} (h : IssuedBy s x i rs w k iss body) (hb : body x (now s x) = .trap t) :
    Answers s x i rs (trapped x s t) := by
  intro hi
  rw [h.exec, issue_body iss s x body hi.1 hi.2.1 (h.issueTrap_eq_none hi), hb]
  rfl

theorem answers_trapIn {t : TrapInfo} (h : IssuedBy s x i rs w k iss body) (hb : body x (now s x) = .trapIn u t) :
    Answers s x i rs (takeTrap u x.c x.x x.sl x.pc t) := by
  intro hi
  rw [h.exec, issue_body iss s x body hi.1 hi.2.1 (h.issueTrap_eq_none hi), hb]

theorem answers_park {reason : Nat} {cond : Cond} (h : IssuedBy s x i rs w k iss body) (hb : body x (now s x) = .park reason cond u) :
    Answers s x i rs (parked k x u iss.word reason cond) := by
  intro hi
  rw [h.exec, issue_body iss s x body hi.1 hi.2.1 (h.issueTrap_eq_none hi), hb, ← h.fare]
  rfl

theorem answers_hold (h : IssuedBy s x i rs w k iss body) (hb : body x (now s x) = .hold u) (hd : dramHeld u x = none) :
    Answers s x i rs (held x u) := by
  intro hi
  rw [h.exec, issue_body iss s x body hi.1 hi.2.1 (h.issueTrap_eq_none hi), hb]
  dsimp only
  rw [hd]
  rfl

theorem answers_leave (h : IssuedBy s x i rs w k iss body) (hb : body x (now s x) = .leave u) : Answers s x i rs u := by
  intro hi
  rw [h.exec, issue_body iss s x body hi.1 hi.2.1 (h.issueTrap_eq_none hi), hb]

end IssuedBy

/-- A parked instruction that runs again sees its reply, and the checks of R59 are not made again (R74). -/
theorem resumes_of_next {s u : State} {x : Ctx} {i : Instr} {r : Reply} {w : BitVec 3} {k : Nat} {iss : Issue} {body : Ctx → State → Act}
    (he : exec i s = issue iss s body) (hw : iss.word / 2 ^ 29 % 8 = w.toNat) (hk : iss.fare = k) (hr : ∀ t, r ≠ .trap t)
    (hb : x.reply = some r → body x (now s x) = .next u) : Resumes s x i r (after w k x u) := by
  intro hx hreply
  rw [he, ← hk, ← retire_eq_after iss w x u hw]
  unfold issue
  rw [hx]
  cases r with
  | trap t => exact absurd rfl (hr t)
  | _ => simp only [hreply, hb hreply, Option.isNone_some, Bool.false_eq_true, if_false]

end Sys2Proof.Machine
end

section
/-! PROOFS. What the state in which an instruction acts keeps of the state before (R47, R52). -/

namespace Sys2Proof.Machine

-- One proof after the other: side by side they take more threads and memory than the check of the whole text has.
set_option Elab.async false

section now
variable (s : State) (x : Ctx)

/-- It changes the cycle, FLAGS of the traveller's workspace and the pending flags of the stream: what looks at none of them is the same. -/
theorem now_congr {α : Sort*} (g : State → α) (hg : ∀ t m st, g { s with cycle := t, mem := m, streams := st } = g s) : g (now s x) = g s := by
  obtain ⟨m, st, h, -⟩ := now_eq s x
  rw [h, hg]

@[simp] theorem now_cycle : (now s x).cycle = x.t := by
  obtain ⟨m, st, h, -⟩ := now_eq s x
  rw [h]
@[simp] theorem now_regs : (now s x).regs = s.regs := now_congr s x State.regs fun _ _ _ => rfl
@[simp] theorem now_memDom : (now s x).memDom = s.memDom := now_congr s x State.memDom fun _ _ _ => rfl
@[simp] theorem now_barEvents : (now s x).barEvents = s.barEvents := now_congr s x State.barEvents fun _ _ _ => rfl
@[simp] theorem now_net : (now s x).net = s.net := now_congr s x State.net fun _ _ _ => rfl
@[simp] theorem purse_now (k : Nat) : purse (now s x) k = purse s k := now_congr s x (purse · k) fun _ _ _ => rfl
@[simp] theorem chan_now (c : Nat) : chan (now s x) c = chan s c := now_congr s x (chan · c) fun _ _ _ => rfl
@[simp] theorem regField_now (b o h l : Nat) : regField (now s x) b o h l = regField s b o h l :=
  now_congr s x (regField · b o h l) fun _ _ _ => rfl
@[simp] theorem cubeId_now : cubeId (now s x) = cubeId s := regField_now s x _ _ _ _
@[simp] theorem tenant_now (p : Nat) : tenant (now s x) p = tenant s p := regField_now s x _ _ _ _
@[simp] theorem ecxOf_now : ecxOf (now s x) x.c x.sl = ecxOf s x.c x.sl := wsRd_now s x _ _ (by omega)
@[simp] theorem holdOf_now : holdOf (now s x) x.c x.sl = holdOf s x.c x.sl := wsRd_now s x _ _ (by omega)
@[simp] theorem tidOf_now : tidOf (now s x) x.c x.sl = tidOf s x.c x.sl := wsRd_now s x _ _ (by omega)
@[simp] theorem status_now : status (now s x) x.c x.sl = status s x.c x.sl := wsRd_now s x _ _ (by omega)
@[simp] theorem predOf_now : predOf (now s x) x.c x.sl = predOf s x.c x.sl := congrArg (BitVec.ofNat 256) (wsRd_now s x 200 32 (by omega))
@[simp] theorem statusBit_now (k : Nat) : statusBit (now s x) x.c x.sl k = statusBit s x.c x.sl k := by simp only [statusBit, status_now]

/-- The stream's store buffer is the same. -/
@[simp] theorem stream_now_sb : (stream (now s x) x.c x.x).sb = (stream s x.c x.x).sb := by
  obtain ⟨m, st, h, -, hst⟩ := now_eq s x
  have : stream (now s x) x.c x.x = stream { s with mem := m, streams := st } x.c x.x := by rw [h]; rfl
  rw [this, hst]
@[simp] theorem dramHeld_now : dramHeld (now s x) x = dramHeld s x := by simp only [dramHeld, now_memDom, stream_now_sb]
@[simp] theorem sbOf_now : sbOf (now s x) x.c x.x x.sl = sbOf s x.c x.x x.sl := by simp only [sbOf, stream_now_sb]
@[simp] theorem barOut_now (c sl : Nat) : barOut (now s x) c sl = barOut s c sl := by simp only [barOut, now_barEvents, cubeId_now]
@[simp] theorem barOnWay_now (c : Nat) (b : Bool) : barOnWay (now s x) c b = barOnWay s c b := by simp only [barOnWay, now_barEvents, cubeId_now]
@[simp] theorem coreOutstanding_now : coreOutstanding (now s x) x.c x.x x.sl = coreOutstanding s x.c x.x x.sl := by
  simp only [coreOutstanding, sbOf_now, barOut_now, now_net]
@[simp] theorem recsOf_now : recsOf (now s x) x.c x.sl = recsOf s x.c x.sl := by simp only [recsOf, core_now, chan_now, tidOf_now]
@[simp] theorem hasLoop_now : hasLoop (now s x) x.c x.sl = hasLoop s x.c x.sl := by simp only [hasLoop, core_now, tidOf_now]
@[simp] theorem hasCommands_now : hasCommands (now s x) x.c x.sl = hasCommands s x.c x.sl := by simp only [hasCommands, recsOf_now, hasLoop_now]
@[simp] theorem faultedRec_now (f : Rec → Bool) : faultedRec (now s x) x.c x.sl f = faultedRec s x.c x.sl f := by simp only [faultedRec, recsOf_now]
@[simp] theorem portRoom_now : portRoom (now s x) = portRoom s := now_congr s x portRoom fun _ _ _ => rfl
@[simp] theorem countPort_now (cube e : Nat) : countPort (now s x) cube e = countPort s cube e := by simp only [countPort, cubeId_now, portRoom_now]
@[simp] theorem resvPort_now (c sl : Nat) : resvPort (now s x) c sl = resvPort s c sl := by simp only [resvPort, slot_now, portRoom_now]

theorem drainAll_now_of_quiet {s : State} {x : Ctx} (h : Quiet s x) : drainAll (now s x) x = none := by
  obtain ⟨hsb, hbar⟩ := h
  simp only [drainAll, stream_now_sb, barOnWay_now, hsb, hbar, List.isEmpty_nil, Bool.not_false, Bool.and_true, if_true]

theorem drainStep_now_of_drained {s : State} {x : Ctx} (h : Drained s x) : drainStep (now s x) x = none := by
  obtain ⟨hsb, hbar⟩ := h
  have : sbOf s x.c x.x x.sl = [] := List.filter_eq_nil_iff.mpr fun e he => by simpa using hsb e he
  simp only [drainStep, sbOf_now, barOut_now, this, hbar, List.isEmpty_nil, Bool.not_false, Bool.and_true, if_true]

end now
end Sys2Proof.Machine
end

section
/-! PROOFS. Jumps and predicate branches (R122 to R124). -/

namespace Sys2Proof.Machine

-- One proof after the other: side by side they take more threads and memory than the check of the whole text has.
set_option Elab.async false

/-! ## Targets (R107, R124) -/

section targets
variable {s : State} {x : Ctx} {t : Word}

theorem jumpTo_of_names {n : Nat} (link : State → State) (hn : InCode s x.c n) (ht : Names x.c t n) :
    jumpTo x (now s x) t link = .jump (link (now s x)) (BitVec.ofNat 64 (aliasBase x.c + n)) := by
  simp only [jumpTo, codeTarget_now, codeTarget_of_names s x.c n t hn ht]

theorem jumpTo_outside (link : State → State) (ht : ∀ n, ¬ (InCode s x.c n ∧ Names x.c t n)) :
    jumpTo x (now s x) t link = .trap { cause := .bounds, addr := t } := by
  simp only [jumpTo, codeTarget_now, codeTarget_eq_none s x.c t fun n hn hnames => ht n ⟨hn, hnames⟩]

end targets

/-! ## Predicate branches (R123) -/

section pbr
variable {s : State} {x : Ctx} {i : Instr} {w : BitVec 3} {o : BitVec 20} {cond n : Nat}

/-- The test that `PBR` makes of P. -/
def pbrTest (cond : Nat) (p : BitVec 256) : Bool := match cond with
  | 0 => p != 0
  | 1 => p == 0
  | 2 => p == BitVec.allOnes 256
  | _ => p != BitVec.allOnes 256

theorem pbr_eq (cond : Nat) (w : BitVec 3) (o : BitVec 20) (s : State) :
    pbr cond w o s = issue { word := 0x14000000 + w.toNat * 2 ^ 29 + cond * 2 ^ 20 + o.toNat } s fun x s =>
      if pbrTest cond (predOf s x.c x.sl) then jumpTo x s (target x.pc o) id else .next s := rfl

theorem pbrTest_any_iff (p : BitVec 256) : pbrTest 0 p = true ↔ ∃ i < 256, p.getLsbD i = true := by
  refine bne_iff_ne.trans ?_
  rw [ne_eq, ← not_iff_not, not_not]
  constructor
  · rintro rfl; simp
  · intro h
    refine BitVec.eq_of_getLsbD_eq fun i hi => ?_
    have := not_exists.mp h i
    simp_all

theorem pbrTest_notAll_iff (p : BitVec 256) : pbrTest 3 p = true ↔ ∃ i < 256, p.getLsbD i = false := by
  refine bne_iff_ne.trans ?_
  rw [ne_eq, ← not_iff_not, not_not]
  constructor
  · rintro rfl ⟨i, hi, h⟩
    rw [BitVec.getLsbD_allOnes, decide_eq_true hi] at h
    cases h
  · refine fun h => BitVec.eq_of_getLsbD_eq fun i hi => ?_
    rw [BitVec.getLsbD_allOnes, decide_eq_true hi, ← Bool.not_eq_false]
    exact fun hf => h ⟨i, hi, hf⟩

theorem pbrTest_none (p : BitVec 256) : pbrTest 1 p = !pbrTest 0 p := (Bool.not_not (p == 0)).symm
theorem pbrTest_all (p : BitVec 256) : pbrTest 2 p = !pbrTest 3 p := (Bool.not_not (p == BitVec.allOnes 256)).symm

theorem issuedBy_pbr (hi : exec i s = pbr cond w o s) (he : encode i = some (plc 29 w (plc 0 o (0x14000000 + cond * 2 ^ 20))))
    (hcond : cond < 4) : ∃ iss, IssuedBy s x i [] w 0 iss fun x s =>
      if pbrTest cond (predOf s x.c x.sl) then jumpTo x s (target x.pc o) id else .next s :=
  ⟨_, { exec := hi.trans (pbr_eq cond w o s), word := he.trans (congrArg some (by simp only [plc]; omega)) }⟩

/-- `PBR` with its target in the code region through its own window goes there when its test of P says so. -/
theorem answers_pbr (hi : exec i s = pbr cond w o s) (he : encode i = some (plc 29 w (plc 0 o (0x14000000 + cond * 2 ^ 20))))
    (hcond : cond < 4) (hn : InCode s x.c n) (ht : (target x.pc o).toNat = aliasBase x.c + n) :
    (pbrTest cond (predOf s x.c x.sl) = true → Answers s x i [] (afterJump w 0 x (now s x) (target x.pc o)))
    ∧ (pbrTest cond (predOf s x.c x.sl) = false → Answers s x i [] (after w 0 x (now s x))) := by
  obtain ⟨iss, h⟩ := issuedBy_pbr (x := x) hi he hcond
  refine ⟨fun hp => h.answers_jump ?_, fun hp => h.answers_next ?_⟩ <;> simp only [predOf_now, hp]
  · rw [if_true, jumpTo_of_names id hn (.inl ht), ← ht, BitVec.ofNat_toNat, BitVec.setWidth_eq]
    rfl
  · rfl

end pbr

/-- Settles O9: the target is taken exactly when it names a byte of the code region, and P decides about PBR. -/
theorem jumpsAndPredicateBranches : Obligations.JumpsAndPredicateBranches := by
  constructor
  · intro s x w d a i o J R inCode lands
    have hjal : IssuedBy s x (.jal w o) [] w 0 _ _ := { exec := exec_jal w o s }
    refine ⟨fun n hn => hjal.answers_jump (jumpTo_of_names _ hn.1 hn.2), fun hout => hjal.answers_trap (jumpTo_outside _ hout), ?_⟩
    intro hd hc
    have hjalr : IssuedBy s x (.jalr w d a i) [a] w 0 _ _ := { exec := exec_jalr w d a i s, legal := hd, sync := poisoned_now_of_clean hc }
    have hR : BitVec.ofNat 64 ((x.rd (now s x) (rn a) + simm i).toNat % 2 ^ 56) = R := by rw [rd_now]; rfl
    refine ⟨fun h4 n hn => hjalr.answers_jump ?_, fun h4 hout => hjalr.answers_trap ?_, fun h4 => hjalr.answers_trap ?_⟩
    · simp only [hR, if_neg (not_not.mpr h4), jumpTo_of_names _ hn.1 hn.2]
    · simp only [hR, if_neg (not_not.mpr h4), jumpTo_outside _ hout]
    · simp only [hR, if_pos h4]
  · intro s x w o n T one zero hn hlm ht taken next
    have hin : InCode s x.c n := ⟨hn, hlm⟩
    have hp := pbrTest_any_iff (predOf s x.c x.sl)
    have hq := pbrTest_notAll_iff (predOf s x.c x.sl)
    obtain ⟨hany, hany'⟩ := answers_pbr (exec_pbrAny w o s) rfl (by norm_num) hin ht
    obtain ⟨hnone, hnone'⟩ := answers_pbr (exec_pbrNone w o s) rfl (by norm_num) hin ht
    obtain ⟨hall, hall'⟩ := answers_pbr (exec_pbrAll w o s) rfl (by norm_num) hin ht
    obtain ⟨hnall, hnall'⟩ := answers_pbr (exec_pbrNall w o s) rfl (by norm_num) hin ht
    rw [pbrTest_none] at hnone hnone'
    rw [pbrTest_all] at hall hall'
    have hp' (h : ¬ one) := Bool.eq_false_iff.mpr (mt hp.mp h)
    have hq' (h : ¬ zero) := Bool.eq_false_iff.mpr (mt hq.mp h)
    exact ⟨fun h => ⟨hany (hp.mpr h), hnone' (by rw [hp.mpr h]; rfl)⟩, fun h => ⟨hany' (hp' h), hnone (by rw [hp' h]; rfl)⟩,
      fun h => ⟨hnall (hq.mpr h), hall' (by rw [hq.mpr h]; rfl)⟩, fun h => ⟨hnall' (hq' h), hall (by rw [hq' h]; rfl)⟩⟩

end Sys2Proof.Machine
end

section
/-! PROOFS. The INFO instructions (R95). -/

namespace Sys2Proof.Machine

-- One proof after the other: side by side they take more threads and memory than the check of the whole text has.
set_option Elab.async false

section info
variable {s : State} {x : Ctx} {i : Instr} {w : BitVec 3} {d a : BitVec 5}

theorem info_eq (fn : Nat) (w : BitVec 3) (d a b : BitVec 5) (reads : List Nat) (s : State) (f : Ctx → State → Act) (ok : Bool) :
    info fn w d a b reads s f ok
      = issue { word := word3 (0x15800000 + fn) w d a b, legal := destOk d && ok, reads := reads, sync := reads } s f := rfl
theorem infoR_eq (fn : Nat) (w : BitVec 3) (d : BitVec 5) (s : State) (lat : Nat) (f : Ctx → State → Word) :
    infoR fn w d s lat f = issue { word := word3 (0x15800000 + fn) w d 0 0, legal := destOk d && true } s fun x s =>
      .next (x.wr s (rn d) (f x s) lat) := rfl

/-- An INFO instruction that reads a value writes it to rd. -/
theorem answers_infoR {fn lat : Nat} {f : Ctx → State → Word} {v : Word} (hi : exec i s = infoR fn w d s lat f)
    (he : encode i = some (plc 29 w (plc 18 d (0x15800000 + fn)))) (hd : destOk d = true) (hv : f x (now s x) = v)
    (hfn : fn < 2 ^ 8 := by norm_num) : Answers s x i [] (after w 0 x (x.wr (now s x) d.toNat v lat)) := by
  have h : IssuedBy s x i [] w 0 _ _ :=
    { exec := hi.trans (infoR_eq ..), word := he.trans (congrArg some (by simp [plc, word3]; ring)), wait := word3_wait _ (by omega) w d 0 0, legal := by simp [hd] }
  exact hv ▸ h.answers_next rfl

/-- What WRFRM asks of its operand, where a traveller is RUNNING (R35). -/
theorem wrongFrm_eq (hx : ctxOf s = some x) (r : Nat) : wrongFrm s r = frmIllegal ((x.rd s r).toNat % 256) := by
  simp only [wrongFrm, hx]

theorem frmIllegal_eq_true_iff (v : Nat) : frmIllegal v = true ↔ 6 ≤ v % 8 ∨ 16 ≤ v := by
  simp only [frmIllegal, Bool.or_eq_true, decide_eq_true_eq]

/-- Clearing the flags that the low six bits of an operand name. -/
theorem testBit_clear_flags (fl b i : Nat) (hfl : fl < 256) :
    (fl &&& (255 - b % 64)).testBit i = (fl.testBit i && !(decide (i < 6) && b.testBit i)) := by
  have hm : b % 64 < 2 ^ 8 := by omega
  rw [show 255 - b % 64 = 2 ^ 8 - (b % 64 + 1) by omega, Nat.testBit_and, Nat.testBit_two_pow_sub_succ hm,
    show b % 64 = b % 2 ^ 6 from rfl, Nat.testBit_mod_two_pow]
  by_cases hi : i < 8
  · simp [hi]
  · rw [Nat.testBit_lt_two_pow (hfl.trans_le (Nat.pow_le_pow_right (by norm_num) (not_lt.mp hi) : 2 ^ 8 ≤ 2 ^ i))]
    rfl

end info

/-- Settles O14: each form writes the value its rule states, or is held, or traps. -/
theorem informationResults : Obligations.InformationResults := by
  intro s x w d a b W frm fl hd
  refine ⟨?_, ?_, ?_, ?_, ?_, ?_, ?_, ?_, ?_, ?_⟩
  · exact answers_infoR (exec_cubeof w d s) rfl hd (by rw [cubeId_now])
  · exact answers_infoR (exec_vquery w d s) rfl hd rfl
  · exact answers_infoR (exec_rdcyc w d s) rfl hd (by rw [now_cycle])
  · exact answers_infoR (exec_rdpurse w d s) rfl hd (by rw [ecxOf_now, purse_now])
  · exact answers_infoR (exec_rdfare w d s) rfl hd (by rw [slot_now])
  · exact answers_infoR (exec_rdfrm w d s) rfl hd (by rw [frmOf_now])
  · intro hc v
    have hw : encode (.wrfrm w d a) = some (word3 0x15800007 w d a 0) := congrArg some (plc_word3_da _ w d a)
    refine ⟨fun h8 h16 hi => ?_, fun hv => ⟨_, hw, fun hi => ?_⟩⟩
    · have hok : wrongFrm s (rn a) = false := by
        rw [wrongFrm_eq hi.1, Bool.eq_false_iff, ne_eq, frmIllegal_eq_true_iff]
        exact not_or.mpr ⟨not_le.mpr (Nat.lt_succ_of_le h8), not_le.mpr h16⟩
      have h : IssuedBy s x (.wrfrm w d a) [a] w 0 _ _ :=
        { exec := (exec_wrfrm w d a s).trans (info_eq ..), word := hw, legal := by simp [hd, hok], sync := poisoned_now_of_clean hc }
      refine h.answers_next ?_ hi
      simp only [rd_now, frmOf_now]
      rfl
    · have hbad : wrongFrm s (rn a) = true := by rw [wrongFrm_eq hi.1, frmIllegal_eq_true_iff]; exact hv
      exact ((exec_wrfrm w d a s).trans (info_eq ..)).trans (issue_illegal _ s x _ _ hi.1 hi.2.1 rfl (.inl (by simp [hbad])))
  · intro hc hf hd'
    have h : IssuedBy s x (.rdflags w d b) [b] w 0 _ _ :=
      { exec := (exec_rdflags w d b s).trans (info_eq ..), legal := by simp [hd], sync := poisoned_now_of_clean hc }
    exact h.answers_hold (by rw [if_pos hf]) (by rw [dramHeld_now, hd'])
  · intro hc hf
    have h : IssuedBy s x (.rdflags w d b) [b] w 0 _ _ :=
      { exec := (exec_rdflags w d b s).trans (info_eq ..), legal := by simp [hd], sync := poisoned_now_of_clean hc }
    refine ⟨fl &&& (255 - (x.val s b).toNat % 64), fun i => testBit_clear_flags fl _ i (rdN_lt 1 _ _), h.answers_next ?_⟩
    rw [hf, rd_now]
    rfl
  · intro hc home hf
    have h : IssuedBy s x (.homeof w d a) [a] w 0 _ _ :=
      { exec := (exec_homeof w d a s).trans (info_eq ..), legal := by simp [hd], sync := poisoned_now_of_clean hc }
    refine h.answers_next ?_
    simp only [rd_now, slot_now]
    rw [show ea56 (x.rd s (rn a)) = (x.val s a).toNat % 2 ^ 56 from rfl, hf]
    rfl

end Sys2Proof.Machine
end

section
/-! PROOFS. The control registers (R353 to R357). -/

namespace Sys2Proof.Machine

-- One proof after the other: side by side they take more threads and memory than the check of the whole text has.
set_option Elab.async false

/-- The second check of R59: a level that is too low traps PRIV, where the first one passes. -/
theorem issue_priv (i : Issue) (s : State) (x : Ctx) (body : Ctx → State → Act) (hx : ctxOf s = some x) (hr : x.reply = none)
    (hl : i.legal = true) (ha : accepted x.c x.x i.word = true) (hf : i.rounds = false) (hv : (slot s x.c x.sl).lvl < i.level) :
    issue i s body = .next (trapped x s { cause := .priv, addr := BitVec.ofNat 64 i.word }) := by
  have ht : issueTrap i x (now s x) = some { cause := .priv, addr := BitVec.ofNat 64 i.word } := by
    simp [issueTrap, hl, ha, hf, hv]
  simp only [issue, hx, hr, Option.isNone_none, if_true, ht]
  rfl

/-! ## One access (R357) -/

/-- The access writes: CSRW, and CSRS and CSRC of a register other than zr. -/
abbrev CsrWrites (op : Nat) (a : BitVec 5) : Prop := op = 1 ∨ (2 ≤ op ∧ a ≠ 24)
/-- The value that it writes. -/
def csrNew (op : Nat) (old v : Word) : Word := if op = 1 then v else if op = 2 then old ||| v else old &&& ~~~v
/-- The word of a CSR instruction. -/
def csrWord (op : Nat) (w : BitVec 3) (d a : BitVec 5) (n : BitVec 11) : Nat :=
  0x0F800000 + w.toNat * 2 ^ 29 + d.toNat * 2 ^ 18 + a.toNat * 2 ^ 13 + op * 2 ^ 11 + n.toNat
/-- The registers that it reads. -/
def csrReads (op : Nat) (a : BitVec 5) : List (BitVec 5) := if op = 0 then [] else [a]
/-- The issue of a CSR instruction. -/
def csrIssue (op : Nat) (w : BitVec 3) (d a : BitVec 5) (n : BitVec 11) : Issue :=
  { word := csrWord op w d a n, legal := destOk d && csrLegal n.toNat (CsrWrites op a), level := csrLevel n.toNat (CsrWrites op a)
    reads := if op = 0 then [] else [rn a], sync := if op = 0 then [] else [rn a], fare := paidInBody }
/-- What it does to the register `k`. -/
def csrAccess (op : Nat) (d a : BitVec 5) (k : CsrName) (ill : TrapInfo) (x : Ctx) (s : State) : Act :=
  if CsrWrites op a ∧ k = .trpc ∧ (slot s x.c x.sl).msg.isNone = true then .trap ill
  else if !CsrWrites op a then .next (x.wr (chargeIssue 0 x s) (rn d) (csrRead s x.c x.sl k) 1)
  else if !csrOk s x.c x.sl k (csrNew op (csrRead s x.c x.sl k) (x.rd s (rn a))) then .trap ill
  else match (if k.island then drainAll s x else none) with
    | some s' => .hold s'
    | none => .next (x.wr (csrWrite (chargeIssue 0 x s) x.c x.sl k (csrNew op (csrRead s x.c x.sl k) (x.rd s (rn a)))) (rn d)
        (csrRead s x.c x.sl k) 1)
/-- Its body. -/
def csrBody (op : Nat) (d a : BitVec 5) (n : BitVec 11) (ill : TrapInfo) (x : Ctx) (s : State) : Act :=
  match csrName n.toNat with
  | none => .trap ill
  | some k => csrAccess op d a k ill x s

theorem csr_eq_issue (op : Nat) (w : BitVec 3) (d a : BitVec 5) (n : BitVec 11) (s : State) :
    csr op w d a n s = issue (csrIssue op w d a n) s (csrBody op d a n { cause := .illegal, addr := BitVec.ofNat 64 (csrWord op w d a n) }) :=
  rfl

section csr
variable {s : State} {x : Ctx} {i : Instr} {op : Nat} {w : BitVec 3} {d a : BitVec 5} {n : BitVec 11} {k : CsrName}

theorem csrBody_eq (hk : csrName n.toNat = some k) (ill : TrapInfo) : csrBody op d a n ill = csrAccess op d a k ill := by
  funext x s
  simp only [csrBody, hk]
theorem csrLegal_eq (hk : csrName n.toNat = some k) (b : Bool) : csrLegal n.toNat b = (!b || k.writeLevel.isSome) := by
  simp only [csrLegal, hk]
theorem csrLevel_eq (hk : csrName n.toNat = some k) (b : Bool) :
    csrLevel n.toNat b = max k.readLevel (if b then k.writeLevel.getD 0 else 0) := by
  simp only [csrLevel, hk]

/-- A CSR instruction that names a register, and may access it at the traveller's level. -/
theorem issuedBy_csr (hi : exec i s = csr op w d a n s) (he : encode i = some (csrWord op w d a n)) (hop : op < 4) (hd : destOk d = true)
    (hk : csrName n.toNat = some k) (hread : k.readLevel ≤ (slot s x.c x.sl).lvl) (hc : Clean s x (csrReads op a))
    (hwrite : CsrWrites op a → k.writeLevel.isSome ∧ k.writeLevel.getD 0 ≤ (slot s x.c x.sl).lvl) :
    IssuedBy s x i (csrReads op a) w paidInBody (csrIssue op w d a n)
      (csrAccess op d a k { cause := .illegal, addr := BitVec.ofNat 64 (csrWord op w d a n) }) := by
  refine { exec := hi.trans (csrBody_eq hk _ ▸ csr_eq_issue op w d a n s), word := he, reads := ?_, wait := ?_, legal := ?_, level := ?_,
           rounds := nofun, sync := ?_ }
  · simp only [csrIssue, csrWord]; omega
  · unfold csrIssue csrReads; split <;> rfl
  · by_cases hw : CsrWrites op a <;> simp only [csrIssue, hd, csrLegal_eq hk, hw, hwrite, decide_true, decide_false] <;> rfl
  · by_cases hw : CsrWrites op a
    · simpa only [csrIssue, csrLevel_eq hk, hw, decide_true, if_true] using max_le hread (hwrite hw).2
    · simpa only [csrIssue, csrLevel_eq hk, hw, decide_false, Bool.false_eq_true, if_false] using max_le hread (Nat.zero_le _)
  · have := poisoned_now_of_clean hc
    unfold csrIssue csrReads at *
    split
    · simp
    · next h =>
      rw [if_neg h] at this
      exact this

/-- An access that only reads writes the register's value to rd. -/
theorem answers_csr_read (hi : exec i s = csr op w d a n s) (he : encode i = some (csrWord op w d a n)) (hop : op < 4)
    (hd : destOk d = true) (hk : csrName n.toNat = some k) (hread : k.readLevel ≤ (slot s x.c x.sl).lvl)
    (hc : Clean s x (csrReads op a)) (hw : ¬ CsrWrites op a) :
    Answers s x i (csrReads op a) (after w paidInBody x (x.wr (chargeIssue 0 x (now s x)) d.toNat (csrRead (now s x) x.c x.sl k) 1)) := by
  have h := issuedBy_csr hi he hop hd hk hread hc fun h => absurd h hw
  refine h.answers_next ?_
  rw [csrAccess, if_neg fun h => hw h.1, if_pos (by rw [decide_eq_false hw]; rfl)]

/-- An access that writes stores the new value and writes the old one to rd. -/
theorem answers_csr_write (hi : exec i s = csr op w d a n s) (he : encode i = some (csrWord op w d a n)) (hop : op < 4)
    (hd : destOk d = true) (hk : csrName n.toNat = some k) (hread : k.readLevel ≤ (slot s x.c x.sl).lvl)
    (hc : Clean s x (csrReads op a)) (hw : CsrWrites op a) (hwrite : k.writeLevel.isSome ∧ k.writeLevel.getD 0 ≤ (slot s x.c x.sl).lvl)
    (hmsg : k = .trpc → (slot s x.c x.sl).msg.isSome) {v : Word} (hv : csrNew op (csrRead (now s x) x.c x.sl k) (x.val s a) = v)
    (hok : csrOk (now s x) x.c x.sl k v = true) (hq : k.island = true → Quiet s x) :
    Answers s x i (csrReads op a)
      (after w paidInBody x (x.wr (csrWrite (chargeIssue 0 x (now s x)) x.c x.sl k v) d.toNat (csrRead (now s x) x.c x.sl k) 1)) := by
  have h := issuedBy_csr hi he hop hd hk hread hc fun _ => hwrite
  have hno : ¬ (CsrWrites op a ∧ k = .trpc ∧ (slot (now s x) x.c x.sl).msg.isNone = true) := by
    rintro ⟨-, hk, hn⟩
    rw [slot_now] at hn
    simp [Option.isNone_iff_eq_none.mp hn] at hmsg
    exact hmsg hk
  have hdrain : (if k.island then drainAll (now s x) x else none) = none := by
    split
    · next hi => exact drainAll_now_of_quiet (hq hi)
    · rfl
  have hv' : csrNew op (csrRead (now s x) x.c x.sl k) (x.rd (now s x) (rn a)) = v := by rw [rd_now]; exact hv
  refine h.answers_next ?_
  rw [csrAccess, if_neg hno, if_neg (by rw [decide_eq_true hw]; exact Bool.false_ne_true), hv', if_neg (by simp [hok]), hdrain]

/-- A number that names no register, or a write to a read-only one, traps ILLEGAL. -/
theorem answers_csr_illegal {rs : List (BitVec 5)} (hi : exec i s = csr op w d a n s) (he : encode i = some (csrWord op w d a n))
    (hl : csrLegal n.toNat (CsrWrites op a) = false) :
    Answers s x i rs (trapped x s { cause := .illegal, addr := BitVec.ofNat 64 ((encode i).getD 0) }) := by
  rintro ⟨hx, hr, -, -⟩
  rw [hi, csr_eq_issue]
  exact issue_illegal _ s x _ _ hx hr (by rw [he]; rfl) (.inl (by simp only [csrIssue, hl, Bool.and_false]))

/-- An access below the level it needs traps PRIV. -/
theorem answers_csr_priv {rs : List (BitVec 5)} (hi : exec i s = csr op w d a n s) (he : encode i = some (csrWord op w d a n))
    (hd : destOk d = true) (hl : csrLegal n.toNat (CsrWrites op a) = true)
    (hlvl : (slot s x.c x.sl).lvl < csrLevel n.toNat (CsrWrites op a)) :
    Answers s x i rs (trapped x s { cause := .priv, addr := BitVec.ofNat 64 ((encode i).getD 0) }) := by
  rintro ⟨hx, hr, ha, -⟩
  rw [hi, csr_eq_issue, he]
  exact issue_priv (csrIssue op w d a n) s x _ hx hr (by simp only [csrIssue, hd, hl, Bool.and_self]) (ha _ he) rfl hlvl

end csr

section words
variable (w : BitVec 3) (d a : BitVec 5) (n : BitVec 11)

theorem encode_csrr : encode (.csrr w d n) = some (csrWord 0 w d 0 n) := by
  refine congrArg some ?_; simp only [plc, csrWord, BitVec.ofNat_eq_ofNat, BitVec.toNat_zero]; omega
theorem encode_csrw : encode (.csrw w d a n) = some (csrWord 1 w d a n) := by refine congrArg some ?_; simp only [plc, csrWord]; omega
theorem encode_csrs : encode (.csrs w d a n) = some (csrWord 2 w d a n) := by refine congrArg some ?_; simp only [plc, csrWord]; omega
theorem encode_csrc : encode (.csrc w d a n) = some (csrWord 3 w d a n) := by refine congrArg some ?_; simp only [plc, csrWord]; omega

end words

/-- Settles O15: the accesses that read, those that write, and the two traps. -/
theorem controlRegisters : Obligations.ControlRegisters := by
  constructor
  · intro s x w d a n k old A lvl paid Read Write may hd hk hread
    have hr0 : ¬ CsrWrites 0 0 := by simp
    refine ⟨answers_csr_read (exec_csrr w d n s) (encode_csrr w d n) (by norm_num) hd hk hread (by simp [csrReads, Clean]) hr0, fun hc => ⟨?_, ?_, ?_, ?_⟩⟩
    · rintro ⟨hsome, hlvl, hmsg, hok, hq⟩
      exact answers_csr_write (exec_csrw w d a n s) (encode_csrw w d a n) (by norm_num) hd hk hread hc (.inl rfl) ⟨hsome, hlvl⟩ hmsg rfl hok hq
    · rintro rfl
      have hzr (op : Nat) (h : op ≠ 1) : ¬ CsrWrites op 24 := by simp [h]
      exact ⟨answers_csr_read (exec_csrs w d 24 n s) (encode_csrs w d 24 n) (by norm_num) hd hk hread hc (hzr 2 (by norm_num)),
        answers_csr_read (exec_csrc w d 24 n s) (encode_csrc w d 24 n) (by norm_num) hd hk hread hc (hzr 3 (by norm_num))⟩
    · rintro ha ⟨hsome, hlvl, hmsg, hok, hq⟩
      exact answers_csr_write (exec_csrs w d a n s) (encode_csrs w d a n) (by norm_num) hd hk hread hc (.inr ⟨by norm_num, ha⟩) ⟨hsome, hlvl⟩ hmsg rfl hok hq
    · rintro ha ⟨hsome, hlvl, hmsg, hok, hq⟩
      exact answers_csr_write (exec_csrc w d a n s) (encode_csrc w d a n) (by norm_num) hd hk hread hc (.inr ⟨by norm_num, ha⟩) ⟨hsome, hlvl⟩ hmsg rfl hok hq
  · intro s x w d a n lvl T hd hc
    refine ⟨fun hnone => ⟨?_, ?_⟩, fun k hk hro => ?_, fun k hk hlow => ?_, fun k l hk hl hlow => ?_⟩
    · exact answers_csr_illegal (exec_csrr w d n s) (encode_csrr w d n) (by simp [csrLegal, hnone])
    · exact answers_csr_illegal (exec_csrw w d a n s) (encode_csrw w d a n) (by simp [csrLegal, hnone])
    · exact answers_csr_illegal (exec_csrw w d a n s) (encode_csrw w d a n) (by simp [csrLegal_eq hk, hro])
    · exact answers_csr_priv (exec_csrr w d n s) (encode_csrr w d n) hd (by simp [csrLegal_eq hk]) (by simpa [csrLevel_eq hk] using hlow)
    · refine answers_csr_priv (exec_csrw w d a n s) (encode_csrw w d a n) hd (by simp [csrLegal_eq hk, hl]) ?_
      rw [csrLevel_eq hk]
      exact lt_max_of_lt_right (by simpa [hl] using hlow)

end Sys2Proof.Machine
end

section
/-! PROOFS. END, YIELD and PARK (R88, R89, R94). -/

namespace Sys2Proof.Machine

-- One proof after the other: side by side they take more threads and memory than the check of the whole text has.
set_option Elab.async false

theorem task_eq (fn : Nat) (w : BitVec 3) (d a b : BitVec 5) (reads : List Nat) (s : State) (f : Ctx → State → Act) :
    task fn w d a b reads s f
      = issue { word := word3 (0x15000000 + fn) w d a b, legal := destOk d, reads := reads, sync := reads } s f := rfl

theorem dropResv_memDom (s : State) (c sl : Nat) : (dropResv s c sl).memDom = s.memDom := by
  unfold dropResv
  split
  · rfl
  · dsimp only
    split <;> rfl

/-- Where the memory domain is ON no DRAM holds the store buffer (R23). -/
theorem dramHeld_eq_none {s : State} (h : s.memDom = .on) (x : Ctx) : dramHeld s x = none := by
  simp only [dramHeld, h, if_true]

/-- Nothing of the traveller is outstanding on the CORE path: its stores have left and its events have arrived. -/
theorem drained_of_coreOutstanding {s : State} {x : Ctx} (h : coreOutstanding s x.c x.x x.sl = false) : Drained s x := by
  simp only [coreOutstanding, Bool.or_eq_false_iff, Bool.not_eq_false'] at h
  obtain ⟨⟨hsb, hbar⟩, -⟩ := h
  refine ⟨fun e he hsl => ?_, hbar⟩
  have : e ∈ sbOf s x.c x.x x.sl := List.mem_filter.mpr ⟨he, by simpa using hsl⟩
  rw [List.isEmpty_iff.mp hsb] at this
  cases this

section endT
variable {s : State} {x : Ctx} {w : BitVec 3}

theorem faultedRec_of_none (h : recsOf s x.c x.sl = []) (f : Rec → Bool) : faultedRec s x.c x.sl f = none := by
  simp [faultedRec, h]
theorem hasCommands_of_none (h : recsOf s x.c x.sl = []) (hl : hasLoop s x.c x.sl = false) : hasCommands s x.c x.sl = false := by
  simp [hasCommands, h, hl]

end endT

/-- Settles O16: END with nothing outstanding, with a reservation, with banks held; YIELD; PARK with and without a pending wake. -/
theorem travellerStates : Obligations.TravellerStates := by
  intro s x w u
  have hend : IssuedBy s x (.endT w) [] w 0 _ _ := { exec := (exec_endT w s).trans (task_eq ..) }
  have hyield : IssuedBy s x (.yield w) [] w 0 _ _ := { exec := (exec_yield w s).trans (task_eq ..) }
  have hpark : IssuedBy s x (.park w) [] w 0 _ _ := { exec := (exec_park w s).trans (task_eq ..) }
  refine ⟨fun hhold hrecs hloop => ⟨fun hresv hout houts henq hport => hend.answers_leave ?_, fun hresv hport hdom => ?_⟩,
    fun hhold => hend.answers_trap ?_, hyield.answers_leave rfl, fun hwake => ?_, fun hwake => ?_, ?_⟩
  · have hq : ¬ ∃ q ∈ (core s x.c).enqBuf, q.slot = x.sl := fun ⟨q, hmem, hsl⟩ => henq q hmem hsl
    simp [u, hhold, faultedRec_of_none hrecs, hasCommands_of_none hrecs hloop, hresv, houts, hq, hout, hport,
      drainStep_now_of_drained (drained_of_coreOutstanding hout)]
  · refine hend.answers_hold ?_ (dramHeld_eq_none ((dropResv_memDom u x.c x.sl).trans ((now_memDom s x).trans hdom)) x)
    simp [hhold, faultedRec_of_none hrecs, hasCommands_of_none hrecs hloop, hresv, hport, u]
  · simp [hhold]
  · exact fun hi => hpark.answers_next (by simp [Ctx.got, hi.2.1, hwake, u]) hi
  · rw [hpark.word, Option.getD_some]
    exact fun hi => hpark.answers_park (u := u) (reason := 5) (cond := .wake) (by simp [Ctx.got, hi.2.1, hwake, u]) hi
  · exact fun v p => resumes_of_next hpark.exec hpark.wait hpark.fare nofun fun hr => by simp only [Ctx.got, hr, Option.isSome_some, if_true]; rfl

end Sys2Proof.Machine
end

section
/-! PROOFS. Charging and retirement: what they change (R52, R54, R359). -/

namespace Sys2Proof.Machine

-- One proof after the other: side by side they take more threads and memory than the check of the whole text has.
set_option Elab.async false

/-- A meter takes a charge: its contexts, what it has counted and the flushes on their way change. -/
theorem meterAdd_eq (s : State) (m k u : Nat) :
    ∃ d a f, meterAdd s m k u = { s with metered := d, meters := a, flushes := f } := by
  unfold meterAdd
  dsimp only
  split <;> split <;> exact ⟨_, _, _, rfl⟩

theorem charge_eq (s : State) (m k n c : Nat) (b : Bool) :
    ∃ d a f, charge s m k n c b = { s with metered := d, meters := a, flushes := f } := meterAdd_eq ..

/-- The fares of a header. -/
def withFare (f : Word) (k : Slot) : Slot := { k with hdr := { k.hdr with fare := f } }

/-- A charge to a traveller changes the meters and the FARE field of its header. -/
theorem chargeTravAt_eq (s : State) (c sl m k n : Nat) : ∃ d a f fare,
    chargeTravAt s c sl m k n = updSlot { s with metered := d, meters := a, flushes := f } c sl (withFare fare) := by
  obtain ⟨d, a, f, h⟩ := charge_eq s m k n (ecxOf s c sl) ((slot s c sl).lvl != 0)
  exact ⟨d, a, f, _, by rw [chargeTravAt, h]; rfl⟩

theorem chargeIssue_eq (k : Nat) (x : Ctx) (s : State) : (∃ d a f fare,
    chargeIssue k x s = updSlot { s with metered := d, meters := a, flushes := f } x.c x.sl (withFare fare)) ∨ chargeIssue k x s = s := by
  unfold chargeIssue
  split
  · exact .inl (chargeTravAt_eq ..)
  · exact .inl (chargeTravAt_eq ..)
  · exact .inr rfl

/-- The slot of a traveller that has retired an instruction: its fare has grown, a wait and a suppressed match are over. -/
def retiredSlot (fare : Word) (k : Slot) : Slot := { withFare fare k with wait := none, noMatch := false }

theorem slot_withFare (s : State) (d : SMap Nat) (a : SMap (List (Nat × Nat))) (f : List Flush) (c sl c' sl' : Nat) (fare : Word) :
    slot (updSlot { s with metered := d, meters := a, flushes := f } c sl (withFare fare)) c' sl'
      = if slotKey c' sl' = slotKey c sl then withFare fare (slot s c sl) else slot s c' sl' := slot_updSlot ..

/-- Paying for an instruction changes the meters and the fare of the traveller's header. -/
theorem chargeIssue_spec (k : Nat) (x : Ctx) (s : State) : ∃ d a f m fare,
    chargeIssue k x s = { s with metered := d, meters := a, flushes := f, slots := m }
      ∧ ∀ c sl, slot { s with metered := d, meters := a, flushes := f, slots := m } c sl
        = if slotKey c sl = slotKey x.c x.sl then withFare fare (slot s x.c x.sl) else slot s c sl := by
  rcases chargeIssue_eq k x s with ⟨d, a, f, fare, h⟩ | h
  · exact ⟨d, a, f, _, fare, h, fun c sl => slot_withFare ..⟩
  · refine ⟨s.metered, s.meters, s.flushes, s.slots, (slot s x.c x.sl).hdr.fare, h, fun c sl => ?_⟩
    split
    · next hk => exact congrArg (mget ({} : Slot) s.slots) hk
    · rfl

/-- What a retirement leaves in the stream. -/
def retiredStream (i : Issue) (x : Ctx) (pc : Word) (taken : Bool) (k : Stream) : Stream :=
  { k with pc := pc, nextIssue := if x.reply.isSome then x.t else max (x.t + 1 + i.word / 2 ^ 29 % 8) (if taken then x.t + 2 else 0),
           pend := k.pend.filter (fun w => w.isFlags || decide (x.t + 1 < w.ready)),
           fbuf := if taken then [] else k.fbuf.drop 1 }

/-- A retirement changes the meters, the slot of the traveller and its stream. -/
theorem retire_spec (i : Issue) (x : Ctx) (s : State) (pc : Word) (taken : Bool) : ∃ d a f m st fare,
    retire i x s pc taken = { s with metered := d, meters := a, flushes := f, slots := m, streams := st }
      ∧ (∀ c sl, slot (retire i x s pc taken) c sl
        = if slotKey c sl = slotKey x.c x.sl then retiredSlot fare (slot s x.c x.sl) else slot s c sl)
      ∧ ∀ c b, stream (retire i x s pc taken) c b
        = if streamKey c b = streamKey x.c x.x then retiredStream i x pc taken (stream s x.c x.x) else stream s c b := by
  obtain ⟨d, a, f, m, fare, h, hslot⟩ := chargeIssue_spec i.fare x s
  unfold retire
  rw [h]
  refine ⟨d, a, f, _, _, fare, rfl, fun c sl => ?_, fun c b => ?_⟩
  · dsimp only
    rw [slot_updStream, slot_updSlot, hslot, hslot, if_pos rfl]
    split <;> rfl
  · exact stream_updStream ..

end Sys2Proof.Machine
end

section
/-! PROOFS. The frame of an instruction that writes a register (R47, R50 to R55). -/

namespace Sys2Proof.Machine

-- One proof after the other: side by side they take more threads and memory than the check of the whole text has.
set_option Elab.async false

/-! ## A register write -/

/-- The pending writes of the stream once register `r` is written, readable `lat` cycles later. -/
def pendWr (x : Ctx) (s : State) (r lat : Nat) : List PendWrite :=
  let k := stream s x.c x.x
  let older := (k.pend.filter (fun w => w.reg == r)).map (·.ready)
  let ready := older.foldl max (x.t + lat)
  if lat = 0 then k.pend.filter (fun w => w.reg != r)
  else if x.t + 1 < ready then
    k.pend ++ [{ reg := r, old := regValue s x.c x.sl r, oldPoison := isPoisoned s x.c x.sl r, ready := ready }]
  else k.pend

section wr
variable {x : Ctx} {s : State} {r : Nat} (v : Word) (lat : Nat) (p : Bool)

theorem wr_of_lt (h : r < 24) : x.wr s r v lat p
    = setPoison (wsWr (putStream s x.c x.x { stream s x.c x.x with pend := pendWr x s r lat }) x.c x.sl (8 * r) 8 v.toNat) x.c x.sl r p := by
  rw [Ctx.wr, if_pos h]
  rfl
theorem wr_of_ge (h : 24 ≤ r) : x.wr s r v lat p = s := by rw [Ctx.wr, if_neg (by omega)]

end wr

/-- A write of a register changes the register's bytes, its poison bit and the pending writes of the stream. -/
theorem wr_spec (x : Ctx) (s : State) (r : Nat) (v : Word) (lat : Nat) (p : Bool) : ∃ m sl st,
    x.wr s r v lat p = { s with mem := m, slots := sl, streams := st }
      ∧ (∀ a, a < wsPa s x.c x.sl + 8 * r ∨ wsPa s x.c x.sl + 8 * r + 8 ≤ a → rdByte m a = rdByte s.mem a)
      ∧ (Memory.wf s.mem = true → Memory.wf m = true)
      ∧ (24 ≤ r → m = s.mem)
      ∧ (r < 24 → rdN m (wsPa s x.c x.sl + 8 * r) 8 = v.toNat) := by
  rcases Nat.lt_or_ge r 24 with h | h
  · refine ⟨_, _, _, wr_of_lt v lat p h, fun a ha => rdByte_wrN_out 8 _ _ _ _ ha, fun hm => wrN_wf _ _ _ _ hm, fun h' => absurd h (by omega), fun _ => ?_⟩
    rw [show wsPa s x.c x.sl + 8 * r = wsPa (putStream s x.c x.x { stream s x.c x.x with pend := pendWr x s r lat }) x.c x.sl + 8 * r from rfl]
    exact (rdN_wrN_same 8 _ _ _).trans (Nat.mod_eq_of_lt v.isLt)
  · exact ⟨s.mem, s.slots, s.streams, wr_of_ge v lat p h, fun _ _ => rfl, id, fun _ => rfl, fun h' => absurd h (by omega)⟩

/-- What it leaves of a stream. -/
theorem stream_wr (x : Ctx) (s : State) (r : Nat) (v : Word) (lat : Nat) (p : Bool) :
    stream (x.wr s r v lat p) x.c x.x
      = { stream s x.c x.x with pend := if r < 24 then pendWr x s r lat else (stream s x.c x.x).pend } := by
  split
  · next h => rw [wr_of_lt v lat p h]; exact (stream_putStream ..).trans (if_pos rfl)
  · next h => rw [wr_of_ge v lat p (by omega)]

/-- The poison mask that it leaves (R73, R99). -/
theorem isPoisoned_wr (x : Ctx) (s : State) (d : BitVec 5) (v : Word) (lat : Nat) (p : Bool) (r : Nat) :
    isPoisoned (x.wr s d.toNat v lat p) x.c x.sl r = if r = d.toNat ∧ r < 24 then p else isPoisoned s x.c x.sl r := by
  rcases Nat.lt_or_ge d.toNat 24 with h | h
  · rw [wr_of_lt v lat p h, isPoisoned, setPoison, slot_updSlot, if_pos rfl]
    unfold isPoisoned
    rw [slot_wsWr, slot_putStream]
    by_cases hr : r < 24
    · have hbit : (BitVec.ofNat 24 (2 ^ d.toNat)).getLsbD r = decide (r = d.toNat) := by
        rw [BitVec.getLsbD_ofNat, Nat.testBit_two_pow, decide_eq_true hr, Bool.true_and, decide_eq_decide, eq_comm]
      generalize BitVec.ofNat 24 (2 ^ d.toNat) = bit at hbit
      cases p <;> by_cases hrd : r = d.toNat <;> simp_all
    · simp [hr]
  · rw [wr_of_ge v lat p h, if_neg (by omega)]

/-! ## The state of issue and the fields of a workspace -/

theorem rdN_one (m : List Host.Cell) (a : Nat) : rdN m a 1 = (rdByte m a).toNat := rfl

theorem rdByte_eq_of_rdN {m m' : List Host.Cell} {a : Nat} (h : rdN m a 1 = rdN m' a 1) : rdByte m a = rdByte m' a :=
  BitVec.eq_of_toNat_eq (by simpa only [rdN_one] using h)

theorem rdByte_now (s : State) (x : Ctx) {a : Nat} (ha : a ≠ wsPa s x.c x.sl + 0xF6) : rdByte (now s x).mem a = rdByte s.mem a := by
  obtain ⟨m, st, h, hm, -⟩ := now_eq s x
  rw [h]
  exact rdByte_eq_of_rdN (hm a 1 (by omega))

theorem orFlags_wf (s : State) (c sl f : Nat) (h : Memory.wf s.mem = true) : Memory.wf (orFlags s c sl f).mem = true := by
  unfold orFlags
  split
  · exact h
  · exact wrN_wf _ _ _ _ h

theorem foldFlags_wf (c sl : Nat) : ∀ (ws : List PendWrite) (s : State), Memory.wf s.mem = true →
    Memory.wf (ws.foldl (fun s w => orFlags s c sl (w.reg - 32)) s).mem = true
  | [], _, h => h
  | _ :: ws, _, h => foldFlags_wf c sl ws _ (orFlags_wf _ _ _ _ h)

theorem settleFlags_wf (s : State) (c : Nat) (x : Bool) (sl : Nat) (f : PendWrite → Bool) (h : Memory.wf s.mem = true) :
    Memory.wf (settleFlags s c x sl f).mem = true := by
  unfold settleFlags
  dsimp only
  split
  · exact h
  · exact foldFlags_wf c sl _ _ h

theorem now_wf (s : State) (x : Ctx) (h : Memory.wf s.mem = true) : Memory.wf (now s x).mem = true := settleFlags_wf _ _ _ _ _ h

/-- With no flags due, the state of issue differs in its cycle alone. -/
theorem now_eq_atCycle {s : State} {x : Ctx} (h : ∀ e ∈ (stream s x.c x.x).pend, e.isFlags = true → x.t < e.ready) : now s x = atCycle s x.t := by
  unfold now settleFlags
  dsimp only
  rw [stream_atCycle, List.filter_eq_nil_iff.mpr]
  intro w hw hdue
  simp only [Bool.and_eq_true, decide_eq_true_eq] at hdue
  exact absurd (h w hw hdue.1) (by omega)

/-- A register's value comes from its bytes of the workspace, from the fields that R71 keeps there, and from the place of the workspace. -/
theorem regValue_congr {s t : State} {c sl r : Nat} (hcore : core t c = core s c) (hg : r < 24 → wsRd t c sl (8 * r) 8 = wsRd s c sl (8 * r) 8)
    (hf : ∀ o n, 0xE8 ≤ o → o + n ≤ 0xF6 ∨ 0xF7 ≤ o → o + n ≤ 0xFE → wsRd t c sl o n = wsRd s c sl o n) : regValue t c sl r = regValue s c sl r := by
  unfold regValue tidOf
  split
  · next h => rw [hg h]
  · rw [hcore, hf 0xE8 4 (by omega) (by omega) (by omega), hf 0xF0 2 (by omega) (by omega) (by omega), hf 0xF2 2 (by omega) (by omega) (by omega),
      hf 0xF4 2 (by omega) (by omega) (by omega), hf 0xEC 4 (by omega) (by omega) (by omega), hf 0xF8 4 (by omega) (by omega) (by omega)]

/-! ## The state after the instruction -/

section result
variable (s : State) (x : Ctx) (w : BitVec 3) (k : Nat) (d : BitVec 5) (v : Word) (lat : Nat) (p : Bool)

/-- The state after an instruction that writes `v` to register field `d`. -/
def resultState : State := after w k x (x.wr (now s x) d.toNat v lat p)

theorem resultState_spec : ∃ dd a f m sl st,
    resultState s x w k d v lat p = { s with cycle := x.t, metered := dd, meters := a, flushes := f, mem := m, slots := sl, streams := st }
      ∧ (∀ b, b < wsPa s x.c x.sl + 8 * d.toNat ∨ wsPa s x.c x.sl + 8 * d.toNat + 8 ≤ b → rdByte m b = rdByte (now s x).mem b)
      ∧ (Memory.wf s.mem = true → Memory.wf m = true)
      ∧ (24 ≤ d.toNat → m = (now s x).mem)
      ∧ (d.toNat < 24 → rdN m (wsPa s x.c x.sl + 8 * d.toNat) 8 = v.toNat) := by
  obtain ⟨m0, st0, h0, -⟩ := now_eq s x
  obtain ⟨m, sl, st, h1, hout, hwf, hzr, hin⟩ := wr_spec x (now s x) d.toNat v lat p
  obtain ⟨dd, a, f, m', st', fare, h2, -⟩ := retire_spec { word := w.toNat * 2 ^ 29, fare := k } x (x.wr (now s x) d.toNat v lat p) (x.pc + 4) false
  have hpa : wsPa (now s x) x.c x.sl = wsPa s x.c x.sl := by rw [h0]; rfl
  rw [hpa] at hout hin
  refine ⟨dd, a, f, m, m', st', ?_, hout, fun h => hwf (now_wf s x h), hzr, hin⟩
  rw [resultState, after, h2, h1, h0]

@[simp] theorem core_resultState (c : Nat) : core (resultState s x w k d v lat p) c = core s c := by
  obtain ⟨dd, a, f, m, sl, st, h, -⟩ := resultState_spec s x w k d v lat p
  rw [h]; rfl

theorem rdByte_resultState {b : Nat} (hb : b < wsPa s x.c x.sl + 8 * d.toNat ∨ wsPa s x.c x.sl + 8 * d.toNat + 8 ≤ b) :
    rdByte (resultState s x w k d v lat p).mem b = rdByte (now s x).mem b := by
  obtain ⟨dd, a, f, m, sl, st, h, hout, -⟩ := resultState_spec s x w k d v lat p
  rw [h]
  exact hout b hb

/-- A field of the workspace beside the written register and FLAGS reads as before. -/
theorem wsRd_resultState {o n : Nat} (ho : 24 ≤ d.toNat ∨ o + n ≤ 8 * d.toNat ∨ 8 * d.toNat + 8 ≤ o) :
    wsRd (resultState s x w k d v lat p) x.c x.sl o n = wsRd (now s x) x.c x.sl o n := by
  obtain ⟨dd, a, f, m, sl, st, h, hout, -, hzr, -⟩ := resultState_spec s x w k d v lat p
  have hpa : wsPa (now s x) x.c x.sl = wsPa s x.c x.sl := by simp only [wsPa, core_now]
  have hpa' : wsPa (resultState s x w k d v lat p) x.c x.sl = wsPa s x.c x.sl := by simp only [wsPa, core_resultState]
  rw [wsRd, wsRd, hpa, hpa', h]
  dsimp only
  rcases Nat.lt_or_ge d.toNat 24 with hd | hd
  · exact rdN_congr n _ _ _ fun b hb hb' => hout b (by omega)
  · rw [hzr hd]

theorem isPoisoned_resultState (r : Nat) :
    isPoisoned (resultState s x w k d v lat p) x.c x.sl r = if r = d.toNat ∧ r < 24 then p else isPoisoned s x.c x.sl r := by
  obtain ⟨-, -, -, -, -, fare, -, hslot, -⟩ :=
    retire_spec { word := w.toNat * 2 ^ 29, fare := k } x (x.wr (now s x) d.toNat v lat p) (x.pc + 4) false
  have h : isPoisoned (resultState s x w k d v lat p) x.c x.sl r = isPoisoned (x.wr (now s x) d.toNat v lat p) x.c x.sl r := by
    rw [isPoisoned, resultState, after, hslot, if_pos rfl]
    rfl
  rw [h, isPoisoned_wr]
  simp only [isPoisoned, slot_now]

theorem stream_resultState : ∃ pend, stream (resultState s x w k d v lat p) x.c x.x
      = { stream s x.c x.x with
          pc := x.pc + 4, nextIssue := if x.reply.isSome then x.t else x.t + 1 + w.toNat, pend := pend, fbuf := (stream s x.c x.x).fbuf.drop 1 }
    ∧ pend = (if d.toNat < 24 then pendWr x (now s x) d.toNat lat else (stream (now s x) x.c x.x).pend).filter
        fun w => w.isFlags || decide (x.t + 1 < w.ready) := by
  obtain ⟨-, -, -, -, -, -, -, -, hst⟩ :=
    retire_spec { word := w.toNat * 2 ^ 29, fare := k } x (x.wr (now s x) d.toNat v lat p) (x.pc + 4) false
  refine ⟨_, ?_, rfl⟩
  have hw : w.toNat * 2 ^ 29 / 2 ^ 29 % 8 = w.toNat := by have := w.isLt; omega
  rw [resultState, after, hst, if_pos rfl, stream_wr]
  obtain ⟨m, st, h0, -, hst0⟩ := now_eq s x
  have hnow : stream (now s x) x.c x.x
      = { stream s x.c x.x with pend := (stream s x.c x.x).pend.filter fun w => !(w.isFlags && decide (w.ready ≤ x.t)) } := by
    rw [← hst0, h0]; rfl
  rw [hnow]
  simp only [retiredStream, hw]
  simp

/-- The pending write of register `r`, readable `lat` cycles later, with what it covers. -/
def pendEntry (x : Ctx) (s : State) (r lat : Nat) : PendWrite :=
  { reg := r, old := regValue s x.c x.sl r, oldPoison := isPoisoned s x.c x.sl r, ready := x.t + lat }

/-- Nothing of register `d` is pending. -/
def NonePending (s : State) (x : Ctx) (d : BitVec 5) : Prop := ∀ e ∈ (stream s x.c x.x).pend, e.reg ≠ d.toNat

variable {s x d}

theorem NonePending.now (h : NonePending s x d) : NonePending (now s x) x d := by
  obtain ⟨m, st, h0, -, hst0⟩ := now_eq s x
  have hnow : stream (Machine.now s x) x.c x.x
      = { stream s x.c x.x with pend := (stream s x.c x.x).pend.filter fun w => !(w.isFlags && decide (w.ready ≤ x.t)) } := by
    rw [← hst0, h0]; rfl
  intro e he
  rw [hnow] at he
  exact h e (List.mem_filter.mp he).1

/-- A write then becomes the only pending one of its register. -/
theorem pendWr_of_nonePending (h : NonePending s x d) (lat : Nat) : pendWr x s d.toNat lat
    = (stream s x.c x.x).pend ++ if 1 < lat then [pendEntry x s d.toNat lat] else [] := by
  have hnone : (stream s x.c x.x).pend.filter (fun w => w.reg == d.toNat) = [] :=
    List.filter_eq_nil_iff.mpr fun e he => by simpa using h e he
  have hall : (stream s x.c x.x).pend.filter (fun w => w.reg != d.toNat) = (stream s x.c x.x).pend :=
    List.filter_eq_self.mpr fun e he => by simpa using h e he
  simp only [pendWr, hnone, hall, List.map_nil, List.foldl_nil]
  by_cases h0 : lat = 0
  · simp [h0]
  · by_cases h1 : 1 < lat
    · rw [if_neg h0, if_pos (by omega), if_pos h1]
      rfl
    · rw [if_neg h0, if_neg (by omega), if_neg h1, List.append_nil]

/-- Every pending entry of register `d` after the instruction is its own. -/
theorem pendOf_resultState (h : NonePending s x d) (n : Nat) (hn : x.t < n) :
    pendOf (stream (resultState s x w k d v lat p) x.c x.x) d.toNat n = if d.toNat < 24 ∧ n < x.t + lat then
      some (pendEntry x s d.toNat lat) else none := by
  obtain ⟨pend, hst, hpend⟩ := stream_resultState s x w k d v lat p
  have hold (q : PendWrite → Bool) : ((stream (Machine.now s x) x.c x.x).pend.find? fun w => decide (q w = true ∧ (w.reg == d.toNat && decide (n < w.ready)) = true)) = none :=
    List.find?_eq_none.mpr fun e he => by simp [h.now e he]
  rw [hst, pendOf]
  dsimp only
  rw [hpend, List.find?_filter]
  by_cases hd : d.toNat < 24
  · rw [if_pos hd, pendWr_of_nonePending h.now, List.find?_append, hold, Option.none_or]
    by_cases hlat : n < x.t + lat
    · have h1 : x.t + 1 < x.t + lat := by omega
      simp [hd, hlat, h1, show 1 < lat by omega, pendEntry, isPoisoned, regValue_now]
    · rw [if_neg (fun hh => hlat hh.2 : ¬ (d.toNat < 24 ∧ n < x.t + lat))]
      split <;> simp [pendEntry, hlat]
  · rw [if_neg hd, if_neg fun h => hd h.1]
    exact hold _

end result

/-- Settles O53: the register's bytes and its poison bit are written, and the instruction retires. -/
theorem resultFrame : Obligations.ResultFrame := by
  intro s x w k d v lat p b t home free
  obtain ⟨dd, a, f, m, sl, st, ht, hout, hwf, hzr, hin⟩ := resultState_spec s x w k d v lat p
  change t = _ at ht
  have hcore : ∀ c, core t c = core s c := core_resultState s x w k d v lat p
  have hpa : wsPa t x.c x.sl = wsPa s x.c x.sl := by simp only [wsPa, hcore]
  have hread {o n : Nat} (ho : 24 ≤ d.toNat ∨ o + n ≤ 8 * d.toNat ∨ 8 * d.toNat + 8 ≤ o) (hf : o + n ≤ 0xF6 ∨ 0xF7 ≤ o) :
      wsRd t x.c x.sl o n = wsRd s x.c x.sl o n := (wsRd_resultState s x w k d v lat p ho).trans (wsRd_now s x o n hf)
  have hhigh {o n : Nat} (ho : 192 ≤ o) (hf : o + n ≤ 0xF6 ∨ 0xF7 ≤ o) : wsRd t x.c x.sl o n = wsRd s x.c x.sl o n := hread (by omega) hf
  obtain ⟨pend, hst, -⟩ := stream_resultState s x w k d v lat p
  have hfield {α : Type} (g : State → α) (h : ∀ t dd a f m sl st,
      g { s with cycle := t, metered := dd, meters := a, flushes := f, mem := m, slots := sl, streams := st } = g s) : g t = g s := by
    rw [ht, h]
  have hpois := isPoisoned_resultState s x w k d v lat p
  have hlt := d.isLt
  refine ⟨fun hd => ⟨?_, ?_⟩, fun r hr hrd => ⟨?_, ?_⟩, fun hd => ?_, fun a ha => ?_, fun a ha => rdByte_now s x ha, now_eq_atCycle,
    ?_, hhigh (by omega) (by omega), ?_, hhigh (by omega) (by omega), ?_, hfield State.full fun _ _ _ _ _ _ _ => rfl,
    hfield State.poison fun _ _ _ _ _ _ _ => rfl, hfield State.resvQ fun _ _ _ _ _ _ _ => rfl, hfield State.regs fun _ _ _ _ _ _ _ => rfl,
    hfield State.tvec fun _ _ _ _ _ _ _ => rfl, hfield State.dbgctl fun _ _ _ _ _ _ _ => rfl, hfield State.cores fun _ _ _ _ _ _ _ => rfl,
    hfield State.channels fun _ _ _ _ _ _ _ => rfl, hfield State.quads fun _ _ _ _ _ _ _ => rfl, hfield State.accMem fun _ _ _ _ _ _ _ => rfl,
    hfield State.hostMem fun _ _ _ _ _ _ _ => rfl, hfield State.parts fun _ _ _ _ _ _ _ => rfl, hfield State.net fun _ _ _ _ _ _ _ => rfl,
    congrArg Stream.pc hst, congrArg Stream.nextIssue hst, fun hfree n hn hle => ?_, fun hfree hd n hn hlt => ?_, fun h => ?_⟩
  · have : rdN t.mem (wsPa t x.c x.sl + 8 * d.toNat) 8 = v.toNat := by rw [hpa, ht]; exact hin hd
    simp only [regValue, if_pos hd, wsRd, this, BitVec.ofNat_toNat, BitVec.setWidth_eq]
  · exact (hpois _).trans (if_pos ⟨rfl, hd⟩)
  · exact regValue_congr (hcore _) (fun hr => hread (by omega) (by omega)) fun o n ho hf _ => hhigh (by omega) hf
  · exact (hpois _).trans (if_neg fun h => hrd h.1)
  · rw [ht]; exact hzr hd
  · rw [ht]; exact hout a ha
  · exact congrArg (BitVec.ofNat 256) (hhigh (by omega) (by omega))
  · exact wsRd_resultState s x w k d v lat p (by omega)
  · have hsb := congrArg Stream.sb hst
    exact hsb
  · exact (pendOf_resultState w k v lat p hfree n hn).trans (if_neg (by omega))
  · exact ⟨_, (pendOf_resultState w k v lat p hfree n hn).trans (if_pos ⟨hd, hlt⟩), rfl⟩
  · rw [ht]; exact hwf h

end Sys2Proof.Machine
end

section
/-! PROOFS. Leaving the RUNNING state by a trap or a wait (R74, R377 to R379). -/

namespace Sys2Proof.Machine

-- One proof after the other: side by side they take more threads and memory than the check of the whole text has.
set_option Elab.async false

/-! ## Switching out (R54) -/

section switch
variable {s : State} {c : Nat} {x : Bool} {sl : Nat} {pc : Word}

theorem settleFlags_noFlags (h : ∀ e ∈ (stream s c x).pend, e.isFlags = false) (f : PendWrite → Bool) : settleFlags s c x sl f = s := by
  unfold settleFlags
  dsimp only
  rw [List.filter_eq_nil_iff.mpr fun e he => by simp [h e he]]

/-- The bytes of memory that settling flags keeps. -/
theorem rdByte_settleFlags (f : PendWrite → Bool) {a : Nat} (ha : a ≠ wsPa s c sl + 0xF6 ∨ ∀ e ∈ (stream s c x).pend, e.isFlags = false) :
    rdByte (settleFlags s c x sl f).mem a = rdByte s.mem a := by
  rcases ha with ha | ha
  · obtain ⟨m, st, h, hm, -⟩ := settleFlags_eq s c x sl f
    rw [h]
    exact rdByte_eq_of_rdN (hm a 1 (by omega))
  · rw [settleFlags_noFlags ha]

/-- The traveller of the stream is switched out: its pc is saved, its flags settle, and the stream runs nothing. -/
theorem switchOut_spec (hrun : (stream s c x).run = some sl) : ∃ m st,
    switchOut s c x pc = { s with mem := m, streams := st }
      ∧ (stream (switchOut s c x pc) c x).run = none
      ∧ rdN m (wsPa s c sl + 192) 8 = pc.toNat
      ∧ (∀ a, (a < wsPa s c sl + 192 ∨ wsPa s c sl + 200 ≤ a) →
          (a ≠ wsPa s c sl + 0xF6 ∨ ∀ e ∈ (stream s c x).pend, e.isFlags = false) → rdByte m a = rdByte s.mem a)
      ∧ (Memory.wf s.mem = true → Memory.wf m = true) := by
  obtain ⟨m0, st0, h0, -⟩ := settleFlags_eq s c x sl fun _ => true
  have hpa : wsPa (settleFlags s c x sl fun _ => true) c sl = wsPa s c sl := by rw [h0]; rfl
  have hsw : switchOut s c x pc = updStream (savePc (settleFlags s c x sl fun _ => true) c sl pc) c x fun k =>
      { k with run := none, pend := [], fbuf := [], nextIssue := 0 } := by rw [switchOut, hrun]
  refine ⟨wrN (settleFlags s c x sl fun _ => true).mem (wsPa s c sl + 192) 8 pc.toNat, (switchOut s c x pc).streams, ?_, ?_, ?_, fun a ha hf => ?_, fun h => ?_⟩
  · rw [hsw, savePc, wsWr, hpa, h0]
    rfl
  · rw [hsw, stream_updStream, if_pos rfl]
  · exact (rdN_wrN_same 8 _ _ _).trans (Nat.mod_eq_of_lt pc.isLt)
  · exact (rdByte_wrN_out 8 _ _ _ _ ha).trans (rdByte_settleFlags _ hf)
  · exact wrN_wf _ _ _ _ (settleFlags_wf _ _ _ _ _ h)

end switch

/-! ## Leaving with a STATE and a REASON (R72) -/

/-- The state of a stream's traveller that leaves RUNNING at `pc` with STATE `st` and REASON `reason`. -/
def leftAs (s : State) (c : Nat) (x : Bool) (sl : Nat) (pc : Word) (st : TState) (reason : Nat) : State :=
  setState (switchOut s c x pc) c sl st reason

/-- The bytes of memory that the leaving keeps: all but the saved pc, STATUS and, while flags are pending, FLAGS. -/
def LeavesByte (s : State) (c : Nat) (x : Bool) (sl a : Nat) : Prop :=
  (a < wsPa s c sl + 192 ∨ wsPa s c sl + 200 ≤ a) ∧ (a < wsPa s c sl + 0xFE ∨ wsPa s c sl + 0x100 ≤ a)
    ∧ (a ≠ wsPa s c sl + 0xF6 ∨ ∀ e ∈ (stream s c x).pend, e.isFlags = false)

section left
variable {s : State} {c : Nat} {x : Bool} {sl : Nat} (pc : Word) (st : TState) (reason : Nat) (hrun : (stream s c x).run = some sl)
include hrun

theorem leftAs_spec : ∃ m sts, leftAs s c x sl pc st reason = { s with mem := m, streams := sts }
    ∧ (stream (leftAs s c x sl pc st reason) c x).run = none
    ∧ rdN m (wsPa s c sl + 192) 8 = pc.toNat
    ∧ rdN m (wsPa s c sl + 0xFE) 2 = status s c sl / 256 * 256 + reason % 16 * 16 + st.code
    ∧ (∀ a, LeavesByte s c x sl a → rdByte m a = rdByte s.mem a)
    ∧ (Memory.wf s.mem = true → Memory.wf m = true) := by
  obtain ⟨m, sts, h, hnone, hpc, hkeep, hwf⟩ := switchOut_spec (pc := pc) hrun
  have hpa : wsPa (switchOut s c x pc) c sl = wsPa s c sl := by rw [h]; rfl
  have hstatus : status (switchOut s c x pc) c sl = status s c sl := by
    rw [status, wsRd, hpa, h]
    exact rdN_congr 2 _ _ _ fun a ha ha' => hkeep a (by omega) (.inl (by omega))
  have hlt : status s c sl < 65536 := rdN_lt 2 _ _
  have hcode : st.code < 16 := by cases st <;> decide
  refine ⟨wrN m (wsPa s c sl + 0xFE) 2 (status s c sl / 256 * 256 + reason % 16 * 16 + st.code), sts, ?_, hnone, ?_, ?_, fun a ha => ?_,
    fun hm => wrN_wf _ _ _ _ (hwf hm)⟩
  · rw [leftAs, setState, hstatus, wsWr, hpa, h]
  · exact (rdN_wrN_out _ _ _ _ _ _ (by omega)).trans hpc
  · exact (rdN_wrN_same 2 _ _ _).trans (Nat.mod_eq_of_lt (by norm_num; omega))
  · obtain ⟨h1, h2, h3⟩ := ha
    exact (rdByte_wrN_out 2 _ _ _ _ h2).trans (hkeep a h1 h3)

end left

/-! ## From the state of issue -/

section now
variable {s : State} {x : Ctx}

@[simp] theorem wsPa_now (s : State) (x : Ctx) (c sl : Nat) : wsPa (now s x) c sl = wsPa s c sl := by simp only [wsPa, core_now]

theorem stream_now (s : State) (x : Ctx) : stream (now s x) x.c x.x
    = { stream s x.c x.x with pend := (stream s x.c x.x).pend.filter fun w => !(w.isFlags && decide (w.ready ≤ x.t)) } := by
  obtain ⟨m, st, h, -, hst⟩ := now_eq s x
  rw [← hst, h]; rfl

/-- The state of issue keeps every byte that a leaving keeps. -/
theorem rdByte_now_of_leaves {a : Nat} (h : LeavesByte s x.c x.x x.sl a) : rdByte (now s x).mem a = rdByte s.mem a := by
  obtain ⟨-, -, h | h⟩ := h
  · exact rdByte_now s x h
  · rw [now_eq_atCycle fun e he hf => absurd hf (by simp [h e he])]
    rfl

theorem leavesByte_now {a : Nat} (h : LeavesByte s x.c x.x x.sl a) : LeavesByte (now s x) x.c x.x x.sl a := by
  obtain ⟨h1, h2, h3⟩ := h
  refine ⟨by rwa [wsPa_now], by rwa [wsPa_now], ?_⟩
  rw [wsPa_now, stream_now]
  exact h3.imp_right fun h e he => h e (List.mem_filter.mp he).1

/-- The traveller of the stream leaves RUNNING at its instruction, from the state of issue. -/
theorem leftAs_now_spec (st : TState) (reason : Nat) (hrun : (stream s x.c x.x).run = some x.sl) : ∃ m sts,
    leftAs (now s x) x.c x.x x.sl x.pc st reason = { s with cycle := x.t, mem := m, streams := sts }
      ∧ (stream (leftAs (now s x) x.c x.x x.sl x.pc st reason) x.c x.x).run = none
      ∧ rdN m (wsPa s x.c x.sl + 192) 8 = x.pc.toNat
      ∧ rdN m (wsPa s x.c x.sl + 0xFE) 2 = status s x.c x.sl / 256 * 256 + reason % 16 * 16 + st.code
      ∧ (∀ a, LeavesByte s x.c x.x x.sl a → rdByte m a = rdByte s.mem a)
      ∧ (Memory.wf s.mem = true → Memory.wf m = true) := by
  have hrun' : (stream (now s x) x.c x.x).run = some x.sl := by rw [stream_now]; exact hrun
  obtain ⟨m, sts, h, hnone, hpc, hst, hkeep, hwf⟩ := leftAs_spec x.pc st reason hrun'
  obtain ⟨m0, st0, h0, -⟩ := now_eq s x
  rw [wsPa_now] at hpc hst
  rw [status_now] at hst
  exact ⟨m, sts, by rw [h, h0], hnone, hpc, hst, fun a ha => (hkeep a (leavesByte_now ha)).trans (rdByte_now_of_leaves ha), fun hm => hwf (now_wf s x hm)⟩

/-- A field of the workspace that the leaving keeps. -/
theorem rdN_of_leaves {m : List Host.Cell} (hkeep : ∀ a, LeavesByte s x.c x.x x.sl a → rdByte m a = rdByte s.mem a) {o n : Nat}
    (h1 : o + n ≤ 192 ∨ 200 ≤ o) (h2 : o + n ≤ 0xFE ∨ 0x100 ≤ o) (h3 : o + n ≤ 0xF6 ∨ 0xF7 ≤ o) :
    rdN m (wsPa s x.c x.sl + o) n = wsRd s x.c x.sl o n :=
  rdN_congr n _ _ _ fun a ha ha' => hkeep a ⟨by omega, by omega, .inl (by omega)⟩

end now

/-- The slot of a traveller that has trapped. -/
def trappedSlot (t : TrapInfo) (k : Slot) : Slot := { k with wait := none, trap := some t }

theorem takeTrap_eq (s : State) (c : Nat) (x : Bool) (sl : Nat) (pc : Word) (t : TrapInfo) :
    takeTrap s c x sl pc t
      = let u := updSlot (leftAs s c x sl pc .trapped 0) c sl (trappedSlot t)
        sendMsg u (trapSteward u c (slot u c sl).hdr.part x) (trapMsgOf u c sl t pc) := rfl

/-- The message of its trap (R378). -/
def trapMsgAt (s : State) (x : Ctx) (i : TrapInfo) : TrapMsg := { trapMsgOf s x.c x.sl i x.pc with cyc := x.t }

theorem trapped_spec {s : State} {x : Ctx} (i : TrapInfo) (hrun : (stream s x.c x.x).run = some x.sl) : ∃ m sts sl,
    trapped x s i = { s with cycle := x.t, mem := m, streams := sts, slots := sl,
                             msgFlight := s.msgFlight ++ [(trapSteward s x.c (slot s x.c x.sl).hdr.part x.x, trapMsgAt s x i)] }
      ∧ (stream (trapped x s i) x.c x.x).run = none
      ∧ slot (trapped x s i) x.c x.sl = trappedSlot i (slot s x.c x.sl)
      ∧ rdN m (wsPa s x.c x.sl + 192) 8 = x.pc.toNat
      ∧ rdN m (wsPa s x.c x.sl + 0xFE) 2 = status s x.c x.sl / 256 * 256 + TState.trapped.code
      ∧ (∀ a, LeavesByte s x.c x.x x.sl a → rdByte m a = rdByte s.mem a)
      ∧ (Memory.wf s.mem = true → Memory.wf m = true) := by
  obtain ⟨m, sts, h, hnone, hpc, hst, hkeep, hwf⟩ := leftAs_now_spec .trapped 0 hrun
  have hslot (c sl : Nat) : slot (leftAs (now s x) x.c x.x x.sl x.pc .trapped 0) c sl = slot s c sl := by rw [h]; rfl
  have hmsg : trapMsgOf (updSlot (leftAs (now s x) x.c x.x x.sl x.pc .trapped 0) x.c x.sl (trappedSlot i)) x.c x.sl i x.pc
      = trapMsgAt s x i := by
    generalize hu : updSlot (leftAs (now s x) x.c x.x x.sl x.pc .trapped 0) x.c x.sl (trappedSlot i) = u
    have htid : tidOf u x.c x.sl = tidOf s x.c x.sl := by
      rw [← hu, h]
      exact rdN_of_leaves hkeep (by omega) (by omega) (by omega)
    have hbit : statusBit u x.c x.sl 10 = statusBit s x.c x.sl 10 := by
      have hu' : status u x.c x.sl = status s x.c x.sl / 256 * 256 + 0 % 16 * 16 + TState.trapped.code := by
        rw [← hu, h]
        exact hst
      have : status u x.c x.sl / 2 ^ 10 % 2 = status s x.c x.sl / 2 ^ 10 % 2 := by rw [hu']; simp only [TState.code]; omega
      rw [statusBit, statusBit, this]
    have hhdr : (slot u x.c x.sl).hdr = (slot s x.c x.sl).hdr := by rw [← hu, slot_updSlot, if_pos rfl, hslot]; rfl
    have hcore : core u x.c = core s x.c := by rw [← hu, h]; rfl
    have hcyc : u.cycle = x.t := by rw [← hu, h]; rfl
    simp only [trapMsgOf, trapMsgAt, htid, hbit, hhdr, hcore, hcyc]
  refine ⟨m, sts, (trapped x s i).slots, ?_, hnone, ?_, hpc, by simpa using hst, hkeep, hwf⟩
  · rw [trapped, takeTrap_eq]
    dsimp only
    rw [hmsg, slot_updSlot, if_pos rfl, hslot, h]
    rfl
  · change slot (updSlot (leftAs (now s x) x.c x.x x.sl x.pc .trapped 0) x.c x.sl (trappedSlot i)) x.c x.sl = _
    rw [slot_updSlot, if_pos rfl, hslot]

/-! ## Parking (R74) -/

/-- The slot of a traveller that has parked. -/
def parkedSlot (fare : Word) (w : Wait) (k : Slot) : Slot := { withFare fare k with wait := some w }

/-- Paying where the wait does not start the instruction again. -/
theorem chargePark_spec (k : Nat) (x : Ctx) (s : State) (cond : Cond) : ∃ d a f m fare,
    (if cond.restarts then s else chargeIssue k x s) = { s with metered := d, meters := a, flushes := f, slots := m }
      ∧ slot { s with metered := d, meters := a, flushes := f, slots := m } x.c x.sl = withFare fare (slot s x.c x.sl) := by
  split
  · exact ⟨s.metered, s.meters, s.flushes, s.slots, (slot s x.c x.sl).hdr.fare, rfl, rfl⟩
  · obtain ⟨d, a, f, m, fare, h, hslot⟩ := chargeIssue_spec k x s
    exact ⟨d, a, f, m, fare, h, (hslot _ _).trans (if_pos rfl)⟩

theorem parked_spec {s : State} {x : Ctx} (k word reason : Nat) (cond : Cond) (hrun : (stream s x.c x.x).run = some x.sl) :
    ∃ m sts sl d a f fare, parked k x (now s x) word reason cond
        = { s with cycle := x.t, mem := m, streams := sts, slots := sl, metered := d, meters := a, flushes := f }
      ∧ (stream (parked k x (now s x) word reason cond) x.c x.x).run = none
      ∧ slot (parked k x (now s x) word reason cond) x.c x.sl = parkedSlot fare { word := word, cond := cond } (slot s x.c x.sl)
      ∧ rdN m (wsPa s x.c x.sl + 192) 8 = x.pc.toNat
      ∧ rdN m (wsPa s x.c x.sl + 0xFE) 2 = status s x.c x.sl / 256 * 256 + reason % 16 * 16 + TState.parked.code
      ∧ (∀ a, LeavesByte s x.c x.x x.sl a → rdByte m a = rdByte s.mem a) := by
  obtain ⟨d, a, f, ms, fare, hpaid, hslot⟩ := chargePark_spec k x (now s x) cond
  generalize hu : ({ now s x with metered := d, meters := a, flushes := f, slots := ms } : State) = u at hpaid hslot
  have hstream : stream u x.c x.x = stream (now s x) x.c x.x := by rw [← hu]; rfl
  have hmem : u.mem = (now s x).mem := by rw [← hu]
  have hpa : wsPa u x.c x.sl = wsPa s x.c x.sl := by rw [← hu]; exact wsPa_now s x _ _
  have hstatus : status u x.c x.sl = status s x.c x.sl := by rw [← hu]; exact status_now s x
  have hrun' : (stream u x.c x.x).run = some x.sl := by rw [hstream, stream_now]; exact hrun
  obtain ⟨m, sts, h, hnone, hpc, hst, hkeep, -⟩ := leftAs_spec x.pc .parked reason hrun'
  obtain ⟨m0, st0, h0, -⟩ := now_eq s x
  have hpark : parked k x (now s x) word reason cond
      = updSlot (leftAs u x.c x.x x.sl x.pc .parked reason) x.c x.sl fun k => { k with wait := some { word := word, cond := cond } } := by
    rw [parked, doPark, hpaid]
    rfl
  rw [hpa] at hpc hst
  rw [hstatus] at hst
  refine ⟨m, sts, (parked k x (now s x) word reason cond).slots, d, a, f, fare, ?_, ?_, ?_, hpc, hst, fun b hb => ?_⟩
  · rw [hpark, h, ← hu, h0]
    rfl
  · rw [hpark, stream_updSlot, hnone]
  · have : slot (leftAs u x.c x.x x.sl x.pc .parked reason) x.c x.sl = slot u x.c x.sl := by rw [h]; rfl
    rw [hpark, slot_updSlot, if_pos rfl, this, hslot, slot_now]
    rfl
  · have hb' : LeavesByte u x.c x.x x.sl b := by
      have := leavesByte_now hb
      rwa [LeavesByte, wsPa_now, ← hpa, ← hstream] at this
    rw [hkeep b hb', hmem, rdByte_now_of_leaves hb]

/-- What STATUS of a leaving traveller says (R72). -/
theorem ofCode_status (k reason : Nat) (st : TState) : TState.ofCode ((k / 256 * 256 + reason % 16 * 16 + st.code) % 16) = st := by
  have : (k / 256 * 256 + reason % 16 * 16 + st.code) % 16 = st.code := by
    have : st.code < 16 := by cases st <;> decide
    omega
  rw [this]
  cases st <;> rfl

/-- Settles O54: the bytes that a leaving changes, the slot and the message. -/
theorem trapEntry : Obligations.TrapEntry := by
  intro s x i k word reason cond t u ws kept hrun hused
  refine ⟨?_, fun hreason => ?_⟩
  · obtain ⟨m, sts, sl, ht, hnone, hslot, hpc, hst, hkeep, hwf⟩ := trapped_spec i hrun
    change t = _ at ht
    have hpa : wsPa t x.c x.sl = wsPa s x.c x.sl := by rw [ht]; rfl
    have hfield {o n : Nat} (h1 : o + n ≤ 192 ∨ 200 ≤ o) (h2 : o + n ≤ 0xFE ∨ 0x100 ≤ o) (h3 : o + n ≤ 0xF6 ∨ 0xF7 ≤ o) :
        wsRd t x.c x.sl o n = wsRd s x.c x.sl o n := by
      rw [wsRd, hpa, ht]
      exact rdN_of_leaves hkeep h1 h2 h3
    have hstatus : status t x.c x.sl = status s x.c x.sl / 256 * 256 + TState.trapped.code := by
      rw [status, wsRd, hpa, ht]
      exact hst
    have hcode : TState.ofCode (status t x.c x.sl % 16) = .trapped := by
      rw [hstatus]
      simpa using ofCode_status (status s x.c x.sl) 0 .trapped
    have hhdr : (slot t x.c x.sl).hdr = (slot s x.c x.sl).hdr := by
      have := congrArg Slot.hdr hslot
      exact this
    have hmsg : t.msgFlight = s.msgFlight ++ [(trapSteward s x.c (slot s x.c x.sl).hdr.part x.x, trapMsgAt s x i)] := by rw [ht]
    refine ⟨?_, ?_, hnone, congrArg Slot.trap hslot, hhdr, ⟨trapMsgAt s x i, hmsg, rfl, rfl, rfl, rfl, rfl, rfl, rfl, rfl, rfl⟩,
      fun a ha => ?_, fun r hr => ?_, by rw [ht], by rw [ht], by rw [ht], by rw [ht], by rw [ht], by rw [ht], fun hk => ⟨trapMsgAt s x i, hmsg.trans ?_⟩, fun h => ?_⟩
    · rw [stateOf, hslot, if_pos (show (trappedSlot i (slot s x.c x.sl)).used = true from hused), hcode]
    · rw [savedPc, wsRd, hpa, ht, hpc, BitVec.ofNat_toNat, BitVec.setWidth_eq]
    · rw [ht]; exact hkeep a ⟨ha.1, ha.2.1, ha.2.2⟩
    · exact regValue_congr (by rw [ht]; rfl) (fun _ => hfield (by omega) (by omega) (by omega)) fun o n ho hf hle =>
        hfield (by omega) (by omega) hf
    · simp only [trapSteward, hk]
    · rw [ht]; exact hwf h
  · obtain ⟨m, sts, sl, d, a, f, fare, hu, hnone, hslot, hpc, hst, hkeep⟩ := parked_spec k word reason cond hrun
    change u = _ at hu
    have hpa : wsPa u x.c x.sl = wsPa s x.c x.sl := by rw [hu]; rfl
    have hstatus : status u x.c x.sl = status s x.c x.sl / 256 * 256 + reason % 16 * 16 + TState.parked.code := by
      rw [status, wsRd, hpa, hu]
      exact hst
    refine ⟨?_, ?_, ?_, hnone, congrArg Slot.wait hslot, fun a ha => ?_⟩
    · rw [stateOf, hslot, if_pos (show (parkedSlot fare { word := word, cond := cond } (slot s x.c x.sl)).used = true from hused), hstatus,
        ofCode_status]
    · rw [reasonOf, hstatus]
      simp only [TState.code]
      omega
    · rw [savedPc, wsRd, hpa, hu, hpc, BitVec.ofNat_toNat, BitVec.setWidth_eq]
    · rw [hu]; exact hkeep a ⟨ha.1, ha.2.1, ha.2.2⟩

end Sys2Proof.Machine
end

section
/-! PROOFS. The first checks of every issue (R59). -/

namespace Sys2Proof.Machine

-- One proof after the other: elaborated side by side, they all wait for the equations of `Instr.wf` and hold a thread each.
set_option Elab.async false

/-- Instruction `i` is an issue of its word, which is not legal where the fields of `i` are not (R50, R56, R57). -/
def IsIssue (i : Instr) : Prop := ∀ s n, encode i = some n → ∃ iss body, exec i s = issue iss s body ∧ iss.word = n ∧ (i.wf = false → iss.legal = false)

theorem shImm_toNat (op : Nat) (h : BitVec 6) (hop : op < 4 := by omega) : (shImm op h).toNat = op * 2 ^ 11 + h.toNat := by
  simp only [shImm, BitVec.toNat_ofNat]
  omega


theorem feImm_toNat (c : BitVec 1) (z : BitVec 2) (o : BitVec 10) : (feImm c z o).toNat = c.toNat * 2 ^ 12 + z.toNat * 2 ^ 10 + o.toNat := by
  simp only [feImm, BitVec.toNat_ofNat]
  omega

theorem vecLegal_of_pairOk {n m f : Nat} (h : pairOk m f = false) (hm : wMajor n = m) (hf : wFn n = f) : vecLegal n = false := by
  subst hm hf
  simp [vecLegal, h]

theorem isIssue_int3 (w : BitVec 3) (d : BitVec 5) (a : BitVec 5) (b : BitVec 5) : ∀ ins ∈ [
      Instr.add w d a b, .sub w d a b, .and w d a b, .or w d a b, .xor w d a b, .andn w d a b, .orn w d a b, .xnor w d a b, .sll w d a b,
      .srl w d a b, .sra w d a b, .rol w d a b, .ror w d a b, .slt w d a b, .sltu w d a b, .min w d a b, .max w d a b, .minu w d a b,
      .maxu w d a b, .seq w d a b, .sne w d a b, .addw w d a b, .subw w d a b, .sllw w d a b, .srlw w d a b, .sraw w d a b, .sext w d a b,
      .mul w d a b, .mulh w d a b, .mulhu w d a b, .mulw w d a b, .div w d a b, .divu w d a b, .rem w d a b, .remu w d a b, .bilv2 w d a b,
      .bdil3 w d a b, .extu w d a b, .exts w d a b], IsIssue ins := by
  simp only [List.forall_mem_cons, List.not_mem_nil, IsEmpty.forall_iff, implies_true, and_true]
  and_intros
  all_goals
    intro s n he
    obtain rfl := Option.some.inj he
    dsimp only [
      exec_add, exec_sub, exec_and, exec_or, exec_xor, exec_andn, exec_orn, exec_xnor, exec_sll, exec_srl, exec_sra, exec_rol, exec_ror,
      exec_slt, exec_sltu, exec_min, exec_max, exec_minu, exec_maxu, exec_seq, exec_sne, exec_addw, exec_subw, exec_sllw, exec_srlw,
      exec_sraw, exec_sext, exec_mul, exec_mulh, exec_mulhu, exec_mulw, exec_div, exec_divu, exec_rem, exec_remu, exec_bilv2, exec_bdil3,
      exec_extu, exec_exts, execAdd, execSub, execAnd, execOr, execXor, execAndn, execOrn, execXnor, execSll, execSrl, execSra, execRol,
      execRor, execSlt, execSltu, execMin, execMax, execMinu, execMaxu, execSeq, execSne, execAddw, execSubw, execSllw, execSrlw, execSraw,
      execSext, execMul, execMulh, execMulhu, execMulw, execDiv, execDivu, execRem, execRemu, execBilv2, execBdil3, execExtu, execExts, int3]
    exact ⟨_, _, rfl, by simp only [word3, plc]; omega, fun hw => hw⟩

theorem isIssue_int2 (w : BitVec 3) (d : BitVec 5) (a : BitVec 5) : ∀ ins ∈ [
      Instr.clz w d a, .ctz w d a, .popc w d a, .brev w d a, .bswap w d a], IsIssue ins := by
  simp only [List.forall_mem_cons, List.not_mem_nil, IsEmpty.forall_iff, implies_true, and_true]
  and_intros
  all_goals
    intro s n he
    obtain rfl := Option.some.inj he
    dsimp only [
      exec_clz, exec_ctz, exec_popc, exec_brev, exec_bswap, execClz, execCtz, execPopc, execBrev, execBswap, int2]
    exact ⟨_, _, rfl, by simp only [word3, plc, BitVec.ofNat_eq_ofNat, BitVec.toNat_zero]; omega, fun hw => hw⟩

theorem isIssue_int3d (w : BitVec 3) (d : BitVec 5) (a : BitVec 5) (b : BitVec 5) : ∀ ins ∈ [
      Instr.bilv3 w d a b, .ins w d a b], IsIssue ins := by
  simp only [List.forall_mem_cons, List.not_mem_nil, IsEmpty.forall_iff, implies_true, and_true]
  and_intros
  all_goals
    intro s n he
    obtain rfl := Option.some.inj he
    dsimp only [
      exec_bilv3, exec_ins, execBilv3, execIns, int3d]
    exact ⟨_, _, rfl, by simp only [word3, plc]; omega, fun hw => hw⟩

theorem isIssue_intI (w : BitVec 3) (d : BitVec 5) (a : BitVec 5) (i : BitVec 13) : ∀ ins ∈ [
      Instr.addi w d a i, .andi w d a i, .ori w d a i, .xori w d a i, .slti w d a i, .sltiu w d a i], IsIssue ins := by
  simp only [List.forall_mem_cons, List.not_mem_nil, IsEmpty.forall_iff, implies_true, and_true]
  and_intros
  all_goals
    intro s n he
    obtain rfl := Option.some.inj he
    dsimp only [
      exec_addi, exec_andi, exec_ori, exec_xori, exec_slti, exec_sltiu, execAddi, execAndi, execOri, execXori, execSlti, execSltiu, intI]
    exact ⟨_, _, rfl, by simp only [wordI, plc]; omega, fun hw => hw⟩

theorem isIssue_own (w : BitVec 3) (d : BitVec 5) (i : BitVec 18) (a : BitVec 5) (o : BitVec 23) (i13 : BitVec 13) (b : BitVec 5) (z : BitVec 2) (l : BitVec 5) (z1 : BitVec 1) (p : BitVec 2) : ∀ ins ∈ [
      Instr.himm w d i, .pchi w d i, .cwait w a, .jal w o, .jalr w d a i13, .pwhile w a b z, .pstore w a z, .pget w d a z, .pput w a b z,
      .vloop w l a b, .vsync w, .rsv w d a z1, .rls w a b z1, .ldaq w d a p z1, .strl w a b p z1], IsIssue ins := by
  simp only [List.forall_mem_cons, List.not_mem_nil, IsEmpty.forall_iff, implies_true, and_true]
  and_intros
  all_goals
    intro s n he
    obtain rfl := Option.some.inj he
    dsimp only [
      exec_himm, exec_pchi, exec_cwait, exec_jal, exec_jalr, exec_pwhile, exec_pstore, exec_pget, exec_pput, exec_vloop, exec_vsync,
      exec_rsv, exec_rls, exec_ldaq, exec_strl, execHimm, execPchi, execCwait, execJal, execJalr, execPwhile, execPstore, execPget,
      execPput, execVloop, execVsync, execRsv, execRls, execLdaq, execStrl]
    exact ⟨_, _, rfl, by simp only [word3, wordI, wordP, wordA, plc, BitVec.ofNat_eq_ofNat, BitVec.toNat_zero]; omega, fun hw => hw⟩

theorem isIssue_fpu3 (w : BitVec 3) (d : BitVec 5) (a : BitVec 5) (b : BitVec 5) (t : BitVec 1) : ∀ ins ∈ [
      Instr.fadd w d a b t, .fsub w d a b t, .fmul w d a b t, .fdiv w d a b t, .fmin w d a b t, .fmax w d a b t, .feq w d a b t,
      .flt w d a b t, .fle w d a b t], IsIssue ins := by
  simp only [List.forall_mem_cons, List.not_mem_nil, IsEmpty.forall_iff, implies_true, and_true]
  and_intros
  all_goals
    intro s n he
    obtain rfl := Option.some.inj he
    dsimp only [
      exec_fadd, exec_fsub, exec_fmul, exec_fdiv, exec_fmin, exec_fmax, exec_feq, exec_flt, exec_fle, execFadd, execFsub, execFmul,
      execFdiv, execFmin, execFmax, execFeq, execFlt, execFle, fpu3]
    exact ⟨_, _, rfl, by simp only [word3, wordF, plc]; omega, fun hw => hw⟩

theorem isIssue_fpu2 (w : BitVec 3) (d : BitVec 5) (a : BitVec 5) (t : BitVec 1) : ∀ ins ∈ [
      Instr.fsqrt w d a t, .fclass w d a t, .fcvti w d a t, .fcvtu w d a t, .fcvtf w d a t, .fcvtfu w d a t, .fcvtw w d a t, .fneg w d a t,
      .fabs w d a t], IsIssue ins := by
  simp only [List.forall_mem_cons, List.not_mem_nil, IsEmpty.forall_iff, implies_true, and_true]
  and_intros
  all_goals
    intro s n he
    obtain rfl := Option.some.inj he
    dsimp only [
      exec_fsqrt, exec_fclass, exec_fcvti, exec_fcvtu, exec_fcvtf, exec_fcvtfu, exec_fcvtw, exec_fneg, exec_fabs, execFsqrt, execFclass,
      execFcvti, execFcvtu, execFcvtf, execFcvtfu, execFcvtw, execFneg, execFabs, fpu2]
    exact ⟨_, _, rfl, by simp only [word3, wordF, plc, BitVec.ofNat_eq_ofNat, BitVec.toNat_zero]; omega, fun hw => hw⟩

theorem isIssue_fma3 (w : BitVec 3) (d : BitVec 5) (a : BitVec 5) (b : BitVec 5) : ∀ ins ∈ [
      Instr.fmas w d a b, .fmad w d a b, .fnmas w d a b, .fnmad w d a b, .fmss w d a b, .fmsd w d a b], IsIssue ins := by
  simp only [List.forall_mem_cons, List.not_mem_nil, IsEmpty.forall_iff, implies_true, and_true]
  and_intros
  all_goals
    intro s n he
    obtain rfl := Option.some.inj he
    dsimp only [
      exec_fmas, exec_fmad, exec_fnmas, exec_fnmad, exec_fmss, exec_fmsd, execFmas, execFmad, execFnmas, execFnmad, execFmss, execFmsd, fma3]
    exact ⟨_, _, rfl, by simp only [word3, plc]; omega, fun hw => hw⟩

theorem isIssue_cpyI (w : BitVec 3) (d : BitVec 5) (a : BitVec 5) (b : BitVec 5) : ∀ ins ∈ [
      Instr.copy w d a b, .copy2d w d a b, .wincopy w d a, .putx w d a b, .getx w d a b, .mcast w d a b, .nred w d a b], IsIssue ins := by
  simp only [List.forall_mem_cons, List.not_mem_nil, IsEmpty.forall_iff, implies_true, and_true]
  and_intros
  all_goals
    intro s n he
    obtain rfl := Option.some.inj he
    dsimp only [
      exec_copy, exec_copy2d, exec_wincopy, exec_putx, exec_getx, exec_mcast, exec_nred, execCopy, execCopy2d, execWincopy, execPutx,
      execGetx, execMcast, execNred, cpyI, netCopy]
    exact ⟨_, _, rfl, by simp only [word3, plc, BitVec.ofNat_eq_ofNat, BitVec.toNat_zero]; omega, fun hw => hw⟩

theorem isIssue_ringI (w : BitVec 3) (n : BitVec 3) (a : BitVec 5) : ∀ ins ∈ [
      Instr.rinit w n a, .rpush w n, .rpop w n, .rstat w n a, .rwaitd w n a, .rwaits w n a], IsIssue ins := by
  simp only [List.forall_mem_cons, List.not_mem_nil, IsEmpty.forall_iff, implies_true, and_true]
  and_intros
  all_goals
    intro s n he
    obtain rfl := Option.some.inj he
    dsimp only [
      exec_rinit, exec_rpush, exec_rpop, exec_rstat, exec_rwaitd, exec_rwaits, execRinit, execRpush, execRpop, execRstat, execRwaitd,
      execRwaits, ringI, ringWait]
    exact ⟨_, _, rfl, by simp only [plc, BitVec.ofNat_eq_ofNat, BitVec.toNat_zero]; omega, fun hw => Bool.and_eq_false_iff.mpr (.inl hw)⟩

theorem isIssue_load (w : BitVec 3) (d : BitVec 5) (a : BitVec 5) (i : BitVec 13) : ∀ ins ∈ [
      Instr.ld w d a i, .lw w d a i, .lwu w d a i, .lh w d a i, .lhu w d a i, .lb w d a i, .lbu w d a i], IsIssue ins := by
  simp only [List.forall_mem_cons, List.not_mem_nil, IsEmpty.forall_iff, implies_true, and_true]
  and_intros
  all_goals
    intro s n he
    obtain rfl := Option.some.inj he
    dsimp only [
      exec_ld, exec_lw, exec_lwu, exec_lh, exec_lhu, exec_lb, exec_lbu, execLd, execLw, execLwu, execLh, execLhu, execLb, execLbu, load]
    exact ⟨_, _, rfl, by simp only [wordI, plc]; omega, fun hw => hw⟩

theorem isIssue_store (w : BitVec 3) (rs : BitVec 5) (a : BitVec 5) (i : BitVec 13) : ∀ ins ∈ [
      Instr.sd w rs a i, .sw w rs a i, .sh w rs a i, .sb w rs a i], IsIssue ins := by
  simp only [List.forall_mem_cons, List.not_mem_nil, IsEmpty.forall_iff, implies_true, and_true]
  and_intros
  all_goals
    intro s n he
    obtain rfl := Option.some.inj he
    dsimp only [
      exec_sd, exec_sw, exec_sh, exec_sb, execSd, execSw, execSh, execSb, store]
    exact ⟨_, _, rfl, by simp only [wordI, plc]; omega, fun hw => hw⟩

theorem isIssue_que (w : BitVec 3) (a : BitVec 5) (b : BitVec 5) (d : BitVec 5) : ∀ ins ∈ [
      Instr.enq w a b, .deq w d a b, .qstat w d b, .launch w a, .cdone w d a b, .cchk w d a, .cancel w a], IsIssue ins := by
  simp only [List.forall_mem_cons, List.not_mem_nil, IsEmpty.forall_iff, implies_true, and_true]
  and_intros
  all_goals
    intro s n he
    obtain rfl := Option.some.inj he
    dsimp only [
      exec_enq, exec_deq, exec_qstat, exec_launch, exec_cdone, exec_cchk, exec_cancel, execEnq, execDeq, execQstat, execLaunch, execCdone,
      execCchk, execCancel, que]
    exact ⟨_, _, rfl, by simp only [word3, plc, BitVec.ofNat_eq_ofNat, BitVec.toNat_zero]; omega, fun hw => hw⟩

theorem isIssue_sysI (w : BitVec 3) (a : BitVec 5) (d : BitVec 5) (b : BitVec 5) : ∀ ins ∈ [
      Instr.trap w a, .eret w a, .brk w, .wfm w d, .seal w a, .restart w, .purseadd w d a b], IsIssue ins := by
  simp only [List.forall_mem_cons, List.not_mem_nil, IsEmpty.forall_iff, implies_true, and_true]
  and_intros
  all_goals
    intro s n he
    obtain rfl := Option.some.inj he
    dsimp only [
      exec_trap, exec_eret, exec_brk, exec_wfm, exec_seal, exec_restart, exec_purseadd, execTrap, execEret, execBrk, execWfm, execSeal,
      execRestart, execPurseadd, sysI]
    exact ⟨_, _, rfl, by simp only [word3, plc, BitVec.ofNat_eq_ofNat, BitVec.toNat_zero]; omega, fun hw => hw⟩

/-- SEAL, whose name is a keyword and names no case of a proof, and the events, which have no word. -/
def sealOrEvent (i : Instr) : Bool := match i with
  | .seal _ _ => true
  | _ => (encode i).isNone

theorem isIssue_sealOrEvent {i : Instr} (h : sealOrEvent i = true) : IsIssue i := by
  unfold sealOrEvent at h
  split at h
  · next w a => exact isIssue_sysI w a 0 0 _ (by repeat constructor)
  · exact fun s n he => absurd he (by rw [Option.isNone_iff_eq_none.mp h]; exact (nomatch ·))

theorem isIssue_csr (w : BitVec 3) (d : BitVec 5) (n : BitVec 11) (a : BitVec 5) : ∀ ins ∈ [
      Instr.csrr w d n, .csrw w d a n, .csrs w d a n, .csrc w d a n], IsIssue ins := by
  simp only [List.forall_mem_cons, List.not_mem_nil, IsEmpty.forall_iff, implies_true, and_true]
  and_intros
  all_goals
    intro s n he
    obtain rfl := Option.some.inj he
    dsimp only [
      exec_csrr, exec_csrw, exec_csrs, exec_csrc, execCsrr, execCsrw, execCsrs, execCsrc, csr]
    exact ⟨_, _, rfl, by simp only [plc, BitVec.ofNat_eq_ofNat, BitVec.toNat_zero]; omega, fun hw => Bool.and_eq_false_iff.mpr (.inl hw)⟩

theorem isIssue_branch (w : BitVec 3) (a : BitVec 5) (b : BitVec 5) (o : BitVec 13) : ∀ ins ∈ [
      Instr.beq w a b o, .bne w a b o, .blt w a b o, .bge w a b o, .bltu w a b o, .bgeu w a b o], IsIssue ins := by
  simp only [List.forall_mem_cons, List.not_mem_nil, IsEmpty.forall_iff, implies_true, and_true]
  and_intros
  all_goals
    intro s n he
    obtain rfl := Option.some.inj he
    dsimp only [
      exec_beq, exec_bne, exec_blt, exec_bge, exec_bltu, exec_bgeu, execBeq, execBne, execBlt, execBge, execBltu, execBgeu, branch]
    exact ⟨_, _, rfl, by simp only [wordI, plc]; omega, fun hw => hw⟩

theorem isIssue_pbr (w : BitVec 3) (o : BitVec 20) : ∀ ins ∈ [
      Instr.pbrAny w o, .pbrNone w o, .pbrAll w o, .pbrNall w o], IsIssue ins := by
  simp only [List.forall_mem_cons, List.not_mem_nil, IsEmpty.forall_iff, implies_true, and_true]
  and_intros
  all_goals
    intro s n he
    obtain rfl := Option.some.inj he
    dsimp only [
      exec_pbrAny, exec_pbrNone, exec_pbrAll, exec_pbrNall, execPbrAny, execPbrNone, execPbrAll, execPbrNall, pbr]
    exact ⟨_, _, rfl, by simp only [plc]; omega, fun hw => hw⟩

theorem isIssue_predP (w : BitVec 3) (z : BitVec 2) : ∀ ins ∈ [
      Instr.psetall w z, .pclear w z, .pnot w z], IsIssue ins := by
  simp only [List.forall_mem_cons, List.not_mem_nil, IsEmpty.forall_iff, implies_true, and_true]
  and_intros
  all_goals
    intro s n he
    obtain rfl := Option.some.inj he
    dsimp only [
      exec_psetall, exec_pclear, exec_pnot, execPsetall, execPclear, execPnot, predP]
    exact ⟨_, _, rfl, by simp only [word3, wordP, plc, BitVec.ofNat_eq_ofNat, BitVec.toNat_zero]; omega, fun hw => hw⟩

theorem isIssue_predMask (w : BitVec 3) (a : BitVec 5) (z : BitVec 2) : ∀ ins ∈ [
      Instr.pload w a z, .pandm w a z, .porm w a z], IsIssue ins := by
  simp only [List.forall_mem_cons, List.not_mem_nil, IsEmpty.forall_iff, implies_true, and_true]
  and_intros
  all_goals
    intro s n he
    obtain rfl := Option.some.inj he
    dsimp only [
      exec_pload, exec_pandm, exec_porm, execPload, execPandm, execPorm, predMask]
    exact ⟨_, _, rfl, by simp only [word3, wordP, plc, BitVec.ofNat_eq_ofNat, BitVec.toNat_zero]; omega, fun hw => hw⟩

theorem isIssue_predR (w : BitVec 3) (d : BitVec 5) (z : BitVec 2) : ∀ ins ∈ [
      Instr.pcount w d z, .pfirst w d z], IsIssue ins := by
  simp only [List.forall_mem_cons, List.not_mem_nil, IsEmpty.forall_iff, implies_true, and_true]
  and_intros
  all_goals
    intro s n he
    obtain rfl := Option.some.inj he
    dsimp only [
      exec_pcount, exec_pfirst, execPcount, execPfirst, predR]
    exact ⟨_, _, rfl, by simp only [word3, wordP, plc, BitVec.ofNat_eq_ofNat, BitVec.toNat_zero]; omega, fun hw => hw⟩

theorem isIssue_task (w : BitVec 3) (a : BitVec 5) (b : BitVec 5) (d : BitVec 5) : ∀ ins ∈ [
      Instr.endT w, .yield w, .goto w a, .spawnat w a b, .popt w d a, .wake w a b, .park w, .spawn w d a, .pusht w d a], IsIssue ins := by
  simp only [List.forall_mem_cons, List.not_mem_nil, IsEmpty.forall_iff, implies_true, and_true]
  and_intros
  all_goals
    intro s n he
    obtain rfl := Option.some.inj he
    dsimp only [
      exec_endT, exec_yield, exec_goto, exec_spawnat, exec_popt, exec_wake, exec_park, exec_spawn, exec_pusht, execEndT, execYield,
      execGoto, execSpawnat, execPopt, execWake, execPark, execSpawn, execPusht, task, push]
    exact ⟨_, _, rfl, by simp only [word3, plc, BitVec.ofNat_eq_ofNat, BitVec.toNat_zero]; omega, fun hw => hw⟩

theorem isIssue_info (w : BitVec 3) (d : BitVec 5) (a : BitVec 5) (b : BitVec 5) : ∀ ins ∈ [
      Instr.homeof w d a, .wrfrm w d a, .rdflags w d b, .cubeof w d, .vquery w d, .rdcyc w d, .rdpurse w d, .rdfare w d, .rdfrm w d], IsIssue ins := by
  simp only [List.forall_mem_cons, List.not_mem_nil, IsEmpty.forall_iff, implies_true, and_true]
  and_intros
  all_goals
    intro s n he
    obtain rfl := Option.some.inj he
    dsimp only [
      exec_homeof, exec_wrfrm, exec_rdflags, exec_cubeof, exec_vquery, exec_rdcyc, exec_rdpurse, exec_rdfare, exec_rdfrm, execHomeof,
      execWrfrm, execRdflags, execCubeof, execVquery, execRdcyc, execRdpurse, execRdfare, execRdfrm, info, infoR]
    exact ⟨_, _, rfl, by simp only [word3, plc, BitVec.ofNat_eq_ofNat, BitVec.toNat_zero]; omega, fun hw => Bool.and_eq_false_iff.mpr (.inl hw)⟩

theorem isIssue_vecF (w : BitVec 3) (d : BitVec 5) (a : BitVec 5) (e : BitVec 4) (rs : BitVec 4) : ∀ ins ∈ [
      Instr.vconv w d a e rs], IsIssue ins := by
  simp only [List.forall_mem_cons, List.not_mem_nil, IsEmpty.forall_iff, implies_true, and_true]
  and_intros
  all_goals
    intro s n he
    obtain rfl := Option.some.inj he
    dsimp only [
      exec_vconv, execVconv, vecF, vecIssue]
    exact ⟨_, _, rfl, by simp only [word3, plc, BitVec.ofNat_eq_ofNat, BitVec.toNat_zero]; omega, fun hw => by
      delta Instr.wf at hw
      dsimp only at hw
      exact vecLegal_of_pairOk hw
       (by simp only [wMajor, word3, BitVec.ofNat_eq_ofNat, BitVec.toNat_zero]; omega)
        (by simp only [wFn, word3, BitVec.ofNat_eq_ofNat, BitVec.toNat_zero]; omega)⟩

theorem isIssue_coach (w : BitVec 3) (d : BitVec 5) (a : BitVec 5) (b : BitVec 5) : ∀ ins ∈ [
      Instr.macq w d a, .mrel w d, .mma w d a b, .mmr w d a b, .mzero w d, .mldc w d a b, .mstc w d a b, .msync w, .maddc w d a b,
      .mstat w d a b], IsIssue ins := by
  simp only [List.forall_mem_cons, List.not_mem_nil, IsEmpty.forall_iff, implies_true, and_true]
  and_intros
  all_goals
    intro s n he
    obtain rfl := Option.some.inj he
    dsimp only [
      exec_macq, exec_mrel, exec_mma, exec_mmr, exec_mzero, exec_mldc, exec_mstc, exec_msync, exec_maddc, exec_mstat, execMacq, execMrel,
      execMma, execMmr, execMzero, execMldc, execMstc, execMsync, execMaddc, execMstat, coach]
    exact ⟨_, _, rfl, by simp only [word3, plc, BitVec.ofNat_eq_ofNat, BitVec.toNat_zero]; omega, fun hw => hw⟩

theorem isIssue_chI (w : BitVec 3) (a : BitVec 5) (b : BitVec 5) (d : BitVec 5) : ∀ ins ∈ [
      Instr.drd w a b, .dwr w a b, .dpush w d a b, .dpull w d a b, .aqput w a b, .xqget w d a, .dpref w a b, .bsel w a b, .aqget w d a,
      .xqput w a b, .bclone w d a b, .bfill w d a b, .bsync w, .bmac w d a b, .bred w d a b], IsIssue ins := by
  simp only [List.forall_mem_cons, List.not_mem_nil, IsEmpty.forall_iff, implies_true, and_true]
  and_intros
  all_goals
    intro s n he
    obtain rfl := Option.some.inj he
    dsimp only [
      exec_drd, exec_dwr, exec_dpush, exec_dpull, exec_aqput, exec_xqget, exec_dpref, exec_bsel, exec_aqget, exec_xqput, exec_bclone,
      exec_bfill, exec_bsync, exec_bmac, exec_bred, execDrd, execDwr, execDpush, execDpull, execAqput, execXqget, execDpref, execBsel,
      execAqget, execXqput, execBclone, execBfill, execBsync, execBmac, execBred, streamRW, chI, bankMac]
    exact ⟨_, _, rfl, by simp only [word3, plc, BitVec.ofNat_eq_ofNat, BitVec.toNat_zero]; omega, fun hw => hw⟩

theorem isIssue_atomic (w : BitVec 3) (d : BitVec 5) (a : BitVec 5) (b : BitVec 5) (z : BitVec 1) : ∀ ins ∈ [
      Instr.amoadd w d a b z, .amoand w d a b z, .amoor w d a b z, .amoxor w d a b z, .amomin w d a b z, .amomax w d a b z,
      .amominu w d a b z, .amomaxu w d a b z, .amoswap w d a b z, .amocas w d a b z, .amofadd w d a b z], IsIssue ins := by
  simp only [List.forall_mem_cons, List.not_mem_nil, IsEmpty.forall_iff, implies_true, and_true]
  and_intros
  all_goals
    intro s n he
    obtain rfl := Option.some.inj he
    dsimp only [
      exec_amoadd, exec_amoand, exec_amoor, exec_amoxor, exec_amomin, exec_amomax, exec_amominu, exec_amomaxu, exec_amoswap, exec_amocas,
      exec_amofadd, execAmoadd, execAmoand, execAmoor, execAmoxor, execAmomin, execAmomax, execAmominu, execAmomaxu, execAmoswap,
      execAmocas, execAmofadd, atomic]
    exact ⟨_, _, rfl, by simp only [word3, wordA, plc]; omega, fun hw => hw⟩

theorem isIssue_red (w : BitVec 3) (a : BitVec 5) (b : BitVec 5) (z : BitVec 1) : ∀ ins ∈ [
      Instr.redadd w a b z, .redand w a b z, .redor w a b z, .redxor w a b z, .redmin w a b z, .redmax w a b z, .redminu w a b z,
      .redmaxu w a b z, .redfadd w a b z], IsIssue ins := by
  simp only [List.forall_mem_cons, List.not_mem_nil, IsEmpty.forall_iff, implies_true, and_true]
  and_intros
  all_goals
    intro s n he
    obtain rfl := Option.some.inj he
    dsimp only [
      exec_redadd, exec_redand, exec_redor, exec_redxor, exec_redmin, exec_redmax, exec_redminu, exec_redmaxu, exec_redfadd, execRedadd,
      execRedand, execRedor, execRedxor, execRedmin, execRedmax, execRedminu, execRedmaxu, execRedfadd, red]
    exact ⟨_, _, rfl, by simp only [word3, wordA, plc, BitVec.ofNat_eq_ofNat, BitVec.toNat_zero]; omega, fun hw => hw⟩

theorem isIssue_fenceI (w : BitVec 3) (c : BitVec 5) (x : BitVec 5) (y : BitVec 5) (d : BitVec 5) : ∀ ins ∈ [
      Instr.fence w c, .fencex w x y, .ifence w, .qfence w, .drain w, .acks w d], IsIssue ins := by
  simp only [List.forall_mem_cons, List.not_mem_nil, IsEmpty.forall_iff, implies_true, and_true]
  and_intros
  all_goals
    intro s n he
    obtain rfl := Option.some.inj he
    dsimp only [
      exec_fence, exec_fencex, exec_ifence, exec_qfence, exec_drain, exec_acks, execFence, execFencex, execIfence, execQfence, execDrain,
      execAcks, fenceI]
    exact ⟨_, _, rfl, by simp only [word3, plc, BitVec.ofNat_eq_ofNat, BitVec.toNat_zero]; omega, fun hw => hw⟩

theorem isIssue_bar (w : BitVec 3) (n : BitVec 5) (a : BitVec 5) (b : BitVec 5) (d : BitVec 5) : ∀ ins ∈ [
      Instr.binit w n a, .bwait w n a, .btest w n a b, .binv w n, .lantern w d a, .phase w d a, .barrive w n a, .bexpect w n a], IsIssue ins := by
  simp only [List.forall_mem_cons, List.not_mem_nil, IsEmpty.forall_iff, implies_true, and_true]
  and_intros
  all_goals
    intro s n he
    obtain rfl := Option.some.inj he
    dsimp only [
      exec_binit, exec_bwait, exec_btest, exec_binv, exec_lantern, exec_phase, exec_barrive, exec_bexpect, execBinit, execBwait, execBtest,
      execBinv, execLantern, execPhase, execBarrive, execBexpect, bar, barSend]
    exact ⟨_, _, rfl, by simp only [word3, wordB, plc, BitVec.ofNat_eq_ofNat, BitVec.toNat_zero]; omega, fun hw => hw⟩

theorem isIssue_shift (w : BitVec 3) (d : BitVec 5) (a : BitVec 5) (h : BitVec 6) : ∀ ins ∈ [
      Instr.slli w d a h, .srli w d a h, .srai w d a h, .rori w d a h], IsIssue ins := by
  simp only [List.forall_mem_cons, List.not_mem_nil, IsEmpty.forall_iff, implies_true, and_true]
  and_intros
  all_goals
    intro s n he
    obtain rfl := Option.some.inj he
    dsimp only [
      exec_slli, exec_srli, exec_srai, exec_rori, execSlli, execSrli, execSrai, execRori, intI]
    exact ⟨_, _, rfl, by simp only [wordI, plc, shImm_toNat 0 h, shImm_toNat 1 h, shImm_toNat 2 h, shImm_toNat 3 h]; omega, fun hw => hw⟩

theorem isIssue_vmx (w : BitVec 3) (d : BitVec 5) (a : BitVec 5) (b : BitVec 5) : ∀ ins ∈ [
      Instr.vmxpack w d a b, .vmxunpk w d a b, .vscale w d a b], IsIssue ins := by
  simp only [List.forall_mem_cons, List.not_mem_nil, IsEmpty.forall_iff, implies_true, and_true]
  and_intros
  all_goals
    intro s n he
    obtain rfl := Option.some.inj he
    dsimp only [
      exec_vmxpack, exec_vmxunpk, exec_vscale, execVmxpack, execVmxunpk, execVscale, vecF, vecIssue]
    exact ⟨_, _, rfl, by simp only [word3, plc]; omega, fun hw => nomatch hw⟩

theorem isIssue_fullEmpty (w : BitVec 3) (d : BitVec 5) (a : BitVec 5) (c : BitVec 1) (z : BitVec 2) (o : BitVec 10) (rs : BitVec 5) (f : BitVec 1) : ∀ ins ∈ [
      Instr.lfe w d a c z o, .sfe w rs a f z o], IsIssue ins := by
  simp only [List.forall_mem_cons, List.not_mem_nil, IsEmpty.forall_iff, implies_true, and_true]
  and_intros
  all_goals
    intro s n he
    obtain rfl := Option.some.inj he
    dsimp only [
      exec_lfe, exec_sfe, execLfe, execSfe]
    exact ⟨_, _, rfl, by simp only [wordI, plc, feImm_toNat]; omega, fun hw => hw⟩

theorem isIssue_varith (w : BitVec 3) (d : BitVec 5) (a : BitVec 5) (b : BitVec 5) (t : BitVec 3) : ∀ ins ∈ [
      Instr.vadd w d a b t, .vsub w d a b t, .vmul w d a b t, .vmin w d a b t, .vmax w d a b t, .vminu w d a b t, .vmaxu w d a b t,
      .vand w d a b t, .vor w d a b t, .vxor w d a b t, .vsll w d a b t, .vsrl w d a b t, .vsra w d a b t, .vadds w d a b t,
      .vsubs w d a b t, .vmulh w d a b t, .vabsd w d a b t, .vfma w d a b t, .vfms w d a b t, .vdiv w d a b t, .vsqrt w d a t,
      .vneg w d a t, .vabs w d a t, .vcmpeq w d a b t, .vcmpne w d a b t, .vcmplt w d a b t, .vcmple w d a b t, .vcmpltu w d a b t,
      .vsel w d a b t, .vdot w d a b t], IsIssue ins := by
  simp only [List.forall_mem_cons, List.not_mem_nil, IsEmpty.forall_iff, implies_true, and_true]
  and_intros
  all_goals
    intro s n he
    obtain rfl := Option.some.inj he
    dsimp only [
      exec_vadd, exec_vsub, exec_vmul, exec_vmin, exec_vmax, exec_vminu, exec_vmaxu, exec_vand, exec_vor, exec_vxor, exec_vsll, exec_vsrl,
      exec_vsra, exec_vadds, exec_vsubs, exec_vmulh, exec_vabsd, exec_vfma, exec_vfms, exec_vdiv, exec_vsqrt, exec_vneg, exec_vabs,
      exec_vcmpeq, exec_vcmpne, exec_vcmplt, exec_vcmple, exec_vcmpltu, exec_vsel, exec_vdot, execVadd, execVsub, execVmul, execVmin,
      execVmax, execVminu, execVmaxu, execVand, execVor, execVxor, execVsll, execVsrl, execVsra, execVadds, execVsubs, execVmulh,
      execVabsd, execVfma, execVfms, execVdiv, execVsqrt, execVneg, execVabs, execVcmpeq, execVcmpne, execVcmplt, execVcmple, execVcmpltu,
      execVsel, execVdot, vecT, vecIssue]
    exact ⟨_, _, rfl, by simp only [word3, plc, BitVec.ofNat_eq_ofNat, BitVec.toNat_zero]; omega, fun hw => by
      delta Instr.wf at hw
      dsimp only at hw
      exact vecLegal_of_pairOk hw
       (by simp only [wMajor, word3, BitVec.ofNat_eq_ofNat, BitVec.toNat_zero]; omega)
        (by simp only [wFn, word3, BitVec.ofNat_eq_ofNat, BitVec.toNat_zero]; omega)⟩

theorem isIssue_vconvVred (w : BitVec 3) (d : BitVec 5) (a : BitVec 5) (t : BitVec 3) (b : BitVec 5) : ∀ ins ∈ [
      Instr.vrsum w d a t, .vrmax w d a t, .vrmin w d a t, .vrmaxi w d a t, .vrmini w d a t, .vrand w d a t, .vror w d a t, .vrxor w d a t,
      .vbcast w d a t, .vshuf w d a b t, .vslup w d a b t, .vsldn w d a b t, .vzip w d a b t, .vuzp w d a b t, .vcmpr w d a t,
      .vexpd w d a t, .vmov w d a t, .viota w d a t], IsIssue ins := by
  simp only [List.forall_mem_cons, List.not_mem_nil, IsEmpty.forall_iff, implies_true, and_true]
  and_intros
  all_goals
    intro s n he
    obtain rfl := Option.some.inj he
    dsimp only [
      exec_vrsum, exec_vrmax, exec_vrmin, exec_vrmaxi, exec_vrmini, exec_vrand, exec_vror, exec_vrxor, exec_vbcast, exec_vshuf, exec_vslup,
      exec_vsldn, exec_vzip, exec_vuzp, exec_vcmpr, exec_vexpd, exec_vmov, exec_viota, execVrsum, execVrmax, execVrmin, execVrmaxi,
      execVrmini, execVrand, execVror, execVrxor, execVbcast, execVshuf, execVslup, execVsldn, execVzip, execVuzp, execVcmpr, execVexpd,
      execVmov, execViota, vecT, vecIssue]
    exact ⟨_, _, rfl, by simp only [word3, plc, BitVec.ofNat_eq_ofNat, BitVec.toNat_zero]; omega, fun hw => by
      delta Instr.wf at hw
      dsimp only at hw
      exact vecLegal_of_pairOk hw
       (by simp only [wMajor, word3, BitVec.ofNat_eq_ofNat, BitVec.toNat_zero]; omega)
        (by simp only [wFn, word3, BitVec.ofNat_eq_ofNat, BitVec.toNat_zero]; omega)⟩

theorem isIssue_vsfuVmem (w : BitVec 3) (d : BitVec 5) (a : BitVec 5) (t : BitVec 3) (b : BitVec 5) : ∀ ins ∈ [
      Instr.vexp2 w d a t, .vlog2 w d a t, .vrsqrt w d a t, .vrcp w d a t, .vsin w d a t, .vcos w d a t, .vtanh w d a t, .vsigm w d a t,
      .vgather w d a b t, .vscatter w d a b t, .vamoadd w d a b t, .vamomax w d a b t, .vamomin w d a b t, .vredadd w d a b t], IsIssue ins := by
  simp only [List.forall_mem_cons, List.not_mem_nil, IsEmpty.forall_iff, implies_true, and_true]
  and_intros
  all_goals
    intro s n he
    obtain rfl := Option.some.inj he
    dsimp only [
      exec_vexp2, exec_vlog2, exec_vrsqrt, exec_vrcp, exec_vsin, exec_vcos, exec_vtanh, exec_vsigm, exec_vgather, exec_vscatter,
      exec_vamoadd, exec_vamomax, exec_vamomin, exec_vredadd, execVexp2, execVlog2, execVrsqrt, execVrcp, execVsin, execVcos, execVtanh,
      execVsigm, execVgather, execVscatter, execVamoadd, execVamomax, execVamomin, execVredadd, vecT, vecIssue]
    exact ⟨_, _, rfl, by simp only [word3, plc, BitVec.ofNat_eq_ofNat, BitVec.toNat_zero]; omega, fun hw => by
      delta Instr.wf at hw
      dsimp only at hw
      exact vecLegal_of_pairOk hw
       (by simp only [wMajor, word3, BitVec.ofNat_eq_ofNat, BitVec.toNat_zero]; omega)
        (by simp only [wFn, word3, BitVec.ofNat_eq_ofNat, BitVec.toNat_zero]; omega)⟩

/-- Every instruction that has a word is an issue of it. -/
theorem isIssue (i : Instr) : IsIssue i := by
  cases i with
  | add w d a b | sub w d a b | and w d a b | or w d a b | xor w d a b | andn w d a b | orn w d a b | xnor w d a b | sll w d a b
  | srl w d a b | sra w d a b | rol w d a b | ror w d a b | slt w d a b | sltu w d a b | min w d a b | max w d a b | minu w d a b
  | maxu w d a b | seq w d a b | sne w d a b | addw w d a b | subw w d a b | sllw w d a b | srlw w d a b | sraw w d a b
  | sext w d a b | mul w d a b | mulh w d a b | mulhu w d a b | mulw w d a b | div w d a b | divu w d a b | rem w d a b
  | remu w d a b | bilv2 w d a b | bdil3 w d a b | extu w d a b | exts w d a b =>
    exact isIssue_int3 w d a b _ (by repeat constructor)
  | clz w d a | ctz w d a | popc w d a | brev w d a | bswap w d a =>
    exact isIssue_int2 w d a _ (by repeat constructor)
  | bilv3 w d a b | ins w d a b =>
    exact isIssue_int3d w d a b _ (by repeat constructor)
  | addi w d a i | andi w d a i | ori w d a i | xori w d a i | slti w d a i | sltiu w d a i =>
    exact isIssue_intI w d a i _ (by repeat constructor)
  | himm w d i | pchi w d i =>
    exact isIssue_own w d i 0 0 0 0 0 0 0 0 _ (by repeat constructor)
  | cwait w a =>
    exact isIssue_own w 0 0 a 0 0 0 0 0 0 0 _ (by repeat constructor)
  | jal w o =>
    exact isIssue_own w 0 0 0 o 0 0 0 0 0 0 _ (by repeat constructor)
  | jalr w d a i13 =>
    exact isIssue_own w d 0 a 0 i13 0 0 0 0 0 _ (by repeat constructor)
  | pwhile w a b z | pput w a b z =>
    exact isIssue_own w 0 0 a 0 0 b z 0 0 0 _ (by repeat constructor)
  | pstore w a z =>
    exact isIssue_own w 0 0 a 0 0 0 z 0 0 0 _ (by repeat constructor)
  | pget w d a z =>
    exact isIssue_own w d 0 a 0 0 0 z 0 0 0 _ (by repeat constructor)
  | vloop w l a b =>
    exact isIssue_own w 0 0 a 0 0 b 0 l 0 0 _ (by repeat constructor)
  | vsync w =>
    exact isIssue_own w 0 0 0 0 0 0 0 0 0 0 _ (by repeat constructor)
  | rsv w d a z1 =>
    exact isIssue_own w d 0 a 0 0 0 0 0 z1 0 _ (by repeat constructor)
  | rls w a b z1 =>
    exact isIssue_own w 0 0 a 0 0 b 0 0 z1 0 _ (by repeat constructor)
  | ldaq w d a p z1 =>
    exact isIssue_own w d 0 a 0 0 0 0 0 z1 p _ (by repeat constructor)
  | strl w a b p z1 =>
    exact isIssue_own w 0 0 a 0 0 b 0 0 z1 p _ (by repeat constructor)
  | fadd w d a b t | fsub w d a b t | fmul w d a b t | fdiv w d a b t | fmin w d a b t | fmax w d a b t | feq w d a b t
  | flt w d a b t | fle w d a b t =>
    exact isIssue_fpu3 w d a b t _ (by repeat constructor)
  | fsqrt w d a t | fclass w d a t | fcvti w d a t | fcvtu w d a t | fcvtf w d a t | fcvtfu w d a t | fcvtw w d a t
  | fneg w d a t | fabs w d a t =>
    exact isIssue_fpu2 w d a t _ (by repeat constructor)
  | fmas w d a b | fmad w d a b | fnmas w d a b | fnmad w d a b | fmss w d a b | fmsd w d a b =>
    exact isIssue_fma3 w d a b _ (by repeat constructor)
  | copy w d a b | copy2d w d a b | putx w d a b | getx w d a b | mcast w d a b | nred w d a b =>
    exact isIssue_cpyI w d a b _ (by repeat constructor)
  | wincopy w d a =>
    exact isIssue_cpyI w d a 0 _ (by repeat constructor)
  | rinit w n a | rstat w n a | rwaitd w n a | rwaits w n a =>
    exact isIssue_ringI w n a _ (by repeat constructor)
  | rpush w n | rpop w n =>
    exact isIssue_ringI w n 0 _ (by repeat constructor)
  | ld w d a i | lw w d a i | lwu w d a i | lh w d a i | lhu w d a i | lb w d a i | lbu w d a i =>
    exact isIssue_load w d a i _ (by repeat constructor)
  | sd w rs a i | sw w rs a i | sh w rs a i | sb w rs a i =>
    exact isIssue_store w rs a i _ (by repeat constructor)
  | enq w a b =>
    exact isIssue_que w a b 0 _ (by repeat constructor)
  | deq w d a b | cdone w d a b =>
    exact isIssue_que w a b d _ (by repeat constructor)
  | qstat w d b =>
    exact isIssue_que w 0 b d _ (by repeat constructor)
  | launch w a | cancel w a =>
    exact isIssue_que w a 0 0 _ (by repeat constructor)
  | cchk w d a =>
    exact isIssue_que w a 0 d _ (by repeat constructor)
  | trap w a | eret w a =>
    exact isIssue_sysI w a 0 0 _ (by repeat constructor)
  | brk w | restart w =>
    exact isIssue_sysI w 0 0 0 _ (by repeat constructor)
  | wfm w d =>
    exact isIssue_sysI w 0 d 0 _ (by repeat constructor)
  | purseadd w d a b =>
    exact isIssue_sysI w a d b _ (by repeat constructor)
  | csrr w d n =>
    exact isIssue_csr w d n 0 _ (by repeat constructor)
  | csrw w d a n | csrs w d a n | csrc w d a n =>
    exact isIssue_csr w d n a _ (by repeat constructor)
  | beq w a b o | bne w a b o | blt w a b o | bge w a b o | bltu w a b o | bgeu w a b o =>
    exact isIssue_branch w a b o _ (by repeat constructor)
  | pbrAny w o | pbrNone w o | pbrAll w o | pbrNall w o =>
    exact isIssue_pbr w o _ (by repeat constructor)
  | psetall w z | pclear w z | pnot w z =>
    exact isIssue_predP w z _ (by repeat constructor)
  | pload w a z | pandm w a z | porm w a z =>
    exact isIssue_predMask w a z _ (by repeat constructor)
  | pcount w d z | pfirst w d z =>
    exact isIssue_predR w d z _ (by repeat constructor)
  | endT w | yield w | park w =>
    exact isIssue_task w 0 0 0 _ (by repeat constructor)
  | goto w a =>
    exact isIssue_task w a 0 0 _ (by repeat constructor)
  | spawnat w a b | wake w a b =>
    exact isIssue_task w a b 0 _ (by repeat constructor)
  | popt w d a | spawn w d a | pusht w d a =>
    exact isIssue_task w a 0 d _ (by repeat constructor)
  | homeof w d a | wrfrm w d a =>
    exact isIssue_info w d a 0 _ (by repeat constructor)
  | rdflags w d b =>
    exact isIssue_info w d 0 b _ (by repeat constructor)
  | cubeof w d | vquery w d | rdcyc w d | rdpurse w d | rdfare w d | rdfrm w d =>
    exact isIssue_info w d 0 0 _ (by repeat constructor)
  | vconv w d a e rs =>
    exact isIssue_vecF w d a e rs _ (by repeat constructor)
  | macq w d a =>
    exact isIssue_coach w d a 0 _ (by repeat constructor)
  | mrel w d | mzero w d =>
    exact isIssue_coach w d 0 0 _ (by repeat constructor)
  | mma w d a b | mmr w d a b | mldc w d a b | mstc w d a b | maddc w d a b | mstat w d a b =>
    exact isIssue_coach w d a b _ (by repeat constructor)
  | msync w =>
    exact isIssue_coach w 0 0 0 _ (by repeat constructor)
  | drd w a b | dwr w a b | aqput w a b | dpref w a b | bsel w a b | xqput w a b =>
    exact isIssue_chI w a b 0 _ (by repeat constructor)
  | dpush w d a b | dpull w d a b | bclone w d a b | bfill w d a b | bmac w d a b | bred w d a b =>
    exact isIssue_chI w a b d _ (by repeat constructor)
  | xqget w d a | aqget w d a =>
    exact isIssue_chI w a 0 d _ (by repeat constructor)
  | bsync w =>
    exact isIssue_chI w 0 0 0 _ (by repeat constructor)
  | amoadd w d a b z | amoand w d a b z | amoor w d a b z | amoxor w d a b z | amomin w d a b z | amomax w d a b z
  | amominu w d a b z | amomaxu w d a b z | amoswap w d a b z | amocas w d a b z | amofadd w d a b z =>
    exact isIssue_atomic w d a b z _ (by repeat constructor)
  | redadd w a b z | redand w a b z | redor w a b z | redxor w a b z | redmin w a b z | redmax w a b z | redminu w a b z
  | redmaxu w a b z | redfadd w a b z =>
    exact isIssue_red w a b z _ (by repeat constructor)
  | fence w c =>
    exact isIssue_fenceI w c 0 0 0 _ (by repeat constructor)
  | fencex w x y =>
    exact isIssue_fenceI w 0 x y 0 _ (by repeat constructor)
  | ifence w | qfence w | drain w =>
    exact isIssue_fenceI w 0 0 0 0 _ (by repeat constructor)
  | acks w d =>
    exact isIssue_fenceI w 0 0 0 d _ (by repeat constructor)
  | binit w n a | bwait w n a | barrive w n a | bexpect w n a =>
    exact isIssue_bar w n a 0 0 _ (by repeat constructor)
  | btest w n a b =>
    exact isIssue_bar w n a b 0 _ (by repeat constructor)
  | binv w n =>
    exact isIssue_bar w n 0 0 0 _ (by repeat constructor)
  | lantern w d a | phase w d a =>
    exact isIssue_bar w 0 a 0 d _ (by repeat constructor)
  | slli w d a h | srli w d a h | srai w d a h | rori w d a h =>
    exact isIssue_shift w d a h _ (by repeat constructor)
  | vmxpack w d a b | vmxunpk w d a b | vscale w d a b =>
    exact isIssue_vmx w d a b _ (by repeat constructor)
  | lfe w d a c z o =>
    exact isIssue_fullEmpty w d a c z o 0 0 _ (by repeat constructor)
  | sfe w rs a f z o =>
    exact isIssue_fullEmpty w 0 a 0 z o rs f _ (by repeat constructor)
  | vadd w d a b t | vsub w d a b t | vmul w d a b t | vmin w d a b t | vmax w d a b t | vminu w d a b t | vmaxu w d a b t
  | vand w d a b t | vor w d a b t | vxor w d a b t | vsll w d a b t | vsrl w d a b t | vsra w d a b t | vadds w d a b t
  | vsubs w d a b t | vmulh w d a b t | vabsd w d a b t | vfma w d a b t | vfms w d a b t | vdiv w d a b t | vcmpeq w d a b t
  | vcmpne w d a b t | vcmplt w d a b t | vcmple w d a b t | vcmpltu w d a b t | vsel w d a b t | vdot w d a b t =>
    exact isIssue_varith w d a b t _ (by repeat constructor)
  | vsqrt w d a t | vneg w d a t | vabs w d a t =>
    exact isIssue_varith w d a 0 t _ (by repeat constructor)
  | vrsum w d a t | vrmax w d a t | vrmin w d a t | vrmaxi w d a t | vrmini w d a t | vrand w d a t | vror w d a t
  | vrxor w d a t | vbcast w d a t | vcmpr w d a t | vexpd w d a t | vmov w d a t | viota w d a t =>
    exact isIssue_vconvVred w d a t 0 _ (by repeat constructor)
  | vshuf w d a b t | vslup w d a b t | vsldn w d a b t | vzip w d a b t | vuzp w d a b t =>
    exact isIssue_vconvVred w d a t b _ (by repeat constructor)
  | vexp2 w d a t | vlog2 w d a t | vrsqrt w d a t | vrcp w d a t | vsin w d a t | vcos w d a t | vtanh w d a t | vsigm w d a t =>
    exact isIssue_vsfuVmem w d a t 0 _ (by repeat constructor)
  | vgather w d a b t | vscatter w d a b t | vamoadd w d a b t | vamomax w d a b t | vamomin w d a b t | vredadd w d a b t =>
    exact isIssue_vsfuVmem w d a t b _ (by repeat constructor)
  | _ => exact isIssue_sealOrEvent rfl

/-! ## Operands that are not readable yet (R52, R55) -/

@[simp] theorem checking_now (s : State) (x : Ctx) (c sl : Nat) : checking (now s x) c sl = checking s c sl := by
  simp [checking]

theorem rd_of_pending {s : State} {x : Ctx} {r : Nat} {p : PendWrite} (h : pendOf (stream s x.c x.x) r x.t = some p) : x.rd s r = p.old := by
  simp only [Ctx.rd, h]

section pending
variable {s : State} {x : Ctx} {iss : Issue} {rs : List (BitVec 5)}

/-- Where the scoreboard checks, the first read register that is not readable traps STALLSHORT (R52, R55). -/
theorem issueTrap_stallshort {r : BitVec 5} {before rest : List (BitVec 5)} (hl : iss.legal = true) (ha : accepted x.c x.x iss.word = true)
    (hf : iss.rounds = false) (hv : iss.level = 0) (hrs : iss.reads = (before ++ r :: rest).map BitVec.toNat)
    (hk : checking s x.c x.sl = true) (hb : ∀ q ∈ before, pendOf (stream s x.c x.x) q.toNat x.t = none)
    (hr : pendOf (stream s x.c x.x) r.toNat x.t ≠ none) :
    issueTrap iss x (now s x) = some { cause := .stallshort, addr := BitVec.ofNat 64 r.toNat } := by
  have hfind : (iss.reads.find? fun q => (pendOf (stream (now s x) x.c x.x) q x.t).isSome) = some r.toNat := by
    rw [hrs, List.map_append, List.find?_append, List.find?_eq_none.mpr, Option.none_or, List.map_cons,
      List.find?_cons_of_pos]
    · rw [pendOf_now s x _ _ r.isLt]
      exact Option.isSome_iff_ne_none.mpr hr
    · rw [List.forall_mem_map]
      intro q hq
      rw [pendOf_now s x _ _ q.isLt, hb q hq]
      simp
  simp [issueTrap, hl, ha, hf, hv, hk, hfind]

/-- Where it does not check, a register that is not readable traps nothing. -/
theorem issueTrap_unchecked (hl : iss.legal = true) (ha : accepted x.c x.x iss.word = true) (hf : iss.rounds = false) (hv : iss.level = 0)
    (hs : iss.sync = []) (hk : checking s x.c x.sl = false) : issueTrap iss x (now s x) = none := by
  simp [issueTrap, hl, ha, hf, hv, hs, hk]

theorem issue_of_trap {body : Ctx → State → Act} {t : TrapInfo} (hx : ctxOf s = some x) (hr : x.reply = none)
    (ht : issueTrap iss x (now s x) = some t) : issue iss s body = .next (trapped x s t) := by
  simp only [issue, hx, hr, Option.isNone_none, if_true, ht]
  rfl

variable {i : Instr} {m : Nat} {w : BitVec 3} {d a b : BitVec 5} {lat fare : Nat} {f : Word → Word → Word}

/-- What an instruction of two register operands does about operands that are not readable yet. -/
theorem int3_pending (hi : exec i s = int3 m w d a b s lat fare f) (ha : accepted x.c x.x (word3 m w d a b) = true)
    (hx : ctxOf s = some x) (hr : x.reply = none) (hd : destOk d = true) (hm : m + 2 ^ 23 ≤ 2 ^ 29 := by norm_num) :
    let late (r : BitVec 5) : Prop := pendOf (stream s x.c x.x) r.toNat x.t ≠ none
    (checking s x.c x.sl = true → late a → exec i s = .next (trapped x s { cause := .stallshort, addr := BitVec.ofNat 64 a.toNat }))
    ∧ (checking s x.c x.sl = true → ¬ late a → late b →
      exec i s = .next (trapped x s { cause := .stallshort, addr := BitVec.ofNat 64 b.toNat }))
    ∧ (checking s x.c x.sl = false → Clean s x [a, b] → exec i s = .next (wrote w fare x s d (f (x.val s a) (x.val s b)) lat))
    ∧ (∀ p, pendOf (stream s x.c x.x) a.toNat x.t = some p → x.val s a = p.old) := by
  rw [hi]
  refine ⟨fun hk hla => ?_, fun hk hna hlb => ?_, fun hk hc => ?_, fun p hp => rd_of_pending hp⟩
  · exact issue_of_trap hx hr (issueTrap_stallshort (before := []) (rest := [b]) hd ha rfl rfl rfl hk (by simp) hla)
  · exact issue_of_trap hx hr (issueTrap_stallshort (before := [a]) (rest := []) hd ha rfl rfl rfl hk (by simpa using hna) hlb)
  · have hw : word3 m w d a b / 2 ^ 29 % 8 = w.toNat := word3_wait m hm w d a b
    refine (issue_body _ s x _ hx hr (issueTrap_unchecked hd ha rfl rfl rfl hk)).trans ?_
    have hv : x.wrFrom (now s x) [rn a, rn b] d (f (x.rd (now s x) (rn a)) (x.rd (now s x) (rn b))) lat
        = x.wr (now s x) d.toNat (f (x.val s a) (x.val s b)) lat :=
      (wrFrom_clean x s [a, b] d _ lat hc).trans (by simp [Ctx.val, rn])
    dsimp only
    rw [hv, retire_eq_after _ w x _ hw]
    rfl
end pending

/-- An instruction that is not legal, or that its stream does not accept, traps before all else (R59). -/
theorem exec_illegal {s : State} {x : Ctx} {i : Instr} {n : Nat} (he : encode i = some n) (hx : ctxOf s = some x) (hr : x.reply = none)
    (hl : i.wf = false ∨ accepted x.c x.x n = false) :
    exec i s = .next (trapped x s { cause := .illegal, addr := BitVec.ofNat 64 n }) := by
  obtain ⟨iss, body, hexec, hword, hlegal⟩ := isIssue i s n he
  rw [hexec]
  exact issue_illegal iss s x body n hx hr hword (hl.imp_left hlegal)

/-- Settles O55: the checks of R59 come before the body of every instruction, and R52 and R55 decide about late operands. -/
theorem issueChecks : Obligations.IssueChecks := by
  refine ⟨fun s x i n he hx hr hl => exec_illegal he hx hr hl, fun s x w d a b hx hr hd ha => ?_⟩
  have acc {i : Instr} (m : Nat) (hmem : i ∈ [Instr.add w d a b, .sub w d a b, .mul w d a b])
      (he : encode i = some (plc 29 w (plc 18 d (plc 13 a (plc 8 b m))))) : accepted x.c x.x (word3 m w d a b) = true :=
    ha i _ hmem (plc_word3 m w d a b ▸ he)
  simp only [List.forall_mem_cons, List.not_mem_nil, IsEmpty.forall_iff, implies_true, and_true]
  exact ⟨int3_pending (exec_add w d a b s) (acc (i := .add w d a b) _ (by simp) rfl) hx hr hd, int3_pending (exec_sub w d a b s) (acc (i := .sub w d a b) _ (by simp) rfl) hx hr hd,
    int3_pending (exec_mul w d a b s) (acc (i := .mul w d a b) _ (by simp) rfl) hx hr hd⟩

end Sys2Proof.Machine
end

section
/-! PROOFS. No step stops (R12, R59, R377). -/

namespace Sys2Proof.Machine

-- One proof after the other: each of the 468 rows of `exec` is unfolded here.
set_option Elab.async false

/-! ## Events -/

/-- A row without a word is an event, and an event answers a next state. -/
theorem exec_event_completes (i : Instr) (s : State) (h : encode i = none) : Completes (exec i s) := by
  cases i with
  | waystationPowerOn | imageVerificationComplete | bootTimeout | waystationReset | memoryRailGood | memoryZeroingComplete
  | selfRefreshRequest | selfRefreshEntry | selfRefreshExit | memoryReset | computeRailGood | computeResetRelease
  | bringupComplete | quiesceRequest | quiesceResume | computeReset | computeRailOff | channelCacheWritebackComplete
  | dispatcherHeartbeat | domainWatchdogExpiry | travellerSwitchIn | dequeTaskStart | parkWaitComplete | storeBufferDrain
  | travellerArrival | heldArrivalAdmit | migrationAck | migrationBounce | taskPacketArrival | wakeDelivery | stealRequestSend
  | stealRequestServe | stealReply | stealBackoffExpiry | preemptionTaken | travellerSpill | spillAreaAdmit | strandNotice
  | cancelTaken | engineFaultDelivery | machineCheck | sealComplete | debugHaltTaken | addressMatchHalt | submissionEntryFetch
  | launchPlacement | quadGate | quadWakeComplete | selfTestDrainStart | selfTestStart | selfTestDefer | selfTestComplete
  | coreScrub | coreMoveComplete | groupWatchdogExpiry | heldPostWrite | enqueueCopyAccept | doorbellSetTail | doorbellSetHead
  | functionLevelReset | portHotReset | sequencerEmit | vectorCommandStart | vectorCommandComplete | matrixGrant
  | matrixCommandComplete | rotationWriteApply | courierCommandStart | courierCommandComplete | courierFault | engineWriteArrival
  | streamRecordStart | streamRecordComplete | streamRecordFault | bselApply | bankCommandComplete | rowSpareComplete | scrubPass
  | xTravellerGo | xTravellerStop | xTravellerStopComplete | lmBoundaryStage | lmdtbCommit | imageLoad | reservationGrant
  | reservationReleaseApply | redApply | barrierEventApply | remoteBarrierEvent | walkComplete | ptrootWrite | xlinvGo
  | xlinvComplete | mapChangeIssue | mapChangeSequence | mapChangeApply | restripeGranuleCopy | restripeCopyAck | cubeLossTimer
  | meterFlushTimer | leakageTick | refreshRow | kcorrUpdate | purseAddWrite | partcfgWrite | carveGo | carveStop | owndatWrite
  | halldatRead | halldatWrite | hccfgWrite | respgWrite | lanternSlotWrite | planEnable | dbgHaltTraveller | dbgResumeTraveller
  | dbgHaltLaunch | dbgResumeLaunch | linkRetrain | linkTrainComplete | linkTrainTimeout | laneFailure | linkSilenceTimeout
  | linkReplay | routeUpdate | heartbeatSend | packetTransit | packetReceive | connectionFetchComplete | e2eRetryTimeout
  | nakRetryResend | nakAbsentReceive | acknowledgementReceive | messageCountExpiry | arrivalFilterExpiry | bounceResend
  | reduceContributionArrival | multicastReceive | planAbort | escortCompare | escortTimeout | lanternRoundStart
  | lanternProbeArrival | lanternProbeRelease | lanternProbeReturn | lanternTimeout | lanternDoneMessage | trapMessageArrival
  | trapMessageSpillReturn | managementRead | managementWrite | managementReply | claim | handover | unlock | rekey | switch
  | fwchunk | attestRead | alarm | thermalReading | thermalShutdownTimer | registerWrite | waystationRailOff
  | spilledTravellerPlacement | planDisable | owndatApplyComplete | pstructRead =>
    exact ⟨_, rfl⟩
  | _ => nomatch h

/-! ## Instructions -/

/-- An instruction completes where a traveller is RUNNING. -/
theorem exec_completes_of_running (i : Instr) (s : State) (h : (ctxOf s).isSome = true) : Completes (exec i s) := by
  cases he : encode i with
  | none => exact exec_event_completes i s he
  | some n =>
    obtain ⟨iss, body, hexec, -, -⟩ := isIssue i s n he
    rw [hexec]
    exact issue_completes iss s body h

/-- An instruction without a RUNNING traveller is a fault. -/
theorem exec_faults_of_not_running (i : Instr) (s : State) (he : encode i ≠ none) (h : ctxOf s = none) : exec i s = .fault .noTraveller := by
  obtain ⟨n, hn⟩ := Option.ne_none_iff_exists'.mp he
  obtain ⟨iss, body, hexec, -, -⟩ := isIssue i s n hn
  rw [hexec]
  exact issue_faults iss s body h

/-! ## Steps -/

/-- Whether a traveller is RUNNING is told by the chosen stream alone. -/
theorem ctxOf_isSome (s : State) : (ctxOf s).isSome = (stream s (s.cur / 2) (s.cur % 2 == 1)).run.isSome := by
  unfold ctxOf
  dsimp only
  cases (stream s (s.cur / 2) (s.cur % 2 == 1)).run <;> rfl

@[simp] theorem startAgain_cur (s : State) (c sl : Nat) : (startAgain s c sl).cur = s.cur := by
  unfold startAgain leaveTurns
  split
  · split <;> simp
  · dsimp only
    split <;> simp

@[simp] theorem stream_startAgain (s : State) (c sl c' : Nat) (x : Bool) : stream (startAgain s c sl) c' x = stream s c' x := by
  unfold startAgain leaveTurns
  split
  · split <;> simp
  · dsimp only
    split <;> simp

/-- Fetching ahead fills the fetch buffer of the stream (R135) and takes one free choice. -/
theorem prefetch_eq (s : State) (c : Nat) (x : Bool) :
    ∃ b, prefetch s c x = { updStream s c x fun q => { q with fbuf := b } with free := s.free + 1 } := ⟨_, rfl⟩

@[simp] theorem prefetch_cur (s : State) (c : Nat) (x : Bool) : (prefetch s c x).cur = s.cur := rfl

theorem stream_prefetch_run (s : State) (c : Nat) (x : Bool) : (stream (prefetch s c x) c x).run = (stream s c x).run := by
  obtain ⟨b, hb⟩ := prefetch_eq s c x
  rw [hb]
  have h : stream (updStream s c x fun q => { q with fbuf := b }) c x = { stream s c x with fbuf := b } := by
    rw [stream_updStream, if_pos rfl]
  have hrun := congrArg Stream.run h
  exact hrun

theorem ctxOf_prefetch_startAgain (s : State) (sl : Nat) (h : (stream s (s.cur / 2) (s.cur % 2 == 1)).run.isSome = true) :
    (ctxOf (prefetch (startAgain s (s.cur / 2) sl) (s.cur / 2) (s.cur % 2 == 1))).isSome = true := by
  rw [ctxOf_isSome, prefetch_cur, startAgain_cur, stream_prefetch_run, stream_startAgain]
  exact h

theorem issueOr_completes (s : State) (c : Nat) (x : Bool) (sl : Nat) (pc : Word) {r : Result} (h : Completes r) :
    Completes (issueOr s c x sl pc r) := by
  unfold issueOr
  split
  · split
    · exact ⟨_, rfl⟩
    · exact h
  · exact h

theorem afterIssue_completes {r : Result} : Completes r → Completes (afterIssue r) := by
  rintro ⟨t, rfl⟩
  exact ⟨_, rfl⟩

/-- The issue of a RUNNING traveller completes: its fetch traps, or its instruction executes. -/
theorem issueRunning_completes (s : State) (sl : Nat) (h : (stream s (s.cur / 2) (s.cur % 2 == 1)).run.isSome = true) :
    Completes (issueRunning s (s.cur / 2) (s.cur % 2 == 1) sl) := by
  unfold issueRunning
  refine issueOr_completes _ _ _ _ _ ?_
  split
  · exact ⟨_, rfl⟩
  · split
    · exact exec_completes_of_running _ _ (ctxOf_prefetch_startAgain s sl h)
    · exact ⟨_, rfl⟩

theorem step_completes (s : State) (ha : ∀ i ∈ s.agenda, encode i = none) : Completes (step s) := by
  unfold step
  split
  · next i rest hs => exact exec_event_completes i _ (ha i (by simp [hs]))
  · split
    · exact ⟨_, rfl⟩
    · split
      · exact ⟨_, rfl⟩
      · split
        · next hrun _ => exact afterIssue_completes (issueRunning_completes s _ (by rw [hrun]; rfl))
        · exact ⟨_, rfl⟩

/-- Settles O58: events and issues answer a next state, and a step runs one of them or chooses the next. -/
theorem everyStepCompletes : Obligations.EveryStepCompletes :=
  ⟨step_completes, fun i s h => h.elim (exec_event_completes i s) (exec_completes_of_running i s), exec_faults_of_not_running⟩

end Sys2Proof.Machine
end

section
/-! PROOFS. A step runs the instruction at the pc (R48, R381). -/

namespace Sys2Proof.Machine

-- One proof after the other: side by side they take more threads and memory than the check of the whole text has.
set_option Elab.async false

theorem leaveTurns_of_not_in_order {s : State} {c sl : Nat} (ha : (chan s c).aqProd.contains (false, sl) = false)
    (hx : (chan s c).xqCons.contains (false, sl) = false) : leaveTurns s c sl = s := by
  simp only [leaveTurns, ha, hx, Bool.or_self, Bool.false_eq_true, if_false]

section leaveTurns
variable (s : State) (c sl c' : Nat)

/-- Leaving the order of a queue changes the two orders only. -/
theorem leaveTurns_eq : leaveTurns s c sl = s
    ∨ leaveTurns s c sl = updChan s c fun k => { k with aqProd := k.aqProd.erase (false, sl), xqCons := k.xqCons.erase (false, sl) } := by
  unfold leaveTurns
  dsimp only
  split
  · exact .inr rfl
  · exact .inl rfl

@[simp] theorem stream_leaveTurns (x : Bool) : stream (leaveTurns s c sl) c' x = stream s c' x := by
  rcases leaveTurns_eq s c sl with h | h <;> rw [h] <;> rfl
@[simp] theorem slot_leaveTurns (sl' : Nat) : slot (leaveTurns s c sl) c' sl' = slot s c' sl' := by
  rcases leaveTurns_eq s c sl with h | h <;> rw [h] <;> rfl
@[simp] theorem wordAt_leaveTurns (pc : Word) : wordAt (leaveTurns s c sl) c' pc = wordAt s c' pc := by
  rcases leaveTurns_eq s c sl with h | h <;> rw [h] <;> rfl
@[simp] theorem regionOf_leaveTurns (off : Nat) : regionOf (leaveTurns s c sl) c' off = regionOf s c' off := by
  rcases leaveTurns_eq s c sl with h | h <;> rw [h] <;> rfl
@[simp] theorem anyPending_leaveTurns (sl' : Nat) (pc : Word) : anyPending (leaveTurns s c sl) c' sl' pc = anyPending s c' sl' pc := by
  rcases leaveTurns_eq s c sl with h | h <;> rw [h] <;> rfl

theorem chan_leaveTurns_retired : (chan (leaveTurns s c sl) c').retired = (chan s c').retired := by
  rcases leaveTurns_eq s c sl with h | h <;> rw [h]
  rw [chan_updChan]
  split
  · next hc => rw [hc]
  · rfl

@[simp] theorem poisonedAt_leaveTurns (pa n : Nat) : poisonedAt (leaveTurns s c sl) pa n = poisonedAt s pa n := by
  have hkey : keyGone (leaveTurns s c sl) pa = keyGone s pa := by
    rcases leaveTurns_eq s c sl with h | h <;> rw [h] <;> rfl
  have hpoison : (leaveTurns s c sl).poison = s.poison := by
    rcases leaveTurns_eq s c sl with h | h <;> rw [h] <;> rfl
  simp only [poisonedAt, rowRetired, chan_leaveTurns_retired, hkey, hpoison]

@[simp] theorem fetchTrap_leaveTurns (pc : Word) : fetchTrap (leaveTurns s c sl) c' pc = fetchTrap s c' pc := by
  simp only [fetchTrap, regionOf_leaveTurns, poisonedAt_leaveTurns]

end leaveTurns

section
variable {s : State} {c sl : Nat} {x : Bool}

theorem startAgain_of_no_wait (h : (slot s c sl).wait = none) : startAgain s c sl = leaveTurns s c sl := by
  simp only [startAgain, h]

/-- Where no wait is open and nothing is fetched ahead, the word at the pc issues. -/
theorem issueWord_of_no_wait (h : (slot s c sl).wait = none) (hb : (stream s c x).fbuf = []) :
    issueWord s c x sl = wordAt s c (stream s c x).pc := by
  simp [issueWord, h, fetchAt, hb]

theorem issueFetchTrap_of_no_wait (h : (slot s c sl).wait = none) (hb : (stream s c x).fbuf = []) :
    issueFetchTrap s c x sl = fetchTrap s c (stream s c x).pc := by
  simp [issueFetchTrap, h, fetchTrapAt, hb]

/-- The traveller issues the instruction that the word at its pc decodes to. -/
theorem issueRunning_of_decode {i : Instr} {rest : List Byte} (hw : (slot s c sl).wait = none) (hb : (stream s c x).fbuf = [])
    (ht : fetchTrap s c (stream s c x).pc = none) (hd : decode (bytesOfWord (wordAt s c (stream s c x).pc)) = .ok (i, rest)) :
    issueRunning s c x sl
      = issueOr (leaveTurns s c sl) c x sl (stream s c x).pc (exec i (prefetch (leaveTurns s c sl) c x)) := by
  have hw' : (slot (leaveTurns s c sl) c sl).wait = none := by rwa [slot_leaveTurns]
  have hb' : (stream (leaveTurns s c sl) c x).fbuf = [] := by rwa [stream_leaveTurns]
  simp only [issueRunning, startAgain_of_no_wait hw, issueFetchTrap_of_no_wait hw' hb', issueWord_of_no_wait hw' hb', stream_leaveTurns,
    fetchTrap_leaveTurns, wordAt_leaveTurns, ht, hd]
end

theorem issueOr_of_not_pending {s : State} {c sl : Nat} {x : Bool} {pc : Word} (r : Result) (h : anyPending s c sl pc = false) :
    issueOr s c x sl pc r = r := by
  simp [issueOr, h]

/-- Where nothing is due, a step issues on the chosen stream. -/
theorem step_of_nothing_due {s : State} {sl : Nat} (ha : s.agenda = []) (hr : s.regWrites = []) (hst : s.stalled = false)
    (hrun : (stream s (s.cur / 2) (s.cur % 2 == 1)).run = some sl) (hm : mayIssue s s.cur = true) :
    step s = afterIssue (issueRunning s (s.cur / 2) (s.cur % 2 == 1) sl) := by
  simp [step, ha, hr, hst, hrun, hm]

/-- Settles O57: with nothing due a step issues, and the issue executes the decoded instruction. -/
theorem stepRunsDecoded : Obligations.StepRunsDecoded := by
  intro s sl i rest c x ha hr hst hrun hm hw hb ht hd u
  have hstep : step s = afterIssue (issueOr u c x sl (stream s c x).pc (exec i (prefetch u c x))) :=
    (step_of_nothing_due ha hr hst hrun hm).trans (congrArg afterIssue (issueRunning_of_decode hw hb ht hd))
  refine ⟨hstep, fun hp => ?_, leaveTurns_of_not_in_order⟩
  rw [hstep, issueOr_of_not_pending _ ((anyPending_leaveTurns s c sl c sl _).trans hp)]

/-! ## The state after reset -/

theorem getReg_reset (block off : Nat) : getReg State.reset block off = regReset (regKey block off) := rfl

theorem core_reset (c : Nat) : core State.reset c = coreReset c := rfl

/-- PARTCFG of a partition is 0 at reset (R349). -/
theorem getReg_reset_partcfg {p : Nat} (hp : p < 24) : getReg State.reset islandBlk (0x9000 + 8 * p) = 0 := by
  have hblk : regKey islandBlk (0x9000 + 8 * p) / 65536 = islandBlk := by unfold regKey islandBlk; omega
  have hoff : regKey islandBlk (0x9000 + 8 * p) % 65536 = 0x9000 + 8 * p := by unfold regKey islandBlk; omega
  rw [getReg_reset, regReset, hblk, hoff, if_pos rfl]
  iterate 7 rw [if_neg (by omega)]

/-- KCORR of a meter is 1 at reset (R361). -/
theorem getReg_reset_kcorr {m : Nat} (hm : m < 1388) : getReg State.reset islandBlk (0xC000 + 8 * m) = 0x8000 := by
  have hblk : regKey islandBlk (0xC000 + 8 * m) / 65536 = islandBlk := by unfold regKey islandBlk; omega
  have hoff : regKey islandBlk (0xC000 + 8 * m) % 65536 = 0xC000 + 8 * m := by unfold regKey islandBlk; omega
  rw [getReg_reset, regReset, hblk, hoff, if_pos rfl, if_neg (by omega), if_pos (by omega)]

/-- Settles O56: nothing is listed after reset, so every record and register reads its reset value. -/
theorem resetState : Obligations.ResetState := by
  refine ⟨rfl, rfl, rfl, rfl, rfl, rfl, fun c hc => ?_, fun c hc => ?_, fun c sl => rfl, fun p hp => ?_, fun x hx => rfl, fun m hm => ?_⟩
  · simp [coreReg, core_reset, coreReset, hc, b2n]
  · simp [coreReg, core_reset, coreReset, hc, b2n]
  · simp [partEn, tenant, regField, getReg_reset_partcfg hp, bitsOf]
  · simp [kcorr, regField, getReg_reset_kcorr hm, bitsOf]

/-! ## Words written out (R48, R49, R56) -/

/-- Settles O59: each word is decoded. -/
theorem decodeWords : Obligations.DecodeWords := by
  unfold Obligations.DecodeWords
  and_intros <;> rfl

end Sys2Proof.Machine
end

section
/-! PROOFS. The FPU instructions (R108): their results, and when their flags are set (R34, R47). -/

namespace Sys2Proof.Machine

-- One proof after the other: side by side they take more threads and memory than the check of the whole text has.
set_option Elab.async false

/-! ## Flags (R34, R47) -/

theorem flagsOf_wsWr (s : State) (c sl v : Nat) : flagsOf (wsWr s c sl 0xF6 1 v) c sl = v % 256 := rdN_wrN_same 1 _ _ _

theorem flagsOf_lt (s : State) (c sl : Nat) : flagsOf s c sl < 256 := rdN_lt 1 _ _

theorem flagsOf_orFlags (s : State) (c sl f : Nat) : flagsOf (orFlags s c sl f) c sl = flagsOf s c sl ||| f % 256 := by
  unfold orFlags
  split
  · next h => simp [h]
  · rw [flagsOf_wsWr, Nat.or_mod_two_pow (n := 8), Nat.mod_eq_of_lt (flagsOf_lt s c sl)]

/-- FLAGS after the pending flags `ws` have been set over `b`. -/
def orAll (b : Nat) (ws : List PendWrite) : Nat := ws.foldl (fun b w => b ||| (w.reg - 32) % 256) b

theorem flagsOf_foldFlags (c sl : Nat) : ∀ (ws : List PendWrite) (s : State),
    flagsOf (ws.foldl (fun s w => orFlags s c sl (w.reg - 32)) s) c sl = orAll (flagsOf s c sl) ws
  | [], _ => rfl
  | w :: ws, s => (flagsOf_foldFlags c sl ws _).trans (congrArg (orAll · ws) (flagsOf_orFlags s c sl (w.reg - 32)))

theorem flagsOf_settleFlags (s : State) (c : Nat) (x : Bool) (sl : Nat) (f : PendWrite → Bool) :
    flagsOf (settleFlags s c x sl f) c sl = orAll (flagsOf s c sl) ((stream s c x).pend.filter fun w => w.isFlags && f w) := by
  unfold settleFlags
  dsimp only
  split
  · next h => rw [h]; rfl
  · rw [flagsOf_foldFlags]; rfl

/-- FLAGS when an instruction acts: the flags that are due by its cycle are set. -/
theorem flagsOf_now (s : State) (y : Ctx) : flagsOf (now s y) y.c y.sl
    = orAll (flagsOf s y.c y.sl) ((stream s y.c y.x).pend.filter fun w => w.isFlags && decide (w.ready ≤ y.t)) :=
  flagsOf_settleFlags (atCycle s y.t) y.c y.x y.sl _

theorem or_and_self_right (b f : Nat) : (b ||| f) &&& f = f := by
  apply Nat.eq_of_testBit_eq
  intro i
  simp only [Nat.testBit_and, Nat.testBit_or]
  cases f.testBit i <;> simp

theorem or_and_of_and {b f : Nat} (g : Nat) (h : b &&& f = f) : (b ||| g) &&& f = f := by
  calc (b ||| g) &&& f = b &&& f ||| g &&& f := Nat.and_or_distrib_right ..
    _ = (g ||| f) &&& f := by rw [h, Nat.and_or_distrib_right, Nat.and_self, Nat.or_comm]
    _ = f := or_and_self_right g f

theorem orAll_and_of_and {f : Nat} : ∀ (ws : List PendWrite) {b : Nat}, b &&& f = f → orAll b ws &&& f = f
  | [], _, h => h
  | w :: ws, _, h => orAll_and_of_and ws (or_and_of_and _ h)

theorem orAll_append (b : Nat) (ws vs : List PendWrite) : orAll b (ws ++ vs) = orAll (orAll b ws) vs := List.foldl_append

section raise
variable {s : State} {x y : Ctx} {f lat : Nat}

/-- The flags raised are among FLAGS once the result is readable. -/
theorem flagsOf_now_raise_of_readable (hf : f < 64) (hc : y.c = x.c) (hx : y.x = x.x) (hs : y.sl = x.sl) (ht : x.t + lat ≤ y.t) :
    flagsOf (now (x.raise s f lat) y) y.c y.sl &&& f = f := by
  rw [flagsOf_now]
  simp only [Ctx.raise, ← hc, ← hx, ← hs]
  split
  · next h => simp [h]
  · split
    · refine orAll_and_of_and _ ?_
      rw [flagsOf_orFlags, Nat.mod_eq_of_lt (by omega), or_and_self_right]
    · rw [stream_updStream, if_pos rfl, List.filter_append, orAll_append]
      have hdue : ([{ reg := 32 + f, old := 0, oldPoison := false, ready := x.t + lat }] : List PendWrite).filter
          (fun w => w.isFlags && decide (w.ready ≤ y.t)) = [{ reg := 32 + f, old := 0, oldPoison := false, ready := x.t + lat }] := by
        simp [PendWrite.isFlags, ht]
      rw [hdue]
      change (_ ||| (32 + f - 32) % 256) &&& f = f
      rw [Nat.add_sub_cancel_left, Nat.mod_eq_of_lt (by omega), or_and_self_right]

/-- Before that FLAGS are as without the instruction. -/
theorem flagsOf_now_raise_of_early (hc : y.c = x.c) (hx : y.x = x.x) (hl : 0 < lat) (ht : y.t < x.t + lat) :
    flagsOf (now (x.raise s f lat) y) y.c y.sl = flagsOf (now s y) y.c y.sl := by
  rw [flagsOf_now, flagsOf_now]
  simp only [Ctx.raise, ← hc, ← hx, if_neg (show ¬ lat = 0 by omega)]
  split
  · rfl
  · rw [stream_updStream, if_pos rfl, List.filter_append]
    have hnot : ([{ reg := 32 + f, old := 0, oldPoison := false, ready := x.t + lat }] : List PendWrite).filter
        (fun w => w.isFlags && decide (w.ready ≤ y.t)) = [] := by
      simp [show ¬ x.t + lat ≤ y.t by omega]
    rw [hnot, List.append_nil]
    rfl

end raise

/-! ## Forms of the FPU instructions (R108) -/

/-- The state after an FPU instruction with result `r`. -/
def wroteFloat (w : BitVec 3) (x : Ctx) (s : State) (d : BitVec 5) (r : FRes) (lat : Nat) : State :=
  after w 3 x (x.raise (x.wr (now s x) d.toNat (BitVec.ofNat 64 r.bits) lat) r.flags lat)

theorem fpuBits_eq (t : BitVec 1) (v : Word) : fpuBits t v = v.toNat % 2 ^ (if t = 0 then 32 else 64) := by
  unfold fpuBits
  split
  · rfl
  · exact (Nat.mod_eq_of_lt v.isLt).symm

theorem enc_fpu (t : BitVec 1) (v : Word) : (fpu t).enc v = v.toNat % 2 ^ (if t = 0 then 32 else 64) := by
  unfold fpu Fmt.enc
  split <;> rfl

section forms
variable {i : Instr} {m : Nat} {w : BitVec 3} {d a b : BitVec 5} {t : BitVec 1} {s : State} {x : Ctx} {lat : Nat} {rounds : Bool} {r : FRes}

theorem answers_fpu3 {f : Fmt → Rm → Nat → Nat → FRes} (hi : exec i s = fpu3 m w d a b t s rounds lat f)
    (he : encode i = some (plc 29 w (plc 18 d (plc 13 a (plc 8 b (plc 6 t m)))))) (hd : destOk d = true)
    (hf : rounds = true → frmIllegal (frmOf s x.c x.sl) = false) (hc : Clean s x [a, b])
    (hr : f (fpu t) (rmOf (frmOf s x.c x.sl)) ((x.val s a).toNat % 2 ^ (if t = 0 then 32 else 64))
      ((x.val s b).toNat % 2 ^ (if t = 0 then 32 else 64)) = r)
    (hm : m + 2 ^ 23 ≤ 2 ^ 29 := by norm_num) : Answers s x i [a, b] (wroteFloat w x s d r lat) := by
  rintro ⟨hx, hreply, ha, hp⟩
  rw [hi, ← hr]
  refine issue_after _ s _ x w [a, b] _ hx hreply (ha _ (plc_wordF m w d a b t ▸ he)) hp hd rfl hf (by simp) (by simp)
    (wordF_wait m w d a b hm t) (congrArg Act.next ?_)
  rw [← wrFloat_clean d s x lat [a, b] _ hc]
  simp only [Ctx.rm, frmOf_now, rn, rd_now, fpuBits_eq, Ctx.val, List.map_cons, List.map_nil]

theorem answers_fpu2 {f : Ctx → State → Fmt → Word → FRes} (hi : exec i s = fpu2 m w d a t s rounds lat f)
    (he : encode i = some (plc 29 w (plc 18 d (plc 13 a (plc 6 t m))))) (hd : destOk d = true)
    (hf : rounds = true → frmIllegal (frmOf s x.c x.sl) = false) (hc : Clean s x [a]) (hr : f x (now s x) (fpu t) (x.val s a) = r)
    (hm : m + 2 ^ 23 ≤ 2 ^ 29 := by norm_num) : Answers s x i [a] (wroteFloat w x s d r lat) := by
  rintro ⟨hx, hreply, ha, hp⟩
  rw [hi, ← hr]
  refine issue_after _ s _ x w [a] _ hx hreply (ha _ (plc_wordF_da m w d a t ▸ he)) hp hd rfl hf (by simp) (by simp)
    (wordF_wait m w d a 0 hm t) (congrArg Act.next ?_)
  rw [← wrFloat_clean d s x lat [a] _ hc]
  simp only [rn, rd_now, Ctx.val, List.map_cons, List.map_nil]

end forms

@[simp] theorem rm_now (s : State) (x : Ctx) : x.rm (now s x) = rmOf (frmOf s x.c x.sl) := by simp only [Ctx.rm, frmOf_now]

theorem rmc_now (s : State) (x : Ctx) (v : Nat) :
    x.rmc (now s x) v = if frmOf s x.c x.sl % 8 = 5 then .stoch (draw (slot s x.c x.sl).hdr.key.toNat x.pc.toNat 0 v)
      else rmOf (frmOf s x.c x.sl) := by
  simp only [Ctx.rmc, rmConv, frmOf_now, slot_now]

theorem sat_now (s : State) (x : Ctx) : x.sat (now s x) = (frmOf s x.c x.sl).testBit 3 := by
  rw [Ctx.sat, satOf, frmOf_now, Nat.testBit_eq_decide_div_mod_eq, beq_eq_decide]

/-- Settles O5: flags wait in the stream until the result is readable, and each form computes its function of the operands' encodings. -/
theorem fpuResults : Obligations.FpuResults := by
  refine ⟨fun s x y f lat hf hc hx hs => ?_, fun s x w d a b t => ?_⟩
  · rw [← hc, ← hs]
    exact ⟨flagsOf_now_raise_of_readable hf hc hx hs, flagsOf_now_raise_of_early hc hx⟩
  intro f g A B frm rm conv sat W lat int hd
  have hfmt : fpu t = f := rfl
  have hA (v : Word) : (fpu t).enc v = v.toNat % 2 ^ (if t = 0 then 32 else 64) := enc_fpu t v
  refine ⟨fun hc => ⟨?_, ?_, ?_, ?_, ?_, fun hf => ⟨?_, ?_, ?_, ?_⟩⟩, fun hc => ⟨?_, ?_, ?_, fun hf => ⟨?_, ?_, ?_, ?_, ?_, ?_⟩⟩⟩
  · exact answers_fpu3 (exec_fmin w d a b t s) rfl hd (by simp) hc rfl
  · exact answers_fpu3 (exec_fmax w d a b t s) rfl hd (by simp) hc rfl
  · exact answers_fpu3 (exec_feq w d a b t s) rfl hd (by simp) hc rfl
  · exact answers_fpu3 (exec_flt w d a b t s) rfl hd (by simp) hc rfl
  · exact answers_fpu3 (exec_fle w d a b t s) rfl hd (by simp) hc rfl
  · exact answers_fpu3 (exec_fadd w d a b t s) rfl hd (fun _ => hf) hc rfl
  · exact answers_fpu3 (exec_fsub w d a b t s) rfl hd (fun _ => hf) hc rfl
  · exact answers_fpu3 (exec_fmul w d a b t s) rfl hd (fun _ => hf) hc rfl
  · exact answers_fpu3 (exec_fdiv w d a b t s) rfl hd (fun _ => hf) hc rfl
  · exact answers_fpu2 (exec_fclass w d a t s) rfl hd (by simp) hc (by rw [hA]; rfl)
  · exact answers_fpu2 (exec_fneg w d a t s) rfl hd (by simp) hc (by rw [hA]; rfl)
  · exact answers_fpu2 (exec_fabs w d a t s) rfl hd (by simp) hc (by rw [hA]; rfl)
  · exact answers_fpu2 (exec_fsqrt w d a t s) rfl hd (fun _ => hf) hc (by rw [hA, rm_now]; rfl)
  · exact answers_fpu2 (exec_fcvti w d a t s) rfl hd (fun _ => hf) hc (by rw [fToInt, hA, rmc_now]; rfl)
  · exact answers_fpu2 (exec_fcvtu w d a t s) rfl hd (fun _ => hf) hc (by rw [fToInt, hA, rmc_now]; rfl)
  · exact answers_fpu2 (exec_fcvtf w d a t s) rfl hd (fun _ => hf) hc (by rw [sat_now, rmc_now]; rfl)
  · exact answers_fpu2 (exec_fcvtfu w d a t s) rfl hd (fun _ => hf) hc (by rw [sat_now, rmc_now]; rfl)
  · exact answers_fpu2 (exec_fcvtw w d a t s) rfl hd (fun _ => hf) hc (by rw [hA, sat_now, rmc_now]; rfl)

end Sys2Proof.Machine
end

section
/-! PROOFS. Rounding (R36), and the special values of the float operations (R27, R45, R109, R110). -/

namespace Sys2Proof.Machine

-- One proof after the other: side by side they take more threads and memory than the check of the whole text has.
set_option Elab.async false

/-! ## Rounding to a step (R36) -/

theorem roundTo_of_le {q e : Int} (rm : Rm) (neg : Bool) (m : Nat) (h : q ≤ e) : roundTo rm neg m e q = (m * 2 ^ (e - q).toNat, false) := if_pos h

theorem roundTo_of_lt {q e : Int} (rm : Rm) (neg : Bool) (m : Nat) (h : e < q) : roundTo rm neg m e q
    = (m / 2 ^ (q - e).toNat + (if rm.up neg m (q - e).toNat then 1 else 0), m % 2 ^ (q - e).toNat != 0) := if_neg (by omega)

/-- A magnitude without remainder is not rounded up in any mode. -/
theorem up_of_dvd (rm : Rm) (neg : Bool) {m sh : Nat} (h : m % 2 ^ sh = 0) : rm.up neg m sh = false := by
  have hpos : 0 < 2 ^ sh := Nat.two_pow_pos sh
  cases rm <;> simp [Rm.up, h, hpos.ne]

theorem up_rne_iff (neg : Bool) (m sh : Nat) :
    Rm.rne.up neg m sh = true ↔ 2 ^ sh < 2 * (m % 2 ^ sh) ∨ 2 * (m % 2 ^ sh) = 2 ^ sh ∧ m / 2 ^ sh % 2 = 1 := by
  simp [Rm.up]
theorem up_rna_iff (neg : Bool) (m sh : Nat) : Rm.rna.up neg m sh = true ↔ 2 ^ sh ≤ 2 * (m % 2 ^ sh) := by simp [Rm.up]
theorem up_rup_iff (neg : Bool) (m sh : Nat) : Rm.rup.up neg m sh = true ↔ neg = false ∧ m % 2 ^ sh ≠ 0 := by simp [Rm.up]
theorem up_rdn_iff (neg : Bool) (m sh : Nat) : Rm.rdn.up neg m sh = true ↔ neg = true ∧ m % 2 ^ sh ≠ 0 := by simp [Rm.up]

section step
variable (rm : Rm) (neg : Bool) (m sh : Nat)

/-- The count to which the magnitude m / 2^sh is rounded. -/
def roundCount : Nat := m / 2 ^ sh + if rm.up neg m sh then 1 else 0

/-- The count is the one below or the one above. -/
theorem roundCount_cases : (rm.up neg m sh = false ∧ roundCount rm neg m sh = m / 2 ^ sh ∧ roundCount rm neg m sh * 2 ^ sh + m % 2 ^ sh = m)
    ∨ (rm.up neg m sh = true ∧ roundCount rm neg m sh = m / 2 ^ sh + 1 ∧ roundCount rm neg m sh * 2 ^ sh + m % 2 ^ sh = m + 2 ^ sh) := by
  have hm := Nat.div_add_mod' m (2 ^ sh)
  unfold roundCount
  cases rm.up neg m sh
  · exact .inl ⟨rfl, by simp, by simpa using hm⟩
  · exact .inr ⟨rfl, by simp, by simp only [if_true, add_mul]; omega⟩

theorem mod_pos_of_up (h : rm.up neg m sh = true) : 0 < m % 2 ^ sh := by
  rcases Nat.eq_zero_or_pos (m % 2 ^ sh) with h0 | h0
  · rw [up_of_dvd rm neg h0] at h
    cases h
  · exact h0

theorem roundCount_exact (h : 2 ^ sh ∣ m) : roundCount rm neg m sh * 2 ^ sh = m := by
  have h0 := Nat.mod_eq_zero_of_dvd h
  rw [roundCount, up_of_dvd rm neg h0]
  simpa using Nat.div_mul_cancel h

theorem roundCount_near : roundCount rm neg m sh * 2 ^ sh < m + 2 ^ sh ∧ m < roundCount rm neg m sh * 2 ^ sh + 2 ^ sh := by
  have hlt : m % 2 ^ sh < 2 ^ sh := Nat.mod_lt _ (Nat.two_pow_pos sh)
  rcases roundCount_cases rm neg m sh with ⟨-, -, h⟩ | ⟨hu, -, h⟩
  · omega
  · have := mod_pos_of_up rm neg m sh hu
    omega

theorem roundCount_rne : (2 * (roundCount .rne neg m sh * 2 ^ sh) ≤ 2 * m + 2 ^ sh ∧ 2 * m ≤ 2 * (roundCount .rne neg m sh * 2 ^ sh) + 2 ^ sh)
    ∧ ((2 * (roundCount .rne neg m sh * 2 ^ sh) = 2 * m + 2 ^ sh ∨ 2 * m = 2 * (roundCount .rne neg m sh * 2 ^ sh) + 2 ^ sh) →
      roundCount .rne neg m sh % 2 = 0) := by
  have hlt : m % 2 ^ sh < 2 ^ sh := Nat.mod_lt _ (Nat.two_pow_pos sh)
  rcases roundCount_cases .rne neg m sh with ⟨hu, hk, h⟩ | ⟨hu, hk, h⟩
  · rw [← Bool.not_eq_true, up_rne_iff] at hu
    omega
  · rw [up_rne_iff] at hu
    omega

theorem roundCount_rna : 2 * (roundCount .rna neg m sh * 2 ^ sh) ≤ 2 * m + 2 ^ sh ∧ 2 * m < 2 * (roundCount .rna neg m sh * 2 ^ sh) + 2 ^ sh := by
  have hlt : m % 2 ^ sh < 2 ^ sh := Nat.mod_lt _ (Nat.two_pow_pos sh)
  rcases roundCount_cases .rna neg m sh with ⟨hu, hk, h⟩ | ⟨hu, hk, h⟩
  · rw [← Bool.not_eq_true, up_rna_iff] at hu
    omega
  · rw [up_rna_iff] at hu
    omega

/-- Without rounding up the magnitude does not grow. -/
theorem roundCount_le (h : rm.up neg m sh = false) : roundCount rm neg m sh * 2 ^ sh ≤ m := by
  rcases roundCount_cases rm neg m sh with ⟨-, -, hm⟩ | ⟨hu, -, -⟩
  · omega
  · rw [h] at hu
    cases hu

/-- A mode that rounds every remainder up does not shrink it. -/
theorem le_roundCount (h : m % 2 ^ sh ≠ 0 → rm.up neg m sh = true) : m ≤ roundCount rm neg m sh * 2 ^ sh := by
  have hlt : m % 2 ^ sh < 2 ^ sh := Nat.mod_lt _ (Nat.two_pow_pos sh)
  rcases roundCount_cases rm neg m sh with ⟨hu, -, hm⟩ | ⟨-, -, hm⟩
  · have h0 : m % 2 ^ sh = 0 := by
      by_contra hne
      rw [h hne] at hu
      cases hu
    omega
  · omega

end step

theorem roundTo_modes (rm : Rm) (neg : Bool) (m : Nat) (e q : Int) :
    let r := roundTo rm neg m e q
    let u := 2 ^ (q - e).toNat
    (q ≤ e → r.1 = m * 2 ^ (e - q).toNat ∧ r.2 = false)
    ∧ (e < q →
      (r.2 = false ↔ u ∣ m)
      ∧ (u ∣ m → r.1 * u = m)
      ∧ r.1 * u < m + u ∧ m < r.1 * u + u
      ∧ (rm = .rne → (2 * (r.1 * u) ≤ 2 * m + u ∧ 2 * m ≤ 2 * (r.1 * u) + u)
          ∧ ((2 * (r.1 * u) = 2 * m + u ∨ 2 * m = 2 * (r.1 * u) + u) → r.1 % 2 = 0))
      ∧ (rm = .rna → 2 * (r.1 * u) ≤ 2 * m + u ∧ 2 * m < 2 * (r.1 * u) + u)
      ∧ (rm = .rtz → r.1 * u ≤ m)
      ∧ (rm = .rup → if neg then r.1 * u ≤ m else m ≤ r.1 * u)
      ∧ (rm = .rdn → if neg then m ≤ r.1 * u else r.1 * u ≤ m)) := by
  intro r u
  refine ⟨fun h => ?_, fun h => ?_⟩
  · have hr : r = _ := roundTo_of_le rm neg m h
    rw [hr]
    exact ⟨rfl, rfl⟩
  have hr : r = (roundCount rm neg m (q - e).toNat, m % u != 0) := roundTo_of_lt rm neg m h
  rw [hr]
  refine ⟨by simp [u, Nat.dvd_iff_mod_eq_zero], roundCount_exact rm neg m _, (roundCount_near rm neg m _).1, (roundCount_near rm neg m _).2,
    ?_, ?_, ?_, ?_, ?_⟩
  · rintro rfl; exact roundCount_rne neg m _
  · rintro rfl; exact roundCount_rna neg m _
  · rintro rfl; exact roundCount_le .rtz neg m _ rfl
  · rintro rfl
    cases neg
    · exact le_roundCount .rup false m _ fun h0 => (up_rup_iff _ _ _).mpr ⟨rfl, h0⟩
    · exact roundCount_le .rup true m _ rfl
  · rintro rfl
    cases neg
    · exact roundCount_le .rdn false m _ rfl
    · exact le_roundCount .rdn true m _ fun h0 => (up_rdn_iff _ _ _).mpr ⟨rfl, h0⟩

/-! ## The value of an encoding, by its fields (R26, R27) -/

/-- A format with infinities and NaNs at the exponent of all ones, and a quiet bit. -/
def Fmt.IsIeee (f : Fmt) : Prop := f.ieee = true ∧ f.e4m3 = false ∧ 1 ≤ f.mb

theorem isIeee_of_mem {f : Fmt} (h : f ∈ [fp32, fp64]) : f.IsIeee := by
  simp only [List.mem_cons, List.not_mem_nil, or_false] at h
  rcases h with rfl | rfl <;> simp [Fmt.IsIeee, fp32, fp64]

/-- The encoding without its sign. -/
def Fmt.mag (f : Fmt) (a : Nat) : Nat := a % 2 ^ (f.eb + f.mb)
/-- The sign is set. -/
def Fmt.neg (f : Fmt) (a : Nat) : Bool := decide (2 ^ (f.eb + f.mb) ≤ a)
/-- A NaN whose quiet bit is clear. -/
def Fmt.snan (f : Fmt) (a : Nat) : Bool := decide (f.infBits < f.mag a) && decide (a / 2 ^ (f.mb - 1) % 2 = 0)
/-- Significand and exponent of a finite magnitude. -/
def Fmt.sig (f : Fmt) (v : Nat) : Nat := if v < 2 ^ f.mb then v else 2 ^ f.mb + v % 2 ^ f.mb
def Fmt.expo (f : Fmt) (v : Nat) : Int := if v < 2 ^ f.mb then f.qmin else (v / 2 ^ f.mb : Nat) - f.bias - f.mb

section fields
variable {f : Fmt} {a : Nat}

theorem mag_lt : f.mag a < 2 ^ f.eb * 2 ^ f.mb := by rw [← pow_add]; exact Nat.mod_lt _ (Nat.two_pow_pos _)

theorem signField (ha : a < 2 * 2 ^ (f.eb + f.mb)) : (a / 2 ^ (f.eb + f.mb) % 2 == 1) = f.neg a := by
  have hH := Nat.two_pow_pos (f.eb + f.mb)
  unfold Fmt.neg
  rw [beq_eq_decide, decide_eq_decide]
  rcases Nat.lt_or_ge a (2 ^ (f.eb + f.mb)) with h | h
  · simp [Nat.div_eq_of_lt h, Nat.not_le.mpr h]
  · have h1 : a / 2 ^ (f.eb + f.mb) = 1 := Nat.div_eq_of_lt_le (by omega) (by omega)
    simp [h1, h]

/-- An encoding is its sign and its magnitude. -/
theorem signBit_add_mag (ha : a < 2 * 2 ^ (f.eb + f.mb)) : f.signBit (f.neg a) + f.mag a = a := by
  unfold Fmt.signBit Fmt.neg Fmt.mag
  rcases Nat.lt_or_ge a (2 ^ (f.eb + f.mb)) with h | h
  · simp [Nat.not_le.mpr h, Nat.mod_eq_of_lt h]
  · rw [decide_eq_true h, if_pos rfl, Nat.mod_eq_sub_mod h, Nat.mod_eq_of_lt (by omega)]
    omega

theorem expField : a / 2 ^ f.mb % 2 ^ f.eb = f.mag a / 2 ^ f.mb := by
  rw [Fmt.mag, Nat.add_comm, pow_add, Nat.mod_mul_right_div_self]

theorem manField : a % 2 ^ f.mb = f.mag a % 2 ^ f.mb := (Nat.mod_mod_of_dvd _ (pow_dvd_pow 2 (by omega))).symm

theorem quietField (h : 1 ≤ f.mb) : a % 2 ^ f.mb / 2 ^ (f.mb - 1) % 2 = a / 2 ^ (f.mb - 1) % 2 := by
  have hp : 2 ^ f.mb = 2 ^ (f.mb - 1) * 2 := by rw [← pow_succ, Nat.sub_add_cancel h]
  rw [hp, Nat.mod_mul_right_div_self, Nat.mod_mod]

theorem exp_allOnes_iff : f.mag a / 2 ^ f.mb = 2 ^ f.eb - 1 ↔ f.infBits ≤ f.mag a := by
  have hlt : f.mag a / 2 ^ f.mb < 2 ^ f.eb := Nat.div_lt_of_lt_mul (by rw [Nat.mul_comm]; exact mag_lt)
  rw [Fmt.infBits, ← Nat.le_div_iff_mul_le (Nat.two_pow_pos _)]
  omega

/-- The value by the magnitude: NaN, infinity, zero or a finite number. -/
theorem val_eq (hf : f.IsIeee) (ha : a < 2 * 2 ^ (f.eb + f.mb)) : f.val a
    = if f.infBits < f.mag a then .nan (f.snan a) else if f.mag a = f.infBits then .inf (f.neg a)
      else if f.mag a = 0 then .zero (f.neg a) else .fin (f.neg a) (f.sig (f.mag a)) (f.expo (f.mag a)) := by
  obtain ⟨hi, h4, hmb⟩ := hf
  have hdiv := Nat.div_add_mod' (f.mag a) (2 ^ f.mb)
  unfold Fmt.val
  simp only [hi, h4, Bool.false_and, Bool.false_eq_true, if_false, Bool.true_and, beq_iff_eq, signField ha, expField, exp_allOnes_iff,
    quietField hmb]
  simp only [manField (a := a)]
  by_cases hall : f.infBits ≤ f.mag a
  · rw [exp_allOnes_iff.mpr hall] at hdiv
    change f.infBits + _ = _ at hdiv
    rw [if_pos hall]
    rcases Nat.lt_or_ge f.infBits (f.mag a) with h | h
    · rw [if_pos h, if_neg (show ¬ f.mag a % 2 ^ f.mb = 0 by omega), Fmt.snan, decide_eq_true h, Bool.true_and, beq_eq_decide]
    · rw [if_neg (Nat.not_lt.mpr h), if_pos (show f.mag a = f.infBits by omega), if_pos (show f.mag a % 2 ^ f.mb = 0 by omega)]
  · rw [if_neg hall, if_neg (show ¬ f.infBits < f.mag a by omega), if_neg (show ¬ f.mag a = f.infBits by omega)]
    rcases Nat.lt_or_ge (f.mag a) (2 ^ f.mb) with h | h
    · simp only [Nat.div_eq_of_lt h, Nat.mod_eq_of_lt h, Fmt.sig, Fmt.expo, if_pos h, if_true]
    · have hpos : f.mag a / 2 ^ f.mb ≠ 0 := (Nat.div_pos h (Nat.two_pow_pos _)).ne'
      have hne : f.mag a ≠ 0 := fun h0 => by rw [h0] at h; exact absurd h (Nat.not_le.mpr (Nat.two_pow_pos _))
      simp only [Fmt.sig, Fmt.expo, if_neg hpos, if_neg hne, if_neg (Nat.not_lt.mpr h)]

section
variable (hf : f.IsIeee) (ha : a < 2 * 2 ^ (f.eb + f.mb))
include hf ha

theorem val_of_nan (h : f.infBits < f.mag a) : f.val a = .nan (f.snan a) := by rw [val_eq hf ha, if_pos h]
theorem val_of_inf (h : f.mag a = f.infBits) : f.val a = .inf (f.neg a) := by rw [val_eq hf ha, if_neg (by omega), if_pos h]
theorem val_of_zero (h : f.mag a = 0) (hi : 0 < f.infBits) : f.val a = .zero (f.neg a) := by
  rw [val_eq hf ha, if_neg (by omega), if_neg (by omega), if_pos h]
theorem val_of_finite (h0 : 0 < f.mag a) (hi : f.mag a < f.infBits) : f.val a = .fin (f.neg a) (f.sig (f.mag a)) (f.expo (f.mag a)) := by
  rw [val_eq hf ha, if_neg (by omega), if_neg (by omega), if_neg (by omega)]

theorem isNan_val : (f.val a).isNan = decide (f.infBits < f.mag a) := by
  rw [val_eq hf ha]
  split
  · next h => simp [FVal.isNan, h]
  · next h => split <;> [skip; split] <;> simp [FVal.isNan, h]

theorem isSnan_val : (f.val a).isSnan = f.snan a := by
  rw [val_eq hf ha]
  split
  · rfl
  · next h => split <;> [skip; split] <;> simp [FVal.isSnan, Fmt.snan, h]
end
end fields

/-! ## NaN operands (R27) -/

section nan
variable {f : Fmt} {rm : Rm} {a b : Nat} {va vb : FVal}

theorem nanRes_eq (hf : f.IsIeee) (nv : Bool) : nanRes f nv = { bits := f.infBits + 2 ^ (f.mb - 1), flags := if nv then 1 else 0 } := by
  simp [nanRes, Fmt.nanBits, hf.2.1, Fmt.infBits, flagNV]

@[simp] theorem isNan_negate (v : FVal) : v.negate.isNan = v.isNan := by cases v <;> rfl
@[simp] theorem isSnan_negate (v : FVal) : v.negate.isSnan = v.isSnan := by cases v <;> rfl

theorem faddV_of_nan (h : (va.isNan || vb.isNan) = true) : faddV f rm va vb = nanRes f (va.isSnan || vb.isSnan) := by
  cases va <;> cases vb <;> simp_all [faddV, FVal.isNan, FVal.isSnan]

theorem fadd_of_nan (h : ((f.val a).isNan || (f.val b).isNan) = true) : fadd f a b rm = nanRes f ((f.val a).isSnan || (f.val b).isSnan) :=
  faddV_of_nan h

theorem fsub_of_nan (h : ((f.val a).isNan || (f.val b).isNan) = true) : fsub f a b rm = nanRes f ((f.val a).isSnan || (f.val b).isSnan) :=
  (faddV_of_nan (by simpa using h)).trans (by simp)

theorem fmul_of_nan (h : ((f.val a).isNan || (f.val b).isNan) = true) : fmul f a b rm = nanRes f ((f.val a).isSnan || (f.val b).isSnan) := by
  unfold fmul
  generalize f.val a = va at h ⊢
  generalize f.val b = vb at h ⊢
  cases va <;> cases vb <;> simp_all [mulV, roundV, FVal.isNan, FVal.isSnan]

theorem fdiv_of_nan (h : ((f.val a).isNan || (f.val b).isNan) = true) : fdiv f a b rm = nanRes f ((f.val a).isSnan || (f.val b).isSnan) := by
  unfold fdiv
  generalize f.val a = va at h ⊢
  generalize f.val b = vb at h ⊢
  cases va <;> cases vb <;> simp_all [FVal.isNan, FVal.isSnan]

theorem fminmax_of_nan (p : Bool) (h : ((f.val a).isNan || (f.val b).isNan) = true) :
    fminmax f p a b = nanRes f ((f.val a).isSnan || (f.val b).isSnan) := if_pos h

theorem fcmp_of_nan (op : Nat) (h : ((f.val a).isNan || (f.val b).isNan) = true) :
    fcmp f op a b = { bits := 0, flags := if op ≠ 0 || (f.val a).isSnan || (f.val b).isSnan then 1 else 0 } := if_pos h

end nan

/-! ## The special cases of R45, R109 and R110 -/

section special
variable {f : Fmt} {rm : Rm} {a b : Nat} (hf : f.IsIeee) (ha : a < 2 * 2 ^ (f.eb + f.mb)) (hb : b < 2 * 2 ^ (f.eb + f.mb)) (hi : 0 < f.infBits)
include hf ha

theorem fsqrt_of_nan (h : f.infBits < f.mag a) : fsqrt f a rm = nanRes f (f.snan a) := by
  rw [fsqrt, val_of_nan hf ha h]

theorem fsign_of_nan (op : Nat) (h : f.infBits < f.mag a) : fsign f op a = nanRes f (f.snan a) := by
  rw [fsign, isNan_val hf ha, isSnan_val hf ha, if_pos (decide_eq_true h)]

theorem key_of_lt : f.key a = if f.neg a then -(f.mag a : Int) - 1 else f.mag a := by
  unfold Fmt.key
  dsimp only
  rw [← signField ha]
  simp only [beq_iff_eq]
  rfl

theorem fsign_of_number (h : ¬ f.infBits < f.mag a) : fsign f 0 a = { bits := f.signBit (!f.neg a) + f.mag a }
    ∧ fsign f 1 a = { bits := f.mag a } := by
  have hnan : (f.val a).isNan = false := by rw [isNan_val hf ha]; exact decide_eq_false h
  unfold fsign
  simp only [hnan, Bool.false_eq_true, if_false, ← signField ha]
  refine ⟨?_, rfl⟩
  rcases Nat.mod_two_eq_zero_or_one (a / 2 ^ (f.eb + f.mb)) with h2 | h2 <;> simp [h2, Fmt.signBit, Fmt.mag]

include hi in
theorem fsqrt_of_zero (h : f.mag a = 0) : fsqrt f a rm = { bits := f.signBit (f.neg a) } := by
  rw [fsqrt, val_of_zero hf ha h hi]
  rfl

theorem fsqrt_of_negative (h : 0 < f.mag a ∧ f.mag a < f.infBits ∨ f.mag a = f.infBits) (hn : f.neg a = true) : fsqrt f a rm = nanRes f true := by
  rcases h with ⟨h0, h1⟩ | h
  · rw [fsqrt, val_of_finite hf ha h0 h1, hn]
  · rw [fsqrt, val_of_inf hf ha h, hn]

/-- The class by the magnitude and the sign (R110). -/
theorem fclass_eq : fclass f a = 2 ^ (if f.snan a then 8 else if f.infBits < f.mag a then 9
    else if f.mag a = f.infBits then (if f.neg a then 0 else 7) else if f.mag a = 0 then (if f.neg a then 3 else 4)
    else if f.mag a < 2 ^ f.mb then (if f.neg a then 2 else 5) else if f.neg a then 1 else 6) := by
  have hsub : a / 2 ^ f.mb % 2 ^ f.eb = 0 ↔ f.mag a < 2 ^ f.mb := by
    rw [expField, Nat.div_eq_zero_iff]
    exact or_iff_right (Nat.two_pow_pos _).ne'
  by_cases hnan : f.infBits < f.mag a
  · simp only [fclass, val_of_nan hf ha hnan, if_pos hnan]
    cases f.snan a <;> rfl
  have hs : f.snan a = false := by simp [Fmt.snan, hnan]
  by_cases hinf : f.mag a = f.infBits
  · simp only [fclass, val_of_inf hf ha hinf, if_neg hnan, if_pos hinf, hs]
    cases f.neg a <;> rfl
  by_cases h0 : f.mag a = 0
  · simp only [fclass, val_eq hf ha, if_neg hnan, if_neg hinf, if_pos h0, hs]
    cases f.neg a <;> rfl
  simp only [fclass, val_eq hf ha, if_neg hnan, if_neg hinf, if_neg h0, hs, hsub]
  split <;> cases f.neg a <;> rfl

include hb

theorem fadd_of_infs (h1 : f.mag a = f.infBits) (h2 : f.mag b = f.infBits) (hn : f.neg a ≠ f.neg b) : fadd f a b rm = nanRes f true := by
  rw [fadd, val_of_inf hf ha h1, val_of_inf hf hb h2, faddV, if_neg hn]

theorem fsub_of_infs (h1 : f.mag a = f.infBits) (h2 : f.mag b = f.infBits) (hn : f.neg a = f.neg b) : fsub f a b rm = nanRes f true := by
  rw [fsub, val_of_inf hf ha h1, val_of_inf hf hb h2, FVal.negate, faddV, if_neg (by simp [hn])]

include hi in
theorem mulV_of_inf_zero (h1 : f.mag a = f.infBits) (h2 : f.mag b = 0) :
    mulV (f.val a) (f.val b) = none ∧ mulV (f.val b) (f.val a) = none := by
  rw [val_of_inf hf ha h1, val_of_zero hf hb h2 hi]
  exact ⟨rfl, rfl⟩

include hi in
theorem fdiv_by_zero (h0 : 0 < f.mag a) (h1 : f.mag a < f.infBits) (h2 : f.mag b = 0) :
    fdiv f a b rm = { infRes f (f.neg a != f.neg b) with flags := flagDZ } := by
  rw [fdiv, val_of_finite hf ha h0 h1, val_of_zero hf hb h2 hi]

include hi in
theorem fdiv_invalid (h : f.mag a = 0 ∧ f.mag b = 0 ∨ f.mag a = f.infBits ∧ f.mag b = f.infBits) : fdiv f a b rm = nanRes f true := by
  rcases h with ⟨h1, h2⟩ | ⟨h1, h2⟩
  · rw [fdiv, val_of_zero hf ha h1 hi, val_of_zero hf hb h2 hi]
  · rw [fdiv, val_of_inf hf ha h1, val_of_inf hf hb h2]

include hi in
theorem fadd_of_zeros (h1 : f.mag a = 0) (h2 : f.mag b = 0) :
    fadd f a b rm = zeroRes f (if f.neg a = f.neg b then f.neg a else rm == .rdn) := by
  rw [fadd, val_of_zero hf ha h1 hi, val_of_zero hf hb h2 hi, faddV]

include hi in
theorem fcmp_of_zeros (op : Nat) (h1 : f.mag a = 0) (h2 : f.mag b = 0) : fcmp f op a b = { bits := if op = 1 then 0 else 1 } := by
  unfold fcmp
  rw [val_of_zero hf ha h1 hi, val_of_zero hf hb h2 hi]
  simp only [FVal.isNan, Bool.or_self, Bool.false_eq_true, if_false]
  rcases op with _ | _ | op <;> simp

include hi in
/-- Of two zeros of different sign the minimum is -0 and the maximum +0 (R45). -/
theorem fminmax_of_zeros (h1 : f.mag a = 0) (h2 : f.mag b = 0) (hn : f.neg a ≠ f.neg b) :
    fminmax f false a b = { bits := 2 ^ (f.eb + f.mb) } ∧ fminmax f true a b = { bits := 0 } := by
  have hsa := signBit_add_mag ha
  have hsb := signBit_add_mag hb
  have hkey (p : Bool) : fminmax f p a b = { bits := if (if p then decide (f.key b ≤ f.key a) else decide (f.key a ≤ f.key b)) then a else b } := by
    rw [fminmax, val_of_zero hf ha h1 hi, val_of_zero hf hb h2 hi]
    exact if_neg (by simp [FVal.isNan])
  rw [hkey, hkey, key_of_lt hf ha, key_of_lt hf hb, h1, h2]
  rw [h1, Nat.add_zero] at hsa
  rw [h2, Nat.add_zero] at hsb
  cases hna : f.neg a <;> cases hnb : f.neg b <;> rw [hna] at hsa hn <;> rw [hnb] at hsb hn
  · exact absurd rfl hn
  · exact ⟨congrArg (FRes.mk · 0) hsb.symm, congrArg (FRes.mk · 0) hsa.symm⟩
  · exact ⟨congrArg (FRes.mk · 0) hsa.symm, congrArg (FRes.mk · 0) hsb.symm⟩
  · exact absurd rfl hn

/-- A finite number and its negative cancel to the zero of R109. -/
theorem fadd_of_opposites (h0 : 0 < f.mag a) (h1 : f.mag a < f.infBits) (h2 : f.mag b = f.mag a) (hn : f.neg a ≠ f.neg b) :
    fadd f a b rm = zeroRes f (rm == .rdn) := by
  rw [fadd, val_of_finite hf ha h0 h1, val_of_finite hf hb (h2 ▸ h0) (h2 ▸ h1), h2, faddV]
  have hsum : signed (f.neg a) (f.sig (f.mag a)) * (2 ^ (f.expo (f.mag a) - min (f.expo (f.mag a)) (f.expo (f.mag a))).toNat : Nat)
      + signed (f.neg b) (f.sig (f.mag a)) * (2 ^ (f.expo (f.mag a) - min (f.expo (f.mag a)) (f.expo (f.mag a))).toNat : Nat) = 0 := by
    generalize f.neg a = n at hn
    generalize f.neg b = n' at hn
    cases n <;> cases n' <;> simp_all [signed]
  rw [hsum, roundSum, if_pos rfl]

end special

/-- Settles O7: rounding chooses a neighbour as its mode says, and the special cases follow from the fields. -/
theorem floatValues : Obligations.FloatValues := by
  refine ⟨roundTo_modes, fun f hmem a b c rm p n => ?_⟩
  intro H inf nan snan isInf isZero finite neg canon sign ha hb hc
  have hf := isIeee_of_mem hmem
  have hi : 0 < f.infBits := by
    simp only [List.mem_cons, List.not_mem_nil, or_false] at hmem
    rcases hmem with rfl | rfl <;> decide
  have hcanon (nv : Bool) : nanRes f nv = canon nv := nanRes_eq hf nv
  have hzero {v : Nat} (hv : v < 2 * H) (h : isZero v) : f.signBit (neg v) = v := by
    have := signBit_add_mag hv
    rwa [show f.mag v = 0 from h] at this
  have hrdn : f.signBit (rm == .rdn) = if rm = .rdn then H else 0 := by cases rm <;> rfl
  refine ⟨fun h => ?_, fun h => ?_, fun h1 h2 hn => ?_, fun h1 h2 hn => ?_, fun h1 h2 => ?_, fun h1 h2 => ?_, fun h => ?_, fun h1 h2 => ?_,
    fun h1 h2 hn => ?_, fun h => ?_, fun h hn => ?_, fun h => ?_, ?_⟩
  · have hnan : ((f.val a).isNan || (f.val b).isNan) = true := by
      rw [isNan_val hf ha, isNan_val hf hb, Bool.or_eq_true, decide_eq_true_eq, decide_eq_true_eq]
      exact h
    have hs : ((f.val a).isSnan || (f.val b).isSnan) = (snan a || snan b) := by rw [isSnan_val hf ha, isSnan_val hf hb]; rfl
    rw [fadd_of_nan hnan, fsub_of_nan hnan, fmul_of_nan hnan, fdiv_of_nan hnan, fminmax_of_nan p hnan, fcmp_of_nan 0 hnan, fcmp_of_nan 1 hnan,
      fcmp_of_nan 2 hnan, hs, hcanon]
    refine ⟨rfl, rfl, rfl, rfl, rfl, ?_, rfl, rfl⟩
    simp only [ne_eq, not_true_eq_false, decide_false, Bool.false_or, hs]
  · rw [fsqrt_of_nan hf ha h, fsign_of_nan hf ha 0 h, fsign_of_nan hf ha 1 h]
    exact ⟨hcanon _, hcanon _, hcanon _⟩
  · exact (fadd_of_infs hf ha hb h1 h2 hn).trans (hcanon true)
  · exact (fsub_of_infs hf ha hb h1 h2 hn).trans (hcanon true)
  · obtain ⟨hab, hba⟩ := mulV_of_inf_zero hf ha hb hi h1 h2
    simp only [fmul, ffma, hab, hba, hcanon, and_self]
  · exact fdiv_by_zero hf ha hb hi h1.1 h1.2 h2
  · exact (fdiv_invalid hf ha hb hi h).trans (hcanon true)
  · refine ⟨?_, fcmp_of_zeros hf ha hb hi 0 h1 h2, fcmp_of_zeros hf ha hb hi 1 h1 h2, fcmp_of_zeros hf ha hb hi 2 h1 h2, fun hn => ?_⟩
    · rw [fadd_of_zeros hf ha hb hi h1 h2]
      change FRes.mk (f.signBit (if neg a = neg b then neg a else rm == .rdn)) 0 = _
      split
      · rw [hzero ha h1]
      · rw [hrdn]
    · exact fminmax_of_zeros hf ha hb hi h1 h2 hn
  · exact (fadd_of_opposites hf ha hb h1.1 h1.2 h2 hn).trans (congrArg (FRes.mk · 0) hrdn)
  · exact (fsqrt_of_zero hf ha hi h).trans (congrArg (FRes.mk · 0) (hzero ha h))
  · exact (fsqrt_of_negative hf ha h hn).trans (hcanon true)
  · exact fsign_of_number hf ha h
  · exact fclass_eq hf ha

end Sys2Proof.Machine
end

section
/-! PROOFS. Accesses to storage (R112 to R116, R125): what looking up a translation and finding errors leave unchanged, and what an
access answers once its address is known to reach storage. -/

namespace Sys2Proof.Machine

-- One proof after the other: side by side they take more threads and memory than the check of the whole text has.
set_option Elab.async false

/-! ## A translation in use (R330) -/

/-- Using a translation changes the order of the core's translations only. -/
theorem tlbTouch_eq (s : State) (c p va : Nat) : ∃ cs, tlbTouch s c p va = { s with cores := cs }
    ∧ ∀ c', ∃ t, core { s with cores := cs } c' = { core s c' with tlb := t } := by
  unfold tlbTouch
  split
  · next e _ =>
    refine ⟨_, rfl, fun c' => ?_⟩
    have h : core (updCore s c fun k => { k with tlb := e :: k.tlb.filter (· ≠ e) }) c'
        = if c' = c then { core s c with tlb := e :: (core s c).tlb.filter (· ≠ e) } else core s c' := core_updCore ..
    rcases eq_or_ne c' c with rfl | hc
    · exact ⟨_, h.trans (if_pos rfl)⟩
    · exact ⟨(core s c').tlb, h.trans (if_neg hc)⟩
  · exact ⟨s.cores, rfl, fun c' => ⟨(core s c').tlb, rfl⟩⟩

section tlbTouch
variable (s : State) (c p va : Nat)

@[simp] theorem mem_tlbTouch : (tlbTouch s c p va).mem = s.mem := by
  obtain ⟨cs, h, -⟩ := tlbTouch_eq s c p va
  rw [h]
@[simp] theorem memDom_tlbTouch : (tlbTouch s c p va).memDom = s.memDom := by
  obtain ⟨cs, h, -⟩ := tlbTouch_eq s c p va
  rw [h]
@[simp] theorem slot_tlbTouch (c' sl : Nat) : slot (tlbTouch s c p va) c' sl = slot s c' sl := by
  obtain ⟨cs, h, -⟩ := tlbTouch_eq s c p va
  rw [h]; rfl
@[simp] theorem stream_tlbTouch (c' : Nat) (x : Bool) : stream (tlbTouch s c p va) c' x = stream s c' x := by
  obtain ⟨cs, h, -⟩ := tlbTouch_eq s c p va
  rw [h]; rfl
@[simp] theorem chan_tlbTouch (c' : Nat) : chan (tlbTouch s c p va) c' = chan s c' := by
  obtain ⟨cs, h, -⟩ := tlbTouch_eq s c p va
  rw [h]; rfl

/-- A core's record but for its translations. -/
theorem core_tlbTouch (c' : Nat) : ∃ t, core (tlbTouch s c p va) c' = { core s c' with tlb := t } := by
  obtain ⟨cs, h, hc⟩ := tlbTouch_eq s c p va
  obtain ⟨t, ht⟩ := hc c'
  exact ⟨t, by rw [h]; exact ht⟩

@[simp] theorem wsPa_tlbTouch (c' sl : Nat) : wsPa (tlbTouch s c p va) c' sl = wsPa s c' sl := by
  obtain ⟨t, h⟩ := core_tlbTouch s c p va c'
  simp only [wsPa, h]
@[simp] theorem wsRd_tlbTouch (c' sl o n : Nat) : wsRd (tlbTouch s c p va) c' sl o n = wsRd s c' sl o n := by
  simp only [wsRd, wsPa_tlbTouch, mem_tlbTouch]
@[simp] theorem ecxOf_tlbTouch (c' sl : Nat) : ecxOf (tlbTouch s c p va) c' sl = ecxOf s c' sl := wsRd_tlbTouch ..
@[simp] theorem regionOf_tlbTouch (c' off : Nat) : regionOf (tlbTouch s c p va) c' off = regionOf s c' off := by
  obtain ⟨t, h⟩ := core_tlbTouch s c p va c'
  simp only [regionOf, h]
@[simp] theorem pendMet_tlbTouch (x : Ctx) (off n : Nat) : pendMet x (tlbTouch s c p va) off n = pendMet x s off n := by
  obtain ⟨t, h⟩ := core_tlbTouch s c p va x.c
  simp only [pendMet, h, stream_tlbTouch]
@[simp] theorem recsOf_tlbTouch (c' sl : Nat) : recsOf (tlbTouch s c p va) c' sl = recsOf s c' sl := by
  obtain ⟨t, h⟩ := core_tlbTouch s c p va c'
  unfold recsOf
  rw [h, chan_tlbTouch, show tidOf (tlbTouch s c p va) c' sl = tidOf s c' sl from wsRd_tlbTouch ..]
@[simp] theorem outsFull_tlbTouch (c' sl : Nat) : outsFull (tlbTouch s c p va) c' sl = outsFull s c' sl := by
  rw [outsFull, outsOf, slot_tlbTouch, recsOf_tlbTouch]
  rfl
@[simp] theorem dramHeld_tlbTouch (x : Ctx) : dramHeld (tlbTouch s c p va) x = dramHeld s x := by
  simp only [dramHeld, memDom_tlbTouch, stream_tlbTouch]
end tlbTouch

@[simp] theorem outsFull_now (s : State) (x : Ctx) : outsFull (now s x) x.c x.sl = outsFull s x.c x.sl := by
  rw [outsFull, outsOf, slot_now, recsOf_now]
  rfl
@[simp] theorem regionOf_now (s : State) (x : Ctx) (c off : Nat) : regionOf (now s x) c off = regionOf s c off := by
  simp only [regionOf, core_now]

section
variable (s : State) (x : Ctx)
@[simp] theorem latent_now : (now s x).latent = s.latent := by obtain ⟨m, st, h, -⟩ := now_eq s x; rw [h]
@[simp] theorem softErr_now : (now s x).softErr = s.softErr := by obtain ⟨m, st, h, -⟩ := now_eq s x; rw [h]
@[simp] theorem poison_now : (now s x).poison = s.poison := by obtain ⟨m, st, h, -⟩ := now_eq s x; rw [h]
end

/-! ## Errors found (R279) -/

/-- `t` is `s` but for what the error logic keeps: poison, latent errors, the channels' records and the registers of the logs. -/
def Corrects (s t : State) : Prop :=
  ∃ p l e ch r, t = { s with poison := p, latent := l, softErr := e, channels := ch, regs := r }

namespace Corrects
theorem refl (s : State) : Corrects s s := ⟨_, _, _, _, _, rfl⟩
theorem trans {s t u : State} : Corrects s t → Corrects t u → Corrects s u := by
  rintro ⟨p, l, e, ch, r, rfl⟩ ⟨p', l', e', ch', r', rfl⟩
  exact ⟨p', l', e', ch', r', rfl⟩
theorem putReg (s : State) (b o : Nat) (v : Word) : Corrects s (putReg s b o v) := ⟨_, _, _, _, _, rfl⟩
theorem putField (s : State) (b o hi lo v : Nat) : Corrects s (putField s b o hi lo v) := ⟨_, _, _, _, _, rfl⟩
theorem putChan (s : State) (c : Nat) (k : Channel) : Corrects s (putChan s c k) := ⟨_, _, _, _, _, rfl⟩
theorem errors (s : State) (p l e : List Nat) : Corrects s { s with poison := p, latent := l, softErr := e } := ⟨_, _, _, _, _, rfl⟩
theorem writeRecord (s : State) (lo hi : Word) : Corrects s (writeRecord s lo hi) :=
  ((putReg ..).trans (putReg ..)).trans (putField ..)
theorem errorRecord (s : State) (lo hi : Word) : Corrects s (errorRecord s lo hi) := (writeRecord ..).trans (putField ..)
theorem correctedError (s : State) : Corrects s (correctedError s) := putField ..

theorem spareRow (s : State) (ch o : Nat) : Corrects s (spareRow s ch o) := by
  unfold Machine.spareRow
  dsimp only
  split
  · exact refl s
  · split
    · exact ((putChan ..).trans (putField ..)).trans (writeRecord ..)
    · exact putChan ..

theorem correctHalf (s : State) (h : Nat) : Corrects s (correctHalf s h) := by
  unfold Machine.correctHalf
  dsimp only
  have h0 := (errors s s.poison s.latent (setDel h s.softErr)).trans (correctedError _)
  split
  · split
    · exact (h0.trans (putChan ..)).trans (spareRow ..)
    · exact h0.trans (putChan ..)
  · exact h0

theorem foundError (s : State) (g kind ecx : Nat) : Corrects s (foundError s g kind ecx) := by
  unfold Machine.foundError
  dsimp only
  have h0 := errors s (setIns g s.poison) (s.latent.filter (fun h => h / 2 != g)) s.softErr
  split
  · exact ((h0.trans (putChan ..)).trans (errorRecord ..)).trans (spareRow ..)
  · exact h0.trans (errorRecord ..)
  · exact h0.trans (errorRecord ..)

theorem foldl_correctHalf (hs : List Nat) (s : State) : Corrects s (hs.foldl Machine.correctHalf s) :=
  List.foldlRecOn hs _ (refl s) fun _ hu h _ => hu.trans (correctHalf _ h)

theorem findErrors (s : State) (pa n kind ecx : Nat) : Corrects s (findErrors s pa n kind ecx) := by
  unfold Machine.findErrors
  split
  · exact refl s
  · refine List.foldlRecOn (granules pa n) _ (refl s) fun u hu g _ => ?_
    dsimp only
    split
    · exact hu
    · split
      · exact (hu.trans (foldl_correctHalf ..)).trans (foundError ..)
      · exact hu.trans (foldl_correctHalf ..)
end Corrects

section findErrors
variable (s : State) (pa n kind ecx : Nat)

/-- Finding errors changes no byte of memory. -/
@[simp] theorem mem_findErrors : (findErrors s pa n kind ecx).mem = s.mem := by
  obtain ⟨p, l, e, ch, r, h⟩ := Corrects.findErrors s pa n kind ecx
  rw [h]
@[simp] theorem full_findErrors : (findErrors s pa n kind ecx).full = s.full := by
  obtain ⟨p, l, e, ch, r, h⟩ := Corrects.findErrors s pa n kind ecx
  rw [h]
@[simp] theorem stream_findErrors (c : Nat) (x : Bool) : stream (findErrors s pa n kind ecx) c x = stream s c x := by
  obtain ⟨p, l, e, ch, r, h⟩ := Corrects.findErrors s pa n kind ecx
  rw [h]; rfl
@[simp] theorem slot_findErrors (c sl : Nat) : slot (findErrors s pa n kind ecx) c sl = slot s c sl := by
  obtain ⟨p, l, e, ch, r, h⟩ := Corrects.findErrors s pa n kind ecx
  rw [h]; rfl
@[simp] theorem core_findErrors (c : Nat) : core (findErrors s pa n kind ecx) c = core s c := by
  obtain ⟨p, l, e, ch, r, h⟩ := Corrects.findErrors s pa n kind ecx
  rw [h]; rfl
@[simp] theorem wsRd_findErrors (c sl o m : Nat) : wsRd (findErrors s pa n kind ecx) c sl o m = wsRd s c sl o m := by
  simp only [wsRd, wsPa, core_findErrors, mem_findErrors]
@[simp] theorem ecxOf_findErrors (c sl : Nat) : ecxOf (findErrors s pa n kind ecx) c sl = ecxOf s c sl := wsRd_findErrors ..
@[simp] theorem predOf_findErrors (c sl : Nat) : predOf (findErrors s pa n kind ecx) c sl = predOf s c sl := by
  simp only [predOf, wsRd_findErrors]
end findErrors

/-! ## Addresses that reach storage (R125, R272) -/

/-- The reaches of storage: this core's SRAM, a window, the hall and DRAM. -/
def Reach.isStorage : Reach → Bool
  | .own _ => true
  | .window _ _ => true
  | .hall _ => true
  | .dram _ => true
  | _ => false

/-- A page of system registers reaches no storage (R275). -/
theorem leafReach_of_registers {s : State} {c p va : Nat} {e : TlbEntry} {rd wr : Bool} (h : e.oa / 2 ^ 53 = 3) :
    (leafReach s c p va e rd wr).isStorage = false := by
  have hna : 3 ≤ (e.oa + va % 2 ^ pageBits e.level) / 2 ^ 53 := by omega
  unfold leafReach
  dsimp only
  generalize (e.oa + va % 2 ^ pageBits e.level) / 2 ^ 53 = k at hna
  split
  · omega
  · omega
  · split
    · rfl
    · split
      · rfl
      · split
        · rfl
        · split <;> rfl
  · rfl

theorem halfRegister_of_storage {s : State} {c p va n : Nat} {x rd wr : Bool} (h : (reach s c x p va rd wr).isStorage = true) :
    halfRegister s c p va n = false := by
  by_contra hne
  rw [Bool.not_eq_false, halfRegister] at hne
  simp only [Bool.and_eq_true, decide_eq_true_eq] at hne
  obtain ⟨⟨-, hva⟩, htlb⟩ := hne
  rw [reach, if_pos hva] at h
  split at htlb
  · next e he =>
    rw [he] at h
    split at h
    · cases h
    · rw [leafReach_of_registers (by simpa using htlb)] at h
      cases h
  · cases htlb

section access
variable {x : Ctx} {s : State} {va n : Nat} {rd wr : Bool} {k : State → Reach → Act} {r : Reach}

/-- An aligned access of storage goes on with what it reaches. -/
theorem access_of_reach (ha : va % n = 0) (hr : reach s x.c x.x (slot s x.c x.sl).hdr.part va rd wr = r) (hs : r.isStorage = true) :
    access x s va n rd wr k = k (tlbTouch s x.c (slot s x.c x.sl).hdr.part va) r := by
  have hh : halfRegister s x.c (slot s x.c x.sl).hdr.part va n = false := halfRegister_of_storage (hr ▸ hs)
  unfold access
  dsimp only
  rw [if_neg (by simp [ha, hh]), hr]
  cases r <;> first | rfl | cases hs

theorem access_misaligned (ha : va % n ≠ 0) : access x s va n rd wr k = .trap (trapAt .align va) := if_pos (.inl ha)

end access

/-! ## Loads of own SRAM (R112 to R115) -/

section load
variable {x : Ctx} {s : State} {va n d off : Nat} {ext : Nat → Word}

theorem loadBody_of_got {v : Word} {p : Bool} (h : x.reply = some (.value v p)) :
    loadBody x s va n d ext false = .next (x.wr s d (if p then 0 else ext v.toNat) 0 p) := by
  have hg : x.got = some (v, p) := by rw [Ctx.got, h]
  rw [loadBody, hg]
  exact if_neg (by simp)

theorem got_eq_none (h : x.reply = none) : x.got = none := by rw [Ctx.got, h]

section
variable (hr : x.reply = none) (ha : va % n = 0) (hreach : reach s x.c x.x (slot s x.c x.sl).hdr.part va true false = .own off)
include hr ha hreach

theorem loadBody_held (hm : pendMet x s off n = true) :
    loadBody x s va n d ext false = .hold (tlbTouch s x.c (slot s x.c x.sl).hdr.part va) := by
  rw [loadBody, got_eq_none hr]
  dsimp only
  rw [access_of_reach ha hreach rfl]
  simp [hm]

theorem loadBody_own (hm : pendMet x s off n = false) (hf : forward (stream s x.c x.x).sb (sramPa x.c off) n = .none) :
    let u := findErrors (tlbTouch s x.c (slot s x.c x.sl).hdr.part va) (sramPa x.c off) n 4 (ecxOf s x.c x.sl)
    let q := poisonedAt u (sramPa x.c off) n
    loadBody x s va n d ext false
      = .next (x.wr (chargeAccess x u (.own off)) d (if q then 0 else ext (rdN s.mem (sramPa x.c off) n)) 3 q) := by
  rw [loadBody, got_eq_none hr]
  dsimp only
  rw [access_of_reach ha hreach rfl]
  simp [hm, hf, Reach.pa]
end
end load

end Sys2Proof.Machine
end

section
/-! PROOFS. Loads (R112 to R115). -/

namespace Sys2Proof.Machine

-- One proof after the other: side by side they take more threads and memory than the check of the whole text has.
set_option Elab.async false

/-! ## The shape of a load -/

def loadIssue (m : Nat) (w : BitVec 3) (d a : BitVec 5) (i : BitVec 13) : Issue :=
  { word := wordI m w d a i, legal := destOk d, reads := [rn a], sync := [rn a], fare := noFare }
def loadAct (d a : BitVec 5) (i : BitVec 13) (n : Nat) (ext : Nat → Word) (x : Ctx) (s : State) : Act :=
  loadBody x s (ea56 (x.rd s (rn a) + simm i)) n (rn d) ext false

/-- The effective address of a load or store (R112). -/
def effAddr (s : State) (x : Ctx) (a : BitVec 5) (i : BitVec 13) : Nat := (x.val s a + i.signExtend 64).toNat % 2 ^ 56

theorem ea56_now (s : State) (x : Ctx) (a : BitVec 5) (i : BitVec 13) : ea56 (x.rd (now s x) (rn a) + simm i) = effAddr s x a i := by
  rw [rn, rd_now]
  rfl

section
variable {ins : Instr} {m : Nat} {w : BitVec 3} {d a : BitVec 5} {i : BitVec 13} {s : State} {x : Ctx} {n : Nat} {ext : Nat → Word}

theorem issuedBy_load (hi : exec ins s = load m w d a i s n ext) (he : encode ins = some (plc 29 w (plc 18 d (plc 13 a (plc 0 i m)))))
    (hd : destOk d = true) (hc : Clean s x [a]) (hm : m + 2 ^ 23 ≤ 2 ^ 29 := by norm_num) :
    IssuedBy s x ins [a] w noFare (loadIssue m w d a i) (loadAct d a i n ext) where
  exec := hi
  word := he.trans (congrArg some (plc_wordI m w d a i))
  wait := wordI_wait m hm w d a i
  legal := hd
  rounds := by simp [loadIssue]
  level := by simp [loadIssue]
  sync := poisoned_now_of_clean hc

/-- A load from own SRAM reads it, or is held where a pending write meets it. -/
theorem answers_load (hi : exec ins s = load m w d a i s n ext) (he : encode ins = some (plc 29 w (plc 18 d (plc 13 a (plc 0 i m)))))
    (hd : destOk d = true) (hc : Clean s x [a]) {off : Nat} (ha : effAddr s x a i % n = 0)
    (hreach : reach (now s x) x.c x.x (slot s x.c x.sl).hdr.part (effAddr s x a i) true false = .own off)
    (hf : forward (stream s x.c x.x).sb (sramPa x.c off) n = .none) (hm : m + 2 ^ 23 ≤ 2 ^ 29 := by norm_num) :
    let u := findErrors (tlbTouch (now s x) x.c (slot s x.c x.sl).hdr.part (effAddr s x a i)) (sramPa x.c off) n 4 (ecxOf s x.c x.sl)
    let q := poisonedAt u (sramPa x.c off) n
    (pendMet x (now s x) off n = false → Answers s x ins [a] (after w noFare x
      (x.wr (chargeAccess x u (.own off)) d.toNat (if q then 0 else ext (rdN (now s x).mem (sramPa x.c off) n)) 3 q)))
    ∧ (pendMet x (now s x) off n = true → dramHeld s x = none →
      Answers s x ins [a] (held x (tlbTouch (now s x) x.c (slot s x.c x.sl).hdr.part (effAddr s x a i)))) := by
  have h := issuedBy_load hi he hd hc hm
  refine ⟨fun hp hissue => h.answers_next ?_ hissue, fun hp hdram hissue => h.answers_hold ?_ (by simpa using hdram) hissue⟩
  · rw [loadAct, ea56_now, loadBody_own hissue.2.1 ha (by rwa [slot_now]) hp (by rwa [stream_now_sb])]
    simp only [slot_now, ecxOf_now, rn]
  · rw [loadAct, ea56_now, loadBody_held hissue.2.1 ha (by rwa [slot_now]) hp, slot_now]

/-- A load that waited takes the value of its reply (R74). -/
theorem load_resumes (hi : exec ins s = load m w d a i s n ext) {v : Word} {p : Bool} (hx : ctxOf s = some x) (hr : x.reply = some (.value v p))
    (hm : m + 2 ^ 23 ≤ 2 ^ 29 := by norm_num) :
    exec ins s = .next (after w noFare x (x.wr (now s x) d.toNat (if p then 0 else ext v.toNat) 0 p)) :=
  resumes_of_next (iss := loadIssue m w d a i) (body := loadAct d a i n ext) hi (wordI_wait m hm w d a i) rfl (by simp) loadBody_of_got hx hr

end

theorem lfe_resumes {s : State} {x : Ctx} (w : BitVec 3) (d a : BitVec 5) (c : BitVec 1) (z : BitVec 2) (o : BitVec 10) {v : Word}
    (hx : ctxOf s = some x) (hr : x.reply = some (.value v false)) :
    exec (.lfe w d a c z o) s = .next (after w noFare x (x.wr (now s x) d.toNat v 0 false)) := by
  refine resumes_of_next (exec_lfe w d a c z o s) (wordI_wait 0x0B800000 (by norm_num) w d a (feImm c z o)) rfl (by simp) (fun h => ?_) hx hr
  have hg : x.got = some (v, false) := by rw [Ctx.got, h]
  rw [lfeBody, hg]

/-- Settles O10: a load reads own SRAM or is held, and resumes with its reply. -/
theorem loadResults : Obligations.LoadResults := by
  refine ⟨?_, ?_⟩
  · intro s x w d a i off va p pa sx hd hc
    simp only [List.forall_mem_cons, List.not_mem_nil, IsEmpty.forall_iff, implies_true, and_true]
    refine ⟨?_, ?_, ?_, ?_, ?_, ?_, ?_⟩
    · exact fun ha hr hf => answers_load (exec_ld w d a i s) rfl hd hc ha hr hf
    · exact fun ha hr hf => answers_load (exec_lw w d a i s) rfl hd hc ha hr hf
    · exact fun ha hr hf => answers_load (exec_lwu w d a i s) rfl hd hc ha hr hf
    · exact fun ha hr hf => answers_load (exec_lh w d a i s) rfl hd hc ha hr hf
    · exact fun ha hr hf => answers_load (exec_lhu w d a i s) rfl hd hc ha hr hf
    · exact fun ha hr hf => answers_load (exec_lb w d a i s) rfl hd hc ha hr hf
    · exact fun ha hr hf => answers_load (exec_lbu w d a i s) rfl hd hc ha hr hf
  · intro s x w d a i v p sx T hx hr
    have hz (ins : Instr) (m n : Nat) (hi : exec ins s = load m w d a i s n zext) (hm : m + 2 ^ 23 ≤ 2 ^ 29) : exec ins s = T v := by
      rw [load_resumes hi hx hr hm, zext, BitVec.ofNat_toNat, BitVec.setWidth_eq]
    refine ⟨?_, ?_, ?_, ?_, ?_, ?_, ?_, fun hp c z o => ?_⟩
    · exact hz _ _ _ (exec_ld w d a i s) (by norm_num)
    · exact load_resumes (exec_lw w d a i s) hx hr
    · exact hz _ _ _ (exec_lwu w d a i s) (by norm_num)
    · exact load_resumes (exec_lh w d a i s) hx hr
    · exact hz _ _ _ (exec_lhu w d a i s) (by norm_num)
    · exact load_resumes (exec_lb w d a i s) hx hr
    · exact hz _ _ _ (exec_lbu w d a i s) (by norm_num)
    · subst hp
      exact lfe_resumes w d a c z o hx hr

end Sys2Proof.Machine
end

section
/-! PROOFS. Stores (R112, R113, R116) and the alignment of accesses (R125). -/

namespace Sys2Proof.Machine

-- One proof after the other: side by side they take more threads and memory than the check of the whole text has.
set_option Elab.async false

/-! ## The store buffer (R116, R307) -/

/-- An operation enters the store buffer where there is room for it. -/
theorem pushStore_of_room {x : Ctx} {s : State} {e : SbEntry} {f : State → State} (hb : (stream s x.c x.x).sb.length < 16)
    (ho : e.counted = true → outsFull s x.c x.sl = false) :
    pushStore x s e f = .next (if e.counted then countOuts (updStream (f s) x.c x.x fun k => { k with sb := k.sb ++ [e] }) x.c x.sl
      else updStream (f s) x.c x.x fun k => { k with sb := k.sb ++ [e] }) := by
  unfold pushStore
  rw [if_neg]
  simp only [Bool.or_eq_true, decide_eq_true_eq, Bool.and_eq_true]
  rintro (h | ⟨hc, h⟩)
  · omega
  · rw [ho hc] at h
    cases h

/-! ## The shape of a store -/

def storeIssue (m : Nat) (w : BitVec 3) (r a : BitVec 5) (i : BitVec 13) : Issue :=
  { word := wordI m w r a i, reads := [rn a, rn r], sync := [rn a], fare := noFare }
def storeAct (r a : BitVec 5) (i : BitVec 13) (n : Nat) (x : Ctx) (s : State) : Act :=
  storeBody x s (ea56 (x.rd s (rn a) + simm i)) n (rn r) (x.rd s (rn r)) (x.poisoned s (rn r)) .store

/-- The entry of a store of `n` bytes of register field `r`. -/
def storeEntry (s : State) (x : Ctx) (r : BitVec 5) (va n pa : Nat) (win cnt : Bool) : SbEntry :=
  { slot := x.sl, op := .store, va := BitVec.ofNat 64 va, pa := some pa, size := n, val := x.val s r, poison := x.poisoned s r.toNat, window := win,
    counted := cnt }

/-- A store charged and entered: `u` is the state, `rc` what its address reaches. -/
def pushed (x : Ctx) (u : State) (rc : Reach) (e : SbEntry) : State :=
  updStream (chargeAccess x u rc) x.c x.x fun v => { v with sb := v.sb ++ [e] }

section
variable {ins : Instr} {m : Nat} {w : BitVec 3} {r d a : BitVec 5} {i : BitVec 13} {s : State} {x : Ctx} {n : Nat}

theorem issuedBy_store (hi : exec ins s = store m w r a i s n) (he : encode ins = some (plc 29 w (plc 18 r (plc 13 a (plc 0 i m)))))
    (hc : Clean s x [a]) (hm : m + 2 ^ 23 ≤ 2 ^ 29) :
    IssuedBy s x ins [a, r] w noFare (storeIssue m w r a i) (storeAct r a i n) where
  exec := hi
  word := he.trans (congrArg some (plc_wordI m w r a i))
  wait := wordI_wait m hm w r a i
  rounds := by simp [storeIssue]
  level := by simp [storeIssue]
  sync := poisoned_now_of_clean hc

/-- The store of a cleanly addressed aligned access, told by what the address reaches. -/
theorem answers_store (hi : exec ins s = store m w r a i s n) (he : encode ins = some (plc 29 w (plc 18 r (plc 13 a (plc 0 i m)))))
    (hc : Clean s x [a]) (hb : (stream s x.c x.x).sb.length < 16) (ha : effAddr s x a i % n = 0) (hm : m + 2 ^ 23 ≤ 2 ^ 29 := by norm_num) :
    let va := effAddr s x a i
    let u := tlbTouch (now s x) x.c (slot s x.c x.sl).hdr.part va
    let reaches (rc : Reach) : Prop := reach (now s x) x.c x.x (slot s x.c x.sl).hdr.part va false true = rc
    (∀ off, reaches (.own off) → regionOf s x.c off ≠ .workspace →
      Answers s x ins [a, r] (after w noFare x (pushed x u (.own off) (storeEntry s x r va n (sramPa x.c off) false false))))
    ∧ (∀ c off, reaches (.window c off) → x.poisoned s r.toNat = false → outsFull s x.c x.sl = false →
      Answers s x ins [a, r] (after w noFare x (countOuts (pushed x u (.window c off) (storeEntry s x r va n (sramPa c off) true true)) x.c x.sl)))
    ∧ (∀ c off, reaches (.window c off) → x.poisoned s r.toNat = true →
      Answers s x ins [a, r] (trapped x s { cause := .poison, addr := BitVec.ofNat 64 (2 ^ 63 + r.toNat) }))
    ∧ (∀ h, reaches (.hall h) → outsFull s x.c x.sl = false →
      Answers s x ins [a, r] (after w noFare x (countOuts (pushed x u (.hall h) (storeEntry s x r va n (hallPa h) false true)) x.c x.sl)))
    ∧ (∀ pa, reaches (.dram pa) → outsFull s x.c x.sl = false →
      Answers s x ins [a, r] (after w noFare x (countOuts (pushed x u (.dram pa) (storeEntry s x r va n pa false true)) x.c x.sl))) := by
  intro va u reaches
  have h := issuedBy_store hi he hc hm
  have hroom : (stream u x.c x.x).sb.length < 16 := by simpa [u] using hb
  have houts (ho : outsFull s x.c x.sl = false) : outsFull u x.c x.sl = false := by simpa [u] using ho
  have hbody (rc : Reach) (hrc : reaches rc) (hs : rc.isStorage = true) (k : State → Reach → Act) :
      access x (now s x) va n false true k = k u rc := by
    have := access_of_reach (k := k) ha (by rwa [slot_now]) hs
    rwa [slot_now] at this
  have hrd : x.rd (now s x) (rn r) = x.val s r := rd_now x s r
  have hpo : x.poisoned (now s x) (rn r) = x.poisoned s r.toNat := poisoned_now x s r
  refine ⟨fun off hrc hw => h.answers_next ?_, fun c off hrc hq ho => h.answers_next ?_, fun c off hrc hq => h.answers_trap ?_,
    fun o hrc ho => h.answers_next ?_, fun pa hrc ho => h.answers_next ?_⟩ <;> rw [storeAct, ea56_now, storeBody, hbody _ hrc rfl, hrd, hpo]
  · dsimp only
    rw [if_neg (by simpa [u] using hw), pushStore_of_room hroom (by simp)]
    rfl
  · dsimp only
    rw [if_neg (by simp [hq]), pushStore_of_room hroom fun _ => houts ho]
    rfl
  · dsimp only
    rw [if_pos hq]
    rfl
  · dsimp only
    rw [pushStore_of_room hroom fun _ => houts ho]
    rfl
  · dsimp only
    rw [pushStore_of_room hroom fun _ => houts ho]
    rfl

theorem store_misaligned (hi : exec ins s = store m w r a i s n) (he : encode ins = some (plc 29 w (plc 18 r (plc 13 a (plc 0 i m)))))
    (hc : Clean s x [a]) (ha : effAddr s x a i % n ≠ 0) (hm : m + 2 ^ 23 ≤ 2 ^ 29 := by norm_num) :
    Answers s x ins [a, r] (trapped x s { cause := .align, addr := BitVec.ofNat 64 (effAddr s x a i) }) := by
  refine (issuedBy_store hi he hc hm).answers_trap ?_
  rw [storeAct, ea56_now, storeBody, access_misaligned ha]
  rfl

theorem load_misaligned {ext : Nat → Word} (hi : exec ins s = load m w d a i s n ext)
    (he : encode ins = some (plc 29 w (plc 18 d (plc 13 a (plc 0 i m))))) (hd : destOk d = true) (hc : Clean s x [a])
    (ha : effAddr s x a i % n ≠ 0) (hm : m + 2 ^ 23 ≤ 2 ^ 29 := by norm_num) :
    Answers s x ins [a] (trapped x s { cause := .align, addr := BitVec.ofNat 64 (effAddr s x a i) }) := by
  intro hissue
  refine (issuedBy_load hi he hd hc hm).answers_trap ?_ hissue
  rw [loadAct, ea56_now, loadBody, got_eq_none hissue.2.1]
  exact access_misaligned ha

end

/-- Settles O11: a store enters the buffer by what its address reaches, and a misaligned access traps. -/
theorem storesAndAlignment : Obligations.StoresAndAlignment := by
  constructor
  · intro s x w r a i va p u q push entry hc hb
    simp only [List.forall_mem_cons, List.not_mem_nil, IsEmpty.forall_iff, implies_true, and_true]
    refine ⟨?_, ?_, ?_, ?_⟩
    · exact fun ha => answers_store (exec_sd w r a i s) rfl hc hb ha
    · exact fun ha => answers_store (exec_sw w r a i s) rfl hc hb ha
    · exact fun ha => answers_store (exec_sh w r a i s) rfl hc hb ha
    · exact fun ha => answers_store (exec_sb w r a i s) rfl hc hb ha
  · intro s x w d a i va T hc
    simp only [List.forall_mem_cons, List.not_mem_nil, IsEmpty.forall_iff, implies_true, and_true]
    refine ⟨fun hd => ⟨?_, ?_, ?_, ?_, ?_⟩, ?_, ?_, ?_⟩
    · exact fun ha => load_misaligned (exec_ld w d a i s) rfl hd hc ha
    · exact fun ha => load_misaligned (exec_lw w d a i s) rfl hd hc ha
    · exact fun ha => load_misaligned (exec_lwu w d a i s) rfl hd hc ha
    · exact fun ha => load_misaligned (exec_lh w d a i s) rfl hd hc ha
    · exact fun ha => load_misaligned (exec_lhu w d a i s) rfl hd hc ha
    · exact fun ha => store_misaligned (exec_sd w d a i s) rfl hc ha
    · exact fun ha => store_misaligned (exec_sw w d a i s) rfl hc ha
    · exact fun ha => store_misaligned (exec_sh w d a i s) rfl hc ha

end Sys2Proof.Machine
end

section
/-! PROOFS. LFE and SFE of own SRAM (R117 to R119). -/

namespace Sys2Proof.Machine

-- One proof after the other: side by side they take more threads and memory than the check of the whole text has.
set_option Elab.async false

@[simp] theorem hasFull_now (s : State) (x : Ctx) (pa : Nat) : hasFull (now s x) pa = hasFull s pa := by
  simp only [hasFull, regionOf_now]

section
variable {x : Ctx} {s : State} {va n d off : Nat}

/-- A full/empty access of this core's own data and ring regions names its granule. -/
theorem fullEmptyPlace_own (hva : 0x00FFFEFFFFFFFFFF < va) (hr : reach s x.c x.x (slot s x.c x.sl).hdr.part va true true = .own off)
    (hf : hasFull s (sramPa x.c off) = true) : fullEmptyPlace x s va = some (.own off) := by
  rw [fullEmptyPlace, if_neg (by omega), hr]
  exact if_pos hf

theorem lfeBody_own {clear : Bool} (hreply : x.reply = none) (ha : va % n = 0) (hp : fullEmptyPlace x s va = some (.own off))
    (hfull : (findErrors s (sramPa x.c off) n 4 (ecxOf s x.c x.sl)).full.contains (sramPa x.c off / 16) = true)
    (hpoison : (findErrors s (sramPa x.c off) n 4 (ecxOf s x.c x.sl)).poison.contains (sramPa x.c off / 16) = false)
    (hfwd : forward (stream s x.c x.x).sb (sramPa x.c off) n = .none) :
    let v := chargeAccess x (findErrors s (sramPa x.c off) n 4 (ecxOf s x.c x.sl)) (.own off)
    lfeBody x s va n d clear = .next (x.wr (if clear then setFull v [sramPa x.c off / 16] false else v) d
      (BitVec.ofNat 64 (rdN s.mem (sramPa x.c off) n)) 3) := by
  rw [lfeBody, got_eq_none hreply]
  dsimp only
  rw [if_neg (not_not.mpr ha), hp]
  dsimp only [Reach.pa, Option.getD_some]
  simp only [hfull, hpoison, stream_findErrors, hfwd, mem_findErrors, if_true, Bool.false_eq_true, if_false]

/-- The entry of an SFE of own SRAM. -/
def sfeEntry (x : Ctx) (off va n : Nat) (v : Word) (fill : Bool) : SbEntry :=
  { slot := x.sl, op := .sfe fill, va := BitVec.ofNat 64 va, pa := some (sramPa x.c off), size := n, val := v, poison := false, window := false,
    counted := false }

theorem sfeBody_own {v : Word} {fill : Bool} (ha : va % n = 0) (hp : fullEmptyPlace x s va = some (.own off)) :
    sfeBody x s va n v fill = pushStore x s (sfeEntry x off va n v fill) (chargeAccess x · (.own off)) := by
  rw [sfeBody, if_neg (not_not.mpr ha), hp]
  rfl
end

/-- Settles O12: both name the granule through the own core's SRAM; LFE reads it, SFE enters the store buffer. -/
theorem fullEmptyAccesses : Obligations.FullEmptyAccesses := by
  intro s x w d a c z o off va n pa p u v hva ha hreach hhas
  have hfe := feImm_toNat c z o
  have hplace : fullEmptyPlace x (now s x) va = some (.own off) :=
    fullEmptyPlace_own hva (by rwa [slot_now]) (by rwa [hasFull_now])
  have hea : ea56 (x.rd (now s x) (rn a) + BitVec.ofNat 64 o.toNat) = va := by rw [rn, rd_now]; rfl
  refine ⟨fun hd hc hfull hpoison hfwd hissue => ?_, fun hc hb => ?_⟩
  · have h : IssuedBy s x (.lfe w d a c z o) [a] w noFare _ _ :=
      { exec := exec_lfe w d a c z o s
        legal := hd
        word := congrArg some (by simp only [wordI, plc, hfe]; omega)
        sync := poisoned_now_of_clean hc }
    refine h.answers_next ?_ hissue
    rw [hea, lfeBody_own hissue.2.1 ha hplace (by simpa [u] using hfull) (by simpa [u] using hpoison) (by simpa using hfwd)]
    simp only [ecxOf_now, beq_iff_eq, rn, v, u, pa, n]
  · have h : IssuedBy s x (.sfe w d a c z o) [a, d] w noFare _ _ :=
      { exec := exec_sfe w d a c z o s
        word := congrArg some (by simp only [wordI, plc, hfe]; omega)
        sync := poisoned_now_of_clean hc }
    refine h.answers_next ?_
    rw [hea, sfeBody_own ha hplace, pushStore_of_room (by simpa using hb) (by simp [sfeEntry])]
    simp only [rn, rd_now]
    rfl

end Sys2Proof.Machine
end

section
/-! PROOFS. The PRED instructions (R96, R97). -/

namespace Sys2Proof.Machine

-- One proof after the other: side by side they take more threads and memory than the check of the whole text has.
set_option Elab.async false

/-! ## Bits of P by elements (R96) -/

theorem ecount_cases (z : BitVec 2) : ecount z = 256 ∨ ecount z = 128 ∨ ecount z = 64 ∨ ecount z = 32 := by
  revert z
  decide

theorem predOfElems_get (z : BitVec 2) (f : Nat → Bool) {k : Nat} (hk : k < 256) : (predOfElems z f).getLsbD k = f (k / 2 ^ z.toNat) := by
  rw [predOfElems, BitVec.getLsbD_ofNat, bitsBelow_get, decide_eq_true hk, Bool.true_and, Bool.true_and]
  rfl

theorem predOfBits_get (f : Nat → Bool) {k : Nat} (hk : k < 256) : (BitVec.ofNat 256 (bitsBelow 256 f)).getLsbD k = f k := by
  rw [BitVec.getLsbD_ofNat, bitsBelow_get, decide_eq_true hk, Bool.true_and, Bool.true_and]

/-! ## Instructions on P and registers -/

section
variable {i : Instr} {fn : Nat} {w : BitVec 3} {d a : BitVec 5} {z : BitVec 2} {s : State} {x : Ctx}

/-- The state after P is set. -/
def predSet (w : BitVec 3) (x : Ctx) (s : State) (q : BitVec 256) : State := after w 0 x (setPred (now s x) x.c x.sl q)

def predPAct (z : BitVec 2) (f : BitVec 256 → Nat → Bool) (x : Ctx) (s : State) : Act :=
  .next (setPred s x.c x.sl (predOfElems z (f (predOf s x.c x.sl))))
theorem predP_eq (f : BitVec 256 → Nat → Bool) :
    predP fn w z s f = issue { word := wordP (0x14800000 + 8 * fn) w 0 0 0 z } s (predPAct z f) := rfl

/-- An instruction on P alone sets every element as its function says. -/
theorem sets_predP {f : BitVec 256 → Nat → Bool} (hi : exec i s = predP fn w z s f)
    (he : encode i = some (plc 29 w (plc 0 z (0x14800000 + 8 * fn)))) (hfn : fn < 32) : ∃ q : BitVec 256,
    (∀ k, k < 256 → q.getLsbD k = f (predOf s x.c x.sl) (k / 2 ^ z.toNat)) ∧ Answers s x i [] (predSet w x s q) := by
  have h : IssuedBy s x i [] w 0 _ _ :=
    { exec := hi.trans (predP_eq f)
      word := he.trans (congrArg some (by simp only [wordP, word3, plc, BitVec.ofNat_eq_ofNat, BitVec.toNat_zero]; omega))
      wait := by simp only [wordP, word3, BitVec.ofNat_eq_ofNat, BitVec.toNat_zero]; omega }
  refine ⟨_, fun k hk => predOfElems_get z _ hk, h.answers_next ?_⟩
  rw [predPAct, predOf_now]

def predRAct (d : BitVec 5) (z : BitVec 2) (f : List Nat → Word) (x : Ctx) (s : State) : Act :=
  .next (x.wr s (rn d) (f ((List.range (ecount z)).filter (elem z (predOf s x.c x.sl)))))
theorem predR_eq (f : List Nat → Word) :
    predR fn w d z s f = issue { word := wordP (0x14800000 + 8 * fn) w d 0 0 z, legal := destOk d } s (predRAct d z f) := rfl

/-- An instruction with a register result from the active elements. -/
theorem answers_predR {f : List Nat → Word} {v : Word} (hi : exec i s = predR fn w d z s f)
    (he : encode i = some (plc 29 w (plc 18 d (plc 0 z (0x14800000 + 8 * fn))))) (hfn : fn < 32) (hd : destOk d = true)
    (hv : f ((List.range (ecount z)).filter (elem z (predOf s x.c x.sl))) = v) : Answers s x i [] (after w 0 x (x.wr (now s x) d.toNat v 0)) := by
  have h : IssuedBy s x i [] w 0 _ _ :=
    { exec := hi.trans (predR_eq f)
      word := he.trans (congrArg some (by simp only [wordP, word3, plc, BitVec.ofNat_eq_ofNat, BitVec.toNat_zero]; omega))
      legal := hd
      wait := by simp only [wordP, word3, BitVec.ofNat_eq_ofNat, BitVec.toNat_zero]; omega }
  refine h.answers_next ?_
  rw [predRAct, predOf_now, hv]

/-! ## Masks in memory (R97) -/

theorem sramPa_sub_base (c off : Nat) : sramPa c off - sramBase c = off := by simp [sramPa]

section mask
variable {va n off : Nat} (ha : va % n = 0) (hva : 0x00FFFEFFFFFFFFFF < va)
  (hr : reach s x.c x.x (slot s x.c x.sl).hdr.part va true false = .own off)
include ha hva hr

theorem maskPlace_own (k : Nat → Act) : maskPlace x s va n k = k (sramPa x.c off) := by
  rw [maskPlace, if_neg (not_not.mpr ha), if_neg (by omega), hr]

theorem readMask_own {k : State → Nat → Act} (hl : s.latent = []) (he : s.softErr = []) (hm : pendMet x s off n = false)
    (hp : ∀ g ∈ granules (sramPa x.c off) n, s.poison.contains g = false) (hf : forward (stream s x.c x.x).sb (sramPa x.c off) n = .none) :
    readMask x s va n k = k s (rdN s.mem (sramPa x.c off) n) := by
  have herr : findErrors s (sramPa x.c off) n 4 (ecxOf s x.c x.sl) = s := by simp [findErrors, hl, he]
  have hfind : (granules (sramPa x.c off) n).find? (fun g => s.poison.contains g) = none := by
    rw [List.find?_eq_none]
    exact fun g hg => by rw [hp g hg]; simp
  rw [readMask, maskPlace_own ha hva hr, sramPa_sub_base, hm, if_neg Bool.false_ne_true, hf]
  dsimp only
  rw [herr, hfind]
end mask

def predMaskAct (a : BitVec 5) (z : BitVec 2) (f : Bool → Bool → Bool) (x : Ctx) (s : State) : Act :=
  readMask x s (ea56 (x.rd s (rn a))) (ecount z / 8) fun s m =>
    .next (setPred s x.c x.sl (predOfElems z fun i => f (elem z (predOf s x.c x.sl) i) (m.testBit i)))
theorem predMask_eq (f : Bool → Bool → Bool) : predMask fn w a z s f
    = issue { word := wordP (0x14800000 + 8 * fn) w 0 a 0 z, reads := [rn a], sync := [rn a] } s (predMaskAct a z f) := rfl

/-- An instruction that combines P with a mask of own SRAM. -/
theorem sets_predMask {f : Bool → Bool → Bool} {off : Nat} (hi : exec i s = predMask fn w a z s f)
    (he : encode i = some (plc 29 w (plc 13 a (plc 0 z (0x14800000 + 8 * fn))))) (hfn : fn < 32) (hc : Clean s x [a])
    (hread : ∀ k : State → Nat → Act, readMask x (now s x) ((x.val s a).toNat % 2 ^ 56) (256 / 2 ^ z.toNat / 8) k
      = k (now s x) (rdN (now s x).mem (sramPa x.c off) (256 / 2 ^ z.toNat / 8))) : ∃ q : BitVec 256,
    (∀ k, k < 256 → q.getLsbD k = f ((predOf s x.c x.sl).getLsbD (2 ^ z.toNat * (k / 2 ^ z.toNat)))
      ((rdN (now s x).mem (sramPa x.c off) (256 / 2 ^ z.toNat / 8)).testBit (k / 2 ^ z.toNat)))
    ∧ Answers s x i [a] (predSet w x s q) := by
  have h : IssuedBy s x i [a] w 0 _ _ :=
    { exec := hi.trans (predMask_eq f)
      word := he.trans (congrArg some (by simp only [wordP, word3, plc, BitVec.ofNat_eq_ofNat, BitVec.toNat_zero]; omega))
      wait := by simp only [wordP, word3, BitVec.ofNat_eq_ofNat, BitVec.toNat_zero]; omega
      sync := poisoned_now_of_clean hc }
  refine ⟨_, fun k hk => predOfElems_get z (fun i => f (elem z (predOf s x.c x.sl) i) _) hk, h.answers_next ?_⟩
  have hva : ea56 (x.rd (now s x) (rn a)) = (x.val s a).toNat % 2 ^ 56 := by rw [rn, rd_now]; rfl
  rw [predMaskAct, hva]
  refine (hread _).trans ?_
  rw [predOf_now]

/-! ## A mask stored (R97) -/

theorem maskEntries_length (x : Ctx) (va pa n v : Nat) : (maskEntries x va pa n v).length = max 1 (n / 8) := by simp [maskEntries]

theorem maskEntries_places (x : Ctx) (va pa n v : Nat) : ((maskEntries x va pa n v).map fun e => (e.pa, e.size))
    = (List.range (max 1 (n / 8))).map fun j => (some (pa + 8 * j), min n 8) := by
  rw [maskEntries, List.map_map]
  rfl

/-- Entry `i / 64` holds bit `i` of the mask at bit `i % 64`. -/
theorem maskEntries_bits (x : Ctx) (va pa n v : Nat) {i : Nat} (hi : i / 64 < max 1 (n / 8)) :
    (((maskEntries x va pa n v).map (·.val)).getD (i / 64) 0).getLsbD (i % 64) = v.testBit i := by
  have hval : ((maskEntries x va pa n v).map (·.val)).getD (i / 64) 0 = BitVec.ofNat 64 (v / 2 ^ (64 * (i / 64))) := by
    simp [maskEntries, hi]
  rw [hval, BitVec.getLsbD_ofNat, decide_eq_true (Nat.mod_lt i (by norm_num)), Bool.true_and, Nat.testBit_div_two_pow]
  congr 1
  omega

end

/-- Settles O13: each form by its bits, its count, or the place of its mask. -/
theorem predicateResults : Obligations.PredicateResults := by
  intro s x w d a b z n P active W Sets q va
  refine ⟨?_, ?_, ?_, fun hc => ⟨?_, ?_⟩, fun hd => ⟨?_, ?_, fun hc => ?_⟩, fun hc ha hva off hr => ⟨fun hl he hm hp hf => ?_, fun hw hb => ?_⟩⟩
  · exact sets_predP (exec_psetall w z s) rfl (by omega)
  · exact sets_predP (exec_pclear w z s) rfl (by omega)
  · exact sets_predP (exec_pnot w z s) rfl (by omega)
  · have h : IssuedBy s x (.pwhile w a b z) [a, b] w 0 _ _ := { exec := exec_pwhile w a b z s, sync := poisoned_now_of_clean hc }
    refine ⟨_, fun k hk => predOfElems_get z (fun i => decide ((x.val s a).toInt + i < (x.val s b).toInt)) hk, h.answers_next ?_⟩
    simp only [rn, rd_now]
    rfl
  · have h : IssuedBy s x (.pput w a b z) [a, b] w 0 _ _ := { exec := exec_pput w a b z s, sync := poisoned_now_of_clean hc }
    refine ⟨_, fun k hk => predOfBits_get (fun k => if k / 2 ^ z.toNat / 64 = q then (x.val s b).getLsbD (k / 2 ^ z.toNat % 64) else P.getLsbD k) hk,
      h.answers_next ?_⟩
    simp only [rn, rd_now, predOf_now]
    rfl
  · exact answers_predR (exec_pcount w d z s) rfl (by omega) hd rfl
  · refine answers_predR (exec_pfirst w d z s) rfl (by omega) hd ?_
    have hfirst : (List.range n).find? active = ((List.range (ecount z)).filter (elem z P)).head? := (List.head?_filter ..).symm
    rw [hfirst]
    cases (List.range (ecount z)).filter (elem z P) <;> rfl
  · have h : IssuedBy s x (.pget w d a z) [a] w 0 _ _ := { exec := exec_pget w d a z s, legal := hd, sync := poisoned_now_of_clean hc }
    refine ⟨_, fun j hj => ofBits_get (fun j => decide (64 * q + j < n) && active (64 * q + j)) j hj, h.answers_next ?_⟩
    simp only [rn, rd_now, predOf_now]
    rfl
  · have hread (k : State → Nat → Act) : readMask x (now s x) va (n / 8) k = k (now s x) (rdN (now s x).mem (sramPa x.c off) (n / 8)) :=
      readMask_own ha hva (by rwa [slot_now]) (by rwa [latent_now]) (by rwa [softErr_now]) hm (by rwa [poison_now]) (by rwa [stream_now_sb])
    refine ⟨?_, ?_, ?_⟩
    · exact sets_predMask (exec_pload w a z s) rfl (by omega) hc hread
    · exact sets_predMask (exec_pandm w a z s) rfl (by omega) hc hread
    · exact sets_predMask (exec_porm w a z s) rfl (by omega) hc hread
  · have hn : n / 8 / 8 = n / 64 := Nat.div_div_eq_div_mul n 8 8
    let es := maskEntries x va (sramPa x.c off) (n / 8) (bitsBelow n active)
    have hlen : es.length = max 1 (n / 64) := by rw [maskEntries_length, hn]
    have h : IssuedBy s x (.pstore w a z) [a] w 0 _ _ := { exec := exec_pstore w a z s, sync := poisoned_now_of_clean hc }
    refine ⟨es, by rw [maskEntries_places, hn], fun i hi => ?_, h.answers_next ?_⟩
    · have hi64 : i / 64 < max 1 (n / 8 / 8) := by
        have := ecount_cases z
        change n = 256 ∨ n = 128 ∨ n = 64 ∨ n = 32 at this
        omega
      rw [maskEntries_bits _ _ _ _ _ hi64, bitsBelow_get, decide_eq_true hi, Bool.true_and]
    · have hea : ea56 (x.rd (now s x) (rn a)) = va := by rw [rn, rd_now]; rfl
      simp only [hea, predOf_now]
      refine (maskPlace_own ha hva (by rwa [slot_now]) _).trans ?_
      rw [sramPa_sub_base]
      rw [if_neg (by rwa [regionOf_now]), if_neg]
      · rfl
      · change ¬ 16 < (stream (now s x) x.c x.x).sb.length + es.length
        rw [hlen, stream_now_sb]
        omega

end Sys2Proof.Machine
end

section
/-! PROOFS. GOTO (R78, R82, R90). -/

namespace Sys2Proof.Machine

-- One proof after the other: side by side they take more threads and memory than the check of the whole text has.
set_option Elab.async false

/-! ## What a traveller's departure keeps of a slot -/

theorem slot_switchOut (s : State) (c : Nat) (x : Bool) (pc : Word) (c' sl : Nat) : slot (switchOut s c x pc) c' sl = slot s c' sl := by
  unfold switchOut
  split
  · rfl
  · next sl' _ =>
    obtain ⟨m, st, h, -⟩ := settleFlags_eq s c x sl' fun _ => true
    rw [h]
    rfl

theorem pair_chargeIssue (k : Nat) (x : Ctx) (s : State) : (slot (chargeIssue k x s) x.c x.sl).pair = (slot s x.c x.sl).pair := by
  obtain ⟨d, a, f, m, fare, h, hslot⟩ := chargeIssue_spec k x s
  rw [h, hslot, if_pos rfl]
  rfl

theorem pair_chargeTravAt (s : State) (c sl m k n : Nat) : (slot (chargeTravAt s c sl m k n) c sl).pair = (slot s c sl).pair := by
  obtain ⟨d, a, f, fare, h⟩ := chargeTravAt_eq s c sl m k n
  rw [h, slot_withFare, if_pos rfl]
  rfl

theorem pair_retireOut (x : Ctx) (s : State) (pc : Word) (fare : Nat) :
    (slot (retireOut x s pc fare) x.c x.sl).pair = (slot s x.c x.sl).pair := by
  rw [retireOut, slot_switchOut, slot_updSlot, if_pos rfl]
  exact pair_chargeIssue ..

/-! ## A destination found through the translations of the core -/

section
variable (s : State) (c p va : Nat)
@[simp] theorem cubeId_tlbTouch : cubeId (tlbTouch s c p va) = cubeId s := by
  obtain ⟨cs, h, -⟩ := tlbTouch_eq s c p va
  rw [h]; rfl
@[simp] theorem portRoom_tlbTouch : portRoom (tlbTouch s c p va) = portRoom s := by
  obtain ⟨cs, h, -⟩ := tlbTouch_eq s c p va
  rw [h]; rfl
@[simp] theorem barOut_tlbTouch (c' sl : Nat) : barOut (tlbTouch s c p va) c' sl = barOut s c' sl := by
  obtain ⟨cs, h, -⟩ := tlbTouch_eq s c p va
  rw [h]; rfl
@[simp] theorem stateOf_tlbTouch (c' sl : Nat) : stateOf (tlbTouch s c p va) c' sl = stateOf s c' sl := by
  simp only [stateOf, status, slot_tlbTouch, wsRd_tlbTouch]
@[simp] theorem slotsOf_tlbTouch (c' : Nat) : slotsOf (tlbTouch s c p va) c' = slotsOf s c' := by
  have hlive : liveSlots (tlbTouch s c p va) = liveSlots s := by
    obtain ⟨cs, h, -⟩ := tlbTouch_eq s c p va
    rw [h]; rfl
  simp only [slotsOf, hlive, stateOf_tlbTouch]
@[simp] theorem addressCore_tlbTouch (c' : Nat) : addressCore (tlbTouch s c p va) c' = addressCore s c' := by
  have h : isTwinCore (tlbTouch s c p va) c' = isTwinCore s c' := by simp only [isTwinCore, slotsOf_tlbTouch, slot_tlbTouch]
  rw [addressCore, addressCore, h]
@[simp] theorem enqBuf_tlbTouch (c' : Nat) : (core (tlbTouch s c p va) c').enqBuf = (core s c').enqBuf := by
  obtain ⟨t, h⟩ := core_tlbTouch s c p va c'
  rw [h]
@[simp] theorem hasCommands_tlbTouch (c' sl : Nat) : hasCommands (tlbTouch s c p va) c' sl = hasCommands s c' sl := by
  obtain ⟨t, h⟩ := core_tlbTouch s c p va c'
  simp only [hasCommands, recsOf_tlbTouch, hasLoop, tidOf, wsRd_tlbTouch, h]
@[simp] theorem moveRefused_tlbTouch (c' sl : Nat) : moveRefused (tlbTouch s c p va) c' sl = moveRefused s c' sl := by
  have h : holdOf (tlbTouch s c p va) c' sl = holdOf s c' sl := wsRd_tlbTouch ..
  rw [moveRefused, moveRefused, h, hasCommands_tlbTouch, slot_tlbTouch]
@[simp] theorem sbOf_tlbTouch (c' : Nat) (x : Bool) (sl : Nat) : sbOf (tlbTouch s c p va) c' x sl = sbOf s c' x sl := by
  rw [sbOf, sbOf, stream_tlbTouch]
end

/-- Where nothing of the traveller is left to drain, nothing is after a look-up either. -/
theorem drainStep_tlbTouch_eq_none {s : State} {x : Ctx} (h : drainStep s x = none) (c p va : Nat) :
    drainStep (tlbTouch s c p va) x = none := by
  rw [drainStep] at h ⊢
  rw [sbOf_tlbTouch, barOut_tlbTouch]
  by_cases hq : ((sbOf s x.c x.x x.sl).isEmpty && !barOut s x.c x.sl) = true
  · exact if_pos hq
  · rw [if_neg hq] at h
    cases h

@[simp] theorem moveRefused_now (s : State) (x : Ctx) : moveRefused (now s x) x.c x.sl = moveRefused s x.c x.sl := by
  simp only [moveRefused, holdOf_now, hasCommands_now, slot_now]

/-! ## GOTO -/

/-- What GOTO does once its destination is known (R78, R82). -/
def gotoPlace (x : Ctx) (s : State) (dc cube va : Nat) : Act :=
  if dc = addressCore s x.c ∧ cube = cubeId s then
    match drainStep s x with | some s' => .hold s' | none => .next s
  else migrateAct x s drainStep va dc cube x.pc

theorem gotoPlace_here {x : Ctx} {s : State} {dc cube va : Nat} (h : dc = addressCore s x.c ∧ cube = cubeId s) (hd : drainStep s x = none) :
    gotoPlace x s dc cube va = .next s := by
  simp only [gotoPlace, if_pos h, hd]

theorem gotoPlace_away {x : Ctx} {s : State} {dc cube va : Nat} (h : ¬ (dc = addressCore s x.c ∧ cube = cubeId s)) :
    gotoPlace x s dc cube va = migrateAct x s drainStep va dc cube x.pc := if_neg h

/-- What GOTO does: field 24 names the base core, another one an address. -/
def gotoAct (a : BitVec 5) (x : Ctx) (s : State) : Act :=
  if a = 24 then
    if (slot s x.c x.sl).hdr.bcube = cubeId s ∧ inPartition s (slot s x.c x.sl).hdr.bcore (slot s x.c x.sl).hdr.part = false
    then .trap (trapAt .bounds 0) else gotoPlace x s (slot s x.c x.sl).hdr.bcore (slot s x.c x.sl).hdr.bcube 0
  else match moveHome s x.c x.x (slot s x.c x.sl).hdr.part (ea56 (x.rd s (rn a))) with
    | .trap t => .trap t
    | .miss => .park 6 (.walk (BitVec.ofNat 64 (ea56 (x.rd s (rn a))))) (askWalk s x.c x.sl (slot s x.c x.sl).hdr.part (ea56 (x.rd s (rn a))))
    | .found k => gotoPlace x (tlbTouch s x.c (slot s x.c x.sl).hdr.part (ea56 (x.rd s (rn a)))) k.core k.cube (ea56 (x.rd s (rn a)))

theorem goto_eq (w : BitVec 3) (a : BitVec 5) (s : State) : execGoto w a s = task 2 w 0 a 0 [rn a] s (gotoAct a) := rfl

/-- The destination that a GOTO finds. -/
theorem gotoAct_place {x : Ctx} {s : State} {a : BitVec 5} {dc cube va : Nat}
    (h : (a = 24 ∧ dc = (slot s x.c x.sl).hdr.bcore ∧ cube = (slot s x.c x.sl).hdr.bcube ∧ va = 0
          ∧ (cube = cubeId s → inPartition s dc (slot s x.c x.sl).hdr.part = true))
        ∨ (a ≠ 24 ∧ va = ea56 (x.rd s (rn a)) ∧ ∃ k, moveHome s x.c x.x (slot s x.c x.sl).hdr.part va = .found k ∧ k.core = dc ∧ k.cube = cube)) :
    gotoAct a x s = gotoPlace x (if a = 24 then s else tlbTouch s x.c (slot s x.c x.sl).hdr.part va) dc cube va := by
  rcases h with ⟨ha, rfl, rfl, rfl, hpart⟩ | ⟨ha, rfl, k, hk, rfl, rfl⟩
  · rw [gotoAct, if_pos ha, if_pos ha, if_neg fun hc => by simp [hpart hc.1] at hc]
  · rw [gotoAct, if_neg ha, if_neg ha, hk]

theorem inPartition_now (s : State) (x : Ctx) (c p : Nat) : inPartition (now s x) c p = inPartition s c p :=
  now_congr s x (fun t => inPartition t c p) fun _ _ _ => rfl

/-- A traveller that may leave and has nothing outstanding is under way (R78). -/
theorem migrateAct_leaves {x : Ctx} {s : State} {va dc cube : Nat} {pc : Word} (hr : moveRefused s x.c x.sl = false)
    (hd : drainStep s x = none) (houts : (slot s x.c x.sl).outs = 0) (henq : ∀ q ∈ (core s x.c).enqBuf, q.slot ≠ x.sl)
    (hpair : (slot s x.c x.sl).pair = false) (hport : cube ≠ cubeId s → portRoom s = true) :
    let mv : Move := { core := dc, cube := cube, addr := BitVec.ofNat 64 va }
    let v := chargeTravAt s x.c x.sl (if cube = cubeId s then meterOf x.c else 1384) 31 2
    let m := updSlot (setState (retireOut x v pc 99) x.c x.sl .migrating) x.c x.sl fun k => { k with move := some mv, sbo := none }
    migrateAct x s drainStep va dc cube pc = .leave { m with flights := m.flights ++ [.traveller (pack m x.c x.sl mv) x.c x.sl] } := by
  intro mv v m
  have hm : (slot m x.c x.sl).pair = false := by
    have h1 : (slot m x.c x.sl).pair = (slot (setState (retireOut x v pc 99) x.c x.sl .migrating) x.c x.sl).pair := by
      rw [show m = updSlot _ x.c x.sl _ from rfl, slot_updSlot, if_pos rfl]
    have h2 : slot (setState (retireOut x v pc 99) x.c x.sl .migrating) x.c x.sl = slot (retireOut x v pc 99) x.c x.sl := rfl
    rw [h1, h2, pair_retireOut, pair_chargeTravAt, hpair]
  have hq : ¬ ((slot s x.c x.sl).outs ≠ 0 ∨ ((core s x.c).enqBuf.any fun q => q.slot = x.sl) = true) := by
    simpa [houts] using henq
  have hp : ¬ (cube ≠ cubeId s ∧ portRoom s = false) := fun h => by simp [hport h.1] at h
  rw [migrateAct, hr, hd]
  simp only [Bool.false_eq_true, if_false]
  rw [if_neg hq, if_neg hp, if_neg (show ¬ (slot m x.c x.sl).pair = true by simp [hm])]

/-- Settles O17: the destination is the base core or what the address names; there the GOTO goes on, from elsewhere it traps or leaves. -/
theorem migration : Obligations.Migration := by
  intro s x w a dc cube va h u u' here mv v m hdest hc hdr
  have hgoto : IssuedBy s x (.goto w a) [a] w 0 _ _ :=
    { exec := ((exec_goto w a s).trans (goto_eq w a s)).trans (task_eq ..), sync := poisoned_now_of_clean hc }
  have hplace : gotoAct a x u = gotoPlace x u' dc cube va := by
    have hh : (slot u x.c x.sl).hdr = h := by rw [slot_now]
    refine (gotoAct_place ?_).trans (by rw [hh])
    rw [hh, cubeId_now, inPartition_now, rn, rd_now]
    exact hdest
  obtain ⟨hcube, haddr, hdrain, href, hslot, henq, hroom⟩ : cubeId u' = cubeId s ∧ addressCore u' x.c = addressCore u x.c
      ∧ drainStep u' x = none ∧ moveRefused u' x.c x.sl = moveRefused s x.c x.sl ∧ slot u' x.c x.sl = slot s x.c x.sl
      ∧ (core u' x.c).enqBuf = (core s x.c).enqBuf ∧ portRoom u' = portRoom s := by
    have hdrain := drainStep_now_of_drained hdr
    simp only [u']
    split
    · exact ⟨cubeId_now .., rfl, hdrain, moveRefused_now .., slot_now .., by rw [core_now], portRoom_now ..⟩
    · exact ⟨by simp [u], by simp, drainStep_tlbTouch_eq_none hdrain _ _ _, by simp [u], by simp [u], by simp [u, core_now], by simp [u]⟩
  have hhere : here ↔ dc = addressCore u' x.c ∧ cube = cubeId u' := by rw [hcube, haddr]
  refine ⟨fun hh => ?_, fun hh hmr => ?_, fun hh hmr houts hbuf hpair hport => ?_⟩
  · exact hgoto.answers_next (hplace.trans (gotoPlace_here (hhere.mp hh) hdrain))
  · refine hgoto.answers_trap (hplace.trans ?_)
    rw [gotoPlace_away (mt hhere.mpr hh), migrateAct, href, hmr]
    rfl
  · refine hgoto.answers_leave (hplace.trans ((gotoPlace_away (mt hhere.mpr hh)).trans ?_))
    refine (migrateAct_leaves (href.trans hmr) hdrain (by rw [hslot, houts]) (by rw [henq]; exact hbuf) (by rw [hslot, hpair])
      (by rw [hcube, hroom]; exact hport)).trans ?_
    rw [hcube]

end Sys2Proof.Machine
end

section
/-! PROOFS. SPAWN, PUSHT, POPT, SPAWNAT and WAKE (R83, R84, R91 to R94). -/

namespace Sys2Proof.Machine

-- One proof after the other: side by side they take more threads and memory than the check of the whole text has.
set_option Elab.async false

/-! ## Records in own SRAM (R83, R114) -/

/-- The address in a register, as an instruction that issues reads it. -/
theorem ea56_rd_now (s : State) (x : Ctx) (a : BitVec 5) : ea56 (x.rd (now s x) (rn a)) = (x.val s a).toNat % 2 ^ 56 := by
  rw [rn, rd_now]
  rfl

theorem findErrors_of_noErrors {s : State} (hl : s.latent = []) (he : s.softErr = []) (pa n kind ecx : Nat) :
    findErrors s pa n kind ecx = s := by
  simp [findErrors, hl, he]

@[simp] theorem poisonIn_now (s : State) (x : Ctx) (pa n va : Nat) : poisonIn (now s x) pa n va = poisonIn s pa n va := by
  simp only [poisonIn, poison_now]

section record
variable {s : State} {x : Ctx} {va n pa : Nat}

/-- A record that can be read is. -/
theorem readLocal_of_reads (h : ReadsRecord s x va n pa) (k : State → List Byte → Act) :
    readLocal x (now s x) pa n va k = k (now s x) (rdBytes (now s x).mem pa n) := by
  obtain ⟨-, hstep, hl, he, hp⟩ := h
  rw [readLocal, hstep]
  dsimp only
  rw [findErrors_of_noErrors ((latent_now s x).trans hl) ((softErr_now s x).trans he), poisonIn_now, hp]

theorem withRecord_of_reads (ha : va % 64 = 0) (h : ReadsRecord s x va 64 pa) (hok : recordOk (rdBytes (now s x).mem pa 64) = true)
    (word : Nat) (k : State → Task → Act) :
    withRecord x (now s x) va word k = k (now s x) (taskOf (now s x) x.c x.sl (rdBytes (now s x).mem pa 64)) := by
  rw [withRecord, if_neg (not_not.mpr ha), h.1]
  dsimp only
  rw [readLocal_of_reads h, if_pos hok]

end record

/-! ## Counting a task leaves the slots -/

@[simp] theorem slot_rowSet (s : State) (pa hi lo v c sl : Nat) : slot (rowSet s pa hi lo v) c sl = slot s c sl :=
  slot_findErrors s pa 32 4 0 c sl

@[simp] theorem slot_increment (s : State) (p e c sl : Nat) : slot (increment s p e) c sl = slot s c sl := by
  unfold increment
  split
  · rfl
  · exact slot_rowSet ..

@[simp] theorem slot_countTask_up (s : State) (t : Task) (c sl : Nat) : slot (countTask s t true) c sl = slot s c sl := by
  unfold countTask
  split
  · rfl
  · unfold countAt
    split
    · rfl
    · split
      · exact slot_increment ..
      · rfl

theorem mate_taskOf (s : State) (c sl : Nat) (bs : List Byte) : (taskOf s c sl bs).mate.isSome = (slot s c sl).pair := by
  unfold taskOf
  dsimp only
  cases (slot s c sl).pair <;> rfl

/-! ## SPAWN and PUSHT -/

def pushAct (fn : Nat) (w : BitVec 3) (d a : BitVec 5) (put : List Task → Task → List Task) (x : Ctx) (s : State) : Act :=
  withRecord x s (ea56 (x.rd s (rn a))) (word3 (0x15000000 + fn) w d a 0) fun s t =>
    if 64 ≤ ((core s x.c).deque).length then .next (x.wr s (rn d) 1)
    else if countPort s t.lcube t.lslot then .park 6 .port s
    else .next (x.wr (updSlot (updCore (countTask s t true) x.c fun k => { k with deque := put k.deque t }) x.c x.sl
      fun k => { k with kids := if t.mate.isSome then k.kids + 1 else k.kids }) (rn d) 0)

def pushIssue (fn : Nat) (w : BitVec 3) (d a : BitVec 5) : Issue :=
  { word := word3 (0x15000000 + fn) w d a 0, legal := destOk d, reads := [rn a], sync := [rn a] }
theorem push_eq (fn : Nat) (w : BitVec 3) (d a : BitVec 5) (s : State) (put : List Task → Task → List Task) :
    push fn w d a s put = issue (pushIssue fn w d a) s (pushAct fn w d a put) := rfl

section push
variable {s : State} {x : Ctx} {i : Instr} {fn : Nat} {w : BitVec 3} {d a : BitVec 5} {pa : Nat} {put : List Task → Task → List Task}

theorem issuedBy_push (hi : exec i s = push fn w d a s put) (he : encode i = some (plc 29 w (plc 18 d (plc 13 a (0x15000000 + fn)))))
    (hfn : fn < 256) (hd : destOk d = true) (hc : Clean s x [a]) : IssuedBy s x i [a] w 0 (pushIssue fn w d a) (pushAct fn w d a put) where
  exec := hi.trans (push_eq ..)
  word := he.trans (congrArg some (by simp only [pushIssue, word3, plc, BitVec.ofNat_eq_ofNat, BitVec.toNat_zero]; omega))
  wait := by simp only [pushIssue, word3, BitVec.ofNat_eq_ofNat, BitVec.toNat_zero]; omega
  legal := hd
  rounds := by simp [pushIssue]
  level := by simp [pushIssue]
  sync := poisoned_now_of_clean hc

section
variable (h : IssuedBy s x i [a] w 0 (pushIssue fn w d a) (pushAct fn w d a put)) (ha : (x.val s a).toNat % 2 ^ 56 % 64 = 0)
  (hr : ReadsRecord s x ((x.val s a).toNat % 2 ^ 56) 64 pa) (hok : recordOk (rdBytes (now s x).mem pa 64) = true)
include h ha hr hok

theorem push_of_full (hq : 64 ≤ (core s x.c).deque.length) : Answers s x i [a] (after w 0 x (x.wr (now s x) d.toNat 1 0)) := by
  refine h.answers_next ?_
  rw [pushAct, ea56_rd_now, withRecord_of_reads ha hr hok, core_now, if_pos hq, rn]

theorem push_of_room (hq : (core s x.c).deque.length < 64) {t : Task} (ht : t = taskOf (now s x) x.c x.sl (rdBytes (now s x).mem pa 64))
    (hp : countPort s t.lcube t.lslot = false) :
    Answers s x i [a] (after w 0 x (x.wr (updSlot (updCore (countTask (now s x) t true) x.c fun k => { k with deque := put k.deque t }) x.c x.sl
      fun k => { k with kids := if (slot s x.c x.sl).pair then k.kids + 1 else k.kids }) d.toNat 0 0)) := by
  refine h.answers_next ?_
  have hm : t.mate.isSome = (slot s x.c x.sl).pair := by rw [ht, mate_taskOf, slot_now]
  rw [pushAct, ea56_rd_now, withRecord_of_reads ha hr hok, ← ht, core_now, if_neg (Nat.not_le.mpr hq), countPort_now, hp,
    if_neg Bool.false_ne_true, hm, rn]
end
end push

/-! ## POPT -/

def poptAct (d a : BitVec 5) (x : Ctx) (s : State) : Act :=
  if ea56 (x.rd s (rn a)) % 64 ≠ 0 then .trap (trapAt .align (ea56 (x.rd s (rn a))))
  else match localPlace x s (ea56 (x.rd s (rn a))) 64 with
    | none => .trap (trapAt .bounds (ea56 (x.rd s (rn a))))
    | some pa =>
      match (core s x.c).deque with
      | [] => .next (x.wr s (rn d) 0)
      | t :: ts =>
        match drainAll s x with
        | some s' => .hold s'
        | none =>
          if pendMet x s (pa - sramPa x.c 0) 64 then .hold s
          else if countPort s t.lcube t.lslot then .park 6 .port s
          else .next (x.wr (countTask (writeBytes (updCore s x.c fun k => { k with deque := ts }) pa (t.bytes.map fun b => (b, false))) t false) (rn d) 1)

theorem popt_eq (w : BitVec 3) (d a : BitVec 5) (s : State) : execPopt w d a s
    = issue { word := word3 0x15000006 w d a 0, legal := destOk d, reads := [rn a], sync := [rn a] } s (poptAct d a) := rfl

/-! ## SPAWNAT and WAKE -/

def spawnatAct (w : BitVec 3) (a b : BitVec 5) (x : Ctx) (s : State) : Act :=
  let vb := ea56 (x.rd s (rn b))
  let p := (slot s x.c x.sl).hdr.part
  withRecord x s (ea56 (x.rd s (rn a))) (word3 0x15000004 w 0 a b) fun s t =>
    let counted (s : State) : State := countTask s t true
    let t := { t with saddr := BitVec.ofNat 64 vb, mate := none, twin := false }
    match moveHome s x.c x.x p vb with
    | .trap t => .trap t
    | .miss => .park 6 (.walk (BitVec.ofNat 64 vb)) (askWalk s x.c x.sl p vb)
    | .found h =>
      let s := tlbTouch s x.c p vb
      if outsFull s x.c x.sl then .hold (drainOne s x.c x.x)
      else if countPort s t.lcube t.lslot then .park 6 .port s
      else if h.cube = cubeId s then
        let s := chargeTrav (countOuts (counted s) x.c x.sl) x.c x.sl 31 1
        let f : Flight := .task t h.core (some (x.c, x.sl))
        if (slot s x.c x.sl).pair then .next (escSend s x.c x.sl 1 t.saddr t.bytes (.flight f))
        else .next { s with flights := s.flights ++ [f] }
      else if !portRoom s then .park 6 .port s
      else
        let s := chargeTravAt (countOuts (counted s) x.c x.sl) x.c x.sl 1384 31 1
        .next (post s { pkt := { packetOf s x.c x.sl 1 h.cube (.task t) with
          addr := 2 ^ 54 + h.cube * 2 ^ 41 + h.core * 2 ^ 28, total := 128 }, who := some (x.c, x.sl), counted := true })

theorem spawnat_eq (w : BitVec 3) (a b : BitVec 5) (s : State) : execSpawnat w a b s
    = issue { word := word3 0x15000004 w 0 a b, legal := destOk 0, reads := [rn a, rn b], sync := [rn a, rn b] } s (spawnatAct w a b) := rfl

@[simp] theorem countPort_tlbTouch (s : State) (c p va cube e : Nat) : countPort (tlbTouch s c p va) cube e = countPort s cube e := by
  simp only [countPort, cubeId_tlbTouch, portRoom_tlbTouch]

/-- Where the task has a place on this cube, SPAWNAT sends it there. -/
theorem spawnatAct_sends {s : State} {x : Ctx} {w : BitVec 3} {a b : BitVec 5} {pa : Nat} {k : HomeInfo} {t : Task}
    (ha : (x.val s a).toNat % 2 ^ 56 % 64 = 0) (hr : ReadsRecord s x ((x.val s a).toNat % 2 ^ 56) 64 pa)
    (hok : recordOk (rdBytes (now s x).mem pa 64) = true) (ht : t = taskOf (now s x) x.c x.sl (rdBytes (now s x).mem pa 64))
    (ho : outsFull s x.c x.sl = false) (hpair : (slot s x.c x.sl).pair = false) (hp : countPort s t.lcube t.lslot = false)
    (hk : moveHome (now s x) x.c x.x (slot s x.c x.sl).hdr.part ((x.val s b).toNat % 2 ^ 56) = .found k) (hcube : k.cube = cubeId s) :
    let vb := (x.val s b).toNat % 2 ^ 56
    let v := chargeTrav (countOuts (countTask (tlbTouch (now s x) x.c (slot s x.c x.sl).hdr.part vb) t true) x.c x.sl) x.c x.sl 31 1
    spawnatAct w a b x (now s x) = .next { v with
      flights := v.flights ++ [.task { t with saddr := BitVec.ofNat 64 vb, mate := none, twin := false } k.core (some (x.c, x.sl))] } := by
  intro vb v
  have hvpair : (slot v x.c x.sl).pair = false := by
    have h : (slot v x.c x.sl).pair = (slot (countOuts (countTask (tlbTouch (now s x) x.c _ vb) t true) x.c x.sl) x.c x.sl).pair :=
      pair_chargeTravAt ..
    rw [h, countOuts, slot_updSlot, if_pos rfl]
    simpa using hpair
  rw [spawnatAct, ea56_rd_now, ea56_rd_now, slot_now]
  dsimp only
  rw [withRecord_of_reads ha hr hok, ← ht, hk]
  dsimp only
  rw [outsFull_tlbTouch, outsFull_now, ho, countPort_tlbTouch, countPort_now, hp, cubeId_tlbTouch, cubeId_now, if_neg Bool.false_ne_true,
    if_neg Bool.false_ne_true, if_pos hcube]
  exact if_neg (show ¬ (slot v x.c x.sl).pair = true by simp [hvpair])

def wakeAct (a b : BitVec 5) (x : Ctx) (s : State) : Act :=
  if kindOf (x.rd s (rn a)).toNat = .absent ∨ kindOf (x.rd s (rn a)).toNat = .steward ∨ inPartition s (x.rd s (rn a)).toNat (slot s x.c x.sl).hdr.part = false
  then .trap (trapAt .bounds (x.rd s (rn a)).toNat)
  else pushStore x s { slot := x.sl, op := .wake ((x.rd s (rn b)).toNat % 2 ^ 32) (x.rd s (rn a)).toNat, va := 0, pa := none, size := 0, val := 0,
                       poison := false, window := false, counted := true }
theorem wake_eq (w : BitVec 3) (a b : BitVec 5) (s : State) : execWake w a b s
    = issue { word := word3 0x15000007 w 0 a b, legal := destOk 0, reads := [rn a, rn b], sync := [rn a, rn b] } s (wakeAct a b) := rfl

/-- Settles O18: each form by what its body answers for a record that can be read, a deque with and without room, or a destination. -/
theorem taskResults : Obligations.TaskResults := by
  intro s x w d a b pa u A va vb h q t W
  refine ⟨fun ha hd hc hr hok => ?_, fun ha hd hc hl => ?_, fun ha hc hr hok ho hpair hp k hk hcube => ?_, fun hc hkind hpart hsb ho => ?_⟩
  · have hspawn := issuedBy_push (exec_spawn w d a s) rfl (by omega) hd hc
    have hpusht := issuedBy_push (exec_pusht w d a s) rfl (by omega) hd hc
    exact ⟨fun hq hp => ⟨push_of_room hspawn ha hr hok hq rfl hp, push_of_room hpusht ha hr hok hq rfl hp⟩,
      fun hq => ⟨push_of_full hspawn ha hr hok hq, push_of_full hpusht ha hr hok hq⟩⟩
  · have hpopt : IssuedBy s x (.popt w d a) [a] w 0 _ _ :=
      { exec := (exec_popt w d a s).trans (popt_eq ..), legal := hd, sync := poisoned_now_of_clean hc }
    refine ⟨fun hq => hpopt.answers_next ?_, fun k ks hq hquiet hpend hp => hpopt.answers_next ?_⟩
    · rw [poptAct, ea56_rd_now, if_neg (not_not.mpr ha), hl, core_now]
      dsimp only
      rw [show (core s x.c).deque = [] from hq, rn]
    · rw [poptAct, ea56_rd_now, if_neg (not_not.mpr ha), hl, core_now]
      dsimp only
      rw [show (core s x.c).deque = k :: ks from hq]
      dsimp only
      rw [drainAll_now_of_quiet hquiet, hpend, countPort_now, hp]
      rfl
  · have hat : IssuedBy s x (.spawnat w a b) [a, b] w 0 _ _ :=
      { exec := (exec_spawnat w a b s).trans (spawnat_eq ..), sync := poisoned_now_of_clean hc }
    exact hat.answers_next (spawnatAct_sends ha hr hok rfl ho hpair hp hk hcube)
  · have hwake : IssuedBy s x (.wake w a b) [a, b] w 0 _ _ :=
      { exec := (exec_wake w a b s).trans (wake_eq ..), sync := poisoned_now_of_clean hc }
    refine hwake.answers_next ?_
    have hcond : ¬ (kindOf A = .absent ∨ kindOf A = .steward ∨ inPartition u A h.part = false) := by
      rw [inPartition_now, hpart]
      rcases hkind with hk | hk <;> simp [hk]
    rw [wakeAct, rn, rn, rd_now, rd_now, slot_now]
    refine (if_neg hcond).trans ?_
    rw [pushStore_of_room (by simpa using hsb) fun _ => (outsFull_now s x).trans ho]
    rfl

end Sys2Proof.Machine
end

section
/-! PROOFS. The QUE instructions (R171 to R176). -/

namespace Sys2Proof.Machine

-- One proof after the other: side by side they take more threads and memory than the check of the whole text has.
set_option Elab.async false

/-! ## The tables of the hall as an instruction that issues reads them -/

/-- Settling the stream's flags writes the traveller's FLAGS alone, which lies above the hall. -/
theorem rdN_now_of_hall (s : State) (x : Ctx) {a n : Nat} (h : a + n ≤ 2 ^ 54) : rdN (now s x).mem a n = rdN s.mem a n := by
  obtain ⟨m, st, hn, hm, -⟩ := now_eq s x
  rw [hn]
  exact hm a n (.inl (by simp only [wsPa, sramPa, sramBase]; omega))

theorem rowRd_now_of_hall (s : State) (x : Ctx) {pa : Nat} (h : pa + 32 ≤ 2 ^ 54) : rowRd (now s x) pa = rowRd s pa := by
  simp only [rowRd, poison_now, latent_now]
  rw [rdN_now_of_hall s x h, rdN_now_of_hall s x (a := pa) (by omega), rdN_now_of_hall s x (a := pa + 16) (by omega)]

theorem regField_lt (s : State) (b o hi lo : Nat) : regField s b o hi lo < 2 ^ (hi + 1 - lo) := Nat.mod_lt _ (Nat.two_pow_pos _)

section tables
variable (s : State) (x : Ctx) (p : Nat)

@[simp] theorem tsize_now : tsize (now s x) p = tsize s p := by simp only [tsize, regField_now]
@[simp] theorem qsize_now : qsize (now s x) p = qsize s p := by simp only [qsize, regField_now]
@[simp] theorem isEntry_now (e : Nat) : isEntry (now s x) p e = isEntry s p e := by simp only [isEntry, tsize_now]

theorem entryGet_now {e : Nat} (he : isEntry s p e = true) (hi lo : Nat) : entryGet (now s x) p e hi lo = entryGet s p e hi lo := by
  have hct : ctOff s p < 2 ^ 28 := regField_lt ..
  have hsize : tsize s p ≤ 2 ^ 23 := by
    have h : regField s islandBlk (0x1100 + 32 * p) 35 32 < 2 ^ 4 := regField_lt ..
    exact Nat.pow_le_pow_right (by norm_num) (by omega)
  have he' : e < tsize s p := by simpa using (Bool.and_eq_true_iff.mp he).2
  rw [entryGet, entryPa, show ctOff (now s x) p = ctOff s p from regField_now .., entryGet, entryPa,
    rowRd_now_of_hall s x (by simp only [hallPa, hallBase]; omega)]

theorem qGet_now {q : Nat} (hq : q < 65536) (hi lo : Nat) : qGet (now s x) p q hi lo = qGet s p q hi lo := by
  have hqt : qtOff s p < 2 ^ 28 := regField_lt ..
  rw [qGet, queuePa, show qtOff (now s x) p = qtOff s p from regField_now .., qGet, queuePa,
    rowRd_now_of_hall s x (by simp only [hallPa, hallBase]; omega)]

theorem qKind_now {q : Nat} (hq : q < 65536) : qKind (now s x) p q = qKind s p q := qGet_now s x p hq ..

theorem qEnabled_now {q : Nat} (hq : q < 65536) : qEnabled (now s x) p q = qEnabled s p q := by
  rw [qEnabled, qEnabled, qLog, qLog, qsize_now, qGet_now s x p hq, qGet_now s x p hq]

theorem queueBounds_now_of_enabled {q : Nat} (hq : q < 65536) (h : qEnabled s p q = true) : queueBounds (now s x) p q = none := by
  rw [queueBounds, qEnabled_now s x p hq, h, if_pos rfl]
end tables

/-! ## Copies (R171) -/

/-- A copy is placed where the buffer has room and OUTS is not full. -/
theorem placeCopy_of_room {s : State} {x : Ctx} (hb : (core s x.c).enqBuf.length < 8) (ho : outsFull s x.c x.sl = false)
    (mk : State → (State → Copy → Act) → Act) :
    placeCopy x s mk = mk s fun s q => .next (countOuts (updCore s x.c fun k =>
      { k with enqBuf := k.enqBuf ++ [{ q with ahead := ((stream s x.c x.x).sb).length }] }) x.c x.sl) := by
  rw [placeCopy, if_neg (Nat.not_le.mpr hb), ho, if_neg Bool.false_ne_true]

@[simp] theorem touchesBuffer_now (s : State) (x : Ctx) (pa n : Nat) : touchesBuffer (now s x) x.c x.x pa n = touchesBuffer s x.c x.x pa n := by
  simp only [touchesBuffer, stream_now_sb]

theorem que_eq (m : Nat) (w : BitVec 3) (d a b : BitVec 5) (reads : List Nat) (s : State) (f : Ctx → State → Act) :
    que m w d a b reads s f = issue { word := word3 m w d a b, legal := destOk d, reads := reads, sync := reads, fare := 9 } s f := rfl

section copies
variable {s : State} {x : Ctx} {w : BitVec 3} {a b : BitVec 5} {pa : Nat}

/-- The copy that ENQ or LAUNCH takes of the record at `pa` for queue `q`. -/
def copyOf (s : State) (x : Ctx) (pa q : Nat) : Copy :=
  { slot := x.sl, part := (slot s x.c x.sl).hdr.part, queue := q, bytes := rdBytes (now s x).mem pa 64, record := none,
    ecx := ecxOf s x.c x.sl, level := (slot s x.c x.sl).lvl, ahead := (stream s x.c x.x).sb.length }

def copyPlaced (s : State) (x : Ctx) (w : BitVec 3) (pa q : Nat) : State :=
  after w 9 x (countOuts (updCore (now s x) x.c fun k => { k with enqBuf := k.enqBuf ++ [copyOf s x pa q] }) x.c x.sl)

theorem enq_places (hc : Clean s x [a, b]) (ha : (x.val s a).toNat % 2 ^ 56 % 64 = 0) (hr : ReadsRecord s x ((x.val s a).toNat % 2 ^ 56) 64 pa)
    (hb : (core s x.c).enqBuf.length < 8) (ho : outsFull s x.c x.sl = false) (hq : (x.val s b).toNat < 65536)
    (hen : qEnabled s (slot s x.c x.sl).hdr.part (x.val s b).toNat = true)
    (hk : qKind s (slot s x.c x.sl).hdr.part (x.val s b).toNat ≠ 2) :
    Answers s x (.enq w a b) [a, b] (copyPlaced s x w pa (x.val s b).toNat) := by
  have h : IssuedBy s x (.enq w a b) [a, b] w 9 _ _ :=
    { exec := (exec_enq w a b s).trans (que_eq ..), sync := poisoned_now_of_clean hc }
  refine h.answers_next ?_
  have hB : (x.rd (now s x) (rn b)).toNat = (x.val s b).toNat := by rw [rn, rd_now]; rfl
  have hperm : ¬ ((x.val s b).toNat < qsize s (slot s x.c x.sl).hdr.part ∧ qKind s (slot s x.c x.sl).hdr.part (x.val s b).toNat = 2) :=
    fun h => hk h.2
  dsimp only
  rw [hB, ea56_rd_now, Ctx.part, slot_now, Nat.mod_eq_of_lt hq, if_neg (Nat.not_le.mpr hq), if_neg (not_not.mpr ha), qsize_now,
    qKind_now s x _ hq, if_neg hperm, queueBounds_now_of_enabled s x _ hq hen, hr.1]
  dsimp only
  rw [placeCopy_of_room (by rw [core_now]; exact hb) ((outsFull_now s x).trans ho), readLocal_of_reads hr]
  dsimp only
  rw [ecxOf_now, slot_now, stream_now_sb]
  rfl

theorem launch_places (hc : Clean s x [a]) (ha : (x.val s a).toNat % 2 ^ 56 % 64 = 0) (hr : ReadsRecord s x ((x.val s a).toNat % 2 ^ 56) 64 pa)
    (hb : (core s x.c).enqBuf.length < 8) (ho : outsFull s x.c x.sl = false)
    (hrec : recordPlace x (now s x) (leNat (((rdBytes (now s x).mem pa 64).drop 8).take 8) % 2 ^ 56) = none) :
    Answers s x (.launch w a) [a] (copyPlaced s x w pa 0x10000) := by
  have h : IssuedBy s x (.launch w a) [a] w 9 _ _ :=
    { exec := (exec_launch w a s).trans (que_eq ..), sync := poisoned_now_of_clean hc }
  refine h.answers_next ?_
  dsimp only
  rw [ea56_rd_now, if_neg (not_not.mpr ha), hr.1]
  dsimp only
  rw [placeCopy_of_room (by rw [core_now]; exact hb) ((outsFull_now s x).trans ho), readLocal_of_reads hr]
  dsimp only
  rw [hrec]
  dsimp only
  rw [ecxOf_now, Ctx.part, slot_now, stream_now_sb]
  rfl
end copies

/-! ## Requests to the hall (R173, R174, R176) -/

section requests
variable {s : State} {x : Ctx} {w : BitVec 3} {d a b : BitVec 5}

/-- A request that runs again with the hall's answer writes it to rd. -/
theorem resumes_value {i : Instr} {iss : Issue} {body : Ctx → State → Act} {v : Word} (hi : exec i s = issue iss s body)
    (hw : iss.word / 2 ^ 29 % 8 = w.toNat) (hk : iss.fare = 9)
    (hb : x.reply = some (.value v false) → body x (now s x) = .next (x.wr (now s x) d.toNat v 0)) :
    Resumes s x i (.value v false) (after w 9 x (x.wr (now s x) d.toNat v 0)) := resumes_of_next hi hw hk nofun hb

theorem deq_parks {pa : Nat} (hd : destOk d = true) (hc : Clean s x [a, b]) (ha : (x.val s a).toNat % 2 ^ 56 % 64 = 0)
    (hl : localPlace x (now s x) ((x.val s a).toNat % 2 ^ 56) 64 = some pa) (hq : (x.val s b).toNat < 65536)
    (hen : qEnabled s (slot s x.c x.sl).hdr.part (x.val s b).toNat = true)
    (hk : qKind s (slot s x.c x.sl).hdr.part (x.val s b).toNat ≠ 1) (ht : touchesBuffer s x.c x.x pa 64 = false) :
    Answers s x (.deq w d a b) [a, b] (parked 9 x (now s x) ((encode (.deq w d a b)).getD 0) 1
      (.deq (slot s x.c x.sl).hdr.part (x.val s b).toNat pa)) := by
  have h : IssuedBy s x (.deq w d a b) [a, b] w 9 _ _ :=
    { exec := (exec_deq w d a b s).trans (que_eq ..), legal := hd, sync := poisoned_now_of_clean hc }
  rw [h.word, Option.getD_some]
  intro hi
  refine h.answers_park (u := now s x) (reason := 1) ?_ hi
  have hB : (x.rd (now s x) (rn b)).toNat = (x.val s b).toNat := by rw [rn, rd_now]; rfl
  have hperm : ¬ ((x.val s b).toNat < qsize s (slot s x.c x.sl).hdr.part ∧ qKind s (slot s x.c x.sl).hdr.part (x.val s b).toNat = 1) :=
    fun h => hk h.2
  have hgot : x.got = none := by rw [Ctx.got, hi.2.1]
  dsimp only
  rw [hgot]
  dsimp only
  rw [hB, ea56_rd_now, Ctx.part, slot_now, Nat.mod_eq_of_lt hq, if_neg (Nat.not_le.mpr hq), if_neg (not_not.mpr ha), qsize_now,
    qKind_now s x _ hq, if_neg hperm, queueBounds_now_of_enabled s x _ hq hen, hl]
  dsimp only
  rw [touchesBuffer_now, ht, if_neg Bool.false_ne_true]

theorem qstat_parks (hd : destOk d = true) (hc : Clean s x [b]) (hq : (x.val s b).toNat < 65536)
    (hen : qEnabled s (slot s x.c x.sl).hdr.part (x.val s b).toNat = true) :
    Answers s x (.qstat w d b) [b] (parked 9 x (now s x) ((encode (.qstat w d b)).getD 0) 1
      (.queueStat (slot s x.c x.sl).hdr.part (x.val s b).toNat)) := by
  have h : IssuedBy s x (.qstat w d b) [b] w 9 _ _ :=
    { exec := (exec_qstat w d b s).trans (que_eq ..), legal := hd, sync := poisoned_now_of_clean hc }
  rw [h.word, Option.getD_some]
  intro hi
  refine h.answers_park (u := now s x) (reason := 1) ?_ hi
  have hB : (x.rd (now s x) (rn b)).toNat = (x.val s b).toNat := by rw [rn, rd_now]; rfl
  have hgot : x.got = none := by rw [Ctx.got, hi.2.1]
  dsimp only
  rw [hgot]
  dsimp only
  rw [hB, Ctx.part, slot_now, if_neg (Nat.not_le.mpr hq), queueBounds_now_of_enabled s x _ hq hen]

theorem cdone_parks (hd : destOk d = true) (hc : Clean s x [a, b]) (hv : (x.val s b).toNat < 2 ^ 34)
    (he : isEntry s (slot s x.c x.sl).hdr.part ((x.val s a).toNat % 2 ^ 32) = true)
    (hl : eLevel s (slot s x.c x.sl).hdr.part ((x.val s a).toNat % 2 ^ 32) ≠ 1) :
    Answers s x (.cdone w d a b) [a, b] (parked 9 x (now s x) ((encode (.cdone w d a b)).getD 0) 1
      (.cdone (slot s x.c x.sl).hdr.part ((x.val s a).toNat % 2 ^ 32) (x.val s b))) := by
  have h : IssuedBy s x (.cdone w d a b) [a, b] w 9 _ _ :=
    { exec := (exec_cdone w d a b s).trans (que_eq ..), legal := hd, sync := poisoned_now_of_clean hc }
  rw [h.word, Option.getD_some]
  intro hi
  refine h.answers_park (u := now s x) (reason := 1) ?_ hi
  have hA : x.rd (now s x) (rn a) = x.val s a := by rw [rn, rd_now]; rfl
  have hB : x.rd (now s x) (rn b) = x.val s b := by rw [rn, rd_now]; rfl
  have hgot : x.got = none := by rw [Ctx.got, hi.2.1]
  have hv' : ¬ (x.val s b).toNat / 2 ^ 34 ≠ 0 := by omega
  have hlev : eLevel (now s x) (slot s x.c x.sl).hdr.part ((x.val s a).toNat % 2 ^ 32) ≠ 1 := by
    rw [eLevel, entryGet_now s x _ he]
    exact hl
  dsimp only
  rw [hgot]
  dsimp only
  rw [hA, hB, Ctx.part, slot_now, if_neg hv', if_neg fun h => hlev h.2, isEntry_now, he, if_neg (by simp)]

theorem cchk_parks (hd : destOk d = true) (hc : Clean s x [a])
    (he : isEntry s (slot s x.c x.sl).hdr.part ((x.val s a).toNat % 2 ^ 32) = true) :
    Answers s x (.cchk w d a) [a] (parked 9 x (now s x) ((encode (.cchk w d a)).getD 0) 1
      (.cchk (slot s x.c x.sl).hdr.part ((x.val s a).toNat % 2 ^ 32))) := by
  have h : IssuedBy s x (.cchk w d a) [a] w 9 _ _ :=
    { exec := (exec_cchk w d a s).trans (que_eq ..), legal := hd, sync := poisoned_now_of_clean hc }
  rw [h.word, Option.getD_some]
  intro hi
  refine h.answers_park (u := now s x) (reason := 1) ?_ hi
  have hA : x.rd (now s x) (rn a) = x.val s a := by rw [rn, rd_now]; rfl
  have hgot : x.got = none := by rw [Ctx.got, hi.2.1]
  dsimp only
  rw [hgot]
  dsimp only
  rw [hA, Ctx.part, slot_now, isEntry_now, he, if_pos rfl]

theorem cancel_cancels (hc : Clean s x [a]) (he : isEntry s (slot s x.c x.sl).hdr.part ((x.val s a).toNat % 2 ^ 32) = true) :
    Answers s x (.cancel w a) [a] (after w 9 x (cancelEntry (now s x) (slot s x.c x.sl).hdr.part ((x.val s a).toNat % 2 ^ 32))) := by
  have h : IssuedBy s x (.cancel w a) [a] w 9 _ _ :=
    { exec := (exec_cancel w a s).trans (que_eq ..), sync := poisoned_now_of_clean hc }
  refine h.answers_next ?_
  have hA : x.rd (now s x) (rn a) = x.val s a := by rw [rn, rd_now]; rfl
  dsimp only
  rw [hA, Ctx.part, slot_now, isEntry_now, he, if_pos rfl]
end requests

/-- Settles O19: copies of ENQ and LAUNCH, the requests that park, their answers, and CANCEL. -/
theorem queueInstructions : Obligations.QueueInstructions := by
  constructor
  · intro s x w a b pa va p bs B copy put hc ha hr hb ho
    exact ⟨fun hq hen hk => enq_places hc ha hr hb ho hq hen hk,
      fun hrec => launch_places (fun r hr => hc r (by simp at hr; simp [hr])) ha hr hb ho hrec⟩
  intro s x w d a b pa va e B p P
  refine ⟨fun hd => ⟨fun hc ha hl hq hen hk ht => deq_parks hd hc ha hl hq hen hk ht, fun hc hq hen => qstat_parks hd hc hq hen,
    fun hc hv he hl => cdone_parks hd hc hv he hl, fun hc he => cchk_parks hd hc he⟩, fun v => ⟨?_, ?_, ?_, ?_⟩, fun hc he => cancel_cancels hc he⟩
  · exact resumes_value ((exec_deq w d a b s).trans (que_eq ..)) (by simp only [word3]; omega) rfl fun hr => by simp only [Ctx.got, hr, rn]
  · exact resumes_value ((exec_qstat w d b s).trans (que_eq ..)) (by simp only [word3, BitVec.ofNat_eq_ofNat, BitVec.toNat_zero]; omega) rfl
      fun hr => by simp only [Ctx.got, hr, rn]
  · exact resumes_value ((exec_cdone w d a b s).trans (que_eq ..)) (by simp only [word3]; omega) rfl fun hr => by simp only [Ctx.got, hr, rn]
  · exact resumes_value ((exec_cchk w d a s).trans (que_eq ..)) (by simp only [word3, BitVec.ofNat_eq_ofNat, BitVec.toNat_zero]; omega) rfl
      fun hr => by simp only [Ctx.got, hr, rn]

end Sys2Proof.Machine
end

section
/-! PROOFS. The SYS instructions (R371 to R375): the statement's handling of a message fails where two workspaces overlap. -/

namespace Sys2Proof.Machine

-- One proof after the other: side by side they take more threads and memory than the check of the whole text has.
set_option Elab.async false

/-- A message of the TRAPPED traveller with TID 0 in slot 0 of core 1. -/
def lateLetter : TrapMsg :=
  { info := { cause := .swtrap }, task := none, esc := false, score := false, part := 0, core := 1, slot := 0, tid := 0, lslot := 0, trpc := 0, cyc := 0 }

/-- The handler's issue. -/
def handlerCtx : Ctx := { c := 0, x := false, sl := 0, pc := 0x00FFFFFFFFFC0000, t := 0, reply := none }

/-- The handler on core 0, at level 1, holds the message. LMWSB of core 0 places its workspace over that of core 1, two bytes on, so that
the handler's FLAGS are the low byte of the trapped traveller's TID; flags of the handler are due when it issues (R47). -/
def overlapping : State :=
  let s := setState (updSlot (hostTraveller State.reset 0) 1 0 fun k => { k with used := true }) 1 0 .trapped
  let s := updSlot s 0 0 fun k => { k with lvl := 1, msg := some lateLetter }
  let s := updStream s 0 false fun k => { k with pend := [{ reg := 33, old := 0, oldPoison := false, ready := 0 }] }
  updCore { s with cur := 0 } 0 fun k => { k with lmwsb := 2 ^ 28 + (core s 1).lmwsb + 2 }

/-- The state of the trapped traveller after ERET: the flags changed its TID, and the message finds nobody. -/
def stateAfter (r : Result) : Option TState := match r with
  | .next t => some (stateOf t 1 0)
  | _ => none

theorem overlapping_issues : Issues overlapping handlerCtx (.eret 0 24) [24] := by
  refine ⟨by decide +kernel, rfl, fun n hn => ?_, by decide +kernel⟩
  cases hn
  decide +kernel
theorem overlapping_clean : Clean overlapping handlerCtx [24] := by unfold Clean; decide +kernel
theorem targetOf_overlapping : targetOf overlapping lateLetter = .live := by decide +kernel
theorem stateAfter_exec : stateAfter (exec (.eret 0 24) overlapping) = some .trapped := by decide +kernel
/-- The state that the statement says ERET leaves. -/
def claimedAfter : State :=
  after 0 0 handlerCtx (updSlot (eretResume (setSbo (now overlapping handlerCtx) 1 0 0) 1 0 0) 0 0 fun k => { k with msg := none })
theorem stateAfter_claimed : stateAfter (.next claimedAfter) = some .ready := by decide +kernel

/-- Refutes O20: LMWSB is any number, and where the handler's FLAGS lie on the TID of the message's traveller, flags that are due when
ERET issues change that TID: the message finds nobody, and its traveller stays TRAPPED. -/
theorem not_systemInstructions : ¬ Obligations.SystemInstructions := by
  unfold Obligations.SystemInstructions
  rintro ⟨-, h⟩
  obtain ⟨heret, -⟩ := h overlapping handlerCtx 0 24 lateLetter (by decide +kernel) (by decide +kernel) rfl rfl targetOf_overlapping
  have hnext : exec (.eret 0 24) overlapping = .next claimedAfter :=
    (heret overlapping_clean (by decide +kernel)).1 (by decide +kernel) overlapping_issues
  have hstate := stateAfter_exec
  rw [hnext, stateAfter_claimed] at hstate
  exact absurd hstate (by decide)

end Sys2Proof.Machine
end

section
/-! PROOFS. Vector instructions (R195): the statement fails where two workspaces overlap. -/

namespace Sys2Proof.Machine

-- One proof after the other: side by side they take more threads and memory than the check of the whole text has.
set_option Elab.async false

/-- Core 0 runs a traveller whose register 1 names the window of core 1 and whose register 2 its own SRAM. LMWSB of core 0 places its
workspace over that of core 1, so that its FLAGS are the STATUS of slot 0 there, which was a twin's and is FREE; flags that are due when the
instruction issues (R47) make that slot's state READY, and core 1 a twin core (R386). -/
def windowClash : State :=
  let s := updCore { hostTraveller State.reset 0 with cur := 0 } 1 fun k => { k with lmwsb := 0x2000, lmrgb := 0x4000, lmdtb := 0x4000, asg := true }
  let s := updSlot s 1 0 fun k => { k with used := true, twin := true }
  let s := updCore s 0 fun k => { k with lmwsb := 2 ^ 28 + 0x2000 + 8 }
  let s := updStream s 0 false fun k => { k with pend := [{ reg := 33, old := 0, oldPoison := false, ready := 0 }] }
  wsWr (wsWr s 0 0 8 8 0x00FFFF0000045000) 0 0 16 8 0x00FFFFFFFFFC4000

/-- The word of `VADD r1, r2, r2` on elements of type 0. -/
def clashWord : Nat := word3 (0x30 * 2 ^ 23) 0 1 2 2

/-- Commands in the coach queue of core 0. -/
def coachCount (r : Result) : Option Nat := match r with
  | .next t => some (core t 0).coachQ.length
  | _ => none

/-- The state that the statement says the VADD leaves. -/
def clashClaimed : State :=
  after 0 99 handlerCtx (pushRec (now windowClash handlerCtx) 0 0
    { word := clashWord, pc := handlerCtx.pc, slot := 0, tid := tidOf windowClash 0 0, d := handlerCtx.val windowClash 1,
      a := handlerCtx.val windowClash 2, b := handlerCtx.val windowClash 2, p := predOf windowClash 0 0,
      frm := BitVec.ofNat 8 (frmOf windowClash 0 0), key := (slot windowClash 0 0).hdr.key, ecx := ecxOf windowClash 0 0,
      part := (slot windowClash 0 0).hdr.part, mem := [], seq := 0 })

theorem windowClash_issues : Issues windowClash handlerCtx (.vadd 0 1 2 2 0) [2, 2, 1] := by
  refine ⟨by decide +kernel, rfl, fun n hn => ?_, by decide +kernel⟩
  cases hn
  decide +kernel
theorem windowClash_clean : Clean windowClash handlerCtx [2, 2, 1] := by unfold Clean; decide +kernel
theorem vecCheck_windowClash : vecCheck windowClash 0 (slot windowClash 0 0).hdr.part clashWord (handlerCtx.val windowClash 1)
    (handlerCtx.val windowClash 2) (handlerCtx.val windowClash 2) = none := by decide +kernel
theorem coachCount_exec : coachCount (exec (.vadd 0 1 2 2 0) windowClash) = some 0 := by decide +kernel
theorem coachCount_claimed : coachCount (.next clashClaimed) = some 1 := by decide +kernel

/-- Refutes O21: LMWSB is any number, and where the traveller's FLAGS lie on the STATUS of a slot of the destination's core, flags that are
due when VADD issues make that core a twin core, whose window is out of bounds: VADD traps and nothing enters the coach queue. -/
theorem not_vectorInstructions : ¬ Obligations.VectorInstructions := by
  unfold Obligations.VectorInstructions
  rintro ⟨h, -⟩
  obtain ⟨h3, -⟩ := h windowClash handlerCtx 0 1 2 2 0 0 0 (by decide +kernel) ⟨by decide +kernel, by decide +kernel⟩ (by decide +kernel)
  have hnext : exec (.vadd 0 1 2 2 0) windowClash = .next clashClaimed :=
    h3 windowClash_clean _ (List.mem_cons_self ..) clashWord rfl
      ⟨by decide +kernel, by decide +kernel, by decide +kernel, vecCheck_windowClash⟩ windowClash_issues
  have hcount := coachCount_exec
  rw [hnext, coachCount_claimed] at hcount
  exact absurd hcount (by decide)

end Sys2Proof.Machine
end

section
/-! PROOFS. Accumulator banks (R220, R235 to R237, R241, R242). -/

namespace Sys2Proof.Machine

-- One proof after the other: side by side they take more threads and memory than the check of the whole text has.
set_option Elab.async false

theorem coach_eq (fn : Nat) (w : BitVec 3) (d a b : BitVec 5) (reads : List Nat) (legal rounds : Bool) (fare : Nat) (s : State)
    (f : Nat → Ctx → State → Act) : coach fn w d a b reads legal rounds fare s f
      = issue { word := word3 (0x1C000000 + fn) w d a b, legal := legal, rounds := rounds, reads := reads, sync := reads, fare := fare } s
        (f (word3 (0x1C000000 + fn) w d a b)) := rfl

section now
variable (s : State) (x : Ctx)
@[simp] theorem quad_now (q : Nat) : quad (now s x) q = quad s q := now_congr s x (quad · q) fun _ _ _ => rfl
@[simp] theorem handleOf_now (v : Nat) : handleOf (now s x) x.c x.sl v = handleOf s x.c x.sl v := by simp only [handleOf, quad_now, tidOf_now]
@[simp] theorem bankBusy_now (h : Handle) : bankBusy (now s x) x.c x.sl h = bankBusy s x.c x.sl h := by simp only [bankBusy, recsOf_now]
@[simp] theorem pathBusy_now (p : Nat) : pathBusy (now s x) x.c x.sl p = pathBusy s x.c x.sl p := by simp only [pathBusy, recsOf_now, hasLoop_now]
@[simp] theorem engRoom_now (c k : Nat) : engRoom (now s x) c k = engRoom s c k := now_congr s x (engRoom · c k) fun _ _ _ => rfl
end now

/-- A record that OUTS does not count enters a queue with room, when the traveller's stores have left (R178). -/
theorem enqueueRec_of_room {s : State} {x : Ctx} {k : Nat} {r : Rec} (hd : drainStep s x = none)
    (ho : r.inOuts = true → outsFull s x.c x.sl = false) (hr : engRoom s x.c k = true) : enqueueRec x s k r = .next (pushRec s x.c k r) := by
  have hout : ¬ (r.inOuts && outsFull s x.c x.sl) = true := by
    cases hr : r.inOuts <;> simp [hr, ho]
  rw [enqueueRec, hd]
  dsimp only
  rw [if_neg hout, if_pos hr]

/-- OUTS counts no command of the coach (R307). -/
theorem inOuts_newRec_of_coach {x : Ctx} {s : State} {word : Nat} {d a b : Word} (h : word / 2 ^ 23 % 64 = 0x38) :
    (newRec x s word d a b).inOuts = false := by
  have hm : (newRec x s word d a b).major = 0x38 := h
  simp [Rec.inOuts, Rec.path, hm]

theorem idleHandle_of_idle {x : Ctx} {s : State} {v : Nat} {h : Handle} (hh : handleOf s x.c x.sl v = some h)
    (hb : bankBusy s x.c x.sl h = false) (k : Handle → Act) : idleHandle x s v k = k h := by
  rw [idleHandle, hh]
  dsimp only
  rw [if_neg (by simp [hb])]

/-- The bits of an OR over a list. -/
theorem getLsbD_foldl_or (st : Nat → Byte) (i : Nat) : ∀ (l : List Nat) (v : Byte),
    (l.foldl (fun v j => v ||| st j) v).getLsbD i = (v.getLsbD i || l.any fun j => (st j).getLsbD i)
  | [], v => by simp
  | j :: l, v => by rw [List.foldl_cons, getLsbD_foldl_or st i l, BitVec.getLsbD_or, List.any_cons, Bool.or_assoc]

/-- The lowest run of `n` free banks. -/
theorem find_free {n k : Nat} {free : Nat → Bool} (hn : n ≤ 64) (hk : k + n ≤ 128) (hf : ∀ i, i < n → free (k + i) = true)
    (hlow : ∀ j, j < k → ∃ i, i < n ∧ free (j + i) = false) :
    (List.range (129 - n)).find? (fun b => (List.range n).all fun i => free (b + i)) = some k := by
  rw [List.find?_range_eq_some]
  refine ⟨List.all_eq_true.mpr fun i hi => hf i (List.mem_range.mp hi), List.mem_range.mpr (by omega), fun j hj => ?_⟩
  obtain ⟨i, hi, hfi⟩ := hlow j hj
  rw [Bool.not_eq_true', List.all_eq_false]
  exact ⟨i, List.mem_range.mpr hi, by simp [hfi]⟩

theorem find_free_none {n : Nat} {free : Nat → Bool} (hn : n ≤ 64) (h : ∀ j, j + n ≤ 128 → ∃ i, i < n ∧ free (j + i) = false) :
    (List.range (129 - n)).find? (fun b => (List.range n).all fun i => free (b + i)) = none := by
  rw [List.find?_range_eq_none]
  intro j hj
  obtain ⟨i, hi, hfi⟩ := h j (by omega)
  rw [Bool.not_eq_true', List.all_eq_false]
  exact ⟨i, List.mem_range.mpr hi, by simp [hfi]⟩

/-- Settles O22: MACQ by the lowest free run, the others by the handle they name or the matrix commands that are left. -/
theorem accumulatorBanks : Obligations.AccumulatorBanks := by
  intro s x w d a b k h u q n free W
  have hA (r : BitVec 5) : x.rd u (rn r) = x.val s r := by rw [rn, rd_now]; rfl
  have hfree (i : Nat) : free i ↔ (lookup (quad s q).holders i).isNone = true := Option.isNone_iff_eq_none.symm
  have hnot (i : Nat) : ¬ free i ↔ (lookup (quad s q).holders i).isNone = false := by rw [hfree, Bool.not_eq_true]
  refine ⟨fun hd hc h1 h64 => ?_, fun hc hh => ?_, fun hd hc hh hb => ?_, fun hp => ?_, fun hp => ?_⟩
  · have hmacq : IssuedBy s x (.macq w d a) [a] w 0 _ _ :=
      { exec := (exec_macq w d a s).trans (coach_eq ..), legal := hd, sync := poisoned_now_of_clean hc }
    have hn : ¬ (n = 0 ∨ 64 < n) := by omega
    refine ⟨fun hk hf hlow => ?_, fun hnone => hmacq.answers_next ?_⟩
    · intro z y
      have hfind : (List.range (129 - n)).find? (fun b => (List.range n).all fun i => (lookup (quad s q).holders (b + i)).isNone) = some k :=
        find_free (free := fun i => (lookup (quad s q).holders i).isNone) h64 hk (fun i hi => (hfree _).mp (hf i hi)) fun j hj => (hlow j hj).imp fun i hi => ⟨hi.1, (hnot _).mp hi.2⟩
      refine hmacq.answers_next ?_
      dsimp only
      rw [hA, if_neg hn, quad_now, hfind]
      dsimp only
      rw [show tidOf (zeroBanks (now s x) (quadOf x.c) { bank := k, nb := n }) x.c x.sl = tidOf s x.c x.sl from tidOf_now s x]
    · have hfind : (List.range (129 - n)).find? (fun b => (List.range n).all fun i => (lookup (quad s q).holders (b + i)).isNone) = none :=
        find_free_none (free := fun i => (lookup (quad s q).holders i).isNone) h64 fun j hj => (hnone j hj).imp fun i hi => ⟨hi.1, (hnot _).mp hi.2⟩
      dsimp only
      rw [hA, if_neg hn, quad_now, hfind]
  · refine ⟨fun hb => ?_, fun hdr hr hfrm => ?_⟩
    · have hmrel : IssuedBy s x (.mrel w d) [d] w 0 _ _ :=
        { exec := (exec_mrel w d s).trans (coach_eq ..), sync := poisoned_now_of_clean hc }
      refine hmrel.answers_next ?_
      rw [hA, idleHandle_of_idle ((handleOf_now ..).trans hh) ((bankBusy_now ..).trans hb)]
    · have hmzero : IssuedBy s x (.mzero w d) [d] w 99 _ _ :=
        { exec := (exec_mzero w d s).trans (coach_eq ..), rounds := fun _ => hfrm, sync := poisoned_now_of_clean hc }
      rw [hmzero.word, Option.getD_some]
      refine hmzero.answers_next ?_
      dsimp only
      rw [hA, handleOf_now, hh]
      dsimp only
      refine enqueueRec_of_room (drainStep_now_of_drained hdr) (fun hout => ?_) ((engRoom_now ..).trans hr)
      have hm : word3 (0x1C000000 + 4) w d 0 0 / 2 ^ 23 % 64 = 0x38 := by
        simp only [word3, BitVec.ofNat_eq_ofNat, BitVec.toNat_zero]; omega
      exact absurd hout (by rw [inOuts_newRec_of_coach hm]; simp)
  · intro st keep
    have hmstat : IssuedBy s x (.mstat w d a b) [a, b] w 0 _ _ :=
      { exec := (exec_mstat w d a b s).trans (coach_eq ..), legal := hd, sync := poisoned_now_of_clean hc }
    refine ⟨(List.range h.nb).foldl (fun v i => v ||| st i) 0, fun i => ?_, hmstat.answers_next ?_⟩
    · rw [getLsbD_foldl_or]
      simp
    · rw [hA, idleHandle_of_idle ((handleOf_now ..).trans hh) ((bankBusy_now ..).trans hb), hA]
      dsimp only
      rw [quad_now]
  · have hmsync : IssuedBy s x (.msync w) [] w 0 _ _ := { exec := (exec_msync w s).trans (coach_eq ..) }
    refine hmsync.answers_next ?_
    rw [pathBusy_now, hp]
    rfl
  · have hmsync : IssuedBy s x (.msync w) [] w 0 _ _ := { exec := (exec_msync w s).trans (coach_eq ..) }
    rw [hmsync.word, Option.getD_some]
    refine hmsync.answers_park (u := u) (reason := 4) (cond := .matDone) ?_
    rw [pathBusy_now, hp]
    rfl

end Sys2Proof.Machine
end

section
/-! PROOFS. Matrix commands (R240): the statement fails where two workspaces overlap. -/

namespace Sys2Proof.Machine

-- One proof after the other: side by side they take more threads and memory than the check of the whole text has.
set_option Elab.async false

/-- `windowClash` with the handle of bank 0 in register 3 and the shape of one element in register 4; the traveller holds the bank. -/
def matrixClash : State :=
  updQuad (wsWr (wsWr windowClash 0 0 24 8 256) 0 0 32 8 257) 0 fun k => { k with holders := [(0, (0, 0, 0))] }

/-- The word of `MSTC r3, r1, r4`. -/
def matrixWord : Nat := word3 0x1C000006 0 3 1 4

/-- The state that the statement says the MSTC leaves. -/
def matrixClaimed : State :=
  after 0 99 handlerCtx (pushRec (now matrixClash handlerCtx) 0 0
    { newRec handlerCtx (now matrixClash handlerCtx) matrixWord (handlerCtx.val matrixClash 3) (handlerCtx.val matrixClash 1)
        (handlerCtx.val matrixClash 4) with bset := [1, 1] })

theorem matrixClash_issues : Issues matrixClash handlerCtx (.mstc 0 3 1 4) [1, 4, 3] := by
  refine ⟨by decide +kernel, rfl, fun n hn => ?_, by decide +kernel⟩
  cases hn
  decide +kernel
theorem matrixClash_clean : Clean matrixClash handlerCtx [1, 4, 3] := by unfold Clean; decide +kernel
theorem coachCount_execMstc : coachCount (exec (.mstc 0 3 1 4) matrixClash) = some 0 := by decide +kernel
theorem coachCount_matrixClaimed : coachCount (.next matrixClaimed) = some 1 := by decide +kernel
theorem val_matrixClash : (handlerCtx.val matrixClash 4).toNat = 257 := by decide +kernel
theorem extents_matrixClash : extent handlerCtx matrixClash 1 26 = 1 ∧ extent handlerCtx matrixClash 1 27 = 1 := by decide +kernel

/-- Refutes O23: LMWSB is any number, and where the traveller's FLAGS lie on the STATUS of a slot of the destination's core, flags that are
due when MSTC issues make that core a twin core, whose window is out of bounds: MSTC traps and nothing enters the coach queue. -/
theorem not_matrixCommandsEnter : ¬ Obligations.MatrixCommandsEnter := by
  unfold Obligations.MatrixCommandsEnter
  intro h
  have h' := h matrixClash handlerCtx 0 3 1 4 0 { bank := 0, nb := 1 } { bank := 0, nb := 1 }
  dsimp only at h'
  rw [val_matrixClash] at h'
  obtain ⟨hmove, -⟩ := h' (by decide +kernel) matrixClash_clean ⟨by decide +kernel, by decide +kernel⟩ (by decide +kernel) (by decide +kernel)
    (by decide +kernel) (by decide +kernel)
  obtain ⟨-, hstore⟩ := hmove (by decide +kernel) (by decide) (by decide) (by decide) (by decide) (by decide +kernel)
  have hnext : exec (.mstc 0 3 1 4) matrixClash = .next matrixClaimed := by
    have := hstore (.inr (.inr (by decide +kernel))) matrixWord rfl matrixClash_issues
    rw [show (257 : Nat) % 256 = 1 from rfl, extents_matrixClash.1, extents_matrixClash.2] at this
    exact this
  have hcount := coachCount_execMstc
  rw [hnext, coachCount_matrixClaimed] at hcount
  exact absurd hcount (by decide)

end Sys2Proof.Machine
end

section
/-! PROOFS. Commands of the courier (R183): the statement fails where two workspaces overlap. -/

namespace Sys2Proof.Machine

-- One proof after the other: side by side they take more threads and memory than the check of the whole text has.
set_option Elab.async false

/-- `windowClash` with the length word of 16 bytes in register 4. -/
def copyClash : State := wsWr windowClash 0 0 32 8 16

/-- The word of `COPY r1, r2, r4`. -/
def copyWord : Nat := word3 0x07000000 0 1 2 4

/-- Commands in the courier queue of core 0. -/
def courierCount (r : Result) : Option Nat := match r with
  | .next t => some (core t 0).courierQ.length
  | _ => none

/-- The state that the statement says the COPY leaves. -/
def copyClaimed : State :=
  after 0 99 handlerCtx (pushRec (now copyClash handlerCtx) 0 1
    { newRec handlerCtx (now copyClash handlerCtx) copyWord (handlerCtx.val copyClash 1) (handlerCtx.val copyClash 2)
        (handlerCtx.val copyClash 4) with mem := [], st := 0 })

theorem copyClash_issues : Issues copyClash handlerCtx (.copy 0 1 2 4) [2, 4, 1] := by
  refine ⟨by decide +kernel, rfl, fun n hn => ?_, by decide +kernel⟩
  cases hn
  decide +kernel
theorem copyClash_clean : Clean copyClash handlerCtx [2, 4, 1] := by unfold Clean; decide +kernel
theorem courierCount_exec : courierCount (exec (.copy 0 1 2 4) copyClash) = some 0 := by decide +kernel
theorem courierCount_claimed : courierCount (.next copyClaimed) = some 1 := by decide +kernel
theorem val_copyClash : (handlerCtx.val copyClash 4).toNat = 16 := by decide +kernel

/-- Refutes O24: LMWSB is any number, and where the traveller's FLAGS lie on the STATUS of a slot of the destination's core, flags that are
due when COPY issues make that core a twin core, whose window is out of bounds: COPY traps and nothing enters the courier queue. -/
theorem not_courierCommandsEnter : ¬ Obligations.CourierCommandsEnter := by
  unfold Obligations.CourierCommandsEnter
  intro h
  have h' := h copyClash handlerCtx 0 1 2 4 0
  dsimp only at h'
  rw [val_copyClash] at h'
  obtain ⟨hqueue, -⟩ := h'
  obtain ⟨hthree, -⟩ := hqueue ⟨by decide +kernel, by decide +kernel⟩ (by decide +kernel) (by decide +kernel)
  obtain ⟨hcopy, -⟩ := hthree copyClash_clean
  have hnext : exec (.copy 0 1 2 4) copyClash = .next copyClaimed :=
    hcopy (by decide) (by decide +kernel) (by decide +kernel) (by decide) (fun _ => by decide +kernel) copyClash_issues
  have hcount := courierCount_exec
  rw [hnext, courierCount_claimed] at hcount
  exact absurd hcount (by decide)

end Sys2Proof.Machine
end

section
/-! PROOFS. The RING instructions (R181, R312). -/

namespace Sys2Proof.Machine

-- One proof after the other: side by side they take more threads and memory than the check of the whole text has.
set_option Elab.async false

def ringIssue (fn : Nat) (w : BitVec 3) (n : BitVec 3) (a : BitVec 5) (reads : List Nat) (legal : Bool) : Issue :=
  { word := 0x07800000 + fn + w.toNat * 2 ^ 29 + n.toNat * 2 ^ 18 + a.toNat * 2 ^ 13, legal := legal && ringOk n, reads := reads, sync := reads }

theorem ringI_eq (fn : Nat) (w : BitVec 3) (n : BitVec 3) (a : BitVec 5) (reads : List Nat) (legal : Bool) (s : State)
    (f : Ctx → State → Act) : ringI fn w n a reads legal s f = issue (ringIssue fn w n a reads legal) s f := rfl

section now
variable (s : State) (x : Ctx)
@[simp] theorem ring_now (c r : Nat) : ring (now s x) c r = ring s c r := by rw [ring, core_now, ring]
@[simp] theorem ringNamed_now (c r : Nat) : ringNamed (now s x) c r = ringNamed s c r := by rw [ringNamed, core_now, ringNamed]
@[simp] theorem ringImage_now (c v : Nat) : ringImage (now s x) c v = ringImage s c v := now_congr s x (ringImage · c v) fun _ _ _ => rfl
end now

section
variable {s : State} {x : Ctx} {i : Instr} {fn : Nat} {w n : BitVec 3} {a : BitVec 5} {rs : List (BitVec 5)} {legal : Bool} {word : Nat}
  {f : Ctx → State → Act}

/-- A RING instruction issues: its word fits its fields, and every ring number is legal. -/
theorem issuedBy_ring (hi : exec i s = ringI fn w n a (rs.map BitVec.toNat) legal s f)
    (he : encode i = some word) (hword : word = 0x07800000 + fn + w.toNat * 2 ^ 29 + n.toNat * 2 ^ 18 + a.toNat * 2 ^ 13) (hfn : fn < 256) (hn : n.toNat ≤ 7)
    (hl : legal = true) (hc : Clean s x rs) : IssuedBy s x i rs w 0 (ringIssue fn w n a (rs.map BitVec.toNat) legal) f where
  exec := hi.trans (ringI_eq ..)
  word := he.trans (congrArg some hword)
  wait := by simp only [ringIssue]; omega
  legal := by simp only [ringIssue, hl, ringOk, Bool.true_and]
  rounds := by simp [ringIssue]
  level := by simp [ringIssue]
  sync := poisoned_now_of_clean hc

theorem onRing_of_init (h : (ring s x.c n.toNat).init = true) (f : Ring → Act) : onRing x s n.toNat f = f (ring s x.c n.toNat) := by
  rw [onRing, h]
  rfl
theorem onRing_of_uninit (h : (ring s x.c n.toNat).init = false) (f : Ring → Act) : onRing x s n.toNat f = .trap (ringTrap n.toNat) := by
  rw [onRing, h]
  rfl

/-- A wait on a ring of enough entries goes on or parks by what it counts. -/
theorem ringWait_answers {cnt : Ring → Nat} {cond : Nat → Nat → Cond} (hi : exec i s = ringWait fn w n a s cnt cond)
    (he : encode i = some word) (hword : word = 0x07800000 + fn + w.toNat * 2 ^ 29 + n.toNat * 2 ^ 18 + a.toNat * 2 ^ 13) (hfn : fn < 256) (hn : n.toNat ≤ 7)
    (hc : Clean s x [a]) (hinit : (ring s x.c n.toNat).init = true) (h1 : 1 ≤ (x.val s a).toNat)
    (hv : (x.val s a).toNat ≤ (ring s x.c n.toNat).nst) :
    ((x.val s a).toNat ≤ cnt (ring s x.c n.toNat) → Answers s x i [a] (after w 0 x (now s x)))
    ∧ (cnt (ring s x.c n.toNat) < (x.val s a).toNat →
      Answers s x i [a] (parked 0 x (now s x) ((encode i).getD 0) 3 (cond n.toNat (x.val s a).toNat))) := by
  have h := issuedBy_ring (rs := [a]) (legal := true) hi he hword hfn hn rfl hc
  have hbody (hi : Issues s x i [a]) : (if x.got.isSome then Act.next (now s x) else onRing x (now s x) n.toNat fun k =>
      let v := (x.rd (now s x) (rn a)).toNat
      if v = 0 ∨ k.nst < v then .trap (ringTrap n.toNat)
      else if v ≤ cnt k then .next (now s x) else .park 3 (cond n.toNat v) (now s x))
      = if (x.val s a).toNat ≤ cnt (ring s x.c n.toNat) then .next (now s x) else .park 3 (cond n.toNat (x.val s a).toNat) (now s x) := by
    have hbad : ¬ ((x.val s a).toNat = 0 ∨ (ring s x.c n.toNat).nst < (x.val s a).toNat) := by omega
    have hA : x.rd (now s x) (rn a) = x.val s a := by rw [rn, rd_now]; rfl
    rw [Ctx.got, hi.2.1, onRing_of_init ((congrArg Ring.init (ring_now ..)).trans hinit), ring_now, hA]
    exact if_neg hbad
  refine ⟨fun hle hi => h.answers_next ((hbody hi).trans (if_pos hle)) hi, fun hlt => ?_⟩
  rw [h.word, Option.getD_some]
  exact fun hi => h.answers_park ((hbody hi).trans (if_neg (Nat.not_le.mpr hlt))) hi
end

/-- RINIT with a good image of a ring that no command names. -/
theorem rinit_answers {s : State} {x : Ctx} {w n : BitVec 3} {a : BitVec 5} {pa : Nat} {k : Ring} (hn : n.toNat ≤ 7) (hc : Clean s x [a])
    (ha : (x.val s a).toNat % 2 ^ 56 % 16 = 0) (hr : ReadsRecord s x ((x.val s a).toNat % 2 ^ 56) 16 pa)
    (hk : ringImage s x.c (leNat (rdBytes (now s x).mem pa 16)) = some k)
    (hnamed : ¬ ((ring s x.c n.toNat).init = true ∧ ringNamed s x.c n.toNat = true)) :
    let r := n.toNat
    let e := putRing (setFull (now s x) (granules (sramPa x.c k.base) (k.nst * k.ssize)) false) x.c r k
    let bind (s : State) (b : Nat) : State := if (barrier s x.c b).rb = true then s else
      putBarrier (barBreak s x.c b) x.c b { pcnt := (barrier (barBreak s x.c b) x.c b).pcnt, exp := 1, v := true, rb := true }
    Answers s x (.rinit w n a) [a] (after w 0 x (ringWake (releaseHeld (bind (bind e (16 + 2 * r)) (17 + 2 * r)) x.c) x.c r)) := by
  intro r e bind
  have h : IssuedBy s x (.rinit w n a) [a] w 0 _ _ :=
    issuedBy_ring (rs := [a]) (exec_rinit w n a s) rfl (by simp only [plc]; omega) (by omega) hn rfl hc
  refine h.answers_next ?_
  have hb : ¬ ((ring s x.c n.toNat).init && ringNamed s x.c n.toNat) = true := by simpa using hnamed
  dsimp only
  rw [ea56_rd_now, if_neg (not_not.mpr ha), hr.1]
  dsimp only
  rw [readLocal_of_reads hr, ringImage_now, hk]
  dsimp only
  rw [ring_now, ringNamed_now, if_neg hb]

/-- Settles O25: each form by the ring's state; RINIT by the image it reads. -/
theorem ringInstructions : Obligations.RingInstructions := by
  intro s x w n a pa k u r v q T hn
  have hpush : IssuedBy s x (.rpush w n) [] w 0 _ _ :=
    issuedBy_ring (rs := []) (exec_rpush w n s) rfl (by simp only [plc, BitVec.ofNat_eq_ofNat, BitVec.toNat_zero]; omega) (by omega) hn rfl nofun
  have hpop : IssuedBy s x (.rpop w n) [] w 0 _ _ :=
    issuedBy_ring (rs := []) (exec_rpop w n s) rfl (by simp only [plc, BitVec.ofNat_eq_ofNat, BitVec.toNat_zero]; omega) (by omega) hn rfl nofun
  refine ⟨fun hc ha hr hk hnamed => rinit_answers hn hc ha hr hk hnamed, fun hinit => ?_, fun hinit => ?_⟩
  · have hu : (ring u x.c n.toNat).init = true := (congrArg Ring.init (ring_now ..)).trans hinit
    refine ⟨fun ho => hpush.answers_next ?_, fun ho => hpush.answers_trap ?_, fun ho => hpop.answers_next ?_, fun ho => hpop.answers_trap ?_,
      fun hd => ?_, fun hc h1 hv => ⟨?_, ?_, ?_, ?_⟩⟩
    · rw [onRing_of_init hu, ring_now, if_neg ho]
    · rw [onRing_of_init hu, ring_now, if_pos ho]
      rfl
    · rw [onRing_of_init hu, ring_now, if_neg ho]
    · rw [onRing_of_init hu, ring_now, if_pos ho]
      rfl
    · have hstat : IssuedBy s x (.rstat w n a) [] w 0 _ _ :=
        issuedBy_ring (rs := []) (exec_rstat w n a s) rfl (by simp only [plc]; omega) (by omega) hn hd nofun
      refine hstat.answers_next ?_
      rw [onRing_of_init hu, ring_now]
    · exact (ringWait_answers (exec_rwaitd w n a s) rfl (by simp only [plc]; omega) (by omega) hn hc hinit h1 hv).1
    · exact (ringWait_answers (exec_rwaitd w n a s) rfl (by simp only [plc]; omega) (by omega) hn hc hinit h1 hv).2
    · exact (ringWait_answers (exec_rwaits w n a s) rfl (by simp only [plc]; omega) (by omega) hn hc hinit h1 hv).1
    · exact (ringWait_answers (exec_rwaits w n a s) rfl (by simp only [plc]; omega) (by omega) hn hc hinit h1 hv).2
  · have hu : (ring u x.c n.toNat).init = false := (congrArg Ring.init (ring_now ..)).trans hinit
    exact ⟨hpush.answers_trap (onRing_of_uninit hu _), hpop.answers_trap (onRing_of_uninit hu _)⟩

end Sys2Proof.Machine
end

section
/-! PROOFS. The BAR instructions (R311, R313 to R318). -/

namespace Sys2Proof.Machine

-- One proof after the other: side by side they take more threads and memory than the check of the whole text has.
set_option Elab.async false

theorem bar_eq (fn : Nat) (w : BitVec 3) (n a b : BitVec 5) (reads : List Nat) (legal : Bool) (s : State) (f : Ctx → State → Act) :
    bar fn w n a b reads legal s f = issue { word := wordB fn w n a b, legal := legal, reads := reads, sync := reads } s f := rfl

section now
variable (s : State) (x : Ctx)
@[simp] theorem barrier_now (c b : Nat) : barrier (now s x) c b = barrier s c b := by rw [barrier, core_now, barrier]
@[simp] theorem barrierLo_now (c b : Nat) : barrierLo (now s x) c b = barrierLo s c b := now_congr s x (barrierLo · c b) fun _ _ _ => rfl

theorem rd_now_val (r : BitVec 5) : x.rd (now s x) (rn r) = x.val s r := by
  rw [rn, rd_now]
  rfl
end now

section
variable {s : State} {x : Ctx} {w : BitVec 3} {n a b : BitVec 5}

/-- A barrier of which no event stands in the store buffer is read at once (R293, R318). -/
theorem readBarrier_of_quiet (h : ∀ e ∈ (stream s x.c x.x).sb, ∀ kind cnt, e.op ≠ .bar x.c n.toNat kind cnt) (k : Barrier → Act) :
    readBarrier x (now s x) n.toNat k = k (barrier s x.c n.toNat) := by
  rw [readBarrier, stream_now_sb, barrier_now, if_neg]
  rw [List.any_eq_true]
  rintro ⟨e, he, hop⟩
  split at hop
  · next core b kind cnt heq =>
    rw [Bool.and_eq_true, beq_iff_eq, beq_iff_eq] at hop
    exact h e he kind cnt (by rw [heq, hop.1, hop.2])
  · cases hop

/-- The word of an event on a barrier of this core (R314): no reserved bit is set and it names no other core. -/
theorem arr_local {v : Word} (hv : v.toNat < 2 ^ 32) : arrRmt v = false ∧ arrVal v = v.toNat ∧ arrCore v = 0 ∧ arrCube v = 0 := by
  refine ⟨?_, Nat.mod_eq_of_lt hv, by simp only [arrCore]; omega, by simp only [arrCube]; omega⟩
  rw [arrRmt, BitVec.getLsbD]
  exact Nat.testBit_eq_false_of_lt (by omega)

theorem arrOk_local {kind : Nat} {v : Word} (hv : v.toNat < 2 ^ 32) (hk : kind = 0 → v.toNat < 2 ^ 16) : arrOk kind v = true := by
  obtain ⟨hrmt, hval, hcore, hcube⟩ := arr_local hv
  have hz : v.toNat / 2 ^ 58 = 0 := by omega
  have hb : (kind == 0 && decide (2 ^ 16 ≤ v.toNat)) = false := by
    rw [Bool.and_eq_false_iff, beq_eq_false_iff_ne, decide_eq_false_iff_not, Nat.not_le]
    exact (Decidable.em (kind = 0)).symm.imp_right hk
  rw [arrOk, hrmt, hval, hcore, hcube, hz, hb]
  rfl

def barSendIssue (kind : Nat) (w : BitVec 3) (n a : BitVec 5) : Issue :=
  { word := wordB (1 + kind) w n a 0, legal := true, reads := [rn a], sync := [rn a] }

def barSendAct (kind : Nat) (w : BitVec 3) (n a : BitVec 5) (x : Ctx) (s : State) : Act :=
  if x.got.isSome then .next s
  else
    let v := x.rd s (rn a)
    let e (core : Nat) : SbEntry :=
      { slot := x.sl, op := .bar core n.toNat kind (arrCount kind v), va := v, pa := none, size := 8, val := v, poison := false,
        window := false, counted := false }
    if !arrOk kind v then .trap (illegalOf (wordB (1 + kind) w n a 0))
    else if arrRmt v = false then
      let k := barrier s x.c n.toNat
      if k.v = false ∨ k.rb = true then .trap (barTrap n.toNat) else pushStore x s (e x.c)
    else if arrCube v = cubeId s then
      if kindOf (arrCore v) = .steward ∨ kindOf (arrCore v) = .absent ∨ inPartition s (arrCore v) (slot s x.c x.sl).hdr.part = false
        then .trap { cause := .bounds, addr := BitVec.ofNat 64 (arrCore v) }
      else pushStore x s (e (arrCore v))
    else farBar x s n.toNat kind v

theorem barSend_eq (kind : Nat) (w : BitVec 3) (n a : BitVec 5) (s : State) :
    barSend kind w n a s = issue (barSendIssue kind w n a) s (barSendAct kind w n a) := rfl

/-- An event on a barrier of this core, by the barrier's state. -/
theorem barSendAct_local {kind : Nat} (hr : x.reply = none) (hv : (x.val s a).toNat < 2 ^ 32) (hk : kind = 0 → (x.val s a).toNat < 2 ^ 16) :
    barSendAct kind w n a x (now s x)
      = if (barrier s x.c n.toNat).v = false ∨ (barrier s x.c n.toNat).rb = true then .trap (barTrap n.toNat)
        else pushStore x (now s x) { slot := x.sl, op := .bar x.c n.toNat kind (arrCount kind (x.val s a)), va := x.val s a, pa := none, size := 8,
                                     val := x.val s a, poison := false, window := false, counted := false } := by
  rw [barSendAct, Ctx.got, hr, rd_now_val]
  dsimp only
  rw [arrOk_local hv hk, (arr_local hv).1, barrier_now]
  rfl

theorem issuedBy_barSend {i : Instr} {kind : Nat} {word : Nat} (hi : exec i s = barSend kind w n a s) (he : encode i = some word)
    (hword : word = wordB (1 + kind) w n a 0) (hkind : kind < 2) (hc : Clean s x [a]) :
    IssuedBy s x i [a] w 0 (barSendIssue kind w n a) (barSendAct kind w n a) where
  exec := hi.trans (barSend_eq ..)
  word := he.trans (congrArg some hword)
  wait := by simp only [barSendIssue, wordB, word3, BitVec.ofNat_eq_ofNat, BitVec.toNat_zero]; omega
  rounds := by simp [barSendIssue]
  level := by simp [barSendIssue]
  sync := poisoned_now_of_clean hc

/-- An event on a valid barrier of this core enters the store buffer. -/
theorem barSend_enters {i : Instr} {kind : Nat} (h : IssuedBy s x i [a] w 0 (barSendIssue kind w n a) (barSendAct kind w n a))
    (hv : (barrier s x.c n.toNat).v = true) (hrb : (barrier s x.c n.toNat).rb = false) (hsb : (stream s x.c x.x).sb.length < 16)
    (hA : (x.val s a).toNat < 2 ^ 32) (hk : kind = 0 → (x.val s a).toNat < 2 ^ 16) :
    Answers s x i [a] (after w 0 x (updStream (now s x) x.c x.x fun v =>
      { v with sb := v.sb ++ [{ slot := x.sl, op := .bar x.c n.toNat kind (arrCount kind (x.val s a)), va := x.val s a, pa := none, size := 8,
                                val := x.val s a, poison := false, window := false, counted := false }] })) := by
  intro hissue
  refine h.answers_next ?_ hissue
  rw [barSendAct_local hissue.2.1 hA hk, if_neg (by simp [hv, hrb]), pushStore_of_room (by simpa using hsb) fun h => Bool.noConfusion h]
  rfl
end

/-- Settles O26: each form by the state of the barrier it names. -/
theorem barrierInstructions : Obligations.BarrierInstructions := by
  intro s x w n a b u i k A T quiet push
  have hbarrive (hc : Clean s x [a]) : IssuedBy s x (.barrive w n a) [a] w 0 _ _ :=
    issuedBy_barSend (exec_barrive w n a s) rfl (by simp only [plc, wordB, word3, BitVec.ofNat_eq_ofNat, BitVec.toNat_zero]; omega) (by omega) hc
  have hbexpect (hc : Clean s x [a]) : IssuedBy s x (.bexpect w n a) [a] w 0 _ _ :=
    issuedBy_barSend (exec_bexpect w n a s) rfl (by simp only [plc, wordB, word3, BitVec.ofNat_eq_ofNat, BitVec.toNat_zero]; omega) (by omega) hc
  have hbwait (hc : Clean s x [a]) : IssuedBy s x (.bwait w n a) [a] w 0 _ _ :=
    { exec := (exec_bwait w n a s).trans (bar_eq ..), sync := poisoned_now_of_clean hc }
  refine ⟨fun hc hd h1 hA => ?_, fun hd => ?_, fun hc hv hrb hsb => ⟨fun hA => ?_, fun hA => ?_⟩, fun hc hv hA hissue => ?_,
    fun hc hq hv hissue => ?_, fun hc hq hv => ?_, fun hl hc hq => ?_⟩
  · have hbinit : IssuedBy s x (.binit w n a) [a] w 0 _ _ :=
      { exec := (exec_binit w n a s).trans (bar_eq ..), sync := poisoned_now_of_clean hc }
    have hA' : ¬ 65536 ≤ (x.val s a).toNat := Nat.not_le.mpr hA
    have h0 : (x.val s a).toNat ≠ 0 := Nat.pos_iff_ne_zero.mp h1
    refine ⟨fun hv => hbinit.answers_next ?_, fun hv => hbinit.answers_trap ?_⟩
    · dsimp only
      rw [rd_now_val, if_neg hA', drainStep_now_of_drained hd, barrier_now]
      exact if_neg (by simp [h0, show (barrier s x.c n.toNat).v = false from hv])
    · dsimp only
      rw [rd_now_val, if_neg hA', drainStep_now_of_drained hd, barrier_now]
      exact if_pos (.inr hv)
  · have hbinv : IssuedBy s x (.binv w n) [] w 0 _ _ := { exec := (exec_binv w n s).trans (bar_eq ..) }
    refine ⟨fun hrb => hbinv.answers_trap ?_, fun hrb hv => hbinv.answers_next ?_, fun hrb hv => hbinv.answers_next ?_⟩
    · rw [drainStep_now_of_drained hd, barrier_now]
      exact if_pos hrb
    · rw [drainStep_now_of_drained hd, barrier_now]
      dsimp only
      rw [show (barrier s x.c n.toNat).rb = false from hrb, show (barrier s x.c n.toNat).v = false from hv]
      rfl
    · rw [drainStep_now_of_drained hd, barrier_now]
      dsimp only
      rw [show (barrier s x.c n.toNat).rb = false from hrb, show (barrier s x.c n.toNat).v = true from hv]
      rfl
  · have hcount : arrCount 0 A = if A = 0 then 1 else A.toNat := by
      have hval : arrVal A = A.toNat := Nat.mod_eq_of_lt (by omega)
      rw [arrCount, hval]
      simp only [true_and, BitVec.toNat_eq, BitVec.ofNat_eq_ofNat, BitVec.toNat_zero]
    have h := barSend_enters (hbarrive hc) hv hrb hsb (hA.trans (by norm_num)) fun _ => hA
    rw [hcount] at h
    exact h
  · have hcount : arrCount 1 A = A.toNat := (if_neg (by simp)).trans (Nat.mod_eq_of_lt hA)
    have h := barSend_enters (hbexpect hc) hv hrb hsb hA nofun
    rw [hcount] at h
    exact h
  · exact (hbarrive hc).answers_trap ((barSendAct_local hissue.2.1 (hA.trans (by norm_num)) fun _ => hA).trans (if_pos (.inl hv))) hissue
  · refine (hbwait hc).answers_trap ?_ hissue
    rw [Ctx.got, hissue.2.1, readBarrier_of_quiet hq]
    exact if_pos hv
  · have hbody (hissue : Issues s x (.bwait w n a) [a]) (f : Barrier → Act) :
        (if x.got.isSome then Act.next u else readBarrier x u n.toNat f) = f k := by
      rw [Ctx.got, hissue.2.1, readBarrier_of_quiet hq]
      rfl
    have hvn : ¬ (barrier s x.c n.toNat).v = false := by rw [show (barrier s x.c n.toNat).v = true from hv]; simp
    refine ⟨fun hne hissue => (hbwait hc).answers_next ((hbody hissue _).trans ?_) hissue, fun heq => ?_⟩
    · dsimp only
      rw [if_neg hvn, rd_now_val]
      exact if_pos hne
    · rw [(hbwait hc).word, Option.getD_some]
      refine fun hissue => (hbwait hc).answers_park ((hbody hissue _).trans ?_) hissue
      dsimp only
      rw [if_neg hvn, rd_now_val]
      exact if_neg (not_not.mpr heq)
  · intro W
    have hbtest : IssuedBy s x (.btest w n a b) [b] w 0 _ _ :=
      { exec := (exec_btest w n a b s).trans (bar_eq ..), legal := hl, sync := poisoned_now_of_clean hc }
    refine ⟨fun hB => hbtest.answers_next ?_, fun hB => hbtest.answers_next ?_⟩
    · dsimp only
      rw [rd_now_val, hB, readBarrier_of_quiet hq, barrierLo_now]
      have hlo : barrierLo s x.c n.toNat = BitVec.ofNat 64 (k.pcnt % 65536 + k.arr % 65536 * 2 ^ 16 + k.exp % 65536 * 2 ^ 32
          + (if k.v then 1 else 0) * 2 ^ 48 + (if k.rb then 1 else 0) * 2 ^ 49 + (if k.err then 1 else 0) * 2 ^ 50
          + (if (barWaiters s x.c i).isEmpty then 0 else 1) * 2 ^ 51) := by
        have hw : b2n (!(barWaiters s x.c i).isEmpty) = if (barWaiters s x.c i).isEmpty then 0 else 1 := by
          cases (barWaiters s x.c i).isEmpty <;> rfl
        rw [← hw]
        rfl
      rw [hlo]
      rfl
    · dsimp only
      rw [rd_now_val, hB, readBarrier_of_quiet hq]
      rfl

end Sys2Proof.Machine
end

section
/-! PROOFS. Returning atomics, RSV and RLS (R283 to R287) on own SRAM. -/

namespace Sys2Proof.Machine

-- One proof after the other: side by side they take more threads and memory than the check of the whole text has.
set_option Elab.async false

/-! ## What a charge to a traveller leaves unchanged -/

theorem chargeTravAt_congr {α : Sort*} {s : State} (g : State → α)
    (hg : ∀ d a f m, g { s with metered := d, meters := a, flushes := f, slots := m } = g s) (c sl m k n : Nat) :
    g (chargeTravAt s c sl m k n) = g s := by
  obtain ⟨d, a, f, fare, h⟩ := chargeTravAt_eq s c sl m k n
  rw [h]
  exact hg d a f _

section charge
variable (s : State) (c sl m k n : Nat)
@[simp] theorem mem_chargeTravAt : (chargeTravAt s c sl m k n).mem = s.mem := chargeTravAt_congr State.mem (fun _ _ _ _ => rfl) ..
@[simp] theorem latent_chargeTravAt : (chargeTravAt s c sl m k n).latent = s.latent := chargeTravAt_congr State.latent (fun _ _ _ _ => rfl) ..
@[simp] theorem softErr_chargeTravAt : (chargeTravAt s c sl m k n).softErr = s.softErr := chargeTravAt_congr State.softErr (fun _ _ _ _ => rfl) ..
@[simp] theorem resvQ_chargeTravAt : (chargeTravAt s c sl m k n).resvQ = s.resvQ := chargeTravAt_congr State.resvQ (fun _ _ _ _ => rfl) ..
@[simp] theorem homeFree_chargeTravAt (pa : Nat) : homeFree (chargeTravAt s c sl m k n) pa = homeFree s pa :=
  chargeTravAt_congr (homeFree · pa) (fun _ _ _ _ => rfl) ..
@[simp] theorem poisonedAt_chargeTravAt (pa j : Nat) : poisonedAt (chargeTravAt s c sl m k n) pa j = poisonedAt s pa j :=
  chargeTravAt_congr (poisonedAt · pa j) (fun _ _ _ _ => rfl) ..
@[simp] theorem ecxOf_chargeTravAt (c' sl' : Nat) : ecxOf (chargeTravAt s c sl m k n) c' sl' = ecxOf s c' sl' :=
  chargeTravAt_congr (ecxOf · c' sl') (fun _ _ _ _ => rfl) ..
@[simp] theorem rd_chargeTravAt (x : Ctx) (r : Nat) : x.rd (chargeTravAt s c sl m k n) r = x.rd s r :=
  chargeTravAt_congr (x.rd · r) (fun _ _ _ _ => rfl) ..
end charge

section tlb
variable (s : State) (c p va : Nat)
@[simp] theorem latent_tlbTouch : (tlbTouch s c p va).latent = s.latent := by obtain ⟨cs, h, -⟩ := tlbTouch_eq s c p va; rw [h]
@[simp] theorem softErr_tlbTouch : (tlbTouch s c p va).softErr = s.softErr := by obtain ⟨cs, h, -⟩ := tlbTouch_eq s c p va; rw [h]
@[simp] theorem resvQ_tlbTouch : (tlbTouch s c p va).resvQ = s.resvQ := by obtain ⟨cs, h, -⟩ := tlbTouch_eq s c p va; rw [h]
@[simp] theorem homeFree_tlbTouch (pa : Nat) : homeFree (tlbTouch s c p va) pa = homeFree s pa := by
  obtain ⟨cs, h, -⟩ := tlbTouch_eq s c p va; rw [h]; rfl
@[simp] theorem poisonedAt_tlbTouch (pa n : Nat) : poisonedAt (tlbTouch s c p va) pa n = poisonedAt s pa n := by
  obtain ⟨cs, h, -⟩ := tlbTouch_eq s c p va; rw [h]; rfl
@[simp] theorem barOnWay_tlbTouch (c' : Nat) (x : Bool) : barOnWay (tlbTouch s c p va) c' x = barOnWay s c' x := by
  obtain ⟨cs, h, -⟩ := tlbTouch_eq s c p va; rw [h]; rfl
@[simp] theorem rd_tlbTouch (x : Ctx) (r : Nat) : x.rd (tlbTouch s c p va) r = x.rd s r := by
  obtain ⟨t, h⟩ := core_tlbTouch s c p va x.c
  simp only [Ctx.rd, regValue, tidOf, stream_tlbTouch, wsRd_tlbTouch, h]
theorem drainAll_tlbTouch_eq_none {s : State} {x : Ctx} (h : drainAll s x = none) (c p va : Nat) : drainAll (tlbTouch s c p va) x = none := by
  rw [drainAll] at h ⊢
  rw [stream_tlbTouch, barOnWay_tlbTouch]
  by_cases hq : ((stream s x.c x.x).sb.isEmpty && !barOnWay s x.c x.x) = true
  · exact if_pos hq
  · rw [if_neg hq] at h
    cases h
end tlb

@[simp] theorem resvQ_now (s : State) (x : Ctx) : (now s x).resvQ = s.resvQ := now_congr s x State.resvQ fun _ _ _ => rfl
@[simp] theorem homeFree_now (s : State) (x : Ctx) (pa : Nat) : homeFree (now s x) pa = homeFree s pa := now_congr s x (homeFree · pa) fun _ _ _ => rfl
@[simp] theorem poisonedAt_now (s : State) (x : Ctx) (pa n : Nat) : poisonedAt (now s x) pa n = poisonedAt s pa n :=
  now_congr s x (poisonedAt · pa n) fun _ _ _ => rfl

/-! ## The home of a double of own SRAM -/

theorem bounds_of_sramSize {c off : Nat} (h : off < sramSize c) : c < 6480 ∧ off < 2 ^ 20 := by
  unfold sramSize at h
  split at h
  · next hk =>
    unfold kindOf at hk
    split_ifs at hk
    omega
  · omega
  · next hk =>
    refine ⟨?_, by omega⟩
    by_contra hc
    exact hk (by rw [kindOf, if_neg (by omega), if_neg (by omega), if_neg (by omega)])

/-- An address in a core's data or ring region is that core's, and no address of another cube. -/
theorem home_of_region {s : State} {c off : Nat} (h : regionOf s c off = .data ∨ regionOf s c off = .ring) :
    sramPa c off < 2 ^ 60 ∧ homeOf (sramPa c off) = .core c off := by
  have hoff : off < sramSize c := by
    by_contra hge
    rw [regionOf, if_pos (Nat.not_lt.mp hge)] at h
    simp at h
  obtain ⟨hc, ho⟩ := bounds_of_sramSize hoff
  have hcore : (sramPa c off - 2 ^ 54) / 2 ^ 28 = c := by simp only [sramPa, sramBase]; omega
  have hrest : (sramPa c off - 2 ^ 54) % 2 ^ 28 = off := by simp only [sramPa, sramBase]; omega
  refine ⟨by simp only [sramPa, sramBase]; omega, ?_⟩
  rw [homeOf, if_pos (by simp only [sramPa, sramBase]; omega), hcore, hrest]

theorem releaseRoom_of_core {s : State} {pa c off : Nat} (h60 : pa < 2 ^ 60) (h : homeOf pa = .core c off) : releaseRoom s pa = true := by
  rw [releaseRoom, if_neg (Nat.not_le.mpr h60), servable, h]

theorem releaseTo_here {pa : Nat} (h60 : pa < 2 ^ 60) (s : State) (c sl size : Nat) (v : Word) :
    releaseTo s c sl pa size v = applyRelease s c sl pa size v (ecxOf s c sl) := if_neg (Nat.not_le.mpr h60)

/-! ## A free double (R284) -/

/-- The state in which the double at `off` of the core's own SRAM is granted to the traveller at once. -/
def granted (x : Ctx) (s : State) (va off : Nat) : State :=
  let t := chargeAccess x (tlbTouch s x.c (slot s x.c x.sl).hdr.part va) (.own off)
  { t with resvQ := insertAt t.resvQ (sramPa x.c off / 8 * 8) [{ core := x.c, slot := x.sl, granted := true, since := t.cycle }] }

section granted
variable {x : Ctx} {s : State} {va n off : Nat}

theorem withDouble_own (hr : x.reply = none) (hresv : (slot s x.c x.sl).resv = none) (ha : va % n = 0)
    (hreach : reach s x.c x.x (slot s x.c x.sl).hdr.part va true true = .own off)
    (hreg : regionOf s x.c off = .data ∨ regionOf s x.c off = .ring) (hd : drainAll s x = none)
    (hq : mget [] s.resvQ (sramPa x.c off / 8 * 8) = []) (hf : homeFree s (sramPa x.c off) = true) (hl : s.latent = []) (he : s.softErr = [])
    (hp : poisonedAt s (sramPa x.c off) n = false) (k : State → Nat → Nat → Act) :
    withDouble x s va n k = k (granted x s va off) (sramPa x.c off) (rdN s.mem (sramPa x.c off) n) := by
  have htarget : atomTarget s x.c (.own off) = true := by
    rw [atomTarget]
    rcases hreg with h | h <;> rw [h] <;> rfl
  have htarget' : atomTarget (tlbTouch s x.c (slot s x.c x.sl).hdr.part va) x.c (.own off) = true := by
    rw [← htarget, atomTarget, atomTarget, regionOf_tlbTouch]
  have hfe (m : Nat) : findErrors (chargeTravAt (tlbTouch s x.c (slot s x.c x.sl).hdr.part va) x.c x.sl (meterOf x.c) 4 1) (sramPa x.c off) n 4 m
      = chargeTravAt (tlbTouch s x.c (slot s x.c x.sl).hdr.part va) x.c x.sl (meterOf x.c) 4 1 :=
    findErrors_of_noErrors (by simpa using hl) (by simpa using he) ..
  rw [withDouble, got_eq_none hr]
  dsimp only
  rw [hresv, access_of_reach ha hreach rfl]
  simp only [htarget', drainAll_tlbTouch_eq_none hd, Reach.pa, Option.getD_some, chargeAccess, chargeTrav, hfe, resvQ_chargeTravAt, resvQ_tlbTouch, hq,
    homeFree_chargeTravAt, homeFree_tlbTouch, hf, poisonedAt_chargeTravAt, poisonedAt_tlbTouch, hp, mem_chargeTravAt, mem_tlbTouch,
    List.isEmpty_nil, Bool.and_true, Bool.not_true, Bool.false_eq_true, if_true, if_false, Option.isSome_none]
  rw [granted]
  simp only [chargeAccess, chargeTrav, resvQ_chargeTravAt, resvQ_tlbTouch, mem_chargeTravAt, mem_tlbTouch]

theorem ecxOf_resvQ (s : State) (q : SMap (List ResvReq)) (c sl : Nat) : ecxOf { s with resvQ := q } c sl = ecxOf s c sl := rfl
theorem rd_resvQ (x : Ctx) (s : State) (q : SMap (List ResvReq)) (r : Nat) : x.rd { s with resvQ := q } r = x.rd s r := rfl
theorem ecxOf_updSlot (s : State) (c sl c' sl' : Nat) (f : Slot → Slot) : ecxOf (updSlot s c sl f) c' sl' = ecxOf s c' sl' := rfl
theorem rd_updSlot (x : Ctx) (s : State) (c sl : Nat) (f : Slot → Slot) (r : Nat) : x.rd (updSlot s c sl f) r = x.rd s r := rfl

theorem ecxOf_granted : ecxOf (granted x s va off) x.c x.sl = ecxOf s x.c x.sl := by
  rw [granted, ecxOf_resvQ, chargeAccess, chargeTrav, ecxOf_chargeTravAt, ecxOf_tlbTouch]

theorem rd_granted (r : Nat) : x.rd (granted x s va off) r = x.rd s r := by
  rw [granted, rd_resvQ, chargeAccess, chargeTrav, rd_chargeTravAt, rd_tlbTouch]
end granted

/-! ## Returning atomics (R285) -/

def atomicReads (op : Nat) (d a b : BitVec 5) : List Nat := if op = 9 then [rn a, rn b, rn d] else [rn a, rn b]

def atomicIssue (op : Nat) (w : BitVec 3) (d a b : BitVec 5) (z : BitVec 1) : Issue :=
  { word := wordA 0x1D800000 op w d a b z, legal := destOk d, reads := atomicReads op d a b, sync := atomicReads op d a b, fare := 7 }

def atomicAct (op : Nat) (w : BitVec 3) (d a b : BitVec 5) (z : BitVec 1) (x : Ctx) (s : State) : Act :=
  let va := ea56 (x.rd s (rn a))
  (withDouble x s va (asize z) fun s pa old =>
    if !releaseRoom s pa then .park 6 (.grantRoom pa (BitVec.ofNat 64 va) (BitVec.ofNat 64 (old * 2 ^ (8 * (pa % 8))))) s
    else
      let new := atomNew op (asize z) old ((x.rd s (rn b)).toNat % 2 ^ (8 * asize z)) (x.rd s (rn d)).toNat
      .next (x.wr (releaseTo s x.c x.sl pa (asize z) (BitVec.ofNat 64 new)) (rn d) (atomExt op z old))).withWord (wordA 0x1D800000 op w d a b z)

theorem atomic_eq (op : Nat) (w : BitVec 3) (d a b : BitVec 5) (z : BitVec 1) (s : State) :
    atomic op w d a b z s = issue (atomicIssue op w d a b z) s (atomicAct op w d a b z) := rfl

/-- The double of `n` bytes at `va`, at `off` of own SRAM, can be had at once (R284). -/
structure OwnDouble (s : State) (x : Ctx) (va n off : Nat) : Prop where
  free : (slot s x.c x.sl).resv = none
  aligned : va % n = 0
  own : reach (now s x) x.c x.x (slot s x.c x.sl).hdr.part va true true = .own off
  region : regionOf s x.c off = .data ∨ regionOf s x.c off = .ring
  quiet : Quiet s x
  unasked : mget [] s.resvQ (sramPa x.c off / 8 * 8) = []
  room : homeFree s (sramPa x.c off) = true
  noLatent : s.latent = []
  noSoft : s.softErr = []
  clean : poisonedAt s (sramPa x.c off) n = false

section own
variable {s : State} {x : Ctx} {w : BitVec 3} {d a b : BitVec 5} {z : BitVec 1} {n va off : Nat}

theorem OwnDouble.withDouble (h : OwnDouble s x va n off) (hr : x.reply = none) (k : State → Nat → Nat → Act) :
    withDouble x (now s x) va n k = k (granted x (now s x) va off) (sramPa x.c off) (rdN (now s x).mem (sramPa x.c off) n) := by
  obtain ⟨hfree, ha, hreach, hreg, hq, hask, hroom, hl, he, hp⟩ := h
  exact withDouble_own hr (by rwa [slot_now]) ha (by rwa [slot_now]) (by simpa using hreg) (drainAll_now_of_quiet hq) (by rwa [resvQ_now])
    (by rwa [homeFree_now]) (by rwa [latent_now]) (by rwa [softErr_now]) (by rwa [poisonedAt_now]) k

/-- The state after the atomic on the double has left `new` and written `v` to rd. -/
def atomicDone (s : State) (x : Ctx) (w : BitVec 3) (d : BitVec 5) (n va off new : Nat) (v : Word) : State :=
  after w 7 x (x.wr (applyRelease (granted x (now s x) va off) x.c x.sl (sramPa x.c off) n (BitVec.ofNat 64 new) (ecxOf s x.c x.sl)) d.toNat v 0)

/-- A returning atomic on a free double of own SRAM. -/
theorem atomic_answers {op : Nat} {i : Instr} {word : Nat} {rs : List (BitVec 5)} (hd : destOk d = true)
    (h : OwnDouble s x ((x.val s a).toNat % 2 ^ 56) (asize z) off) (hc : Clean s x rs) (hi : exec i s = atomic op w d a b z s)
    (he : encode i = some word) (hword : word = wordA 0x1D800000 op w d a b z := by simp only [plc, wordA, word3]; omega)
    (hop : op < 11 := by omega) (hrs : atomicReads op d a b = rs.map BitVec.toNat := by rfl) :
    Answers s x i rs (atomicDone s x w d (asize z) ((x.val s a).toNat % 2 ^ 56) off
      (atomNew op (asize z) (rdN (now s x).mem (sramPa x.c off) (asize z)) ((x.val s b).toNat % 2 ^ (8 * asize z)) (x.val s d).toNat)
      (atomExt op z (rdN (now s x).mem (sramPa x.c off) (asize z)))) := by
  have hb : IssuedBy s x i rs w 7 (atomicIssue op w d a b z) (atomicAct op w d a b z) :=
    { exec := hi.trans (atomic_eq ..)
      word := he.trans (congrArg some hword)
      wait := by simp only [atomicIssue, wordA, word3]; omega
      reads := hrs
      legal := hd
      rounds := by simp [atomicIssue]
      level := by simp [atomicIssue]
      sync := fun r hr => poisoned_now_of_clean hc r (hrs ▸ hr) }
  intro hissue
  refine hb.answers_next ?_ hissue
  obtain ⟨h60, hhome⟩ := home_of_region h.region
  rw [atomicAct, ea56_rd_now]
  dsimp only
  rw [h.withDouble hissue.2.1, releaseRoom_of_core h60 hhome]
  rw [rd_granted, rd_granted, rd_now_val, rd_now_val, releaseTo_here h60, ecxOf_granted, ecxOf_now]
  rfl

def rsvAct (w : BitVec 3) (d a : BitVec 5) (z : BitVec 1) (x : Ctx) (s : State) : Act :=
  let va := ea56 (x.rd s (rn a))
  (withDouble x s va (asize z) fun s pa old =>
    let r : Resv := { pa := pa, size := asize z, va := BitVec.ofNat 64 va }
    .next (x.wr (updSlot s x.c x.sl fun k => { k with resv := some r, voided := none }) (rn d) (atomExt 0 z old))).withWord
      (wordA 0x1D800000 11 w d a 0 z)
theorem rsv_eq (w : BitVec 3) (d a : BitVec 5) (z : BitVec 1) (s : State) : execRsv w d a z s
    = issue { word := wordA 0x1D800000 11 w d a 0 z, legal := destOk d, reads := [rn a], sync := [rn a], fare := 7 } s (rsvAct w d a z) := rfl

theorem rsv_answers (hd : destOk d = true) (h : OwnDouble s x ((x.val s a).toNat % 2 ^ 56) (asize z) off) (hc : Clean s x [a]) :
    Answers s x (.rsv w d a z) [a] (after w 7 x (x.wr (updSlot (granted x (now s x) ((x.val s a).toNat % 2 ^ 56) off) x.c x.sl fun k =>
      { k with resv := some { pa := sramPa x.c off, size := asize z, va := BitVec.ofNat 64 ((x.val s a).toNat % 2 ^ 56) }, voided := none }) d.toNat
      (atomExt 0 z (rdN (now s x).mem (sramPa x.c off) (asize z))) 0)) := by
  have hb : IssuedBy s x (.rsv w d a z) [a] w 7 _ _ :=
    { exec := (exec_rsv w d a z s).trans (rsv_eq ..), legal := hd, sync := poisoned_now_of_clean hc }
  intro hissue
  refine hb.answers_next ?_ hissue
  rw [rsvAct, ea56_rd_now]
  dsimp only
  rw [h.withDouble hissue.2.1]
  rfl
end own

/-! ## RLS (R286, R287) -/

section rls
variable {s : State} {x : Ctx} {w : BitVec 3} {a b : BitVec 5} {z : BitVec 1}

theorem rlsOf_resv {k : Slot} {r : Resv} {va : Nat} (h : k.resv = some r) :
    rlsOf k va = if va / 8 = r.va.toNat / 8 then some (r, false) else none := by rw [rlsOf, h]
theorem rlsOf_voided {k : Slot} {r : Resv} {va : Nat} (h : k.resv = none) (hv : k.voided = some r) :
    rlsOf k va = if va / 8 = r.va.toNat / 8 then some (r, true) else none := by rw [rlsOf, h, hv]

theorem rlsOf_eq_none {k : Slot} {va : Nat} (h : k.resv = none) (hv : ∀ r, k.voided = some r → va / 8 ≠ r.va.toNat / 8) : rlsOf k va = none := by
  cases hk : k.voided with
  | none => rw [rlsOf, h, hk]
  | some r => rw [rlsOf_voided h hk, if_neg (hv r hk)]

/-- RLS of a double that the traveller neither holds nor has lost. -/
theorem rls_illegal (hc : Clean s x [a, b]) (h : rlsOf (slot s x.c x.sl) ((x.val s a).toNat % 2 ^ 56) = none) :
    Answers s x (.rls w a b z) [a, b] (trapped x s { cause := .illegal, addr := BitVec.ofNat 64 ((encode (.rls w a b z)).getD 0) }) := by
  have hb : IssuedBy s x (.rls w a b z) [a, b] w 7 _ _ :=
    { exec := (exec_rls w a b z s).trans (by delta execRls; rfl), sync := poisoned_now_of_clean hc }
  rw [hb.word, Option.getD_some]
  intro hissue
  refine hb.answers_trap ?_ hissue
  dsimp only
  rw [got_eq_none hissue.2.1, ea56_rd_now, slot_now, h]
  rfl

/-- RLS of a double whose home was sealed since (R287). -/
theorem rls_sealed (hc : Clean s x [a, b]) {r : Resv} (h : rlsOf (slot s x.c x.sl) ((x.val s a).toNat % 2 ^ 56) = some (r, true))
    (ha : (x.val s a).toNat % 2 ^ 56 % asize z = 0) :
    Answers s x (.rls w a b z) [a, b] (trapped x s { cause := .sealed, sub := 1, addr := BitVec.ofNat 64 ((x.val s a).toNat % 2 ^ 56) }) := by
  have hb : IssuedBy s x (.rls w a b z) [a, b] w 7 _ _ :=
    { exec := (exec_rls w a b z s).trans (by delta execRls; rfl), sync := poisoned_now_of_clean hc }
  intro hissue
  refine hb.answers_trap ?_ hissue
  dsimp only
  rw [got_eq_none hissue.2.1, ea56_rd_now, slot_now, h]
  dsimp only
  rw [if_neg (not_not.mpr ha)]
  rfl

theorem rd_chargeAccess_own (x : Ctx) (s : State) (off r : Nat) : x.rd (chargeAccess x s (.own off)) r = x.rd s r := rd_chargeTravAt ..

/-- RLS of the double held, in own SRAM. -/
theorem rls_releases (hc : Clean s x [a, b]) {r : Resv} {off o : Nat}
    (h : rlsOf (slot s x.c x.sl) ((x.val s a).toNat % 2 ^ 56) = some (r, false))
    (ha : (x.val s a).toNat % 2 ^ 56 % asize z = 0) (hhome : homeOf r.pa = .core x.c off)
    (hpa : homeOf (r.pa / 8 * 8 + (x.val s a).toNat % 2 ^ 56 % 8) = .core x.c o) (h60 : r.pa < 2 ^ 60) (hq : Quiet s x) :
    Answers s x (.rls w a b z) [a, b] (after w 7 x (applyRelease (updSlot (chargeAccess x (now s x) (.own off)) x.c x.sl fun k =>
      { k with resv := none }) x.c x.sl (r.pa / 8 * 8 + (x.val s a).toNat % 2 ^ 56 % 8) (asize z) (x.val s b) (ecxOf s x.c x.sl))) := by
  have hb : IssuedBy s x (.rls w a b z) [a, b] w 7 _ _ :=
    { exec := (exec_rls w a b z s).trans (by delta execRls; rfl), sync := poisoned_now_of_clean hc }
  intro hissue
  refine hb.answers_next ?_ hissue
  have h60' : r.pa / 8 * 8 + (x.val s a).toNat % 2 ^ 56 % 8 < 2 ^ 60 := by omega
  have hfar : decide (2 ^ 60 ≤ r.pa) = false := decide_eq_false (Nat.not_le.mpr h60)
  have hseal : sealedFor (now s x) x.c (r.pa / 8 * 8 + (x.val s a).toNat % 2 ^ 56 % 8) = false := by
    simp only [sealedFor, coreOfPa, hpa, bne_self_eq_false, Bool.false_and]
  have hremote : (Cond.release (r.pa / 8 * 8 + (x.val s a).toNat % 2 ^ 56 % 8) 0).remote x.c = false := by
    simp only [Cond.remote, hpa, bne_self_eq_false]
  have hroom : releaseRoom (now s x) (r.pa / 8 * 8 + (x.val s a).toNat % 2 ^ 56 % 8) = true := releaseRoom_of_core h60' hpa
  have hrd : x.rd (updSlot (chargeAccess x (now s x) (.own off)) x.c x.sl fun k => { k with resv := none }) (rn b) = x.val s b := by
    rw [rd_updSlot, rd_chargeAccess_own, rd_now_val]
  have hecx : ecxOf (updSlot (chargeAccess x (now s x) (.own off)) x.c x.sl fun k => { k with resv := none }) x.c x.sl = ecxOf s x.c x.sl := by
    rw [ecxOf_updSlot, chargeAccess, chargeTrav, ecxOf_chargeTravAt, ecxOf_now]
  dsimp only
  rw [got_eq_none hissue.2.1, ea56_rd_now, slot_now, h]
  dsimp only
  rw [if_neg (not_not.mpr ha), hfar, hseal, drainAll_now_of_quiet hq, hremote, hroom, hhome]
  simp only [Option.isSome_none, Bool.not_false, Bool.and_false, Bool.or_false, Bool.not_true, Bool.false_eq_true, if_false, if_true, hrd]
  rw [releaseTo_here h60', hecx]
end rls

theorem asize_eq_four (z : BitVec 1) : asize z = 4 ↔ z = 0 := by
  rw [asize]
  split
  · next h => exact ⟨fun _ => h, fun _ => rfl⟩
  · next h => exact ⟨nofun, fun h' => absurd h' h⟩

theorem atomNew_red {op size old b c : Nat} (h : op < 8) : atomNew op size old b c = redOp op size old b := by
  rw [atomNew, if_neg (by omega), if_neg (by omega), if_neg (by omega)]

theorem atomExt_old {op : Nat} (z : BitVec 1) (v : Nat) (h : op ≠ 10) :
    atomExt op z v = if z = 0 then (BitVec.ofNat 32 v).signExtend 64 else BitVec.ofNat 64 v := by simp only [atomExt, h, ne_eq, not_false_eq_true, and_true]

/-- Settles O27: the atomics and RSV on a free double of own SRAM, RLS by what it finds of its double. -/
theorem atomicResults : Obligations.AtomicResults := by
  constructor
  · intro s x w d a b z off n m va p pa old B C sg t r ext fl done hd hresv ha hreach hreg hq hask hroom hl he hp
    have h : OwnDouble s x va n off := ⟨hresv, ha, hreach, hreg, hq, hask, hroom, hl, he, hp⟩
    have hr : granted x (now s x) va off = r := by
      simp only [granted, slot_now]
      rfl
    have hdone (new : Nat) (v : Word) : atomicDone s x w d n va off new v = done new v := by rw [atomicDone, hr]
    have red {op : Nat} {i : Instr} {rs : List (BitVec 5)} (hop : op < 8)
        (h : Answers s x i rs (atomicDone s x w d n va off (atomNew op n old B (x.val s d).toNat) (atomExt op z old))) :
        Answers s x i rs (done (redOp op n old B) (ext old)) := by
      rwa [atomNew_red hop, atomExt_old z old (by omega), hdone] at h
    refine ⟨fun hc => ⟨?_, ?_, ?_, ?_, ?_, ?_, ?_, ?_, ?_, ?_⟩, fun hc => ?_, fun hc => ?_⟩
    · exact red (op := 0) (by omega) (atomic_answers hd h hc (exec_amoadd w d a b z s) rfl)
    · exact red (op := 1) (by omega) (atomic_answers hd h hc (exec_amoand w d a b z s) rfl)
    · exact red (op := 2) (by omega) (atomic_answers hd h hc (exec_amoor w d a b z s) rfl)
    · exact red (op := 3) (by omega) (atomic_answers hd h hc (exec_amoxor w d a b z s) rfl)
    · exact red (op := 4) (by omega) (atomic_answers hd h hc (exec_amomin w d a b z s) rfl)
    · exact red (op := 5) (by omega) (atomic_answers hd h hc (exec_amomax w d a b z s) rfl)
    · exact red (op := 6) (by omega) (atomic_answers hd h hc (exec_amominu w d a b z s) rfl)
    · exact red (op := 7) (by omega) (atomic_answers hd h hc (exec_amomaxu w d a b z s) rfl)
    · have h8 := atomic_answers hd h hc (exec_amoswap w d a b z s) rfl
      rw [atomExt_old z _ (by omega)] at h8
      rw [← hdone]
      exact h8
    · have h10 := atomic_answers hd h hc (exec_amofadd w d a b z s) rfl
      have hnew : atomNew 10 n old B (x.val s d).toNat = fl := by
        have hn : (n = 4) ↔ z = 0 := asize_eq_four z
        have hred : atomNew 10 n old B (x.val s d).toNat = (fadd (if n = 4 then fp32 else fp64) old B .rne).bits := rfl
        rw [hred]
        simp only [hn, fl]
      have hext : atomExt 10 z old = BitVec.ofNat 64 old := if_neg (by simp)
      rw [← hdone, ← hnew, ← hext]
      exact h10
    · have h9 := atomic_answers hd h hc (exec_amocas w d a b z s) rfl
      rw [atomExt_old z _ (by omega)] at h9
      rw [← hdone]
      exact h9
    · have hrsv := rsv_answers hd h hc (w := w)
      rw [hr, atomExt_old z _ (by omega)] at hrsv
      exact hrsv
  · intro s x w a b z r off n va pa T hc
    refine ⟨fun hresv hvoid => rls_illegal hc (rlsOf_eq_none hresv hvoid), fun v hresv hvoid hva ha => ?_, fun hresv => ⟨fun hva => ?_, ?_⟩⟩
    · exact rls_sealed hc ((rlsOf_voided hresv hvoid).trans (if_pos hva)) ha
    · exact rls_illegal hc ((rlsOf_resv hresv).trans (if_neg hva))
    · exact fun hva ha hhome hpa h60 hq => rls_releases hc ((rlsOf_resv hresv).trans (if_pos hva)) ha hhome hpa h60 hq

end Sys2Proof.Machine
end

section
/-! PROOFS. LDAQ, STRL and the REDs (R283, R289, R290, R299) on own SRAM. -/

namespace Sys2Proof.Machine

-- One proof after the other: side by side they take more threads and memory than the check of the whole text has.
set_option Elab.async false

section
variable {x : Ctx} {s : State} {va n off : Nat}

/-- A load that traps on poison, of own SRAM without any (R289). -/
theorem loadBody_sync {d : Nat} {ext : Nat → Word} (hr : x.reply = none) (ha : va % n = 0)
    (hreach : reach s x.c x.x (slot s x.c x.sl).hdr.part va true false = .own off) (hm : pendMet x s off n = false)
    (hf : forward (stream s x.c x.x).sb (sramPa x.c off) n = .none) (hl : s.latent = []) (he : s.softErr = [])
    (hp : poisonedAt s (sramPa x.c off) n = false) :
    let u := tlbTouch s x.c (slot s x.c x.sl).hdr.part va
    loadBody x s va n d ext true = .next (x.wr (chargeAccess x u (.own off)) d (ext (rdN u.mem (sramPa x.c off) n)) 0) := by
  intro u
  have hfe (m : Nat) : findErrors (tlbTouch s x.c (slot s x.c x.sl).hdr.part va) (sramPa x.c off) n 4 m
      = tlbTouch s x.c (slot s x.c x.sl).hdr.part va := findErrors_of_noErrors (by simpa using hl) (by simpa using he) ..
  rw [loadBody, got_eq_none hr]
  dsimp only
  rw [access_of_reach ha hreach rfl]
  simp only [Reach.pa, Option.getD_some, Option.map_some, pendMet_tlbTouch, hm, stream_tlbTouch, hf, Option.isSome_some, Bool.not_true, Bool.and_false,
    Bool.and_true, Bool.false_eq_true, if_false, if_true, hfe, poisonedAt_tlbTouch, hp, u]

/-- A store of own SRAM that takes effect through the store buffer, as the operation `op` (R113, R116). -/
theorem storeBody_own {r : Nat} {v : Word} {op : SbOp} (ha : va % n = 0)
    (hreach : reach s x.c x.x (slot s x.c x.sl).hdr.part va false true = .own off) (hreg : regionOf s x.c off ≠ .workspace)
    (hb : (stream s x.c x.x).sb.length < 16) :
    storeBody x s va n r v false op = .next (pushed x (tlbTouch s x.c (slot s x.c x.sl).hdr.part va) (.own off)
      { slot := x.sl, op := op, va := BitVec.ofNat 64 va, pa := some (sramPa x.c off), size := n, val := v, poison := false, window := false,
        counted := false }) := by
  rw [storeBody, access_of_reach ha hreach rfl]
  dsimp only
  rw [if_neg (by rwa [regionOf_tlbTouch]), pushStore_of_room (by rwa [stream_tlbTouch]) fun h => Bool.noConfusion h]
  rfl

/-- The store of an STRL to own SRAM without poison (R289). -/
theorem releaseStore_own {r : Nat} {v : Word} (ha : va % n = 0)
    (hreach : reach s x.c x.x (slot s x.c x.sl).hdr.part va false true = .own off) (hreg : regionOf s x.c off ≠ .workspace)
    (hb : (stream s x.c x.x).sb.length < 16) (ht : touchesBuffer s x.c x.x (sramPa x.c off / 16 * 16) 16 = false) (hl : s.latent = [])
    (he : s.softErr = []) (hp : poisonedAt s (sramPa x.c off) n = false) :
    releaseStore x s va n r v = .next (pushed x (tlbTouch s x.c (slot s x.c x.sl).hdr.part va) (.own off)
      { slot := x.sl, op := .store, va := BitVec.ofNat 64 va, pa := some (sramPa x.c off), size := n, val := v, poison := false, window := false,
        counted := false }) := by
  have htouch : touchesBuffer (tlbTouch s x.c (slot s x.c x.sl).hdr.part va) x.c x.x (sramPa x.c off / 16 * 16) 16 = false := by
    rwa [touchesBuffer, stream_tlbTouch, ← touchesBuffer]
  rw [releaseStore, access_of_reach ha hreach rfl]
  dsimp only
  rw [htouch, findErrors_of_noErrors (by simpa using hl) (by simpa using he), poisonedAt_tlbTouch, hp]
  simp only [Bool.false_eq_true, if_false]
  rw [if_neg (by rwa [regionOf_tlbTouch]), pushStore_of_room (by rwa [stream_tlbTouch]) fun h => Bool.noConfusion h]
  rfl
end

section red
variable {s : State} {x : Ctx} {w : BitVec 3} {a b : BitVec 5} {z : BitVec 1} {off : Nat}

def redIssue (op : Nat) (w : BitVec 3) (a b : BitVec 5) (z : BitVec 1) : Issue :=
  { word := wordA 0x1E000000 op w 0 a b z, reads := [rn a, rn b], sync := [rn a, rn b], fare := 8 }
theorem red_eq (op : Nat) (w : BitVec 3) (a b : BitVec 5) (z : BitVec 1) (s : State) :
    red op w a b z s = issue (redIssue op w a b z) s fun x s =>
      let va := ea56 (x.rd s (rn a))
      access x s va (asize z) false true fun s r =>
        if !atomTarget s x.c r then .trap (trapAt .bounds va)
        else storeBody x s va (asize z) (rn b) (x.rd s (rn b)) false (.red op) := rfl

/-- A RED on own SRAM: its address is looked up for the checks and again by the store. -/
theorem red_answers {op : Nat} {i : Instr} {word : Nat} (hi : exec i s = red op w a b z s) (he : encode i = some word) (hc : Clean s x [a, b])
    (ha : (x.val s a).toNat % 2 ^ 56 % asize z = 0) (hb : (stream s x.c x.x).sb.length < 16)
    (hreach : reach (now s x) x.c x.x (slot s x.c x.sl).hdr.part ((x.val s a).toNat % 2 ^ 56) false true = .own off)
    (hreach' : reach (tlbTouch (now s x) x.c (slot s x.c x.sl).hdr.part ((x.val s a).toNat % 2 ^ 56)) x.c x.x (slot s x.c x.sl).hdr.part
      ((x.val s a).toNat % 2 ^ 56) false true = .own off)
    (hreg : regionOf s x.c off = .data ∨ regionOf s x.c off = .ring)
    (hword : word = wordA 0x1E000000 op w 0 a b z := by simp only [plc, wordA, word3, BitVec.ofNat_eq_ofNat, BitVec.toNat_zero]; omega)
    (hop : op < 9 := by omega) :
    let q := (slot s x.c x.sl).hdr.part
    let va := (x.val s a).toNat % 2 ^ 56
    Answers s x i [a, b] (after w 8 x (pushed x (tlbTouch (tlbTouch (now s x) x.c q va) x.c q va) (.own off)
      { slot := x.sl, op := .red op, va := BitVec.ofNat 64 va, pa := some (sramPa x.c off), size := asize z, val := x.val s b, poison := false,
        window := false, counted := false })) := by
  intro q va
  have h : IssuedBy s x i [a, b] w 8 (redIssue op w a b z) _ :=
    { exec := hi.trans (red_eq ..)
      word := he.trans (congrArg some hword)
      wait := by simp only [redIssue, wordA, word3, BitVec.ofNat_eq_ofNat, BitVec.toNat_zero]; omega
      rounds := by simp [redIssue]
      level := by simp [redIssue]
      sync := poisoned_now_of_clean hc }
  refine h.answers_next ?_
  have htarget : atomTarget (tlbTouch (now s x) x.c q va) x.c (.own off) = true := by
    rw [atomTarget, regionOf_tlbTouch, regionOf_now]
    rcases hreg with h | h <;> rw [h] <;> rfl
  have hnw : regionOf s x.c off ≠ .workspace := by rcases hreg with h | h <;> rw [h] <;> nofun
  have hrd : x.rd (tlbTouch (now s x) x.c q va) (rn b) = x.val s b := by rw [rd_tlbTouch, rd_now_val]
  dsimp only
  rw [ea56_rd_now, access_of_reach (r := .own off) ha (by rw [slot_now]; exact hreach) rfl, slot_now, htarget, hrd,
    storeBody_own ha (by rw [slot_tlbTouch, slot_now]; exact hreach') (by rwa [regionOf_tlbTouch, regionOf_now])
      (by rw [stream_tlbTouch, stream_now_sb]; exact hb), slot_tlbTouch, slot_now]
  rfl
end red

/-- Settles O28: LDAQ and STRL without poison, and the nine REDs. -/
theorem orderedAccesses : Obligations.OrderedAccesses := by
  intro s x w d a b p z off n va q u pa ext push ha
  have hext (v : Nat) : atomExt 0 z v = ext v := atomExt_old z v (by omega)
  refine ⟨fun hd hc hreach hm hf hl he hp hissue => ?_, fun hc hb => ⟨fun hreach hreg hcore ht hl he hp hissue => ?_, fun hreach hreach' hreg => ?_⟩⟩
  · have h : IssuedBy s x (.ldaq w d a p z) [a] w 7 _ _ := { exec := exec_ldaq w d a p z s, legal := hd, sync := poisoned_now_of_clean hc }
    refine h.answers_next ?_ hissue
    rw [ea56_rd_now]
    refine (loadBody_sync hissue.2.1 ha (by rw [slot_now]; exact hreach) hm (by rw [stream_now_sb]; exact hf) (by rwa [latent_now])
      (by rwa [softErr_now]) (by rwa [poisonedAt_now])).trans ?_
    rw [slot_now, hext]
  · have h : IssuedBy s x (.strl w a b p z) [a, b] w 7 _ _ := { exec := exec_strl w a b p z s, sync := poisoned_now_of_clean hc }
    refine h.answers_next ?_ hissue
    have hp3 : ¬ (p = 3 ∧ coreOutstanding s x.c x.x x.sl = true) := fun ⟨h3, ho⟩ => by simp [hcore h3] at ho
    rw [got_eq_none hissue.2.1, coreOutstanding_now]
    rw [if_neg (by simp), if_neg hp3, ea56_rd_now, rd_now_val]
    refine (releaseStore_own ha (by rw [slot_now]; exact hreach) (by rwa [regionOf_now]) (by rw [stream_now_sb]; exact hb)
      (by rwa [touchesBuffer_now]) (by rwa [latent_now]) (by rwa [softErr_now]) (by rwa [poisonedAt_now])).trans ?_
    rw [slot_now]
    rfl
  · simp only [List.forall_mem_cons, List.not_mem_nil, IsEmpty.forall_iff, implies_true, and_true]
    refine ⟨?_, ?_, ?_, ?_, ?_, ?_, ?_, ?_, ?_⟩
    · exact red_answers (exec_redadd w a b z s) rfl hc ha hb hreach hreach' hreg
    · exact red_answers (exec_redand w a b z s) rfl hc ha hb hreach hreach' hreg
    · exact red_answers (exec_redor w a b z s) rfl hc ha hb hreach hreach' hreg
    · exact red_answers (exec_redxor w a b z s) rfl hc ha hb hreach hreach' hreg
    · exact red_answers (exec_redmin w a b z s) rfl hc ha hb hreach hreach' hreg
    · exact red_answers (exec_redmax w a b z s) rfl hc ha hb hreach hreach' hreg
    · exact red_answers (exec_redminu w a b z s) rfl hc ha hb hreach hreach' hreg
    · exact red_answers (exec_redmaxu w a b z s) rfl hc ha hb hreach hreach' hreg
    · exact red_answers (exec_redfadd w a b z s) rfl hc ha hb hreach hreach' hreg

end Sys2Proof.Machine
end

section
/-! PROOFS. The FENCE instructions (R302 to R307), LANTERN and PHASE (R324). -/

namespace Sys2Proof.Machine

-- One proof after the other: side by side they take more threads and memory than the check of the whole text has.
set_option Elab.async false

theorem fenceI_eq (fn : Nat) (w : BitVec 3) (d a b : BitVec 5) (legal : Bool) (s : State) (f : Ctx → State → Act) :
    fenceI fn w d a b legal s f = issue { word := word3 (0x1E800000 + fn) w d a b, legal := legal } s f := rfl

section now
variable (s : State) (x : Ctx)

@[simp] theorem outsOf_now : outsOf (now s x) x.c x.sl = outsOf s x.c x.sl := by simp only [outsOf, slot_now, recsOf_now]
@[simp] theorem copiesOut_now : copiesOut (now s x) x.c x.sl = copiesOut s x.c x.sl := by simp only [copiesOut, core_now]

theorem qLoc_now {p q : Nat} (hq : q < 65536) : qLoc (now s x) p q = qLoc s p q := by simp only [qLoc, qGet_now s x p hq]

@[simp] theorem hostOut_now : hostOut (now s x) x.c x.sl = hostOut s x.c x.sl := by
  simp only [hostOut, core_now]
  refine congrArg (List.any _) (funext fun q => ?_)
  by_cases hq : q.queue < 65536
  · rw [qLoc_now s x hq]
  · rw [decide_eq_false hq, Bool.and_false, Bool.false_and, Bool.false_and]

@[simp] theorem pathOut_now (a : Nat) : pathOut (now s x) x.c x.x x.sl a = pathOut s x.c x.x x.sl a := by
  simp only [pathOut, coreOutstanding_now, copiesOut_now, hostOut_now, pathBusy_now, chan_now]

theorem eState_now {p e : Nat} (he : isEntry s p e = true) : eState (now s x) p e = eState s p e := entryGet_now s x p he ..
theorem eLevel_now {p e : Nat} (he : isEntry s p e = true) : eLevel (now s x) p e = eLevel s p e := entryGet_now s x p he ..
end now

section fence
variable {s : State} {x : Ctx} {w : BitVec 3} {c : BitVec 5}

/-- FENCE by its scope: the traveller's own stores, what other cores have yet to perform, and the transfers to the host. -/
theorem fence_answers (hc : scopeOk c = true) :
    (c.toNat ≤ 2 → Drained s x → Answers s x (.fence w c) [] (after w 0 x (now s x)))
    ∧ (3 ≤ c.toNat →
      (coreOutstanding s x.c x.x x.sl = false → (c.toNat = 4 → hostOut s x.c x.sl = false) → Answers s x (.fence w c) [] (after w 0 x (now s x)))
      ∧ (coreOutstanding s x.c x.x x.sl = true →
        Answers s x (.fence w c) [] (parked 0 x (now s x) ((encode (.fence w c)).getD 0) 4 .performed))
      ∧ (coreOutstanding s x.c x.x x.sl = false → c.toNat = 4 → hostOut s x.c x.sl = true →
        Answers s x (.fence w c) [] (parked 0 x (now s x) ((encode (.fence w c)).getD 0) 4 .hostDone))) := by
  have h : IssuedBy s x (.fence w c) [] w 0 _ _ := { exec := (exec_fence w c s).trans (fenceI_eq ..), legal := hc }
  refine ⟨fun h2 hd => h.answers_next ?_, fun h3 => ⟨fun hcore hhost => h.answers_next ?_, fun hcore => ?_, fun hcore h4 hhost => ?_⟩⟩
  · rw [if_pos h2, drainStep_now_of_drained hd]
  · rw [if_neg (Nat.not_le.mpr h3), coreOutstanding_now, hcore, if_neg Bool.false_ne_true, hostOut_now,
      if_neg fun ⟨h4, hh⟩ => by rw [hhost h4] at hh; cases hh]
  · rw [h.word, Option.getD_some]
    refine h.answers_park ?_
    rw [if_neg (Nat.not_le.mpr h3), coreOutstanding_now, hcore, if_pos rfl]
  · rw [h.word, Option.getD_some]
    refine h.answers_park ?_
    rw [if_neg (Nat.not_le.mpr h3), coreOutstanding_now, hcore, if_neg Bool.false_ne_true, hostOut_now, if_pos ⟨h4, hhost⟩]

/-- FENCEX by whether an access of the class it waits for is outstanding. -/
theorem fencex_answers {a b : BitVec 5} (ha : classOk a = true) (hb : classOk b = true) :
    (pathOut s x.c x.x x.sl a.toNat = false → recsOf s x.c x.sl = [] → Answers s x (.fencex w a b) [] (after w 0 x (now s x)))
    ∧ (pathOut s x.c x.x x.sl a.toNat = true →
      Answers s x (.fencex w a b) [] (parked 0 x (now s x) ((encode (.fencex w a b)).getD 0) 4 (.pathDone a.toNat))) := by
  have h : IssuedBy s x (.fencex w a b) [] w 0 _ _ :=
    { exec := (exec_fencex w a b s).trans (fenceI_eq ..), legal := by rw [ha, hb]; rfl }
  refine ⟨fun hp hr => h.answers_next ?_, fun hp => ?_⟩
  · rw [pathOut_now, hp, if_neg Bool.false_ne_true, faultedRec_now, faultedRec_of_none hr]
  · rw [h.word, Option.getD_some]
    refine h.answers_park ?_
    rw [pathOut_now, hp, if_pos rfl]

theorem ifence_refetches (hd : Drained s x) :
    Answers s x (.ifence w) [] (after w 0 x (updStream (now s x) x.c x.x fun k => { k with fbuf := [] })) := by
  have h : IssuedBy s x (.ifence w) [] w 0 _ _ := { exec := (exec_ifence w s).trans (fenceI_eq ..) }
  refine h.answers_next ?_
  rw [drainStep_now_of_drained hd]

theorem qfence_answers :
    (copiesOut s x.c x.sl = false → Answers s x (.qfence w) [] (after w 0 x (now s x)))
    ∧ (copiesOut s x.c x.sl = true → Answers s x (.qfence w) [] (parked 0 x (now s x) ((encode (.qfence w)).getD 0) 6 .copies)) := by
  have h : IssuedBy s x (.qfence w) [] w 0 _ _ := { exec := (exec_qfence w s).trans (fenceI_eq ..) }
  refine ⟨fun hc => h.answers_next ?_, fun hc => ?_⟩
  · rw [copiesOut_now, hc, if_neg Bool.false_ne_true]
  · rw [h.word, Option.getD_some]
    refine h.answers_park ?_
    rw [copiesOut_now, hc, if_pos rfl]

/-- DRAIN waits for OUTS to be 0 and then reports the oldest counted operation that failed. -/
theorem drain_answers :
    (outsOf s x.c x.sl = 0 → recsOf s x.c x.sl = [] →
      ((slot s x.c x.sl).failed = [] → Answers s x (.drain w) [] (after w 0 x (now s x)))
      ∧ (∀ t ts, (slot s x.c x.sl).failed = t :: ts → Answers s x (.drain w) [] (trapped x s { cause := .neterr, addr := t })))
    ∧ (outsOf s x.c x.sl ≠ 0 → Answers s x (.drain w) [] (parked 0 x (now s x) ((encode (.drain w)).getD 0) 4 .outsZero)) := by
  have h : IssuedBy s x (.drain w) [] w 0 _ _ := { exec := (exec_drain w s).trans (fenceI_eq ..) }
  refine ⟨fun h0 hr => ⟨fun hf => h.answers_next ?_, fun t ts hf => h.answers_trap ?_⟩, fun h0 => ?_⟩
  · rw [outsOf_now, if_neg (not_not.mpr h0), faultedRec_now, faultedRec_of_none hr, slot_now, hf]
  · rw [outsOf_now, if_neg (not_not.mpr h0), faultedRec_now, faultedRec_of_none hr, slot_now, hf]
  · rw [h.word, Option.getD_some]
    refine h.answers_park ?_
    rw [outsOf_now, if_pos h0]

theorem acks_writes {d : BitVec 5} (hd : destOk d = true) :
    Answers s x (.acks w d) [] (after w 0 x (x.wr (now s x) d.toNat (BitVec.ofNat 64 (outsOf s x.c x.sl % 65536)) 0)) := by
  have h : IssuedBy s x (.acks w d) [] w 0 _ _ := { exec := (exec_acks w d s).trans (fenceI_eq ..), legal := hd }
  refine h.answers_next ?_
  rw [outsOf_now]
end fence

section phases
variable {s : State} {x : Ctx} {w : BitVec 3} {d a : BitVec 5}

theorem lantern_parks (hd : destOk d = true) (hc : Clean s x [a]) (hA : (x.val s a).toNat < 16) (hoff : s.ws ≠ .off) (hboot : s.ws ≠ .boot) :
    Answers s x (.lantern w d a) [a] (parked 0 x (now s x) ((encode (.lantern w d a)).getD 0) 1
      (.lantern (slot s x.c x.sl).hdr.part (x.val s a).toNat)) := by
  have h : IssuedBy s x (.lantern w d a) [a] w 0 _ _ :=
    { exec := (exec_lantern w d a s).trans (bar_eq ..), legal := hd, sync := poisoned_now_of_clean hc }
  rw [h.word, Option.getD_some]
  intro hissue
  refine h.answers_park ?_ hissue
  have hws : (now s x).ws = s.ws := now_congr s x State.ws fun _ _ _ => rfl
  rw [Ctx.got, hissue.2.1]
  dsimp only
  rw [rd_now_val, if_neg (Nat.not_le.mpr hA), hws, if_neg (not_or.mpr ⟨hoff, hboot⟩), slot_now]

/-- PHASE of an entry of the partition's table, by the entry's state and level. -/
theorem phase_answers (hd : destOk d = true) (hc : Clean s x [a]) {p : Nat} (hp : (slot s x.c x.sl).hdr.part = p)
    (hA : (x.val s a).toNat < 2 ^ 32) (he : isEntry s p (x.val s a).toNat = true) :
    ((eState s p (x.val s a).toNat = 0 ∨ eLevel s p (x.val s a).toNat ≠ 3) →
      Answers s x (.phase w d a) [a] (after w 0 x (x.wr (now s x) d.toNat (BitVec.allOnes 64) 0)))
    ∧ (eState s p (x.val s a).toNat = 3 ∨ eState s p (x.val s a).toNat = 4 → eLevel s p (x.val s a).toNat = 3 →
      Answers s x (.phase w d a) [a] (after w 0 x (x.wr (now s x) d.toNat (BitVec.ofNat 64 (entryGet s p (x.val s a).toNat 47 40)) 0)))
    ∧ (eState s p (x.val s a).toNat = 1 ∨ eState s p (x.val s a).toNat = 2 → eLevel s p (x.val s a).toNat = 3 →
      Answers s x (.phase w d a) [a] (parked 0 x (now s x) ((encode (.phase w d a)).getD 0) 3 (.phaseEnd p (x.val s a).toNat))) := by
  have h : IssuedBy s x (.phase w d a) [a] w 0 _ _ :=
    { exec := (exec_phase w d a s).trans (bar_eq ..), legal := hd, sync := poisoned_now_of_clean hc }
  refine ⟨fun hs hissue => h.answers_next ?_ hissue, fun hs hl hissue => h.answers_next ?_ hissue, fun hs hl => ?_⟩
  · rw [Ctx.got, hissue.2.1]
    dsimp only
    rw [rd_now_val, if_neg (Nat.not_le.mpr hA), slot_now, hp, isEntry_now, he, if_neg Bool.noConfusion, eState_now s x he, eLevel_now s x he,
      if_pos hs]
  · rw [Ctx.got, hissue.2.1]
    dsimp only
    rw [rd_now_val, if_neg (Nat.not_le.mpr hA), slot_now, hp, isEntry_now, he, if_neg Bool.noConfusion, eState_now s x he, eLevel_now s x he,
      if_neg (by omega), if_pos hs, entryGet_now s x p he]
  · rw [h.word, Option.getD_some]
    intro hissue
    refine h.answers_park ?_ hissue
    rw [Ctx.got, hissue.2.1]
    dsimp only
    rw [rd_now_val, if_neg (Nat.not_le.mpr hA), slot_now, hp, isEntry_now, he, if_neg Bool.noConfusion, eState_now s x he, eLevel_now s x he,
      if_neg (by omega), if_neg (by omega)]
end phases

/-- Settles O29: the fences by what is outstanding, ACKS, then LANTERN and PHASE with their answers. -/
theorem fenceAndPhaseInstructions : Obligations.FenceAndPhaseInstructions := by
  refine ⟨?_, ?_⟩
  · intro s x w c d a b u next park
    exact ⟨fun hc => (fence_answers hc).1, fun hc => (fence_answers hc).2, fun ha hb => (fencex_answers ha hb).1,
      fun ha hb => (fencex_answers ha hb).2, ifence_refetches, qfence_answers.1, qfence_answers.2, drain_answers.1, drain_answers.2, acks_writes⟩
  · intro s x w d a v q u A p W
    refine ⟨fun hd hc => ⟨lantern_parks hd hc, phase_answers hd hc rfl⟩, ?_, ?_⟩
    · refine resumes_of_next ((exec_lantern w d a s).trans (bar_eq ..)) ?_ rfl nofun fun hr => ?_
      · simp only [wordB, word3, BitVec.ofNat_eq_ofNat, BitVec.toNat_zero]; omega
      · rw [Ctx.got, hr]
    · refine resumes_of_next ((exec_phase w d a s).trans (bar_eq ..)) ?_ rfl nofun fun hr => ?_
      · simp only [wordB, word3, BitVec.ofNat_eq_ofNat, BitVec.toNat_zero]; omega
      · rw [Ctx.got, hr]

end Sys2Proof.Machine
end

section
/-! PROOFS. Stream commands of a channel core (R256 to R260). -/

namespace Sys2Proof.Machine

-- One proof after the other: side by side they take more threads and memory than the check of the whole text has.
set_option Elab.async false

theorem chI_eq (m : Nat) (w : BitVec 3) (d a b : BitVec 5) (reads : List Nat) (legal : Bool) (s : State) (f : Nat → Ctx → State → Act) :
    chI m w d a b reads legal s f
      = issue { word := word3 m w d a b, legal := legal, reads := reads, sync := reads } s (f (word3 m w d a b)) := rfl

@[simp] theorem inPartition_tlbTouch (s : State) (c p va c' q : Nat) : inPartition (tlbTouch s c p va) c' q = inPartition s c' q := by
  obtain ⟨cs, h, hcs⟩ := tlbTouch_eq s c p va
  obtain ⟨t, hcore⟩ := core_tlbTouch s c p va c'
  rw [inPartition, inPartition, hcore]
  rw [h]
  rfl
@[simp] theorem engRoom_tlbTouch (s : State) (c p va c' : Nat) : engRoom (tlbTouch s c p va) c' 2 = engRoom s c' 2 := by
  simp only [engRoom, engQ, chan_tlbTouch]
theorem tlbFind_now (s : State) (x : Ctx) (c p va : Nat) : tlbFind (now s x) c p va = tlbFind s c p va := by simp only [tlbFind, core_now]

/-- What homes to a channel core by a translation that its core holds: the translation is used, and nothing else changes. -/
theorem homedHere_ok {s t : State} {c p va dpa : Nat} {rd wr : Bool} (hf : (tlbFind s c p va).isSome)
    (h : homedHere s c p va rd wr = .ok (t, dpa)) : t = tlbTouch s c p va := by
  obtain ⟨e, he⟩ := Option.isSome_iff_exists.mp hf
  rw [homedHere] at h
  split at h
  · cases h
  · rw [translate, he] at h
    dsimp only at h
    split at h
    · cases h
    · split at h
      · cases h
        rfl
      · cases h
    · cases h

section operands
variable {s t : State} {x : Ctx} {va dpa pa n : Nat} {rd wr : Bool}

/-- The first byte of a range that is translated and homes here stands in no command's way (R257). -/
theorem firstByte_of_homed (hva : va ≤ 0x00FFFEFFFFFFFFFF) (hf : (tlbFind s x.c (slot s x.c x.sl).hdr.part va).isSome)
    (h : homedHere s x.c (slot s x.c x.sl).hdr.part va rd wr = .ok (t, dpa)) (k : State → Option TrapInfo → Act) :
    firstByte x s va rd wr k = k t none := by
  have hn : ¬ (va ≤ 0x00FFFEFFFFFFFFFF ∧ (tlbFind s x.c (slot s x.c x.sl).hdr.part va).isNone) := fun hn => by
    rw [Option.isNone_iff_eq_none.mp hn.2] at hf
    cases hf
  rw [firstByte, if_neg hn, h]

theorem localOperand_of_reads (h : ReadsRecord s x va n pa) (k : State → List Byte → Option TrapInfo → Act) :
    localOperand x (now s x) va n k = k (now s x) (rdBytes (now s x).mem pa n) none := by
  obtain ⟨hpl, hstep, hl, he, hp⟩ := h
  have hbuf : touchesBuffer (now s x) x.c x.x pa n = false := by
    by_contra hb
    rw [readStep, if_pos (Bool.eq_true_of_not_eq_false hb)] at hstep
    cases hstep
  rw [localOperand, hpl]
  dsimp only
  rw [hbuf, if_neg Bool.false_ne_true, findErrors_of_noErrors ((latent_now s x).trans hl) ((softErr_now s x).trans he), poisonIn_now, hp]
end operands

/-- A stream record takes its place, and its turn unless it has no bytes (R256). -/
theorem streamRec_enters {x : Ctx} {t : State} {r : Rec} {empty prod cons : Bool} (hd : drainStep t x = none)
    (hr : engRoom t x.c 2 = true) (ho : outsFull t x.c x.sl = false) (hst : r.st = 0) :
    streamRec x t r empty prod cons = .next (
      let v := pushRec t x.c 2 { r with st := if empty then 2 else 0 }
      if empty then v else updChan v x.c fun k =>
        { k with aqProd := if prod then k.aqProd ++ [(true, engSeq t x.c 2)] else k.aqProd,
                 xqCons := if cons then k.xqCons ++ [(true, engSeq t x.c 2)] else k.xqCons }) := by
  have hrec : (if empty then { r with st := 2 } else r) = { r with st := if empty then 2 else 0 } := by
    cases empty
    · cases r
      cases hst
      rfl
    · rfl
  rw [streamRec, hrec, enqueueRec_of_room hd (fun _ => ho) hr]

section forms
variable {s t : State} {x : Ctx} {w : BitVec 3} {d a b : BitVec 5} {dpa pa : Nat}

/-- What a stream command of channel core `x.c` finds in `t`: room for its record in the stream queue and in OUTS. -/
structure Enterable (x : Ctx) (t : State) : Prop where
  drained : drainStep t x = none
  room : engRoom t x.c 2 = true
  outs : outsFull t x.c x.sl = false

theorem Enterable.now (hd : Drained s x) (hr : engRoom s x.c 2 = true) (ho : outsFull s x.c x.sl = false) : Enterable x (now s x) :=
  ⟨drainStep_now_of_drained hd, (engRoom_now ..).trans hr, (outsFull_now ..).trans ho⟩

theorem Enterable.touch (h : Enterable x t) (p va : Nat) : Enterable x (tlbTouch t x.c p va) :=
  ⟨drainStep_tlbTouch_eq_none h.drained .., (engRoom_tlbTouch ..).trans h.room, (outsFull_tlbTouch ..).trans h.outs⟩

/-- The state that a stream command leaves. -/
def entered (x : Ctx) (t : State) (w : BitVec 3) (r : Rec) (empty prod cons : Bool) : State :=
  let v := pushRec t x.c 2 { r with st := if empty then 2 else 0 }
  after w 0 x (if empty then v else updChan v x.c fun k =>
    { k with aqProd := if prod then k.aqProd ++ [(true, engSeq t x.c 2)] else k.aqProd,
             xqCons := if cons then k.xqCons ++ [(true, engSeq t x.c 2)] else k.xqCons })

theorem ea56_val (r : BitVec 5) : ea56 (x.rd (now s x) (rn r)) = (x.val s r).toNat % 2 ^ 56 := ea56_rd_now s x r

/-- A DRAM address that is translated by the core's own translation and homes to its channel (R257). -/
structure Homed (x : Ctx) (s t : State) (va dpa : Nat) (rd wr : Bool) : Prop where
  range : va ≤ 0x00FFFEFFFFFFFFFF
  held : (tlbFind s x.c (slot s x.c x.sl).hdr.part va).isSome
  home : homedHere (now s x) x.c (slot s x.c x.sl).hdr.part va rd wr = .ok (t, dpa)

theorem Homed.eq_touch {va : Nat} {rd wr : Bool} (h : Homed x s t va dpa rd wr) : t = tlbTouch (Machine.now s x) x.c (slot s x.c x.sl).hdr.part va :=
  homedHere_ok (by rw [tlbFind_now]; exact h.held) h.home

theorem Homed.firstByte {va : Nat} {rd wr : Bool} (h : Homed x s t va dpa rd wr) (k : State → Option TrapInfo → Act) :
    firstByte x (Machine.now s x) va rd wr k = k t none :=
  firstByte_of_homed h.range (by rw [slot_now, tlbFind_now]; exact h.held) (by rw [slot_now]; exact h.home) k

/-- What the registers read does not depend on the translations. -/
theorem Homed.rd {va : Nat} {rd wr : Bool} (h : Homed x s t va dpa rd wr) (r : BitVec 5) : x.rd t (rn r) = x.val s r := by
  rw [h.eq_touch, rd_tlbTouch, rd_now_val]

/-- DRD and DWR of a control word that is legal. -/
theorem streamRW_enters {i : Instr} {fn word : Nat} (hi : exec i s = streamRW fn w a b s) (he : encode i = some word) (hfn : fn < 2)
    (hword : word = word3 (0x1C800000 + fn) w 0 a b) (hq : Enterable x (now s x)) (hc : Clean s x [a, b])
    (hn : (x.val s b).toNat % 8192 ≤ 4096) (hz : (x.val s b).toNat / 8192 % 8 = 0) (hal : (x.val s a).toNat % 2 ^ 56 % 64 = 0)
    (h32 : (x.val s b).toNat / 2 ^ 32 = 0) (h16 : fn = 1 → (x.val s b).toNat / 2 ^ 16 = 0)
    (hh : Homed x s t ((x.val s a).toNat % 2 ^ 56) dpa (fn == 0) (fn == 1)) :
    Answers s x i [a, b] (entered x t w (newRec x t ((encode i).getD 0) 0 (x.val s a) (x.val s b))
      ((x.val s b).toNat % 8192 == 0) (fn == 0) (fn == 1)) := by
  have h : IssuedBy s x i [a, b] w 0 _ _ :=
    { exec := hi.trans (chI_eq (0x1C800000 + fn) ..), word := he.trans (congrArg some hword), legal := rfl,
      wait := by simp only [word3, BitVec.ofNat_eq_ofNat, BitVec.toNat_zero]; omega,
      sync := poisoned_now_of_clean hc }
  rw [h.word, Option.getD_some]
  have ht : Enterable x t := by rw [hh.eq_touch]; exact hq.touch ..
  refine h.answers_next ?_
  dsimp only
  rw [ea56_val, rd_now_val, if_neg (by omega), if_neg (not_not.mpr hal), hh.firstByte]
  dsimp only [trapOr]
  rw [hh.rd, hh.rd, streamRec_enters ht.drained ht.room ht.outs rfl]

theorem dpref_enters (hq : Enterable x (now s x)) (hc : Clean s x [a, b]) :
    Answers s x (.dpref w a b) [a, b]
      (entered x (now s x) w (newRec x (now s x) ((encode (.dpref w a b)).getD 0) 0 (x.val s a) (x.val s b)) true false false) := by
  have h : IssuedBy s x (.dpref w a b) [a, b] w 0 _ _ :=
    { exec := (exec_dpref w a b s).trans (chI_eq ..), sync := poisoned_now_of_clean hc }
  rw [h.word, Option.getD_some]
  refine h.answers_next ?_
  rw [rd_now_val, rd_now_val, streamRec_enters hq.drained hq.room hq.outs rfl]

theorem dpull_enters (hq : Enterable x (now s x)) (hc : Clean s x [a, b, d]) (hA : (x.val s a).toNat / 2 ^ 28 = 0) (h1 : 1 ≤ (x.val s b).toNat)
    (h128 : (x.val s b).toNat ≤ 128) (hal : (x.val s d).toNat % 2 ^ 56 % 16 = 0) (hh : Homed x s t ((x.val s d).toNat % 2 ^ 56) dpa false true)
    (hk : kindOf ((x.val s a).toNat % 8192) = .compute)
    (hp : (x.val s a).toNat / 8192 % 4096 = cubeId s → inPartition s ((x.val s a).toNat % 8192) (slot s x.c x.sl).hdr.part = true) :
    Answers s x (.dpull w d a b) [a, b, d]
      (entered x t w (newRec x t ((encode (.dpull w d a b)).getD 0) (x.val s d) (x.val s a) (x.val s b)) false false false) := by
  have h : IssuedBy s x (.dpull w d a b) [a, b, d] w 0 _ _ :=
    { exec := (exec_dpull w d a b s).trans (chI_eq ..), sync := poisoned_now_of_clean hc }
  rw [h.word, Option.getD_some]
  have ht : Enterable x t := by rw [hh.eq_touch]; exact hq.touch ..
  have hhere : ¬ (kindOf ((x.val s a).toNat % 8192) ≠ .compute
      ∨ ((x.val s a).toNat / 8192 % 4096 = cubeId t ∧ inPartition t ((x.val s a).toNat % 8192) (slot t x.c x.sl).hdr.part = false)) := by
    rw [hh.eq_touch]
    simp only [cubeId_tlbTouch, cubeId_now, inPartition_tlbTouch, inPartition_now, slot_tlbTouch, slot_now]
    rintro (h | ⟨h1, h2⟩)
    · exact h hk
    · rw [hp h1] at h2
      cases h2
  refine h.answers_next ?_
  dsimp only
  rw [ea56_val, rd_now_val, rd_now_val, if_neg (by omega), if_neg (not_not.mpr hal), hh.firstByte, if_neg hhere, hh.rd, hh.rd, hh.rd]
  exact streamRec_enters ht.drained ht.room ht.outs rfl

theorem dpush_enters (hq : Enterable x (now s x)) (hc : Clean s x [a, b, d]) (hd16 : (x.val s d).toNat % 2 ^ 56 % 16 = 0)
    (ha16 : (x.val s a).toNat % 2 ^ 56 % 16 = 0) (hb16 : (x.val s b).toNat % 2 ^ 56 % 16 = 0)
    (hr : ReadsRecord s x ((x.val s b).toNat % 2 ^ 56) 16 pa) (hs : shapeBad (leNat (rdBytes (now s x).mem pa 16)) = false)
    (hrow : (shapeOf (leNat (rdBytes (now s x).mem pa 16))).rowb % 16 = 0) (hss : (shapeOf (leNat (rdBytes (now s x).mem pa 16))).sstr % 16 = 0)
    (hds : (shapeOf (leNat (rdBytes (now s x).mem pa 16))).dstr % 16 = 0) (hh : Homed x s t ((x.val s a).toNat % 2 ^ 56) dpa true false)
    {cube c' off : Nat} (hw : windowTarget ((x.val s d).toNat % 2 ^ 56) = some (cube, c', off))
    (hp : cube = cubeId s → inPartition s c' (slot s x.c x.sl).hdr.part = true) :
    Answers s x (.dpush w d a b) [a, b, d]
      (entered x t w { newRec x t ((encode (.dpush w d a b)).getD 0) (x.val s d) (x.val s a) (x.val s b) with mem := rdBytes (now s x).mem pa 16 }
        ((shapeOf (leNat (rdBytes (now s x).mem pa 16))).rowb * (shapeOf (leNat (rdBytes (now s x).mem pa 16))).rows == 0) false false) := by
  have h : IssuedBy s x (.dpush w d a b) [a, b, d] w 0 _ _ :=
    { exec := (exec_dpush w d a b s).trans (chI_eq ..), sync := poisoned_now_of_clean hc }
  rw [h.word, Option.getD_some]
  have ht : Enterable x t := by rw [hh.eq_touch]; exact hq.touch ..
  have hhere : ¬ (cube = cubeId t ∧ inPartition t c' (slot t x.c x.sl).hdr.part = false) := by
    rw [hh.eq_touch]
    simp only [cubeId_tlbTouch, cubeId_now, inPartition_tlbTouch, inPartition_now, slot_tlbTouch, slot_now]
    rintro ⟨h1, h2⟩
    rw [hp h1] at h2
    cases h2
  have hal : alignOf [(x.val s d).toNat % 2 ^ 56, (x.val s a).toNat % 2 ^ 56, (x.val s b).toNat % 2 ^ 56] = none := by
    simp only [alignOf, List.find?_cons, hd16, ha16, hb16, bne_self_eq_false, List.find?_nil, Option.map_none]
  refine h.answers_next ?_
  dsimp only
  rw [ea56_val, ea56_val, ea56_val, hal]
  dsimp only
  rw [localOperand_of_reads hr]
  rw [hs, hrow, hss, hds]
  simp only [Bool.and_false, bne_self_eq_false, if_neg Bool.false_ne_true, Option.or_none, trapOr]
  rw [hh.firstByte, hw]
  dsimp only
  rw [if_neg hhere, hh.rd, hh.rd, hh.rd]
  exact streamRec_enters ht.drained ht.room ht.outs rfl
end forms

/-- Settles O30: each form finds its range homed here, and its record takes its place. -/
theorem streamCommandsEnter : Obligations.StreamCommandsEnter := by
  intro s x w d a b pa dpa t u av dv bv A B n p found enters hd hr ho
  have hq : Enterable x (now s x) := .now hd hr ho
  have hfound {va : Nat} {rd wr : Bool} (h : found va rd wr) : Homed x s t va dpa rd wr := ⟨h.1, h.2.1, h.2.2⟩
  refine ⟨fun hc hn hz hal => ⟨fun h32 hf => ?_, fun h16 hf => ?_⟩, fun hc ht => ?_, fun hc hA h1 h128 hal hf hk hp => ?_, ?_⟩
  · exact streamRW_enters (fn := 0) (exec_drd w a b s) rfl (by omega) (by simp only [plc, word3, BitVec.ofNat_eq_ofNat, BitVec.toNat_zero]; omega)
      hq hc hn hz hal h32 nofun (hfound hf)
  · exact streamRW_enters (fn := 1) (exec_dwr w a b s) rfl (by omega) (by simp only [plc, word3, BitVec.ofNat_eq_ofNat, BitVec.toNat_zero]; omega)
      hq hc hn hz hal (by omega) (fun _ => h16) (hfound hf)
  · subst ht
    exact dpref_enters hq hc
  · exact dpull_enters hq hc hA h1 h128 hal (hfound hf) hk hp
  · intro hc bs q hd16 ha16 hb16 hrec hs hrow hss hds hf cube c' off hw hp
    exact dpush_enters hq hc hd16 ha16 hb16 hrec hs hrow hss hds (hfound hf) hw hp

end Sys2Proof.Machine
end

section
/-! PROOFS. Single entries of the AQ and the XQ (R255, R260, R263). -/

namespace Sys2Proof.Machine

-- One proof after the other: side by side they take more threads and memory than the check of the whole text has.
set_option Elab.async false

section now
variable (s : State) (x : Ctx)
@[simp] theorem xqFree_now (c : Nat) : xqFree (now s x) c = xqFree s c := by simp only [xqFree, chan_now]
@[simp] theorem xqHead_now (c : Nat) : xqHead (now s x) c = xqHead s c := by simp only [xqHead, chan_now]
theorem turnLive_now (c : Nat) (q : Cond) : turnLive (now s x) c q = turnLive s c q := by
  funext e
  simp only [turnLive, chan_now, slot_now]
theorem xqTurn_now (c : Nat) (me : Bool × Nat) : xqTurn (now s x) c me = xqTurn s c me := by
  simp only [xqTurn, turnOf, chan_now, turnLive_now]
theorem joinTurn_now (c : Nat) (q : Cond) (l : List (Bool × Nat)) (me : Bool × Nat) : joinTurn (now s x) c q l me = joinTurn s c q l me := by
  simp only [joinTurn, turnLive_now]
end now

section entries
variable {s : State} {x : Ctx} {w : BitVec 3} {d a b : BitVec 5} {pa : Nat}

/-- An immediate producer of the AQ has its turn and finds room there (R256). -/
def AqOpen (x : Ctx) (v : State) : Prop := aqTurn v x.c (false, x.sl) = true ∧ 0 < aqFree v x.c

theorem produce_open {v : State} {e : AqEntry} (h : AqOpen x (bselApply v x.c)) :
    produce x v e = .next (aqPush (updChan (bselApply v x.c) x.c fun k => { k with aqProd := k.aqProd.erase (false, x.sl) }) x.c e) := by
  rw [produce]
  rw [h.1, decide_eq_true h.2]
  rfl

theorem produce_closed {v : State} {e : AqEntry} (h : ¬ AqOpen x (bselApply v x.c)) :
    produce x v e = .park 3 .aqRoom (updChan (bselApply v x.c) x.c fun k =>
      { k with aqProd := joinTurn (bselApply v x.c) x.c .aqRoom k.aqProd (false, x.sl) }) := by
  rw [produce]
  refine if_neg fun hp => h ?_
  obtain ⟨ht, hf⟩ := Bool.and_eq_true_iff.mp hp
  exact ⟨ht, of_decide_eq_true hf⟩

/-- Sixty-four local bytes are read with their poison, when nothing stands in the way (R114). -/
theorem read64_ready {va : Nat} (hd : Drained s x) (hl : s.latent = []) (he : s.softErr = []) (hp : localPlace x (now s x) va 64 = some pa)
    (hr : readStep x (now s x) pa 64 = none) (k : State → List (Byte × Bool) → Act) :
    read64 x (now s x) va k = k (now s x) (bytesAt (now s x) pa 64) := by
  rw [read64, hp]
  dsimp only
  rw [drainStep_now_of_drained hd, hr, Option.or_none]
  dsimp only
  rw [findErrors_of_noErrors ((latent_now s x).trans hl) ((softErr_now s x).trans he)]

theorem issuedBy_aqput (hc : Clean s x [a, b]) : IssuedBy s x (.aqput w a b) [a, b] w 0
    { word := word3 0x1C800004 w 0 a b, legal := true, reads := [rn a, rn b], sync := [rn a, rn b] }
    (fun x s => if (x.rd s (rn b)).toNat / 2 ^ 16 ≠ 0 then .trap (illegalAt (word3 0x1C800004 w 0 a b))
      else if ea56 (x.rd s (rn a)) % 64 ≠ 0 then .trap (trapAt .align (ea56 (x.rd s (rn a))))
      else read64 x s (ea56 (x.rd s (rn a))) fun s' bs => produce x s' (.data { bytes := bs, side := BitVec.ofNat 64 (x.rd s (rn b)).toNat })) :=
  { exec := (exec_aqput w a b s).trans (chI_eq ..), sync := poisoned_now_of_clean hc }

theorem issuedBy_bsel (hc : Clean s x [a, b]) : IssuedBy s x (.bsel w a b) [a, b] w 0
    { word := word3 0x1C800007 w 0 a b, legal := true, reads := [rn a, rn b], sync := [rn a, rn b] }
    (fun x s => if 15 < (x.rd s (rn a)).toNat ∨ (x.rd s (rn b)).toNat / 2 ^ 36 ≠ 0 then .trap (illegalAt (word3 0x1C800007 w 0 a b))
      else match drainStep s x with
        | some s' => .hold s'
        | none => produce x s (.bsel (x.rd s (rn a)).toNat (BitVec.ofNat 32 (x.rd s (rn b)).toNat) ((x.rd s (rn b)).toNat / 2 ^ 32 % 16))) :=
  { exec := (exec_bsel w a b s).trans (chI_eq ..), sync := poisoned_now_of_clean hc }

/-- AQPUT and XQPUT of 64 bytes that can be read. -/
theorem put_answers (hd : Drained s x) (hl : s.latent = []) (he : s.softErr = []) (hc : Clean s x [a, b]) (hB : (x.val s b).toNat < 2 ^ 16)
    (hal : (x.val s a).toNat % 2 ^ 56 % 64 = 0) (hp : localPlace x (now s x) ((x.val s a).toNat % 2 ^ 56) 64 = some pa)
    (hr : readStep x (now s x) pa 64 = none) {e : QEntry} (hent : e = { bytes := bytesAt (now s x) pa 64, side := BitVec.ofNat 64 (x.val s b).toNat }) :
    (AqOpen x (bselApply (now s x) x.c) → Answers s x (.aqput w a b) [a, b] (after w 0 x (aqPush
        (updChan (bselApply (now s x) x.c) x.c fun k => { k with aqProd := k.aqProd.erase (false, x.sl) }) x.c (.data e))))
    ∧ (¬ AqOpen x (bselApply (now s x) x.c) → Answers s x (.aqput w a b) [a, b] (parked 0 x (updChan (bselApply (now s x) x.c) x.c fun k =>
        { k with aqProd := joinTurn (bselApply (now s x) x.c) x.c .aqRoom k.aqProd (false, x.sl) }) ((encode (.aqput w a b)).getD 0) 3 .aqRoom))
    ∧ (xqFree s x.c ≠ 0 → Answers s x (.xqput w a b) [a, b] (after w 0 x (updChan (now s x) x.c fun k =>
        { k with xq := k.xq ++ [{ key := k.xqNext, entry := some e }], xqNext := k.xqNext + 1 })))
    ∧ (xqFree s x.c = 0 → Answers s x (.xqput w a b) [a, b] (parked 0 x (now s x) ((encode (.xqput w a b)).getD 0) 3 .xqRoom)) := by
  subst hent
  have haq := issuedBy_aqput (w := w) hc
  have hxq : IssuedBy s x (.xqput w a b) [a, b] w 0 _ _ :=
    { exec := (exec_xqput w a b s).trans (chI_eq ..), sync := poisoned_now_of_clean hc }
  have hB' : ¬ (x.val s b).toNat / 2 ^ 16 ≠ 0 := by omega
  refine ⟨fun ho => haq.answers_next ?_, fun ho => ?_, fun hf => hxq.answers_next ?_, fun hf => ?_⟩
  · rw [rd_now_val, ea56_val, if_neg hB', if_neg (not_not.mpr hal), read64_ready hd hl he hp hr, produce_open ho]
  · rw [haq.word, Option.getD_some]
    refine haq.answers_park ?_
    rw [rd_now_val, ea56_val, if_neg hB', if_neg (not_not.mpr hal), read64_ready hd hl he hp hr, produce_closed ho]
  · dsimp only
    rw [rd_now_val, ea56_val, if_neg hB', if_neg (not_not.mpr hal), read64_ready hd hl he hp hr, xqFree_now, if_neg hf]
  · rw [hxq.word, Option.getD_some]
    refine hxq.answers_park ?_
    dsimp only
    rw [rd_now_val, ea56_val, if_neg hB', if_neg (not_not.mpr hal), read64_ready hd hl he hp hr, xqFree_now, if_pos hf]

theorem bsel_answers (hd : Drained s x) (hc : Clean s x [a, b]) (hA : (x.val s a).toNat ≤ 15) (hB : (x.val s b).toNat < 2 ^ 36) :
    (AqOpen x (bselApply (now s x) x.c) → Answers s x (.bsel w a b) [a, b] (after w 0 x (aqPush
        (updChan (bselApply (now s x) x.c) x.c fun k => { k with aqProd := k.aqProd.erase (false, x.sl) }) x.c
        (.bsel (x.val s a).toNat (BitVec.ofNat 32 (x.val s b).toNat) ((x.val s b).toNat / 2 ^ 32)))))
    ∧ (¬ AqOpen x (bselApply (now s x) x.c) → Answers s x (.bsel w a b) [a, b] (parked 0 x (updChan (bselApply (now s x) x.c) x.c fun k =>
        { k with aqProd := joinTurn (bselApply (now s x) x.c) x.c .aqRoom k.aqProd (false, x.sl) }) ((encode (.bsel w a b)).getD 0) 3 .aqRoom)) := by
  have h := issuedBy_bsel (w := w) hc
  have hlegal : ¬ (15 < (x.val s a).toNat ∨ (x.val s b).toNat / 2 ^ 36 ≠ 0) := by omega
  have hlayer : (x.val s b).toNat / 2 ^ 32 % 16 = (x.val s b).toNat / 2 ^ 32 := Nat.mod_eq_of_lt (by omega)
  refine ⟨fun ho => h.answers_next ?_, fun ho => ?_⟩
  · rw [rd_now_val, rd_now_val, if_neg hlegal, drainStep_now_of_drained hd, hlayer]
    exact produce_open ho
  · rw [h.word, Option.getD_some]
    refine h.answers_park ?_
    rw [rd_now_val, rd_now_val, if_neg hlegal, drainStep_now_of_drained hd, hlayer]
    exact produce_closed ho

/-- AQGET by the head of the AQ, once the BSELs before it have taken effect (R263). -/
theorem aqget_answers (hd : Drained s x) (hdest : destOk d = true) (hc : Clean s x [a]) (hal : (x.val s a).toNat % 2 ^ 56 % 64 = 0)
    (hp : entryPlace x (now s x) ((x.val s a).toNat % 2 ^ 56) = some pa) (e : QEntry) :
    (∀ rest, (chan (bselApply (now s x) x.c) x.c).aq = .data e :: rest →
      Answers s x (.aqget w d a) [a] (after w 0 x (bselApply
        (landEntry x (updChan (bselApply (now s x) x.c) x.c fun k => { k with aq := rest }) pa d.toNat e) x.c)))
    ∧ ((chan (bselApply (now s x) x.c) x.c).aq = [] →
      Answers s x (.aqget w d a) [a] (parked 0 x (bselApply (now s x) x.c) ((encode (.aqget w d a)).getD 0) 3 .aqData)) := by
  have h : IssuedBy s x (.aqget w d a) [a] w 0 _ _ :=
    { exec := (exec_aqget w d a s).trans (chI_eq ..), legal := hdest, sync := poisoned_now_of_clean hc }
  refine ⟨fun rest haq => h.answers_next ?_, fun haq => ?_⟩
  · dsimp only
    rw [ea56_val, if_neg (not_not.mpr hal), hp, drainStep_now_of_drained hd]
    dsimp only
    rw [haq, rn]
  · rw [h.word, Option.getD_some]
    refine h.answers_park ?_
    dsimp only
    rw [ea56_val, if_neg (not_not.mpr hal), hp, drainStep_now_of_drained hd]
    dsimp only
    rw [haq]

/-- XQGET by its turn and the head of the XQ (R260). -/
theorem xqget_answers (hd : Drained s x) (hdest : destOk d = true) (hc : Clean s x [a]) (hal : (x.val s a).toNat % 2 ^ 56 % 64 = 0)
    (hp : entryPlace x (now s x) ((x.val s a).toNat % 2 ^ 56) = some pa) (e : QEntry) :
    (xqTurn s x.c (false, x.sl) = true → xqHead s x.c = some e → Answers s x (.xqget w d a) [a] (after w 0 x (landEntry x
      (updChan (now s x) x.c fun k => { k with xq := k.xq.drop 1, xqCons := k.xqCons.erase (false, x.sl) }) pa d.toNat e)))
    ∧ (xqTurn s x.c (false, x.sl) = false ∨ xqHead s x.c = none → Answers s x (.xqget w d a) [a] (parked 0 x (updChan (now s x) x.c fun k =>
      { k with xqCons := joinTurn s x.c .xqData k.xqCons (false, x.sl) }) ((encode (.xqget w d a)).getD 0) 3 .xqData)) := by
  have h : IssuedBy s x (.xqget w d a) [a] w 0 _ _ :=
    { exec := (exec_xqget w d a s).trans (chI_eq ..), legal := hdest, sync := poisoned_now_of_clean hc }
  refine ⟨fun ht hx => h.answers_next ?_, fun hno => ?_⟩
  · dsimp only
    rw [ea56_val, if_neg (not_not.mpr hal), hp, drainStep_now_of_drained hd]
    dsimp only
    rw [xqTurn_now, ht, if_pos rfl, xqHead_now, hx, rn]
  · rw [h.word, Option.getD_some]
    refine h.answers_park ?_
    have hnone : (if xqTurn s x.c (false, x.sl) = true then xqHead s x.c else none) = none := by
      rcases hno with ht | hx
      · rw [ht, if_neg Bool.false_ne_true]
      · rw [hx, ite_self]
    dsimp only
    rw [ea56_val, if_neg (not_not.mpr hal), hp, drainStep_now_of_drained hd]
    dsimp only
    rw [xqTurn_now, xqHead_now, hnone]
    simp only [joinTurn_now]
end entries

/-- Settles O31: the producers by their turn, the consumers by the head of their queue. -/
theorem queueEntries : Obligations.QueueEntries := by
  intro s x w d a b pa e u A va B v turn enters entry lands hd hl he
  refine ⟨fun hc => ⟨fun hB hal hp hr => put_answers hd hl he hc hB hal hp hr rfl, fun hA hB => bsel_answers hd hc hA hB⟩,
    fun hdest hc hal hp => ?_⟩
  obtain ⟨haq, haq0⟩ := aqget_answers (w := w) hd hdest hc hal hp e
  exact ⟨haq, haq0, (xqget_answers hd hdest hc hal hp e).1, (xqget_answers hd hdest hc hal hp e).2⟩

end Sys2Proof.Machine
end

section
/-! PROOFS. Bank commands (R264, R268). -/

namespace Sys2Proof.Machine

-- One proof after the other: side by side they take more threads and memory than the check of the whole text has.
set_option Elab.async false

theorem drainStep_of_drained {s : State} {x : Ctx} (h : Drained s x) : drainStep s x = none := by
  obtain ⟨hsb, hbar⟩ := h
  have : sbOf s x.c x.x x.sl = [] := List.filter_eq_nil_iff.mpr fun e he => by simpa using hsb e he
  simp only [drainStep, this, hbar, List.isEmpty_nil, Bool.not_false, Bool.and_true, if_true]

/-- The BSELs of the AQ change no register. -/
theorem rd_headBsels (x : Ctx) (c r : Nat) : ∀ (l : List AqEntry) (s : State), x.rd (headBsels s c l) r = x.rd s r
  | [], _ => rfl
  | .data _ :: _, _ => rfl
  | .bsel .. :: rest, s => by
    rw [headBsels, rd_headBsels x c r rest]
    rfl

theorem rd_bselApply (x : Ctx) (s : State) (c r : Nat) : x.rd (bselApply s c) r = x.rd s r := rd_headBsels x c r ..

/-! ## Segments (R268) -/

/-- A page that the core translates, it translates after any other translation has been used. -/
theorem tlbFind_tlbTouch_isSome {s : State} {c p va : Nat} (h : (tlbFind s c p va).isSome) (q vb : Nat) :
    (tlbFind (tlbTouch s c q vb) c p va).isSome := by
  unfold tlbTouch
  split
  · next e he =>
    rw [tlbFind, List.find?_isSome] at h ⊢
    obtain ⟨m, hm, hmatch⟩ := h
    refine ⟨m, ?_, hmatch⟩
    rw [core_updCore, if_pos rfl]
    by_cases hme : m = e
    · exact hme ▸ List.mem_cons_self
    · exact List.mem_cons_of_mem _ (List.mem_filter.mpr ⟨hm, by simpa using hme⟩)
  · exact h

/-- A state that differs in the use of translations alone. -/
inductive Touched (c : Nat) (s : State) : State → Prop
  | refl : Touched c s s
  | touch {t : State} (p va : Nat) : Touched c s t → Touched c s (tlbTouch t c p va)

theorem Touched.trans {c : Nat} {s t u : State} (h : Touched c s t) (h' : Touched c t u) : Touched c s u := by
  induction h' with
  | refl => exact h
  | touch p va _ ih => exact .touch p va ih

theorem Touched.rd {c : Nat} {s t : State} (h : Touched c s t) (x : Ctx) (r : Nat) : x.rd t r = x.rd s r := by
  induction h with
  | refl => rfl
  | touch p va _ ih => rw [rd_tlbTouch, ih]

theorem Touched.held {c p va : Nat} {s t : State} (h : Touched c s t) (hf : (tlbFind s c p va).isSome) : (tlbFind t c p va).isSome := by
  induction h with
  | refl => exact hf
  | touch q vb _ ih => exact tlbFind_tlbTouch_isSome ih q vb

/-- The place of one more segment. -/
def segStep (c p : Nat) (rd wr : Bool) (acc : Except TrapInfo (State × List Nat × Option TrapInfo)) (v : Nat) :
    Except TrapInfo (State × List Nat × Option TrapInfo) :=
  match acc with
  | .error t => .error t
  | .ok (s, l, b) => match homedHere s c p v rd wr with
    | .ok (s, pa) => .ok (s, l ++ [pa], b)
    | .error t => if t.cause = .bounds then .ok (s, l, b.or (some t)) else .error t

theorem segStep_touched {c p v : Nat} {rd wr : Bool} {s s' : State} {l l' : List Nat} {b b' : Option TrapInfo}
    (hv : v ≤ 0x00FFFEFFFFFFFFFF → (tlbFind s c p v).isSome) (h : segStep c p rd wr (.ok (s, l, b)) v = .ok (s', l', b')) : Touched c s s' := by
  rw [segStep] at h
  split at h
  · next t pa hok =>
    cases h
    by_cases hle : v ≤ 0x00FFFEFFFFFFFFFF
    · rw [homedHere_ok (hv hle) hok]
      exact .touch _ _ .refl
    · rw [homedHere, if_pos (Nat.not_le.mp hle)] at hok
      cases hok
  · split at h
    · cases h
      exact .refl
    · cases h

theorem segStep_error {c p : Nat} {rd wr : Bool} {t : TrapInfo} (l : List Nat) : l.foldl (segStep c p rd wr) (.error t) = .error t := by
  induction l with
  | nil => rfl
  | cons v l ih => exact ih

theorem foldl_segStep_touched {c p : Nat} {rd wr : Bool} {t : State} {l' : List Nat} {b' : Option TrapInfo} : ∀ (vas : List Nat) (s : State)
    (l : List Nat) (b : Option TrapInfo), (∀ v ∈ vas, v ≤ 0x00FFFEFFFFFFFFFF → (tlbFind s c p v).isSome) →
    vas.foldl (segStep c p rd wr) (.ok (s, l, b)) = .ok (t, l', b') → Touched c s t
  | [], s, l, b, _, h => by
    cases h
    exact .refl
  | v :: vas, s, l, b, hv, h => by
    rw [List.foldl_cons] at h
    cases hs : segStep c p rd wr (.ok (s, l, b)) v with
    | error e =>
      rw [hs, segStep_error] at h
      cases h
    | ok r =>
      obtain ⟨s', l₁, b₁⟩ := r
      rw [hs] at h
      have ht := segStep_touched (hv v List.mem_cons_self) hs
      exact ht.trans (foldl_segStep_touched vas s' l₁ b₁ (fun v' hm hle => ht.held (hv v' (List.mem_cons_of_mem _ hm) hle)) h)

theorem segments_eq (x : Ctx) (s : State) (va n : Nat) (rd wr : Bool) (k : State → List Nat → Option TrapInfo → Act) :
    segments x s va n rd wr k
      = match ((List.range n).map fun i => va + 1024 * i).find?
            (fun v => decide (v ≤ 0x00FFFEFFFFFFFFFF) && (tlbFind s x.c (slot s x.c x.sl).hdr.part v).isNone) with
        | some v => .park 6 (.walk (BitVec.ofNat 64 v)) (askWalk s x.c x.sl (slot s x.c x.sl).hdr.part v)
        | none => match ((List.range n).map fun i => va + 1024 * i).foldl (segStep x.c (slot s x.c x.sl).hdr.part rd wr) (.ok (s, [], none)) with
          | .error t => .trap t
          | .ok (s, l, b) => k s l b := rfl

/-- Segments that are all placed have used translations, and nothing else has changed. -/
theorem touched_of_segments {x : Ctx} {s t : State} {va n : Nat} {rd wr : Bool} {l : List Nat} {b : Option TrapInfo}
    (h : ∀ f : State → List Nat → Option TrapInfo → Act, segments x s va n rd wr f = f t l b) : Touched x.c s t := by
  have hn := h fun s _ _ => .next s
  rw [segments_eq] at hn
  split at hn
  · cases hn
  · next hnone =>
    split at hn
    · cases hn
    · next s' l' b' hf =>
      cases hn
      refine foldl_segStep_touched _ s [] none (fun v hv hle => ?_) hf
      have := List.find?_eq_none.mp hnone v hv
      rw [decide_eq_true hle, Bool.true_and, Bool.not_eq_true] at this
      exact Option.isNone_eq_false_iff.mp this

section forms
variable {s : State} {x : Ctx} {w : BitVec 3} {d a b : BitVec 5} {pa : Nat}

theorem bsync_answers :
    ((chan s x.c).bankCmds = [] → Answers s x (.bsync w) [] (after w 0 x (now s x)))
    ∧ ((chan s x.c).bankCmds ≠ [] → Answers s x (.bsync w) [] (parked 0 x (now s x) ((encode (.bsync w)).getD 0) 4 .bankDone)) := by
  have h : IssuedBy s x (.bsync w) [] w 0 _ _ := { exec := (exec_bsync w s).trans (chI_eq ..) }
  refine ⟨fun hb => h.answers_next ?_, fun hb => ?_⟩
  · rw [chan_now, hb]
    rfl
  · rw [h.word, Option.getD_some]
    refine h.answers_park ?_
    rw [chan_now, if_neg (by simpa using hb)]

/-- The record of BMAC or BRED `word` with `need` entries, in the state `v` in which the BSELs have taken effect. -/
def macRec (s : State) (x : Ctx) (d a b : BitVec 5) (pa need word : Nat) (v : State) : Rec :=
  let q := bankCtl (x.val s b).toNat
  let k := chan v x.c
  let bs := bytesAt v pa q.len
  { newRec x v word (x.val s d) (x.val s a) (x.val s b) with
    st := 1, active := true, seq := k.xqNext, mem := bs.map (·.1), xq := (List.range need).map (· + k.xqNext),
    bset := [q.set, mget 0 k.blayer q.set, (mget (0 : BitVec 32) k.bmask q.set).toNat, if bs.any (·.2) then 1 else 0] }

/-- The state it leaves: both charges, the command, and the entries reserved. -/
def macEntered (x : Ctx) (v : State) (r : Rec) (need : Nat) : State :=
  let y := chargeRec (chargeRec v x.c r (meterOf x.c) 27 r.mem.length) x.c r (meterOf x.c) 28 (selected r).length
  updChan (pushBank y x.c r) x.c fun k =>
    { k with xq := k.xq ++ (List.range need).map (fun i => { key := k.xqNext + i, entry := none }), xqNext := k.xqNext + need }

theorem bankMac_enters {i : Instr} {fn need word : Nat} (hi : exec i s = bankMac fn need w d a b s) (he : encode i = some word)
    (hword : word = word3 (0x1D000000 + fn) w d a b) (hfn : fn < 256) (hd : Drained s x) (hc : Clean s x [a, b, d])
    (hbad : bankBad (x.val s b).toNat = false) (hal : (x.val s a).toNat % 2 ^ 56 % 16 = 0)
    (hp : localPlace x (now s x) ((x.val s a).toNat % 2 ^ 56) (bankCtl (x.val s b).toNat).len = some pa)
    (hr : readStep x (now s x) pa (bankCtl (x.val s b).toNat).len = none)
    (hreg : regionOf s x.c (pa - sramPa x.c 0) = regionOf s x.c (pa - sramPa x.c 0 + (bankCtl (x.val s b).toNat).len - 1))
    (hroom : ((chan s x.c).bankCmds.filter isMac).length < 16) (hl : s.latent = []) (hs : s.softErr = []) (hx : need ≤ xqFree s x.c) :
    Answers s x i [a, b, d] (after w 0 x (macEntered x (bselApply (now s x) x.c)
      (macRec s x d a b pa need ((encode i).getD 0) (bselApply (now s x) x.c)) need)) := by
  have h : IssuedBy s x i [a, b, d] w 0 _ _ :=
    { exec := hi.trans (chI_eq (0x1D000000 + fn) ..), word := he.trans (congrArg some hword),
      wait := by simp only [word3]; omega,
      sync := poisoned_now_of_clean hc }
  rw [h.word, Option.getD_some]
  refine h.answers_next ?_
  dsimp only
  rw [ea56_val, rd_now_val, hbad, if_neg Bool.false_ne_true, if_neg (not_not.mpr hal), hp]
  dsimp only
  rw [regionOf_now, regionOf_now, if_neg (by simpa using hreg), chan_now, if_neg (Nat.not_le.mpr hroom), xqFree_now, if_neg (Nat.not_lt.mpr hx),
    drainStep_now_of_drained hd, hr, Option.or_none]
  dsimp only
  rw [findErrors_of_noErrors ((latent_now s x).trans hl) ((softErr_now s x).trans hs), rd_bselApply, rd_bselApply, rd_bselApply,
    rd_now_val, rd_now_val, rd_now_val]
  rfl

/-- The state that a BCLONE or BFILL of record `r` leaves, of class `cls`. -/
def copyEntered (x : Ctx) (t : State) (cls : Nat) (r : Rec) : State :=
  let v := chargeRec t x.c r (meterOf x.c) cls r.xq.length
  updChan (pushBank v x.c { r with st := 1, active := true, seq := (chan v x.c).xqNext }) x.c fun k => { k with xqNext := k.xqNext + 1 }

theorem bankCopy_enters {t : State} {r : Rec} (hroom : ((chan t x.c).bankCmds.filter fun r => !isMac r).length < 8) (hd : Drained t x) :
    bankCopy x t r = .next (copyEntered x t (if r.fn = 4 then 29 else 30) r) := by
  rw [bankCopy, if_neg (Nat.not_le.mpr hroom), drainStep_of_drained hd]
  rfl

theorem bclone_enters {t₁ t : State} {dl al : List Nat} (hB : (x.val s b).toNat ≤ 4096)
    (hroom : ((chan t x.c).bankCmds.filter fun r => !isMac r).length < 8) (hd : Drained t x) (hc : Clean s x [a, b, d])
    (hdv : (x.val s d).toNat % 2 ^ 56 % 1024 = 0) (hav : (x.val s a).toNat % 2 ^ 56 % 1024 = 0)
    (hdst : ∀ f : State → List Nat → Option TrapInfo → Act,
      segments x (now s x) ((x.val s d).toNat % 2 ^ 56) (x.val s b).toNat false true f = f t₁ dl none)
    (hsrc : ∀ f : State → List Nat → Option TrapInfo → Act,
      segments x t₁ ((x.val s a).toNat % 2 ^ 56) (x.val s b).toNat true false f = f t al none) :
    Answers s x (.bclone w d a b) [a, b, d] (after w 0 x (copyEntered x t 29
      { newRec x t ((encode (.bclone w d a b)).getD 0) (x.val s d) (x.val s a) (x.val s b) with xq := dl, bset := al })) := by
  have h : IssuedBy s x (.bclone w d a b) [a, b, d] w 0 _ _ :=
    { exec := (exec_bclone w d a b s).trans (chI_eq ..), sync := poisoned_now_of_clean hc }
  rw [h.word, Option.getD_some]
  refine h.answers_next ?_
  have hrd (r : Nat) : x.rd t r = x.rd (now s x) r := ((touched_of_segments hdst).trans (touched_of_segments hsrc)).rd x r
  have hal : [(x.val s d).toNat % 2 ^ 56, (x.val s a).toNat % 2 ^ 56].find? (fun v => v % 1024 != 0) = none := by
    simp only [List.find?_cons, hdv, hav, bne_self_eq_false, List.find?_nil]
  dsimp only
  rw [ea56_val, ea56_val, rd_now_val, if_neg (Nat.not_lt.mpr hB), hal]
  dsimp only
  rw [hdst, hsrc, Option.or_none, trapOr, hrd, hrd, hrd, rd_now_val, rd_now_val, rd_now_val]
  rw [bankCopy_enters hroom hd, if_pos]
  simp only [Rec.fn, newRec, word3]
  omega

theorem bfill_enters {t : State} {dl : List Nat} (hB : (x.val s b).toNat ≤ 4096)
    (hroom : ((chan t x.c).bankCmds.filter fun r => !isMac r).length < 8) (hd : Drained t x) (hc : Clean s x [a, b, d])
    (hdv : (x.val s d).toNat % 2 ^ 56 % 1024 = 0) (hav : (x.val s a).toNat % 2 ^ 56 % 16 = 0)
    (hr : ReadsRecord s x ((x.val s a).toNat % 2 ^ 56) 16 pa)
    (hdst : ∀ f : State → List Nat → Option TrapInfo → Act,
      segments x (now s x) ((x.val s d).toNat % 2 ^ 56) (x.val s b).toNat false true f = f t dl none) :
    Answers s x (.bfill w d a b) [a, b, d] (after w 0 x (copyEntered x t 30
      { newRec x t ((encode (.bfill w d a b)).getD 0) (x.val s d) (x.val s a) (x.val s b) with xq := dl, mem := rdBytes (now s x).mem pa 16 })) := by
  have h : IssuedBy s x (.bfill w d a b) [a, b, d] w 0 _ _ :=
    { exec := (exec_bfill w d a b s).trans (chI_eq ..), sync := poisoned_now_of_clean hc }
  rw [h.word, Option.getD_some]
  refine h.answers_next ?_
  have hrd (r : Nat) : x.rd t r = x.rd (now s x) r := (touched_of_segments hdst).rd x r
  dsimp only
  rw [ea56_val, ea56_val, rd_now_val, if_neg (Nat.not_lt.mpr hB), if_neg (not_not.mpr hdv), if_neg (not_not.mpr hav), localOperand_of_reads hr]
  rw [hdst, Option.or_none, trapOr, hrd, hrd, hrd, rd_now_val, rd_now_val, rd_now_val]
  rw [bankCopy_enters hroom hd, if_neg]
  simp only [Rec.fn, newRec, word3]
  omega
end forms

/-- Settles O32: BSYNC, then the commands with the entries they reserve or the segments they name. -/
theorem bankCommandsEnter : Obligations.BankCommandsEnter := by
  intro s x w d a b pa t₁ t dl al u av dv B q off word rec_ enters placed
  refine ⟨bsync_answers.1, bsync_answers.2, fun hd hc => ⟨fun hbad hal hp hr hreg hroom hl hs => ?_, fun hB hroom hdt hdv => ⟨?_, ?_⟩⟩⟩
  · intro v k bs e he hx
    obtain rfl | rfl : e = (.bmac w d a b, 2) ∨ e = (.bred w d a b, 1) := by simpa using he
    · exact bankMac_enters (fn := 2) (need := 2) (exec_bmac w d a b s) rfl
        (by simp only [plc, word3]; omega) (by omega) hd hc hbad hal hp hr hreg hroom hl hs hx
    · exact bankMac_enters (fn := 3) (need := 1) (exec_bred w d a b s) rfl
        (by simp only [plc, word3]; omega) (by omega) hd hc hbad hal hp hr hreg hroom hl hs hx
  · exact fun hav hdst hsrc => bclone_enters hB hroom hdt hc hdv hav hdst hsrc
  · exact fun hav hr hdst => bfill_enters hB hroom hdt hc hdv hav hr hdst

end Sys2Proof.Machine
end

section
/-! PROOFS. Events of the waystation and of the memory domain (R21 to R23, R418, R428). -/

namespace Sys2Proof.Machine

-- One proof after the other: side by side they take more threads and memory than the check of the whole text has.
set_option Elab.async false

/-- What every step of a fold keeps, the fold keeps. -/
theorem foldl_keeps {σ α β : Type} (p : σ → β) (f : σ → α → σ) (h : ∀ s a, p (f s a) = p s) : ∀ (l : List α) (s : σ), p (l.foldl f s) = p s
  | [], _ => rfl
  | a :: l, s => by rw [List.foldl_cons, foldl_keeps p f h l, h]

theorem lookup_filter {α : Type} (p : Nat → Bool) (m : SMap α) (k : Nat) :
    lookup (m.filter fun e => p e.1) k = if p k then lookup m k else none := by
  induction m with
  | nil => rw [List.filter_nil]; exact (ite_self none).symm
  | cons e m ih =>
    obtain ⟨j, v⟩ := e
    rw [List.filter_cons]
    by_cases hjk : j = k
    · subst hjk
      cases hp : p j
      · simpa [hp] using ih
      · simp [lookup]
    · split
      · rw [lookup, if_neg hjk, ih, lookup, if_neg hjk]
      · rw [ih, lookup, if_neg hjk]

/-! ## What changes the network alone -/

/-- `t` differs from `s` in the state of the network alone. -/
def NetOnly (s t : State) : Prop := ∃ n, t = { s with net := n }

theorem NetOnly.refl (s : State) : NetOnly s s := ⟨s.net, rfl⟩
theorem NetOnly.trans {s t u : State} (h : NetOnly s t) (h' : NetOnly t u) : NetOnly s u := by
  obtain ⟨n, rfl⟩ := h
  obtain ⟨n', rfl⟩ := h'
  exact ⟨n', rfl⟩
theorem NetOnly.foldl {α : Type} {f : State → α → State} (h : ∀ s a, NetOnly s (f s a)) : ∀ (l : List α) (s : State), NetOnly s (l.foldl f s)
  | [], s => .refl s
  | a :: l, s => (h s a).trans (NetOnly.foldl h l (f s a))

theorem netOnly_sendVia (s : State) (p : Packet) (came : Nat) (l : Option Nat) : NetOnly s (sendVia s p came l) := by
  unfold sendVia
  split
  · exact ⟨_, rfl⟩
  · split
    · exact .refl s
    · exact ⟨_, rfl⟩

theorem netOnly_sendPkt (s : State) (p : Packet) : NetOnly s (sendPkt s p) := netOnly_sendVia ..

theorem netOnly_noteAnswer (s : State) (q : Packet) (code cause : Nat) : NetOnly s (noteAnswer s q code cause) := by
  unfold noteAnswer
  split
  · exact .refl s
  · split <;> exact ⟨_, rfl⟩

theorem netOnly_respond (s : State) (q : Packet) (code cause : Nat) (bs : List (Byte × Bool)) : NetOnly s (respond s q code cause bs) :=
  (netOnly_noteAnswer s q code cause).trans (netOnly_sendPkt ..)

theorem netOnly_mark (s : State) (q : Packet) : NetOnly s (mark s q) := by
  unfold mark
  split
  · exact .refl s
  · exact ⟨_, rfl⟩

theorem netOnly_messageEnded (s : State) (q : Packet) : NetOnly s (messageEnded s q) := by
  unfold messageEnded
  split
  · exact ⟨_, rfl⟩
  · exact .refl s

theorem netOnly_refuse (s : State) (q : Packet) (code cause : Nat) : NetOnly s (refuse s q code cause) := by
  have h := (netOnly_respond s q code cause []).trans (netOnly_mark _ q)
  unfold refuse
  dsimp only
  split
  · exact h
  · exact h.trans (NetOnly.trans ⟨_, rfl⟩ (netOnly_messageEnded ..))

theorem netOnly_dropMisses (s : State) : NetOnly s (dropMisses s) :=
  NetOnly.trans ⟨_, rfl⟩ (NetOnly.foldl (fun s q => netOnly_refuse s q 3 0) s.net.missBuf _)

/-- The waystation enters the state that R21 requires; the network alone changes with it. -/
theorem settleWs_spec (s : State) : ∃ n, settleWs s = { s with ws := if s.ws = .off ∨ s.ws = .boot then s.ws else wsTarget s, net := n } := by
  unfold settleWs
  split
  · exact ⟨s.net, rfl⟩
  · dsimp only
    have h : NetOnly s (if s.ws = .forward ∧ wsTarget s ≠ .forward then { s with net := { s.net with conns := [] } } else s) := by
      split
      · exact ⟨_, rfl⟩
      · exact .refl s
    have h' : NetOnly s (if wsTarget s = .forward
        then dropMisses (if s.ws = .forward ∧ wsTarget s ≠ .forward then { s with net := { s.net with conns := [] } } else s)
        else if s.ws = .forward ∧ wsTarget s ≠ .forward then { s with net := { s.net with conns := [] } } else s) := by
      split
      · exact h.trans (netOnly_dropMisses _)
      · exact h
    obtain ⟨n, hn⟩ := h'
    rw [hn]
    exact ⟨n, rfl⟩

/-! ## Records and alarms -/

theorem otherRecord_eq (s : State) : ∃ r, otherRecord s = { s with free := s.free + 2, regs := r } := ⟨_, rfl⟩

theorem alarmErase_eq (s : State) : ∃ f p, alarmErase s = { s with fw := f, parts := p } := by
  have h : ∀ (l : List Nat) (s : State), ∃ p, l.foldl (fun s p => if (part s p).memKey then
      updPart s p fun k => { k with memKey := false, keyErased := true } else s) s = { s with parts := p } := by
    intro l
    induction l with
    | nil => exact fun s => ⟨s.parts, rfl⟩
    | cons a l ih =>
      intro s
      rw [List.foldl_cons]
      split
      · obtain ⟨p, hp⟩ := ih (updPart s a fun k => { k with memKey := false, keyErased := true })
        exact ⟨p, hp⟩
      · exact ih s
  obtain ⟨p, hp⟩ := h (List.range 24) { s with fw := { s.fw with locked := true, erased := true } }
  exact ⟨_, p, hp⟩

/-- An alarm changes neither the domains nor what has been verified. -/
theorem alarmFire_eq (s : State) (src : Nat) : ∃ fr r f w p, alarmFire s src = { s with free := fr, regs := r, fw := f, ports := w, parts := p } := by
  unfold alarmFire
  split
  · exact ⟨s.free, s.regs, s.fw, s.ports, s.parts, rfl⟩
  · obtain ⟨r, hr⟩ := otherRecord_eq s
    dsimp only
    split
    · rw [hr]
      exact ⟨_, _, _, _, _, rfl⟩
    · obtain ⟨f, p, hp⟩ := alarmErase_eq { otherRecord s with
        fw := { (otherRecord s).fw with src := (otherRecord s).fw.src ||| 2 ^ src },
        ports := (otherRecord s).fw.authQ.foldl (fun m p => mput {} m p { (mget {} m p : Port) with alarmed := true }) (otherRecord s).ports }
      rw [hp, hr]
      exact ⟨_, _, _, _, _, rfl⟩
    · rw [hr]
      exact ⟨_, _, _, _, _, rfl⟩

theorem netOnly_linkTrain (s : State) (l : Nat) : NetOnly s (linkTrain s l) := by
  unfold linkTrain
  split
  · exact ⟨_, rfl⟩
  · exact .refl s

/-! ## The events -/

section events
variable {s : State}

theorem imageVerified_spec (hb : s.ws = .boot) (hi : s.imgOk = false) :
    (imageVerified s).ws = .boot ∧ (imageVerified s).imgOk = (fwValid s s.fw.active || fwValid s (1 - s.fw.active)) := by
  have hn : ¬ (s.ws ≠ .boot ∨ s.imgOk = true) := by simp [hb, hi]
  rw [imageVerified, if_neg hn]
  split
  · next hv =>
    have h : NetOnly { s with imgOk := true } ((List.range 16).foldl (fun s l => if (link s l).state = 0 then linkTrain s l else s) { s with imgOk := true }) := by
      refine NetOnly.foldl (fun s l => ?_) _ _
      split
      · exact netOnly_linkTrain s l
      · exact .refl s
    obtain ⟨n, h⟩ := h
    rw [h, hv]
    exact ⟨hb, rfl⟩
  · next hv =>
    obtain ⟨fr, r, f, w, p, h⟩ := alarmFire_eq s 3
    rw [h, Bool.eq_false_of_not_eq_true hv]
    exact ⟨hb, hi⟩

/-- What a memory reset loses before the waystation follows (R22). -/
def memLost (s : State) : State :=
  let s := if s.ccache.any fun e => e.2.any (·.dirty) then otherRecord s else s
  { zeroDram s with
    memDom := .off, zeroing := false, srReq := false, ccFlush := false, ccache := []
    held := []
    parts := (s.parts.map fun e => (e.1, { e.2 with spill := [] })).filter fun e => e.2 != {}
    net := { s.net with windows := [], winBase := [], counts := [], conns := [] } }

theorem memReset_eq (h : s.memDom ≠ .off) : memReset s = settleWs (memLost s) := by
  rw [memReset, if_neg h]
  rfl

theorem lookup_memLost (a : Nat) : lookup (memLost s).mem a = if a < 2 ^ 53 then none else lookup s.mem a := by
  have hmem : (memLost s).mem = s.mem.filter fun e => !isDram e.1 := by
    show ((if s.ccache.any fun e => e.2.any (·.dirty) then otherRecord s else s).mem.filter fun e => !isDram e.1) = _
    split <;> rfl
  rw [hmem, lookup_filter (fun a => !isDram a)]
  by_cases ha : a < 2 ^ 53
  · rw [if_pos ha, isDram, hallBase, decide_eq_true ha]
    rfl
  · rw [if_neg ha, isDram, hallBase, decide_eq_false ha]
    rfl

theorem comp_memLost : (memLost s).comp = s.comp := by
  show (if s.ccache.any fun e => e.2.any (·.dirty) then otherRecord s else s).comp = s.comp
  split <;> rfl
end events

/-- Settles O33: the waystation's state by R21, then each event by the states it needs. -/
theorem waystationEvents : Obligations.WaystationEvents := by
  refine ⟨fun s hoff hboot => ?_, fun s => ⟨fun h => ?_, fun hb hi => ?_, fun hb hi => ?_, fun h => ⟨?_, ?_⟩, fun hm hoff hboot => ?_, fun hb => ?_,
    fun hm hz => ?_, fun hm => ?_, fun hm hr hi => ?_, fun hm => ?_, fun hm => ?_⟩⟩
  · obtain ⟨n, h⟩ := settleWs_spec s
    rw [h, if_neg (not_or.mpr ⟨hoff, hboot⟩), wsTarget]
    refine ⟨rfl, rfl, fun hm => if_neg hm, fun hm hc => ?_, fun hm hc => ?_⟩
    · dsimp only
      rw [if_pos hm, if_neg hc]
    · dsimp only
      rw [if_pos hm, if_pos hc]
  · exact ⟨_, (exec_waystationPowerOn s).trans (congrArg Host.Outcome.next (if_pos h)), rfl, rfl⟩
  · exact ⟨_, exec_imageVerificationComplete s, imageVerified_spec hb hi⟩
  · exact (exec_bootTimeout s).trans (congrArg Host.Outcome.next (if_pos ⟨hb, hi⟩))
  · exact (exec_waystationReset s).trans (congrArg Host.Outcome.next (if_neg h))
  · exact (exec_waystationRailOff s).trans (congrArg Host.Outcome.next (if_neg h))
  · exact (exec_memoryRailGood s).trans (congrArg Host.Outcome.next (if_pos ⟨hm, hoff, hboot⟩))
  · exact (exec_memoryRailGood s).trans (congrArg Host.Outcome.next (if_neg fun h => h.2.2 hb))
  · exact (exec_memoryZeroingComplete s).trans (congrArg Host.Outcome.next (if_pos ⟨hz, hm⟩))
  · exact (exec_selfRefreshRequest s).trans (congrArg Host.Outcome.next (if_pos hm))
  · exact (exec_selfRefreshEntry s).trans (congrArg Host.Outcome.next (if_pos ⟨hm, hr, hi⟩))
  · exact (exec_selfRefreshExit s).trans (congrArg Host.Outcome.next (if_pos hm))
  · refine ⟨memLost s, (exec_memoryReset s).trans (congrArg Host.Outcome.next (memReset_eq hm)), rfl, comp_memLost, lookup_memLost⟩

end Sys2Proof.Machine
end

section
/-! PROOFS. Events of the compute domain, the watchdog and the sensors (R15, R16, R20, R22, R280, R389, R432, R434). -/

namespace Sys2Proof.Machine

-- One proof after the other: side by side they take more threads and memory than the check of the whole text has.
set_option Elab.async false

theorem getReg_putReg_same (s : State) (block off : Nat) (v : Word) : getReg (putReg s block off v) block off = v := by
  rw [getReg, putReg]
  dsimp only
  split
  · next h => rw [lookup_removeAt_same, Option.getD_none, h]
  · rw [lookup_insertAt_same, Option.getD_some]

/-! ## Bringup -/

theorem quadCount_eq (s : State) (q : Nat) : ∃ r k, quadCount s q = { s with regs := r, colRetired := k } := ⟨_, _, rfl⟩
theorem remapQuads_eq (s : State) : ∃ q c r, remapQuads s = { s with quads := q, cores := c, regs := r } := ⟨_, _, _, rfl⟩

theorem foldl_quadCount_eq : ∀ (l : List Nat) (s : State), ∃ r k, l.foldl quadCount s = { s with regs := r, colRetired := k }
  | [], s => ⟨s.regs, s.colRetired, rfl⟩
  | q :: l, s => by
    obtain ⟨r, k, h⟩ := quadCount_eq s q
    obtain ⟨r', k', h'⟩ := foldl_quadCount_eq l { s with regs := r, colRetired := k }
    exact ⟨r', k', by rw [List.foldl_cons, h, h']⟩

/-- The scan of bringup retires quads; memory and the slots stay (R432). -/
theorem bringupDone_spec {s : State} (h : s.comp = .bringup) : ∃ u : State,
    bringupDone s = deliverBounced (settleWs { u with comp := .run, metered := [] })
      ∧ u.free = s.free + 1 ∧ u.mem = s.mem ∧ u.slots = s.slots := by
  rw [bringupDone, if_neg (not_not.mpr h)]
  dsimp only
  obtain ⟨r, k, hf⟩ := foldl_quadCount_eq
    ((List.range 1280).filter fun q => (Config.scanFails s.free).getLsbD q && !(quad s q).hole) { s with free := s.free + 1 }
  rw [hf]
  refine ⟨_, rfl, ?_⟩
  split
  · exact ⟨rfl, rfl, rfl⟩
  · obtain ⟨q, c, r', h'⟩ := remapQuads_eq { s with free := s.free + 1, regs := r, colRetired := k }
    rw [h']
    exact ⟨rfl, rfl, rfl⟩

/-! ## What a compute reset loses -/

theorem computeLost_spec (s : State) : (computeLost s).slots = [] ∧ (computeLost s).streams = [] ∧ (computeLost s).resvQ = []
    ∧ ∀ a, 2 ^ 53 ≤ a → lookup (computeLost s).mem a = none := by
  refine ⟨rfl, rfl, rfl, fun a ha => ?_⟩
  refine (lookup_filter isDram _ a).trans ?_
  rw [isDram, hallBase, decide_eq_false (Nat.not_lt.mpr ha)]
  rfl

theorem writebackDone_spec {s : State} (hc : s.ccFlush = true) (hm : s.memDom = .on) :
    (writebackDone s).ccFlush = false ∧ ∀ e ∈ (writebackDone s).ccache, ∀ l ∈ e.2, l.dirty = false := by
  have hn : ¬ (!s.ccFlush || s.memDom != .on) = true := by rw [hc, hm]; decide
  rw [writebackDone, if_neg hn]
  refine ⟨rfl, fun e he l hl => ?_⟩
  obtain ⟨e', -, rfl⟩ := List.mem_map.mp he
  obtain ⟨l', -, rfl⟩ := List.mem_map.mp hl
  rfl

/-! ## Sensors -/

/-- A reading of a die sensor below the point at which it is recorded. -/
theorem getReg_thermalReading {s : State} {i : Nat} {temp : Int} (hi : i < 64) (ht : temp < 840) :
    getReg (thermalReading s i temp) islandBlk (0xF900 + 8 * i) = BitVec.ofNat 64 (BitVec.ofInt 12 temp).toNat := by
  have hreg (u : State) (hu : u.regs = (putReg s islandBlk (0xF900 + 8 * i) (BitVec.ofNat 64 (BitVec.ofInt 12 temp).toNat)).regs) :
      getReg u islandBlk (0xF900 + 8 * i) = BitVec.ofNat 64 (BitVec.ofInt 12 temp).toNat := by
    rw [getReg, hu]
    exact getReg_putReg_same s ..
  have h920 (u : State) : ¬ (920 ≤ temp ∧ u.fw.hotDie = false) := fun h => by omega
  have h840 (u : State) : ¬ (840 ≤ temp ∧ u.fw.capped = false) := fun h => by omega
  rw [thermalReading, if_neg (by omega)]
  dsimp only
  rw [if_pos hi, if_neg (h840 _), if_neg (h920 _)]
  refine hreg _ ?_
  split <;> split <;> rfl

theorem comp_stopAll_quiesce {s : State} (h : s.comp = .run) : (quiesce s).comp = .quiesce := by
  rw [quiesce, if_pos h]
  obtain ⟨n, hn⟩ := settleWs_spec (leaveRun { stopAll s with comp := .quiesce, still := true })
  rw [hn]
  rfl

@[simp] theorem comp_otherRecord (s : State) : (otherRecord s).comp = s.comp := by
  obtain ⟨r, h⟩ := otherRecord_eq s
  rw [h]
@[simp] theorem fw_otherRecord (s : State) : (otherRecord s).fw = s.fw := by
  obtain ⟨r, h⟩ := otherRecord_eq s
  rw [h]

/-- A die that is too hot stops the compute domain (R434). -/
theorem comp_thermalReading {s : State} {i : Nat} {temp : Int} (hi : i < 64) (ht : 920 ≤ temp) (hh : s.fw.hotDie = false) (hc : s.comp = .run) :
    (thermalReading s i temp).comp = .quiesce := by
  rw [thermalReading, if_neg (by omega)]
  dsimp only
  rw [if_pos hi]
  have hfirst (u : State) (hu : u.fw.hotDie = false) (hu' : u.comp = .run) :
      (if 920 ≤ temp ∧ u.fw.hotDie = false then quiesce (otherRecord { u with fw := { u.fw with hotDie := true } })
        else if dieAt u 920 then u else { u with fw := { u.fw with hotDie := false } }).comp = .quiesce := by
    rw [if_pos ⟨ht, hu⟩]
    exact comp_stopAll_quiesce ((comp_otherRecord _).trans hu')
  refine hfirst _ ?_ ?_
  · split <;> split <;> simp only [fw_otherRecord, putReg_fw, hh]
  · split <;> split <;> simp only [comp_otherRecord, putReg_comp, hc]

/-- The towers that read 760 or more since they last read less. -/
theorem hotTowers_thermalReading {s : State} {i : Nat} {temp : Int} (hi : 64 ≤ i) (hi' : i < 80) :
    (760 ≤ temp → i - 64 ∈ (thermalReading s i temp).fw.hotTowers)
    ∧ (temp < 760 → (thermalReading s i temp).fw.hotTowers = s.fw.hotTowers.erase (i - 64)) := by
  rw [thermalReading, if_neg (by omega)]
  dsimp only
  rw [if_neg (by omega)]
  have hlast (u : State) : (if 840 ≤ temp then srRequest (otherRecord u) else u).fw = u.fw := by
    split
    · rw [srRequest]
      split <;> exact fw_otherRecord u
    · rfl
  refine ⟨fun h => ?_, fun h => ?_⟩
  · rw [hlast, if_neg (by omega)]
    split
    · next hin => exact List.mem_of_elem_eq_true hin
    · exact List.mem_append_right _ (List.mem_singleton.mpr rfl)
  · rw [hlast, if_pos h]
    rfl

/-- Settles O34: each event by the state of the domain. -/
theorem computeDomainEvents : Obligations.ComputeDomainEvents := by
  intro s i temp hot
  refine ⟨fun h => ?_, fun h hm => ?_, fun h => ?_, fun h => ?_, fun h => ?_, fun h => ?_, fun h => ?_, computeLost_spec s,
    fun hc hm => ⟨_, exec_channelCacheWritebackComplete s, writebackDone_spec hc hm⟩, fun h => ?_, fun hr hc hb => ?_, fun hr hc hb => ?_,
    fun hr hc hb => ?_, fun hi => ⟨_, exec_thermalReading i temp s, fun hi' ht => ?_, fun hi' ht hh hc => ?_, fun hi' ht => ?_, fun hi' ht => ?_⟩,
    fun hh hd => ?_⟩
  · exact (exec_computeRailGood s).trans (congrArg Host.Outcome.next (if_pos h))
  · exact (exec_computeResetRelease s).trans (congrArg Host.Outcome.next (if_pos ⟨h, hm⟩))
  · obtain ⟨u, hu, hspec⟩ := bringupDone_spec h
    exact ⟨u, (exec_bringupComplete s).trans (congrArg Host.Outcome.next hu), hspec⟩
  · exact (exec_quiesceRequest s).trans (congrArg Host.Outcome.next (if_pos h))
  · exact (exec_quiesceResume s).trans (congrArg Host.Outcome.next (if_pos h))
  · exact (exec_computeReset s).trans (congrArg Host.Outcome.next (if_pos h))
  · exact (exec_computeRailOff s).trans (congrArg Host.Outcome.next (if_neg h))
  · exact (exec_dispatcherHeartbeat s).trans (congrArg Host.Outcome.next (if_pos h))
  · refine (exec_domainWatchdogExpiry s).trans (congrArg Host.Outcome.next ?_)
    rw [watchdogExpiry, if_neg, if_pos hb]
    rintro (h | ⟨h, h'⟩)
    · exact hr h
    · exact hc.elim h h'
  · refine (exec_domainWatchdogExpiry s).trans (congrArg Host.Outcome.next ?_)
    rw [watchdogExpiry, if_neg (by simp [hr, hc]), if_neg (by simp [hb])]
    dsimp only
    rw [if_neg (by simp [hc])]
  · refine (exec_domainWatchdogExpiry s).trans (congrArg Host.Outcome.next ?_)
    rw [watchdogExpiry, if_neg (by simp [hr, hc]), if_neg (by simp [hb])]
    dsimp only
    rw [if_pos hc]
  · exact getReg_thermalReading hi' ht
  · exact comp_thermalReading hi' ht hh hc
  · exact (hotTowers_thermalReading hi' hi).1 ht
  · exact (hotTowers_thermalReading hi' hi).2 ht
  · exact (exec_thermalShutdownTimer s).trans (congrArg Host.Outcome.next (if_pos ⟨hh, hd⟩))

end Sys2Proof.Machine
end

section
/-! PROOFS. The oldest entry of a store buffer takes effect at its home (R55, R114, R116, R290). -/

namespace Sys2Proof.Machine

-- One proof after the other: side by side they take more threads and memory than the check of the whole text has.
set_option Elab.async false

/-! ## Places of a core's own SRAM -/

theorem sramSize_le (c : Nat) : sramSize c ≤ 2 ^ 20 := by
  unfold sramSize
  split <;> omega

theorem homeOf_sramPa {c off : Nat} (h : off < 2 ^ 28) : homeOf (sramPa c off) = .core c off := by
  have hdiv : (2 ^ 54 + c * 2 ^ 28 + off - 2 ^ 54) / 2 ^ 28 = c := by omega
  have hmod : (2 ^ 54 + c * 2 ^ 28 + off - 2 ^ 54) % 2 ^ 28 = off := by omega
  rw [homeOf, sramPa, sramBase, if_pos (by omega), hdiv, hmod]

section place
variable {s : State} {c off : Nat}

theorem coreOfPa_sramPa (h : off < 2 ^ 28) : coreOfPa (sramPa c off) = some c := by rw [coreOfPa, homeOf_sramPa h]
theorem sealedFor_own (h : off < 2 ^ 28) : sealedFor s c (sramPa c off) = false := by
  rw [sealedFor, coreOfPa_sramPa h]
  simp only [bne_self_eq_false, Bool.false_and]
theorem servable_own (h : off < 2 ^ 28) : servable s (sramPa c off) = true := by rw [servable, homeOf_sramPa h]
theorem rowRetired_own (h : off < 2 ^ 28) : rowRetired s (sramPa c off) = false := by
  rw [rowRetired, keyGone, homeOf_sramPa h]
  simp only [Bool.and_false, Bool.or_false]
theorem takesByte_own (h : off < 2 ^ 28) (hreg : regionOf s c off ≠ .workspace) : takesByte s (sramPa c off) = true := by
  rw [takesByte, mayWrite, homeOf_sramPa h, rowRetired_own h]
  simp only [bne_iff_ne.mpr hreg, Bool.true_or, Bool.not_false, Bool.and_true]
end place

/-! ## A plain write -/

/-- Bytes without poison written one after the other are the number's. -/
theorem foldl_wrByte_eq_wrN (pa : Nat) : ∀ (n k : Nat) (m : List Host.Cell) (v : Nat),
    (((leBytes n v).map fun b => (b, false)).zip (List.range' k n)).foldl (fun m (e : (Byte × Bool) × Nat) =>
      wrByte m (pa + e.2) (if e.1.2 then 0 else e.1.1)) m = wrN m (pa + k) n v
  | 0, _, _, _ => rfl
  | n + 1, k, m, v => by
    rw [leBytes, List.map_cons, List.range'_succ, List.zip_cons_cons, List.foldl_cons, foldl_wrByte_eq_wrN pa n (k + 1)]
    rfl

theorem writeBytes_of_noErrors {s : State} (hl : s.latent = []) (he : s.softErr = []) (pa : Nat) (bs : List (Byte × Bool)) : ∃ p,
    writeBytes s pa bs = { s with
      mem := ((bs.zip (List.range bs.length)).filter fun e => takesByte s (pa + e.2)).foldl (fun m e => wrByte m (pa + e.2) (if e.1.2 then 0 else e.1.1)) s.mem,
      poison := p } := by
  have hn : (s.latent.isEmpty && s.softErr.isEmpty) = true := by
    rw [hl, he]
    rfl
  unfold writeBytes
  dsimp only
  rw [if_pos hn]
  exact ⟨_, rfl⟩

/-- A value without poison, written to a core's SRAM outside its workspaces where no error is unfound: its bytes and poison marks change. -/
theorem writeVal_own {s : State} {c off n v : Nat} (hl : s.latent = []) (he : s.softErr = []) (hn : off + n ≤ sramSize c)
    (hreg : ∀ i, i < n → regionOf s c (off + i) ≠ .workspace) :
    ∃ p, writeVal s (sramPa c off) n v false = { s with mem := wrN s.mem (sramPa c off) n v, poison := p } := by
  have hsize := sramSize_le c
  have hall : (((leBytes n v).map fun b => (b, false)).zip (List.range n)).filter (fun e => takesByte s (sramPa c off + e.2))
      = ((leBytes n v).map fun b => (b, false)).zip (List.range' 0 n) := by
    rw [List.range_eq_range', List.filter_eq_self]
    intro e hmem
    have hi : e.2 < n := by
      have := (List.of_mem_zip (a := e.1) (b := e.2) hmem).2
      simpa using this
    rw [show sramPa c off + e.2 = sramPa c (off + e.2) from Nat.add_assoc ..]
    exact takesByte_own (by omega) (hreg e.2 hi)
  obtain ⟨p, hp⟩ := writeBytes_of_noErrors hl he (sramPa c off) ((leBytes n v).map fun b => (b, false))
  refine ⟨p, ?_⟩
  rw [writeVal, hp, List.length_map, leBytes_length, hall, foldl_wrByte_eq_wrN]
  rfl

/-! ## What the waiters of a granule take -/

theorem fillReply_eq (s : State) (c sl : Nat) (r : Reply) : ∃ v, fillReply s c sl r = { s with slots := v } := by
  unfold fillReply
  split
  · split
    · exact ⟨_, rfl⟩
    · exact ⟨s.slots, rfl⟩
  · exact ⟨s.slots, rfl⟩

theorem setReply_eq (s : State) (c sl : Nat) (r : Reply) : ∃ v, setReply s c sl r = { s with slots := v } := by
  obtain ⟨v, h⟩ := fillReply_eq s c sl r
  unfold setReply
  split
  · next d k _ _ =>
    dsimp only
    split
    · obtain ⟨v', h'⟩ := fillReply_eq { s with slots := v } d k r
      exact ⟨v', by rw [h, h']⟩
    · exact ⟨v, h⟩
  · exact ⟨v, h⟩

/-- `t` differs from `s` in full bits, the waiters of granules, and the replies that slots have. -/
def Served (s t : State) : Prop := ∃ f g v, t = { s with full := f, granWait := g, slots := v }

theorem Served.refl (s : State) : Served s s := ⟨s.full, s.granWait, s.slots, rfl⟩
theorem Served.trans {s t u : State} (h : Served s t) (h' : Served t u) : Served s u := by
  obtain ⟨f, g, v, rfl⟩ := h
  obtain ⟨f', g', v', rfl⟩ := h'
  exact ⟨f', g', v', rfl⟩
theorem Served.latent {s t : State} (h : Served s t) : t.latent = s.latent := by obtain ⟨f, g, v, rfl⟩ := h; rfl
theorem Served.softErr {s t : State} (h : Served s t) : t.softErr = s.softErr := by obtain ⟨f, g, v, rfl⟩ := h; rfl

theorem served_setReply (s : State) (c sl : Nat) (r : Reply) : Served s (setReply s c sl r) := by
  obtain ⟨v, h⟩ := setReply_eq s c sl r
  exact ⟨s.full, s.granWait, v, h⟩
theorem served_setFull (s : State) (gs : List Nat) (b : Bool) : Served s (setFull s gs b) := ⟨_, s.granWait, s.slots, rfl⟩

theorem served_serveList (g : Nat) : ∀ (ws : List (Nat × Nat)) (s : State), s.latent = [] → s.softErr = [] → Served s (serveList s g ws)
  | [], s, _, _ => ⟨s.full, _, s.slots, rfl⟩
  | (c, sl) :: ws, s, hl, he => by
    have hrec {t : State} (h : Served s t) : Served s (serveList t g ws) :=
      h.trans (served_serveList g ws t (h.latent.trans hl) (h.softErr.trans he))
    rw [serveList]
    split
    · split
      · rw [findErrors_of_noErrors hl he]
        dsimp only
        split
        · exact hrec (served_setReply ..)
        · split
          · exact ⟨s.full, _, s.slots, rfl⟩
          · exact hrec (served_setReply ..)
          · split
            · exact hrec ((served_setReply ..).trans (served_setFull ..))
            · exact hrec (served_setReply ..)
      · exact ⟨s.full, _, s.slots, rfl⟩
    · exact hrec (.refl s)

theorem served_serveGranule {s : State} (hl : s.latent = []) (he : s.softErr = []) (g : Nat) : Served s (serveGranule s g) := by
  unfold serveGranule
  split
  · exact .refl s
  · exact served_serveList g _ s hl he

theorem served_foldl_serveGranule : ∀ (gs : List Nat) (s : State), s.latent = [] → s.softErr = [] → Served s (gs.foldl serveGranule s)
  | [], s, _, _ => .refl s
  | g :: gs, s, hl, he => by
    have h := served_serveGranule hl he g
    exact h.trans (served_foldl_serveGranule gs _ (h.latent.trans hl) (h.softErr.trans he))

/-! ## The entry leaves -/

theorem popSb_spec (s : State) (c : Nat) (x : Bool) (es : List SbEntry) : ∃ o st cs,
    popSb s c x es = { s with xlinvOut := o, streams := st, cores := cs } ∧ (stream (popSb s c x es) c x).sb = es
      ∧ ∀ off, regionOf (popSb s c x es) c off = regionOf s c off := by
  have hsb : (stream (updStream { s with xlinvOut := s.xlinvOut.map (Issued.popped (streamKey c x)) } c x fun k => { k with sb := es }) c x).sb = es := by
    rw [stream_updStream, if_pos rfl]
  unfold popSb
  dsimp only
  split
  · exact ⟨_, _, s.cores, rfl, hsb, fun _ => rfl⟩
  · refine ⟨_, _, _, rfl, hsb, fun off => ?_⟩
    rw [regionOf, core_updCore, if_pos rfl]
    rfl

theorem storeAt_own {s : State} {c off : Nat} {e : SbEntry} (hoff : off < 2 ^ 28) (hw : e.window = false) :
    storeAt s c e (sramPa c off) = writeVal s (sramPa c off) e.size e.val.toNat e.poison := by
  rw [storeAt, hw, if_neg Bool.false_ne_true, homeOf_sramPa hoff]
  cases kindOf c <;> rfl

section leaves
variable {s : State} {c off : Nat} {x : Bool} {e : SbEntry} {es : List SbEntry}

/-- An entry for its own core's SRAM that nothing counts has its effect, and no more. -/
theorem applyEntry_own {u : State} (hw : e.window = false) (hcnt : e.counted = false) (hoff : off < 2 ^ 28) :
    applyEntry u c e (sramPa c off) = effectAt u c e (sramPa c off) := by
  rw [applyEntry, homeOf_sramPa hoff, hw, hcnt]
  cases e.pa <;> dsimp only
  all_goals
    generalize effectAt u c e (sramPa c off) = t
    split
    · rfl
    · rfl
    · exact if_neg Bool.false_ne_true

/-- An entry for its own core's SRAM leaves as it takes effect. -/
theorem drainOne_own (hsb : (stream s c x).sb = e :: es) (hpa : e.pa = some (sramPa c off)) (hw : e.window = false) (hcnt : e.counted = false)
    (hnet : e.net = none) (hpair : (slot s c e.slot).pair = false) (hbar : barOnWay s c x = false) (hq : waitsForDouble s e = false)
    (hoff : off < 2 ^ 28) : drainOne s c x = effectAt (popSb s c x es) c e (sramPa c off) := by
  have hgo : (e.pa.isNone || (servable s (sramPa c off) && !waitsForDouble s e)) = true := by
    rw [servable_own hoff, hq, hpa]
    rfl
  rw [drainOne, hsb]
  dsimp only
  rw [hbar, if_neg Bool.false_ne_true, hpair, Bool.false_and, Bool.false_and, if_neg Bool.false_ne_true, hnet]
  dsimp only
  rw [show e.pa.getD 0 = sramPa c off by rw [hpa, Option.getD_some], if_pos hgo, applyEntry_own hw hcnt hoff]

/-- What a write of `e.size` bytes to a core's own SRAM leaves in memory, after the waiters of its granules have been served. -/
theorem rdN_of_own_write {u t : State} {v : Nat} (hl : u.latent = []) (he : u.softErr = []) (hn : off + e.size ≤ sramSize c)
    (hreg : ∀ i, i < e.size → regionOf u c (off + i) ≠ .workspace)
    (ht : t = (granules (sramPa c off) e.size).foldl serveGranule (writeVal u (sramPa c off) e.size v false)) :
    t.streams = u.streams ∧ rdN t.mem (sramPa c off) e.size = v % 2 ^ (8 * e.size)
      ∧ ∀ a, (a < sramPa c off ∨ sramPa c off + e.size ≤ a) → rdByte t.mem a = rdByte u.mem a := by
  obtain ⟨p, hwr⟩ := writeVal_own (v := v) hl he hn hreg
  have hs := served_foldl_serveGranule (granules (sramPa c off) e.size) (writeVal u (sramPa c off) e.size v false)
    (by rw [hwr]; exact hl) (by rw [hwr]; exact he)
  rw [← ht, hwr] at hs
  obtain ⟨f, g, w, rfl⟩ := hs
  refine ⟨rfl, ?_, fun a ha => rdByte_wrN_out e.size u.mem _ v a ha⟩
  refine (rdN_wrN_same e.size u.mem (sramPa c off) v).trans ?_
  rw [pow_mul]
  rfl
end leaves

/-- Settles O35: the entry leaves, its bytes are written, and the waiters of its granules are served. -/
theorem bufferDrains : Obligations.BufferDrains := by
  refine ⟨fun s c x e es off hsb hop hpa hw hcnt hpoison hnet hpair hbar hl he hn hreg => ?_,
    fun s c x e es off f hsb hop hpa hw hcnt hnet hpair hbar hl he hn hreg hq hpoison => ?_⟩
  · obtain ⟨o, st, cs, hpop, hsb', hregs⟩ := popSb_spec s c x es
    have hoff : off < 2 ^ 28 := by have := sramSize_le c; omega
    have hone := drainOne_own hsb hpa hw hcnt hnet hpair hbar (by rw [waitsForDouble, hop]) hoff
    have heff : drainOne s c x = (granules (sramPa c off) e.size).foldl serveGranule
        (writeVal (popSb s c x es) (sramPa c off) e.size e.val.toNat false) := by
      rw [hone, effectAt, hop]
      dsimp only
      rw [sealedFor_own hoff, rowRetired_own hoff, if_neg Bool.false_ne_true, if_neg Bool.false_ne_true, storeAt_own hoff hw, hpoison]
    obtain ⟨hst, hval, hrest⟩ := rdN_of_own_write (e := e) (by rw [hpop]; exact hl) (by rw [hpop]; exact he) hn
      (fun i hi => by rw [hregs]; exact hreg i hi) heff
    refine ⟨_, exec_storeBufferDrain c x s, ?_, hval, fun a ha => ?_⟩
    · rw [← hsb', stream, stream, hst]
    · rw [hrest a ha, hpop]
  · obtain ⟨o, st, cs, hpop, hsb', hregs⟩ := popSb_spec s c x es
    have hoff : off < 2 ^ 28 := by have := sramSize_le c; omega
    have hone := drainOne_own hsb hpa hw hcnt hnet hpair hbar (by rw [waitsForDouble, hop, hpa]; dsimp only; rw [hq]; rfl) hoff
    have hpois : poisonedAt (popSb s c x es) (sramPa c off) e.size = false := by
      rw [poisonedAt, rowRetired_own hoff] at hpoison ⊢
      rw [hpop]
      exact hpoison
    have heff : drainOne s c x = (granules (sramPa c off) e.size).foldl serveGranule
        (writeVal (popSb s c x es) (sramPa c off) e.size
          (redOp f e.size (rdN s.mem (sramPa c off) e.size) (e.val.toNat % 2 ^ (8 * e.size))) false) := by
      have hmem : (popSb s c x es).mem = s.mem := by rw [hpop]
      rw [hone, effectAt, hop]
      dsimp only
      rw [sealedFor_own hoff, if_neg Bool.false_ne_true, applyRed, findErrors_of_noErrors (by rw [hpop]; exact hl) (by rw [hpop]; exact he),
        hpois, if_neg Bool.false_ne_true, hw, if_neg Bool.false_ne_true, hmem]
    obtain ⟨hst, hval, hrest⟩ := rdN_of_own_write (e := e) (by rw [hpop]; exact hl) (by rw [hpop]; exact he) hn
      (fun i hi => by rw [hregs]; exact hreg i hi) heff
    refine ⟨drainOne s c x, ?_, ?_, hval, fun a ha => ?_⟩
    · rw [exec_redApply, execRedApply, redApplyStep, hsb]
      dsimp only
      rw [hop]
    · rw [← hsb', stream, stream, hst]
    · rw [hrest a ha, hpop]

end Sys2Proof.Machine
end

section
/-! PROOFS. Travellers and tasks start; the waits of parked travellers are served (R74, R76, R84, R113, R118, R155). -/

namespace Sys2Proof.Machine

-- One proof after the other: side by side they take more threads and memory than the check of the whole text has.
set_option Elab.async false

/-! ## Switching in -/

theorem promote_lmwsb (c : Nat) (x : Bool) (k : Core) : (promote c x k).lmwsb = k.lmwsb := by
  unfold promote
  dsimp only
  split
  · rfl
  · split <;> rfl

/-- A core's queues change, and its traveller's state: the saved pc stays. -/
theorem savedPc_setState {s : State} {c : Nat} {k : Core} (hk : k.lmwsb = (core s c).lmwsb) (sl : Nat) (st : TState) (reason : Nat) :
    savedPc (setState (putCore s c k) c sl st reason) c sl = savedPc s c sl := by
  have hcore : core (putCore s c k) c = k := by
    have := core_updCore s c c fun _ => k
    rwa [if_pos rfl] at this
  have hpa : wsPa (putCore s c k) c sl = wsPa s c sl := by rw [wsPa, hcore, hk, wsPa]
  have hpa' : wsPa (setState (putCore s c k) c sl st reason) c sl = wsPa (putCore s c k) c sl := rfl
  rw [savedPc, wsRd, hpa', savedPc, wsRd, setState, wsWr]
  dsimp only
  rw [rdN_wrN_out _ _ _ _ _ _ (.inl (by omega)), hpa]
  rfl

/-- The state of `switchIn` after it has taken slot `sl` and left queues `k`. -/
def switchedIn (s : State) (c : Nat) (x : Bool) (sl : Nat) (k : Core) : State :=
  let s := putCore s c { k with normQ := k.normQ.map (fun e => if onStream c x e then (e.1, e.2 + 1) else e),
                                steal := { k.steal with pos := 0, backoff := false } }
  let s := setState s c sl .running
  updStream s c x fun q => { q with run := some sl, pc := savedPc s c sl, nextIssue := 0, pend := [], fbuf := [] }

theorem switchIn_urgent {s : State} {c sl n : Nat} {x : Bool} (hlive : coreLive s c = true) (hrun : (stream s c x).run = none)
    (hx : x = true → (chan s c).stopping = false) (hq : (promote c x (core s c)).urgQ.find? (onStream c x) = some (sl, n)) :
    switchIn s c x = switchedIn s c x sl { promote c x (core s c) with urgQ := (promote c x (core s c)).urgQ.erase (sl, n) } := by
  have hgo : ¬ (!coreLive s c || (stream s c x).run.isSome || (x && (chan s c).stopping)) = true := by
    rw [hlive, hrun]
    cases x
    · exact Bool.false_ne_true
    · rw [hx rfl]
      decide
  rw [switchIn, if_neg hgo]
  dsimp only
  rw [hq]
  rfl

theorem stream_switchedIn {s : State} {c sl : Nat} {x : Bool} {k : Core} (hk : k.lmwsb = (core s c).lmwsb) :
    (stream (switchedIn s c x sl k) c x).run = some sl ∧ (stream (switchedIn s c x sl k) c x).pc = savedPc s c sl := by
  rw [switchedIn]
  dsimp only
  rw [stream_updStream, if_pos rfl]
  have h := savedPc_setState (k := { k with normQ := k.normQ.map (fun e => if onStream c x e then (e.1, e.2 + 1) else e),
                                            steal := { k.steal with pos := 0, backoff := false } }) hk sl .running 0
  exact ⟨rfl, h⟩

/-! ## Waits -/

section waits
variable {s : State} {c sl : Nat} {w : Wait}

theorem slot_readyIfReplied (s : State) (c sl : Nat) : slot (readyIfReplied s c sl) c sl = slot s c sl := by
  unfold readyIfReplied
  split
  · split <;> rfl
  · rfl

/-- The reply to a traveller that is no copy of a pair. -/
theorem reply_of_setReply (hw : (slot s c sl).wait = some w) (hr : w.reply = none) (hp : (slot s c sl).pair = false) (r : Reply) :
    ((slot (readyIfReplied (setReply s c sl r) c sl) c sl).wait.bind (·.reply)) = some r := by
  have hpartner : partnerOf s c sl = none := by rw [partnerOf, hp, if_neg Bool.false_ne_true]
  rw [slot_readyIfReplied, setReply, hw, hpartner]
  dsimp only
  rw [fillReply, hw]
  dsimp only
  rw [hr, Option.isNone_none, if_pos rfl, slot_updSlot, if_pos rfl]
  rfl

theorem completeWait_open (hw : (slot s c sl).wait = some w) (hr : w.reply = none) (hp : (slot s c sl).pair = false) :
    completeWait s c sl = match w.cond with
      | .load pa size sync va => readyIfReplied (completeLoad s c sl pa size sync va) c sl
      | .granule pa _ _ va => readyIfReplied (granuleArrive s c sl pa va) c sl
      | .deq p q pa => readyIfReplied (serveDeq s c sl p q pa) c sl
      | .queueStat p q => readyIfReplied (setReply s c sl (.value (queueStat s p q) false)) c sl
      | .cdone p e v => readyIfReplied (serveCdone s c sl p e v) c sl
      | .cchk p e => readyIfReplied (setReply s c sl (.value (BitVec.ofNat 64 (entryGet s p e 63 0)) false)) c sl
      | .purse n v => readyIfReplied (servePurse s c sl n v) c sl
      | .lantern _ k => readyIfReplied (setReply s c sl (.value (lanternWord s (slot s c sl).hdr.part k) false)) c sl
      | .phaseEnd p e =>
        if eState s p e = 3 ∨ eState s p e = 4 then
          readyIfReplied (setReply s c sl (.value (BitVec.ofNat 64 (entryGet s p e 47 40)) false)) c sl
        else s
      | .grantRoom pa _ v =>
        if (if 2 ^ 60 ≤ pa then portRoom s else servable s pa) then readyIfReplied (setReply s c sl (.value v false)) c sl else s
      | .release pa _ =>
        if (slot s c sl).passed && servable s pa then readyIfReplied (serveRelease s c sl pa w.word) c sl
        else if (slot s c sl).passed then s
        else if condHolds s c (kindOf c == .channel && sl == 0) sl w.cond then readyIfReplied (setReply s c sl .again) c sl else s
      | .sealDone w => if (core s w).isSealed then readyIfReplied (setReply s c sl (.value 0 false)) c sl else s
      | k => if condHolds s c (kindOf c == .channel && sl == 0) sl k then readyIfReplied (setReply s c sl .again) c sl else s := by
  rw [completeWait, hw]
  dsimp only
  rw [hr, Option.isSome_none, if_neg Bool.false_ne_true, hp, Bool.false_and, Bool.false_and, if_neg Bool.false_ne_true]
  rfl

/-- A load at its home that has no error and no poison there (R113). -/
theorem completeLoad_plain {pa n : Nat} (hseal : sealedFor s c pa = false) (hserv : servable s pa = true) (hhome : ∀ ch o, homeOf pa ≠ .dram ch o)
    (hl : s.latent = []) (he : s.softErr = []) (hpois : poisonedAt s pa n = false) (sync : Bool) (va : Word) :
    completeLoad s c sl pa n sync va = setReply s c sl (.value (BitVec.ofNat 64 (rdN s.mem pa n)) false) := by
  rw [completeLoad, hseal, if_neg Bool.false_ne_true, hserv, if_neg (by decide)]
  cases hh : homeOf pa with
  | dram ch o => exact absurd hh (hhome ch o)
  | hall _ =>
    dsimp only
    rw [findErrors_of_noErrors hl he, hpois, if_neg Bool.false_ne_true]
  | core _ _ =>
    dsimp only
    rw [findErrors_of_noErrors hl he, hpois, if_neg Bool.false_ne_true]

end waits

/-- Settles O36: the urgent head, the deque's head, and each wait that can be served. -/
theorem travellersRun : Obligations.TravellersRun := by
  intro s c sl x
  refine ⟨fun hlive hrun hx n hq => ?_, fun k ks hidle hdeque hfree => ?_,
    fun w hw hr hp => ⟨fun pa n sync va hcond hseal hserv hhome hl he hpois => ?_, fun hdone => ?_⟩⟩
  · exact ⟨_, (exec_travellerSwitchIn c x s).trans (congrArg Host.Outcome.next (switchIn_urgent hlive hrun hx hq)),
      stream_switchedIn (promote_lmwsb ..)⟩
  · refine (exec_dequeTaskStart c s).trans (congrArg Host.Outcome.next ?_)
    rw [dequeStart, hidle, hdeque, hfree]
  · refine ⟨_, (exec_parkWaitComplete c sl s).trans (congrArg Host.Outcome.next ?_), reply_of_setReply hw hr hp _⟩
    rw [completeWait_open hw hr hp, hcond]
    dsimp only
    rw [completeLoad_plain hseal hserv hhome hl he hpois]
  · refine ⟨_, (exec_parkWaitComplete c sl s).trans (congrArg Host.Outcome.next ?_), reply_of_setReply hw hr hp .again⟩
    rw [completeWait_open hw hr hp]
    rcases hdone with ⟨hcond, h⟩ | ⟨hcond, h⟩ | ⟨hcond, h⟩
    · rw [hcond]
      exact if_pos (by rw [condHolds, h]; rfl)
    · rw [hcond]
      exact if_pos (by rw [condHolds, h]; rfl)
    · rw [hcond]
      exact if_pos (by rw [condHolds, h]; rfl)

end Sys2Proof.Machine
end

section
/-! PROOFS. Arrivals of travellers, tasks and wakes (R77, R81, R93, R94). -/

namespace Sys2Proof.Machine

-- One proof after the other: side by side they take more threads and memory than the check of the whole text has.
set_option Elab.async false

/-! ## What a flight's leaving the list keeps -/

section drop
variable (s : State) (k : Nat)
@[simp] theorem core_dropFlight (c : Nat) : core (dropFlight s k) c = core s c := rfl
@[simp] theorem slot_dropFlight (c sl : Nat) : slot (dropFlight s k) c sl = slot s c sl := rfl
@[simp] theorem stateOf_dropFlight (c sl : Nat) : stateOf (dropFlight s k) c sl = stateOf s c sl := rfl
@[simp] theorem tidOf_dropFlight (c sl : Nat) : tidOf (dropFlight s k) c sl = tidOf s c sl := rfl
@[simp] theorem slotsOf_dropFlight (c : Nat) : slotsOf (dropFlight s k) c = slotsOf s c := rfl
@[simp] theorem isTwinCore_dropFlight (c : Nat) : isTwinCore (dropFlight s k) c = isTwinCore s c := rfl
@[simp] theorem freeSlot_dropFlight (c : Nat) : freeSlot (dropFlight s k) c = freeSlot s c := rfl
@[simp] theorem cubeId_dropFlight : cubeId (dropFlight s k) = cubeId s := rfl
end drop

section arrivals
variable {s : State} {k : Nat}

theorem held_any_eq_false {c : Nat} (h : ∀ q ∈ s.held, q.1 ≠ c) : s.held.any (·.1 == c) = false := by
  rw [List.any_eq_false]
  exact fun q hq => by simpa using h q hq

theorem travellerArrival_settles {t : Packed} {oc os sl : Nat} (hf : s.flights[k]? = some (.traveller t oc os)) (hcube : t.dcube = cubeId s)
    (hhome : noHome s t.dcore t.hdr.part = false) (hwait : arrivalWaits s t.dcore = false) (hwake : needsWake s t.dcore = false)
    (hheld : ∀ h ∈ s.held, h.1 ≠ t.dcore) (htwin : isTwinCore s t.dcore = false) (hfree : freeSlot s t.dcore = some sl)
    (ho : t.hdr.ocube = cubeId s) : travellerArrival s k = ackMove (settleIn (dropFlight s k) t t.dcore sl) oc os := by
  rw [travellerArrival, hf]
  dsimp only
  rw [if_neg (not_not.mpr hcube), hhome, if_neg Bool.false_ne_true, hwait, if_neg Bool.false_ne_true, hwake, if_neg Bool.false_ne_true,
    held_any_eq_false hheld, if_neg Bool.false_ne_true, takeIn, isTwinCore_dropFlight, htwin, Bool.false_and, if_neg Bool.false_ne_true,
    freeSlot_dropFlight, hfree, cubeId_dropFlight, ho, Option.map_some, if_pos rfl]

theorem taskArrival_enters {t : Task} {c : Nat} (hf : s.flights[k]? = some (.task t c none)) (hrun : s.comp = .run)
    (hpart : inPartition s c t.part = true) (hseal : (core s c).isSealed = false) (hseal' : (core s c).sealing = false)
    (hwait : arrivalWaits s c = false) (hwake : needsWake s c = false) (hheld : ∀ h ∈ s.held, h.1 ≠ c) (htwin : isTwinCore s c = false)
    (hkind : kindOf c = .compute) (hlen : (core s c).deque.length < 64) :
    taskArrival s k = updCore (dropFlight s k) c fun v => { v with deque := t :: v.deque } := by
  have hhere : ¬ (s.comp ≠ .run ∨ inPartition s c t.part = false) := by simp [hrun, hpart]
  rw [taskArrival, hf]
  dsimp only
  rw [if_neg hhere, hseal, hseal', Bool.or_false, if_neg Bool.false_ne_true, hwait, if_neg Bool.false_ne_true, hwake, if_neg Bool.false_ne_true,
    held_any_eq_false hheld, if_neg Bool.false_ne_true, takeIn, isTwinCore_dropFlight, htwin, if_neg Bool.false_ne_true, if_pos hkind,
    core_dropFlight, if_pos hlen]
  rfl

theorem heldAdmit_takes {c : Nat} {f : Flight} {s' : State} (hf : s.held.find? (·.1 == c) = some (c, f)) (hlive : coreLive s c = true)
    (ht : takeIn { s with held := s.held.erase (c, f) } c f = some s') : heldAdmit s c = s' := by
  rw [heldAdmit, hf]
  dsimp only
  rw [hlive, Bool.not_true, Bool.false_and, if_neg Bool.false_ne_true, ht]

/-- Wakes held for a traveller that has left follow it to core `core` of cube `cube` (R94). -/
theorem migrationAck_acked {c sl : Nat} {m : Move} (hs : stateOf s c sl = .migrating) (hm : (slot s c sl).move = some m) (ha : m.acked = true) :
    migrationAck s c sl = updSlot (setState
      (if m.cube = cubeId s then { s with flights := s.flights ++ List.replicate (slot s c sl).heldWakes (.wake (tidOf s c sl) m.core none) }
        else (List.range (slot s c sl).heldWakes).foldl (fun s _ => sendWake s c sl m.cube m.core) s) c sl .free) c sl
      fun k => { k with move := none, heldWakes := 0, pending := [] } := by
  rw [migrationAck, hs, hm]
  dsimp only
  rw [ha, Bool.not_true, if_neg Bool.false_ne_true]

theorem migrationAck_waits {c sl : Nat} {m : Move} (hs : stateOf s c sl = .migrating) (hm : (slot s c sl).move = some m) (ha : m.acked = false) :
    migrationAck s c sl = s := by
  rw [migrationAck, hs, hm]
  dsimp only
  rw [ha, Bool.not_false, if_pos rfl]

theorem migrationBounce_here {t : Packed} {oc os : Nat} (hf : s.flights[k]? = some (.bounce t oc os)) (ho : t.hdr.ocube = cubeId s)
    (hrun : s.comp = .run) (hgone : originGone s t = false) : migrationBounce s k = moveFailed (dropFlight s k) oc os := by
  rw [migrationBounce, hf]
  dsimp only
  rw [if_neg (not_not.mpr ho), if_neg (not_not.mpr hrun), hgone, if_neg Bool.false_ne_true]

theorem wakeDelivery_ends {tid c sl : Nat} {w : Wait} (hf : s.flights[k]? = some (.wake tid c none)) (hseal : (core s c).isSealed = false)
    (hslots : slotsOf s c = [sl]) (htid : tidOf s c sl = tid) (hs : stateOf s c sl = .parked) (hw : (slot s c sl).wait = some w)
    (hc : w.cond = .wake) (hr : w.reply = none) :
    wakeDelivery s k = readyIfReplied (setReply (dropFlight s k) c sl (.value 0 false)) c sl := by
  obtain ⟨word, cond, reply⟩ := w
  obtain rfl : cond = .wake := hc
  obtain rfl : reply = none := hr
  rw [wakeDelivery, hf]
  dsimp only [ackFlight]
  rw [core_dropFlight, hseal, if_neg Bool.false_ne_true]
  simp [hslots, htid, hs, hw]
end arrivals

/-- Settles O37: each arrival by the checks that let it in. -/
theorem arrivals : Obligations.Arrivals := by
  intro s k u
  refine ⟨fun t oc os sl hf hcube hhome hwait hwake hheld htwin hfree ho => ?_,
    fun t c hf hrun hpart hseal hseal' hwait hwake hheld htwin hkind hlen => ?_, fun c f s' hf hlive ht => ?_,
    fun c sl m hs hm => ⟨fun ha => ?_, fun ha => ?_⟩, fun t oc os hf ho hrun hgone => ?_, fun tid c sl w hf hseal hslots htid hs hw hc hr => ?_⟩
  · exact (exec_travellerArrival k s).trans
      (congrArg Host.Outcome.next (travellerArrival_settles hf hcube hhome hwait hwake hheld htwin hfree ho))
  · exact (exec_taskPacketArrival k s).trans
      (congrArg Host.Outcome.next (taskArrival_enters hf hrun hpart hseal hseal' hwait hwake hheld htwin hkind hlen))
  · exact (exec_heldArrivalAdmit c s).trans (congrArg Host.Outcome.next (heldAdmit_takes hf hlive ht))
  · exact (exec_migrationAck c sl s).trans (congrArg Host.Outcome.next (migrationAck_waits hs hm ha))
  · exact (exec_migrationAck c sl s).trans (congrArg Host.Outcome.next (migrationAck_acked hs hm ha))
  · exact (exec_migrationBounce k s).trans (congrArg Host.Outcome.next (migrationBounce_here hf ho hrun hgone))
  · exact (exec_wakeDelivery k s).trans (congrArg Host.Outcome.next (wakeDelivery_ends hf hseal hslots htid hs hw hc hr))

end Sys2Proof.Machine
end

section
/-! PROOFS. Stealing and the spill area (R152, R157 to R159, R352, R366, R369, R370). -/

namespace Sys2Proof.Machine

-- One proof after the other: side by side they take more threads and memory than the check of the whole text has.
set_option Elab.async false

theorem core_putFlights (s : State) (l : List Flight) (c : Nat) : core { s with flights := l } c = core s c := rfl
@[simp] theorem core_charge (s : State) (m k n e : Nat) (b : Bool) (c : Nat) : core (charge s m k n e b) c = core s c := by
  obtain ⟨d, a, f, h⟩ := charge_eq s m k n e b
  rw [h]
  rfl
@[simp] theorem flights_charge (s : State) (m k n e : Nat) (b : Bool) : (charge s m k n e b).flights = s.flights := by
  obtain ⟨d, a, f, h⟩ := charge_eq s m k n e b
  rw [h]

section stealing
variable {s : State} {c k : Nat}

/-- An idle core that may rob asks the next core of its sequence, or backs off (R158). -/
theorem stealSend_idle (hidle : coreIdle s c = true) (htwin : isTwinCore s c = false) (hasg : (core s c).asg = true) (hdeque : (core s c).deque = [])
    (hwait : (core s c).steal.waiting = false) (hback : (core s c).steal.backoff = false) (hdrain : (quad s (quadOf c)).draining = false) :
    stealSend s c = match ((stealSeq c).zipIdx.drop (core s c).steal.pos).find? (fun e => mayRob s c e.1) with
      | some (d, n) => { updCore s c fun v => { v with steal := { pos := n + 1, waiting := true, backoff := false } } with
                         flights := s.flights ++ [.stealReq c d] }
      | none => updCore s c fun v => { v with steal := { pos := 0, waiting := false, backoff := true } } := by
  have hgo : ¬ (!coreIdle s c || isTwinCore s c || !(core s c).asg || !(core s c).deque.isEmpty || (core s c).steal.waiting
      || (core s c).steal.backoff || (quad s (quadOf c)).draining) = true := by
    rw [hidle, htwin, hasg, hdeque, hwait, hback, hdrain]
    decide
  rw [stealSend]
  dsimp only
  rw [if_neg hgo] <;> rfl

theorem stealSend_asks {d n : Nat} (hidle : coreIdle s c = true) (htwin : isTwinCore s c = false) (hasg : (core s c).asg = true)
    (hdeque : (core s c).deque = []) (hwait : (core s c).steal.waiting = false) (hback : (core s c).steal.backoff = false)
    (hdrain : (quad s (quadOf c)).draining = false)
    (hnext : ((stealSeq c).zipIdx.drop (core s c).steal.pos).find? (fun e => mayRob s c e.1) = some (d, n)) :
    (stealSend s c).flights = s.flights ++ [.stealReq c d]
      ∧ (core (stealSend s c) c).steal = { pos := n + 1, waiting := true, backoff := false } := by
  rw [stealSend_idle hidle htwin hasg hdeque hwait hback hdrain, hnext]
  refine ⟨rfl, ?_⟩
  rw [core_putFlights, core_updCore, if_pos rfl]

theorem stealSend_backs_off (hidle : coreIdle s c = true) (htwin : isTwinCore s c = false) (hasg : (core s c).asg = true)
    (hdeque : (core s c).deque = []) (hwait : (core s c).steal.waiting = false) (hback : (core s c).steal.backoff = false)
    (hdrain : (quad s (quadOf c)).draining = false)
    (hnext : ((stealSeq c).zipIdx.drop (core s c).steal.pos).find? (fun e => mayRob s c e.1) = none) :
    (core (stealSend s c) c).steal = { pos := 0, waiting := false, backoff := true } := by
  rw [stealSend_idle hidle htwin hasg hdeque hwait hback hdrain, hnext, core_updCore, if_pos rfl]

/-- A victim of the thief's partition gives the tail of its deque (R159). -/
theorem stealServe_gives {d : Nat} {t : Task} {ts : List Task} (hf : s.flights[k]? = some (.stealReq c d)) (hasg : (core s d).asg = true)
    (hpart : (core s d).part = (core s c).part) (hseal : (core s d).isSealed = false) (hmove : (core s d).move = false)
    (hdeque : (core s d).deque = ts ++ [t]) :
    (core (stealServe s k) d).deque = ts ∧ (stealServe s k).flights = (dropFlight s k).flights ++ [.stealRep c (some t)] := by
  have hsame : ((core s d).asg && (core s d).part == (core s c).part && !(core s d).isSealed && !(core s d).move) = true := by
    rw [hasg, hpart, hseal, hmove, beq_self_eq_true]
    rfl
  have hlast : (core s d).deque.getLast? = some t := by rw [hdeque, List.getLast?_concat]
  have heq : stealServe s k = { charge (updCore (dropFlight s k) d fun v => { v with deque := v.deque.dropLast }) (meterOf c) 33 1 t.ecx with
      flights := (dropFlight s k).flights ++ [.stealRep c (some t)] } := by
    rw [stealServe, hf]
    dsimp only
    rw [core_dropFlight, core_dropFlight, hsame, hlast]
    dsimp only
    rw [flights_charge]
    rfl
  rw [heq]
  refine ⟨?_, rfl⟩
  rw [core_putFlights, core_charge, core_updCore, if_pos rfl, core_dropFlight, hdeque]
  exact List.dropLast_concat

theorem stealReply_none (hf : s.flights[k]? = some (.stealRep c none)) :
    stealReply s k = updCore (dropFlight s k) c fun v => { v with steal := { v.steal with waiting := false } } := by
  rw [stealReply, hf]
  dsimp only
  rw [Option.isSome_none, Bool.and_false, if_neg Bool.false_ne_true]

/-- The thief after its request has been answered. -/
def thiefAnswered (s : State) (k c : Nat) : State := updCore (dropFlight s k) c fun v => { v with steal := { v.steal with waiting := false } }

theorem core_thiefAnswered (s : State) (k c : Nat) :
    core (thiefAnswered s k c) c = { core s c with steal := { (core s c).steal with waiting := false } } :=
  (core_updCore (dropFlight s k) c c _).trans (if_pos rfl)

/-- A task that a thief has been given, by whether the thief is idle still. -/
theorem stealReply_some {t : Task} (hf : s.flights[k]? = some (.stealRep c (some t))) (hwait : arrivalWaits s c = false)
    (hseal : (core s c).isSealed = false) (hseal' : (core s c).sealing = false) :
    stealReply s k = match coreIdle (thiefAnswered s k c) c, freeSlot (thiefAnswered s k c) c with
      | true, some sl => createTask (updCore (thiefAnswered s k c) c fun v => { v with steal := {} }) c sl t
      | _, _ =>
        let s := updCore (thiefAnswered s k c) c fun v => { v with steal := {} }
        if ((core s c).deque).length < 64 then updCore s c fun v => { v with deque := t :: v.deque }
        else { s with flights := s.flights ++ [.task t c none] } := by
  rw [stealReply, hf]
  dsimp only
  rw [hwait, Bool.false_and, if_neg Bool.false_ne_true, show updCore (dropFlight s k) c (fun v => { v with steal := { v.steal with waiting := false } })
    = thiefAnswered s k c from rfl, core_thiefAnswered]
  dsimp only
  rw [hseal, hseal', Bool.or_false, if_neg Bool.false_ne_true] <;> rfl

theorem stealReply_enters {t : Task} (hf : s.flights[k]? = some (.stealRep c (some t))) (hwait : arrivalWaits s c = false)
    (hseal : (core s c).isSealed = false) (hseal' : (core s c).sealing = false) (hidle : coreIdle (thiefAnswered s k c) c = false)
    (hlen : (core s c).deque.length < 64) :
    (core (stealReply s k) c).deque = t :: (core s c).deque ∧ (stealReply s k).flights = (dropFlight s k).flights := by
  have hcore : core (updCore (thiefAnswered s k c) c fun v => { v with steal := {} }) c = { core s c with steal := {} } := by
    rw [core_updCore, if_pos rfl, core_thiefAnswered]
  rw [stealReply_some hf hwait hseal hseal', hidle]
  dsimp only
  rw [hcore]
  dsimp only
  rw [if_pos hlen, core_updCore, if_pos rfl, hcore]
  exact ⟨rfl, rfl⟩
end stealing

section spilling
variable {s : State} {c sl p q : Nat}

theorem travellerSpill_stranded (hs : spillable s c sl = true) (hst : stateOf s c sl = .stranded) (ht : strandTurn s c sl = true) :
    travellerSpill s c sl = spillTraveller s c sl 0 := by
  have hn : ¬ ((slot s c sl).leaving = true ∧ stateOf s c sl = .ready) := by simp [hst]
  rw [travellerSpill, hs, if_neg (by decide), if_neg hn, if_pos hst, if_pos ht]

theorem spillAreaAdmit_post {bs : List Byte} {is : List SpillItem} (hw : (part s p).spillWait = .post q bs :: is)
    (hfits : spillFits s p (SpillItem.post q bs).space = true) :
    spillAreaAdmit s p = updPart s p fun k => { k with spill := k.spill ++ [.post q bs], spillWait := is } := by
  rw [spillAreaAdmit, hw]
  dsimp only
  rw [spillAdmit, hw]
  exact if_pos hfits

/-- The head of the spill area is placed when its context has resumed and a core can take it (R370). -/
theorem placeSpilled_head {t : Packed} {is : List SpillItem} (hrun : s.comp = .run) (hspill : (part s p).spill = .traveller t :: is)
    (hready : spillReady s (.traveller t) = true) (hcore : spillCore s t = some c) (hfree : freeSlot s c = some sl) :
    (needsWake s c = true → placeSpilled s p = wakeQuad s c)
    ∧ (needsWake s c = false → placeSpilled s p = unspill (updPart s p fun k => { k with spill := is }) t c sl) := by
  have hturn : (t.why != 0 || firstResumed s p == some (.traveller t)) = true := by
    by_cases hwhy : t.why = 0
    · have hfirst : firstResumed s p = some (.traveller t) := by
        rw [firstResumed, hspill]
        exact List.find?_cons_of_pos (by simp [hready, hwhy])
      rw [hfirst, beq_self_eq_true, Bool.or_true]
    · rw [bne_iff_ne.mpr hwhy, Bool.true_or]
  have hupd : (updPart s p fun k => { k with spill := k.spill.erase (.traveller t) }) = updPart s p fun k => { k with spill := is } := by
    rw [updPart, updPart, hspill, List.erase_cons_head]
  rw [placeSpilled]
  dsimp only
  rw [if_neg (not_not.mpr hrun), hspill, List.find?_cons_of_pos (by rw [hready]; dsimp only; rw [hturn, hcore]; rfl)]
  dsimp only
  rw [hcore]
  dsimp only
  refine ⟨fun h => if_pos h, fun h => ?_⟩
  rw [h, if_neg Bool.false_ne_true, hfree]
  dsimp only
  rw [hupd]

theorem strandNotice_told (h : s.strandNotice.contains q = true) :
    (strandNotice s q).stranded.contains q = true ∧ (strandNotice s q).strandNotice.contains q = false := by
  rw [strandNotice, if_pos h]
  refine ⟨?_, ?_⟩
  · dsimp only
    split
    · next hin => exact hin
    · simp
  · simp
end spilling

/-- Settles O38: the thief and its victim, then the spill area. -/
theorem stealingAndSpilling : Obligations.StealingAndSpilling := by
  refine ⟨fun s c k => ⟨fun hidle htwin hasg hdeque hwait hback hdrain => ⟨fun d n hnext => ?_, fun hnext => ?_⟩,
    fun d t ts hf hasg hpart hseal hmove hdeque => ?_, fun hf => ?_, fun t hf hwait hseal hseal' => ⟨fun sl hidle hfree => ?_, fun hidle hlen => ?_⟩,
    fun hback => ?_⟩, fun s c sl p q bs is t => ⟨fun hs hst ht => ?_, fun hw hfits => ?_, fun hrun hspill hready hcore hfree => ⟨fun h => ?_, fun h => ?_⟩,
    fun h => ?_⟩⟩
  · exact ⟨_, exec_stealRequestSend c s, stealSend_asks hidle htwin hasg hdeque hwait hback hdrain hnext⟩
  · exact ⟨_, exec_stealRequestSend c s, stealSend_backs_off hidle htwin hasg hdeque hwait hback hdrain hnext⟩
  · exact ⟨_, exec_stealRequestServe k s, stealServe_gives hf hasg hpart hseal hmove hdeque⟩
  · exact (exec_stealReply k s).trans (congrArg Host.Outcome.next (stealReply_none hf))
  · refine (exec_stealReply k s).trans (congrArg Host.Outcome.next ?_)
    have hidle' : coreIdle (thiefAnswered s k c) c = true := hidle
    have hfree' : freeSlot (thiefAnswered s k c) c = some sl := hfree
    rw [stealReply_some hf hwait hseal hseal', hidle', hfree']
    rfl
  · exact ⟨_, exec_stealReply k s, stealReply_enters hf hwait hseal hseal' hidle hlen⟩
  · exact (exec_stealBackoffExpiry c s).trans (congrArg Host.Outcome.next (if_pos hback))
  · exact (exec_travellerSpill c sl s).trans (congrArg Host.Outcome.next (travellerSpill_stranded hs hst ht))
  · exact (exec_spillAreaAdmit p s).trans (congrArg Host.Outcome.next (spillAreaAdmit_post hw hfits))
  · exact (exec_spilledTravellerPlacement p s).trans (congrArg Host.Outcome.next ((placeSpilled_head hrun hspill hready hcore hfree).1 h))
  · exact (exec_spilledTravellerPlacement p s).trans (congrArg Host.Outcome.next ((placeSpilled_head hrun hspill hready hcore hfree).2 h))
  · exact ⟨_, exec_strandNotice q s, strandNotice_told h⟩

end Sys2Proof.Machine
end

section
/-! PROOFS. What a stream takes before its next issue, and debug requests (R146, R152, R196, R381, R390 to R394). -/

namespace Sys2Proof.Machine

-- One proof after the other: side by side they take more threads and memory than the check of the whole text has.
set_option Elab.async false

/-! ## The state of a slot after a change -/

theorem stateOf_setState (s : State) (c sl : Nat) (st : TState) (reason : Nat) :
    stateOf (setState s c sl st reason) c sl = if (slot s c sl).used then st else .free := by
  have hst : status (setState s c sl st reason) c sl % 16 = (status s c sl / 256 * 256 + reason % 16 * 16 + st.code) % 16 := by
    have h : status (setState s c sl st reason) c sl = (status s c sl / 256 * 256 + reason % 16 * 16 + st.code) % 256 ^ 2 := rdN_wrN_same ..
    rw [h]
    omega
  rw [stateOf, hst, ofCode_status]
  rfl

/-- A slot's state is in its workspace, and in whether a traveller was created there. -/
theorem stateOf_congr {s t : State} {c sl : Nat} (hused : (slot t c sl).used = (slot s c sl).used) (hmem : t.mem = s.mem)
    (hpa : (core t c).lmwsb = (core s c).lmwsb) : stateOf t c sl = stateOf s c sl := by
  have hst : status t c sl = status s c sl := by rw [status, wsRd, wsPa, hpa, hmem, status, wsRd, wsPa]
  rw [stateOf, hused, hst, stateOf]

theorem used_of_stateOf {s : State} {c sl : Nat} (h : stateOf s c sl ≠ .free) : (slot s c sl).used = true := by
  by_contra hu
  exact h (by rw [stateOf, if_neg hu])

/-- A slot's state does not depend on the registers, the network or what is under way. -/
theorem stateOf_of_same {s t : State} (c sl : Nat) (hslots : t.slots = s.slots) (hmem : t.mem = s.mem) (hcores : t.cores = s.cores) :
    stateOf t c sl = stateOf s c sl :=
  stateOf_congr (by rw [slot, hslots, slot]) hmem (by rw [core, hcores, core])

theorem slot_of_same {s t : State} (c sl : Nat) (hslots : t.slots = s.slots) : slot t c sl = slot s c sl := by rw [slot, hslots, slot]
theorem regField_of_same {s t : State} (b o hi lo : Nat) (hregs : t.regs = s.regs) : regField t b o hi lo = regField s b o hi lo := by
  rw [regField, getReg, hregs, regField, getReg]

section away
variable (s : State) (g : Packed → Packed)
theorem onAway_slots : (onAway s g).slots = s.slots := rfl
theorem onAway_mem : (onAway s g).mem = s.mem := rfl
theorem onAway_cores : (onAway s g).cores = s.cores := rfl
theorem onAway_regs : (onAway s g).regs = s.regs := rfl
end away

theorem slot_putRegs (s : State) (c sl : Nat) (r : SMap Word) : slot { s with regs := r } c sl = slot s c sl := rfl
theorem core_putRegs (s : State) (c : Nat) (r : SMap Word) : core { s with regs := r } c = core s c := rfl

/-- The slot and the core of a halted traveller, before the halt is written down. -/
theorem haltSlot_eq (s : State) (c sl : Nat) (old : TState) : ∃ r, haltSlot s c sl old = {
    updCore (updSlot (setState s c sl .halted) c sl fun k => { k with halted := some ((old, reasonOf s c sl), dbgHard s (slot s c sl).hdr.part) }) c fun k =>
      { k with hardHalt := k.hardHalt || dbgHard s (slot s c sl).hdr.part, urgQ := k.urgQ.filter (·.1 ≠ sl), normQ := k.normQ.filter (·.1 ≠ sl) } with
    regs := r } := ⟨_, rfl⟩

theorem stateOf_haltSlot {s : State} {c sl : Nat} (hu : (slot s c sl).used = true) (old : TState) : stateOf (haltSlot s c sl old) c sl = .halted := by
  obtain ⟨r, h⟩ := haltSlot_eq s c sl old
  rw [h, stateOf_congr (s := setState s c sl .halted), stateOf_setState, if_pos hu]
  · rw [slot_putRegs, slot_updCore, slot_updSlot, if_pos rfl]
  · rfl
  · rw [core_putRegs, core_updCore, if_pos rfl, core_updSlot]

theorem stateOf_makeReady {s : State} {c sl : Nat} (hu : (slot s c sl).used = true) : stateOf (makeReady s c sl) c sl = .ready := by
  have h : stateOf (makeReady s c sl) c sl = stateOf (setState s c sl .ready) c sl := by
    refine stateOf_congr rfl rfl ?_
    rw [makeReady, enqueue, core_updCore, if_pos rfl]
    split <;> rfl
  rw [h, stateOf_setState, if_pos hu]

/-! ## Debug requests -/

theorem getReg_putReg_ne (s : State) {b o b' o' : Nat} (v : Word) (h : regKey b' o' ≠ regKey b o) : getReg (putReg s b o v) b' o' = getReg s b' o' := by
  rw [getReg, putReg, getReg]
  dsimp only
  split
  · rw [lookup_removeAt_ne _ h]
  · rw [lookup_insertAt_ne _ _ h]

theorem regField_putField_ne (s : State) {b o b' o' : Nat} (hi lo v hi' lo' : Nat) (h : regKey b' o' ≠ regKey b o) :
    regField (putField s b o hi lo v) b' o' hi' lo' = regField s b' o' hi' lo' := by
  rw [regField, putField, getReg_putReg_ne s _ h, regField]

/-- GO and BUSY fall and ERR is set as told. -/
theorem regField_dbgDone (s : State) (e : Bool) :
    regField (dbgDone s e) islandBlk 0xF008 53 52 = 0 ∧ regField (dbgDone s e) islandBlk 0xF008 54 54 = b2n e := by
  have hv := (getReg s islandBlk 0xF008).isLt
  have he : b2n e < 2 := by cases e <;> decide
  have hreg : (getReg (dbgDone s e) islandBlk 0xF008).toNat
      = setBits (setBits (getReg s islandBlk 0xF008).toNat 53 52 0) 54 54 (b2n e) := by
    rw [dbgDone, putField, getReg_putReg_same, putField, getReg_putReg_same, BitVec.toNat_ofNat, BitVec.toNat_ofNat]
    simp only [setBits]
    omega
  rw [regField, hreg, regField, hreg]
  simp only [bitsOf, setBits]
  constructor <;> omega

/-- A halt writes no register of a debug request. -/
theorem regField_haltSlot (s : State) (c sl : Nat) (old : TState) (hi lo : Nat) :
    regField (haltSlot s c sl old) islandBlk 0xF008 hi lo = regField s islandBlk 0xF008 hi lo := by
  have hkey (p : Nat) : regKey islandBlk 0xF008 ≠ regKey islandBlk (0xF100 + 8 * p) := by
    simp only [regKey, islandBlk]
    omega
  rw [haltSlot, regField_putField_ne _ _ _ _ _ _ (hkey _), regField_putField_ne _ _ _ _ _ _ (hkey _)]
  exact regField_of_same _ _ _ _ rfl

theorem regField_requestHalt (s : State) (c sl hi lo : Nat) :
    regField (requestHalt s c sl) islandBlk 0xF008 hi lo = regField s islandBlk 0xF008 hi lo := by
  unfold requestHalt
  split
  · exact regField_haltSlot ..
  · exact regField_haltSlot ..
  · rfl
  · exact regField_of_same _ _ _ _ rfl

theorem regField_requestResume (s : State) (c sl hi lo : Nat) :
    regField (requestResume s c sl) islandBlk 0xF008 hi lo = regField s islandBlk 0xF008 hi lo := by
  unfold requestResume
  split
  · unfold resumeHalted
    split
    · rfl
    · refine regField_of_same _ _ _ _ ?_
      dsimp only
      split
      · simp only [updCore_regs, setState, wsWr, updSlot_regs]
      · split <;> simp only [updCore_regs, makeReady, enqueue, setState, wsWr, updSlot_regs]
      · split <;> simp only [updCore_regs, makeReady, enqueue, setState, wsWr, updSlot_regs]
  · exact regField_of_same _ _ _ _ (updSlot_regs ..)

/-- The state of a debug halt before its targets are asked. -/
def haltAsked (s : State) (l : Bool) : State :=
  haltFlights (dbgDone s ((dbgTargets s l).isEmpty && !(awayOf s).any (dbgAway s l (dbgTargets s l)))) (dbgAway s l (dbgTargets s l))

theorem dbgHalt_eq (s : State) (l : Bool) : dbgHalt s l
    = if dbgEn s ((getReg s islandBlk 0xF008).toNat / 2 ^ 45 % 32) then
        (dbgTargets s l).foldl (fun s e => if stateOf s e.1 e.2 = .migrating then s else requestHalt s e.1 e.2) (haltAsked s l)
      else dbgDone s ((dbgTargets s l).isEmpty && !(awayOf s).any (dbgAway s l (dbgTargets s l))) := rfl

/-- The state of a debug resume before its targets are asked. -/
def resumeAsked (s : State) (l : Bool) : State :=
  resumeFlights (dbgDone s ((dbgTargets s l).isEmpty && !(awayOf s).any (dbgAway s l (dbgTargets s l)))) (dbgAway s l (dbgTargets s l))

theorem dbgResume_eq (s : State) (l : Bool) :
    dbgResume s l = (dbgTargets s l).foldl (fun s e => requestResume s e.1 e.2) (resumeAsked s l) := rfl

theorem regs_haltAsked (s : State) (l : Bool) : (haltAsked s l).regs
    = (dbgDone s ((dbgTargets s l).isEmpty && !(awayOf s).any (dbgAway s l (dbgTargets s l)))).regs := onAway_regs ..
theorem regs_resumeAsked (s : State) (l : Bool) : (resumeAsked s l).regs
    = (dbgDone s ((dbgTargets s l).isEmpty && !(awayOf s).any (dbgAway s l (dbgTargets s l)))).regs := onAway_regs ..

/-- Asking for a halt or a resume leaves the travellers on the cores. -/
theorem asked_same (s : State) (e : Bool) (g : Packed → Packed) : (onAway (dbgDone s e) g).slots = s.slots
    ∧ (onAway (dbgDone s e) g).mem = s.mem ∧ (onAway (dbgDone s e) g).cores = s.cores := by
  simp only [onAway_slots, onAway_mem, onAway_cores, dbgDone, putField, putReg_slots, putReg_mem, putReg_cores, and_self]

theorem regField_dbgHalt (s : State) (l : Bool) (hi lo : Nat) : regField (dbgHalt s l) islandBlk 0xF008 hi lo
    = regField (dbgDone s ((dbgTargets s l).isEmpty && !(awayOf s).any (dbgAway s l (dbgTargets s l)))) islandBlk 0xF008 hi lo := by
  have hkeep (s : State) (e : Nat × Nat) :
      regField (if stateOf s e.1 e.2 = .migrating then s else requestHalt s e.1 e.2) islandBlk 0xF008 hi lo = regField s islandBlk 0xF008 hi lo := by
    split
    · rfl
    · exact regField_requestHalt ..
  rw [dbgHalt_eq]
  split
  · rw [foldl_keeps (fun s => regField s islandBlk 0xF008 hi lo) _ hkeep, regField_of_same _ _ _ _ (regs_haltAsked s l)]
  · rfl

theorem regField_dbgResume (s : State) (l : Bool) (hi lo : Nat) : regField (dbgResume s l) islandBlk 0xF008 hi lo
    = regField (dbgDone s ((dbgTargets s l).isEmpty && !(awayOf s).any (dbgAway s l (dbgTargets s l)))) islandBlk 0xF008 hi lo := by
  have hkeep (s : State) (e : Nat × Nat) : regField (requestResume s e.1 e.2) islandBlk 0xF008 hi lo = regField s islandBlk 0xF008 hi lo :=
    regField_requestResume ..
  rw [dbgResume_eq, foldl_keeps (fun s => regField s islandBlk 0xF008 hi lo) _ hkeep, regField_of_same _ _ _ _ (regs_resumeAsked s l)]

section one
variable {s : State} {c sl : Nat} {l : Bool}

theorem stateOf_dbgHalt_one (ht : dbgTargets s l = [(c, sl)]) (hen : dbgEn s ((getReg s islandBlk 0xF008).toNat / 2 ^ 45 % 32) = true)
    (hs : stateOf s c sl = .ready) : stateOf (dbgHalt s l) c sl = .halted := by
  obtain ⟨hslots, hmem, hcores⟩ := asked_same s ((dbgTargets s l).isEmpty && !(awayOf s).any (dbgAway s l (dbgTargets s l)))
    fun t => if dbgAway s l (dbgTargets s l) t && !t.pending.contains .halt then { t with pending := t.pending ++ [.halt] } else t
  have hask : stateOf (haltAsked s l) c sl = .ready := (stateOf_of_same c sl hslots hmem hcores).trans hs
  have hu : (slot (haltAsked s l) c sl).used = true := used_of_stateOf (by rw [hask]; decide)
  rw [dbgHalt_eq, if_pos hen, ht, List.foldl_cons, List.foldl_nil, hask, if_neg (by decide), requestHalt, hask]
  exact stateOf_haltSlot hu .ready

theorem stateOf_dbgResume_one (ht : dbgTargets s l = [(c, sl)]) (hs : stateOf s c sl = .halted) {r : Nat}
    (hh : (slot s c sl).halted = some ((.ready, r), false)) : stateOf (dbgResume s l) c sl = .ready := by
  obtain ⟨hslots, hmem, hcores⟩ := asked_same s ((dbgTargets s l).isEmpty && !(awayOf s).any (dbgAway s l (dbgTargets s l)))
    fun t => if dbgAway s l (dbgTargets s l) t then { t with pending := t.pending.filter (· ≠ .halt) } else t
  have hask : stateOf (resumeAsked s l) c sl = .halted := (stateOf_of_same c sl hslots hmem hcores).trans hs
  have hhalt : (slot (resumeAsked s l) c sl).halted = some ((.ready, r), false) := (congrArg Slot.halted (slot_of_same c sl hslots)).trans hh
  have hu : (slot (resumeAsked s l) c sl).used = true := used_of_stateOf (by rw [hask]; decide)
  rw [dbgResume_eq, ht, List.foldl_cons, List.foldl_nil, requestResume, if_pos hask, resumeHalted, hhalt]
  dsimp only
  have hused (f : Core → Core) : (slot (updCore (updSlot (resumeAsked s l) c sl fun k => { k with halted := none }) c f) c sl).used = true := by
    rw [slot_updCore, slot_updSlot, if_pos rfl]
    exact hu
  split
  · rw [stateOf_setState, hused, if_pos rfl]
  · exact stateOf_makeReady (hused _)
end one

/-! ## Items of a stream -/

section items
variable {s : State} {c sl : Nat} {x : Bool}

theorem runningOf_eq (hrun : (stream s c x).run = some sl) : runningOf s c x = some (sl, (stream s c x).pc) := by rw [runningOf, hrun]; rfl

/-- The only pending item is taken. -/
theorem takePending_only {i : Pending} {f : Pending → Bool} (hp : (slot s c sl).pending = [i]) (hf : f i = true) :
    takePending s c sl f = updSlot s c sl fun k => { k with pending := [] } := by
  rw [takePending, updSlot, updSlot, hp, List.filter_cons_of_neg (by simp [hf]), List.filter_nil]

theorem trapTaken_only {i : Pending} {t : TrapInfo} {f : Pending → Option TrapInfo} (hrun : (stream s c x).run = some sl)
    (hp : (slot s c sl).pending = [i]) (hf : f i = some t) :
    trapTaken s c x f = takeTrap (updSlot s c sl fun k => { k with pending := [] }) c x sl (stream s c x).pc t := by
  have hfind : (slot s c sl).pending.findSome? f = some t := by rw [hp, List.findSome?_cons, hf]
  rw [trapTaken, runningOf_eq hrun]
  dsimp only
  rw [hfind]
  dsimp only
  rw [takePending_only hp (by rw [hf, beq_self_eq_true])]
end items

/-- Settles O39: the items by the one that is pending, then the debug requests by what their registers and targets become. -/
theorem takenAtIssue : Obligations.TakenAtIssue := by
  intro s c sl x t pc free v launch
  refine ⟨fun hrun => ⟨fun hp => ?_, fun hp => ?_, fun hp => ?_, fun hm => ?_⟩, fun hrun hp hok => ?_, fun l => ?_⟩
  · refine (exec_cancelTaken c x s).trans (congrArg Host.Outcome.next ?_)
    rw [cancelTaken, runningOf_eq hrun]
    exact trapTaken_only hrun hp (if_pos rfl)
  · exact (exec_engineFaultDelivery c x s).trans (congrArg Host.Outcome.next (trapTaken_only hrun hp rfl))
  · refine (exec_debugHaltTaken c x s).trans (congrArg Host.Outcome.next ?_)
    rw [debugHaltTaken, runningOf_eq hrun]
    dsimp only
    rw [hp, if_pos (by decide), takePending_only hp (by decide)]
  · refine (exec_addressMatchHalt c x s).trans (congrArg Host.Outcome.next ?_)
    rw [addressMatchHalt, runningOf_eq hrun]
    exact if_pos hm
  · refine (exec_preemptionTaken c s).trans (congrArg Host.Outcome.next ?_)
    rw [preemptionTaken, runningOf_eq hrun]
    exact if_pos hok
  · have hex : exec (launch l).1 s = .next (dbgHalt s l) ∧ exec (launch l).2 s = .next (dbgResume s l) := by
      cases l
      · exact ⟨exec_dbgHaltTraveller s, exec_dbgResumeTraveller s⟩
      · exact ⟨exec_dbgHaltLaunch s, exec_dbgResumeLaunch s⟩
    refine ⟨dbgHalt s l, dbgResume s l, hex.1, hex.2, ?_, ?_, ?_, stateOf_dbgHalt_one, fun ht hs r hh => stateOf_dbgResume_one ht hs hh⟩
    · rw [regField_dbgHalt, (regField_dbgDone s _).1]
    · rw [regField_dbgResume, (regField_dbgDone s _).1]
    · rw [regField_dbgHalt, (regField_dbgDone s _).2]
      by_cases ht : dbgTargets s l = []
      · rw [ht]
        cases (awayOf s).any (dbgAway s l []) <;> rfl
      · have hempty : (dbgTargets s l).isEmpty = false := by simpa using ht
        rw [hempty, Bool.false_and, if_neg fun h => ht h.1]
        rfl

end Sys2Proof.Machine
end

section
/-! PROOFS. Submission, placement and held posts (R138, R141, R147, R168 to R171). -/

namespace Sys2Proof.Machine

-- One proof after the other: side by side they take more threads and memory than the check of the whole text has.
set_option Elab.async false

/-! ## What reads find and look up (R279, R280, R331) -/

/-- `t` is `s` but for what a read by an agent of the system leaves: the errors it found, the cache lines and the walker's pointers. -/
def Looks (s t : State) : Prop :=
  ∃ p l e ch r c n, t = { s with poison := p, latent := l, softErr := e, channels := ch, regs := r, ccache := c, net := n }

theorem Looks.refl (s : State) : Looks s s := ⟨_, _, _, _, _, _, _, rfl⟩
theorem Looks.trans {s t u : State} : Looks s t → Looks t u → Looks s u := by
  rintro ⟨p, l, e, ch, r, c, n, rfl⟩ ⟨p', l', e', ch', r', c', n', rfl⟩
  exact ⟨p', l', e', ch', r', c', n', rfl⟩
theorem Looks.parts {s t : State} : Looks s t → t.parts = s.parts := by
  rintro ⟨p, l, e, ch, r, c, n, rfl⟩
  rfl

theorem looks_findErrors (s : State) (pa n kind ecx : Nat) : Looks s (findErrors s pa n kind ecx) := by
  obtain ⟨p, l, e, ch, r, h⟩ := Corrects.findErrors s pa n kind ecx
  rw [h]
  exact ⟨_, _, _, _, _, _, _, rfl⟩

/-- An access that allocates no line moves lines alone. -/
theorem looks_cacheAccess (s : State) (pa x : Nat) (write : Bool) : Looks s (cacheAccess s pa x write false).1 := by
  unfold cacheAccess
  split
  · dsimp only
    split
    · split
      · exact .refl s
      · split
        · exact ⟨_, _, _, _, _, _, _, rfl⟩
        · exact .refl s
    · exact .refl s
  · exact .refl s

theorem looks_lookUp (s : State) (pa n : Nat) (write : Bool) : Looks s (lookUp s pa n write) :=
  List.foldlRecOn (List.range ((pa + n + 255) / 256 - pa / 256)) _ (Looks.refl s) fun u hu i _ =>
    hu.trans (looks_cacheAccess u (max pa ((pa / 256 + i) * 256)) 0 write)

theorem looks_keepPointer (s : State) (e : Pointer) : Looks s (keepPointer s e) := ⟨_, _, _, _, _, _, _, rfl⟩

theorem looks_walkFrom (p va : Nat) : ∀ (n : Nat) (s : State) (tab l : Nat), Looks s (walkFrom s p va tab l n).1
  | 0, s, _, _ => .refl s
  | n + 1, s, tab, l => by
    unfold walkFrom
    split
    · exact .refl s
    · rename_i pa _
      have hread := (looks_findErrors s pa 16 4 0).trans (looks_lookUp _ pa 16 false)
      dsimp only
      split
      · exact hread
      · split
        · exact hread
        · split
          · exact hread
          · split
            · split <;> exact hread
            · split
              · exact hread
              · exact (hread.trans (looks_keepPointer ..)).trans (looks_walkFrom p va n ..)

theorem looks_walk (s : State) (p va : Nat) : Looks s (walk s p va).1 := by
  unfold walk
  dsimp only
  split
  · exact .refl s
  · split
    · exact (looks_keepPointer ..).trans (looks_walkFrom ..)
    · exact looks_walkFrom ..

theorem looks_recordFound (s : State) (p a : Nat) : Looks s (recordFound s p a) := by
  have hfound (pa : Nat) : Looks s (if servable s pa then lookUp (findErrors (walk s p a).1 pa 128 4 0) pa 128 false else (walk s p a).1) := by
    split
    · exact ((looks_walk ..).trans (looks_findErrors ..)).trans (looks_lookUp ..)
    · exact looks_walk ..
  unfold recordFound
  dsimp only
  split
  · exact hfound _
  · exact hfound _
  · exact .refl s

/-! ## What leaves the partitions as they are -/

theorem part_putPart (s : State) (p : Nat) (k : Part) : part (putPart s p k) p = k := mget_mput_same ..

theorem part_of_same {s t : State} (p : Nat) (h : t.parts = s.parts) : part t p = part s p := by rw [part, h, part]

@[simp] theorem parts_rowSet (s : State) (pa hi lo v : Nat) : (rowSet s pa hi lo v).parts = s.parts := (looks_findErrors s pa 32 4 0).parts
@[simp] theorem parts_rowPut (s : State) (pa v : Nat) : (rowPut s pa v).parts = s.parts := rfl
@[simp] theorem parts_qSet (s : State) (p q hi lo v : Nat) : (qSet s p q hi lo v).parts = s.parts := parts_rowSet ..

@[simp] theorem parts_trapLog (s : State) (p event c cause : Nat) (addr : Word) : (trapLog s p event c cause addr).parts = s.parts := by
  unfold trapLog
  dsimp only
  split
  · rfl
  · split
    · rfl
    · split
      · rfl
      · rfl

theorem Corrects.parts {s t : State} : Corrects s t → t.parts = s.parts := by
  rintro ⟨p, l, e, ch, r, rfl⟩
  rfl

theorem Corrects.foldl {α : Type} {f : State → α → State} (h : ∀ s a, Corrects s (f s a)) (l : List α) (s : State) : Corrects s (l.foldl f s) :=
  List.foldlRecOn l f (Corrects.refl s) fun u hu a _ => hu.trans (h u a)

theorem Corrects.withErrors {s t : State} (h : Corrects s t) (l e : List Nat) : Corrects s { t with latent := l, softErr := e } :=
  h.trans (Corrects.errors t t.poison l e)

theorem corrects_mergeErrors (s : State) (pa n : Nat) : Corrects s (mergeErrors s pa n) := by
  unfold mergeErrors
  refine ((Corrects.foldl_correctHalf _ s).trans (Corrects.foldl (fun u g => ?_) _ _)).withErrors _ _
  dsimp only
  split
  · exact Corrects.foundError ..
  · exact Corrects.refl u

@[simp] theorem parts_writeBytes (s : State) (pa : Nat) (bs : List (Byte × Bool)) : (writeBytes s pa bs).parts = s.parts := by
  have hmerge : (if (s.latent.isEmpty && s.softErr.isEmpty) = true then s else mergeErrors s pa bs.length).parts = s.parts := by
    split
    · rfl
    · exact (corrects_mergeErrors ..).parts
  exact hmerge

@[simp] theorem parts_writeNoting (s : State) (p c : Nat) (va : Word) (pa : Nat) (bs : List (Byte × Bool)) :
    (writeNoting s p c va pa bs).parts = s.parts := by
  unfold writeNoting
  dsimp only
  split
  · rw [parts_trapLog, parts_writeBytes]
  · exact parts_writeBytes ..

@[simp] theorem parts_qWrite (s : State) (p : Nat) (bs : List (Byte × Bool)) (pl : QPlace) : (qWrite s p bs pl).parts = s.parts := by
  cases pl with
  | host a => rfl
  | pa a => exact (parts_writeNoting ..).trans (looks_lookUp ..).parts

@[simp] theorem parts_postIrq (s : State) (p q : Nat) : (postIrq s p q).parts = s.parts := rfl

@[simp] theorem parts_postWrite (s : State) (p q : Nat) (bs : List Byte) : (postWrite s p q bs).parts = s.parts := by
  unfold postWrite
  dsimp only
  generalize (leBytes 64 _).map _ = written
  split
  · split
    · exact ((parts_postIrq ..).trans (parts_qSet ..)).trans (parts_qWrite ..)
    · exact (parts_qSet ..).trans (parts_qWrite ..)
  · exact (parts_trapLog ..).trans (parts_qSet ..)

theorem spill_retireEntry (s : State) (p e : Nat) : (part (retireEntry s p e) p).spill = (part s p).spill := by
  rw [retireEntry, part_updPart, if_pos rfl]
  dsimp only
  rw [freeEntry, part_of_same p (parts_rowPut ..)]

theorem retirePosted_eq (s : State) (p : Nat) (bs : List Byte) : retirePosted s p bs = s ∨ ∃ e, retirePosted s p bs = retireEntry s p e := by
  unfold retirePosted
  dsimp only
  split
  · exact .inr ⟨_, rfl⟩
  · exact .inl rfl

/-- A launch entry that returns to FREE leaves the spill area. -/
theorem spill_retirePosted (s : State) (p : Nat) (bs : List Byte) : (part (retirePosted s p bs) p).spill = (part s p).spill := by
  obtain h | ⟨e, h⟩ := retirePosted_eq s p bs
  · rw [h]
  · rw [h, spill_retireEntry]

/-! ## Submission (R168, R169, R175) -/

section submission
variable {s : State} {p q : Nat} {bs : List Byte}

/-- An entry of another TYPE than launch is rejected with code 2. -/
theorem takeSubmission_of_type (hty : leNat bs % 256 ≠ 1) (carried : Option (List Byte)) (sub : Nat) :
    takeSubmission s p bs carried sub = some (postTo s p (bitsOf (leNat bs) 31 16) 2 1 (bitsOf (leNat bs) 63 32) 0) := by
  rw [takeSubmission]
  dsimp only
  rw [if_pos (Or.inl hty)]

theorem bitsOf_eq_zero {v hi lo lo' : Nat} (h : bitsOf v 511 lo = 0) (hlo : lo ≤ lo') (hhi : hi ≤ 511) : bitsOf v hi lo' = 0 := by
  have hv : v / 2 ^ lo % 2 ^ (511 + 1 - lo) = 0 := h
  by_cases hle : lo' ≤ hi
  · have hdvd : 2 ^ (511 + 1 - lo) ∣ v / 2 ^ lo := Nat.dvd_of_mod_eq_zero hv
    have hdiv : v / 2 ^ lo' = v / 2 ^ lo / 2 ^ (lo' - lo) := by rw [Nat.div_div_eq_div_mul, ← pow_add, Nat.add_sub_cancel' hlo]
    obtain ⟨k, hk⟩ := hdvd
    have hsplit : 2 ^ (511 + 1 - lo) = 2 ^ (lo' - lo) * 2 ^ (511 + 1 - lo') := by rw [← pow_add]; congr 1; omega
    have hsplit' : 2 ^ (511 + 1 - lo') = 2 ^ (hi + 1 - lo') * 2 ^ (511 - hi) := by rw [← pow_add]; congr 1; omega
    rw [bitsOf, hdiv, hk, hsplit, mul_assoc, Nat.mul_div_cancel_left _ (Nat.two_pow_pos _), hsplit', mul_assoc, Nat.mul_mod_right]
  · rw [bitsOf, show hi + 1 - lo' = 0 by omega, pow_zero, Nat.mod_one]

theorem increment_zero (s : State) (p : Nat) : increment s p 0 = s := rfl

/-- The launch that a submission without gate and counters gives (R144). -/
def plainLaunch (s : State) (p sub : Nat) (bs r : List Byte) : Launch :=
  { record := r, gates := [], names := [0, 0, 0], owner := 0, notify := bitsOf (leNat bs) 159 128, urg := false,
    ecx := if recField r 295 288 = 0 then sub else recField r 295 288, seq := (part s p).launchSeq,
    cq := bitsOf (leNat bs) 31 16, tag := bitsOf (leNat bs) 63 32 }

/-- A launch that passes every check and names no gate and no counter joins the normal list. -/
theorem takeSubmission_normal {sub : Nat} {g : State} {r : List Byte} (hty : leNat bs % 256 = 1) (hres : bitsOf (leNat bs) 15 8 = 0)
    (hhigh : bitsOf (leNat bs) 511 160 = 0) (hg : g = recordFound s p (bitsOf (leNat bs) 127 64 % 2 ^ 56))
    (hrec : readRecord g p (bitsOf (leNat bs) 127 64 % 2 ^ 56) = .ok r) (hcode : recordCode g p sub r = 0) (hnames : recNames r = [0, 0, 0])
    (hurg : recBit r 272 = false) :
    takeSubmission s p bs none sub = some (putPart g p { part g p with
      launchSeq := (part g p).launchSeq + 1
      normal := (part g p).normal ++ [plainLaunch g p sub bs r] }) := by
  have halign : bitsOf (leNat bs) 127 64 % 2 ^ 56 % 128 = 0 := by
    by_contra hne
    rw [readRecord, if_pos hne] at hrec
    cases hrec
  have hgate : bitsOf (leNat bs) 191 160 = 0 := bitsOf_eq_zero hhigh (le_refl _) (by decide)
  have hchecks : ¬ (leNat bs % 256 ≠ 1 ∨ bitsOf (leNat bs) 15 8 ≠ 0 ∨ bitsOf (leNat bs) 511 192 ≠ 0) := by
    rw [hty, hres, bitsOf_eq_zero hhigh (by decide) (le_refl _)]
    decide
  rw [takeSubmission]
  dsimp only
  rw [if_neg hchecks, halign, hgate, show ((none : Option (List Byte)).isSome || (0 : Nat) != 0) = false from rfl, if_neg Bool.false_ne_true, ← hg, hrec]
  dsimp only
  rw [if_neg (not_not.mpr hcode), if_neg (fun h => h.1 rfl), if_neg (not_not.mpr rfl), hnames, hurg, if_neg Bool.false_ne_true]
  exact congrArg some (increment_zero ..)

/-- The queue in turn gives its entry, which lies in host memory. -/
theorem submissionFetch_host {a : Nat} {t : State} (hp : p < 24) (hen : partEn s p = true) (hrun : s.comp = .run)
    (hturn : (turns s p).find? ((part s p).nextTurn ≤ ·) = some q) (hq : q < qsize s p)
    (hplace : qPlace s p q (qHead s p q) false = some (.host a))
    (htake : takeSubmission (qSet s p q 159 128 ((qHead s p q + 1) % 2 ^ 32)) p ((qRead s (.host a)).map (·.1)) none (qVf s p q) = some t) :
    submissionFetch s p = updPart t p fun k => { k with nextTurn := q + 1 } := by
  have hreg : regField s islandBlk (0x9000 + 8 * p) 0 0 = 1 := by simpa [partEn] using hen
  have hgo : ¬ (24 ≤ p ∨ regField s islandBlk (0x9000 + 8 * p) 0 0 = 0 ∨ (s.comp ≠ .run ∧ s.comp ≠ .bringup)) := by
    rw [hreg, hrun]
    rintro (h | h | ⟨h, -⟩)
    · omega
    · omega
    · exact h rfl
  have hentry : takeEntry s p q = t := by
    rw [takeEntry, hplace]
    dsimp only
    rw [placeWaits, if_neg Bool.false_ne_true, entryFound, htake]
    rfl
  rw [submissionFetch, if_neg hgo]
  dsimp only
  rw [hturn]
  dsimp only
  rw [if_neg hq.ne, hentry]

end submission

/-! ## Copies and held posts (R170, R171) -/

section copies
variable {s : State} {c : Nat} {y : Copy}

/-- The one copy of a core that may leave is taken where its home has room. -/
theorem copyAccept_only (hfront : copyFront (core s c) = [y]) (hpair : (slot s c y.slot).pair = false) (hroom : copyRoom s y = true) :
    copyAccept s c = copyTaken s c y := by
  rw [copyAccept]
  dsimp only
  rw [hfront]
  have hmine : [y].filter (fun y => (slot s c y.slot).pair && !y.matched) = [] := by simp [hpair]
  have hnot : [y].filter (fun y => !((slot s c y.slot).pair && !y.matched)) = [y] := by simp [hpair]
  rw [hmine, hnot, List.foldl_nil, List.find?_cons, hroom]

/-- The home's state when it takes copy `y`: it has left the buffer, and OUTS counts it no more. -/
def copyLeft (s : State) (c : Nat) (y : Copy) : State := ackOuts (updCore s c fun k => { k with enqBuf := k.enqBuf.erase y }) c y.slot

theorem copyTaken_dispatcher (hq : y.queue = 0x10000) :
    copyTaken s c y = updPart (copyLeft s c y) y.part fun k => { k with intake := k.intake ++ [y] } := if_pos hq

theorem copyTaken_disabled (hq : y.queue ≠ 0x10000) (hen : qEnabled (copyLeft s c y) y.part y.queue = false) :
    copyTaken s c y = trapLog (copyLeft s c y) y.part 3 c 0 (BitVec.ofNat 64 y.queue) :=
  (if_neg hq).trans (if_neg (by rw [copyLeft] at hen; rw [hen]; decide))

theorem copyTaken_enters {pl : QPlace} (hq : y.queue ≠ 0x10000) (hen : qEnabled (copyLeft s c y) y.part y.queue = true)
    (hpl : qPlace (copyLeft s c y) y.part y.queue (qTail (copyLeft s c y) y.part y.queue) true = some pl) :
    copyTaken s c y = qSet (qWrite (copyLeft s c y) y.part (y.bytes.map fun b => (b, false)) pl) y.part y.queue 191 160
      ((qTail (copyLeft s c y) y.part y.queue + 1) % 2 ^ 32) := by
  rw [copyLeft] at hen hpl
  rw [copyTaken]
  dsimp only
  rw [if_neg hq, if_pos hen, hpl]
  rfl

/-- The only held post is written, and leaves the spill area. -/
theorem spill_heldPost {p q : Nat} {b : List Byte} (hfull : qFull s p q = false) (hwait : tailWaits s p q = false)
    (hspill : (part s p).spill = [.post q b]) : (part (heldPost s p q) p).spill = [] := by
  rw [heldPost, hfull, hwait, Bool.or_false, Bool.and_false, if_neg Bool.false_ne_true]
  dsimp only
  rw [hspill, List.find?_cons]
  dsimp only
  rw [beq_self_eq_true]
  dsimp only
  rw [spill_retirePosted]
  have hleft (n : Nat) : (part (qSet (putPart s p { part s p with spill := [SpillItem.post q b].erase (.post q b) }) p q 223 192 n) p).spill
      = [] := by
    rw [part_of_same p (parts_qSet ..), part_putPart, List.erase_cons_head]
  split
  · rw [part_of_same p (parts_postWrite ..)]
    exact hleft _
  · rw [part_of_same p (parts_trapLog ..)]
    exact hleft _

end copies

/-! ## Placement (R138, R147, R149) -/

section placement
variable {s : State} {p e X Y : Nat} {l : Launch}

theorem createPlaced_nil (h : (part s p).placed = []) : createPlaced s p = s := by
  rw [createPlaced]
  dsimp only
  rw [h]
  rfl

/-- The head of the normal list is placed at the origin that the dispatcher chooses. -/
theorem launchPlacement_normal {ls : List Launch} (hp : p < 24) (hrun : s.comp = .run) (hplaced : (part s p).placed = [])
    (hresumed : firstResumed s p = none) (hurgent : (part s p).urgent = []) (hnormal : (part s p).normal = l :: ls) (hmay : mayPlace s l = true)
    (hfixed : fixedBad s p l.record = false) (hentry : lowestEntry s p = some e) (horigin : chooseOrigin s p l.record feasible = some (X, Y)) :
    launchPlacement s p = placeAt s p l e X Y := by
  have hgo : ¬ (24 ≤ p ∨ (s.comp ≠ .run ∧ s.comp ≠ .bringup)) := by
    rintro (h | ⟨h, -⟩)
    · omega
    · exact h hrun
  have hhead : tryHead s p (l :: ls) = some (placeAt s p l e X Y) := by
    rw [tryHead, List.find?_cons, hmay]
    dsimp only
    rw [hfixed, if_neg Bool.false_ne_true, hentry, horigin]
  rw [launchPlacement, if_neg hgo]
  dsimp only
  rw [createPlaced_nil hplaced, hresumed, if_neg (by simp), hurgent, show tryHead s p [] = none from rfl]
  dsimp only
  rw [List.find?_nil]
  dsimp only
  rw [hnormal, hhead, Option.getD_some]

/-- The placement of launch `l` whose travellers are all still to create. -/
def newPlacement (l : Launch) (e X Y : Nat) : Placement :=
  { launch := l, entry := e, x := X, y := Y, left := List.range (recW l.record * recH l.record * recPercore l.record) }

/-- What a placement enters for its partition. -/
def enterPlacement (l : Launch) (e X Y : Nat) (k : Part) : Part :=
  { k with
    tags := mput 0 k.tags e l.tag
    rects := insertAt k.rects e (X, Y, recW l.record, recH l.record)
    running := insertAt k.running e l
    placed := k.placed ++ [newPlacement l e X Y] }

/-- A gated quad is asked to wake. -/
def askWake (s : State) (q : Nat) : State := updQuad s q fun k => if k.gated then { k with waking := true } else k

/-- The state of a placement before its travellers are created. -/
def placedState (s : State) (p : Nat) (l : Launch) (e X Y : Nat) : State :=
  updPart (rowPut (dropFromLists s p l) (entryPa s p e) (launchEntry l)) p (enterPlacement l e X Y)

theorem placeAt_eq (h : entryBad s l.record X Y = false) :
    placeAt s p l e X Y = createPlaced ((placedQuads (newPlacement l e X Y)).foldl askWake (placedState s p l e X Y)) p := by
  have hbad : ¬ entryBad (dropFromLists s p l) l.record X Y = true := by
    rw [show entryBad (dropFromLists s p l) l.record X Y = entryBad s l.record X Y from rfl, h]
    decide
  rw [placeAt]
  dsimp only
  rw [if_neg hbad]
  rfl

/-- Asking quads to wake changes the quads alone. -/
theorem foldl_askWake_eq (qs : List Nat) (s : State) : ∃ k, qs.foldl askWake s = { s with quads := k } :=
  List.foldlRecOn (motive := fun u => ∃ k, u = { s with quads := k }) qs askWake ⟨s.quads, rfl⟩ fun u hu q _ => by
    obtain ⟨k, rfl⟩ := hu
    exact ⟨_, rfl⟩

/-- A quad that is gated or waking stays so when quads are asked to wake. -/
theorem asleep_foldl_askWake {q : Nat} (h : ((quad s q).gated || (quad s q).waking) = true) (qs : List Nat) :
    ((quad (qs.foldl askWake s) q).gated || (quad (qs.foldl askWake s) q).waking) = true :=
  List.foldlRecOn (motive := fun u => ((quad u q).gated || (quad u q).waking) = true) qs askWake h fun u hu q' _ => by
    rw [askWake, quad_updQuad]
    split
    · next heq =>
      subst heq
      split
      · simp
      · exact hu
    · exact hu

theorem placedQuads_of_empty {k : Placement} (h : recW k.launch.record * recH k.launch.record = 0) : placedQuads k = [] := by
  have hcores : rectCores k.launch.record k.x k.y = [] := by
    rw [rectCores]
    obtain hw | hh := Nat.mul_eq_zero.mp h
    · rw [hw]
      exact List.flatMap_eq_nil_iff.mpr fun _ _ => rfl
    · rw [hh]
      rfl
  rw [placedQuads, hcores]
  cases recBit k.launch.record 273 <;> rfl

/-- Travellers whose quads sleep are not created yet. -/
theorem createPlaced_asleep {k : Placement} {u : State} (hplaced : (part u p).placed = [k]) (hleft : k.left ≠ [])
    (hasleep : (placedQuads k).any (fun q => (quad u q).gated || (quad u q).waking) = true) :
    createPlaced u p = updPart (updPart u p fun v => { v with placed := [] }) p fun v => { v with placed := [k] } := by
  have hleft' : k.left.isEmpty = false := List.isEmpty_eq_false_iff.mpr hleft
  have hcreate : createLeft (updPart u p fun v => { v with placed := [] }) p k = (updPart u p fun v => { v with placed := [] }, k.left) :=
    if_pos hasleep
  rw [createPlaced]
  dsimp only
  rw [hplaced, List.isEmpty_cons, if_neg Bool.false_ne_true, List.foldl_cons, List.foldl_nil]
  dsimp only
  rw [hcreate]
  dsimp only
  rw [hleft', if_neg Bool.false_ne_true]
  rfl

theorem rowPut_quads (s : State) (pa v : Nat) : (rowPut s pa v).quads = s.quads := rfl
theorem rowPut_regs (s : State) (pa v : Nat) : (rowPut s pa v).regs = s.regs := rfl
theorem dropFromLists_quads (s : State) (p : Nat) (l : Launch) : (dropFromLists s p l).quads = s.quads := rfl
theorem dropFromLists_regs (s : State) (p : Nat) (l : Launch) : (dropFromLists s p l).regs = s.regs := rfl

theorem quad_placedState (q : Nat) : quad (placedState s p l e X Y) q = quad s q := by
  rw [quad, placedState, updPart_quads, rowPut_quads, dropFromLists_quads, quad]

theorem regs_placedState : (placedState s p l e X Y).regs = s.regs := by
  rw [placedState, updPart_regs, rowPut_regs, dropFromLists_regs]

/-- What a placement leaves while its quads sleep. -/
theorem placeAt_asleep (hplaced : (part s p).placed = []) (hbad : entryBad s l.record X Y = false)
    (hasleep : (placedQuads (newPlacement l e X Y)).any (fun q => (quad s q).gated || (quad s q).waking) = true) :
    ∃ k, placeAt s p l e X Y = updPart (updPart { placedState s p l e X Y with quads := k } p fun v => { v with placed := [] }) p
      fun v => { v with placed := [newPlacement l e X Y] } := by
  have hleft : (newPlacement l e X Y).left ≠ [] := by
    intro h
    have hzero : recW l.record * recH l.record * recPercore l.record = 0 := List.range_eq_nil.mp h
    have hcores : recW l.record * recH l.record = 0 := by
      have hper : recPercore l.record ≠ 0 := by unfold recPercore; omega
      exact (Nat.mul_eq_zero.mp hzero).resolve_right hper
    rw [placedQuads_of_empty hcores] at hasleep
    cases hasleep
  have henter : (part (placedState s p l e X Y) p).placed = [newPlacement l e X Y] := by
    rw [placedState, part_updPart, if_pos rfl, enterPlacement]
    dsimp only
    rw [part_of_same p (parts_rowPut ..), dropFromLists, part_updPart, if_pos rfl]
    dsimp only
    rw [hplaced, List.nil_append]
  have hstill := (List.any_eq_true.mp hasleep).imp fun q hq =>
    And.intro hq.1 (asleep_foldl_askWake (s := placedState s p l e X Y) (by rw [quad_placedState]; exact hq.2) (placedQuads (newPlacement l e X Y)))
  obtain ⟨k, hk⟩ := foldl_askWake_eq (placedQuads (newPlacement l e X Y)) (placedState s p l e X Y)
  rw [hk] at hstill
  rw [placeAt_eq hbad, hk]
  exact ⟨k, createPlaced_asleep henter hleft (List.any_eq_true.mpr hstill)⟩

theorem part_placeAt_asleep (hplaced : (part s p).placed = []) (hbad : entryBad s l.record X Y = false)
    (hasleep : (placedQuads (newPlacement l e X Y)).any (fun q => (quad s q).gated || (quad s q).waking) = true) :
    (part (placeAt s p l e X Y) p).normal = (part s p).normal.filter (· ≠ l)
      ∧ (part (placeAt s p l e X Y) p).placed = [newPlacement l e X Y] := by
  obtain ⟨k, hk⟩ := placeAt_asleep hplaced hbad hasleep
  rw [hk, part_updPart, if_pos rfl]
  refine ⟨?_, rfl⟩
  dsimp only
  rw [part_updPart, if_pos rfl]
  dsimp only
  have hsame : part { placedState s p l e X Y with quads := k } p = part (placedState s p l e X Y) p := rfl
  rw [hsame, placedState, part_updPart, if_pos rfl, enterPlacement]
  dsimp only
  rw [part_of_same p (parts_rowPut ..), dropFromLists, part_updPart, if_pos rfl]

/-! ## A row that was written whole (R279) -/

/-- `n` and then `k` bytes are `n + k` bytes. -/
theorem rdN_append (m : List Host.Cell) (k : Nat) : ∀ (n a : Nat), rdN m a (n + k) = rdN m a n + 256 ^ n * rdN m (a + n) k
  | 0, a => by simp [rdN]
  | n + 1, a => by
    rw [Nat.add_right_comm, rdN, rdN_append m k n (a + 1), rdN, pow_succ, show a + 1 + n = a + (n + 1) by omega]
    ring

theorem rowRd_clean {pa : Nat} (hpoison : ∀ g ∈ s.poison, g ≠ pa / 16 ∧ g ≠ (pa + 16) / 16)
    (hlatent : ∀ h ∈ s.latent, h / 2 ≠ pa / 16 ∧ h / 2 ≠ (pa + 16) / 16) : rowRd s pa = rdN s.mem pa 32 := by
  have hpa : s.poison.contains (pa / 16) = false := by simpa using fun h => (hpoison _ h).1 rfl
  have hpa' : s.poison.contains ((pa + 16) / 16) = false := by simpa using fun h => (hpoison _ h).2 rfl
  have hla : s.latent.any (· / 2 == pa / 16) = false := by simpa using fun h hm => (hlatent h hm).1
  have hla' : s.latent.any (· / 2 == (pa + 16) / 16) = false := by simpa using fun h hm => (hlatent h hm).2
  unfold rowRd
  dsimp only
  split
  · rfl
  · rw [hpa, hpa', hla, hla', Bool.or_self, if_neg Bool.false_ne_true, if_neg Bool.false_ne_true]
    rw [rdN_append s.mem 16 16 pa, mul_comm]
    norm_num

/-- Reading a row that was written whole gives what was written. -/
theorem rowRd_rowPut {pa v : Nat} (halign : pa % 16 = 0) (s : State) : rowRd (rowPut s pa v) pa = v % 256 ^ 32 := by
  rw [rowRd_clean]
  · exact rdN_wrN_same 32 s.mem pa v
  · intro g hg
    have hout := (List.mem_filter.mp hg).2
    simp only [Bool.not_eq_true', Bool.and_eq_false_iff, decide_eq_false_iff_not] at hout
    omega
  · intro h hh
    have hout := (List.mem_filter.mp hh).2
    simp only [Bool.not_eq_true', Bool.and_eq_false_iff, decide_eq_false_iff_not] at hout
    omega

theorem rowRd_of_same {s t : State} (pa : Nat) (hmem : t.mem = s.mem) (hpoison : t.poison = s.poison) (hlatent : t.latent = s.latent) :
    rowRd t pa = rowRd s pa := by
  simp only [rowRd, hmem, hpoison, hlatent]

theorem rowRd_putPart (s : State) (p pa : Nat) (f : Part → Part) : rowRd (updPart s p f) pa = rowRd s pa :=
  rowRd_of_same pa (updPart_mem ..) (updPart_poison ..) (updPart_latent ..)
theorem rowRd_putQuads (s : State) (k : SMap Quad) (pa : Nat) : rowRd { s with quads := k } pa = rowRd s pa := rowRd_of_same pa rfl rfl rfl

/-- The fields of a launch entry (R138, R141). -/
theorem bitsOf_launchEntry (hn : recW l.record * recH l.record * recPercore l.record < 2 ^ 32) :
    bitsOf (launchEntry l % 256 ^ 32) 31 0 = recW l.record * recH l.record * recPercore l.record
      ∧ bitsOf (launchEntry l % 256 ^ 32) 34 32 = 1 ∧ bitsOf (launchEntry l % 256 ^ 32) 39 37 = 1 := by
  unfold launchEntry bitsOf
  dsimp only
  generalize recW l.record * recH l.record * recPercore l.record = n at hn
  refine ⟨?_, ?_, ?_⟩ <;> norm_num <;> omega

/-- The launch entry of a placement whose quads sleep is ACTIVE, at level 1, and counts every traveller. -/
theorem entry_placeAt_asleep (hct : ctOff s p % 32 = 0) (hplaced : (part s p).placed = []) (hbad : entryBad s l.record X Y = false)
    (hasleep : (placedQuads (newPlacement l e X Y)).any (fun q => (quad s q).gated || (quad s q).waking) = true) (hi lo : Nat) :
    entryGet (placeAt s p l e X Y) p e hi lo = bitsOf (launchEntry l % 256 ^ 32) hi lo := by
  have halign : entryPa s p e % 16 = 0 := by
    unfold entryPa hallPa hallBase
    omega
  obtain ⟨k, hk⟩ := placeAt_asleep hplaced hbad hasleep
  have hregs : (placeAt s p l e X Y).regs = s.regs := by
    rw [hk, updPart_regs, updPart_regs]
    exact regs_placedState (s := s) (p := p) (e := e) (X := X) (Y := Y) (l := l)
  have hpa : entryPa (placeAt s p l e X Y) p e = entryPa s p e := by rw [entryPa, ctOff, regField_of_same _ _ _ _ hregs, ← ctOff, ← entryPa]
  have hrow : rowRd (placeAt s p l e X Y) (entryPa s p e) = rowRd (rowPut (dropFromLists s p l) (entryPa s p e) (launchEntry l)) (entryPa s p e) := by
    rw [hk, rowRd_putPart, rowRd_putPart, rowRd_putQuads, placedState, rowRd_putPart]
  rw [entryGet, hpa, hrow, rowRd_rowPut halign]

end placement

/-- Settles O40: each event is taken along the checks of the rule that the statement's hypotheses decide; what searching, reading and
writing memory leaves of the partitions is one lemma each, and a placement's own row is read back. -/
theorem dispatcherEvents : Obligations.DispatcherEvents := by
  refine ⟨fun s p q c => ⟨fun a hp hen hrun hturn hq hplace => ⟨fun hty => ?_, ?_⟩, ?_, ?_, ?_⟩, ?_⟩
  · exact (exec_submissionEntryFetch p s).trans
      (congrArg Host.Outcome.next (submissionFetch_host hp hen hrun hturn hq hplace (takeSubmission_of_type hty none _)))
  · intro r hlatent hsoft hty hres hhigh g hrec hcode hnames hurg
    have hg : (part g p).normal = (part s p).normal := by
      rw [part_of_same p (looks_recordFound ..).parts, part_of_same p (parts_qSet ..)]
    refine ⟨_, plainLaunch g p (qVf s p q) ((qRead s (.host a)).map (·.1)) r, (exec_submissionEntryFetch p s).trans
      (congrArg Host.Outcome.next (submissionFetch_host hp hen hrun hturn hq hplace
        (takeSubmission_normal hty hres hhigh rfl hrec hcode hnames hurg))), ?_, rfl, rfl, rfl, ?_, ?_⟩
    · rw [part_updPart, if_pos rfl, part_putPart, hg]
    · rw [plainLaunch]
    · rw [plainLaunch]
  · intro l ls e X Y hp hrun hplaced hresumed hurgent hnormal hmay hfixed hentry horigin
    exact (exec_launchPlacement p s).trans
      (congrArg Host.Outcome.next (launchPlacement_normal hp hrun hplaced hresumed hurgent hnormal hmay hfixed hentry horigin))
  · intro y hfront hpair u
    refine ⟨fun hq hroom => ?_, fun hq hroom hen => ?_, fun pl hq hroom hen hpl => ?_⟩
    · exact (exec_enqueueCopyAccept c s).trans
        (congrArg Host.Outcome.next ((copyAccept_only hfront hpair hroom).trans (copyTaken_dispatcher hq)))
    · exact (exec_enqueueCopyAccept c s).trans
        (congrArg Host.Outcome.next ((copyAccept_only hfront hpair hroom).trans (copyTaken_disabled hq hen)))
    · exact (exec_enqueueCopyAccept c s).trans
        (congrArg Host.Outcome.next ((copyAccept_only hfront hpair hroom).trans (copyTaken_enters hq hen hpl)))
  · intro b hp hq hfull hwait hspill
    exact ⟨_, (exec_heldPostWrite p q s).trans (congrArg Host.Outcome.next (if_pos ⟨hp, hq⟩)), spill_heldPost hfull hwait hspill⟩
  · intro s p e X Y l he hct hplaced hbad hasleep hn t
    obtain ⟨hcount, hlevel, hstate⟩ := bitsOf_launchEntry hn
    obtain ⟨hnormal, hnew⟩ := part_placeAt_asleep hplaced hbad hasleep
    refine ⟨?_, ?_, ?_, hnormal, newPlacement l e X Y, hnew ▸ List.mem_singleton_self _, rfl, rfl⟩
    · exact (entry_placeAt_asleep hct hplaced hbad hasleep 31 0).trans hcount
    · exact (entry_placeAt_asleep hct hplaced hbad hasleep 34 32).trans hlevel
    · exact (entry_placeAt_asleep hct hplaced hbad hasleep 39 37).trans hstate

end Sys2Proof.Machine
end

section
/-! PROOFS. Gating, waking and self-test of quads (R153, R163, R164). -/

namespace Sys2Proof.Machine

-- One proof after the other: side by side they take more threads and memory than the check of the whole text has.
set_option Elab.async false

/-! ## Fields of a register double -/

theorem testBit_bitsOf (v hi lo i : Nat) : (bitsOf v hi lo).testBit i = (decide (i < hi + 1 - lo) && v.testBit (lo + i)) := by
  rw [bitsOf, Nat.testBit_mod_two_pow, Nat.testBit_div_two_pow, Nat.add_comm i lo]

theorem testBit_setBits {v hi lo x : Nat} (h : lo ≤ hi) (i : Nat) :
    (setBits v hi lo x).testBit i = if lo ≤ i ∧ i ≤ hi then x.testBit (i - lo) else v.testBit i := by
  have hsplit : setBits v hi lo x = 2 ^ lo * (2 ^ (hi + 1 - lo) * (v / 2 ^ (hi + 1)) + x % 2 ^ (hi + 1 - lo)) + v % 2 ^ lo := by
    have hpow : 2 ^ (hi + 1) = 2 ^ lo * 2 ^ (hi + 1 - lo) := by rw [← pow_add, Nat.add_sub_cancel' (by omega)]
    rw [setBits, hpow]
    ring
  rw [hsplit, Nat.testBit_two_pow_mul_add _ (Nat.mod_lt _ (Nat.two_pow_pos _))]
  by_cases hlo : i < lo
  · rw [if_pos hlo, if_neg (by omega), Nat.testBit_mod_two_pow]
    simp [hlo]
  · rw [if_neg hlo, Nat.testBit_two_pow_mul_add _ (Nat.mod_lt _ (Nat.two_pow_pos _))]
    by_cases hhi : i ≤ hi
    · rw [if_pos (show i - lo < hi + 1 - lo by omega), if_pos ⟨by omega, hhi⟩, Nat.testBit_mod_two_pow]
      simp [show i - lo < hi + 1 - lo by omega]
    · rw [if_neg (show ¬ i - lo < hi + 1 - lo by omega), if_neg (fun h => hhi h.2), Nat.testBit_div_two_pow]
      congr 1
      omega

theorem setBits_lt {v hi lo x n : Nat} (h : lo ≤ hi) (hhi : hi < n) (hv : v < 2 ^ n) : setBits v hi lo x < 2 ^ n :=
  Nat.lt_pow_two_of_testBit _ fun i hi' => by
    rw [testBit_setBits h, if_neg (by omega)]
    exact Nat.testBit_lt_two_pow (hv.trans_le (Nat.pow_le_pow_right (by decide) hi'))

theorem bitsOf_setBits_same {v hi lo x : Nat} (h : lo ≤ hi) : bitsOf (setBits v hi lo x) hi lo = x % 2 ^ (hi + 1 - lo) := by
  refine Nat.eq_of_testBit_eq fun i => ?_
  rw [testBit_bitsOf, testBit_setBits h, Nat.testBit_mod_two_pow]
  by_cases hi' : i < hi + 1 - lo
  · rw [if_pos (by omega), Nat.add_sub_cancel_left]
  · simp [hi']

theorem bitsOf_setBits_disjoint {v hi lo x hi' lo' : Nat} (h : lo ≤ hi) (hd : hi < lo' ∨ hi' < lo) :
    bitsOf (setBits v hi lo x) hi' lo' = bitsOf v hi' lo' := by
  refine Nat.eq_of_testBit_eq fun i => ?_
  rw [testBit_bitsOf, testBit_bitsOf, testBit_setBits h]
  by_cases hi'' : i < hi' + 1 - lo'
  · rw [if_neg (by omega)]
  · simp [hi'']

theorem getReg_putField (s : State) (b o : Nat) {hi lo : Nat} (v : Nat) (h : lo ≤ hi) (hhi : hi < 64) :
    (getReg (putField s b o hi lo v) b o).toNat = setBits (getReg s b o).toNat hi lo v := by
  rw [putField, getReg_putReg_same, BitVec.toNat_ofNat, Nat.mod_eq_of_lt (setBits_lt h hhi (getReg s b o).isLt)]

/-- A field reads as what was put into it. -/
theorem regField_putField_same (s : State) (b o : Nat) {hi lo : Nat} (v : Nat) (h : lo ≤ hi) (hhi : hi < 64) :
    regField (putField s b o hi lo v) b o hi lo = v % 2 ^ (hi + 1 - lo) := by
  rw [regField, getReg_putField s b o v h hhi, bitsOf_setBits_same h]

/-- The other fields of the double stay. -/
theorem regField_putField_disjoint (s : State) (b o : Nat) {hi lo hi' lo' : Nat} (v : Nat) (h : lo ≤ hi) (hhi : hi < 64)
    (hd : hi < lo' ∨ hi' < lo) : regField (putField s b o hi lo v) b o hi' lo' = regField s b o hi' lo' := by
  rw [regField, getReg_putField s b o v h hhi, bitsOf_setBits_disjoint h hd, regField]

/-! ## What is done to each quad of a list -/

/-- A fold that does the same to each quad of a list, where doing it twice does no more. -/
theorem quad_foldl {g : State → Nat → State} {f : Quad → Quad} (hg : ∀ s q q', quad (g s q) q' = if q' = q then f (quad s q) else quad s q')
    (hf : ∀ k, f (f k) = f k) (q : Nat) : ∀ (qs : List Nat) (s : State), quad (qs.foldl g s) q = if q ∈ qs then f (quad s q) else quad s q
  | [], s => by simp
  | a :: qs, s => by
    rw [List.foldl_cons, quad_foldl hg hf q qs, hg]
    by_cases ha : q = a
    · subst ha
      simp [hf]
    · simp [ha]

theorem quad_of_same {s t : State} (q : Nat) (h : t.quads = s.quads) : quad t q = quad s q := by rw [quad, h, quad]

section quads
variable {s : State} {q k : Nat}

/-! ## Gating (R153) -/

theorem loseBanks_eq (s : State) (q : Nat) : ∃ a, loseBanks s q = updQuad { s with accMem := a } q fun k => { k with bankStatus := [] } := ⟨_, rfl⟩

theorem quad_loseBanks (s : State) (q q' : Nat) : quad (loseBanks s q) q' = if q' = q then { quad s q with bankStatus := [] } else quad s q' := by
  rw [loseBanks, quad_updQuad]
  rfl

theorem accMem_loseBanks {a : Nat} (hlo : q * 2 ^ 18 ≤ a) (hhi : a < (q + 1) * 2 ^ 18) : lookup (loseBanks s q).accMem a = none := by
  rw [loseBanks, updQuad_accMem]
  refine (lookup_filter (fun b => !(q * 2 ^ 18 ≤ b && b < (q + 1) * 2 ^ 18)) s.accMem a).trans (if_neg ?_)
  rw [decide_eq_true hlo, decide_eq_true hhi]
  decide

/-- An idle quad is gated. -/
theorem quadGate_idle (hq : q < 1280) (hcomp : s.comp = .run ∨ s.comp = .bringup ∨ s.comp = .quiesce) (hdly : regField s dispBlk 0 31 16 ≠ 0)
    (hfree : ((quad s q).gated || (quad s q).hole || (quad s q).draining || (quad s q).testing) = false)
    (hidle : ∀ c ∈ coresOfQuad q, idleCore s c = true ∧ inReserve s c = false) :
    quadGate s q = updQuad (loseBanks s q) q fun k => { k with gated := true, waking := false } := by
  have hall : ((coresOfQuad q).all fun c => idleCore s c && !inReserve s c) = true := by
    refine List.all_eq_true.mpr fun c hc => ?_
    rw [(hidle c hc).1, (hidle c hc).2]
    rfl
  have hgo : ¬ (1280 ≤ q ∨ s.comp = .off ∨ s.comp = .reset ∨ s.comp = .hung ∨ regField s dispBlk 0 31 16 = 0
      ∨ ((quad s q).gated || (quad s q).hole || (quad s q).draining || (quad s q).testing) = true
      ∨ ((coresOfQuad q).all fun c => idleCore s c && !inReserve s c) = false) := by
    rw [hfree, hall]
    rintro (h | h | h | h | h | h | h)
    · omega
    · rw [h] at hcomp; simp at hcomp
    · rw [h] at hcomp; simp at hcomp
    · rw [h] at hcomp; simp at hcomp
    · exact hdly h
    · cases h
    · cases h
  exact if_neg hgo

theorem foldl_createPlaced_nil (h : ∀ p, (part s p).placed = []) : ∀ ps : List Nat, ps.foldl createPlaced s = s
  | [] => rfl
  | p :: ps => by rw [List.foldl_cons, createPlaced_nil (h p), foldl_createPlaced_nil h ps]

theorem quadWake_wakes (hg : (quad s q).gated = true) (hw : (quad s q).waking = true) (hp : ∀ p, (part s p).placed = []) :
    quadWake s q = updQuad s q fun k => { k with gated := false, waking := false } := by
  have hgo : ((quad s q).gated && (quad s q).waking) = true := by rw [hg, hw]; rfl
  rw [quadWake, if_pos hgo, foldl_createPlaced_nil]
  intro p
  rw [part_updQuad, hp]

/-! ## Self-test (R163, R164) -/

/-- A quad of the cluster is drained. -/
def drained (k : Quad) : Quad := if k.hole then k else { k with draining := true }
/-- A quad of the cluster is under test. -/
def underTest (k : Quad) : Quad := if k.hole then { k with bankStatus := [] } else { k with bankStatus := [], testing := true, draining := false }

theorem drained_twice (k : Quad) : drained (drained k) = drained k := by
  unfold drained
  cases h : k.hole <;> simp [h]
theorem underTest_twice (k : Quad) : underTest (underTest k) = underTest k := by
  unfold underTest
  cases h : k.hole <;> simp

theorem drainStart_spec (hint : regField s dispBlk 0 15 0 ≠ 0) (hrun : s.comp = .run) (ht : s.testing = none) :
    (drainStart s).testing = some (nextCluster s, false)
      ∧ ∀ q ∈ quadsOfCluster (nextCluster s), quad (drainStart s) q = drained (quad s q) := by
  have hgo : ¬ (regField s dispBlk 0 15 0 = 0 ∨ s.comp ≠ .run ∨ s.testing.isSome = true) := by
    rw [ht, hrun]
    rintro (h | h | h)
    · exact hint h
    · exact h rfl
    · cases h
  rw [drainStart, if_neg hgo]
  refine ⟨foldl_keeps State.testing (fun s q => updQuad s q drained) (fun s q => updQuad_testing s q drained) _ _, fun q hq => ?_⟩
  exact (quad_foldl (g := fun s q => updQuad s q drained) (fun s q q' => quad_updQuad s q q' drained) drained_twice q _ _).trans (if_pos hq)

/-- A quad of the cluster goes under test, its banks lost. -/
def startTest (s : State) (q : Nat) : State := updQuad (loseBanks s q) q fun v => if v.hole then v else { v with testing := true, draining := false }

theorem quad_startTest (s : State) (q q' : Nat) : quad (startTest s q) q' = if q' = q then underTest (quad s q) else quad s q' := by
  rw [startTest, quad_updQuad, quad_loseBanks, if_pos rfl, quad_loseBanks]
  split
  · rfl
  · rfl

theorem testStart_spec (ht : s.testing = some (k, false)) (hidle : clusterIdle s k = true) :
    (testStart s).testing = some (k, true) ∧ ∀ q ∈ quadsOfCluster k, quad (testStart s) q = underTest (quad s q) := by
  have heq : testStart s = (quadsOfCluster k).foldl startTest { s with testing := some (k, true) } := by
    rw [testStart, ht]
    exact if_pos hidle
  rw [heq]
  exact ⟨foldl_keeps State.testing startTest (fun _ _ => rfl) _ _, fun q hq => (quad_foldl quad_startTest underTest_twice q _ _).trans (if_pos hq)⟩

/-- A quad is back in service. -/
def inService (k : Quad) : Quad := { k with testing := false, draining := false }

theorem backInService_eq (s : State) (k : Nat) : backInService s k
    = (quadsOfCluster k).foldl (fun s q => updQuad s q inService) { s with testing := none } := rfl
theorem testing_backInService (s : State) (k : Nat) : (backInService s k).testing = none :=
  foldl_keeps State.testing (fun s q => updQuad s q inService) (fun _ _ => rfl) _ _
theorem regs_backInService (s : State) (k : Nat) : (backInService s k).regs = s.regs :=
  foldl_keeps State.regs (fun s q => updQuad s q inService) (fun _ _ => rfl) _ _
theorem testFirst_backInService (s : State) (k : Nat) : (backInService s k).testFirst = s.testFirst :=
  foldl_keeps State.testFirst (fun s q => updQuad s q inService) (fun _ _ => rfl) _ _
theorem quad_backInService (s : State) (k q : Nat) : quad (backInService s k) q
    = if q ∈ quadsOfCluster k then inService (quad s q) else quad s q := by
  rw [backInService_eq]
  exact quad_foldl (g := fun s q => updQuad s q inService) (fun s q q' => quad_updQuad s q q' inService) (fun _ => rfl) q _ _

theorem hole_backInService (s : State) (k q : Nat) : (quad (backInService s k) q).hole = (quad s q).hole := by
  rw [quad_backInService]
  split <;> rfl

theorem testDefer_eq (ht : s.testing = some (k, false)) (hidle : clusterIdle s k = false) :
    testDefer s = putField (backInService s k) dispBlk 8 15 8 (min 255 (regField s dispBlk 8 15 8 + 1)) := by
  rw [testDefer, ht]
  exact if_neg (by rw [hidle]; decide)

theorem quadCount_keeps (s : State) (q : Nat) : (quadCount s q).quads = s.quads ∧ (quadCount s q).testing = s.testing
    ∧ (quadCount s q).testFirst = s.testFirst := by
  obtain ⟨r, c, h⟩ := quadCount_eq s q
  rw [h]
  exact ⟨rfl, rfl, rfl⟩

/-- A quad that failed its test is a hole. -/
def asHole (k : Quad) : Quad := { k with hole := true, gated := false, waking := false }
def retireQuad (s : State) (q : Nat) : State := quadCount (updQuad s q asHole) q

theorem quad_retireQuad (s : State) (q q' : Nat) : quad (retireQuad s q) q' = if q' = q then asHole (quad s q) else quad s q' := by
  rw [retireQuad, quad_of_same q' (quadCount_keeps ..).1, quad_updQuad]
theorem testing_retireQuad (s : State) (q : Nat) : (retireQuad s q).testing = s.testing :=
  (quadCount_keeps ..).2.1.trans (updQuad_testing ..)
theorem testFirst_retireQuad (s : State) (q : Nat) : (retireQuad s q).testFirst = s.testFirst :=
  (quadCount_keeps ..).2.2.trans (updQuad_testFirst ..)

/-- The quads of cluster `k` that the test found faulty. -/
def failedQuads (s : State) (k : Nat) (fails : BitVec 16) : List Nat :=
  ((quadsOfCluster k).zipIdx.filter fun e => fails.getLsbD e.2 && !(quad s e.1).hole).map (·.1)

/-- The cluster is back in service, its faulty quads retired. -/
def testedCluster (s : State) (k : Nat) (fails : BitVec 16) : State := (failedQuads s k fails).foldl retireQuad (backInService s k)

theorem testComplete_eq (ht : s.testing = some (k, true)) (fails : BitVec 16) : ∃ n, testComplete s fails
    = putField (putField (putField (testedCluster s k fails) dispBlk 8 37 32 n) dispBlk 8 6 0 (s.testFirst.headD ((k + 1) % 80))) dispBlk 8 15 8 0 := by
  have hfirst : (testedCluster s k fails).testFirst = s.testFirst :=
    (foldl_keeps State.testFirst retireQuad testFirst_retireQuad _ _).trans (testFirst_backInService ..)
  refine ⟨((List.range 32).filter fun x => columnRetired (testedCluster s k fails) x == 0).length, ?_⟩
  rw [testComplete, ht, ← hfirst]
  rfl

theorem putField_quads (s : State) (b o hi lo v : Nat) : (putField s b o hi lo v).quads = s.quads := rfl
theorem putField_testing (s : State) (b o hi lo v : Nat) : (putField s b o hi lo v).testing = s.testing := rfl

/-- The quads of a cluster are sixteen different ones. -/
theorem quadsOfCluster_nodup (k : Nat) : (quadsOfCluster k).Nodup := by
  refine List.Nodup.map_on (fun i hi j hj h => ?_) List.nodup_range
  rw [List.mem_range] at hi hj
  omega

theorem mem_failedQuads {fails : BitVec 16} {e : Nat × Nat} (he : e ∈ (quadsOfCluster k).zipIdx) :
    e.1 ∈ failedQuads s k fails ↔ (fails.getLsbD e.2 && !(quad s e.1).hole) = true := by
  rw [failedQuads, List.mem_map]
  constructor
  · rintro ⟨d, hd, hde⟩
    obtain ⟨hmem, hok⟩ := List.mem_filter.mp hd
    obtain ⟨hd1, hd2⟩ := List.mem_zipIdx' hmem
    obtain ⟨he1, he2⟩ := List.mem_zipIdx' he
    have hidx : d.2 = e.2 := (List.Nodup.getElem_inj_iff (quadsOfCluster_nodup k)).mp (hd2.symm.trans (hde.trans he2))
    rw [← hidx, ← hde]
    exact hok
  · exact fun h => ⟨e, List.mem_filter.mpr ⟨he, h⟩, rfl⟩

theorem hole_testedCluster {fails : BitVec 16} {e : Nat × Nat} (he : e ∈ (quadsOfCluster k).zipIdx) :
    (quad (testedCluster s k fails) e.1).hole = ((quad s e.1).hole || fails.getLsbD e.2) := by
  rw [testedCluster, quad_foldl quad_retireQuad (f := asHole) (fun _ => rfl)]
  by_cases hf : (fails.getLsbD e.2 && !(quad s e.1).hole) = true
  · rw [if_pos ((mem_failedQuads he).mpr hf)]
    rw [Bool.and_eq_true] at hf
    rw [hf.1, Bool.or_true]
    rfl
  · rw [if_neg (mt (mem_failedQuads he).mp hf), hole_backInService]
    revert hf
    cases (quad s e.1).hole <;> cases fails.getLsbD e.2 <;> decide

end quads

/-- Settles O41: what a fold does to each quad of a cluster is one lemma, and a field reads as what was put into it. -/
theorem quadEvents : Obligations.QuadEvents := by
  refine fun s q k fails => ⟨fun hq hcomp hdly hfree hidle => ?_, fun hg hw hp => ?_, fun hint hrun ht => ?_, fun ht hidle => ?_,
    fun ht hidle => ?_, fun ht => ?_⟩
  · refine ⟨_, (exec_quadGate q s).trans (congrArg Host.Outcome.next (quadGate_idle hq hcomp hdly hfree hidle)), ?_, ?_, fun a hlo hhi => ?_⟩
    · rw [quad_updQuad, if_pos rfl]
    · rw [quad_updQuad, if_pos rfl, quad_loseBanks, if_pos rfl]
    · rw [updQuad_accMem]
      exact accMem_loseBanks hlo hhi
  · exact (exec_quadWakeComplete q s).trans (congrArg Host.Outcome.next (quadWake_wakes hg hw hp))
  · obtain ⟨htest, hquads⟩ := drainStart_spec hint hrun ht
    refine ⟨_, exec_selfTestDrainStart s, htest, fun q hq hhole => ?_⟩
    rw [hquads q hq, drained, hhole]
    rfl
  · obtain ⟨htest, hquads⟩ := testStart_spec ht hidle
    refine ⟨_, exec_selfTestStart s, htest, fun q hq hhole => ?_⟩
    rw [hquads q hq, underTest, hhole]
    exact ⟨rfl, rfl⟩
  · refine ⟨_, (exec_selfTestDefer s).trans (congrArg Host.Outcome.next (testDefer_eq ht hidle)), ?_, ?_, fun q hq => ?_⟩
    · rw [putField_testing, testing_backInService]
    · rw [regField_putField_same _ _ _ _ (by decide) (by decide)]
      exact Nat.mod_eq_of_lt (by omega)
    · rw [quad_of_same q (putField_quads ..), quad_backInService, if_pos hq, inService]
  · obtain ⟨n, hn⟩ := testComplete_eq ht fails
    refine ⟨_, (exec_selfTestComplete fails s).trans (congrArg Host.Outcome.next hn), ?_, ?_, ?_, fun e he => ?_⟩
    · rw [putField_testing, putField_testing, putField_testing]
      exact (foldl_keeps State.testing retireQuad testing_retireQuad _ _).trans (testing_backInService s k)
    · rw [regField_putField_disjoint _ _ _ _ (by decide) (by decide) (by decide), regField_putField_same _ _ _ _ (by decide) (by decide)]
      rfl
    · rw [regField_putField_same _ _ _ _ (by decide) (by decide)]
      rfl
    · rw [quad_of_same e.1 (putField_quads ..), quad_of_same e.1 (putField_quads ..), quad_of_same e.1 (putField_quads ..)]
      exact hole_testedCluster he

end Sys2Proof.Machine
end

section
/-! PROOFS. Events of one core (R126 to R129, R132, R133, R154, R161, R251, R252, R382 to R384). -/

namespace Sys2Proof.Machine

-- One proof after the other: side by side they take more threads and memory than the check of the whole text has.
set_option Elab.async false

section coreEvents
variable {s : State} {c sl p e : Nat}

/-! ## Machine checks and seals (R382 to R384) -/

theorem machineCheck_registers (hc : kindOf c ≠ .absent) (regs : BitVec 24) :
    machineCheck s c 0 sl regs = errorRecord (updSlot s c sl fun k => { k with hdr := { k.hdr with pmask := k.hdr.pmask ||| regs } })
      (BitVec.ofNat 64 (c + 2 ^ 31)) (BitVec.ofNat 64 ((core s c).lmwsb + 256 * sl)) := by
  have hgo : ¬ (kindOf c = .absent ∨ 6 < 0) := by
    rintro (h | h)
    · exact hc h
    · omega
  rw [machineCheck, if_neg hgo, if_pos rfl]

/-- A core that a machine check seals. -/
def beginSeal (s : State) (c unit : Nat) : State :=
  { updCore s c (fun k => { k with sealing := true, sealCause := 0xFF, sealSub := unit }) with testFirst := clusterOf c :: s.testFirst.erase (clusterOf c) }

theorem machineCheck_seals {unit : Nat} (hk : kindOf c = .compute) (h0 : unit ≠ 0) (h6 : unit ≤ 6) (hs : (core s c).isSealed = false)
    (hing : (core s c).sealing = false) (regs : BitVec 24) :
    machineCheck s c unit sl regs = if s.testing.isNone then putField (beginSeal s c unit) dispBlk 8 6 0 (clusterOf c) else beginSeal s c unit := by
  have hgo : ¬ (kindOf c = .absent ∨ 6 < unit) := by
    rw [hk]
    rintro (h | h)
    · cases h
    · omega
  have hopen : ¬ (kindOf c = .steward || (core s c).isSealed || (core s c).sealing) = true := by
    rw [hk, hs, hing]
    decide
  rw [machineCheck, if_neg hgo, if_neg h0, if_neg hopen]
  dsimp only
  rw [if_pos hk]
  rfl

theorem putField_cores (s : State) (b o hi lo v : Nat) : (putField s b o hi lo v).cores = s.cores := rfl
theorem putField_testFirst (s : State) (b o hi lo v : Nat) : (putField s b o hi lo v).testFirst = s.testFirst := rfl
theorem core_of_same {s t : State} (c : Nat) (h : t.cores = s.cores) : core t c = core s c := by rw [core, h, core]

theorem core_putTestFirst (s : State) (l : List Nat) (c : Nat) : core { s with testFirst := l } c = core s c := rfl

theorem core_beginSeal (s : State) (c unit : Nat) :
    core (beginSeal s c unit) c = { core s c with sealing := true, sealCause := 0xFF, sealSub := unit } := by
  rw [beginSeal, core_putTestFirst, core_updCore, if_pos rfl]

theorem clusterOf_lt (hk : kindOf c = .compute) : clusterOf c < 2 ^ 7 := by
  unfold kindOf at hk
  have hc : c < 5120 := by
    by_contra hge
    rw [if_neg hge] at hk
    split at hk
    · cases hk
    · split at hk <;> cases hk
  unfold clusterOf
  omega

/-- The seal of a core without travellers. -/
theorem sealComplete_empty (hseal : (core s c).sealing = true) (hslots : slotsOf s c = []) :
    sealComplete s c = updCore (sealArrivals (sealGranules (sealHome (sealEngines s c) c) c) c) c
      fun k => { k with sealing := false, isSealed := true } := by
  rw [sealComplete, hseal, if_neg (by decide), hslots]
  rfl

theorem core_putHeld (s : State) (l : List (Nat × Flight)) (f : List Flight) (c : Nat) : core { s with held := l, flights := f } c = core s c := rfl

theorem deque_sealArrivals (s : State) (c : Nat) : (core (sealArrivals s c) c).deque = [] := by
  rw [sealArrivals]
  dsimp only
  rw [core_putHeld, core_updCore, if_pos rfl]

/-! ## The group watchdog (R161) -/

theorem groupPlans_only {sl' : Nat} (hm : membersOf s p e = [(c, sl')]) (hopen : openPlans s c sl' = []) : groupPlans s p e = [] := by
  rw [groupPlans, hm, List.flatMap_cons, hopen]
  rfl

theorem watchdogEvent_only {sl' : Nat} (hm : membersOf s p e = [(c, sl')]) :
    watchdogEvent s p e [] = if stateOf s c sl' = .parked ∧ reasonOf s c sl' ≠ 4 ∧ reasonOf s c sl' ≠ 6 then
      breakWait s c sl' (launchTrap .watchdog e) .watchdog else s := by
  rw [watchdogEvent, hm]
  rfl

/-! ## The map of local memory (R127 to R129) -/

theorem core_mapCommit (s : State) (c wsb rgb dtb : Nat) : core (mapCommit s c wsb rgb dtb) c = { core s c with
    lmwsb := wsb, lmrgb := rgb, lmdtb := dtb, stWsb := wsb, stRgb := rgb, lmErr := false, barriers := [], rings := [], tlb := [] } := by
  have hcores : (mapCommit s c wsb rgb dtb).cores = (updCore s c fun k => { k with
    lmwsb := wsb, lmrgb := rgb, lmdtb := dtb, stWsb := wsb, stRgb := rgb, lmErr := false, barriers := [], rings := [], tlb := [] }).cores := rfl
  rw [core_of_same c hcores, core_updCore, if_pos rfl]

theorem boundaryStage_idle {a : Agent} {which : Nat} (hok : boundaryOk s a c = true) (hw : which < 2) (hidle : idleCore s c = true) (v : Word) :
    boundaryStage s a c which v = updCore s c fun k =>
      if which = 0 then { k with stWsb := baseOf v, lmErr := false } else { k with stRgb := baseOf v, lmErr := false } := by
  rw [boundaryStage, hok, decide_eq_false (by omega), if_neg (by decide), if_pos hidle]

theorem boundaryStage_busy {a : Agent} {which : Nat} (hok : boundaryOk s a c = true) (hw : which < 2) (hidle : idleCore s c = false) (v : Word) :
    boundaryStage s a c which v = updCore s c fun k => { k with lmErr := true } := by
  rw [boundaryStage, hok, decide_eq_false (by omega), if_neg (by decide), if_neg (by rw [hidle]; decide)]

theorem lmdtbCommit_legal {a : Agent} {v : Word} (hok : boundaryOk s a c = true) (hidle : idleCore s c = true)
    (hmap : mapLegal c (core s c).stWsb (core s c).stRgb (baseOf v) = true) :
    lmdtbCommit s a c v = mapCommit s c (core s c).stWsb (core s c).stRgb (baseOf v) := by
  rw [lmdtbCommit, hok, if_neg (by decide)]
  dsimp only
  rw [hidle, hmap, if_pos (by decide)]

/-! ## Images (R132, R133) -/

theorem imageLoad_accepted {img : List Byte} (hk : kindOf c ≠ .steward) (hcode : imageCode s [c] img = 0) :
    imageLoad s .island [c] img
      = loadOn img { s with fw := { s.fw with loaded := (0, launchTable img (aliasBase c) (secPlaces (core s c).lmdtb (imgSecs img)).1) } } c := by
  rw [imageLoad, show loaderOk .island [c] = true from rfl, if_pos rfl, if_pos hcode]
  exact if_neg hk

theorem imageLoad_refused {img : List Byte} (hcode : imageCode s [c] img ≠ 0) :
    imageLoad s .island [c] img = { s with fw := { s.fw with loaded := (imageCode s [c] img, []) } } := by
  rw [imageLoad, show loaderOk .island [c] = true from rfl, if_pos rfl, if_neg hcode]

/-! ## Core moves (R154) -/

theorem slotsOf_eq_nil (h : ∀ v ∈ s.slots, v.1 / 256 ≠ c) : slotsOf s c = [] := by
  rw [slotsOf, List.filterMap_eq_nil_iff]
  rintro ⟨c', sl'⟩ hmem
  obtain ⟨v, hv, hvs⟩ := List.mem_filterMap.mp hmem
  refine if_neg fun hc => h v hv ?_
  dsimp only at hvs
  split at hvs
  · obtain ⟨rfl, -⟩ := Prod.mk.inj (Option.some.inj hvs)
    exact hc.1
  · cases hvs

theorem scrubCore_keeps (s : State) (c : Nat) : (scrubCore s c).slots = s.slots.filter (fun v => v.1 / 256 != c)
    ∧ (scrubCore s c).mem = s.mem.filter (fun v => !(decide (sramPa c 0 ≤ v.1) && decide (v.1 < sramPa c (sramSize c)))) := by
  unfold scrubCore
  dsimp only
  split
  · exact ⟨rfl, rfl⟩
  · exact ⟨rfl, rfl⟩

theorem slotsOf_of_same {s t : State} (c : Nat) (hslots : t.slots = s.slots) (hmem : t.mem = s.mem) (hcores : t.cores = s.cores) :
    slotsOf t c = slotsOf s c := by
  simp only [slotsOf, liveSlots, hslots, stateOf_of_same _ _ hslots hmem hcores]

theorem coreScrub_due {m : CoreMove} (hm : moveOf s c = some m) (hdue : scrubDue s m = true)
    (hfirst : ∀ n ∈ s.moves, n.core < c → scrubDue s n = false) :
    coreScrub s c = { scrubCore s c with moves := s.moves.map fun n => if n == m then { n with scrubbed := true } else n } := by
  have hnone : s.moves.any (fun n => decide (n.core < c) && scrubDue s n) = false := by
    refine List.any_eq_false.mpr fun n hn => ?_
    by_cases hc : n.core < c
    · rw [hfirst n hn hc, Bool.and_false]
      decide
    · rw [decide_eq_false hc, Bool.false_and]
      decide
  rw [coreScrub, hm]
  dsimp only
  rw [hdue, hnone]
  rfl

theorem core_of_moveOf {m : CoreMove} (hm : moveOf s c = some m) : m.core = c := by simpa using List.find?_some hm

theorem coreMoveDone_scrubbed {m : CoreMove} (hm : moveOf s c = some m) (hs : m.scrubbed = true)
    (hfirst : ∀ n ∈ s.moves, n.core < c → n.scrubbed = false) :
    coreMoveDone s c = updCore { s with moves := s.moves.filter (· ≠ m) } c
      fun k => { k with part := if m.asg then m.part else 0, asg := m.asg, rsv := m.rsv, move := false } := by
  have hnone : s.moves.any (fun n => decide (n.core < c) && n.scrubbed) = false := by
    refine List.any_eq_false.mpr fun n hn => ?_
    by_cases hc : n.core < c
    · rw [hfirst n hn hc, Bool.and_false]
      decide
    · rw [decide_eq_false hc, Bool.false_and]
      decide
  rw [coreMoveDone, hm]
  dsimp only
  rw [hs, hnone]
  rfl

/-! ## The X traveller (R251, R252) -/

theorem place_channels (s : State) (c sl : Nat) (bs : List Byte) (k : Slot) : (place s c sl bs k).channels = s.channels := rfl

theorem createWith_channels (s : State) (c sl : Nat) (b : Birth) (tid key : Nat) : (createWith s c sl b tid key).channels = s.channels := by
  rw [createWith, enqueue, updCore_channels, place_channels]

theorem chan_tookTid (s : State) (c : Nat) : chan (tookTid s) c = chan s c := rfl

theorem chan_of_same {s t : State} (c : Nat) (h : t.channels = s.channels) : chan t c = chan s c := by rw [chan, h, chan]

/-- The channel of an X traveller that was started. -/
def goChannel (v st : Nat) (h : Channel) : Channel :=
  { h with xentry := bitsOf v 19 0, xecx := bitsOf v 27 20, xarg := bitsOf v 63 32, xerr := false, goSteward := some st, stopping := false }

theorem chan_xGo {st : Nat} {v : Word} (hk : kindOf c = .channel) (hgo : goRefused s c v.toNat = false) :
    chan (xGo s c st v) c = goChannel v.toNat st (chan s c) := by
  rw [xGo, if_neg (not_not.mpr hk), if_neg (by rw [hgo]; decide)]
  dsimp only
  rw [chan_tookTid, chan_of_same c (createWith_channels ..), chan_updChan, if_pos rfl, xctlFields, chan_updChan,
    if_pos rfl]
  rfl

theorem xStop_running (hk : kindOf c = .channel) (h0 : (slotsOf s c).contains 0 = true) :
    xStop s c = updChan s c fun h => { h with xerr := false, stopping := true } := by
  rw [xStop, if_neg (not_not.mpr hk), if_pos h0]

theorem stateOf_ne_free_of_slotsOf (h : (slotsOf s c).contains sl = true) : stateOf s c sl ≠ .free := by
  rw [List.contains_iff_mem, slotsOf, List.mem_filterMap] at h
  obtain ⟨⟨c', sl'⟩, -, hv⟩ := h
  dsimp only at hv
  split at hv
  · next hc =>
    obtain rfl := Option.some.inj hv
    exact hc.2.1
  · cases hv

/-- What ending the X traveller of channel core `c` may change of a state that matters here: neither its slot nor its channel. -/
def KeepsX (c : Nat) (s t : State) : Prop := slot t c 0 = slot s c 0 ∧ (chan t c).stopping = (chan s c).stopping

theorem KeepsX.trans {c : Nat} {s t u : State} (h : KeepsX c s t) (h' : KeepsX c t u) : KeepsX c s u := ⟨h'.1.trans h.1, h'.2.trans h.2⟩
theorem KeepsX.of_same {c : Nat} {s t : State} (hs : t.slots = s.slots) (hc : t.channels = s.channels) : KeepsX c s t :=
  ⟨slot_of_same c 0 hs, by rw [chan_of_same c hc]⟩

theorem switchOut_same (s : State) (c : Nat) (x : Bool) (pc : Word) : (switchOut s c x pc).slots = s.slots ∧ (switchOut s c x pc).channels = s.channels := by
  cases hrun : (stream s c x).run with
  | none =>
    rw [switchOut, hrun]
    exact ⟨rfl, rfl⟩
  | some sl =>
    obtain ⟨m, st, h, -⟩ := switchOut_spec (pc := pc) hrun
    rw [h]
    exact ⟨rfl, rfl⟩

theorem stopping_setEngQ (s : State) (c k : Nat) (l : List Rec) : (chan (setEngQ s c k l) c).stopping = (chan s c).stopping := by
  unfold setEngQ
  split
  · rfl
  · rfl
  · rw [chan_updChan, if_pos rfl]

theorem keepsX_dropRecords (hk : kindOf c = .channel) : KeepsX c s (dropRecords s c 0) := by
  have hcoach (u : State) : dropCoach u c 0 = u := if_pos (by rw [hk]; decide)
  unfold dropRecords
  rw [hcoach]
  dsimp only
  rw [if_pos hk]
  refine ⟨rfl, ?_⟩
  rw [stopping_setEngQ, stopping_setEngQ]
  rfl

theorem dropResv_keeps (s : State) (c sl : Nat) : (∃ r, slot (dropResv s c sl) c sl = { slot s c sl with resv := r })
    ∧ (dropResv s c sl).channels = s.channels := by
  have hgiven : ∃ r, slot (updSlot s c sl fun k => { k with resv := none }) c sl = { slot s c sl with resv := r } := ⟨none, by rw [slot_updSlot, if_pos rfl]⟩
  unfold dropResv
  split
  · exact ⟨⟨_, rfl⟩, rfl⟩
  · dsimp only
    split
    · exact ⟨hgiven, rfl⟩
    · exact ⟨hgiven, rfl⟩

theorem countAt_zero (s : State) (cube p : Nat) (up : Bool) : countAt s cube p 0 up = s := if_pos rfl

/-- The state in which a traveller has ended, before its launch counts it no more. -/
def endedState (s : State) (c sl : Nat) : State :=
  escPurge (updSlot (setState s c sl .ended) c sl fun k => { k with wait := none, sbo := none, pending := [], trap := none }) c sl

theorem slot_escPurge (s : State) (c sl c' sl' : Nat) : slot (escPurge s c sl) c' sl' = slot s c' sl' := rfl
theorem core_escPurge (s : State) (c sl c' : Nat) : core (escPurge s c sl) c' = core s c' := rfl
theorem endedState_channels (s : State) (c sl : Nat) : (endedState s c sl).channels = s.channels := rfl

theorem slot_endedState (s : State) (c sl : Nat) :
    slot (endedState s c sl) c sl = { slot s c sl with wait := none, sbo := none, pending := [], trap := none } := by
  rw [endedState, slot_escPurge, slot_updSlot, if_pos rfl]
  rfl

theorem stateOf_endedState (hu : (slot s c sl).used = true) : stateOf (endedState s c sl) c sl = .ended := by
  rw [stateOf_congr (s := setState s c sl .ended), stateOf_setState, if_pos hu]
  · rw [slot_endedState]
    rfl
  · rfl
  · rw [endedState, core_escPurge, core_updSlot]

/-- A traveller that no launch counts ends. -/
theorem endTraveller_uncounted (hl : (slot s c sl).hdr.lslot = 0) : endTraveller s c sl = endedState (dropResv s c sl) c sl := by
  obtain ⟨⟨r, hr⟩, -⟩ := dropResv_keeps s c sl
  have hzero : (slot (endedState (dropResv s c sl) c sl) c sl).hdr.lslot = 0 := by rw [slot_endedState, hr]; exact hl
  have hend : endTraveller s c sl
      = if (if (slot (endedState (dropResv s c sl) c sl) c sl).mate.isSome then (slot (endedState (dropResv s c sl) c sl) c sl).twin
          else (partnerOf (endedState (dropResv s c sl) c sl) c sl).isSome) then endedState (dropResv s c sl) c sl
        else countAt (endedState (dropResv s c sl) c sl) (slot (endedState (dropResv s c sl) c sl) c sl).hdr.lcube
          (slot (endedState (dropResv s c sl) c sl) c sl).hdr.part (slot (endedState (dropResv s c sl) c sl) c sl).hdr.lslot false := rfl
  rw [hend, hzero, countAt_zero, ite_self]

/-- The state in which an X traveller is stopped, before its records are dropped. -/
def stoppedX (s : State) (c : Nat) : State :=
  let s := if (stream s c true).run = some 0 then switchOut s c true (stream s c true).pc else s
  let s := updCore s c fun k => { k with urgQ := k.urgQ.filter (fun e => e.1 ≠ 0), normQ := k.normQ.filter (fun e => e.1 ≠ 0) }
  { s with granWait := (s.granWait.map fun w => (w.1, w.2.filter (· ≠ (c, 0)))).filter (fun w => !w.2.isEmpty),
           strandOrder := s.strandOrder.filter (· ≠ (c, 0)) }

theorem keepsX_stoppedX (s : State) (c : Nat) : KeepsX c s (stoppedX s c) := by
  refine KeepsX.of_same ?_ ?_
  · have h : (if (stream s c true).run = some 0 then switchOut s c true (stream s c true).pc else s).slots = s.slots := by
      split
      · exact (switchOut_same ..).1
      · rfl
    exact h
  · have h : (if (stream s c true).run = some 0 then switchOut s c true (stream s c true).pc else s).channels = s.channels := by
      split
      · exact (switchOut_same ..).2
      · rfl
    exact h

/-- STOP of a running X traveller is carried out. -/
theorem xStopDone_running (hk : kindOf c = .channel) (hst : (chan s c).stopping = true) (hb : (chan s c).bankCmds = [])
    (h0 : (slotsOf s c).contains 0 = true) (hl : (slot s c 0).hdr.lslot = 0) :
    (chan (xStopDone s c) c).stopping = false ∧ stateOf (xStopDone s c) c 0 = .ended := by
  have hcond : kindOf c = .channel ∧ (chan s c).stopping = true ∧ (chan s c).bankCmds.isEmpty = true := ⟨hk, hst, by rw [hb]; rfl⟩
  have hslots : slotsOf (updChan s c fun h => { h with stopping := false }) c = slotsOf s c := slotsOf_of_same c rfl rfl rfl
  have heq : xStopDone s c = endTraveller (dropRecords (stoppedX (updChan s c fun h => { h with stopping := false }) c) c 0) c 0 := by
    rw [xStopDone, if_pos hcond]
    dsimp only
    rw [hslots, if_pos h0]
    rfl
  obtain ⟨hslot, hchan⟩ := (keepsX_stoppedX (updChan s c fun h => { h with stopping := false }) c).trans (keepsX_dropRecords hk)
  generalize dropRecords (stoppedX (updChan s c fun h => { h with stopping := false }) c) c 0 = u at heq hslot hchan
  rw [slot_of_same (s := s) (t := updChan ..) c 0 rfl] at hslot
  rw [chan_updChan, if_pos rfl] at hchan
  obtain ⟨⟨r, hr⟩, hch⟩ := dropResv_keeps u c 0
  rw [heq, endTraveller_uncounted (by rw [hslot]; exact hl)]
  refine ⟨?_, stateOf_endedState ?_⟩
  · rw [chan_of_same c (endedState_channels ..), chan_of_same c hch, hchan]
  · rw [hr, hslot]
    exact used_of_stateOf (stateOf_ne_free_of_slotsOf h0)

theorem xStopDone_empty (hk : kindOf c = .channel) (hst : (chan s c).stopping = true) (hb : (chan s c).bankCmds = [])
    (h0 : (slotsOf s c).contains 0 = false) : xStopDone s c = updChan s c fun h => { h with stopping := false } := by
  have hcond : kindOf c = .channel ∧ (chan s c).stopping = true ∧ (chan s c).bankCmds.isEmpty = true := ⟨hk, hst, by rw [hb]; rfl⟩
  have hslots : slotsOf (updChan s c fun h => { h with stopping := false }) c = slotsOf s c := slotsOf_of_same c rfl rfl rfl
  rw [xStopDone, if_pos hcond]
  dsimp only
  rw [hslots, if_neg (by rw [h0]; decide)]

end coreEvents

/-- Settles O42: each event takes the branch of its rule that the hypotheses name; what a seal, a scrub and the end of an X traveller leave
are lemmas about the fields the statement reads. -/
theorem coreEventsHold : Obligations.CoreEvents := by
  refine fun s c sl p st regs v => ⟨fun hc => ?_, fun unit hk h0 h6 hs hing => ?_, fun hseal hk hslots => ?_, fun e sl' hruns hm hpark hopen => ?_,
    fun e sl' hruns hm hpark h4 h6 hopen => ?_, fun a hok => ⟨fun hidle => ⟨?_, ?_⟩, fun hidle => ?_, fun hidle hmap => ?_⟩, fun img hk => ⟨?_, ?_⟩,
    fun m hm => ⟨fun hs hheld hidle harr hfirst => ?_, fun hs hfirst => ?_⟩, fun hk hgo => ?_, fun hk h0 => ?_, fun hk hst hb => ⟨?_, ?_⟩⟩
  · exact (exec_machineCheck c 0 sl regs s).trans (congrArg Host.Outcome.next (machineCheck_registers hc regs))
  · refine ⟨_, (exec_machineCheck c unit sl regs s).trans (congrArg Host.Outcome.next (machineCheck_seals hk h0 h6 hs hing regs)), ?_⟩
    cases ht : s.testing with
    | none =>
      rw [Option.isNone_none, if_pos rfl, core_of_same c (putField_cores ..), core_beginSeal, putField_testFirst]
      refine ⟨rfl, rfl, rfl, rfl, fun _ => ?_⟩
      rw [regField_putField_same _ _ _ _ (by decide) (by decide)]
      exact Nat.mod_eq_of_lt (clusterOf_lt hk)
    | some k =>
      rw [Option.isNone_some, if_neg Bool.false_ne_true, core_beginSeal]
      exact ⟨rfl, rfl, rfl, rfl, fun h => absurd h (by simp)⟩
  · refine ⟨_, (exec_sealComplete c s).trans (congrArg Host.Outcome.next (sealComplete_empty hseal hslots)), ?_⟩
    rw [core_updCore, if_pos rfl]
    exact ⟨rfl, rfl, deque_sealArrivals ..⟩
  · refine (exec_groupWatchdogExpiry p e s).trans (congrArg Host.Outcome.next ((if_pos hruns).trans ?_))
    rw [groupPlans_only hm hopen, watchdogEvent_only hm, if_neg (fun h => hpark h.1)]
  · refine (exec_groupWatchdogExpiry p e s).trans (congrArg Host.Outcome.next ((if_pos hruns).trans ?_))
    rw [groupPlans_only hm hopen, watchdogEvent_only hm, if_pos ⟨hpark, h4, h6⟩]
  · exact (exec_lmBoundaryStage a c 0 v s).trans (congrArg Host.Outcome.next (boundaryStage_idle hok (by decide) hidle v))
  · exact (exec_lmBoundaryStage a c 1 v s).trans (congrArg Host.Outcome.next (boundaryStage_idle hok (by decide) hidle v))
  · exact (exec_lmBoundaryStage a c 0 v s).trans (congrArg Host.Outcome.next (boundaryStage_busy hok (by decide) hidle v))
  · refine ⟨_, (exec_lmdtbCommit a c v s).trans (congrArg Host.Outcome.next (lmdtbCommit_legal hok hidle hmap)), ?_⟩
    rw [core_mapCommit]
    exact ⟨rfl, rfl, rfl, rfl, rfl, rfl⟩
  · exact fun hcode => (exec_imageLoad .island [c] img s).trans (congrArg Host.Outcome.next (imageLoad_accepted hk hcode))
  · exact fun hcode => (exec_imageLoad .island [c] img s).trans (congrArg Host.Outcome.next (imageLoad_refused hcode))
  · have hdue : scrubDue s m = true := by rw [scrubDue, core_of_moveOf hm, hs, hheld, hidle, harr]; rfl
    obtain ⟨hslots, hmem⟩ := scrubCore_keeps s c
    refine ⟨_, (exec_coreScrub c s).trans (congrArg Host.Outcome.next (coreScrub_due hm hdue hfirst)), ?_, fun o ho => ?_⟩
    · refine (slotsOf_of_same c rfl rfl rfl).trans (slotsOf_eq_nil fun w hw => ?_)
      rw [hslots] at hw
      simpa using (List.mem_filter.mp hw).2
    · rw [hmem]
      refine (lookup_filter (fun a => !(decide (sramPa c 0 ≤ a) && decide (a < sramPa c (sramSize c)))) s.mem _).trans (if_neg ?_)
      rw [decide_eq_true (by unfold sramPa; omega), decide_eq_true (by unfold sramPa; omega)]
      decide
  · refine ⟨_, (exec_coreMoveComplete c s).trans (congrArg Host.Outcome.next (coreMoveDone_scrubbed hm hs hfirst)), ?_⟩
    rw [core_updCore, if_pos rfl, updCore_moves]
    exact ⟨rfl, rfl, rfl, rfl, fun h => by simpa using (List.mem_filter.mp h).2⟩
  · refine ⟨_, exec_xTravellerGo c st v s, ?_⟩
    rw [chan_xGo hk hgo]
    exact ⟨rfl, rfl, rfl⟩
  · exact (exec_xTravellerStop c st s).trans (congrArg Host.Outcome.next (xStop_running hk h0))
  · exact fun h0 => (exec_xTravellerStopComplete c s).trans (congrArg Host.Outcome.next (xStopDone_empty hk hst hb h0))
  · exact fun h0 hl _ => ⟨_, exec_xTravellerStopComplete c s, xStopDone_running hk hst hb h0 hl⟩

end Sys2Proof.Machine
end

section
/-! PROOFS. What the owner, the island controller and the meters do (R11, R154, R275, R282, R334, R335, R349 to R351, R358 to R365). -/

namespace Sys2Proof.Machine

-- One proof after the other: side by side they take more threads and memory than the check of the whole text has.
set_option Elab.async false

/-! ## Purses (R362, R363) -/

section purses
variable {s : State} {x : Nat}

theorem purse_of_same {s t : State} (x : Nat) (h : t.purses = s.purses) : purse t x = purse s x := by rw [purse, h, purse]

theorem makeReady_purses (s : State) (c sl : Nat) : (makeReady s c sl).purses = s.purses := rfl

theorem resumeCtx_purses (s : State) (x : Nat) : (resumeCtx s x).purses = s.purses :=
  foldl_keeps State.purses (fun s (e : Nat × Nat) => makeReady s e.1 e.2) (fun s e => makeReady_purses s e.1 e.2) _ _

theorem putNotice_purses (s : State) (l : List Nat) : ({ s with strandNotice := l } : State).purses = s.purses := rfl

/-- The check of a purse changes no purse's amount (R363). -/
theorem amount_strandCheck (s : State) (x y : Nat) : (purse (strandCheck s x) y).purse = (purse s y).purse := by
  unfold strandCheck
  split
  · rw [purse_of_same y (putNotice_purses ..), purse_putPurse]
    split
    · next h => rw [h]
    · rfl
  · rfl

theorem amount_purseAdd (hx : x ≠ 0) (v : Int) :
    (purse (purseAdd s x v) x).purse = max (-(2 ^ 63 : Int)) (min (2 ^ 63 - 1) ((purse (takeFlushes s s.cycle) x).purse + v)) := by
  have hput (u : State) (e : Purse) : (purse (strandCheck (putPurse u x e) x) x).purse = e.purse := by
    rw [amount_strandCheck, purse_putPurse, if_pos rfl]
  rw [purseAdd, if_neg hx]
  dsimp only
  split
  · rw [purse_of_same x (resumeCtx_purses ..), purse_putPurse, if_pos rfl]
    exact hput ..
  · exact hput ..
end purses

/-! ## Partitions (R349, R350, R431) -/

section partitions
variable {s : State} {a : Agent} {p : Nat} {v : Word}

/-- What PARTCFG keeps of a written value. -/
def partKeep (v : Word) : Word := BitVec.ofNat 64 (bitsOf v.toNat 9 0 + bitsOf v.toNat 47 16 * 2 ^ 16)

theorem partcfgWrite_ok (ha : ownerOk s a = true) (hp : p < 24) (hvf : bitsOf v.toNat 8 1 ≤ 128) (hten : bitsOf v.toNat 8 1 = tenant s p) :
    partcfgWrite s a p v = if v.getLsbD 0 && !partEn s p then (if enableOk s p then enablePart (putReg s islandBlk (0x9000 + 8 * p) (partKeep v)) p else s)
      else putReg s islandBlk (0x9000 + 8 * p) (partKeep v) := by
  have hgo : ¬ (!ownerOk s a || decide (24 ≤ p) || decide (128 < bitsOf v.toNat 8 1) || (bitsOf v.toNat 8 1 != tenant s p && carvedTo s p)) = true := by
    rw [ha, decide_eq_false (Nat.not_le.mpr hp), decide_eq_false (Nat.not_lt.mpr hvf), hten, bne_self_eq_false]
    simp
  exact if_neg hgo

theorem resetTables_keeps (s : State) (p : Nat) : (resetTables s p).regs = s.regs ∧ (resetTables s p).parts = s.parts := ⟨rfl, rfl⟩
theorem zeroPages_keeps (s : State) (hit : Nat → Bool) : (zeroPages s hit).regs = s.regs ∧ (zeroPages s hit).pages = s.pages
    ∧ (zeroPages s hit).parts = s.parts := ⟨rfl, rfl, rfl⟩

theorem enablePart_spec (s : State) (p : Nat) : (enablePart s p).regs = s.regs ∧ (part (enablePart s p) p).memKey = true := by
  have hzero : (if (part s p).memKey || (part s p).keyErased then zeroPages s fun n => mget 0 s.pages n == p + 1 else s).regs = s.regs := by
    split <;> rfl
  unfold enablePart
  dsimp only
  rw [(resetTables_keeps ..).1, part_of_same p (resetTables_keeps ..).2, updPart_regs, part_updPart, if_pos rfl]
  exact ⟨hzero, rfl⟩

theorem partKeep_bit (h : v.getLsbD 0 = true) : bitsOf (partKeep v).toNat 0 0 = 1 := by
  have hodd : v.toNat % 2 = 1 := by simpa [BitVec.getLsbD, Nat.testBit_zero] using h
  unfold partKeep bitsOf
  rw [BitVec.toNat_ofNat]
  omega

theorem partEn_enablePart (h : v.getLsbD 0 = true) :
    partEn (enablePart (putReg s islandBlk (0x9000 + 8 * p) (partKeep v)) p) p = true := by
  rw [partEn, regField_of_same _ _ _ _ (enablePart_spec ..).1, regField, getReg_putReg_same, partKeep_bit h]
  rfl
end partitions

/-! ## Carving (R154, R350) -/

section carving
variable {s : State} {a : Agent} {p : Nat} {v : Word}

theorem core_foldl_updCore (f : Core → Core) (hf : ∀ k, f (f k) = f k) (c : Nat) : ∀ (cs : List Nat) (s : State),
    core (cs.foldl (fun s c => updCore s c f) s) c = if c ∈ cs then f (core s c) else core s c
  | [], s => by simp
  | d :: cs, s => by
    rw [List.foldl_cons, core_foldl_updCore f hf c cs, core_updCore]
    by_cases hd : c = d
    · subst hd
      simp [hf]
    · simp [hd]

/-- A core whose MOVE bit is set to `b`. -/
def withMove (b : Bool) (k : Core) : Core := { k with move := b }

theorem core_putMoves (s : State) (m : List CoreMove) (c : Nat) : core { s with moves := m } c = core s c := rfl

/-- The cores of a GO that are not assigned so already. -/
def newlyCarved (s : State) (v : Nat) : List Nat := (carveCores s v).filter fun c =>
  !((core s c).asg == v.testBit 37 && (core s c).part == (if v.testBit 37 then bitsOf v 36 32 else 0) && (core s c).rsv == v.testBit 38)

theorem carveGo_refused (ha : ownerOk s a = true) (hr : carveRefused s v.toNat = true) :
    carveGo s a v = putField (carveFields s v.toNat) islandBlk 0x1000 42 42 1 := by
  rw [carveGo, ha, if_neg (by decide), if_pos hr]

theorem carveGo_starts (ha : ownerOk s a = true) (hr : carveRefused s v.toNat = false) :
    carveGo s a v = { (newlyCarved s v.toNat).foldl (fun s c => updCore s c (withMove true))
        (putField (carveFields s v.toNat) islandBlk 0x1000 42 42 0) with
      moves := (newlyCarved s v.toNat).map fun c => { core := c, part := if v.toNat.testBit 37 then bitsOf v.toNat 36 32 else 0,
                                                       asg := v.toNat.testBit 37, rsv := v.toNat.testBit 38 } } := by
  rw [carveGo, ha, if_neg (by decide), if_neg (by rw [hr]; decide)]
  rfl

theorem carveStop_eq (ha : ownerOk s a = true) :
    carveStop s a v = { (s.moves.map (·.core)).foldl (fun s c => updCore s c (withMove false)) (carveFields s v.toNat) with moves := [] } := by
  rw [carveStop, ha, if_neg (by decide), List.foldl_map]
  rfl
end carving

/-! ## Pages (R351) -/

section pages
variable {s : State} {a : Agent} {p : Nat} {v : Word}

theorem charge_pages (s : State) (m k n e : Nat) (b : Bool) : (charge s m k n e b).pages = s.pages := by
  obtain ⟨d, w, f, h⟩ := charge_eq s m k n e b
  rw [h]
theorem charge_regs (s : State) (m k n e : Nat) (b : Bool) : (charge s m k n e b).regs = s.regs := by
  obtain ⟨d, w, f, h⟩ := charge_eq s m k n e b
  rw [h]

theorem cacheFlush_eq (s : State) (p : Nat) (f : Nat → Bool) (d : Bool) : ∃ l, cacheFlush s p f d = putLines s p l := ⟨_, rfl⟩
theorem putLines_pages (s : State) (p : Nat) (l : List CLine) : (putLines s p l).pages = s.pages := rfl

theorem flushLines_pages (s : State) (p : Nat) (hit : Nat → Bool) : (flushLines s p hit).pages = s.pages := by
  unfold flushLines
  dsimp only
  obtain ⟨l, h⟩ := cacheFlush_eq (((linesOf s p).filter fun l => hit l.line).foldl
    (fun s l => if l.dirty then charge s (1280 + l.line * 256 / 2 ^ 35) 26 4 l.owner else s) s) p hit true
  rw [h, putLines_pages]
  refine foldl_keeps State.pages _ (fun u l => ?_) _ _
  split
  · exact charge_pages ..
  · rfl

/-- Every line of a partition goes when all are flushed. -/
theorem linesOf_flushLines (s : State) (p : Nat) : linesOf (flushLines s p fun _ => true) p = [] := by
  unfold flushLines cacheFlush
  dsimp only
  rw [if_pos rfl, linesOf, putLines, mget_mput_same]
  exact List.filter_eq_nil_iff.mpr fun _ _ h => by simp at h

theorem mget_foldl_mput (new : Nat) (k : Nat) : ∀ (ks : List Nat) (m : SMap Nat), mget 0 (ks.foldl (fun m k => mput 0 m k new) m) k
    = if k ∈ ks then new else mget 0 m k
  | [], m => by simp
  | j :: ks, m => by
    rw [List.foldl_cons, mget_foldl_mput new k ks]
    by_cases hj : k = j
    · subst hj
      simp [mget_mput_same]
    · simp [hj, mget_mput_ne _ _ _ hj]

/-- The pages a write of OWNDAT names. -/
def ownPages (sel : Nat) : List Nat := (List.range (bitsOf sel 55 32 + 1)).map fun i => sel % 2 * 2 ^ 24 + bitsOf sel 30 8 + i

theorem pages_owndatWrite (ha : ownerOk s a = true) (hpend : s.ownPending = []) (hp : p < 24) (hv : v = BitVec.ofNat 64 (p + 32))
    (hfit : bitsOf (getReg s islandBlk 0x1400).toNat 30 8 + (bitsOf (getReg s islandBlk 0x1400).toNat 55 32 + 1)
      ≤ pagesOf ((getReg s islandBlk 0x1400).toNat % 2)) :
    (owndatWrite s a v).pages
      = ((ownPages (getReg s islandBlk 0x1400).toNat).filter fun k => mget 0 s.pages k != p + 1).foldl (fun m k => mput 0 m k (p + 1)) s.pages := by
  have hmod : v.toNat % 32 = p := by rw [hv, BitVec.toNat_ofNat]; omega
  have hbit : v.getLsbD 5 = true := by
    rw [hv, BitVec.getLsbD_ofNat, Nat.testBit_eq_decide_div_mod_eq]
    simp
    omega
  have hgo : ¬ (!ownerOk s a || !s.ownPending.isEmpty || decide (pagesOf ((getReg s islandBlk 0x1400).toNat % 2)
      < bitsOf (getReg s islandBlk 0x1400).toNat 30 8 + (bitsOf (getReg s islandBlk 0x1400).toNat 55 32 + 1)) || (v.getLsbD 5 && decide (24 ≤ v.toNat % 32))) = true := by
    rw [ha, hpend, decide_eq_false (by omega), hmod, decide_eq_false (by omega)]
    simp
  rw [owndatWrite]
  dsimp only
  rw [if_neg hgo, hbit, if_pos rfl, hmod]
  dsimp only
  rw [(zeroPages_keeps ..).2.1, foldl_keeps State.pages _ (fun s q => flushLines_pages s q _)]
  rfl
end pages

/-! ## Translations (R334, R335) -/

section translations
variable {s : State} {a : Agent} {p : Nat} {v : Word}

theorem mem_of_lookup {α : Type} {k : Nat} {x : α} : ∀ {m : SMap α}, lookup m k = some x → (k, x) ∈ m
  | (j, y) :: m, h => by
    rw [lookup] at h
    split at h
    · next hj =>
      obtain rfl := Option.some.inj h
      exact hj ▸ List.mem_cons_self
    · exact List.mem_cons_of_mem _ (mem_of_lookup h)

theorem tlb_coreReset (c : Nat) : (coreReset c).tlb = [] := by
  unfold coreReset
  split <;> rfl

/-- After the invalidation of a whole partition no core translates for it. -/
theorem tlb_invalidate (s : State) (p c : Nat) : ∀ e ∈ (core (invalidate s p none) c).tlb, e.part ≠ p := by
  intro e he
  rw [core, mget] at he
  cases hl : lookup (invalidate s p none).cores c with
  | none =>
    rw [hl, Option.getD_none, tlb_coreReset] at he
    cases he
  | some k =>
    rw [hl, Option.getD_some] at he
    obtain ⟨⟨j, k'⟩, -, hk⟩ := List.mem_filterMap.mp (mem_of_lookup hl)
    dsimp only at hk
    split at hk
    · cases hk
    · obtain ⟨-, rfl⟩ := Prod.mk.inj (Option.some.inj hk)
      have hkeep := (List.mem_filter.mp he).2
      simpa using hkeep

theorem invalidate_keeps (s : State) (p : Nat) (va : Option Nat) : (invalidate s p va).regs = s.regs ∧ (invalidate s p va).xlinvQ = s.xlinvQ := ⟨rfl, rfl⟩

theorem xlinvGo_keeps (s : State) (v : Word) : (xlinvGo s v).regs = s.regs ∧ (xlinvGo s v).xlinvQ = s.xlinvQ ++ [v] := by
  unfold xlinvGo
  dsimp only
  split
  · exact ⟨rfl, rfl⟩
  · exact ⟨rfl, rfl⟩

theorem core_putXlinv (s : State) (q : List Word) (o : List Issued) (c : Nat) : core { s with xlinvQ := q, xlinvOut := o } c = core s c := rfl

/-- An invalidation of a whole partition that starts. -/
theorem xlinvGo_starts (hq : s.xlinvQ = []) (hall : v.getLsbD 5 = true) :
    (xlinvGo s v).cores = (invalidate { s with xlinvQ := s.xlinvQ ++ [v] } (v.toNat % 32) none).cores := by
  rw [xlinvGo, hq, List.isEmpty_nil, if_pos rfl, xlinvApply, hall, if_pos rfl]

/-- Translations that are gone stay gone when an invalidation starts or waits. -/
theorem xlinvGo_waits (hq : s.xlinvQ ≠ []) : (xlinvGo s v).cores = s.cores := by
  rw [xlinvGo, if_neg (by simpa using hq)]

theorem tlb_ptroot (hp : p < 24) (c : Nat) (hs : ∀ e ∈ (core s c).tlb, e.part ≠ p) :
    ∀ e ∈ (core (xlinvGo s (BitVec.ofNat 64 (p + 32))) c).tlb, e.part ≠ p := by
  have hmod : (BitVec.ofNat 64 (p + 32)).toNat % 32 = p := by rw [BitVec.toNat_ofNat]; omega
  have hbit : (BitVec.ofNat 64 (p + 32)).getLsbD 5 = true := by
    rw [BitVec.getLsbD_ofNat, Nat.testBit_eq_decide_div_mod_eq]
    simp
    omega
  by_cases hq : s.xlinvQ = []
  · rw [core_of_same c (xlinvGo_starts hq hbit), hmod]
    exact tlb_invalidate _ p c
  · rw [core_of_same c (xlinvGo_waits hq)]
    exact hs

theorem ptrootWrite_eq (ha : ownerOk s a = true) (hp : p < 24) : ptrootWrite s a p v = xlinvGo (invalidate
    (putReg s islandBlk (0x5000 + 8 * p) (BitVec.ofNat 64 (bitsOf v.toNat 55 17 * 2 ^ 17 + bitsOf v.toNat 63 63 * 2 ^ 63))) p none) (BitVec.ofNat 64 (p + 32)) := by
  rw [ptrootWrite, ha, if_neg (by simpa using hp)]

theorem xlinvWrite_go (ha : ownerOk s a = true) (hgo : v.getLsbD 6 = true) :
    xlinvWrite s a v = xlinvGo (putReg s islandBlk 0x6000 (BitVec.ofNat 64 (bitsOf v.toNat 5 0 + bitsOf v.toNat 55 19 * 2 ^ 19))) v := by
  have hok : xlinvOk s a v = true := by
    unfold xlinvOk
    rw [ha]
    exact Bool.true_or _
  rw [xlinvWrite, hok, if_neg (by decide), if_pos hgo]
end translations

/-! ## Register writes (R11, R275, R422) -/

section registers
variable {s : State} {a : Agent} {p : Nat} {v : Word}

theorem writeReg_hallsel (ha : ownerOk s a = true) : writeReg s a islandBlk 0x1410 v = setRw s islandBlk 0x1410 v [(27, 0)] := by
  have hisland : islandWrite s a 0x1410 v = islandOwned s a 0x1410 v := by
    rw [islandWrite, if_neg (by decide), if_neg (by decide), ha, if_neg (by decide), if_neg (by decide), if_neg (by decide)]
  have hlive : blockLive s islandBlk = true := by rw [blockLive, beq_self_eq_true, Bool.true_or]
  rw [writeReg, if_neg (by decide), if_neg (by decide), if_neg (by decide), hlive, if_neg (by decide), if_pos rfl, hisland]
  simp [islandOwned]

theorem writeReg_authbuf {k : Nat} (hp : p < 2) (hk : k < 2 ^ 14) : writeReg s a (0x2000 + p) (0x4000 + k) v
    = updPort s p fun r => { r with authbuf := wrBytes r.authbuf k ((leBytes 8 v.toNat).take (2 ^ 14 - k)) } := by
  rw [writeReg, if_pos (by omega), pfWrite, if_pos (by omega), show 0x2000 + p - 0x2000 = p by omega, show 0x4000 + k - 0x4000 = k by omega,
    show 0x8000 - (0x4000 + k) = 2 ^ 14 - k by omega]

theorem writeReg_unaligned {block off : Nat} (h0 : block ≠ 0x2000) (h1 : block ≠ 0x2001) (ho : off % 8 ≠ 0) : writeReg s a block off v = s := by
  rw [writeReg, if_neg (by omega), if_pos ho]
end registers

/-! ## Meters (R358, R361, R365) -/

section meters
variable {s : State} {m : Nat}

theorem meters_meterFlush (s : State) (m : Nat) : mget [] (meterFlush s m).meters m = [] := by
  have h : (meterFlush s m).meters = mput [] s.meters m [] :=
    foldl_keeps State.meters (fun s (e : Nat × Nat) => queueFlush s m e.1 e.2) (fun _ _ => rfl) _ _
  rw [h, mget_mput_same]

theorem leakageTick_only {c : Nat} {k : Core} (hcomp : s.comp ≠ .off) (hcores : s.cores = [(c, k)]) (hk : kindOf c = .compute) (hasg : k.asg = true)
    (hg : (quad s (quadOf c)).gated = false) (hh : (quad s (quadOf c)).hole = false) :
    leakageTick s = charge s (quadOf c) 34 1 (tenant s k.part) true := by
  rw [leakageTick, if_neg hcomp, hcores]
  exact if_pos ⟨hk, hasg, hg, hh⟩

theorem refreshRow_eq (hm : m < 64) (hd : s.memDom ≠ .off) :
    refreshRow s m = meterAdd s (1280 + m) refreshCtx (fareOf s 35 (1280 + m) * if s.fw.hotTowers.contains (m / 4) then 2 else 1) :=
  if_neg (by rintro (h | h); exacts [absurd hm (Nat.not_lt.mpr h), hd h])

theorem clampKcorr_lt (v : Int) : clampKcorr v < 2 ^ 16 := by unfold clampKcorr; omega

/-- One correction of KCORR, as KCORR_UPDATE makes them meter by meter. -/
def correctMeter (charged : Nat → Nat) (measured : Nat → Int) (s : State) (m : Nat) : State :=
  putField s islandBlk (0xC000 + 8 * m) 15 0 (kcorrNext s m (charged m) (measured m))

theorem kcorr_correctMeter_ne (charged : Nat → Nat) (measured : Nat → Int) {i : Nat} (h : m ≠ i) : kcorr (correctMeter charged measured s i) m = kcorr s m :=
  regField_putField_ne s _ _ _ _ _ (by unfold regKey; omega)

theorem kcorr_correctMeter (charged : Nat → Nat) (measured : Nat → Int) (hc : charged m ≠ 0) :
    kcorr (correctMeter charged measured s m) m = clampKcorr ((kcorr s m : Int) * measured m / charged m) := by
  rw [kcorr, correctMeter, regField_putField_same _ _ _ _ (by decide) (by decide), kcorrNext, if_neg hc]
  exact Nat.mod_eq_of_lt (clampKcorr_lt _)

/-- Each meter is corrected once. -/
theorem kcorr_foldl (charged : Nat → Nat) (measured : Nat → Int) (hc : charged m ≠ 0) : ∀ (l : List Nat) (s : State), l.Nodup →
    kcorr (l.foldl (correctMeter charged measured) s) m = if m ∈ l then clampKcorr ((kcorr s m : Int) * measured m / charged m) else kcorr s m
  | [], s, _ => by simp
  | i :: l, s, hl => by
    obtain ⟨hi, hl⟩ := List.nodup_cons.mp hl
    rw [List.foldl_cons, kcorr_foldl charged measured hc l _ hl]
    by_cases hm : m = i
    · subst hm
      rw [if_neg hi, kcorr_correctMeter charged measured hc, if_pos List.mem_cons_self]
    · rw [kcorr_correctMeter_ne charged measured hm]
      simp [hm]

theorem putMetered_regs (s : State) (d : SMap Nat) (f : Nat) : ({ s with metered := d, free := f } : State).regs = s.regs := rfl

theorem kcorrUpdate_spec (measured : List Int) (hrun : s.comp = .run) : (kcorrUpdate s measured).metered = [] ∧ (kcorrUpdate s measured).regs
    = ((List.range 1388).foldl (correctMeter (fun m => mget 0 s.metered m) (fun m => measured.getD m 0)) s).regs := by
  rw [kcorrUpdate, if_neg (not_not.mpr hrun)]
  dsimp only
  rw [putPurse_metered, putPurse_regs, putMetered_regs]
  exact ⟨rfl, rfl⟩
end meters

theorem readEffect_halldat (s : State) : readEffect s islandBlk 0x1418 = findErrors s (hallPa (hallSel s)) 8 4 0 := if_pos ⟨rfl, rfl⟩

theorem readEffect_pstruct {p : Nat} (hp : p < 24) (s : State) :
    readEffect s islandBlk (0x1100 + 32 * p + 24) = updPart s p fun k => { k with spfull := false } := by
  rw [readEffect, if_neg (by omega), if_pos (by unfold islandBlk; omega), show (0x1100 + 32 * p + 24 - 0x1100) / 32 = p by omega]

/-- Settles O44: each write passes the checks that the hypotheses name; folds over cores, pages and meters have one lemma each. -/
theorem ownerAndMeterEvents : Obligations.OwnerAndMeterEvents := by
  refine ⟨fun s a p n v ha => ⟨fun h0 h128 => ?_, fun hp hvf hten => ⟨fun h0 => ?_, fun h0 hen hok => ?_, fun h0 hen hok => ?_⟩, fun hr => ?_, fun hr => ?_, ?_,
    fun hpend hp hv hfit => ?_, exec_owndatApplyComplete s, ?_, fun hsel htab => ?_, fun hp => ?_, fun hp h384 hlen => ?_, fun hp h384 => ?_,
    fun ch j hch hj => ?_, fun hp => ?_, fun hq => ?_, ?_, fun k hp hk => ?_, fun block off h0 h1 ho => ?_⟩,
    fun s m c k measured => ⟨⟨_, exec_meterFlushTimer m s, meters_meterFlush s m⟩, fun hcomp hcores hk hasg hg hh => ?_, fun hm hd => ?_, fun hrun => ?_⟩⟩
  · refine ⟨_, (exec_purseAddWrite a n v s).trans (congrArg Host.Outcome.next (if_pos ?_)), amount_purseAdd h0 v.toInt⟩
    rw [ha, decide_eq_true h128]
    rfl
  · refine (exec_partcfgWrite a p v s).trans (congrArg Host.Outcome.next ((partcfgWrite_ok ha hp hvf hten).trans (if_neg ?_)))
    rw [h0, Bool.false_and]
    decide
  · refine ⟨_, (exec_partcfgWrite a p v s).trans (congrArg Host.Outcome.next ((partcfgWrite_ok ha hp hvf hten).trans (if_pos ?_))), ?_⟩
    · rw [h0, hen]
      rfl
    · rw [if_pos hok]
      exact ⟨partEn_enablePart h0, (enablePart_spec ..).2⟩
  · refine (exec_partcfgWrite a p v s).trans (congrArg Host.Outcome.next ((partcfgWrite_ok ha hp hvf hten).trans ((if_pos ?_).trans (if_neg ?_))))
    · rw [h0, hen]
      rfl
    · rw [hok]
      decide
  · exact (exec_carveGo a v s).trans (congrArg Host.Outcome.next (carveGo_refused ha hr))
  · refine ⟨_, (exec_carveGo a v s).trans (congrArg Host.Outcome.next (carveGo_starts ha hr)), fun m hm => ?_⟩
    obtain ⟨d, hd, rfl⟩ := List.mem_map.mp hm
    refine ⟨?_, rfl, (List.mem_filter.mp hd).1⟩
    rw [core_putMoves, core_foldl_updCore (withMove true) (fun _ => rfl), if_pos hd]
    rfl
  · refine ⟨_, (exec_carveStop a v s).trans (congrArg Host.Outcome.next (carveStop_eq ha)), rfl, fun m hm => ?_⟩
    rw [core_putMoves, core_foldl_updCore (withMove false) (fun _ => rfl), if_pos (List.mem_map.mpr ⟨m, hm, rfl⟩)]
    rfl
  · refine ⟨_, exec_owndatWrite a v s, fun i hi => ?_⟩
    rw [pages_owndatWrite ha hpend hp hv hfit, mget_foldl_mput]
    split
    · rfl
    · next hmem =>
      rw [List.mem_filter, not_and] at hmem
      simpa using hmem (List.mem_map.mpr ⟨i, List.mem_range.mpr (by omega), rfl⟩)
  · exact (exec_halldatRead a s).trans (congrArg Host.Outcome.next ((if_pos ha).trans (readEffect_halldat s)))
  · refine (exec_halldatWrite a v s).trans (congrArg Host.Outcome.next ((if_pos ?_).trans ?_))
    · rw [ha, decide_eq_true hsel]
      rfl
    · rw [hallStore, htab]
  · exact (exec_pstructRead p s).trans (congrArg Host.Outcome.next ((if_pos hp).trans (readEffect_pstruct hp s)))
  · refine ⟨putReg (flushLines s p fun _ => true) hallBlk (0x0100 + 16 * p) (BitVec.ofNat 64 (v.toNat % 1024)),
      (exec_hccfgWrite a p v s).trans (congrArg Host.Outcome.next ?_), getReg_putReg_same .., ?_⟩
    · rw [hccfgWrite, ha, decide_eq_false (Nat.not_le.mpr hp)]
      rw [if_neg (by decide), if_neg (by omega)]
    · exact linesOf_flushLines s p
  · refine (exec_hccfgWrite a p v s).trans (congrArg Host.Outcome.next ?_)
    rw [hccfgWrite, ha, decide_eq_false (Nat.not_le.mpr hp)]
    rw [if_neg (by decide), if_pos (.inl h384)]
  · refine (exec_respgWrite a ch j v s).trans (congrArg Host.Outcome.next (if_neg ?_))
    rw [ha, decide_eq_false (Nat.not_le.mpr hch), decide_eq_false (Nat.not_le.mpr hj)]
    decide
  · refine ⟨_, (exec_ptrootWrite a p v s).trans (congrArg Host.Outcome.next (ptrootWrite_eq ha hp)), fun c => tlb_ptroot hp c (tlb_invalidate _ p c), ?_, ?_⟩
    · rw [(xlinvGo_keeps ..).2, (invalidate_keeps ..).2, putReg_xlinvQ]
    · rw [getReg, (xlinvGo_keeps ..).1, (invalidate_keeps ..).1, ← getReg, getReg_putReg_same]
  · have hgo : (v ||| 64).getLsbD 6 = true := by simp
    refine ⟨_, (exec_xlinvGo a v s).trans (congrArg Host.Outcome.next (xlinvWrite_go ha hgo)), ?_, fun hall c => ?_⟩
    · rw [(xlinvGo_keeps ..).2, putReg_xlinvQ, hq]
      rfl
    · have hmod : (v ||| 64).toNat % 32 = v.toNat % 32 := by
        rw [BitVec.toNat_or, ← Nat.and_two_pow_sub_one_eq_mod _ 5, ← Nat.and_two_pow_sub_one_eq_mod _ 5, Nat.and_or_distrib_right]
        simp
      rw [core_of_same c (xlinvGo_starts (by rw [putReg_xlinvQ, hq]) (by simp [hall])), hmod]
      exact tlb_invalidate _ _ c
  · exact (exec_registerWrite a islandBlk 0x1410 v s).trans (congrArg Host.Outcome.next (writeReg_hallsel ha))
  · exact (exec_registerWrite a _ _ v s).trans (congrArg Host.Outcome.next (writeReg_authbuf hp hk))
  · exact (exec_registerWrite a block off v s).trans (congrArg Host.Outcome.next (writeReg_unaligned h0 h1 ho))
  · exact (exec_leakageTick s).trans (congrArg Host.Outcome.next (leakageTick_only hcomp hcores hk hasg hg hh))
  · exact (exec_refreshRow m s).trans (congrArg Host.Outcome.next (refreshRow_eq hm hd))
  · obtain ⟨hmet, hregs⟩ := kcorrUpdate_spec measured hrun
    refine ⟨_, exec_kcorrUpdate measured s, hmet, fun hm hne => ?_⟩
    have hfold := kcorr_foldl (m := m) (fun m => mget 0 s.metered m) (fun m => measured.getD m 0) hne (List.range 1388) s List.nodup_range
    rw [if_pos (List.mem_range.mpr hm)] at hfold
    rw [kcorr, regField_of_same _ _ _ _ hregs]
    exact hfold

end Sys2Proof.Machine
end

section
/-! PROOFS. What the engines do by themselves (R180, R182, R190, R194, R210, R232, R238, R239, R256 to R261, R265). -/

namespace Sys2Proof.Machine

-- One proof after the other: side by side they take more threads and memory than the check of the whole text has.
set_option Elab.async false

section records
variable {s : State} {c d k : Nat} {r : Rec}

/-! ## The queues of records -/

theorem engQ_setEngQ (s : State) (c k : Nat) (l : List Rec) : engQ (setEngQ s c k l) c k = l := by
  unfold engQ setEngQ
  match k with
  | 0 => exact congrArg Core.coachQ ((core_updCore ..).trans (if_pos rfl))
  | 1 => exact congrArg Core.courierQ ((core_updCore ..).trans (if_pos rfl))
  | n + 2 => exact congrArg Channel.streamQ ((chan_updChan ..).trans (if_pos rfl))

theorem engQ_setEngSeq (s : State) (c k n : Nat) : engQ (setEngSeq s c k n) c k = engQ s c k := by
  match k with
  | 0 =>
    change (core (updCore s c fun v => { v with coachSeq := n }) c).coachQ = (core s c).coachQ
    rw [core_updCore, if_pos rfl]
  | 1 =>
    change (core (updCore s c fun v => { v with courierSeq := n }) c).courierQ = (core s c).courierQ
    rw [core_updCore, if_pos rfl]
  | m + 2 =>
    change (chan (updChan s c fun v => { v with streamSeq := n }) c).streamQ = (chan s c).streamQ
    rw [chan_updChan, if_pos rfl]

/-- A record that enters is in its queue, under the queue's next number. -/
theorem mem_pushRec (s : State) (c k : Nat) (r : Rec) : { r with seq := engSeq s c k } ∈ engQ (pushRec s c k r) c k := by
  rw [pushRec, engQ_setEngSeq, engQ_setEngQ]
  exact List.mem_append_right _ (List.mem_singleton_self _)

theorem engQ_updRec (s : State) (c k n : Nat) (f : Rec → Rec) :
    engQ (updRec s c k n f) c k = (engQ s c k).map fun r => if r.seq = n ∧ r.st ≠ 2 then f r else r := engQ_setEngQ ..

/-- What every open record of one number becomes, where the number stays. -/
theorem of_mem_updRec {n : Nat} {f : Rec → Rec} {e : Rec} (he : e ∈ engQ (updRec s c k n f) c k) (hf : ∀ r, (f r).seq = r.seq) (hseq : e.seq = n) :
    e.st = 2 ∨ ∃ r, e = f r := by
  rw [engQ_updRec] at he
  obtain ⟨r, -, rfl⟩ := List.mem_map.mp he
  split at hseq
  · next h =>
    rw [if_pos h]
    exact .inr ⟨r, rfl⟩
  · next h =>
    rw [if_neg h]
    exact .inl (by_contra fun hst => h ⟨hseq, hst⟩)

theorem quad_updRec (s : State) (c k n : Nat) (f : Rec → Rec) (q : Nat) : quad (updRec s c k n f) q = quad s q := by
  unfold updRec setEngQ
  split <;> rfl

/-! ## The sequencer (R210) -/

/-- The record that the sequencer emits from its body. -/
def emitted (r : Rec) (strides : Word × Word × Word) (iter : Nat) : Rec :=
  { r with d := r.d + BitVec.ofNat 64 iter * strides.1, a := r.a + BitVec.ofNat 64 iter * strides.2.1, b := r.b + BitVec.ofNat 64 iter * strides.2.2, iter := iter }

theorem seqEmit_inBody {q : Sequencer} {sd sa sb : Word} (hq : (core s c).seqr = some q) (hroom : engRoom s c 0 = true)
    (hstop : seqStopped s c q = false) (hr : q.body[q.pos]? = some r) (hst : q.strides[q.pos]? = some (sd, sa, sb))
    (hpos : q.pos + 1 < q.body.length) (hit : q.iter < q.count) :
    seqEmit s c = updCore (pushRec s c 0 (emitted r (sd, sa, sb) q.iter)) c fun v => { v with seqr := some { q with pos := q.pos + 1 } } := by
  rw [seqEmit, hq]
  dsimp only
  rw [hroom, hstop, if_neg (by decide), hr, hst]
  dsimp only
  rw [if_pos hpos, if_pos hit]
  rfl

/-! ## Vector commands (R190, R194) -/

theorem foldl_add_zero : ∀ l : List Nat, (∀ n ∈ l, n = 0) → l.foldl (· + ·) 0 = 0
  | [], _ => rfl
  | n :: l, h => by
    rw [List.foldl_cons, h n List.mem_cons_self]
    exact foldl_add_zero l fun m hm => h m (List.mem_cons_of_mem _ hm)

theorem busy_eq_zero {cs : List Nat} (h : ∀ e ∈ cs, ∀ v ∈ (core s e).coachQ, v.st ≠ 1) :
    (cs.map fun c => ((core s c).coachQ.filter (fun r => r.isVec && r.st == 1 && decide (r.prog < 2) && r.bset.isEmpty)).length).foldl (· + ·) 0 = 0 := by
  refine foldl_add_zero _ fun n hn => ?_
  obtain ⟨e, he, rfl⟩ := List.mem_map.mp hn
  refine List.length_eq_zero_iff.mpr (List.filter_eq_nil_iff.mpr fun v hv => ?_)
  simp [h e he v hv]

/-- The turn after the quad's last: its first is the next core. -/
theorem turn_eq (n : Nat) : (List.range 4).map (fun k => (n + 1 + k) % 4) = (n + 1) % 4 :: (List.map (fun k => (n + 1 + k) % 4) [1, 2, 3]) := rfl

theorem vecStart_second (hk : kindOf c = .compute) (hturn : (coresOfQuad (quadOf c)).getD (((quad s (quadOf c)).vlast + 1) % 4) 0 = c)
    (hhead : coachHead s c = some r) (hvec : r.isVec = true) (hprog : r.prog = 1)
    (hidle : ∀ e ∈ coresOfQuad (quadOf c), ∀ v ∈ (core s e).coachQ, v.st ≠ 1) :
    vecStart s c = updRec (updQuad s (quadOf c) fun v => { v with vlast := ((quad s (quadOf c)).vlast + 1) % 4 }) c 0 r.seq
      fun r => { r with st := 1, active := true, prog := 1 } := by
  rw [vecStart]
  dsimp only
  rw [busy_eq_zero hidle, turn_eq, List.find?_cons, hturn, hhead]
  dsimp only
  rw [hvec, if_pos rfl, Option.isSome_some]
  dsimp only
  rw [hturn, if_neg (by rw [hk]; simp), if_neg (by rw [hprog]; decide)]

theorem vecComplete_alone (hnext : vecNext s c = some r) (htog : together s c r = false) : vecComplete s c = vecRun s c := by
  rw [vecComplete, hnext]
  exact if_pos (.inr htog)

theorem vecRun_landed (hnext : vecNext s c = some r) (hprog : r.prog = 2) (hout : writesOut s c 0 r.seq = false) :
    vecRun s c = vecDone s c r (r.xq.headD 0) := by
  rw [vecRun, hnext]
  dsimp only
  rw [if_pos hprog, if_neg (by rw [hout]; decide)]

theorem vecRun_lands {pa : Nat} (hnext : vecNext s c = some r) (hprog : r.prog ≠ 2) (hmaj : r.major ≠ 0x36)
    (hpl : vecPlace (vecFind s c r) c r.part (ea56 r.d) (vecOpds r.word r.b.toNat).1 = some pa)
    (hw : windowFault (vecFind s c r) c pa (ea56 r.d) (vecResult (vecFind s c r) c r).bytes = none) :
    vecRun s c = vecSettle (vecLand (vecFind s c r) c r pa (vecResult (vecFind s c r) c r).bytes) c r (vecResult (vecFind s c r) c r).flags := by
  rw [vecRun, hnext]
  dsimp only
  rw [if_neg hprog, if_neg hmaj, hpl]
  dsimp only
  rw [hw]

theorem vecRun_misplaced (hnext : vecNext s c = some r) (hprog : r.prog ≠ 2) (hmaj : r.major ≠ 0x36)
    (hpl : vecPlace (vecFind s c r) c r.part (ea56 r.d) (vecOpds r.word r.b.toNat).1 = none) :
    vecRun s c = vecFault (vecFind s c r) c r (trapAt .bounds (ea56 r.d)) := by
  rw [vecRun, hnext]
  dsimp only
  rw [if_neg hprog, if_neg hmaj, hpl]

/-! ## Matrix commands (R232, R238) -/

theorem charge_quads (s : State) (m k n e : Nat) (b : Bool) : (charge s m k n e b).quads = s.quads := by
  obtain ⟨d, w, f, h⟩ := charge_eq s m k n e b
  rw [h]

theorem chargeRec_quads (s : State) (c : Nat) (r : Rec) (m cls n : Nat) : (chargeRec s c r m cls n).quads = s.quads := by
  unfold chargeRec
  dsimp only
  split
  · rw [updSlot_quads, charge_quads]
  · exact charge_quads ..

theorem matCharge_quads (s : State) (c : Nat) (r : Rec) : (matCharge s c r).quads = s.quads := by
  unfold matCharge
  dsimp only
  split
  · exact chargeRec_quads ..
  · split <;> simp only [chargeRec_quads]

/-- The next core's eligible head is granted. -/
theorem matGrant_next (hturn : (coresOfQuad d).getD (((quad s d).mlast + 1) % 4) 0 = c) (hact : matActive s c = none) (hhead : matHead s c = some r) :
    matGrant s d = matStart (updQuad s d fun v => { v with mlast := ((quad s d).mlast + 1) % 4 }) c r := by
  have hgrant : (if (matActive s ((coresOfQuad d).getD (((quad s d).mlast + 1) % 4) 0)).isSome = true then none
      else matHead s ((coresOfQuad d).getD (((quad s d).mlast + 1) % 4) 0)) = some r := by
    simp only [hturn, hact, hhead, Option.isSome_none, if_neg Bool.false_ne_true]
  rw [matGrant]
  dsimp only
  rw [turn_eq, List.find?_cons, hgrant, Option.isSome_some]
  dsimp only
  rw [hgrant]
  dsimp only
  rw [hturn]

theorem matStart_eq (s : State) (c : Nat) (r : Rec) : ∃ base, matStart s c r
    = updRec (matCharge s c r) c 0 r.seq fun r => { r with st := 1, active := true, prog := 1, xq := base } := ⟨_, rfl⟩

theorem matComplete_zero (hact : matActive s c = some r) (hprog : r.prog ≠ 2) (hfn : r.fn = 4) :
    matComplete s c = doneRec (zeroBanks s (quadOf c) (runOf r.d.toNat)) c 0 r [] := by
  rw [matComplete, hact]
  dsimp only
  rw [if_neg hprog, hfn]
  rfl

theorem matComplete_out (hact : matActive s c = some r) (hprog : r.prog = 2) (hout : writesOut s c 0 r.seq = false) :
    matComplete s c = outDone s c r := by
  rw [matComplete, hact]
  dsimp only
  rw [if_pos hprog, if_neg (by rw [hout]; decide)]

/-! ## Writes of the engines (R180, R239, R385) -/

/-- The engine writes without the one at place `k`. -/
def withoutWrite (s : State) (k : Nat) : State := { s with engWrites := s.engWrites.take k ++ s.engWrites.drop (k + 1) }

theorem core_withoutWrite (s : State) (k d : Nat) : core (withoutWrite s k) d = core s d := rfl

section writes
variable {w : EngWrite} (hw : s.engWrites[k]? = some w) (hheld : w.held = false) (hmatch : mustMatch s w = false) (hd : coreOfPa w.pa = some d)
include hw hheld hmatch hd

theorem rotApply_here (hrot : w.rot = true) :
    rotApply s k = if (core s d).isSealed then discardWrite (withoutWrite s k) d w else landBoth (withoutWrite s k) w := by
  rw [rotApply, pick, hw]
  dsimp only
  rw [hrot, hheld, if_neg (by decide), hmatch, if_neg Bool.false_ne_true, hd]
  rfl

theorem engWriteArrive_here (hrot : w.rot = false) :
    engWriteArrive s k = if (core s d).isSealed then discardWrite (withoutWrite s k) d w else landBoth (withoutWrite s k) w := by
  rw [engWriteArrive, pick, hw]
  dsimp only
  rw [hrot, hheld, if_neg (by decide), hmatch, if_neg Bool.false_ne_true, hd]
  rfl
end writes

/-! ## Courier and stream records (R182, R256, R259, R261) -/

theorem courierStart_only (hq : (core s c).courierQ = [r]) (hh : (core s c).hardHalt = false) (hact : r.active = false) (hst : r.st = 0) :
    courierStart s c = if r.fn = 6 then takeInstance (updRec s c 1 r.seq fun r => { r with st := 1, active := true, iter := if r.fn ≤ 2 then r.prog else 0 }) c r
      else updRec s c 1 r.seq fun r => { r with st := 1, active := true, iter := if r.fn ≤ 2 then r.prog else 0 } := by
  have hnone : [r].filter (fun r => r.active) = [] := by simp [hact]
  have hfind : [r].find? (fun r => !r.active && (r.st == 0 || r.st == 1)) = some r := by simp [hact, hst]
  rw [courierStart]
  dsimp only
  rw [hq, hnone, hh, if_neg (by decide), hfind]

theorem courierNext_active (hq : (core s c).courierQ[k]? = some r) (hst : r.st = 1) (hact : r.active = true) (hstop : recStopped s c r = false) :
    courierNext s c k = some (r, orWalk c r (if r.fn ≤ 2 then copyAdvance s c r else netAdvance s c r)) := by
  have hgo : ¬ (r.st ≠ 1 ∨ r.active = false ∨ (recStopped s c r && courierAtBlock r) = true) := by
    rw [hst, hact, hstop]
    simp
  rw [courierNext, hq]
  exact if_neg hgo

theorem advance_done (hlen : cpTotal r ≤ r.iter) (hout : recOut s c 1 r.seq = false) :
    (if r.fn ≤ 2 then copyAdvance s c r else netAdvance s c r) = .done := by
  have hcopy : copyAdvance s c r = .done := by
    rw [copyAdvance]
    dsimp only
    rw [hout, if_neg Bool.false_ne_true, if_pos hlen]
  have hnet : netAdvance s c r = .done := by
    rw [netAdvance]
    dsimp only
    rw [if_pos hlen, hout, if_neg Bool.false_ne_true]
  rw [hcopy, hnet, ite_self]

theorem netAdvance_noPlan (hfn : 5 ≤ r.fn) (hlen : r.iter < cpTotal r) (hport : portRoom s = true) (hplan : planOk s r = false) :
    netAdvance s c r = .fault s (trapAt .bounds (ea56 r.d)) := by
  rw [netAdvance]
  dsimp only
  rw [if_neg (Nat.not_le.mpr hlen), hport, if_neg (by decide), if_pos (.inl ⟨hfn, hplan⟩)]

theorem courierComplete_done (hq : (core s c).courierQ[k]? = some r) (hst : r.st = 1) (hact : r.active = true) (hstop : recStopped s c r = false)
    (hlen : cpTotal r ≤ r.iter) (hout : recOut s c 1 r.seq = false) :
    courierComplete s c k = updRec s c 1 r.seq fun q => { q with st := 2, active := false, prog := cpTotal r, fault := none } := by
  rw [courierComplete, courierNext_active hq hst hact hstop, advance_done hlen hout]
  rfl

theorem courierFaultStep_noPlan (hq : (core s c).courierQ[k]? = some r) (hst : r.st = 1) (hact : r.active = true) (hstop : recStopped s c r = false)
    (hfn : 5 ≤ r.fn) (hlen : r.iter < cpTotal r) (hport : portRoom s = true) (hplan : planOk s r = false) :
    courierFaultStep s c k = courierFault s c r (trapAt .bounds (ea56 r.d)) := by
  rw [courierFaultStep, courierNext_active hq hst hact hstop, if_neg (by omega), netAdvance_noPlan hfn hlen hport hplan]
  rfl

theorem streamStart_only (hq : (chan s c).streamQ = [r]) (hh : (core s c).hardHalt = false) (hact : r.active = false) (hst : r.st = 0) :
    streamStart s c = updRec s c 2 r.seq fun r => { r with st := 1, active := true, iter := r.prog } := by
  have hnone : [r].filter (fun r => r.active) = [] := by simp [hact]
  have hfault : [r].any (fun r => r.st == 3) = false := by simp [hst]
  have hfind : [r].find? (fun r => !r.active && (r.st == 0 || r.st == 1)) = some r := by simp [hact, hst]
  rw [streamStart, hq, hnone, hh, hfault, if_neg (by decide), hfind]

section pull
variable (hq : (chan s c).streamQ[k]? = some r) (hst : r.st = 1) (hact : r.active = true) (hstop : recStopped s c r = false) (hon : s.memDom = .on)
  (hfn : r.fn = 3)
include hq hst hact hstop hon hfn

theorem streamNext_pull : streamNext s c k = some (r, orWalk c r (pullAdvance s c r)) := by
  have hgo : ¬ (r.st ≠ 1 ∨ r.active = false ∨ recHalts s c r = true ∨ s.memDom ≠ .on) := by
    rw [hst, hact, recHalts, hstop, hon]
    simp
  rw [streamNext, hq]
  dsimp only
  rw [if_neg hgo, hfn]
  rfl

/-- A DPULL that has pulled every stage is done. -/
theorem streamComplete_pulled (hout : recOut s c 2 r.seq = false) (hlen : r.b.toNat % 256 ≤ r.prog) :
    streamComplete s c k = updChan (doneRec (updRec s c 2 r.seq fun q => { q with prog := if q.fn = 2 then q.iter else q.prog }) c 2 r []) c
      fun v => { v with aqProd := v.aqProd.erase (true, r.seq), xqCons := v.xqCons.erase (true, r.seq) } := by
  have hdone : pullAdvance s c r = .done := by
    rw [pullAdvance]
    dsimp only
    rw [hout, if_neg Bool.false_ne_true, if_pos hlen]
  rw [streamComplete, streamNext_pull hq hst hact hstop hon hfn, hdone]
  rfl

/-- A DPULL from a ring that is none faults. -/
theorem streamFaultStep_noRing (hout : recOut s c 2 r.seq = false) (hlen : r.prog < r.b.toNat % 256) (hcube : r.a.toNat / 8192 % 4096 = cubeId s)
    (hring : (ring s (r.a.toNat % 8192) (r.a.toNat / 2 ^ 25 % 8)).init = false) :
    streamFaultStep s c k = streamFault s c r (ringTrap (r.a.toNat / 2 ^ 25 % 8)) := by
  have hfault : pullAdvance s c r = .fault s (ringTrap (r.a.toNat / 2 ^ 25 % 8)) := by
    rw [pullAdvance]
    dsimp only
    rw [hout, if_neg Bool.false_ne_true, if_neg (Nat.not_le.mpr hlen), if_pos hcube, hring, if_pos (by decide)]
  rw [streamFaultStep, streamNext_pull hq hst hact hstop hon hfn, hfault]
  rfl
end pull

/-! ## The AQ and bank commands (R260, R265) -/

theorem bselApply_one {n layer : Nat} {mask : BitVec 32} {e : QEntry} {rest : List AqEntry} (haq : (chan s c).aq = .bsel n mask layer :: .data e :: rest) :
    bselApply s c = updChan s c fun v => { v with aq := .data e :: rest, bmask := mput 0 v.bmask n mask, blayer := mput 0 v.blayer n layer } := by
  rw [bselApply, haq, headBsels]
  rfl

/-- The channel core's bank commands without the one at place `k`. -/
def withoutBank (s : State) (c k : Nat) : State := updChan s c fun v => { v with bankCmds := v.bankCmds.eraseIdx k }

/-- The 1,024 bytes of a fill: its sixteen, over and over. -/
def fillBytes (r : Rec) : List (Byte × Bool) := (List.replicate 64 (r.mem.map fun b => (b, false))).flatten

theorem bankComplete_lost {pa : Nat} (hr : (chan s c).bankCmds[k]? = some r) (hready : bankReady s c k r = true) (hfn : r.fn = 5) (hxq : r.xq = [pa])
    (hl : r.lost = true) : bankComplete s c k = trapLog (withoutBank s c k) r.part 1 c 0 (BitVec.ofNat 64 (ea56 r.d)) := by
  rw [bankComplete, hr]
  dsimp only
  rw [hready, if_neg (by decide), hfn]
  exact (if_pos hl).trans (by rw [hxq]; rfl)

theorem bankComplete_fill {pa : Nat} (hr : (chan s c).bankCmds[k]? = some r) (hready : bankReady s c k r = true) (hfn : r.fn = 5) (hxq : r.xq = [pa])
    (hl : r.lost = false) : bankComplete s c k
      = writeNoting (flushSegs (withoutBank s c k) c [pa] true) r.part c (BitVec.ofNat 64 (ea56 r.d + 1024 * 0)) pa (fillBytes r) := by
  rw [bankComplete, hr]
  dsimp only
  rw [hready, if_neg (by decide), hfn]
  exact (if_neg (by rw [hl]; decide)).trans (by rw [hxq]; rfl)

/-- `t` holds the rows, pages and tables that decide whether a byte takes a write as `s` does. -/
structure SameStore (s t : State) : Prop where
  parts : t.parts = s.parts
  stripe : t.stripe = s.stripe
  sets : t.sets = s.sets
  pages : t.pages = s.pages
  regs : t.regs = s.regs
  cores : t.cores = s.cores
  retired : ∀ c, (chan t c).retired = (chan s c).retired

theorem SameStore.rowRetired {t : State} (h : SameStore s t) (pa : Nat) : rowRetired t pa = rowRetired s pa := by
  have hkey : keyGone t pa = keyGone s pa := by
    unfold keyGone cubeHash pageOwner part cubeId regField getReg setOf
    rw [h.parts, h.stripe, h.sets, h.pages, h.regs]
  unfold Machine.rowRetired
  rw [hkey]
  simp only [h.retired]

theorem SameStore.mayWrite {t : State} (h : SameStore s t) (pa : Nat) : mayWrite t pa = mayWrite s pa := by
  unfold Machine.mayWrite tableAt ctOff tsize qtOff qsize regField getReg regionOf core
  rw [h.regs, h.cores]

theorem SameStore.takesByte {t : State} (h : SameStore s t) (pa : Nat) : takesByte t pa = takesByte s pa := by
  rw [Machine.takesByte, h.mayWrite, h.rowRetired, Machine.takesByte]

theorem SameStore.meetsRetired {t : State} (h : SameStore s t) (pa n : Nat) : meetsRetired t pa n = meetsRetired s pa n := by
  simp only [Machine.meetsRetired, h.rowRetired]

theorem flushSegs_channels (s : State) (c : Nat) (segs : List Nat) (d : Bool) : (flushSegs s c segs d).channels = s.channels := rfl

theorem sameStore_flushed (s : State) (c k : Nat) (segs : List Nat) : SameStore s (flushSegs (withoutBank s c k) c segs true) where
  parts := rfl
  stripe := rfl
  sets := rfl
  pages := rfl
  regs := rfl
  cores := rfl
  retired d := by
    rw [chan_of_same d (flushSegs_channels ..), withoutBank, chan_updChan]
    split
    · next h => rw [h]
    · rfl

/-! ## Bytes written one after the other -/

theorem foldl_wrByte_eq_wrBytes (pa : Nat) : ∀ (bs : List Byte) (k : Nat) (m : List Host.Cell),
    ((bs.map fun b => (b, false)).zip (List.range' k bs.length)).foldl (fun m (e : (Byte × Bool) × Nat) =>
      wrByte m (pa + e.2) (if e.1.2 then 0 else e.1.1)) m = wrBytes m (pa + k) bs
  | [], _, _ => rfl
  | b :: bs, k, m => by
    rw [List.map_cons, List.length_cons, List.range'_succ, List.zip_cons_cons, List.foldl_cons, foldl_wrByte_eq_wrBytes pa bs (k + 1)]
    rfl

theorem rdByte_wrByte (m : List Host.Cell) (a x : Nat) (b : Byte) : rdByte (wrByte m a b) x = if x = a then b else rdByte m x := mget_mput ..

theorem rdByte_wrBytes : ∀ (bs : List Byte) (m : List Host.Cell) (a x : Nat),
    rdByte (wrBytes m a bs) x = if a ≤ x ∧ x < a + bs.length then bs.getD (x - a) 0 else rdByte m x
  | [], m, a, x => by
    rw [wrBytes, List.length_nil, if_neg (by omega)]
  | b :: bs, m, a, x => by
    rw [wrBytes, rdByte_wrBytes bs, rdByte_wrByte, List.length_cons]
    by_cases hx : x = a
    · subst hx
      rw [if_neg (by omega), if_pos rfl, if_pos (by omega), Nat.sub_self, List.getD_cons_zero]
    · by_cases hin : a + 1 ≤ x ∧ x < a + 1 + bs.length
      · rw [if_pos hin, if_pos (by omega), show x - a = x - (a + 1) + 1 by omega, List.getD_cons_succ]
      · rw [if_neg hin, if_neg hx, if_neg (by omega)]

/-- Bytes without poison that every place takes, where no error is unfound. -/
theorem writeBytes_taken {pa : Nat} {bs : List Byte} (hl : s.latent = []) (he : s.softErr = []) (ht : ∀ i, i < bs.length → takesByte s (pa + i) = true) :
    (writeBytes s pa (bs.map fun b => (b, false))).mem = wrBytes s.mem pa bs := by
  have hall : ((bs.map fun b => (b, false)).zip (List.range bs.length)).filter (fun e => takesByte s (pa + e.2))
      = (bs.map fun b => (b, false)).zip (List.range' 0 bs.length) := by
    rw [List.range_eq_range', List.filter_eq_self]
    intro e hmem
    have hi : e.2 < bs.length := by
      have := (List.of_mem_zip (a := e.1) (b := e.2) hmem).2
      simpa using this
    exact ht e.2 hi
  obtain ⟨p, hp⟩ := writeBytes_of_noErrors hl he pa (bs.map fun b => (b, false))
  rw [hp, List.length_map, hall, foldl_wrByte_eq_wrBytes, Nat.add_zero]

theorem getD_flatten_replicate {α : Type} {l : List α} {n : Nat} (hl : l.length = n) (d : α) : ∀ (m i : Nat), i < m * n →
    (List.replicate m l).flatten.getD i d = l.getD (i % n) d
  | 0, i, hi => by omega
  | m + 1, i, hi => by
    rw [List.replicate_succ, List.flatten_cons]
    by_cases h : i < n
    · rw [List.getD_append _ _ _ _ (by omega), Nat.mod_eq_of_lt h]
    · rw [List.getD_append_right _ _ _ _ (by omega), getD_flatten_replicate hl d m _ (by rw [Nat.succ_mul] at hi; omega), hl,
        ← Nat.mod_eq_sub_mod (by omega)]

theorem fillBytes_eq (r : Rec) : fillBytes r = (List.replicate 64 r.mem).flatten.map fun b => (b, false) := by
  rw [fillBytes, List.map_flatten, List.map_replicate]

theorem channels_writeBytes {pa : Nat} {bs : List (Byte × Bool)} (hl : s.latent = []) (he : s.softErr = []) :
    (writeBytes s pa bs).channels = s.channels := by
  obtain ⟨p, hp⟩ := writeBytes_of_noErrors hl he pa bs
  rw [hp]

theorem sameStore_writeBytes {pa : Nat} {bs : List (Byte × Bool)} (hl : s.latent = []) (he : s.softErr = []) : SameStore s (writeBytes s pa bs) := by
  obtain ⟨p, hp⟩ := writeBytes_of_noErrors hl he pa bs
  rw [hp]
  exact ⟨rfl, rfl, rfl, rfl, rfl, rfl, fun _ => rfl⟩

/-- A write that meets no retired row is not logged. -/
theorem writeNoting_live {p c pa : Nat} {va : Word} {bs : List (Byte × Bool)} (hl : s.latent = []) (he : s.softErr = [])
    (hret : meetsRetired s pa bs.length = false) : writeNoting s p c va pa bs = writeBytes s pa bs := by
  rw [writeNoting, (sameStore_writeBytes hl he).meetsRetired, hret, if_neg Bool.false_ne_true]

/-- A BFILL that its DRAM takes. -/
theorem bankComplete_fills {pa : Nat} (hr : (chan s c).bankCmds[k]? = some r) (hready : bankReady s c k r = true) (hfn : r.fn = 5) (hxq : r.xq = [pa])
    (hmem : r.mem.length = 16) (hl : r.lost = false) (hlat : s.latent = []) (herr : s.softErr = []) (hret : meetsRetired s pa 1024 = false)
    (htake : ∀ i, i < 1024 → takesByte s (pa + i) = true) : (chan (bankComplete s c k) c).bankCmds = (chan s c).bankCmds.eraseIdx k
      ∧ ∀ i, i < 1024 → rdByte (bankComplete s c k).mem (pa + i) = r.mem.getD (i % 16) 0 := by
  have hsame := sameStore_flushed s c k [pa]
  have hlen : ((List.replicate 64 r.mem).flatten).length = 1024 := by simp [hmem]
  have hchan : (chan (flushSegs (withoutBank s c k) c [pa] true) c).bankCmds = (chan s c).bankCmds.eraseIdx k := by
    rw [chan_of_same c (flushSegs_channels ..), withoutBank, chan_updChan, if_pos rfl]
  have hlat' : (flushSegs (withoutBank s c k) c [pa] true).latent = [] := hlat
  have herr' : (flushSegs (withoutBank s c k) c [pa] true).softErr = [] := herr
  have hmem' : (flushSegs (withoutBank s c k) c [pa] true).mem = s.mem := rfl
  rw [bankComplete_fill hr hready hfn hxq hl]
  generalize flushSegs (withoutBank s c k) c [pa] true = u at hsame hchan hlat' herr' hmem'
  have hlive : meetsRetired u pa (fillBytes r).length = false := by
    rw [fillBytes_eq, List.length_map, hlen, hsame.meetsRetired, hret]
  rw [writeNoting_live hlat' herr' hlive, fillBytes_eq]
  refine ⟨by rw [chan_of_same c (channels_writeBytes hlat' herr'), hchan], fun i hi => ?_⟩
  rw [writeBytes_taken hlat' herr' fun j hj => (hsame.takesByte _).trans (htake j (hlen ▸ hj)), rdByte_wrBytes, if_pos (by omega), Nat.add_sub_cancel_left,
    getD_flatten_replicate hmem 0 64 i (by omega)]

end records

/-- Settles O45: each engine step follows the branch of its function that the hypotheses decide; an entered or updated record is found in its
queue, and a fill's bytes are read back one by one. -/
theorem engineEvents : Obligations.EngineEvents := by
  refine fun s c d k r => ⟨fun q r sd sa sb hq hroom hstop hr hst hpos hit => ?_, fun hk hturn hhead hvec hprog hidle => ?_,
    fun hnext htog => ⟨fun hprog hout => ?_, fun pa hprog hmaj hpl hw => ?_, fun hprog hmaj hpl => ?_⟩, fun hturn hact hhead => ?_,
    fun hact => ⟨fun hprog hfn => ?_, fun hprog hout => ?_⟩,
    fun w hw hheld hmatch hd => ⟨fun hs hrot => ?_, fun hs hrot => ?_, fun hs => ⟨fun hrot => ?_, fun hrot => ?_⟩⟩,
    fun hq hh hact hst => ?_, fun hq hst hact hstop => ⟨fun hlen hout => ?_, fun hfn hlen hport hplan => ?_⟩, fun hq hh hact hst => ?_,
    fun hq hst hact hstop hon hfn hout => ⟨fun hlen => ?_, fun hlen hcube hring => ?_⟩, fun n mask layer e rest haq => ?_,
    fun pa hr hready hfn hxq hmem => ⟨fun hl => ?_, fun hl hlat herr hret htake => ?_⟩⟩
  · refine ⟨_, { emitted r (sd, sa, sb) q.iter with seq := engSeq s c 0 },
      (exec_sequencerEmit c s).trans (congrArg Host.Outcome.next (seqEmit_inBody hq hroom hstop hr hst hpos hit)), ?_, rfl, rfl, rfl, rfl, ?_⟩
    · rw [core_updCore, if_pos rfl]
      exact mem_pushRec s c 0 (emitted r (sd, sa, sb) q.iter)
    · rw [core_updCore, if_pos rfl]
  · exact (exec_vectorCommandStart c s).trans (congrArg Host.Outcome.next (vecStart_second hk hturn hhead hvec hprog hidle))
  · exact (exec_vectorCommandComplete c s).trans (congrArg Host.Outcome.next ((vecComplete_alone hnext htog).trans (vecRun_landed hnext hprog hout)))
  · exact (exec_vectorCommandComplete c s).trans (congrArg Host.Outcome.next ((vecComplete_alone hnext htog).trans (vecRun_lands hnext hprog hmaj hpl hw)))
  · exact (exec_vectorCommandComplete c s).trans (congrArg Host.Outcome.next ((vecComplete_alone hnext htog).trans (vecRun_misplaced hnext hprog hmaj hpl)))
  · obtain ⟨base, hbase⟩ := matStart_eq (updQuad s d fun v => { v with mlast := ((quad s d).mlast + 1) % 4 }) c r
    refine ⟨_, (exec_matrixGrant d s).trans (congrArg Host.Outcome.next ((matGrant_next hturn hact hhead).trans hbase)), ?_, fun e he hseq => ?_⟩
    · rw [quad_updRec, quad_of_same d (matCharge_quads ..), quad_updQuad, if_pos rfl]
    · obtain hdone | ⟨q, rfl⟩ := of_mem_updRec (k := 0) (f := fun r => { r with st := 1, active := true, prog := 1, xq := base }) he (fun _ => rfl) hseq
      · exact .inl hdone
      · exact .inr ⟨rfl, rfl⟩
  · exact (exec_matrixCommandComplete c s).trans (congrArg Host.Outcome.next (matComplete_zero hact hprog hfn))
  · exact (exec_matrixCommandComplete c s).trans (congrArg Host.Outcome.next (matComplete_out hact hprog hout))
  · exact (exec_rotationWriteApply k s).trans (congrArg Host.Outcome.next ((rotApply_here hw hheld hmatch hd hrot).trans (if_neg (ne_true_of_eq_false hs))))
  · exact (exec_engineWriteArrival k s).trans
      (congrArg Host.Outcome.next ((engWriteArrive_here hw hheld hmatch hd hrot).trans (if_neg (ne_true_of_eq_false hs))))
  · exact (exec_rotationWriteApply k s).trans (congrArg Host.Outcome.next ((rotApply_here hw hheld hmatch hd hrot).trans (if_pos hs)))
  · exact (exec_engineWriteArrival k s).trans (congrArg Host.Outcome.next ((engWriteArrive_here hw hheld hmatch hd hrot).trans (if_pos hs)))
  · exact (exec_courierCommandStart c s).trans (congrArg Host.Outcome.next (courierStart_only hq hh hact hst))
  · exact (exec_courierCommandComplete c k s).trans (congrArg Host.Outcome.next (courierComplete_done hq hst hact hstop hlen hout))
  · exact (exec_courierFault c k s).trans (congrArg Host.Outcome.next (courierFaultStep_noPlan hq hst hact hstop hfn hlen hport hplan))
  · exact (exec_streamRecordStart c s).trans (congrArg Host.Outcome.next (streamStart_only hq hh hact hst))
  · refine ⟨_, (exec_streamRecordComplete c k s).trans (congrArg Host.Outcome.next (streamComplete_pulled hq hst hact hstop hon hfn hout hlen)),
      fun e he hseq => ?_⟩
    rw [chan_updChan, if_pos rfl] at he
    obtain hdone | ⟨q, rfl⟩ := of_mem_updRec (k := 2) he (fun _ => rfl) hseq
    · exact hdone
    · rfl
  · exact (exec_streamRecordFault c k s).trans (congrArg Host.Outcome.next (streamFaultStep_noRing hq hst hact hstop hon hfn hout hlen hcube hring))
  · exact (exec_bselApply c s).trans (congrArg Host.Outcome.next (bselApply_one haq))
  · exact (exec_bankCommandComplete c k s).trans (congrArg Host.Outcome.next (bankComplete_lost hr hready hfn hxq hl))
  · exact ⟨_, exec_bankCommandComplete c k s, bankComplete_fills hr hready hfn hxq hmem hl hlat herr hret htake⟩

end Sys2Proof.Machine
end

section
/-! PROOFS. Homes of doubles and barriers; memory controllers (R279, R284, R310, R311, R345). -/

namespace Sys2Proof.Machine

-- One proof after the other: side by side they take more threads and memory than the check of the whole text has.
set_option Elab.async false

section homes
variable {s : State} {c b d k : Nat} {n : Int}

/-! ## Reservations (R284) -/

/-- The head request of a free double is granted with the double's value. -/
theorem grantHead_grants {q : ResvReq} {rest : List ResvReq} {w : Nat} {a : Word} (hq : mget [] s.resvQ d = q :: rest) (hcore : q.core < 8192)
    (hg : q.granted = false) (hpair : (slot s q.core q.slot).pair = false)
    (hwait : (slot s q.core q.slot).wait = some { word := w, cond := .grant d a, reply := none }) (hseal : sealedFor s q.core d = false)
    (hserv : servable s d = true) (hres : reservedAt s d < 64) (hl : (grantAccess s q.core q.slot d).latent = [])
    (he : (grantAccess s q.core q.slot d).softErr = []) (hp : poisonedAt (grantAccess s q.core q.slot d) d 4 = false) :
    grantHead s d = setReply { grantAccess s q.core q.slot d with
      resvQ := mput [] (grantAccess s q.core q.slot d).resvQ d ({ q with granted := true } :: rest) } q.core q.slot
      (.value (BitVec.ofNat 64 (rdN (grantAccess s q.core q.slot d).mem d 8)) false) := by
  rw [grantHead, hq]
  dsimp only
  rw [if_neg (Nat.not_le.mpr hcore), hwait]
  dsimp only
  rw [hg, hpair, Bool.false_and, Bool.false_and, Bool.or_self, if_neg Bool.false_ne_true, hseal, if_neg Bool.false_ne_true, hserv,
    decide_eq_false (Nat.not_le.mpr hres), if_neg (by decide), findErrors_of_noErrors hl he, hp, if_neg Bool.false_ne_true]

/-! ## Barriers (R310, R311) -/

theorem barrier_putBarrier (s : State) (c b : Nat) (k : Barrier) : barrier (putBarrier s c b k) c b = k := by
  rw [barrier, putBarrier, core_updCore, if_pos rfl]
  exact mget_mput_same ..

theorem barrier_of_same {s t : State} (c b : Nat) (h : t.cores = s.cores) : barrier t c b = barrier s c b := by rw [barrier, core_of_same c h, barrier]

theorem trapLog_cores (s : State) (p event c cause : Nat) (addr : Word) : (trapLog s p event c cause addr).cores = s.cores := by
  unfold trapLog
  dsimp only
  split
  · rfl
  · split
    · rfl
    · split
      · rfl
      · rfl

/-- The barrier events without the one at place `k`. -/
def withoutEvent (s : State) (k : Nat) : State := { s with barEvents := s.barEvents.take k ++ s.barEvents.drop (k + 1) }

section arrival
variable {e : BarEvent} (hev : s.barEvents[k]? = some e) (hkind : e.kind = 0) (hseal : (core s e.core).isSealed = false)
  (hv : (barrier s e.core e.bar).v = true) (hrb : (barrier s e.core e.bar).rb = false)
include hev hkind hseal hv hrb

/-- An arrival reaches its barrier. -/
theorem barEventArrive_arrival : barEventArrive s k = if (barrier s e.core e.bar).exp < (barrier s e.core e.bar).arr + e.n.toNat then
      trapLog (putBarrier (withoutEvent s k) e.core e.bar { barrier s e.core e.bar with err := true })
        (core (putBarrier (withoutEvent s k) e.core e.bar { barrier s e.core e.bar with err := true }) e.core).part 1 e.core 0x0C (BitVec.ofNat 64 e.bar)
    else barArrive (withoutEvent s k) e.core e.bar e.n.toNat := by
  have hopen : ¬ ((core (withoutEvent s k) e.core).isSealed || !(barrier (withoutEvent s k) e.core e.bar).v
      || (barrier (withoutEvent s k) e.core e.bar).rb) = true := by
    change ¬ ((core s e.core).isSealed || !(barrier s e.core e.bar).v || (barrier s e.core e.bar).rb) = true
    rw [hseal, hv, hrb]
    decide
  have hstep : barEventArrive s k = barApply (withoutEvent s k) e.core e.bar e.kind e.n := by
    rw [barEventArrive, pick, hev]
    rfl
  rw [hstep, barApply, hkind, barEvent]
  dsimp only
  rw [if_neg hopen, if_pos rfl]
  split
  · next h => exact (if_pos h).symm
  · next h => exact (if_neg h).symm
end arrival

/-- An arrival that does not complete the barrier. -/
theorem barArrive_counts (hlt : (barrier s c b).arr + k < (barrier s c b).exp) :
    barArrive s c b k = putBarrier s c b { barrier s c b with arr := (barrier s c b).arr + k } := by
  rw [barArrive, barCheck]
  dsimp only
  rw [barrier_putBarrier]
  exact if_neg fun h => by have := h.1; dsimp only at this; omega

theorem barWaiters_putBarrier (hw : barWaiters s c b = []) {v : Barrier} (hv : v.waiters = (barrier s c b).waiters) : barWaiters (putBarrier s c b v) c b = [] := by
  rw [barWaiters, barrier_putBarrier, hv]
  exact hw

/-- The last arrival completes the phase. -/
theorem barrier_barArrive_completes (heq : (barrier s c b).arr + k = (barrier s c b).exp) (hpend : (barrier s c b).pend = 0) (hw : barWaiters s c b = []) :
    barrier (barArrive s c b k) c b = { barrier s c b with pcnt := ((barrier s c b).pcnt + 1) % 65536, arr := 0, waiters := [] } := by
  rw [barArrive, barCheck]
  dsimp only
  rw [barWaiters_putBarrier hw (v := { barrier s c b with arr := (barrier s c b).arr + k }) rfl, barrier_putBarrier, if_pos ⟨heq, hpend⟩, List.foldl_nil, barrier_putBarrier]

/-! ## Memory controllers (R279, R345) -/

theorem charge_channels (s : State) (m k n e : Nat) (b : Bool) : (charge s m k n e b).channels = s.channels := by
  obtain ⟨d, w, f, h⟩ := charge_eq s m k n e b
  rw [h]

theorem putField_channels (s : State) (b o hi lo v : Nat) : (putField s b o hi lo v).channels = s.channels := rfl

theorem foldl_findErrors_of_noErrors {α : Type} (hl : s.latent = []) (he : s.softErr = []) (f : α → Nat × Nat × Nat) :
    ∀ l : List α, l.foldl (fun s a => findErrors s (f a).1 (f a).2.1 (f a).2.2 0) s = s
  | [] => rfl
  | a :: l => by rw [List.foldl_cons, findErrors_of_noErrors hl he, foldl_findErrors_of_noErrors hl he f l]

/-- The channel of a row whose copy to its spare has ended. -/
def rowMoved (bank key : Nat) (k : Channel) : Channel :=
  { k with copyingRows := setDel key k.copyingRows, remapped := setIns key k.remapped, spUsed := mput 0 k.spUsed bank (mget 0 k.spUsed bank + 1),
           corrected := removeAt k.corrected key }

theorem chan_rowSpared {ch bank row : Nat} (hrow : (chan s (6144 + ch)).copyingRows.contains (bank * 8192 + row) = true) (hl : s.latent = [])
    (he : s.softErr = []) : chan (rowSpared s ch bank row) (6144 + ch) = rowMoved bank (bank * 8192 + row) (chan s (6144 + ch)) := by
  rw [rowSpared]
  dsimp only
  rw [if_pos hrow, foldl_findErrors_of_noErrors hl he fun g => (segPa (6144 + ch) (bank / 32) (bank % 32) row g, 1024, 0)]
  rw [chan_of_same _ (charge_channels ..), chan_of_same _ (charge_channels ..), chan_of_same _ (putField_channels ..),
    chan_of_same _ (putField_channels ..), chan_updChan, if_pos rfl]
  rfl

theorem scrubPass_clean {ch : Nat} (hch : ch < 64) (hon : s.memDom = .on) (hl : s.latent = []) (he : s.softErr = []) :
    scrubPass s ch = charge (updChan s (6144 + ch) fun v => { v with corrected := [] }) (1280 + ch) 25 (2 ^ 29) 0 := by
  have hgo : ¬ (64 < ch ∨ (ch < 64 ∧ s.memDom ≠ .on)) := by
    rintro (h | h)
    · omega
    · exact h.2 hon
  rw [scrubPass, if_neg hgo]
  dsimp only
  rw [hl, he]
  exact if_pos hch

theorem mem_setIns (k : Nat) : ∀ l : List Nat, k ∈ setIns k l
  | [] => List.mem_singleton_self _
  | x :: xs => by
    rw [setIns]
    split
    · exact List.mem_cons_self
    · split
      · next h => exact h ▸ List.mem_cons_self
      · exact List.mem_cons_of_mem _ (mem_setIns k xs)
end homes

/-- Settles O46: the head request's grant, the three outcomes of an arrival, and what the controllers do where no error is unfound. -/
theorem homeEvents : Obligations.HomeEvents := by
  refine fun s c b k pa born n src => ⟨fun q rest va hq hcore hg hpair hwait hseal hserv hres hl he hp => ?_, fun hev hseal hv hrb hlt => ?_,
    fun hev hseal hv hrb heq hpend hw => ?_, fun hev hseal hv hrb hlt => ?_, fun ch bank row hrows hl he => ?_, fun ch hch hon hl he => ?_⟩
  · obtain ⟨w, hwait⟩ := hwait
    exact (exec_reservationGrant pa s).trans (congrArg Host.Outcome.next (grantHead_grants hq hcore hg hpair hwait hseal hserv hres hl he hp))
  · refine ⟨_, (exec_barrierEventApply k s).trans (congrArg Host.Outcome.next
      ((barEventArrive_arrival hev rfl hseal hv hrb).trans ((if_neg (by dsimp only; omega)).trans (barArrive_counts hlt)))), ?_⟩
    exact barrier_putBarrier ..
  · refine ⟨_, (exec_barrierEventApply k s).trans (congrArg Host.Outcome.next
      ((barEventArrive_arrival hev rfl hseal hv hrb).trans (if_neg (by dsimp only; omega)))), ?_⟩
    exact barrier_barArrive_completes (s := withoutEvent s k) heq hpend hw
  · refine ⟨_, (exec_barrierEventApply k s).trans (congrArg Host.Outcome.next ((barEventArrive_arrival hev rfl hseal hv hrb).trans (if_pos hlt))), ?_⟩
    rw [barrier_of_same _ _ (trapLog_cores ..), barrier_putBarrier]
  · have hchan := chan_rowSpared (s := s) (ch := ch) (bank := bank) (row := row) (by rw [hrows]; simp) hl he
    refine ⟨_, exec_rowSpareComplete ch bank row s, ?_, ?_, ?_⟩
    · rw [hchan, rowMoved, hrows]
      exact if_pos rfl
    · rw [hchan]
      exact List.contains_iff_mem.mpr (mem_setIns ..)
    · rw [hchan, rowMoved]
      dsimp only
      exact mget_mput_same ..
  · exact (exec_scrubPass ch s).trans (congrArg Host.Outcome.next (scrubPass_clean hch hon hl he))

end Sys2Proof.Machine
end

section
/-! PROOFS. Links, routes and heartbeats (R397 to R399, R402, R404): what sending a packet leaves as it is, and the events of a link. -/

namespace Sys2Proof.Machine

-- One proof after the other: side by side they take more threads and memory than the check of the whole text has.
set_option Elab.async false

/-! ## Sending changes the traffic alone -/

/-- The waystation's state without its traffic: the queues, windows and counts that a packet sent, accepted or answered changes. -/
def withoutTraffic (n : Net) : Net :=
  { n with
    inbox := []
    outbox := []
    sendQ := []
    retry := []
    seqs := []
    msgid := 0
    windows := []
    winBase := []
    answers := []
    fwdSeen := []
    counts := []
    links := []
    lanterns := []
    sent := []
    recv := [] }

/-- A link without its replay buffer. -/
def linkLook (s : State) (l : Nat) : Link := { link s l with replay := [] }

/-- `t` differs from `s` in traffic and replay buffers alone. -/
structure Sends (s t : State) : Prop where
  state : t = { s with net := t.net }
  net : withoutTraffic t.net = withoutTraffic s.net
  look : ∀ l, linkLook t l = linkLook s l

section sends
variable (s : State) (q : Packet)

theorem Sends.refl : Sends s s := ⟨rfl, rfl, fun _ => rfl⟩

theorem Sends.trans {s t u : State} (h : Sends s t) (h' : Sends t u) : Sends s u := by
  refine ⟨?_, h'.net.trans h.net, fun l => (h'.look l).trans (h.look l)⟩
  have := h'.state
  rw [h.state] at this
  exact this

theorem Sends.foldl {α : Type} {f : State → α → State} (h : ∀ s a, Sends s (f s a)) : ∀ (l : List α) (s : State), Sends s (l.foldl f s)
  | [], s => .refl s
  | a :: l, s => (h s a).trans (Sends.foldl h l (f s a))

theorem sends_sendVia (came : Nat) (l : Option Nat) : Sends s (sendVia s q came l) := by
  unfold sendVia
  split
  · exact ⟨rfl, rfl, fun _ => rfl⟩
  · split
    · exact .refl s
    · next m =>
      refine ⟨rfl, rfl, fun l => ?_⟩
      simp only [linkLook, link, mget_mput]
      split
      · next h => rw [h]
      · rfl

theorem sends_sendPkt : Sends s (sendPkt s q) := sends_sendVia ..

theorem sends_noteAnswer (code cause : Nat) : Sends s (noteAnswer s q code cause) := by
  unfold noteAnswer
  split
  · exact .refl s
  · split
    · exact ⟨rfl, rfl, fun _ => rfl⟩
    · exact ⟨rfl, rfl, fun _ => rfl⟩

theorem sends_respond (code cause : Nat) (bs : List (Byte × Bool)) : Sends s (respond s q code cause bs) :=
  (sends_noteAnswer s q code cause).trans (sends_sendPkt ..)

theorem sends_windows (w : SMap (List Nat)) (b : SMap Nat) (a : SMap (List (Nat × Nat × Nat))) :
    Sends s { s with net := { s.net with windows := w, winBase := b, answers := a } } := ⟨rfl, rfl, fun _ => rfl⟩

theorem sends_mark : Sends s (mark s q) := by
  unfold mark
  split
  · exact .refl s
  · exact sends_windows ..

theorem sends_messageEnded : Sends s (messageEnded s q) := by
  unfold messageEnded
  split
  · exact ⟨rfl, rfl, fun _ => rfl⟩
  · exact .refl s

theorem sends_counts (c : SMap Nat) : Sends s { s with net := { s.net with counts := c } } := ⟨rfl, rfl, fun _ => rfl⟩

theorem sends_refuse (code cause : Nat) : Sends s (refuse s q code cause) := by
  have h := (sends_respond s q code cause []).trans (sends_mark _ q)
  unfold refuse
  dsimp only
  split
  · exact h
  · exact h.trans ((sends_counts _ _).trans (sends_messageEnded _ q))

theorem sends_numbered (n : SMap Nat) (c : SMap Nat) (r : List Sent) :
    Sends s { s with net := { s.net with seqs := n, sent := c, retry := r } } := ⟨rfl, rfl, fun _ => rfl⟩

theorem sends_msgid (m : Nat) : Sends s { s with net := { s.net with msgid := m } } := ⟨rfl, rfl, fun _ => rfl⟩

theorem sends_transmitNow (x : Sent) : Sends s (transmitNow s x) := by
  rw [transmitNow]
  exact (sends_numbered ..).trans (sends_sendVia ..)

theorem sends_transmit (x : Sent) : Sends s (transmit s x) := by
  unfold transmit
  split
  · exact ⟨rfl, rfl, fun _ => rfl⟩
  · exact sends_transmitNow s x

theorem sends_transmitNew (x : Sent) : Sends s (transmitNew s x) := by
  rw [transmitNew]
  exact (sends_msgid ..).trans (sends_transmit ..)

theorem sends_sendOcm (cube : Nat) (pl : Payload) : Sends s (sendOcm s cube pl) := sends_transmitNew ..

theorem sends_dropInbox (k : Nat) : Sends s (dropInbox s k) := ⟨rfl, rfl, fun _ => rfl⟩

end sends

/-! ## Links (R397 to R399) -/

section links
variable {s : State} {l lane : Nat}

theorem link_putLink (s : State) (l : Nat) (k : Link) : link (putLink s l k) l = k := mget_mput_same ..

theorem state_of_look {s t : State} (h : linkLook t l = linkLook s l) : (link t l).state = (link s l).state :=
  show (linkLook t l).state = (linkLook s l).state from congrArg Link.state h

theorem spused_of_look {s t : State} (h : linkLook t l = linkLook s l) : (link t l).spused = (link s l).spused :=
  show (linkLook t l).spused = (linkLook s l).spused from congrArg Link.spused h

theorem linkLook_sendRoute (s : State) (l : Nat) : linkLook (sendRoute s) l = linkLook s l :=
  (Sends.foldl (fun s c => sends_sendOcm s c _) _ _).look l

theorem linkLook_requeue (s : State) (m l : Nat) : linkLook (requeue s m) l = linkLook s l := by
  have h : ∀ (s : State) (e : Nat × Packet), Sends s (match routeLink s e.2 with
      | some m => sendVia s e.2 7 (some m)
      | none => s) := by
    intro s e
    split
    · exact sends_sendVia ..
    · exact .refl s
  exact (Sends.foldl h _ _).look l

theorem linkLook_dropMisses (s : State) (l : Nat) : linkLook (dropMisses s) l = linkLook s l :=
  (Sends.foldl (fun s q => sends_refuse s q 3 0) _ _).look l

theorem linkLook_settleWs (s : State) (l : Nat) : linkLook (settleWs s) l = linkLook s l := by
  unfold settleWs
  split
  · rfl
  · dsimp only
    have hc : ∀ t, linkLook (if s.ws = .forward ∧ t ≠ WsState.forward then { s with net := { s.net with conns := [] } } else s) l = linkLook s l := by
      intro t
      split
      · rfl
      · rfl
    split
    · exact (linkLook_dropMisses _ l).trans (hc _)
    · exact hc _

theorem linkLook_leaveBoot (s : State) (l : Nat) : linkLook (leaveBoot s) l = linkLook s l := by
  unfold leaveBoot
  split
  · exact linkLook_settleWs _ l
  · rfl

/-- A link that fails is FAILED. -/
theorem state_linkFail (s : State) (l : Nat) (record : Bool) : (link (linkFail s l record) l).state = 4 := by
  rw [linkFail, state_of_look (linkLook_requeue ..), state_of_look (linkLook_sendRoute ..), link_putLink]

/-- A link that trains on enough lanes. -/
theorem trainDone_trains {good : BitVec 9} (hk : (link s l).state = 1) (hbad : (link s l).bad = 0) (hgood : good ≠ 0)
    (hok : 4 ≤ (healthy (~~~good)).length) :
    let up := decide (8 ≤ (healthy (~~~good)).length)
    let spare := up && !(~~~good).getLsbD 8
    (link (trainDone s l good) l).state = (if up then 2 else 3)
      ∧ (link (trainDone s l good) l).spused = (if spare then ((List.range 8).find? fun i => (~~~good).getLsbD i).isSome else (link s l).spused) := by
  intro up spare
  have hlen : ¬ (healthy (~~~good)).length < 4 := Nat.not_lt.mpr hok
  rw [trainDone, if_neg fun h => h hk]
  dsimp only
  rw [if_neg hgood, if_neg hgood, hbad, show 0 ||| ~~~good = ~~~good from BitVec.zero_or, if_neg hlen]
  have hlook := fun t => (linkLook_leaveBoot (sendRoute t) l).trans (linkLook_sendRoute t l)
  rw [state_of_look (hlook _), spused_of_look (hlook _), link_putLink]
  exact ⟨(ite_congr (propext decide_eq_true_iff) (fun _ => rfl) fun _ => rfl).symm, rfl⟩

/-- No lane has trained: the link is FAILED. -/
theorem trainDone_fails (hk : (link s l).state = 1) : (link (trainDone s l 0) l).state = 4 := by
  rw [trainDone, if_neg fun h => h hk]
  dsimp only
  rw [if_pos rfl, if_pos rfl, if_pos (by decide)]
  exact state_linkFail ..

theorem healthy_one_lane (h : lane < 8) : ¬ (healthy (BitVec.ofNat 9 (2 ^ lane))).length < 4 := by
  revert h
  revert lane
  decide

/-- The spare takes the place of the first data lane that fails. -/
theorem laneFail_spared (hk : (link s l).state = 2) (hlane : lane < 8) (hbad : (link s l).bad = 0) (hsp : (link s l).spused = false) :
    laneFail s l lane = putLink s l { link s l with bad := BitVec.ofNat 9 (2 ^ lane), spused := true, splane := lane } := by
  have hused : laneUsed (link s l) lane = true := by
    rw [laneUsed, hk, if_neg (by decide), if_neg (by omega), hsp]
    rfl
  rw [laneFail]
  dsimp only
  rw [if_neg (by rw [hk]; omega), hused, if_neg (by decide), hbad, show 0 ||| BitVec.ofNat 9 (2 ^ lane) = BitVec.ofNat 9 (2 ^ lane) from BitVec.zero_or,
    if_neg (healthy_one_lane hlane), hk, if_neg (by decide),
    if_pos ⟨hsp, hlane, by decide⟩]

end links

/-! ## Routes and packets on their way (R402, R404) -/

section routes
variable {s : State} {k : Nat} {q : Packet}

theorem edges_routeTold (s : State) {cube : Nat} (es : List (Nat × Nat × Nat)) (h : cube ≠ cubeId s) : edges (routeTold s cube es) cube = es := by
  have hid : cubeId (routeTold s cube es) = cubeId s := rfl
  have hgraph : (routeTold s cube es).net.graph = insertAt s.net.graph cube es := rfl
  rw [edges, hid, if_neg h, hgraph, lookup_insertAt_same]
  rfl

theorem enterPort_inside (hq : s.net.inbox[k]? = some q) (hvia : q.via = 16) : enterPort s k = s := by
  rw [enterPort, hq]
  dsimp only
  rw [hvia, if_pos (Nat.le_refl _)]

/-- A packet of this cube that is next in its window is taken from the inbox and marked. -/
theorem takeFresh_fresh {ok : Packet → Bool} (hq : s.net.inbox[k]? = some q) (hok : ok q = true) (hd : q.dcube = cubeId s) (hnet : netDown s = false)
    (hvia : q.via = 16) (hfresh : seqCase s q = .fresh) : takeFresh s k ok = (mark (dropInbox s k) q, some q) := by
  rw [takeFresh, hq]
  dsimp only
  rw [hok, hd, bne_self_eq_false, Bool.or_false, Bool.not_true, if_neg Bool.false_ne_true, hnet, Bool.false_and, if_neg Bool.false_ne_true,
    enterPort_inside hq hvia, hfresh]

theorem packetTransit_forwards (hq : s.net.inbox[k]? = some q) (hd : q.dcube ≠ cubeId s) (hnet : netDown s = false) (hkind : q.kind ≤ 13) :
    packetTransit s k = sendVia (dropInbox (enterPort s k) k) (throughGroup (dropInbox (enterPort s k) k) { q with via := 16 })
      (link (dropInbox (enterPort s k) k) q.via).role
      (routeLink (dropInbox (enterPort s k) k) (throughGroup (dropInbox (enterPort s k) k) { q with via := 16 })) := by
  rw [packetTransit, hq]
  dsimp only
  rw [if_neg hd, hnet, if_neg Bool.false_ne_true, if_neg (Nat.not_lt.mpr hkind)]
  rfl

theorem packetTransit_reserved (hq : s.net.inbox[k]? = some q) (hd : q.dcube ≠ cubeId s) (hnet : netDown s = false) (hkind : 13 < q.kind) :
    packetTransit s k = otherRecord (dropInbox s k) := by
  rw [packetTransit, hq]
  dsimp only
  rw [if_neg hd, hnet, if_neg Bool.false_ne_true, if_pos hkind]

theorem packetReceive_heartbeat (hq : s.net.inbox[k]? = some q) (hd : q.dcube = cubeId s) (hkind : q.kind = 12) (hpl : q.payload = .heartbeat)
    (hnet : netDown s = false) (hvia : q.via = 16) (hfresh : seqCase s q = .fresh) :
    packetReceive s k = writeThrough s (heartbeatHeard (respond (mark (dropInbox s k) q) q 1 0) q.scube) q.scube := by
  rw [packetReceive, hq]
  dsimp only
  rw [packetTaken, hq]
  dsimp only
  rw [if_neg fun h => h hd, hkind, if_neg (by decide), if_neg (by decide), if_pos (by decide), controlIn, hpl]
  dsimp only
  rw [takeFresh_fresh hq rfl hd hnet hvia hfresh]
  dsimp only
  rw [ocmIn, hpl]

end routes

/-- Settles O47: what is sent when a link changes leaves the links' states as they are. -/
theorem linkEvents : Obligations.LinkEvents := by
  refine fun s l lane k cube q => ⟨fun hmay hst => ?_, fun hst hbad => ?_, fun hst => ⟨_, exec_linkTrainComplete l 0 s, trainDone_fails hst⟩,
    fun hst hbad => ⟨_, exec_linkTrainComplete l 0x00F s, (trainDone_trains hst hbad (by decide) (by decide)).1⟩, fun hst => ?_,
    fun hst hlane hbad hsp => (exec_laneFailure l lane s).trans (congrArg Host.Outcome.next (laneFail_spared hst hlane hbad hsp)), fun hu => ?_,
    fun hu => (exec_linkReplay l s).trans (congrArg Host.Outcome.next (if_pos hu)),
    fun es => ⟨_, exec_routeUpdate cube es s, edges_routeTold s es⟩, fun hws hpeers => ?_, fun hq hd hnet => ?_, fun hq hd hkind hpl hnet hvia hfresh => ?_⟩
  · exact (exec_linkRetrain l s).trans (congrArg Host.Outcome.next (if_pos ⟨hmay, hst⟩))
  · exact ⟨_, exec_linkTrainComplete l 0x1FF s, trainDone_trains hst hbad (by decide) (by decide)⟩
  · exact ⟨_, (exec_linkTrainTimeout l s).trans (congrArg Host.Outcome.next (if_pos hst)), state_linkFail s l true⟩
  · exact ⟨_, (exec_linkSilenceTimeout l s).trans (congrArg Host.Outcome.next (if_pos hu)), state_linkFail s l false⟩
  · refine (exec_heartbeatSend s).trans (congrArg Host.Outcome.next ?_)
    rw [hws, hpeers]
    rfl
  · exact ⟨fun hkind => (exec_packetTransit k s).trans (congrArg Host.Outcome.next (packetTransit_forwards hq hd hnet hkind)),
      fun hkind => (exec_packetTransit k s).trans (congrArg Host.Outcome.next (packetTransit_reserved hq hd hnet hkind))⟩
  · exact (exec_packetReceive k s).trans (congrArg Host.Outcome.next (packetReceive_heartbeat hq hd hkind hpl hnet hvia hfresh))

end Sys2Proof.Machine
end

section
/-! PROOFS. Packets served, answerTaken and retried (R284, R316, R407, R408, R410, R412 to R414, R419). -/

namespace Sys2Proof.Machine

-- One proof after the other: side by side they take more threads and memory than the check of the whole text has.
set_option Elab.async false

/-! ## What receiving changes -/

theorem writeThrough_net (s t : State) (src : Nat) : (writeThrough s t src).net = t.net := by
  unfold writeThrough
  split
  · rfl
  · rfl

/-- An accepted packet enters its window. -/
theorem mark_eq (s : State) (q : Packet) :
    ∃ w b a, mark s q = { s with net := { s.net with windows := w, winBase := b, answers := a } } := by
  unfold mark
  split
  · exact ⟨s.net.windows, s.net.winBase, s.net.answers, rfl⟩
  · exact ⟨_, _, _, rfl⟩

section arrivals
variable {s : State} {k : Nat} {q : Packet}

theorem inside_of_via (hvia : q.via = 16) : { q with via := 16 } = q := by rw [← hvia]

/-- A fresh packet of an agent's kind goes by its kind. -/
theorem packetTaken_fresh (hq : s.net.inbox[k]? = some q) (hd : q.dcube = cubeId s) (hnet : netDown s = false) (hvia : q.via = 16)
    (htaken : q.taken = false) (hfwd : q.fwd = false) (hfresh : seqCase s q = .fresh) (hlow : 2 < q.kind) (hkind : q.kind < 10) :
    packetTaken s k = if q.kind = 7 ∨ q.kind = 8 then planIn s k q else if nextOfConn s k q then requestIn s k q else s := by
  rw [packetTaken, hq]
  dsimp only
  rw [if_neg fun h => h hd, if_neg (by omega), if_neg (by omega), if_neg (by omega), hnet, if_neg Bool.false_ne_true, enterPort_inside hq hvia]
  have hsame := inside_of_via hvia
  simp only [hsame]
  rw [htaken, if_neg Bool.false_ne_true, hfwd, if_neg Bool.false_ne_true, hfresh]
  exact if_neg (by omega)

/-- An island controller's packet. -/
theorem packetTaken_control (hq : s.net.inbox[k]? = some q) (hd : q.dcube = cubeId s) (hkind : q.kind = 12) : packetTaken s k = controlIn s k q := by
  rw [packetTaken, hq]
  dsimp only
  rw [if_neg fun h => h hd, hkind, if_neg (by decide), if_neg (by decide), if_pos (by decide)]

theorem packetReceive_of (hq : s.net.inbox[k]? = some q) : packetReceive s k = writeThrough s (packetTaken s k) q.scube := by rw [packetReceive, hq]

theorem receiveIf_of {f : Packet → Bool} (hq : s.net.inbox[k]? = some q) (hf : f q = true) : receiveIf s k f = packetReceive s k := by
  rw [receiveIf, hq]
  exact if_pos hf

/-- A request whose connection is cached is served when its storage is ready. -/
theorem requestIn_serves (haddr : q.addr / 2 ^ 53 % 8 < 4) (hneeds : needsConn s q = true) (hmem : s.memDom = .on)
    (hconn : s.net.conns.contains q.scube = true) {t : State}
    (hserve : serveRequest (dropInbox { s with net := { s.net with conns := q.scube :: s.net.conns.erase q.scube } } k) q = some t) :
    requestIn s k q = t := by
  rw [requestIn, if_neg (Nat.not_le.mpr haddr), hneeds, if_pos rfl, if_neg fun h => h hmem, hconn, if_pos rfl, serveOrWait, hserve]

theorem needsConn_of_kind (hs : q.scube ≠ cubeId s) (hkind : q.kind = 6 ∨ q.kind = 9) : needsConn s q = true := by
  rw [needsConn, bne_iff_ne.mpr hs, Bool.true_and]
  rcases hkind with h | h
  · rw [h]
    rfl
  · rw [h]
    rfl

/-! ## Plans (R412 to R414) -/

/-- A contribution that is ahead of its node is left where it is. -/
theorem reduceArrival_early {bs : List (Byte × Bool)} {j i : Nat} (hq : s.net.inbox[k]? = some q) (hkind : q.kind = 7) (hpl : q.payload = .data bs)
    (hen : planEn s q.spart q.plan = true) (hplace : contribPlace s q = some (j, i))
    (hearly : instBefore (nodeCur s q.spart q.plan j) q.inst = true) : reduceArrival s k = s := by
  rw [reduceArrival, hq]
  dsimp only
  rw [hkind, hpl, beq_self_eq_true]
  dsimp only
  rw [if_neg (by rw [hen]; decide), hplace]
  exact if_pos hearly

/-- It waits in the inbox. -/
theorem planIn_early {bs : List (Byte × Bool)} {j i : Nat} (hq : s.net.inbox[k]? = some q) (htaken : q.taken = false) (hkind : q.kind = 7)
    (hpl : q.payload = .data bs) (hen : planEn s q.spart q.plan = true) (hplace : contribPlace s q = some (j, i))
    (hearly : instBefore (nodeCur s q.spart q.plan j) q.inst = true) :
    ∃ w b a, planIn s k q = { s with net :=
      { s.net with windows := w, winBase := b, answers := a, inbox := s.net.inbox.set k { q with taken := true } } } := by
  obtain ⟨w, b, a, hmark⟩ := mark_eq s q
  have hstay : reduceArrival (mark s q) k = mark s q := by
    rw [hmark]
    exact reduceArrival_early hq hkind hpl hen hplace hearly
  have hq' : (mark s q).net.inbox[k]? = some q := by
    rw [hmark]
    exact hq
  refine ⟨w, b, a, ?_⟩
  rw [planIn, htaken, if_neg Bool.false_ne_true, hkind, if_pos rfl, if_neg (by decide), hstay, if_pos hq', hmark]

/-- A copy of a plan that is not enabled is refused. -/
theorem multicastReceive_off {bs : List (Byte × Bool)} (hq : s.net.inbox[k]? = some q) (hkind : q.kind = 8) (hpl : q.payload = .data bs)
    (hen : planEn s q.spart q.plan = false) : multicastReceive s k = refuse (dropInbox s k) q 4 0x14 := by
  have hen' : planEn (dropInbox s k) q.spart q.plan = false := hen
  rw [multicastReceive, hq]
  dsimp only
  rw [hkind, hpl, beq_self_eq_true]
  dsimp only
  split
  · next h => exact absurd (h.symm.trans hen') (by decide)
  · rfl

theorem planIn_off {bs : List (Byte × Bool)} (hq : s.net.inbox[k]? = some q) (htaken : q.taken = false) (hkind : q.kind = 8)
    (hpl : q.payload = .data bs) (hen : planEn s q.spart q.plan = false) : planIn s k q = refuse (dropInbox (mark s q) k) q 4 0x14 := by
  obtain ⟨w, b, a, hmark⟩ := mark_eq s q
  have hoff : multicastReceive (mark s q) k = refuse (dropInbox (mark s q) k) q 4 0x14 := by
    rw [hmark]
    exact multicastReceive_off hq hkind hpl hen
  rw [planIn, htaken, if_neg Bool.false_ne_true, if_pos hkind, if_neg (by rw [hkind]; decide), hoff]

/-- An abort of a plan (R414). -/
theorem packetTaken_abort {p pl inst cause : Nat} (hq : s.net.inbox[k]? = some q) (hd : q.dcube = cubeId s) (hnet : netDown s = false)
    (hvia : q.via = 16) (hfresh : seqCase s q = .fresh) (hkind : q.kind = 12) (hpl : q.payload = .abort p pl inst cause) :
    packetTaken s k = abortTold (respond (mark (dropInbox s k) q) q 1 0) p pl inst cause q.scube := by
  rw [packetTaken_control hq hd hkind, controlIn, hpl]
  dsimp only
  rw [takeFresh_fresh hq rfl hd hnet hvia hfresh]
  dsimp only
  rw [ocmIn, hpl]

/-- The connection of a source is cached, and its held packets come first. -/
theorem fetchDone_clean {c : Nat} (hf : s.net.fetching.contains c = true) (hmem : s.memDom = .on) (hl : s.latent = []) (he : s.softErr = [])
    (hp : poisonedAt s (recordAt s c) 4096 = false) : fetchDone s c = { s with net :=
      { s.net with conns := cacheConn s c, fetching := s.net.fetching.erase c, missBuf := s.net.missBuf.filter fun q => !(q.scube == c),
                   inbox := (s.net.missBuf.filter fun q => q.scube == c) ++ s.net.inbox } } := by
  rw [fetchDone, if_pos ⟨hf, hmem⟩, findErrors_of_noErrors hl he]
  dsimp only
  rw [hp, if_neg Bool.false_ne_true]

end arrivals

/-! ## Answers and retries (R307, R407) -/

/-- What a response of a code does with the packet that it answers. -/
def answerTaken (s : State) (x : Sent) (code cause : Nat) (bs : List (Byte × Bool)) : State := match code with
  | 0 => ackSent s x 0 bs
  | 1 => ackSent s x cause bs
  | 2 => nakRetry s x
  | 3 => failSent s x 0x11
  | _ => failSent s x cause

section answers
variable {s : State} {k : Nat} {q : Packet} {x : Sent}

theorem acknowledge_resp {code cause : Nat} {bs : List (Byte × Bool)} (hq : s.net.inbox[k]? = some q) (hkind : q.kind = 10) (hws : s.ws = .full)
    (hcomp : s.comp = .run) (hsent : sentFor (dropInbox s k) q = some x) (hpl : q.payload = .resp code cause bs) :
    acknowledge s k = answerTaken (dropInbox s k) x code cause bs := by
  have hup : ¬ (q.kind ≠ 10 ∨ s.ws = .off ∨ (s.ws = .boot ∧ q.scube ≠ cubeId s)) := by
    rw [hkind, hws]
    simp
  have hrun : ¬ (localAgent x ∧ (dropInbox s k).comp ≠ .run ∧ (dropInbox s k).comp ≠ .quiesce) := fun h => h.2.1 hcomp
  rw [acknowledge, hq]
  dsimp only
  rw [if_neg hup, hpl]
  dsimp only
  rw [hsent]
  dsimp only
  exact if_neg hrun

theorem e2eTimeout_of (hx : s.net.retry[k]? = some x) (hoff : s.ws ≠ .off) (hboot : s.ws ≠ .boot) :
    e2eTimeout s k = if x.pkt.tryNo < 7 then resend s k { x with pkt := { x.pkt with tryNo := x.pkt.tryNo + 1 }, nak := false }
      else if x.pkt.kind = 7 then resend s k { x with nak := false }
      else failSent (if x.pkt.kind = 2 then s else messageEnded s x.pkt) x (if x.pkt.kind = 11 then 0x100 else 0x11) := by
  rw [e2eTimeout, hx]
  exact if_neg fun h => h.elim hoff hboot

/-- A write of an agent that counts it is acknowledged: one less is outstanding. -/
theorem ackSent_write {c sl : Nat} {cause : Nat} (hwho : x.who = some (c, sl)) (halso : x.also = none) (hcmd : x.cmd = none)
    (hcounted : x.counted = true) (hkind : x.pkt.kind = 4) {bs : List (Byte × Bool)} (hpl : x.pkt.payload = .data bs) :
    ackSent s x cause [] = ackOuts { s with net := { s.net with retry := s.net.retry.erase x } } c sl := by
  rw [ackSent, halso]
  dsimp only
  rw [ackOne, hwho, hkind, hpl, hcmd, hcounted]
  rfl

end answers

/-- Settles O48: what each packet, answer or timer does in the case that the rule names. -/
theorem packetEvents : Obligations.PacketEvents := by
  refine fun s k q => ⟨fun hq hd hnet hvia htaken hfwd hfresh => ⟨fun hs haddr hmem hconn hnext => ⟨fun size v t hkind hpl hserve => ?_,
      fun b kd n hkind hpl => ?_⟩, fun bs j i hkind hpl hen hplace hearly => ?_, fun bs hkind hpl hen => ?_, fun p pl inst cause hkind hpl => ?_⟩,
    fun hf hmem hl he hp => ⟨_, (exec_connectionFetchComplete k s).trans (congrArg Host.Outcome.next (fetchDone_clean hf hmem hl he hp)), rfl, rfl⟩,
    fun x hx hoff hboot => ⟨fun htry => ?_, fun htry h2 h7 => ?_, fun htry h7 => ?_, fun hnak => ?_⟩,
    fun x bs hq hkind hws hcomp hsent => ⟨fun hpl => ?_, fun hpl => ?_, fun hpl hnaks => ?_⟩,
    fun x c sl hq hkind hws hcomp hpl hsent hwho halso hcmd hcounted hxkind ⟨bs, hxpl⟩ => ?_, exec_messageCountExpiry k s,
    fun hoff hboot => (exec_arrivalFilterExpiry k s).trans (congrArg Host.Outcome.next (if_neg fun h => h.elim hoff hboot)), fun hkept hoff hboot => ?_⟩
  · have htake := (packetTaken_fresh hq hd hnet hvia htaken hfwd hfresh (by omega) (by omega)).trans ((if_neg (by omega)).trans (if_pos hnext))
    have hsv : serveRequest (dropInbox { s with net := { s.net with conns := q.scube :: s.net.conns.erase q.scube } } k) q = some t := by
      rw [serveRequest, hpl]
      exact hserve
    rw [requestIn_serves haddr (needsConn_of_kind hs (.inr hkind)) hmem hconn hsv] at htake
    exact (exec_reservationReleaseApply k s).trans (congrArg Host.Outcome.next
      ((receiveIf_of hq (by rw [hpl]; rfl)).trans ((packetReceive_of hq).trans (by rw [htake]))))
  · have htake := (packetTaken_fresh hq hd hnet hvia htaken hfwd hfresh (by omega) (by omega)).trans ((if_neg (by omega)).trans (if_pos hnext))
    have hsv : serveRequest (dropInbox { s with net := { s.net with conns := q.scube :: s.net.conns.erase q.scube } } k) q
        = some (serveBar (dropInbox { s with net := { s.net with conns := q.scube :: s.net.conns.erase q.scube } } k) q b kd n) := by
      rw [serveRequest, hpl]
    rw [requestIn_serves haddr (needsConn_of_kind hs (.inl hkind)) hmem hconn hsv] at htake
    exact (exec_remoteBarrierEvent k s).trans (congrArg Host.Outcome.next
      ((receiveIf_of hq (by rw [hkind]; rfl)).trans ((packetReceive_of hq).trans (by rw [htake]))))
  · have htake := (packetTaken_fresh hq hd hnet hvia htaken hfwd hfresh (by omega) (by omega)).trans (if_pos (.inl hkind))
    obtain ⟨w, b, a, hplan⟩ := planIn_early hq htaken hkind hpl hen hplace hearly
    refine ⟨_, (exec_reduceContributionArrival k s).trans (congrArg Host.Outcome.next
      ((receiveIf_of hq (by rw [hkind]; rfl)).trans (packetReceive_of hq))), ?_, ?_⟩
    · rw [writeThrough_net, htake, hplan]
    · rw [writeThrough_net, htake, hplan]
  · have htake := (packetTaken_fresh hq hd hnet hvia htaken hfwd hfresh (by omega) (by omega)).trans (if_pos (.inr hkind))
    exact (exec_multicastReceive k s).trans (congrArg Host.Outcome.next ((receiveIf_of hq (by rw [hkind]; rfl)).trans
      ((packetReceive_of hq).trans (by rw [htake, planIn_off hq htaken hkind hpl hen]))))
  · exact (exec_planAbort k s).trans (congrArg Host.Outcome.next ((receiveIf_of hq (by rw [hpl])).trans
      ((packetReceive_of hq).trans (by rw [packetTaken_abort hq hd hnet hvia hfresh hkind hpl]))))
  · exact (exec_e2eRetryTimeout k s).trans (congrArg Host.Outcome.next ((e2eTimeout_of hx hoff hboot).trans (if_pos htry)))
  · refine (exec_e2eRetryTimeout k s).trans (congrArg Host.Outcome.next ((e2eTimeout_of hx hoff hboot).trans ?_))
    rw [if_neg (by omega), if_neg h7, if_neg h2]
  · exact (exec_e2eRetryTimeout k s).trans (congrArg Host.Outcome.next ((e2eTimeout_of hx hoff hboot).trans ((if_neg (by omega)).trans (if_pos h7))))
  · refine (exec_nakRetryResend k s).trans (congrArg Host.Outcome.next ?_)
    rw [nakResend, hx]
    exact if_pos hnak
  · refine (exec_nakAbsentReceive k s).trans (congrArg Host.Outcome.next ?_)
    rw [hq]
    dsimp only
    rw [hpl]
    exact acknowledge_resp hq hkind hws hcomp hsent hpl
  · exact (exec_acknowledgementReceive k s).trans (congrArg Host.Outcome.next (acknowledge_resp hq hkind hws hcomp hsent hpl))
  · refine ⟨_, (exec_acknowledgementReceive k s).trans (congrArg Host.Outcome.next
      ((acknowledge_resp hq hkind hws hcomp hsent hpl).trans (if_neg (Nat.not_le.mpr hnaks)))), rfl⟩
  · exact ⟨{ dropInbox s k with net := { (dropInbox s k).net with retry := (dropInbox s k).net.retry.erase x } },
      (exec_acknowledgementReceive k s).trans (congrArg Host.Outcome.next ((acknowledge_resp hq hkind hws hcomp hsent hpl).trans
      (ackSent_write (s := dropInbox s k) hwho halso hcmd hcounted hxkind hxpl))), rfl, rfl⟩
  · refine (exec_bounceResend k s).trans (congrArg Host.Outcome.next ?_)
    rw [bounceResend, hkept]
    exact if_neg fun h => h.elim hoff hboot

end Sys2Proof.Machine
end

section
/-! PROOFS. Walks, invalidations, map changes, the loss of a cube and plans (R331, R335, R339 to R341, R404, R411). -/

namespace Sys2Proof.Machine

-- One proof after the other: side by side they take more threads and memory than the check of the whole text has.
set_option Elab.async false

/-! ## Walks (R331) -/

section walks
variable {s : State} {k c : Nat}

theorem walks_of_looks {s t : State} : Looks s t → t.walks = s.walks := by
  rintro ⟨_, _, _, _, _, _, _, rfl⟩
  rfl

theorem slots_of_looks {s t : State} : Looks s t → t.slots = s.slots := by
  rintro ⟨_, _, _, _, _, _, _, rfl⟩
  rfl

/-- No traveller of the core waits for a walk: none is asked for again. -/
theorem askAgain_none (h : ∀ sl w, (slot s c sl).wait = some w → ∀ va, w.cond ≠ .walk va) : askAgain s c = s := by
  have hstep : ∀ sl, (match (slot s c sl).wait with
      | some { word := _, cond := .walk va, reply := none } =>
        if s.walks.any (·.waiters.contains (c, sl)) then s else askWalk s c sl (slot s c sl).hdr.part (ea56 va)
      | _ => s) = s := by
    intro sl
    split
    · next hw => exact absurd rfl (h sl _ hw _)
    · rfl
  rw [askAgain]
  generalize slotsOf s c = l
  induction l with
  | nil => rfl
  | cons sl l ih => exact (congrArg (List.foldl _ · l) (hstep sl)).trans ih

theorem filter_not_contains {w : Walk} {l : List Walk} (h : ∀ v ∈ l, v.part ≠ w.part) : (l.filter fun v => ! [w].contains v) = l := by
  refine List.filter_eq_self.mpr fun v hv => ?_
  have hne : v ≠ w := fun he => h v hv (congrArg Walk.part he)
  simpa using hne

theorem tlbCap_pos (c : Nat) : 0 < tlbCap c := by
  unfold tlbCap
  split
  · decide
  · decide

theorem mem_tlbFill (s : State) (c : Nat) (e : TlbEntry) : e ∈ (core (tlbFill s c e) c).tlb := by
  rw [tlbFill, core_updCore, if_pos rfl]
  obtain ⟨n, hn⟩ := Nat.exists_eq_succ_of_ne_zero (tlbCap_pos c).ne'
  dsimp only
  rw [hn, List.take_succ_cons]
  exact List.mem_cons_self

/-- A walk that no other of its partition joins, asked for by one core. -/
theorem walkDone_fills {w : Walk} {e : TlbEntry} (hw : s.walks[k]? = some w) (hk : k < 64) (hmem : s.memDom = .on) (hwaiters : w.waiters = [])
    (hfills : w.fills = [c]) (hpart : ∀ v ∈ s.walks.eraseIdx k, v.part ≠ w.part)
    (hok : (walk { s with walks := s.walks.eraseIdx k } w.part w.va).2 = .ok e)
    (hask : ∀ sl w', (slot s c sl).wait = some w' → ∀ va, w'.cond ≠ .walk va) :
    walkDone s k = tlbFill { (walk { s with walks := s.walks.eraseIdx k } w.part w.va).1 with walks := s.walks.eraseIdx k } c e := by
  have hlooks := looks_walk { s with walks := s.walks.eraseIdx k } w.part w.va
  have hwalks : (walk { s with walks := s.walks.eraseIdx k } w.part w.va).1.walks = s.walks.eraseIdx k := (walks_of_looks hlooks :)
  have hslots : (walk { s with walks := s.walks.eraseIdx k } w.part w.va).1.slots = s.slots := (slots_of_looks hlooks :)
  have hjoin : joinedTo (walk { s with walks := s.walks.eraseIdx k } w.part w.va).1 w (.ok e) = [] := by
    rw [joinedTo, hwalks]
    refine List.filter_eq_nil_iff.mpr fun v hv h => ?_
    exact hpart v hv (beq_iff_eq.mp (Bool.and_eq_true_iff.mp h).1)
  rw [walkDone, hw]
  dsimp only
  rw [if_neg fun h => h.elim (Nat.not_le.mpr hk) fun h => h hmem, hok, hjoin, hwalks, filter_not_contains hpart, List.foldl_cons, List.foldl_nil,
    finishWalk, hfills, hwaiters]
  dsimp only
  rw [List.flatMap_cons, List.flatMap_nil, List.append_nil, hwaiters, List.flatMap_cons, List.flatMap_nil, List.append_nil, hfills]
  exact askAgain_none fun sl w' h => hask sl w' ((congrArg Slot.wait (slot_of_same c sl hslots)).symm.trans h)

end walks

/-! ## Map changes (R340, R341, R404) -/

section changes
variable {s : State} {k : Nat} {q : Packet} {a : Agent} {ch : MapChange}

theorem mapIssued_of_sends {s t : State} (h : Sends s t) : t.net.mapIssued = s.net.mapIssued := show (withoutTraffic t.net).mapIssued = _ by rw [h.net]; rfl
theorem mapNext_of_sends {s t : State} (h : Sends s t) : t.net.mapNext = s.net.mapNext := show (withoutTraffic t.net).mapNext = _ by rw [h.net]; rfl
theorem mapApplied_of_sends {s t : State} (h : Sends s t) : t.net.mapApplied = s.net.mapApplied := show (withoutTraffic t.net).mapApplied = _ by rw [h.net]; rfl
theorem stripe_of_sends {s t : State} (h : Sends s t) : t.stripe = s.stripe := by rw [h.state]

theorem mapIssued_issueChange (s : State) (ch : MapChange) : (issueChange s ch).net.mapIssued = s.net.mapIssued ++ [ch] :=
  (mapIssued_of_sends (sends_sendOcm ..) :)

/-- What is accepted with an answer has left the inbox for its window. -/
theorem sends_accepted (s : State) (q : Packet) (k : Nat) : Sends s (mark (dropInbox s k) q) := (sends_dropInbox s k).trans (sends_mark ..)

/-- The sequencer's map is that of the state before the packet was accepted. -/
theorem seqCubeFor_accepted (s : State) (q : Packet) (k : Nat) (ch : MapChange) : seqCubeFor (mark (dropInbox s k) q) ch = seqCubeFor s ch := by
  obtain ⟨w, b, a, h⟩ := mark_eq (dropInbox s k) q
  rw [h]
  rfl

theorem cubeId_accepted (s : State) (q : Packet) (k : Nat) : cubeId (mark (dropInbox s k) q) = cubeId s := by
  obtain ⟨w, b, a, h⟩ := mark_eq (dropInbox s k) q
  rw [h]
  rfl

theorem changeFits_accepted (s : State) (q : Packet) (k : Nat) (ch : MapChange) : changeFits (mark (dropInbox s k) q) ch = changeFits s ch := by
  obtain ⟨w, b, a, h⟩ := mark_eq (dropInbox s k) q
  rw [h]
  rfl

section sequence
variable {i : Nat} (hq : s.net.inbox[k]? = some q) (hd : q.dcube = cubeId s) (hnet : netDown s = false) (hvia : q.via = 16)
  (hfresh : seqCase s q = .fresh)
include hq hd hnet hvia hfresh

/-- A change that another cube must number, or that does not fit the map, is refused. -/
theorem mapSequence_refuses (hpl : q.payload = .change none i ch) (happ : s.net.mapApplied = s.net.mapNext)
    (hbad : seqCubeFor s ch ≠ cubeId s ∨ changeFits s ch = false) : mapSequence s k = respond (mark (dropInbox s k) q) q 4 0 := by
  rw [mapSequence, if_neg fun h => h happ, takeFresh_fresh hq (by rw [hpl]) hd hnet hvia hfresh]
  dsimp only
  rw [hpl]
  exact if_pos (by rwa [seqCubeFor_accepted, cubeId_accepted, changeFits_accepted])

/-- A change that fits is numbered. -/
theorem mapNext_mapSequence (hpl : q.payload = .change none i ch) (happ : s.net.mapApplied = s.net.mapNext)
    (hseq : seqCubeFor s ch = cubeId s) (hfits : changeFits s ch = true) : (mapSequence s k).net.mapNext = s.net.mapNext + 1 := by
  have hgood : ¬ (seqCubeFor (mark (dropInbox s k) q) ch ≠ cubeId (mark (dropInbox s k) q) ∨ changeFits (mark (dropInbox s k) q) ch = false) := by
    rw [seqCubeFor_accepted, cubeId_accepted, changeFits_accepted, hseq, hfits]
    simp
  rw [mapSequence, if_neg fun h => h happ, takeFresh_fresh hq (by rw [hpl]) hd hnet hvia hfresh]
  dsimp only
  rw [hpl]
  dsimp only
  rw [if_neg hgood, mapNext_of_sends (Sends.foldl (fun s d => sends_sendOcm s d _) _ _)]
  dsimp only
  rw [mapNext_of_sends ((sends_accepted s q k).trans (sends_respond ..))]

/-- The next change is applied. -/
theorem mapApply_applies (hpl : q.payload = .change (some s.net.mapApplied) i ch) :
    mapApply s k = applyChange (respond (mark (dropInbox s k) q) q 1 0) i ch := by
  rw [mapApply, takeFresh_fresh hq (by rw [hpl]; exact decide_eq_true (Nat.le_refl _)) hd hnet hvia hfresh]
  dsimp only
  rw [hpl]
  exact if_pos (mapApplied_of_sends ((sends_accepted s q k).trans (sends_respond ..))).symm

end sequence

theorem up_of_wsDown (h : wsDown s = false) : s.ws ≠ .off ∧ s.ws ≠ .boot := by
  rw [wsDown, Bool.or_eq_false_iff] at h
  exact ⟨by simpa using h.1, by simpa using h.2⟩

/-- A read that is charged leaves the map as it is. -/
theorem stripe_charged (s : State) (pa n m k c f : Nat) : (charge (findErrors s pa n 0 0) m k c f).stripe = s.stripe := by
  obtain ⟨d, b, l, h⟩ := charge_eq (findErrors s pa n 0 0) m k c f false
  obtain ⟨_, _, _, _, _, _, _, hlook⟩ := looks_findErrors s pa n 0 0
  rw [h, hlook]

/-- Granule `g` of entry `n` is on its way, and its pieces are read. -/
def granuleRead (s : State) (n g : Nat) : State :=
  (oldParts s (stripeAt s n) g).foldl (fun u (q : Nat × Nat) =>
    charge (findErrors u (dramPa q.1 q.2) (pieceLen (stripeAt s n)) 0 0) (1280 + q.1) 25 (pieceLen (stripeAt s n) / 64) 0)
    (putStripe s n { stripeAt s n with copying := (stripeAt s n).copying ++ [g] })

theorem stripe_granuleRead (s : State) (n g : Nat) :
    (granuleRead s n g).stripe = mput {} s.stripe n { stripeAt s n with copying := (stripeAt s n).copying ++ [g] } :=
  foldl_keeps (·.stripe) _ (fun s (_ : Nat × Nat) => stripe_charged s _ _ _ _ _ _) _ _

/-- A granule that may be copied goes to the cube that will hold it. -/
theorem granuleCopy_sends {n g : Nat} (hst : (stripeAt s n).state = 1) (hroom : (stripeAt s n).copying.length < 64) (hmem : s.memDom = .on)
    (hws : wsDown s = false) (hres : granuleReserved s (stripeAt s n) g = false) (hnext : nextGranule s (stripeAt s n) = some g)
    (hdead : memberDead (memberFor s (stripeAt s n).oset g) = false) :
    granuleCopy s n = sendOcm (granuleRead s n g) (memberCube (memberFor (granuleRead s n g) (stripeAt s n).nset g)) (.granule n g
      ((oldParts s (stripeAt s n) g).flatMap fun q => bytesAt (granuleRead s n g) (dramPa q.1 q.2) (pieceLen (stripeAt s n)))) := by
  obtain ⟨hoff, hboot⟩ := up_of_wsDown hws
  have hgo : ¬ ((stripeAt s n).state ≠ 1 ∨ 64 ≤ (stripeAt s n).copying.length ∨ s.memDom ≠ .on ∨ s.ws = .off ∨ s.ws = .boot) := by
    simp [hst, hroom, hmem, hoff, hboot]
  rw [granuleCopy]
  refine (if_neg hgo).trans ?_
  rw [hnext]
  exact (if_neg (ne_true_of_eq_false hres)).trans ((if_neg (ne_true_of_eq_false hdead)).trans rfl)

/-- The first acknowledgement of a granule. -/
theorem copyAck_moves {n g : Nat} {b : Byte × Bool} {bs : List (Byte × Bool)} {x : Sent} (hq : s.net.inbox = [q]) (hkind : q.kind = 10)
    (hpl : q.payload = .resp 1 0 []) (hws : s.ws = .full) (hsent : sentFor s q = some x) (hwho : x.who = none) (halso : x.also = none)
    (hxkind : x.pkt.kind = 12) (hxpl : x.pkt.payload = .granule n g (b :: bs)) (hcomp : s.comp = .run) :
    copyAck s n = granuleMoved { s with net := { s.net with inbox := [], retry := s.net.retry.erase x } } n g := by
  have hfind : s.net.inbox.findIdx? (fun q => q.kind == 10 && (match sentFor s q with
      | some x => (match x.pkt.payload with | .granule i _ (_ :: _) => i == n | _ => false)
      | none => false)) = some 0 := by
    rw [hq]
    simp [List.findIdx?_cons, hkind, hsent, hxpl]
  have hdrop : dropInbox s 0 = { s with net := { s.net with inbox := [] } } := by
    rw [dropInbox, hq]
    rfl
  have hack := acknowledge_resp (k := 0) (by rw [hq]; rfl) hkind hws hcomp hsent hpl
  refine Eq.trans ?_ (hack.trans ?_)
  · rw [copyAck]
    exact congrArg (fun o => match o with | some k => acknowledge s k | none => s) hfind
  · rw [answerTaken, ackSent, halso]
    dsimp only
    rw [ackOne, hxkind, hxpl, hwho, hdrop]
    rfl

/-- The island of its lowest live link peer declares a lost cube dead in the set that names it. -/
theorem cubeLoss_declares {n i : Nat} {ms : List (BitVec 16)} (hon : regField s islandBlk 0x0008 19 19 = 1) (haway : linksAway s n = true)
    (hlong : mget 0 s.net.away n + regField s islandBlk 0x0008 31 20 * 2100000 ≤ longNow s)
    (hsilent : mget 0 s.net.heard n + regField s islandBlk 0x0008 31 20 * 2100000 ≤ longNow s)
    (hfirst : ((allCubes s).find? fun c => c != n && wasPeer s c n) = some (cubeId s)) (hws : wsDown s = false) (hsets : s.sets = [(i, ms)])
    (hm : ∃ m ∈ ms, memberCube m = n ∧ memberDead m = false) :
    cubeLoss s n = issueChange s (setChange i (ms.map fun m => if memberCube m = n then m ||| 0x8000 else m)) := by
  have hany : (ms.any fun m => memberCube m == n && !memberDead m) = true := by
    obtain ⟨m, hmem, hcube, hdead⟩ := hm
    exact List.any_eq_true.mpr ⟨m, hmem, by simp [hcube, hdead]⟩
  rw [cubeLoss, if_pos ⟨hon, by rw [haway, decide_eq_true hlong]; rfl, decide_eq_true hsilent, hfirst, hws⟩, hsets, List.foldl_cons, List.foldl_nil]
  exact if_pos hany

end changes

/-! ## Plans (R411) -/

section plans
variable {s : State} {p k hi lo hi' lo' v j : Nat}

theorem planOf_putPlan (s : State) (p k : Nat) (v : BitVec 128) : planOf (putPlan s p k v) p k = v := mget_mput_same ..

theorem planOf_putPlanField (s : State) (p k : Nat) (v : Nat) (h : lo ≤ hi) (hhi : hi < 128) :
    (planOf (putPlanField s p k hi lo v) p k).toNat = setBits (planOf s p k).toNat hi lo v := by
  rw [putPlanField, planOf_putPlan, BitVec.toNat_ofNat, Nat.mod_eq_of_lt (setBits_lt h hhi (planOf s p k).isLt)]

theorem planField_putPlanField_same (s : State) (p k : Nat) (v : Nat) (h : lo ≤ hi) (hhi : hi < 128) :
    planField (putPlanField s p k hi lo v) p k hi lo = v % 2 ^ (hi + 1 - lo) := by
  rw [planField, planOf_putPlanField s p k v h hhi, bitsOf_setBits_same h]

theorem planField_putPlanField_disjoint (s : State) (p k : Nat) (v : Nat) (h : lo ≤ hi) (hhi : hi < 128) (hd : hi < lo' ∨ hi' < lo) :
    planField (putPlanField s p k hi lo v) p k hi' lo' = planField s p k hi' lo' := by
  rw [planField, planOf_putPlanField s p k v h hhi, bitsOf_setBits_disjoint h hd, planField]

/-- CUR lies in the entry's upper double. -/
theorem planField_setCur (s : State) (p k j v : Nat) (h : hi < 64) : planField (setCur s p k j v) p k hi lo = planField s p k hi lo := by
  unfold setCur
  dsimp only
  split
  · exact planField_putPlanField_disjoint _ p k _ (by decide) (by decide) (.inr h)
  · rfl

/-- The low double of an enabled plan, but for EN and ERR, is as it was. -/
theorem planField_enablePlan (s : State) (p k : Nat) (h : hi < 64) :
    planField (enablePlan s p k) p k hi lo = bitsOf (setBits (setBits (planOf s p k).toNat 51 51 0) 0 0 1) hi lo := by
  have hcur : ∀ (l : List Nat) (s : State), planField (l.foldl (fun s j => setCur s p k j 0) s) p k hi lo = planField s p k hi lo :=
    fun l s => foldl_keeps (fun s => planField s p k hi lo) _ (fun s j => planField_setCur s p k j 0 h) l s
  rw [enablePlan]
  dsimp only
  refine (foldl_keeps (fun s => planField s p k hi lo) _ (fun s c => ?_) _ _).trans ?_
  · rfl
  rw [hcur, planField_putPlanField_disjoint _ p k _ (by decide) (by decide) (.inr h), planField, planOf_putPlan, BitVec.toNat_ofNat,
    Nat.mod_eq_of_lt (setBits_lt (by decide) (by decide) (setBits_lt (by decide) (by decide) (planOf s p k).isLt))]

theorem planEn_enablePlan (s : State) (p k : Nat) : planEn (enablePlan s p k) p k = true := by
  rw [planEn, planField_enablePlan s p k (by decide), bitsOf_setBits_same (Nat.le_refl 0)]
  rfl

theorem err_enablePlan (s : State) (p k : Nat) : planField (enablePlan s p k) p k 51 51 = 0 := by
  rw [planField_enablePlan s p k (by decide), bitsOf_setBits_disjoint (Nat.le_refl 0) (.inl (by decide)), bitsOf_setBits_same (Nat.le_refl 51)]
  rfl

/-- The entry with the low bits `x` written: the upper double and ERR stay. -/
def planLow (s : State) (p k x : Nat) : BitVec 128 :=
  BitVec.ofNat 128 ((planOf s p k).toNat / 2 ^ 64 * 2 ^ 64 + (planOf s p k).toNat / 2 ^ 51 % 2 * 2 ^ 51 + x)

theorem planEn_putPlan_low (s : State) (p k x : Nat) : planEn (putPlan s p k (planLow s p k x)) p k = (x % 2 == 1) := by
  have hmod : planField (putPlan s p k (planLow s p k x)) p k 0 0 = x % 2 := by
    rw [planField, planOf_putPlan, planLow, BitVec.toNat_ofNat, bitsOf]
    omega
  rw [planEn, hmod]

section writes
variable {a : Agent} {sel : Nat} (hown : ownerOk s a = true) (hsel : sel = (getReg s islandBlk 0x0800).toNat) (hp : sel % 32 < 24)
  (hzero : sel / 2 ^ 12 % 4 = 0)
include hown hsel hp hzero

/-- A write of the low double of the plan entry that is selected. -/
theorem plnWrite_low (v : Word) : plnWrite s a v =
    if (v.toNat &&& planMask) % 2 = 1 then
      if planEn s (sel % 32) (sel / 32 % 64) then putPlan s (sel % 32) (sel / 32 % 64) (planLow s (sel % 32) (sel / 32 % 64) (v.toNat &&& planMask))
      else if planFits (putPlan s (sel % 32) (sel / 32 % 64) (planLow s (sel % 32) (sel / 32 % 64) ((v.toNat &&& planMask) - 1))) (sel % 32) (sel / 32 % 64)
        then enablePlan (putPlan s (sel % 32) (sel / 32 % 64) (planLow s (sel % 32) (sel / 32 % 64) ((v.toNat &&& planMask) - 1))) (sel % 32) (sel / 32 % 64)
        else putPlanField (putPlan s (sel % 32) (sel / 32 % 64) (planLow s (sel % 32) (sel / 32 % 64) ((v.toNat &&& planMask) - 1))) (sel % 32) (sel / 32 % 64) 51 51 1
    else if planEn s (sel % 32) (sel / 32 % 64) then
      putPlan (abortPlan s (sel % 32) (sel / 32 % 64) 0x14) (sel % 32) (sel / 32 % 64)
        (BitVec.ofNat 128 (setBits (planOf (abortPlan s (sel % 32) (sel / 32 % 64) 0x14) (sel % 32) (sel / 32 % 64)).toNat 50 0 (v.toNat &&& planMask)))
    else putPlan s (sel % 32) (sel / 32 % 64) (planLow s (sel % 32) (sel / 32 % 64) (v.toNat &&& planMask)) := by
  subst hsel
  have hgo : ¬ (!ownerOk s a || decide (24 ≤ (getReg s islandBlk 0x0800).toNat % 32)) = true := by
    rw [hown, decide_eq_false (Nat.not_le.mpr hp)]
    decide
  rw [plnWrite]
  dsimp only
  rw [if_neg hgo, hzero] <;> rfl

end writes

theorem odd_and_planMask (v : Word) : ((v ||| 1).toNat &&& planMask) % 2 = 1 := by
  have h : ((v ||| 1).toNat &&& planMask).testBit 0 = true := by
    rw [Nat.testBit_and, BitVec.testBit_toNat, BitVec.getLsbD_or]
    simp [planMask]
  simpa using h

theorem even_and_planMask (v : Word) : ((v &&& ~~~1).toNat &&& planMask) % 2 = 0 := by
  have h : ((v &&& ~~~1).toNat &&& planMask).testBit 0 = false := by
    rw [Nat.testBit_and, BitVec.testBit_toNat, BitVec.getLsbD_and, BitVec.getLsbD_not]
    simp
  rw [Nat.testBit_zero, decide_eq_false_iff_not] at h
  omega

end plans

theorem mod_two_of_odd {w : Nat} (h : w % 2 = 1) : (w - 1) % 2 = 0 := by omega

/-- ERR alone of a plan that cannot be enabled is set. -/
theorem putPlanField_err (s : State) (p k : Nat) :
    planField (putPlanField s p k 51 51 1) p k 51 51 = 1 ∧ planEn (putPlanField s p k 51 51 1) p k = planEn s p k := by
  refine ⟨planField_putPlanField_same s p k 1 (by decide) (by decide), ?_⟩
  rw [planEn, planField_putPlanField_disjoint s p k 1 (by decide) (by decide) (.inr (by decide)), planEn]

/-- A write of the low double decides EN. -/
theorem planEn_putPlan_setBits (s : State) (p k : Nat) {x w : Nat} (hx : x < 2 ^ 128) :
    planEn (putPlan s p k (BitVec.ofNat 128 (setBits x 50 0 w))) p k = (w % 2 == 1) := by
  have hmod : planField (putPlan s p k (BitVec.ofNat 128 (setBits x 50 0 w))) p k 0 0 = w % 2 := by
    rw [planField, planOf_putPlan, BitVec.toNat_ofNat, Nat.mod_eq_of_lt (setBits_lt (by decide) (by decide) hx), setBits, bitsOf]
    omega
  rw [planEn, hmod]

/-- A write that clears EN, whether or not it was set. -/
theorem planEn_plnWrite_even {s : State} {a : Agent} {sel : Nat} {v : Word} (hown : ownerOk s a = true) (hsel : sel = (getReg s islandBlk 0x0800).toNat)
    (hp : sel % 32 < 24) (hzero : sel / 2 ^ 12 % 4 = 0) (hv : (v.toNat &&& planMask) % 2 = 0) :
    planEn (plnWrite s a v) (sel % 32) (sel / 32 % 64) = false := by
  rw [plnWrite_low hown hsel hp hzero, if_neg (by omega)]
  split
  · rw [planEn_putPlan_setBits _ _ _ (BitVec.isLt _), hv]
    rfl
  · rw [planEn_putPlan_low, hv]
    rfl

/-- Settles O49: walks by what they leave alone, map changes by what sending keeps, plans by the bits of their entries. -/
theorem mapEvents : Obligations.MapEvents := by
  refine fun s k n a ch q => ⟨fun w c e hw hk hmem hwaiters hfills hpart hok hask => ?_, fun hout => ?_, fun v hq hout => ?_,
    fun hown => ⟨_, (exec_mapChangeIssue a ch s).trans (congrArg Host.Outcome.next (if_pos hown)), mapIssued_issueChange s ch⟩,
    fun hown => (exec_mapChangeIssue a ch s).trans (congrArg Host.Outcome.next (if_neg (ne_true_of_eq_false hown))),
    fun i hq hd hnet hvia hfresh hpl happ => ⟨fun hbad => ?_, fun hseq hfits => ?_⟩, fun i hq hd hnet hvia hfresh hpl => ?_,
    fun g hst hroom hmem hws hres hnext hdead => ?_, fun g b bs x hq hkind hpl hws hsent hwho halso hxkind hxpl hcomp => ?_,
    fun i ms hon haway hlong hsilent hfirst hws hsets hm => ?_, fun hown hp hzero v => ?_⟩
  · refine ⟨_, (exec_walkComplete k s).trans (congrArg Host.Outcome.next (walkDone_fills hw hk hmem hwaiters hfills hpart hok hask)), rfl, ?_⟩
    exact mem_tlbFill ..
  · refine (exec_xlinvComplete s).trans (congrArg Host.Outcome.next ?_)
    rw [xlinvDone]
    exact if_pos (by simpa using hout)
  · refine (exec_xlinvComplete s).trans (congrArg Host.Outcome.next ?_)
    rw [xlinvDone, hout, hq]
    rfl
  · exact (exec_mapChangeSequence k s).trans (congrArg Host.Outcome.next (mapSequence_refuses hq hd hnet hvia hfresh hpl happ hbad))
  · exact ⟨_, exec_mapChangeSequence k s, mapNext_mapSequence hq hd hnet hvia hfresh hpl happ hseq hfits⟩
  · exact (exec_mapChangeApply k s).trans (congrArg Host.Outcome.next (mapApply_applies hq hd hnet hvia hfresh hpl))
  · refine ⟨_, (exec_restripeGranuleCopy n s).trans (congrArg Host.Outcome.next (granuleCopy_sends hst hroom hmem hws hres hnext hdead)), ?_⟩
    rw [stripeAt, stripe_of_sends (sends_sendOcm ..), stripe_granuleRead, mget_mput_same]
    exact List.mem_append_right _ (List.mem_singleton_self g)
  · exact (exec_restripeCopyAck n s).trans (congrArg Host.Outcome.next
      (copyAck_moves hq hkind hpl hws hsent hwho halso hxkind hxpl hcomp))
  · exact (exec_cubeLossTimer n s).trans (congrArg Host.Outcome.next (cubeLoss_declares hon haway hlong hsilent hfirst hws hsets hm))
  · have hodd := odd_and_planMask v
    have hwrite := (plnWrite_low hown rfl hp hzero (v ||| 1)).trans (if_pos hodd)
    refine ⟨fun hen hfits => ⟨?_, planEn_enablePlan .., err_enablePlan ..⟩, fun hen hfits => ⟨?_, (putPlanField_err ..).1, ?_⟩, fun hen => ?_,
      ⟨_, exec_planDisable a v s, planEn_plnWrite_even hown rfl hp hzero (even_and_planMask v)⟩⟩
    · exact (exec_planEnable a v s).trans (congrArg Host.Outcome.next
        (hwrite.trans ((if_neg (ne_true_of_eq_false hen)).trans (if_pos hfits))))
    · exact (exec_planEnable a v s).trans (congrArg Host.Outcome.next
        (hwrite.trans ((if_neg (ne_true_of_eq_false hen)).trans (if_neg (ne_true_of_eq_false hfits)))))
    · refine (putPlanField_err ..).2.trans ((planEn_putPlan_low ..).trans ?_)
      rw [mod_two_of_odd hodd]
      rfl
    · refine ⟨_, (exec_planEnable a v s).trans (congrArg Host.Outcome.next (hwrite.trans (if_pos hen))), (planEn_putPlan_low ..).trans ?_⟩
      rw [hodd]
      rfl

end Sys2Proof.Machine
end

section
/-! PROOFS. Lantern slots, rounds and probes (R320 to R323). -/

namespace Sys2Proof.Machine

-- One proof after the other: side by side they take more threads and memory than the check of the whole text has.
set_option Elab.async false

section lantern
variable {s : State} {p sl k : Nat}

theorem slotOf_index (p : Nat) {sl : Nat} (h : sl < 16) : (p * 16 + sl) / 16 = p ∧ (p * 16 + sl) % 16 = sl := by omega

theorem lantern_putLantern (s : State) (p sl : Nat) (l : Lantern) : lantern (putLantern s p sl l) p sl = l := mget_mput_same ..

/-! ## A slot's registers (R320) -/

theorem slotWrite_enables {a : Agent} {v : Word} (hp : p < 24) (hsl : sl < 16) (hown : ownerOk s a = true) (hen : (lantern s p sl).en = false)
    (hv : v.getLsbD 29 = true) : slotWrite s a (p * 16 + sl) 0 v = putLantern s p sl
      { lantern s p sl with
        entry := v.toNat % 65536
        next := bitsOf v.toNat 27 16
        lead := v.getLsbD 28
        en := true
        round := 0
        black := false
        done := false
        probe := none
        out := false } := by
  obtain ⟨hdiv, hmod⟩ := slotOf_index p hsl
  have hgo : ¬ (!ownerOk s a || decide (24 ≤ p) || decide (2 ≤ 0)) = true := by
    rw [hown, decide_eq_false (Nat.not_le.mpr hp)]
    decide
  rw [slotWrite]
  dsimp only
  rw [hdiv, hmod, if_neg hgo, if_neg (by decide), hen, if_neg Bool.false_ne_true, hv, if_pos rfl]

theorem slotWrite_timeout {a : Agent} {v : Word} (hp : p < 24) (hsl : sl < 16) (hown : ownerOk s a = true) (hen : (lantern s p sl).en = false) :
    slotWrite s a (p * 16 + sl) 1 v = putLantern s p sl { lantern s p sl with tmo := v.toNat % 65536 } := by
  obtain ⟨hdiv, hmod⟩ := slotOf_index p hsl
  have hgo : ¬ (!ownerOk s a || decide (24 ≤ p) || decide (2 ≤ 1)) = true := by
    rw [hown, decide_eq_false (Nat.not_le.mpr hp)]
    decide
  rw [slotWrite]
  dsimp only
  rw [hdiv, hmod, if_neg hgo, if_pos rfl, hen, if_neg Bool.false_ne_true]

/-! ## Rounds (R321) -/

theorem roundStart_starts (hen : (lantern s p sl).en = true) (hlead : (lantern s p sl).lead = true) (hout : (lantern s p sl).out = false)
    (hround : phaseRound s p sl = true) (hws : wsDown s = false) : roundStart s p sl = startRound s p sl := by
  rw [roundStart]
  exact if_pos (by rw [hen, hlead, hout, hround, hws]; rfl)

theorem lanternTimeout_starts (hen : (lantern s p sl).en = true) (hlead : (lantern s p sl).lead = true) (hout : (lantern s p sl).out = true)
    (htmo : (lantern s p sl).tmo ≠ 0) (hws : wsDown s = false) : lanternTimeout s p sl = startRound s p sl := by
  rw [lanternTimeout]
  exact if_pos (by rw [hen, hlead, hout, hws, bne_iff_ne.mpr htmo]; rfl)

/-- A held probe goes on, with the count added. -/
theorem probeRelease_goes {n : Int} {black : Bool} (hprobe : (lantern s p sl).probe = some (n, black)) (hen : (lantern s p sl).en = true)
    (hws : wsDown s = false) (hround : phaseRound s p sl = true) :
    probeRelease s p sl = sendLantern (putLantern s p sl { lantern s p sl with black := false, probe := none }) p sl
      (.probe p sl (lantern s p sl).round (BitVec.ofInt 64 (n + lanternCount s p)).toInt (black || (lantern s p sl).black)) := by
  rw [probeRelease]
  dsimp only
  rw [hprobe]
  exact if_neg (by rw [hen, hws, hround]; simp)

/-! ## Packets of a slot (R320 to R322) -/

section packets
variable {q : Packet} {n : Int} {black : Bool} (hq : s.net.inbox[k]? = some q) (hd : q.dcube = cubeId s) (hnet : netDown s = false)
  (hvia : q.via = 16) (hfresh : seqCase s q = .fresh)
include hq hd hnet hvia hfresh

theorem takeFresh_probe {lead : Bool} {round : Nat} (hpl : q.payload = .probe p sl round n black) (hlead : (lantern s p sl).lead = lead) :
    takeFresh s k (isProbe s lead) = (mark (dropInbox s k) q, some q) :=
  takeFresh_fresh hq ((by rw [isProbe, hpl] : isProbe s lead q = ((lantern s p sl).lead == lead)).trans (beq_iff_eq.mpr hlead)) hd hnet hvia hfresh

/-- A probe that comes to another cube than the leader's is held. -/
theorem probeArrival_holds {l : Lantern} (hpl : q.payload = .probe p sl l.round n black) (hl : lantern s p sl = l) (hen : l.en = true)
    (hgot : lantern (respond (mark (dropInbox s k) q) q 1 0) p sl = l) (hlead : l.lead = false) :
    probeArrival s k = putLantern (respond (mark (dropInbox s k) q) q 1 0) p sl { l with probe := some (n, black) } := by
  rw [probeArrival, takeFresh_probe hq hd hnet hvia hfresh hpl (by rw [hl, hlead])]
  dsimp only
  rw [hpl]
  dsimp only
  rw [hgot, hen, if_neg (by decide), if_neg (by omega)]

/-- A white probe with the count 0 that is back at a white leader ends the phase. -/
theorem probeReturn_ends {l : Lantern} (hpl : q.payload = .probe p sl l.round n false) (hl : lantern s p sl = l) (hen : l.en = true)
    (hgot : lantern (respond (mark (dropInbox s k) q) q 1 0) p sl = l) (hlead : l.lead = true) (hout : l.out = true) (hwhite : l.black = false)
    (hzero : n + lanternCount (respond (mark (dropInbox s k) q) q 1 0) p = 0) :
    probeReturn s k = sendLantern (endPhase (putLantern (putLantern (respond (mark (dropInbox s k) q) q 1 0) p sl { l with out := false }) p sl
      { l with out := false, done := true }) p l.entry) p sl (.lanternDone p sl) := by
  have hcount : BitVec.ofInt 64 (n + lanternCount (putLantern (respond (mark (dropInbox s k) q) q 1 0) p sl { l with out := false }) p) = 0 :=
    congrArg (BitVec.ofInt 64) hzero
  rw [probeReturn, takeFresh_probe hq hd hnet hvia hfresh hpl (by rw [hl, hlead])]
  dsimp only
  rw [hpl]
  dsimp only
  rw [hgot, hen, if_neg (by decide), hout, if_neg (by simp)]
  exact if_pos ⟨rfl, hwhite, hcount⟩

/-- The end of a phase goes on round the ring. -/
theorem lanternDone_goesOn {l : Lantern} (hpl : q.payload = .lanternDone p sl) (hen : l.en = true)
    (hgot : lantern (respond (mark (dropInbox s k) q) q 1 0) p sl = l) (hlead : l.lead = false) :
    lanternDone s k = sendLantern (endPhase (putLantern (respond (mark (dropInbox s k) q) q 1 0) p sl { l with done := true }) p l.entry) p sl
      (.lanternDone p sl) := by
  rw [lanternDone, takeFresh_fresh hq (by rw [hpl]) hd hnet hvia hfresh]
  dsimp only
  rw [hpl]
  dsimp only
  rw [hgot, hen, if_neg (by decide), hlead, if_neg Bool.false_ne_true]

end packets
end lantern

/-- Settles O50: the slot's registers, the round's start, and a probe on its way and back at the leader. -/
theorem lanternEvents : Obligations.LanternEvents := by
  intro s a p sl k v q l sent got fresh hp hsl
  obtain ⟨hdiv, hmod⟩ := slotOf_index p hsl
  refine ⟨fun hown hen => ⟨fun hv => ?_, ?_⟩, fun hen hlead hws => ⟨fun hout hround => ?_, fun hout htmo => ?_⟩,
    fun n black hprobe hen hws hround => ?_,
    fun n black ⟨hq, hd, hnet, hvia, hfresh⟩ hpl hen hgot => ⟨fun hlead => ?_, fun hlead hout hblack hwhite hzero => ?_⟩,
    fun ⟨hq, hd, hnet, hvia, hfresh⟩ hpl hen hlead hgot => ?_⟩
  · exact (exec_lanternSlotWrite a (p * 16 + sl) 0 v s).trans (congrArg Host.Outcome.next (slotWrite_enables hp hsl hown hen hv))
  · exact (exec_lanternSlotWrite a (p * 16 + sl) 1 v s).trans (congrArg Host.Outcome.next (slotWrite_timeout hp hsl hown hen))
  · refine (exec_lanternRoundStart (p * 16 + sl) s).trans (congrArg Host.Outcome.next ?_)
    rw [hdiv, hmod, roundStart_starts hen hlead hout hround hws]
    rfl
  · refine (exec_lanternTimeout (p * 16 + sl) s).trans (congrArg Host.Outcome.next ?_)
    rw [hdiv, hmod, lanternTimeout_starts hen hlead hout htmo hws]
    rfl
  · refine (exec_lanternProbeRelease (p * 16 + sl) s).trans (congrArg Host.Outcome.next ?_)
    rw [hdiv, hmod, probeRelease_goes hprobe hen hws hround]
  · exact (exec_lanternProbeArrival k s).trans (congrArg Host.Outcome.next
      (probeArrival_holds hq hd hnet hvia hfresh hpl rfl hen hgot hlead))
  · subst hblack
    exact (exec_lanternProbeReturn k s).trans (congrArg Host.Outcome.next
      (probeReturn_ends hq hd hnet hvia hfresh hpl rfl hen hgot hlead hout hwhite hzero))
  · exact (exec_lanternDoneMessage k s).trans (congrArg Host.Outcome.next (lanternDone_goesOn hq hd hnet hvia hfresh hpl hen hgot hlead))

end Sys2Proof.Machine
end

section
/-! PROOFS. Trap messages at their stewards and escorted pairs (R352, R372, R387, R388). -/

namespace Sys2Proof.Machine

-- One proof after the other: side by side they take more threads and memory than the check of the whole text has.
set_option Elab.async false

/-! ## Trap messages (R352, R372) -/

section messages
variable {s : State} {st p : Nat} {m : TrapMsg}

/-- The one message on its way has none before it. -/
theorem msgArrive_one (hf : s.msgFlight = [(st, m)]) : msgArrive s 0 =
    if (mget [] s.tmsgs st).length < msgCap ∧ msgSpilled s st = false then deliverMsg { s with msgFlight := [] } st m
    else if ((part s m.part).spillWait.head?.getD (.notice st m) == .notice st m) && spillFits s m.part 128 then
      updPart { s with msgFlight := [] } m.part fun q => { q with spill := q.spill ++ [.message st m], spillWait := q.spillWait.drop 1 }
    else if (part s m.part).spillWait.contains (.notice st m) then s
    else updPart (spillFull s m.part) m.part fun q => { q with spillWait := q.spillWait ++ [.notice st m] } := by
  rw [msgArrive, hf]
  rfl

/-- Nothing else waits for room before the message. -/
theorem isFirst_iff (l : List SpillItem) (i : SpillItem) : (l.head?.getD i == i) = true ↔ l = [] ∨ l.head? = some i := by
  cases l with
  | nil => simp
  | cons a l => simp

/-- Without room, or behind what waits for room, the message waits in its turn. -/
theorem msgArrive_waits (hf : s.msgFlight = [(st, m)]) (hfull : 256 ≤ (mget [] s.tmsgs st).length)
    (hnot : ¬ ((part s m.part).spillWait = [] ∨ (part s m.part).spillWait.head? = some (.notice st m)) ∨ spillFits s m.part 128 = false) :
    msgArrive s 0 = if (part s m.part).spillWait.contains (.notice st m) then s
      else updPart (spillFull s m.part) m.part fun q => { q with spillWait := q.spillWait ++ [.notice st m] } := by
  have hno : ¬ (((part s m.part).spillWait.head?.getD (.notice st m) == .notice st m) && spillFits s m.part 128) = true := by
    rw [Bool.and_eq_true_iff, isFirst_iff]
    rintro ⟨hfirst, hfits⟩
    exact hnot.elim (· hfirst) fun h => Bool.false_ne_true (h.symm.trans hfits)
  rw [msgArrive_one hf, if_neg fun h => Nat.not_le.mpr h.1 hfull, if_neg hno]

theorem updPart_congr {s : State} {p : Nat} {f g : Part → Part} (h : f (part s p) = g (part s p)) : updPart s p f = updPart s p g := by
  rw [updPart, updPart, h]

/-- The one message of the spill area returns to its steward. -/
theorem msgReturn_one (hspill : (part s p).spill = [.message st m]) (hroom : (mget [] s.tmsgs st).length < 256) :
    msgReturn s p = deliverMsg (updPart s p fun q => { q with spill := [] }) st m := by
  have herase : updPart s p (fun q => { q with spill := q.spill.erase (.message st m) }) = updPart s p fun q => { q with spill := [] } := by
    apply updPart_congr
    rw [hspill, List.erase_cons_head]
  have hfind : ∀ ok : SpillItem → Bool, ok (.message st m) = true → [SpillItem.message st m].find? ok = some (.message st m) :=
    fun _ h => List.find?_cons_of_pos h
  rw [msgReturn, hspill]
  rw [hfind _ (decide_eq_true hroom)]
  exact congrArg (deliverMsg · st m) herase

/-- With no traveller in WFM, and no slot or no handler's address, the message waits at its steward. -/
theorem tmsgs_deliverMsg (hw : wfmWaiters s st m.part = []) (hh : freeSlot s st = none ∨ mget 0 s.tvec (st * 32 + m.part) = 0) :
    mget [] (deliverMsg s st m).tmsgs st = mget [] s.tmsgs st ++ [m] := by
  have hw' : wfmWaiters { s with tmsgs := mput [] s.tmsgs st (mget [] s.tmsgs st ++ [m]) } st m.part = [] := hw
  have hstays : deliverMsg s st m = { s with tmsgs := mput [] s.tmsgs st (mget [] s.tmsgs st ++ [m]) } := by
    rw [deliverMsg]
    dsimp only
    rw [hw']
    dsimp only
    rcases hh with hfree | htvec
    · have hfree' : freeSlot { s with tmsgs := mput [] s.tmsgs st (mget [] s.tmsgs st ++ [m]) } st = none := hfree
      rw [hfree']
    · rw [htvec]
      split
      · rfl
      · rfl
  rw [hstays]
  exact mget_mput_same ..

end messages

/-! ## Escorted pairs (R387, R388) -/

section pairs
variable {s : State} {k : Nat} {a b : EscMsg}

theorem escortCompare_of (ha : s.net.escort[k]? = some a) (hb : escPartner s a = some b) : escortCompare s k =
    if a.hash ≠ b.hash then escDrop (escDrop s a) b
    else if (slot s a.core a.slot).twin then escForward s b a else escForward s a b := by
  rw [escortCompare, ha]
  dsimp only
  rw [hb]

theorem escortTimeout_alone (ha : s.net.escort[k]? = some a) (hb : escPartner s a = none) (hp : partnerOf (escDrop s a) a.core a.slot = none) :
    escortTimeout s k = escDrop s a := by
  rw [escortTimeout, ha]
  dsimp only
  rw [hb, if_neg (by decide), hp]

theorem escortTimeout_paired {d sl : Nat} (ha : s.net.escort[k]? = some a) (hb : escPartner s a = none)
    (hp : partnerOf (escDrop s a) a.core a.slot = some (d, sl)) : escortTimeout s k = addPending (escDrop s a) d sl (.escort a.addr) := by
  rw [escortTimeout, ha]
  dsimp only
  rw [hb, if_neg (by decide), hp]

end pairs

/-- Settles O51: a message by the room at its steward and in the spill area, a pair by its hashes. -/
theorem messageAndEscortEvents : Obligations.MessageAndEscortEvents := by
  refine fun s k p st m a b => ⟨fun hf hsp hroom => ?_, fun hf hfull => ⟨fun hfirst hfits => ?_, fun hnot => ⟨fun hin => ?_, fun hout => ?_⟩⟩,
    fun hspill hroom => ?_, fun hw hh => ⟨_, rfl, tmsgs_deliverMsg hw hh⟩, fun ha hb => ⟨fun heq htw => ?_, fun heq htw => ?_, fun hne => ?_⟩,
    fun ha hb => ⟨fun hp => ?_, fun d sl hp => ?_⟩⟩
  · exact (exec_trapMessageArrival 0 s).trans (congrArg Host.Outcome.next ((msgArrive_one hf).trans (if_pos ⟨hroom, hsp⟩)))
  · refine (exec_trapMessageArrival 0 s).trans (congrArg Host.Outcome.next ((msgArrive_one hf).trans ?_))
    rw [if_neg fun h => Nat.not_le.mpr h.1 hfull, if_pos (Bool.and_eq_true_iff.mpr ⟨(isFirst_iff ..).mpr hfirst, hfits⟩)]
  · exact (exec_trapMessageArrival 0 s).trans (congrArg Host.Outcome.next ((msgArrive_waits hf hfull hnot).trans (if_pos hin)))
  · exact (exec_trapMessageArrival 0 s).trans (congrArg Host.Outcome.next
      ((msgArrive_waits hf hfull hnot).trans (if_neg (ne_true_of_eq_false hout))))
  · exact (exec_trapMessageSpillReturn p s).trans (congrArg Host.Outcome.next (msgReturn_one hspill hroom))
  · exact (exec_escortCompare k s).trans (congrArg Host.Outcome.next ((escortCompare_of ha hb).trans
      ((if_neg fun h => h heq).trans (if_neg (ne_true_of_eq_false htw)))))
  · exact (exec_escortCompare k s).trans (congrArg Host.Outcome.next ((escortCompare_of ha hb).trans
      ((if_neg fun h => h heq).trans (if_pos htw))))
  · exact (exec_escortCompare k s).trans (congrArg Host.Outcome.next ((escortCompare_of ha hb).trans (if_pos hne)))
  · exact (exec_escortTimeout k s).trans (congrArg Host.Outcome.next (escortTimeout_alone ha hb hp))
  · exact (exec_escortTimeout k s).trans (congrArg Host.Outcome.next (escortTimeout_paired ha hb hp))

end Sys2Proof.Machine
end

section
/-! PROOFS. Integer VARITH operations lane by lane (R191, R200). -/

namespace Sys2Proof.Machine

-- One proof after the other: side by side they take more threads and memory than the check of the whole text has.
set_option Elab.async false

/-! ## The bytes of one lane -/

/-- The bytes that lane `i` writes. -/
def laneBytes (s : Nat) (f : Nat → Option (FRes × Bool)) (i : Nat) : List (Nat × Byte × Bool) := match f i with
  | none => []
  | some (r, p) => outElem s i r.bits p

theorem bytes_outLanes (n s : Nat) (f : Nat → Option (FRes × Bool)) : (outLanes n s f).bytes = (List.range n).flatMap (laneBytes s f) := by
  rw [outLanes]
  generalize List.range n = l
  induction l with
  | nil => rfl
  | cons i l ih =>
    rw [List.foldr_cons, List.flatMap_cons, ← ih, laneBytes]
    cases f i with
    | none => rfl
    | some r => rfl

theorem filter_outElem {s : Nat} (hs : 0 < s) (i k v : Nat) (p : Bool) :
    (outElem s k v p).filter (fun e => e.1 / s == i) = if k = i then outElem s k v p else [] := by
  have hlane : ∀ e ∈ outElem s k v p, e.1 / s = k := by
    intro e he
    obtain ⟨j, hj, rfl⟩ := List.mem_map.mp he
    rw [Nat.mul_add_div hs, Nat.div_eq_of_lt (List.mem_range.mp hj), Nat.add_zero]
  split
  · next h => exact List.filter_eq_self.mpr fun e he => beq_iff_eq.mpr ((hlane e he).trans h)
  · next h => exact List.filter_eq_nil_iff.mpr fun e he hb => h ((hlane e he).symm.trans (beq_iff_eq.mp hb))

theorem filter_laneBytes {s : Nat} (hs : 0 < s) (f : Nat → Option (FRes × Bool)) (i k : Nat) :
    (laneBytes s f k).filter (fun e => e.1 / s == i) = if k = i then laneBytes s f k else [] := by
  rw [laneBytes]
  cases f k with
  | none => exact (ite_self _).symm
  | some r => exact filter_outElem hs i k ..

/-- Of the bytes that all lanes write, those of lane `i`. -/
theorem filter_outLanes {n s i : Nat} (hs : 0 < s) (hi : i < n) (f : Nat → Option (FRes × Bool)) :
    (outLanes n s f).bytes.filter (fun e => e.1 / s == i) = laneBytes s f i := by
  rw [bytes_outLanes, List.filter_flatMap]
  induction n with
  | zero => exact absurd hi (Nat.not_lt_zero i)
  | succ n ih =>
    rw [List.range_succ, List.flatMap_append, List.flatMap_cons, List.flatMap_nil, List.append_nil, filter_laneBytes hs]
    rcases Nat.lt_succ_iff_lt_or_eq.mp hi with h | rfl
    · rw [ih h, if_neg (Nat.ne_of_gt h), List.append_nil]
    · have hnone : (List.range i).flatMap (fun k => (laneBytes s f k).filter fun e => e.1 / s == i) = [] := by
        refine List.flatMap_eq_nil_iff.mpr fun k hk => ?_
        rw [filter_laneBytes hs, if_neg (Nat.ne_of_lt (List.mem_range.mp hk))]
      rw [hnone, if_pos rfl, List.nil_append]

/-! ## The value of an operation -/

section values
variable {w : Nat}

theorem sgn_toNat (hw : 0 < w) (x : BitVec w) : sgn w x.toNat = x.toInt := by
  have hpow : 2 ^ w = 2 * 2 ^ (w - 1) := by rw [← pow_succ', Nat.sub_add_cancel hw]
  rw [sgn, BitVec.toInt_eq_toNat_cond, Nat.mod_eq_of_lt x.isLt]
  exact ite_congr (propext (by omega)) (fun _ => rfl) fun _ => rfl

theorem wrapTo_eq (w : Nat) (v : Int) : wrapTo w v = (BitVec.ofInt w v).toNat := (BitVec.toNat_ofInt v).symm

theorem ofInt_sub_toInt (x y : BitVec w) : BitVec.ofInt w (x.toInt - y.toInt) = x - y := by
  rw [Int.sub_eq_add_neg, BitVec.ofInt_add, BitVec.ofInt_neg, BitVec.ofInt_toInt, BitVec.ofInt_toInt, BitVec.sub_eq_add_neg]

/-- Clamped to the range, as a maximum of a minimum. -/
theorem clampTo_eq {lo hi : Int} (h : lo ≤ hi) (v : Int) : (clampTo lo hi v).1 = max lo (min hi v) := by
  unfold clampTo
  split
  · omega
  · split
    · omega
    · omega

/-- `v` clamped to the signed numbers of the width. -/
def clampedTo (w : Nat) (v : Int) : BitVec w := BitVec.ofInt w (max (-(2 ^ (w - 1))) (min (2 ^ (w - 1) - 1) v))

theorem clamped_bits (w : Nat) (v : Int) :
    wrapTo w (clampTo (-((2 ^ (w - 1) : Nat) : Int)) ((2 ^ (w - 1) : Nat) - 1) v).1 = (clampedTo w v).toNat := by
  have hpos : 0 < 2 ^ (w - 1) := Nat.two_pow_pos _
  rw [clampTo_eq (by omega), wrapTo_eq, clampedTo, Nat.cast_pow]
  rfl

/-- The value of an integer operation (R200). -/
def intValue (op : Nat) (a b d : BitVec w) : BitVec w := match op with
  | 0 => a + b | 1 => a - b | 2 => a * b
  | 3 => if a.toInt ≤ b.toInt then a else b | 4 => if a.toInt ≤ b.toInt then b else a
  | 5 => if a.toNat ≤ b.toNat then a else b | 6 => if a.toNat ≤ b.toNat then b else a
  | 7 => a &&& b | 8 => a ||| b | 9 => a ^^^ b
  | 10 => a <<< (b.toNat % w) | 11 => a >>> (b.toNat % w) | 12 => a.sshiftRight (b.toNat % w)
  | 13 => clampedTo w (a.toInt + b.toInt) | 14 => clampedTo w (a.toInt - b.toInt)
  | 15 => BitVec.ofInt w (a.toInt * b.toInt / 2 ^ w) | 16 => BitVec.ofNat w (a.toInt - b.toInt).natAbs
  | 17 => a * b + d | 18 => a * b - d | 21 => -a | _ => BitVec.ofNat w a.toInt.natAbs

theorem toNat_ite {p : Prop} [Decidable p] (x y : BitVec w) : (if p then x else y).toNat = if p then x.toNat else y.toNat := by
  split
  · rfl
  · rfl

theorem shiftLeft_bits (a : BitVec w) (n : Nat) : a.toNat * 2 ^ n % 2 ^ w = (a <<< n).toNat := by rw [BitVec.toNat_shiftLeft, Nat.shiftLeft_eq]

theorem wrapTo_shift (a : BitVec w) (n : Nat) : wrapTo w (a.toInt / ((2 ^ n : Nat) : Int)) = (a.sshiftRight n).toNat := by
  rw [wrapTo_eq, ← Int.shiftRight_eq_div_pow, ← BitVec.toInt_sshiftRight, BitVec.ofInt_toInt]

theorem wrapTo_mulHigh (a b : BitVec w) :
    wrapTo w (a.toInt * b.toInt / ((2 ^ w : Nat) : Int)) = (BitVec.ofInt w (a.toInt * b.toInt / 2 ^ w)).toNat := by
  rw [wrapTo_eq, Nat.cast_pow]
  rfl

theorem wrapTo_mulAdd (a b d : BitVec w) : wrapTo w (a.toInt * b.toInt + d.toInt) = (a * b + d).toNat := by
  rw [wrapTo_eq, BitVec.ofInt_add, BitVec.ofInt_mul, BitVec.ofInt_toInt, BitVec.ofInt_toInt, BitVec.ofInt_toInt]

theorem wrapTo_mulSub (a b d : BitVec w) : wrapTo w (a.toInt * b.toInt - d.toInt) = (a * b - d).toNat := by
  rw [wrapTo_eq, Int.sub_eq_add_neg, BitVec.ofInt_add, BitVec.ofInt_neg, BitVec.ofInt_mul, BitVec.ofInt_toInt, BitVec.ofInt_toInt,
    BitVec.ofInt_toInt, BitVec.sub_eq_add_neg]

theorem wrapTo_neg (a : BitVec w) : wrapTo w (-a.toInt) = (-a).toNat := by
  rw [wrapTo_eq, BitVec.ofInt_neg, BitVec.ofInt_toInt]

/-- The model computes that value from the bits of the elements. -/
theorem bits_vint (hw : 0 < w) {op : Nat} (hop : op < 23) (a b d : BitVec w) : (vint op w a.toNat b.toNat d.toNat).bits = (intValue op a b d).toNat := by
  unfold vint intValue
  rw [sgn_toNat hw, sgn_toNat hw, sgn_toNat hw]
  have hdefault : ∀ v : Int, v.natAbs % 2 ^ w = (BitVec.ofNat w v.natAbs).toNat := fun v => (BitVec.toNat_ofNat ..).symm
  interval_cases op
  · exact (BitVec.toNat_add ..).symm
  · exact (wrapTo_eq ..).trans (congrArg BitVec.toNat (ofInt_sub_toInt a b))
  · exact (BitVec.toNat_mul ..).symm
  · exact (toNat_ite a b).symm
  · exact (toNat_ite b a).symm
  · exact Nat.min_def.trans (toNat_ite a b).symm
  · exact Nat.max_def.trans (toNat_ite b a).symm
  · exact (BitVec.toNat_and ..).symm
  · exact (BitVec.toNat_or ..).symm
  · exact (BitVec.toNat_xor ..).symm
  · exact shiftLeft_bits a _
  · exact ((BitVec.toNat_ushiftRight ..).trans (Nat.shiftRight_eq_div_pow ..)).symm
  · exact wrapTo_shift a _
  · exact clamped_bits w _
  · exact clamped_bits w _
  · exact wrapTo_mulHigh a b
  · exact hdefault _
  · exact wrapTo_mulAdd a b d
  · exact wrapTo_mulSub a b d
  · exact hdefault _
  · exact hdefault _
  · exact wrapTo_neg a
  · exact hdefault _

end values

/-! ## The operation on the lanes -/

section lanes
variable {op ty i : Nat} {rm : Rm} {p : BitVec 256} {A B D : List Elem}

theorem vsize_pos (ty : Nat) : 0 < vsize ty := by
  unfold vsize
  split <;> decide

/-- A source element of the lane that the operation reads is poisoned. -/
def lanePoison (op i : Nat) (A B D : List Elem) : Bool :=
  (elemAt A i).2 || (op != 21 && op != 22 && (elemAt B i).2) || ((op == 17 || op == 18) && (elemAt D i).2)

/-- What an integer operation does in lane `i`. -/
theorem filter_varith (hty : ty < 4) (hi : i < 256 / vsize ty) (hop : op < 23) (h20 : op ≠ 20) :
    (varith op ty rm p A B D).bytes.filter (fun e => e.1 / vsize ty == i) =
      if p.getLsbD (vsize ty * i) then
        outElem (vsize ty) i (if lanePoison op i A B D then 0 else (vint op (8 * vsize ty) (elemAt A i).1 (elemAt B i).1 (elemAt D i).1).bits)
          (lanePoison op i A B D)
      else [] := by
  have hunary : (!unaryOp op && (elemAt B i).2) = (op != 21 && op != 22 && (elemAt B i).2) := by
    rw [unaryOp, beq_eq_false_iff_ne.mpr h20, Bool.false_or, Bool.not_or]
    rfl
  rw [varith]
  dsimp only
  rw [if_neg (by omega), if_neg (by omega), filter_outLanes (vsize_pos ty) hi, laneBytes, pbit, if_neg (show ¬ op = 28 by omega), if_neg (Nat.not_le.mpr hty), hunary]
  rw [show ((elemAt A i).2 || (op != 21 && op != 22 && (elemAt B i).2) || (readsD op && (elemAt D i).2)) = lanePoison op i A B D from rfl]
  cases p.getLsbD (vsize ty * i) with
  | false => rfl
  | true =>
    cases lanePoison op i A B D with
    | false => rfl
    | true => rfl

end lanes

/-- Settles O52: the bytes of a lane among those of all, and the value of each operation on the two's-complement numbers. -/
theorem vectorIntegerLanes : Obligations.VectorIntegerLanes := by
  intro op ty i rm p A B D sz w a b d lane clamp shift bad hty hi ha hb hd hop h19 h20
  have hlane : lane = _ := filter_varith (rm := rm) (p := p) (A := A) (B := B) (D := D) hty hi hop h20
  refine ⟨fun hp => ?_, fun hp hbad => ?_, fun v hp hbad hv => ?_⟩
  · rw [hlane, if_neg (ne_true_of_eq_false hp)]
  · rw [hlane, if_pos hp, show lanePoison op i A B D = true from hbad]
    rfl
  · have hvalue : v = intValue op a b d := hv
    have hbits := bits_vint (by have := vsize_pos ty; omega : 0 < w) hop a b d
    rw [BitVec.toNat_ofNat, BitVec.toNat_ofNat, BitVec.toNat_ofNat, Nat.mod_eq_of_lt ha, Nat.mod_eq_of_lt hb, Nat.mod_eq_of_lt hd, ← hvalue] at hbits
    rw [hlane, if_pos hp, show lanePoison op i A B D = false from hbad, if_neg Bool.false_ne_true, hbits]
    rfl

end Sys2Proof.Machine
end
